-- ==== Sys2Proof/Word.lean ====
section
/-! DEFINITION. The words of the device: the byte and the 32-bit register word (00 R5, R6). -/

namespace Sys2Proof

/-- One byte of host memory, of a frame body or of a descriptor. -/
abbrev Byte := BitVec 8

/-- One BAR 0 register word (24 R524). -/
abbrev Word := BitVec 32

/-- A 48-bit mains-phase time: 24-bit cycle count and 24-bit phase (02 R36). -/
abbrev Mpt := BitVec 48

end Sys2Proof
end

