-- ==== Sys2Proof/Syntax.lean ====
section
/-! DEFINITION. The commands of the block: one constructor of `Instr` per row of spec/opcode_table.json, and the types of
their operands. An operand is what the block cannot know by itself: what the host wrote, what a read of host memory
answered, what stands on its pins, what the analogue side measured, what a read of its own memory finds faulty. -/

namespace Sys2Proof

/-- A command descriptor as fetched, its 32 bytes at rising addresses (16 R392, Table CE.1), the bytes of its argument block where it has
one (none where the block read fails), and whether the write of its result block fails (16 Table CE.7). -/
structure CmdDesc where
  raw     : List Byte
  block   : Option (List Byte)
  resFail : Bool
  deriving DecidableEq, Repr

/-- One doorbell slot as read, its 32 bytes (15 R371, Table HR.4). `rdErr`: the read of the ring entries that the poll leads to returns
an error completion (15 R387). -/
structure DbSlot where
  raw   : List Byte
  rdErr : Bool
  deriving DecidableEq, Repr

/-- A DATA or BUF descriptor as fetched, its 32 bytes (15 R378, Table HR.7). -/
structure TxDesc where
  raw : List Byte
  deriving DecidableEq, Repr

/-- An RXBUF descriptor as fetched, its 32 bytes (15 R378, Table HR.7). -/
structure RxDesc where
  raw : List Byte
  deriving DecidableEq, Repr

/-- The queue or ring whose duplicated pointers disagree (17 R420). -/
inductive PtrTarget where
  | ring (fn : Fin 34) (slot : Fin 128)
  | queue (q : Nat)
  deriving DecidableEq, Repr

/-- What a scrub read of one protected word finds (18 R427, R432). -/
inductive ScrubResult where
  | clean | corrected | uncorrectable
  deriving DecidableEq, Repr

/-- What a modulator captured, in runs, oldest first: how many equal bits, and which (13 R331). -/
abbrev BitRuns := List (Nat × Bool)

/-- What stands at a port's receive pins, in runs of converter samples, oldest first: how many, and the differential voltage in µV (03 R65). -/
abbrev PinRuns := List (Nat × Int)

/-- A tap field: stream code and port (05 R133). -/
structure Tap where
  code : Nat
  port : Nat
  deriving DecidableEq, Repr

/-- An allocation (10 R253, Table GC.5). -/
structure Alloc where
  start : Nat
  len   : Nat
  addr  : Nat
  dir   : Bool
  form  : Nat
  cpl   : Nat
  kind  : Nat
  deriving DecidableEq, Repr

/-- A schedule entry for a decode lane (05 R121, 10 Table GC.6): the slots it holds, its taps, whether it names an echo
tap, whether it is a capture, the gain it gives, and the short address and kind of the allocation it serves. -/
structure DecEntry where
  lane    : Nat
  start   : Nat
  len     : Nat
  taps    : List Tap
  stap    : Option Tap
  echo    : Bool
  capture : Bool
  gain    : Option Nat
  addr    : Nat
  kind    : Nat
  deriving DecidableEq, Repr

/-- A schedule entry for an encode lane: its slots, the ports it drives, the coupling of its link, the short address,
kind, direction and planned form of the allocation it serves. -/
structure EncEntry where
  lane  : Nat
  start : Nat
  len   : Nat
  outs  : List Nat
  cpl   : Nat
  addr  : Nat
  kind  : Nat
  dir   : Bool
  form  : Nat
  deriving DecidableEq, Repr

/-- The schedule of one beacon period of a group (10 R256): the beacon region, the allocations, the lane entries, and the
access-slot length (R258). -/
structure Plan where
  brlen  : Nat
  caSlot : Nat
  allocs : List Alloc
  decs   : List DecEntry
  encs   : List EncEntry
  deriving DecidableEq, Repr

/-- Which downlink frame an encode lane starts (10 R256, 12 R316): the next frame of the allocation's node, a broadcast frame of the
group, or sounding frame `seq` of a session. -/
inductive TxWhat where
  | node
  | broadcast
  | sound (nh : Nat) (seq : Nat) (last : Nat) (nsym : Nat)
  deriving DecidableEq, Repr

/-- How an encode lane's words of a frame reach the fabric: runs (first sample from the frame's first, length) that are written later than 32
beats ahead (05 R124), and runs with a wrong strobe (05 R120). -/
structure LaneWrites where
  late : List (Nat × Nat)
  badS : List (Nat × Nat)
  deriving DecidableEq, Repr

/-- What the reads behind a frame find (18 Table IN.3, 19 R456): blocks of it, by their place in the frame, that lie in a faulty cell of the
frame store, each with the cell; blocks with a bit that a parity error of the lane's working memory touches, none where there is no error;
whether the key slot read holds an uncorrectable error. -/
structure MemFaults where
  cells : List (Nat × Nat)
  lane  : Option (List Nat)
  key   : Bool
  deriving DecidableEq, Repr

/-- An image source as the root of trust reads it (19 R443, R446): its bytes from the first on, those not listed being 0, and the step of
Table SE.5 at which a read fails, if any. -/
structure BootSrc where
  bytes    : List Byte
  readFail : Option Nat
  deriving DecidableEq, Repr

/-- What the boot ROM meets (19 R445, R446, R458): the engines' known-answer tests, the TRNG start-up tests, the nonce it draws, what is
shifted into the token register before step 3, whether the flash has slot B, both slots, and the step at which a read of the staged
image fails. -/
structure BootIo where
  katOk      : Bool
  trngOk     : Bool
  nonce      : BitVec 256
  token      : List Byte
  hasB       : Bool
  slotA      : BootSrc
  slotB      : BootSrc
  stagedFail : Option Nat
  deriving DecidableEq, Repr

/-- What a Marimba scrub reads (18 R432): a cache line, or one copy of a key in the backing store. -/
inductive MarPlace where
  | line (n : Nat)
  | copy (nh : Nat) (up : Bool) (seg : Nat) (shadow : Bool)
  deriving DecidableEq, Repr

/-- The item that holds a scrubbed frame-store cell: a block in reassembly, chunk `idx` of an MSDU that waits for delivery or
for its forward, block `idx` of a downlink MSDU (log 14). -/
inductive CellUse where
  | part (nh : Nat)
  | rx (g : Nat) (nh : Nat) (seq : Nat) (idx : Nat)
  | fwd (id : Nat) (idx : Nat)
  | tx (id : Nat) (idx : Nat)
  deriving DecidableEq, Repr

/-- The measurements of a converter calibration (03 R79, Table LP.10): receive offsets in codes, trims, and gain errors in
1/1000 dB: MADC against SADC, LDAC and CDAC against nominal. -/
structure CalResult where
  sadcOfs  : Int
  madcOfs  : Int
  ldacTrim : Int
  ratioErr : Int
  ldacErr  : Int
  cdacErr  : Int
  deriving DecidableEq, Repr

/-- The result of a cold training (04 R98-R100): the bulk delay where one was found, the samples (from the training's first) at which the
MADC gave a limit code, E and U of the port by source slot in 0.25 dB as measured, and E and U of the group's other slots for this port as
source; the coefficients fitted: pre-canceller, time-domain canceller, the port's residual tables by source slot, and those of the other
slots for this port as source. -/
structure TrainResult where
  bulk    : Option Nat
  clips   : List Nat
  lvl     : List (Nat × Int × Int)
  others  : List (Nat × Int × Int)
  pre     : List Int
  td      : List Int
  tabs    : List (Nat × List (Int × Int))
  otherTabs : List (Nat × List (Int × Int))
  deriving DecidableEq, Repr

/-- A residue window (04 R104): the running estimate at each block of 16 samples, in 0.25 dB as measured, and what stood at the receive
pins. -/
structure WindowObs where
  ests : List Int
  pins : PinRuns
  deriving DecidableEq, Repr

/-- An access on the JTAG pins (19 R457, R458): boundary scan, IDCODE, a read of the nonce register, a write of the token register, or
a debug access: which space (0 core run control, 1 core memory, 2 lanes, 3 Carillon, 4 port DSP, 5 root-of-trust memory,
6 OTP, 7 PUF, 8 line-crypto key memory), the address, and the word written where it is a write. -/
inductive JtagAccess where
  | boundary (cells : List Bool)
  | idcode
  | nonce
  | token (bytes : List Byte)
  | debug (space : Nat) (addr : Nat) (write : Option (BitVec 32))
  deriving DecidableEq, Repr

/-- The commands of the block, one constructor per row of spec/opcode_table.json. -/
inductive Instr where
  /-- REGISTER_WRITE (R11). -/
  | registerWrite (off : BitVec 24) (size : Nat) (data : BitVec 64)
  /-- LOCK_SET (R8). -/
  | lockSet (off : BitVec 24) (data : BitVec 32)
  /-- MPT_NOW_LO_READ (R63). -/
  | mptNowLoRead
  /-- QUEUE_DIRECT_READ (R412). -/
  | queueDirectRead (q : Nat)
  /-- QUEUE_OCC_READ (R426). -/
  | queueOccRead (q : Nat)
  /-- WATERMARK_ARM (R418). -/
  | watermarkArm (q : Nat) (data : BitVec 32)
  /-- CVU_GO (R434). -/
  | cvuGo (u : Fin 4) (data : BitVec 32) (readErr : Bool)
  /-- CVU_HALT (R435). -/
  | cvuHalt (u : Fin 4) (data : BitVec 32)
  /-- CVU_FEED (R434). -/
  | cvuFeed (u : Fin 4) (data : BitVec 32)
  /-- CVU_SCAN_DONE (R434). -/
  | cvuScanDone (u : Fin 4) (bytes : List Byte) (readErr : Bool)
  /-- VIN_VALID (R492). -/
  | vinValid (mv : Nat) (checkOk : Bool)
  /-- BROWN_OUT (R493). -/
  | brownOut
  /-- POWER_CYCLE (R494). -/
  | powerCycle
  /-- VIN_MEASUREMENT (R492). -/
  | vinMeasurement (mv : Nat)
  /-- DERATE_DECREASE (R76). -/
  | derateDecrease (p : Fin 128)
  /-- V33_OVERCURRENT (R497). -/
  | v33Overcurrent
  /-- V33_RETRY (R497). -/
  | v33Retry (overload : Bool)
  /-- PERST_FALL (R498). -/
  | perstFall
  /-- PERST_RISE (R498). -/
  | perstRise (bootsel : BitVec 2) (io : BootIo)
  /-- BOOT_COMPLETE (R445). -/
  | bootComplete
  /-- BOOT_FAIL (R447). -/
  | bootFail
  /-- IMAGE_COMMIT_DONE (R448). -/
  | imageCommitDone (readBack : List Byte)
  /-- TRNG_HEALTH_FAIL (R450). -/
  | trngHealthFail
  /-- WATCHDOG_EXPIRY (R481). -/
  | watchdogExpiry (core : Fin 4) (ms : BitVec 16)
  /-- CLOCK_LOSS (R481). -/
  | clockLoss (core : Bool)
  /-- CRIT_MEM_FAULT (R481). -/
  | critMemFault (addr : BitVec 32) (grp : Option (Fin 32))
  /-- TALERT_ASSERT (R504). -/
  | talertAssert (n : Fin 8) (temp : Int)
  /-- TALERT_RELEASE (R504). -/
  | talertRelease (temps : List Int)
  /-- QUADRANT_SHUTDOWN (R504). -/
  | quadrantShutdown (q : Fin 4) (temp : Int)
  /-- QUADRANT_POWER_UP (R504). -/
  | quadrantPowerUp (q : Fin 4) (temp : Int)
  /-- THERMAL_SHUTDOWN (R504). -/
  | thermalShutdown (n : Fin 8) (temp : Int)
  /-- HALF_CYCLE_DETECT (R42). -/
  | halfCycleDetect (pri : BitRuns) (alt : BitRuns)
  /-- TIMEBASE_LOCK (R45). -/
  | timebaseLock
  /-- TIMEBASE_UNLOCK (R45). -/
  | timebaseUnlock
  /-- REF_SWITCH (R41). -/
  | refSwitch
  /-- LOSS_OF_MAINS (R48). -/
  | lossOfMains
  /-- HOLDOVER_END (R49). -/
  | holdoverEnd
  /-- MPT_ANCHOR (R50). -/
  | mptAnchor
  /-- MSYNC_EDGE (R56). -/
  | msyncEdge (agoNs : Nat) (falling : Bool)
  /-- MSYNC_STEP (R58). -/
  | msyncStep
  /-- MSYNC_MISS (R59). -/
  | msyncMiss
  /-- DEV_START (R31). -/
  | devStart (d : CmdDesc)
  /-- DEV_STOP (R31). -/
  | devStop (d : CmdDesc)
  /-- DEV_RESET (R405). -/
  | devReset (d : CmdDesc) (io : BootIo)
  /-- FN_RESET (R485). -/
  | fnReset (d : CmdDesc)
  /-- GRP_SETUP (R397). -/
  | grpSetup (d : CmdDesc)
  /-- GRP_START (R502). -/
  | grpStart (d : CmdDesc)
  /-- GRP_STOP (R34). -/
  | grpStop (d : CmdDesc)
  /-- PORT_RECAL (R478). -/
  | portRecal (d : CmdDesc)
  /-- ECH_TRAIN (R478). -/
  | echTrain (d : CmdDesc)
  /-- MASK_LOAD (R398). -/
  | maskLoad (d : CmdDesc)
  /-- SHAPE_LOAD (R162). -/
  | shapeLoad (d : CmdDesc)
  /-- SHAPE_SWAP (R160). -/
  | shapeSwap (d : CmdDesc)
  /-- POLICY_SET (R399). -/
  | policySet (d : CmdDesc)
  /-- ADMIT_MODE (R275). -/
  | admitMode (d : CmdDesc)
  /-- ADMIT_DECIDE (R265). -/
  | admitDecide (d : CmdDesc)
  /-- NODE_EVICT (R269). -/
  | nodeEvict (d : CmdDesc)
  /-- NODE_READ (R301). -/
  | nodeRead (d : CmdDesc)
  /-- NODE_ROUTE (R295). -/
  | nodeRoute (d : CmdDesc)
  /-- NODE_DORMANT (R307). -/
  | nodeDormant (d : CmdDesc)
  /-- SOUND (R241). -/
  | sound (d : CmdDesc)
  /-- FWD_SET (R400). -/
  | fwdSet (d : CmdDesc)
  /-- KEK_SET (R453). -/
  | kekSet (d : CmdDesc)
  /-- KEY_LOAD (R454). -/
  | keyLoad (d : CmdDesc)
  /-- KEY_INVAL (R456). -/
  | keyInval (d : CmdDesc)
  /-- MEAS_CFG (R336). -/
  | measCfg (d : CmdDesc)
  /-- MEAS_START (R401). -/
  | measStart (d : CmdDesc)
  /-- MEAS_STOP (R337). -/
  | measStop (d : CmdDesc)
  /-- SWO_SUBMIT (R402). -/
  | swoSubmit (d : CmdDesc)
  /-- SWO_CANCEL (R355). -/
  | swoCancel (d : CmdDesc)
  /-- PHASE_SEND (R359). -/
  | phaseSend (d : CmdDesc)
  /-- AUDIT (R423). -/
  | audit (d : CmdDesc)
  /-- CNT_SET (R467). -/
  | cntSet (d : CmdDesc)
  /-- CNT_SNAP (R466). -/
  | cntSnap (d : CmdDesc)
  /-- TRACE_CFG (R468). -/
  | traceCfg (d : CmdDesc)
  /-- CAPTURE (R403). -/
  | capture (d : CmdDesc)
  /-- CAPTURE_NO_LANE (R403). -/
  | captureNoLane
  /-- CAPTURE_RECORD_WRITE (R403). -/
  | captureRecordWrite (sidx : BitVec 64) (pins : List PinRuns) (lost : Bool)
  /-- FW_STAGE (R404). -/
  | fwStage (d : CmdDesc) (readFail : Option Nat)
  /-- ATTEST (R452). -/
  | attest (d : CmdDesc)
  /-- DOORBELL_POLL (R372). -/
  | doorbellPoll (fn : Fin 34) (slots : Option (List DbSlot))
  /-- RING_STOPPING_END (R374). -/
  | ringStoppingEnd (fn : Fin 34) (slot : Fin 128)
  /-- STATUS_PAGE_WRITE (R375). -/
  | statusPageWrite (fn : Fin 34) (slot : Fin 128) (ok : Bool)
  /-- CHAIN_FETCH (R379). -/
  | chainFetch (fn : Fin 34) (slot : Fin 128) (descs : Option (List TxDesc)) (payload : List Byte)
  /-- RX_BUFFER_TAKE (R383). -/
  | rxBufferTake (fn : Fin 34) (slot : Fin 128) (desc : Option RxDesc)
  /-- RX_DELIVERY (R384). -/
  | rxDelivery (g : Fin 32) (cells : List (Nat × Nat))
  /-- RX_HOLD_EXPIRY (R385). -/
  | rxHoldExpiry (g : Fin 32)
  /-- MSIX_MODERATION_EXPIRY (R386). -/
  | msixModerationExpiry (fn : Fin 34) (slot : Fin 128)
  /-- MSIX_UNMASK (R386). -/
  | msixUnmask (fn : Fin 34) (vec : Fin 128)
  /-- FN_ENABLE (R368). -/
  | fnEnable (fn : Fin 34) (dbp : BitVec 64) (stp : BitVec 64)
  /-- FN_DISABLE (R368). -/
  | fnDisable (fn : Fin 34)
  /-- FLR (R485). -/
  | flr (fn : Fin 34)
  /-- VF_ENABLE_CHANGE (R366). -/
  | vfEnableChange (en : Bool) (numVfs : Nat)
  /-- BUS_MASTER_ENABLE_CHANGE (R372). -/
  | busMasterEnableChange (fn : Fin 34) (en : Bool)
  /-- LOSSY_QUEUE_DRAIN (R411). -/
  | lossyQueueDrain (q : Fin 11)
  /-- CREDIT_GRANT (R416). -/
  | creditGrant
  /-- QUEUE_POINTER_FAULT (R420). -/
  | queuePointerFault (tgt : PtrTarget)
  /-- FRAME_STORE_SCRUB (R432). -/
  | frameStoreScrub (cell : Nat) (res : ScrubResult) (use : Option CellUse)
  /-- MARIMBA_SCRUB (R432). -/
  | marimbaScrub (where_ : MarPlace) (res : ScrubResult) (commits : Bool)
  /-- COUNTER_SWEEP (R463). -/
  | counterSweep
  /-- MAINT_GRANT (R475). -/
  | maintGrant
  /-- SLOT_BOUNDARY (R127). -/
  | slotBoundary (unit : Nat)
  /-- BINDING_DELIVERY (R126). -/
  | bindingDelivery (unit : Nat) (late : List Nat)
  /-- TONE_MAP_FETCH (R233). -/
  | toneMapFetch (bp : BitVec 23) (unit : Nat) (corrected : Nat) (uncorrectable : List Nat)
  /-- SCHEDULE_FREEZE (R256). -/
  | scheduleFreeze (g : Fin 32) (plan : Plan)
  /-- SCHEDULE_LATE (R257). -/
  | scheduleLate (g : Fin 32)
  /-- BEACON_TX (R249). -/
  | beaconTx (g : Fin 32) (w : LaneWrites) (x : MemFaults)
  /-- FRAME_TX_START (R156). -/
  | frameTxStart (lane : Fin 96) (what : TxWhat) (w : LaneWrites) (x : MemFaults)
  /-- ACK_TX (R282). -/
  | ackTx (lane : Fin 96) (w : LaneWrites) (parity : Bool)
  /-- ACK_RECEIVED (R285). -/
  | ackReceived (lane : Fin 96)
  /-- ACK_TIMEOUT (R285). -/
  | ackTimeout (nh : Fin 16384)
  /-- MSDU_LIFE_EXPIRY (R288). -/
  | msduLifeExpiry (nh : Fin 16384)
  /-- PREAMBLE_DETECT (R172). -/
  | preambleDetect (lane : Fin 96) (pins : List PinRuns)
  /-- TIMING_ACQUIRED (R173). -/
  | timingAcquired (lane : Fin 96) (pins : List PinRuns)
  /-- SYNC_WORD_DECISION (R174). -/
  | syncWordDecision (lane : Fin 96) (pins : List PinRuns)
  /-- FRAME_CONTROL_DECODE (R175). -/
  | frameControlDecode (lane : Fin 96)
  /-- SECOND_SYNC_ACCEPT (R183). -/
  | secondSyncAccept (lane : Fin 96) (pins : List PinRuns)
  /-- CAPTURE_WINDOW_CLOSE (R183). -/
  | captureWindowClose (lane : Fin 96)
  /-- SYMBOL_DEMODULATE (R209). -/
  | symbolDemodulate (lane : Fin 96) (pins : List PinRuns) (upset : Option (List Nat))
  /-- TRANSIENT_REPORT (R210). -/
  | transientReport (p : Fin 128) (pins : PinRuns)
  /-- PB_DECODE_DONE (R197). -/
  | pbDecodeDone (lane : Fin 96) (x : MemFaults)
  /-- FWD_WAIT_TIMEOUT (R300). -/
  | fwdWaitTimeout (id : Nat)
  /-- ASSOC_REQ (R265). -/
  | assocReq (g : Fin 32) (body : List Byte)
  /-- ZC_REPORT (R271). -/
  | zcReport (nh : Fin 16384) (body : List Byte)
  /-- SOUND_REPORT (R224). -/
  | soundReport (nh : Fin 16384) (body : List Byte)
  /-- LEAVE (R267). -/
  | leave (nh : Fin 16384)
  /-- KEEPALIVE (R262). -/
  | keepalive (nh : Fin 16384)
  /-- DORM_REQ (R306). -/
  | dormReq (nh : Fin 16384) (body : List Byte)
  /-- POLL_RECEIVED (R315). -/
  | pollReceived (lane : Fin 96)
  /-- POLL_MISS (R319). -/
  | pollMiss (nh : Fin 16384)
  /-- HELD_LIFE_EXPIRY (R323). -/
  | heldLifeExpiry (nh : Fin 16384)
  /-- ADMIT_ASK_TIMEOUT (R265). -/
  | admitAskTimeout (nh : Fin 16384)
  /-- ADMIT_TIMEOUT (R267). -/
  | admitTimeout (nh : Fin 16384)
  /-- SILENT_TIMEOUT (R267). -/
  | silentTimeout (nh : Fin 16384)
  /-- LOST_EVICT_TIMEOUT (R267). -/
  | lostEvictTimeout (nh : Fin 16384)
  /-- EVICTED_RELEASE (R267). -/
  | evictedRelease (nh : Fin 16384)
  /-- SOUND_SESSION_END (R223). -/
  | soundSessionEnd (nh : Fin 16384)
  /-- SOUND_REPORT_TIMEOUT (R223). -/
  | soundReportTimeout (nh : Fin 16384)
  /-- MAP_UPDATE_DEADLINE (R230). -/
  | mapUpdateDeadline (nh : Fin 16384) (up : Bool)
  /-- MAP_COMMIT (R232). -/
  | mapCommit (nh : Fin 16384) (up : Bool)
  /-- MASK_EFFECTIVE (R153). -/
  | maskEffective (g : Fin 32)
  /-- FADE_END (R159). -/
  | fadeEnd (p : Fin 128)
  /-- DRIVER_OVERCURRENT (R77). -/
  | driverOvercurrent (p : Fin 128) (amps : List (Nat × Nat))
  /-- DRIVER_THERMAL_FAULT (R77). -/
  | driverThermalFault (p : Fin 128) (temp : Int)
  /-- DRIVER_FAULT_CLEAR (R78). -/
  | driverFaultClear (p : Fin 128) (temp : Int)
  /-- PORT_CAL_DONE (R79). -/
  | portCalDone (p : Fin 128) (res : CalResult)
  /-- ECH_TRAINING_START (R99). -/
  | echTrainingStart (p : Fin 128)
  /-- ECH_TRAINING_DONE (R100). -/
  | echTrainingDone (p : Fin 128) (res : TrainResult)
  /-- QUIET_INTERVAL_END (R97). -/
  | quietIntervalEnd (p : Fin 128) (q : Fin 4) (e : Int) (u : Int)
  /-- ECH_WINDOW_END (R104). -/
  | echWindowEnd (p : Fin 128) (obs : WindowObs)
  /-- ECH_DIV_LIMIT (R106). -/
  | echDivLimit (p : Fin 128)
  /-- MODULATOR_FAULT (R330). -/
  | modulatorFault (i : Fin 104) (value : Bool) (clocks : Nat)
  /-- MODULATOR_FAULT_CLEAR (R330). -/
  | modulatorFaultClear (i : Fin 104) (value : Bool)
  /-- SET_SYNC_POINT (R338). -/
  | setSyncPoint (k : Fin 8)
  /-- MEAS_OUTPUT (R340). -/
  | measOutput (k : Fin 8) (bits : List (List Bool))
  /-- DERIVED_CYCLE_END (R345). -/
  | derivedCycleEnd (bits : List (List Bool))
  /-- SWO_COMMIT (R354). -/
  | swoCommit (id : Nat)
  /-- SWO_EDGE (R352). -/
  | swoEdge (id : Nat)
  /-- SWO_PULSE_END (R352). -/
  | swoPulseEnd (id : Nat)
  /-- SWO_READBACK (R350). -/
  | swoReadback (id : Nat) (pin : Bool)
  /-- LINK_DISCARD (R407). -/
  | linkDiscard (nh : Fin 16384) (st : BitVec 8)
  /-- RX_DROP (R407). -/
  | rxDrop (g : Fin 32)
  /-- CONVERTER_PLL_LOCK (R50). -/
  | converterPllLock
  /-- PCIE_LINK_TRAINED (R500). -/
  | pcieLinkTrained (width : BitVec 4) (speed : BitVec 3)
  /-- JTAG_TAP_ACCESS (R457). -/
  | jtagTapAccess (acc : JtagAccess)
  deriving DecidableEq, Repr

end Sys2Proof
end

