-- ==== Sys2Proof/Decode.lean ====
section
/-! DEFINITION. The word decoder over the rows of spec/opcode_table.json that give bits. No row of this block's table
gives bits (log 4): its commands are register accesses, descriptors and events, whose operands no single word spells, so
no word spells a command. -/

namespace Sys2Proof

/-- The command that a word of `nbits` bits spells by the table's bits: none (log 4). -/
def decodeTableWord (_nbits _w : Nat) : Option Instr := none

end Sys2Proof
end

