-- ==== Sys2Proof/Config.lean ====
section
/-! DEFINITION. What the spec leaves open: free values and functions without a body (log 3). Nothing in Lean can prove a
value of one; a statement that meets one holds for every value of it. -/

namespace Sys2Proof.Config

/-- A fresh value that nothing constrains, numbered by the model's own counter `freeCtr` (log 3). -/
opaque freeWord : Nat → BitVec 64

/-- The coefficients of the second-order loop for a closed-loop -3 dB bandwidth in millihertz and a damping in 1/1,000: PU of phase
correction and steps of `MPT_FREQ` per PU of phase error, both in 2^-32 (02 R43: the numbers are not given). -/
opaque loopCoef : Nat → Nat → Nat × Nat

/-- Tap `t` of ROM response `r` of the measurement FIR: fixed in silicon, its values not given (13 R333, R334). -/
opaque romCoef : Nat → Nat → BitVec 18

/-- The fixed interpolator of the encode lanes (06 R140) by profile: the processing samples it spans. -/
opaque interpSpan : Nat → Nat

/-- Its impulse response by profile, at 1.25 GS/s, in 2^-32. -/
opaque interpCoef : Nat → Nat → Int

/-- The training symbols' QPSK value by slot, symbol and carrier (04 R99: internal to the device). -/
opaque trainQpsk : Nat → Nat → Nat → BitVec 2

/-- The time-domain coefficients after one block of 16 samples of normalised least mean squares (04 R102: the block's arithmetic is not
given): from the step exponent, the coefficients before it, the references and the residues. -/
opaque nlms : Nat → List Int → List Int → List Int → Nat → Int

/-- The refit of the pre-canceller from the correlation gathered in a slot (04 R105: the fit is not given), tap by tap. -/
opaque refit : List Int → List Int → Nat → Int

/-- A coefficient of a residual table after a frame (04 R95: how a lane refines it is not given): from the table, what the tap received on the
pilots of the frame, and the block. -/
opaque refine : List (Int × Int) → List (Nat × Int × Int) → Nat → Int × Int

/-- The identity seed S, reconstructed from the PUF (19 R449; log 3). -/
opaque idSeed : BitVec 256

/-- The boot ROM as held in silicon (19 R451; log 3). -/
opaque bootRom : List Byte

end Sys2Proof.Config
end

