-- ==== Sys2Proof/Machine/Bits.lean ====
section
/-! DEFINITION. Bit fields, signs and byte order (00 R5, R6, R13): the helpers every other file reads words with. -/

namespace Sys2Proof.Machine

/-- Bits `hi` down to `lo` of a natural number (00 R5). -/
def bits (v hi lo : Nat) : Nat := (v / 2 ^ lo) % 2 ^ (hi + 1 - lo)

/-- Bit `i`. -/
def bit (v i : Nat) : Bool := (v / 2 ^ i) % 2 = 1

/-- A Bool as 0 or 1. -/
def b2n (b : Bool) : Nat := if b then 1 else 0

/-- `v` with bits `hi` down to `lo` replaced by `x`. -/
def setBits (v hi lo x : Nat) : Nat :=
  let w := 2 ^ (hi + 1 - lo)
  v - ((v / 2 ^ lo) % w) * 2 ^ lo + (x % w) * 2 ^ lo

/-- The two's-complement reading of the low `w` bits (00 R13). -/
def signed (w v : Nat) : Int :=
  let x := v % 2 ^ w
  if 2 ^ (w - 1) ≤ x then (x : Int) - (2 ^ w : Nat) else (x : Int)

/-- The low `w` bits that hold the integer `i` in two's complement. -/
def unsigned (w : Nat) (i : Int) : Nat := (i % ((2 ^ w : Nat) : Int)).toNat

/-- The absolute value. -/
def absI (i : Int) : Int := if i < 0 then -i else i

/-- `i` limited to the range `lo` to `hi`. -/
def clampI (lo hi i : Int) : Int := if i < lo then lo else if hi < i then hi else i

/-- Round a ratio of integers to the nearest integer, halves upward. -/
def roundDiv (a : Int) (b : Nat) : Int := (2 * a + (b : Int)).fdiv (2 * (b : Int))

/-- The little-endian value of a byte list (00 R6). -/
def leNat : List Byte → Nat
  | [] => 0
  | b :: rest => b.toNat + 256 * leNat rest

/-- `n` bytes of `v`, least significant first (00 R6). -/
def leBytes : Nat → Nat → List Byte
  | 0, _ => []
  | n + 1, v => BitVec.ofNat 8 v :: leBytes n (v / 256)

/-- Bytes `from` to `from + n - 1` of a list, absent bytes as 0. -/
def bytesAt (bs : List Byte) (start n : Nat) : List Byte :=
  let s := (bs.drop start).take n
  s ++ List.replicate (n - s.length) 0

/-- The little-endian number in `n` bytes from `start`. -/
def leAt (bs : List Byte) (start n : Nat) : Nat := leNat ((bs.drop start).take n)

/-- One byte as a number, 0 past the end. -/
def byteAt (bs : List Byte) (i : Nat) : Nat := (bs.getD i 0).toNat

/-- A list padded with zero bytes, or cut, to `n` bytes. -/
def fit (n : Nat) (bs : List Byte) : List Byte := bytesAt bs 0 n

/-- The bits of a byte list in transmission order of the frame control: bit 7 first. -/
def byteBitsMsb (b : Byte) : List Bool :=
  [bit b.toNat 7, bit b.toNat 6, bit b.toNat 5, bit b.toNat 4, bit b.toNat 3, bit b.toNat 2, bit b.toNat 1,
   bit b.toNat 0]

/-- Set bit `i` of a number. -/
def setBit (v i : Nat) : Nat := if bit v i then v else v + 2 ^ i

/-- How many of the low `n` bits are 1. -/
def popcount : Nat → Nat → Nat
  | 0, _ => 0
  | n + 1, v => v % 2 + popcount n (v / 2)

/-- Replace element `i` of a list. -/
def setAt {α : Type} (l : List α) (i : Nat) (v : α) : List α := l.set i v

/-- Change element `i` of a list. -/
def modAt {α : Type} (l : List α) (i : Nat) (f : α → α) : List α := l.modify i f

/-- Apply `f` for 0, 1, … n - 1 in rising order. -/
def iter {α : Type} (n : Nat) (f : Nat → α → α) (a : α) : α :=
  (List.range n).foldl (fun x i => f i x) a

/-- Split a list into pieces of `n`, with fuel for the number of pieces. -/
def chunks {α : Type} (n : Nat) : Nat → List α → List (List α)
  | 0, _ => []
  | fuel + 1, l => match l with
    | [] => []
    | _ => l.take n :: chunks n fuel (l.drop n)

end Sys2Proof.Machine
end

