-- ==== Sys2Proof/Machine/Trig.lean ====
section
/-! DEFINITION. Fixed-point arithmetic with 64 fractional bits: sine and cosine, the angle of a vector, square roots. The spec states no
precision for what it computes with them (log 30). -/

namespace Sys2Proof.Machine

/-- One in fixed point. -/
def fixOne : Int := 2 ^ 64

/-- A quarter turn in radians, in fixed point. -/
def fixHalfPi : Nat := 28976077832308491369

/-- A Taylor series in Horner form: each step multiplies by the square of the angle, divides by the product of two orders, and takes the
result from one. -/
def fixHorner (xx : Nat) (l : List Nat) : Nat := l.foldl (fun h k => 2 ^ 64 - xx * h / (k * 2 ^ 64)) (2 ^ 64)

/-- Cosine and sine of an angle in radians up to an eighth of a turn. -/
def fixOctant (x : Nat) : Nat × Nat :=
  let xx := x * x / 2 ^ 64
  (fixHorner xx [380, 306, 240, 182, 132, 90, 56, 30, 12, 2], x * fixHorner xx [420, 342, 272, 210, 156, 110, 72, 42, 20, 6] / 2 ^ 64)

/-- Cosine and sine of an angle of `r` / `turn` of a quarter turn. -/
def fixQuarter (turn r : Nat) : Nat × Nat :=
  if 2 * r ≤ turn then fixOctant (fixHalfPi * r / turn)
  else let c := fixOctant (fixHalfPi * (turn - r) / turn); (c.2, c.1)

/-- Cosine and sine of an angle of `a` parts of a turn of `turn`. -/
def fixCosSin (turn a : Nat) : Int × Int :=
  let c := fixQuarter turn (4 * a % turn)
  match 4 * (a % turn) / turn with
  | 0 => ((c.1 : Int), (c.2 : Int))
  | 1 => (-(c.2 : Int), (c.1 : Int))
  | 2 => (-(c.1 : Int), -(c.2 : Int))
  | _ => ((c.2 : Int), -(c.1 : Int))

/-- The greatest of 2^23 steps of a quarter turn that does not lie beyond the angle of a vector in the first quadrant, by
bisection. -/
def zcBisect (c s : Int) : Nat → Nat → Nat
  | 0, k => k
  | b + 1, k =>
    let m := k + 2 ^ b
    let t := fixCosSin (2 ^ 25) m
    if t.2 * c ≤ t.1 * s then zcBisect c s b m else zcBisect c s b k

/-- The angle of a vector in PU, to the nearest; 0 where the vector is 0 (log 18). -/
def zcAngle (c s : Int) : Nat :=
  let q : Nat × Int × Int :=
    if 0 < c ∧ 0 ≤ s then (0, c, s) else if c ≤ 0 ∧ 0 < s then (1, s, -c)
    else if c < 0 ∧ s ≤ 0 then (2, -c, -s) else if 0 ≤ c ∧ s < 0 then (3, -s, c) else (0, 1, 0)
  (q.1 * 2 ^ 22 + (zcBisect q.2.1 q.2.2 23 0 + 1) / 2) % 2 ^ 24

/-- The greatest integer whose square does not exceed `v`, from bit `b` downwards. -/
def isqrtFrom (v : Nat) : Nat → Nat → Nat
  | 0, r => r
  | b + 1, r => let m := r + 2 ^ b; if m * m ≤ v then isqrtFrom v b m else isqrtFrom v b r

/-- The sum of `f` over a list. -/
def sumBy {α : Type} (f : α → Int) (l : List α) : Int := l.foldl (fun a x => a + f x) 0

end Sys2Proof.Machine
end

