-- ==== Sys2Proof/Machine/Levels.lean ====
section
/-! DEFINITION. Levels: powers of ten in quarter decibels, and amplitudes in half-decibel steps (03 R74, 04 R96, R108; 06 R146, R150). -/

namespace Sys2Proof.Machine

/-- 10^(j/40) in units of 10^-30, rounded down, for j from 0 to 39. -/
def tenRoot (j : Nat) : Nat :=
  match j with
  | 0 => 1000000000000000000000000000000
  | 1 => 1059253725177288878809280373278
  | 2 => 1122018454301963435591038946477
  | 3 => 1188502227437018437730122464892
  | 4 => 1258925411794167210423954106395
  | 5 => 1333521432163324025675931715295
  | 6 => 1412537544622754302155607863930
  | 7 => 1496235656094433411880285114387
  | 8 => 1584893192461113485202101373391
  | 9 => 1678804018122560313971950080415
  | 10 => 1778279410038922801225421195192
  | 11 => 1883649089489800535000891150208
  | 12 => 1995262314968879601352455396739
  | 13 => 2113489039836646795560345317379
  | 14 => 2238721138568339611954950852465
  | 15 => 2371373705661655261651752757478
  | 16 => 2511886431509580111085032067799
  | 17 => 2660725059798809634991311702630
  | 18 => 2818382931264453819101923699155
  | 19 => 2985382618917959617913276962521
  | 20 => 3162277660168379331998893544432
  | 21 => 3349654391578276595487726190897
  | 22 => 3548133892335754584332187022644
  | 23 => 3758374042884441673777109591503
  | 24 => 3981071705534972507702523050877
  | 25 => 4216965034285822485690133595094
  | 26 => 4466835921509631185562505243193
  | 27 => 4731512589614804789032711120198
  | 28 => 5011872336272722850015541868849
  | 29 => 5308844442309883522004618683677
  | 30 => 5623413251903490803949510397764
  | 31 => 5956621435290104605097982825271
  | 32 => 6309573444801932494343601366223
  | 33 => 6683439175686146083625744673876
  | 34 => 7079457843841379108022149421893
  | 35 => 7498942093324558273021842756151
  | 36 => 7943282347242815020659182828363
  | 37 => 8413951416451950911527418938004
  | 38 => 8912509381337455299531086810782
  | _ => 9440608762859233803643804966022

/-- 10^(k/40) of a level in 0.25 dB units above the level -4,000, in units of 10^-30. -/
def quarterDb (k : Int) : Nat :=
  let n := (k + 4000).toNat
  tenRoot (n % 40) * 10 ^ (n / 40)

/-- 10^(-n/40), the amplitude of n half-decibel steps of attenuation, in fixed point. -/
def fixDb (n : Nat) : Nat := tenRoot ((40 - n % 40) % 40) * 2 ^ 64 / 10 ^ (30 + (n + 39) / 40)

/-- The square root of a number in fixed point. -/
def fixRoot (v : Nat) : Nat := if v = 1 then 2 ^ 64 else isqrtFrom (v * 2 ^ 128) 96 0

/-- The greatest level in 0.25 dB units, from -4,000 on, that a ratio of powers reaches, by bisection (07 R174: 0.25 dB resolution, rounded
down; log 30). -/
def levelFrom (num den : Nat) : Nat → Int → Int
  | 0, l => l
  | b + 1, l =>
    let m := l + ((2 ^ b : Nat) : Int)
    if quarterDb m * den ≤ num * 10 ^ 130 then levelFrom num den b m else levelFrom num den b l

/-- The level of a ratio of powers. -/
def levelOf (num den : Nat) : Int := levelFrom num den 13 (-4000)

end Sys2Proof.Machine
end

