-- ==== Sys2Proof/Machine/Complex.lean ====
section
/-! DEFINITION. Complex values of carriers as pairs of integers, linear interpolation in frequency, and the transform of a signal that is
constant piece by piece (06 R137, 07 R174, 09 R238; log 30). -/

namespace Sys2Proof.Machine

/-- A complex number: real and imaginary part. -/
abbrev Cx := Int × Int

/-- The sum of two complex numbers. -/
def cxAdd (a b : Cx) : Cx := (a.1 + b.1, a.2 + b.2)
/-- Their difference. -/
def cxSub (a b : Cx) : Cx := (a.1 - b.1, a.2 - b.2)
/-- Their product. -/
def cxMul (a b : Cx) : Cx := (a.1 * b.1 - a.2 * b.2, a.1 * b.2 + a.2 * b.1)
/-- The conjugate. -/
def cxConj (a : Cx) : Cx := (a.1, -a.2)
/-- The square of the magnitude. -/
def cxNorm (a : Cx) : Nat := (a.1 * a.1 + a.2 * a.2).toNat
/-- A real multiple. -/
def cxScale (n : Int) (a : Cx) : Cx := (n * a.1, n * a.2)
/-- A real fraction, rounded down. -/
def cxDiv (a : Cx) (n : Int) : Cx := (a.1 / n, a.2 / n)
/-- The sum of a list. -/
def cxSum (l : List Cx) : Cx := l.foldl cxAdd (0, 0)
/-- The sum of natural numbers. -/
def natSum (l : List Nat) : Nat := l.foldl (· + ·) 0

/-- The square root of a number, rounded down. -/
def sqrtNat (v : Nat) : Nat := isqrtFrom v (v.log2 / 2 + 1) 0

/-! ### Interpolation -/

/-- The points at or below carrier `k` are passed: the last of them, and those beyond. -/
def passPoints (k : Nat) : Option (Nat × Cx) → List (Nat × Cx) → Option (Nat × Cx) × List (Nat × Cx)
  | prev, [] => (prev, [])
  | prev, p :: rest => if p.1 ≤ k then passPoints k (some p) rest else (prev, p :: rest)

/-- The value at `k` between a point at or below it and one beyond; outside all points that of the nearest. -/
def between (k : Nat) : Option (Nat × Cx) → Option (Nat × Cx) → Cx
  | none, none => (0, 0)
  | some p, none => p.2
  | none, some q => q.2
  | some p, some q => cxAdd p.2 (cxDiv (cxScale ((k : Int) - p.1) (cxSub q.2 p.2)) ((q.1 : Int) - p.1))

/-- Points in rising order, interpolated linearly to carriers in rising order. -/
def interpFrom : Option (Nat × Cx) → List (Nat × Cx) → List Nat → List Cx
  | _, _, [] => []
  | prev, pts, k :: ks => let x := passPoints k prev pts; between k x.1 x.2.head? :: interpFrom x.1 x.2 ks

/-- Lists of one length read across: for each place the elements of all of them. -/
def columns {α : Type} (n : Nat) (ls : List (List α)) : List (List α) :=
  ls.foldr (fun l acc => List.zipWith List.cons l acc) (List.replicate n [])

/-! ### The transform -/

/-- Samples `a` to `b` - 1 of a window, all of one code. -/
structure Piece where
  a : Nat
  b : Nat
  v : Int
  deriving DecidableEq, Repr

/-- The sum of e^(-j2πkn/65,536) over `n` from `a` to `b` - 1, in 2^-64. -/
def toneSum (k a b : Nat) : Cx :=
  let c := fixCosSin 131072 (k * (a + b - 1))
  let s := (fixCosSin 131072 (k * (b - a))).2
  let s1 := (fixCosSin 131072 k).2
  (c.1 * s / s1, -(c.2 * s / s1))

/-- What carrier `k` receives over pieces of a window, in 2^-48 code: the sum of 65,536 converter samples times e^(-j2πkn/65,536). -/
def carrierOf (ps : List Piece) (k : Nat) : Cx :=
  cxDiv (cxSum (ps.map (fun p => if p.v = 0 ∨ p.b ≤ p.a then (0, 0) else cxScale p.v (toneSum k p.a p.b)))) (2 ^ 16)

/-- What carriers receive over pieces. -/
def spectrum (ps : List Piece) (ks : List Nat) : List Cx := ks.map (carrierOf ps)

/-- The parts of pieces within samples `lo` to `hi` - 1. -/
def cutPieces (lo hi : Nat) (ps : List Piece) : List Piece :=
  (ps.map (fun p => ({ a := max lo p.a, b := min hi p.b, v := p.v } : Piece))).filter (fun p => decide (p.a < p.b))

/-- The samples in pieces. -/
def pieceLen (ps : List Piece) : Nat := natSum (ps.map (fun p => p.b - p.a))

/-- Over the pairs of samples one short symbol (4,096 samples) apart, the first within `lo` to `lo` + 4,095 and both in a piece: their
number, the sum of their products, and twice their mean energy (07 R172). -/
def lagStats (lo : Nat) (ps : List Piece) : Nat × Int × Int :=
  (cutPieces lo (lo + 4096) ps).foldl (fun acc p =>
    (cutPieces (p.a + 4096) (p.b + 4096) ps).foldl (fun (acc : Nat × Int × Int) q =>
      let n := q.b - q.a
      (acc.1 + n, acc.2.1 + (n : Int) * (p.v * q.v), acc.2.2 + (n : Int) * (p.v * p.v + q.v * q.v))) acc) (0, 0, 0)

end Sys2Proof.Machine
end

