-- ==== Sys2Proof/Machine/Crc.lean ====
section
/-! DEFINITION. The check values of the spec: CRC-16 of frame control (07 R175), CRC-24 of a block (11 R280), the frame
CRC-32 (11 R281), CRC-32C of an MSDU (15 R378), and the generic form the check-value units use (18). -/

namespace Sys2Proof.Machine

/-- One bit of a most-significant-first CRC of `w` bits. -/
def crcMsbBit (w poly : Nat) (crc : Nat) (b : Bool) : Nat :=
  let fb := (bit crc (w - 1)) != b
  let sh := (crc * 2) % 2 ^ w
  if fb then sh ^^^ poly else sh

/-- One bit of a reflected CRC with the reflected polynomial `poly`. -/
def crcLsbBit (poly : Nat) (crc : Nat) (b : Bool) : Nat :=
  let fb := (crc % 2 = 1) != b
  let sh := crc / 2
  if fb then sh ^^^ poly else sh

/-- One byte of a most-significant-first CRC. -/
def crcMsbByte (w poly : Nat) (crc : Nat) (x : Byte) : Nat :=
  (byteBitsMsb x).foldl (crcMsbBit w poly) crc

/-- One byte of a reflected CRC. -/
def crcLsbByte (poly : Nat) (crc : Nat) (x : Byte) : Nat :=
  (byteBitsMsb x).reverse.foldl (crcLsbBit poly) crc

/-- CRC-16-CCITT over frame-control bits in order (07 R175). -/
def crc16Fc (bs : List Bool) : Nat := bs.foldl (crcMsbBit 16 0x1021) 0xFFFF

/-- CRC-24 of a physical block (11 R280). -/
def crc24 (bs : List Byte) : Nat := bs.foldl (crcMsbByte 24 0x864CFB) 0xB704CE

/-- The IEEE 802.3 CRC-32 (11 R281). -/
def crc32 (bs : List Byte) : Nat := bs.foldl (crcLsbByte 0xEDB88320) 0xFFFFFFFF ^^^ 0xFFFFFFFF

/-- CRC-32C, polynomial 0x1EDC6F41 in reflected form (15 Table HR.7). -/
def crc32c (bs : List Byte) : Nat := bs.foldl (crcLsbByte 0x82F63B78) 0xFFFFFFFF ^^^ 0xFFFFFFFF

end Sys2Proof.Machine
end

