-- ==== Sys2Proof/Machine/FrameCtl.lean ====
section
/-! DEFINITION. Frame control (07 R175-R179, 09 R221, 10 R250, 12 R312), the frame body and its blocks (11 R277-R281). -/

namespace Sys2Proof.Machine

/-- Field [hi:lo] of frame control (07 R175). -/
def fcField (fc : BitVec 128) (hi lo : Nat) : Nat := bits fc.toNat hi lo

/-- `fc` with a field set. -/
def fcSet (fc : BitVec 128) (hi lo x : Nat) : BitVec 128 := BitVec.ofNat 128 (setBits fc.toNat hi lo x)

/-- Bits fc[0] to fc[111]. -/
def fcBits (fc : BitVec 128) : List Bool := (List.range 112).map (fun i => bit fc.toNat i)

/-- `fc` with its CRC in fc[112] to fc[127], most significant bit of the CRC first (07 R175). -/
def fcSeal (fc : BitVec 128) : BitVec 128 :=
  let crc := crc16Fc (fcBits fc)
  iter 16 (fun i x => fcSet x (112 + i) (112 + i) (b2n (bit crc (15 - i)))) fc

/-- Whether the CRC of received frame control fits (07 R175). -/
def fcGood (fc : BitVec 128) : Bool := fcSeal fc = fc

/-- `FT` (07 Table FF.2). -/
def fcFt (fc : BitVec 128) : Nat := fcField fc 3 0
/-- `GI`. -/
def fcGi (fc : BitVec 128) : Nat := fcField fc 5 4
/-- `MIMO`. -/
def fcMimo (fc : BitVec 128) : Bool := fcField fc 6 6 = 1
/-- `DST`. -/
def fcDst (fc : BitVec 128) : Nat := fcField fc 17 8
/-- `SRC`. -/
def fcSrc (fc : BitVec 128) : Nat := fcField fc 27 18
/-- `NSYM`. -/
def fcNsym (fc : BitVec 128) : Nat := fcField fc 39 28
/-- `MAP`. -/
def fcMap (fc : BitVec 128) : Nat := fcField fc 44 40
/-- `PB_COUNT` plus one: the blocks carried (07 Table FF.5). -/
def fcPbs (fc : BitVec 128) : Nat := fcField fc 52 48 + 1
/-- `SEQ` (07 Table FF.3). -/
def fcSeq (fc : BitVec 128) : Nat := fcField fc 64 53
/-- `ILV`. -/
def fcIlv (fc : BitVec 128) : Nat := fcField fc 67 65
/-- `ENC`. -/
def fcEnc (fc : BitVec 128) : Bool := fcField fc 68 68 = 1
/-- `ACKREQ`. -/
def fcAckReq (fc : BitVec 128) : Bool := fcField fc 69 69 = 1
/-- `HOP`. -/
def fcHop (fc : BitVec 128) : Nat := fcField fc 72 70
/-- `ORIG`. -/
def fcOrig (fc : BitVec 128) : Nat := fcField fc 82 73
/-- `FINAL`. -/
def fcFinal (fc : BitVec 128) : Nat := fcField fc 92 83
/-- `ASEQ` (07 Table FF.4). -/
def fcAseq (fc : BitVec 128) : Nat := fcField fc 59 48
/-- `BITMAP`. -/
def fcBitmap (fc : BitVec 128) : Nat := fcField fc 91 60
/-- `PENDING`. -/
def fcPending (fc : BitVec 128) : Bool := fcField fc 92 92 = 1

/-- Frame types (07 Table FF.2). -/
def ftBeacon : Nat := 0
/-- DATA. -/
def ftData : Nat := 1
/-- ACK. -/
def ftAck : Nat := 2
/-- SOUND. -/
def ftSound : Nat := 3
/-- MGMT. -/
def ftMgmt : Nat := 4
/-- POLL. -/
def ftPoll : Nat := 5

/-- The checks of frame control that passed its CRC (07 R179): `gi` is the code SS9 signalled. -/
def fcValid (fc : BitVec 128) (gi : Nat) : Bool :=
  decide (fcFt fc ≤ 5) && (decide (fcMap fc ≤ 4) || (decide (8 ≤ fcMap fc) && decide (fcMap fc ≤ 15))) &&
  decide (fcGi fc ≤ 2) && decide (fcGi fc = gi) &&
  (if fcFt fc = ftAck then decide (fcNsym fc = 0) else decide (fcNsym fc ≠ 0))

/-- The common fields of frame control (07 Table FF.2). -/
def fcCommon (ft gi : Nat) (mimo : Bool) (dst src nsym map : Nat) : BitVec 128 :=
  BitVec.ofNat 128 (ft + gi * 2 ^ 4 + b2n mimo * 2 ^ 6 + dst * 2 ^ 8 + src * 2 ^ 18 + nsym * 2 ^ 28 + map * 2 ^ 40)

/-- Frame control of a DATA or MGMT frame (07 Table FF.3). -/
def fcDataFrame (ft gi : Nat) (mimo : Bool) (dst src nsym map : Nat) (final orig hop : Nat) (ackReq enc : Bool)
    (ilv seq pbs : Nat) : BitVec 128 :=
  fcSeal (fcCommon ft gi mimo dst src nsym map + BitVec.ofNat 128 (final * 2 ^ 83 + orig * 2 ^ 73 + hop * 2 ^ 70 +
    b2n ackReq * 2 ^ 69 + b2n enc * 2 ^ 68 + ilv * 2 ^ 65 + seq * 2 ^ 53 + (pbs - 1) * 2 ^ 48))

/-- Frame control of an ACK (07 R178, Table FF.4). -/
def fcAck (gi dst src : Nat) (pending : Bool) (bitmap aseq : Nat) : BitVec 128 :=
  fcSeal (fcCommon ftAck gi false dst src 0 0 +
    BitVec.ofNat 128 (b2n pending * 2 ^ 92 + bitmap * 2 ^ 60 + aseq * 2 ^ 48))

/-- Frame control of a SOUND frame (09 Table TM.1). -/
def fcSound (gi : Nat) (mimo : Bool) (dst src nsym segreq id seq last : Nat) (report : Bool) : BitVec 128 :=
  fcSeal (fcCommon ftSound gi mimo dst src nsym 0 +
    BitVec.ofNat 128 (segreq * 2 ^ 96 + id * 2 ^ 88 + seq * 2 ^ 84 + last * 2 ^ 80 + b2n report * 2 ^ 79))

/-- Frame control of a beacon (10 R249, Table GC.2). -/
def fcBeacon (gi nsym bpi prof tw mode drone maskVer part pbs : Nat) : BitVec 128 :=
  fcSeal (fcCommon ftBeacon gi false 1023 0 nsym 2 +
    BitVec.ofNat 128 (bpi % 2 ^ 23 * 2 ^ 89 + prof * 2 ^ 87 + tw * 2 ^ 85 + mode * 2 ^ 83 + drone * 2 ^ 81 +
      maskVer % 16 * 2 ^ 77 + part * 2 ^ 74 + (pbs - 1) * 2 ^ 48))

/-- The number of blocks of a frame body (11 R277). -/
def bodyPbs (prot : Bool) (len : Nat) : Nat := (4 + 24 * b2n prot + len + 4 + 511) / 512

/-- A frame body (11 Table LR.1) from its MSDU (ciphertext where protected), security header and tag. -/
def frameBody (len ftag : Nat) (sec msdu tag : List Byte) : List Byte :=
  let n := bodyPbs (decide (sec ≠ [])) len
  let head := leBytes 2 len ++ [BitVec.ofNat 8 ftag, 0] ++ sec ++ msdu ++ tag
  let filled := fit (512 * n - 4) head
  filled ++ leBytes 4 (crc32 filled)

/-- The header word of block `idx` (11 Table LR.3). -/
def pbHeader (idx last pbsn : Nat) : List Byte := leBytes 4 (idx * 2 ^ 27 + last * 2 ^ 22 + pbsn)

/-- Block `idx` of a frame body, 520 bytes (11 Table LR.2). -/
def mkPb (body : List Byte) (idx last pbsn : Nat) : List Byte :=
  let p := pbHeader idx last pbsn ++ bytesAt body (512 * idx) 512
  let c := crc24 p
  p ++ [BitVec.ofNat 8 (c / 65536), BitVec.ofNat 8 (c / 256), BitVec.ofNat 8 c, 0]

/-- `IDX` of a block. -/
def pbIdx (pb : List Byte) : Nat := bits (leAt pb 0 4) 31 27
/-- `LAST` of a block. -/
def pbLast (pb : List Byte) : Nat := bits (leAt pb 0 4) 26 22
/-- `PBSN` of a block. -/
def pbSn (pb : List Byte) : Nat := bits (leAt pb 0 4) 9 0
/-- (`PBSN` - `IDX`) mod 1,024 (11 R279). -/
def pbBase (pb : List Byte) : Nat := (pbSn pb + 1024 - pbIdx pb) % 1024
/-- The body bytes of a block. -/
def pbBody (pb : List Byte) : List Byte := bytesAt pb 4 512

/-- Whether a received block passes its CRC-24 and the first condition of R279. -/
def pbGood (pb : List Byte) : Bool :=
  decide (pb.length = 520) &&
  decide (crc24 (pb.take 516) = byteAt pb 516 * 65536 + byteAt pb 517 * 256 + byteAt pb 518) &&
  decide (pbIdx pb ≤ pbLast pb)

/-- Whether the frame check of a reassembled body fits (11 R281). -/
def bodyCheck (body : List Byte) : Bool :=
  decide (crc32 (body.take (body.length - 4)) = leAt body (body.length - 4) 4)

end Sys2Proof.Machine
end

