-- ==== Sys2Proof/Machine/Coding.lean ====
section
/-! DEFINITION. The transmit coding chain (06 R147, 08 R190-R207): scrambler, convolutional code, puncturing, padding,
long and short interleaving, Drone copy placement. Bits are lists of Bool in the order the rules send them. -/

namespace Sys2Proof.Machine

/-- The bits of bytes in coding order: bit 0 of each byte first (06 R147). -/
def codeBits (bs : List Byte) : List Bool := bs.flatMap (fun b => (byteBitsMsb b).reverse)

/-- One step of the scrambler's LFSR x^23 + x^18 + 1 (06 R147): the bit it gives and its next state. -/
def scrStep (st : Nat) : Bool × Nat :=
  let s := bit st 22 != bit st 17
  (s, (st * 2 + b2n s) % 2 ^ 23)

/-- Scramble (or descramble) bits from a state of the LFSR. -/
def scrambleFrom : Nat → List Bool → List Bool
  | _, [] => []
  | st, d :: ds => (d != (scrStep st).1) :: scrambleFrom (scrStep st).2 ds

/-- The scrambler restarts at 0x7FFFFF at frame control and at every block (06 R147). -/
def scramble (bs : List Bool) : List Bool := scrambleFrom 0x7FFFFF bs

/-- `n` pad bits from a state of the same generator with input 0 (08 R199), and the state it is left in. -/
def padFrom : Nat → Nat → List Bool × Nat
  | 0, st => ([], st)
  | n + 1, st =>
    let r := padFrom n (scrStep st).2
    ((scrStep st).1 :: r.1, r.2)

/-- Parity of the low seven bits of a word. -/
def parity7 (v : Nat) : Bool := popcount 7 v % 2 = 1

/-- The convolutional encoder, outputs A and B per input bit (08 R191). -/
def convFrom : Nat → List Bool → List (Bool × Bool)
  | _, [] => []
  | st, d :: ds =>
    let reg := b2n d * 64 + st
    (parity7 (reg &&& 0x5B), parity7 (reg &&& 0x79)) :: convFrom (reg / 2) ds

/-- A terminated codeword: six tail bits of 0 (08 R192). -/
def convCode (bs : List Bool) : List (Bool × Bool) := convFrom 0 (bs ++ List.replicate 6 false)

/-- The puncturing rows of a rate code (08 Table CC.2). -/
def punctRows (rate : Nat) : List Bool × List Bool :=
  match rate with
  | 0 => ([true], [true])
  | 1 => ([true, true], [true, false])
  | 2 => ([true, true, false], [true, false, true])
  | 3 => ([true, true, false, true, false], [true, false, true, false, true])
  | _ => ([true, false, false, false, true, false, true], [true, true, true, true, false, true, false])

/-- Keep the outputs the pattern keeps, A then B (08 R193). -/
def punctureFrom (ra rb : List Bool) : Nat → List (Bool × Bool) → List Bool
  | _, [] => []
  | i, (a, b) :: rest =>
    let j := i % ra.length
    (if ra.getD j false then [a] else []) ++ (if rb.getD j false then [b] else []) ++ punctureFrom ra rb (i + 1) rest

/-- The coded bits of one codeword at a rate code (08 R190 stages 1 to 3). -/
def codeword (rate : Nat) (bs : List Bool) : List Bool :=
  punctureFrom (punctRows rate).1 (punctRows rate).2 0 (convCode (scramble bs))

/-- Coded bits of a block at a rate code (08 Table CC.2). -/
def pbCoded (rate : Nat) : Nat :=
  match rate with
  | 0 => 8332 | 1 => 6249 | 2 => 5555 | 3 => 5000 | _ => 4762

/-- The short interleaver over one unit (08 R200). -/
def shortIlv (v : List Bool) : List Bool :=
  (List.range 16).flatMap (fun col =>
    ((List.range ((v.length + 15) / 16)).filter (fun row => row * 16 + col < v.length)).map
      (fun row => v.getD (row * 16 + col) false))

/-- The unit that takes the next bit of a span: the first one from `next` on, in turn, that is not full (08 R201). -/
def nextUnit (caps fills : List Nat) : Nat → Nat → Nat
  | 0, nx => nx
  | fuel + 1, nx =>
    if fills.getD nx 0 < caps.getD nx 0 then nx else nextUnit caps fills fuel ((nx + 1) % caps.length)

/-- Deal the bits of a span to its units in turn (08 R201): the units' inputs. -/
def dealSpan (caps : List Nat) : List (List Bool) → Nat → List Bool → List (List Bool)
  | us, _, [] => us.map List.reverse
  | us, nx, b :: bs =>
    let u := nextUnit caps (us.map List.length) caps.length nx
    dealSpan caps (us.modify u (fun l => b :: l)) ((u + 1) % caps.length) bs

/-- The span of an `ILV` code in symbols, 0 for a span of one unit (08 Table CC.3). -/
def ilvSpan (code : Nat) : Nat :=
  match code with
  | 0 => 0 | 1 => 8 | 2 => 16 | 3 => 32 | 4 => 64 | _ => 128

/-- Interleave a padded stream into units of the given capacities, `n` units to a span, with fuel for the spans. -/
def interleave (n : Nat) : Nat → List Nat → List Bool → List (List Bool)
  | 0, _, _ => []
  | fuel + 1, caps, bs =>
    match caps with
    | [] => []
    | _ =>
      let cs := caps.take n
      let total := cs.foldl (· + ·) 0
      (dealSpan cs (cs.map (fun _ => [])) 0 (bs.take total)).map shortIlv ++ interleave n fuel (caps.drop n) (bs.drop total)

/-- A Drone mode (08 Table CC.4): bits per carrier, frequency copies, time copies. -/
structure Drone where
  bits : Nat
  freq : Nat
  time : Nat
  deriving DecidableEq, Repr

/-- The Drone mode of a `MAP` code 0 to 3. -/
def droneOf (code : Nat) : Drone :=
  match code with
  | 0 => ⟨2, 2, 1⟩ | 1 => ⟨2, 4, 1⟩ | 2 => ⟨1, 4, 2⟩ | _ => ⟨1, 4, 4⟩

/-- The bit that position `pos` of symbol `t` of a Drone unit carries: the chunk bit whose copy stands there, none where
the position takes pad (08 R204). -/
def dronePos (d : Drone) (k t pos : Nat) : Option Nat :=
  if pos < d.freq * k then some ((pos % k + k - (t * (k / d.time)) % k) % k) else none

/-- Place a Drone unit's chunk into its symbols of the given bit capacities, pad from the generator's state: the symbols'
bits and the generator's state after them. -/
def placeDrone (d : Drone) (chunk : List Bool) : Nat → List Nat → Nat → List (List Bool) × Nat
  | _, [], st => ([], st)
  | t, cap :: caps, st =>
    let k := chunk.length
    let filled := min cap (d.freq * k)
    let pad := padFrom (cap - filled) st
    let here := (List.range filled).map (fun pos =>
      match dronePos d k t pos with
      | some i => chunk.getD i false
      | none => false)
    let rest := placeDrone d chunk (t + 1) caps pad.2
    ((here ++ pad.1) :: rest.1, rest.2)

/-- Place units one after another, each in `d.time` symbols. -/
def placeUnits (d : Drone) : List (List Bool) → List Nat → Nat → List (List Bool)
  | [], _, _ => []
  | u :: us, caps, st =>
    let r := placeDrone d u 0 (caps.take d.time) st
    r.1 ++ placeUnits d us (caps.drop d.time) r.2

/-- The capacity of a Drone unit over symbols with the given numbers of data carriers (08 R198). -/
def droneCap (d : Drone) (ds : List Nat) : Nat :=
  (ds.map (fun n => d.bits * n / d.freq)).foldl min (ds.foldl max 0 * d.bits)

end Sys2Proof.Machine
end

