-- ==== Sys2Proof/Machine/Wave.lean ====
section
/-! DEFINITION. Profiles, carriers, pilots, constellations, masks and frame lengths (06 R135-R150, 07 R167-R170). -/

namespace Sys2Proof.Machine

/-- The top carrier of a profile code (06 Table WF.1). -/
def profTop (p : Nat) : Nat := match p with | 0 => 1572 | 1 => 4508 | 2 => 7864 | _ => 15728

/-- The tone-group size of a profile code. -/
def profGroup (p : Nat) : Nat := match p with | 0 => 1 | 1 => 2 | 2 => 4 | _ => 8

/-- The number of usable carriers of a profile code. -/
def profCarriers (p : Nat) : Nat := profTop p - 94

/-- The first tone group of a profile (06 R136). -/
def firstTg (p : Nat) : Nat := 95 / profGroup p

/-- The number of tone groups of a profile (06 Table WF.1). -/
def numTg (p : Nat) : Nat := profTop p / profGroup p - firstTg p + 1

/-- The usable carriers of a profile, ascending. -/
def usable (p : Nat) : List Nat := (List.range (profCarriers p)).map (fun i => i + 95)

/-- Whether usable carrier `k` is a pilot in symbol `m` (06 R142). -/
def isPilot (m k : Nat) : Bool := k % 32 = 8 * (m % 4)

/-- One step of the carrier generator x^15 + x^14 + 1 (06 R143). -/
def carStep (st : Nat) : Bool × Nat :=
  let c := bit st 14 != bit st 13
  (c, (st * 2 + b2n c) % 2 ^ 15)

/-- `n` bits of the carrier generator. -/
def carBits : Nat → Nat → List Bool
  | 0, _ => []
  | n + 1, st => (carStep st).1 :: carBits n (carStep st).2

/-- The seed of numbered symbol `m` (06 R143). -/
def symSeed (m : Nat) : Nat := 0x4000 ||| (m % 2 ^ 14)

/-- The mask code of carrier `k` under the group's entries: the greatest, a notch outranking all (06 R150). -/
def maskCode (entries : List (BitVec 32)) (k : Nat) : Nat :=
  entries.foldl (fun a e =>
    let att := bits e.toNat 31 28
    if att ≠ 0 ∧ bits e.toNat 13 0 ≤ k ∧ k ≤ bits e.toNat 27 14 then max a att else a) 0

/-- Whether carrier `k` is masked (notched). -/
def notched (entries : List (BitVec 32)) (k : Nat) : Bool := maskCode entries k = 15

/-- The usable unmasked carriers of a profile. -/
def openCarriers (p : Nat) (entries : List (BitVec 32)) : List Nat := (usable p).filter (fun k => !notched entries k)

/-- The data carriers of symbol `m` under a loading: unmasked, no pilot, loading at least 1 (06 R144). -/
def dataCarriers (p : Nat) (entries : List (BitVec 32)) (load : Nat → Nat) (m : Nat) : List Nat :=
  (openCarriers p entries).filter (fun k => !isPilot m k && decide (1 ≤ load k))

/-- The number of data carriers of symbol `m` when every unmasked carrier is loaded. -/
def openData (p : Nat) (entries : List (BitVec 32)) (m : Nat) : Nat := (dataCarriers p entries (fun _ => 2) m).length

/-- Gray word to binary, most significant bit first (06 R145). -/
def grayToBin : Bool → Nat → List Bool → Nat
  | _, acc, [] => acc
  | prev, acc, b :: bs =>
    let x := prev != b
    grayToBin x (acc * 2 + b2n x) bs

/-- The level of one axis from its bits (06 R145). -/
def axisLevel (bs : List Bool) : Int :=
  if bs = [] then 0 else (2 ^ bs.length - 1 : Int) - 2 * (grayToBin false 0 bs : Int)

/-- The even-numbered (in-phase) and odd-numbered (quadrature) bits of a carrier (06 R145). -/
def splitAxes : List Bool → List Bool × List Bool
  | [] => ([], [])
  | [a] => ([a], [])
  | a :: b :: rest => let r := splitAxes rest; (a :: r.1, b :: r.2)

/-- A carrier as sent: its index, the levels of its two axes, and the constellation's mean power P_b that divides them
(06 R145, Table WF.3); pilots and filler have level ±1 and P 1; `att` is the mask's attenuation code (R150). -/
structure Carrier where
  k   : Nat
  i   : Int
  q   : Int
  p   : Nat
  att : Nat
  deriving DecidableEq, Repr

/-- P_b of a loading (06 Table WF.3). -/
def constPower (b : Nat) : Nat :=
  match b with
  | 0 => 1 | 1 => 1 | 2 => 2 | 3 => 6 | 4 => 10 | 5 => 26 | 6 => 42 | 7 => 106 | 8 => 170 | 9 => 426 | 10 => 682
  | 11 => 1706 | _ => 2730

/-- The carriers of a symbol: pilots and filler 1 - 2c(k), data by constellation in ascending k, notched carriers left
out (06 R142-R145). `cs` are the generator's bits over every usable carrier. -/
def mapSymbol (entries : List (BitVec 32)) (load : Nat → Nat) (pilot : Nat → Bool) :
    List (Nat × Bool) → List Bool → List Carrier
  | [], _ => []
  | (k, c) :: rest, bs =>
    let att := maskCode entries k
    if att = 15 then mapSymbol entries load pilot rest bs
    else
      let b := load k
      if pilot k || b = 0 then
        ⟨k, (if c then -1 else 1), 0, 1, att⟩ :: mapSymbol entries load pilot rest bs
      else
        let ax := splitAxes (bs.take b)
        ⟨k, axisLevel ax.1, axisLevel ax.2, constPower b, att⟩ :: mapSymbol entries load pilot rest (bs.drop b)

/-- Numbered symbol `m` with the given loading and bits. -/
def dataSymbol (p : Nat) (entries : List (BitVec 32)) (load : Nat → Nat) (m : Nat) (bs : List Bool) : List Carrier :=
  mapSymbol entries load (isPilot m) ((usable p).zip (carBits (profCarriers p) (symSeed m))) bs

/-- A symbol in which every usable unmasked carrier carries 1 - 2c(k) from a seed: T0, T1 and the fallback's training
symbols (06 R149, 09 R239). -/
def trainSymbol (p : Nat) (entries : List (BitVec 32)) (seed : Nat) : List Carrier :=
  mapSymbol entries (fun _ => 0) (fun _ => true) ((usable p).zip (carBits (profCarriers p) seed)) []

/-- Bit `b` of sync word number `i` (07 R170). -/
def syncBit (i b : Nat) : Bool :=
  let x := if b < 32 then b else b - 32
  let a := (bit i 5) != (decide (popcount 5 (i &&& x &&& 0x1F) % 2 = 1))
  a != bit 0xB4E271C93A5D b

/-- Sync word number `i`, bit 0 first in bit 0 (07 R170). -/
def syncWord (i : Nat) : Nat := iter 48 (fun b w => w + b2n (syncBit i b) * 2 ^ b) 0

/-- The number of positions in which two 48-bit words differ. -/
def syncDist (a b : Nat) : Nat := popcount 48 (a ^^^ b)

/-- The carriers of short symbol SS0 (07 R168): multiples of 16, value 4 (1 - 2c). -/
def shortSymbol (p : Nat) (entries : List (BitVec 32)) : List Carrier :=
  ((mapSymbol entries (fun _ => 0) (fun _ => true) ((usable p).zip (carBits (profCarriers p) 0x7FFD)) []).filter
    (fun c => c.k % 16 = 0)).map (fun c => { c with i := 4 * c.i })

/-- The sync-word symbol of sync word `w` (07 R169). -/
def syncSymbol (p : Nat) (entries : List (BitVec 32)) (w : Nat) : List Carrier :=
  (mapSymbol entries (fun _ => 0) (fun _ => true) ((usable p).zip (carBits (profCarriers p) 0x7FFC)) []).map
    (fun c => if bit w ((c.k - 95) % 48) then { c with i := -c.i } else c)

/-- The period of a symbol of a guard code, converter samples (06 Table WF.2). -/
def symPeriod (gi : Nat) : Nat := match gi with | 0 => 67584 | 1 => 73728 | _ => 90112

/-- The preamble, converter samples (07 Table FF.1). -/
def preambleLen : Nat := 114688

/-- The postfix T_W of a window code, converter samples (06 R139: N f_W processing samples, 65,536 f_W converter
samples in every profile). -/
def postfixLen (tw : Nat) : Nat := match tw with | 0 => 0 | 1 => 256 | 2 => 512 | _ => 1024

/-- The frame-control units: the smallest number of symbols whose Drone-4 units hold 268 bits (08 R202). -/
def fcSymbolsFrom (p : Nat) (entries : List (BitVec 32)) : Nat → Nat → Nat → Nat
  | 0, m, _ => m
  | fuel + 1, m, got =>
    if 268 ≤ got then m
    else fcSymbolsFrom p entries fuel (m + 1) (got + droneCap (droneOf 1) [openData p entries m])

/-- The number of frame-control symbols, which depends on profile and mask alone (08 R202). -/
def fcSymbols (p : Nat) (entries : List (BitVec 32)) : Nat := fcSymbolsFrom p entries 268 0 0

/-- Unnumbered training symbols of a frame: two in MIMO (06 R149), one per eight payload symbols in the one-tap fallback
(09 R239). -/
def trainCount (map : Nat) (mimo : Bool) (nsym : Nat) : Nat :=
  (if mimo then 2 else 0) + (if map = 4 then (nsym + 7) / 8 else 0)

/-- The length of a frame in converter samples, from the first preamble sample to the end of the last postfix (06 R156,
07 Table FF.1). -/
def frameLen (p : Nat) (entries : List (BitVec 32)) (gi tw map : Nat) (mimo : Bool) (nsym : Nat) : Nat :=
  preambleLen + (fcSymbols p entries + trainCount map mimo nsym + nsym) * symPeriod gi + postfixLen tw

end Sys2Proof.Machine
end

