-- ==== Sys2Proof/Machine/ToneMap.lean ====
section
/-! DEFINITION. Deriving, encoding and converting a tone-map entry (09 R225-R229), and sizing a frame (08 R198, R207,
09 R220, R239). Levels and SNR are in 0.25 dB units. -/

namespace Sys2Proof.Machine

/-- One copy of a tone-map key (09 R228, Table TM.4): version, direction, segment, rate, profile, noise floor where it has
one, sounding beacon period, loadings by tone group. -/
structure Entry where
  ver   : Nat
  dir   : Bool
  seg   : Nat
  rate  : Nat
  prof  : Nat
  nf    : Option Int
  sndBp : Nat
  load  : List Nat
  deriving DecidableEq, Repr

/-- The loading of carrier `k` under an entry (06 R136). -/
def Entry.at (e : Entry) (k : Nat) : Nat :=
  let j := k / profGroup e.prof
  if j < firstTg e.prof then 0 else e.load.getD (j - firstTg e.prof) 0

/-- T_b in 0.25 dB units (09 Table TM.3). -/
def loadThr (b : Nat) : Nat :=
  match b with
  | 0 => 0 | 1 => 8 | 2 => 20 | 3 => 34 | 4 => 44 | 5 => 56 | 6 => 68 | 7 => 80 | 8 => 92 | 9 => 104 | 10 => 116
  | 11 => 128 | _ => 140

/-- O_r in 0.25 dB units (09 Table TM.3). -/
def rateOfs (r : Nat) : Nat := match r with | 0 => 0 | 1 => 6 | 2 => 10 | 3 => 14 | _ => 18

/-- The code rate as a fraction over 120 (08 Table CC.2). -/
def rate120 (r : Nat) : Nat := match r with | 0 => 60 | 1 => 80 | 2 => 90 | 3 => 100 | _ => 105

/-- The largest loading up to `cap` that an SNR allows at a rate code (09 R225). -/
def loading (snr rate margin : Nat) : Nat → Nat
  | 0 => 0
  | b + 1 => if loadThr (b + 1) + rateOfs rate + margin ≤ snr then b + 1 else loading snr rate margin b

/-- The number of usable unmasked carriers of tone group `j` (09 R226). -/
def tgCarriers (p : Nat) (entries : List (BitVec 32)) (j : Nat) : Nat :=
  ((List.range (profGroup p)).filter (fun i =>
    let k := profGroup p * j + i
    decide (95 ≤ k) && decide (k ≤ profTop p) && !notched entries k)).length

/-- Q(r) times 120 for loadings and carrier counts (09 R226). -/
def mapMerit (r : Nat) (load ns : List Nat) : Nat :=
  rate120 r * ((load.zip ns).map (fun x => x.1 * x.2)).foldl (· + ·) 0

/-- The best rate code from 0 to `r`, the lowest of equals, with its loadings (09 R226). -/
def bestRate (snrs ns : List Nat) (margin cap : Nat) : Nat → Nat × List Nat
  | 0 => (0, snrs.map (fun s => loading s 0 margin cap))
  | r + 1 =>
    let best := bestRate snrs ns margin cap r
    let mine := snrs.map (fun s => loading s (r + 1) margin cap)
    if mapMerit best.1 best.2 ns < mapMerit (r + 1) mine ns then (r + 1, mine) else best

/-- The lowest of a list of noise levels over the loaded groups (09 R227). -/
def noiseFloor (load : List Nat) (noise : List Int) : Option Int :=
  (load.zip noise).foldl (fun a x =>
    if x.1 = 0 then a else match a with | none => some x.2 | some v => some (min v x.2)) none

/-- Derive an entry from tone-group SNRs and, for an uplink, the lowest noise of each tone group (09 R225-R227). -/
def deriveEntry (ver : Nat) (dir : Bool) (seg prof : Nat) (entries : List (BitVec 32)) (snrs : List Nat)
    (noise : List Int) (margin cap rateMax sndBp : Nat) : Entry :=
  let ns := (List.range (numTg prof)).map (fun i => tgCarriers prof entries (firstTg prof + i))
  let best := bestRate snrs ns margin cap rateMax
  { ver := ver, dir := dir, seg := seg, rate := best.1, prof := prof,
    nf := if dir then noiseFloor best.2 noise else none, sndBp := sndBp % 65536, load := best.2 }

/-- Runs of equal loadings, at most 4,096 tone groups each (09 R228 FORM 0). -/
def runsOf : List Nat → List (Nat × Nat)
  | [] => []
  | b :: rest =>
    match runsOf rest with
    | [] => [(b, 1)]
    | (c, n) :: more => if b = c ∧ n < 4096 then (c, n + 1) :: more else (b, 1) :: (c, n) :: more

/-- The packed body: one nibble per tone group, lower nibble first (09 R228 FORM 1). -/
def packNibbles : List Nat → List Byte
  | [] => []
  | [a] => [BitVec.ofNat 8 a]
  | a :: b :: rest => BitVec.ofNat 8 (a + 16 * b) :: packNibbles rest

/-- The encoded entry: the shorter form, FORM 0 where both are of one length (09 R228, Table TM.4). -/
def Entry.encode (e : Entry) : List Byte :=
  let runs := runsOf e.load
  let body0 := runs.flatMap (fun r => leBytes 2 (r.1 * 4096 + (r.2 - 1)))
  let body1 := packNibbles e.load
  let form1 := decide (body1.length < body0.length)
  let w0 := e.ver * 2 ^ 29 + b2n e.dir * 2 ^ 28 + e.seg * 2 ^ 24 + e.rate * 2 ^ 21 + e.prof * 2 ^ 19 + b2n form1 * 2 ^ 18 +
    (if form1 then 0 else runs.length)
  let nf := match e.nf with | none => 0x800 | some v => unsigned 12 v
  leBytes 4 w0 ++ leBytes 4 (nf * 2 ^ 20 + e.sndBp) ++ (if form1 then body1 else body0)

/-- Cache lines of an entry (09, The Marimba). -/
def Entry.lines (e : Entry) : Nat := (e.encode.length + 255) / 256

/-- Convert an entry to another profile (09 R229): every new tone group takes the lowest loading among its usable
carriers, a carrier above the old top counting 0. -/
def Entry.convert (e : Entry) (prof : Nat) : Entry :=
  { e with
    prof := prof
    load := (List.range (numTg prof)).map (fun i =>
      let j := firstTg prof + i
      let ks := (List.range (profGroup prof)).filterMap (fun x =>
        let k := profGroup prof * j + x
        if 95 ≤ k ∧ k ≤ profTop prof then some (if profTop e.prof < k then 0 else e.at k) else none)
      ks.foldl min 15) }

/-- The one-tap fallback's and the Drone modes' payload sizing: the smallest `NSYM`, a multiple of `t`, whose units hold
`need` coded bits; `cap m` is the capacity of the unit that starts at payload symbol number m (08 R207). -/
def growNsym (t : Nat) (cap : Nat → Nat) (need : Nat) : Nat → Nat → Nat → Nat
  | 0, n, _ => n
  | fuel + 1, n, got => if need ≤ got then n else growNsym t cap need fuel (n + t) (got + cap n)

/-- Unit capacities of a Drone payload that starts at numbered symbol `m0` (08 R198). -/
def dronePayloadCap (p : Nat) (entries : List (BitVec 32)) (d : Drone) (m0 i : Nat) : Nat :=
  droneCap d ((List.range d.time).map (fun t => openData p entries (m0 + i + t)))

/-- `NSYM` of a Drone frame of `n` blocks. -/
def droneNsym (p : Nat) (entries : List (BitVec 32)) (code n : Nat) : Nat :=
  let d := droneOf code
  growNsym d.time (dronePayloadCap p entries d (fcSymbols p entries)) (8332 * n) 4096 0 0

/-- `NSYM` of a one-tap fallback frame of `n` blocks (09 R239). -/
def fallbackNsym (p : Nat) (entries : List (BitVec 32)) (n : Nat) : Nat :=
  growNsym 1 (fun i => 2 * openData p entries (fcSymbols p entries + i)) (8332 * n) 4096 0 0

/-- The capacity of a tone-map symbol under an entry (08 R198): stream 1 counts again in MIMO. -/
def mapCap (p : Nat) (entries : List (BitVec 32)) (e : Entry) (mimo : Bool) (m : Nat) : Nat :=
  ((dataCarriers p entries e.at m).map e.at).foldl (· + ·) 0 * (if mimo then 2 else 1)

/-- `NSYM` and rate of a tone-map frame (09 R220): the smallest `NSYM` whose symbols, each loaded from the entry of its own
segment, hold every coded bit at the lowest rate among the segments covered. `ent i` is the entry of payload symbol i; no
answer where an entry is missing. -/
def mapNsym (p : Nat) (entries : List (BitVec 32)) (ent : Nat → Option Entry) (mimo : Bool) (n : Nat) :
    Nat → Nat → Nat → Nat → Option (Nat × Nat)
  | 0, _, _, _ => none
  | fuel + 1, i, rate, got =>
    if 0 < i ∧ pbCoded rate * n ≤ got then some (i, rate)
    else match ent i with
      | none => none
      | some e =>
        mapNsym p entries ent mimo n fuel (i + 1) (if i = 0 then e.rate else min rate e.rate)
          (got + mapCap p entries e mimo (fcSymbols p entries + i))

end Sys2Proof.Machine
end

