-- ==== Sys2Proof/Machine/Parts.lean ====
section
/-! DEFINITION. The pieces of device state behind the registers, one structure per unit of the device. INVENTORY.md lists
each field with its rule and its reset value; every structure's `init` is its value right after reset. -/

namespace Sys2Proof.Machine

/-- Device states (01 R30, Table OR.4). -/
inductive DevState where
  | off | boot | config | run | safe
  deriving DecidableEq, Repr

/-- Device-state codes of events (16 R407). -/
def DevState.code : DevState → Nat
  | .off => 0 | .boot => 1 | .config => 2 | .run => 3 | .safe => 4

/-- Group states (01 R33, Table OR.6). -/
inductive GroupState where
  | down | calibrating | coordinating | degraded
  deriving DecidableEq, Repr

/-- Group-state codes (16 R397). -/
def GroupState.code : GroupState → Nat
  | .down => 0 | .calibrating => 1 | .coordinating => 2 | .degraded => 3

/-- Canceller states (04 Table FD.3). -/
inductive EchState where
  | idle | training | converged | tracking | diverged
  deriving DecidableEq, Repr

/-- Canceller-state codes (04 Table FD.9). -/
def EchState.code : EchState → Nat
  | .idle => 0 | .training => 1 | .converged => 2 | .tracking => 3 | .diverged => 4

/-- Node states (01 R35, Table OR.7). -/
inductive NodeState where
  | unknown | associating | admitted | active | dormant | lost | evicted
  deriving DecidableEq, Repr

/-- Node-state codes (11 Table LR.6). -/
def NodeState.code : NodeState → Nat
  | .unknown => 0 | .associating => 1 | .admitted => 2 | .active => 3 | .dormant => 4 | .lost => 5 | .evicted => 6


/-- One decimation chain (13 R331, R332, R339; 02 R39): integrators and combs of 52 bits, the FIR delay line latest first, outputs
since the last reset of the chain, the outputs for which the FAULT tag still stands, the last bit and for how many clocks it has been held. -/
structure Chain where
  acc  : List (BitVec 52)
  cmb  : List (BitVec 52)
  fir  : List Int
  outs : Nat
  tail : Nat
  bit  : Bool
  run  : Nat
  deriving DecidableEq, Repr

/-- A cleared chain. -/
def Chain.init : Chain :=
  { acc := List.replicate 5 0, cmb := List.replicate 5 0, fir := List.replicate 32 0, outs := 0, tail := 0,
    bit := false, run := 0 }

/-- The history of one mains reference (02 R39, R42, R47): the RMS of its last valid half-cycles (at most 64) in 2^-16 code, the runs of
consecutive valid and invalid half-cycles, the timebase's tap with the bits since its last output, and the settled outputs of the last
half-cycle, each with the MPT phase of the instant it stands for. -/
structure RefHist where
  rms     : List Nat
  valid   : Nat
  invalid : Nat
  tap     : Chain
  part    : List Bool
  prev    : List (Int × Nat)
  deriving DecidableEq, Repr

/-- No half-cycle seen, and the tap just reset. -/
def RefHist.init : RefHist := { rms := [], valid := 0, invalid := 0, tap := Chain.init, part := [], prev := [] }

/-- The timebase (02 R36-R50). -/
structure Timebase where
  acc        : BitVec 72        -- MPT with 24 more fraction bits
  freq       : BitVec 32        -- MPT_FREQ
  corrLeft   : Int              -- correction still to be spread over the beacon period, 2^-48 turn
  corrRate   : Int              -- what one CK_MPT cycle takes of it
  corrUsed   : Nat              -- correction found in this beacon period, PU
  corrNext   : Int              -- the part of it that moves the phase, PU, applied over the next one
  freqNext   : Int              -- the part that moves MPT_FREQ
  phaseErr   : Int
  usingAlt   : Bool
  slewActive : Bool
  holdover   : Bool
  taken      : Bool             -- in holdover, a reference has been taken up (R49)
  locked     : Bool
  everLocked : Bool
  lockRun    : Nat
  bigRun     : Nat
  freqHist   : List Nat
  refs       : List (Nat × RefHist)
  nowHi      : BitVec 16
  n          : Nat              -- sample counter (R50)
  running    : Bool
  ancN       : Nat
  ancM       : Nat
  ancR       : Nat
  ancClk     : Nat
  deriving DecidableEq, Repr

/-- MPT starts at zero at the nominal 50 Hz word (02 R38, Table MT.5). -/
def Timebase.init : Timebase :=
  { acc := 0, freq := 56294995, corrLeft := 0, corrRate := 0, corrUsed := 0, corrNext := 0, freqNext := 0, phaseErr := 0,
    usingAlt := false, slewActive := false, holdover := false, taken := false, locked := false, everLocked := false, lockRun := 0,
    bigRun := 0, freqHist := [], refs := [], nowHi := 0, n := 0, running := false, ancN := 0, ancM := 0, ancR := 0,
    ancClk := 0 }

/-- MSYNC and MSYNCO (02 R53, R56-R60). -/
structure Msync where
  ofs      : Int                -- offset O in force
  prevOfs  : Int                -- the offset before the last boundary
  tgt      : Int                -- target T
  err      : Int                -- error of the last accepted edge
  step     : Int                -- step decided for the next boundary
  bpi      : Nat                -- index of the beacon period in progress
  accepted : Option Nat         -- boundary with an accepted edge
  runStart : Nat                -- boundary the run without an accepted edge is counted from
  tracking : Bool
  absClip  : Bool               -- the target was clipped to ABS
  reported : Bool               -- its clip event has been posted
  was      : Option (Nat × Int × Bool × Bool) -- before the last accepted edge: the CK_MPT cycle of its capture, T, absClip, reported (R62)
  past     : List Int           -- offsets of the last 16 beacon periods, latest first (10 R271)
  pulses   : Nat                -- MSYNCO pulses emitted
  pulseEnd : Nat                -- CK_MPT cycle at which the last one ends
  deriving DecidableEq, Repr

/-- No offset and no target (02 Table MT.9). -/
def Msync.init : Msync :=
  { ofs := 0, prevOfs := 0, tgt := 0, err := 0, step := 0, bpi := 0, accepted := none, runStart := 0,
    tracking := false, absClip := false, reported := true, was := none, past := [], pulses := 0, pulseEnd := 0 }

/-- One counter of a bank (20 R461-R465): value, selector in force, overflow, captured value and overflow, and the
selector and overflow changes that wait for the next sweep boundary, and the selector that the sweep in progress brings. -/
structure Counter where
  value  : BitVec 48
  sel    : BitVec 16
  ovf    : Bool
  capVal : BitVec 48
  capOvf : Bool
  capSel : BitVec 16
  pend   : Option (BitVec 16)
  clr    : Bool
  turn   : Option (BitVec 16)
  deriving DecidableEq, Repr

/-- Counters stand at 0 with no selector after device reset (20 R462, Table CT.9). -/
def Counter.init : Counter :=
  { value := 0, sel := 0, ovf := false, capVal := 0, capOvf := false, capSel := 0, pend := none, clr := false,
    turn := none }

/-- One LOSSY queue (17 R409-R413): resident items as bytes, oldest first, the half-word position of direct reading, and
the terms of identity 9. -/
structure LossyQ where
  items       : List (List Byte)
  hw          : Nat
  produced    : Nat
  consumed    : Nat
  overwritten : Nat
  flushed     : Nat
  faulted     : Nat
  deriving DecidableEq, Repr

/-- An empty queue. -/
def LossyQ.init : LossyQ :=
  { items := [], hw := 0, produced := 0, consumed := 0, overwritten := 0, flushed := 0, faulted := 0 }

/-- The terms of identity 9 of a HOLDING or REFUSING queue (17 R422). -/
structure QAcct where
  produced : Nat
  consumed : Nat
  flushed  : Nat
  faulted  : Nat
  deriving DecidableEq, Repr

/-- Nothing has entered the queue. -/
def QAcct.init : QAcct := { produced := 0, consumed := 0, flushed := 0, faulted := 0 }

/-- One watermark (17 R417, R418); its sticky bits are in the register store. -/
structure Wm where
  armed : Bool
  peak  : Nat
  deriving DecidableEq, Repr

/-- Disarmed. -/
def Wm.init : Wm := { armed := false, peak := 0 }

/-- The pool whose credit backs a cell (17 R414). -/
inductive Pool where
  | quota | shared | rsv
  deriving DecidableEq, Repr

/-- Ring states (15 Table HR.5). -/
inductive RingState where
  | disabled | enabled | stopping | fault
  deriving DecidableEq, Repr

/-- Ring-state codes (15 Table HR.5). -/
def RingState.code : RingState → Nat
  | .disabled => 0 | .enabled => 1 | .stopping => 2 | .fault => 3

/-- One ring on the device's side (15 R369-R387). -/
structure Ring where
  st        : RingState
  base      : BitVec 64
  lg        : Nat               -- LOG2_SIZE
  vec       : Nat
  esz       : Nat
  modCnt    : Nat
  modUs     : Nat
  lastEn    : Bool              -- EN at the last poll
  hostIdx   : BitVec 32
  devIdx    : BitVec 32
  err       : BitVec 8
  rsvd      : Nat               -- entries reserved on a completion ring
  loss      : BitVec 32
  unsig     : Nat               -- entries written since the last message
  unsigAt   : Nat               -- CK_MPT cycle of the first of them
  msgDue    : Bool              -- a message waits for the status-page write (R375)
  owed      : List (List Byte)  -- completions that fell due while the ring is in FAULT (R387)
  shown     : List Byte         -- status slot content as last written, MPT left out
  consumed  : Nat               -- terms of identity 6
  completed : Nat
  flushed   : Nat
  faulted   : Nat
  grant     : List Pool         -- cells granted to the chain that waits at its head (17 R416)
  deriving DecidableEq, Repr

/-- A ring that has never been enabled. -/
def Ring.init : Ring :=
  { st := .disabled, base := 0, lg := 0, vec := 0, esz := 0, modCnt := 0, modUs := 0, lastEn := false, hostIdx := 0,
    devIdx := 0, err := 0, rsvd := 0, loss := 0, unsig := 0, unsigAt := 0, msgDue := false, owed := [],
    shown := List.replicate 16 0, consumed := 0, completed := 0, flushed := 0, faulted := 0, grant := [] }

/-- One PCIe function (15 R365-R368, R388; 24 Table AM.2): its anchor, the pages in force, Bus Master Enable, the MSI-X
masks, pending bits and messages sent per vector, host writes held while Bus Master Enable is 0, and how many errors have been
reported through AER (15 R364). -/
structure Fn where
  dbp       : BitVec 64         -- page addresses as written in the anchor
  stp       : BitVec 64
  en        : Bool              -- FN_EN
  active    : Bool
  pageFault : Bool
  lastErr   : BitVec 8
  dbpOn     : BitVec 64         -- page addresses in force
  stpOn     : BitVec 64
  bme       : Bool
  unmasked  : List Nat          -- vectors whose mask bit is 0 (masked at reset)
  pend      : List Nat          -- vectors with the pending bit set
  sent      : List (Nat × Nat)  -- messages sent per vector
  held      : List (Nat × List Byte)
  aer       : Nat               -- errors reported through AER
  deriving DecidableEq, Repr

/-- A function after reset (15 Table HR.2). -/
def Fn.init : Fn :=
  { dbp := 0, stp := 0, en := false, active := false, pageFault := false, lastErr := 0, dbpOn := 0, stpOn := 0,
    bme := false, unmasked := [], pend := [], sent := [], held := [], aer := 0 }

/-- One outstanding command (16 R394): the model's number for it, its index on the CMD ring, its descriptor, the CK_MPT
cycle of its start, and whether its completion is still written (an FLR of PF0 or a fault takes that away). -/
structure Cmd where
  id     : Nat
  idx    : BitVec 32
  desc   : CmdDesc
  start  : Nat
  report : Bool
  deriving DecidableEq, Repr

/-- One check-value unit (18 R434-R437): BUSY, HALTED, RDERR, DONE, RES and the bytes left. Its running value is what
`CVU_RUN` holds. -/
structure Cvu where
  busy   : Bool
  halted : Bool
  rdErr  : Bool
  done   : Nat
  res    : BitVec 64
  left   : Nat
  deriving DecidableEq, Repr

/-- A unit at its reset values. -/
def Cvu.init : Cvu := { busy := false, halted := false, rdErr := false, done := 0, res := 0, left := 0 }

/-- A shaping fade in progress (06 R159): samples done, its length, the bank faded from, and the SHAPE_SWAP command it
completes. -/
structure Fade where
  i    : Nat
  len  : Nat
  src  : Bool
  cmd  : Option Nat
  deriving DecidableEq, Repr

/-- A swap that waits for the end of a fade (06 R161). -/
structure Swap where
  target : Bool
  fs     : Nat
  cmd    : Option Nat
  deriving DecidableEq, Repr

/-- Occupancy of one band on one port (06 R155, R156): the bucket level in 1/1024 sample, the sample index at which the
run of emission began, and the last occupied sample. -/
structure Occ where
  level    : Nat
  runStart : Option Nat
  last     : Option Nat
  deriving DecidableEq, Repr

/-- A frame that an encode lane sends: its frame control, the MSDU it carries (0 for none), its blocks, its form (10 Table
GC.5), code rate, carriers symbol by symbol of stream 0 and, in MIMO, of stream 1 (06 R148), its window code and number of frame-control
symbols, whether its binding is MIMO (R148: streams scaled by g/√2), the words that the lane writes too late and those with a wrong S, as
runs of samples from its first (05 R120, R124), and the sample counts of its first sample and of its end. -/
structure TxFrame where
  fc      : BitVec 128
  grp     : Nat
  nh      : Nat
  msdu    : Nat
  form    : Nat
  rate    : Nat
  symbols : List (List Carrier)
  stream1 : List (List Carrier)
  tw      : Nat
  fcs     : Nat
  mimo    : Bool
  late    : List (Nat × Nat)
  badS    : List (Nat × Nat)
  start   : Nat
  stop    : Nat
  deriving DecidableEq, Repr

/-- A frame on a port's transmit stream (05 R121): which signal of the lane the port takes (0 stream 0, 1 stream 1, 2 their negated sum,
03 Table LP.4), and the sample count at which it ends on this stream. -/
structure Feed where
  frame : TxFrame
  out   : Nat
  stop  : Nat
  deriving DecidableEq, Repr

/-- One line port with its driver, canceller and shaping filter (03, 04, 06). -/
structure Port where
  enabled   : Bool                     -- driver enabled (R73); MUTED is its negation
  calFail   : Bool
  derate    : Nat
  rxGain    : Option Nat               -- gain in force from a schedule entry (R68)
  calib     : Bool                     -- converter calibration running
  calOk     : Bool                     -- last calibration passed, and nothing since calls for another
  trainOk   : Bool                     -- no cold training has failed since, or its failure is allowed (R101)
  trainEnd  : Bool                     -- cold training of this start has ended
  ocFault   : Bool                     -- faults of R77 not yet cleared
  thFault   : Bool
  ocAt      : Nat                      -- CK_MPT cycle of the over-current mute
  ocReturn  : Option Nat               -- CK_MPT cycle of the return to service after one
  ocBarred  : Bool                     -- stays out until a recalibration command names it (R78)
  ocPend    : Bool                     -- an over-current has taken it out and it has not returned
  quadWas   : Bool                     -- in service when its quadrant powered down (22 R504)
  temp      : Int
  ldacTrim  : Int
  sadcOfs   : Int
  madcOfs   : Int
  ech       : EchState
  held      : Bool
  bulkDly   : Nat
  supp      : Int
  lvl       : List (Nat × (Int × Int)) -- E and U by source slot
  lvlBp     : List (Nat × Nat)         -- beacon period of the last quiet-interval pair by source slot
  divWin    : Nat
  overPrev  : Bool
  goodWins  : List Int
  trainAsk  : Bool
  bank      : Bool                     -- shaping bank in force: false A, true B
  fade      : Option Fade
  swap      : Option Swap
  occ       : List (Nat × Occ)
  dqWin     : List Nat                 -- sufficient DERATE of the measurements of the last 100 us
  trainAt   : Option Nat               -- sample count of the first training symbol (R99)
  fed       : List Feed                -- the last two frames on its transmit stream, latest first
  sent      : Nat                      -- samples with B = 1 sent (R97, R104)
  winAt     : Nat                      -- `sent` as the residue window in progress began
  quiet     : List (Nat × Nat)         -- by source slot: its `sent` as the quiet interval in progress on this port began (R97)
  seen      : Nat                      -- sample count up to which the converters' samples have been judged (03 R69, 08 R208)
  pre       : List Int                 -- pre-canceller, 32 coefficients of 18 bits (R92)
  td        : List Int                 -- time-domain canceller, 96 coefficients of 18 bits (R93)
  corr      : List Int                 -- correlation of residue and reference gathered in this slot, by tap (R105)
  tdRef     : Nat                      -- energy of those at the end of the last cold training (R104)
  tabs      : List (Nat × List (Int × Int)) -- residual tables by source slot: a complex coefficient per block of four carriers (R95)
  deriving DecidableEq, Repr

/-- A port after reset (03 Table LP.10, 04 Table FD.9, 06 Table WF.7; log 8 for derate and temperature). -/
def Port.init : Port :=
  { enabled := false, calFail := false, derate := 0, rxGain := none, calib := false, calOk := false,
    trainOk := false, trainEnd := false, ocFault := false, thFault := false, ocAt := 0, ocReturn := none,
    ocBarred := false, ocPend := false, quadWas := false, temp := 25, ldacTrim := 0, sadcOfs := 0, madcOfs := 0, ech := .idle,
    held := true, bulkDly := 0, supp := 0, lvl := [], lvlBp := [], divWin := 0, overPrev := false,
    goodWins := [], trainAsk := false, bank := false, fade := none, swap := none, occ := [], dqWin := [],
    trainAt := none, fed := [], sent := 0, winAt := 0, quiet := [], seen := 0, pre := [], td := [], corr := [], tdRef := 0,
    tabs := [] }

/-- Where an MSDU comes from and what its end reports to: a host chain (ring key, DATA descriptor index, cookie), a
cut-through forward (ingress handle and SEQ), or the device itself (message code, a tag of the sending procedure, the
command it serves). -/
inductive Origin where
  | host (ring : Nat) (idx : BitVec 32) (cookie : BitVec 32)
  | fwd (ingress : Nat) (grp : Nat) (seq : Nat)
  | own (code : Nat) (tag : Nat) (cmd : Option Nat)
  deriving DecidableEq, Repr

/-- One unacknowledged physical block of a downlink MSDU: its position and the pool of its cell. -/
structure Block where
  idx   : Nat
  pool  : Pool
  deriving DecidableEq, Repr

/-- A downlink MSDU in the device (11 R277-R288, 12 R308). `nh` is not used where `bcast` is set. -/
structure Msdu where
  id      : Nat
  origin  : Origin
  mgmt    : Bool
  nh      : Nat
  grp     : Nat
  bcast   : Bool
  ftag    : Nat
  enc     : Bool                 -- protection asked for by the descriptor
  data    : List Byte            -- plaintext MSDU
  body    : List Byte            -- frame body as built at the first transmission (R277), empty before
  prot    : Bool                 -- the body is protected
  seq     : Nat                  -- SEQ, once assigned
  base    : Nat                  -- PBSN of block 0
  sentOnce : Bool                -- SEQ assigned, a first transmission made
  n       : Nat                  -- blocks of the frame body (R277)
  blocks  : List Block           -- those not yet acknowledged, once their cells are taken
  tries   : Nat
  life    : Nat                  -- beacon periods counted against MSDU_LIFE up to `lifeBp`
  lifeBp  : Nat
  sent    : List Nat             -- blocks of the transmission in flight, in order
  spanEnd : Option Nat           -- sample count at which its ACK span ends
  ending  : Option Nat           -- the status it ends with once its ACK span is over (Table LR.8, R323, Table IN.2)
  heldBp  : Option Nat
  clid    : Option Nat           -- clave identifier (20 R469)
  faulty  : List (Nat × Nat)     -- blocks whose cell is marked faulty, with the cell (18 R430, R432)
  deriving DecidableEq, Repr

/-- An uplink MSDU in reassembly (11 R289): blocks held with the pool of their cell. -/
structure Reasm where
  seq   : Nat
  last  : Nat
  base  : Nat
  enc   : Bool
  orig  : Nat
  final : Nat
  hop   : Nat
  parts : List (Nat × List Byte × Pool)
  clid  : Option Nat
  faulty : Option Nat            -- a cell marked faulty (18 R430, R432)
  deriving DecidableEq, Repr

/-- What a DORMANT node's polls follow (12 R306-R320). -/
structure Dorm where
  p     : Nat
  pofs  : Nat
  slope : Nat
  req   : Nat
  ppm   : Nat
  next  : Nat
  k     : Nat
  deriving DecidableEq, Repr

/-- A zero-crossing sample turned into MPT phase, with its beacon period (10 R271). -/
structure ZcSample where
  bp : Nat
  z  : Nat
  deriving DecidableEq, Repr

/-- Discards of this beacon period under one ST code (16 R407): count and MPT of the first. -/
structure Discard where
  st    : Nat
  count : Nat
  mpt   : Nat
  bp    : Nat
  deriving DecidableEq, Repr

/-- One node handle with its neighbour entry (11 Table LR.6), queues and timers. -/
structure Node where
  eui      : BitVec 64
  st       : NodeState
  grp      : Nat
  saddr    : Nat
  cls      : Nat
  phase    : Nat
  pol      : Bool
  mimoCap  : Bool
  relayCap : Bool
  dormCap  : Bool
  profMask : Nat
  bmaxN    : Nat
  parent   : Nat
  depth    : Nat
  txSeq    : Nat
  rxSeq    : Nat
  rxValid  : Bool
  rxMap    : Nat
  txFc     : Nat
  rxFc     : Nat
  rxFcMap  : Nat
  key0     : Option (List Byte)
  key1     : Option (List Byte)
  txKey    : Bool
  txPbsn   : Nat
  pendUl   : Bool
  pendDl   : Bool
  reasm    : Option Reasm
  counts   : List Nat
  nonce    : Nat
  askBp    : Option Nat          -- beacon period of a pending ASK query
  stBp     : Nat                 -- beacon period of the last change of state
  heardBp  : Nat                 -- beacon period of the last accepted frame
  zc       : List ZcSample
  dorm     : Option Dorm
  regrant  : Bool                -- DORM_GRANT is due after the sounding (12 R318)
  txq      : List Msdu
  cur      : Option Msdu
  heldq    : List Msdu
  disc     : List Discard
  evictDue : Bool                -- EVICT still to be sent
  ulAsk    : Bool                -- an uplink allocation is owed (R286)
  ulBp     : Option Nat          -- beacon period of the last uplink allocation planned (10 R258)
  pollBp   : Option Nat          -- beacon period of the last accepted POLL (12 R315)
  deriving DecidableEq, Repr

/-- A free node handle (01 R35). -/
def Node.init : Node :=
  { eui := 0, st := .unknown, grp := 0, saddr := 0, cls := 0, phase := 0, pol := false, mimoCap := false,
    relayCap := false, dormCap := false, profMask := 0, bmaxN := 0, parent := 0, depth := 0, txSeq := 0, rxSeq := 0,
    rxValid := false, rxMap := 0, txFc := 0, rxFc := 0, rxFcMap := 0, key0 := none, key1 := none, txKey := false,
    txPbsn := 0, pendUl := false, pendDl := false, reasm := none, counts := List.replicate 8 0, nonce := 0,
    askBp := none, stBp := 0, heardBp := 0, zc := [], dorm := none, regrant := false, txq := [], cur := none,
    heldq := [], disc := [], evictDue := false, ulAsk := false, ulBp := none, pollBp := none }

/-- A received MSDU that waits for delivery (15 R384, R385). -/
structure RxMsdu where
  nh     : Nat
  seq    : Nat
  ftag   : Nat
  data   : List Byte
  encd   : Bool
  copy   : Bool
  failed : Bool                  -- delivered with ST_FWD_FAIL (11 R300)
  cells  : List Pool
  at_    : Nat                   -- CK_MPT cycle of its checks
  faulty : List (Nat × Nat)      -- chunks of its frame body whose cell is marked faulty, with the cell (18 R430)
  clid   : Option Nat
  deriving DecidableEq, Repr

/-- A receive buffer in the pool (15 R383). -/
structure RxBuf where
  addr   : BitVec 64
  blen   : Nat
  idx    : BitVec 32
  cookie : BitVec 32
  deriving DecidableEq, Repr

/-- A cut-through forward that waits for cells (11 R299, R300): its number, the egress node, whether the host gets a copy,
the MSDU with the ingress group whose cells it holds, and the beacon period of its checks. -/
structure FwdWait where
  id     : Nat
  egress : Nat
  copy   : Bool
  msdu   : RxMsdu
  bp     : Nat
  grp    : Nat
  deriving DecidableEq, Repr

/-- A request that waits for credits (17 R416): rank of R29 (2 relay, 3 held, 4 host), the group it draws on, the cells it
needs, and what is granted. -/
inductive WaitFor where
  | forward (id : Nat)
  | chain (ring : Nat)
  deriving DecidableEq, Repr

/-- One waiting request. -/
structure Waiter where
  rank  : Nat
  grp   : Nat
  need  : Nat
  what  : WaitFor
  deriving DecidableEq, Repr

/-- A mask change that has been announced (06 R153, 10 R251, 16 R398). -/
structure MaskChange where
  entries : List (BitVec 32)
  ver     : Nat
  effBp   : Option Nat        -- set when the first beacon carries it
  cmd     : Nat
  deriving DecidableEq, Repr

/-- One group (01 R33, 10, 15, 17). -/
structure Group where
  st        : GroupState
  startCmd  : Option Nat
  calBp     : Option Nat            -- beacon period in which the last converter calibration of a start ended
  maskVer   : Nat
  maskNext  : Option MaskChange
  maskWas   : Option (Nat × List (BitVec 32)) -- the mask before the last change, and the sample count of the change
  frozen    : List (Nat × Plan)
  firstBcn  : Option Nat
  lastBcn   : Option Nat
  entryProf : Nat
  addrRel   : List (Nat × Nat)      -- short address, beacon period of its release
  addrMemo  : List (BitVec 64 × Nat) -- last short address of an EUI-64
  bq        : List Msdu
  rxq       : List RxMsdu
  rxPool    : List RxBuf
  dropCount : Nat
  dropMpt   : Nat
  dropBp    : Nat
  quota     : Nat                   -- quota credits taken
  borrowed  : Nat
  seqGiven  : Nat                   -- terms of identities 7 and 8
  seqDone   : Nat
  rxPassed  : Nat
  rxGiven   : Nat
  rxForw    : Nat
  rxUsed    : Nat
  rxDropped : Nat
  acksOdd   : Nat                   -- ACKs ignored because they answer no transmission (11 R285)
  strays    : Nat                   -- MSDUs discarded because `ORIG` names no node of the group (11 R295)
  deriving DecidableEq, Repr

/-- A group in DOWN after reset; stored tone-map entries are of the reset profile W86 (code 1). -/
def Group.init : Group :=
  { st := .down, startCmd := none, calBp := none, maskVer := 0, maskNext := none, maskWas := none, frozen := [], firstBcn := none, lastBcn := none,
    entryProf := 1, addrRel := [], addrMemo := [], bq := [], rxq := [], rxPool := [], dropCount := 0, dropMpt := 0,
    dropBp := 0, quota := 0, borrowed := 0, seqGiven := 0, seqDone := 0, rxPassed := 0, rxGiven := 0, rxForw := 0,
    rxUsed := 0, rxDropped := 0, acksOdd := 0, strays := 0 }

/-- Acquisition states of a decode lane (07 R186, Table FF.6). -/
inductive Acq where
  | unbound | armed | timing | sync | fc | window | payload
  deriving DecidableEq, Repr

/-- How a received frame's SEQ was classified (11 R291). -/
inductive SeqClass where
  | fresh | retrans | dup | none
  deriving DecidableEq, Repr

/-- An acknowledgement the device owes (11 R282): the guard code, the node, the SEQ, the bitmap, the sample count at which it is due, and the
preamble level of the frame it answers. -/
structure AckOwed where
  gi     : Nat
  grp    : Nat
  nh     : Nat
  aseq   : Nat
  bitmap : Nat
  due    : Nat
  poll   : Bool
  clid   : Option Nat
  level  : Int
  deriving DecidableEq, Repr

/-- One received symbol: its blanked processing samples, whether it is erased (08 R209), and per receive tap what each open carrier gave,
after the residual canceller, in 2^-48 code. -/
structure RxSym where
  blanked : Nat
  erased  : Bool
  ys      : List (List Cx)
  deriving DecidableEq, Repr

/-- A reception (07 R172-R175, 08 R209-R212): the sample count of the first sample after the preamble (until timing is found: of the end of
the window of the detection), guard code, preamble level, profile and mask of the frame, the number of its frame-control symbols, receive
ports with their gains and the ports of the echo-reference taps, its symbols so far, latest first, the pilot errors of the non-erased
numbered ones with their places after the preamble, latest first, and whether the last of them stood `STEP_DB` above the mean; its steps:
place, and whether a transient brought it; the first taps, by receive tap and open carrier; frame control as decoded; the beacon period
and the schedule entry that bound the lane as the preamble was detected; the blocks, by place, that parity errors of the lane's working memory
have touched (18 Table IN.3). -/
structure Rx where
  origin : Nat
  gi     : Nat
  level  : Int
  prof   : Nat
  fcs    : Nat
  ports  : List Nat
  gains  : List Nat
  erf    : List Nat
  mask   : List (BitVec 32)
  rise   : Bool
  steps  : List (Nat × Bool)
  errs   : List (Nat × Nat)
  syms   : List RxSym
  pre    : List (List Cx)
  fcGot  : BitVec 128
  alloc  : Option (Nat × DecEntry)
  upset  : List Nat
  deriving DecidableEq, Repr

/-- Nothing received. -/
def Rx.init : Rx :=
  { origin := 0, gi := 0, level := 0, prof := 1, fcs := 0, ports := [], gains := [], erf := [], mask := [], rise := false, steps := []
    errs := [], syms := [], pre := [], fcGot := 0, alloc := none, upset := [] }

/-- A frame whose frame control a decode lane has accepted (07 R186): its node, the class of its `SEQ`, whether no block of it is
decoded (09 R236), its clave identifier, the sample count of the end of its last payload symbol, the allocation it came in, the
slot unit of its first sample, by payload symbol the entry that decodes it (09 R236) and the segment index in which it lies whole
(09 R223), what was received of it, and, once its last symbol is demodulated, its blocks as decoded. -/
structure RxFrame where
  fc      : BitVec 128
  grp     : Nat
  nh      : Option Nat
  cls     : SeqClass
  blind   : Bool
  clid    : Option Nat
  lastSym : Nat
  alloc   : Option DecEntry
  arrival : Nat
  ents    : List (Option Entry)
  segs    : List (Option Nat)
  rx      : Rx
  pbs     : Option (List (List Byte))
  deriving DecidableEq, Repr

/-- One decode lane (05 R121-R133, 07 R172-R186, 08 R209-R213): its taps and schedule entry; the acquisition, whether its capture window is
open, what it has of the preamble in hand and of the frame up to the acceptance of its frame control, what the second detector
holds of another (07 R180), the frame in reception; frames that have ended and are still to be decoded; an accepted ACK not yet
judged; the acknowledgement it owes; the CK_MPT cycle of its last frame-control failure (07 Table FF.7). -/
structure DecLane where
  taps    : List Tap
  stap    : Option Tap
  erf     : List Nat              -- ports of the echo-reference taps
  capture : Bool
  bound   : Option DecEntry
  grp     : Nat
  acq     : Acq
  win     : Bool
  failAt  : Option Nat
  ack     : Option AckOwed
  rx      : Rx
  second  : Option Rx
  frame   : Option RxFrame
  ended   : List RxFrame
  ackIn   : Option RxFrame
  deriving DecidableEq, Repr

/-- An unbound lane. -/
def DecLane.init : DecLane :=
  { taps := [], stap := none, erf := [], capture := false, bound := none, grp := 0, acq := .unbound, win := false, failAt := none
    ack := none, rx := Rx.init, second := none, frame := none, ended := [], ackIn := none }

/-- What a lane has of the frame in hand. -/
def DecLane.cur (x : DecLane) : Rx := match x.frame with | some f => f.rx | none => x.rx

/-- The lane with another state of the frame in hand. -/
def DecLane.setCur (x : DecLane) (r : Rx) : DecLane :=
  match x.frame with | some f => { x with frame := some { f with rx := r } } | none => { x with rx := r }

/-- One encode lane: the ports it drives, its schedule entry, the MSDUs that may fill it, fixed as its allocation began (10 R256); what
the start of the slot in progress has fixed (the STALE segment indices of the node's downlink set, 09 R234; the MPT; the CK_MPT cycle);
the frame it sends, and the sample count before which it starts no frame (11 Table LR.4). -/
structure EncLane where
  outs     : List Nat
  bound    : Option EncEntry
  grp      : Nat
  fill     : List Nat
  stale    : List Nat
  slotMpt  : Nat
  slotClk  : Nat
  frame    : Option TxFrame
  nextAt   : Nat
  deriving DecidableEq, Repr

/-- An unbound lane. -/
def EncLane.init : EncLane :=
  { outs := [], bound := none, grp := 0, fill := [], stale := [], slotMpt := 0, slotClk := 0, frame := none, nextAt := 0 }

/-- Update states of a tone-map set (09 R230, Table TM.5). -/
inductive UpdState where
  | free | built | scheduled
  deriving DecidableEq, Repr

/-- One tone-map set (09 R218, R230, R231): version, update state, whether its update has gone out and so fixed its boundary, the
announced boundary, counted sends, parts and the parts acknowledged, and entries of a rebuild held until the commit. -/
structure MapSet where
  ver    : Nat
  upd    : UpdState
  sent   : Bool
  effBp  : Nat
  effSeg : Nat
  sends  : Nat
  nparts : Nat
  acked  : List Nat
  heldR  : List Entry
  serial : Nat                  -- numbers the sends, so that an older send's acknowledgement is told apart
  deriving DecidableEq, Repr

/-- Set version 0 and no update. -/
def MapSet.init : MapSet :=
  { ver := 0, upd := .free, sent := false, effBp := 0, effSeg := 0, sends := 0, nparts := 0, acked := [], heldR := [], serial := 0 }

/-- One tone-map key (09 R217): both copies, the STALE mark, the latest tone-group SNR, and the CK_MPT cycle in which its copies last
exchanged roles (09 R242). -/
structure MapKey where
  active : Option Entry
  shadow : Option Entry
  built  : Bool                 -- SHADOW has been written since the last exchange
  stale  : Bool
  snr    : List Nat
  swapAt : Option Nat
  deriving DecidableEq, Repr

/-- An empty key. -/
def MapKey.init : MapKey := { active := none, shadow := none, built := false, stale := false, snr := [], swapAt := none }

/-- One received symbol of a sounding session (09 R223): the segment index in which it lies whole, its number in its frame, whether it
carries two streams, the receive gains, and per receive tap and open carrier what it gave over its known sign, in 2^-48 code. -/
structure SndSym where
  seg   : Nat
  m     : Nat
  mimo  : Bool
  gains : List Nat
  z     : List (List (Nat × Cx))
  deriving DecidableEq, Repr

/-- A sounding session (09 R221-R224, R241): its identifier, node, direction, the indices asked for and those measured,
the beacon period of its last allocation once placed, the mark it answers, what was asked for once it had been placed and the mark of
that, the commands it serves, the sounding frames sent and the index of the last one, whether it has ended (kept until those commands
complete), and the symbols received in it. -/
structure Sess where
  id     : Nat
  nh     : Nat
  up     : Bool
  segs   : Nat
  got    : Nat
  endBp  : Option Nat
  mark   : Option Nat
  more   : Nat
  moreMark : Option Nat
  cmds   : List Nat
  frames : Nat
  lastFr : Nat
  done   : Bool
  rcvd   : List SndSym
  deriving DecidableEq, Repr

/-- A route change in progress (16 NODE_ROUTE, 11 R296): its command, node, new parent, RELAY_SET messages not yet
acknowledged, and whether one has failed. -/
structure Route where
  cmd    : Nat
  nh     : Nat
  parent : Nat
  left   : Nat
  deriving DecidableEq, Repr

/-- Entries fetched and pinned for a slot (09 R233): the slot, the set, the segment and the copy, with its cache lines. -/
structure Pin where
  bp    : Nat
  unit  : Nat
  stop  : Nat
  set   : Nat
  ver   : Nat
  entry : Entry
  lines : Nat
  deriving DecidableEq, Repr

/-- A request to the maintenance arbiter (21 R473-R478): kind, ports, arrival stamp, who made it, its command, the kind that
ran on the port when it was queued, and the sounding session it serves. -/
structure MntReq where
  kind   : Nat
  ports  : List Nat
  stamp  : Nat
  cmd    : Option Nat
  accept : Nat
  found  : Nat
  sess   : Option Nat
  deriving DecidableEq, Repr

/-- A running activity: the request and its grant, and the commands merged with it (R477). -/
structure MntRun where
  req    : MntReq
  grant  : Nat
  placed : Option Nat           -- beacon period it is planned for
  deriving DecidableEq, Repr

/-- A command merged with a request of its kind on a port (21 R477, R478), or with a training of a group's start, which no request brought
about (04 Table FD.7). -/
structure MntMerge where
  kind   : Nat
  port   : Nat
  cmd    : Nat
  accept : Nat
  found  : Nat
  start  : Bool
  deriving DecidableEq, Repr

/-- A policy record (16 R399). -/
structure Policy where
  eui    : BitVec 64
  weight : Nat
  encReq : Bool
  mimoOk : Bool
  allow  : Bool
  deny   : Bool
  grp    : Nat
  deriving DecidableEq, Repr

/-- A forwarding entry (16 R400). -/
structure FwdEntry where
  grp    : Nat
  ftag   : Nat
  egress : Nat
  copy   : Bool
  deriving DecidableEq, Repr

/-- A capture in hand (16 R403): its command, the start MPT and the first beacon period it may begin in, its length in
samples, its five tap fields, the lane once bound with the index and the MPT of its first sample, the records written, and
for a capture that has been flushed the records staged by then. -/
structure Capt where
  cmd     : Nat
  start   : Nat
  firstBp : Nat
  len     : Nat
  taps    : List Nat
  lane    : Option Nat
  n0      : Nat
  mpt0    : Nat
  written : Nat
  flushed : Option Nat
  deriving DecidableEq, Repr

/-- A switching operation in the device queue (14 R351-R357): its number, output, action, target, pulse width and tag, whether
it is committed, the holdover flag, the MPT of its edges, the CK_SWO cycle of its last edge, the readback fault, its result
address, and the command it completes. -/
structure SwoOp where
  id        : Nat
  out       : Nat
  act       : Nat
  t         : Nat
  pw        : Nat
  tag       : Nat
  committed : Bool
  hold      : Bool
  mpt1      : Option Nat
  mpt2      : Option Nat
  at1       : Nat
  checked   : Bool              -- the readback of the last edge has been made
  pinFault  : Bool
  raddr     : BitVec 64
  cmd       : Nat
  deriving DecidableEq, Repr

/-- Set states (13 Table ME.3). -/
inductive SetState where
  | stopped | armed | running
  deriving DecidableEq, Repr

/-- Set-state codes (13 Table ME.10). -/
def SetState.code : SetState → Nat
  | .stopped => 0 | .armed => 1 | .running => 2

/-- One measurement set (13 R336-R342): state, target MPT, the sync point, next RSEQ, a stop that waits for
its last record, the chain of each of its inputs, and the MEAS_START command that waits for the sync point. -/
structure MSet where
  st     : SetState
  target : Nat
  sync   : Nat                   -- its modulator edge, ns since reset
  rseq   : Nat
  ends   : Option Nat            -- outputs after which it stops
  stops  : List Nat              -- commands that wait for that
  chains : List (Nat × Chain)
  cmd    : Option Nat
  deriving DecidableEq, Repr

/-- A STOPPED set. -/
def MSet.init : MSet := { st := .stopped, target := 0, sync := 0, rseq := 0, ends := none, stops := [], chains := [], cmd := none }

/-- Measurement (13): inputs in modulator fault with the bit value held, the sets, the derived chains, theta of the voltage inputs,
the cycle whose derived record is due next, whether any part of it was in holdover, whether the modulator clocks run and since which
CK_MPT cycle, how many outputs the derived chains have had, and the timestamps of those whose record is due. -/
structure Meas where
  fault   : List (Nat × Bool)
  sets    : List (Nat × MSet)
  der     : List (Nat × Chain)
  theta   : List (Nat × Nat)
  cyc     : Nat
  cycHold : Bool
  clocks  : Bool
  start   : Nat
  derN    : Nat
  stamps  : List Nat
  deriving DecidableEq, Repr

/-- Nothing measured. -/
def Meas.init : Meas :=
  { fault := [], sets := [], der := [], theta := [], cyc := 0, cycHold := false, clocks := false, start := 0, derN := 0, stamps := [] }

/-- The boot ROM (19 R445-R447, 22 R498): held while PERST# is low, held before step 1 after a THERMAL fault with what it will meet, ended with a
verified source (code of SEC_BOOT.SRC) or without one. -/
inductive Rom where
  | held
  | cooling (io : BootIo)
  | verified (src : Nat)
  | failed
  | done
  deriving DecidableEq, Repr

/-- Root of trust (19): the OTP fields, the boot in progress and the running image, keys, log, staging area and flash. -/
structure Sec where
  lifecycle  : Nat
  arbCtr     : BitVec 64
  kd         : List (List Byte)
  revoked    : Nat
  rom        : Rom
  attempts   : Nat
  trial      : Bool
  lastFail   : Nat
  src        : Nat
  area       : List Byte          -- signed area of the running or verified image
  restricted : Bool               -- SAFE was entered by a boot failure (R447)
  started    : Bool               -- a DEV_START has been accepted since the boot
  commit     : Bool               -- an image commit runs
  trngFail   : Bool               -- a TRNG health test reports a failure
  kek        : Option (List Byte)
  dbgOpen    : Bool
  nonce      : BitVec 256
  token      : List Byte
  log        : List (Nat × List Byte)
  stage      : List (Nat × Byte)  -- staging area, unlisted bytes 0
  stageLen   : Nat
  pendImg    : Bool               -- the staged image is pending for the next boot
  trialCopy  : List Byte
  slotA      : Option BootSrc     -- flash slots as last read or written
  slotB      : Option BootSrc
  hasB       : Bool
  deriving DecidableEq, Repr

/-- A part as shipped, with an empty staging area (19 Table SE.1: FIELD; log 8 for the rest). -/
def Sec.init : Sec :=
  { lifecycle := 2, arbCtr := 0, kd := List.replicate 4 (List.replicate 64 0), revoked := 0, rom := .held, attempts := 0,
    trial := false, lastFail := 0, src := 15, area := [], restricted := false, started := false, commit := false,
    trngFail := false, kek := none, dbgOpen := false, nonce := 0, token := [], log := [], stage := [], stageLen := 0,
    pendImg := false, trialCopy := [], slotA := none, slotB := none, hasB := false }

/-- V33OUT (22 R497): off, up, or off after an overload. -/
inductive V33 where
  | off | up | tripped
  deriving DecidableEq, Repr

/-- Power and temperature (22). -/
structure Power where
  perst   : Bool
  vinOk   : Bool                  -- VIN is valid
  vin     : Nat                   -- latest measurement, mV
  ovMute  : Bool
  temps   : List Int
  talert  : Bool
  qdown   : Nat
  v33     : V33
  v33At   : Nat                   -- CK_SWO count when V33OUT last switched off or tried again
  sysref  : Bool
  bootsel : Nat
  thermal : Bool                  -- SAFE was entered by a THERMAL fault
  lost    : Bool                  -- VIN has been below 1 V for 100 ms
  cause   : Nat
  l3      : Nat
  width   : Nat                   -- PCIe link
  speed   : Nat
  training : Bool
  deriving DecidableEq, Repr

/-- No supply (log 2). -/
def Power.init : Power :=
  { perst := false, vinOk := false, vin := 0, ovMute := false, temps := List.replicate 8 25, talert := false, qdown := 0,
    v33 := .off, v33At := 0, sysref := false, bootsel := 0, thermal := false, lost := true, cause := 0, l3 := 0, width := 0,
    speed := 0, training := false }

/-- JTAG (19 R457): the word last shifted out, the boundary register, and words written over debug access by space and
address. -/
structure Jtag where
  tdo   : BitVec 256
  cells : List Bool
  dbg   : List (Nat × BitVec 32)
  deriving DecidableEq, Repr

/-- Nothing shifted. -/
def Jtag.init : Jtag := { tdo := 0, cells := [], dbg := [] }

/-- The maintenance arbiter and the scrubber (21 R475-R479): waiting and running requests, merged commands, and the keys
whose scrub yielded to a commit, by copy address. -/
structure Mnt where
  reqs    : List MntReq
  runs    : List MntRun
  merges  : List MntMerge
  stamp   : Nat
  revisit : List Nat
  fclass  : Nat
  refOff  : Nat
  deriving DecidableEq, Repr

/-- No request. -/
def Mnt.init : Mnt := { reqs := [], runs := [], merges := [], stamp := 0, revisit := [], fclass := 0, refOff := 0 }

/-- Queues and credits (17): the LOSSY queues, the terms of the others, watermarks, reserve credits taken, requests that
wait for cells, cells marked faulty in free use. -/
structure Ques where
  lossy   : List (Nat × LossyQ)
  acct    : List (Nat × QAcct)
  wm      : List (Nat × Wm)
  rsv     : Nat
  waiters : List Waiter
  deriving DecidableEq, Repr

/-- Empty queues, every credit free. -/
def Ques.init : Ques := { lossy := [], acct := [], wm := [], rsv := 0, waiters := [] }

/-- Counters and the tagger (20): the counters, the sweep number, commands that wait for the next sweep (CNT_SET, and
CNT_SNAP), the sweep that runs, the LFSR, the next clave identifier, and the stages and groups of TRACE_CFG in the register
store. -/
structure Counts where
  cells : List (Nat × Counter)
  swn   : Nat
  sets  : List Nat
  snaps : List Nat
  ix    : Option Nat             -- counters captured by the sweep that runs
  mpt   : Nat                    -- MPT at its boundary
  swept : Nat                    -- CK_MPT cycle of the last boundary
  us    : Nat                    -- `SWEEP_US` as that boundary found it
  dueSets  : List Nat            -- commands that the sweep ends
  dueSnaps : List Nat
  lfsr  : Nat
  clid  : Nat
  deriving DecidableEq, Repr

/-- All counters 0, the tagger at its reset seed 1. -/
def Counts.init : Counts := 
  { cells := [], swn := 0, sets := [], snaps := [], ix := none, mpt := 0, swept := 0, us := 1000, dueSets := [], dueSnaps := [],
    lfsr := 1, clid := 0 }

end Sys2Proof.Machine
end

