-- ==== Sys2Proof/Machine/Filter.lean ====
section
/-! DEFINITION. The decimation chain of the measurement inputs and of the timebase's taps: CIC, combs, FIR (13 R331, R332; 02 R39). -/

namespace Sys2Proof.Machine

/-! ### The chain (13 R331, R332) -/

/-- `sat18`. -/
def sat18 (i : Int) : Int := clampI (-131072) 131071 i

/-- One modulator clock through the integrators: each takes the one before it as just updated. -/
def integrate (x : BitVec 52) : List (BitVec 52) → List (BitVec 52)
  | [] => []
  | a :: rest => (a + x) :: integrate (a + x) rest

/-- Captured bits through the integrators. -/
def integrateBits (acc : List (BitVec 52)) (bs : List Bool) : List (BitVec 52) :=
  bs.foldl (fun a b => integrate (if b then 1 else -1) a) acc

/-- The combs at a decimation instant: the output and the new registers. -/
def combs (y : BitVec 52) : List (BitVec 52) → BitVec 52 × List (BitVec 52)
  | [] => (y, [])
  | c :: rest => let r := combs (y - c) rest; (r.1, y :: r.2)

/-- The comb output of a chain of order `n` and decimation 2^`e`, scaled to 18 bits before saturation. -/
def cicScale (n e : Nat) (y : BitVec 52) : Int :=
  if 17 ≤ n * e then (y.toInt + (2 ^ (n * e - 17) / 2 : Nat)) / ((2 ^ (n * e - 17) : Nat) : Int)
  else y.toInt * ((2 ^ (17 - n * e) : Nat) : Int)

/-- A chain configuration: order, decimation exponent, coefficients. -/
structure ChainCfg where
  n    : Nat
  e    : Nat
  coef : List Int

/-- One output of a chain: sample, saturation, SETTLING, FAULT, and the chain after it. `faulty` tells whether the input is
in modulator fault now (13 R339). -/
structure ChainOut where
  sample : Int
  ovr    : Bool
  settle : Bool
  fault  : Bool
  chain  : Chain

/-- How long the last of some bits has been held, after `n` clocks of the value `v` (13 R330). -/
def heldRun (v : Bool) (n : Nat) (bs : List Bool) : Bool × Nat :=
  bs.foldl (fun (a : Bool × Nat) b => if a.2 ≠ 0 ∧ b = a.1 then (b, a.2 + 1) else (b, 1)) (v, n)

/-- The chain takes the bits of one output period. -/
def Chain.output (c : Chain) (cfg : ChainCfg) (faulty : Bool) (bs : List Bool) : ChainOut :=
  let acc := integrateBits (c.acc.take cfg.n) bs
  let r := combs (acc.getD (cfg.n - 1) 0) (c.cmb.take cfg.n)
  let raw := cicScale cfg.n cfg.e r.1
  let s := sat18 raw
  let fir := (s :: c.fir).take 32
  let y := ((cfg.coef.zip fir).map (fun x => x.1 * x.2)).foldl (· + ·) 0
  let out := (y + 32768) / 65536
  { sample := sat18 out, ovr := decide (s ≠ raw ∨ sat18 out ≠ out), settle := decide (c.outs < cfg.n + 31)
    fault := faulty || decide (0 < c.tail)
    chain := { bit := (heldRun c.bit c.run bs).1, run := (heldRun c.bit c.run bs).2, acc := acc ++ List.replicate (5 - cfg.n) 0, cmb := r.2 ++ List.replicate (5 - cfg.n) 0, fir := fir
               outs := c.outs + 1, tail := if faulty then cfg.n + 31 else c.tail - 1 } }

/-- Coefficients of a ROM response. -/
def romCoefs (r : Nat) : List Int := (List.range 32).map (fun t => (Config.romCoef r t).toInt)

end Sys2Proof.Machine
end

