-- ==== Sys2Proof/Machine/Regs.lean ====
section
/-! DEFINITION. The register map of BAR 0: offsets, reset words and field maps (24 R523, R529, R530, Tables AM.2 and
AM.3, and each block's own field map). Read-only fields of hardware state are not stored; the register view
(RegView.lean) computes them. -/

namespace Sys2Proof.Machine

/-- The access codes of Table SC.4 (00 R7). -/
inductive Acc where
  | rw | ro | w1c | w1s | wo | rc | rwl
  deriving DecidableEq, Repr

/-- One field of a register: its bits and its access. -/
structure RegField where
  hi  : Nat
  lo  : Nat
  acc : Acc
  deriving DecidableEq, Repr

/-- One register of Tables AM.2 and AM.3: base offset, index strides with their counts, whether its chapter marks it
writable in RUN, its reset word by index, its fields. -/
structure RegSpec where
  base   : Nat
  dims   : List (Nat × Nat)
  run    : Bool
  reset  : List Nat → Nat
  fields : List RegField

/-- Offset of `IDENT` (Tables AM.2, AM.3). -/
def Reg.ident : Nat := 0x0

/-- Offset of `MSIX_TABLE` (Tables AM.2, AM.3). -/
def Reg.msixTable (v w : Nat) : Nat := 0x8000 + v * 0x10 + w * 0x4

/-- Offset of `MSIX_PBA` (Tables AM.2, AM.3). -/
def Reg.msixPba : Nat := 0x9000

/-- Offset of `PWR_CTRL` (Tables AM.2, AM.3). -/
def Reg.pwrCtrl : Nat := 0x20000

/-- Offset of `PWR_THERM` (Tables AM.2, AM.3). -/
def Reg.pwrTherm : Nat := 0x20004

/-- Offset of `PWR_STAT` (Tables AM.2, AM.3). -/
def Reg.pwrStat : Nat := 0x20008

/-- Offset of `PWR_VIN` (Tables AM.2, AM.3). -/
def Reg.pwrVin : Nat := 0x2000C

/-- Offset of `PWR_STRAP` (Tables AM.2, AM.3). -/
def Reg.pwrStrap : Nat := 0x20010

/-- Offset of `PWR_TEMP_n` (Tables AM.2, AM.3). -/
def Reg.pwrTemp (n : Nat) : Nat := 0x20020 + n * 0x4

/-- Offset of `MPT_CTRL` (Tables AM.2, AM.3). -/
def Reg.mptCtrl : Nat := 0x40000

/-- Offset of `MPT_REF` (Tables AM.2, AM.3). -/
def Reg.mptRef : Nat := 0x40004

/-- Offset of `MPT_PHASE_OFS` (Tables AM.2, AM.3). -/
def Reg.mptPhaseOfs : Nat := 0x40008

/-- Offset of `MPT_ALT_OFS` (Tables AM.2, AM.3). -/
def Reg.mptAltOfs : Nat := 0x4000C

/-- Offset of `MPT_THR` (Tables AM.2, AM.3). -/
def Reg.mptThr : Nat := 0x40010

/-- Offset of `MPT_LOM` (Tables AM.2, AM.3). -/
def Reg.mptLom : Nat := 0x40014

/-- Offset of `MPT_SLEW` (Tables AM.2, AM.3). -/
def Reg.mptSlew : Nat := 0x40018

/-- Offset of `MPT_STATUS` (Tables AM.2, AM.3). -/
def Reg.mptStatus : Nat := 0x40020

/-- Offset of `MPT_NOW_LO` (Tables AM.2, AM.3). -/
def Reg.mptNowLo : Nat := 0x40024

/-- Offset of `MPT_NOW_HI` (Tables AM.2, AM.3). -/
def Reg.mptNowHi : Nat := 0x40028

/-- Offset of `MPT_FREQ` (Tables AM.2, AM.3). -/
def Reg.mptFreq : Nat := 0x4002C

/-- Offset of `MPT_PHASE_ERR` (Tables AM.2, AM.3). -/
def Reg.mptPhaseErr : Nat := 0x40030

/-- Offset of `MPT_SEGB_Pk` (Tables AM.2, AM.3). -/
def Reg.mptSegbP (k1 : Nat) : Nat := 0x40040 + k1 * 0x4

/-- Offset of `MPT_SEGB_Nk` (Tables AM.2, AM.3). -/
def Reg.mptSegbN (k1 : Nat) : Nat := 0x40060 + k1 * 0x4

/-- Offset of `MPT_MSYNC_CTRL` (Tables AM.2, AM.3). -/
def Reg.msyncCtrl : Nat := 0x50000

/-- Offset of `MPT_MSYNC_RATE` (Tables AM.2, AM.3). -/
def Reg.msyncRate : Nat := 0x50004

/-- Offset of `MPT_MSYNC_ABS` (Tables AM.2, AM.3). -/
def Reg.msyncAbs : Nat := 0x50008

/-- Offset of `MPT_MSYNC_DLY` (Tables AM.2, AM.3). -/
def Reg.msyncDly : Nat := 0x5000C

/-- Offset of `MPT_MSYNCO_CTRL` (Tables AM.2, AM.3). -/
def Reg.msyncoCtrl : Nat := 0x50010

/-- Offset of `MPT_MSYNC_STATUS` (Tables AM.2, AM.3). -/
def Reg.msyncStatus : Nat := 0x50014

/-- Offset of `MPT_MSYNC_OFS` (Tables AM.2, AM.3). -/
def Reg.msyncOfs : Nat := 0x50018

/-- Offset of `MPT_MSYNC_TGT` (Tables AM.2, AM.3). -/
def Reg.msyncTgt : Nat := 0x5001C

/-- Offset of `MPT_MSYNC_ERR` (Tables AM.2, AM.3). -/
def Reg.msyncErr : Nat := 0x50020

/-- Offset of `MEAS_CTRL` (Tables AM.2, AM.3). -/
def Reg.measCtrl : Nat := 0x60000

/-- Offset of `MEAS_IF` (Tables AM.2, AM.3). -/
def Reg.measIf : Nat := 0x60004

/-- Offset of `MEAS_FAULT` (Tables AM.2, AM.3). -/
def Reg.measFault : Nat := 0x60008

/-- Offset of `MEAS_STAT` (Tables AM.2, AM.3). -/
def Reg.measStat : Nat := 0x6000C

/-- Offset of `MEAS_FNOW_j` (Tables AM.2, AM.3). -/
def Reg.measFnow (j : Nat) : Nat := 0x60010 + j * 0x4

/-- Offset of `MEAS_VOFS_i` (Tables AM.2, AM.3). -/
def Reg.measVofs (i : Nat) : Nat := 0x60040 + i * 0x4

/-- Offset of `MEAS_SET_CFG_k` (Tables AM.2, AM.3). -/
def Reg.measSetCfg (k : Nat) : Nat := 0x60100 + k * 0x20

/-- Offset of `MEAS_SET_CHj_k` (Tables AM.2, AM.3). -/
def Reg.measSetCh (k j : Nat) : Nat := 0x60104 + k * 0x20 + j * 0x4

/-- Offset of `MEAS_SET_STAT_k` (Tables AM.2, AM.3). -/
def Reg.measSetStat (k : Nat) : Nat := 0x60114 + k * 0x20

/-- Offset of `MEAS_FIR_k_t` (Tables AM.2, AM.3). -/
def Reg.measFir (k t : Nat) : Nat := 0x61000 + k * 0x80 + t * 0x4

/-- Offset of `MEAS_FROM_r_t` (Tables AM.2, AM.3). -/
def Reg.measFrom (r1 t : Nat) : Nat := 0x62000 + r1 * 0x80 + t * 0x4

/-- Offset of `SWO_CTRL` (Tables AM.2, AM.3). -/
def Reg.swoCtrl : Nat := 0x70000

/-- Offset of `SWO_CFG` (Tables AM.2, AM.3). -/
def Reg.swoCfg : Nat := 0x70004

/-- Offset of `SWO_TIME` (Tables AM.2, AM.3). -/
def Reg.swoTime : Nat := 0x70008

/-- Offset of `SWO_STAT` (Tables AM.2, AM.3). -/
def Reg.swoStat : Nat := 0x7000C

/-- Offset of `SWO_QUEUE` (Tables AM.2, AM.3). -/
def Reg.swoQueue : Nat := 0x70010

/-- Offset of `HIF_CTRL` (Tables AM.2, AM.3). -/
def Reg.hifCtrl : Nat := 0x80000

/-- Offset of `HIF_DBPOLL` (Tables AM.2, AM.3). -/
def Reg.hifDbpoll : Nat := 0x80004

/-- Offset of `HIF_RXHOLD` (Tables AM.2, AM.3). -/
def Reg.hifRxhold : Nat := 0x80008

/-- Offset of `HIF_STAT` (Tables AM.2, AM.3). -/
def Reg.hifStat : Nat := 0x8000C

/-- Offset of `HIF_LINK` (Tables AM.2, AM.3). -/
def Reg.hifLink : Nat := 0x80010

/-- Offset of `QUE_CTRL` (Tables AM.2, AM.3). -/
def Reg.queCtrl : Nat := 0xA0000

/-- Offset of `QUE_POOL` (Tables AM.2, AM.3). -/
def Reg.quePool : Nat := 0xA0004

/-- Offset of `QUE_SHARED` (Tables AM.2, AM.3). -/
def Reg.queShared : Nat := 0xA0008

/-- Offset of `QUE_STAT` (Tables AM.2, AM.3). -/
def Reg.queStat : Nat := 0xA000C

/-- Offset of `QUE_FREE` (Tables AM.2, AM.3). -/
def Reg.queFree : Nat := 0xA0010

/-- Offset of `QUE_GRP_g` (Tables AM.2, AM.3). -/
def Reg.queGrp (g : Nat) : Nat := 0xA0100 + g * 0x4

/-- Offset of `QUE_GRP_RX_g` (Tables AM.2, AM.3). -/
def Reg.queGrpRx (g : Nat) : Nat := 0xA0200 + g * 0x4

/-- Offset of `QUE_GRP_USE_g` (Tables AM.2, AM.3). -/
def Reg.queGrpUse (g : Nat) : Nat := 0xA0300 + g * 0x4

/-- Offset of `QUE_WM_CFG_q` (Tables AM.2, AM.3). -/
def Reg.queWmCfg (q : Nat) : Nat := 0xA1000 + q * 0x10

/-- Offset of `QUE_WM_STAT_q` (Tables AM.2, AM.3). -/
def Reg.queWmStat (q : Nat) : Nat := 0xA1004 + q * 0x10

/-- Offset of `QUE_OCC_q` (Tables AM.2, AM.3). -/
def Reg.queOcc (q : Nat) : Nat := 0xA1008 + q * 0x10

/-- Offset of `QUE_DRD_q` (Tables AM.2, AM.3). -/
def Reg.queDrd (q : Nat) : Nat := 0xA100C + q * 0x10

/-- Offset of `CVU_CFG_u` (Tables AM.2, AM.3). -/
def Reg.cvuCfg (u : Nat) : Nat := 0xB0100 + u * 0x40

/-- Offset of `CVU_ADDR_LO_u` (Tables AM.2, AM.3). -/
def Reg.cvuAddrLo (u : Nat) : Nat := 0xB0104 + u * 0x40

/-- Offset of `CVU_ADDR_HI_u` (Tables AM.2, AM.3). -/
def Reg.cvuAddrHi (u : Nat) : Nat := 0xB0108 + u * 0x40

/-- Offset of `CVU_LEN_u` (Tables AM.2, AM.3). -/
def Reg.cvuLen (u : Nat) : Nat := 0xB010C + u * 0x40

/-- Offset of `CVU_RUN_LO_u` (Tables AM.2, AM.3). -/
def Reg.cvuRunLo (u : Nat) : Nat := 0xB0110 + u * 0x40

/-- Offset of `CVU_RUN_HI_u` (Tables AM.2, AM.3). -/
def Reg.cvuRunHi (u : Nat) : Nat := 0xB0114 + u * 0x40

/-- Offset of `CVU_RES_LO_u` (Tables AM.2, AM.3). -/
def Reg.cvuResLo (u : Nat) : Nat := 0xB0118 + u * 0x40

/-- Offset of `CVU_RES_HI_u` (Tables AM.2, AM.3). -/
def Reg.cvuResHi (u : Nat) : Nat := 0xB011C + u * 0x40

/-- Offset of `CVU_DONE_u` (Tables AM.2, AM.3). -/
def Reg.cvuDone (u : Nat) : Nat := 0xB0120 + u * 0x40

/-- Offset of `CVU_STAT_u` (Tables AM.2, AM.3). -/
def Reg.cvuStat (u : Nat) : Nat := 0xB0124 + u * 0x40

/-- Offset of `CVU_FEED_u` (Tables AM.2, AM.3). -/
def Reg.cvuFeed (u : Nat) : Nat := 0xB0128 + u * 0x40

/-- Offset of `SEC_CTRL` (Tables AM.2, AM.3). -/
def Reg.secCtrl : Nat := 0xC0000

/-- Offset of `SEC_BOOT` (Tables AM.2, AM.3). -/
def Reg.secBoot : Nat := 0xC0004

/-- Offset of `SEC_SVN_LO` (Tables AM.2, AM.3). -/
def Reg.secSvnLo : Nat := 0xC0008

/-- Offset of `SEC_SVN_HI` (Tables AM.2, AM.3). -/
def Reg.secSvnHi : Nat := 0xC000C

/-- Offset of `SEC_CTR_LO` (Tables AM.2, AM.3). -/
def Reg.secCtrLo : Nat := 0xC0010

/-- Offset of `SEC_CTR_HI` (Tables AM.2, AM.3). -/
def Reg.secCtrHi : Nat := 0xC0014

/-- Offset of `SEC_OTP` (Tables AM.2, AM.3). -/
def Reg.secOtp : Nat := 0xC0018

/-- Offset of `SEC_DBG` (Tables AM.2, AM.3). -/
def Reg.secDbg : Nat := 0xC001C

/-- Offset of `SEC_DEVID_i` (Tables AM.2, AM.3). -/
def Reg.secDevid (i : Nat) : Nat := 0xC0020 + i * 0x4

/-- Offset of `SEC_STAT` (Tables AM.2, AM.3). -/
def Reg.secStat : Nat := 0xC0030

/-- Offset of `SEC_LOG` (Tables AM.2, AM.3). -/
def Reg.secLog : Nat := 0xC0034

/-- Offset of `CNT_CTRL` (Tables AM.2, AM.3). -/
def Reg.cntCtrl : Nat := 0xD0000

/-- Offset of `CNT_SWEEP` (Tables AM.2, AM.3). -/
def Reg.cntSweep : Nat := 0xD0004

/-- Offset of `CNT_CLV` (Tables AM.2, AM.3). -/
def Reg.cntClv : Nat := 0xD0008

/-- Offset of `CNT_CLV_SEED` (Tables AM.2, AM.3). -/
def Reg.cntClvSeed : Nat := 0xD000C

/-- Offset of `CNT_STAT` (Tables AM.2, AM.3). -/
def Reg.cntStat : Nat := 0xD0010

/-- Offset of `CNT_SEL_b_c` (Tables AM.2, AM.3). -/
def Reg.cntSel (b c : Nat) : Nat := 0xD1000 + b * 0x40 + c * 0x4

/-- Offset of `CNT_OVF_b` (Tables AM.2, AM.3). -/
def Reg.cntOvf (b : Nat) : Nat := 0xD2000 + b * 0x4

/-- Offset of `CNT_VAL_LO_b_c` (Tables AM.2, AM.3). -/
def Reg.cntValLo (b c : Nat) : Nat := 0xD4000 + b * 0x80 + c * 0x8

/-- Offset of `CNT_VAL_HI_b_c` (Tables AM.2, AM.3). -/
def Reg.cntValHi (b c : Nat) : Nat := 0xD4004 + b * 0x80 + c * 0x8

/-- Offset of `MNT_CTRL` (Tables AM.2, AM.3). -/
def Reg.mntCtrl : Nat := 0xE0000

/-- Offset of `MNT_STAT` (Tables AM.2, AM.3). -/
def Reg.mntStat : Nat := 0xE0004

/-- Offset of `MNT_FSTAT` (Tables AM.2, AM.3). -/
def Reg.mntFstat : Nat := 0xE0008

/-- Offset of `MNT_FLAST` (Tables AM.2, AM.3). -/
def Reg.mntFlast : Nat := 0xE000C

/-- Offset of `MNT_RSTC` (Tables AM.2, AM.3). -/
def Reg.mntRstc : Nat := 0xE0010

/-- Offset of `MNT_WR_REF` (Tables AM.2, AM.3). -/
def Reg.mntWrRef : Nat := 0xE0014

/-- Offset of `MNT_ARB_p` (Tables AM.2, AM.3). -/
def Reg.mntArb (p : Nat) : Nat := 0xE0100 + p * 0x4

/-- Offset of `CAR_CTRL` (Tables AM.2, AM.3). -/
def Reg.carCtrl : Nat := 0x400000

/-- Offset of `CAR_LEAD` (Tables AM.2, AM.3). -/
def Reg.carLead : Nat := 0x400004

/-- Offset of `CAR_STAT` (Tables AM.2, AM.3). -/
def Reg.carStat : Nat := 0x400008

/-- Offset of `CAR_QPRES` (Tables AM.2, AM.3). -/
def Reg.carQpres : Nat := 0x40000C

/-- Offset of `CAR_DLBIND_A_d` (Tables AM.2, AM.3). -/
def Reg.carDlbindA (d : Nat) : Nat := 0x401000 + d * 0x10

/-- Offset of `CAR_DLBIND_B_d` (Tables AM.2, AM.3). -/
def Reg.carDlbindB (d : Nat) : Nat := 0x401004 + d * 0x10

/-- Offset of `CAR_DLBIND_C_d` (Tables AM.2, AM.3). -/
def Reg.carDlbindC (d : Nat) : Nat := 0x401008 + d * 0x10

/-- Offset of `CAR_DLBIND_D_d` (Tables AM.2, AM.3). -/
def Reg.carDlbindD (d : Nat) : Nat := 0x40100C + d * 0x10

/-- Offset of `CAR_ELBIND_e` (Tables AM.2, AM.3). -/
def Reg.carElbind (e : Nat) : Nat := 0x402000 + e * 0x4

/-- Offset of `MAR_CTRL` (Tables AM.2, AM.3). -/
def Reg.marCtrl : Nat := 0x500000

/-- Offset of `MAR_LOAD` (Tables AM.2, AM.3). -/
def Reg.marLoad : Nat := 0x500004

/-- Offset of `MAR_UPD` (Tables AM.2, AM.3). -/
def Reg.marUpd : Nat := 0x500008

/-- Offset of `MAR_STAT` (Tables AM.2, AM.3). -/
def Reg.marStat : Nat := 0x50000C

/-- Offset of `MAR_CACHE` (Tables AM.2, AM.3). -/
def Reg.marCache : Nat := 0x500010

/-- Offset of `MAR_GDEF_g` (Tables AM.2, AM.3). -/
def Reg.marGdef (g : Nat) : Nat := 0x500100 + g * 0x4

/-- Offset of `GONG_CTRL` (Tables AM.2, AM.3). -/
def Reg.gongCtrl : Nat := 0x600000

/-- Offset of `GONG_GRID` (Tables AM.2, AM.3). -/
def Reg.gongGrid : Nat := 0x600004

/-- Offset of `GONG_ASSOC` (Tables AM.2, AM.3). -/
def Reg.gongAssoc : Nat := 0x600008

/-- Offset of `GONG_NODE` (Tables AM.2, AM.3). -/
def Reg.gongNode : Nat := 0x60000C

/-- Offset of `GONG_ZC` (Tables AM.2, AM.3). -/
def Reg.gongZc : Nat := 0x600010

/-- Offset of `GONG_STAT` (Tables AM.2, AM.3). -/
def Reg.gongStat : Nat := 0x600014

/-- Offset of `GONG_GRP_g` (Tables AM.2, AM.3). -/
def Reg.gongGrp (g : Nat) : Nat := 0x600100 + g * 0x4

/-- Offset of `GRP_CTRL` (Tables AM.2, AM.3). -/
def Reg.grpCtrl (g : Nat) : Nat := 0x100000 + g * 0x10000

/-- Offset of `GRP_ROLE` (Tables AM.2, AM.3). -/
def Reg.grpRole (g : Nat) : Nat := 0x100004 + g * 0x10000

/-- Offset of `GRP_PORT_CFGs` (Tables AM.2, AM.3). -/
def Reg.portCfg (g s : Nat) : Nat := 0x100100 + g * 0x10000 + s * 0x40

/-- Offset of `GRP_PORT_LIMs` (Tables AM.2, AM.3). -/
def Reg.portLim (g s : Nat) : Nat := 0x100104 + g * 0x10000 + s * 0x40

/-- Offset of `GRP_PORT_STATs` (Tables AM.2, AM.3). -/
def Reg.portStat (g s : Nat) : Nat := 0x100108 + g * 0x10000 + s * 0x40

/-- Offset of `GRP_PORT_TEMPs` (Tables AM.2, AM.3). -/
def Reg.portTemp (g s : Nat) : Nat := 0x10010C + g * 0x10000 + s * 0x40

/-- Offset of `GRP_PORT_CALs` (Tables AM.2, AM.3). -/
def Reg.portCal (g s : Nat) : Nat := 0x100110 + g * 0x10000 + s * 0x40

/-- Offset of `GRP_ECH_CTRL` (Tables AM.2, AM.3). -/
def Reg.echCtrl (g : Nat) : Nat := 0x100200 + g * 0x10000

/-- Offset of `GRP_ECH_THR` (Tables AM.2, AM.3). -/
def Reg.echThr (g : Nat) : Nat := 0x100204 + g * 0x10000

/-- Offset of `GRP_ECH_STEP` (Tables AM.2, AM.3). -/
def Reg.echStep (g : Nat) : Nat := 0x100208 + g * 0x10000

/-- Offset of `GRP_ECH_STATs` (Tables AM.2, AM.3). -/
def Reg.echStat (g s : Nat) : Nat := 0x100240 + g * 0x10000 + s * 0x40

/-- Offset of `GRP_ECH_INFOs` (Tables AM.2, AM.3). -/
def Reg.echInfo (g s : Nat) : Nat := 0x100244 + g * 0x10000 + s * 0x40

/-- Offset of `GRP_ECH_LVLs_q` (Tables AM.2, AM.3). -/
def Reg.echLvl (g s q : Nat) : Nat := 0x100250 + g * 0x10000 + s * 0x40 + q * 0x4

/-- Offset of `GRP_WF_CTRL` (Tables AM.2, AM.3). -/
def Reg.wfCtrl (g : Nat) : Nat := 0x100400 + g * 0x10000

/-- Offset of `GRP_WF_STATs` (Tables AM.2, AM.3). -/
def Reg.wfStat (g s : Nat) : Nat := 0x100480 + g * 0x10000 + s * 0x10

/-- Offset of `GRP_MASK_n` (Tables AM.2, AM.3). -/
def Reg.mask (g n : Nat) : Nat := 0x100500 + g * 0x10000 + n * 0x4

/-- Offset of `GRP_OCC_BAND_b` (Tables AM.2, AM.3). -/
def Reg.occBand (g b : Nat) : Nat := 0x100600 + g * 0x10000 + b * 0x10

/-- Offset of `GRP_OCC_LIM_b` (Tables AM.2, AM.3). -/
def Reg.occLim (g b : Nat) : Nat := 0x100604 + g * 0x10000 + b * 0x10

/-- Offset of `GRP_OCC_RATE_b` (Tables AM.2, AM.3). -/
def Reg.occRate (g b : Nat) : Nat := 0x100608 + g * 0x10000 + b * 0x10

/-- Offset of `GRP_OCC_LVL_s_b` (Tables AM.2, AM.3). -/
def Reg.occLvl (g s b : Nat) : Nat := 0x100700 + g * 0x10000 + s * 0x20 + b * 0x4

/-- Offset of `GRP_SHAPE_s_X_t` (Tables AM.2, AM.3). -/
def Reg.shape (g s x t : Nat) : Nat := 0x100800 + g * 0x10000 + s * 0x200 + x * 0x100 + t * 0x4

/-- Offset of `GRP_FF_CTRL` (Tables AM.2, AM.3). -/
def Reg.ffCtrl (g : Nat) : Nat := 0x101000 + g * 0x10000

/-- Offset of `GRP_FF_DET` (Tables AM.2, AM.3). -/
def Reg.ffDet (g : Nat) : Nat := 0x101004 + g * 0x10000

/-- Offset of `GRP_FF_STAT` (Tables AM.2, AM.3). -/
def Reg.ffStat (g : Nat) : Nat := 0x101008 + g * 0x10000

/-- Offset of `GRP_CC_CTRL` (Tables AM.2, AM.3). -/
def Reg.ccCtrl (g : Nat) : Nat := 0x101100 + g * 0x10000

/-- Offset of `GRP_CC_BLK` (Tables AM.2, AM.3). -/
def Reg.ccBlk (g : Nat) : Nat := 0x101104 + g * 0x10000

/-- Offset of `GRP_CC_TRAN` (Tables AM.2, AM.3). -/
def Reg.ccTran (g : Nat) : Nat := 0x101108 + g * 0x10000

/-- Offset of `GRP_CC_STAT` (Tables AM.2, AM.3). -/
def Reg.ccStat (g : Nat) : Nat := 0x10110C + g * 0x10000

/-- Offset of `GRP_LR_CTRL` (Tables AM.2, AM.3). -/
def Reg.lrCtrl (g : Nat) : Nat := 0x101200 + g * 0x10000

/-- Offset of `GRP_LR_FWD` (Tables AM.2, AM.3). -/
def Reg.lrFwd (g : Nat) : Nat := 0x101204 + g * 0x10000

/-- Offset of `GRP_LR_STAT` (Tables AM.2, AM.3). -/
def Reg.lrStat (g : Nat) : Nat := 0x101208 + g * 0x10000

/-- Offset of `GRP_DN_CTRL` (Tables AM.2, AM.3). -/
def Reg.dnCtrl (g : Nat) : Nat := 0x101300 + g * 0x10000

/-- Offset of `GRP_DN_GUARD` (Tables AM.2, AM.3). -/
def Reg.dnGuard (g : Nat) : Nat := 0x101304 + g * 0x10000

/-- Offset of `GRP_DN_POLL` (Tables AM.2, AM.3). -/
def Reg.dnPoll (g : Nat) : Nat := 0x101308 + g * 0x10000

/-- Offset of `GRP_DN_HELD` (Tables AM.2, AM.3). -/
def Reg.dnHeld (g : Nat) : Nat := 0x10130C + g * 0x10000

/-- Offset of `GRP_DN_LIFE` (Tables AM.2, AM.3). -/
def Reg.dnLife (g : Nat) : Nat := 0x101310 + g * 0x10000

/-- Offset of `GRP_DN_STAT` (Tables AM.2, AM.3). -/
def Reg.dnStat (g : Nat) : Nat := 0x101314 + g * 0x10000

/-- The registers of the identity block (R529, R530 and the block's field map). -/
def identityRegs : List RegSpec := [
  -- IDENT
  { base := 0x0, dims := [], run := false, reset := fun _ => 0x91280010,
    fields := [⟨31, 0, .ro⟩] },
  -- MSIX_TABLE: message address low and high, message data, vector control; reserved bits by the layout of PCI Express (log 25)
  { base := 0x8000, dims := [(0x10, 16)], run := true, reset := fun _ => 0, fields := [⟨31, 2, .rw⟩] },
  { base := 0x8004, dims := [(0x10, 16), (0x4, 2)], run := true, reset := fun _ => 0, fields := [⟨31, 0, .rw⟩] },
  { base := 0x800C, dims := [(0x10, 16)], run := true, reset := fun _ => 1, fields := [⟨0, 0, .rw⟩] },
  -- MSIX_PBA
  { base := 0x9000, dims := [], run := true, reset := fun _ => 0,
    fields := [⟨31, 0, .ro⟩] }]

/-- The registers of the power block (R529, R530 and the block's field map). -/
def powerRegs : List RegSpec := [
  -- PWR_CTRL
  { base := 0x20000, dims := [], run := false, reset := fun _ => 1,
    fields := [⟨31, 31, .w1s⟩, ⟨0, 0, .rwl⟩] },
  -- PWR_THERM
  { base := 0x20004, dims := [], run := false, reset := fun _ => 0x7064,
    fields := [⟨15, 8, .rwl⟩, ⟨7, 0, .rwl⟩] },
  -- PWR_STAT
  { base := 0x20008, dims := [], run := true, reset := fun _ => 0,
    fields := [⟨11, 8, .ro⟩, ⟨7, 7, .ro⟩, ⟨6, 6, .w1c⟩, ⟨5, 5, .w1c⟩, ⟨4, 4, .w1c⟩, ⟨3, 3, .w1c⟩, ⟨2, 2, .w1c⟩, ⟨1, 1, .ro⟩, ⟨0, 0, .ro⟩] },
  -- PWR_VIN
  { base := 0x2000C, dims := [], run := false, reset := fun _ => 0,
    fields := [⟨15, 0, .ro⟩] },
  -- PWR_STRAP
  { base := 0x20010, dims := [], run := false, reset := fun _ => 0,
    fields := [⟨1, 0, .ro⟩] },
  -- PWR_TEMP_n
  { base := 0x20020, dims := [(0x4, 8)], run := false, reset := fun _ => 0,
    fields := [⟨8, 0, .ro⟩] }]

/-- The registers of the timebase block (R529, R530 and the block's field map). -/
def timebaseRegs : List RegSpec := [
  -- MPT_CTRL
  { base := 0x40000, dims := [], run := false, reset := fun _ => 0x10E8,
    fields := [⟨31, 31, .w1s⟩, ⟨15, 8, .rwl⟩, ⟨7, 6, .rwl⟩, ⟨5, 4, .rwl⟩, ⟨3, 3, .rwl⟩, ⟨1, 1, .rwl⟩] },
  -- MPT_REF
  { base := 0x40004, dims := [], run := false, reset := fun _ => 0x10,
    fields := [⟨6, 4, .rwl⟩, ⟨2, 0, .rwl⟩] },
  -- MPT_PHASE_OFS
  { base := 0x40008, dims := [], run := false, reset := fun _ => 0,
    fields := [⟨23, 0, .rwl⟩] },
  -- MPT_ALT_OFS
  { base := 0x4000C, dims := [], run := false, reset := fun _ => 0x555555,
    fields := [⟨23, 0, .rwl⟩] },
  -- MPT_THR
  { base := 0x40010, dims := [], run := false, reset := fun _ => 0x100C,
    fields := [⟨12, 8, .rwl⟩, ⟨4, 0, .rwl⟩] },
  -- MPT_LOM
  { base := 0x40014, dims := [], run := false, reset := fun _ => 0x8021A,
    fields := [⟨19, 16, .rwl⟩, ⟨11, 8, .rwl⟩, ⟨7, 0, .rwl⟩] },
  -- MPT_SLEW
  { base := 0x40018, dims := [], run := false, reset := fun _ => 0xE,
    fields := [⟨4, 0, .rwl⟩] },
  -- MPT_STATUS
  { base := 0x40020, dims := [], run := true, reset := fun _ => 0,
    fields := [⟨11, 11, .w1c⟩, ⟨10, 10, .w1c⟩, ⟨9, 9, .w1c⟩, ⟨7, 5, .ro⟩, ⟨4, 4, .ro⟩, ⟨3, 3, .ro⟩, ⟨2, 2, .ro⟩, ⟨1, 1, .ro⟩, ⟨0, 0, .ro⟩] },
  -- MPT_NOW_LO
  { base := 0x40024, dims := [], run := false, reset := fun _ => 0,
    fields := [⟨31, 0, .ro⟩] },
  -- MPT_NOW_HI
  { base := 0x40028, dims := [], run := false, reset := fun _ => 0,
    fields := [⟨15, 0, .ro⟩] },
  -- MPT_FREQ
  { base := 0x4002C, dims := [], run := false, reset := fun _ => 0,
    fields := [⟨31, 0, .ro⟩] },
  -- MPT_PHASE_ERR
  { base := 0x40030, dims := [], run := false, reset := fun _ => 0,
    fields := [⟨23, 0, .ro⟩] },
  -- MPT_SEGB_Pk
  { base := 0x40040, dims := [(0x4, 7)], run := false, reset := fun ix => (ix.getD 0 0 + 1) * 0x100000,
    fields := [⟨22, 0, .rwl⟩] },
  -- MPT_SEGB_Nk
  { base := 0x40060, dims := [(0x4, 7)], run := false, reset := fun ix => (ix.getD 0 0 + 1) * 0x100000,
    fields := [⟨22, 0, .rwl⟩] },
  -- MPT_MSYNC_CTRL
  { base := 0x50000, dims := [], run := false, reset := fun _ => 0x140000,
    fields := [⟨31, 31, .w1s⟩, ⟨20, 16, .rwl⟩, ⟨15, 8, .rwl⟩, ⟨1, 1, .rwl⟩, ⟨0, 0, .rwl⟩] },
  -- MPT_MSYNC_RATE
  { base := 0x50004, dims := [], run := false, reset := fun _ => 0x4000,
    fields := [⟨14, 0, .rwl⟩] },
  -- MPT_MSYNC_ABS
  { base := 0x50008, dims := [], run := false, reset := fun _ => 0x80000,
    fields := [⟨19, 0, .rwl⟩] },
  -- MPT_MSYNC_DLY
  { base := 0x5000C, dims := [], run := false, reset := fun _ => 0,
    fields := [⟨15, 0, .rwl⟩] },
  -- MPT_MSYNCO_CTRL
  { base := 0x50010, dims := [], run := false, reset := fun _ => 0xA00,
    fields := [⟨23, 16, .rwl⟩, ⟨15, 8, .rwl⟩, ⟨1, 1, .rwl⟩, ⟨0, 0, .rwl⟩] },
  -- MPT_MSYNC_STATUS
  { base := 0x50014, dims := [], run := true, reset := fun _ => 0,
    fields := [⟨11, 11, .w1c⟩, ⟨10, 10, .w1c⟩, ⟨9, 9, .w1c⟩, ⟨8, 8, .w1c⟩, ⟨1, 1, .ro⟩, ⟨0, 0, .ro⟩] },
  -- MPT_MSYNC_OFS
  { base := 0x50018, dims := [], run := false, reset := fun _ => 0,
    fields := [⟨20, 0, .ro⟩] },
  -- MPT_MSYNC_TGT
  { base := 0x5001C, dims := [], run := false, reset := fun _ => 0,
    fields := [⟨20, 0, .ro⟩] },
  -- MPT_MSYNC_ERR
  { base := 0x50020, dims := [], run := false, reset := fun _ => 0,
    fields := [⟨23, 0, .ro⟩] }]

/-- The registers of the meas block (R529, R530 and the block's field map). -/
def measRegs : List RegSpec := [
  -- MEAS_CTRL
  { base := 0x60000, dims := [], run := false, reset := fun _ => 1,
    fields := [⟨31, 31, .w1s⟩, ⟨0, 0, .rwl⟩] },
  -- MEAS_IF
  { base := 0x60004, dims := [], run := false, reset := fun _ => 0x3000000,
    fields := [⟨25, 25, .rwl⟩, ⟨24, 24, .rwl⟩, ⟨13, 8, .rwl⟩, ⟨5, 0, .rwl⟩] },
  -- MEAS_FAULT
  { base := 0x60008, dims := [], run := false, reset := fun _ => 0x100,
    fields := [⟨11, 0, .rwl⟩] },
  -- MEAS_STAT
  { base := 0x6000C, dims := [], run := true, reset := fun _ => 0,
    fields := [⟨2, 2, .w1c⟩, ⟨1, 1, .w1c⟩, ⟨0, 0, .w1c⟩] },
  -- MEAS_FNOW_j
  { base := 0x60010, dims := [(0x4, 4)], run := false, reset := fun _ => 0,
    fields := [⟨31, 0, .ro⟩] },
  -- MEAS_VOFS_i
  { base := 0x60040, dims := [(0x4, 8)], run := false, reset := fun _ => 0,
    fields := [⟨23, 0, .rwl⟩] },
  -- MEAS_SET_CFG_k
  { base := 0x60100, dims := [(0x20, 8)], run := false, reset := fun _ => 0x8040800,
    fields := [⟨27, 24, .rw⟩, ⟨18, 16, .rw⟩, ⟨11, 8, .rw⟩] },
  -- MEAS_SET_CHj_k
  { base := 0x60104, dims := [(0x20, 8), (0x4, 3)], run := false, reset := fun _ => 0,
    fields := [⟨31, 0, .rw⟩] },
  { base := 0x60110, dims := [(0x20, 8)], run := false, reset := fun _ => 0,
    fields := [⟨7, 0, .rw⟩] },
  -- MEAS_SET_STAT_k
  { base := 0x60114, dims := [(0x20, 8)], run := false, reset := fun _ => 0,
    fields := [⟨9, 8, .ro⟩] },
  -- MEAS_FIR_k_t
  { base := 0x61000, dims := [(0x80, 8), (0x4, 32)], run := false, reset := fun ix => if ix.getD 1 0 = 15 ∨ ix.getD 1 0 = 16 then 0x8000 else 0,
    fields := [⟨17, 0, .rw⟩] },
  -- MEAS_FROM_r_t
  { base := 0x62000, dims := [(0x80, 12), (0x4, 32)], run := false, reset := fun _ => 0,
    fields := [⟨17, 0, .ro⟩] }]

/-- The registers of the swoHif block (R529, R530 and the block's field map). -/
def swoHifRegs : List RegSpec := [
  -- SWO_CTRL
  { base := 0x70000, dims := [], run := false, reset := fun _ => 0,
    fields := [⟨31, 31, .w1s⟩, ⟨15, 0, .rwl⟩] },
  -- SWO_CFG
  { base := 0x70004, dims := [], run := false, reset := fun _ => 0,
    fields := [⟨31, 16, .rwl⟩, ⟨15, 0, .rwl⟩] },
  -- SWO_TIME
  { base := 0x70008, dims := [], run := false, reset := fun _ => 0x140001,
    fields := [⟨25, 16, .rwl⟩, ⟨7, 0, .rwl⟩] },
  -- SWO_STAT
  { base := 0x7000C, dims := [], run := true, reset := fun _ => 0,
    fields := [⟨17, 17, .w1c⟩, ⟨16, 16, .w1c⟩, ⟨15, 0, .ro⟩] },
  -- SWO_QUEUE
  { base := 0x70010, dims := [], run := false, reset := fun _ => 0,
    fields := [⟨8, 0, .ro⟩] },
  -- HIF_CTRL
  { base := 0x80000, dims := [], run := false, reset := fun _ => 1,
    fields := [⟨31, 31, .w1s⟩, ⟨0, 0, .rwl⟩] },
  -- HIF_DBPOLL
  { base := 0x80004, dims := [], run := false, reset := fun _ => 0x7D0,
    fields := [⟨19, 0, .rwl⟩] },
  -- HIF_RXHOLD
  { base := 0x80008, dims := [], run := false, reset := fun _ => 0x3E8,
    fields := [⟨15, 0, .rwl⟩] },
  -- HIF_STAT
  { base := 0x8000C, dims := [], run := true, reset := fun _ => 0,
    fields := [⟨4, 4, .w1c⟩, ⟨3, 3, .w1c⟩, ⟨2, 2, .w1c⟩, ⟨1, 1, .w1c⟩, ⟨0, 0, .w1c⟩] },
  -- HIF_LINK
  { base := 0x80010, dims := [], run := false, reset := fun _ => 0,
    fields := [⟨7, 4, .ro⟩, ⟨2, 0, .ro⟩] }]

/-- The registers of the queue block (R529, R530 and the block's field map). -/
def queueRegs : List RegSpec := [
  -- QUE_CTRL
  { base := 0xA0000, dims := [], run := false, reset := fun _ => 1,
    fields := [⟨31, 31, .w1s⟩, ⟨0, 0, .rwl⟩] },
  -- QUE_POOL
  { base := 0xA0004, dims := [], run := false, reset := fun _ => 0x800,
    fields := [⟨15, 0, .rwl⟩] },
  -- QUE_SHARED
  { base := 0xA0008, dims := [], run := false, reset := fun _ => 0x7800,
    fields := [⟨16, 0, .ro⟩] },
  -- QUE_STAT
  { base := 0xA000C, dims := [], run := true, reset := fun _ => 0,
    fields := [⟨2, 2, .w1c⟩, ⟨1, 1, .w1c⟩, ⟨0, 0, .w1c⟩] },
  -- QUE_FREE
  { base := 0xA0010, dims := [], run := false, reset := fun _ => 0x18000,
    fields := [⟨16, 0, .ro⟩] },
  -- QUE_GRP_g
  { base := 0xA0100, dims := [(0x4, 32)], run := false, reset := fun _ => 0x8001000,
    fields := [⟨31, 16, .rwl⟩, ⟨15, 0, .rwl⟩] },
  -- QUE_GRP_RX_g
  { base := 0xA0200, dims := [(0x4, 32)], run := false, reset := fun _ => 0x100,
    fields := [⟨11, 0, .rwl⟩] },
  -- QUE_GRP_USE_g
  { base := 0xA0300, dims := [(0x4, 32)], run := false, reset := fun _ => 0,
    fields := [⟨16, 0, .ro⟩] },
  -- QUE_WM_CFG_q
  { base := 0xA1000, dims := [(0x10, 113)], run := false, reset := fun _ => 0xFFFF0000,
    fields := [⟨31, 16, .rwl⟩, ⟨15, 0, .rwl⟩] },
  -- QUE_WM_STAT_q
  { base := 0xA1004, dims := [(0x10, 113)], run := true, reset := fun _ => 0,
    fields := [⟨31, 31, .w1s⟩, ⟨30, 30, .ro⟩, ⟨17, 17, .w1c⟩, ⟨16, 16, .w1c⟩] },
  -- QUE_OCC_q
  { base := 0xA1008, dims := [(0x10, 113)], run := false, reset := fun _ => 0,
    fields := [⟨31, 16, .rc⟩, ⟨15, 0, .ro⟩] },
  -- QUE_DRD_q
  { base := 0xA100C, dims := [(0x10, 113)], run := false, reset := fun _ => 0x80000000,
    fields := [⟨31, 31, .ro⟩, ⟨30, 30, .ro⟩, ⟨29, 16, .ro⟩, ⟨15, 0, .ro⟩] }]

/-- The registers of the cvu block (R529, R530 and the block's field map). -/
def cvuRegs : List RegSpec := [
  -- CVU_CFG_u
  { base := 0xB0100, dims := [(0x40, 4)], run := true, reset := fun _ => 0x310,
    fields := [⟨31, 31, .wo⟩, ⟨30, 30, .wo⟩, ⟨10, 8, .rw⟩, ⟨4, 4, .rw⟩, ⟨1, 1, .rw⟩, ⟨0, 0, .rw⟩] },
  -- CVU_ADDR_LO_u
  { base := 0xB0104, dims := [(0x40, 4)], run := true, reset := fun _ => 0,
    fields := [⟨31, 0, .rw⟩] },
  -- CVU_ADDR_HI_u
  { base := 0xB0108, dims := [(0x40, 4)], run := true, reset := fun _ => 0,
    fields := [⟨31, 0, .rw⟩] },
  -- CVU_LEN_u
  { base := 0xB010C, dims := [(0x40, 4)], run := true, reset := fun _ => 1,
    fields := [⟨31, 0, .rw⟩] },
  -- CVU_RUN_LO_u
  { base := 0xB0110, dims := [(0x40, 4)], run := true, reset := fun _ => 0,
    fields := [⟨31, 0, .rw⟩] },
  -- CVU_RUN_HI_u
  { base := 0xB0114, dims := [(0x40, 4)], run := true, reset := fun _ => 0,
    fields := [⟨31, 0, .rw⟩] },
  -- CVU_RES_LO_u
  { base := 0xB0118, dims := [(0x40, 4)], run := true, reset := fun _ => 0,
    fields := [⟨31, 0, .ro⟩] },
  -- CVU_RES_HI_u
  { base := 0xB011C, dims := [(0x40, 4)], run := true, reset := fun _ => 0,
    fields := [⟨31, 0, .ro⟩] },
  -- CVU_DONE_u
  { base := 0xB0120, dims := [(0x40, 4)], run := true, reset := fun _ => 0,
    fields := [⟨31, 0, .ro⟩] },
  -- CVU_STAT_u
  { base := 0xB0124, dims := [(0x40, 4)], run := true, reset := fun _ => 0,
    fields := [⟨3, 3, .w1c⟩, ⟨2, 2, .ro⟩, ⟨1, 1, .ro⟩, ⟨0, 0, .ro⟩] },
  -- CVU_FEED_u
  { base := 0xB0128, dims := [(0x40, 4)], run := true, reset := fun _ => 0,
    fields := [⟨31, 0, .wo⟩] }]

/-- The registers of the security block (R529, R530 and the block's field map). -/
def securityRegs : List RegSpec := [
  -- SEC_CTRL
  { base := 0xC0000, dims := [], run := false, reset := fun _ => 1,
    fields := [⟨31, 31, .w1s⟩, ⟨0, 0, .rwl⟩] },
  -- SEC_BOOT
  { base := 0xC0004, dims := [], run := false, reset := fun _ => 0,
    fields := [⟨23, 20, .ro⟩, ⟨16, 16, .ro⟩, ⟨15, 8, .ro⟩, ⟨3, 0, .ro⟩] },
  -- SEC_SVN_LO
  { base := 0xC0008, dims := [], run := false, reset := fun _ => 0,
    fields := [⟨31, 0, .ro⟩] },
  -- SEC_SVN_HI
  { base := 0xC000C, dims := [], run := false, reset := fun _ => 0,
    fields := [⟨31, 0, .ro⟩] },
  -- SEC_CTR_LO
  { base := 0xC0010, dims := [], run := false, reset := fun _ => 0,
    fields := [⟨31, 0, .ro⟩] },
  -- SEC_CTR_HI
  { base := 0xC0014, dims := [], run := false, reset := fun _ => 0,
    fields := [⟨31, 0, .ro⟩] },
  -- SEC_OTP
  { base := 0xC0018, dims := [], run := false, reset := fun _ => 0,
    fields := [⟨9, 8, .ro⟩, ⟨7, 4, .ro⟩, ⟨1, 0, .ro⟩] },
  -- SEC_DBG
  { base := 0xC001C, dims := [], run := true, reset := fun _ => 0,
    fields := [⟨8, 8, .w1c⟩, ⟨0, 0, .ro⟩] },
  -- SEC_DEVID_i
  { base := 0xC0020, dims := [(0x4, 4)], run := false, reset := fun _ => 0,
    fields := [⟨31, 0, .ro⟩] },
  -- SEC_STAT
  { base := 0xC0030, dims := [], run := true, reset := fun _ => 0,
    fields := [⟨3, 3, .w1c⟩, ⟨2, 2, .w1c⟩, ⟨1, 1, .w1c⟩, ⟨0, 0, .ro⟩] },
  -- SEC_LOG
  { base := 0xC0034, dims := [], run := false, reset := fun _ => 0,
    fields := [⟨4, 0, .ro⟩] }]

/-- The registers of the counter block (R529, R530 and the block's field map). -/
def counterRegs : List RegSpec := [
  -- CNT_CTRL
  { base := 0xD0000, dims := [], run := false, reset := fun _ => 1,
    fields := [⟨31, 31, .w1s⟩, ⟨0, 0, .rwl⟩] },
  -- CNT_SWEEP
  { base := 0xD0004, dims := [], run := false, reset := fun _ => 0x3E8,
    fields := [⟨19, 0, .rwl⟩] },
  -- CNT_CLV
  { base := 0xD0008, dims := [], run := false, reset := fun _ => 0xFFE0,
    fields := [⟨31, 16, .rwl⟩, ⟨15, 5, .rwl⟩, ⟨4, 4, .rwl⟩] },
  -- CNT_CLV_SEED
  { base := 0xD000C, dims := [], run := false, reset := fun _ => 1,
    fields := [⟨30, 0, .rwl⟩] },
  -- CNT_STAT
  { base := 0xD0010, dims := [], run := true, reset := fun _ => 0,
    fields := [⟨12, 8, .rw⟩, ⟨0, 0, .w1c⟩] },
  -- CNT_SEL_b_c
  { base := 0xD1000, dims := [(0x40, 42), (0x4, 16)], run := false, reset := fun _ => 0,
    fields := [⟨15, 12, .rwl⟩, ⟨7, 0, .rwl⟩] },
  -- CNT_OVF_b
  { base := 0xD2000, dims := [(0x4, 42)], run := true, reset := fun _ => 0,
    fields := [⟨15, 0, .w1c⟩] },
  -- CNT_VAL_LO_b_c
  { base := 0xD4000, dims := [(0x80, 42), (0x8, 16)], run := false, reset := fun _ => 0,
    fields := [⟨31, 0, .ro⟩] },
  -- CNT_VAL_HI_b_c
  { base := 0xD4004, dims := [(0x80, 42), (0x8, 16)], run := false, reset := fun _ => 0,
    fields := [⟨15, 0, .ro⟩] }]

/-- The registers of the maint block (R529, R530 and the block's field map). -/
def maintRegs : List RegSpec := [
  -- MNT_CTRL
  { base := 0xE0000, dims := [], run := false, reset := fun _ => 0x64,
    fields := [⟨31, 31, .w1s⟩, ⟨16, 16, .rwl⟩, ⟨15, 0, .rwl⟩] },
  -- MNT_STAT
  { base := 0xE0004, dims := [], run := true, reset := fun _ => 0,
    fields := [⟨3, 3, .w1c⟩, ⟨2, 2, .w1c⟩, ⟨1, 1, .w1c⟩, ⟨0, 0, .w1c⟩] },
  -- MNT_FSTAT
  { base := 0xE0008, dims := [], run := true, reset := fun _ => 0,
    fields := [⟨13, 1, .w1c⟩] },
  -- MNT_FLAST
  { base := 0xE000C, dims := [], run := false, reset := fun _ => 0,
    fields := [⟨7, 0, .ro⟩] },
  -- MNT_RSTC
  { base := 0xE0010, dims := [], run := false, reset := fun _ => 0,
    fields := [⟨31, 16, .ro⟩, ⟨3, 0, .ro⟩] },
  -- MNT_WR_REF
  { base := 0xE0014, dims := [], run := false, reset := fun _ => 0,
    fields := [⟨23, 0, .ro⟩] },
  -- MNT_ARB_p
  { base := 0xE0100, dims := [(0x4, 128)], run := false, reset := fun _ => 0,
    fields := [⟨10, 8, .ro⟩, ⟨2, 0, .ro⟩] }]

/-- The registers of the carillon block (R529, R530 and the block's field map). -/
def carillonRegs : List RegSpec := [
  -- CAR_CTRL
  { base := 0x400000, dims := [], run := false, reset := fun _ => 1,
    fields := [⟨31, 31, .w1s⟩, ⟨0, 0, .rwl⟩] },
  -- CAR_LEAD
  { base := 0x400004, dims := [], run := false, reset := fun _ => 0x500,
    fields := [⟨15, 0, .rwl⟩] },
  -- CAR_STAT
  { base := 0x400008, dims := [], run := true, reset := fun _ => 0,
    fields := [⟨3, 3, .w1c⟩, ⟨2, 2, .w1c⟩, ⟨1, 1, .w1c⟩, ⟨0, 0, .w1c⟩] },
  -- CAR_QPRES
  { base := 0x40000C, dims := [], run := false, reset := fun _ => 0,
    fields := [⟨3, 0, .ro⟩] },
  -- CAR_DLBIND_A_d
  { base := 0x401000, dims := [(0x10, 96)], run := false, reset := fun _ => 0,
    fields := [⟨29, 20, .ro⟩, ⟨19, 10, .ro⟩, ⟨9, 0, .ro⟩] },
  -- CAR_DLBIND_B_d
  { base := 0x401004, dims := [(0x10, 96)], run := false, reset := fun _ => 0,
    fields := [⟨31, 31, .ro⟩, ⟨19, 10, .ro⟩, ⟨9, 0, .ro⟩] },
  -- CAR_DLBIND_C_d
  { base := 0x401008, dims := [(0x10, 96)], run := false, reset := fun _ => 0,
    fields := [⟨29, 20, .ro⟩, ⟨19, 10, .ro⟩, ⟨9, 0, .ro⟩] },
  -- CAR_DLBIND_D_d
  { base := 0x40100C, dims := [(0x10, 96)], run := false, reset := fun _ => 0,
    fields := [⟨9, 0, .ro⟩] },
  -- CAR_ELBIND_e
  { base := 0x402000, dims := [(0x4, 96)], run := false, reset := fun _ => 0,
    fields := [⟨29, 20, .ro⟩, ⟨19, 10, .ro⟩, ⟨9, 0, .ro⟩] }]

/-- The registers of the marimba block (R529, R530 and the block's field map). -/
def marimbaRegs : List RegSpec := [
  -- MAR_CTRL
  { base := 0x500000, dims := [], run := false, reset := fun _ => 6,
    fields := [⟨31, 31, .w1s⟩, ⟨2, 2, .rwl⟩, ⟨1, 1, .rwl⟩] },
  -- MAR_LOAD
  { base := 0x500004, dims := [], run := false, reset := fun _ => 0xC4080008,
    fields := [⟨31, 28, .rwl⟩, ⟨26, 24, .rwl⟩, ⟨20, 16, .rwl⟩, ⟨7, 0, .rwl⟩] },
  -- MAR_UPD
  { base := 0x500008, dims := [], run := false, reset := fun _ => 0x304,
    fields := [⟨11, 8, .rwl⟩, ⟨3, 0, .rwl⟩] },
  -- MAR_STAT
  { base := 0x50000C, dims := [], run := true, reset := fun _ => 0,
    fields := [⟨5, 5, .w1c⟩, ⟨4, 4, .w1c⟩, ⟨3, 3, .w1c⟩, ⟨2, 2, .w1c⟩, ⟨1, 1, .w1c⟩, ⟨0, 0, .w1c⟩] },
  -- MAR_CACHE
  { base := 0x500010, dims := [], run := false, reset := fun _ => 0,
    fields := [⟨16, 0, .ro⟩] },
  -- MAR_GDEF_g
  { base := 0x500100, dims := [(0x4, 32)], run := false, reset := fun _ => 0x101,
    fields := [⟨8, 8, .rwl⟩, ⟨1, 0, .rwl⟩] }]

/-- The registers of the gong block (R529, R530 and the block's field map). -/
def gongRegs : List RegSpec := [
  -- GONG_CTRL
  { base := 0x600000, dims := [], run := false, reset := fun _ => 0x1400,
    fields := [⟨31, 31, .w1s⟩, ⟨18, 16, .rwl⟩, ⟨13, 12, .rwl⟩, ⟨11, 8, .rwl⟩, ⟨0, 0, .rwl⟩] },
  -- GONG_GRID
  { base := 0x600004, dims := [], run := false, reset := fun _ => 0xC0080100,
    fields := [⟨31, 24, .rwl⟩, ⟨23, 16, .rwl⟩, ⟨12, 0, .rwl⟩] },
  -- GONG_ASSOC
  { base := 0x600008, dims := [], run := false, reset := fun _ => 0x80020,
    fields := [⟨23, 16, .rwl⟩, ⟨15, 0, .rwl⟩] },
  -- GONG_NODE
  { base := 0x60000C, dims := [], run := false, reset := fun _ => 0x20000100,
    fields := [⟨31, 16, .rwl⟩, ⟨15, 0, .rwl⟩] },
  -- GONG_ZC
  { base := 0x600010, dims := [], run := false, reset := fun _ => 0xF0148040,
    fields := [⟨31, 24, .rwl⟩, ⟨20, 16, .rwl⟩, ⟨15, 12, .rwl⟩, ⟨11, 0, .rwl⟩] },
  -- GONG_STAT
  { base := 0x600014, dims := [], run := true, reset := fun _ => 0,
    fields := [⟨6, 6, .w1c⟩, ⟨5, 5, .w1c⟩, ⟨4, 4, .w1c⟩, ⟨3, 3, .w1c⟩, ⟨2, 2, .w1c⟩, ⟨1, 1, .w1c⟩, ⟨0, 0, .w1c⟩] },
  -- GONG_GRP_g
  { base := 0x600100, dims := [(0x4, 32)], run := false, reset := fun _ => 0x10001,
    fields := [⟨17, 16, .rwl⟩, ⟨8, 8, .rwl⟩, ⟨1, 0, .rwl⟩] }]

/-- The registers of the group block (R529, R530 and the block's field map). -/
def groupRegs : List RegSpec := [
  -- GRP_CTRL
  { base := 0x100000, dims := [(0x10000, 32)], run := false, reset := fun _ => 0xF00,
    fields := [⟨31, 31, .w1s⟩, ⟨11, 8, .rwl⟩, ⟨1, 0, .rwl⟩] },
  -- GRP_ROLE
  { base := 0x100004, dims := [(0x10000, 32)], run := false, reset := fun _ => 0x3210,
    fields := [⟨14, 12, .rwl⟩, ⟨10, 8, .rwl⟩, ⟨6, 4, .rwl⟩, ⟨2, 0, .rwl⟩] },
  -- GRP_PORT_CFGs
  { base := 0x100100, dims := [(0x10000, 32), (0x40, 4)], run := false, reset := fun _ => 4,
    fields := [⟨21, 20, .rwl⟩, ⟨17, 17, .rwl⟩, ⟨16, 16, .rwl⟩, ⟨13, 8, .rwl⟩, ⟨3, 0, .rwl⟩] },
  -- GRP_PORT_LIMs
  { base := 0x100104, dims := [(0x10000, 32), (0x40, 4)], run := false, reset := fun _ => 0x6E0064,
    fields := [⟨23, 16, .rwl⟩, ⟨7, 0, .rwl⟩] },
  -- GRP_PORT_STATs
  { base := 0x100108, dims := [(0x10000, 32), (0x40, 4)], run := true, reset := fun _ => 0,
    fields := [⟨31, 31, .w1c⟩, ⟨30, 30, .w1c⟩, ⟨29, 29, .w1c⟩, ⟨28, 28, .w1c⟩, ⟨27, 27, .w1c⟩, ⟨26, 26, .ro⟩, ⟨9, 9, .ro⟩, ⟨8, 8, .ro⟩, ⟨5, 0, .ro⟩] },
  -- GRP_PORT_TEMPs
  { base := 0x10010C, dims := [(0x10000, 32), (0x40, 4)], run := false, reset := fun _ => 0,
    fields := [⟨8, 0, .ro⟩] },
  -- GRP_PORT_CALs
  { base := 0x100110, dims := [(0x10000, 32), (0x40, 4)], run := false, reset := fun _ => 0,
    fields := [⟨31, 16, .ro⟩, ⟨15, 8, .ro⟩, ⟨7, 0, .ro⟩] },
  -- GRP_ECH_CTRL
  { base := 0x100200, dims := [(0x10000, 32)], run := false, reset := fun _ => 0x200203,
    fields := [⟨31, 31, .w1s⟩, ⟨23, 16, .rwl⟩, ⟨11, 8, .rwl⟩, ⟨2, 2, .rwl⟩, ⟨1, 1, .rwl⟩, ⟨0, 0, .rwl⟩] },
  -- GRP_ECH_THR
  { base := 0x100204, dims := [(0x10000, 32)], run := false, reset := fun _ => 0x7D3C06,
    fields := [⟨31, 16, .rwl⟩, ⟨15, 8, .rwl⟩, ⟨3, 0, .rwl⟩] },
  -- GRP_ECH_STEP
  { base := 0x100208, dims := [(0x10000, 32)], run := false, reset := fun _ => 0xD0A,
    fields := [⟨12, 8, .rwl⟩, ⟨4, 0, .rwl⟩] },
  -- GRP_ECH_STATs
  { base := 0x100240, dims := [(0x10000, 32), (0x40, 4)], run := true, reset := fun _ => 0x100,
    fields := [⟨31, 31, .w1c⟩, ⟨30, 30, .w1c⟩, ⟨29, 29, .w1c⟩, ⟨28, 28, .w1c⟩, ⟨8, 8, .ro⟩, ⟨2, 0, .ro⟩] },
  -- GRP_ECH_INFOs
  { base := 0x100244, dims := [(0x10000, 32), (0x40, 4)], run := false, reset := fun _ => 0,
    fields := [⟨23, 16, .ro⟩, ⟨11, 0, .ro⟩] },
  -- GRP_ECH_LVLs_q
  { base := 0x100250, dims := [(0x10000, 32), (0x40, 4), (0x4, 4)], run := false, reset := fun _ => 0x8000800,
    fields := [⟨27, 16, .ro⟩, ⟨11, 0, .ro⟩] },
  -- GRP_WF_CTRL
  { base := 0x100400, dims := [(0x10000, 32)], run := false, reset := fun _ => 0x820C01,
    fields := [⟨31, 31, .w1s⟩, ⟨27, 20, .rwl⟩, ⟨17, 16, .rwl⟩, ⟨12, 8, .rwl⟩, ⟨1, 0, .rwl⟩] },
  -- GRP_WF_STATs
  { base := 0x100480, dims := [(0x10000, 32), (0x10, 4)], run := true, reset := fun _ => 0,
    fields := [⟨31, 31, .w1c⟩, ⟨30, 30, .w1c⟩, ⟨29, 29, .w1c⟩, ⟨28, 28, .w1c⟩, ⟨25, 12, .ro⟩, ⟨9, 9, .ro⟩, ⟨8, 8, .ro⟩, ⟨4, 4, .ro⟩] },
  -- GRP_MASK_n
  { base := 0x100500, dims := [(0x10000, 32), (0x4, 64)], run := false, reset := fun _ => 0,
    fields := [⟨31, 28, .rwl⟩, ⟨27, 14, .rwl⟩, ⟨13, 0, .rwl⟩] },
  -- GRP_OCC_BAND_b
  { base := 0x100600, dims := [(0x10000, 32), (0x10, 8)], run := false, reset := fun _ => 0,
    fields := [⟨31, 31, .rwl⟩, ⟨27, 14, .rwl⟩, ⟨13, 0, .rwl⟩] },
  -- GRP_OCC_LIM_b
  { base := 0x100604, dims := [(0x10000, 32), (0x10, 8)], run := false, reset := fun _ => 0,
    fields := [⟨31, 16, .rwl⟩, ⟨15, 0, .rwl⟩] },
  -- GRP_OCC_RATE_b
  { base := 0x100608, dims := [(0x10000, 32), (0x10, 8)], run := false, reset := fun _ => 0x64000400,
    fields := [⟨31, 24, .rwl⟩, ⟨10, 0, .rwl⟩] },
  -- GRP_OCC_LVL_s_b
  { base := 0x100700, dims := [(0x10000, 32), (0x20, 4), (0x4, 8)], run := false, reset := fun _ => 0,
    fields := [⟨23, 0, .ro⟩] },
  -- GRP_SHAPE_s_X_t
  { base := 0x100800, dims := [(0x10000, 32), (0x200, 4), (0x100, 2), (0x4, 64)], run := false, reset := fun ix => if ix.getD 3 0 = 32 then 0x10000 else 0,
    fields := [⟨17, 0, .rw⟩] },
  -- GRP_FF_CTRL
  { base := 0x101000, dims := [(0x10000, 32)], run := false, reset := fun ix => 0x606 + ix.getD 0 0 * 0x10000,
    fields := [⟨31, 31, .w1s⟩, ⟨21, 16, .rwl⟩, ⟨11, 8, .rwl⟩, ⟨3, 0, .rwl⟩] },
  -- GRP_FF_DET
  { base := 0x101004, dims := [(0x10000, 32)], run := false, reset := fun _ => 0x780080,
    fields := [⟨22, 16, .rwl⟩, ⟨7, 0, .rwl⟩] },
  -- GRP_FF_STAT
  { base := 0x101008, dims := [(0x10000, 32)], run := true, reset := fun _ => 0,
    fields := [⟨4, 4, .w1c⟩, ⟨3, 3, .w1c⟩, ⟨2, 2, .w1c⟩, ⟨1, 1, .w1c⟩, ⟨0, 0, .w1c⟩] },
  -- GRP_CC_CTRL
  { base := 0x101100, dims := [(0x10000, 32)], run := false, reset := fun _ => 0x50806,
    fields := [⟨31, 31, .w1s⟩, ⟨18, 16, .rwl⟩, ⟨13, 8, .rwl⟩, ⟨3, 0, .rwl⟩] },
  -- GRP_CC_BLK
  { base := 0x101104, dims := [(0x10000, 32)], run := false, reset := fun _ => 0x40103C,
    fields := [⟨25, 16, .rwl⟩, ⟨13, 8, .rwl⟩, ⟨5, 0, .rwl⟩] },
  -- GRP_CC_TRAN
  { base := 0x101108, dims := [(0x10000, 32)], run := false, reset := fun _ => 0x4E20018,
    fields := [⟨31, 16, .rwl⟩, ⟨5, 0, .rwl⟩] },
  -- GRP_CC_STAT
  { base := 0x10110C, dims := [(0x10000, 32)], run := true, reset := fun _ => 0,
    fields := [⟨3, 3, .w1c⟩, ⟨2, 2, .w1c⟩, ⟨1, 1, .w1c⟩, ⟨0, 0, .w1c⟩] },
  -- GRP_LR_CTRL
  { base := 0x101200, dims := [(0x10000, 32)], run := false, reset := fun _ => 0x82001,
    fields := [⟨31, 31, .w1s⟩, ⟨20, 16, .rwl⟩, ⟨15, 8, .rwl⟩, ⟨0, 0, .rwl⟩] },
  -- GRP_LR_FWD
  { base := 0x101204, dims := [(0x10000, 32)], run := false, reset := fun _ => 4,
    fields := [⟨7, 0, .rwl⟩] },
  -- GRP_LR_STAT
  { base := 0x101208, dims := [(0x10000, 32)], run := true, reset := fun _ => 0,
    fields := [⟨6, 6, .w1c⟩, ⟨5, 5, .w1c⟩, ⟨4, 4, .w1c⟩, ⟨3, 3, .w1c⟩, ⟨2, 2, .w1c⟩, ⟨1, 1, .w1c⟩, ⟨0, 0, .w1c⟩] },
  -- GRP_DN_CTRL
  { base := 0x101300, dims := [(0x10000, 32)], run := false, reset := fun _ => 0x400401,
    fields := [⟨31, 31, .w1s⟩, ⟨23, 20, .rwl⟩, ⟨15, 8, .rwl⟩, ⟨0, 0, .rwl⟩] },
  -- GRP_DN_GUARD
  { base := 0x101304, dims := [(0x10000, 32)], run := false, reset := fun _ => 0x2004002,
    fields := [⟨28, 16, .rwl⟩, ⟨15, 8, .rwl⟩, ⟨7, 0, .rwl⟩] },
  -- GRP_DN_POLL
  { base := 0x101308, dims := [(0x10000, 32)], run := false, reset := fun _ => 0x10000019,
    fields := [⟨31, 16, .rwl⟩, ⟨15, 0, .rwl⟩] },
  -- GRP_DN_HELD
  { base := 0x10130C, dims := [(0x10000, 32)], run := false, reset := fun _ => 0x8000010,
    fields := [⟨27, 16, .rwl⟩, ⟨6, 0, .rwl⟩] },
  -- GRP_DN_LIFE
  { base := 0x101310, dims := [(0x10000, 32)], run := false, reset := fun _ => 0x10000100,
    fields := [⟨31, 16, .rwl⟩, ⟨12, 0, .rwl⟩] },
  -- GRP_DN_STAT
  { base := 0x101314, dims := [(0x10000, 32)], run := true, reset := fun _ => 0,
    fields := [⟨31, 31, .w1c⟩, ⟨30, 30, .w1c⟩, ⟨29, 29, .w1c⟩, ⟨28, 28, .w1c⟩, ⟨11, 0, .ro⟩] }]

/-- The register blocks by the range of offsets they hold (R523, Table AM.1). -/
def blockRegs (off : Nat) : List RegSpec :=
  if off < 0x10000 then identityRegs
  else if off < 0x40000 then powerRegs
  else if off < 0x60000 then timebaseRegs
  else if off < 0x70000 then measRegs
  else if off < 0xA0000 then swoHifRegs
  else if off < 0xB0000 then queueRegs
  else if off < 0xC0000 then cvuRegs
  else if off < 0xD0000 then securityRegs
  else if off < 0xE0000 then counterRegs
  else if off < 0x100000 then maintRegs
  else if off < 0x300000 then groupRegs
  else if off < 0x400000 then []
  else if off < 0x500000 then carillonRegs
  else if off < 0x600000 then marimbaRegs
  else gongRegs

/-- The indices that make up the distance `rem` from a register's base, outermost stride first; none where the
distance is no element of the array. -/
def splitIndex : List (Nat × Nat) → Nat → Option (List Nat)
  | [], rem => if rem = 0 then some [] else none
  | (stride, count) :: rest, rem =>
    if rem / stride < count then
      match splitIndex rest (rem % stride) with
      | some ix => some (rem / stride :: ix)
      | none => none
    else none

/-- The register at a word offset with its indices; none at a reserved offset (R523, R525). -/
def findIn (off : Nat) : List RegSpec → Option (RegSpec × List Nat)
  | [] => none
  | r :: rest =>
    if r.base ≤ off then
      match splitIndex r.dims (off - r.base) with
      | some ix => some (r, ix)
      | none => findIn off rest
    else findIn off rest

/-- The register at a word offset of BAR 0. -/
def findReg (off : Nat) : Option (RegSpec × List Nat) := findIn off (blockRegs off)

/-- A mask over bits `hi` down to `lo`. -/
def fieldMask (f : RegField) : Nat := (2 ^ (f.hi + 1 - f.lo) - 1) * 2 ^ f.lo

/-- Whether the register store keeps the field: those that a write can change. -/
def Acc.stored : Acc → Bool
  | .rw | .rwl | .w1c | .w1s => true
  | _ => false

/-- The bits of a register that the store keeps. -/
def storedMask (r : RegSpec) : Nat :=
  r.fields.foldl (fun m f => if f.acc.stored then m + fieldMask f else m) 0

/-- The stored word at reset: the reset word of Tables AM.2 and AM.3 on the fields that a write can change. -/
def resetWord (off : Nat) : Word :=
  match findReg off with
  | some (r, ix) => BitVec.ofNat 32 (r.reset ix) &&& BitVec.ofNat 32 (storedMask r)
  | none => 0

/-- The `LOCK` register whose bit 31 freezes the RWL fields at an offset, where the block has one. -/
def lockOf (off : Nat) : Option Nat :=
  if off < 0x20000 then none
  else if off < 0x20100 then some Reg.pwrCtrl                              -- R506
  else if 0x40000 ≤ off ∧ off < 0x40080 then some Reg.mptCtrl              -- R64
  else if 0x50000 ≤ off ∧ off < 0x50014 then some Reg.msyncCtrl            -- R64
  else if 0x60000 ≤ off ∧ off < 0x60100 then some Reg.measCtrl             -- R347
  else if 0x70000 ≤ off ∧ off < 0x70100 then some Reg.swoCtrl              -- R362
  else if 0x80000 ≤ off ∧ off < 0x80100 then some Reg.hifCtrl              -- R391
  else if 0xA0000 ≤ off ∧ off < 0xA2000 then some Reg.queCtrl              -- R426
  else if 0xC0000 ≤ off ∧ off < 0xC0100 then some Reg.secCtrl              -- R460
  else if 0xD0000 ≤ off ∧ off < 0xD4000 then some Reg.cntCtrl              -- R472
  else if 0xE0000 ≤ off ∧ off < 0xE0100 then some Reg.mntCtrl              -- R490
  else if 0x100000 ≤ off ∧ off < 0x300000 then
    let g := (off - 0x100000) / 0x10000
    let o := (off - 0x100000) % 0x10000
    if o < 0x200 then some (Reg.grpCtrl g)                                 -- R87
    else if o < 0x400 then some (Reg.echCtrl g)                            -- R115
    else if o < 0x1000 then some (Reg.wfCtrl g)                            -- R165
    else if o < 0x1100 then some (Reg.ffCtrl g)                            -- R188
    else if o < 0x1200 then some (Reg.ccCtrl g)                            -- R215
    else if o < 0x1300 then some (Reg.lrCtrl g)                            -- R303
    else if o < 0x1400 then some (Reg.dnCtrl g)                            -- R326
    else none
  else if 0x400000 ≤ off ∧ off < 0x400100 then some Reg.carCtrl            -- R132
  else if 0x500000 ≤ off ∧ off < 0x500200 then some Reg.marCtrl            -- R243
  else if 0x600000 ≤ off ∧ off < 0x600200 then some Reg.gongCtrl           -- R275
  else none

end Sys2Proof.Machine
end

