-- ==== Sys2Proof/Machine/Sparse.lean ====
section
/-! DEFINITION. Sparse maps in one canonical form: keys strictly rising, and no entry equal to what an unlisted key
reads as. Host memory is such a map without a value for an unlisted address. -/

namespace Sys2Proof.Machine

/-- What key `k` holds, `dflt k` where it is not listed. -/
def SMap.get {β : Type} (dflt : Nat → β) (k : Nat) : List (Nat × β) → β
  | [] => dflt k
  | (a, v) :: rest => if a = k then v else SMap.get dflt k rest

/-- Insert or replace in key order; the entry stays listed whatever its value. -/
def SMap.put {β : Type} (k : Nat) (v : β) : List (Nat × β) → List (Nat × β)
  | [] => [(k, v)]
  | (a, w) :: rest =>
    if k < a then (k, v) :: (a, w) :: rest
    else if k = a then (k, v) :: rest
    else (a, w) :: SMap.put k v rest

/-- Remove every entry of key `k` (a canonical map has at most one). -/
def SMap.del {β : Type} (k : Nat) : List (Nat × β) → List (Nat × β)
  | [] => []
  | (a, w) :: rest => if k = a then SMap.del k rest else (a, w) :: SMap.del k rest

/-- Write `v` at key `k`; a value equal to the default removes the entry. -/
def SMap.set {β : Type} [DecidableEq β] (dflt : Nat → β) (k : Nat) (v : β) (m : List (Nat × β)) :
    List (Nat × β) :=
  if v = dflt k then SMap.del k m else SMap.put k v m

/-- Keys strictly rising above `lo`. -/
def SMap.risingFrom {β : Type} : Nat → List (Nat × β) → Bool
  | _, [] => true
  | lo, (a, _) :: rest => decide (lo ≤ a) && SMap.risingFrom (a + 1) rest

/-- The canonical form of a map with a default value: keys strictly rising, no entry at its default. -/
def SMap.wf {β : Type} [DecidableEq β] (dflt : Nat → β) (m : List (Nat × β)) : Bool :=
  SMap.risingFrom 0 m && m.all (fun e => decide (e.2 ≠ dflt e.1))

/-- The canonical form of host memory: addresses strictly rising. An unlisted address holds no value
(log 7), so no entry can equal what it reads as. -/
def Memory.wf (m : List Host.Cell) : Bool := SMap.risingFrom 0 m

/-- The byte the device wrote at address `a`, or none where it has written nothing. -/
def Memory.read (m : List Host.Cell) (a : Nat) : Option Byte :=
  match m with
  | [] => none
  | (b, v) :: rest => if b = a then some v else Memory.read rest a

/-- Write consecutive bytes from address `a`, lowest address first (00 R6). -/
def Memory.write (m : List Host.Cell) (a : Nat) : List Byte → List Host.Cell
  | [] => m
  | v :: vs => Memory.write (SMap.put a v m) (a + 1) vs

/-- Apply the posted writes of one step in their order (15 R375). -/
def Memory.commit (m : List Host.Cell) : List (Nat × List Byte) → List Host.Cell
  | [] => m
  | (a, bs) :: rest => Memory.commit (Memory.write m a bs) rest

end Sys2Proof.Machine
end

