-- ==== Sys2Proof/Machine/State.lean ====
section
/-! DEFINITION. The state of the machine as plain data: the device, host memory as far as the device has written it, and the
queue of waiting commands. INVENTORY.md lists every field with its rule and its reset value. -/

namespace Sys2Proof.Machine

/-- Reasons a step stops with a fault. There is none: no command of this block ends the run (log 1); an internal fault of
the device (21 Table MR.4) is an effect on its state. -/
inductive Fault where
  deriving DecidableEq, Repr

/-- Reasons a command is refused. -/
inductive Refusal where
  /-- A command that the model gives no meaning yet, by its mnemonic. Raised by the dispatcher alone; safe: nothing is
  claimed of it. -/
  | notModelled (mnemonic : String)
  deriving DecidableEq, Repr

/-- The device (01 R30): everything the spec gives it. Indexed units are sparse lists whose unlisted entries stand at the
unit's `init`. -/
structure Dev where
  dev     : DevState
  clk     : Nat                          -- CK_MPT cycles since reset, 4 ns each (00 R14)
  regs    : List (Nat × Word)            -- stored register words by offset, default `resetWord`
  busOut  : BitVec 64                    -- data of the last BAR 0 read with a row of its own
  tb      : Timebase
  msync   : Msync
  segPrev : List Nat                     -- boundary set in force at the last RUN (02 R55)
  ports   : List (Nat × Port)
  groups  : List (Nat × Group)
  decs    : List (Nat × DecLane)
  encs    : List (Nat × EncLane)
  shadow  : List Nat                     -- lanes whose bindings have been delivered for the coming boundary (05 R126)
  late    : List Nat                     -- lanes whose binding for it came late
  unit    : Nat                          -- slot unit of the last slot boundary
  present : Nat                          -- quadrants present on the Carillon (05 Table CA.7)
  gaps    : List (Nat × Nat × Option Nat) -- spans of samples in which a quadrant's streams were absent, latest first (05 R130)
  keys    : List (Nat × MapKey)          -- by nh * 32 + direction * 16 + segment
  sets    : List (Nat × MapSet)          -- by nh * 2 + direction
  pins    : List Pin
  asked   : List (Nat × Nat)             -- slots whose tone-map entries have been requested: beacon period and unit (09 R233)
  sess    : List Sess
  sndId   : List (Nat × Nat)             -- a node's latest downlink session: (beacon period + 1) × 256 + SND_ID, 0 none
  nodes   : List (Nat × Node)
  routes  : List Route
  policy  : List Policy
  fwd     : List FwdEntry
  fwdWait : List FwdWait
  meas    : Meas
  swo     : List SwoOp
  swoLvl  : Nat                          -- levels driven on SWO00-SWO15
  swoHiZ  : Bool
  fns     : List (Nat × Fn)
  vfEn    : Bool
  numVfs  : Nat
  rings   : List (Nat × Ring)            -- by function * 256 + slot
  cmds    : List Cmd
  nextId  : Nat
  capts   : List Capt                    -- oldest first; all but the last have been flushed
  ques    : Ques
  eseq    : BitVec 32
  cvus    : List (Nat × Cvu)
  sec     : Sec
  cnts    : Counts
  mnt     : Mnt
  pwr     : Power
  jtag    : Jtag
  freeCtr : Nat                          -- numbers free values; the model's own (log 3)
  posted  : List (Nat × List Byte)       -- writes to host memory by the step in progress
  deriving DecidableEq, Repr

/-- The device right after reset: OFF, with no supply (01 R31, log 2). -/
def Dev.init : Dev :=
  { dev := .off, clk := 0, regs := [], busOut := 0, tb := Timebase.init, msync := Msync.init, segPrev := [],
    ports := [], groups := [], decs := [], encs := [], shadow := [], late := [], unit := 0, present := 0, gaps := [], keys := [],
    sets := [], pins := [], asked := [], sess := [], sndId := [], nodes := [], routes := [], policy := [], fwd := [], fwdWait := [],
    meas := Meas.init, swo := [], swoLvl := 0, swoHiZ := true, fns := [], vfEn := false, numVfs := 0, rings := [],
    cmds := [], nextId := 0, capts := [], ques := Ques.init, eseq := 0, cvus := [], sec := Sec.init,
    cnts := Counts.init, mnt := Mnt.init, pwr := Power.init, jtag := Jtag.init, freeCtr := 0, posted := [] }

/-- The machine: the device, the bytes it has written to host memory (log 7), and the commands that wait, first in,
first out (log 1). -/
structure State where
  dev     : Dev
  hostMem : List Host.Cell
  pending : List Instr
  deriving DecidableEq, Repr

/-- The machine right after reset. -/
def State.reset : State := { dev := Dev.init, hostMem := [], pending := [] }

end Sys2Proof.Machine
end

