-- ==== Sys2Proof/Machine/Ops.lean ====
section
/-! DEFINITION. The named operations over the device: registers, indexed units, time, free values, writes to host memory,
and `run`, by which every command's effect becomes the outcome of its step. -/

namespace Sys2Proof.Machine

/-! ### A command's effect as a step -/

/-- The device with no posted write left. -/
def Dev.fresh (d : Dev) : Dev := { d with posted := [] }

/-- The step of a command whose effect on the device is `f`: writes to host memory posted by the effect are made in their
order (15 R375), the queue is left alone. No command of this block faults (log 1). -/
def run (f : Dev → Dev) (s : State) : Host.Outcome State Fault Refusal :=
  let d := f s.dev.fresh
  .next { s with dev := d.fresh, hostMem := Memory.commit s.hostMem d.posted }

/-! ### Registers (24 R523) -/

/-- The stored word of the register at `off`. -/
def Dev.reg (d : Dev) (off : Nat) : Nat := (SMap.get resetWord off d.regs).toNat

/-- Bits `hi` down to `lo` of the stored word at `off`. -/
def Dev.fld (d : Dev) (off hi lo : Nat) : Nat := bits (d.reg off) hi lo

/-- Bit `i` of the stored word at `off`. -/
def Dev.flag (d : Dev) (off i : Nat) : Bool := bit (d.reg off) i

/-- Replace the stored word at `off`. -/
def Dev.setReg (d : Dev) (off v : Nat) : Dev := { d with regs := SMap.set resetWord off (BitVec.ofNat 32 v) d.regs }

/-- Replace bits `hi` down to `lo` of the stored word at `off`. -/
def Dev.setFld (d : Dev) (off hi lo v : Nat) : Dev := d.setReg off (setBits (d.reg off) hi lo v)

/-- The data of a BAR 0 read with a row of its own goes to the bus. -/
def Dev.toBus (d : Dev) (v : Nat) : Dev := { d with busOut := BitVec.ofNat 64 v }

/-! ### Indexed units -/

/-- Port `p` (0 to 127). -/
def Dev.port (d : Dev) (p : Nat) : Port := SMap.get (fun _ => Port.init) p d.ports
/-- Change port `p`. -/
def Dev.modPort (d : Dev) (p : Nat) (f : Port → Port) : Dev :=
  { d with ports := SMap.set (fun _ => Port.init) p (f (d.port p)) d.ports }
/-- Group `g` (0 to 31). -/
def Dev.group (d : Dev) (g : Nat) : Group := SMap.get (fun _ => Group.init) g d.groups
/-- Change group `g`. -/
def Dev.modGroup (d : Dev) (g : Nat) (f : Group → Group) : Dev :=
  { d with groups := SMap.set (fun _ => Group.init) g (f (d.group g)) d.groups }
/-- Decode lane `l` (0 to 95). -/
def Dev.dec (d : Dev) (l : Nat) : DecLane := SMap.get (fun _ => DecLane.init) l d.decs
/-- Change decode lane `l`. -/
def Dev.modDec (d : Dev) (l : Nat) (f : DecLane → DecLane) : Dev :=
  { d with decs := SMap.set (fun _ => DecLane.init) l (f (d.dec l)) d.decs }
/-- Encode lane `l` (0 to 95). -/
def Dev.enc (d : Dev) (l : Nat) : EncLane := SMap.get (fun _ => EncLane.init) l d.encs
/-- Change encode lane `l`. -/
def Dev.modEnc (d : Dev) (l : Nat) (f : EncLane → EncLane) : Dev :=
  { d with encs := SMap.set (fun _ => EncLane.init) l (f (d.enc l)) d.encs }
/-- Node handle `nh` (0 to 16,383). -/
def Dev.node (d : Dev) (nh : Nat) : Node := SMap.get (fun _ => Node.init) nh d.nodes
/-- Change node `nh`. -/
def Dev.modNode (d : Dev) (nh : Nat) (f : Node → Node) : Dev :=
  { d with nodes := SMap.set (fun _ => Node.init) nh (f (d.node nh)) d.nodes }
/-- Function `f`: 0 PF0, 1 PF1, 2 + n VFn. -/
def Dev.fn (d : Dev) (f : Nat) : Fn := SMap.get (fun _ => Fn.init) f d.fns
/-- Change function `f`. -/
def Dev.modFn (d : Dev) (f : Nat) (g : Fn → Fn) : Dev :=
  { d with fns := SMap.set (fun _ => Fn.init) f (g (d.fn f)) d.fns }
/-- Ring `k` = function × 256 + slot. -/
def Dev.ring (d : Dev) (k : Nat) : Ring := SMap.get (fun _ => Ring.init) k d.rings
/-- Change ring `k`. -/
def Dev.modRing (d : Dev) (k : Nat) (f : Ring → Ring) : Dev :=
  { d with rings := SMap.set (fun _ => Ring.init) k (f (d.ring k)) d.rings }
/-- Check-value unit `u` (0 to 3). -/
def Dev.cvu (d : Dev) (u : Nat) : Cvu := SMap.get (fun _ => Cvu.init) u d.cvus
/-- Change check-value unit `u`. -/
def Dev.modCvu (d : Dev) (u : Nat) (f : Cvu → Cvu) : Dev :=
  { d with cvus := SMap.set (fun _ => Cvu.init) u (f (d.cvu u)) d.cvus }
/-- LOSSY queue `q` (0 to 10). -/
def Dev.lossy (d : Dev) (q : Nat) : LossyQ := SMap.get (fun _ => LossyQ.init) q d.ques.lossy
/-- Change LOSSY queue `q`. -/
def Dev.modLossy (d : Dev) (q : Nat) (f : LossyQ → LossyQ) : Dev :=
  { d with ques := { d.ques with lossy := SMap.set (fun _ => LossyQ.init) q (f (d.lossy q)) d.ques.lossy } }
/-- The terms of queue `q`, of a HOLDING or REFUSING family. -/
def Dev.acct (d : Dev) (q : Nat) : QAcct := SMap.get (fun _ => QAcct.init) q d.ques.acct
/-- Change the terms of queue `q`. -/
def Dev.modAcct (d : Dev) (q : Nat) (f : QAcct → QAcct) : Dev :=
  { d with ques := { d.ques with acct := SMap.set (fun _ => QAcct.init) q (f (d.acct q)) d.ques.acct } }
/-- The watermark of queue `q`. -/
def Dev.wmark (d : Dev) (q : Nat) : Wm := SMap.get (fun _ => Wm.init) q d.ques.wm
/-- Change the watermark of queue `q`. -/
def Dev.modWm (d : Dev) (q : Nat) (f : Wm → Wm) : Dev :=
  { d with ques := { d.ques with wm := SMap.set (fun _ => Wm.init) q (f (d.wmark q)) d.ques.wm } }
/-- Counter `i` = 16 × bank + counter. -/
def Dev.counter (d : Dev) (i : Nat) : Counter := SMap.get (fun _ => Counter.init) i d.cnts.cells
/-- Change counter `i`. -/
def Dev.modCounter (d : Dev) (i : Nat) (f : Counter → Counter) : Dev :=
  { d with cnts := { d.cnts with cells := SMap.set (fun _ => Counter.init) i (f (d.counter i)) d.cnts.cells } }
/-- Measurement set `k` (0 to 7). -/
def Dev.mset (d : Dev) (k : Nat) : MSet := SMap.get (fun _ => MSet.init) k d.meas.sets
/-- Change measurement set `k`. -/
def Dev.modMset (d : Dev) (k : Nat) (f : MSet → MSet) : Dev :=
  { d with meas := { d.meas with sets := SMap.set (fun _ => MSet.init) k (f (d.mset k)) d.meas.sets } }
/-- Tone-map key: node, direction (true uplink), segment index. -/
def keyIx (nh : Nat) (up : Bool) (seg : Nat) : Nat := nh * 32 + b2n up * 16 + seg
/-- The tone-map key at index `i`. -/
def Dev.key (d : Dev) (i : Nat) : MapKey := SMap.get (fun _ => MapKey.init) i d.keys
/-- Change the tone-map key at index `i`. -/
def Dev.modKey (d : Dev) (i : Nat) (f : MapKey → MapKey) : Dev :=
  { d with keys := SMap.set (fun _ => MapKey.init) i (f (d.key i)) d.keys }
/-- Tone-map set of a node and direction. -/
def setIx (nh : Nat) (up : Bool) : Nat := nh * 2 + b2n up
/-- The tone-map set at index `i`. -/
def Dev.mapSet (d : Dev) (i : Nat) : MapSet := SMap.get (fun _ => MapSet.init) i d.sets
/-- Change the tone-map set at index `i`. -/
def Dev.modMapSet (d : Dev) (i : Nat) (f : MapSet → MapSet) : Dev :=
  { d with sets := SMap.set (fun _ => MapSet.init) i (f (d.mapSet i)) d.sets }

/-! ### Time (02 R36, R52, R53) -/

/-- MPT, 48 bits: cycle count [47:24], phase [23:0]. -/
def Dev.mpt (d : Dev) : Nat := d.tb.acc.toNat / 2 ^ 24
/-- Schedule phase Φs = MPT − O, 48 bits (02 R53). -/
def Dev.phis (d : Dev) : Nat := unsigned 48 ((d.mpt : Int) - d.msync.ofs)
/-- The place of an MPT in the beacon period in progress, PU from its start; negative before it (02 R53, R58). -/
def Dev.bpPos (d : Dev) (m : Nat) : Int :=
  signed 48 (unsigned 48 ((m : Int) - d.msync.ofs - ((d.msync.bpi * 2 ^ 25 : Nat) : Int)))
/-- Offset within the beacon period in progress, PU: Φs less its start. It passes 2^25 where an MSYNC step lengthens the period (02 R58). -/
def Dev.bpPhase (d : Dev) : Nat := (d.bpPos d.mpt).toNat
/-- `a` is earlier than `b` under the ordering of 02 R37: b − a from 1 to 2^47 − 1. -/
def mptBefore (a b : Nat) : Bool :=
  let x := unsigned 48 ((b : Int) - (a : Int))
  decide (0 < x ∧ x < 2 ^ 47)
/-- A duration in CK_MPT cycles of 4 ns from microseconds (00 R14). -/
def usClk (n : Nat) : Nat := n * 250
/-- Beacon periods from `a` to `b`, modulo 2^23. -/
def bpSince (a b : Nat) : Nat := (b + 2 ^ 23 - a % 2 ^ 23) % 2 ^ 23
/-- Slot units of a beacon period (10 R246). -/
def unitPu : Nat := 4096

/-! ### Free values and the posting of writes -/

/-- A fresh free value and the device that has used it up (log 3). -/
def Dev.free (d : Dev) : BitVec 64 × Dev := (Config.freeWord d.freeCtr, { d with freeCtr := d.freeCtr + 1 })

/-- `num / den` where the spec states no rounding: exact where it divides, else the integer below or the one above, freely
(log 3). -/
def Dev.divFree (d : Dev) (num : Int) (den : Nat) : Int × Dev :=
  if num % (den : Int) = 0 then (num / (den : Int), d)
  else
    let f := d.free
    (num / (den : Int) + (f.1.toNat % 2 : Nat), f.2)

/-- Post a write to host memory. -/
def Dev.post (d : Dev) (a : Nat) (bs : List Byte) : Dev := { d with posted := d.posted ++ [(a, bs)] }

/-- A write to host memory by function `f`: held while its Bus Master Enable is 0 (15 Table HR.10). -/
def Dev.hostWrite (d : Dev) (f a : Nat) (bs : List Byte) : Dev :=
  if (d.fn f).bme then d.post (a % 2 ^ 64) bs
  else d.modFn f (fun x => { x with held := x.held ++ [(a % 2 ^ 64, bs)] })

/-- Function `f` reports an error of its reads, or of a result block, through AER (15 R364; 16 Table CE.7). -/
def Dev.reportAer (d : Dev) (f : Nat) : Dev := d.modFn f (fun x => { x with aer := x.aer + 1 })

/-! ### Places -/

/-- The group of a port (00 Table SC.5). -/
def portGroup (p : Nat) : Nat := p / 4
/-- The ports of a group. -/
def groupPorts (g : Nat) : List Nat := [4 * g, 4 * g + 1, 4 * g + 2, 4 * g + 3]
/-- The quadrant of a port. -/
def portQuad (p : Nat) : Nat := p / 32
/-- Role code of port `p`: 0 L1, 1 L2, 2 L3, 3 N, 7 none (03 R80). -/
def Dev.role (d : Dev) (p : Nat) : Nat := d.fld (Reg.grpRole (portGroup p)) (4 * (p % 4) + 2) (4 * (p % 4))
/-- `PORT_EN` of a port. -/
def Dev.portEn (d : Dev) (p : Nat) : Bool := d.flag (Reg.grpCtrl (portGroup p)) (8 + p % 4)
/-- The profile code of a group (06 Table WF.1). -/
def Dev.profile (d : Dev) (g : Nat) : Nat := d.fld (Reg.wfCtrl g) 1 0
/-- The mask entries in force of a group: its `GRP_MASK_n` words (06 R150, R153). -/
def Dev.maskOf (d : Dev) (g : Nat) : List (BitVec 32) :=
  (List.range 64).map (fun n => BitVec.ofNat 32 (d.reg (Reg.mask g n)))
/-- Whether the group beacons and schedules (01 R33). -/
def GroupState.up : GroupState → Bool
  | .coordinating | .degraded => true
  | _ => false
/-- The handles of a group that are not free. -/
def Dev.nodesOf (d : Dev) (g : Nat) : List Nat :=
  (d.nodes.filter (fun e => e.2.grp = g ∧ e.2.st ≠ .unknown)).map (fun e => e.1)

end Sys2Proof.Machine
end

