-- ==== Sys2Proof/Machine/Flags.lean ====
section
/-! DEFINITION. Status bits, counters, queues that lose their oldest item, watermarks, events and fault classes: what a
happening leaves behind wherever it falls (20 R461, 17 R409-R418, 16 R406-R407, 21 R481-R482). -/

namespace Sys2Proof.Machine

/-! ### Status registers and counters -/

/-- A status register that a counter bank takes as a source (20 Table CT.1). -/
inductive Src where
  | port (g s : Nat) | ech (g s : Nat) | wf (g s : Nat) | ff (g : Nat) | cc (g : Nat) | lr (g : Nat) | dn (g : Nat)
  | mpt | msync | car | mar | gong | meas | swo | hif | que | sec | dbg | mnt | mntF
  deriving DecidableEq, Repr

/-- The register's offset; groups and slots are taken modulo their numbers, so that it is always a status register's. -/
def Src.off : Src → Nat
  | .port g s => Reg.portStat (g % 32) (s % 4) | .ech g s => Reg.echStat (g % 32) (s % 4)
  | .wf g s => Reg.wfStat (g % 32) (s % 4) | .ff g => Reg.ffStat (g % 32) | .cc g => Reg.ccStat (g % 32)
  | .lr g => Reg.lrStat (g % 32) | .dn g => Reg.dnStat (g % 32)
  | .mpt => Reg.mptStatus | .msync => Reg.msyncStatus | .car => Reg.carStat | .mar => Reg.marStat
  | .gong => Reg.gongStat | .meas => Reg.measStat | .swo => Reg.swoStat | .hif => Reg.hifStat
  | .que => Reg.queStat | .sec => Reg.secStat | .dbg => Reg.secDbg | .mnt => Reg.mntStat | .mntF => Reg.mntFstat

/-- Bank, `SRC` index and slot of the register (20 Table CT.1, 21 R490). -/
def Src.place : Src → Nat × Nat × Option Nat
  | .port g s => (g, 0, some s) | .ech g s => (g, 1, some s) | .wf g s => (g, 2, some s)
  | .ff g => (g, 3, none) | .cc g => (g, 4, none) | .lr g => (g, 5, none) | .dn g => (g, 6, none)
  | .mpt => (32, 0, none) | .msync => (32, 1, none) | .car => (33, 0, none) | .mar => (34, 0, none)
  | .gong => (35, 0, none) | .meas => (36, 0, none) | .swo => (37, 0, none) | .hif => (38, 0, none)
  | .que => (39, 0, none) | .sec => (40, 0, none) | .dbg => (40, 1, none) | .mnt => (41, 0, none)
  | .mntF => (41, 1, none)

/-- Whether a counter's selector counts this happening (20 R461, Table CT.2). -/
def selects (c : Counter) (src b : Nat) (slot : Option Nat) : Bool :=
  let v := c.sel.toNat
  bit v 15 && decide (bits v 7 5 = src) && decide (bits v 4 0 = b) &&
    (!bit v 14 || decide (slot = some (bits v 13 12)))

/-- A counter advanced by `n`, wrapping modulo 2^48 with its sticky overflow (20 R464). -/
def Counter.add (c : Counter) (n : Nat) : Counter :=
  { c with value := c.value + BitVec.ofNat 48 n, ovf := c.ovf || decide (2 ^ 48 ≤ c.value.toNat + n) }

/-- Count `n` happenings in every counter of `bank` that selects them. -/
def Dev.count (d : Dev) (bank src b : Nat) (slot : Option Nat) (n : Nat) : Dev :=
  let hit := fun (e : Nat × Counter) => decide (e.1 / 16 = bank) && selects e.2 src b slot
  let wraps := d.cnts.cells.any (fun e => hit e && decide (2 ^ 48 ≤ e.2.value.toNat + n))
  let d := { d with cnts := { d.cnts with cells := d.cnts.cells.map (fun e => if hit e then (e.1, e.2.add n) else e) } }
  if wraps then d.setFld Reg.cntStat 0 0 1 else d

/-- A happening that sets bit `b` of a status register, and is counted whether or not the bit was set (20 R461). -/
def Dev.raise (d : Dev) (r : Src) (b : Nat) : Dev :=
  (d.setFld r.off b b 1).count r.place.1 r.place.2.1 b r.place.2.2 1

/-! ### Occupancy of the internal queues (17 Table QC.2) -/

/-- Depth of a LOSSY queue (17 Table QC.2). -/
def lossyDepth (q : Nat) : Nat := if q = 0 then 1024 else if q ≤ 8 then 64 else if q = 9 then 16 else 4096

/-- Cells that a list of MSDUs holds, of those that satisfy `p`. -/
def msduCells (p : Msdu → Bool) (l : List Msdu) : Nat := l.foldl (fun n m => if p m then n + m.blocks.length else n) 0

/-- Whether an MSDU comes from a host chain. -/
def Msdu.isHost (m : Msdu) : Bool := match m.origin with | .host .. => true | _ => false
/-- Whether an MSDU is a cut-through forward. -/
def Msdu.isFwd (m : Msdu) : Bool := match m.origin with | .fwd .. => true | _ => false
/-- Whether an MSDU is the device's own. -/
def Msdu.isOwn (m : Msdu) : Bool := match m.origin with | .own .. => true | _ => false

/-- The queued and unacknowledged downlink MSDUs of a node. -/
def Node.live (n : Node) : List Msdu := (match n.cur with | some m => [m] | none => []) ++ n.txq

/-- The MSDUs that wait or travel in group `g`, held ones left out. -/
def Dev.liveOf (d : Dev) (g : Nat) : List Msdu :=
  (d.group g).bq ++ (d.nodes.filter (fun e => decide (e.2.grp = g))).flatMap (fun e =>
    e.2.live.filter (fun m => m.heldBp.isNone))
/-- The MSDUs held for group `g`'s DORMANT nodes; one that is on its way in a release part is still held. -/
def Dev.heldOf (d : Dev) (g : Nat) : List Msdu :=
  (d.nodes.filter (fun e => decide (e.2.grp = g))).flatMap (fun e =>
    e.2.live.filter (fun m => m.heldBp.isSome) ++ e.2.heldq)

/-- Items resident in queue `q`. -/
def Dev.resident (d : Dev) (q : Nat) : Nat :=
  if q ≤ 10 then (d.lossy q).items.length
  else if q = 11 then d.swo.length
  else if q = 12 then d.cmds.length
  else if 16 ≤ q ∧ q < 48 then ((d.liveOf (q - 16)).filter Msdu.isHost).length
  else if 48 ≤ q ∧ q < 80 then (d.group (q - 48)).rxq.length
  else if 80 ≤ q ∧ q < 112 then ((d.heldOf (q - 80)).filter (fun m => !m.isOwn)).length
  else if q = 112 then ((List.range 32).flatMap (fun g => (d.liveOf g).filter Msdu.isFwd)).length
  else 0

/-- Occupancy of queue `q` in the units of its depth. -/
def Dev.occ (d : Dev) (q : Nat) : Nat :=
  if 16 ≤ q ∧ q < 48 then msduCells Msdu.isHost (d.liveOf (q - 16))
  else if 48 ≤ q ∧ q < 80 then ((d.group (q - 48)).rxq.map (fun m => m.cells.length)).foldl (· + ·) 0
  else if 80 ≤ q ∧ q < 112 then msduCells (fun _ => true) (d.heldOf (q - 80))
  else if q = 112 then ((List.range 32).map (fun g => msduCells Msdu.isFwd (d.liveOf g))).foldl (· + ·) 0
  else d.resident q

/-- Whether Table QC.2 lists queue `q`. -/
def queueListed (q : Nat) : Bool := decide (q ≤ 12 ∨ (16 ≤ q ∧ q ≤ 112))

/-! ### LOSSY queues, watermarks and events -/

/-- The record ring of a LOSSY queue: EVT, MEAS0-7, DER, TRACE of PF0 (15 Table HR.3). -/
def lossyRing (q : Nat) : Nat := q + 2

/-- An item enters LOSSY queue `q`; a full queue loses its oldest item, which is counted, shown in the ring's LOSS and, for
the measurement and derived queues, in `OVERWRITE_SEEN` (17 R409, R413; 13 R342, R345; 15 Table HR.5). -/
def Dev.pushRaw (d : Dev) (q : Nat) (item : List Byte) : Dev :=
  let lq := d.lossy q
  if lossyDepth q ≤ lq.items.length then
    let d := d.modLossy q (fun x => { x with items := x.items.drop 1 ++ [item], hw := 0, produced := x.produced + 1,
                                             overwritten := x.overwritten + 1 })
    let d := d.modRing (lossyRing q) (fun r => { r with loss := r.loss + 1 })
    let d := d.count 39 7 3 none 1
    if 1 ≤ q ∧ q ≤ 9 then d.raise .meas 0 else d
  else d.modLossy q (fun x => { x with items := x.items ++ [item], produced := x.produced + 1 })

/-- The 32 bytes of an event record (16 Table CE.5). -/
def eventBytes (mpt code st obj eseq : Nat) (detail : List Byte) : List Byte :=
  leBytes 6 mpt ++ leBytes 2 code ++ leBytes 1 st ++ [0] ++ leBytes 2 obj ++ leBytes 4 eseq ++ fit 16 detail

/-- Whether events are produced (16 R406). -/
def DevState.live : DevState → Bool
  | .config | .run | .safe => true
  | _ => false

/-- Put an event into queue 0 without judging its watermark. -/
def Dev.eventRaw (d : Dev) (mpt code st obj : Nat) (detail : List Byte) : Dev :=
  if d.dev.live then
    { d.pushRaw 0 (eventBytes mpt code st obj d.eseq.toNat detail) with eseq := d.eseq + 1 }
  else d

/-- Whether the occupancy of queue `q` has reached `HI` (17 R417). -/
def Dev.atHi (d : Dev) (q : Nat) : Bool := decide (d.fld (Reg.queWmCfg q) 31 16 ≤ d.occ q)
/-- Whether the occupancy of queue `q` has reached `LO` (17 R417). -/
def Dev.atLo (d : Dev) (q : Nat) : Bool := decide (d.occ q ≤ d.fld (Reg.queWmCfg q) 15 0)

/-- The sticky bits and the peak of queue `q` record its occupancy (17 R417). -/
def Dev.sticky (d : Dev) (q : Nat) : Dev :=
  let r := d.reg (Reg.queWmStat (q % 128))
  let r := if d.atHi q then setBits r 17 17 1 else r
  let r := if d.atLo q then setBits r 16 16 1 else r
  (d.setReg (Reg.queWmStat (q % 128)) r).modWm q (fun w => { w with peak := max w.peak (d.occ q) })

/-- Record the occupancy of queue `q` in its watermark: the sticky bits, the peak, and the notice of an armed one, which
disarms it (17 R417, R418). The notice is handed to `post`. -/
def Dev.markWith (post : Dev → Nat → List Byte → Dev) (d : Dev) (q : Nat) : Dev :=
  let met := d.atHi q || d.atLo q
  let d := d.sticky q
  if !(d.wmark q).armed then d
  else if !d.flag Reg.queCtrl 0 then d.modWm q (fun w => { w with armed := false })
  else if met then
    let st := d.fld (Reg.queWmStat (q % 128)) 17 16
    post (d.modWm q (fun w => { w with armed := false })) q
      (leBytes 1 (2 * (st % 2) + st / 2) ++ leBytes 4 (d.wmark q).peak)
  else d

/-- The notice of a watermark: event WATERMARK (16 Table CE.6), pushed into queue 0, whose own watermark is then judged
once more. -/
def Dev.notice (d : Dev) (q : Nat) (detail : List Byte) : Dev :=
  Dev.markWith (fun d q detail => d.eventRaw d.mpt 0x0602 0 q detail) (d.eventRaw d.mpt 0x0602 0 q detail) 0

/-- Record the occupancy of queue `q`. -/
def Dev.mark (d : Dev) (q : Nat) : Dev := Dev.markWith Dev.notice d q

/-- An item enters LOSSY queue `q`. -/
def Dev.push (d : Dev) (q : Nat) (item : List Byte) : Dev := (d.pushRaw q item).mark q

/-- An event with the MPT at which its happening was decided (16 R406). -/
def Dev.eventAt (d : Dev) (mpt code st obj : Nat) (detail : List Byte) : Dev :=
  if d.dev.live then (d.eventRaw mpt code st obj detail).mark 0 else d

/-- An event of this instant. -/
def Dev.event (d : Dev) (code st obj : Nat) (detail : List Byte) : Dev := d.eventAt d.mpt code st obj detail

/-- Record the occupancy of group `g`'s queues and of the relay queue. -/
def Dev.markGroup (d : Dev) (g : Nat) : Dev := (((d.mark (16 + g)).mark (48 + g)).mark (80 + g)).mark 112

/-! ### Fault classes (21 R481, R482) -/

/-- Record a fault class: `CLASS_SEEN`, `FCLASS` and the count. -/
def Dev.faultClass (d : Dev) (cls : Nat) : Dev :=
  let d := d.raise .mntF cls
  { d with mnt := { d.mnt with fclass := cls } }

/-- A fault reported by a FAULT event: location, group or 0xFF, and the sixth byte (21 R482). -/
def Dev.faultEvent (d : Dev) (cls loc grp b5 : Nat) : Dev :=
  (d.faultClass cls).event 0x0002 0x31 cls (leBytes 4 loc ++ leBytes 1 grp ++ leBytes 1 b5)

end Sys2Proof.Machine
end

