-- ==== Sys2Proof/Machine/Samples.lean ====
section
/-! DEFINITION. The transmit path sample by sample: a frame's processing samples, the interpolator, the words of the drive outputs, and
what the port DSP makes of them (03 R72-R74, R81-R83; 04 R91-R94, R99; 05 R120, R124; 06 R137-R149, R158, R159; 07 R167-R169).
Processing samples are in 2^-64 of a code (log 30). Nothing here changes the state. -/

namespace Sys2Proof.Machine

/-! ### Symbols (06 R137-R139, 07 R167-R169) -/

/-- FFT size of a profile, processing samples (06 Table WF.1). -/
def profFft (p : Nat) : Nat := 4096 * 2 ^ p
/-- Converter samples per processing sample of a profile. -/
def profStep (p : Nat) : Nat := 16 / 2 ^ p

/-- What one carrier adds to the sample at an angle of `a` / `turn` of a turn: Re(X e^{jθ}) with its attenuation, in 2^-64. -/
def Carrier.part (turn a : Nat) (c : Carrier) : Int :=
  let t := fixCosSin turn (a % turn)
  (c.i * t.1 - c.q * t.2) * (fixDb (4 * c.att) : Int) / (fixRoot c.p : Int)

/-- Body sample `n` of a symbol of FFT size `size`, without the scale g (06 R137). -/
def bodyAt (size : Nat) (cs : List Carrier) (n : Nat) : Int := sumBy (fun c => c.part size (c.k * n)) cs

/-- The window over the first `t` samples of a prefix, at sample `m` of them (06 R139). -/
def rampUp (t m : Nat) : Int := (fixOne - (fixCosSin (4 * t) (2 * m + 1)).1) / 2
/-- The window over a postfix of `t` samples. -/
def rampDown (t m : Nat) : Int := (fixOne + (fixCosSin (4 * t) (2 * m + 1)).1) / 2

/-- Sample `n` of a windowed symbol with prefix `gi` and postfix `tw`, counted from its body's start; 0 outside it. -/
def symbolAt (size gi tw : Nat) (cs : List Carrier) (n : Int) : Int :=
  if n < -(gi : Int) ∨ (size + tw : Nat) ≤ n then 0
  else
    let b := bodyAt size cs (n % (size : Int)).toNat
    if n + gi < tw then b * rampUp tw (n + gi).toNat / fixOne
    else if (size : Int) ≤ n then b * rampDown tw (n - size).toNat / fixOne
    else b

/-- A carrier multiplied by j^`c`. -/
def Carrier.turned (c : Nat) (x : Carrier) : Carrier :=
  match c % 4 with
  | 0 => x | 1 => { x with i := -x.q, q := x.i } | 2 => { x with i := -x.i, q := -x.q } | _ => { x with i := x.q, q := -x.i }

/-- The power of j that σ of a short symbol is: σ_8 = -1, σ_9 = -j^c with the guard code c (07 R168). -/
def shortTurn (gi part : Nat) : Nat := if part < 8 then 0 else if part = 8 then 2 else gi + 2

/-- Sample `i` of the ten short symbols, each an N/16 of the body; SS9 goes on under the postfix window for `tw` samples, over the prefix
of the sync-word symbol (07 R168; log 30). -/
def shortAt (size tw gi : Nat) (cs : List Carrier) (i : Nat) : Int :=
  let len := size / 16
  if 10 * len + tw ≤ i then 0
  else
    let part := min 9 (i / len)
    let b := bodyAt size (cs.map (Carrier.turned (shortTurn gi part))) (i - part * len)
    if i < 10 * len then b else b * rampDown tw (i - 10 * len) / fixOne

/-- The guard interval of a code in processing samples (06 Table WF.2). -/
def guardLen (p gi : Nat) : Nat := (symPeriod gi - 65536) / profStep p

/-- Sample `i` of a frame on one of its streams, without the scale: `amp j` weighs the symbol at place `j` after the preamble. -/
def streamAt (p : Nat) (f : TxFrame) (amp : Nat → Nat) (sy : List (List Carrier)) (i : Nat) : Int :=
  let size := profFft p
  let tw := postfixLen f.tw / profStep p
  let gi := guardLen p (fcGi f.fc)
  match sy with
  | short :: sync :: rest =>
    let head := shortAt size tw (fcGi f.fc) short i + symbolAt size (size / 8) tw sync ((i : Int) - (10 * (size / 16) + size / 8 : Nat))
    let at_ := fun (j : Nat) => if j < rest.length then
        (amp j : Int) * symbolAt size gi tw (rest.getD j []) ((i : Int) - (preambleLen / profStep p + j * (gi + size) + gi : Nat)) else 0
    let j := (i - preambleLen / profStep p) / (gi + size)
    (amp f.symbols.length : Int) * head + (if preambleLen / profStep p ≤ i then at_ j + (if 0 < j then at_ (j - 1) else 0) else 0)
  | _ => 0

/-! ### Scale, interpolator, words (06 R140, R146, R148) -/

/-- The scale g of a group, in 2^-64 code (06 R146). -/
def Dev.scaleG (d : Dev) (g : Nat) : Nat :=
  131071 * fixDb (2 * d.fld (Reg.wfCtrl g) 12 8) * 2 ^ 64 / isqrtFrom (profCarriers (d.profile g) * 2 ^ 127) 96 0

/-- The weight of the symbol at place `j` after the preamble, in 2^-64 code: g, and g/√2 on a MIMO binding but for T0 and T1 (06 R148,
R149). -/
def Dev.symbolScale (d : Dev) (f : TxFrame) (j : Nat) : Nat :=
  if f.mimo && !(fcMimo f.fc && decide (j = f.fcs ∨ j = f.fcs + 1)) then d.scaleG f.grp * 2 ^ 64 / fixRoot 2 else d.scaleG f.grp

/-- Processing sample `i` of stream `s` of a frame, in 2^-64 code. -/
def Dev.procSample (d : Dev) (f : TxFrame) (s i : Nat) : Int :=
  streamAt (d.profile f.grp) f (d.symbolScale f) (if s = 0 then f.symbols else f.stream1) i / fixOne

/-- Converter sample `n` of stream `s`, counted from the frame's first: the interpolator's output to the nearest code (06 R140). -/
def Dev.interpolated (d : Dev) (f : TxFrame) (s n : Nat) : Int :=
  let p := d.profile f.grp
  let r := profStep p
  let y := sumBy (fun j => if j ≤ n / r then Config.interpCoef p (n % r + r * j) * d.procSample f s (n / r - j) else 0)
    (List.range (Config.interpSpan p))
  roundDiv y (2 ^ 96)

/-- The sample of a drive output's word, before the 18-bit range limits it: stream 0, stream 1, or minus their sum (03 Table LP.4, R82). -/
def Dev.rawWord (d : Dev) (f : TxFrame) (out n : Nat) : Int :=
  match out with
  | 0 => d.interpolated f 0 n
  | 1 => d.interpolated f 1 n
  | _ => -(sat18 (d.interpolated f 0 n) + sat18 (d.interpolated f 1 n))

/-- Whether a run list covers sample `n`. -/
def inRuns (rs : List (Nat × Nat)) (n : Nat) : Bool := rs.any (fun r => decide (r.1 ≤ n ∧ n < r.1 + r.2))

/-- Whether a frame's words reach the port with B = 1 at sample `n`: one that is written too late is replaced by zeros (05 R124). -/
def Feed.covers (f : Feed) (n : Nat) : Bool :=
  decide (f.frame.start ≤ n ∧ n < f.stop) && !inRuns f.frame.late (n - f.frame.start)

/-- The samples of a group's cold training (04 R99). -/
def Dev.trainLen (d : Dev) (g : Nat) : Nat := d.fld (Reg.echCtrl g) 23 16 * 73728

/-- Whether a port sends training symbols at sample `n`. -/
def Dev.trainingAt (d : Dev) (p n : Nat) : Bool :=
  match (d.port p).trainAt with | some t => decide (t ≤ n ∧ n < t + d.trainLen (portGroup p)) | none => false

/-- Training symbol `j` of a slot: QPSK on every unmasked carrier (04 R99). -/
def Dev.trainCarriers (d : Dev) (p j : Nat) : List Carrier :=
  let g := portGroup p
  (openCarriers (d.profile g) (d.maskOf g)).map (fun k =>
    let v := Config.trainQpsk (p % 4) j k
    ⟨k, (if bit v.toNat 0 then -1 else 1), (if bit v.toNat 1 then -1 else 1), 2, maskCode (d.maskOf g) k⟩)

/-- The training as a frame without preamble: symbols with guard 1/8 under the group's window. -/
def Dev.trainSample (d : Dev) (p n : Nat) : Int :=
  let g := portGroup p
  let pr := d.profile g
  let size := profFft pr
  let tw := postfixLen (d.fld (Reg.wfCtrl g) 17 16) / profStep pr
  let at_ := fun (i j : Nat) => symbolAt size (size / 8) tw (d.trainCarriers p j) ((i : Int) - (j * (size + size / 8) + size / 8 : Nat))
  let proc := fun (i : Nat) =>
    let j := i / (size + size / 8)
    (d.scaleG g : Int) * (at_ i j + (if 0 < j then at_ i (j - 1) else 0)) / fixOne
  let r := profStep pr
  roundDiv (sumBy (fun j => if j ≤ n / r then Config.interpCoef pr (n % r + r * j) * proc (n / r - j) else 0)
    (List.range (Config.interpSpan pr))) (2 ^ 96)

/-- The sample that stands on a port's transmit path with B = 1 at sample `n`, before the 18-bit range limits it; none where B = 0. The
training symbols stand in place of the stream's words (04 R99). -/
def Dev.rawAt (d : Dev) (p n : Nat) : Option Int :=
  if d.trainingAt p n then some (d.trainSample p (n - ((d.port p).trainAt.getD 0)))
  else ((d.port p).fed.find? (fun f => f.covers n)).map (fun f => d.rawWord f.frame f.out (n - f.frame.start))

/-- Whether port `p` sends B = 1 in sample `n` (06 R154): its driver is enabled, and a frame or its training stands on its transmit path.
A driver muted by a fault sends nothing, whatever its stream carries (log 30). -/
def Dev.emits (d : Dev) (p n : Nat) : Bool :=
  (d.port p).enabled && (d.trainingAt p n || (d.port p).fed.any (fun f => f.covers n))

/-! ### The port DSP (03 R72-R74, 06 R158, R159) -/

/-- The gated and polarity-corrected sample v(n) (03 R72, R83). -/
def Dev.gated (d : Dev) (p n : Nat) : Int :=
  match d.rawAt p n with
  | none => 0
  | some x => if d.flag (Reg.portCfg (portGroup p) (p % 4)) 16 then sat18 (-(sat18 x)) else sat18 x

/-- The output of a shaping bank at sample `n`, to the nearest code, before the 18-bit range limits it (06 R158). -/
def Dev.bankOut (d : Dev) (p : Nat) (b : Bool) (n : Nat) : Int :=
  roundDiv (sumBy (fun t => if t ≤ n then
      signed 18 (d.reg (Reg.shape (portGroup p) (p % 4) (b2n b) t)) * d.gated p (n - t) else 0) (List.range 64)) 65536

/-- The shaping filter's output at sample `n`: the bank in force, or both by the fade's weights (06 R159). -/
def Dev.shaped (d : Dev) (p n : Nat) : Int :=
  let x := d.port p
  match x.fade with
  | none => sat18 (d.bankOut p x.bank n)
  | some f =>
    let i := f.i - (d.tb.n - n)
    roundDiv (((f.len - i : Nat) : Int) * sat18 (d.bankOut p f.src n) + (i : Int) * sat18 (d.bankOut p (!f.src) n)) f.len

/-- The attenuation A in half-decibel steps: the larger of `TX_ATTEN` and `DERATE` (03 R74). -/
def Dev.attenuation (d : Dev) (p : Nat) : Nat := max (d.fld (Reg.portCfg (portGroup p) (p % 4)) 13 8) (d.port p).derate

/-- The code sent to the LDAC at sample `n`: the shaped sample at the port's level, 0 while the driver is muted (03 R72-R74). It is also
the reference of every cancelling stage (04 R91), and what an echo-reference tap delivers (05 R122). -/
def Dev.ldac (d : Dev) (p n : Nat) : Int :=
  if (d.port p).enabled then sat18 (roundDiv (d.shaped p n * (fixDb (d.attenuation p) : Int)) (2 ^ 64)) else 0

/-- Whether a sample saturates on its way, at the encode lane or in the shaping filter (06 R146, R158). -/
def Dev.saturates (d : Dev) (p n : Nat) : Bool :=
  let clips := fun (i : Int) => decide (sat18 i ≠ i)
  (match d.rawAt p n with | some x => clips x | none => false) ||
    (match (d.port p).fade with
     | none => clips (d.bankOut p (d.port p).bank n)
     | some f => clips (d.bankOut p f.src n) || clips (d.bankOut p (!f.src) n))

/-! ### Cancelling in the port (03 R70, 04 R92-R94) -/

/-- A filter over a port's own reference, from sample `n` backwards; coefficients are 1/65,536 (log 12). -/
def Dev.overRef (d : Dev) (p n : Nat) (cs : List Int) : Int :=
  sumBy (fun (c : Int × Nat) => if c.1 = 0 ∨ n < c.2 then 0 else c.1 * d.ldac p (n - c.2)) (cs.zip (List.range cs.length))

/-- Whether a port's training stands in its first quarter at sample `n`, in which the CDAC code is 0 (04 Table FD.2). -/
def Dev.firstQuarter (d : Dev) (p n : Nat) : Bool :=
  match (d.port p).trainAt with
  | some t => decide ((d.port p).ech = .training ∧ n < t + d.trainLen (portGroup p) / 4)
  | none => false

/-- The CDAC code at sample `n`: 0 while the canceller is IDLE, as it is out of service (03 R70, 04 R92, R107). -/
def Dev.cdac (d : Dev) (p n : Nat) : Int :=
  if (d.port p).ech = .idle ∨ d.firstQuarter p n then 0 else sat18 (roundDiv (d.overRef p n (d.port p).pre) 65536)

/-- What a time-domain canceller of given coefficients subtracts from the MADC sample `n` at a receive gain: its estimate at `DPX_GAIN`, scaled by the gain
ratio of the two codes (04 R93, R94). -/
def Dev.echoOver (d : Dev) (p gain : Nat) (td : List Int) (n : Nat) : Int :=
  let x := d.port p
  if x.ech = .idle ∨ n < x.bulkDly then 0
  else
    let dpx := d.fld (Reg.echCtrl (portGroup p)) 11 8
    let e := d.overRef p (n - x.bulkDly) td
    if gain ≤ dpx then roundDiv (e * (fixDb (6 * (dpx - gain)) : Int)) (65536 * 2 ^ 64)
    else roundDiv (e * 2 ^ 64) (65536 * fixDb (6 * (gain - dpx)))

/-- What the time-domain canceller subtracts from the MADC sample `n`. -/
def Dev.echoEstimate (d : Dev) (p gain n : Nat) : Int := d.echoOver p gain (d.port p).td n

end Sys2Proof.Machine
end

