-- ==== Sys2Proof/Machine/Converters.lean ====
section
/-! DEFINITION. The receive path sample by sample: converters and their full scales, limit codes, the cancelled MADC word, the blanking
detector (03 R65-R70, R83; 04 R92-R94; 05 R117, R130; 08 R208). What stands at the receive pins enters as runs of converter samples. -/

namespace Sys2Proof.Machine

/-! ### Full scales and codes (03 Table LP.1, R65-R67) -/

/-- MADC full scale of a receive gain, mV peak at the receive pins (03 Table LP.1). -/
def madcFull (gain : Nat) : Nat :=
  match gain with | 0 => 1000 | 1 => 708 | 2 => 501 | 3 => 355 | 4 => 251 | 5 => 178 | 6 => 126 | 7 => 89 | _ => 63

/-- SADC full scale of a receive gain, mV peak (03 Table LP.1): its path has 24 dB less gain (R65). -/
def sadcFull (gain : Nat) : Nat :=
  match gain with
  | 0 => 15850 | 1 => 11220 | 2 => 7940 | 3 => 5620 | 4 => 3980 | 5 => 2820 | 6 => 2000 | 7 => 1410 | _ => 1000

/-- The code of a voltage in µV at a full scale in mV: +131,071 at positive full scale, a limit code beyond it (03 R67). -/
def adcCode (full : Nat) (uv : Int) : Int := sat18 (roundDiv (uv * 131071) (full * 1000))

/-- Whether a code is a limit code. -/
def isLimit (c : Int) : Bool := decide (c = 131071 ∨ c = -131072)

/-- The receive gain in force on a port: the schedule entry's, or that of `GRP_PORT_CFG` (03 R68). -/
def Dev.rxGainOf (d : Dev) (p : Nat) : Nat := (d.port p).rxGain.getD (d.fld (Reg.portCfg (portGroup p) (p % 4)) 3 0)

/-- `RX_INV` of a port applied to a sample (03 R83). -/
def Dev.rxPolarity (d : Dev) (p : Nat) (c : Int) : Int :=
  if d.flag (Reg.portCfg (portGroup p) (p % 4)) 17 then sat18 (-c) else c

/-! ### Pins to samples -/

/-- Converter samples `a` to `b` - 1, counted from a window's first sample, with the signal at the receive pins in µV. -/
structure PinSpan where
  a  : Int
  b  : Int
  uv : Int
  deriving DecidableEq, Repr

/-- Runs of pin samples, oldest first, as spans from a place on. -/
def pinSpans : Int → PinRuns → List PinSpan
  | _, [] => []
  | a, r :: rest => ⟨a, a + r.1, r.2⟩ :: pinSpans (a + r.1) rest

/-- The number of samples in runs. -/
def pinLen (rs : PinRuns) : Nat := rs.foldl (fun n r => n + r.1) 0

/-- Spans of pins that end eight samples after a window of `w` samples: those eight serve the look-behind of 08 R208, what stands before the
window its hold. -/
def windowSpans (w : Nat) (rs : PinRuns) : List PinSpan := pinSpans ((w : Int) + 8 - pinLen rs) rs

/-- What the converters of a port give over a span: MADC and SADC codes, and the MADC word's sample after cancellation. -/
structure ConvSpan where
  a    : Int
  b    : Int
  madc : Int
  sadc : Int
  word : Int
  deriving DecidableEq, Repr

/-- The CDAC adds ±15.85 V at full scale to what stands at the pins (03 R70), in µV. -/
def cdacUv (code : Int) : Int := roundDiv (code * 15850000) 131071

/-- One converter sample, `n` its sample count: both converters see the same summing-node signal (03 R65); the MADC word carries the cancelled
sample (04 R93, R94). -/
def Dev.convert (d : Dev) (p n : Nat) (a b uv : Int) : ConvSpan :=
  let gain := d.rxGainOf p
  let v := uv + cdacUv (d.cdac p n)
  let m := adcCode (madcFull gain) v
  { a := a, b := b, madc := m, sadc := adcCode (sadcFull gain) v
    word := d.rxPolarity p (sat18 (m - d.echoEstimate p gain n)) }

/-- The spans of a window whose first sample has sample count `n0`. With the canceller IDLE, or without coefficients, a span stays whole. -/
def Dev.convertAll (d : Dev) (p n0 : Nat) (ss : List PinSpan) : List ConvSpan :=
  ss.flatMap (fun s =>
    if (d.port p).ech = .idle ∨ ((d.port p).pre = [] ∧ (d.port p).td = []) then [d.convert p n0 s.a s.b s.uv]
    else (List.range (s.b - s.a).toNat).map (fun (i : Nat) => d.convert p (s.a + (n0 : Int) + (i : Int)).toNat (s.a + i) (s.a + i + 1) s.uv))

/-! ### Blanking (08 R208, 05 R130) -/

/-- Whether a span meets a condition of the blanking detector (08 R208). -/
def Dev.blankCond (d : Dev) (p : Nat) (s : ConvSpan) : Bool :=
  let g := portGroup p
  isLimit s.madc || decide ((d.fld (Reg.ccBlk g) 5 0 : Int) * 131071 ≤ 64 * absI s.madc) ||
    decide ((d.fld (Reg.ccBlk g) 13 8 : Int) * 131071 ≤ 64 * absI s.sadc)

/-- A span joins spans in rising order, one that it touches taken in. -/
def addSpan (a b : Int) : List (Int × Int) → List (Int × Int)
  | [] => [(a, b)]
  | x :: rest =>
    if b < x.1 then (a, b) :: x :: rest
    else if x.2 < a then x :: addSpan a b rest
    else addSpan (min a x.1) (max b x.2) rest

/-- The union of spans, in rising order, apart from each other. -/
def unionSpans (l : List (Int × Int)) : List (Int × Int) :=
  l.foldl (fun acc s => if s.1 < s.2 then addSpan s.1 s.2 acc else acc) []

/-- Parts of spans within `lo` to `hi` - 1. -/
def clipSpans (lo hi : Int) (l : List (Int × Int)) : List (Int × Int) :=
  (l.map (fun s => (max lo s.1, min hi s.2))).filter (fun s => decide (s.1 < s.2))

/-- The samples in spans that lie apart. -/
def spanSum (l : List (Int × Int)) : Nat := l.foldl (fun n s => n + (s.2 - s.1).toNat) 0

/-- Spans in which a port's streams are absent, from sample count `n0` on (05 R130). -/
def Dev.absentSpans (d : Dev) (p n0 : Nat) : List (Int × Int) :=
  (d.gaps.filter (fun x => decide (x.1 = portQuad p))).map (fun x =>
    ((x.2.1 : Int) - n0, (match x.2.2 with | some e => (e : Int) - n0 | none => 2 ^ 64)))

/-- The samples with B = 1 of a port: eight before the first sample that meets a condition to `BLK_HOLD` after the last (08 R208); the whole
of an absence (05 R130). -/
def Dev.blankSpans (d : Dev) (p n0 : Nat) (ss : List ConvSpan) : List (Int × Int) :=
  let hold := (d.fld (Reg.ccBlk (portGroup p)) 25 16 : Int)
  unionSpans (((ss.filter (d.blankCond p)).map (fun s => (s.a - 8, s.b + hold))) ++ d.absentSpans p n0)

/-! ### What the converters show (03 R69, 08 R208) -/

/-- A happening that occurs `n` times at once: its status bit, and as many counts. -/
def Dev.raiseN (d : Dev) (r : Src) (b n : Nat) : Dev :=
  if n = 0 then d else (d.setFld r.off b b 1).count r.place.1 r.place.2.1 b r.place.2.2 n

/-- Blanked samples of a port: the group's `BLANK_SEEN`, its count, and the count of the port (20 Table CT.1). -/
def Dev.countBlanked (d : Dev) (p n : Nat) : Dev :=
  if n = 0 then d else (d.raiseN (.cc (portGroup p)) 0 n).count (portGroup p) 7 1 (some (p % 4)) n

/-- A window of a port's samples is judged: each sample once, limit codes of either converter and blanked samples. Samples of an absent stream
are 0 (05 R130). -/
def Dev.noteSamples (d : Dev) (p n0 w : Nat) (ss : List ConvSpan) (bl : List (Int × Int)) : Dev :=
  let lo : Int := max (-(n0 : Int)) ((d.port p).seen - n0)
  let away := unionSpans (d.absentSpans p n0)
  let here := fun (f : ConvSpan → Int) =>
    let l := unionSpans ((ss.filter (fun s => isLimit (f s))).map (fun s => (s.a, s.b)))
    spanSum (clipSpans lo w l) - spanSum ((clipSpans lo w l).flatMap (fun s => clipSpans s.1 s.2 away))
  let src := Src.port (portGroup p) (p % 4)
  let e := ((d.raiseN src 28 (here ConvSpan.madc)).raiseN src 29 (here ConvSpan.sadc)).countBlanked p (spanSum (clipSpans lo w bl))
  { d with regs := e.regs, cnts := e.cnts }.modPort p (fun x => { x with seen := max x.seen (n0 + w) })

end Sys2Proof.Machine
end

