-- ==== Sys2Proof/Machine/Hash.lean ====
section
/-! DEFINITION. The hash functions of the root of trust: SHA-512 (FIPS 180-4) and the SHAKE functions (FIPS 202), as 00 R2 names them
(log 11). -/

namespace Sys2Proof.Machine

/-- The big-endian value of a byte list. -/
def beNat (bs : List Byte) : Nat := bs.foldl (fun v b => v * 256 + b.toNat) 0

/-- `n` bytes of `v`, most significant first. -/
def beBytes (n v : Nat) : List Byte := (leBytes n v).reverse

/-! ### SHA-512 -/

/-- The round constants: the first 64 bits of the fractional parts of the cube roots of the first 80 primes. -/
def shaK : List (BitVec 64) :=
  [0x428A2F98D728AE22, 0x7137449123EF65CD, 0xB5C0FBCFEC4D3B2F, 0xE9B5DBA58189DBBC,
   0x3956C25BF348B538, 0x59F111F1B605D019, 0x923F82A4AF194F9B, 0xAB1C5ED5DA6D8118,
   0xD807AA98A3030242, 0x12835B0145706FBE, 0x243185BE4EE4B28C, 0x550C7DC3D5FFB4E2,
   0x72BE5D74F27B896F, 0x80DEB1FE3B1696B1, 0x9BDC06A725C71235, 0xC19BF174CF692694] ++
  [0xE49B69C19EF14AD2, 0xEFBE4786384F25E3, 0x0FC19DC68B8CD5B5, 0x240CA1CC77AC9C65,
   0x2DE92C6F592B0275, 0x4A7484AA6EA6E483, 0x5CB0A9DCBD41FBD4, 0x76F988DA831153B5,
   0x983E5152EE66DFAB, 0xA831C66D2DB43210, 0xB00327C898FB213F, 0xBF597FC7BEEF0EE4,
   0xC6E00BF33DA88FC2, 0xD5A79147930AA725, 0x06CA6351E003826F, 0x142929670A0E6E70] ++
  [0x27B70A8546D22FFC, 0x2E1B21385C26C926, 0x4D2C6DFC5AC42AED, 0x53380D139D95B3DF,
   0x650A73548BAF63DE, 0x766A0ABB3C77B2A8, 0x81C2C92E47EDAEE6, 0x92722C851482353B,
   0xA2BFE8A14CF10364, 0xA81A664BBC423001, 0xC24B8B70D0F89791, 0xC76C51A30654BE30,
   0xD192E819D6EF5218, 0xD69906245565A910, 0xF40E35855771202A, 0x106AA07032BBD1B8] ++
  [0x19A4C116B8D2D0C8, 0x1E376C085141AB53, 0x2748774CDF8EEB99, 0x34B0BCB5E19B48A8,
   0x391C0CB3C5C95A63, 0x4ED8AA4AE3418ACB, 0x5B9CCA4F7763E373, 0x682E6FF3D6B2B8A3,
   0x748F82EE5DEFB2FC, 0x78A5636F43172F60, 0x84C87814A1F0AB72, 0x8CC702081A6439EC,
   0x90BEFFFA23631E28, 0xA4506CEBDE82BDE9, 0xBEF9A3F7B2C67915, 0xC67178F2E372532B] ++
  [0xCA273ECEEA26619C, 0xD186B8C721C0C207, 0xEADA7DD6CDE0EB1E, 0xF57D4F7FEE6ED178,
   0x06F067AA72176FBA, 0x0A637DC5A2C898A6, 0x113F9804BEF90DAE, 0x1B710B35131C471B,
   0x28DB77F523047D84, 0x32CAAB7B40C72493, 0x3C9EBE0A15C9BEBC, 0x431D67C49C100D4C,
   0x4CC5D4BECB3E42B6, 0x597F299CFC657E2A, 0x5FCB6FAB3AD6FAEC, 0x6C44198C4A475817]

/-- The initial hash value: the same of the square roots of the first 8 primes. -/
def shaInit : List (BitVec 64) :=
  [0x6A09E667F3BCC908, 0xBB67AE8584CAA73B, 0x3C6EF372FE94F82B, 0xA54FF53A5F1D36F1,
   0x510E527FADE682D1, 0x9B05688C2B3E6C1F, 0x1F83D9ABFB41BD6B, 0x5BE0CD19137E2179]

/-- A message padded to whole blocks of 128 bytes, its length in bits in the last 16 bytes. -/
def shaPad (bs : List Byte) : List Byte :=
  bs ++ 0x80 :: List.replicate ((239 - bs.length % 128) % 128) 0 ++ beBytes 16 (8 * bs.length)

/-- A 64-bit word rotated right by three amounts, the third shifted instead where `sh` says so, and combined. -/
def shaMix (x : BitVec 64) (a b c : Nat) (sh : Bool) : BitVec 64 :=
  x.rotateRight a ^^^ x.rotateRight b ^^^ (if sh then x >>> c else x.rotateRight c)

/-- One round on the working words and the next sixteen words of the message schedule. -/
def shaRound (x : List (BitVec 64) × List (BitVec 64)) (k : BitVec 64) : List (BitVec 64) × List (BitVec 64) :=
  match x.1 with
  | [a, b, c, d, e, f, g, h] =>
    let w := x.2
    let t1 := h + shaMix e 14 18 41 false + ((e &&& f) ^^^ (~~~e &&& g)) + k + w.getD 0 0
    let t2 := shaMix a 28 34 39 false + ((a &&& b) ^^^ (a &&& c) ^^^ (b &&& c))
    ([t1 + t2, a, b, c, d + t1, e, f, g],
     w.drop 1 ++ [shaMix (w.getD 14 0) 19 61 6 true + w.getD 9 0 + shaMix (w.getD 1 0) 1 8 7 true + w.getD 0 0])
  | l => (l, x.2)

/-- A block joins the hash value. -/
def shaBlock (h : List (BitVec 64)) (block : List Byte) : List (BitVec 64) :=
  let w := (chunks 8 16 block).map (fun c => BitVec.ofNat 64 (beNat c))
  ((shaK.foldl shaRound (h, w)).1.zip h).map (fun x => x.1 + x.2)

/-- SHA-512, 64 bytes. -/
def sha512 (bs : List Byte) : List Byte :=
  let m := shaPad bs
  ((chunks 128 (m.length / 128) m).foldl shaBlock shaInit).flatMap (fun w => beBytes 8 w.toNat)

/-! ### SHAKE -/

/-- The round constants of Keccak-f[1600]. -/
def keccakRc : List (BitVec 64) :=
  [0x0000000000000001, 0x0000000000008082, 0x800000000000808A, 0x8000000080008000,
   0x000000000000808B, 0x0000000080000001, 0x8000000080008081, 0x8000000000008009,
   0x000000000000008A, 0x0000000000000088, 0x0000000080008009, 0x000000008000000A] ++
  [0x000000008000808B, 0x800000000000008B, 0x8000000000008089, 0x8000000000008003,
   0x8000000000008002, 0x8000000000000080, 0x000000000000800A, 0x800000008000000A,
   0x8000000080008081, 0x8000000000008080, 0x0000000080000001, 0x8000000080008008]

/-- The rotation of each lane, numbered x + 5y. -/
def keccakRot : List Nat :=
  [0, 1, 62, 28, 27, 36, 44, 6, 55, 20, 3, 10, 43, 25, 39, 41, 45, 15, 21, 8, 18, 2, 61, 56, 14]

/-- One round of Keccak-f[1600] on 25 lanes. -/
def keccakRound (s : List (BitVec 64)) (rc : BitVec 64) : List (BitVec 64) :=
  let c := (List.range 5).map (fun x => s.getD x 0 ^^^ s.getD (x + 5) 0 ^^^ s.getD (x + 10) 0 ^^^ s.getD (x + 15) 0 ^^^ s.getD (x + 20) 0)
  let d := (List.range 5).map (fun x => c.getD ((x + 4) % 5) 0 ^^^ (c.getD ((x + 1) % 5) 0).rotateLeft 1)
  let t := (List.range 25).map (fun i => s.getD i 0 ^^^ d.getD (i % 5) 0)
  let b := (List.range 25).map (fun i =>
    let j := (i % 5 + 3 * (i / 5)) % 5 + 5 * (i % 5)
    (t.getD j 0).rotateLeft (keccakRot.getD j 0))
  let a := (List.range 25).map (fun i =>
    b.getD i 0 ^^^ (~~~(b.getD ((i + 1) % 5 + 5 * (i / 5)) 0) &&& b.getD ((i + 2) % 5 + 5 * (i / 5)) 0))
  (a.getD 0 0 ^^^ rc) :: a.drop 1

/-- Keccak-f[1600]. -/
def keccakF (s : List (BitVec 64)) : List (BitVec 64) := keccakRc.foldl keccakRound s

/-- A message padded to whole blocks of the rate. -/
def shakePad (rate : Nat) (bs : List Byte) : List Byte :=
  let q := rate - bs.length % rate
  bs ++ (if q = 1 then [0x9F] else 0x1F :: List.replicate (q - 2) 0 ++ [0x80])

/-- A block is absorbed. -/
def shakeAbsorb (s : List (BitVec 64)) (block : List Byte) : List (BitVec 64) :=
  let ls := (chunks 8 25 block).map (fun c => BitVec.ofNat 64 (leNat c))
  keccakF ((s.zip (List.range 25)).map (fun x => x.1 ^^^ ls.getD x.2 0))

/-- Blocks are squeezed. -/
def shakeSqueeze (rate : Nat) : Nat → List (BitVec 64) → List Byte
  | 0, _ => []
  | n + 1, s => (s.take (rate / 8)).flatMap (fun w => leBytes 8 w.toNat) ++ shakeSqueeze rate n (keccakF s)

/-- `n` bytes of a SHAKE function of the given rate. -/
def shake (rate : Nat) (bs : List Byte) (n : Nat) : List Byte :=
  let m := shakePad rate bs
  (shakeSqueeze rate ((n + rate - 1) / rate) ((chunks rate (m.length / rate) m).foldl shakeAbsorb (List.replicate 25 0))).take n

/-- SHAKE128. -/
def shake128 (bs : List Byte) (n : Nat) : List Byte := shake 168 bs n
/-- SHAKE256. -/
def shake256 (bs : List Byte) (n : Nat) : List Byte := shake 136 bs n

end Sys2Proof.Machine
end

