-- ==== Sys2Proof/Machine/Ed25519.lean ====
section
/-! DEFINITION. Ed25519 in the pure form of RFC 8032 (00 R2, 19 R443, R450; log 11). -/

namespace Sys2Proof.Machine

/-- The field prime. -/
def edP : Nat := 2 ^ 255 - 19
/-- The order of the base point. -/
def edL : Nat := 2 ^ 252 + 27742317777372353535851937790883648493

/-- A power modulo `m`, of an exponent below 2^256. -/
def powMod (m b e : Nat) : Nat := iter 256 (fun i x => let y := x * x % m; if bit e (255 - i) then y * b % m else y) 1

/-- The inverse in the field. -/
def edInv (a : Nat) : Nat := powMod edP a (edP - 2)
/-- The constant of the curve, -121665/121666. -/
def edD : Nat := (edP - 121665) * edInv 121666 % edP

/-- A point in extended coordinates. -/
structure EdPoint where
  x : Nat
  y : Nat
  z : Nat
  t : Nat
  deriving DecidableEq, Repr

/-- The neutral point. -/
def EdPoint.zero : EdPoint := { x := 0, y := 1, z := 1, t := 0 }

/-- The sum of two points. -/
def EdPoint.add (p q : EdPoint) : EdPoint :=
  let a := (p.y + edP - p.x) * (q.y + edP - q.x) % edP
  let b := (p.y + p.x) * (q.y + q.x) % edP
  let c := p.t * 2 * edD % edP * q.t % edP
  let d := p.z * 2 * q.z % edP
  let e := (b + edP - a) % edP
  let f := (d + edP - c) % edP
  let g := (d + c) % edP
  let h := (b + a) % edP
  { x := e * f % edP, y := g * h % edP, z := f * g % edP, t := e * h % edP }

/-- A multiple of a point, by a number below 2^512. -/
def EdPoint.mul (n : Nat) (p : EdPoint) : EdPoint :=
  iter 512 (fun i q => let r := q.add q; if bit n (511 - i) then r.add p else r) EdPoint.zero

/-- Whether two points are equal. -/
def EdPoint.same (p q : EdPoint) : Bool := decide (p.x * q.z % edP = q.x * p.z % edP ∧ p.y * q.z % edP = q.y * p.z % edP)

/-- The x coordinate of a y, of the sign given, where there is one. -/
def edRecover (y sign : Nat) : Option Nat :=
  let x2 := (y * y + edP - 1) % edP * edInv (edD * y % edP * y + 1) % edP
  if edP ≤ y then none
  else if x2 = 0 then (if sign = 1 then none else some 0)
  else
    let x := powMod edP x2 ((edP + 3) / 8)
    let x := if x * x % edP = x2 then x else x * powMod edP 2 ((edP - 1) / 4) % edP
    if x * x % edP ≠ x2 then none else some (if x % 2 = sign then x else edP - x)

/-- A point read from 32 bytes. -/
def edDecode (bs : List Byte) : Option EdPoint :=
  let v := leNat (fit 32 bs)
  let y := v % 2 ^ 255
  (edRecover y (v / 2 ^ 255)).map (fun x => { x := x, y := y, z := 1, t := x * y % edP })

/-- A point as 32 bytes. -/
def EdPoint.encode (p : EdPoint) : List Byte :=
  let i := edInv p.z
  leBytes 32 (p.y * i % edP + p.x * i % edP % 2 * 2 ^ 255)

/-- The base point: y is 4/5, x even. -/
def edBase : EdPoint := (edDecode (leBytes 32 (4 * edInv 5 % edP))).getD EdPoint.zero

/-- The secret scalar of a private key. -/
def edScalar (h : List Byte) : Nat := leNat (h.take 32) % 2 ^ 254 / 8 * 8 + 2 ^ 254

/-- The public key of a private key. -/
def edPublic (sk : List Byte) : List Byte := (EdPoint.mul (edScalar (sha512 sk)) edBase).encode

/-- The signature over a message, 64 bytes. -/
def edSign (sk msg : List Byte) : List Byte :=
  let h := sha512 sk
  let a := edScalar h
  let r := leNat (sha512 (h.drop 32 ++ msg)) % edL
  let rs := (EdPoint.mul r edBase).encode
  let k := leNat (sha512 (rs ++ (EdPoint.mul a edBase).encode ++ msg)) % edL
  rs ++ leBytes 32 ((r + k * a) % edL)

/-- Whether a signature verifies: the group equation with the cofactor. -/
def edVerify (pk sig msg : List Byte) : Bool :=
  let rs := bytesAt sig 0 32
  let s := leNat (bytesAt sig 32 32)
  match edDecode rs, edDecode pk with
  | some r, some a =>
    let k := leNat (sha512 (rs ++ fit 32 pk ++ msg)) % edL
    decide (s < edL) &&
      (EdPoint.mul 8 (EdPoint.mul s edBase)).same (EdPoint.mul 8 (r.add (EdPoint.mul k a)))
  | _, _ => false

end Sys2Proof.Machine
end

