-- ==== Sys2Proof/Machine/Aes.lean ====
section
/-! DEFINITION. AES-256, the GCM mode of line crypto (NIST SP 800-38D with a 96-bit IV and a 128-bit tag, 11 R293) and the key wrap of
RFC 3394 (19 R454), as 00 R2 names them (log 11). -/

namespace Sys2Proof.Machine

/-! ### The cipher -/

/-- The S-box, 32 entries a row, the first in the most significant byte. -/
def aesSbox : List Nat :=
  [0x637C777BF26B6FC53001672BFED7AB76CA82C97DFA5947F0ADD4A2AF9CA472C0,
   0xB7FD9326363FF7CC34A5E5F171D8311504C723C31896059A071280E2EB27B275,
   0x09832C1A1B6E5AA0523BD6B329E32F8453D100ED20FCB15B6ACBBE394A4C58CF,
   0xD0EFAAFB434D338545F9027F503C9FA851A3408F929D38F5BCB6DA2110FFF3D2,
   0xCD0C13EC5F974417C4A77E3D645D197360814FDC222A908846EEB814DE5E0BDB,
   0xE0323A0A4906245CC2D3AC629195E479E7C8376D8DD54EA96C56F4EA657AAE08,
   0xBA78252E1CA6B4C6E8DD741F4BBD8B8A703EB5664803F60E613557B986C11D9E,
   0xE1F8981169D98E949B1E87E9CE5528DF8CA1890DBFE6426841992D0FB054BB16]

/-- The inverse S-box. -/
def aesInvSbox : List Nat :=
  [0x52096AD53036A538BF40A39E81F3D7FB7CE339829B2FFF87348E4344C4DEE9CB,
   0x547B9432A6C2233DEE4C950B42FAC34E082EA16628D924B2765BA2496D8BD125,
   0x72F8F66486689816D4A45CCC5D65B6926C704850FDEDB9DA5E154657A78D9D84,
   0x90D8AB008CBCD30AF7E45805B8B34506D02C1E8FCA3F0F02C1AFBD0301138A6B,
   0x3A9111414F67DCEA97F2CFCEF0B4E67396AC7422E7AD3585E2F937E81C75DF6E,
   0x47F11A711D29C5896FB7620EAA18BE1BFC563E4BC6D279209ADBC0FE78CD5AF4,
   0x1FDDA8338807C731B11210592780EC5F60517FA919B54A0D2DE57A9F93C99CEF,
   0xA0E03B4DAE2AF5B0C8EBBB3C83539961172B047EBA77D626E169146355210C7D]

/-- An entry of a packed box. -/
def boxAt (t : List Nat) (b : Byte) : Byte := BitVec.ofNat 8 (t.getD (b.toNat / 32) 0 / 2 ^ (8 * (31 - b.toNat % 32)))

/-- Multiplication by x in the field of AES. -/
def aesX (b : Byte) : Byte := if b.msb then (b <<< 1) ^^^ 0x1B else b <<< 1

/-- Multiplication by a constant of up to four bits. -/
def aesMul (k : Nat) (b : Byte) : Byte :=
  let b2 := aesX b
  let b4 := aesX b2
  (if bit k 0 then b else 0) ^^^ (if bit k 1 then b2 else 0) ^^^ (if bit k 2 then b4 else 0) ^^^ (if bit k 3 then aesX b4 else 0)

/-- Bytes combined one by one. -/
def xorBytes (a b : List Byte) : List Byte := (a.zip b).map (fun x => x.1 ^^^ x.2)

/-- The next word of the key schedule, given those before it, latest first. -/
def aesNextWord (ws : List (List Byte)) : List Byte :=
  let i := ws.length
  let prev := ws.headD []
  let t := if i % 8 = 0 then xorBytes ((prev.drop 1 ++ prev.take 1).map (boxAt aesSbox)) [BitVec.ofNat 8 (2 ^ (i / 8 - 1)), 0, 0, 0]
    else if i % 8 = 4 then prev.map (boxAt aesSbox) else prev
  xorBytes (ws.getD 7 []) t

/-- The fifteen round keys of a 256-bit key. -/
def aesKeys (key : List Byte) : List (List Byte) :=
  let ws := iter 52 (fun _ ws => aesNextWord ws :: ws) (chunks 4 8 (fit 32 key)).reverse
  chunks 16 15 ws.reverse.flatten

/-- A column times the matrix whose first row is `m`. -/
def aesColumn (m : List Nat) (c : List Byte) : List Byte :=
  (List.range 4).map (fun r => (List.range 4).foldl (fun a i => a ^^^ aesMul (m.getD ((i + 4 - r) % 4) 0) (c.getD i 0)) 0)

/-- The columns of a state mixed. -/
def aesMix (m : List Nat) (s : List Byte) : List Byte := (chunks 4 4 s).flatMap (aesColumn m)

/-- Row r of the state rotated left by r columns, or right where `inv` is set. -/
def aesShift (inv : Bool) (s : List Byte) : List Byte :=
  (List.range 16).map (fun i => s.getD ((if inv then i + 16 - 4 * (i % 4) else i + 4 * (i % 4)) % 16) 0)

/-- AES-256 on one block, under round keys. -/
def aesEnc (ks : List (List Byte)) (b : List Byte) : List Byte :=
  let sub := fun (s : List Byte) => aesShift false (s.map (boxAt aesSbox))
  let s := ((ks.drop 1).take 13).foldl (fun s k => xorBytes (aesMix [2, 3, 1, 1] (sub s)) k) (xorBytes b (ks.headD []))
  xorBytes (sub s) (ks.getD 14 [])

/-- The inverse cipher. -/
def aesDec (ks : List (List Byte)) (b : List Byte) : List Byte :=
  let sub := fun (s : List Byte) => (aesShift true s).map (boxAt aesInvSbox)
  let s := ((ks.drop 1).take 13).reverse.foldl (fun s k => aesMix [14, 11, 13, 9] (xorBytes (sub s) k)) (xorBytes b (ks.getD 14 []))
  xorBytes (sub s) (ks.headD [])

/-! ### GCM -/

/-- The product of two blocks in the field of GHASH, the bit of x^0 the most significant one. -/
def ghashMul (a b : Nat) : Nat :=
  (iter 128 (fun i (x : Nat × Nat) =>
    (if bit a (127 - i) then x.1 ^^^ x.2 else x.1, if bit x.2 0 then (x.2 / 2) ^^^ (0xE1 * 2 ^ 120) else x.2 / 2)) (0, b)).1

/-- Bytes padded with zeros to whole blocks. -/
def pad16 (bs : List Byte) : List Byte := bs ++ List.replicate ((16 - bs.length % 16) % 16) 0

/-- GHASH under the hash subkey. -/
def ghash (h : Nat) (bs : List Byte) : Nat :=
  (chunks 16 (bs.length / 16) bs).foldl (fun y b => ghashMul (y ^^^ beNat b) h) 0

/-- The counter block of a 96-bit IV. -/
def gcmCtr (iv : List Byte) (n : Nat) : List Byte := fit 12 iv ++ beBytes 4 n

/-- The key stream over `n` bytes. -/
def gcmKeyStream (key iv : List Byte) (n : Nat) : List Byte :=
  let ks := aesKeys key
  ((List.range ((n + 15) / 16)).flatMap (fun i => aesEnc ks (gcmCtr iv (i + 2)))).take n

/-- Bytes encrypted or decrypted. -/
def gcmCrypt (key iv bs : List Byte) : List Byte := xorBytes bs (gcmKeyStream key iv bs.length)

/-- The tag over additional data and ciphertext, 16 bytes. -/
def gcmTag (key iv aad cipher : List Byte) : List Byte :=
  let ks := aesKeys key
  let h := beNat (aesEnc ks (List.replicate 16 0))
  let s := ghash h (pad16 aad ++ pad16 cipher ++ beBytes 8 (8 * aad.length) ++ beBytes 8 (8 * cipher.length))
  xorBytes (aesEnc ks (gcmCtr iv 1)) (beBytes 16 s)

/-! ### Key wrap -/

/-- RFC 3394 unwrapping of `n` 64-bit blocks: the integrity-check value and the key data. -/
def unwrapBlocks (key wrapped : List Byte) (n : Nat) : Nat × List Byte :=
  let ks := aesKeys key
  let r := iter (6 * n) (fun k (x : Nat × List (List Byte)) =>
    let t := 6 * n - k
    let i := (t - 1) % n
    let b := aesDec ks (beBytes 8 (x.1 ^^^ t) ++ x.2.getD i [])
    (beNat (b.take 8), setAt x.2 i (b.drop 8))) (beNat (wrapped.take 8), chunks 8 n (wrapped.drop 8))
  (r.1, r.2.flatten)

/-- RFC 3394 unwrapping of 40 bytes under a key-encryption key: none where the integrity check fails (19 R454). -/
def unwrapKey (key wrapped : List Byte) : Option (List Byte) :=
  let r := unwrapBlocks key (fit 40 wrapped) 4
  if r.1 = 0xA6A6A6A6A6A6A6A6 then some r.2 else none

end Sys2Proof.Machine
end

