-- ==== Sys2Proof/Machine/Descriptors.lean ====
section
/-! DEFINITION. The fields of doorbell slots and descriptors, read from their 32 bytes, little-endian (00 R6; 15 Tables HR.4, HR.6, HR.7;
16 Table CE.1). Reserved bits are read by nothing. -/

namespace Sys2Proof

/-! ### Command descriptors (16 Table CE.1) -/

/-- `A0`. -/
def CmdDesc.a0 (c : CmdDesc) : BitVec 64 := BitVec.ofNat 64 (Machine.leAt c.raw 0 8)
/-- `A1`. -/
def CmdDesc.a1 (c : CmdDesc) : BitVec 32 := BitVec.ofNat 32 (Machine.leAt c.raw 8 4)
/-- Bytes 12 to 15. -/
def CmdDesc.word3 (c : CmdDesc) : Nat := Machine.leAt c.raw 12 4
/-- `DT`. -/
def CmdDesc.dt (c : CmdDesc) : BitVec 4 := BitVec.ofNat 4 (Machine.bits c.word3 31 28)
/-- `ABLK`. -/
def CmdDesc.ablk (c : CmdDesc) : Bool := Machine.bit c.word3 27
/-- `OPC`. -/
def CmdDesc.opc (c : CmdDesc) : BitVec 8 := BitVec.ofNat 8 (Machine.bits c.word3 23 16)
/-- `A2`. -/
def CmdDesc.a2 (c : CmdDesc) : BitVec 16 := BitVec.ofNat 16 (Machine.bits c.word3 15 0)
/-- `A3`. -/
def CmdDesc.a3 (c : CmdDesc) : BitVec 32 := BitVec.ofNat 32 (Machine.leAt c.raw 16 4)
/-- `COOKIE`. -/
def CmdDesc.cookie (c : CmdDesc) : BitVec 32 := BitVec.ofNat 32 (Machine.leAt c.raw 20 4)
/-- `RADDR`. -/
def CmdDesc.raddr (c : CmdDesc) : BitVec 64 := BitVec.ofNat 64 (Machine.leAt c.raw 24 8)

/-! ### Doorbell slots (15 Table HR.4) -/

/-- `BASE`, with bits [5:0] as read. -/
def DbSlot.base (s : DbSlot) : BitVec 64 := BitVec.ofNat 64 (Machine.leAt s.raw 0 8)
/-- Bytes 8 to 11. -/
def DbSlot.word2 (s : DbSlot) : Nat := Machine.leAt s.raw 8 4
/-- `EN`. -/
def DbSlot.en (s : DbSlot) : Bool := Machine.bit s.word2 31
/-- `LOG2_SIZE`. -/
def DbSlot.lg (s : DbSlot) : BitVec 5 := BitVec.ofNat 5 (Machine.bits s.word2 20 16)
/-- `VEC`. -/
def DbSlot.vec (s : DbSlot) : BitVec 8 := BitVec.ofNat 8 (Machine.bits s.word2 15 8)
/-- `ESZ`. -/
def DbSlot.esz (s : DbSlot) : BitVec 8 := BitVec.ofNat 8 (Machine.bits s.word2 7 0)
/-- `MOD_CNT`. -/
def DbSlot.modCnt (s : DbSlot) : BitVec 16 := BitVec.ofNat 16 (Machine.leAt s.raw 14 2)
/-- `MOD_US`. -/
def DbSlot.modUs (s : DbSlot) : BitVec 16 := BitVec.ofNat 16 (Machine.leAt s.raw 12 2)
/-- `IDX`. -/
def DbSlot.idx (s : DbSlot) : BitVec 32 := BitVec.ofNat 32 (Machine.leAt s.raw 16 4)

/-! ### DATA, BUF and RXBUF descriptors (15 Table HR.7) -/

/-- `ADDR`. -/
def TxDesc.addr (x : TxDesc) : BitVec 64 := BitVec.ofNat 64 (Machine.leAt x.raw 0 8)
/-- `BLEN`. -/
def TxDesc.blen (x : TxDesc) : BitVec 16 := BitVec.ofNat 16 (Machine.leAt x.raw 8 2)
/-- `LEN`. -/
def TxDesc.len (x : TxDesc) : BitVec 16 := BitVec.ofNat 16 (Machine.leAt x.raw 10 2)
/-- Bytes 12 to 15. -/
def TxDesc.word3 (x : TxDesc) : Nat := Machine.leAt x.raw 12 4
/-- `DT`. -/
def TxDesc.dt (x : TxDesc) : BitVec 4 := BitVec.ofNat 4 (Machine.bits x.word3 31 28)
/-- `CHAIN`. -/
def TxDesc.chain (x : TxDesc) : Bool := Machine.bit x.word3 27
/-- `HCV`. -/
def TxDesc.hcv (x : TxDesc) : Bool := Machine.bit x.word3 26
/-- `ENC`. -/
def TxDesc.enc (x : TxDesc) : Bool := Machine.bit x.word3 25
/-- `BCAST`. -/
def TxDesc.bcast (x : TxDesc) : Bool := Machine.bit x.word3 24
/-- `FTAG`. -/
def TxDesc.ftag (x : TxDesc) : BitVec 8 := BitVec.ofNat 8 (Machine.bits x.word3 23 16)
/-- `NH`. -/
def TxDesc.nh (x : TxDesc) : BitVec 14 := BitVec.ofNat 14 (Machine.bits x.word3 13 0)
/-- `HCRC`. -/
def TxDesc.hcrc (x : TxDesc) : BitVec 32 := BitVec.ofNat 32 (Machine.leAt x.raw 16 4)
/-- `COOKIE`. -/
def TxDesc.cookie (x : TxDesc) : BitVec 32 := BitVec.ofNat 32 (Machine.leAt x.raw 20 4)

/-- `ADDR`. -/
def RxDesc.addr (x : RxDesc) : BitVec 64 := BitVec.ofNat 64 (Machine.leAt x.raw 0 8)
/-- `BLEN`. -/
def RxDesc.blen (x : RxDesc) : BitVec 16 := BitVec.ofNat 16 (Machine.leAt x.raw 8 2)
/-- `DT`. -/
def RxDesc.dt (x : RxDesc) : BitVec 4 := BitVec.ofNat 4 (Machine.bits (Machine.leAt x.raw 12 4) 31 28)
/-- `COOKIE`. -/
def RxDesc.cookie (x : RxDesc) : BitVec 32 := BitVec.ofNat 32 (Machine.leAt x.raw 20 4)

end Sys2Proof
end

