-- ==== Sys2Proof/Machine/Rings.lean ====
section
/-! DEFINITION. Rings, completions, status slots and messages on the device's side (15 R369-R388). -/

namespace Sys2Proof.Machine

/-! ### Which ring is where (15 R365, Table HR.3) -/

/-- Key of a ring: function × 256 + slot. -/
def ringKey (f slot : Nat) : Nat := f * 256 + slot
/-- The function of a ring. -/
def ringFn (k : Nat) : Nat := k / 256
/-- The slot of a ring. -/
def ringSlot (k : Nat) : Nat := k % 256

/-- The function that serves group `g`'s data rings (15 R365). -/
def Dev.dataFn (d : Dev) (g : Nat) : Nat := if d.vfEn ∧ g < d.numVfs then 2 + g else 1
/-- Group `g`'s data ring with offset `x`: 0 TX, 1 TXC, 2 RXP, 3 RXC. -/
def Dev.dataRing (d : Dev) (g x : Nat) : Nat :=
  if d.vfEn ∧ g < d.numVfs then ringKey (2 + g) x else ringKey 1 (4 * g + x)
/-- The group of a data ring. -/
def ringGroup (k : Nat) : Nat := if ringFn k = 1 then ringSlot k / 4 else ringFn k - 2

/-- Ring classes (15 section "Rings"). -/
inductive RingClass where
  | submission | completion | record
  deriving DecidableEq, Repr

/-- The class of a ring (15 Table HR.3). -/
def ringClass (k : Nat) : RingClass :=
  if ringFn k = 0 then (if ringSlot k = 0 then .submission else if ringSlot k = 1 then .completion else .record)
  else if ringSlot k % 2 = 0 then .submission else .completion

/-- Slots defined for a function (15 Table HR.1). -/
def fnSlots (f : Nat) : Nat := if f = 0 then 14 else if f = 1 then 128 else 4
/-- MSI-X table entries of a function (15 Table HR.1). -/
def fnVectors (f : Nat) : Nat := if f = 0 then 16 else if f = 1 then 128 else 4

/-- Whether Table HR.3 gives function `f` a ring at `slot` in the present SR-IOV setting (15 R365, R369). -/
def Dev.slotServed (d : Dev) (f slot : Nat) : Bool :=
  decide (slot < fnSlots f) &&
    (if f = 0 then true
     else if f = 1 then !(d.vfEn && decide (slot / 4 < d.numVfs))
     else d.vfEn && decide (f - 2 < d.numVfs))

/-- Whether the device state serves rings of the function, so that its doorbell page is read (01 Table OR.4, 15 R372). -/
def Dev.served (d : Dev) (f : Nat) : Bool :=
  if f = 0 then d.dev.live else decide (d.dev = .run)

/-- Whether the device state serves a ring: CMD, CMDC and EVT of PF0 in CONFIG, RUN and SAFE, every other ring in RUN alone (01 Table
OR.4). -/
def Dev.ringServed (d : Dev) (f slot : Nat) : Bool :=
  if f = 0 ∧ slot ≤ 2 then d.dev.live else decide (d.dev = .run)

/-- Bytes of one entry. -/
def Dev.entrySize (d : Dev) (k : Nat) : Nat :=
  match ringClass k with | .submission => 32 | .completion => 16 | .record => (d.ring k).esz * 16

/-! ### Indices (15 R370) -/

/-- Entries of the ring. -/
def Ring.size (r : Ring) : Nat := 2 ^ r.lg
/-- Entries a submission ring holds: host − device modulo 2^32. -/
def Ring.waiting (r : Ring) : Nat := (r.hostIdx - r.devIdx).toNat
/-- Entries of a completion or record ring that the host has not consumed. -/
def Ring.unread (r : Ring) : Nat := (r.devIdx - r.hostIdx).toNat
/-- Entries of a completion ring neither written nor reserved. -/
def Ring.freeEntries (r : Ring) : Nat := r.size - (r.unread + r.rsvd)
/-- Whether entries are written to the ring: ENABLED or STOPPING. -/
def Ring.takes (r : Ring) : Bool := match r.st with | .enabled | .stopping => true | _ => false
/-- Items taken from a submission ring that have not left the device (17 identity 6). -/
def Ring.resident (r : Ring) : Nat := r.consumed - (r.completed + r.flushed + r.faulted)

/-! ### Messages (15 R386) -/

/-- Whether an MSI-X entry is masked. PF0's table lies in BAR 0. -/
def Dev.vecMasked (d : Dev) (f v : Nat) : Bool :=
  if f = 0 then d.flag (Reg.msixTable v 3) 0 else !(d.fn f).unmasked.contains v

/-- Send the message of entry `v`, or hold it pending while the entry is masked. -/
def Dev.message (d : Dev) (f v : Nat) : Dev :=
  if d.vecMasked f v then
    d.modFn f (fun x => if x.pend.contains v then x else { x with pend := v :: x.pend })
  else
    let d := d.modFn f (fun x => { x with sent := SMap.set (fun _ => 0) v (SMap.get (fun _ => 0) v x.sent + 1) x.sent })
    if f = 0 then
      d.hostWrite 0 (d.reg (Reg.msixTable v 1) * 2 ^ 32 + d.reg (Reg.msixTable v 0)) (leBytes 4 (d.reg (Reg.msixTable v 2)))
    else d

/-! ### Entries and completions (15 R381, R382) -/

/-- The phase bit of the entry at a device index: ((index / size) & 1) xor 1. -/
def phaseBit (r : Ring) : Nat := 1 - (r.devIdx.toNat / r.size) % 2

/-- Write one entry at the device index of a completion or record ring and account for it towards the ring's message. -/
def Dev.writeEntry (d : Dev) (k : Nat) (bs : List Byte) : Dev :=
  let r := d.ring k
  let size := d.entrySize k
  let d := d.hostWrite (ringFn k) (r.base.toNat + (r.devIdx.toNat % r.size) * size) (fit size bs)
  d.modRing k (fun r =>
    let r := { r with devIdx := r.devIdx + 1 }
    if r.vec = 255 then r
    else
      let n := r.unsig + 1
      let at0 := if r.unsig = 0 then d.clk else r.unsigAt
      if max 1 r.modCnt ≤ n ∨ r.modUs = 0 then { r with unsig := 0, msgDue := true }
      else { r with unsig := n, unsigAt := at0 })

/-- The 16 bytes of a completion without its phase bit (15 Table HR.9): cookie, descriptor index, status, type, then
bytes 8 to 15. -/
def completionBytes (cookie didx st ct : Nat) (rest : List Byte) : List Byte :=
  leBytes 4 cookie ++ leBytes 2 didx ++ leBytes 1 st ++ leBytes 1 ct ++ fit 8 rest

/-- A completion with the phase of the entry it takes. -/
def withPhase (r : Ring) (bs : List Byte) : List Byte :=
  let b := byteAt bs 15
  setAt (fit 16 bs) 15 (BitVec.ofNat 8 (b % 128 + 128 * phaseBit r))

/-- Write completions owed to completion ring `k` while it has room, in their order. The error completion of a forced reset
stands for no single item (15 R387, 17 R421). -/
def Dev.payOwed (d : Dev) (k : Nat) : Dev :=
  let r := d.ring k
  let n := r.size - r.unread
  let now := r.owed.take n
  let d := if now = [] then d else d.modRing k (fun r => { r with owed := r.owed.drop n })
  now.foldl (fun d bs =>
    let d := (d.writeEntry k (withPhase (d.ring k) bs)).modRing k (fun r => { r with rsvd := r.rsvd - 1 })
    if byteAt bs 6 = 0x30 then d else d.modRing (k - 1) (fun r => { r with completed := r.completed + 1 })) d

/-- An item of submission ring `k` completes: its completion is written on the paired ring in the entry reserved for it, behind
completions still owed; it is kept while that ring is in FAULT, and there is none once the ring is disabled (15 R381, R387;
17 R421). -/
def Dev.complete (d : Dev) (k : Nat) (bs : List Byte) : Dev :=
  let c := d.ring (k + 1)
  match c.st with
  | .disabled => d
  | .fault => d.modRing (k + 1) (fun r => { r with owed := r.owed ++ [bs] })
  | _ => (d.modRing (k + 1) (fun r => { r with owed := r.owed ++ [bs] })).payOwed (k + 1)

/-- An item of submission ring `k` leaves without a completion and is counted as flushed (17 R419, 21 R485). -/
def Dev.flushItem (d : Dev) (k : Nat) : Dev :=
  let d := d.modRing (k + 1) (fun r => { r with rsvd := r.rsvd - 1 })
  let d := d.modRing k (fun r => { r with flushed := r.flushed + 1 })
  d.count 39 7 4 none 1

/-! ### Status slots (15 R375, Table HR.5) -/

/-- RESID of a ring. -/
def Dev.resid (d : Dev) (k : Nat) : Nat :=
  if ringFn k ≠ 0 ∧ ringClass k = .submission then (d.ring k).resident else 0

/-- The first 16 bytes of a status slot. -/
def Dev.statusBytes (d : Dev) (k : Nat) : List Byte :=
  let r := d.ring k
  leBytes 4 r.devIdx.toNat ++ leBytes 1 r.st.code ++ leBytes 1 r.err.toNat ++ [0, 0] ++ leBytes 4 (d.resid k) ++
    leBytes 4 r.loss.toNat

/-- Write status slot `k` as it stands, and raise the message that waited for it. -/
def Dev.writeStatus (d : Dev) (k : Nat) : Dev :=
  let bs := d.statusBytes k
  let d := d.hostWrite (ringFn k) ((d.fn (ringFn k)).stpOn.toNat + 32 * ringSlot k)
    (bs ++ leBytes 6 d.mpt ++ List.replicate 10 0)
  let due := (d.ring k).msgDue
  let v := (d.ring k).vec
  let d := d.modRing k (fun r => { r with shown := bs, msgDue := false })
  if due then d.message (ringFn k) v else d

end Sys2Proof.Machine
end

