-- ==== Sys2Proof/Machine/Operands.lean ====
section
/-! DEFINITION. Operand forms: status codes, the command descriptor's arguments and the checks that every command passes
before its own (15 Table HR.11, 16 Tables CE.1-CE.3). -/

namespace Sys2Proof

/-- The group, port, handle, set or count that `A2` names. -/
def CmdDesc.n2 (c : CmdDesc) : Nat := c.a2.toNat
/-- `A1` as a number. -/
def CmdDesc.n1 (c : CmdDesc) : Nat := c.a1.toNat
/-- `A3` as a number. -/
def CmdDesc.n3 (c : CmdDesc) : Nat := c.a3.toNat
/-- Bits of `A1`. -/
def CmdDesc.f1 (c : CmdDesc) (hi lo : Nat) : Nat := Machine.bits c.n1 hi lo
/-- The MPT argument: `A0` [47:0]. -/
def CmdDesc.mpt (c : CmdDesc) : Nat := c.a0.toNat % 2 ^ 48
/-- The argument block as read. -/
def CmdDesc.bytes (c : CmdDesc) : List Byte := c.block.getD []

end Sys2Proof

namespace Sys2Proof.Machine

/-! ### Status codes (15 Table HR.11) -/

def stOk : Nat := 0x00
def stMaintDeferred : Nat := 0x01
def stSuperseded : Nat := 0x02
def stLen : Nat := 0x10
def stLenShort : Nat := 0x11
def stDesc : Nat := 0x12
def stNoNode : Nat := 0x13
def stHcrc : Nat := 0x14
def stInvalid : Nat := 0x15
def stBadState : Nat := 0x16
def stUnsupported : Nat := 0x17
def stNotStopped : Nat := 0x18
def stBankBusy : Nat := 0x19
def stLate : Nat := 0x1A
def stConflict : Nat := 0x1B
def stNoRoom : Nat := 0x1C
def stNotFound : Nat := 0x1D
def stFlushed : Nat := 0x20
def stCancelled : Nat := 0x21
def stNoAck : Nat := 0x22
def stHeldExpired : Nat := 0x23
def stHeldFull : Nat := 0x24
def stFwdFail : Nat := 0x25
def stAuth : Nat := 0x26
def stReplay : Nat := 0x27
def stDup : Nat := 0x28
def stHoldover : Nat := 0x29
def stPinFault : Nat := 0x2A
def stQueueFault : Nat := 0x30
def stInternal : Nat := 0x31
def stRxDrop : Nat := 0x32
def stPageFault : Nat := 0x33

/-! ### Checks -/

/-- What Table CE.3 says of a command before its effect: code, whether `RADDR` is required, the block lengths it takes
(0: an empty block), the argument bits it uses, and the bound of `A2`. -/
structure CmdSpec where
  opc   : Nat
  needR : Bool
  len   : CmdDesc → Nat → Bool
  m0    : Nat
  m1    : Nat
  m2    : Nat
  m3    : Nat
  lim2  : Nat

/-- A command without arguments or block. -/
def CmdSpec.plain (opc : Nat) : CmdSpec :=
  { opc := opc, needR := false, len := fun _ n => decide (n = 0), m0 := 0, m1 := 0, m2 := 0, m3 := 0, lim2 := 65536 }

/-- Codes of Table CE.3 with the states that accept them: CONFIG, RUN, SAFE. -/
def cmdStates (opc : Nat) : Option (Bool × Bool × Bool) :=
  match opc with
  | 0x01 | 0x30 => some (true, false, false)
  | 0x02 | 0x11 | 0x12 | 0x13 | 0x14 | 0x22 | 0x23 | 0x25 | 0x26 | 0x27 | 0x41 | 0x42 | 0x48 | 0x49 | 0x4A | 0x54 =>
    some (false, true, false)
  | 0x10 | 0x15 | 0x16 | 0x17 | 0x20 | 0x21 | 0x28 | 0x31 | 0x40 | 0x53 => some (true, true, false)
  | 0x03 | 0x04 | 0x24 | 0x32 | 0x50 | 0x51 | 0x52 | 0x60 | 0x61 => some (true, true, true)
  | _ => none

/-- Check 3's device-state part (16 Table CE.2, 19 R447). -/
def Dev.accepts (d : Dev) (opc : Nat) : Bool :=
  match cmdStates opc with
  | none => false
  | some (c, r, s) =>
    match d.dev with
    | .config => c
    | .run => r
    | .safe => s && (!d.sec.restricted || opc == 0x60 || opc == 0x03 || opc == 0x61)
    | _ => false

/-- Check 4. -/
def raddrOk (need : Bool) (c : CmdDesc) : Bool :=
  decide (c.raddr.toNat % 64 = 0) && (!need || decide (c.raddr ≠ 0))

/-- Whether check 5 reads the block: its address and its length stand. -/
def blockRead (len : Nat → Bool) (c : CmdDesc) : Bool :=
  c.ablk && decide (c.a0.toNat % 8 = 0 ∧ 1 ≤ c.n3 ∧ c.n3 ≤ 65536) && len c.n3

/-- Check 5: a block of a length the command takes, read without error; or none where it takes none or its range allows an
empty one. -/
def blockOk (len : Nat → Bool) (c : CmdDesc) : Bool :=
  if c.ablk then
    decide (c.a0.toNat % 8 = 0 ∧ 1 ≤ c.n3 ∧ c.n3 ≤ 65536) && len c.n3 &&
      (match c.block with | some b => decide (b.length = c.n3) | none => false)
  else len 0

/-- Check 6's common part: argument bits the command does not use are 0, and `A2` is within its range. -/
def argsOk (sp : CmdSpec) (c : CmdDesc) : Bool :=
  decide (c.n1 &&& sp.m1 = c.n1 ∧ c.n2 &&& sp.m2 = c.n2 ∧ c.n2 < sp.lim2) &&
    (c.ablk || decide (c.a0.toNat &&& sp.m0 = c.a0.toNat ∧ c.n3 &&& sp.m3 = c.n3))

/-- The checks before the fifth pass, and the read of the block fails: reported through AER (16 R393). -/
def blockReadFails (sp : CmdSpec) (obj : Bool) (d : Dev) (c : CmdDesc) : Bool :=
  decide (c.dt = 4) && (cmdStates c.opc.toNat).isSome && d.accepts c.opc.toNat && obj && raddrOk sp.needR c &&
    blockRead (sp.len c) c && c.block.isNone

/-- The checks of Table CE.2 in their order; `obj` is check 3's object part, `arg` what check 6 asks beyond the bits. The
status of the first check that fails. -/
def judge (sp : CmdSpec) (obj arg : Bool) (d : Dev) (c : CmdDesc) : Option Nat :=
  if c.dt ≠ 4 then some stDesc
  else if cmdStates c.opc.toNat = none then some stUnsupported
  else if !(d.accepts c.opc.toNat && obj) then some stBadState
  else if !raddrOk sp.needR c then some stInvalid
  else if !blockOk (sp.len c) c then some stInvalid
  else if !(argsOk sp c && arg) then some stInvalid
  else none

end Sys2Proof.Machine
end

