-- ==== Sys2Proof/Machine/Cmds.lean ====
section
/-! DEFINITION. Commands on the CMD ring: intake, outstanding commands, completion (16 R392-R396). -/

namespace Sys2Proof.Machine

/-- The outstanding command with the model's number `id`. -/
def Dev.cmdOf (d : Dev) (id : Nat) : Option Cmd := d.cmds.find? (fun c => decide (c.id = id))

/-- Bytes 8 to 15 of a CMDC completion: Q0 to Q4 (16 R393). -/
def quints (q0 q1 q2 q3 q4 : Nat) : List Byte :=
  leBytes 2 q0 ++ leBytes 2 q1 ++ leBytes 2 q2 ++ leBytes 1 q3 ++ leBytes 1 (q4 % 128)

/-- A wide result over Q0 to Q2 (16 R393). -/
def wideQ (v q3 q4 : Nat) : List Byte := leBytes 6 v ++ leBytes 1 q3 ++ leBytes 1 (q4 % 128)

/-- An outstanding command ends: it leaves the queue of outstanding commands, and its completion is written unless an FLR
of PF0 or a forced reset has taken that away (21 R485, 17 R421). A command that is not outstanding completes nothing. -/
def Dev.finish (d : Dev) (id st : Nat) (q : List Byte) : Dev :=
  match d.cmdOf id with
  | none => d
  | some c =>
    let d := { d with cmds := d.cmds.filter (fun x => decide (x.id ≠ id)) }
    let d :=
      if c.report then
        (d.modAcct 12 (fun a => { a with consumed := a.consumed + 1 })).complete 0
          (completionBytes c.desc.cookie.toNat c.idx.toNat st 3 q)
      else d.modAcct 12 (fun a => { a with flushed := a.flushed + 1 })
    d.mark 12

/-- A command ends with a result block at `RADDR`, written ahead of the completion; a failed write of the block turns the
status into ST_INVALID and is reported through AER (16 R393, Table CE.7). A command whose completion an FLR has taken away writes no block either. -/
def Dev.finishBlock (d : Dev) (id st : Nat) (q block : List Byte) : Dev :=
  match d.cmdOf id with
  | none => d
  | some c =>
    if !c.report then d.finish id st q
    else if c.desc.resFail then (d.reportAer 0).finish id stInvalid q
    else (d.hostWrite 0 c.desc.raddr.toNat block).finish id st q

/-- Finish with a status and no result. -/
def Dev.finishSt (d : Dev) (id st : Nat) : Dev := d.finish id st []

/-- Finish the command, where there is one. -/
def Dev.finishOpt (d : Dev) (id : Option Nat) (st : Nat) : Dev :=
  match id with | none => d | some i => d.finishSt i st

/-- Whether the CMD ring yields its next descriptor: served, ENABLED, an entry waiting, a CMDC entry to reserve, fewer than 64
commands outstanding (16 R394). -/
def Dev.cmdReady (d : Dev) : Bool :=
  d.dev.live && decide ((d.ring 0).st = .enabled) && decide (0 < (d.ring 0).waiting) &&
    decide (0 < (d.ring 1).freeEntries) && (d.ring 1).takes && decide (d.cmds.length < 64)

/-- Fetch the next command: reserve its completion entry and make it outstanding under the model's number `d.nextId`. -/
def Dev.fetchCmd (d : Dev) (c : CmdDesc) : Dev :=
  let idx := (d.ring 0).devIdx
  let d := d.modRing 0 (fun r => { r with devIdx := r.devIdx + 1, consumed := r.consumed + 1 })
  let d := d.modRing 1 (fun r => { r with rsvd := r.rsvd + 1 })
  let d := { d with cmds := d.cmds ++ [({ id := d.nextId, idx := idx, desc := c, start := d.clk, report := true } : Cmd)],
                    nextId := d.nextId + 1 }
  (d.modAcct 12 (fun a => { a with produced := a.produced + 1 })).mark 12

/-- A row's command is on the ring: it is fetched, judged by Table CE.2, and either completes with the status of the check
that fails or has the row's effect. A descriptor that carries another listed command is not this row's; one whose code is
not listed, or whose `DT` is not 0x4, ends the same way under any row. -/
def command (sp : CmdSpec) (obj arg : Dev → CmdDesc → Bool) (eff : Nat → CmdDesc → Dev → Dev) (c : CmdDesc) (d : Dev) :
    Dev :=
  if !d.cmdReady then d
  else if c.dt = 4 ∧ (cmdStates c.opc.toNat).isSome ∧ c.opc.toNat ≠ sp.opc then d
  else
    let id := d.nextId
    let pre := d
    let d := d.fetchCmd c
    match judge sp (obj pre c) (arg pre c) pre c with
    | some st => (if blockReadFails sp (obj pre c) pre c then d.reportAer 0 else d).finishSt id st
    | none => eff id c d

/-- No object state or further range is asked. -/
def always (_ : Dev) (_ : CmdDesc) : Bool := true

end Sys2Proof.Machine
end

