-- ==== Sys2Proof/Machine/Credits.lean ====
section
/-! DEFINITION. Cells and credits (17 R414-R416, 01 R29). -/

namespace Sys2Proof.Machine

/-- Cells of the frame store. -/
def cellsTotal : Nat := 98304
/-- `QUOTA` of a group. -/
def Dev.quotaOf (d : Dev) (g : Nat) : Nat := d.fld (Reg.queGrp g) 31 16
/-- `BORROW_MAX` of a group. -/
def Dev.borrowMax (d : Dev) (g : Nat) : Nat := d.fld (Reg.queGrp g) 15 0
/-- `RX_RSV` of a group. -/
def Dev.rxRsv (d : Dev) (g : Nat) : Nat := d.fld (Reg.queGrpRx g) 11 0
/-- `RSV`, the device reserve. -/
def Dev.reserve (d : Dev) : Nat := d.fld Reg.quePool 15 0
/-- SHARED = 98,304 − RSV − Σ QUOTA, as an integer (a write that would make it negative is refused). -/
def Dev.sharedInt (d : Dev) : Int :=
  (cellsTotal : Int) - (d.reserve : Int) - (List.range 32).foldl (fun (a : Int) g => a + (d.quotaOf g : Int)) 0
/-- Shared credits borrowed by all groups. -/
def Dev.borrowedAll (d : Dev) : Nat := d.groups.foldl (fun a e => a + e.2.borrowed) 0
/-- Quota credits taken by all groups. -/
def Dev.quotaAll (d : Dev) : Nat := d.groups.foldl (fun a e => a + e.2.quota) 0
/-- Shared credits free. -/
def Dev.sharedFree (d : Dev) : Nat := (d.sharedInt - (d.borrowedAll : Int)).toNat
/-- Quota credits of a group free. -/
def Dev.quotaFree (d : Dev) (g : Nat) : Nat := d.quotaOf g - (d.group g).quota
/-- Free cells. -/
def Dev.freeCells (d : Dev) : Nat := cellsTotal - (d.quotaAll + d.borrowedAll + d.ques.rsv)

/-- One credit for line reception of group `g`: from its quota while any is free, then shared within `BORROW_MAX`
(17 R415). -/
def Dev.takeRx (d : Dev) (g : Nat) : Option (Pool × Dev) :=
  if 0 < d.quotaFree g then some (.quota, d.modGroup g (fun x => { x with quota := x.quota + 1 }))
  else if (d.group g).borrowed < d.borrowMax g ∧ 0 < d.sharedFree then
    some (.shared, d.modGroup g (fun x => { x with borrowed := x.borrowed + 1 }))
  else none

/-- Quota credits that one grant of `n` takes: while more than `RX_RSV` remain free (17 R416). -/
def Dev.quotaPart (d : Dev) (g n : Nat) : Nat := min n (d.quotaFree g - (d.rxRsv g + 1))

/-- Whether a grant of `n` cells to group `g` covers every cell: quota, then shared within `BORROW_MAX` (17 R416). -/
def Dev.coverable (d : Dev) (g n : Nat) : Bool :=
  let s := n - d.quotaPart g n
  decide ((d.group g).borrowed + s ≤ d.borrowMax g ∧ s ≤ d.sharedFree) || decide (s = 0)

/-- Make a grant of `n` cells to group `g`: the pools behind its cells. -/
def Dev.takeCells (d : Dev) (g n : Nat) : List Pool × Dev :=
  let q := d.quotaPart g n
  let s := n - q
  (List.replicate q .quota ++ List.replicate s .shared,
   d.modGroup g (fun x => { x with quota := x.quota + q, borrowed := x.borrowed + s }))

/-- Whether a request of `rank` for `n` cells of group `g` must wait behind one of `ws`: one that does not rank after it and
still waits for a pool it would draw on (01 R29). -/
def Dev.behind (d : Dev) (ws : List Waiter) (rank g n : Nat) : Bool :=
  ws.any (fun w => decide (w.rank ≤ rank) &&
    (decide (w.grp = g) ||
      (decide (d.quotaPart g n < n) && decide (d.quotaPart w.grp w.need < w.need))))

/-- Cells return to the pools whose credits back them (17 R414). -/
def Dev.freePools (d : Dev) (g : Nat) (ps : List Pool) : Dev :=
  let q := (ps.filter (fun p => decide (p = .quota))).length
  let s := (ps.filter (fun p => decide (p = .shared))).length
  let r := (ps.filter (fun p => decide (p = .rsv))).length
  let d := d.modGroup g (fun x => { x with quota := x.quota - q, borrowed := x.borrowed - s })
  { d with ques := { d.ques with rsv := d.ques.rsv - r } }

/-- Credits of the device reserve for `n` cells, where it covers them (17 R414, R416). -/
def Dev.takeReserve (d : Dev) (n : Nat) : Option Dev :=
  if d.ques.rsv + n ≤ d.reserve then some { d with ques := { d.ques with rsv := d.ques.rsv + n } } else none

/-- Remove a waiting request. -/
def Dev.dropWaiter (d : Dev) (w : WaitFor) : Dev :=
  { d with ques := { d.ques with waiters := d.ques.waiters.filter (fun x => decide (x.what ≠ w)) } }

/-- Ask for `n` cells of group `g`: granted at once, or placed among the waiting requests (17 R416, 01 R29). -/
def Dev.request (d : Dev) (rank g n : Nat) (what : WaitFor) : Option (List Pool) × Dev :=
  if d.ques.waiters.any (fun w => decide (w.what = what)) then (none, d)
  else if d.coverable g n && !d.behind d.ques.waiters rank g n then
    let t := d.takeCells g n
    (some t.1, t.2)
  else
    (none, { d with ques := { d.ques with waiters := d.ques.waiters ++
      [({ rank := rank, grp := g, need := n, what := what } : Waiter)] } })

end Sys2Proof.Machine
end

