-- ==== Sys2Proof/Machine/Link.lean ====
section
/-! DEFINITION. Downlink MSDUs, node states and messages (11 R277-R294, 10 R261-R269, 12 R308-R323): how an MSDU is made,
held, ended and flushed, and how a node handle changes state. -/

namespace Sys2Proof.Machine

/-! ### Clave tags and trace records (20 R468-R470) -/

/-- One step of the tagger's register. -/
def claveStep (x : Nat × Nat) : Nat × Nat :=
  let b := (bits x.1 30 30 + bits x.1 27 27) % 2
  ((x.1 * 2 + b) % 2 ^ 31, x.2 * 2 + b)

/-- Judge a candidate of group `g` for the clave tag: the identifier it receives, if any. -/
def Dev.clave (d : Dev) (g : Nat) : Option Nat × Dev :=
  if d.flag Reg.cntClv 4 && decide (d.fld Reg.cntStat 12 8 ≠ g) then (none, d)
  else
    let x := iter 16 (fun _ x => claveStep x) (d.cnts.lfsr, 0)
    let d := { d with cnts := { d.cnts with lfsr := x.1 } }
    if x.2 < d.fld Reg.cntClv 31 16 then
      (some d.cnts.clid, { d with cnts := { d.cnts with clid := (d.cnts.clid + 1) % 2 ^ 32 } })
    else (none, d)

/-- What a trace record tells beside stage, status and identifier (20 Table CT.6). -/
structure TraceInfo where
  nh     : Nat
  grp    : Nat
  lane   : Nat
  seq    : Nat
  pbn    : Nat
  form   : Nat
  try_   : Nat
  bitmap : Nat
  level  : Int

/-- Nothing but node and group. -/
def TraceInfo.of (nh grp : Nat) : TraceInfo :=
  { nh := nh, grp := grp, lane := 255, seq := 0, pbn := 0, form := 0, try_ := 0, bitmap := 0, level := 0 }

/-- Position of a stage in Table CT.5. -/
def stageIx (stage : Nat) : Nat := if stage < 16 then stage - 1 else stage - 10

/-- A stage that handles a tagged frame writes a record into queue 10 (20 R470). -/
def Dev.trace (d : Dev) (clid : Option Nat) (stage st mpt : Nat) (i : TraceInfo) : Dev :=
  match clid with
  | none => d
  | some c =>
    if d.flag Reg.cntClv (5 + stageIx stage) then
      d.push 10 (fit 64 (leBytes 6 mpt ++ leBytes 1 stage ++ leBytes 1 st ++ leBytes 4 c ++ leBytes 2 i.nh ++
        leBytes 1 i.grp ++ leBytes 1 i.lane ++ leBytes 2 i.seq ++ leBytes 1 (i.pbn % 32 + 32 * i.form) ++ leBytes 1 i.try_ ++
        leBytes 4 i.bitmap ++ leBytes 2 (unsigned 16 i.level)))
    else d

/-! ### Nodes and policy -/

/-- The policy record of an EUI-64 (16 R399). -/
def Dev.policyOf (d : Dev) (eui : BitVec 64) : Option Policy := d.policy.find? (fun p => decide (p.eui = eui))
/-- Whether the node's policy demands protection. -/
def Dev.encReq (d : Dev) (nh : Nat) : Bool :=
  match d.policyOf (d.node nh).eui with | some p => p.encReq | none => false
/-- Whether the node's policy allows MIMO. -/
def Dev.mimoOk (d : Dev) (nh : Nat) : Bool :=
  match d.policyOf (d.node nh).eui with | some p => p.mimoOk | none => false

/-- Whether a node counts as admitted (01 Table OR.7). -/
def NodeState.isAdmitted : NodeState → Bool
  | .admitted | .active | .dormant | .lost => true
  | _ => false
/-- Whether MSDUs to the node are taken (15 Table HR.8, 11 R300). -/
def NodeState.reachable : NodeState → Bool
  | .admitted | .active | .dormant => true
  | _ => false

/-- The admitted node of group `g` with short address `a`. -/
def Dev.bySaddr (d : Dev) (g a : Nat) : Option Nat :=
  (d.nodes.find? (fun e => decide (e.2.grp = g ∧ e.2.saddr = a) && e.2.st.isAdmitted)).map (fun e => e.1)

/-- The handle that an EUI-64 holds, other than UNKNOWN. -/
def Dev.byEui (d : Dev) (eui : BitVec 64) : List Nat :=
  (d.nodes.filter (fun e => decide (e.2.eui = eui ∧ e.2.st ≠ .unknown))).map (fun e => e.1)

/-- The relays between the device and a node, the one nearest the node last (11 R295), at most seven. -/
def Dev.relays (d : Dev) (g : Nat) : Nat → Nat → List Nat
  | 0, _ => []
  | fuel + 1, parent =>
    if parent = 0 then []
    else match d.bySaddr g parent with
      | none => []
      | some r => d.relays g fuel (d.node r).parent ++ [r]

/-- The count of beacon periods against `MSDU_LIFE` changes its kind with DORMANT, in which only those with a poll window of the
node count (12 R317). -/
def Msdu.lifeTurn (m : Msdu) (bpi : Nat) (old new : NodeState) : Msdu :=
  if old = .dormant then (if new = .dormant then m else { m with lifeBp := bpi })
  else if new = .dormant ∧ m.sentOnce then { m with life := m.life + bpSince m.lifeBp bpi, lifeBp := bpi }
  else m

/-- A node handle enters a state: event NODE_STATE, and the beacon period of the change (16 R407). -/
def Dev.nodeState (d : Dev) (nh : Nat) (st : NodeState) (reason : Nat) : Dev :=
  let old := (d.node nh).st
  let d := d.modNode nh (fun n => { n with st := st, stBp := d.msync.bpi,
                                           cur := n.cur.map (fun m => m.lifeTurn d.msync.bpi old st) })
  d.event 0x0302 stOk nh (leBytes 1 st.code ++ leBytes 1 old.code ++ leBytes 1 reason)

/-- Advance one of a node's eight counts (11 Table LR.6). -/
def Dev.nodeCount (d : Dev) (nh i n : Nat) : Dev :=
  d.modNode nh (fun x => { x with counts := modAt x.counts i (fun c => (c + n) % 2 ^ 32) })

/-- A discard of this beacon period is noted for LINK_DISCARD (16 R407). -/
def Dev.noteDiscard (d : Dev) (nh st : Nat) : Dev :=
  d.modNode nh (fun n =>
    if n.disc.any (fun x => decide (x.st = st ∧ x.bp = d.msync.bpi)) then
      { n with disc := n.disc.map (fun x => if x.st = st ∧ x.bp = d.msync.bpi then { x with count := x.count + 1 } else x) }
    else { n with disc := n.disc ++ [({ st := st, count := 1, mpt := d.mpt, bp := d.msync.bpi } : Discard)] })

/-! ### Protection (11 R293) -/

/-- The 96-bit IV: FC, DIR, KEY_ID, four zero bytes. -/
def gcmIv (fc : Nat) (up : Bool) (key : Nat) : List Byte :=
  leBytes 6 fc ++ leBytes 1 (b2n up) ++ leBytes 1 key ++ [0, 0, 0, 0]
/-- The security header: FC, KEY_ID, reserved. -/
def secHeader (fc key : Nat) : List Byte := leBytes 6 fc ++ leBytes 1 key ++ [0]
/-- The additional data: body bytes 0-3, the security header, ORIG and FINAL. -/
def gcmAad (len ftag : Nat) (sec : List Byte) (orig final : Nat) : List Byte :=
  leBytes 2 len ++ leBytes 1 ftag ++ [0] ++ sec ++ leBytes 2 orig ++ leBytes 2 final
/-- The key in slot `k` of a node. -/
def Node.keyOf (n : Node) (k : Nat) : Option (List Byte) := if k = 0 then n.key0 else n.key1

/-- A key slot without its key. -/
def Node.noKey (n : Node) (k : Nat) : Node := if k = 0 then { n with key0 := none } else { n with key1 := none }

/-- Key memory reports an uncorrectable error in a slot as it is read: the slot is zeroised and its valid bit cleared (19 R456, 21 Table
MR.4). -/
def Dev.loseKey (d : Dev) (nh k : Nat) : Dev :=
  if ((d.node nh).keyOf k).isNone then d
  else ((d.modNode nh (fun n => n.noKey k)).raise .sec 2).faultEvent 0x06 nh (d.node nh).grp 0

/-! ### MSDUs -/

/-- A downlink MSDU before its first transmission. -/
def newMsdu (id : Nat) (o : Origin) (mgmt : Bool) (nh grp : Nat) (bcast : Bool) (ftag : Nat) (enc prot : Bool)
    (data : List Byte) (pools : List Pool) (clid : Option Nat) : Msdu :=
  let n := bodyPbs prot data.length
  { id := id, origin := o, mgmt := mgmt, nh := nh, grp := grp, bcast := bcast, ftag := ftag, enc := enc, data := data,
    body := [], prot := prot, seq := 0, base := 0, sentOnce := false, n := n,
    blocks := (pools.zip (List.range pools.length)).map (fun x => ({ idx := x.2, pool := x.1 } : Block)), tries := 0, life := 0,
    lifeBp := 0, sent := [], spanEnd := none, ending := none, heldBp := none, clid := clid, faulty := [] }

/-- One message: header and padded body (10 R261). -/
def mgmtMsg (code : Nat) (body : List Byte) : List Byte :=
  leBytes 1 code ++ [0] ++ leBytes 2 body.length ++ body ++ List.replicate ((4 - body.length % 4) % 4) 0

/-- The device's own message to a node joins its queue, or is held while the node is DORMANT (12 R308); protected where policy demands it (11 R293). Its cells are taken
from the device reserve at its first transmission (17 R416, log 15). -/
def Dev.sendOwn (d : Dev) (nh code tag : Nat) (cmd : Option Nat) (body : List Byte) : Dev :=
  let m := newMsdu d.nextId (.own code tag cmd) true nh (d.node nh).grp false 0 false (d.encReq nh) (mgmtMsg code body) []
    none
  let d := { d with nextId := d.nextId + 1 }
  if (d.node nh).st = .dormant then
    d.modNode nh (fun n => { n with heldq := n.heldq ++ [{ m with heldBp := some d.msync.bpi }] })
  else d.modNode nh (fun n => { n with txq := n.txq ++ [m] })

/-- The device's own broadcast message of a group. -/
def Dev.sendOwnBcast (d : Dev) (g code tag : Nat) (body : List Byte) : Dev :=
  let m := newMsdu d.nextId (.own code tag none) true 0 g true 0 false false (mgmtMsg code body) [] none
  { d.modGroup g (fun x => { x with bq := x.bq ++ [m] }) with nextId := d.nextId + 1 }

/-- The queue of Table QC.2 that an MSDU stands in; none for the device's own, which has no cells before its first transmission
(log 15). -/
def Msdu.queue (m : Msdu) : Option Nat :=
  match m.origin with
  | .own .. => none
  | .host .. => some (if m.heldBp.isSome then 80 + m.grp else 16 + m.grp)
  | .fwd .. => some (if m.heldBp.isSome then 80 + m.grp else 112)

/-- An item enters a HOLDING queue. -/
def Dev.produced (d : Dev) (q : Option Nat) : Dev :=
  match q with | none => d | some q => d.modAcct q (fun a => { a with produced := a.produced + 1 })
/-- An item leaves a HOLDING queue, flushed or consumed. -/
def Dev.consumed (d : Dev) (q : Option Nat) (flushed : Bool) : Dev :=
  match q with
  | none => d
  | some q =>
    if flushed then (d.modAcct q (fun a => { a with flushed := a.flushed + 1 })).count 39 7 4 none 1
    else d.modAcct q (fun a => { a with consumed := a.consumed + 1 })

/-- The end of an MSDU that has already left its queue: its cells return, its sequence number is accounted for, and its
origin learns the status: a completion for a host chain, the third case of R300 for a forward. What a message of the
device's own leads to is `Dev.ownDone`. `report` is false where an FLR takes the completion away (21 R485). -/
def Dev.endMsdu (d : Dev) (m : Msdu) (st : Nat) (report : Bool) : Dev :=
  let d := d.freePools m.grp (m.blocks.map (fun b => b.pool))
  let d := d.consumed m.queue (decide (st = stFlushed))
  let d := if m.sentOnce ∧ !m.bcast then d.modGroup m.grp (fun g => { g with seqDone := g.seqDone + 1 }) else d
  let d := if st = stNoAck ∧ !m.bcast then d.nodeCount m.nh 6 1 else d
  let d := match m.origin with
    | .host ring idx cookie =>
      if report then
        d.complete ring (completionBytes cookie.toNat idx.toNat st 1
          (leBytes 2 (if m.bcast ∨ !m.sentOnce then 0 else m.seq) ++ leBytes 2 (m.tries % 32) ++
            leBytes 2 (if m.bcast then 0 else m.nh) ++ [0, 0]))
      else d.flushItem ring
    | .fwd ingress grp seq =>
      if st = stNoAck then
        (d.raise (.lr grp) 6).event 0x0305 stNoAck ingress (leBytes 2 m.nh ++ leBytes 2 seq)
      else d
    | .own .. => d
  let d := d.trace m.clid 0x14 st d.mpt { TraceInfo.of m.nh m.grp with seq := m.seq, try_ := m.tries }
  d.markGroup m.grp

/-- The set index and the serial that a MAP_UPDATE's tag names: tag = ((serial × 16 + part) × 32,768 + set index) × 2, with 1 added where
the message carries a set's current entries (09 R236). -/
def updateTag (tag : Nat) : Nat × Nat := (tag / 2 % 32768, tag / 1048576)

/-- The boundary of a set's update is fixed, unless it is: `UPD_LEAD` beacon periods on (09 R231). -/
def Dev.fixBoundary (d : Dev) (i : Nat) : Dev :=
  d.modMapSet i (fun s =>
    if s.sent then s else { s with sent := true, effBp := (d.msync.bpi + d.fld Reg.marUpd 3 0) % 2 ^ 23 })

/-- Whether a MAP_UPDATE's tag names the update that its set stands at. -/
def Dev.updateCurrent (d : Dev) (tag : Nat) : Bool :=
  let s := d.mapSet (updateTag tag).1
  decide (tag % 2 = 0 ∧ s.upd = .built ∧ s.serial = (updateTag tag).2)

/-- An update that ends before any part of it has gone out counts as sent then (log 19). -/
def Dev.updateUnsent (d : Dev) (m : Msdu) : Dev :=
  match m.origin with
  | .own 0x06 tag _ => if d.updateCurrent tag then d.fixBoundary (updateTag tag).1 else d
  | _ => d

/-- A message of the device's own is flushed: its command, where it serves one, completes with ST_FLUSHED. -/
def Dev.ownFlushed (d : Dev) (m : Msdu) : Dev :=
  match m.origin with
  | .own 0x06 _ _ => d.updateUnsent m
  | .own 0x0D _ cmd =>
    let d := { d with routes := d.routes.filter (fun r => decide (some r.cmd ≠ cmd)) }
    d.finishOpt cmd stFlushed
  | .own _ _ cmd => d.finishOpt cmd stFlushed
  | _ => d

/-- An MSDU that has left its queue is flushed. -/
def Dev.flushMsdu (d : Dev) (m : Msdu) : Dev := (d.endMsdu m stFlushed true).ownFlushed m

/-- Return the cells of a reassembly and drop it. -/
def Dev.dropReasm (d : Dev) (nh : Nat) : Dev :=
  let n := d.node nh
  match n.reasm with
  | none => d
  | some r =>
    let d := d.freePools n.grp (r.parts.map (fun p => p.2.2))
    (d.modNode nh (fun n => { n with reasm := none })).markGroup n.grp

/-- Every queued, unacknowledged and held MSDU of a node is flushed. -/
def Dev.flushNode (d : Dev) (nh : Nat) : Dev :=
  let n := d.node nh
  let ms := n.live ++ n.heldq
  let d := d.modNode nh (fun n => { n with txq := [], cur := none, heldq := [] })
  ms.foldl (fun d m => d.flushMsdu m) d

/-- The tone-map sets of a node are emptied: keys, STALE marks, versions (09 Table TM.5 last row). -/
def Dev.emptySets (d : Dev) (nh : Nat) : Dev :=
  { d with keys := d.keys.filter (fun e => decide (e.1 / 32 ≠ nh)), sets := d.sets.filter (fun e => decide (e.1 / 2 ≠ nh)) }

/-- The sounding sessions of a node end without a result, and their commands are flushed. -/
def Dev.dropSessions (d : Dev) (nh : Nat) : Dev :=
  let ss := d.sess.filter (fun s => decide (s.nh = nh))
  let ids := ss.map (fun s => s.id)
  let d := { d with sess := d.sess.filter (fun s => decide (s.nh ≠ nh)), sndId := SMap.set (fun _ => 0) nh 0 d.sndId,
                    mnt := { d.mnt with reqs := d.mnt.reqs.filter (fun r => match r.sess with
                                                                       | some i => !ids.contains i | none => true),
                                        runs := d.mnt.runs.filter (fun r => match r.req.sess with
                                                                       | some i => !ids.contains i | none => true) } }
  ss.foldl (fun d s => s.cmds.foldl (fun d c => d.finishSt c stFlushed) d) d

/-- A node handle enters EVICTED (10 R269, 19 R456). -/
def Dev.evict (d : Dev) (nh reason : Nat) : Dev :=
  let n := d.node nh
  let g := n.grp
  let d := d.nodeState nh .evicted reason
  let d := d.raise .gong 6
  let d := d.modGroup g (fun x => { x with
    addrRel := (n.saddr, d.msync.bpi) :: x.addrRel.filter (fun e => decide (e.1 ≠ n.saddr)),
    addrMemo := (n.eui, n.saddr) :: x.addrMemo.filter (fun e => decide (e.1 ≠ n.eui)) })
  let d := d.modNode nh (fun n => { n with saddr := 0, key0 := none, key1 := none, dorm := none, askBp := none,
                                           regrant := false, evictDue := decide (reason ≠ 5) })
  let d := (d.dropReasm nh).flushNode nh
  let d := (d.emptySets nh).dropSessions nh
  if reason ≠ 5 then
    d.sendOwnBcast g 0x08 nh (leBytes 8 n.eui.toNat ++ leBytes 1 reason ++ [0, 0, 0])
  else d

/-! ### Dormant nodes (12 R308, R310, R320-R323) -/

/-- `GMAX`. -/
def Dev.gmax (d : Dev) (g : Nat) : Nat := d.fld (Reg.dnGuard g) 28 16

/-- G_k before it is limited to `GMAX`: the guard for the BPs from the last accepted frame to the poll, doubled for each miss. -/
def Dev.guardRaw (d : Dev) (n : Node) (x : Dorm) : Nat :=
  (d.fld (Reg.dnGuard n.grp) 7 0 + bpSince n.heardBp x.next * x.slope / 256) * 2 ^ x.k

/-- The guard of a DORMANT node's next poll has been fixed by its reckoning: one limited to `GMAX` shows (12 R310, R320). -/
def Dev.noteClip (d : Dev) (nh : Nat) : Dev :=
  let n := d.node nh
  match n.dorm with
  | some x => if d.gmax n.grp < d.guardRaw n x then d.raise (.dn n.grp) 28 else d
  | none => d

/-- Cells held for the DORMANT nodes of a group. -/
def Dev.heldCells (d : Dev) (g : Nat) : Nat := msduCells (fun _ => true) (d.heldOf g)

/-- Whether one more MSDU of `n` cells may be held for a node (12 R323). -/
def Dev.mayHold (d : Dev) (nh n : Nat) : Bool :=
  let x := d.node nh
  decide (x.heldq.length + 1 ≤ d.fld (Reg.dnHeld x.grp) 6 0) &&
    decide (d.heldCells x.grp + n ≤ d.fld (Reg.dnHeld x.grp) 27 16)

/-- An MSDU becomes held for its node. -/
def Dev.hold (d : Dev) (m : Msdu) : Dev :=
  let m' := { m with heldBp := some d.msync.bpi }
  let d := (d.consumed m.queue false).produced m'.queue
  (d.modNode m.nh (fun n => { n with heldq := n.heldq ++ [m'] })).markGroup m.grp

/-- On entry to DORMANT every MSDU not yet transmitted becomes held, within the limits of R323 for host MSDUs. -/
def Dev.holdQueued (d : Dev) (nh : Nat) : Dev :=
  let q := (d.node nh).txq
  let d := d.modNode nh (fun n => { n with txq := [] })
  q.foldl (fun d m =>
    if m.isHost && !d.mayHold nh m.blocks.length then
      (d.raise (.dn m.grp) 31).endMsdu m stHeldFull true
    else d.hold m) d

/-- Held MSDUs are queued again in held order (12 Table DN.4). -/
def Dev.unhold (d : Dev) (nh : Nat) : Dev :=
  let n := d.node nh
  let d := (n.cur.toList ++ n.heldq).foldl (fun d m =>
    if m.heldBp.isNone then d else (d.consumed m.queue false).produced ({ m with heldBp := none } : Msdu).queue) d
  let free := fun (m : Msdu) => { m with heldBp := none }
  (d.modNode nh (fun n => { n with txq := n.heldq.map free ++ n.txq, heldq := [], cur := n.cur.map free })).markGroup n.grp

/-- A DORMANT node returns to ACTIVE. -/
def Dev.wake (d : Dev) (nh : Nat) : Dev :=
  (d.unhold nh).nodeState nh .active 0xFF

/-! ### What the device's own messages lead to -/

/-- A message of the device's own has ended with ST_OK, ST_NO_ACK or ST_AUTH (which a procedure takes as ST_NO_ACK,
11 R293): the procedure that sent it goes on. -/
def Dev.ownDone (d : Dev) (m : Msdu) (st : Nat) : Dev :=
  match m.origin with
  | .own 0x06 tag _ =>
    -- MAP_UPDATE; the serial of a set's current entries counts their sends
    let i := (updateTag tag).1
    let part := (tag / 65536) % 16
    let serial := (updateTag tag).2
    if tag % 2 = 0 ∧ st = stOk then
      d.modMapSet i (fun s =>
        if s.serial = serial ∧ s.upd = .built then
          let acked := if s.acked.contains part then s.acked else part :: s.acked
          if acked.length = s.nparts ∧ 2 < bpSince d.msync.bpi s.effBp ∧ bpSince d.msync.bpi s.effBp < 2 ^ 22 then
            { s with acked := acked, upd := .scheduled }
          else { s with acked := acked }
        else s)
    else if tag % 2 = 1 ∧ st ≠ stOk ∧ serial < d.fld Reg.marUpd 11 8 ∧ (d.node m.nh).st.isAdmitted then
      -- the set's current entries are sent again as they were
      let body := m.data.drop 4
      d.sendOwn m.nh 0x06 (tag + 1048576) none body
    else d.updateUnsent m
  | .own 0x08 nh _ => d.modNode nh (fun n => { n with evictDue := false })
  | .own 0x0A tag cmd =>
    -- DORM_GRANT: tag 0 granted, 1 refused
    if tag = 0 then
      if st = stOk ∧ (d.node m.nh).st = .active then
        let d := ((d.nodeState m.nh .dormant 0xFF).holdQueued m.nh).noteClip m.nh
        d.finishOpt cmd stOk
      else
        let d := d.modNode m.nh (fun n => if n.st = .dormant then n else { n with dorm := none })
        d.finishOpt cmd stNoAck
    else d.finishOpt cmd st
  | .own 0x0B _ cmd =>
    if st = stOk then
      let d := if (d.node m.nh).st = .dormant then d.wake m.nh else d
      d.finishOpt cmd stOk
    else d.finishOpt cmd stNoAck
  | .own 0x0C _ cmd =>
    -- PHASE_CMD: the command completes by R360, judged on the T_BP last sent
    match cmd with
    | none => d
    | some id =>
      let tbp := leAt m.data 6 2
      let ahead := (tbp + 65536 - d.msync.bpi % 65536) % 65536
      let pcid := leBytes 2 (leAt m.data 4 2)
      if st ≠ stOk then d.finish id stNoAck pcid
      else if 0 < ahead ∧ ahead < 32768 then d.finish id stOk pcid
      else d.finish id stLate pcid
  | .own 0x0D _ cmd =>
    match cmd with
    | none => d
    | some id =>
      match d.routes.find? (fun r => decide (r.cmd = id)) with
      | none => d
      | some r =>
        let others := d.routes.filter (fun x => decide (x.cmd ≠ id))
        if st ≠ stOk then ({ d with routes := others }).finishSt id stNoAck
        else if r.left ≤ 1 then
          let d := { d with routes := others }
          let g := (d.node r.nh).grp
          let d := d.modNode r.nh (fun n => { n with parent := r.parent, depth := (d.relays g 7 r.parent).length })
          d.finishSt id stOk
        else { d with routes := { r with left := r.left - 1 } :: others }
  | .own _ _ cmd => d.finishOpt cmd (if st = stOk then stOk else stNoAck)
  | _ => d

/-- An MSDU that has left its queue ends with a status. -/
def Dev.finishMsdu (d : Dev) (m : Msdu) (st : Nat) : Dev := (d.endMsdu m st true).ownDone m st

end Sys2Proof.Machine
end

