-- ==== Sys2Proof/Machine/Maint.lean ====
section
/-! DEFINITION. The maintenance arbiter (21 R473-R480): requests per port, conflicts, merging, grants and their ends. -/

namespace Sys2Proof.Machine

/-! ### Ports in service (03 R73-R80, 21 R476, 22 R504) -/

/-- Whether the port counts as in service for the group's state (01 Table OR.6): enabled, with a role, calibrated and
trained, without a fault. A running calibration does not count (21 R476). -/
def Dev.counts (d : Dev) (p : Nat) : Bool :=
  let x := d.port p
  d.portEn p && decide (d.role p ≠ 7) && x.calOk && x.trainOk && !x.ocFault && !x.thFault && !x.ocBarred &&
    !bit d.pwr.qdown (portQuad p)

/-- `IN_SERVICE`. -/
def Dev.inService (d : Dev) (p : Nat) : Bool := d.counts p && !(d.port p).calib
/-- Whether the port holds an L role. -/
def Dev.isL (d : Dev) (p : Nat) : Bool := decide (d.role p < 3)
/-- The in-service L ports of a group. -/
def Dev.lPorts (d : Dev) (g : Nat) : List Nat := (groupPorts g).filter (fun p => d.isL p && d.inService p)
/-- The in-service N port of a group, if any. -/
def Dev.nPorts (d : Dev) (g : Nat) : List Nat := (groupPorts g).filter (fun p => decide (d.role p = 3) && d.inService p)
/-- The in-service slots of a group as a mask. -/
def Dev.serviceMask (d : Dev) (g : Nat) : Nat :=
  (List.range 4).foldl (fun m s => if d.inService (4 * g + s) then m + 2 ^ s else m) 0

/-! ### Requests -/

/-- Requests that wait on a port. -/
def Dev.reqsAt (d : Dev) (p : Nat) : List MntReq := d.mnt.reqs.filter (fun r => r.ports.contains p)
/-- The activity that runs on a port. -/
def Dev.runsAt (d : Dev) (p : Nat) : Option MntRun := d.mnt.runs.find? (fun r => r.req.ports.contains p)
/-- `RUN_KIND` of a port. -/
def Dev.runKind (d : Dev) (p : Nat) : Nat := match d.runsAt p with | some r => r.req.kind | none => 0
/-- The running activity of one kind on a port. -/
def Dev.runOf (d : Dev) (kind p : Nat) : Option MntRun :=
  d.mnt.runs.find? (fun r => decide (r.req.kind = kind) && r.req.ports.contains p)
/-- Whether a request of one kind waits on a port. -/
def Dev.waits (d : Dev) (kind p : Nat) : Bool := (d.reqsAt p).any (fun r => decide (r.kind = kind))

/-- Whether two requests share a port. -/
def sharePort (a b : MntReq) : Bool := a.ports.any (fun p => b.ports.contains p)
/-- Whether two requests use a port of one group. -/
def shareGroup (a b : MntReq) : Bool := a.ports.any (fun p => b.ports.any (fun q => decide (portGroup p = portGroup q)))

/-- Table MR.2 among kinds 0x01 to 0x03. -/
def mntConflict (a b : MntReq) : Bool :=
  match a.kind, b.kind with
  | 1, 2 | 2, 1 | 1, 3 | 3, 1 => sharePort a b
  | 2, 2 | 2, 3 | 3, 2 => shareGroup a b
  | _, _ => false

/-- Append a request with the next stamp. -/
def Dev.enqueueMnt (d : Dev) (kind : Nat) (ports : List Nat) (cmd sess : Option Nat) : Dev :=
  { d with mnt := { d.mnt with
      reqs := d.mnt.reqs ++ [({ kind := kind, ports := ports, stamp := d.mnt.stamp, cmd := cmd, accept := d.clk,
                                found := (ports.map d.runKind).foldl (fun a k => if a = 0 then k else a) 0,
                                sess := sess } : MntReq)]
      stamp := d.mnt.stamp + 1 } }

/-- The stamp of the newest sounding that waits on a port. -/
def Dev.newestSounding (d : Dev) (p : Nat) : Option Nat :=
  ((d.reqsAt p).filter (fun r => decide (r.kind = 3))).foldl (fun _ r => some r.stamp) none

/-- A request of kind 0x01 or 0x02 for a port, from a command or from the device itself: merged, queued, refused for room,
or queued in place of the newest waiting sounding (21 R477). -/
def Dev.askMnt (d : Dev) (kind p : Nat) (cmd : Option Nat) : Dev :=
  if (d.runOf kind p).isSome || d.waits kind p then
    match cmd with
    | none => d
    | some id =>
      let found := if (d.runOf kind p).isSome then 0 else d.runKind p
      { d with mnt := { d.mnt with merges := d.mnt.merges ++
          [({ kind := kind, port := p, cmd := id, accept := d.clk, found := found, start := false } : MntMerge)] } }
  else if (d.reqsAt p).length < 4 then d.enqueueMnt kind [p] cmd none
  else
    match cmd with
    | some id => d.finishSt id stNoRoom
    | none =>
      let d := match d.newestSounding p with
        | none => d
        | some s => { d with mnt := { d.mnt with reqs := d.mnt.reqs.filter (fun r => decide (r.stamp ≠ s)) } }
      d.enqueueMnt kind [p] none none

/-- Whether every queue that a sounding would join has room (21 R477). -/
def Dev.roomFor (d : Dev) (ports : List Nat) : Bool := ports.all (fun p => decide ((d.reqsAt p).length < 4))

/-- Whether a waiting request may be granted (21 R473, R475). -/
def Dev.grantable (d : Dev) (r : MntReq) : Bool :=
  !d.mnt.runs.any (fun x => mntConflict r x.req) &&
    !d.mnt.reqs.any (fun x => decide (x.stamp < r.stamp) && sharePort x r) &&
    r.ports.all (fun p => decide ((d.group (portGroup p)).st ≠ .calibrating) && (decide (r.kind = 1) || d.inService p))

/-- The commands that a request serves, with acceptance and `Q2`: its own and those merged with it. -/
def Dev.mntCmds (d : Dev) (r : MntReq) : List (Nat × Nat × Nat) :=
  (match r.cmd with | some id => [(id, r.accept, r.found)] | none => []) ++
    ((d.mnt.merges.filter (fun m => decide (m.kind = r.kind) && r.ports.contains m.port && !m.start)).map
      (fun m => (m.cmd, m.accept, m.found)))

/-- The merges of a request end with it. -/
def Dev.dropMerges (d : Dev) (r : MntReq) : Dev :=
  { d with mnt := { d.mnt with
      merges := d.mnt.merges.filter (fun m => !(decide (m.kind = r.kind) && r.ports.contains m.port && !m.start)) } }

/-- A command joins a training of its group's start (04 Table FD.7). -/
def Dev.joinStart (d : Dev) (p id : Nat) : Dev :=
  { d with mnt := { d.mnt with merges := d.mnt.merges ++
      [({ kind := 2, port := p, cmd := id, accept := d.clk, found := 0, start := true } : MntMerge)] } }

/-- The commands that joined the training of a start end with it, given how. -/
def Dev.endJoined (d : Dev) (ps : List Nat) (fin : Dev → Nat → Dev) : Dev :=
  let hit := fun (m : MntMerge) => m.start && ps.contains m.port
  let cs := (d.mnt.merges.filter hit).map (fun m => m.cmd)
  cs.foldl fin { d with mnt := { d.mnt with merges := d.mnt.merges.filter (fun m => !hit m) } }

/-- Effect of MAINT_GRANT: the grantable request with the earliest stamp is handed to the Gong, which runs it in the first
beacon period not yet frozen (21 R475, R478, 10 R256). -/
def maintGrantEffect (d : Dev) : Dev :=
  if d.dev ≠ .run then d
  else
    match d.mnt.reqs.find? (fun r => d.grantable r) with
    | none => d
    | some r =>
      let waited := (d.mntCmds r).filter (fun c => decide (c.2.1 < d.clk))
      let d := { d with mnt := { d.mnt with
          reqs := d.mnt.reqs.filter (fun x => decide (x.stamp ≠ r.stamp))
          runs := d.mnt.runs ++ [({ req := r, grant := d.clk, placed := some ((d.msync.bpi + 4) % 2 ^ 23) } : MntRun)] } }
      waited.foldl (fun d _ => d.raise .mnt 2) d

/-- MAINT_GRANT. -/
def execMaintGrant (s : State) : Host.Outcome State Fault Refusal := run maintGrantEffect s

/-- An activity ends: its commands complete, with the wait in units of 64 us and what they found (21 R478); those that joined a start's
training have not waited. -/
def Dev.endMnt (d : Dev) (kind p q0 q3 q4 : Nat) : Dev :=
  let d := if kind = 2 then d.endJoined [p] (fun d id => d.finish id stOk (quints q0 0 0 q3 q4)) else d
  match d.runOf kind p with
  | none => d
  | some r =>
    let cs := d.mntCmds r.req
    let d := { d with mnt := { d.mnt with runs := d.mnt.runs.filter (fun x => decide (x.req.stamp ≠ r.req.stamp)) } }
    let d := d.dropMerges r.req
    cs.foldl (fun d c =>
      let wait := r.grant - c.2.1
      d.finish c.1 (if wait = 0 then stOk else stMaintDeferred) (quints q0 (min 0xFFFF (wait / 16000)) c.2.2 q3 q4)) d

/-- A granted activity goes back to the head of its queues with its stamp (21 R480). -/
def Dev.requeueMnt (d : Dev) (kind p : Nat) : Dev :=
  match d.runOf kind p with
  | none => d
  | some r => { d with mnt := { d.mnt with
      runs := d.mnt.runs.filter (fun x => decide (x.req.stamp ≠ r.req.stamp)), reqs := r.req :: d.mnt.reqs } }

/-- Waiting and running requests for any of the ports end, their commands with ST_FLUSHED (21 R480). -/
def Dev.flushMnt (d : Dev) (ports : List Nat) : Dev :=
  let hit := fun (r : MntReq) => r.ports.any (fun p => ports.contains p)
  let gone := (d.mnt.runs.map (fun r => r.req)).filter hit ++ d.mnt.reqs.filter hit
  let ids := gone.flatMap (fun r => (d.mntCmds r).map (fun c => c.1))
  let d := { d with mnt := { d.mnt with reqs := d.mnt.reqs.filter (fun r => !hit r),
                                        runs := d.mnt.runs.filter (fun r => !hit r.req) } }
  let d := gone.foldl (fun d r => d.dropMerges r) d
  ids.foldl (fun d id => d.finishSt id stFlushed) (d.endJoined ports (fun d id => d.finishSt id stFlushed))

end Sys2Proof.Machine
end

