-- ==== Sys2Proof/Machine/Tick.lean ====
section
/-! DEFINITION. The passing of time: one cycle of CK_MPT, 4 ns, in which the timebase advances (02 R38, R50), and with it
what the spec ties to a clock alone (log 1). -/

namespace Sys2Proof.Machine

/-- Whether MPT runs: from entry to CONFIG on (02 R38). -/
def DevState.clocked : DevState → Bool
  | .config | .run | .safe => true
  | _ => false

/-- One CK_MPT cycle of the timebase: MPT advances by the frequency word, and by its share of a correction being spread
(02 R38, R43); five CK_CONV samples pass (02 R50). -/
def Timebase.tick (t : Timebase) : Timebase :=
  let c := if t.corrLeft = 0 then 0 else if absI t.corrLeft ≤ absI t.corrRate then t.corrLeft else t.corrRate
  { t with acc := BitVec.ofInt 72 ((t.acc.toNat : Int) + (t.freq.toNat : Int) + c), corrLeft := t.corrLeft - c,
           n := if t.running then (t.n + 5) % 2 ^ 64 else t.n }

/-- One CK_MPT cycle of a shaping fade: five converter samples (06 R159). -/
def Fade.tick (f : Fade) : Fade := { f with i := min f.len (f.i + 5) }

/-! ### Occupancy (06 R154, R155) -/

/-- Whether group `g`'s band `b` is enabled and the mask leaves one of its carriers in the profile open. -/
def Dev.bandOpen (d : Dev) (g b : Nat) : Bool :=
  d.flag (Reg.occBand g b) 31 &&
    (openCarriers (d.profile g) (d.maskOf g)).any (fun k =>
      decide (d.fld (Reg.occBand g b) 13 0 ≤ k ∧ k ≤ d.fld (Reg.occBand g b) 27 14))

/-- Whether an occupied sample `n` belongs to the run before it: no gap of `gapMin` samples or longer lies between. -/
def Occ.continues (o : Occ) (gapMin n : Nat) : Bool :=
  match o.last with | none => false | some l => decide (n - (l + 1) = 0 ∨ n - (l + 1) < gapMin)

/-- One converter sample of a band's bucket, in 1/1,024 sample: refilled up to the capacity; an occupied sample takes one. -/
def Occ.sample (frac cap gapMin n : Nat) (busy : Bool) (o : Occ) : Occ :=
  let level := min cap (o.level + frac)
  if busy then
    { level := level - 1024, runStart := if o.continues gapMin n then o.runStart else some n, last := some n }
  else { o with level := level }

/-- Capacity of a band's bucket in 1/1,024 sample: `OCC_CAP` ms at 1.25 GS/s. -/
def Dev.occCap (d : Dev) (g b : Nat) : Nat := d.fld (Reg.occRate g b) 31 24 * 1250000 * 1024

/-- `GAP_MIN` in samples. -/
def Dev.gapMin (d : Dev) (g b : Nat) : Nat := d.fld (Reg.occLim g b) 15 0 * 1250

/-- Five samples of every band's bucket on a port. -/
def Dev.tickOcc (d : Dev) (p : Nat) (l : List (Nat × Occ)) : List (Nat × Occ) :=
  let g := portGroup p
  l.map (fun (e : Nat × Occ) => (e.1, iter 5 (fun i o =>
    o.sample (d.fld (Reg.occRate g e.1) 10 0) (d.occCap g e.1) (d.gapMin g e.1) (d.tb.n + i)
      (d.emits p (d.tb.n + i) && d.bandOpen g e.1)) e.2))

/-! ### Frames in progress (07 R186, 04 R97) -/

/-- Whether a frame is in progress on a decode lane (07 R186). -/
def Acq.busy : Acq → Bool
  | .timing | .sync | .fc | .window | .payload => true
  | _ => false

/-- Whether a frame's last payload symbol has ended; in the very sample of its end the capture window still stands (07 Table FF.7). -/
def Dev.frameOver (d : Dev) (x : DecLane) : Bool := match x.frame with | some f => decide (f.lastSym < d.tb.n) | none => false

/-- Whether a frame is in progress on a lane. -/
def Dev.receiving (d : Dev) (x : DecLane) : Bool := x.acq.busy && !d.frameOver x

/-- Whether a frame is being received on a port. -/
def Dev.receivesOn (d : Dev) (p : Nat) : Bool := d.decs.any (fun e => d.receiving e.2 && e.2.taps.any (fun t => decide (t.port = p)))

/-- The quiet intervals of a port begin anew with what its group's ports have sent by now (04 R97). -/
def Dev.quietNow (d : Dev) (p : Nat) : List (Nat × Nat) := (List.range 4).map (fun q => (q, (d.port (4 * portGroup p + q)).sent))

/-! ### One cycle -/

/-- Whether the last training symbol of a port ends within this cycle: its driver is muted then (03 R73). -/
def Dev.trainingEnds (d : Dev) (i : Nat) (p : Port) : Bool :=
  match p.trainAt with
  | some t => decide (p.ech = .training ∧ t + d.trainLen (portGroup i) ≤ d.tb.n + 5)
  | none => false

/-- One CK_MPT cycle of a port. -/
def Dev.tickPort (d : Dev) (i : Nat) (p : Port) : Port :=
  { p with fade := p.fade.map Fade.tick, occ := d.tickOcc i p.occ, enabled := p.enabled && !d.trainingEnds i p
           quiet := if d.receivesOn i then d.quietNow i else p.quiet
           sent := p.sent + ((List.range 5).filter (fun j => d.emits i (d.tb.n + j))).length }

/-- What five samples of the encode lanes' words show: words replaced because they come too late, wrong strobes (05 R120, R124). -/
def tickLane (x : EncLane) (n : Nat) (e : Dev) : Dev :=
  match x.frame with
  | none => e
  | some f =>
    if f.start ≤ n ∧ n < f.stop then
      x.outs.foldl (fun e _ =>
        let e := if inRuns f.late (n - f.start) then e.raise .car 2 else e
        if inRuns f.badS (n - f.start) then e.count 33 7 1 none 1 else e) e
    else e

/-- The status bits and counts that the words of five samples leave: those of the lanes, and saturation on each port, counted once a sample
(06 R146, R158, Table WF.5). -/
def Dev.tickWords (d : Dev) : Dev :=
  iter 5 (fun i e =>
    let n := d.tb.n + i
    let e := d.encs.foldl (fun e (x : Nat × EncLane) => tickLane x.2 n e) e
    d.ports.foldl (fun e (x : Nat × Port) =>
      if d.emits x.1 n && d.saturates x.1 n then e.raise (.wf (portGroup x.1) (x.1 % 4)) 31 else e) e) d

/-- One CK_MPT cycle of the device: MPT while it runs; fades, buckets and the words of five samples while the converter clocks run; every
counter that counts cycles (20 Table CT.1: CK_CNT, 4 ns). -/
def Dev.tick (d : Dev) : Dev :=
  if !d.dev.clocked then { d with clk := d.clk + 1 }
  else
    let w := d.tickWords
    let d := { d with clk := d.clk + 1, ports := d.ports.map (fun (e : Nat × Port) => (e.1, d.tickPort e.1 e.2))
                      regs := w.regs, cnts := w.cnts }
    let d := { d with tb := d.tb.tick }
    let wraps := d.cnts.cells.any (fun e => selects e.2 7 0 none && decide (e.2.value.toNat + 1 = 2 ^ 48))
    let d := d.cnts.cells.foldl (fun (d : Dev) (e : Nat × Counter) =>
      if selects e.2 7 0 none then d.modCounter e.1 (fun c => c.add 1) else d) d
    if wraps then d.setFld Reg.cntStat 0 0 1 else d

end Sys2Proof.Machine
end

