-- ==== Sys2Proof/Machine/Timebase.lean ====
section
/-! DEFINITION. The timebase and MSYNC: half-cycles, lock, reference switches, holdover, anchors, segments, the period boundary and
its edges (02). The lock itself, which releases R28, is in Groups.lean. -/

namespace Sys2Proof.Machine

/-! ### Segments and slot units (02 R53, R54, R58; 10 R246) -/

/-- The start of segment Sk in half-cycles of a polarity (true negative). -/
def Dev.bound (d : Dev) (neg : Bool) (k : Nat) : Nat :=
  if k = 0 then 0 else d.fld (if neg then Reg.mptSegbN (k - 1) else Reg.mptSegbP (k - 1)) 22 0

/-- The segment index at offset `x` of a beacon period; what an MSYNC step adds to a period lies in S7 of H3. -/
def Dev.segAt (d : Dev) (x : Nat) : Nat :=
  let neg := decide ((x / 2 ^ 23) % 2 = 1)
  if 2 ^ 25 ≤ x then 15
  else 8 * b2n neg + ((List.range 7).filter (fun k => decide (d.bound neg (k + 1) ≤ x % 2 ^ 23))).length

/-- The first boundary of a segment index within a beacon period. -/
def Dev.segStart (d : Dev) (seg : Nat) : Nat :=
  if seg < 8 then d.bound false seg else 2 ^ 23 + d.bound true (seg - 8)

/-- The boundary set, as the fourteen bounds. -/
def Dev.segSet (d : Dev) : List Nat :=
  (List.range 7).map (fun k => d.bound false (k + 1)) ++ (List.range 7).map (fun k => d.bound true (k + 1))

/-- Where slot unit `u` of a beacon period that an MSYNC step of `step` changes begins, PU: up to S7 of H3 in units of 4,096 PU, within it
in proportion, to the first whole PU. -/
def Dev.unitAt (d : Dev) (step : Int) (u : Nat) : Nat :=
  let s7 := 3 * 2 ^ 23 + d.bound true 7
  if u * unitPu ≤ s7 then u * unitPu
  else s7 + ((u * unitPu - s7) * (((2 ^ 25 - s7 : Nat) : Int) + step).toNat + (2 ^ 25 - s7 - 1)) / (2 ^ 25 - s7)

/-- Where slot unit `u` of the beacon period in progress begins; unit 8,192 is its end. -/
def Dev.unitStart (d : Dev) (u : Nat) : Nat := d.unitAt d.msync.step u

/-- Whether the boundary of the beacon period in progress is at most 8 ns past. -/
def Dev.atBoundary (d : Dev) : Bool := decide (d.bpPhase * 2 ^ 24 + d.tb.acc.toNat % 2 ^ 24 ≤ 2 * d.tb.freq.toNat)

/-- The MPT of sample `n` by the latest anchor; a sample before that anchor was mapped by an earlier one, which may differ by
1 PU either way (02 R50; log 3). -/
def Dev.mptOf (d : Dev) (n : Nat) : Nat × Dev :=
  let v := (d.tb.ancM : Int) + ((n : Int) - (d.tb.ancN : Int)) * (d.tb.ancR : Int) / (2 ^ 40 : Nat)
  if d.tb.ancN ≤ n then (unsigned 48 v, d)
  else
    let f := d.free
    (unsigned 48 (v + (f.1.toNat % 3 : Nat) - 1), f.2)

/-- The segment index in which an MPT lies: of the beacon period in progress or the one before, each under its own offset; of an older
one by the phase alone. -/
def Dev.segOfMpt (d : Dev) (m : Nat) : Nat :=
  let x := d.bpPos m
  let y := x + d.msync.ofs - d.msync.prevOfs + 2 ^ 25
  if 0 ≤ x then d.segAt x.toNat else if 0 ≤ y then d.segAt y.toNat else d.segAt (x % 2 ^ 25).toNat

/-- The segment index in which sample `n` lies. -/
def Dev.segOfSample (d : Dev) (n : Nat) : Nat := d.segOfMpt (d.mptOf n).1

/-- The strobe S of sample `n` in every stream of every port: the first sample at or after a segment boundary (02 R51). -/
def Dev.strobe (d : Dev) (n : Nat) : Bool := decide (0 < n ∧ d.segOfSample n ≠ d.segOfSample (n - 1))

/-! ### References (02 R40, R47) -/

/-- `REF_SEL`: the primary input. -/
def Dev.refPri (d : Dev) : Nat := d.fld Reg.mptRef 2 0
/-- `ALT_SEL`: the alternate input. -/
def Dev.refAlt (d : Dev) : Nat := d.fld Reg.mptRef 6 4
/-- `ALT_EN`. -/
def Dev.altEn (d : Dev) : Bool := d.flag Reg.mptCtrl 3
/-- The input in use. -/
def Dev.refUse (d : Dev) : Nat := if d.tb.usingAlt then d.refAlt else d.refPri
/-- The history of an input. -/
def Dev.refHist (d : Dev) (i : Nat) : RefHist := SMap.get (fun _ => RefHist.init) i d.tb.refs

/-- A run of equal captured bits written out. -/
def expandRuns (l : BitRuns) : List Bool := l.flatMap (fun r => List.replicate r.1 r.2)

/-- The modulator clocks of a run list: a half-cycle's length, 50 ns each. -/
def runLen (l : BitRuns) : Nat := (l.map (fun r => r.1)).foldl (· + ·) 0

/-- The timebase's own tap: order 4, decimation 256 (02 R39). Its 35 settling outputs are those of a 32-tap FIR, taken to be H08 as in the
derived chain of the same order and decimation (DEDUCED, log 26). -/
def tapCfg : ChainCfg := { n := 4, e := 8, coef := romCoefs 8 }

/-- The MPT phase, PU, of the instant that an output of the tap stands for, `m` modulator clocks of 12.5 cycles before now: the tap's
group delay of 4,478 clocks is removed (02 R39, 13 Table ME.2). -/
def Dev.tapPhase (d : Dev) (m : Nat) : Nat :=
  unsigned 24 (((d.tb.acc.toNat : Int) - (((m + 4478) * 25 * d.tb.freq.toNat / 2 : Nat) : Int)) / ((2 ^ 24 : Nat) : Int))

/-- The tap over the bits of one half-cycle that ends now: its outputs with the tap after each, oldest first. -/
def tapOuts (faulty : Bool) (c : Chain) (bits : List Bool) : List ChainOut :=
  ((chunks 256 (bits.length / 256) bits).foldl (fun (a : List ChainOut × Chain) b =>
    let o := a.2.output tapCfg faulty b
    (a.1 ++ [o], o.chain)) ([], c)).1

/-- The settled outputs of a half-cycle with their phases: those that carry the settling tag are ignored (02 R39). -/
def Dev.settled (d : Dev) (outs : List ChainOut) (len : Nat) : List (Int × Nat) :=
  (outs.zip (List.range outs.length)).filterMap (fun x =>
    if x.1.settle then none else some (x.1.sample, d.tapPhase (len - 256 * (x.2 + 1))))

/-- The tap's settled outputs over a half-cycle of input `i`. -/
def Dev.halfOuts (d : Dev) (i : Nat) (o : BitRuns) : List (Int × Nat) :=
  let h := d.refHist i
  let bits := h.part ++ expandRuns o
  d.settled (tapOuts (d.meas.fault.any (fun e => decide (e.1 = i))) h.tap bits) bits.length

/-- The RMS of samples in 2^-16 code, rounded down (log 30). -/
def rmsCode (xs : List (Int × Nat)) : Nat := isqrtFrom ((sumBy (fun x => x.1 * x.1) xs).toNat * 2 ^ 32 / xs.length) 34 0

/-- Whether a half-cycle is valid (02 R47). The mean is that of the valid half-cycles there are, where fewer than 64 precede, and with none
there is nothing to compare with (DESIGN CHOICE, log 26: the spec speaks of the previous 64 alone). -/
def Dev.halfValid (d : Dev) (i : Nat) (o : BitRuns) : Bool :=
  let h := (d.refHist i).rms
  decide (45 * runLen o ≤ 10000000 ∧ 10000000 ≤ 65 * runLen o) && !d.meas.fault.any (fun e => decide (e.1 = i)) &&
    (h.isEmpty || decide (d.fld Reg.mptLom 7 0 * h.foldl (· + ·) 0 ≤ rmsCode (d.halfOuts i o) * 256 * h.length))

/-- One half-cycle of a reference enters its history, and its bits the tap. -/
def Dev.seeHalf (d : Dev) (i : Nat) (o : BitRuns) : Dev :=
  let h := d.refHist i
  let bits := h.part ++ expandRuns o
  let outs := tapOuts (d.meas.fault.any (fun e => decide (e.1 = i))) h.tap bits
  let ok := d.halfValid i o
  let h : RefHist :=
    { rms := if ok then (rmsCode (d.halfOuts i o) :: h.rms).take 64 else h.rms
      valid := if ok then h.valid + 1 else 0
      invalid := if ok then 0 else h.invalid + 1
      tap := (outs.getLast?.map (fun x => x.chain)).getD h.tap
      part := bits.drop (256 * (bits.length / 256))
      prev := d.settled outs bits.length }
  { d with tb := { d.tb with refs := SMap.set (fun _ => RefHist.init) i h d.tb.refs } }

/-- Lost: `LOM_HALF` consecutive invalid half-cycles. -/
def Dev.refLost (d : Dev) (i : Nat) : Bool := decide (d.fld Reg.mptLom 11 8 ≤ (d.refHist i).invalid)
/-- Valid for `REVALID_HALF` consecutive half-cycles. -/
def Dev.refBack (d : Dev) (i : Nat) : Bool := decide (d.fld Reg.mptLom 19 16 ≤ (d.refHist i).valid)
/-- The latest half-cycle was valid. -/
def Dev.refValid (d : Dev) (i : Nat) : Bool := decide (0 < (d.refHist i).valid)
/-- Whether MPT follows a live reference. -/
def Dev.refLive (d : Dev) : Bool := !d.tb.holdover || d.tb.taken

/-! ### Half-cycles (02 R39-R46) -/

/-- The phase of the fundamental against MPT, PU: the angle of the correlations of samples with the sine and the cosine of MPT at their
phases (02 R42). -/
def correlate (xs : List (Int × Nat)) : Nat :=
  zcAngle (sumBy (fun x => x.1 * (fixCosSin (2 ^ 24) x.2).2) xs) (sumBy (fun x => x.1 * (fixCosSin (2 ^ 24) x.2).1) xs)

/-- The detected phase of a half-cycle of input `i`: over the last full cycle, the half-cycle and the one before it (02 R42). -/
def Dev.halfPhase (d : Dev) (i : Nat) (o : BitRuns) : Nat := correlate ((d.refHist i).prev ++ d.halfOuts i o)

/-- The phase error of a half-cycle of the reference in use: the detected phase, mapped onto the primary, less the offset of
phase zero (02 R39, R40, R42). -/
def Dev.phaseError (d : Dev) (o : BitRuns) : Int :=
  signed 24 (unsigned 24 ((d.halfPhase d.refUse o : Int) + (if d.tb.usingAlt then (d.fld Reg.mptAltOfs 23 0 : Int) else 0) -
    signed 24 (d.fld Reg.mptPhaseOfs 23 0)))

/-- `NOM`: the frequency word of nominal 50 Hz or 60 Hz (02 R38). -/
def Dev.nomFreq (d : Dev) : BitVec 32 := if d.flag Reg.mptCtrl 1 then 67553994 else 56294995

/-- The correction limit of a beacon period, PU (02 R46). -/
def Dev.slewLimit (d : Dev) : Nat := 2 ^ d.fld Reg.mptSlew 4 0

/-- Closed-loop bandwidths in millihertz (02 Table MT.1). -/
def loopMhz : Nat → Nat
  | 0 => 100
  | 1 => 500
  | 2 => 1000
  | _ => 4000

/-- The coefficients of the loop: tracking bandwidth while locked, acquisition bandwidth else, damping 0.707 (02 R43, Table MT.1). -/
def Dev.loopCoef (d : Dev) : Nat × Nat :=
  Config.loopCoef (loopMhz (if d.tb.locked then d.fld Reg.mptCtrl 5 4 else d.fld Reg.mptCtrl 7 6)) 707

/-- PU of MPT over a beacon period per step of `MPT_FREQ`, times a number of steps. -/
def Dev.freqEffect (d : Dev) (n : Nat) : Nat := n * 2 ^ 25 / max 1 d.tb.freq.toNat

/-- The largest error whose correction, phase and frequency path together, stays within what the period has left (02 R46). -/
def Dev.errorBound (d : Dev) : Nat :=
  let k := d.loopCoef
  (d.slewLimit - d.tb.corrUsed) * 2 ^ 32 / max 1 (k.1 + (k.2 * 2 ^ 25 + (max 1 d.tb.freq.toNat - 1)) / max 1 d.tb.freq.toNat)

/-- Closing the loop on an error: the limit acts on the error, and both paths of the second-order loop see the clamped one alone; what they
give in one beacon period is applied over the next (02 R43, R46; the moment is a DESIGN CHOICE, log 26). -/
def Dev.closeLoop (d : Dev) (e : Int) : Dev :=
  let k := d.loopCoef
  let e' := clampI (-(d.errorBound : Int)) d.errorBound e
  let dp := (((k.1 : Nat) : Int) * e').tdiv ((2 ^ 32 : Nat) : Int)
  let df := (((k.2 : Nat) : Int) * e').tdiv ((2 ^ 32 : Nat) : Int)
  { d with tb := { d.tb with
      corrNext := d.tb.corrNext + dp
      freqNext := d.tb.freqNext + df
      corrUsed := d.tb.corrUsed + dp.natAbs + d.freqEffect df.natAbs
      slewActive := decide (e' ≠ e) } }

/-- At a boundary the corrections found in the period that ends begin to act: the frequency word moves, and the phase correction is spread
evenly over the period that begins, whose length is that of Φs with its MSYNC step (02 R46). -/
def Dev.applyLoop (d : Dev) : Dev :=
  let f := BitVec.ofInt 32 ((d.tb.freq.toNat : Int) + d.tb.freqNext)
  let corr := d.tb.corrLeft + d.tb.corrNext * ((2 ^ 24 : Nat) : Int)
  let cycles := (((2 ^ 25 : Nat) : Int) + d.msync.step) * ((2 ^ 24 : Nat) : Int) - corr
  let rate := (corr.natAbs * f.toNat + (cycles.toNat - 1)) / max 1 cycles.toNat
  { d with tb := { d.tb with freq := f, corrLeft := corr, corrRate := if corr < 0 then -(rate : Int) else rate, corrUsed := 0,
                             corrNext := 0, freqNext := 0 } }

/-- The frequency word of a reference whose half-cycle takes `len` modulator clocks of 12.5 cycles, half a turn of 2^48 (02 R44); its
rounding is free (log 3). -/
def Dev.estimate (d : Dev) (len : Nat) : BitVec 32 × Dev :=
  let r := d.divFree ((2 ^ 48 : Nat) : Int) (25 * len)
  (BitVec.ofInt 32 r.1, r.2)

/-- Until the first lock the timebase takes phase and frequency as detected, and leaves the cycle count (02 R44). The interval between valid
half-cycles is the length of the one in hand where the one before it was valid too; with none before it there is no interval, and the
frequency word stays (DEDUCED, log 26). -/
def Dev.setLoop (d : Dev) (e : Int) (run len : Nat) : Dev :=
  let acc := d.tb.acc.toNat
  let frac := unsigned 24 (((acc / 2 ^ 24 % 2 ^ 24 : Nat) : Int) + e)
  let f := if run = 0 then (d.tb.freq, d) else d.estimate len
  { f.2 with tb := { f.2.tb with freq := f.1, acc := BitVec.ofNat 72 (acc / 2 ^ 48 * 2 ^ 48 + frac * 2 ^ 24), corrLeft := 0 } }

/-- Effect of HALF_CYCLE_DETECT (02 R42, R45, R47). Where `ALT_EN` is cleared while the alternate is in use, the alternate stays in use,
its half-cycles seen as before, until the primary is back (R41 names no other switch; DESIGN CHOICE, log 26). -/
def halfCycleEffect (pri alt : BitRuns) (d : Dev) : Dev :=
  if !d.dev.clocked then d
  else
    let d := { d with tb := { d.tb with freqHist := (d.tb.freq.toNat :: d.tb.freqHist).take 128 } }
    let useAlt := d.tb.usingAlt
    let obs := if useAlt then alt else pri
    let ok := d.halfValid d.refUse obs
    let e := d.phaseError obs
    let run := (d.refHist d.refUse).valid
    let d := d.seeHalf d.refPri pri
    let d := if d.altEn || useAlt then d.seeHalf d.refAlt alt else d
    if !d.refLive then d
    else if !ok then { d with tb := { d.tb with lockRun := 0, bigRun := 0 } }
    else
      let d := { d with tb := { d.tb with
        phaseErr := e
        lockRun := if absI e < 2 ^ d.fld Reg.mptThr 4 0 then d.tb.lockRun + 1 else 0
        bigRun := if 2 ^ d.fld Reg.mptThr 12 8 < absI e then d.tb.bigRun + 1 else 0 } }
      if d.tb.everLocked then d.closeLoop e else d.setLoop e run (runLen obs)

/-- HALF_CYCLE_DETECT. -/
def execHalfCycleDetect (pri alt : BitRuns) (s : State) : Host.Outcome State Fault Refusal := run (halfCycleEffect pri alt) s

/-- Effect of TIMEBASE_UNLOCK (02 R45): due after four consecutive large errors while locked. -/
def timebaseUnlockEffect (d : Dev) : Dev :=
  if d.dev.clocked && d.tb.locked && decide (4 ≤ d.tb.bigRun) then
    let d := { d with tb := { d.tb with locked := false, lockRun := 0 } }
    (d.raise .mpt 10).event 0x0102 stOk 0 [0]
  else d

/-- TIMEBASE_UNLOCK. -/
def execTimebaseUnlock (s : State) : Host.Outcome State Fault Refusal := run timebaseUnlockEffect s

/-- The other reference becomes the one in use (02 R41, R49). The consecutive counts of R45 go on: only an invalid half-cycle breaks them
(R42). -/
def Dev.switchRef (d : Dev) : Dev :=
  let d := { d with tb := { d.tb with usingAlt := !d.tb.usingAlt } }
  (d.raise .mpt 11).event 0x0101 stOk 0 (leBytes 1 d.refUse)

/-- Whether a switch between live references is due (02 R41). -/
def Dev.switchDue (d : Dev) : Bool :=
  d.dev.clocked && d.refLive &&
    (if d.tb.usingAlt then d.refBack d.refPri else d.altEn && d.refLost d.refPri && d.refValid d.refAlt)

/-- Effect of REF_SWITCH. -/
def refSwitchEffect (d : Dev) : Dev := if d.switchDue then d.switchRef else d

/-- REF_SWITCH. -/
def execRefSwitch (s : State) : Host.Outcome State Fault Refusal := run refSwitchEffect s

/-- The other enabled reference is valid. -/
def Dev.otherValid (d : Dev) : Bool := d.altEn && d.refValid (if d.tb.usingAlt then d.refPri else d.refAlt)

/-- The mean of `MPT_FREQ` over the 32 half-cycles before the losing run; its rounding is free (02 R48, log 3). With fewer than 32 before
the run it is the mean of those there are, and with none the word in force (DESIGN CHOICE, log 26: the spec speaks of 32 alone). -/
def Dev.frozenFreq (d : Dev) : BitVec 32 × Dev :=
  let h := (d.tb.freqHist.drop (d.refHist d.refUse).invalid).take 32
  if h = [] then (d.tb.freq, d)
  else
    let r := d.divFree (h.foldl (· + ·) 0 : Nat) h.length
    (BitVec.ofInt 32 r.1, r.2)

/-- Effect of LOSS_OF_MAINS (02 R47, R48, R62). -/
def lossOfMainsEffect (d : Dev) : Dev :=
  if d.dev.clocked && d.refLive && d.refLost d.refUse && !d.otherValid then
    let unlock := d.tb.locked && decide (4 ≤ d.tb.bigRun)
    let r := d.frozenFreq
    let d := r.2
    let d := { d with tb := { d.tb with freq := r.1, holdover := true, taken := false, locked := false, lockRun := 0,
                                        bigRun := 0, corrLeft := 0, corrNext := 0, freqNext := 0,
                                        slewActive := false } }
    let d := ({ d with meas := { d.meas with cycHold := true } }).raise .mpt 9
    let d := if unlock then d.raise .mpt 10 else d
    d.event 0x0103 stOk 0 [1]
  else d

/-- LOSS_OF_MAINS. -/
def execLossOfMains (s : State) : Host.Outcome State Fault Refusal := run lossOfMainsEffect s

/-- Effect of HOLDOVER_END (02 R49): a reference valid for `REVALID_HALF` half-cycles is taken up, the primary first. The
HOLDOVER flag clears with the next lock. -/
def holdoverEndEffect (d : Dev) : Dev :=
  let pri := d.refBack d.refPri
  let alt := d.altEn && d.refBack d.refAlt
  if d.dev.clocked && d.tb.holdover && !d.tb.taken && (pri || alt) then
    let d := { d with tb := { d.tb with taken := true } }
    if pri = d.tb.usingAlt then d.switchRef else d
  else d

/-- HOLDOVER_END. -/
def execHoldoverEnd (s : State) : Host.Outcome State Fault Refusal := run holdoverEndEffect s

/-! ### Samples (02 R50) -/

/-- An anchor is published: the sample count, MPT, and the rate per sample with 40 fractional bits, whose rounding is free (02 R50,
log 3). -/
def Dev.publishAnchor (d : Dev) : Dev :=
  let r := d.divFree (d.tb.freq.toNat * 2 ^ 16 : Nat) 5
  { r.2 with tb := { r.2.tb with ancN := d.tb.n, ancM := d.mpt, ancR := r.1.toNat, ancClk := d.clk } }

/-- Effect of CONVERTER_PLL_LOCK: the sample counters start together with a first anchor, and the streams of the quadrants in service become
present on the Carillon (02 R50, 05 R131). -/
def converterPllLockEffect (d : Dev) : Dev :=
  if d.dev.clocked && !d.tb.running then
    let d := ({ d with tb := { d.tb with running := true, n := 0 } }).publishAnchor
    { d with present := (List.range 4).foldl (fun m q => if bit d.pwr.qdown q then m else m + 2 ^ q) 0
             gaps := ((List.range 4).filter (bit d.pwr.qdown)).map (fun q => (q, 0, none)) }
  else d

/-- CONVERTER_PLL_LOCK. -/
def execConverterPllLock (s : State) : Host.Outcome State Fault Refusal := run converterPllLockEffect s

/-- Effect of MPT_ANCHOR: every 1,024 CK_MPT cycles an anchor is published (02 R50). -/
def mptAnchorEffect (d : Dev) : Dev :=
  if d.dev.clocked && d.tb.running && decide (d.tb.ancClk + 1024 ≤ d.clk) then d.publishAnchor else d

/-- MPT_ANCHOR. -/
def execMptAnchor (s : State) : Host.Outcome State Fault Refusal := run mptAnchorEffect s

/-- Effect of a read of `MPT_NOW_LO` (02 R63), where BAR 0 answers. -/
def mptNowLoEffect (d : Dev) : Dev :=
  if d.dev = .off then d
  else
    let d := { d with tb := { d.tb with nowHi := BitVec.ofNat 16 (d.mpt / 2 ^ 32) } }
    d.toBus (d.mpt % 2 ^ 32)

/-- MPT_NOW_LO_READ. -/
def execMptNowLoRead (s : State) : Host.Outcome State Fault Refusal := run mptNowLoEffect s

/-! ### MSYNC (02 R56-R60, R62) -/

/-- `EN` of MSYNC. -/
def Dev.msyncEn (d : Dev) : Bool := d.flag Reg.msyncCtrl 0
/-- `DIV` + 1 of MSYNC. -/
def Dev.msyncDiv (d : Dev) : Nat := d.fld Reg.msyncCtrl 15 8 + 1

/-- The position of an edge captured `ago` ns ago, less the input delay, in PU of MPT at the current frequency word,
rounded to the nearest PU (02 R56). -/
def Dev.edgePos (d : Dev) (ago : Nat) : Int :=
  roundDiv (4 * (d.tb.acc.toNat : Int) - ((ago + d.fld Reg.msyncDly 15 0) * d.tb.freq.toNat : Nat)) (4 * 2 ^ 24)

/-- The boundaries an edge can match, each with the offset in force there: the current, the next and the last one. -/
def Dev.edgeBounds (d : Dev) : List (Nat × Int) :=
  [(d.msync.bpi, d.msync.ofs), ((d.msync.bpi + 1) % 2 ^ 23, d.msync.ofs + d.msync.step),
   ((d.msync.bpi + 2 ^ 23 - 1) % 2 ^ 23, d.msync.prevOfs)]

/-- The error of a position against a boundary. -/
def edgeError (pos : Int) (b : Nat × Int) : Int := signed 48 (unsigned 48 (pos - (b.1 * 2 ^ 25 : Nat) - b.2))

/-- The nearest of the boundaries. -/
def nearestBound (pos : Int) (bs : List (Nat × Int)) (b : Nat × Int) : Nat × Int :=
  bs.foldl (fun a c => if absI (edgeError pos c) < absI (edgeError pos a) then c else a) b

/-- Effect of MSYNC_EDGE (02 R56, R57): only edges of the polarity set by `EDGE` are captured. -/
def msyncEdgeEffect (ago : Nat) (falling : Bool) (d : Dev) : Dev :=
  if !(d.dev.clocked && d.msyncEn) || (falling != d.flag Reg.msyncCtrl 1) then d
  else
    let pos := d.edgePos ago
    let b := nearestBound pos d.edgeBounds (d.msync.bpi, d.msync.ofs)
    let e := edgeError pos b
    if 2 ^ d.fld Reg.msyncCtrl 20 16 < absI e ∨ d.msync.accepted = some b.1 then d.raise .msync 10
    else
      let t := b.2 + e
      let lim : Int := d.fld Reg.msyncAbs 19 0
      let clip := decide (lim < absI t)
      let t' := clampI (-lim) lim t
      let d := if clip then d.raise .msync 9 else d
      { d with msync := { d.msync with
          tgt := t', err := e, accepted := some b.1, runStart := b.1, tracking := true, absClip := clip
          reported := d.msync.reported && decide (t' = d.msync.tgt)
          was := if ago < 4 then some (d.clk, d.msync.tgt, d.msync.absClip, d.msync.reported) else none } }

/-- MSYNC_EDGE. -/
def execMsyncEdge (agoNs : Nat) (falling : Bool) (s : State) : Host.Outcome State Fault Refusal :=
  run (msyncEdgeEffect agoNs falling) s

/-- The next boundary of a beacon period has come: Φs under the offset that applies from it has reached it (02 R53, R58). -/
def Dev.bpDue (d : Dev) : Bool :=
  d.dev.clocked && decide (0 ≤ edgeError (d.mpt : Int) ((d.msync.bpi + 1) % 2 ^ 23, d.msync.ofs + d.msync.step))

/-- The level of the MSYNCO pin: `POL` 0 pulses high, 1 pulses low (02 R60). -/
def Dev.msyncoLevel (d : Dev) : Bool := (decide (0 < d.msync.pulses ∧ d.clk < d.msync.pulseEnd)) != d.flag Reg.msyncoCtrl 1

/-- The pulse of MSYNCO at a boundary (02 R60). -/
def Dev.msyncoPulse (d : Dev) : Dev :=
  if d.flag Reg.msyncoCtrl 0 && decide (d.msync.bpi % (d.fld Reg.msyncoCtrl 23 16 + 1) = 0) then
    { d with msync := { d.msync with pulses := d.msync.pulses + 1,
                                     pulseEnd := d.clk + usClk (d.fld Reg.msyncoCtrl 15 8) } }
  else d

/-- `EN` cleared: the target is zero (02 R59, R62). -/
def Msync.released (m : Msync) : Msync :=
  { m with tgt := 0, absClip := false, reported := m.reported && decide (m.tgt = 0), was := none }

/-- The target that a step is decided on: an edge captured in the CK_MPT cycle of the decision serves the next one (02 R62). The answer is
T, whether it was clipped to ABS, whether its event has been posted, and whether it is the target as it now stands. -/
def Msync.judged (m : Msync) (clk : Nat) : Int × Bool × Bool × Bool :=
  match m.was with
  | some (c, t, clip, rep) => if c = clk then (t, clip, rep, decide (t = m.tgt)) else (m.tgt, m.absClip, m.reported, true)
  | none => (m.tgt, m.absClip, m.reported, true)

/-- Effect of MSYNC_STEP (02 R58, R60, R62): at a boundary the step decided before applies, the next is decided, MSYNCO
pulses, and the corrections of the loop begin to act (R46). Outside RUN the offset is frozen. -/
def msyncStepEffect (d : Dev) : Dev :=
  if !d.bpDue then d
  else
    let m := d.msync
    let m := { m with prevOfs := m.ofs, past := (m.ofs :: m.past).take 16, ofs := m.ofs + m.step, bpi := (m.bpi + 1) % 2 ^ 23 }
    let m := if d.msyncEn then m else m.released
    let m := if !d.msyncEn && decide (d.msyncDiv < bpSince m.runStart m.bpi) then { m with tracking := false } else m
    let j := m.judged d.clk
    let want := j.1 - m.ofs
    let lim : Int := d.fld Reg.msyncRate 14 0
    let step := if d.dev = .run then clampI (-lim) lim want else 0
    let limited := decide (d.dev = .run ∧ step ≠ want)
    let tell := !j.2.2.1 && (limited || j.2.1)
    let d := { d with msync := { m with step := step, reported := m.reported || (tell && j.2.2.2), was := none } }
    let d := d.applyLoop
    let d := if limited then d.raise .msync 8 else d
    let d := if tell then
        d.event 0x0104 stOk 0 (leBytes 4 (unsigned 32 j.1) ++ leBytes 1 (b2n limited + 2 * b2n j.2.1)) else d
    d.msyncoPulse

/-- MSYNC_STEP. -/
def execMsyncStep (s : State) : Host.Outcome State Fault Refusal := run msyncStepEffect s

/-- Effect of MSYNC_MISS (02 R59). -/
def msyncMissEffect (d : Dev) : Dev :=
  let m := d.msync
  if d.dev.clocked && d.msyncEn &&
      decide ((2 ^ d.fld Reg.msyncCtrl 20 16 : Int) ≤ edgeError (d.mpt : Int) (m.bpi, m.ofs)) &&
      decide (m.accepted ≠ some m.bpi) && decide (d.msyncDiv ≤ bpSince m.runStart m.bpi ∧ bpSince m.runStart m.bpi < 2 ^ 22) then
    ({ d with msync := { m with runStart := m.bpi, tracking := false } }).raise .msync 11
  else d

/-- MSYNC_MISS. -/
def execMsyncMiss (s : State) : Host.Outcome State Fault Refusal := run msyncMissEffect s

end Sys2Proof.Machine
end

