-- ==== Sys2Proof/Machine/Groups.lean ====
section
/-! DEFINITION. Group states and what entering and leaving them does (01 R28, R33, R34; 22 R502, R503), the canceller's
passage to IDLE (04 R107), fades that end with DOWN (06 R163), and the lock that releases R28 (02 R45). -/

namespace Sys2Proof.Machine

/-! ### Ports and lanes on the way down -/

/-- A canceller enters IDLE: all three stages are cleared and `HELD` is set; the published levels stay (04 R97, R107). A training that
runs ends with it, and with the training the driver's enable (03 R73). `BULK_DLY` keeps its value: the rule clears the stages, and says
nothing of where their window starts (DESIGN CHOICE, log 12). -/
def Dev.toIdle (d : Dev) (p : Nat) : Dev :=
  d.modPort p (fun x => { x with
    ech := .idle, held := true, divWin := 0, overPrev := false, goodWins := [], trainAsk := false
    enabled := x.enabled && decide (x.ech ≠ .training), trainAt := none, winAt := x.sent, pre := [], td := [], tdRef := 0
    corr := [], tabs := [] })

/-- A fade and a pending swap of a port end at once on their targets (06 R163). -/
def Dev.endFades (d : Dev) (p : Nat) : Dev :=
  let x := d.port p
  let d := match x.fade with
    | none => d
    | some f => (d.modPort p (fun x => { x with fade := none, bank := !f.src })).finishOpt f.cmd stOk
  match x.swap with
  | none => d
  | some w => (d.modPort p (fun x => { x with swap := none, bank := w.target })).finishOpt w.cmd stOk

/-- A frame that has ended leaves reception; its blocks are still to be decoded (07 Table FF.6). -/
def Dev.settleLane (d : Dev) (l : Nat) : Dev :=
  if d.frameOver (d.dec l) then
    d.modDec l (fun x => { x with acq := .armed, win := false, second := none, frame := none, ended := x.ended ++ x.frame.toList })
  else d

/-- A stage of reception is traced for a frame (20 Table CT.5). -/
def Dev.traceRx (d : Dev) (l : Nat) (f : RxFrame) (stage st mpt bitmap : Nat) : Dev :=
  let map := fcMap f.fc
  let body := decide (fcFt f.fc = ftData ∨ fcFt f.fc = ftMgmt)
  d.trace f.clid stage st mpt { TraceInfo.of (f.nh.getD 0) f.grp with
    lane := l, seq := if body then fcSeq f.fc else 0, pbn := if body then fcPbs f.fc else 0
    form := if 8 ≤ map then 0 else if map = 4 then 1 else 4 + map, bitmap := bitmap, level := f.rx.level }

/-- A decode lane becomes unbound; a frame in progress is discarded and `TRUNC_SEEN` set (07 R186), also one whose frame control has not been
accepted yet (DESIGN CHOICE: the rule says only 'a frame still in progress', log 30). An acknowledgement it owes goes with it; frames
that have ended are still decoded. -/
def Dev.unbindDec (d : Dev) (l : Nat) : Dev :=
  let d := d.settleLane l
  let x := d.dec l
  let d := if x.acq.busy then
      let d := d.raise (.ff x.grp) 4
      match x.frame with | some f => d.traceRx l f 0x06 stFlushed d.mpt 0 | none => d
    else d
  d.modDec l (fun x => { DecLane.init with ended := x.ended, ackIn := x.ackIn })

/-- From now on the ports receive words of zeros on their transmit streams (05 R129). -/
def Dev.cutFeeds (d : Dev) (ps : List Nat) : Dev :=
  ps.foldl (fun d p => d.modPort p (fun x => { x with fed := x.fed.map (fun f => { f with stop := min f.stop d.tb.n }) })) d

/-- An encode lane becomes unbound; the drivers' conditions change at the slot boundary (03 R73). -/
def Dev.unbindEnc (d : Dev) (l : Nat) : Dev :=
  (d.cutFeeds (d.enc l).outs).modEnc l (fun x => { EncLane.init with nextAt := x.nextAt })

/-- Every lane bound to a group becomes unbound. -/
def Dev.unbindGroup (d : Dev) (g : Nat) : Dev :=
  let ds := (d.decs.filter (fun e => decide (e.2.grp = g) && e.2.bound.isSome)).map (fun e => e.1)
  let es := (d.encs.filter (fun e => decide (e.2.grp = g) && e.2.bound.isSome)).map (fun e => e.1)
  es.foldl (fun d l => d.unbindEnc l) (ds.foldl (fun d l => d.unbindDec l) d)

/-! ### Group states -/

/-- A group changes state: event GROUP_STATE (16 Table CE.6). -/
def Dev.setGroup (d : Dev) (g : Nat) (st : GroupState) : Dev :=
  let old := (d.group g).st
  if old = st then d
  else
    let d := d.modGroup g (fun x => { x with st := st })
    d.event 0x0201 stOk g (leBytes 1 st.code ++ leBytes 1 old.code ++ leBytes 1 (d.serviceMask g))

/-- A GRP_START that has not completed yet completes with the state the group has reached (16 Table CE.3). -/
def Dev.startDone (d : Dev) (g st : Nat) : Dev :=
  match (d.group g).startCmd with
  | none => d
  | some id =>
    let d := d.modGroup g (fun x => { x with startCmd := none })
    d.finish id st (if st = stOk then quints 0 0 0 (d.group g).st.code (d.serviceMask g) else [])

/-- The nodes whose sounding sessions belong to a group. -/
def Dev.sessNodes (d : Dev) (g : Nat) : List Nat :=
  (d.sess.filter (fun s => decide ((d.node s.nh).grp = g))).map (fun s => s.nh)

/-- A group enters DOWN (01 R33, R34): calibration and training end, the cancellers enter IDLE, fades end, its maintenance
requests and sounding sessions are flushed, its schedule and bindings go. Nodes keep handles, entries and maps. -/
def Dev.groupDown (d : Dev) (g : Nat) : Dev :=
  if (d.group g).st = .down then d
  else
    let ps := groupPorts g
    let d := d.setGroup g .down
    let d := ps.foldl (fun d p => d.modPort p (fun x => { x with calib := false, trainEnd := false })) d
    let d := (d.unbindGroup g).modGroup g (fun x => { x with frozen := [], calBp := none, firstBcn := none, lastBcn := none })
    let d := ps.foldl (fun d p => d.toIdle p) d
    let d := ps.foldl (fun d p => d.endFades p) d
    let d := d.flushMnt ps
    (d.sessNodes g).foldl (fun d nh => d.dropSessions nh) d

/-- A group enters COORDINATING or DEGRADED from CALIBRATING in beacon period m: its first beacon is at m + 4 (22 R503). -/
def Dev.groupLive (d : Dev) (g : Nat) (st : GroupState) : Dev :=
  let d := (d.setGroup g st).modGroup g (fun x => { x with firstBcn := some ((d.msync.bpi + 4) % 2 ^ 23), calBp := none })
  d.startDone g stOk

/-- The enabled ports of a group (01 Table OR.6). One without a role counts among them, and as out of service (03 R80). -/
def Dev.enabledPorts (d : Dev) (g : Nat) : List Nat := (groupPorts g).filter d.portEn

/-- Whether a group's calibration has ended: every converter calibration, and the cold training of every port in service;
at once where no L port has passed. -/
def Dev.calEnded (d : Dev) (g : Nat) : Bool :=
  let ps := d.enabledPorts g
  ps.all (fun p => !(d.port p).calib) &&
    (ps.all (fun p => (d.port p).trainEnd || !d.counts p) || (d.lPorts g).isEmpty)

/-- The end of a group's calibration (01 Table OR.6, R28): without an L port the group goes DOWN; else it goes on once the
timebase has ever locked, and waits in CALIBRATING before that. -/
def Dev.judgeCal (d : Dev) (g : Nat) : Dev :=
  if (d.group g).st = .calibrating ∧ d.calEnded g then
    if (d.lPorts g).isEmpty then
      let cmd := (d.group g).startCmd
      let d := (d.modGroup g (fun x => { x with startCmd := none })).groupDown g
      match cmd with
      | none => d
      | some id => d.finish id stOk (quints 0 0 0 0 (d.serviceMask g))
    else if d.tb.everLocked then
      d.groupLive g (if (d.enabledPorts g).all (fun p => d.counts p) then .coordinating else .degraded)
    else d
  else d

/-- A port of a group has entered or left service: Table OR.6 for a group that is up. The row to DOWN wins (01 R34). -/
def Dev.portChanged (d : Dev) (g : Nat) : Dev :=
  if (d.group g).st.up then
    if !(groupPorts g).any (fun p => d.isL p && d.counts p) then d.groupDown g
    else d.setGroup g (if (d.enabledPorts g).all (fun p => d.counts p) then .coordinating else .degraded)
  else d.judgeCal g

/-! ### TIMEBASE_LOCK (02 R45, R49; 01 R28) -/

/-- Effect of TIMEBASE_LOCK: due after `LOCK_CNT` consecutive small errors. Holdover ends with it (R49), and the first lock
lets groups whose calibration has ended go on (R28). -/
def timebaseLockEffect (d : Dev) : Dev :=
  if d.dev.clocked && !d.tb.locked && decide (d.fld Reg.mptCtrl 15 8 ≤ d.tb.lockRun) then
    let held := d.tb.holdover
    let d := { d with tb := { d.tb with locked := true, everLocked := true, holdover := false, taken := false, bigRun := 0 } }
    let d := d.event 0x0102 stOk 0 [1]
    let d := if held then d.event 0x0103 stOk 0 [0] else d
    (List.range 32).foldl (fun d g => d.judgeCal g) d
  else d

/-- TIMEBASE_LOCK. -/
def execTimebaseLock (s : State) : Host.Outcome State Fault Refusal := run timebaseLockEffect s

end Sys2Proof.Machine
end

