-- ==== Sys2Proof/Machine/Ports.lean ====
section
/-! DEFINITION. Line ports: derating, driver faults, converter calibration, shaping banks, group set-up and quadrants
(03 R74-R87, 06 R159-R163, 22 R495, R504). -/

namespace Sys2Proof.Machine

/-! ### Derating (03 R75, R76) -/

/-- The smallest d from `n` on, within `fuel`, for which 30 Vpp x 10^(-d/40) does not exceed a ceiling in mV. -/
def derateFrom (ceil : Nat) : Nat → Nat → Nat
  | 0, n => n
  | fuel + 1, n => if 30000 ^ 40 ≤ ceil ^ 40 * 10 ^ n then n else derateFrom ceil fuel (n + 1)

/-- `RAIL_MODE` of a port. -/
def Dev.railMode (d : Dev) (p : Nat) : Nat := d.fld (Reg.portCfg (portGroup p) (p % 4)) 21 20

/-- The swing ceiling of a port in mV at a VIN in mV. -/
def Dev.ceiling (d : Dev) (p mv : Nat) : Nat := if d.railMode p = 2 then mv - 1600 else 2 * (mv - 1600)

/-- The derating that VIN calls for, within the field's six bits. -/
def Dev.derateFor (d : Dev) (p mv : Nat) : Nat := derateFrom (d.ceiling p mv) 63 0

/-- d_q: the largest of the values sufficient 0.1 V below each measurement of the last 100 us (03 R76). -/
def Port.dq (x : Port) : Nat := x.dqWin.foldl max 0

/-- The DERATE event of a group: the values in force by rail (16 Table CE.6). -/
def Dev.derateEvent (d : Dev) (g : Nat) : Dev :=
  let worst := fun (half : Bool) =>
    ((groupPorts g).filter (fun p => decide (d.railMode p = 2) == half)).foldl (fun m p => max m (d.port p).derate) 0
  d.event 0x0202 stOk g (leBytes 1 (worst false) ++ leBytes 1 (worst true))

/-- `DERATE` of ports changes: the sticky bits, and one event per group (03 R76). -/
def Dev.setDerate (d : Dev) (vs : List (Nat × Nat)) : Dev :=
  let d := vs.foldl (fun d v =>
    (d.modPort v.1 (fun x => { x with derate := v.2 })).raise (.port (portGroup v.1) (v.1 % 4)) 27) d
  (List.range 32).foldl (fun d g => if vs.any (fun v => decide (portGroup v.1 = g)) then d.derateEvent g else d) d

/-- What one measurement does to every port: its window, and an increase where VIN calls for one. -/
def Dev.derateMeasure (d : Dev) (mv : Nat) : Dev :=
  let ups := ((List.range 128).filter (fun p => decide ((d.port p).derate < d.derateFor p mv))).map
    (fun p => (p, d.derateFor p mv))
  let d := (List.range 128).foldl (fun d p =>
    d.modPort p (fun x => { x with dqWin := (d.derateFor p (mv - 100) :: x.dqWin).take 11 })) d
  d.setDerate ups

/-- Whether the port sends B = 1 now: a frame or its cold training. -/
def Dev.sending (d : Dev) (p : Nat) : Bool := d.emits p d.tb.n

/-- Effect of VIN_MEASUREMENT (22 R492, R495; 03 R75, R76). -/
def vinMeasurementEffect (mv : Nat) (d : Dev) : Dev :=
  if d.dev = .off then d
  else
    let d := { d with pwr := { d.pwr with vin := mv } }
    let d := if mv < 4500 then d.setFld Reg.pwrStat 5 5 1 else d
    let d := if 18500 ≤ mv then
        let d := d.setFld Reg.pwrStat 6 6 1
        let d := { d with pwr := { d.pwr with ovMute := true } }
        d.ports.foldl (fun d e => d.modPort e.1 (fun x => { x with enabled := false })) d
      else if mv < 18200 then { d with pwr := { d.pwr with ovMute := false } }
      else d
    d.derateMeasure mv

/-- VIN_MEASUREMENT. -/
def execVinMeasurement (mv : Nat) (s : State) : Host.Outcome State Fault Refusal := run (vinMeasurementEffect mv) s

/-- Whether a port's `DERATE` falls now: d_q lies below it, and the port is muted or at a gate-off sample (03 R76). -/
def Dev.derateDue (d : Dev) (p : Nat) : Bool :=
  decide ((d.port p).dqWin ≠ [] ∧ (d.port p).dq < (d.port p).derate) && !d.sending p

/-- Effect of DERATE_DECREASE: `DERATE` falls to d_q on the port, and at the same sample on every port of its group for which it is due: one
change, one event (03 R76). -/
def derateDecreaseEffect (p : Nat) (d : Dev) : Dev :=
  if d.dev = .off ∨ !d.derateDue p then d
  else d.setDerate (((groupPorts (portGroup p)).filter d.derateDue).map (fun q => (q, (d.port q).dq)))

/-- DERATE_DECREASE. -/
def execDerateDecrease (p : Fin 128) (s : State) : Host.Outcome State Fault Refusal := run (derateDecreaseEffect p) s

/-! ### Driver faults (03 R77, R78) -/

/-- A port leaves service: its canceller enters IDLE (04 R107); a training that runs on it ends without a pass, one that has
only been granted waits again (21 R489). -/
def Dev.leaveService (d : Dev) (p : Nat) : Dev :=
  let training := decide ((d.port p).ech = .training)
  let d := d.toIdle p
  if training then d.endMnt 2 p (unsigned 12 (d.port p).supp) EchState.idle.code 0 else d.requeueMnt 2 p

/-- A port leaves service, and its group's state follows. -/
def Dev.portOut (d : Dev) (p : Nat) : Dev := (d.leaveService p).portChanged (portGroup p)

/-- The time in ns for which a driver's output current exceeded `OC_LIMIT` (20 mA units). -/
def Dev.overTime (d : Dev) (p : Nat) (amps : List (Nat × Nat)) : Nat :=
  ((amps.filter (fun r => decide (d.fld (Reg.portLim (portGroup p) (p % 4)) 7 0 * 20 < r.2))).map (fun r => r.1)).foldl (· + ·) 0

/-- The last 1 ms of runs of (ns, mA), oldest first. -/
def lastMs (amps : List (Nat × Nat)) : List (Nat × Nat) :=
  (amps.foldr (fun r (acc : Nat × List (Nat × Nat)) =>
    let n := min r.1 (1000000 - acc.1)
    (acc.1 + n, if n = 0 then acc.2 else (n, r.2) :: acc.2)) (0, [])).2

/-- Effect of DRIVER_OVERCURRENT: `amps` is the driver's output current over the last 1 ms. More than 10 µs of it above the limit take the
port out of service, a thermal fault that already mutes it or not (03 R77, R86). -/
def driverOvercurrentEffect (p : Nat) (amps : List (Nat × Nat)) (d : Dev) : Dev :=
  let x := d.port p
  if d.dev ≠ .run ∨ x.ocFault ∨ d.overTime p (lastMs amps) ≤ 10000 then d
  else
    let again := match x.ocReturn with | some c => decide (d.clk < c + usClk 1000000) | none => false
    let d := d.modPort p (fun x => { x with ocFault := true, ocAt := d.clk, ocPend := true, enabled := false,
                                            calOk := false, ocBarred := x.ocBarred || again })
    let d := (d.raise (.port (portGroup p) (p % 4)) 31).event 0x0203 stOk p [1]
    d.portOut p

/-- DRIVER_OVERCURRENT. -/
def execDriverOvercurrent (p : Fin 128) (amps : List (Nat × Nat)) (s : State) : Host.Outcome State Fault Refusal :=
  run (driverOvercurrentEffect p amps) s

/-- `FOLD_TEMP` of a port. -/
def Dev.foldTemp (d : Dev) (p : Nat) : Int := d.fld (Reg.portLim (portGroup p) (p % 4)) 23 16

/-- Effect of DRIVER_THERMAL_FAULT. -/
def driverThermalFaultEffect (p : Nat) (temp : Int) (d : Dev) : Dev :=
  if d.dev = .off then d
  else
    let d := d.modPort p (fun x => { x with temp := temp })
    if !d.dev.live ∨ (d.port p).thFault ∨ temp ≤ d.foldTemp p then d
    else
      let d := d.modPort p (fun x => { x with thFault := true, enabled := false, calOk := false })
      let d := (d.raise (.port (portGroup p) (p % 4)) 30).event 0x0203 stOk p [2]
      d.portOut p

/-- DRIVER_THERMAL_FAULT. -/
def execDriverThermalFault (p : Fin 128) (temp : Int) (s : State) : Host.Outcome State Fault Refusal :=
  run (driverThermalFaultEffect p temp) s

/-- The calibration that brings a port back is asked for by the device itself, unless the port is barred, its quadrant is
down, or its group is DOWN (03 R78, 01 R34, 22 R504). -/
def Dev.recover (d : Dev) (p : Nat) : Dev :=
  let x := d.port p
  if x.ocFault ∨ x.thFault ∨ x.ocBarred ∨ bit d.pwr.qdown (portQuad p) ∨ !d.portEn p ∨ d.role p = 7 ∨
      (d.group (portGroup p)).st = .down then d
  else d.askMnt 1 p none

/-- Effect of DRIVER_FAULT_CLEAR: a thermal fault clears 10 degrees below the limit, an over-current 100 ms after its mute;
calibration follows once both have cleared (03 R78, R86). -/
def driverFaultClearEffect (p : Nat) (temp : Int) (d : Dev) : Dev :=
  if d.dev = .off then d
  else
    let d := d.modPort p (fun x => { x with temp := temp })
    let x := d.port p
    if !(x.ocFault || x.thFault) then d
    else
      let th := x.thFault && decide (d.foldTemp p - 10 < temp)
      let oc := x.ocFault && decide (d.clk < x.ocAt + usClk 100000)
      let d := d.modPort p (fun x => { x with thFault := th, ocFault := oc })
      if th || oc then d else d.recover p

/-- DRIVER_FAULT_CLEAR. -/
def execDriverFaultClear (p : Fin 128) (temp : Int) (s : State) : Host.Outcome State Fault Refusal :=
  run (driverFaultClearEffect p temp) s

/-! ### Converter calibration (03 R79, 21 R476, 22 R502) -/

/-- Converter calibration starts on a port: it leaves service for the canceller, which enters IDLE. -/
def Dev.startCal (d : Dev) (p : Nat) : Dev := (d.toIdle p).modPort p (fun x => { x with calib := true, enabled := false })

/-- Whether the checks of R79 pass: offsets in codes, gains in 1/1000 dB. -/
def CalPasses (r : CalResult) : Bool :=
  decide (absI r.sadcOfs ≤ 64 ∧ absI r.madcOfs ≤ 64 ∧ absI r.ratioErr ≤ 250 ∧ absI r.ldacErr ≤ 200 ∧ absI r.cdacErr ≤ 200)

/-- The commands that name a calibration of a port. -/
def Dev.calNamed (d : Dev) (p : Nat) : Bool :=
  match d.runOf 1 p with | some r => decide (d.mntCmds r.req ≠ []) | none => false

/-- Effect of PORT_CAL_DONE. A calibration that ends while a driver fault stands brings nothing back: one follows the fault's end (03 R78). -/
def portCalDoneEffect (p : Nat) (r : CalResult) (d : Dev) : Dev :=
  if d.dev ≠ .run ∨ !(d.port p).calib then d
  else
    let g := portGroup p
    let pass := CalPasses r && !bit d.pwr.qdown (portQuad p)
    let back := pass && !(d.port p).ocFault && !(d.port p).thFault
    let named := d.calNamed p
    let d := d.modPort p (fun x => { x with
      calib := false, calFail := !pass, calOk := back, trainOk := x.trainOk || back, ldacTrim := r.ldacTrim
      sadcOfs := r.sadcOfs, madcOfs := r.madcOfs, ocBarred := x.ocBarred && !(back && named)
      ocReturn := if back && x.ocPend then some d.clk else x.ocReturn, ocPend := x.ocPend && !back })
    let d := if pass then d else d.event 0x0203 stOk p [4]
    if (d.group g).st = .calibrating then
      let d := if (d.enabledPorts g).all (fun q => !(d.port q).calib) then
          d.modGroup g (fun x => { x with calBp := some d.msync.bpi }) else d
      d.judgeCal g
    else
      let d := d.endMnt 1 p 0 0 (b2n pass)
      let d := d.portChanged g
      if d.inService p && (d.group g).st.up then d.askMnt 2 p none else d

/-- PORT_CAL_DONE. -/
def execPortCalDone (p : Fin 128) (res : CalResult) (s : State) : Host.Outcome State Fault Refusal :=
  run (portCalDoneEffect p res) s

/-! ### Quadrants and temperature (22 R504) -/

/-- A sensor reading is noted: sensors 0 to 3 are the quadrants', 4 to 7 the digital die's. -/
def Dev.setTemp (d : Dev) (n : Nat) (temp : Int) : Dev := { d with pwr := { d.pwr with temps := setAt d.pwr.temps n temp } }

/-- `TALERT_TH`. -/
def Dev.talertTh (d : Dev) : Int := d.fld Reg.pwrTherm 7 0
/-- `QSHUT_TH`. -/
def Dev.qshutTh (d : Dev) : Int := d.fld Reg.pwrTherm 15 8

/-- Effect of TALERT_ASSERT. -/
def talertAssertEffect (n : Nat) (temp : Int) (d : Dev) : Dev :=
  if d.dev = .off then d
  else
    let d := d.setTemp n temp
    if d.pwr.talert ∨ temp < d.talertTh then d
    else ({ d with pwr := { d.pwr with talert := true } }).setFld Reg.pwrStat 2 2 1

/-- TALERT_ASSERT. -/
def execTalertAssert (n : Fin 8) (temp : Int) (s : State) : Host.Outcome State Fault Refusal :=
  run (talertAssertEffect n temp) s

/-- The ports of a quadrant. -/
def quadPorts (q : Nat) : List Nat := (List.range 32).map (fun i => 32 * q + i)

/-- Effect of QUADRANT_SHUTDOWN: streams absent, ports out of service (05 R130, 01 Table OR.6). -/
def quadrantShutdownEffect (q : Nat) (temp : Int) (d : Dev) : Dev :=
  if d.dev = .off then d
  else
    let d := d.setTemp q temp
    if temp < d.qshutTh ∨ bit d.pwr.qdown q then d
    else
      let d := d.setFld Reg.pwrStat 3 3 1
      let d := (quadPorts q).foldl (fun d p => d.modPort p (fun x => { x with quadWas := d.inService p })) d
      let d := { d with pwr := { d.pwr with qdown := setBit d.pwr.qdown q } }
      let d := if bit d.present q then
          ({ d with present := d.present - 2 ^ q, gaps := (q, d.tb.n, none) :: d.gaps }).raise .car 3 else d
      let d := (quadPorts q).foldl (fun d p =>
        d.modPort p (fun x => { x with enabled := false, calOk := false })) d
      let d := (quadPorts q).foldl (fun d p => d.leaveService p) d
      (List.range 8).foldl (fun d i => d.portChanged (8 * q + i)) d

/-- QUADRANT_SHUTDOWN. -/
def execQuadrantShutdown (q : Fin 4) (temp : Int) (s : State) : Host.Outcome State Fault Refusal :=
  run (quadrantShutdownEffect q temp) s

/-- The absence of a quadrant's streams ends with this sample (05 R130). -/
def Dev.endGap (d : Dev) (q : Nat) : List (Nat × Nat × Option Nat) :=
  d.gaps.map (fun x => if x.1 = q ∧ x.2.2.isNone then (x.1, x.2.1, some d.tb.n) else x)

/-- Effect of QUADRANT_POWER_UP: 15 degrees below the limit; the ports in service at the shutdown return by calibration. -/
def quadrantPowerUpEffect (q : Nat) (temp : Int) (d : Dev) : Dev :=
  if d.dev = .off then d
  else
    let d := d.setTemp q temp
    if d.qshutTh - 15 < temp ∨ !bit d.pwr.qdown q then d
    else
      let back := d.tb.running && d.dev.clocked
      let d := { d with pwr := { d.pwr with qdown := d.pwr.qdown - 2 ^ q }, present := if back then setBit d.present q else d.present
                        gaps := if back then d.endGap q else d.gaps }
      (quadPorts q).foldl (fun d p =>
        if (d.port p).quadWas then (d.modPort p (fun x => { x with quadWas := false })).recover p else d) d

/-- QUADRANT_POWER_UP. -/
def execQuadrantPowerUp (q : Fin 4) (temp : Int) (s : State) : Host.Outcome State Fault Refusal :=
  run (quadrantPowerUpEffect q temp) s

/-! ### Set-up, recalibration and training commands (16 Table CE.3) -/

/-- Role codes that exist, and no role but none twice (03 R80). -/
def rolesOk (w : Nat) : Bool :=
  let rs := [bits w 2 0, bits w 6 4, bits w 10 8, bits w 14 12]
  rs.all (fun r => decide (r ≤ 3 ∨ r = 7)) && [0, 1, 2, 3].all (fun r => decide ((rs.filter (· = r)).length ≤ 1))

/-- Effect of GRP_SETUP. -/
def grpSetupEffect : CmdDesc → Dev → Dev :=
  command { CmdSpec.plain 0x10 with m1 := 0x77773FFF, m2 := 0xFFFF, lim2 := 32 }
    (fun d c => decide ((d.group c.n2).st = .down))
    (fun _ c => decide (c.f1 3 2 ≠ 3) && rolesOk (c.f1 31 16))
    (fun id c d =>
      let g := c.n2
      let d := (d.setFld (Reg.wfCtrl g) 1 0 (c.f1 1 0)).setFld (Reg.grpCtrl g) 1 0 (c.f1 3 2)
      let d := (d.setFld (Reg.grpCtrl g) 11 8 (c.f1 7 4)).setFld (Reg.ffCtrl g) 21 16 (c.f1 13 8)
      (d.setReg (Reg.grpRole g) (c.f1 30 16)).finishSt id stOk)

/-- GRP_SETUP. -/
def execGrpSetup (d : CmdDesc) (s : State) : Host.Outcome State Fault Refusal := run (grpSetupEffect d) s

/-- Effect of GRP_STOP (01 R33, R34). -/
def grpStopEffect : CmdDesc → Dev → Dev :=
  command { CmdSpec.plain 0x12 with m2 := 0xFFFF, lim2 := 32 } always always
    (fun id c d => ((d.startDone c.n2 stFlushed).groupDown c.n2).finishSt id stOk)

/-- GRP_STOP. -/
def execGrpStop (d : CmdDesc) (s : State) : Host.Outcome State Fault Refusal := run (grpStopEffect d) s

/-- A port's group is not DOWN. -/
def portGroupUp (d : Dev) (c : CmdDesc) : Bool := decide ((d.group (portGroup c.n2)).st ≠ .down)

/-- Effect of PORT_RECAL (21 R477, R478). -/
def portRecalEffect : CmdDesc → Dev → Dev :=
  command { CmdSpec.plain 0x13 with m2 := 0xFFFF, lim2 := 128 } portGroupUp always (fun id c d => d.askMnt 1 c.n2 (some id))

/-- PORT_RECAL. -/
def execPortRecal (d : CmdDesc) (s : State) : Host.Outcome State Fault Refusal := run (portRecalEffect d) s

/-- Effect of ECH_TRAIN (21 R477, R478). For a port already in TRAINING it completes with the running training's result, in a group's
start too, where no arbiter's grant runs it (04 Table FD.7). -/
def echTrainEffect : CmdDesc → Dev → Dev :=
  command { CmdSpec.plain 0x14 with m2 := 0xFFFF, lim2 := 128 } portGroupUp always (fun id c d =>
    if (d.port c.n2).ech = .training ∧ (d.runOf 2 c.n2).isNone then d.joinStart c.n2 id else d.askMnt 2 c.n2 (some id))

/-- ECH_TRAIN. -/
def execEchTrain (d : CmdDesc) (s : State) : Host.Outcome State Fault Refusal := run (echTrainEffect d) s

/-! ### Shaping banks (06 R158-R163) -/

/-- Start a fade on a port that is stable on the other bank. -/
def Dev.startFade (d : Dev) (p fs : Nat) (cmd : Option Nat) : Dev :=
  d.modPort p (fun x => { x with fade := some { i := 0, len := fs * 73728, src := x.bank, cmd := cmd } })

/-- A swap request meets a filter that is not fading: at once, or as a fade (06 R160). -/
def Dev.swapTo (d : Dev) (p : Nat) (target : Bool) (fs : Nat) (cmd : Option Nat) : Dev :=
  if (d.port p).bank = target then d.finishOpt cmd stOk else d.startFade p fs cmd

/-- F_S of a request: 0 selects `FADE_SYM`. -/
def Dev.fadeLen (d : Dev) (p fs : Nat) : Nat := if fs = 0 then d.fld (Reg.wfCtrl (portGroup p)) 27 20 else fs

/-- Whether shaping changes at once: in CONFIG, or with the group in DOWN (06 R162, R163). -/
def Dev.shapeFree (d : Dev) (p : Nat) : Bool := decide (d.dev = .config ∨ (d.group (portGroup p)).st = .down)

/-- Effect of SHAPE_SWAP. -/
def shapeSwapEffect : CmdDesc → Dev → Dev :=
  command { CmdSpec.plain 0x17 with m1 := 0xFF01, m2 := 0xFFFF, lim2 := 128 } always
    (fun _ c => decide (c.f1 15 8 ≤ 128))
    (fun id c d =>
      let p := c.n2
      let target := decide (c.f1 0 0 = 1)
      let fs := d.fadeLen p (c.f1 15 8)
      if d.shapeFree p then (d.modPort p (fun x => { x with bank := target })).finishSt id stOk
      else
        match (d.port p).fade with
        | none => d.swapTo p target fs (some id)
        | some _ =>
          let d := match (d.port p).swap with
            | some w => d.finishOpt w.cmd stSuperseded
            | none => d
          d.modPort p (fun x => { x with swap := some { target := target, fs := fs, cmd := some id } }))

/-- SHAPE_SWAP. -/
def execShapeSwap (d : CmdDesc) (s : State) : Host.Outcome State Fault Refusal := run (shapeSwapEffect d) s

/-- Effect of FADE_END: i has reached L_F; a pending swap is then handled (06 R159, R161). -/
def fadeEndEffect (p : Nat) (d : Dev) : Dev :=
  match (d.port p).fade with
  | none => d
  | some f =>
    if f.i < f.len then d
    else
      let d := (d.modPort p (fun x => { x with fade := none, bank := !f.src })).finishOpt f.cmd stOk
      match (d.port p).swap with
      | none => d
      | some w => (d.modPort p (fun x => { x with swap := none })).swapTo p w.target w.fs w.cmd

/-- FADE_END. -/
def execFadeEnd (p : Fin 128) (s : State) : Host.Outcome State Fault Refusal := run (fadeEndEffect p) s

/-- Effect of SHAPE_LOAD (06 R162). -/
def shapeLoadEffect : CmdDesc → Dev → Dev :=
  command { CmdSpec.plain 0x16 with len := fun _ n => decide (n = 256), m1 := 1, m2 := 0xFFFF, lim2 := 128 } always
    (fun _ c => (List.range 64).all (fun t => decide (leAt c.bytes (4 * t) 4 < 2 ^ 18)))
    (fun id c d =>
      let p := c.n2
      let x := c.f1 0 0
      let idle := (d.port p).fade.isNone && decide (b2n (d.port p).bank ≠ x)
      if d.shapeFree p || idle then
        (iter 64 (fun t d => d.setReg (Reg.shape (portGroup p) (p % 4) x t) (leAt c.bytes (4 * t) 4)) d).finishSt id stOk
      else (d.raise (.wf (portGroup p) (p % 4)) 28).finishSt id stBankBusy)

/-- SHAPE_LOAD. -/
def execShapeLoad (d : CmdDesc) (s : State) : Host.Outcome State Fault Refusal := run (shapeLoadEffect d) s

end Sys2Proof.Machine
end

