-- ==== Sys2Proof/Machine/Duplex.lean ====
section
/-! DEFINITION. Full duplex: cold training, residue windows, quiet intervals, divergence and the duplex margin (04). -/

namespace Sys2Proof.Machine

/-! ### Published levels (04 R96, R97) -/

/-- The published pair E, U of a port for a source slot; none where unmeasured. -/
def Port.level (x : Port) (q : Nat) : Option (Int × Int) := (x.lvl.find? (fun e => decide (e.1 = q))).map (fun e => e.2)

/-- Publish a pair. -/
def Port.publish (x : Port) (q : Nat) (e u : Int) : Port := { x with lvl := SMap.put q (e, u) x.lvl }

/-- Publish a pair on a port; the suppression figure follows the port's own pair. An N port has no own source. -/
def Dev.publish (d : Dev) (p q : Nat) (e u : Int) : Dev :=
  if q = p % 4 ∧ !d.isL p then d
  else d.modPort p (fun x => { x.publish q e u with supp := if q = p % 4 then e - u else x.supp })

/-- A measured level in 0.25 dB units, referred to its source at full level: the attenuation in force is added back (04 R96). -/
def Dev.referred (d : Dev) (src : Nat) (v : Int) : Int := v + (2 * d.attenuation src : Nat)

/-- Publish a pair as measured. -/
def Dev.publishMeasured (d : Dev) (p q : Nat) (e u : Int) : Dev :=
  let src := 4 * portGroup p + q
  d.publish p q (d.referred src e) (d.referred src u)

/-- Whether source slot `q` has sent for 200 µs while nothing was received on port `p` (04 R97). -/
def Dev.quietOver (d : Dev) (p q : Nat) : Bool :=
  let base := ((d.port p).quiet.find? (fun e => decide (e.1 = q))).map (fun e => e.2)
  !d.receivesOn p && decide (base.getD 0 + 250000 ≤ (d.port (4 * portGroup p + q)).sent)

/-- Effect of QUIET_INTERVAL_END, in RUN: the pair of the first interval of a port and source that ends in a beacon period is published;
nothing is held of a further one (04 R97). -/
def quietIntervalEndEffect (p q : Nat) (e u : Int) (d : Dev) : Dev :=
  if d.dev ≠ .run ∨ !d.quietOver p q then d
  else
    let d' := if (d.port p).lvlBp.any (fun x => decide (x.1 = q ∧ x.2 = d.msync.bpi)) then d
      else (d.publishMeasured p q e u).modPort p (fun x => { x with lvlBp := SMap.put q d.msync.bpi x.lvlBp })
    d'.modPort p (fun x => { x with quiet := SMap.put q (d.port (4 * portGroup p + q)).sent x.quiet })

/-- QUIET_INTERVAL_END. -/
def execQuietIntervalEnd (p : Fin 128) (q : Fin 4) (e : Int) (u : Int) (s : State) : Host.Outcome State Fault Refusal :=
  run (quietIntervalEndEffect p q e u) s

/-! ### Cold training (04 R98-R101) -/

/-- Kind of a canceller-training allocation (10 Table GC.5). -/
def kindTraining : Nat := 3

/-- The frozen schedule of beacon period `n` in group `g`. -/
def Dev.planOf (d : Dev) (g n : Nat) : Option Plan := ((d.group g).frozen.find? (fun e => decide (e.1 = n))).map (fun e => e.2)

/-- Whether a port's cold training starts now: in its group's start, at a beacon period after the one in which the last
converter calibration ended (22 R502); else in the training slot of a granted request (04 R98, 21 R475). -/
def Dev.trainingDue (d : Dev) (p : Nat) : Bool :=
  let g := portGroup p
  let x := d.port p
  decide (d.dev = .run) && d.inService p && decide (x.ech ≠ .training) && decide (d.role p ≤ 3) &&
    (if (d.group g).st = .calibrating then
      !x.trainEnd && (match (d.group g).calBp with | some b => decide (b ≠ d.msync.bpi) | none => false)
     else
      match d.runOf 2 p with
      | none => false
      | some r =>
        (match r.placed with | some b => decide (bpSince b d.msync.bpi < 2 ^ 22) | none => false) &&
          (match d.planOf g d.msync.bpi with
           | some pl => pl.allocs.any (fun a => decide (a.kind = kindTraining ∧ d.unitStart a.start ≤ d.bpPhase))
           | none => false))

/-- Effect of ECH_TRAINING_START: TRAINING, `HELD` set, the stages fitted anew, and an L port's driver enabled for the training symbols, the
first of which leaves now (04 R99, R107; 03 R73). -/
def echTrainingStartEffect (p : Nat) (d : Dev) : Dev :=
  if !d.trainingDue p then d
  else
    d.modPort p (fun x => { x with ech := .training, held := true, divWin := 0, overPrev := false, goodWins := [], trainAsk := false
                                   enabled := d.isL p && !d.pwr.ovMute, trainAt := some d.tb.n, pre := [], td := [], corr := [] })

/-- ECH_TRAINING_START. -/
def execEchTrainingStart (p : Fin 128) (s : State) : Host.Outcome State Fault Refusal := run (echTrainingStartEffect p) s

/-- Whether a limit code occurred from quarter `k` of a training on (04 R100). -/
def Dev.clippedFrom (d : Dev) (p k : Nat) (clips : List Nat) : Bool :=
  clips.any (fun c => decide (k * d.trainLen (portGroup p) ≤ 4 * c ∧ c < d.trainLen (portGroup p)))

/-- Whether a cold training passes (04 R100). -/
def Dev.trainingPasses (d : Dev) (p : Nat) (r : TrainResult) : Bool :=
  if d.isL p then
    let own := (r.lvl.find? (fun e => decide (e.1 = p % 4))).map (fun e => e.2.1 - e.2.2)
    (match own with | some s => decide ((4 * d.fld (Reg.echThr (portGroup p)) 15 8 : Int) ≤ s) | none => false) &&
      !d.clippedFrom p 1 r.clips && r.bulk.isSome
  else !d.clippedFrom p 3 r.clips

/-- Whether the symbols of a port's training have all been sent. -/
def Dev.trainingSent (d : Dev) (p : Nat) : Bool :=
  match (d.port p).trainAt with | some t => decide (t + d.trainLen (portGroup p) ≤ d.tb.n) | none => false

/-- Coefficients of 18 bits. -/
def coefs18 (n : Nat) (cs : List Int) : List Int := (cs.take n).map sat18

/-- Residual tables as they are held: 18-bit real and imaginary parts, a coefficient per block of four carriers (04 R95). -/
def Dev.tables (d : Dev) (g : Nat) (ts : List (Nat × List (Int × Int))) : List (Nat × List (Int × Int)) :=
  ts.map (fun t => (t.1, (t.2.take (profFft (d.profile g) / 8)).map (fun c => (sat18 c.1, sat18 c.2))))

/-- The energy of coefficients. -/
def energy (cs : List Int) : Nat := (sumBy (fun c => c * c) cs).toNat

/-- What a cold training has measured and fitted: levels and coefficients of the port for every source, and where an L port has trained,
those of the group's other ports for it (04 R98, Table FD.2). -/
def Dev.takeTraining (d : Dev) (p : Nat) (r : TrainResult) : Dev :=
  let g := portGroup p
  let d := r.lvl.foldl (fun d e => d.publishMeasured p (e.1 % 4) e.2.1 e.2.2) d
  let d := d.modPort p (fun x => { x with
    pre := coefs18 32 r.pre, td := coefs18 96 r.td, tdRef := energy (coefs18 96 r.td), tabs := d.tables g r.tabs, corr := []
    bulkDly := match r.bulk with | some b => b % 256 | none => x.bulkDly })
  if !d.isL p then d
  else
    let d := (r.others.filter (fun e => decide (e.1 % 4 ≠ p % 4))).foldl (fun d e =>
      d.publishMeasured (4 * g + e.1 % 4) (p % 4) e.2.1 e.2.2) d
    ((d.tables g r.otherTabs).filter (fun e => decide (e.1 % 4 ≠ p % 4))).foldl (fun d e =>
      d.modPort (4 * g + e.1 % 4) (fun x => { x with tabs := SMap.put (p % 4) e.2 x.tabs })) d

/-- Effect of ECH_TRAINING_DONE, after the last training symbol (04 R99-R101, R107; 21 R478; limit codes: 03 R69). -/
def echTrainingDoneEffect (p : Nat) (r : TrainResult) (d : Dev) : Dev :=
  if (d.port p).ech ≠ .training ∨ !d.trainingSent p then d
  else
    let g := portGroup p
    let pass := d.trainingPasses p r
    let asked := match d.runOf 2 p with | some x => decide (d.mntCmds x.req ≠ []) | none => false
    let d := (d.takeTraining p r).raiseN (.port g (p % 4)) 28 r.clips.length
    let d := d.modPort p (fun x => { x with enabled := false, trainEnd := true, winAt := x.sent, seen := max x.seen d.tb.n })
    let supp := unsigned 12 (d.port p).supp
    let hdx := d.flag (Reg.echCtrl g) 2
    let d := if pass then d.modPort p (fun x => { x with ech := .converged })
      else
        let d := ((d.toIdle p).raise (.ech g (p % 4)) 29).modPort p (fun x => { x with trainOk := hdx })
        if asked then d else d.event 0x0205 stOk p (leBytes 2 supp)
    let d := d.endMnt 2 p supp (d.port p).ech.code 0
    d.portChanged g

/-- ECH_TRAINING_DONE. -/
def execEchTrainingDone (p : Fin 128) (res : TrainResult) (s : State) : Host.Outcome State Fault Refusal :=
  run (echTrainingDoneEffect p res) s

/-! ### Tracking and divergence (04 R102-R107) -/

/-- The first sample with B = 1 that a port sends: a CONVERGED canceller starts tracking (04 R107). -/
def Dev.trackStart (d : Dev) (p : Nat) : Dev :=
  if (d.port p).ech = .converged ∧ d.flag (Reg.echCtrl (portGroup p)) 1 then d.modPort p (fun x => { x with ech := .tracking })
  else d

/-- A waiting training request of the device's own is withdrawn, unless a command has been merged with it (04 R106). -/
def Dev.withdrawTraining (d : Dev) (p : Nat) : Dev :=
  { d with mnt := { d.mnt with reqs := d.mnt.reqs.filter (fun r =>
      !(decide (r.kind = 2) && r.ports.contains p && decide (d.mntCmds r = []))) } }

/-- Whether 16 µs of transmit activity have passed since the window in progress began (04 R104). -/
def Dev.windowDue (d : Dev) (p : Nat) : Bool := decide ((d.port p).winAt + 20000 ≤ (d.port p).sent)

/-- Whether some port of the group sends in sample `n`. -/
def Dev.anySource (d : Dev) (g n : Nat) : Bool := (groupPorts g).any (fun q => d.inService q && d.emits q n)

/-- Whether the MADC gave a limit code while a source transmitted, in samples from count `n0` on (04 R104). -/
def Dev.clipsWhileSending (d : Dev) (p n0 : Nat) (ss : List ConvSpan) : Bool :=
  ss.any (fun s => isLimit s.madc && (List.range (s.b - s.a).toNat).any (fun i => d.anySource (portGroup p) (n0 + s.a.toNat + i)))

/-- The step exponent: `MU_DT_EXP` while a frame is received on the port (04 R102). -/
def Dev.stepExp (d : Dev) (p : Nat) : Nat :=
  if d.receivesOn p then d.fld (Reg.echStep (portGroup p)) 12 8 else d.fld (Reg.echStep (portGroup p)) 4 0

/-- One block of 16 samples from sample count `n` on, its MADC codes given: the time-domain coefficients after it (04 R102). A block in which
the port sends nothing leaves them. -/
def Dev.adaptBlock (d : Dev) (p n : Nat) (madc td : List Int) : List Int :=
  if !(List.range 16).any (fun i => d.emits p (n + i)) then td
  else
    let from_ := n - (d.port p).bulkDly - 95
    let refs := (List.range 111).map (fun i => d.ldac p (from_ + i))
    let errs := (madc.zip (List.range 16)).map (fun (x : Int × Nat) => x.1 - d.echoOver p (d.rxGainOf p) td (n + x.2))
    (List.range 96).map (fun t => sat18 (Config.nlms (d.stepExp p) td refs errs t))

/-- The blocks of a window, one after the other. -/
def Dev.adapt (d : Dev) (p : Nat) : Nat → Nat → List Int → List Int → List Int
  | 0, _, _, td => td
  | fuel + 1, n, madc, td =>
    if madc.length < 16 then td else Dev.adapt d p fuel (n + 16) (madc.drop 16) (d.adaptBlock p n (madc.take 16) td)

/-- The MADC codes of spans, sample by sample. -/
def madcCodes (ss : List ConvSpan) : List Int := ss.flatMap (fun s => List.replicate (s.b - s.a).toNat s.madc)

/-- What the port's reference and its MADC samples from sample count `n0` on add to the correlation of each tap (04 R105). -/
def Dev.correlate (d : Dev) (p n0 : Nat) (madc corr : List Int) : List Int :=
  (List.range 32).map (fun t => corr.getD t 0 +
    sumBy (fun (x : Int × Nat) => if n0 + x.2 < t then 0 else x.1 * d.ldac p (n0 + x.2 - t)) (madc.zip (List.range madc.length)))

/-- The end of a window in CONVERGED or TRACKING (04 R104): `residue` is its highest estimate referred to full level, `limit` whether a limit
code fell while a source transmitted. -/
def Dev.windowTracking (d : Dev) (p : Nat) (residue : Int) (limit : Bool) : Dev :=
  let g := portGroup p
  let x := d.port p
  let above := match x.level (p % 4) with
    | some l => decide (l.2 + (4 * d.fld (Reg.echThr g) 3 0 : Int) < residue)
    | none => false
  if (above && x.overPrev) || limit || decide (4 * x.tdRef < energy x.td) then
    let d := d.modPort p (fun x => { x with ech := .diverged, held := true, divWin := 0, overPrev := false, goodWins := [],
                                            trainAsk := false })
    let d := d.raise (.ech g (p % 4)) 31
    let d := if limit then d.raise (.ech g (p % 4)) 30 else d
    d.event 0x0204 stOk p (leBytes 1 (b2n limit) ++ leBytes 2 (unsigned 16 residue))
  else
    d.modPort p (fun x => { x with overPrev := above })

/-- The end of a window in DIVERGED (04 R105, R106). -/
def Dev.windowDiverged (d : Dev) (p : Nat) (residue : Int) (limit : Bool) : Dev :=
  let g := portGroup p
  let e := match (d.port p).level (p % 4) with | some l => l.1 | none => 0
  let d := d.publish p (p % 4) e residue
  let good := decide ((4 * d.fld (Reg.echThr g) 15 8 : Int) ≤ e - residue) && !limit
  let wins := if good then residue :: (d.port p).goodWins else []
  if 4 ≤ wins.length then
    let d := d.publish p (p % 4) e ((wins.take 4).foldl max residue)
    let d := if (d.port p).trainAsk then d.withdrawTraining p else d
    d.modPort p (fun x => { x with ech := .tracking, divWin := 0, goodWins := [], trainAsk := false })
  else d.modPort p (fun x => { x with goodWins := wins, divWin := x.divWin + 1 })

/-- Effect of ECH_WINDOW_END, once 16 µs of transmit activity have passed: the samples are judged, the coefficients adapted in TRACKING and
DIVERGED (04 R102), the window's running residue and limit codes weighed. A window without an estimate counts as at the lowest level. -/
def echWindowEndEffect (p : Nat) (o : WindowObs) (d : Dev) : Dev :=
  let ech := (d.port p).ech
  if !(decide (ech = .converged ∨ ech = .tracking ∨ ech = .diverged) && d.windowDue p) then d
  else
    let n0 := d.tb.n - pinLen o.pins
    let ss := d.convertAll p n0 (pinSpans 0 o.pins)
    let limit := d.clipsWhileSending p n0 ss
    let residue := d.referred p (o.ests.foldl max (-2048))
    let codes := madcCodes ss
    let td := if ech = .converged then (d.port p).td else d.adapt p codes.length n0 codes (d.port p).td
    let corr := if ech = .diverged then d.correlate p n0 codes (d.port p).corr else (d.port p).corr
    let d := (d.noteSamples p n0 (pinLen o.pins - 8) ss (d.blankSpans p n0 ss)).modPort p (fun x => { x with
      winAt := x.winAt + 20000, td := td, corr := corr })
    if ech = .diverged then d.windowDiverged p residue limit else d.windowTracking p residue limit

/-- ECH_WINDOW_END. -/
def execEchWindowEnd (p : Fin 128) (obs : WindowObs) (s : State) : Host.Outcome State Fault Refusal :=
  run (echWindowEndEffect p obs) s

/-- Effect of ECH_DIV_LIMIT: cold training is requested once (04 R106). -/
def echDivLimitEffect (p : Nat) (d : Dev) : Dev :=
  let x := d.port p
  if x.ech = .diverged ∧ d.fld (Reg.echThr (portGroup p)) 31 16 ≤ x.divWin ∧ !x.trainAsk then
    (d.modPort p (fun x => { x with trainAsk := true })).askMnt 2 p none
  else d

/-- ECH_DIV_LIMIT. -/
def execEchDivLimit (p : Fin 128) (s : State) : Host.Outcome State Fault Refusal := run (echDivLimitEffect p) s

/-! ### The duplex margin (04 R108-R111) -/

/-- The term of a source in the sum of R108, in 0.25 dB units: U(p,q) less `TX_ATTEN` of q. -/
def Dev.duplexTerm (d : Dev) (p src : Nat) : Option Int :=
  ((d.port p).level (src % 4)).map (fun l => l.2 - (2 * d.fld (Reg.portCfg (portGroup src) (src % 4)) 13 8 : Int))

/-- Whether M is at least 0 dB, or 3 dB while `HELD` is 1, for a noise floor in 0.25 dB units: the powers of the sources
add to no more than the noise floor less 9 dB and the threshold (04 R108, R109). -/
def Dev.marginOk (d : Dev) (p : Nat) (nf : Int) (terms : List Int) : Bool :=
  let lim := nf - 36 - (if (d.port p).held then 12 else 0)
  match terms with
  | [t] => decide (t ≤ lim)
  | _ => decide ((terms.map quarterDb).foldl (· + ·) 0 ≤ quarterDb lim)

/-- R109 for one receive port at a receive gain, against the noise floor of its link and its sources. -/
def Dev.overlapOk (d : Dev) (p gain : Nat) (nf : Option Int) (sources : List Nat) : Bool :=
  let g := portGroup p
  if sources = [] then true
  else
    let terms := sources.map (fun q => d.duplexTerm p q)
    d.flag (Reg.echCtrl g) 0 && decide ((d.port p).ech = .converged ∨ (d.port p).ech = .tracking) &&
      terms.all Option.isSome && decide (gain = d.fld (Reg.echCtrl g) 11 8) &&
      (match nf with | none => false | some v => d.marginOk p v (terms.filterMap id))

end Sys2Proof.Machine
end

