-- ==== Sys2Proof/Machine/Maps.lean ====
section
/-! DEFINITION. Tone-map sets in the device: segments, STALE marks, sounding sessions, rebuilds, updates and commits
(09 R217-R243), and the links of Table GC.6 (10 R259). -/

namespace Sys2Proof.Machine

/-! ### Links (10 Table GC.6) -/

/-- A link's coupling, receive taps and drive outputs. -/
structure NodeLink where
  cpl  : Nat
  taps : List Nat
  outs : List Nat

/-- The TPC link of a group; none without an L port in service. -/
def Dev.tpcLink (d : Dev) (g : Nat) : Option NodeLink :=
  if (d.lPorts g).isEmpty then none
  else some { cpl := 1, taps := d.lPorts g ++ d.nPorts g, outs := d.lPorts g }

/-- The link of a node; none where its ports are out of service. -/
def Dev.linkOf (d : Dev) (nh : Nat) : Option NodeLink :=
  let n := d.node nh
  let g := n.grp
  let mode := d.fld (Reg.grpCtrl g) 1 0
  if n.phase = 0 then d.tpcLink g
  else if mode = 0 then
    match (d.lPorts g).find? (fun p => decide (d.role p + 1 = n.phase)) with
    | none => none
    | some p => some { cpl := 0, taps := p :: d.nPorts g, outs := [p] }
  else if mode = 2 ∧ n.mimoCap ∧ d.mimoOk nh then
    if (d.lPorts g).length = 3 then
      some { cpl := 2, taps := d.lPorts g ++ d.nPorts g, outs := d.lPorts g }
    else none
  else d.tpcLink g

/-- Whether a node's coupling in force uses a port. -/
def Dev.usesPort (d : Dev) (nh p : Nat) : Bool := match d.linkOf nh with | some l => l.taps.contains p | none => false

/-! ### Segments and slots (02 R53, R54; 09 R233, R234) -/

/-- The short address of broadcasts and of contention. -/
def addrAll : Nat := 1023

/-- The node whose frames an entry serves. -/
def Dev.entryNode (d : Dev) (g addr : Nat) : Option Nat := if addr = addrAll then none else d.bySaddr g addr

/-- The segments of a beacon period: index, and the schedule phase at which each starts and ends (02 R53, R54). -/
def Dev.segSpans (d : Dev) : List (Nat × Nat × Nat) :=
  (List.range 32).map (fun i =>
    let half := i / 8
    let k := i % 8
    let neg := decide (half % 2 = 1)
    (8 * (half % 2) + k, half * 2 ^ 23 + d.bound neg k, half * 2 ^ 23 + (if k = 7 then 2 ^ 23 else d.bound neg (k + 1))))

/-- The segment indices that a span of slot units of a beacon period meets. -/
def Dev.spanSegs (d : Dev) (start len : Nat) : List Nat :=
  (d.segSpans.filterMap (fun s =>
    if max (start * unitPu) s.2.1 < min ((start + len) * unitPu) s.2.2 then some s.1 else none)).eraseDups

/-- The segment indices of an entry's allocation whose downlink keys of its node are STALE. -/
def Dev.staleSegs (d : Dev) (g : Nat) (e : EncEntry) : List Nat :=
  match d.entryNode g e.addr with
  | some nh => (d.spanSegs e.start e.len).filter (fun s => (d.key (keyIx nh false s)).stale)
  | none => []

/-- A mark or a commit in the very cycle of a slot's start counts as made before it: the slots that start now look again (09 R234). -/
def Dev.lookAgain (d : Dev) : Dev :=
  { d with encs := d.encs.map (fun (e : Nat × EncLane) =>
      match e.2.bound with
      | some b => if e.2.slotClk = d.clk then (e.1, { e.2 with stale := d.staleSegs e.2.grp b }) else e
      | none => e) }

/-! ### Sounding sessions (09 R221-R223, R241; 21 R477) -/

/-- The session of a node and direction that has not ended. -/
def Dev.openOf (d : Dev) (nh : Nat) (up : Bool) : Option Sess :=
  d.sess.find? (fun s => decide (s.nh = nh ∧ s.up = up) && !s.done)

/-- Change a session. -/
def Dev.modSess (d : Dev) (id : Nat) (f : Sess → Sess) : Dev :=
  { d with sess := d.sess.map (fun s => if s.id = id then f s else s) }

/-- Whether a session is with the arbiter, waiting or granted. -/
def Dev.sessAsked (d : Dev) (id : Nat) : Bool :=
  d.mnt.reqs.any (fun r => decide (r.sess = some id)) || d.mnt.runs.any (fun r => decide (r.req.sess = some id))

/-- Hand a session to the arbiter, where its node is not DORMANT, its ports are in service and their queues have room. -/
def Dev.askSession (d : Dev) (s : Sess) : Dev :=
  if (d.node s.nh).st = .dormant ∨ d.sessAsked s.id then d
  else
    match d.linkOf s.nh with
    | none => d
    | some l => if d.roomFor l.taps then d.enqueueMnt 3 l.taps none (some s.id) else d

/-- Ask for a sounding of segment indices in one direction of a node. A request that finds one of its node and direction is
merged with it (21 R477): a session without a place takes the indices in; those that one with a place does not cover wait, with their
mark, until it ends (DEDUCED from 09 R241, log 19). -/
def Dev.openSession (d : Dev) (nh : Nat) (up : Bool) (segs : Nat) (mark : Option Nat) (cmds : List Nat) : Dev :=
  match d.openOf nh up with
  | some s =>
    if s.endBp.isNone then
      d.modSess s.id (fun s => { s with segs := s.segs ||| segs, cmds := s.cmds ++ cmds, mark := s.mark.or mark })
    else
      let new := segs &&& (0xFFFF - (segs &&& s.segs))
      d.modSess s.id (fun s => { s with cmds := s.cmds ++ cmds, more := s.more ||| new
                                        moreMark := if new = 0 then s.moreMark else s.moreMark.or mark })
  | none =>
    let s : Sess := { id := d.nextId, nh := nh, up := up, segs := segs, got := 0, endBp := none, mark := mark, more := 0, moreMark := none, cmds := cmds,
                      frames := 0, lastFr := 0, done := false, rcvd := [] }
    ({ d with sess := d.sess ++ [s], nextId := d.nextId + 1 }).askSession s

/-- Commands all of whose sessions have ended complete with the segment indices measured; sessions that no command waits for
any more go. -/
def Dev.settleSessions (d : Dev) : Dev :=
  let waiting := fun (c : Nat) => d.sess.any (fun s => s.cmds.contains c && !s.done)
  let ready := ((d.sess.flatMap (fun s => s.cmds)).eraseDups).filter (fun c => !waiting c)
  let got := fun (c : Nat) => (d.sess.filter (fun s => s.cmds.contains c)).foldl (fun a s => a ||| s.got) 0
  let d' := ready.foldl (fun x c => x.finish c stOk (quints (got c) 0 0 0 0)) d
  let kept := d'.sess.map (fun s => { s with cmds := s.cmds.filter (fun c => !ready.contains c) })
  { d' with sess := kept.filter (fun s => !s.done || decide (s.cmds ≠ [])) }

/-- A session ends with the indices measured; the rest are asked for again (09 R223), with those that were asked for meanwhile. -/
def Dev.endSession (d : Dev) (s : Sess) (got : Nat) : Dev :=
  let mnt := { d.mnt with
    reqs := d.mnt.reqs.filter (fun r => decide (r.sess ≠ some s.id))
    runs := d.mnt.runs.filter (fun r => decide (r.req.sess ≠ some s.id)) }
  let d := { d with mnt := mnt }
  let d := d.modSess s.id (fun s => { s with got := got, done := true })
  let rest := s.segs &&& (0xFFFF - (s.segs &&& got)) ||| s.more
  let d := if rest = 0 then d else d.openSession s.nh s.up rest s.moreMark []
  d.settleSessions

/-! ### STALE (09 R240, R241) -/

/-- The keys with an ACTIVE copy that satisfy a predicate on node, direction and segment. -/
def Dev.activeKeys (d : Dev) (p : Nat → Bool → Nat → Bool) : List Nat :=
  (d.keys.filter (fun e => e.2.active.isSome && p (e.1 / 32) (decide (e.1 / 16 % 2 = 1)) (e.1 % 16))).map (fun e => e.1)

/-- Mark keys STALE for one cause: each is counted, and one event tells of them (16 Table CE.6). A commit of the key in the same cycle
clears the mark (09 R242). -/
def Dev.markStale (d : Dev) (ks : List Nat) (cause obj seg dirs grp : Nat) : Dev :=
  if ks = [] then d
  else
    let d := ks.foldl (fun d i => (d.modKey i (fun k => { k with stale := decide (k.swapAt ≠ some d.clk) })).raise .mar 0) d
    d.lookAgain.event 0x0401 stOk obj (leBytes 1 cause ++ leBytes 1 seg ++ leBytes 1 dirs ++ leBytes 1 grp)

/-- Mark both directions of nodes at a segment index, and ask for the soundings that a fresh mark leads to: none for a key
that is STALE with a session placed (09 R241). -/
def Dev.markSegment (d : Dev) (nhs : List Nat) (seg cause obj grp : Nat) : Dev :=
  let ks := d.activeKeys (fun nh _ s => nhs.contains nh && decide (s = seg))
  let need := ks.filter (fun i =>
    !((d.key i).stale && (match d.openOf (i / 32) (decide (i / 16 % 2 = 1)) with
                          | some s => bit (s.segs ||| s.more) seg | none => false)))
  let d := d.markStale ks cause obj seg 3 grp
  need.foldl (fun d i => d.openSession (i / 32) (decide (i / 16 % 2 = 1)) (2 ^ seg) (some d.msync.bpi) []) d

/-! ### Rebuilds and updates (09 R230, R231, Table TM.5, Table TM.6) -/

/-- An entry on the line, padded to a multiple of 4 bytes. -/
def Entry.padded (e : Entry) : List Byte := e.encode ++ List.replicate ((4 - e.encode.length % 4) % 4) 0

/-- Pack entries into parts of at most 16 entries whose message fits one MSDU: the part being filled, latest first. -/
def packParts : List (List Byte) → List (List Byte) → Nat → List (List (List Byte))
  | [], cur, _ => if cur = [] then [] else [cur.reverse]
  | e :: es, cur, size =>
    if cur = [] ∨ (cur.length < 16 ∧ size + e.length ≤ 16340) then packParts es (e :: cur) (size + e.length)
    else cur.reverse :: packParts es [e] e.length

/-- Send entries of set `i` in a MAP_UPDATE: version, boundary, the tag's serial, and whether it only repeats the entries in
force. -/
def Dev.sendMaps (d : Dev) (i ver effBp effSeg serial : Nat) (current : Bool) (entries : List Entry) : Dev :=
  let parts := packParts (entries.map Entry.padded) [] 0
  let np := parts.length
  (parts.zip (List.range np)).foldl (fun d x =>
    let body := leBytes 1 (i % 2 * 8 + ver) ++ leBytes 1 x.1.length ++ leBytes 2 effBp ++ leBytes 1 effSeg ++
      leBytes 1 ((np - 1) * 16 + x.2) ++ [0, 0] ++ x.1.flatten
    d.sendOwn (i / 2) 0x06 (((serial * 16 + x.2) * 32768 + i) * 2 + b2n current) none body) d

/-- Whether a queued message is an update of set `i` that no longer counts. -/
def staleUpdate (i : Nat) (m : Msdu) : Bool :=
  match m.origin with
  | .own 0x06 tag _ => decide (tag % 2 = 0 ∧ tag / 2 % 32768 = i) && !m.sentOnce
  | _ => false

/-- The keys of set `i` whose SHADOW has been written. -/
def Dev.builtKeys (d : Dev) (i : Nat) : List Nat :=
  ((List.range 16).map (fun s => i * 16 + s)).filter (fun k => (d.key k).built)

/-- Send the update of a BUILT set, with the count of sends it stands at. Its boundary is fixed as the first of its parts goes out
(`Dev.dateUpdate`). -/
def Dev.sendUpdate (d : Dev) (i sends : Nat) : Dev :=
  let ks := d.builtKeys i
  let es := ks.filterMap (fun k => (d.key k).shadow)
  let effSeg := (ks.map (fun k => k % 16)).foldl min 15
  let s := d.mapSet i
  let np := (packParts (es.map Entry.padded) [] 0).length
  let d := d.modNode (i / 2) (fun n =>
    { n with txq := n.txq.filter (fun m => !staleUpdate i m), heldq := n.heldq.filter (fun m => !staleUpdate i m) })
  let d := d.modMapSet i (fun s => { s with upd := .built, sent := false, effSeg := effSeg, sends := sends, nparts := np,
                                            acked := [], serial := s.serial + 1 })
  d.sendMaps i ((s.ver + 1) % 8) d.msync.bpi effSeg (s.serial + 1) false es

/-- A rebuild: entries for keys of set `i` are written to SHADOW and announced; held while the set is SCHEDULED. -/
def Dev.rebuild (d : Dev) (i : Nat) (es : List Entry) : Dev :=
  if es = [] then d
  else if (d.mapSet i).upd = .scheduled then
    d.modMapSet i (fun s => { s with heldR := s.heldR.filter (fun e => !es.any (fun x => decide (x.seg = e.seg))) ++ es })
  else
    let ver := ((d.mapSet i).ver + 1) % 8
    let d := es.foldl (fun d e => d.modKey (i * 16 + e.seg) (fun k =>
      { k with shadow := some { e with ver := ver }, built := true })) d
    d.sendUpdate i 1

/-- The set's current entries are sent again with the version in force and no commit (09 R236). -/
def Dev.resendCurrent (d : Dev) (i : Nat) : Dev :=
  let es := ((List.range 16).map (fun s => i * 16 + s)).filterMap (fun k => (d.key k).active)
  d.sendMaps i (d.mapSet i).ver d.msync.bpi 0 1 true es

/-- `BMAX` within what the node declared (09 R225). -/
def Dev.bmaxOf (d : Dev) (nh : Nat) : Nat := min (d.fld Reg.marLoad 31 28) (d.node nh).bmaxN

/-- Derive the entry of a key from its tone-group SNRs (09 R225-R227), and keep the latest SNR with the key. -/
def Dev.deriveKey (d : Dev) (nh : Nat) (up : Bool) (seg sndBp : Nat) (snrs : List Nat) (noise : List Int) : Entry × Dev :=
  let g := (d.node nh).grp
  let prof := d.profile g
  let e := deriveEntry (((d.mapSet (setIx nh up)).ver + 1) % 8) up seg prof (d.maskOf g) snrs noise (d.fld Reg.marLoad 7 0)
    (d.bmaxOf nh) (d.fld Reg.marLoad 26 24) sndBp
  (e, d.modKey (keyIx nh up seg) (fun k => { k with snr := snrs }))

/-- A quantised, limited tone-group SNR (09 R223). -/
def snrLimit (i : Int) : Nat := (clampI 0 255 i).toNat

/-! ### Deadlines and commits (09 R230-R232) -/

/-- Effect of MAP_UPDATE_DEADLINE, for an update that has gone out. -/
def mapUpdateDeadlineEffect (nh : Nat) (up : Bool) (d : Dev) : Dev :=
  let i := setIx nh up
  let s := d.mapSet i
  let ahead := bpSince d.msync.bpi s.effBp
  if !d.dev.clocked ∨ s.upd ≠ .built ∨ !s.sent ∨ (2 < ahead ∧ ahead < 2 ^ 22) then d
  else if s.sends < d.fld Reg.marUpd 11 8 then d.sendUpdate i (s.sends + 1)
  else
    let ks := d.activeKeys (fun n u _ => decide (n = nh ∧ u = up))
    let d := (List.range 16).foldl (fun d k => d.modKey (i * 16 + k) (fun k => { k with shadow := none, built := false })) d
    let d := d.modMapSet i (fun s => { s with upd := .free })
    let d := d.markStale ks 4 nh 0xFF (if up then 2 else 1) (d.node nh).grp
    (d.raise .mar 4).event 0x0402 stOk nh (leBytes 1 (b2n up) ++ leBytes 1 ((s.ver + 1) % 8))

/-- MAP_UPDATE_DEADLINE. -/
def execMapUpdateDeadline (nh : Fin 16384) (up : Bool) (s : State) : Host.Outcome State Fault Refusal :=
  run (mapUpdateDeadlineEffect nh up) s

/-- Whether the announced boundary has come. -/
def Dev.commitDue (d : Dev) (s : MapSet) : Bool :=
  let since := bpSince s.effBp d.msync.bpi
  decide (s.upd = .scheduled) &&
    (if since = 0 then decide (d.segStart s.effSeg ≤ d.bpPhase) else decide (since < 2 ^ 22))

/-- Effect of MAP_COMMIT: every written key of the set exchanges its copies, loses its mark, and the version advances; a
rebuild that was held is then written (09 R230, R232, R242). A key whose SHADOW has failed exchanges nothing and is left
without an ACTIVE copy (18 Table IN.5). -/
def mapCommitEffect (nh : Nat) (up : Bool) (d : Dev) : Dev :=
  let i := setIx nh up
  let s := d.mapSet i
  if !d.dev.clocked ∨ !d.commitDue s then d
  else
    let d := (d.builtKeys i).foldl (fun d k =>
      d.modKey k (fun x => { x with active := x.shadow, shadow := if x.shadow.isNone then none else x.active, built := false,
                                    stale := false, swapAt := some d.clk })) d
    let d := d.modMapSet i (fun s => { s with ver := (s.ver + 1) % 8, upd := .free, heldR := [] })
    let d := d.lookAgain.count 34 7 1 none 1
    d.rebuild i s.heldR

/-- MAP_COMMIT. -/
def execMapCommit (nh : Fin 16384) (up : Bool) (s : State) : Host.Outcome State Fault Refusal :=
  run (mapCommitEffect nh up) s

/-! ### Another profile (09 R229) -/

/-- Every ACTIVE entry of a group's nodes is converted in place, SHADOW copies and updates go, and the converted keys are to
be sounded. -/
def Dev.convertGroup (d : Dev) (g : Nat) : Dev :=
  let prof := d.profile g
  let mine := fun (nh : Nat) => decide ((d.node nh).grp = g) && (d.node nh).st.isAdmitted
  let old := d.activeKeys (fun nh _ _ => mine nh)
  let d' := { d with
    keys := d.keys.map (fun e => if mine (e.1 / 32) then
        (e.1, { e.2 with active := e.2.active.map (fun x => x.convert prof), shadow := none, built := false }) else e)
    sets := d.sets.map (fun e => if mine (e.1 / 2) then (e.1, { e.2 with upd := .free, heldR := [] }) else e) }
  let pairs := (old.map (fun i => i / 16)).eraseDups
  pairs.foldl (fun x i =>
    let segs := (old.filter (fun k => decide (k / 16 = i))).foldl (fun m k => m + 2 ^ (k % 16)) 0
    x.openSession (i / 2) (decide (i % 2 = 1)) segs none []) d'

end Sys2Proof.Machine
end

