-- ==== Sys2Proof/Machine/MlDsa.lean ====
section
/-! DEFINITION. ML-DSA-65 of FIPS 204 in pure mode with an empty context string (00 R2, 19 R443, R449, R450; log 11). A polynomial is the
list of its 256 coefficients modulo q. -/

namespace Sys2Proof.Machine

/-- A polynomial. -/
abbrev Poly := List Nat

/-- The modulus q. -/
def mlQ : Nat := 8380417
/-- 2 gamma_2. -/
def mlAlpha : Nat := 523776

/-! ### Arithmetic -/

/-- The sum of two polynomials. -/
def mlAdd (a b : Poly) : Poly := (a.zip b).map (fun x => (x.1 + x.2) % mlQ)
/-- The difference. -/
def mlSub (a b : Poly) : Poly := (a.zip b).map (fun x => (x.1 + mlQ - x.2) % mlQ)
/-- The product of two transforms. -/
def mlMul (a b : Poly) : Poly := (a.zip b).map (fun x => x.1 * x.2 % mlQ)
/-- The polynomial 0. -/
def mlZero : Poly := List.replicate 256 0

/-- The bits of a byte in reverse order. -/
def bitRev8 (m : Nat) : Nat := iter 8 (fun i x => x + b2n (bit m i) * 2 ^ (7 - i)) 0

/-- The number-theoretic transform of 2^n coefficients at node `m`. -/
def mlNttAt : Nat → Nat → Poly → Poly
  | 0, _, w => w
  | n + 1, m, w =>
    let z := 1753 ^ bitRev8 m % mlQ
    let lo := w.take (2 ^ n)
    let hi := (w.drop (2 ^ n)).map (fun x => z * x % mlQ)
    mlNttAt n (2 * m) (mlAdd lo hi) ++ mlNttAt n (2 * m + 1) (mlSub lo hi)

/-- The transform of a polynomial. -/
def mlNtt (w : Poly) : Poly := mlNttAt 8 1 w

/-- The inverse at node `m`, times 2^n. -/
def mlInvAt : Nat → Nat → Poly → Poly
  | 0, _, w => w
  | n + 1, m, w =>
    let z := 1753 ^ (512 - bitRev8 m) % mlQ
    let a := mlInvAt n (2 * m) (w.take (2 ^ n))
    let b := mlInvAt n (2 * m + 1) (w.drop (2 ^ n))
    mlAdd a b ++ (mlSub a b).map (fun x => z * x % mlQ)

/-- The inverse transform. -/
def mlInv (w : Poly) : Poly := (mlInvAt 8 1 w).map (fun x => 8347681 * x % mlQ)

/-- A matrix times a vector, both transformed; the result is not. -/
def mlApply (a : List (List Poly)) (v : List Poly) : List Poly :=
  a.map (fun row => mlInv ((row.zip v).foldl (fun s x => mlAdd s (mlMul x.1 x.2)) mlZero))

/-- Vectors added. -/
def mlAddV (a b : List Poly) : List Poly := (a.zip b).map (fun x => mlAdd x.1 x.2)
/-- Vectors subtracted. -/
def mlSubV (a b : List Poly) : List Poly := (a.zip b).map (fun x => mlSub x.1 x.2)
/-- A transformed polynomial times a transformed vector, transformed back. -/
def mlScale (c : Poly) (v : List Poly) : List Poly := v.map (fun x => mlInv (mlMul c x))

/-- A coefficient as an integer around 0. -/
def mlCentre (x : Nat) : Int := if x ≤ mlQ / 2 then (x : Int) else (x : Int) - mlQ
/-- An integer as a coefficient. -/
def mlCoef (i : Int) : Nat := (i % (mlQ : Int)).toNat
/-- Whether every coefficient of a vector lies below a bound. -/
def mlBelow (b : Nat) (v : List Poly) : Bool := v.all (fun p => p.all (fun x => decide ((mlCentre x).natAbs < b)))

/-- High and low part of a coefficient. -/
def mlDecompose (r : Nat) : Nat × Int :=
  let r0 := r % mlAlpha
  let r0 : Int := if mlAlpha / 2 < r0 then (r0 : Int) - mlAlpha else r0
  if (r : Int) - r0 = mlQ - 1 then (0, r0 - 1) else ((((r : Int) - r0) / mlAlpha).toNat, r0)

/-- The high part of every coefficient. -/
def mlHigh (p : Poly) : Poly := p.map (fun r => (mlDecompose r).1)

/-- The high part of a coefficient corrected by a hint. -/
def mlUseHint (h r : Nat) : Nat :=
  let x := mlDecompose r
  if h = 0 then x.1 else if 0 < x.2 then (x.1 + 1) % 16 else (x.1 + 15) % 16

/-- The part of a coefficient of t that the public key holds. -/
def mlT1 (t : Nat) : Nat := (t + 4095) / 8192
/-- The rest, as a coefficient. -/
def mlT0 (t : Nat) : Nat := mlCoef ((t : Int) - (mlT1 t * 8192 : Nat))

/-! ### Bytes -/

/-- Numbers of `d` bits packed, the first in the lowest bits. -/
def mlPack (d : Nat) (p : List Nat) : List Byte :=
  leBytes (32 * d) (((p.zip (List.range p.length)).foldl (fun v x => v + x.1 % 2 ^ d * 2 ^ (d * x.2)) 0))

/-- 256 numbers of `d` bits. -/
def mlUnpack (d : Nat) (bs : List Byte) : List Nat :=
  let v := leNat bs
  (List.range 256).map (fun i => v / 2 ^ (d * i) % 2 ^ d)

/-- A polynomial z, coefficients around 0 taken from 2^19. -/
def mlPackZ (p : Poly) : List Byte := mlPack 20 (p.map (fun x => (2 ^ 19 - mlCentre x).toNat))
/-- The polynomial that 640 bytes hold so. -/
def mlUnpackZ (bs : List Byte) : Poly := (mlUnpack 20 bs).map (fun (x : Nat) => mlCoef (2 ^ 19 - (x : Int)))

/-- A hint as 61 bytes: the places of its ones, then how many there are up to each polynomial. -/
def mlPackHint (h : List Poly) : List Byte :=
  let places := h.map (fun p => (List.range 256).filter (fun i => decide (p.getD i 0 = 1)))
  let ends := (List.range 6).map (fun i => ((places.take (i + 1)).flatten).length)
  fit 55 (places.flatten.map (fun i => BitVec.ofNat 8 i)) ++ ends.map (fun n => BitVec.ofNat 8 n)

/-- Whether numbers rise strictly. -/
def rising : List Nat → Bool
  | a :: b :: l => decide (a < b) && rising (b :: l)
  | _ => true

/-- The hint that 61 bytes hold, none where they are malformed. -/
def mlUnpackHint (bs : List Byte) : Option (List Poly) :=
  let y := (fit 61 bs).map BitVec.toNat
  let ends := y.drop 55
  let spans := (0 :: ends).zip ends
  let places := spans.map (fun s => (y.take s.2).drop s.1)
  if spans.all (fun s => decide (s.1 ≤ s.2 ∧ s.2 ≤ 55)) && places.all rising &&
      ((y.take 55).drop (ends.getD 5 0)).all (fun x => decide (x = 0)) then
    some (places.map (fun l => l.foldl (fun p i => setAt p i 1) mlZero))
  else none

/-! ### Sampling -/

/-- A uniform transform from a seed. -/
def mlUniform (seed : List Byte) : Poly :=
  ((chunks 3 336 (shake128 seed 1008)).filterMap (fun b =>
    let z := leNat b % 2 ^ 23
    if z < mlQ then some z else none)).take 256

/-- The public matrix of a seed. -/
def mlMatrix (rho : List Byte) : List (List Poly) :=
  (List.range 6).map (fun r => (List.range 5).map (fun s => mlUniform (rho ++ [BitVec.ofNat 8 s, BitVec.ofNat 8 r])))

/-- A short polynomial from a seed. -/
def mlShort (seed : List Byte) : Poly :=
  let halves : List Nat := (shake256 seed 680).flatMap (fun b => [b.toNat % 16, b.toNat / 16])
  (halves.filterMap (fun (n : Nat) => if n < 9 then some (mlCoef (4 - (n : Int))) else none)).take 256

/-- The mask of attempt `kappa`. -/
def mlMask (rho : List Byte) (kappa : Nat) : List Poly :=
  (List.range 5).map (fun r => mlUnpackZ (shake256 (rho ++ leBytes 2 (kappa + r)) 640))

/-- The challenge polynomial of a commitment hash. -/
def mlBall (c : List Byte) : Poly :=
  let s := shake256 c 272
  let signs := leNat (s.take 8)
  (iter 49 (fun k (x : Poly × List Byte) =>
    let i := 207 + k
    let rest := x.2.dropWhile (fun b => decide (i < b.toNat))
    let j := (rest.headD 0).toNat
    (setAt (setAt x.1 i (x.1.getD j 0)) j (if bit signs k then mlQ - 1 else 1), rest.drop 1)) (mlZero, s.drop 8)).1

/-! ### Keys, signing, verification -/

/-- A key pair as its seed gives it. -/
structure MlKey where
  rho : List Byte
  k   : List Byte
  s1  : List Poly
  s2  : List Poly
  t   : List Poly
  deriving DecidableEq, Repr

/-- The key pair of a seed of 32 bytes. -/
def mlKeyGen (seed : List Byte) : MlKey :=
  let h := shake256 (seed ++ [6, 5]) 128
  let rho := bytesAt h 0 32
  let s := (List.range 11).map (fun r => mlShort (bytesAt h 32 64 ++ leBytes 2 r))
  let s1 := s.take 5
  let s2 := s.drop 5
  { rho := rho, k := bytesAt h 96 32, s1 := s1, s2 := s2, t := mlAddV (mlApply (mlMatrix rho) (s1.map mlNtt)) s2 }

/-- The public key, 1,952 bytes. -/
def MlKey.public (k : MlKey) : List Byte := k.rho ++ k.t.flatMap (fun p => mlPack 10 (p.map mlT1))

/-- The message representative of a public key's hash and a message. -/
def mlMu (pk msg : List Byte) : List Byte := shake256 (shake256 pk 64 ++ [0, 0] ++ msg) 64

/-- The commitment hash. -/
def mlChallenge (mu : List Byte) (w1 : List Poly) : List Byte := shake256 (mu ++ w1.flatMap (mlPack 4)) 48

/-- One attempt at a signature. -/
def MlKey.attempt (k : MlKey) (a : List (List Poly)) (mu rho : List Byte) (kappa : Nat) : Option (List Byte) :=
  let y := mlMask rho kappa
  let w := mlApply a (y.map mlNtt)
  let c := mlChallenge mu (w.map mlHigh)
  let ch := mlNtt (mlBall c)
  let z := mlAddV y (mlScale ch (k.s1.map mlNtt))
  let r := mlSubV w (mlScale ch (k.s2.map mlNtt))
  let ct0 := mlScale ch (k.t.map (fun p => mlNtt (p.map mlT0)))
  let h : List Poly := (r.zip (mlAddV r ct0)).map (fun x => (x.2.zip x.1).map (fun y => b2n (decide ((mlDecompose y.1).1 ≠ (mlDecompose y.2).1))))
  if mlBelow (2 ^ 19 - 196) z && r.all (fun p => p.all (fun x => decide ((mlDecompose x).2.natAbs < 261888 - 196))) &&
      mlBelow 261888 ct0 && decide ((h.flatten).foldl (fun (n x : Nat) => n + x) 0 ≤ 55) then
    some (c ++ z.flatMap mlPackZ ++ mlPackHint h)
  else none

/-- The first attempt that succeeds, of so many. -/
def MlKey.attempts (k : MlKey) (a : List (List Poly)) (mu rho : List Byte) : Nat → Nat → List Byte
  | 0, _ => []
  | n + 1, kappa => match k.attempt a mu rho kappa with | some s => s | none => k.attempts a mu rho n (kappa + 5)

/-- The hedged signature over a message with 32 random bytes, 3,309 bytes. -/
def MlKey.sign (k : MlKey) (msg rnd : List Byte) : List Byte :=
  let mu := mlMu k.public msg
  k.attempts (mlMatrix k.rho) mu (shake256 (k.k ++ rnd ++ mu) 64) 13000 0

/-- Whether a signature verifies. -/
def mlVerify (pk sig msg : List Byte) : Bool :=
  let t1 := (List.range 6).map (fun i => mlNtt ((mlUnpack 10 (bytesAt pk (32 + 320 * i) 320)).map (fun x => x * 8192 % mlQ)))
  let c := bytesAt sig 0 48
  let z := (List.range 5).map (fun i => mlUnpackZ (bytesAt sig (48 + 640 * i) 640))
  match mlUnpackHint (bytesAt sig 3248 61) with
  | none => false
  | some h =>
    let mu := mlMu (fit 1952 pk) msg
    let ch := mlNtt (mlBall c)
    let w := mlSubV (mlApply (mlMatrix (bytesAt pk 0 32)) (z.map mlNtt)) (mlScale ch t1)
    let w1 := (h.zip w).map (fun x => (x.1.zip x.2).map (fun y => mlUseHint y.1 y.2))
    mlBelow (2 ^ 19 - 196) z && decide (mlChallenge mu w1 = c)

end Sys2Proof.Machine
end

