-- ==== Sys2Proof/Machine/Brixis.lean ====
section
/-! DEFINITION. The root of trust: Brixis containers and their verification, the boot ROM's search for an image, the
measurement log, commits (19 R439-R459). -/

namespace Sys2Proof.Machine

/-! ### The container (19 R440-R442) -/

/-- Length of the signed area. -/
def areaLen : Nat := 3776
/-- `SVN` of a signed area. -/
def imgSvn (a : List Byte) : Nat := leAt a 8 8
/-- `TOTAL`. -/
def imgTotal (a : List Byte) : Nat := leAt a 16 4
/-- `NSEG`. -/
def imgNseg (a : List Byte) : Nat := byteAt a 20
/-- `KEY_IDX`. -/
def imgKey (a : List Byte) : Nat := byteAt a 21 % 4
/-- `REVOKE`. -/
def imgRevoke (a : List Byte) : Nat := byteAt a 22 % 16
/-- `MAGIC` is present. -/
def imgMagic (a : List Byte) : Bool := decide (leAt a 0 4 = 0x53585242)

/-- Bytes of a list from `s` on, `n` of them, are all 0. -/
def zeroes (a : List Byte) (s n : Nat) : Bool := (bytesAt a s n).all (fun b => decide (b = 0))

/-- A segment entry: type, offset, length, digest. -/
structure Segment where
  typ    : Nat
  ofs    : Nat
  len    : Nat
  digest : List Byte
  rsvd   : Bool
  deriving DecidableEq, Repr

/-- Segment entry `i` of a signed area (19 Table SE.4). -/
def imgSeg (a : List Byte) (i : Nat) : Segment :=
  let o := 0x8C0 + 96 * i
  { typ := byteAt a o, ofs := leAt a (o + 4) 4, len := leAt a (o + 8) 4, digest := bytesAt a (o + 16) 64
    rsvd := zeroes a (o + 1) 3 && zeroes a (o + 12) 4 && zeroes a (o + 80) 16 }

/-- The segments of an image. -/
def imgSegs (a : List Byte) : List Segment := (List.range (min 16 (imgNseg a))).map (imgSeg a)

/-- Whether no two segments of a list overlap. -/
def disjoint : List Segment → Bool
  | [] => true
  | s :: rest => rest.all (fun t => decide (s.ofs + s.len ≤ t.ofs ∨ t.ofs + t.len ≤ s.ofs)) && disjoint rest

/-- Step 2 of Table SE.5 on a source of `size` bytes. -/
def wellFormed (a : List Byte) (size : Nat) : Bool :=
  let segs := imgSegs a
  decide (leAt a 4 2 = 1 ∧ leAt a 24 2 = 0x9128) &&
    zeroes a 6 2 && zeroes a 23 1 && zeroes a 26 6 && zeroes a 48 208 && zeroes a 0x1BED 19 &&
    decide (0x1C40 ≤ imgTotal a ∧ imgTotal a ≤ 33554432 ∧ imgTotal a ≤ size ∧ 1 ≤ imgNseg a ∧ imgNseg a ≤ 16) &&
    (List.range 16).all (fun i => decide (i < imgNseg a) || zeroes a (0x8C0 + 96 * i) 96) &&
    segs.all (fun s => s.rsvd && decide (s.ofs % 64 = 0 ∧ 0x1C00 ≤ s.ofs ∧ 1 ≤ s.len ∧ s.ofs + s.len ≤ imgTotal a ∧
      1 ≤ s.typ ∧ s.typ ≤ 4)) &&
    disjoint segs && decide ((segs.filter (fun s => decide (s.typ = 1))).length = 1) &&
    segs.any (fun s => decide (s.typ = 2)) && !bit (imgRevoke a) (imgKey a)

/-- Whether a key block of 1,984 bytes matches the `KD` of its slot. -/
def keyBlockOk (kd : List (List Byte)) (k : Nat) (block : List Byte) : Bool := decide (sha512 block = fit 64 (kd.getD k []))

/-- Whether both signatures verify under a key block: Ed25519, ML-DSA-65. -/
def bothVerify (block ed ml msg : List Byte) : Bool × Bool :=
  (edVerify (bytesAt block 0 32) ed msg, mlVerify (bytesAt block 32 1952) ml msg)

/-- The checks of Table SE.5 in their order, each with its failure code. -/
def imageSteps (arb revoked : Nat) (kd : List (List Byte)) (size : Nat) (a : List Byte) : List (Bool × Nat) :=
  let key := bytesAt a 0x100 0x7C0
  let sig := bothVerify key (bytesAt a 0xEC0 64) (bytesAt a 0xF00 3309) (fit areaLen a)
  [(imgMagic a, 0x09), (wellFormed a size, 0x01), (!bit revoked (imgKey a), 0x02), (keyBlockOk kd (imgKey a) key, 0x03),
   (sig.1, 0x04), (sig.2, 0x05), (decide (arb ≤ imgSvn a), 0x06),
   ((imgSegs a).all (fun s => decide (sha512 (bytesAt a s.ofs s.len) = s.digest)), 0x07)]

/-- Bytes that a step reads of a source whatever it holds: `MAGIC`, and the container up to its segments. -/
def stepReads (step : Nat) : Nat := if step = 1 then 4 else if step = 2 then 0x1C00 else 0

/-- The failure code of the first step of Table SE.5 that fails, a failing read or a short source among them; none where the image
verifies. -/
def verifyImage (arb revoked : Nat) (kd : List (List Byte)) (size : Nat) (s : BootSrc) : Option Nat :=
  ((imageSteps arb revoked kd size s.bytes).zip (List.range 8)).findSome? (fun x =>
    if s.readFail = some (x.2 + 1) ∨ size < stepReads (x.2 + 1) then some 0x08 else if x.1.1 then none else some x.1.2)

/-- Bytes of one image source. -/
def srcSize : Nat := 33554432

/-- The verification of an image as the OTP stands. -/
def Dev.verify (d : Dev) (size : Nat) (s : BootSrc) : Option Nat := verifyImage d.sec.arbCtr.toNat d.sec.revoked d.sec.kd size s

/-! ### The measurement log (19 R451) -/

/-! ### Device identity (19 R449) -/

/-- A string as ASCII bytes. -/
def ascii (s : String) : List Byte := s.toList.map (fun c => BitVec.ofNat 8 c.toNat)

/-- 32 bytes derived from the identity seed under a label. -/
def idKey (label : String) : List Byte := shake256 (leBytes 32 Config.idSeed.toNat ++ ascii label) 32

/-- The Ed25519 private key of the device. -/
def idEd : List Byte := idKey "DUAVO-ID-ED25519"
/-- Its ML-DSA-65 key pair. -/
def idMl : MlKey := mlKeyGen (idKey "DUAVO-ID-MLDSA65")
/-- `DEVID`, 16 bytes. -/
def devId : List Byte := (sha512 (edPublic idEd ++ idMl.public)).take 16

/-! ### The entries of the measurement log -/

/-- The 266 bytes of the OTP entry. -/
def Dev.otpBytes (d : Dev) : List Byte :=
  leBytes 1 d.sec.lifecycle ++ leBytes 8 d.sec.arbCtr.toNat ++ leBytes 1 d.sec.revoked ++
    ((List.range 4).map (fun i => fit 64 (d.sec.kd.getD i []))).flatten

/-- Log entries 0 to 2. -/
def Dev.romLog (d : Dev) : List (Nat × List Byte) :=
  [(0x00, sha512 Config.bootRom), (0x01, sha512 d.otpBytes), (0x02, sha512 [BitVec.ofNat 8 (b2n d.sec.dbgOpen)])]

/-- Log entries 3 onwards: the signed area and the segments. -/
def imageLog (a : List Byte) : List (Nat × List Byte) :=
  (0x03, sha512 (fit areaLen a)) :: (imgSegs a).map (fun s => (0x10 + s.typ, s.digest))

/-- The accumulated value over a log. -/
def accumulated (log : List (Nat × List Byte)) : List Byte :=
  log.foldl (fun m e => sha512 (m ++ e.2)) (List.replicate 64 0)

/-! ### Debug (19 R457, R458) -/

/-- Whether a token opens debug. -/
def Dev.tokenOpens (d : Dev) (nonce : BitVec 256) (t : List Byte) : Bool :=
  let block := bytesAt t 64 0x7C0
  let sig := bothVerify block (bytesAt t 2048 64) (bytesAt t 2112 3309) (bytesAt t 0 2048)
  decide (t.length = 5421) && decide (bytesAt t 0 16 = devId) && decide (bytesAt t 16 32 = leBytes 32 nonce.toNat) &&
    !bit d.sec.revoked (byteAt t 48 % 4) && keyBlockOk d.sec.kd (byteAt t 48 % 4) block && sig.1 && sig.2

/-- Step 3 of R445. -/
def Dev.settleDebug (d : Dev) (io : BootIo) : Dev :=
  let token := if io.token = [] then d.sec.token else io.token
  let opens := d.tokenOpens io.nonce token
  let d := { d with sec := { d.sec with nonce := io.nonce, token := token, dbgOpen := decide (d.sec.lifecycle = 1) || opens } }
  if d.sec.lifecycle ≠ 1 ∧ token ≠ [] ∧ !opens then d.raise .dbg 8 else d

/-! ### The boot ROM (19 R445-R447, 22 R499) -/

/-- The staging area as a source of an image. -/
def Dev.stagedSrc (d : Dev) (readFail : Option Nat) : BootSrc :=
  { bytes := (List.range d.sec.stageLen).map (fun i => SMap.get (fun _ => 0) i d.sec.stage), readFail := readFail }

/-- A slot's header can be read and shows an image. -/
def headed (s : BootSrc) : Bool := decide (s.readFail ≠ some 1) && imgMagic s.bytes

/-- The sources that a boot tries, in order: code of `SEC_BOOT.SRC` and the source (19 R446). -/
def Dev.bootSources (d : Dev) (io : BootIo) : List (Nat × BootSrc) :=
  let staged := if bit 0b0101 d.pwr.bootsel && d.sec.pendImg then [(2, d.stagedSrc io.stagedFail)] else []
  let a := (0, io.slotA)
  let b := (1, io.slotB)
  let flash :=
    if !io.hasB then [a]
    else if headed io.slotA && headed io.slotB && decide (imgSvn io.slotA.bytes < imgSvn io.slotB.bytes) then [b, a]
    else [a, b]
  staged ++ (if d.pwr.bootsel ≤ 1 then flash else [])

/-- One source is tried: nothing more where one has verified. -/
def Dev.trySource (d : Dev) (x : Nat × BootSrc) : Dev :=
  match d.sec.rom with
  | .verified _ => d
  | _ =>
    let size := if x.1 = 2 then d.sec.stageLen else srcSize
    let d := if x.1 = 2 then { d with sec := { d.sec with pendImg := false, trialCopy := x.2.bytes } } else d
    match d.verify size x.2 with
    | none => { d with sec := { d.sec with rom := .verified x.1, src := x.1, area := fit areaLen x.2.bytes } }
    | some code =>
      ({ d with sec := { d.sec with attempts := d.sec.attempts + 1, lastFail := code } }).count 40 7 1 none 1

/-- The boot ROM works through R445 up to the end of step 5, or to the failure that ends the boot. -/
def Dev.runRom (d : Dev) (io : BootIo) : Dev :=
  let d := { d with pwr := { d.pwr with sysref := true, thermal := false }
                    sec := { d.sec with rom := .failed, src := 15, attempts := 0, lastFail := 0, slotA := some io.slotA, hasB := io.hasB
                                        slotB := if io.hasB then some io.slotB else none } }
  let d := if io.trngOk then d else (d.raise .sec 3)
  if !io.katOk then { d with sec := { d.sec with lastFail := 0x0A } }
  else
    let d := d.settleDebug io
    let d := { d with sec := { d.sec with log := d.romLog } }
    (d.bootSources io).foldl Dev.trySource d

/-- The boot ROM may go on: PERST# is high, and after a THERMAL fault every sensor reads 100 degrees or less (22 R498,
R504). -/
def Dev.startRom (d : Dev) (io : BootIo) : Dev :=
  if d.pwr.thermal && !d.pwr.temps.all (fun t => decide (t ≤ 100)) then { d with sec := { d.sec with rom := .cooling io } }
  else d.runRom io

/-! ### Commit (19 R448) -/

/-- Whether the running image needs a commit. -/
def Dev.commitDueImg (d : Dev) : Bool :=
  decide (d.sec.src = 2) || decide (d.sec.arbCtr.toNat < imgSvn d.sec.area) ||
    decide (imgRevoke d.sec.area &&& d.sec.revoked ≠ imgRevoke d.sec.area)

/-- The first DEV_START after a boot starts the commit of the running image where it needs one: `TRIAL` says that it is not
yet committed. -/
def Dev.beginCommit (d : Dev) : Dev :=
  if d.sec.started then d
  else { d with sec := { d.sec with started := true, commit := d.sec.trial } }

/-- Whether a flash slot's image fails R443 now. -/
def Dev.slotFails (d : Dev) (s : Option BootSrc) : Bool :=
  match s with | none => true | some s => (d.verify srcSize s).isSome

/-- The slot that a commit writes (true: slot B), and the device: with both slots failing the choice is free. -/
def Dev.commitSlot (d : Dev) : Bool × Dev :=
  let svn := fun (s : Option BootSrc) => match s with | some s => imgSvn s.bytes | none => 0
  if !d.sec.hasB then (false, d)
  else
    match d.slotFails d.sec.slotA, d.slotFails d.sec.slotB with
    | true, false => (false, d)
    | false, true => (true, d)
    | true, true => let f := d.free; (decide (f.1.toNat % 2 = 1), f.2)
    | false, false => (decide (svn d.sec.slotB ≤ svn d.sec.slotA), d)

/-- Write a flash slot. -/
def Dev.setSlot (d : Dev) (b : Bool) (s : BootSrc) : Dev :=
  if b then { d with sec := { d.sec with slotB := some s } } else { d with sec := { d.sec with slotA := some s } }

/-- Whether a slot that has been written reads back as the trial copy: the SHA-512 of `TOTAL` bytes (19 R448). -/
def Dev.writtenWell (d : Dev) (readBack : List Byte) : Bool :=
  let n := imgTotal d.sec.trialCopy
  decide (sha512 (fit n readBack) = sha512 (fit n d.sec.trialCopy))

/-- Effect of IMAGE_COMMIT_DONE: the target slot, where one is written, reads back as `readBack`. -/
def imageCommitDoneEffect (readBack : List Byte) (d : Dev) : Dev :=
  if !(d.dev.clocked && d.sec.commit) then d
  else
    let d := { d with sec := { d.sec with commit := false } }
    let staged := decide (d.sec.src = 2)
    let t := if staged then d.commitSlot else (false, d)
    let d := t.2
    let d := if staged then d.setSlot t.1 { bytes := readBack, readFail := none } else d
    if staged && !d.writtenWell readBack then
      (d.raise .sec 1).faultEvent 0x08 0 0xFF 0
    else
      let svn := imgSvn d.sec.area
      let d := { d with sec := { d.sec with
        arbCtr := if d.sec.arbCtr.toNat < svn then BitVec.ofNat 64 svn else d.sec.arbCtr
        revoked := d.sec.revoked ||| imgRevoke d.sec.area
        trial := false } }
      d.count 40 7 2 none 1

/-- IMAGE_COMMIT_DONE. -/
def execImageCommitDone (readBack : List Byte) (s : State) : Host.Outcome State Fault Refusal :=
  run (imageCommitDoneEffect readBack) s

/-- Effect of TRNG_HEALTH_FAIL (19 R450; 21 Table MR.4). -/
def trngHealthFailEffect (d : Dev) : Dev :=
  if !d.dev.live then d
  else
    let d := { d with sec := { d.sec with trngFail := true } }
    (d.raise .sec 3).faultEvent 0x07 0 0xFF 0

/-- TRNG_HEALTH_FAIL. -/
def execTrngHealthFail (s : State) : Host.Outcome State Fault Refusal := run trngHealthFailEffect s

end Sys2Proof.Machine
end

