-- ==== Sys2Proof/Machine/Sets.lean ====
section
/-! DEFINITION. Measurement sets in time: output instants, timestamps and how a set stops (13 R337, R338, R341). -/

namespace Sys2Proof.Machine

/-- The MPT of an instant given in ns since reset, at the frequency in force; CK_MPT cycles are 4 ns long. -/
def Dev.mptAtNs (d : Dev) (t : Int) : Nat :=
  unsigned 48 ((4 * (d.tb.acc.toNat : Int) + (t - (4 * d.clk : Nat)) * (d.tb.freq.toNat : Int)) / ((4 * 2 ^ 24 : Nat) : Int))

/-- The timestamp of output `j` of a chain of order `n` and decimation 2^`e` that started at an edge: the MPT of the output instant less the
latency; a modulator clock is 50 ns (13 R341, Table ME.2). -/
def Dev.stamp (d : Dev) (n e sync j : Nat) : Nat :=
  d.mptAtNs ((sync + 50 * j * 2 ^ e : Nat) - (25 * (n * (2 ^ e - 1) + 31 * 2 ^ e) : Nat))

/-- Outputs of a set whose instants have come (13 R338). -/
def Dev.outputsBy (d : Dev) (k : Nat) : Nat := (4 * d.clk - (d.mset k).sync) / (50 * 2 ^ d.fld (Reg.measSetCfg k) 11 8)

/-- Whether a running set has records still due of output instants that have come. -/
def Dev.outputsLeft (d : Dev) (k : Nat) : Bool :=
  let s := d.mset k
  decide (s.st = .running ∧ s.rseq < s.ends.getD (d.outputsBy k))

/-- A set stops; a start that waits for its sync point is flushed (16 R401). -/
def Dev.stopSet (d : Dev) (k : Nat) : Dev :=
  let s := d.mset k
  if s.st = .stopped then d
  else (d.modMset k (fun s => { s with st := .stopped, ends := none, stops := [], cmd := none })).finishOpt s.cmd stFlushed

/-- A MEAS_STOP completes, with the number of the last record; the number is free where there is none (log 3). -/
def Dev.stopDone (d : Dev) (k id : Nat) : Dev :=
  let n := (d.mset k).rseq
  let f : Nat × Dev := if n = 0 then (d.free.1.toNat, d.free.2) else (n - 1, d)
  f.2.finish id stOk (quints (f.1 % 65536) (f.1 / 65536 % 65536) 0 0 0)

/-- A set is to stop, by a command or as the device leaves RUN: at once, or after the last record of an output instant that has come
(13 Table ME.3, ME.7). -/
def Dev.haltSet (d : Dev) (k : Nat) (cmd : Option Nat) : Dev :=
  if d.outputsLeft k then
    d.modMset k (fun s => { s with ends := some (s.ends.getD (d.outputsBy k)), stops := s.stops ++ cmd.toList })
  else match cmd with
    | none => d.stopSet k
    | some id => (d.stopSet k).stopDone k id

/-- A set that has written the last record before a stop is stopped. -/
def Dev.endSet (d : Dev) (k : Nat) : Dev :=
  let s := d.mset k
  if s.ends = some s.rseq then s.stops.foldl (fun d id => d.stopDone k id) (d.stopSet k) else d

end Sys2Proof.Machine
end

