-- ==== Sys2Proof/Machine/Recover.lean ====
section
/-! DEFINITION. What leaves the device when work ends early: FLR, leaving RUN, entry to SAFE, a reset of the die
(01 R30-R32; 15 R366, R368; 16 Table CE.7; 17 R419; 21 R480-R486). -/

namespace Sys2Proof.Machine

/-! ### Host items -/

/-- The MSDUs of a group's broadcast queue and of a node that a predicate holds for. -/
def Dev.msdusWhere (d : Dev) (hit : Msdu → Bool) : List Msdu :=
  d.groups.flatMap (fun e => e.2.bq.filter hit) ++ d.nodes.flatMap (fun e => (e.2.live ++ e.2.heldq).filter hit)

/-- A node without the MSDUs that a predicate holds for. -/
def Node.drop (n : Node) (hit : Msdu → Bool) : Node :=
  { n with txq := n.txq.filter (fun m => !hit m), heldq := n.heldq.filter (fun m => !hit m)
           cur := match n.cur with | some m => if hit m then none else some m | none => none }

/-- The MSDUs that a predicate holds for leave their queues and end as flushed. -/
def Dev.flushWhere (d : Dev) (hit : Msdu → Bool) (report : Bool) : Dev :=
  let gone := d.msdusWhere hit
  let gs := d.groups.map (fun (e : Nat × Group) => (e.1, { e.2 with bq := e.2.bq.filter (fun m => !hit m) }))
  let ns := d.nodes.map (fun (e : Nat × Node) => (e.1, e.2.drop hit))
  gone.foldl (fun d m => d.endMsdu m stFlushed report) { d with groups := gs, nodes := ns }

/-- Whether an MSDU comes from a ring that a predicate holds for. -/
def Msdu.fromRing (p : Nat → Bool) (m : Msdu) : Bool :=
  match m.origin with | .host ring _ _ => p ring | _ => false

/-- The receive buffers of a group leave the pool: each completes with ST_FLUSHED, or is counted as flushed where an FLR
takes the completions away (21 R485). -/
def Dev.flushBuffers (d : Dev) (g : Nat) (report : Bool) : Dev :=
  let k := d.dataRing g 2
  let bs := (d.group g).rxPool
  let d := if bs = [] then d else d.modGroup g (fun x => { x with rxPool := [] })
  bs.foldl (fun d b =>
    if report then d.complete k (completionBytes b.cookie.toNat b.idx.toNat stFlushed 2 []) else d.flushItem k) d

/-- What a chain that waits for its fetch holds: its place among the waiting requests and the cells granted to it. -/
def Dev.dropChain (d : Dev) (k : Nat) : Dev :=
  let ps := (d.ring k).grant
  let d := d.dropWaiter (.chain k)
  if ps = [] then d else (d.freePools (ringGroup k) ps).modRing k (fun r => { r with grant := [] })

/-! ### FLR (21 R485, 15 R366, R368) -/

/-- A ring becomes DISABLED at once; completions owed to it are flushed with their items (15 R387). -/
def Dev.killRing (d : Dev) (k : Nat) : Dev :=
  let n := (d.ring k).owed.length
  let d := if n = 0 then d else iter n (fun _ d => d.flushItem (k - 1)) d
  (d.dropChain k).modRing k (fun r => { r with st := .disabled, rsvd := 0, owed := [], unsig := 0, msgDue := false, lastEn := false })

/-- The data rings that a predicate holds for are disabled as an FLR disables them. -/
def Dev.flrData (d : Dev) (p : Nat → Bool) : Dev :=
  let d := d.flushWhere (fun m => m.fromRing p) false
  let d := (List.range 32).foldl (fun d g => if p (d.dataRing g 2) then d.flushBuffers g false else d) d
  ((d.rings.filter (fun e => decide (ringFn e.1 ≠ 0) && p e.1)).map (fun e => e.1)).foldl (fun d k => d.killRing k) d

/-- The flags byte of a switching operation's completion (16 R402). -/
def SwoOp.flags (o : SwoOp) : Nat := b2n o.hold + 2 * b2n o.pinFault

/-- A switching operation ends: it leaves the queue and its command completes (16 R402). -/
def Dev.endSwo (d : Dev) (o : SwoOp) (st : Nat) : Dev :=
  let d := { d with swo := d.swo.filter (fun x => decide (x.id ≠ o.id)) }
  let report := match d.cmdOf o.cmd with | some c => c.report | none => false
  let d := d.modAcct 11 (fun a => if report then { a with consumed := a.consumed + 1 } else { a with flushed := a.flushed + 1 })
  let block := leBytes 6 (o.mpt1.getD 0) ++ leBytes 6 (o.mpt2.getD 0) ++ leBytes 2 o.tag ++ leBytes 1 o.flags ++ [0]
  (d.finishBlock o.cmd st (quints o.tag 0 0 o.flags 0) block).mark 11

/-- Registers of the check-value units and of PF0's MSI-X table return to their reset values. -/
def Dev.flrRegs (d : Dev) : Dev :=
  { d with regs := d.regs.filter (fun e => !(decide (0xB0100 ≤ e.1 ∧ e.1 < 0xB0200) || decide (0x8000 ≤ e.1 ∧ e.1 < 0x9000)))
           cvus := [] }

/-- The rings of PF0 are disabled; commands write no completion and count as flushed, uncommitted switching operations end
without acting, the check-value units return to their reset values. -/
def Dev.flrPf0 (d : Dev) : Dev :=
  let n := (d.cmds.filter (fun c => c.report)).length
  let cs := d.cmds.map (fun (c : Cmd) => { c with report := false })
  let d : Dev := iter n (fun _ (d : Dev) => d.flushItem 0) { d with cmds := cs }
  let d := (d.swo.filter (fun o => !o.committed)).foldl (fun d o => d.endSwo o stFlushed) d
  let d := ((d.rings.filter (fun e => decide (ringFn e.1 = 0))).map (fun e => e.1)).foldl (fun d k => d.killRing k) d
  d.flrRegs

/-- The rings of a function are disabled as an FLR disables them. -/
def Dev.flrRings (d : Dev) (f : Nat) : Dev :=
  if f = 0 then d.flrPf0 else d.flrData (fun k => decide (ringFn k = f))

/-- The configuration space of a function returns to its reset values; the messages it has sent are the model's own count. -/
def Dev.flrSpace (d : Dev) (f : Nat) : Dev := d.modFn f (fun x => { Fn.init with sent := x.sent, aer := x.aer })

/-- An FLR of one function, its own rings and configuration space alone. -/
def Dev.flrOne (d : Dev) (f : Nat) : Dev := (d.flrRings f).flrSpace f

/-- An FLR. VF Enable lies in PF1's configuration space, so an FLR of PF1 takes the VFs with it (15 R366). -/
def Dev.flr (d : Dev) (f : Nat) : Dev :=
  let d := d.flrOne f
  if f = 1 ∧ d.vfEn then { (iter 32 (fun n d => d.flrOne (2 + n)) d) with vfEn := false, numVfs := 0 } else d

/-! ### Leaving RUN (01 R34, 13 Table ME.3, 14 R356, 16 Table CE.7, 21 R480) -/

/-- Drivers of every port are muted. -/
def Dev.muteAll (d : Dev) : Dev :=
  { d with ports := d.ports.map (fun (e : Nat × Port) => (e.1, { e.2 with enabled := false })) }

/-- Every lane becomes unbound. -/
def Dev.unbindAll (d : Dev) : Dev :=
  let ds := (d.decs.filter (fun e => e.2.bound.isSome)).map (fun e => e.1)
  let es := (d.encs.filter (fun e => e.2.bound.isSome)).map (fun e => e.1)
  es.foldl (fun d l => d.unbindEnc l) (ds.foldl (fun d l => d.unbindDec l) { d with shadow := [], late := [], pins := [], asked := [] })

/-- Streams of a capture: its valid tap fields (05 R133). -/
def Capt.streams (c : Capt) : Nat := (c.taps.filter (fun t => bit t 9)).length

/-- Samples per stream in a full record (16 Table CE.4). -/
def Capt.perRecord (c : Capt) : Nat := 1008 / c.streams

/-- Samples per stream that a capture has taken. -/
def Dev.taken (d : Dev) (c : Capt) : Nat := if c.lane.isSome then min c.len (d.tb.n - c.n0) else 0

/-- The whole records of a capture that has taken `n` samples per stream; its last one may be short. -/
def Capt.whole (c : Capt) (n : Nat) : Nat := if n = c.len then (n + c.perRecord - 1) / c.perRecord else n / c.perRecord

/-- A capture that is outstanding completes with ST_FLUSHED; the whole records already staged are still written, and one part-built is
discarded and counted (17 R419). -/
def Dev.flushCapture (d : Dev) : Dev :=
  match d.capts.find? (fun c => c.flushed.isNone) with
  | none => d
  | some c =>
    let n := d.taken c
    let staged := c.whole n
    let others := d.capts.filter (fun x => x.flushed.isSome)
    let left := if c.written < staged then [{ c with flushed := some staged }] else []
    let d := { d with capts := others ++ left }
    let d := if staged * c.perRecord < n then (d.raise .que 1).count 39 7 4 none 1 else d
    d.finishSt c.cmd stFlushed

/-- The idle levels of the switching outputs. -/
def Dev.swoIdle (d : Dev) : Nat := d.fld Reg.swoCtrl 15 0

/-- The work that only RUN carries ends: every group goes DOWN, maintenance requests, soundings, measurement sets, the
capture and switching operations are flushed, the outputs return to their idle levels, drivers are muted. -/
def Dev.endRun (d : Dev) : Dev :=
  let d := (List.range 32).foldl (fun d g =>
    if (d.group g).st = .down then d else (d.startDone g stFlushed).groupDown g) d
  let d := (d.unbindAll.flushMnt (List.range 128)).muteAll
  let d := (d.sess.map (fun s => s.nh)).foldl (fun d nh => d.dropSessions nh) d
  let d := (List.range 8).foldl (fun d k => d.haltSet k none) d
  let d := d.swo.foldl (fun d o => d.endSwo o stFlushed) d
  let d := d.flushCapture
  { d with swoLvl := d.swoIdle, msync := { d.msync with step := 0 } }

/-- The device changes state: event DEV_STATE with its cause (16 Table CE.6). -/
def Dev.setDev (d : Dev) (st : DevState) (cause : Nat) : Dev :=
  { d with dev := st }.event 0x0001 stOk 0 (leBytes 1 st.code ++ leBytes 1 cause)

/-- Entry to SAFE (01 R32): work ends as on leaving RUN, data descriptors complete with ST_FLUSHED, commands that SAFE does
not accept are flushed, and a mask change that waits goes with its command. -/
def Dev.enterSafe (d : Dev) (cause : Nat) : Dev :=
  let d := d.endRun
  let d := d.flushWhere Msdu.isHost true
  let d := (List.range 32).foldl (fun d g => d.flushBuffers g true) d
  let d := (d.rings.map (fun e => e.1)).foldl (fun d k => d.dropChain k) d
  let d := d.setDev .safe cause
  let gs := d.groups.map (fun (e : Nat × Group) => (e.1, { e.2 with maskNext := none }))
  let d := { d with groups := gs }
  let gone := d.cmds.filter (fun c => !d.accepts c.desc.opc.toNat)
  gone.foldl (fun d c => d.finishSt c.id stFlushed) d

/-- A critical fault takes CONFIG and RUN to SAFE (01 Table OR.5, 21 R483). -/
def Dev.critical (d : Dev) (cause : Nat) : Dev :=
  match d.dev with
  | .config | .run => d.enterSafe cause
  | _ => d

/-! ### Resets of the die (21 Table MR.5, R486) -/

/-- What a level-3 event leaves: one-time-programmable state, boot flash, the pending image, CK_AON and the board's own
quantities; everything else stands at its reset value, and nothing is written for what the device held. -/
def Dev.resetDie (d : Dev) : Dev :=
  let s := d.sec
  let p := d.pwr
  { Dev.init with
    clk := d.clk
    freeCtr := d.freeCtr
    posted := d.posted
    ports := d.ports.map (fun (e : Nat × Port) => (e.1, { Port.init with temp := e.2.temp }))
    sec := { Sec.init with
      lifecycle := s.lifecycle, arbCtr := s.arbCtr, kd := s.kd, revoked := s.revoked, pendImg := s.pendImg
      stage := if s.pendImg then s.stage else [], stageLen := if s.pendImg then s.stageLen else 0
      slotA := s.slotA, slotB := s.slotB, hasB := s.hasB }
    pwr := { Power.init with
      perst := p.perst, vinOk := p.vinOk, vin := p.vin, temps := p.temps, bootsel := p.bootsel, thermal := p.thermal
      lost := p.lost, cause := p.cause, l3 := p.l3, v33At := p.v33At, v33 := match p.v33 with | .tripped => .tripped | _ => if p.vinOk then .up else .off } }

/-- A device reset with its cause: the device is in BOOT with the boot ROM before its first step. -/
def Dev.level3 (d : Dev) (cause : Nat) : Dev :=
  let d := d.resetDie
  { d with dev := .boot, pwr := { d.pwr with cause := cause, l3 := (d.pwr.l3 + 1) % 65536 } }

/-- The staging area and `MNT_RSTC` lose what they held (22 R494, 21 R488). -/
def Dev.loseRetained (d : Dev) : Dev :=
  { d with sec := { d.sec with stage := [], stageLen := 0, pendImg := false }, pwr := { d.pwr with cause := 0, l3 := 0 } }

end Sys2Proof.Machine
end

