-- ==== Sys2Proof/Machine/Lengths.lean ====
section
/-! DEFINITION. Lengths of frames, access slots and poll windows in slot units (10 R246, R258; 11 R283; 12 R310, R311). -/

namespace Sys2Proof.Machine

/-- Slot units that hold a number of converter samples at the frequency in force, rounded up: a unit is 2^36 × 5 samples
over the frequency word (10 R246, 02 R38). -/
def Dev.unitsOf (d : Dev) (samples : Nat) : Nat :=
  (samples * d.tb.freq.toNat + (5 * 2 ^ 36 - 1)) / (5 * 2 ^ 36)

/-- Converter samples of a duration in microseconds (1.25 GS/s). -/
def usSamples (us : Nat) : Nat := us * 1250

/-- `TW_CODE` of a group. -/
def Dev.twCode (d : Dev) (g : Nat) : Nat := d.fld (Reg.wfCtrl g) 17 16
/-- `UL_GI` of a group. -/
def Dev.ulGi (d : Dev) (g : Nat) : Nat := d.fld (Reg.gongGrp g) 1 0
/-- `BCN_GI`. -/
def Dev.bcnGi (d : Dev) : Nat := d.fld Reg.gongCtrl 13 12
/-- The group's default Drone mode as a `MAP` code (09 Table TM.12). -/
def Dev.droneDef (d : Dev) (g : Nat) : Nat := d.fld (Reg.marGdef g) 1 0

/-- Length in samples of a frame of `n` blocks in a Drone mode. -/
def Dev.droneLen (d : Dev) (g gi code n : Nat) : Nat :=
  frameLen (d.profile g) (d.maskOf g) gi (d.twCode g) code false (droneNsym (d.profile g) (d.maskOf g) code n)

/-- L_A: the length of an ACK in samples at a guard code (11 R283). -/
def Dev.ackLen (d : Dev) (g gi : Nat) : Nat := frameLen (d.profile g) (d.maskOf g) gi (d.twCode g) 0 false 0

/-- Slot units of a beacon of `n` blocks: Drone-8 at `BCN_GI` (10 R249, R258). -/
def Dev.beaconUnits (d : Dev) (g n : Nat) : Nat := d.unitsOf (d.droneLen g d.bcnGi 2 n)

/-- `CA_SLOT`: a one-block MGMT frame in Drone-4 in slot units, and `CA_PAD` (10 R258). -/
def Dev.caSlot (d : Dev) (g : Nat) : Nat := d.unitsOf (d.droneLen g (d.ulGi g) 1 1) + d.fld Reg.gongGrid 23 16

/-- W_P: a one-block POLL in Drone-4, 64 us, an ACK and 8 us (12 R311). -/
def Dev.pollUnits (d : Dev) (g : Nat) : Nat :=
  d.unitsOf (d.droneLen g (d.ulGi g) 1 1 + d.ackLen g (d.ulGi g) + usSamples 72)

/-! ### Guards (12 R310, R320) -/

/-- G_k. -/
def Dev.pollGuard (d : Dev) (n : Node) (x : Dorm) : Nat := min (d.gmax n.grp) (d.guardRaw n x)

/-- Interval to the poll after a miss (12 R320). -/
def Dev.ladder (d : Dev) (g : Nat) (x : Dorm) : Nat := min x.p (d.fld (Reg.dnCtrl g) 15 8 * 2 ^ (x.k - 1))

end Sys2Proof.Machine
end

