-- ==== Sys2Proof/Machine/Phase.lean ====
section
/-! DEFINITION. Phase identification (10 R270-R272): the circular mean of zero-crossing samples in fixed-point arithmetic, and
what an identification does. -/

namespace Sys2Proof.Machine

/-! ### Circular means (10 R271) -/

/-- Sums of the cosines and sines of samples in PU. -/
def zcSums (zs : List Nat) : Int × Int :=
  zs.foldl (fun a z => let c := fixCosSin (2 ^ 24) z; (a.1 + c.1, a.2 + c.2)) (0, 0)

/-- Whether r is at least `thr` / 256 (10 R271). -/
def zcDense (s : Int × Int) (n thr : Nat) : Bool :=
  decide (((thr * n : Nat) : Int) ^ 2 * fixOne ^ 2 ≤ 256 ^ 2 * (s.1 ^ 2 + s.2 ^ 2))

/-- Circular distance of two phases in PU. -/
def zcDist (a b : Nat) : Nat := min ((a + 2 ^ 24 - b) % 2 ^ 24) ((b + 2 ^ 24 - a) % 2 ^ 24)

/-! ### Samples and candidates (10 R270, R271) -/

/-- The MSYNC offset that was in force in a beacon period of the last 16. -/
def Dev.offsetAt (d : Dev) (age : Nat) : Int := if age = 0 then d.msync.ofs else d.msync.past.getD (age - 1) d.msync.ofs

/-- Age in beacon periods of one given modulo 2^16; a future one counts as old. -/
def Dev.bpAge (d : Dev) (zbp : Nat) : Nat := (d.msync.bpi + 65536 - zbp % 65536) % 65536

/-- One valid sample of a node is kept as MPT phase, with at most eight of its kind; old and future ones are discarded. -/
def Dev.zcAdd (d : Dev) (nh zbp zc : Nat) : Dev :=
  let age := d.bpAge zbp
  if 16 < age then d
  else
    let z := unsigned 24 ((zc : Int) + d.offsetAt age)
    d.modNode nh (fun n => { n with zc := (n.zc ++ [({ bp := zbp % 65536, z := z } : ZcSample)]).drop (n.zc.length - 7) })

/-- The six candidates of a group: phase code, reversed, MPT phase (10 R271, 13 R344). -/
def Dev.zcCandidates (d : Dev) (g : Nat) : List (Nat × Bool × Nat) :=
  (List.range 3).flatMap (fun i =>
    match d.meas.theta.find? (fun (e : Nat × Nat) => decide (e.1 = 4 * d.fld (Reg.gongGrp g) 8 8 + i)) with
    | none => []
    | some e => [(i + 1, false, e.2), (i + 1, true, (e.2 + 2 ^ 23) % 2 ^ 24)])

/-- Compare a node's samples with the candidates, and identify its phase (10 R271, R272). -/
def Dev.identify (d : Dev) (nh : Nat) : Dev :=
  let n := d.node nh
  let k := d.fld Reg.gongZc 15 12
  let fresh := n.zc.filter (fun s => decide (d.bpAge s.bp ≤ 16))
  if fresh.length < k then d
  else
    let s := zcSums ((fresh.drop (fresh.length - k)).map (fun s => s.z))
    let mean := zcAngle s.1 s.2
    let near := (d.zcCandidates n.grp).filter (fun c => decide (zcDist mean c.2.2 ≤ 2 ^ d.fld Reg.gongZc 20 16))
    match near with
    | [] => d
    | [c] =>
      if !zcDense s k (d.fld Reg.gongZc 31 24) then d
      else if n.phase = c.1 ∧ n.pol = c.2.1 then d
      else
        let changed := decide (n.phase ≠ 0)
        let d := d.modNode nh (fun n => { n with phase := c.1, pol := c.2.1 })
        let d := if changed then d.raise .gong 1 else d
        let code := c.1 + 4 * b2n c.2.1
        let d := d.sendOwn nh 0x04 0 none (leBytes 4 code)
        d.event 0x0303 stOk nh (leBytes 1 code ++ leBytes 1 (b2n changed) ++ leBytes 3 (zcDist mean c.2.2))
    | _ => d.raise .gong 2

/-- The records of a ZC_REPORT body, as far as it states them (10 R270). -/
def zcRecords (body : List Byte) : List (Nat × Nat × Bool) :=
  (List.range (min 8 (byteAt body 0))).map (fun i =>
    (leAt body (1 + 6 * i) 2, leAt body (3 + 6 * i) 3, bit (byteAt body (6 + 6 * i)) 0))

/-- Whether a ZC_REPORT body holds what its code requires (10 R261). -/
def zcWellFormed (body : List Byte) : Bool := decide (1 ≤ body.length ∧ 1 + 6 * byteAt body 0 ≤ body.length)

/-- A message that cannot be used is skipped and counted (10 R261). -/
def Dev.skipMessage (d : Dev) : Dev := d.raise .gong 0

/-- Effect of ZC_REPORT: one from an admitted node of a group that is up. -/
def zcReportEffect (nh : Nat) (body : List Byte) (d : Dev) : Dev :=
  if d.dev ≠ .run ∨ !(d.node nh).st.isAdmitted ∨ !(d.group (d.node nh).grp).st.up then d
  else if !zcWellFormed body then d.skipMessage
  else ((zcRecords body).foldl (fun d r => if r.2.2 then d.zcAdd nh r.1 r.2.1 else d) d).identify nh

/-- ZC_REPORT. -/
def execZcReport (nh : Fin 16384) (body : List Byte) (s : State) : Host.Outcome State Fault Refusal :=
  run (zcReportEffect nh body) s

end Sys2Proof.Machine
end

