-- ==== Sys2Proof/Machine/Nodes.lean ====
section
/-! DEFINITION. Association, admission, node states and the commands on nodes (10 R261-R275, 11 R295-R301, 16 R397-R400). -/

namespace Sys2Proof.Machine

/-! ### Answers and routes -/

/-- Body of ASSOC_RESP (10 Table GC.10). -/
def assocResp (eui : BitVec 64) (nonce result saddr retry phase : Nat) : List Byte :=
  leBytes 8 eui.toNat ++ leBytes 1 nonce ++ leBytes 1 result ++ leBytes 2 saddr ++ leBytes 2 retry ++ leBytes 1 phase ++ [0]

/-- Queue an ASSOC_RESP; its tag is the beacon period of the decision. -/
def Dev.answer (d : Dev) (g : Nat) (eui : BitVec 64) (nonce result saddr retry phase : Nat) : Dev :=
  d.sendOwnBcast g 0x02 d.msync.bpi (assocResp eui nonce result saddr retry phase)

/-- A node handle returns to UNKNOWN: the entry and the keys go with it (01 R35). -/
def Dev.toUnknown (d : Dev) (nh : Nat) : Dev := (d.nodeState nh .unknown 0xFF).modNode nh (fun _ => Node.init)

/-- A refusal that Table GC.11 answers with UNKNOWN for a handle in ASSOCIATING. `counted` is false where an eviction wins
over a pending request (10 R265, Table GC.13). -/
def Dev.refuse (d : Dev) (g nh : Nat) (eui : BitVec 64) (nonce result : Nat) (counted : Bool) : Dev :=
  let d := if counted then d.raise .gong 3 else d
  let d := if (d.node nh).st = .associating ∧ (d.node nh).eui = eui ∧ (d.node nh).grp = g then d.toUnknown nh else d
  d.answer g eui nonce result 0 0 0

/-- The entries of RELAY_SET along a route, first relay first: each relay is told the next hop towards the node (11 R296). -/
def Dev.sendRoute (d : Dev) (rs : List Nat) (final : Nat) (cmd : Option Nat) : Dev :=
  let hops := rs.map (fun r => (d.node r).saddr)
  (rs.zip (hops.drop 1 ++ [final])).foldl (fun d x =>
    d.sendOwn x.1 0x0D 0 cmd ([0, 1, 0, 0] ++ leBytes 4 (final + x.2 * 2 ^ 10))) d

/-! ### Admission (10 R265-R268) -/

/-- Short addresses in use in a group. -/
def Dev.saddrUsed (d : Dev) (g : Nat) : List Nat :=
  (d.nodes.filter (fun e => decide (e.2.grp = g) && e.2.st.isAdmitted)).map (fun e => e.2.saddr)

/-- Beacon periods since a free address was released, none where it never was. -/
def Dev.released (d : Dev) (g a : Nat) : Option Nat :=
  ((d.group g).addrRel.find? (fun e => decide (e.1 = a))).map (fun e => bpSince e.2 d.msync.bpi)

/-- The short address that an admission gives (10 R266). One released exactly 16 beacon periods ago counts as not released in the last 16
(DESIGN CHOICE, log 17). -/
def Dev.pickSaddr (d : Dev) (g : Nat) (eui : BitVec 64) : Nat :=
  let used := d.saddrUsed g
  let free := ((List.range 1022).map (fun i => i + 1)).filter (fun a => !used.contains a)
  let prev := ((d.group g).addrMemo.find? (fun e => decide (e.1 = eui))).map (fun e => e.2)
  match prev.filter (fun a => free.contains a) with
  | some a => a
  | none =>
    match free.find? (fun a => match d.released g a with | none => true | some n => decide (16 ≤ n)) with
    | some a => a
    | none =>
      (free.foldl (fun (best : Nat × Nat) a =>
        let age := (d.released g a).getD 0
        if best.1 = 0 ∨ best.2 < age then (a, age) else best) (0, 0)).1

/-- The phase byte of ASSOC_RESP. -/
def Node.phaseByte (n : Node) : Nat := n.phase + 4 * b2n n.pol

/-- What admission and re-admission share: tone-map sets emptied, sequence windows and PBSN counts reset, held MSDUs queued,
RESULT 0 sent, the route's relays told (10 R266, R268; 11 R279, R292, R295; 12 Table DN.4). -/
def Dev.enterAdmitted (d : Dev) (nh : Nat) : Dev :=
  let d := if (d.node nh).st = .dormant then d.unhold nh else d
  let d := (d.emptySets nh).dropReasm nh
  let d := d.modNode nh (fun n => { n with txSeq := 0, txPbsn := 1023, rxValid := false, rxSeq := 0, rxMap := 0, dorm := none,
                                           regrant := false, askBp := none, heardBp := d.msync.bpi })
  let d := d.nodeState nh .admitted 0xFF
  let n := d.node nh
  let d := d.answer n.grp n.eui n.nonce 0 n.saddr 0 n.phaseByte
  let d := d.sendRoute (d.relays n.grp 7 n.parent) n.saddr none
  d.identify nh

/-- Admission of a handle in ASSOCIATING: a handle of the EUI-64 in another group moves, and the node gets its address. -/
def Dev.admitNode (d : Dev) (nh : Nat) : Dev :=
  let n := d.node nh
  let moved := (d.byEui n.eui).filter (fun h => decide (h ≠ nh) && (d.node h).st.isAdmitted)
  let d := moved.foldl (fun d h => d.evict h 4) d
  let a := d.pickSaddr n.grp n.eui
  let d := d.modNode nh (fun n => { n with saddr := a })
  let d := d.modGroup n.grp (fun g => { g with addrMemo := (n.eui, a) :: g.addrMemo.filter (fun e => decide (e.1 ≠ n.eui)) })
  d.enterAdmitted nh

/-- Admitted nodes of a group. -/
def Dev.admittedOf (d : Dev) (g : Nat) : List Nat :=
  (d.nodes.filter (fun e => decide (e.2.grp = g) && e.2.st.isAdmitted)).map (fun e => e.1)

/-- What the device records of a request (10 Table GC.9, R265; 11 R295). -/
def Dev.storeRequest (d : Dev) (nh : Nat) (body : List Byte) : Dev :=
  let caps := byteAt body 9
  let via := leAt body 18 2 % 1024
  let g := (d.node nh).grp
  let d := d.modNode nh (fun n => { n with
    cls := byteAt body 8, profMask := bits caps 3 0, mimoCap := bit caps 4, relayCap := bit caps 5, dormCap := bit caps 6
    bmaxN := bits (byteAt body 10) 3 0, nonce := byteAt body 11
    parent := if via = 1023 then n.parent else via
    depth := if via = 1023 then n.depth else (d.relays g 7 via).length })
  if bit (byteAt body 15) 0 then d.zcAdd nh (leAt body 16 2) (leAt body 12 3) else d

/-- A response to an EUI-64 decided in this beacon period that has not been sent. -/
def respPending (bpi : Nat) (eui : BitVec 64) (m : Msdu) : Bool :=
  match m.origin with
  | .own 0x02 tag _ => decide (tag = bpi) && !m.sentOnce && decide (BitVec.ofNat 64 (leAt m.data 4 8) = eui)
  | _ => false

/-- The rules of R265 from the third on, for a handle `nh` of this group, in ASSOCIATING or admitted. -/
def Dev.admitRules (d : Dev) (g nh : Nat) (allow : Bool) (body : List Byte) : Dev :=
  let n := d.node nh
  if n.st.isAdmitted then d.enterAdmitted nh
  else if 512 ≤ (d.admittedOf g).length then d.refuse g nh n.eui n.nonce 2 true
  else
    let mode := d.fld (Reg.gongGrp g) 17 16
    if mode = 0 ∨ (mode = 1 ∧ allow) then d.admitNode nh
    else if mode = 2 then
      let d := if n.askBp.isSome then d
        else (d.modNode nh (fun n => { n with askBp := some d.msync.bpi })).event 0x0301 stOk g (body.take 10)
      d.answer g n.eui n.nonce 4 0 (d.fld Reg.gongAssoc 23 16) 0
    else d.refuse g nh n.eui n.nonce 1 true

/-- The first free handle. -/
def Dev.freeHandle (d : Dev) : Option Nat := (List.range 16384).find? (fun h => decide ((d.node h).st = .unknown))

/-- The decision on an ASSOC_REQ of 20 bytes or more (10 R265). -/
def Dev.decideAssoc (d : Dev) (g : Nat) (eui : BitVec 64) (body : List Byte) : Dev :=
  let hs := d.byEui eui
  let evicted := hs.any (fun h => decide ((d.node h).st = .evicted))
  let mine := hs.find? (fun h => decide ((d.node h).grp = g ∧ (d.node h).st ≠ .evicted))
  let pol := d.policyOf eui
  let deny : Bool := match pol with | some p => p.deny | none => false
  let allow : Bool := match pol with | some p => p.allow && decide (p.grp = g ∨ p.grp = 255) | none => false
  let lacks := !bit (byteAt body 9) (d.profile g)
  let nonce := byteAt body 11
  let fresh := if mine.isNone ∧ !evicted then d.freeHandle else none
  let d := match fresh with
    | some h => (d.modNode h (fun _ => { Node.init with eui := eui, grp := g })).nodeState h .associating 0xFF
    | none => d
  match (if mine.isSome then mine else fresh) with
  | none =>
    if deny ∨ lacks then (d.raise .gong 3).answer g eui nonce (if deny then 1 else 5) 0 0 0
    else if evicted then d.answer g eui nonce 4 0 4 0
    else (d.raise .gong 3).answer g eui nonce (if 512 ≤ (d.admittedOf g).length then 2 else 3) 0 0 0
  | some nh =>
    let d := d.storeRequest nh body
    if deny ∨ lacks then
      let held := (d.node nh).st.isAdmitted
      let d := d.refuse g nh eui nonce (if deny then 1 else 5) true
      if held then d.evict nh (if deny then 1 else 6) else d
    else if evicted ∧ !(d.node nh).st.isAdmitted then d.answer g eui nonce 4 0 4 0
    else d.admitRules g nh allow body

/-- Effect of ASSOC_REQ, received in a group that is up. -/
def assocReqEffect (g : Nat) (body : List Byte) (d : Dev) : Dev :=
  if d.dev ≠ .run ∨ !(d.group g).st.up then d
  else if body.length < 20 then d.skipMessage
  else
    let eui := BitVec.ofNat 64 (leAt body 0 8)
    if (d.group g).bq.any (respPending d.msync.bpi eui) then
      d.modGroup g (fun x => { x with bq := x.bq.map (fun m =>
        if respPending d.msync.bpi eui m then { m with data := setAt m.data 12 (BitVec.ofNat 8 (byteAt body 11)) } else m) })
    else d.decideAssoc g eui body

/-- ASSOC_REQ. -/
def execAssocReq (g : Fin 32) (body : List Byte) (s : State) : Host.Outcome State Fault Refusal := run (assocReqEffect g body) s

/-- Whether an ASK query on a handle waits for the host. -/
def Dev.askPending (d : Dev) (nh : Nat) : Bool := decide ((d.node nh).st = .associating) && (d.node nh).askBp.isSome

/-- Effect of ADMIT_DECIDE. Octet 0 of the EUI-64 is the least significant byte of `A0` (DESIGN CHOICE where the spec gives no order for the
argument, log 17). -/
def admitDecideEffect : CmdDesc → Dev → Dev :=
  command { CmdSpec.plain 0x22 with m0 := 2 ^ 64 - 1, m1 := 1, m2 := 0xFFFF, lim2 := 32 } always always
    (fun id c d =>
      match (d.byEui c.a0).find? (fun h => decide ((d.node h).grp = c.n2) && d.askPending h) with
      | none => d.finishSt id stNotFound
      | some nh =>
        let n := d.node nh
        let d := if c.f1 0 0 = 0 then d.refuse c.n2 nh n.eui n.nonce 1 true
          else if 512 ≤ (d.admittedOf c.n2).length then d.refuse c.n2 nh n.eui n.nonce 2 true
          else d.admitNode nh
        d.finishSt id stOk)

/-- ADMIT_DECIDE. -/
def execAdmitDecide (d : CmdDesc) (s : State) : Host.Outcome State Fault Refusal := run (admitDecideEffect d) s

/-- Effect of ADMIT_ASK_TIMEOUT. -/
def admitAskTimeoutEffect (nh : Nat) (d : Dev) : Dev :=
  let n := d.node nh
  match n.askBp with
  | none => d
  | some b =>
    if d.dev = .run ∧ n.st = .associating ∧ d.fld Reg.gongAssoc 23 16 ≤ bpSince b d.msync.bpi then
      d.refuse n.grp nh n.eui n.nonce 1 true
    else d

/-- ADMIT_ASK_TIMEOUT. -/
def execAdmitAskTimeout (nh : Fin 16384) (s : State) : Host.Outcome State Fault Refusal := run (admitAskTimeoutEffect nh) s

/-! ### Node states (10 R267) -/

/-- Frame control from a node has passed R181: ADMITTED and LOST become ACTIVE; a node that enters ACTIVE for the first time
is to be sounded in both directions (10 R266, R267). -/
def Dev.heard (d : Dev) (nh : Nat) : Dev :=
  let old := (d.node nh).st
  let d := d.modNode nh (fun n => { n with heardBp := d.msync.bpi })
  match old with
  | .admitted => ((d.nodeState nh .active 0xFF).openSession nh false 0xFFFF none []).openSession nh true 0xFFFF none []
  | .lost => d.nodeState nh .active 0xFF
  | _ => d

/-- Effect of KEEPALIVE: it counts as an accepted frame (10 R262), a MGMT frame that wakes a DORMANT node (12 Table DN.4). -/
def keepaliveEffect (nh : Nat) (d : Dev) : Dev :=
  let n := d.node nh
  if d.dev ≠ .run ∨ !n.st.isAdmitted ∨ !(d.group n.grp).st.up then d
  else if n.st = .dormant then (d.heard nh).wake nh
  else d.heard nh

/-- KEEPALIVE. -/
def execKeepalive (nh : Fin 16384) (s : State) : Host.Outcome State Fault Refusal := run (keepaliveEffect nh) s

/-- Effect of LEAVE. -/
def leaveEffect (nh : Nat) (d : Dev) : Dev :=
  let n := d.node nh
  if d.dev ≠ .run ∨ !n.st.isAdmitted ∨ !(d.group n.grp).st.up then d else d.evict nh 5

/-- LEAVE. -/
def execLeave (nh : Fin 16384) (s : State) : Host.Outcome State Fault Refusal := run (leaveEffect nh) s

/-- Effect of ADMIT_TIMEOUT. -/
def admitTimeoutEffect (nh : Nat) (d : Dev) : Dev :=
  let n := d.node nh
  if d.dev = .run ∧ n.st = .admitted ∧ d.fld Reg.gongAssoc 15 0 ≤ bpSince n.stBp d.msync.bpi then d.evict nh 2 else d

/-- ADMIT_TIMEOUT. -/
def execAdmitTimeout (nh : Fin 16384) (s : State) : Host.Outcome State Fault Refusal := run (admitTimeoutEffect nh) s

/-- Effect of SILENT_TIMEOUT. -/
def silentTimeoutEffect (nh : Nat) (d : Dev) : Dev :=
  let n := d.node nh
  if d.dev = .run ∧ n.st = .active ∧ d.fld Reg.gongNode 15 0 ≤ bpSince n.heardBp d.msync.bpi then d.nodeState nh .lost 0xFF
  else d

/-- SILENT_TIMEOUT. -/
def execSilentTimeout (nh : Fin 16384) (s : State) : Host.Outcome State Fault Refusal := run (silentTimeoutEffect nh) s

/-- Effect of LOST_EVICT_TIMEOUT. -/
def lostEvictTimeoutEffect (nh : Nat) (d : Dev) : Dev :=
  let n := d.node nh
  if d.dev = .run ∧ n.st = .lost ∧ d.flag Reg.gongCtrl 0 ∧ d.fld Reg.gongNode 31 16 ≤ bpSince n.stBp d.msync.bpi then
    d.evict nh 3
  else d

/-- LOST_EVICT_TIMEOUT. -/
def execLostEvictTimeout (nh : Fin 16384) (s : State) : Host.Outcome State Fault Refusal := run (lostEvictTimeoutEffect nh) s

/-- Effect of EVICTED_RELEASE: every item of the handle has completed, and EVICT has been sent where due. -/
def evictedReleaseEffect (nh : Nat) (d : Dev) : Dev :=
  let n := d.node nh
  if n.st = .evicted ∧ n.live = [] ∧ n.heldq = [] ∧ n.reasm.isNone ∧ !n.evictDue ∧
      !(d.group n.grp).rxq.any (fun m => decide (m.nh = nh)) then d.toUnknown nh
  else d

/-- EVICTED_RELEASE. -/
def execEvictedRelease (nh : Fin 16384) (s : State) : Host.Outcome State Fault Refusal := run (evictedReleaseEffect nh) s

/-! ### Commands on nodes (16 Table CE.3) -/

/-- A command on a node handle in `A2`. -/
def nodeSpec (opc m1 : Nat) : CmdSpec := { CmdSpec.plain opc with m1 := m1, m2 := 0x3FFF, lim2 := 16384 }

/-- Effect of NODE_EVICT. -/
def nodeEvictEffect : CmdDesc → Dev → Dev :=
  command (nodeSpec 0x23 0) always always (fun id c d =>
    let n := d.node c.n2
    if n.st = .unknown ∨ n.st = .evicted then d.finishSt id stNoNode
    else if n.st = .associating then (d.refuse n.grp c.n2 n.eui n.nonce 1 false).finishSt id stOk
    else (d.evict c.n2 0).finishSt id stOk)

/-- NODE_EVICT. -/
def execNodeEvict (d : CmdDesc) (s : State) : Host.Outcome State Fault Refusal := run (nodeEvictEffect d) s

/-- The neighbour entry of a handle, 128 bytes (11 Table LR.6). -/
def Dev.neighbour (d : Dev) (nh : Nat) : List Byte :=
  let n := d.node nh
  let part := match n.reasm with
    | none => List.replicate 8 0
    | some r => leBytes 4 (r.parts.foldl (fun a p => setBit a p.1) 0) ++ leBytes 2 (r.seq + 4096) ++
        leBytes 2 (r.last + r.base * 64)
  let fields := leBytes 8 n.eui.toNat ++ leBytes 2 nh ++ leBytes 2 (n.saddr + n.grp * 1024) ++ leBytes 1 n.st.code ++
    leBytes 1 (n.phase + 4 * b2n n.pol + 8 * b2n n.mimoCap + 16 * b2n n.relayCap + 32 * b2n n.dormCap) ++
    leBytes 2 (n.parent + n.depth * 1024) ++ leBytes 2 n.txSeq ++ leBytes 2 (n.rxSeq + 32768 * b2n n.rxValid) ++
    leBytes 8 n.rxMap ++ leBytes 6 n.txFc ++ leBytes 6 n.rxFc ++ leBytes 8 n.rxFcMap ++
    leBytes 1 (b2n n.key0.isSome + 2 * b2n n.key1.isSome + 4 * b2n n.txKey + 8 * b2n (d.encReq nh)) ++
    leBytes 1 (match n.cur with | some m => m.tries % 32 | none => 0) ++ leBytes 2 n.txPbsn ++ part ++
    leBytes 1 (b2n n.pendUl + 2 * b2n n.pendDl) ++ leBytes 1 n.profMask ++ leBytes 1 n.bmaxN ++ [0]
  fit 128 (fit 64 fields ++ n.counts.flatMap (fun c => leBytes 4 c))

/-- Effect of NODE_READ (11 R301). -/
def nodeReadEffect : CmdDesc → Dev → Dev :=
  command { nodeSpec 0x24 0 with needR := true } always always (fun id c d => d.finishBlock id stOk [] (d.neighbour c.n2))

/-- NODE_READ. -/
def execNodeRead (d : CmdDesc) (s : State) : Host.Outcome State Fault Refusal := run (nodeReadEffect d) s

/-- Whether a parent can serve a node: 0, or an admitted relay of its group whose own chain has at most six relays and does
not run through the node (11 R295). -/
def Dev.parentOk (d : Dev) (nh parent : Nat) : Bool :=
  let g := (d.node nh).grp
  if parent = 0 then true
  else match d.bySaddr g parent with
    | none => false
    | some r =>
      let chain := d.relays g 8 parent
      (d.node r).relayCap && decide (chain.length ≤ 7) && !chain.contains nh

/-- Effect of NODE_ROUTE (11 R296): the old route stands until every RELAY_SET of the new one is acknowledged. -/
def nodeRouteEffect : CmdDesc → Dev → Dev :=
  command (nodeSpec 0x25 0x3FF) always
    (fun d c => !(d.node c.n2).st.isAdmitted || d.parentOk c.n2 (c.f1 9 0))
    (fun id c d =>
      let n := d.node c.n2
      let rs := d.relays n.grp 7 (c.f1 9 0)
      if !n.st.isAdmitted then d.finishSt id stNoNode
      else if rs = [] then (d.modNode c.n2 (fun n => { n with parent := 0, depth := 0 })).finishSt id stOk
      else
        let d := { d with routes := ({ cmd := id, nh := c.n2, parent := c.f1 9 0, left := rs.length } : Route) :: d.routes }
        d.sendRoute rs n.saddr (some id))

/-- NODE_ROUTE. -/
def execNodeRoute (d : CmdDesc) (s : State) : Host.Outcome State Fault Refusal := run (nodeRouteEffect d) s

/-- Effect of SOUND (09 R241). -/
def soundEffect : CmdDesc → Dev → Dev :=
  command (nodeSpec 0x27 0x3FFFF) always (fun _ c => decide (c.f1 15 0 ≠ 0 ∧ c.f1 17 16 ≠ 0))
    (fun id c d =>
      let st := (d.node c.n2).st
      if st ≠ .active ∧ st ≠ .dormant then d.finishSt id stNoNode
      else
        let d := if c.f1 16 16 = 1 then d.openSession c.n2 false (c.f1 15 0) none [id] else d
        if c.f1 17 17 = 1 then d.openSession c.n2 true (c.f1 15 0) none [id] else d)

/-- SOUND. -/
def execSound (d : CmdDesc) (s : State) : Host.Outcome State Fault Refusal := run (soundEffect d) s

/-- Effect of ADMIT_MODE (10 R275). -/
def admitModeEffect : CmdDesc → Dev → Dev :=
  command { CmdSpec.plain 0x21 with m1 := 3, m2 := 0xFFFF, lim2 := 32 } always always
    (fun id c d => (d.setFld (Reg.gongGrp c.n2) 17 16 (c.f1 1 0)).finishSt id stOk)

/-- ADMIT_MODE. -/
def execAdmitMode (d : CmdDesc) (s : State) : Host.Outcome State Fault Refusal := run (admitModeEffect d) s

/-! ### Policy and forwarding tables (16 R399, R400) -/

/-- The records of a block, `n` bytes each. -/
def records (n : Nat) (bs : List Byte) : List (List Byte) := chunks n (bs.length / n) bs

/-- The policy record in 16 bytes. -/
def policyRec (b : List Byte) : Policy :=
  { eui := BitVec.ofNat 64 (leAt b 0 8), weight := leAt b 8 2, encReq := bit (byteAt b 10) 0, mimoOk := bit (byteAt b 10) 1,
    allow := bit (byteAt b 10) 2, deny := bit (byteAt b 10) 3, grp := byteAt b 11 }

/-- Reserved bits of a policy record are 0. -/
def policyRsvd (b : List Byte) : Bool := decide (byteAt b 10 < 16 ∧ leAt b 12 4 = 0)

/-- The fields of a policy record to add lie within their ranges. -/
def policyRange (p : Policy) : Bool := decide (1 ≤ p.weight ∧ (p.grp < 32 ∨ p.grp = 255))

/-- Effect of POLICY_SET. -/
def policySetEffect : CmdDesc → Dev → Dev :=
  command { CmdSpec.plain 0x20 with len := fun _ n => decide (n % 16 = 0 ∧ n ≤ 4096), m2 := 3, lim2 := 3 } always
    (fun _ c => (records 16 c.bytes).all (fun b => policyRsvd b && (decide (c.n2 ≠ 0) || policyRange (policyRec b))))
    (fun id c d =>
      let rs := (records 16 c.bytes).map policyRec
      if c.n2 = 2 then ({ d with policy := [] }).finishSt id stOk
      else if c.n2 = 1 then
        ({ d with policy := d.policy.filter (fun p => !rs.any (fun r => decide (r.eui = p.eui))) }).finishSt id stOk
      else
        let table := rs.foldl (fun (t : List Policy) r => t.filter (fun p => decide (p.eui ≠ r.eui)) ++ [r]) d.policy
        if 16384 < table.length then d.finishSt id stNoRoom
        else
          let d := { d with policy := table }
          let denied := (rs.filter (fun r => r.deny)).flatMap (fun r =>
            (d.byEui r.eui).filter (fun h => (d.node h).st.isAdmitted))
          (denied.eraseDups.foldl (fun d h => d.evict h 1) d).finishSt id stOk)

/-- POLICY_SET. -/
def execPolicySet (d : CmdDesc) (s : State) : Host.Outcome State Fault Refusal := run (policySetEffect d) s

/-- The forwarding entry in a word. -/
def fwdRec (w : Nat) : FwdEntry := { grp := bits w 4 0, ftag := bits w 15 8, egress := bits w 29 16, copy := bit w 31 }

/-- Effect of FWD_SET. -/
def fwdSetEffect : CmdDesc → Dev → Dev :=
  command { CmdSpec.plain 0x28 with len := fun _ n => decide (n % 4 = 0 ∧ n ≤ 512), m2 := 3, lim2 := 3 } always
    (fun _ c => (records 4 c.bytes).all (fun b => decide (bits (leNat b) 7 5 = 0 ∧ bits (leNat b) 30 30 = 0 ∧
      bits (leNat b) 15 8 ≠ 0)))
    (fun id c d =>
      let rs := (records 4 c.bytes).map (fun b => fwdRec (leNat b))
      let same := fun (a b : FwdEntry) => decide (a.grp = b.grp ∧ a.ftag = b.ftag)
      if c.n2 = 2 then ({ d with fwd := [] }).finishSt id stOk
      else if c.n2 = 1 then ({ d with fwd := d.fwd.filter (fun e => !rs.any (same e)) }).finishSt id stOk
      else
        let table := rs.foldl (fun (t : List FwdEntry) r => t.filter (fun e => !same e r) ++ [r]) d.fwd
        if 1024 < table.length then d.finishSt id stNoRoom else ({ d with fwd := table }).finishSt id stOk)

/-- FWD_SET. -/
def execFwdSet (d : CmdDesc) (s : State) : Host.Outcome State Fault Refusal := run (fwdSetEffect d) s

end Sys2Proof.Machine
end

