-- ==== Sys2Proof/Machine/Measure.lean ====
section
/-! DEFINITION. Measurement: the decimation chain, sets, records, derived quantities, modulator faults (13, 16 R401). -/

namespace Sys2Proof.Machine

/-! ### Chains of the sets (13 R333-R336) -/

/-- Coefficients in the RAM of a set. -/
def Dev.ramCoefs (d : Dev) (k : Nat) : List Int :=
  (List.range 32).map (fun t => signed 18 (d.fld (Reg.measFir k t) 17 0))

/-- The chain of a set. -/
def Dev.setCfg (d : Dev) (k : Nat) : ChainCfg :=
  let src := d.fld (Reg.measSetCfg k) 27 24
  { n := d.fld (Reg.measSetCfg k) 18 16, e := d.fld (Reg.measSetCfg k) 11 8
    coef := if src = 0 then d.ramCoefs k else romCoefs src }

/-- The inputs of a set, ascending (13 R336). -/
def Dev.setInputs (d : Dev) (k : Nat) : List Nat :=
  (List.range 104).filter (fun i => bit (d.reg (Reg.measSetCh k (i / 32))) (i % 32))

/-- Whether the clock of an input runs. -/
def Dev.mclkOn (d : Dev) (i : Nat) : Bool := d.flag Reg.measIf (if i < 56 then 24 else 25)

/-- Whether an input is in modulator fault. -/
def Dev.inFault (d : Dev) (i : Nat) : Bool := d.meas.fault.any (fun e => decide (e.1 = i))

/-! ### Set commands (13 R333-R338, 16 R401) -/

/-- Whether an input mask shares an input with another set. -/
def Dev.maskShared (d : Dev) (k : Nat) (mask : List Byte) : Bool :=
  (List.range 104).any (fun i => bit (byteAt mask (i / 8)) (i % 8) &&
    (List.range 8).any (fun j => decide (j ≠ k) && bit (d.reg (Reg.measSetCh j (i / 32))) (i % 32)))

/-- The arguments of MEAS_CFG lie within their ranges. -/
def measCfgOk (c : CmdDesc) : Bool :=
  decide (3 ≤ c.f1 10 8 ∧ c.f1 10 8 ≤ 5 ∧ 4 ≤ c.f1 19 16 ∧ c.f1 19 16 ≤ 10 ∧ c.f1 27 24 ≤ 12 ∧ leAt c.bytes 13 3 = 0) &&
    (List.range 32).all (fun t => decide (leAt c.bytes (16 + 4 * t) 4 < 2 ^ 18))

/-- Effect of MEAS_CFG. A set that is not STOPPED answers ST_NOT_STOPPED (13 R333). -/
def measCfgEffect : CmdDesc → Dev → Dev :=
  command { CmdSpec.plain 0x40 with len := fun _ n => decide (n = 16 ∨ n = 144), m1 := 0x0F0F0707 } always
    (fun d c => decide ((d.mset (c.f1 2 0)).st ≠ .stopped) || measCfgOk c)
    (fun id c d =>
      let k := c.f1 2 0
      if (d.mset k).st ≠ .stopped then d.finishSt id stNotStopped
      else if d.maskShared k (c.bytes.take 16) then d.finishSt id stInvalid
      else
        let d := (d.setFld (Reg.measSetCfg k) 18 16 (c.f1 10 8)).setFld (Reg.measSetCfg k) 11 8 (c.f1 19 16)
        let d := d.setFld (Reg.measSetCfg k) 27 24 (c.f1 27 24)
        let d := iter 4 (fun j d => d.setReg (Reg.measSetCh k j) (leAt c.bytes (4 * j) 4)) d
        let d := if c.n3 = 144 then iter 32 (fun t d => d.setReg (Reg.measFir k t) (leAt c.bytes (16 + 4 * t) 4)) d else d
        d.finishSt id stOk)

/-- MEAS_CFG. -/
def execMeasCfg (d : CmdDesc) (s : State) : Host.Outcome State Fault Refusal := run (measCfgEffect d) s

/-- Effect of MEAS_START. -/
def measStartEffect : CmdDesc → Dev → Dev :=
  command { CmdSpec.plain 0x41 with m0 := 2 ^ 64 - 1, m1 := 7, m2 := 1 }
    (fun d c => decide ((d.mset (c.f1 2 0)).st = .stopped))
    (fun _ c => decide (c.n2 = 0 ∨ c.a0.toNat < 2 ^ 48))
    (fun id c d =>
      let k := c.f1 2 0
      let target := if c.n2 = 0 then (d.mpt / 2 ^ 24 + 1) * 2 ^ 24 % 2 ^ 48 else c.mpt
      if d.setInputs k = [] then d.finishSt id stInvalid
      else if c.n2 = 1 ∧ !mptBefore d.mpt target then d.finishSt id stLate
      else d.modMset k (fun s => { s with st := .armed, target := target, cmd := some id }))

/-- MEAS_START. -/
def execMeasStart (d : CmdDesc) (s : State) : Host.Outcome State Fault Refusal := run (measStartEffect d) s

/-- Effect of MEAS_STOP (13 Table ME.3, ME.7): a set with records of output instants that have come still due stops after the last of them. -/
def measStopEffect : CmdDesc → Dev → Dev :=
  command { CmdSpec.plain 0x42 with m1 := 7 } always always
    (fun id c d => d.haltSet (c.f1 2 0) (some id))

/-- MEAS_STOP. -/
def execMeasStop (d : CmdDesc) (s : State) : Host.Outcome State Fault Refusal := run (measStopEffect d) s

/-- The first modulator edge at or after a target MPT that has come, ns since reset: edges lie 50 ns apart from the start of the modulator clocks
(13 R329, R338). -/
def Dev.syncEdge (d : Dev) (target : Nat) : Nat :=
  let gone := (unsigned 72 ((d.tb.acc.toNat : Int) - (target * 2 ^ 24 : Nat))) * 4 / d.tb.freq.toNat
  4 * d.meas.start + 50 * ((4 * d.clk - gone - 4 * d.meas.start + 49) / 50)

/-- Effect of SET_SYNC_POINT: the first modulator edge at or after the target (13 R338). -/
def setSyncPointEffect (k : Nat) (d : Dev) : Dev :=
  let s := d.mset k
  let edge := d.syncEdge s.target
  if d.dev ≠ .run ∨ s.st ≠ .armed ∨ mptBefore d.mpt s.target ∨ 4 * d.clk < edge then d
  else
    let d := d.modMset k (fun s => { s with st := .running, sync := edge, rseq := 0, cmd := none
                                            chains := (d.setInputs k).map (fun i => (i, Chain.init)) })
    match s.cmd with
    | none => d
    | some id => d.finish id stOk (wideQ (d.mptAtNs edge) SetState.running.code 0)

/-- SET_SYNC_POINT. -/
def execSetSyncPoint (k : Fin 8) (s : State) : Host.Outcome State Fault Refusal := run (setSyncPointEffect k) s

/-! ### Records (13 R339-R342) -/

/-- A sample word (13 Table ME.5). -/
def sampleWord (i : Nat) (o : ChainOut) : Nat :=
  i * 2 ^ 24 + b2n o.ovr * 2 ^ 20 + b2n o.fault * 2 ^ 19 + b2n o.settle * 2 ^ 18 + unsigned 18 o.sample

/-- Whether output `rseq` + 1 of a running set has fallen, before a stop, and the bits are those of one output period of every input. -/
def Dev.outputDue (d : Dev) (k : Nat) (bits : List (List Bool)) : Bool :=
  let s := d.mset k
  decide (d.dev.clocked ∧ s.st = .running ∧ s.rseq < s.ends.getD (d.outputsBy k)) &&
    decide (bits.length = s.chains.length) && bits.all (fun b => decide (b.length = 2 ^ d.fld (Reg.measSetCfg k) 11 8))

/-- Effect of MEAS_OUTPUT. -/
def measOutputEffect (k : Nat) (bits : List (List Bool)) (d : Dev) : Dev :=
  if !d.outputDue k bits then d
  else
    let s := d.mset k
    let cfg := d.setCfg k
    let outs : List (Nat × ChainOut) :=
      (s.chains.zip bits).map (fun x => (x.1.1, Chain.output x.1.2 cfg (d.inFault x.1.1) x.2))
    let words := outs.flatMap (fun o => leBytes 4 (sampleWord o.1 o.2))
    let rec_ := leBytes 6 (d.stamp cfg.n cfg.e s.sync (s.rseq + 1)) ++ leBytes 1 k ++ leBytes 1 outs.length ++ leBytes 4 s.rseq ++
      leBytes 1 (b2n d.tb.holdover) ++ [0, 0, 0] ++ words
    let d := d.modMset k (fun s => { s with rseq := s.rseq + 1, chains := outs.map (fun o => (o.1, o.2.chain)) })
    let d := outs.foldl (fun d o => if o.2.ovr then d.raise .meas 1 else d) d
    (d.push (1 + k) rec_).endSet k

/-- MEAS_OUTPUT. -/
def execMeasOutput (k : Fin 8) (bits : List (List Bool)) (s : State) : Host.Outcome State Fault Refusal :=
  run (measOutputEffect k bits) s

/-! ### Derived quantities (13 R343-R345) -/

/-- The derived chain: order 4, decimation 256, response H08. -/
def derCfg : ChainCfg := { n := 4, e := 8, coef := romCoefs 8 }

/-- The outputs of a derived chain over bits, and the chain after them. An output is computed during a modulator fault where the bit has then
been held for `stuck` clocks, or the clock is off (13 R329, R330, R339). -/
def derOutputs (off : Bool) (stuck : Nat) (c : Chain) (bits : List (List Bool)) : List ChainOut × Chain :=
  bits.foldl (fun (a : List ChainOut × Chain) b =>
    let o := a.2.output derCfg (off || decide (stuck ≤ (heldRun a.2.bit a.2.run b).2)) b
    (a.1 ++ [o], o.chain)) ([], c)

/-- sqrt(num / den), its rounding free where it is not exact (log 3). -/
def Dev.sqrtFree (d : Dev) (num den : Nat) : Nat × Dev :=
  let r := isqrtFrom (num / den) 34 0
  if r * r * den = num then (r, d) else (r + d.free.1.toNat % 2, d.free.2)

/-- RMS of samples in units of 2^-31 of full scale, 2^17. -/
def Dev.rmsOf (d : Dev) (xs : List Int) : Nat × Dev :=
  d.sqrtFree ((xs.map (fun x => (x * x).toNat)).foldl (· + ·) 0 * 2 ^ 28) xs.length

/-- Power of two sample lists in units of 2^-30. -/
def Dev.powerOf (d : Dev) (xs vs : List Int) : Int × Dev :=
  d.divFree (((xs.zip vs).map (fun x => x.1 * x.2)).foldl (· + ·) 0) (xs.length * 16)

/-- theta of a voltage before `VOFS`: the phase of the positive-going zero crossing. -/
def thetaOf (xs : List Int) (phases : List Nat) : Nat :=
  let s := (xs.zip phases).foldl (fun (a : Int × Int) x =>
    let c := fixCosSin (2 ^ 24) x.2
    (a.1 + x.1 * c.1, a.2 + x.1 * c.2)) (0, 0)
  zcAngle s.2 (-s.1)

/-- Compute a value with the device for each of a list. -/
def Dev.each {α β : Type} (d : Dev) (f : Dev → α → β × Dev) (l : List α) : List β × Dev :=
  l.foldl (fun (a : List β × Dev) x => let r := f a.2 x; (a.1 ++ [r.1], r.2)) ([], d)

/-- Whether a timestamp lies in a later cycle than the one whose derived record is due. -/
def Meas.later (m : Meas) (t : Nat) : Bool :=
  let since := (t / 2 ^ 24 + 2 ^ 24 - m.cyc) % 2 ^ 24
  decide (0 < since ∧ since < 2 ^ 23)

/-- The timestamps of the outputs that lead up to the end of the cycle whose derived record is due. -/
def Meas.cycleStamps (m : Meas) : List Nat := m.stamps.takeWhile (fun t => !m.later t)

/-- Whether every output of the cycle whose derived record is due has been computed, and the bits are whole output periods of all inputs. -/
def Dev.derivedDue (d : Dev) (bits : List (List Bool)) : Bool :=
  let m := d.meas
  d.dev.clocked && m.stamps.any m.later && decide (bits.length = 104) &&
    bits.all (fun b => decide (b.length = 256 * m.cycleStamps.length))

/-- Effect of DERIVED_CYCLE_END: of the outputs up to the cycle's end, those count whose timestamp lies in it (13 R344). -/
def derivedCycleEndEffect (bits : List (List Bool)) (d : Dev) : Dev :=
  if !d.derivedDue bits then d
  else
    let ts := d.meas.cycleStamps
    let mine := fun (t : Nat) => decide (t / 2 ^ 24 = d.meas.cyc)
    let phases := (ts.filter mine).map (fun t => t % 2 ^ 24)
    let n := phases.length
    let outs : List (Nat × List ChainOut × Chain) := (bits.zip (List.range 104)).map (fun x =>
      let r := derOutputs (!d.mclkOn x.2) (d.fld Reg.measFault 11 0) (SMap.get (fun _ => Chain.init) x.2 d.meas.der)
        (chunks 256 ts.length x.1)
      (x.2, ((ts.zip r.1).filter (fun y => mine y.1)).map (fun y => y.2), r.2))
    let xs := fun (i : Nat) => ((outs.getD i (0, [], Chain.init)).2.1).map (fun c => c.sample)
    let theta := (List.range 8).map (fun i =>
      (i, unsigned 24 ((thetaOf (xs i) phases : Int) - (d.fld (Reg.measVofs i) 23 0 : Int))))
    let rms := d.each (fun d i => d.rmsOf (xs i)) (List.range 104)
    let volt := fun (i : Nat) => 4 * d.fld (Reg.gongGrp ((i - 8) / 3)) 8 8 + (i - 8) % 3
    let pow := rms.2.each (fun d i => d.powerOf (xs i) (xs (volt i))) ((List.range 96).map (fun i => i + 8))
    let settle := outs.any (fun x => x.2.1.any (fun c => c.settle))
    let fault := fun (x : Nat × List ChainOut × Chain) => x.2.1.any (fun c => c.fault)
    let flags := b2n (d.meas.cycHold || d.tb.holdover) + 2 * b2n settle + 4 * b2n (outs.any fault)
    let fmask := ((outs.filter fault).map (fun x => 2 ^ x.1)).foldl (· + ·) 0
    let bytes := leBytes 3 d.meas.cyc ++ leBytes 1 flags ++ leBytes 2 n ++ [0, 0] ++ leBytes 24 fmask ++
      (rms.1.take 8).flatMap (leBytes 4) ++ theta.flatMap (fun t => leBytes 4 t.2) ++ (rms.1.drop 8).flatMap (leBytes 4) ++
      pow.1.flatMap (fun p => leBytes 4 (unsigned 32 p))
    let d := pow.2
    let d := { d with meas := { d.meas with
      der := outs.map (fun (x : Nat × List ChainOut × Chain) => (x.1, x.2.2)), theta := theta, cyc := (d.meas.cyc + 1) % 2 ^ 24
      cycHold := d.tb.holdover, stamps := d.meas.stamps.drop ts.length } }
    let d := (outs.flatMap (fun x => x.2.1)).foldl (fun d c => if c.ovr then d.raise .meas 1 else d) d
    if d.flag Reg.measCtrl 0 then d.push 9 bytes else d

/-- DERIVED_CYCLE_END. -/
def execDerivedCycleEnd (bits : List (List Bool)) (s : State) : Host.Outcome State Fault Refusal :=
  run (derivedCycleEndEffect bits) s

/-! ### Modulator faults (13 R329, R330) -/

/-- An input enters fault with its bit held at a value. -/
def Dev.modFault (d : Dev) (i : Nat) (v : Bool) : Dev :=
  if d.inFault i then d
  else
    let d := { d with meas := { d.meas with fault := SMap.put i v d.meas.fault } }
    (d.raise .meas 2).event 0x0501 stOk i [BitVec.ofNat 8 (b2n v)]

/-- Effect of MODULATOR_FAULT: the captured bit of an input has been `v` for `clocks` consecutive clocks. -/
def modulatorFaultEffect (i : Nat) (v : Bool) (clocks : Nat) (d : Dev) : Dev :=
  if !d.dev.clocked ∨ clocks < d.fld Reg.measFault 11 0 then d else d.modFault i v

/-- MODULATOR_FAULT. -/
def execModulatorFault (i : Fin 104) (value : Bool) (clocks : Nat) (s : State) : Host.Outcome State Fault Refusal :=
  run (modulatorFaultEffect i value clocks) s

/-- Effect of MODULATOR_FAULT_CLEAR: the captured bit of an input is `v`; a change of value clears the fault. While its clock is held low the
input stays in fault (13 R329). -/
def modulatorFaultClearEffect (i : Nat) (v : Bool) (d : Dev) : Dev :=
  if d.dev.clocked && d.mclkOn i && d.meas.fault.any (fun e => decide (e = (i, !v))) then
    { d with meas := { d.meas with fault := SMap.del i d.meas.fault } }
  else d

/-- MODULATOR_FAULT_CLEAR. -/
def execModulatorFaultClear (i : Fin 104) (value : Bool) (s : State) : Host.Outcome State Fault Refusal :=
  run (modulatorFaultClearEffect i value) s

end Sys2Proof.Machine
end

