-- ==== Sys2Proof/Machine/Start.lean ====
section
/-! DEFINITION. Starting a group and changing its mask (01 R33, 06 R153-R155, 09 R229, Table TM.7, 16 R398, 22 R502). -/

namespace Sys2Proof.Machine

/-! ### GRP_START -/

/-- The occupancy buckets of a port start full (06 R155). -/
def Dev.fillBuckets (d : Dev) (p : Nat) : Dev :=
  let on := (List.range 8).filter (fun b => d.flag (Reg.occBand (portGroup p) b) 31)
  let full := fun b => (b, ({ level := d.occCap (portGroup p) b, runStart := none, last := none } : Occ))
  d.modPort p (fun x => { x with occ := on.map full })

/-- A start with another profile: nodes that lack it are evicted, the stored entries of the rest are converted (09 R229). -/
def Dev.newProfile (d : Dev) (g : Nat) : Dev :=
  let prof := d.profile g
  if prof = (d.group g).entryProf then d
  else
    let lacking := (d.admittedOf g).filter (fun nh => !bit (d.node nh).profMask prof)
    let d := lacking.foldl (fun d nh => d.evict nh 6) d
    (d.convertGroup g).modGroup g (fun x => { x with entryProf := prof })

/-- Converter calibration begins on one port of a start; its training is still to come. -/
def Dev.startPort (d : Dev) (p : Nat) : Dev :=
  (d.startCal p).modPort p (fun x => { x with calOk := false, trainOk := true, trainEnd := false })

/-- Effect of GRP_START (22 R502, Table OR.6). -/
def grpStartEffect : CmdDesc → Dev → Dev :=
  command { CmdSpec.plain 0x11 with m2 := 0xFFFF, lim2 := 32 } (fun d c => decide ((d.group c.n2).st = .down)) always
    (fun id c d =>
      let g := c.n2
      let d := (d.modGroup g (fun x => { x with startCmd := some id, calBp := none })).setGroup g .calibrating
      let d := (groupPorts g).foldl (fun d p => d.fillBuckets p) (d.newProfile g)
      let d := (d.enabledPorts g).foldl (fun d p => d.startPort p) d
      d.judgeCal g)

/-- GRP_START. -/
def execGrpStart (d : CmdDesc) (s : State) : Host.Outcome State Fault Refusal := run (grpStartEffect d) s

/-! ### Masks -/

/-- Whether a mask entry is legal (06 R150). -/
def maskEntryOk (w : Nat) : Bool := decide (bits w 31 28 = 0 ∨ bits w 13 0 ≤ bits w 27 14)

/-- The carriers at which a mask's code may change: the first of all, and those at and just after the ends of its entries. -/
def maskEdges (es : List (BitVec 32)) : List Nat := 0 :: es.flatMap (fun e => [bits e.toNat 13 0, bits e.toNat 27 14 + 1])

/-- Whether a mask change gives some carrier another code than before, other than 0xF (09 Table TM.7). -/
def maskMoves (old new : List (BitVec 32)) : Bool :=
  (maskEdges old ++ maskEdges new).any (fun k => decide (maskCode new k ≠ maskCode old k ∧ maskCode new k ≠ 15))

/-- A mask takes effect: the registers read it, entries not given are unused, and keys are marked STALE (06 R153, 09 R240). -/
def Dev.applyMask (d : Dev) (g : Nat) (es : List (BitVec 32)) (ver : Nat) : Dev :=
  let old := d.maskOf g
  let d := iter 64 (fun n d => d.setReg (Reg.mask g n) (es.getD n 0).toNat) d
  let d := d.modGroup g (fun x => { x with maskVer := ver, maskNext := none, maskWas := some (d.tb.n, old) })
  if maskMoves old (d.maskOf g) then
    d.markStale (d.activeKeys (fun nh _ _ => decide ((d.node nh).grp = g) && (d.node nh).st.isAdmitted)) 3 0x3FFF 0xFF 3 g
  else d

/-- The entries of a mask block. -/
def maskBlock (c : CmdDesc) : List (BitVec 32) := (records 4 c.bytes).map (fun b => BitVec.ofNat 32 (leNat b))

/-- Effect of MASK_LOAD (16 R398): at once in CONFIG or with the group in DOWN, else announced by the beacons to come. -/
def maskLoadEffect : CmdDesc → Dev → Dev :=
  command { CmdSpec.plain 0x15 with len := fun _ n => decide (4 ≤ n ∧ n ≤ 256 ∧ n % 4 = 0), m1 := 0xF, m2 := 0xFFFF,
                                    lim2 := 32 }
    (fun d c => (d.group c.n2).maskNext.isNone)
    (fun _ c => (maskBlock c).all (fun w => maskEntryOk w.toNat))
    (fun id c d =>
      let g := c.n2
      if d.dev = .config ∨ (d.group g).st = .down then
        (d.applyMask g (maskBlock c) (c.f1 3 0)).finish id stOk (quints 0 0 0 0 0)
      else
        let m : MaskChange := { entries := maskBlock c, ver := c.f1 3 0, effBp := none, cmd := id }
        d.modGroup g (fun x => { x with maskNext := some m }))

/-- MASK_LOAD. -/
def execMaskLoad (d : CmdDesc) (s : State) : Host.Outcome State Fault Refusal := run (maskLoadEffect d) s

/-- Effect of MASK_EFFECTIVE: the announced beacon period has begun. A change that no beacon has carried takes effect once
the group is DOWN (16 R398; log 21). -/
def maskEffectiveEffect (g : Nat) (d : Dev) : Dev :=
  if !d.dev.clocked then d
  else
    match (d.group g).maskNext with
    | none => d
    | some m =>
      match m.effBp with
      | some e =>
        if bpSince e d.msync.bpi < 2 ^ 22 then (d.applyMask g m.entries m.ver).finish m.cmd stOk (quints (e % 65536) 0 0 0 0)
        else d
      | none =>
        if (d.group g).st = .down then (d.applyMask g m.entries m.ver).finish m.cmd stOk (quints 0 0 0 0 0) else d

/-- MASK_EFFECTIVE. -/
def execMaskEffective (g : Fin 32) (s : State) : Host.Outcome State Fault Refusal := run (maskEffectiveEffect g) s

end Sys2Proof.Machine
end

