-- ==== Sys2Proof/Machine/Registers.lean ====
section
/-! DEFINITION. BAR 0 writes (00 R7-R12, 24 R523-R528): the device state, the lock and the reserved encodings that a write
meets, what it changes, and what a register does when it is written. -/

namespace Sys2Proof.Machine

/-! ### Which register, and whether it takes writes -/

/-- The register at a word offset; the registers of queue numbers that Table QC.2 does not list are reserved (17 R410). -/
def regAt (off : Nat) : Option (RegSpec × List Nat) :=
  if 0xA1000 ≤ off ∧ off < 0xA2000 ∧ !queueListed ((off - 0xA1000) / 16) then none else findReg off

/-- Whether the register at an offset is PF0's MSI-X table or its Pending Bit Array (24 R523). -/
def inMsix (off : Nat) : Bool := decide (0x8000 ≤ off ∧ off < 0x8100 ∨ 0x9000 ≤ off ∧ off < 0x9004)

/-- Whether the device state takes a write at an offset (01 Table OR.4, 00 R12, 24 R523). -/
def Dev.takesWrite (d : Dev) (off : Nat) : Bool :=
  inMsix off ||
  match d.dev with
  | .off => false
  | .config => true
  | .boot => decide (off < 0x10000 ∨ 0xC0000 ≤ off ∧ off < 0xD0000)
  | .safe => decide (0xE0000 ≤ off ∧ off < 0x100000)
  | .run => match regAt (off - off % 4) with | some (r, _) => r.run | none => false

/-- A write that the device state discards (24 R526). -/
def Dev.stateDiscard (d : Dev) (off : Nat) : Dev :=
  let d := (d.raise .mnt 0).count 41 7 1 none 1
  { d with mnt := { d.mnt with refOff := off } }

/-- A write that is refused whole, malformed or to a reserved offset (24 R526). -/
def Dev.refuseWrite (d : Dev) (off : Nat) : Dev :=
  let d := d.raise .mnt 1
  { d with mnt := { d.mnt with refOff := off } }

/-- Whether the RWL fields at an offset are frozen (00 R8, 24 R527). -/
def Dev.locked (d : Dev) (off : Nat) : Bool :=
  match lockOf off with | some l => d.flag l 31 | none => false

/-! ### Selectors (20 R462) -/

/-- The `_SEEN` bits of a status register by counter bank and `SRC`; `SRC` 7 gives the bank's further events. -/
def selectorBits (bank src : Nat) : List Nat :=
  if bank < 32 then
    match src with
    | 0 => [27, 28, 29, 30, 31] | 1 => [28, 29, 30, 31] | 2 => [28, 29, 30, 31] | 3 => [0, 1, 2, 3, 4]
    | 4 => [0, 1, 2, 3] | 5 => [0, 1, 2, 3, 4, 5, 6] | 6 => [28, 29, 30, 31] | _ => [0, 1, 2, 3, 4, 5]
  else
    match bank, src with
    | 32, 0 => [9, 10, 11] | 32, 1 => [8, 9, 10, 11]
    | 33, 0 => [0, 1, 2, 3] | 33, 7 => [0, 1]
    | 34, 0 => [0, 1, 2, 3, 4, 5] | 34, 7 => [0, 1, 2, 3]
    | 35, 0 => [0, 1, 2, 3, 4, 5, 6]
    | 36, 0 => [0, 1, 2]
    | 37, 0 => [16, 17] | 37, 7 => [0, 1]
    | 38, 0 => [0, 1, 2, 3, 4]
    | 39, 0 => [0, 1, 2] | 39, 7 => [0, 1, 2, 3, 4, 5]
    | 40, 0 => [1, 2, 3] | 40, 1 => [8] | 40, 7 => [0, 1, 2]
    | 41, 0 => [0, 1, 2, 3] | 41, 1 => [1, 2, 3, 4, 5, 6, 7, 8, 9, 10, 11, 12, 13] | 41, 7 => [0, 1]
    | _, 7 => [0]
    | _, _ => []

/-- Whether a selector may stand in a bank. -/
def selectorOk (bank v : Nat) : Bool :=
  let src := bits v 7 5
  (selectorBits bank src).contains (bits v 4 0) &&
    (!bit v 14 || (decide (bank < 32) && (decide (src ≤ 2) || (decide (src = 7) && decide (bits v 4 0 = 1)))))

/-! ### Reserved encodings (00 R11) -/

/-- Boundary `k` (1 to 7) of a set written to `v`: boundaries rise and every segment is 2^17 PU long at least (02 R54). -/
def Dev.boundsOk (d : Dev) (neg : Bool) (k v : Nat) : Bool :=
  let b := fun i => if i = 0 then 0 else if i = 8 then 2 ^ 23 else if i = k then v else
    d.fld (if neg then Reg.mptSegbN (i - 1) else Reg.mptSegbP (i - 1)) 22 0
  (List.range 8).all (fun i => decide (b i + 2 ^ 17 ≤ b (i + 1)))

/-- Whether a group register may hold a word: `o` is its offset in the block (the field maps of chapters 03, 04, 06, 07, 08,
11, 12). -/
def Dev.groupWordOk (d : Dev) (g o v : Nat) : Bool :=
  let f := fun hi lo => bits v hi lo
  let down := decide ((d.group g).st = .down)
  if o = 0 then decide (f 1 0 ≠ 3) && (down || decide (f 1 0 = d.fld (Reg.grpCtrl g) 1 0))
  else if o = 4 then rolesOk v && (down || decide (v = d.reg (Reg.grpRole g)))
  else if 0x100 ≤ o ∧ o < 0x200 then
    if o % 0x40 = 0 then decide (f 21 20 ≠ 3 ∧ f 3 0 ≤ 8)
    else if o % 0x40 = 4 then decide (85 ≤ f 23 16 ∧ f 23 16 ≤ 115 ∧ 0x0A ≤ f 7 0 ∧ f 7 0 ≤ 0x7D)
    else true
  else if o = 0x200 then decide (f 23 16 % 8 = 0 ∧ 16 ≤ f 23 16 ∧ f 23 16 ≤ 128 ∧ f 11 8 ≤ 8)
  else if o = 0x204 then decide (f 31 16 ≠ 0 ∧ 40 ≤ f 15 8 ∧ f 15 8 ≤ 80 ∧ 3 ≤ f 3 0)
  else if o = 0x208 then decide (8 ≤ f 12 8 ∧ f 12 8 ≤ 20 ∧ 6 ≤ f 4 0 ∧ f 4 0 ≤ 16 ∧ f 4 0 ≤ f 12 8)
  else if o = 0x400 then
    decide (1 ≤ f 27 20 ∧ f 27 20 ≤ 128 ∧ 6 ≤ f 12 8 ∧ f 12 8 ≤ 20) && (down || decide (f 1 0 = d.profile g))
  else if 0x500 ≤ o ∧ o < 0x600 then maskEntryOk v
  else if 0x600 ≤ o ∧ o < 0x680 ∧ o % 0x10 = 8 then decide (f 31 24 ≠ 0 ∧ f 10 0 ≤ 0x400)
  else if o = 0x1000 then decide (f 3 0 ≤ 12) && (down || decide (f 21 16 = d.fld (Reg.ffCtrl g) 21 16))
  else if o = 0x1004 then decide (0x3C ≤ f 22 16 ∧ 0x20 ≤ f 7 0 ∧ f 7 0 ≤ 0xF0)
  else if o = 0x1100 then decide (f 18 16 ≤ 5 ∧ 3 ≤ f 3 0)
  else if o = 0x1104 then decide (f 13 8 ≠ 0 ∧ f 5 0 ≠ 0 ∧ f 13 8 ≤ d.fld (Reg.ccTran g) 5 0)
  else if o = 0x1108 then decide (f 31 16 ≠ 0 ∧ f 5 0 ≠ 0 ∧ d.fld (Reg.ccBlk g) 13 8 ≤ f 5 0)
  else if o = 0x1200 then decide (f 20 16 ≠ 0 ∧ f 15 8 ≠ 0)
  else if o = 0x1204 then decide (f 7 0 ≠ 0)
  else if o = 0x1300 then decide (f 23 20 ≠ 0 ∧ f 15 8 ≠ 0)
  else if o = 0x1304 then decide (2 ≤ f 28 16 ∧ f 28 16 ≤ 0x800 ∧ f 7 0 ≠ 0 ∧ f 7 0 ≤ f 28 16)
  else if o = 0x1308 then decide (f 15 0 ≠ 0 ∧ f 15 0 ≤ f 31 16)
  else if o = 0x130C then decide (0x10 ≤ f 27 16 ∧ f 27 16 ≤ 0xC00 ∧ 1 ≤ f 6 0 ∧ f 6 0 ≤ 64)
  else if o = 0x1310 then decide (f 31 16 ≠ 0 ∧ f 12 0 ≠ 0)
  else true

/-- Whether a set of the measurement would share an input with another set if word `j` of its input mask were `v` (13 R336). -/
def Dev.inputShared (d : Dev) (k j v : Nat) : Bool :=
  (List.range 8).any (fun k' => decide (k' ≠ k) && decide (d.reg (Reg.measSetCh k' j) &&& v ≠ 0))

/-- Whether the timebase, measurement, output and host-interface registers may hold a word (02, 13, 14, 15, 22). -/
def Dev.lowWordOk (d : Dev) (off v : Nat) : Bool :=
  let f := fun hi lo => bits v hi lo
  if off = Reg.pwrTherm then
    decide (100 ≤ f 15 8 ∧ f 15 8 ≤ 118 ∧ 70 ≤ f 7 0 ∧ f 7 0 ≤ 110 ∧ f 7 0 < f 15 8)
  else if off = Reg.mptCtrl then decide (f 15 8 ≠ 0)
  else if off = Reg.mptRef then !(d.flag Reg.mptCtrl 3 && decide (f 6 4 = f 2 0))
  else if off = Reg.mptThr then decide (12 ≤ f 12 8 ∧ f 12 8 ≤ 22 ∧ 8 ≤ f 4 0 ∧ f 4 0 ≤ 18 ∧ f 4 0 < f 12 8)
  else if off = Reg.mptLom then decide (f 19 16 ≠ 0 ∧ f 11 8 ≠ 0 ∧ f 7 0 ≠ 0)
  else if off = Reg.mptSlew then decide (10 ≤ f 4 0 ∧ f 4 0 ≤ 16)
  else if 0x40040 ≤ off ∧ off < 0x4005C then d.boundsOk false ((off - 0x40040) / 4 + 1) (f 22 0)
  else if 0x40060 ≤ off ∧ off < 0x4007C then d.boundsOk true ((off - 0x40060) / 4 + 1) (f 22 0)
  else if off = Reg.msyncCtrl then decide (12 ≤ f 20 16 ∧ f 20 16 ≤ 22)
  else if off = Reg.msyncRate then decide (f 14 0 ≤ 0x4000)
  else if off = Reg.msyncAbs then decide (f 19 0 ≤ 0x80000)
  else if off = Reg.msyncoCtrl then decide (f 15 8 ≠ 0)
  else if off = Reg.measIf then decide (f 13 8 ≤ 49 ∧ f 5 0 ≤ 49)
  else if off = Reg.measFault then decide (0x20 ≤ f 11 0)
  else if 0x60100 ≤ off ∧ off < 0x60200 then
    let k := (off - 0x60100) / 0x20
    if off % 0x20 = 0 then decide (f 27 24 ≤ 12 ∧ 3 ≤ f 18 16 ∧ f 18 16 ≤ 5 ∧ 4 ≤ f 11 8 ∧ f 11 8 ≤ 10)
    else if off % 0x20 ≤ 0x10 then !d.inputShared k (off % 0x20 / 4 - 1) v
    else true
  else if off = Reg.swoTime then decide (10 ≤ f 25 16 ∧ f 25 16 ≤ 1000 ∧ f 7 0 ≠ 0)
  else if off = Reg.hifDbpoll then decide (250 ≤ f 19 0 ∧ f 19 0 ≤ 1000000)
  else if off = Reg.hifRxhold then decide (f 15 0 ≠ 0)
  else true

/-- Whether the queue, check-value, counter, maintenance, Carillon, Marimba and Gong registers may hold a word (05, 09, 10, 17,
18, 20, 21). -/
def Dev.highWordOk (d : Dev) (off v : Nat) : Bool :=
  let f := fun hi lo => bits v hi lo
  if off = Reg.quePool then decide (0 ≤ (d.setReg off v).sharedInt)
  else if 0xA0100 ≤ off ∧ off < 0xA0180 then
    decide (f 31 16 ≤ 0x8000 ∧ f 15 0 ≤ 0x7FFF) && decide (0 ≤ (d.setReg off v).sharedInt)
  else if 0xA1000 ≤ off ∧ off < 0xA2000 then off % 16 != 0 || decide (f 15 0 < f 31 16)
  else if 0xB0100 ≤ off ∧ off < 0xB0200 then
    if off % 0x40 = 0 then decide (f 10 8 ≤ 4) else if off % 0x40 = 0xC then decide (v ≠ 0) else true
  else if off = Reg.cntSweep then decide (10 ≤ f 19 0 ∧ f 19 0 ≤ 1000000)
  else if off = Reg.cntClvSeed then decide (f 30 0 ≠ 0)
  else if 0xD1000 ≤ off ∧ off < 0xD2000 then selectorOk ((off - 0xD1000) / 0x40) (f 15 0)
  else if off = Reg.mntCtrl then decide (10 ≤ f 15 0 ∧ f 15 0 ≤ 10000)
  else if off = Reg.carLead then decide (0x100 ≤ f 15 0 ∧ f 15 0 ≤ 0x4000)
  else if off = Reg.marLoad then
    decide (1 ≤ f 31 28 ∧ f 31 28 ≤ 12 ∧ f 26 24 ≤ 4 ∧ 4 ≤ f 20 16 ∧ f 7 0 ≤ 0x28)
  else if off = Reg.marUpd then decide (f 11 8 ≠ 0 ∧ 3 ≤ f 3 0)
  else if off = Reg.gongCtrl then decide (f 13 12 ≠ 3 ∧ f 11 8 ≠ 0)
  else if off = Reg.gongGrid then decide (1 ≤ f 31 24 ∧ f 31 24 ≤ 0xC0 ∧ 0x40 ≤ f 12 0)
  else if off = Reg.gongAssoc then decide (f 23 16 ≠ 0 ∧ f 15 0 ≠ 0)
  else if off = Reg.gongNode then decide (f 31 16 ≠ 0 ∧ 0x10 ≤ f 15 0)
  else if off = Reg.gongZc then decide (14 ≤ f 20 16 ∧ f 20 16 ≤ 20 ∧ 1 ≤ f 15 12 ∧ f 15 12 ≤ 8)
  else if 0x600100 ≤ off ∧ off < 0x600180 then decide (f 1 0 ≠ 3)
  else true

/-- Whether the register at an offset may hold the word that a write leaves in it. -/
def Dev.wordOk (d : Dev) (off v : Nat) : Bool :=
  if 0x100000 ≤ off ∧ off < 0x300000 then d.groupWordOk ((off - 0x100000) / 0x10000) (off % 0x10000) v
  else if off < 0xA0000 then d.lowWordOk off v
  else d.highWordOk off v

/-! ### What a write leaves in a register (00 R7) -/

/-- The set whose own registers lie at an offset: its configuration, inputs and coefficient RAM (13 R347). -/
def setAtOffset (off : Nat) : Option Nat :=
  if 0x60100 ≤ off ∧ off < 0x60200 then some ((off - 0x60100) / 0x20)
  else if 0x61000 ≤ off ∧ off < 0x61400 then some ((off - 0x61000) / 0x80)
  else none

/-- Whether the RW fields at an offset are read-only for the moment: a measurement set that is not STOPPED (13 R347). -/
def Dev.frozenSet (d : Dev) (off : Nat) : Bool :=
  match setAtOffset off with | some k => decide ((d.mset k).st ≠ .stopped) | none => false

/-- One field after a write of `v` to a register that holds `old`. `ARM` reads 0 and is not kept (17 Table QC.4). -/
def writeField (locked frozen wm : Bool) (old v : Nat) (f : RegField) : Nat :=
  let o := bits old f.hi f.lo
  let x := bits v f.hi f.lo
  match f.acc with
  | .rw => if frozen then o else x
  | .rwl => if locked then o else x
  | .w1c => o - (o &&& x)
  | .w1s => if wm then 0 else o ||| x
  | .ro | .wo | .rc => o

/-- The word a register holds after a write. -/
def writeWord (locked frozen wm : Bool) (fs : List RegField) (old v : Nat) : Nat :=
  fs.foldl (fun w f => setBits w f.hi f.lo (writeField locked frozen wm old v f)) old

/-! ### Check-value units (18 R433-R437) -/

/-- A row of Table IN.4: width, polynomial, initial value, reflection, final XOR. -/
structure CrcAlg where
  w    : Nat
  poly : Nat
  init : Nat
  refl : Bool
  xor  : Nat
  deriving DecidableEq, Repr

/-- Table IN.4 by `POLY`. -/
def crcAlg (poly : Nat) : CrcAlg :=
  match poly with
  | 0 => ⟨24, 0x864CFB, 0xB704CE, false, 0⟩
  | 1 => ⟨32, 0x04C11DB7, 0xFFFFFFFF, true, 0xFFFFFFFF⟩
  | 2 => ⟨16, 0x1021, 0xFFFF, false, 0⟩
  | 3 => ⟨32, 0x1EDC6F41, 0xFFFFFFFF, true, 0xFFFFFFFF⟩
  | _ => ⟨64, 0x42F0E1EBA9EA3693, 0, false, 0⟩

/-- One byte taken into the running value. -/
def CrcAlg.byte (a : CrcAlg) (run : Nat) (x : Byte) : Nat :=
  (if a.refl then (byteBitsMsb x).reverse else byteBitsMsb x).foldl (crcMsbBit a.w a.poly) run

/-- The running value as a number of the algorithm's width. -/
def CrcAlg.across (a : CrcAlg) (run : Nat) (bs : List Byte) : Nat := bs.foldl a.byte (run % 2 ^ a.w)

/-- The finished CRC: output reflection, then the final XOR. -/
def CrcAlg.finish (a : CrcAlg) (run : Nat) : Nat :=
  (if a.refl then iter a.w (fun i x => x + b2n (bit run i) * 2 ^ (a.w - 1 - i)) 0 else run) ^^^ a.xor

/-- `CVU_RUN` of a unit. -/
def Dev.cvuRun (d : Dev) (u : Nat) : Nat := d.reg (Reg.cvuRunHi u) * 2 ^ 32 + d.reg (Reg.cvuRunLo u)
/-- Set `CVU_RUN`. -/
def Dev.setCvuRun (d : Dev) (u v : Nat) : Dev := (d.setReg (Reg.cvuRunLo u) v).setReg (Reg.cvuRunHi u) (v / 2 ^ 32)
/-- The algorithm of a unit. -/
def Dev.cvuAlg (d : Dev) (u : Nat) : CrcAlg := crcAlg (d.fld (Reg.cvuCfg u) 10 8)
/-- Whether a unit scans `CVU_FEED_u`. -/
def Dev.cvuFed (d : Dev) (u : Nat) : Bool := d.flag (Reg.cvuCfg u) 0

/-- `GO`: a scan starts. -/
def Dev.cvuStart (d : Dev) (u : Nat) : Dev :=
  let d := if d.flag (Reg.cvuCfg u) 1 then d else d.setCvuRun u (d.cvuAlg u).init
  d.modCvu u (fun x => { x with busy := true, halted := false, rdErr := false, done := 0, left := d.reg (Reg.cvuLen u) })

/-- The bytes of a scan arrive: the running value takes them, and the last one ends the scan (18 R434). -/
def Dev.cvuTake (d : Dev) (u : Nat) (bytes : List Byte) : Dev :=
  let a := d.cvuAlg u
  let bs := bytes.take (d.cvu u).left
  let run := a.across (d.cvuRun u) bs
  let d := d.setCvuRun u run
  let d := d.modCvu u (fun x => { x with done := x.done + bs.length, left := x.left - bs.length })
  if (d.cvu u).left = 0 then
    d.modCvu u (fun x => { x with
      busy := false, res := if d.flag (Reg.cvuCfg u) 4 then BitVec.ofNat 64 (a.finish run) else x.res })
  else d

/-- A scan stops at a byte boundary: by `HALT`, or by a host read that failed (18 R435, R436). -/
def Dev.cvuStop (d : Dev) (u : Nat) (rdErr : Bool) : Dev :=
  d.modCvu u (fun x => { x with busy := false, halted := true, rdErr := rdErr })

/-- A write to a register of a busy unit: `HALT` and the feed of an `SRC` 1 scan act, every other is discarded (18 R436). -/
def Dev.cvuBusyWrite (d : Dev) (u off v : Nat) : Dev :=
  if off = Reg.cvuCfg u ∧ bit v 30 then d.cvuStop u false
  else if off = Reg.cvuFeed u ∧ d.cvuFed u then d.cvuTake u (leBytes 4 v)
  else d.setFld (Reg.cvuStat u) 3 3 1

/-! ### What a written register does -/

/-- A masked MSI-X entry is unmasked: a pending message is sent once (15 R386). -/
def Dev.unmask (d : Dev) (f v : Nat) : Dev :=
  if (d.fn f).pend.contains v then
    (d.modFn f (fun x => { x with pend := x.pend.filter (fun i => decide (i ≠ v)) })).message f v
  else d

/-- What a write does beyond the word it leaves: `lk` tells that the RWL fields are frozen, `old` and `new` are the register's words, `v` the
word written. A selector takes effect at the next sweep boundary (20 R465). -/
def Dev.afterWrite (d : Dev) (lk : Bool) (off old new v : Nat) : Dev :=
  if off < 0x8100 ∧ off % 16 = 12 then if bit old 0 && !bit new 0 then d.unmask 0 ((off - 0x8000) / 16) else d
  else if off = Reg.pwrCtrl then
    if bit old 0 && !bit new 0 then { d with pwr := { d.pwr with v33 := .off } }
    else if !bit old 0 && bit new 0 then { d with pwr := { d.pwr with v33 := .up } } else d
  else if off = Reg.mptCtrl then
    if bit old 1 = bit new 1 ∨ d.tb.everLocked then d else { d with tb := { d.tb with freq := d.nomFreq } }
  else if off = Reg.mptRef then
    let taps := [bits new 2 0, bits new 6 4].filter (fun i => decide (i ≠ bits old 2 0 ∧ i ≠ bits old 6 4))
    taps.foldl (fun d i => { d with tb := { d.tb with refs := SMap.set (fun _ => RefHist.init) i RefHist.init d.tb.refs } }) d
  else if off = Reg.msyncCtrl then
    if bit old 0 && !bit new 0 then { d with msync := d.msync.released }
    else if !bit old 0 && bit new 0 then { d with msync := { d.msync with runStart := d.msync.bpi } } else d
  else if off = Reg.swoCtrl then if d.swoHiZ ∨ d.dev = .run then d else { d with swoLvl := bits new 15 0 }
  else if off = Reg.measIf then
    (List.range 104).foldl (fun d i =>
      let b := if i < 56 then 24 else 25
      if bit old b && !bit new b then let f := d.free; f.2.modFault i (bit f.1.toNat 0) else d) d
  else if off = Reg.queCtrl then
    if bit new 0 then d else (List.range 113).foldl (fun d q => if (d.wmark q).armed then d.mark q else d) d
  else if 0xA1000 ≤ off ∧ off < 0xA2000 then
    let q := (off - 0xA1000) / 16
    if off % 16 = 0 then d.mark q
    else if off % 16 = 4 ∧ bit v 31 then (d.modWm q (fun w => { w with armed := true })).mark q
    else d
  else if 0xB0100 ≤ off ∧ off < 0xB0200 ∧ off % 0x40 = 0 then
    if bit v 31 then d.cvuStart ((off - 0xB0100) / 0x40) else d
  else if 0xD1000 ≤ off ∧ off < 0xD2000 then
    if lk then d else d.modCounter ((off - 0xD1000) / 4) (fun c => { c with pend := some (BitVec.ofNat 16 new) })
  else if 0xD2000 ≤ off ∧ off < 0xD3000 then
    let b := (off - 0xD2000) / 4
    (List.range 16).foldl (fun d c => if bit v c then d.modCounter (16 * b + c) (fun x => { x with clr := true }) else d) d
  else d

/-- A 32-bit aligned write that the device state takes. -/
def Dev.writeReg (d : Dev) (off v : Nat) : Dev :=
  if off = Reg.ident then d
  else if 0xB0100 ≤ off ∧ off < 0xB0200 ∧ (regAt off).isSome ∧ (d.cvu ((off - 0xB0100) / 0x40)).busy then
    d.cvuBusyWrite ((off - 0xB0100) / 0x40) off v
  else
    match regAt off with
    | none => d.refuseWrite off
    | some (r, _) =>
      let lk := d.locked off
      let old := d.reg off
      let new := writeWord lk (d.frozenSet off) (decide (0xA1000 ≤ off ∧ off < 0xA2000)) r.fields old v
      let rwl := r.fields.any (fun f => decide (f.acc = .rwl))
      if (lk && rwl) || d.frozenSet off || d.wordOk off new then (d.setReg off new).afterWrite lk off old new v
      else d.refuseWrite off

/-- One write access of up to four bytes, or a malformed one. -/
def Dev.writeAccess (d : Dev) (off size v : Nat) : Dev :=
  if !d.takesWrite off then d.stateDiscard off
  else if size ≠ 4 ∨ off % 4 ≠ 0 then d.refuseWrite off
  else d.writeReg off (v % 2 ^ 32)

/-- A BAR 0 write (24 R524): a 64-bit access is two of 32 bits, the lower offset first. Nothing answers in OFF. -/
def Dev.barWrite (d : Dev) (off size v : Nat) : Dev :=
  if d.dev = .off then d
  else if size = 8 ∧ off % 4 = 0 then (d.writeAccess off 4 v).writeAccess (off + 4) 4 (v / 2 ^ 32)
  else d.writeAccess off size v

/-! ### The rows -/

/-- REGISTER_WRITE. A write to a register with a row of its own acts as that row does. -/
def execRegisterWrite (off : BitVec 24) (size : Nat) (data : BitVec 64) (s : State) : Host.Outcome State Fault Refusal :=
  run (fun d => d.barWrite off.toNat size data.toNat) s

/-- Effect of LOCK_SET: 1 is written to the `LOCK` bit of a block. -/
def lockSetEffect (off v : Nat) (d : Dev) : Dev :=
  if bit v 31 ∧ lockOf off = some off then d.barWrite off 4 v else d

/-- LOCK_SET. -/
def execLockSet (off : BitVec 24) (data : BitVec 32) (s : State) : Host.Outcome State Fault Refusal :=
  run (lockSetEffect off.toNat data.toNat) s

/-- Effect of WATERMARK_ARM: 1 is written to `ARM`. -/
def watermarkArmEffect (q v : Nat) (d : Dev) : Dev :=
  if bit v 31 ∧ queueListed q then d.barWrite (Reg.queWmStat q) 4 v else d

/-- WATERMARK_ARM. -/
def execWatermarkArm (q : Nat) (data : BitVec 32) (s : State) : Host.Outcome State Fault Refusal :=
  run (watermarkArmEffect q data.toNat) s

/-- Whether registers are served: outside OFF (24 R524, 17 R412). -/
def Dev.answers (d : Dev) : Bool := decide (d.dev ≠ .off)

/-- The half-word that a read of `QUE_DRD_q` returns of an item: `LAST`, `HWIDX`, `DATA` (17 Table QC.4). -/
def halfWord (item : List Byte) (hw : Nat) : Nat :=
  b2n (decide (item.length ≤ 2 * (hw + 1))) * 2 ^ 30 + hw * 2 ^ 16 + leAt item (2 * hw) 2

/-- Effect of QUEUE_DIRECT_READ (17 R412): the word of `QUE_DRD_q` goes to the bus. A number that is no LOSSY queue's, reserved ones
among them, reads `NV` = 1. -/
def queueDirectReadEffect (q : Nat) (d : Dev) : Dev :=
  if !d.answers then d
  else if 10 < q then d.toBus 0x80000000
  else
    match (d.lossy q).items with
    | [] => d.toBus 0x80000000
    | item :: rest =>
      let hw := (d.lossy q).hw
      let d := d.toBus (halfWord item hw)
      if item.length ≤ 2 * (hw + 1) then
        (d.modLossy q (fun x => { x with items := rest, hw := 0, consumed := x.consumed + 1 })).mark q
      else d.modLossy q (fun x => { x with hw := x.hw + 1 })

/-- QUEUE_DIRECT_READ. -/
def execQueueDirectRead (q : Nat) (s : State) : Host.Outcome State Fault Refusal := run (queueDirectReadEffect q) s

/-- Effect of QUEUE_OCC_READ: `PEAK` and `OCC` go to the bus, and `PEAK` follows `OCC` from zero (17 R426, R425). -/
def queueOccReadEffect (q : Nat) (d : Dev) : Dev :=
  if !d.answers then d
  else if !queueListed q then d.toBus 0
  else
    let occ := min 0xFFFF (d.occ q)
    let peak := min 0xFFFF (max (d.wmark q).peak (d.occ q))
    (d.toBus (peak * 2 ^ 16 + occ)).modWm q (fun w => { w with peak := d.occ q })

/-- QUEUE_OCC_READ. -/
def execQueueOccRead (q : Nat) (s : State) : Host.Outcome State Fault Refusal := run (queueOccReadEffect q) s

/-- Effect of CVU_GO: 1 is written to `GO`; `readErr` tells that the scan's first read of host memory fails. -/
def cvuGoEffect (u v : Nat) (readErr : Bool) (d : Dev) : Dev :=
  if !bit v 31 then d
  else
    let was := (d.cvu u).busy
    let d := d.barWrite (Reg.cvuCfg u) 4 v
    if readErr && !was && (d.cvu u).busy && !d.cvuFed u && (d.fn 0).bme then (d.cvuStop u true).reportAer 0 else d

/-- CVU_GO. -/
def execCvuGo (u : Fin 4) (data : BitVec 32) (readErr : Bool) (s : State) : Host.Outcome State Fault Refusal :=
  run (cvuGoEffect u data.toNat readErr) s

/-- Effect of CVU_HALT: 1 is written to `HALT`. -/
def cvuHaltEffect (u v : Nat) (d : Dev) : Dev := if bit v 30 then d.barWrite (Reg.cvuCfg u) 4 v else d

/-- CVU_HALT. -/
def execCvuHalt (u : Fin 4) (data : BitVec 32) (s : State) : Host.Outcome State Fault Refusal :=
  run (cvuHaltEffect u data.toNat) s

/-- CVU_FEED. -/
def execCvuFeed (u : Fin 4) (data : BitVec 32) (s : State) : Host.Outcome State Fault Refusal :=
  run (fun d => d.barWrite (Reg.cvuFeed u) 4 data.toNat) s

/-- Effect of CVU_SCAN_DONE: host memory answers a scan's reads with `bytes`, and then with an error where `readErr` is set.
Reads wait while PF0 may not master the bus (18 R437). -/
def cvuScanDoneEffect (u : Nat) (bytes : List Byte) (readErr : Bool) (d : Dev) : Dev :=
  if (d.cvu u).busy && !d.cvuFed u && (d.fn 0).bme then
    let d := d.cvuTake u bytes
    if readErr && (d.cvu u).busy then (d.cvuStop u true).reportAer 0 else d
  else d

/-- CVU_SCAN_DONE. -/
def execCvuScanDone (u : Fin 4) (bytes : List Byte) (readErr : Bool) (s : State) : Host.Outcome State Fault Refusal :=
  run (cvuScanDoneEffect u bytes readErr) s

end Sys2Proof.Machine
end

