-- ==== Sys2Proof/Machine/Counters.lean ====
section
/-! DEFINITION. Counters, sweeps, the clave tagger's settings and captures (20 R461-R468, 16 R403). -/

namespace Sys2Proof.Machine

/-! ### CNT_SET (20 R465, R467) -/

/-- One entry of the block. -/
structure CntEntry where
  sel  : Nat
  ix   : Nat
  clr  : Bool
  selw : Bool
  deriving DecidableEq, Repr

/-- Whether a valid entry is well formed: its bank exists, reserved bits are 0, a selector it writes may stand there. -/
def cntEntryOk (w : Nat) : Bool :=
  decide (bits w 15 10 < 42 ∧ bits w 5 3 = 0) &&
    (!bit w 1 || (decide (bits w 27 24 = 0) && selectorOk (bits w 15 10) (bits w 31 16)))

/-- The entry in a word. -/
def cntEntry (w : Nat) : CntEntry := { sel := bits w 31 16, ix := bits w 15 6, clr := bit w 2, selw := bit w 1 }

/-- The valid words of a block. -/
def cntWords (bs : List Byte) : List Nat := ((records 4 bs).map leNat).filter (fun w => bit w 0)

/-- A change accepted for the next boundary. -/
def Dev.cntPend (d : Dev) (e : CntEntry) : Dev :=
  d.modCounter e.ix (fun c => { c with pend := if e.selw then some (BitVec.ofNat 16 e.sel) else c.pend, clr := c.clr || e.clr })

/-- Effect of CNT_SET: the changes wait for the next sweep boundary, and the command for the end of that sweep. -/
def cntSetEffect : CmdDesc → Dev → Dev :=
  command { CmdSpec.plain 0x51 with len := fun _ n => decide (n % 4 = 0 ∧ n ≤ 2688) } always
    (fun _ c => c.ablk && (cntWords c.bytes).all cntEntryOk)
    (fun id c d =>
      let d := (cntWords c.bytes).foldl (fun d w => d.cntPend (cntEntry w)) d
      { d with cnts := { d.cnts with sets := d.cnts.sets ++ [id] } })

/-- CNT_SET. -/
def execCntSet (d : CmdDesc) (s : State) : Host.Outcome State Fault Refusal := run (cntSetEffect d) s

/-! ### Sweeps (20 R463-R466) -/

/-- A counter at a sweep boundary: changes accepted so far take effect with the sweep, a cleared overflow at once. -/
def Counter.bound (c : Counter) : Counter := { c with ovf := c.ovf && !c.clr, clr := false, turn := c.pend, pend := none }

/-- A counter at the end of its capture cycle (20 R463, R464). -/
def Counter.capture (c : Counter) : Counter := { c with capVal := c.value, capOvf := c.ovf, capSel := c.sel }

/-- A counter at the end of the cycle after it: a selector that changes has cleared it and counts from then on (20 R465). -/
def Counter.turned (c : Counter) : Counter :=
  match c.turn with
  | none => c
  | some s => { c with value := if s = c.sel then c.value else 0, sel := s, turn := none }

/-- The entry of a counter in a sweep record (20 Table CT.3). -/
def Counter.entry (c : Counter) : List Byte :=
  leBytes 8 (c.capVal.toNat + b2n c.capOvf * 2 ^ 48 + b2n (bit c.capSel.toNat 15) * 2 ^ 49)

/-- The 5,440 bytes of the last sweep's record. -/
def Dev.sweepRecord (d : Dev) (mpt : Nat) : List Byte :=
  fit 64 (leBytes 6 mpt ++ leBytes 2 42 ++ leBytes 4 d.cnts.swn) ++ (List.range 672).flatMap (fun i => (d.counter i).entry)

/-- A sweep starts. -/
def Dev.startSweep (d : Dev) : Dev :=
  let c := d.cnts
  { d with cnts := { c with
    cells := c.cells.map (fun (e : Nat × Counter) => (e.1, e.2.bound))
    ix := some 0, mpt := d.mpt, swept := d.clk, us := d.fld Reg.cntSweep 19 0, dueSets := c.dueSets ++ c.sets
    dueSnaps := c.dueSnaps ++ c.snaps, sets := [], snaps := [] } }

/-- A sweep ends: a CNT_SET that it has served completes; so does a CNT_SNAP, with the record. -/
def Dev.endSweep (d : Dev) : Dev :=
  let record := d.sweepRecord d.cnts.mpt
  let sets := d.cnts.dueSets
  let snaps := d.cnts.dueSnaps
  let d := { d with cnts := { d.cnts with swn := (d.cnts.swn + 1) % 2 ^ 32, dueSets := [], dueSnaps := [] } }
  let d := sets.foldl (fun d id => d.finishSt id stOk) d
  snaps.foldl (fun d id => d.finishBlock id stOk [] record) d

/-- The selector of a counter turns, and its register with it. -/
def Dev.turnCounter (d : Dev) (i : Nat) : Dev :=
  match (d.counter i).turn with
  | none => d
  | some s => (d.modCounter i Counter.turned).setReg (Reg.cntSel (i / 16) (i % 16)) s.toNat

/-- The end of a CK_CNT cycle of the sweep that runs: one counter is captured in each of 672 cycles (20 R463). -/
def Dev.sweepCycle (d : Dev) : Dev :=
  match d.cnts.ix with
  | none => d
  | some i =>
    let d := if i = 0 then d else d.turnCounter (i - 1)
    if 672 ≤ i then { d with cnts := { d.cnts with ix := none } }
    else
      let d := d.modCounter i Counter.capture
      let d := { d with cnts := { d.cnts with ix := some (i + 1) } }
      if i = 671 then d.endSweep else d

/-- Whether a sweep is due: `SWEEP_US` after the last boundary, as that found it (20 Table CT.7); while `SWEEP_EN` is 0, one for each CNT_SNAP
that waits. -/
def Dev.sweepDue (d : Dev) : Bool :=
  d.dev.clocked && d.cnts.ix.isNone &&
    (if d.flag Reg.cntCtrl 0 then decide (d.cnts.swept + usClk d.cnts.us ≤ d.clk) else !d.cnts.snaps.isEmpty)

/-- Effect of COUNTER_SWEEP. -/
def counterSweepEffect (d : Dev) : Dev := if d.sweepDue then d.startSweep else d

/-- COUNTER_SWEEP. -/
def execCounterSweep (s : State) : Host.Outcome State Fault Refusal := run counterSweepEffect s

/-- Effect of CNT_SNAP: the record of the first sweep that starts from now, or of a sweep of its own while there are no
periodic ones. -/
def cntSnapEffect : CmdDesc → Dev → Dev :=
  command { CmdSpec.plain 0x52 with needR := true } always always (fun id _ d =>
    let d := { d with cnts := { d.cnts with snaps := d.cnts.snaps ++ [id] } }
    if !d.flag Reg.cntCtrl 0 && d.sweepDue then d.startSweep else d)

/-- CNT_SNAP. -/
def execCntSnap (d : CmdDesc) (s : State) : Host.Outcome State Fault Refusal := run (cntSnapEffect d) s

/-! ### TRACE_CFG (20 R468) -/

/-- Effect of TRACE_CFG: probability, filter, group, seed and stages; the tagger's register takes the seed. -/
def traceCfgEffect : CmdDesc → Dev → Dev :=
  command { CmdSpec.plain 0x53 with len := fun _ n => decide (n = 16) } always
    (fun _ c => c.ablk && decide (byteAt c.bytes 2 < 2 ∧ byteAt c.bytes 3 < 32 ∧ leAt c.bytes 4 4 ≠ 0 ∧
      leAt c.bytes 4 4 < 2 ^ 31 ∧ leAt c.bytes 8 2 < 2 ^ 11 ∧ leAt c.bytes 10 6 = 0))
    (fun id c d =>
      let b := c.bytes
      let d := d.setFld Reg.cntClv 31 16 (leAt b 0 2)
      let d := (d.setFld Reg.cntClv 15 5 (leAt b 8 2)).setFld Reg.cntClv 4 4 (byteAt b 2)
      let d := (d.setFld Reg.cntClvSeed 30 0 (leAt b 4 4)).setFld Reg.cntStat 12 8 (byteAt b 3)
      ({ d with cnts := { d.cnts with lfsr := leAt b 4 4 } }).finishSt id stOk)

/-- TRACE_CFG. -/
def execTraceCfg (d : CmdDesc) (s : State) : Host.Outcome State Fault Refusal := run (traceCfgEffect d) s

/-! ### Captures (16 R403) -/

/-- The beacon period of an MPT at the offset in force. -/
def Dev.bpOf (d : Dev) (mpt : Nat) : Nat := unsigned 48 ((mpt : Int) - d.msync.ofs) / 2 ^ 25

/-- The five tap fields of the block. -/
def captTaps (bs : List Byte) : List Nat := (List.range 5).map (fun i => leAt bs (2 * i) 2)

/-- Effect of CAPTURE. `A0` names the block and, in [47:0], the start MPT at once (16 Table CE.1, R403). -/
def captureEffect : CmdDesc → Dev → Dev :=
  command { CmdSpec.plain 0x54 with len := fun _ n => decide (n = 16), m1 := 2 ^ 32 - 1 }
    (fun d _ => d.capts.all (fun c => c.flushed.isSome) && d.flag Reg.carCtrl 0 && decide ((d.ring 13).st = .enabled))
    (fun _ c => c.ablk && decide (1 ≤ c.n1 ∧ c.n1 ≤ 8388608) && (captTaps c.bytes).all (fun t => decide (t < 1024)) &&
      (captTaps c.bytes).any (fun t => bit t 9) && decide (leAt c.bytes 10 6 = 0))
    (fun id c d =>
      let open4 := (d.msync.bpi + 4) % 2 ^ 23
      let at_ := d.bpOf c.mpt
      let first := if mptBefore d.mpt c.mpt ∧ bpSince open4 at_ < 2 ^ 22 then at_ else open4
      { d with capts := d.capts ++ [({ cmd := id, start := c.mpt, firstBp := first, len := c.n1, taps := captTaps c.bytes,
                                       lane := none, n0 := 0, mpt0 := 0, written := 0, flushed := none } : Capt)] })

/-- CAPTURE. -/
def execCapture (d : CmdDesc) (s : State) : Host.Outcome State Fault Refusal := run (captureEffect d) s

/-- Effect of CAPTURE_NO_LANE: no lane has been bound within 16 beacon periods of the first possible slot. -/
def captureNoLaneEffect (d : Dev) : Dev :=
  match d.capts.find? (fun c => c.flushed.isNone) with
  | none => d
  | some c =>
    let since := bpSince c.firstBp d.msync.bpi
    if c.lane.isSome ∨ since < 16 ∨ 2 ^ 22 ≤ since then d
    else ({ d with capts := d.capts.filter (fun x => x.flushed.isSome) }).finishSt c.cmd stNoRoom

/-- CAPTURE_NO_LANE. -/
def execCaptureNoLane (s : State) : Host.Outcome State Fault Refusal := run captureNoLaneEffect s

/-- Samples per stream in the next record of a capture. -/
def Capt.nextNs (c : Capt) : Nat := min c.perRecord (c.len - c.written * c.perRecord)

/-- Whether the next record of a capture has been staged. -/
def Dev.staged (d : Dev) (c : Capt) : Bool :=
  c.lane.isSome &&
    (match c.flushed with
     | some n => decide (c.written < n)
     | none => decide (c.written * c.perRecord < c.len ∧ c.n0 + c.written * c.perRecord + c.nextNs ≤ d.tb.n))

/-- The 4,096 bytes of a record (16 Table CE.4). -/
def Capt.record (c : Capt) (mpt : Nat) (last absent : Bool) (words : List (BitVec 20)) : List Byte :=
  let head := leBytes 4 c.written ++ leBytes 1 c.streams ++ leBytes 1 (b2n last + 2 * b2n absent) ++ leBytes 2 c.nextNs ++
    leBytes 8 (c.n0 + c.written * c.perRecord) ++ leBytes 6 mpt ++ [0, 0] ++ c.taps.flatMap (fun t => leBytes 2 t)
  fit 4096 (fit 64 head ++ words.flatMap (fun w => leBytes 4 w.toNat))

/-- A fabric word (05 R117). -/
def fabricWord (s b : Bool) (sample : Int) : BitVec 20 := BitVec.ofNat 20 (b2n s * 2 ^ 19 + b2n b * 2 ^ 18 + unsigned 18 sample)

/-- The words that a capture's tap reads from sample count `n0` on, `ns` of them, with the receive pins of its port (05 Table CA.2, R120, R130;
02 R51). -/
def Dev.streamWords (d : Dev) (code p n0 ns : Nat) (pins : PinRuns) : List (BitVec 20) :=
  let ss := d.convertAll p n0 (windowSpans ns pins)
  let bl := d.blankSpans p n0 ss
  let away := unionSpans (d.absentSpans p n0)
  let within := fun (l : List (Int × Int)) (i : Nat) => l.any (fun s => decide (s.1 ≤ (i : Int) ∧ (i : Int) < s.2))
  (List.range ns).map (fun i =>
    let n := n0 + i
    let at_ := fun (f : ConvSpan → Int) => ((ss.find? (fun s => decide (s.a ≤ (i : Int) ∧ (i : Int) < s.b))).map f).getD 0
    if code = 2 then
      let f := (d.port p).fed.find? (fun f => f.covers n)
      fabricWord (d.strobe n) f.isSome ((f.map (fun f => sat18 (d.rawWord f.frame f.out (n - f.frame.start)))).getD 0)
    else if within away i then fabricWord false true 0
    else if code = 3 then fabricWord (d.strobe n) (decide ((d.port p).ech ≠ .idle)) (d.cdac p n)
    else fabricWord (d.strobe n) (within bl i) (at_ (if code = 0 then ConvSpan.word else ConvSpan.sadc)))

/-- The tap fields of a capture that hold a stream, in tap order: stream code and port (05 R133). -/
def Capt.valid (c : Capt) : List (Nat × Nat) := (c.taps.filter (fun t => bit t 9)).map (fun t => (bits t 8 7, bits t 6 0))

/-- What the five taps of a capture deliver over its next record, each with its valid bit: an unbound tap delivers words of zeros, its valid
bit 0 (05 R129). `pins` are those of the bound taps, in tap order. -/
def Dev.tapWords (d : Dev) (c : Capt) (first : Nat) : List Nat → List PinRuns → List (Bool × List (BitVec 20))
  | [], _ => []
  | t :: ts, pins =>
    if bit t 9 then (true, d.streamWords (bits t 8 7) (bits t 6 0) first c.nextNs (pins.headD [])) :: d.tapWords c first ts (pins.drop 1)
    else (false, List.replicate c.nextNs 0) :: d.tapWords c first ts pins

/-- The words of a capture's next record: sample by sample, each of all streams; words whose valid bit is 0 are left out (16 Table CE.4,
05 R129). -/
def Dev.recordWords (d : Dev) (c : Capt) (first : Nat) (pins : List PinRuns) : List (BitVec 20) :=
  let ws := ((d.tapWords c first c.taps pins).filter (fun x => x.1)).map (fun x => x.2)
  (List.range c.nextNs).flatMap (fun i => ws.map (fun l => l.getD i 0))

/-- Whether a substituted word lies in the record (05 R130). -/
def Dev.recordAbsent (d : Dev) (c : Capt) (first : Nat) : Bool :=
  c.valid.any (fun t => decide (t.1 ≠ 2) && clipSpans 0 c.nextNs (d.absentSpans t.2 first) ≠ [])

/-- Effect of CAPTURE_RECORD_WRITE: the oldest staged record, whose first sample is `sidx`, takes a free entry of the CAPT ring; the last one
completes the command. `pins` are those of the streams' ports over the record, in tap order; `lost` tells of an uncorrectable error in its
staging area (18 Table IN.3). -/
def captureRecordWriteEffect (sidx : Nat) (pins : List PinRuns) (lost : Bool) (d : Dev) : Dev :=
  match d.capts with
  | [] => d
  | c :: rest =>
    let first := c.n0 + c.written * c.perRecord
    if !d.dev.live ∨ !d.staged c ∨ (d.ring 13).st ≠ .enabled ∨ (d.ring 13).freeEntries = 0 ∨ sidx ≠ first then d
    else
      let last := c.flushed.isNone && decide (c.len ≤ c.written * c.perRecord + c.nextNs)
      let m := d.mptOf first
      let d := m.2.writeEntry 13 (c.record m.1 last (d.recordAbsent c first || lost) (d.recordWords c first pins))
      let gone := last || (match c.flushed with | some n => decide (n ≤ c.written + 1) | none => false)
      let d := { d with capts := if gone then rest else { c with written := c.written + 1 } :: rest }
      if last then d.finish c.cmd stOk (wideQ c.mpt0 (c.lane.getD 0) 0) else d

/-- CAPTURE_RECORD_WRITE. -/
def execCaptureRecordWrite (sidx : BitVec 64) (pins : List PinRuns) (lost : Bool) (s : State) : Host.Outcome State Fault Refusal :=
  run (captureRecordWriteEffect sidx.toNat pins lost) s

end Sys2Proof.Machine
end

