-- ==== Sys2Proof/Machine/Cycle.lean ====
section
/-! DEFINITION. One cycle of CK_MPT as a step on an empty queue takes it: the cycle of Tick.lean, the outputs of the derived chains, the sweep
of the counters that runs (log 1). -/

namespace Sys2Proof.Machine

/-- An output instant of the derived chains that this cycle has reached leaves its timestamp (13 R343, R344). -/
def Dev.derCycle (d : Dev) : Dev :=
  let m := d.meas
  if m.clocks ∧ 4 * m.start + 12800 * (m.derN + 1) ≤ 4 * d.clk then
    { d with meas := { m with derN := m.derN + 1, stamps := m.stamps ++ [d.stamp 4 8 (4 * m.start) (m.derN + 1)] } }
  else d

/-- One cycle. -/
def Dev.cycle (d : Dev) : Dev := d.tick.derCycle.sweepCycle

/-- What a step does on an empty queue (log 1). -/
def idle (s : State) : Host.Outcome State Fault Refusal := run Dev.cycle s

end Sys2Proof.Machine
end

