-- ==== Sys2Proof/Machine/Dormant.lean ====
section
/-! DEFINITION. Dormant nodes: grants, missed polls and held MSDUs that expire (12 R305-R323). POLL_RECEIVED stands with
reception. -/

namespace Sys2Proof.Machine

/-- `POFS`: the widest window the node can need lies after a four-block beacon region and before the period's end; the
device's choice within that is free (12 R306, log 3). -/
def Dev.choosePofs (d : Dev) (g : Nat) : Nat × Dev :=
  let lo := d.beaconUnits g 4 + d.gmax g
  let hi := 8192 - (d.gmax g + d.pollUnits g + d.fld (Reg.dnLife g) 12 0)
  let f := d.free
  (if lo ≤ hi then lo + f.1.toNat % (hi - lo + 1) else f.1.toNat % 8192, f.2)

/-- Body of DORM_GRANT (12 Table DN.2). -/
def grantBody (p first pofs result : Nat) : List Byte :=
  leBytes 2 p ++ leBytes 2 first ++ leBytes 2 pofs ++ leBytes 1 result ++ [0]

/-- Whether R306 refuses dormancy to a node. -/
def Dev.dormRefused (d : Dev) (nh : Nat) : Bool :=
  let n := d.node nh
  !d.flag (Reg.dnCtrl n.grp) 0 || !n.dormCap || n.reasm.isSome

/-- Grant dormancy: interval and slope by R306, `POFS` now, `FIRST_BP` when DORM_GRANT is first sent. -/
def Dev.grantDormancy (d : Dev) (nh req ppm : Nat) (cmd : Option Nat) : Dev :=
  let g := (d.node nh).grp
  let p := min (max req (d.fld (Reg.dnPoll g) 15 0)) (d.fld (Reg.dnPoll g) 31 16)
  let slope := max (d.fld (Reg.dnGuard g) 15 8) ((ppm * 2097152 + 999999) / 1000000)
  let c := d.choosePofs g
  let d := c.2.modNode nh (fun n => { n with dorm := some { p := p, pofs := c.1, slope := slope, req := req, ppm := ppm,
                                                             next := 0, k := 0 } })
  d.sendOwn nh 0x0A 0 cmd (grantBody p 0 c.1 0)

/-- `FIRST_BP` of a grant sent now: at least four beacon periods and P away; the device's choice within 256 more is free
(12 R306, log 19). -/
def Dev.chooseFirst (d : Dev) (p : Nat) : Nat × Dev :=
  let f := d.free
  ((d.msync.bpi + 4 + p + f.1.toNat % 256) % 2 ^ 23, f.2)

/-- Effect of DORM_REQ, from a node that is ACTIVE, or refused to one that is DORMANT (12 R305, R306, Table DN.6). -/
def dormReqEffect (nh : Nat) (body : List Byte) (d : Dev) : Dev :=
  let n := d.node nh
  if d.dev ≠ .run ∨ !(d.group n.grp).st.up ∨ (n.st ≠ .active ∧ n.st ≠ .dormant) then d
  else if body.length < 4 then d.skipMessage
  else if n.st = .dormant ∨ d.dormRefused nh then d.sendOwn nh 0x0A 1 none (grantBody 0 0 0 1)
  else d.grantDormancy nh (leAt body 0 2) (byteAt body 2) none

/-- DORM_REQ. -/
def execDormReq (nh : Fin 16384) (body : List Byte) (s : State) : Host.Outcome State Fault Refusal := run (dormReqEffect nh body) s

/-- DORM_END goes first in the release part (12 R318): it heads the node's held MSDUs. -/
def Dev.sendDormEnd (d : Dev) (nh reason : Nat) (cmd : Option Nat) : Dev :=
  let m := newMsdu d.nextId (.own 0x0B reason cmd) true nh (d.node nh).grp false 0 false (d.encReq nh)
    (mgmtMsg 0x0B (leBytes 1 reason ++ [0, 0, 0])) [] none
  { d.modNode nh (fun n => { n with heldq := { m with heldBp := some d.msync.bpi } :: n.heldq }) with nextId := d.nextId + 1 }

/-- Effect of NODE_DORMANT (12 R307, R318). -/
def nodeDormantEffect : CmdDesc → Dev → Dev :=
  command (nodeSpec 0x26 0x1FFFFFF) always
    (fun d c => decide (c.f1 24 24 = 1) || (decide (c.f1 15 0 ≠ 0) &&
      !((d.node c.n2).st = .dormant || ((d.node c.n2).st = .active && d.dormRefused c.n2))))
    (fun id c d =>
      let st := (d.node c.n2).st
      if c.f1 24 24 = 1 then
        if st = .dormant then d.sendDormEnd c.n2 0 (some id) else d.finishSt id stNoNode
      else if st = .active then d.grantDormancy c.n2 (c.f1 15 0) (c.f1 23 16) (some id)
      else d.finishSt id stNoNode)

/-- NODE_DORMANT. -/
def execNodeDormant (d : CmdDesc) (s : State) : Host.Outcome State Fault Refusal := run (nodeDormantEffect d) s

/-! ### Missed polls (12 R319-R321) -/

/-- The slot unit at which a node's poll window ends, as the frozen schedule has it, or without a release part. -/
def Dev.pollEnd (d : Dev) (n : Node) (x : Dorm) : Nat :=
  let planned : Option Nat := match d.planOf n.grp x.next with
    | some pl => (pl.allocs.find? (fun (a : Alloc) => decide (a.kind = 2 ∧ a.addr = n.saddr))).map (fun (a : Alloc) => a.start + a.len)
    | none => none
  planned.getD (x.pofs + d.pollGuard n x + d.pollUnits n.grp)

/-- Whether a poll window has closed without an accepted POLL, which would have moved the next poll on. -/
def Dev.pollMissed (d : Dev) (n : Node) (x : Dorm) : Bool :=
  let since := bpSince x.next d.msync.bpi
  if since = 0 then decide (d.unitStart (d.pollEnd n x) ≤ d.bpPhase) else decide (since < 2 ^ 22)

/-- A poll window of a DORMANT node counts against the life of its unacknowledged MSDU (12 R317). -/
def Node.lifeWindow (n : Node) : Node := { n with cur := n.cur.map (fun m => { m with life := m.life + 1 }) }

/-- Effect of POLL_MISS. A poll that falls while the group is DOWN is neither accepted nor missed: the reckoning goes on from
it with the count unchanged (12 Table DN.6, log 20). -/
def pollMissEffect (nh : Nat) (d : Dev) : Dev :=
  let n := d.node nh
  match n.dorm with
  | none => d
  | some x =>
    if d.dev ≠ .run ∨ n.st ≠ .dormant ∨ !d.pollMissed n x then d
    else if !(d.group n.grp).st.up then
      let gap := if x.k = 0 then x.p else d.ladder n.grp x
      d.modNode nh (fun n => { n with dorm := some { x with next := (x.next + gap) % 2 ^ 23 } })
    else
      let d := d.raise (.dn n.grp) 29
      let x' := { x with k := x.k + 1 }
      if d.fld (Reg.dnCtrl n.grp) 23 20 ≤ x'.k then
        let d := d.modNode nh (fun n => { n with heldq := [], cur := none, dorm := none })
        let d := n.heldq.foldl (fun d m => d.finishMsdu m stHeldExpired) d
        let d := match n.cur with | some m => d.finishMsdu m stNoAck | none => d
        d.nodeState nh .lost 0xFF
      else
        let x' := { x' with next := (x.next + d.ladder n.grp x') % 2 ^ 23 }
        (d.modNode nh (fun n => { n.lifeWindow with dorm := some x' })).noteClip nh

/-- POLL_MISS. -/
def execPollMiss (nh : Fin 16384) (s : State) : Host.Outcome State Fault Refusal := run (pollMissEffect nh) s

/-! ### Held MSDUs (12 R323) -/

/-- Whether a held MSDU has been held for `HELD_LIFE` beacon periods. -/
def Dev.heldLong (d : Dev) (m : Msdu) : Bool :=
  match m.heldBp with
  | some b => decide (d.fld (Reg.dnLife m.grp) 31 16 ≤ bpSince b d.msync.bpi)
  | none => false

/-- Effect of HELD_LIFE_EXPIRY: one in flight is judged when its ACK span ends. -/
def heldLifeExpiryEffect (nh : Nat) (d : Dev) : Dev :=
  let n := d.node nh
  if !d.dev.clocked then d
  else
    let gone := n.heldq.filter d.heldLong
    let d := d.modNode nh (fun n => { n with heldq := n.heldq.filter (fun m => !d.heldLong m) })
    let d := gone.foldl (fun d m => (d.raise (.dn m.grp) 30).finishMsdu m stHeldExpired) d
    match n.cur with
    | none => d
    | some m =>
      if !d.heldLong m || m.ending.isSome then d
      else
        let d := d.raise (.dn m.grp) 30
        if m.spanEnd.isSome then d.modNode nh (fun n => { n with cur := some { m with ending := some stHeldExpired } })
        else (d.modNode nh (fun n => { n with cur := none })).finishMsdu m stHeldExpired

/-- HELD_LIFE_EXPIRY. -/
def execHeldLifeExpiry (nh : Fin 16384) (s : State) : Host.Outcome State Fault Refusal := run (heldLifeExpiryEffect nh) s

end Sys2Proof.Machine
end

