-- ==== Sys2Proof/Machine/Schedule.lean ====
section
/-! DEFINITION. The Gong's schedule: beacon bodies, the plan of a beacon period, freezing it and being late (10 R246-R260,
04 R98, 09 R222, R241, 12 R309-R311, R324). The Gong's own choices are the operands of SCHEDULE_FREEZE, taken only where they
keep the rules (log 13). -/

namespace Sys2Proof.Machine

/-! ### Allocations and entries -/

/-- `KIND` codes (10 Table GC.5); the beacon's own entry carries the model's code 7. -/
def kindData : Nat := 0
/-- Sounding. -/
def kindSounding : Nat := 1
/-- Poll. -/
def kindPoll : Nat := 2
/-- Contention. -/
def kindContention : Nat := 4
/-- The beacon region's own lane entry. -/
def kindBeacon : Nat := 7

/-- Whether two spans of slot units share one. -/
def spansMeet (s1 l1 s2 l2 : Nat) : Bool := decide (s1 < s2 + l2 ∧ s2 < s1 + l1)

/-- Whether a decode entry serves an allocation. -/
def decServes (e : DecEntry) (a : Alloc) : Bool :=
  decide (e.start = a.start ∧ e.len = a.len ∧ e.addr = a.addr ∧ e.kind = a.kind)

/-- Whether an encode entry serves an allocation. -/
def encServes (e : EncEntry) (a : Alloc) : Bool :=
  decide (e.start = a.start ∧ e.len = a.len ∧ e.addr = a.addr ∧ e.kind = a.kind ∧ e.dir = a.dir ∧ e.cpl = a.cpl)

/-- The allocation that a decode entry of a plan serves. -/
def decAlloc (pl : Plan) (e : DecEntry) : Option Alloc := pl.allocs.find? (fun a => decServes e a)

/-- Whether a decode entry binds its lane for MIMO reception, which reserves the partner lane (08 R196). -/
def decMimo (pl : Plan) (e : DecEntry) : Bool :=
  match decAlloc pl e with | some a => a.dir && decide (a.cpl = 2) | none => false

/-! ### Links at freezing (10 R259, 21 R475) -/

/-- Whether a converter calibration reserves a port for beacon period `n`. -/
def Dev.reserved (d : Dev) (n p : Nat) : Bool :=
  match d.runOf 1 p with
  | none => false
  | some r => match r.placed with | some b => decide (bpSince b n < 2 ^ 22) | none => false

/-- A link without ports reserved for calibration: TPC goes on over the rest, another coupling is not scheduled. -/
def Dev.unreserved (d : Dev) (n : Nat) (l : NodeLink) : Option NodeLink :=
  let free := fun (p : Nat) => !d.reserved n p
  if l.taps.all free then some l
  else if l.cpl = 1 ∧ l.outs.any free then some { l with taps := l.taps.filter free, outs := l.outs.filter free }
  else none

/-- The link that an allocation to a short address of group `g` uses in beacon period `n`. -/
def Dev.planLink (d : Dev) (g n addr : Nat) : Option NodeLink :=
  if addr = addrAll then (d.tpcLink g).bind (d.unreserved n)
  else match d.bySaddr g addr with
    | none => none
    | some nh => (d.linkOf nh).bind (d.unreserved n)

/-! ### Beacon bodies (10 R251-R253, 12 R324) -/

/-- One section. -/
def bcnSection (styp : Nat) (body : List Byte) : List Byte :=
  leBytes 1 styp ++ [0] ++ leBytes 2 body.length ++ body ++ List.replicate ((4 - body.length % 4) % 4) 0

/-- An allocation on the line (10 Table GC.5). -/
def allocBytes (a : Alloc) : List Byte :=
  leBytes 8 (a.start * 2 ^ 51 + a.len * 2 ^ 38 + a.addr * 2 ^ 28 + b2n a.dir * 2 ^ 27 + a.form * 2 ^ 24 + a.cpl * 2 ^ 22 +
    a.kind * 2 ^ 19)

/-- The entry of a polled node (12 R324). -/
def Dev.pollEntry (d : Dev) (g : Nat) (a : Alloc) : List Byte :=
  match d.bySaddr g a.addr with
  | none => leBytes 4 a.addr
  | some nh =>
    match (d.node nh).dorm with
    | none => leBytes 4 a.addr
    | some x =>
      leBytes 4 (a.addr + x.k % 16 * 2 ^ 10 + b2n (decide (2 * d.pollGuard (d.node nh) x + d.pollUnits g < a.len)) * 2 ^ 14)

/-- Insert an allocation into a list in ascending address. -/
def insertAddr (a : Alloc) : List Alloc → List Alloc
  | [] => [a]
  | b :: bs => if a.addr ≤ b.addr then a :: b :: bs else b :: insertAddr a bs

/-- Allocations in ascending address. -/
def byAddr (l : List Alloc) : List Alloc := l.foldl (fun acc a => insertAddr a acc) []

/-- The MASK section: version, count, the used entries. -/
def maskSection (ver : Nat) (es : List (BitVec 32)) : List Byte :=
  let used := es.filter (fun e => decide (bits e.toNat 31 28 ≠ 0))
  leBytes 1 (ver % 16) ++ leBytes 1 used.length ++ [0, 0] ++ used.flatMap (fun e => leBytes 4 e.toNat)

/-- The body of the beacon of beacon period `n`, which announces the plan `next` of the period after it. -/
def Dev.beaconBody (d : Dev) (g n : Nat) (next : Plan) : List Byte :=
  let x := d.group g
  let change := x.maskNext.filter (fun mc => match mc.effBp with
    | none => true
    | some e => decide (0 < bpSince n e ∧ bpSince n e < 2 ^ 22))
  let polls := byAddr (next.allocs.filter (fun a => decide (a.kind = kindPoll)))
  let grp := leBytes 2 (next.brlen % 2 ^ 13) ++ leBytes 2 (unsigned 16 d.msync.step) ++ leBytes 2 (d.fld Reg.gongZc 11 0) ++
    leBytes 1 (d.fld Reg.gongCtrl 11 8 * 16 + d.ulGi g) ++ leBytes 1 next.caSlot ++ [0, 0, 0, 0]
  bcnSection 0x01 grp ++
    (if n % 4 = 0 then bcnSection 0x02 (d.segSet.flatMap (fun b => leBytes 4 b)) else []) ++
    (match change with
     | some mc => bcnSection 0x03 (maskSection mc.ver mc.entries)
     | none => if n % 4 = 2 then bcnSection 0x03 (maskSection x.maskVer (d.maskOf g)) else []) ++
    (match change with
     | some mc => bcnSection 0x04 (leBytes 2 (mc.effBp.getD 0) ++ leBytes 1 (mc.ver % 16) ++ [0])
     | none => []) ++
    bcnSection 0x05 (next.allocs.flatMap allocBytes) ++
    (if polls = [] then [] else bcnSection 0x06 (polls.flatMap (fun a => d.pollEntry g a)))

/-! ### The rules that a plan keeps -/

/-- Every allocation lies in the beacon period after the beacon region, with codes that exist. -/
def allocForm (pl : Plan) (a : Alloc) : Bool :=
  decide (pl.brlen ≤ a.start ∧ 1 ≤ a.len ∧ a.start + a.len ≤ 8192 ∧ a.addr ≤ 1023 ∧ a.cpl ≤ 2 ∧ a.kind ≤ 4 ∧
    (a.form ≤ 1 ∨ (4 ≤ a.form ∧ a.form ≤ 7)))

/-- Allocations stand in ascending `START`. -/
def allocsAscend : List Alloc → Bool
  | a :: b :: rest => decide (a.start ≤ b.start) && allocsAscend (b :: rest)
  | _ => true

/-- Two allocations meet only where both are data or poll (10 R248, R260, 04 R98, 09 R222). -/
def allocsApart : List Alloc → Bool
  | [] => true
  | a :: rest =>
    rest.all (fun b => !spansMeet a.start a.len b.start b.len ||
      (decide (a.kind = kindData ∨ a.kind = kindPoll) && decide (b.kind = kindData ∨ b.kind = kindPoll))) && allocsApart rest

/-- Whether a node has been sounded in a direction since its admission. -/
def Dev.wasSounded (d : Dev) (nh : Nat) (up : Bool) : Bool :=
  d.keys.any (fun e => decide (e.1 / 16 = setIx nh up) && decide (e.2.snr ≠ []))

/-- The form planned for a node's frames: the group's default Drone mode until its first sounding in each direction (10 R266). -/
def Dev.formPlanned (d : Dev) (g nh : Nat) (a : Alloc) : Bool :=
  decide (a.kind ≠ kindData ∧ a.kind ≠ kindPoll) || (d.wasSounded nh false && d.wasSounded nh true) ||
    decide (a.form = 4 + d.droneDef g)

/-- An allocation's node, form, coupling and direction (10 R258, R259, R298; 12 R311). Allocations to a node with a parent serve its
hop and bind no lane. -/
def Dev.allocNode (d : Dev) (g n : Nat) (a : Alloc) : Bool :=
  if a.kind = kindTraining then true
  else if a.kind = kindContention then decide (a.addr = addrAll ∧ a.cpl = 1) && a.dir
  else if a.addr = addrAll then decide (a.kind = kindData ∧ a.cpl = 1) && !a.dir
  else
    match d.bySaddr g a.addr with
    | none => false
    | some nh =>
      let st := (d.node nh).st
      (if a.kind = kindPoll then decide (st = .dormant) && a.dir
       else if a.kind = kindSounding then decide (st = .active)
       else decide (st = .active ∨ st = .admitted)) && d.formPlanned g nh a &&
      (decide ((d.node nh).parent ≠ 0) ||
        (match d.planLink g n a.addr with | some l => decide (l.cpl = a.cpl) | none => false))

/-- Whether an allocation binds lanes of the device: not training, and not a hop between a node and its parent. -/
def Dev.allocBinds (d : Dev) (g : Nat) (a : Alloc) : Bool :=
  decide (a.kind ≠ kindTraining) &&
    (decide (a.addr = addrAll) || (match d.bySaddr g a.addr with
      | some nh => decide ((d.node nh).parent = 0) | none => false))

/-- A decode entry taps what Table GC.6 gives its allocation, the SADC tap the first listed port; a capture is the
executor's to judge. -/
def Dev.decEntryOk (d : Dev) (g n : Nat) (pl : Plan) (e : DecEntry) : Bool :=
  decide (e.lane < 96 ∧ e.start + e.len ≤ 8192) && e.gain.all (fun k => decide (k ≤ 8)) &&
    (e.capture || pl.allocs.any (fun a => decServes e a && d.allocBinds g a && (match d.planLink g n a.addr with
      | none => false
      | some l => decide (e.taps = l.taps.map (fun p => ({ code := 0, port := p } : Tap)) ∧
          e.stap = (l.taps.head?).map (fun p => ({ code := 1, port := p } : Tap))))))

/-- An encode entry drives what Table GC.6 gives its allocation, or the beacon. -/
def Dev.encEntryOk (d : Dev) (g n : Nat) (pl : Plan) (e : EncEntry) : Bool :=
  decide (e.lane < 96) &&
    (if e.kind = kindBeacon then
      decide (e.start = 0 ∧ e.len = pl.brlen ∧ e.addr = addrAll ∧ e.cpl = 1) && !e.dir &&
        (match d.planLink g n addrAll with | some l => decide (e.outs = l.outs) | none => false)
     else pl.allocs.any (fun a => encServes e a && decide (e.form = a.form) && d.allocBinds g a &&
      (match d.planLink g n a.addr with | none => false | some l => decide (e.outs = l.outs))))

/-- Every allocation has the entries it needs: a receive lane, and a transmit lane for downlink frames and for the
acknowledgements of data and polls (11 R284). A broadcast allocation receives nothing. -/
def Dev.allocServed (d : Dev) (g : Nat) (pl : Plan) (a : Alloc) : Bool :=
  !d.allocBinds g a ||
    ((pl.decs.any (fun e => decServes e a) || (decide (a.addr = addrAll) && !a.dir)) &&
      (pl.encs.any (fun e => encServes e a) ||
        (a.dir && (decide (a.kind = kindContention) || decide (a.kind = kindSounding)))))

/-- The group whose home lanes hold a lane (01 R19): lanes 3g to 3g + 2. -/
def laneHome (l : Nat) : Nat := l / 3

/-- Spans of a beacon period for which lanes are taken by the plans of other groups. -/
def Dev.takenDecs (d : Dev) (g n : Nat) : List (Nat × Nat × Nat) :=
  d.groups.flatMap (fun (e : Nat × Group) => if e.1 = g then [] else
    (e.2.frozen.filter (fun (x : Nat × Plan) => decide (x.1 = n))).flatMap (fun (x : Nat × Plan) =>
      x.2.decs.map (fun (y : DecEntry) => (y.lane, y.start, y.len))))

/-- The same for encode lanes. -/
def Dev.takenEncs (d : Dev) (g n : Nat) : List (Nat × Nat × Nat) :=
  d.groups.flatMap (fun (e : Nat × Group) => if e.1 = g then [] else
    (e.2.frozen.filter (fun (x : Nat × Plan) => decide (x.1 = n))).flatMap (fun (x : Nat × Plan) =>
      x.2.encs.map (fun (y : EncEntry) => (y.lane, y.start, y.len))))

/-- Whether a lane is taken during a span. -/
def laneTaken (taken : List (Nat × Nat × Nat)) (l start len : Nat) : Bool :=
  taken.any (fun t => decide (t.1 = l) && spansMeet t.2.1 t.2.2 start len)

/-- Lanes of a plan: no lane twice at once, and one beyond the home lanes only while all three of those are taken. -/
def lanesOk (g : Nat) (others mine : List (Nat × Nat × Nat)) : Bool :=
  mine.all (fun t =>
    !laneTaken others t.1 t.2.1 t.2.2 &&
      decide ((mine.filter (fun u => decide (u.1 = t.1) && spansMeet u.2.1 u.2.2 t.2.1 t.2.2)).length = 1) &&
      (decide (laneHome t.1 = g) ||
        [3 * g, 3 * g + 1, 3 * g + 2].all (fun l => laneTaken (others ++ mine) l t.2.1 t.2.2)))

/-- The lowest noise floor of a node's uplink entries over a span; none where some key has no ACTIVE copy with one, or is STALE
(04 R108, 09 R227). -/
def Dev.spanNoise (d : Dev) (nh start len : Nat) : Option Int :=
  let nfs := (d.spanSegs start len).map (fun s => let k := d.key (keyIx nh true s); if k.stale then none else k.active.bind (fun e => e.nf))
  if nfs.all Option.isSome then (nfs.filterMap id).foldl (fun (a : Option Int) v => match a with
    | none => some v | some w => some (min v w)) none
  else none

/-- The slot boundaries that a plan makes (10 R247). -/
def planEdges (pl : Plan) : List Nat :=
  (0 :: pl.brlen :: pl.allocs.flatMap (fun (a : Alloc) => [a.start, a.start + a.len])).filter (fun u => decide (u < 8192))

/-- One slot of an overlapped reception is planned under R109: its entry gives `DPX_GAIN`, and every tap passes with every transmission
of the group in the slot as a source (04 R110, 10 R260). -/
def Dev.slotPlanned (d : Dev) (g : Nat) (pl : Plan) (e : DecEntry) (u stop : Nat) : Bool :=
  let here := pl.encs.filter (fun (x : EncEntry) => decide (x.start ≤ u ∧ u < x.start + x.len))
  let foreign := here.any (fun x => !decide (x.start = e.start ∧ x.len = e.len ∧ x.addr = e.addr ∧ x.kind = e.kind))
  !foreign ||
    (match d.bySaddr g e.addr with
     | none => false
     | some nh =>
       e.taps.all (fun t => d.overlapOk t.port (e.gain.getD 16) (d.spanNoise nh u (stop - u)) ((here.flatMap (fun x => x.outs)).eraseDups)))

/-- An overlapped reception is planned slot by slot. -/
def Dev.overlapPlanned (d : Dev) (g : Nat) (pl : Plan) (e : DecEntry) : Bool :=
  let edges := (planEdges pl).filter (fun u => decide (e.start ≤ u ∧ u < e.start + e.len))
  e.capture || edges.all (fun u =>
    d.slotPlanned g pl e u ((edges.filter (fun v => decide (u < v))).foldl min (e.start + e.len)))

/-- Contention of `CA_MIN` units or more. -/
def Dev.contentionOk (d : Dev) (pl : Plan) : Bool :=
  decide (d.fld Reg.gongGrid 12 0 ≤
    ((pl.allocs.filter (fun a => decide (a.kind = kindContention))).map (fun a => a.len)).foldl (· + ·) 0)

/-- The training requests that beacon period `n` is to carry. -/
def Dev.trainingsFor (d : Dev) (g n : Nat) : List MntRun :=
  d.mnt.runs.filter (fun r => decide (r.req.kind = 2) && decide (r.placed = some n) &&
    r.req.ports.any (fun p => decide (portGroup p = g)))

/-- Canceller training has a slot where it was granted for this beacon period, long enough for its symbols (04 R98, R99). -/
def Dev.trainingOk (d : Dev) (g n : Nat) (pl : Plan) : Bool :=
  let slots := pl.allocs.filter (fun a => decide (a.kind = kindTraining))
  let need := d.unitsOf (d.fld (Reg.echCtrl g) 23 16 * 73728 + usSamples 500)
  if d.trainingsFor g n = [] then slots.isEmpty else decide (slots.length = 1) && slots.all (fun a => decide (need ≤ a.len))

/-- The granted sounding sessions of a group that wait for their place up to beacon period `n`. -/
def Dev.sessionsFor (d : Dev) (g n : Nat) : List Sess :=
  d.sess.filter (fun s => decide ((d.node s.nh).grp = g) && !s.done && s.endBp.isNone &&
    d.mnt.runs.any (fun r => decide (r.req.sess = some s.id) &&
      (match r.placed with | some b => decide (bpSince b n < 2 ^ 22) | none => false)))

/-- The sounding allocations of a plan for a node in one direction. -/
def soundAllocs (pl : Plan) (addr : Nat) (up : Bool) : List Alloc :=
  pl.allocs.filter (fun (a : Alloc) => decide (a.kind = kindSounding ∧ a.addr = addr) && a.dir == up)

/-- Payload symbols of a sounding frame that fills a number of samples (09 R222; log 13). -/
def Dev.soundRoom (d : Dev) (g : Nat) (mimo : Bool) (samples : Nat) : Nat :=
  min 4095 ((samples - frameLen (d.profile g) (d.maskOf g) (d.ulGi g) (d.twCode g) 0 mimo 0) / symPeriod (d.ulGi g))

/-- How many payload symbols of the frame that fills an allocation from its start lie whole, from the first prefix sample to the last
postfix sample, in one segment of an index. -/
def Dev.soundCount (d : Dev) (g : Nat) (a : Alloc) (seg : Nat) : Nat :=
  let mimo := decide (a.cpl = 2)
  let head := frameLen (d.profile g) (d.maskOf g) (d.ulGi g) 0 0 mimo 0
  let period := symPeriod (d.ulGi g)
  let at_ := fun (n : Nat) => a.start * unitPu * 5 * 2 ^ 24 + n * d.tb.freq.toNat
  let spans := (d.segSpans.filter (fun s => decide (s.1 = seg))).map (fun s => (s.2.1 * 5 * 2 ^ 24, s.2.2 * 5 * 2 ^ 24))
  ((List.range (d.soundRoom g mimo (a.len * unitPu * 5 * 2 ^ 24 / d.tb.freq.toNat))).filter (fun j =>
    let lo := at_ (head + j * period)
    let hi := at_ (head + (j + 1) * period + postfixLen (d.twCode g))
    spans.any (fun s => decide (s.1 ≤ lo ∧ hi ≤ s.2)))).length

/-- Whether a plan holds a session: at most 16 frames, in which every segment index it names has `SND_MIN` symbols (09 R222). -/
def Dev.holdsSession (d : Dev) (g : Nat) (pl : Plan) (s : Sess) : Bool :=
  let mine := soundAllocs pl (d.node s.nh).saddr s.up
  decide (1 ≤ mine.length ∧ mine.length ≤ 16) && (List.range 16).all (fun k => !bit s.segs k ||
    decide (d.fld Reg.marLoad 20 16 ≤ natSum (mine.map (fun a => d.soundCount g a k))))

/-- Sounding allocations belong to the sessions that wait, and each of those has its place. -/
def Dev.soundingOk (d : Dev) (g n : Nat) (pl : Plan) : Bool :=
  let ss := d.sessionsFor g n
  ss.all (fun s => d.holdsSession g pl s) &&
    (pl.allocs.filter (fun a => decide (a.kind = kindSounding))).all (fun a =>
      ss.any (fun s => decide (a.addr = (d.node s.nh).saddr) && a.dir == s.up))

/-- The DORMANT nodes of a group whose poll falls in beacon period `n` (12 R309). -/
def Dev.pollsFor (d : Dev) (g n : Nat) : List Nat :=
  (d.nodesOf g).filter (fun nh => decide ((d.node nh).st = .dormant) &&
    (match (d.node nh).dorm with | some x => decide (x.next = n) | none => false))

/-- A poll window (12 R311): guard on both sides, and a release part only where something is held. -/
def Dev.pollWindow (d : Dev) (g nh : Nat) (a : Alloc) : Bool :=
  match (d.node nh).dorm with
  | none => false
  | some x =>
    let gk := d.pollGuard (d.node nh) x
    let fixed := 2 * gk + d.pollUnits g
    let held := decide ((d.node nh).heldq ≠ [] ∨ (d.node nh).cur.isSome)
    decide (a.start + gk = x.pofs) &&
      (if held then decide (fixed < a.len ∧ a.len ≤ fixed + d.fld (Reg.dnLife g) 12 0) else decide (a.len = fixed))

/-- Every poll that is due has its window, and no other. -/
def Dev.pollsOk (d : Dev) (g n : Nat) (pl : Plan) : Bool :=
  let due := d.pollsFor g n
  let polls := pl.allocs.filter (fun a => decide (a.kind = kindPoll))
  decide (polls.length = due.length) &&
    due.all (fun nh => polls.any (fun a => decide (a.addr = (d.node nh).saddr) && d.pollWindow g nh a))

/-- Whether a plan gives a node an uplink data allocation. -/
def Dev.givesUplink (d : Dev) (pl : Plan) (nh : Nat) : Bool :=
  pl.allocs.any (fun a => decide (a.kind = kindData ∧ a.addr = (d.node nh).saddr) && a.dir)

/-- An ACTIVE node without an uplink allocation for a quarter of `SILENT_BP`, or one that has announced more to send, gets one
where its link can be scheduled (10 R258, 11 R286). -/
def Dev.uplinkOk (d : Dev) (g n : Nat) (pl : Plan) : Bool :=
  (d.nodesOf g).all (fun nh =>
    let x := d.node nh
    let due := decide (x.st = .active) &&
      (x.ulAsk || decide (d.fld Reg.gongNode 15 0 / 4 ≤ bpSince (x.ulBp.getD x.stBp) n))
    !due || d.givesUplink pl nh || (d.planLink g n x.saddr).isNone)

/-- The beacon region is sized to a beacon of one to four blocks, and the beacon that announces the plan fits four. -/
def Dev.beaconOk (d : Dev) (g n : Nat) (pl : Plan) : Bool :=
  [1, 2, 3, 4].any (fun k => decide (pl.brlen = d.beaconUnits g k)) &&
    decide ((d.beaconBody g ((n + 2 ^ 23 - 1) % 2 ^ 23) pl).length ≤ 2040) &&
    decide (pl.caSlot = d.caSlot g ∧ pl.allocs.length ≤ d.fld Reg.gongGrid 31 24)

/-- With the plans that other groups have frozen, and room for the two boundaries of each group whose schedule may still be late, a beacon
period has at most 4,096 slot boundaries (10 R247, R257). -/
def Dev.edgesOk (d : Dev) (g n : Nat) (pl : Plan) : Bool :=
  let others := d.groups.flatMap (fun (e : Nat × Group) => if e.1 = g then [] else
    (e.2.frozen.filter (fun (x : Nat × Plan) => decide (x.1 = n))).flatMap (fun (x : Nat × Plan) => planEdges x.2))
  decide ((planEdges pl ++ others).eraseDups.length + 2 * 31 ≤ 4096)

/-- The rules that the plan of beacon period `n` of a group keeps. -/
def Dev.planOk (d : Dev) (g n : Nat) (pl : Plan) : Bool :=
  d.beaconOk g n pl && pl.allocs.all (allocForm pl) && allocsAscend pl.allocs && allocsApart pl.allocs &&
    pl.allocs.all (d.allocNode g n) && pl.allocs.all (d.allocServed g pl) && pl.decs.all (d.decEntryOk g n pl) &&
    pl.encs.all (d.encEntryOk g n pl) && pl.encs.any (fun e => decide (e.kind = kindBeacon)) &&
    lanesOk g (d.takenDecs g n) (pl.decs.map (fun e => (e.lane, e.start, e.len))) &&
    lanesOk g (d.takenEncs g n) (pl.encs.map (fun e => (e.lane, e.start, e.len))) &&
    pl.decs.all (d.overlapPlanned g pl) && d.contentionOk pl && d.trainingOk g n pl && d.soundingOk g n pl &&
    d.pollsOk g n pl && d.uplinkOk g n pl && d.edgesOk g n pl

/-! ### Freezing and being late (10 R256, R257; 22 R503) -/

/-- Whether a group beacons in beacon period `n`: from its first one on. -/
def Dev.beacons (d : Dev) (g n : Nat) : Bool :=
  (d.group g).st.up && (match (d.group g).firstBcn with | some b => decide (bpSince b n < 2 ^ 22) | none => false)

/-- Whether the schedule of beacon period `n` is wanting. -/
def Dev.unplanned (d : Dev) (g n : Nat) : Bool := d.beacons g n && (d.planOf g n).isNone

/-- Sessions whose marks can no longer be served in time, those that wait for another session to end among them: counted once, and placed
at the next opportunity (09 R241). -/
def Dev.lateSessions (d : Dev) (g n : Nat) : Dev :=
  let old := fun (m : Option Nat) => match m with | some b => decide (5 ≤ bpSince b n ∧ bpSince b n < 2 ^ 22) | none => false
  let mine := d.sess.filter (fun s => decide ((d.node s.nh).grp = g ∧ (d.node s.nh).st ≠ .dormant) && !s.done)
  let d := (mine.filter (fun s => s.endBp.isNone && old s.mark)).foldl
    (fun d s => (d.raise .mar 5).modSess s.id (fun s => { s with mark := none })) d
  (mine.filter (fun s => old s.moreMark)).foldl (fun d s => (d.raise .mar 5).modSess s.id (fun s => { s with moreMark := none })) d

/-- Put a plan into force for beacon period `n`; plans of periods past go. -/
def Dev.setPlan (d : Dev) (g n : Nat) (pl : Plan) : Dev :=
  d.modGroup g (fun x => { x with
    frozen := x.frozen.filter (fun e => decide (bpSince d.msync.bpi e.1 < 2 ^ 22)) ++ [(n, pl)] })

/-- Effect of SCHEDULE_FREEZE, at the start of the beacon period three before the one it plans (10 R256). -/
def scheduleFreezeEffect (g : Nat) (pl : Plan) (d : Dev) : Dev :=
  let n := (d.msync.bpi + 3) % 2 ^ 23
  if d.dev ≠ .run ∨ !d.atBoundary ∨ !d.unplanned g n then d
  else
    -- the Gong asks again for the sessions that the arbiter had no room for (21 R477)
    let d := (d.sess.filter (fun s => decide ((d.node s.nh).grp = g) && !s.done && s.endBp.isNone)).foldl
      (fun d s => d.askSession s) d
    if !d.planOk g n pl then d
    else
      let placed := d.sessionsFor g n
      let d := (d.setPlan g n pl)
      let d := placed.foldl (fun d s => d.modSess s.id (fun s => { s with endBp := some n })) d
      let d := (d.nodesOf g).foldl (fun d nh => if d.givesUplink pl nh then
          d.modNode nh (fun x => { x with ulAsk := false, ulBp := some n }) else d) d
      d.lateSessions g n

/-- SCHEDULE_FREEZE. -/
def execScheduleFreeze (g : Fin 32) (plan : Plan) (s : State) : Host.Outcome State Fault Refusal :=
  run (scheduleFreezeEffect g plan) s

/-- The first lane for a span: a home lane, then ascending. -/
def pickLane (taken : List (Nat × Nat × Nat)) (g start len : Nat) : Nat :=
  (([3 * g, 3 * g + 1, 3 * g + 2] ++ List.range 96).find? (fun l => !laneTaken taken l start len)).getD (3 * g)

/-- The plan of a late beacon period: its beacon region, here that of a four-block beacon (log 13), and one contention
allocation of `CA_MIN` units directly after it. -/
def Dev.latePlan (d : Dev) (g n : Nat) : Plan :=
  let br := d.beaconUnits g 4
  let ca := d.fld Reg.gongGrid 12 0
  let a : Alloc := { start := br, len := ca, addr := addrAll, dir := true, form := 5, cpl := 1, kind := kindContention }
  match d.planLink g n addrAll with
  | none => { brlen := br, caSlot := d.caSlot g, allocs := [a], decs := [], encs := [] }
  | some l =>
    { brlen := br, caSlot := d.caSlot g, allocs := [a]
      decs := [{ lane := pickLane (d.takenDecs g n) g br ca, start := br, len := ca
                 taps := l.taps.map (fun p => ({ code := 0, port := p } : Tap))
                 stap := (l.taps.head?).map (fun p => ({ code := 1, port := p } : Tap))
                 echo := false, capture := false, gain := none, addr := addrAll, kind := kindContention }]
      encs := [{ lane := pickLane (d.takenEncs g n) g 0 br, start := 0, len := br, outs := l.outs, cpl := 1, addr := addrAll
                 kind := kindBeacon, dir := false, form := 6 }] }

/-- The first beacon period up to three ahead whose schedule is wanting: the last of them once the start of this period is past (10
R257). -/
def Dev.wanting (d : Dev) (g : Nat) : Option Nat :=
  (((if d.atBoundary then [0, 1, 2] else [0, 1, 2, 3]).map (fun k => (d.msync.bpi + k) % 2 ^ 23))).find? (fun n => d.unplanned g n)

/-- Effect of SCHEDULE_LATE: the start of the period three before is past, and no schedule is frozen. A training placed there
is aborted (21 R480). -/
def scheduleLateEffect (g : Nat) (d : Dev) : Dev :=
  if d.dev ≠ .run then d
  else match d.wanting g with
    | none => d
    | some n =>
      let lost := (d.trainingsFor g n).flatMap (fun r => r.req.ports)
      let d := lost.foldl (fun d p => let d := d.requeueMnt 2 p; if (d.port p).ech = .training then d.toIdle p else d) d
      let d := d.setPlan g n (d.latePlan g n)
      let d := (d.raise .gong 5).event 0x0207 stOk g (leBytes 2 n)
      d.lateSessions g n

/-- SCHEDULE_LATE. -/
def execScheduleLate (g : Fin 32) (s : State) : Host.Outcome State Fault Refusal := run (scheduleLateEffect g) s

end Sys2Proof.Machine
end

