-- ==== Sys2Proof/Machine/Scrub.lean ====
section
/-! DEFINITION. The scrubbers of the frame store and of the Marimba (18 R429-R432, 21 R479). -/

namespace Sys2Proof.Machine

/-! ### Frame store -/

/-- Add a block and its cell to a list of faulty ones. -/
def addFaulty (l : List (Nat × Nat)) (idx cell : Nat) : List (Nat × Nat) :=
  if l.any (fun x => decide (x.1 = idx)) then l else l ++ [(idx, cell)]

/-- Mark the cell of block `idx` of downlink MSDU `id`, wherever that stands. -/
def Msdu.markFaulty (id idx cell : Nat) (m : Msdu) : Msdu :=
  if m.id = id ∧ m.blocks.any (fun b => decide (b.idx = idx)) then { m with faulty := addFaulty m.faulty idx cell } else m

/-- Mark a downlink MSDU's cell in every queue. -/
def Dev.markTx (d : Dev) (id idx cell : Nat) : Dev :=
  let f := Msdu.markFaulty id idx cell
  let gs := d.groups.map (fun (e : Nat × Group) => (e.1, { e.2 with bq := e.2.bq.map f }))
  let ns := d.nodes.map (fun (e : Nat × Node) =>
    (e.1, { e.2 with txq := e.2.txq.map f, heldq := e.2.heldq.map f, cur := e.2.cur.map f }))
  { d with groups := gs, nodes := ns }

/-- A cell in use is marked faulty: its next reader acts on it. -/
def Dev.markCell (d : Dev) (u : CellUse) (cell : Nat) : Dev :=
  match u with
  | .part nh => d.modNode nh (fun n => { n with reasm := n.reasm.map (fun r =>
      if r.faulty.isSome ∨ r.parts = [] then r else { r with faulty := some cell }) })
  | .rx g nh seq idx => d.modGroup g (fun x => { x with rxq := x.rxq.map (fun m =>
      if m.nh = nh ∧ m.seq = seq ∧ idx < m.cells.length then { m with faulty := addFaulty m.faulty idx cell } else m) })
  | .fwd id idx =>
    { d with fwdWait := d.fwdWait.map (fun w =>
        if w.id = id ∧ idx < w.msdu.cells.length then
          { w with msdu := { w.msdu with faulty := addFaulty w.msdu.faulty idx cell } } else w) }
  | .tx id idx => d.markTx id idx cell

/-- Effect of FRAME_STORE_SCRUB: a single-bit error is corrected and counted, an uncorrectable word in a free cell is
rewritten. -/
def frameStoreScrubEffect (cell : Nat) (res : ScrubResult) (use : Option CellUse) (d : Dev) : Dev :=
  if !d.dev.clocked ∨ 98304 ≤ cell then d
  else match res, use with
    | .corrected, _ => d.count 39 7 1 none 1
    | .uncorrectable, some u => d.markCell u cell
    | _, _ => d

/-- FRAME_STORE_SCRUB. -/
def execFrameStoreScrub (cell : Nat) (res : ScrubResult) (use : Option CellUse) (s : State) :
    Host.Outcome State Fault Refusal := run (frameStoreScrubEffect cell res use) s

/-! ### The Marimba -/

/-- The model's number for a scrubbed place: lines even, copies odd. -/
def marCode : MarPlace → Nat
  | .line n => 2 * n
  | .copy nh up seg shadow => 2 * (2 * keyIx nh up seg + b2n shadow) + 1

/-- A copy of a key is uncorrectable: it is discarded, and a sounding is placed within the limit for STALE marks. While its
set is SCHEDULED the commit exchanges nothing for the key (18 Table IN.3, Table IN.5). -/
def Dev.loseCopy (d : Dev) (nh : Nat) (up : Bool) (seg : Nat) (shadow : Bool) : Dev :=
  let i := keyIx nh up seg
  let k := d.key i
  let sched := decide ((d.mapSet (setIx nh up)).upd = .scheduled)
  if (if shadow then k.shadow else k.active).isNone then d
  else
    let d := d.faultEvent 0x02 nh (d.node nh).grp (seg + 16 * b2n up)
    let d := if shadow then d.modKey i (fun k => { k with shadow := none })
      else d.modKey i (fun k => { k with active := none, stale := false, built := k.built && !sched })
    if shadow ∧ !k.built then d else d.openSession nh up (2 ^ seg) (some d.msync.bpi) []

/-- Effect of MARIMBA_SCRUB, while `SCRUB_EN` is 1. A scrub that meets a commit of its entry yields and comes back to it. -/
def marimbaScrubEffect (w : MarPlace) (res : ScrubResult) (commits : Bool) (d : Dev) : Dev :=
  if !d.dev.clocked ∨ !d.flag Reg.marCtrl 2 then d
  else if commits then
    let d := d.raise .mnt 3
    if d.mnt.revisit.contains (marCode w) then d else { d with mnt := { d.mnt with revisit := marCode w :: d.mnt.revisit } }
  else
    let d := { d with mnt := { d.mnt with revisit := d.mnt.revisit.filter (fun c => decide (c ≠ marCode w)) } }
    match res, w with
    | .clean, _ => d
    | .corrected, .line _ => d.count 34 7 2 none 1
    | .corrected, .copy .. => d.count 34 7 3 none 1
    | .uncorrectable, .line _ =>
      -- the line is fetched again; how a line's words are addressed is not stated (log 3)
      let f := d.free
      f.2.faultEvent 0x03 (f.1.toNat % 2 ^ 32) 0xFF 0
    | .uncorrectable, .copy nh up seg shadow => if seg < 16 then d.loseCopy nh up seg shadow else d

/-- MARIMBA_SCRUB. -/
def execMarimbaScrub (w : MarPlace) (res : ScrubResult) (commits : Bool) (s : State) : Host.Outcome State Fault Refusal :=
  run (marimbaScrubEffect w res commits) s

end Sys2Proof.Machine
end

