-- ==== Sys2Proof/Machine/Slots.lean ====
section
/-! DEFINITION. The slot executor: bindings delivered and applied at slot boundaries, overlap checks, drivers and gains, and the
tone-map entries fetched for a slot (05 R119-R131, 04 R105-R111, 03 R68, R73, R81, 09 R233, R234, 10 R247). -/

namespace Sys2Proof.Machine

/-! ### Slots (10 R246, R247) -/

/-- The plan of a group for beacon period `n`: the frozen one, or that of R257. -/
def Dev.planFor (d : Dev) (g n : Nat) : Plan := (d.planOf g n).getD (d.latePlan g n)

/-- The groups that beacon in beacon period `n`, with their plans. -/
def Dev.plansAt (d : Dev) (n : Nat) : List (Nat × Plan) :=
  ((List.range 32).filter (fun g => d.beacons g n)).map (fun g => (g, d.planFor g n))

/-- Slot boundaries of beacon period `n`: its start, the end of every beacon region, the start and end of every
allocation. -/
def Dev.edgesAt (d : Dev) (n : Nat) : List Nat :=
  0 :: (d.plansAt n).flatMap (fun (x : Nat × Plan) => planEdges x.2)

/-- The boundary after slot unit `u`, or the end of the beacon period. -/
def Dev.slotEnd (d : Dev) (n u : Nat) : Nat := ((d.edgesAt n).filter (fun e => decide (u < e))).foldl min 8192

/-- A decode entry with its group and whether it reserves the partner lane. -/
structure DecBind where
  grp  : Nat
  mimo : Bool
  e    : DecEntry

/-- An encode entry with its group. -/
structure EncBind where
  grp : Nat
  e   : EncEntry

/-- The decode entries that hold at slot unit `u`, in ascending lane number. -/
def Dev.decsAt (d : Dev) (n u : Nat) : List DecBind :=
  let all := (d.plansAt n).flatMap (fun (x : Nat × Plan) =>
    (x.2.decs.filter (fun (e : DecEntry) => decide (e.start ≤ u ∧ u < e.start + e.len))).map (fun (e : DecEntry) =>
      ({ grp := x.1, mimo := decMimo x.2 e, e := e } : DecBind)))
  (List.range 96).filterMap (fun l => all.find? (fun b => decide (b.e.lane = l)))

/-- The encode entries that hold at slot unit `u`, in ascending lane number. -/
def Dev.encsAt (d : Dev) (n u : Nat) : List EncBind :=
  let all := (d.plansAt n).flatMap (fun (x : Nat × Plan) =>
    (x.2.encs.filter (fun (e : EncEntry) => decide (e.start ≤ u ∧ u < e.start + e.len))).map (fun (e : EncEntry) =>
      ({ grp := x.1, e := e } : EncBind)))
  (List.range 96).filterMap (fun l => all.find? (fun b => decide (b.e.lane = l)))

/-! ### Delivery (05 R126) -/

/-- The lanes that a boundary binds: decode lanes by number, encode lanes from 96. -/
def Dev.lanesAt (d : Dev) (n u : Nat) : List Nat :=
  (d.decsAt n u).map (fun b => b.e.lane) ++ (d.encsAt n u).map (fun b => 96 + b.e.lane)

/-- The coming boundary: its beacon period, its slot unit, and what Φs still has to run to it. -/
def Dev.coming (d : Dev) : Nat × Nat × Nat :=
  let n := d.msync.bpi
  match ((d.edgesAt n).filter (fun e => decide (d.bpPhase < d.unitStart e))).foldl (fun (a : Option Nat) e => match a with
    | none => some e | some b => some (min b e)) none with
  | some u => (n, u, d.unitStart u - d.bpPhase)
  | none => ((n + 1) % 2 ^ 23, 0, d.unitStart 8192 - d.bpPhase)

/-- Whether `BIND_LEAD` beats of 1.6 ns or more are left of a number of PU. -/
def Dev.leadLeft (d : Dev) (pu : Nat) : Bool :=
  decide (d.fld Reg.carLead 15 0 * 2 * d.tb.freq.toNat ≤ pu * 2 ^ 24 * 5)

/-- Effect of BINDING_DELIVERY for the coming boundary: the lanes named `late`, or every lane once the lead has passed, are late. -/
def bindingDeliveryEffect (unit : Nat) (late : List Nat) (d : Dev) : Dev :=
  let c := d.coming
  if d.dev ≠ .run ∨ c.2.1 ≠ unit then d
  else
    let lanes := (d.lanesAt c.1 unit).filter (fun l => !d.shadow.contains l && !d.late.contains l)
    let slow := lanes.filter (fun l => !d.leadLeft c.2.2 || late.contains l)
    let d := { d with shadow := d.shadow ++ lanes.filter (fun l => !slow.contains l), late := d.late ++ slow }
    slow.foldl (fun d _ => d.raise .car 0) d

/-- BINDING_DELIVERY. -/
def execBindingDelivery (unit : Nat) (late : List Nat) (s : State) : Host.Outcome State Fault Refusal :=
  run (bindingDeliveryEffect unit late) s

/-! ### Entries applied (05 R20, R122, R125, R127; 03 R81; 08 R196) -/

/-- Whether some port lies in a quadrant whose streams are absent (05 R130). -/
def Dev.absent (d : Dev) (ps : List Nat) : Bool := ps.any (fun p => !bit d.present (portQuad p))

/-- Whether a decode entry is refused, given the entries applied before it. -/
def Dev.decRefused (d : Dev) (done : List DecBind) (b : DecBind) : Bool :=
  let partner := done.find? (fun x => decide (x.e.lane = b.e.lane ^^^ 1))
  decide (4 < b.e.taps.length) || b.e.echo || (b.e.capture && !d.flag Reg.carCtrl 0) ||
    d.absent (b.e.taps.map (fun t => t.port) ++ (match b.e.stap with | some t => [t.port] | none => [])) ||
    (match partner with | some x => x.mimo || b.mimo | none => false)

/-- The capture that a capture entry serves: the one in hand, once its start has come, on one lane throughout (16 R403). -/
def Dev.captFor (d : Dev) (l : Nat) : Option Capt :=
  d.capts.find? (fun c => c.flushed.isNone && decide (c.lane = none ∨ c.lane = some l) && !mptBefore d.mpt c.start &&
    decide (bpSince c.firstBp d.msync.bpi < 2 ^ 22))

/-- Whether an encode entry is refused, given the entries applied before it: the tap limits, an absent quadrant, the N port, a
coupling that the mode does not allow, a port that a TPC or MIMO binding leaves out. -/
def Dev.encRefused (d : Dev) (done : List EncBind) (b : EncBind) : Bool :=
  let outs := b.e.outs
  let mode := d.fld (Reg.grpCtrl b.grp) 1 0
  let l := d.lPorts b.grp
  decide (outs = [] ∨ 3 < outs.length) || d.absent outs || outs.any (fun p => done.any (fun x => x.e.outs.contains p)) ||
    outs.any (fun p => !d.isL p) ||
    (match b.e.cpl with
     | 0 => decide (mode ≠ 0 ∨ outs.length ≠ 1) || !outs.all d.inService
     | 1 => decide (l = []) || !l.all (fun p => outs.contains p)
     | 2 => decide (mode ≠ 2 ∨ l.length ≠ 3) || !l.all (fun p => outs.contains p)
     | _ => true)

/-- A port in fault at the boundary stays muted, and its binding is not applied (03 R86). -/
def Dev.encFit (d : Dev) (b : EncBind) : EncBind :=
  { b with e := { b.e with outs := b.e.outs.filter (fun p => !((d.port p).ocFault || (d.port p).thFault)) } }

/-- Apply decode entries in lane order: those applied, and the lanes refused. -/
def Dev.applyDecs (d : Dev) (bs : List DecBind) : List DecBind × List Nat :=
  bs.foldl (fun (acc : List DecBind × List Nat) b =>
    if d.decRefused acc.1 b then (acc.1, acc.2 ++ [b.e.lane])
    else if b.e.capture && (d.captFor b.e.lane).isNone then acc
    else (acc.1 ++ [b], acc.2)) ([], [])

/-- Apply encode entries in lane order. -/
def Dev.applyEncs (d : Dev) (bs : List EncBind) : List EncBind × List Nat :=
  bs.foldl (fun (acc : List EncBind × List Nat) b =>
    if d.encRefused acc.1 b then (acc.1, acc.2 ++ [96 + b.e.lane])
    else
      let b := d.encFit b
      if b.e.outs = [] then acc else (acc.1 ++ [b], acc.2)) ([], [])

/-! ### Sources (04 R89, R108-R111; 05 R122, R123) -/

/-- The sources of a receive port: in-service ports of its group to which a drive output is bound. -/
def Dev.sourcesOf (d : Dev) (es : List EncBind) (p : Nat) : List Nat :=
  (es.flatMap (fun b => b.e.outs)).filter (fun q => decide (portGroup q = portGroup p) && d.inService q)

/-- The sources of a list of receive ports, in the order in which they take `ERF0` to `ERF3`: by receive tap, then by encode lane and its
outputs (DESIGN CHOICE where the spec gives no order, log 23). -/
def Dev.sourcesAll (d : Dev) (es : List EncBind) (ps : List Nat) : List Nat := (ps.flatMap (d.sourcesOf es)).eraseDups

/-- The receive ports of a decode entry. -/
def DecBind.ports (b : DecBind) : List Nat := b.e.taps.map (fun t => t.port)

/-- Whether a term ranks above another: unmeasured above all, then the larger, then the higher port. -/
def termAbove (a b : Nat × Option Int) : Bool :=
  match a.2, b.2 with
  | none, none => decide (b.1 < a.1)
  | none, some _ => true
  | some _, none => false
  | some x, some y => decide (y < x ∨ (y = x ∧ b.1 < a.1))

/-- The term of a source: its largest over the receive ports it counts for; none where some is unmeasured. -/
def Dev.termOf (d : Dev) (es : List EncBind) (ps : List Nat) (q : Nat) : Option Int :=
  let ts := (ps.filter (fun p => (d.sourcesOf es p).contains q)).map (fun p => d.duplexTerm p q)
  if ts.all Option.isSome then (ts.filterMap id).foldl (fun (a : Option Int) v => match a with
    | none => some v | some w => some (max v w)) none
  else none

/-- The source that is withheld next. -/
def Dev.nextWithheld (d : Dev) (es : List EncBind) (ps : List Nat) : Option Nat :=
  ((d.sourcesAll es ps).foldl (fun (best : Option (Nat × Option Int)) q =>
    let x := (q, d.termOf es ps q)
    match best with
    | none => some x
    | some y => if termAbove x y then some x else some y) none).map (fun x => x.1)

/-- A boundary's overlap checks as far as they have come: the device, the encode entries that remain, the receive ports on which a source
has been withheld, and those on which an overlap has been allowed. -/
structure Gated where
  d     : Dev
  es    : List EncBind
  hit   : List Nat
  clear : List Nat

/-- Withhold the encode lane that drives a source: none of its ports is a source any longer, and each source withheld is counted
on the receive ports concerned (log 23). -/
def Gated.withhold (x : Gated) (ps : List Nat) (q : Nat) : Gated :=
  let gone := (x.es.filter (fun b => b.e.outs.contains q)).flatMap (fun b => b.e.outs)
  let d := ps.foldl (fun d p =>
    (gone.filter (fun s => decide (portGroup s = portGroup p) && x.d.inService s)).foldl (fun d _ =>
      d.raise (.ech (portGroup p) (p % 4)) 28) d) x.d
  { x with d := d, es := x.es.filter (fun b => !b.e.outs.contains q), hit := x.hit ++ ps }

/-- More than four sources of one decode lane: sources are withheld until four remain (05 R123). -/
def Gated.fourSources (b : DecBind) : Nat → Gated → Gated
  | 0, x => x
  | fuel + 1, x =>
    if (x.d.sourcesAll x.es b.ports).length ≤ 4 ∨ b.e.capture then x
    else match x.d.nextWithheld x.es b.ports with
      | none => x
      | some q => Gated.fourSources b fuel (x.withhold b.ports q)

/-- Whether a transmission of another allocation of the tapped ports' group is bound: frames and acknowledgements of one
allocation alternate and do not overlap (04 R89; DEDUCED, log 23). -/
def overlapped (b : DecBind) (es : List EncBind) : Bool :=
  es.any (fun x => x.e.outs.any (fun q => b.ports.any (fun p => decide (portGroup p = portGroup q))) &&
    !decide (x.grp = b.grp ∧ x.e.start = b.e.start ∧ x.e.len = b.e.len ∧ x.e.addr = b.e.addr ∧ x.e.kind = b.e.kind))

/-- The gain of a receive port under an entry (03 R68). -/
def Dev.gainOf (d : Dev) (b : DecBind) (p : Nat) : Nat :=
  b.e.gain.getD (d.fld (Reg.portCfg (portGroup p) (p % 4)) 3 0)

/-- The noise floor of the link that an entry receives from, over the slot. -/
def Dev.linkNoise (d : Dev) (b : DecBind) (u stop : Nat) : Option Int :=
  match d.bySaddr b.grp b.e.addr with | some nh => d.spanNoise nh u (stop - u) | none => none

/-- Withhold sources until R109 passes on every port of an entry or no source remains. -/
def Gated.gate (b : DecBind) (nf : Option Int) : Nat → Gated → Gated
  | 0, x => x
  | fuel + 1, x =>
    let fails := b.ports.filter (fun p => !x.d.overlapOk p (x.d.gainOf b p) nf (x.d.sourcesOf x.es p))
    match fails, x.d.nextWithheld x.es fails with
    | [], _ => x
    | _, none => x
    | _, some q => Gated.gate b nf fuel (x.withhold fails q)

/-- R110 and R111 for one decode entry. -/
def Gated.entry (u stop : Nat) (x : Gated) (b : DecBind) : Gated :=
  if b.e.capture || !overlapped b x.es then x
  else
    let r := Gated.gate b (x.d.linkNoise b u stop) 96 x
    { r with clear := r.clear ++ b.ports.filter (fun p => decide (r.d.sourcesOf r.es p ≠ [])) }

/-- `HELD` as it stood at the boundary decides every check of it; then it is set where a source was withheld, and cleared by an overlap
allowed (04 R109, R111). -/
def Gated.holds (x : Gated) : Dev :=
  let d := x.clear.foldl (fun d p => d.modPort p (fun y => { y with held := false })) x.d
  x.hit.foldl (fun d p => d.modPort p (fun y => { y with held := true })) d

/-! ### Lanes bound (05 R126-R129, 07 R186, 10 R247) -/

/-- A decode lane takes its binding: one equal to the slot before continues undisturbed, but for an ACK owed in another allocation;
another starts anew, none leaves it unbound. -/
def Dev.bindDec (d : Dev) (es : List EncBind) (l : Nat) (b : Option DecBind) : Dev :=
  let x := d.dec l
  match b with
  | none => if x.bound.isSome then d.unbindDec l else d
  | some b =>
    let erf := if b.e.capture then [] else (d.sourcesAll es b.ports).take 4
    let same := match x.bound with
      | some e => decide (e.taps = b.e.taps ∧ e.stap = b.e.stap ∧ x.grp = b.grp) && (e.capture == b.e.capture)
      | none => false
    if same then d.modDec l (fun x => { x with bound := some b.e, erf := erf, ack := if x.bound = some b.e then x.ack else none })
    else
      let d := if x.bound.isSome then d.unbindDec l else d
      let d := d.modDec l (fun x => { x with
        taps := b.e.taps, stap := b.e.stap, erf := erf, capture := b.e.capture, bound := some b.e, grp := b.grp
        acq := if b.e.capture then .unbound else .armed })
      if b.e.capture then
        match d.captFor l with
        | some c =>
          if c.lane.isSome then d
          else
            let m := d.mptOf d.tb.n
            { m.2 with capts := m.2.capts.map (fun (y : Capt) =>
                if y.cmd = c.cmd ∧ y.flushed.isNone then { y with lane := some l, n0 := d.tb.n, mpt0 := m.1 } else y) }
        | none => d
      else d

/-- The first hop towards a node: the relay nearest the device, or the node itself (11 R295). -/
def Dev.hopOf (d : Dev) (nh : Nat) : Nat := ((d.relays (d.node nh).grp 7 (d.node nh).parent).head?).getD nh

/-- The nodes whose frames travel over one neighbour. -/
def Dev.servedBy (d : Dev) (hop : Nat) : List Nat :=
  (d.nodesOf (d.node hop).grp).filter (fun nh => decide (d.hopOf nh = hop))

/-- The MSDUs that may fill an allocation: those queued at its slot start (10 R256), in a poll window those held too. -/
def Dev.fillOf (d : Dev) (g addr : Nat) (poll : Bool) : List Nat :=
  match d.entryNode g addr with
  | some hop => ((d.servedBy hop).flatMap (fun nh =>
      (d.node nh).live ++ (if poll then (d.node nh).heldq else []))).map (fun m => m.id)
  | none => (d.group g).bq.map (fun m => m.id)

/-- An encode lane takes its binding. A new entry fixes what fills it; every slot's start which segment indices are STALE (09 R234). -/
def Dev.bindEnc (d : Dev) (l : Nat) (b : Option EncBind) : Dev :=
  let x := d.enc l
  match b with
  | none => if x.bound.isSome then d.unbindEnc l else d
  | some b =>
    if x.bound = some b.e ∧ x.grp = b.grp then
      d.modEnc l (fun x => { x with stale := d.staleSegs b.grp b.e, slotMpt := d.mpt, slotClk := d.clk })
    else
      let keep := x.bound.isSome && decide (x.outs = b.e.outs ∧ x.grp = b.grp)
      let d := if keep then d else d.cutFeeds x.outs
      let stale := d.staleSegs b.grp b.e
      let fill := d.fillOf b.grp b.e.addr (decide (b.e.kind = kindPoll))
      let mpt := d.mpt
      let clk := d.clk
      d.modEnc l (fun x => { outs := b.e.outs, bound := some b.e, grp := b.grp, fill := fill, stale := stale, slotMpt := mpt, slotClk := clk
                             frame := if keep then x.frame else none, nextAt := x.nextAt })

/-! ### The boundary -/

/-- Whether some lane still receives a frame of the allocation that entries are pinned for: it keeps its snapshot (10 R247). -/
def Dev.pinKept (d : Dev) (p : Pin) : Bool :=
  d.decs.any (fun (x : Nat × DecLane) => x.2.acq.busy &&
    (match x.2.cur.alloc with | some a => decide (a.1 = p.bp ∧ a.2.start = p.unit) | none => false))

/-- Entries of slots that have ended are pinned no longer (09 R233). -/
def Dev.dropPins (d : Dev) (u : Nat) : Dev :=
  let n := d.msync.bpi
  let old := fun (bp : Nat) => decide (bpSince bp n ≠ 0 ∧ bpSince bp n < 2 ^ 22)
  { d with pins := d.pins.filter (fun p => !(old p.bp || decide (p.bp = n ∧ p.stop ≤ u)) || d.pinKept p)
           asked := d.asked.filter (fun a => !(old a.1 || decide (a.1 = n ∧ a.2 ≤ u))) }

/-- The pre-canceller is refitted from the correlation gathered in the slot before (04 R92, R105). -/
def Port.refit (x : Port) : Port :=
  if x.corr = [] then x
  else { x with pre := (List.range 32).map (fun t => sat18 (Config.refit x.pre x.corr t)), corr := [] }

/-- Converter calibrations planned for this beacon period start with it (21 R475, Table MR.3). -/
def Dev.startCals (d : Dev) : Dev :=
  let due := (d.mnt.runs.filter (fun r => decide (r.req.kind = 1) &&
    (match r.placed with | some b => decide (bpSince b d.msync.bpi < 2 ^ 22) | none => false))).flatMap (fun r => r.req.ports)
  (due.filter (fun p => !(d.port p).calib)).foldl (fun d p => d.startCal p) d

/-- The drivers' condition from this boundary on (03 R73, 22 R495); a cold training that runs is left alone. -/
def Dev.driverOn (d : Dev) (p : Nat) : Bool :=
  !d.pwr.ovMute && (d.group (portGroup p)).st.up && d.inService p && d.isL p && d.encs.any (fun e => e.2.outs.contains p)

/-- Every driver takes its condition. -/
def Dev.setDrivers (d : Dev) : Dev :=
  (List.range 128).foldl (fun d p =>
    if (d.port p).ech = .training ∨ (d.port p).enabled = d.driverOn p then d
    else d.modPort p (fun x => { x with enabled := d.driverOn p })) d

/-- The entries of a boundary that were delivered in time; the others have come too late (05 R126). -/
def Dev.delivered (d : Dev) (n u : Nat) : List DecBind × List EncBind × List Nat :=
  let ds := d.decsAt n u
  let es := d.encsAt n u
  let miss := (d.lanesAt n u).filter (fun l => !d.shadow.contains l && !d.late.contains l)
  (ds.filter (fun b => d.shadow.contains b.e.lane), es.filter (fun b => d.shadow.contains (96 + b.e.lane)), miss)

/-- The event of a boundary's refusals (16 Table CE.6). -/
def Dev.refusals (d : Dev) (ls : List Nat) : Dev :=
  if ls = [] then d
  else (ls.foldl (fun d _ => d.raise .car 1) d).event 0x0206 stOk 0 (leBytes 2 ls.length ++ leBytes 1 (ls.foldl min 255))

/-- Whether a boundary is due: it has come, and neither it nor a later one of the period has been met. -/
def Dev.boundaryDue (d : Dev) (u : Nat) : Bool :=
  decide (d.dev = .run) && (d.edgesAt d.msync.bpi).contains u && decide (d.unitStart u ≤ d.bpPhase) &&
    decide (d.unit / 8192 ≠ d.msync.bpi ∨ d.unit % 8192 < u)

/-- Effect of SLOT_BOUNDARY at slot unit `u` of the beacon period. -/
def slotBoundaryEffect (u : Nat) (d : Dev) : Dev :=
  if !d.boundaryDue u then d
  else
    let n := d.msync.bpi
    let stop := d.slotEnd n u
    let d := { d with unit := n * 8192 + u }
    let d := if u = 0 then d.startCals else d
    let d := d.ports.foldl (fun d e => if e.2.ech = .diverged then d.modPort e.1 Port.refit else d) d
    let t := d.delivered n u
    let d := t.2.2.foldl (fun d _ => d.raise .car 0) { d with shadow := [], late := [] }
    let ds := d.applyDecs t.1
    let es := d.applyEncs t.2.1
    let x := ds.1.foldl (fun x b => Gated.fourSources b 96 x) { d := d, es := es.1, hit := [], clear := [] }
    -- echo-reference taps stand for the slot even where their source is then withheld (05 Table CA.4)
    let refs := x.es
    let x := ds.1.foldl (fun x b => Gated.entry u stop x b) x
    let d := (List.range 96).foldl (fun d l => d.bindDec refs l (ds.1.find? (fun b => decide (b.e.lane = l)))) x.holds
    let d := (List.range 96).foldl (fun d l => d.bindEnc l (x.es.find? (fun b => decide (b.e.lane = l)))) d
    let d := ds.1.foldl (fun d b => if b.e.capture then d else
      b.ports.foldl (fun d p => d.modPort p (fun y => { y with rxGain := b.e.gain })) d) d
    (d.dropPins u).setDrivers.refusals (ds.2 ++ es.2)

/-- SLOT_BOUNDARY. -/
def execSlotBoundary (unit : Nat) (s : State) : Host.Outcome State Fault Refusal := run (slotBoundaryEffect unit) s

/-! ### Entries fetched for a slot (09 R233, 18 R431) -/

/-- Whether a slot starts between one and two beacon periods from now. -/
def Dev.fetchTime (d : Dev) (bp u : Nat) : Bool :=
  let ahead := unsigned 48 (((bp * 2 ^ 25 + u * unitPu : Nat) : Int) - (d.phis : Int))
  decide (2 ^ 25 ≤ ahead ∧ ahead ≤ 2 ^ 26)

/-- Whether a set's scheduled commit comes at or before a slot's start. -/
def commitsBy (s : MapSet) (start : Nat) (bp u : Nat) : Bool :=
  decide (s.upd = .scheduled) && (decide (0 < bpSince s.effBp bp ∧ bpSince s.effBp bp < 2 ^ 22) ||
    decide (s.effBp % 2 ^ 23 = bp ∧ start ≤ u * unitPu))

/-- The copy of a key that will be ACTIVE at a slot's start, with the set version then in force. -/
def Dev.copyAt (d : Dev) (i seg bp u : Nat) : Option Entry × Nat × Bool :=
  let s := d.mapSet i
  let k := d.key (i * 16 + seg)
  if commitsBy s (d.segStart s.effSeg) bp u then (if k.built then (k.shadow, (s.ver + 1) % 8, true) else (k.active, (s.ver + 1) % 8, false))
  else (k.active, s.ver, false)

/-- Lines in use of the cache of 65,536: those of the pinned entries alone, an entry shared by several pins once (DESIGN CHOICE: the spec
does not say whether lines no longer pinned stay in use, log 20). -/
def pinLines : List Pin → Nat
  | [] => 0
  | p :: ps => (if ps.any (fun x => decide (x.set = p.set ∧ x.entry = p.entry)) then 0 else p.lines) + pinLines ps

/-- Fetch and pin one key of a set for an allocation. -/
def Dev.fetchKey (d : Dev) (bp : Nat) (a : Alloc) (i seg : Nat) (bad : List Nat) : Dev :=
  let c := d.copyAt i seg bp a.start
  let d := if bad.contains (i * 16 + seg) && c.1.isSome then d.loseCopy (i / 2) (decide (i % 2 = 1)) seg c.2.2 else d
  match (if bad.contains (i * 16 + seg) then none else c.1) with
  | none => d
  | some e =>
    let pin : Pin := { bp := bp, unit := a.start, stop := a.start + a.len, set := i, ver := c.2.1, entry := e, lines := e.lines }
    if d.pins.contains pin then d
    else if 65536 < pinLines (pin :: d.pins) then d.raise .mar 2
    else { d with pins := pin :: d.pins }

/-- Whether the entries of a slot have been requested. -/
def Dev.wasAsked (d : Dev) (bp u : Nat) : Bool := d.asked.contains (bp, u)

/-- Effect of TONE_MAP_FETCH: for the allocations that start at a slot, the entries of every segment they cover.
`corrected` counts the single-bit errors that the reads correct, `bad` names the keys whose copy is found beyond correction. -/
def toneMapFetchEffect (bp u corrected : Nat) (bad : List Nat) (d : Dev) : Dev :=
  if d.dev ≠ .run ∨ !d.fetchTime bp u then d
  else
    let d := { d with asked := if d.wasAsked bp u then d.asked else (bp, u) :: d.asked }
    let d := if corrected = 0 then d else d.count 34 7 3 none corrected
    (d.plansAt bp).foldl (fun d x =>
      let mine := x.2.allocs.filter (fun (a : Alloc) => decide (a.start = u ∧ (a.kind = kindData ∨ a.kind = kindPoll)))
      mine.foldl (fun d a => match d.entryNode x.1 a.addr with
        | none => d
        | some nh =>
          let dirs := if a.kind = kindPoll then [false, true] else [a.dir]
          dirs.foldl (fun d up => (d.spanSegs a.start a.len).foldl (fun d seg => d.fetchKey bp a (setIx nh up) seg bad) d) d) d) d

/-- TONE_MAP_FETCH. -/
def execToneMapFetch (bp : BitVec 23) (unit corrected : Nat) (uncorrectable : List Nat) (s : State) :
    Host.Outcome State Fault Refusal := run (toneMapFetchEffect bp.toNat unit corrected uncorrectable) s

end Sys2Proof.Machine
end

