-- ==== Sys2Proof/Machine/Switching.lean ====
section
/-! DEFINITION. Phase-scheduled switching outputs and timed actions at nodes (14, 16 R402). -/

namespace Sys2Proof.Machine

/-! ### Edges in time (14 R352, R353) -/

/-- What MPT still has to run to a target, in 2^-24 PU, negative once it has passed it (02 R37, R38). -/
def Dev.toGo (d : Dev) (t : Nat) : Int := signed 72 (unsigned 72 ((t * 2 ^ 24 : Nat) - (d.tb.acc.toNat : Int)))

/-- What MPT runs in a number of CK_MPT cycles. -/
def Dev.runs (d : Dev) (cycles : Nat) : Int := ((cycles * d.tb.freq.toNat : Nat) : Int)

/-- The instants of the edges that an operation still has to make, in halves of 2^-24 PU of MPT from now. -/
def Dev.edgesOf (d : Dev) (o : SwoOp) : List Int :=
  let f : Int := d.tb.freq.toNat
  match o.mpt1 with
  | none => let e := 2 * d.toGo o.t; if o.act = 2 then [e, e + o.pw * f] else [e]
  | some _ =>
    if o.act = 2 ∧ o.mpt2.isNone then [((o.at1 + o.pw : Nat) - (2 * d.clk : Nat) : Int) * f] else []

/-- Whether some edge of an operation lies within `MIN_GAP` of an edge queued for its output. -/
def Dev.swoConflict (d : Dev) (o : SwoOp) : Bool :=
  let gap := 2 * d.runs (usClk (d.fld Reg.swoTime 7 0))
  (d.swo.filter (fun x => decide (x.out = o.out))).any (fun x =>
    (d.edgesOf x).any (fun a => (d.edgesOf o).any (fun b => decide (absI (a - b) < gap))))

/-- The refusals of R353 in their order. -/
def Dev.swoRefusal (d : Dev) (o : SwoOp) : Option Nat :=
  if d.toGo o.t < d.runs (usClk (d.fld Reg.swoTime 25 16)) then some stLate
  else if 2 ^ 40 ≤ unsigned 48 ((o.t : Int) - (d.mpt : Int)) then some stInvalid
  else if o.act = 2 ∧ 2 * o.pw < 1000 * d.fld Reg.swoTime 7 0 then some stInvalid
  else if d.swoConflict o then some stConflict
  else if 256 ≤ d.swo.length ∨ 32 ≤ (d.swo.filter (fun x => decide (x.out = o.out))).length then some stNoRoom
  else none

/-- The operation of a command (14 Table SW.1). -/
def swoOf (id : Nat) (c : CmdDesc) : SwoOp :=
  { id := id, out := bits c.n3 3 0, act := bits c.n3 5 4, t := c.mpt, pw := c.n1, tag := c.n2, committed := false
    hold := false, mpt1 := none, mpt2 := none, at1 := 0, checked := false, pinFault := false, raddr := c.raddr, cmd := id }

/-- Effect of SWO_SUBMIT. -/
def swoSubmitEffect : CmdDesc → Dev → Dev :=
  command { CmdSpec.plain 0x48 with needR := true, m0 := 2 ^ 48 - 1, m1 := 2 ^ 32 - 1, m2 := 0xFFFF, m3 := 0x3F } always
    (fun _ c => decide (bits c.n3 5 4 ≠ 3))
    (fun id c d =>
      let o := swoOf id c
      match d.swoRefusal o with
      | some st =>
        let d := d.count 37 7 1 none 1
        (if st = stLate then d.raise .swo 16 else d).finishSt id st
      | none =>
        let before := fun (x : SwoOp) => decide (d.toGo x.t ≤ d.toGo o.t)
        let d := { d with swo := d.swo.filter before ++ [o] ++ d.swo.filter (fun x => !before x) }
        (d.modAcct 11 (fun a => { a with produced := a.produced + 1 })).mark 11)

/-- SWO_SUBMIT. -/
def execSwoSubmit (d : CmdDesc) (s : State) : Host.Outcome State Fault Refusal := run (swoSubmitEffect d) s

/-- Whether an operation's commit is still to come: one that is due in this cycle counts as made (14 R355, Table SW.3). -/
def Dev.swoOpen (d : Dev) (o : SwoOp) : Bool := !o.committed && decide (d.runs (usClk 5) < d.toGo o.t)

/-- Effect of SWO_CANCEL (14 R355). -/
def swoCancelEffect : CmdDesc → Dev → Dev :=
  command { CmdSpec.plain 0x49 with m2 := 0xFFFF } always always
    (fun id c d =>
      let ops := d.swo.filter (fun o => decide (o.tag = c.n2) && d.swoOpen o)
      if ops = [] then d.finishSt id stNotFound
      else (ops.foldl (fun d o => d.endSwo o stCancelled) d).finishSt id stOk)

/-- SWO_CANCEL. -/
def execSwoCancel (d : CmdDesc) (s : State) : Host.Outcome State Fault Refusal := run (swoCancelEffect d) s

/-! ### Commit, edges, readback -/

/-- The queued operation with a number. -/
def Dev.swoAt (d : Dev) (id : Nat) : Option SwoOp := d.swo.find? (fun o => decide (o.id = id))

/-- Change an operation. -/
def Dev.modSwo (d : Dev) (id : Nat) (f : SwoOp → SwoOp) : Dev :=
  { d with swo := d.swo.map (fun o => if o.id = id then f o else o) }

/-- Effect of SWO_COMMIT: five microseconds before the first edge, and the holdover rule (14 R354, R357). -/
def swoCommitEffect (id : Nat) (d : Dev) : Dev :=
  match d.swoAt id with
  | none => d
  | some o =>
    if d.dev ≠ .run ∨ o.committed ∨ d.runs (usClk 5) < d.toGo o.t then d
    else
      let o := { o with committed := true, hold := d.tb.holdover }
      let d := d.modSwo id (fun _ => o)
      if o.hold && d.flag Reg.swoCfg (16 + o.out) then d.endSwo o stHoldover else d

/-- SWO_COMMIT. -/
def execSwoCommit (id : Nat) (s : State) : Host.Outcome State Fault Refusal := run (swoCommitEffect id) s

/-- Drive an output to a level. -/
def Dev.drive (d : Dev) (out : Nat) (v : Bool) : Dev := { d with swoLvl := setBits d.swoLvl out out (b2n v) }

/-- What an output's ball shows of the level driven: nothing at high impedance, nor where open drain releases the pin (14 R349). -/
def Dev.swoBall (d : Dev) (out : Nat) : Option Bool :=
  let v := bit d.swoLvl out
  if d.swoHiZ || (d.flag Reg.swoCfg out && v) then none else some v

/-- The level that an operation's first edge drives. -/
def Dev.swoLevel (d : Dev) (o : SwoOp) : Bool :=
  if o.act = 0 then true else if o.act = 1 then false else !bit d.swoIdle o.out

/-- The CK_SWO cycle, 2 ns, nearest the instant at which MPT equals a target (14 R352). -/
def Dev.edgeCycle (d : Dev) (t : Nat) : Nat := ((2 * d.clk : Nat) + (4 * d.toGo t + d.tb.freq.toNat) / (2 * (d.tb.freq.toNat : Int))).toNat

/-- Effect of SWO_EDGE: the instant at which MPT equals T is nearer than half a cycle, or has come; the edge leaves in the CK_SWO cycle nearest to
it (14 R352). -/
def swoEdgeEffect (id : Nat) (d : Dev) : Dev :=
  match d.swoAt id with
  | none => d
  | some o =>
    if d.dev ≠ .run ∨ !o.committed ∨ o.mpt1.isSome ∨ d.runs 1 < 2 * d.toGo o.t then d
    else
      let c := d.edgeCycle o.t
      (d.drive o.out (d.swoLevel o)).modSwo id (fun o => { o with mpt1 := some (d.mptAtNs (2 * c : Nat)), at1 := c, checked := false })

/-- SWO_EDGE. -/
def execSwoEdge (id : Nat) (s : State) : Host.Outcome State Fault Refusal := run (swoEdgeEffect id) s

/-- Effect of SWO_PULSE_END: the second edge, `PW` × 2 ns after the first. The operation completes with the readback of this
edge, on which its status depends (14 R350, R352; log 22). -/
def swoPulseEndEffect (id : Nat) (d : Dev) : Dev :=
  match d.swoAt id with
  | none => d
  | some o =>
    if d.dev ≠ .run ∨ o.act ≠ 2 ∨ o.mpt1.isNone ∨ o.mpt2.isSome ∨ 2 * d.clk + 1 < o.at1 + o.pw then d
    else
      let c := o.at1 + o.pw
      (d.drive o.out (bit d.swoIdle o.out)).modSwo id (fun o => { o with mpt2 := some (d.mptAtNs (2 * c : Nat)), at1 := c, checked := false })

/-- SWO_PULSE_END. -/
def execSwoPulseEnd (id : Nat) (s : State) : Host.Outcome State Fault Refusal := run (swoPulseEndEffect id) s

/-- Effect of SWO_READBACK: one microsecond after an edge (14 R350, Table SW.3). -/
def swoReadbackEffect (id : Nat) (pin : Bool) (d : Dev) : Dev :=
  match d.swoAt id with
  | none => d
  | some o =>
    if d.dev ≠ .run ∨ o.mpt1.isNone ∨ o.checked ∨ 2 * d.clk < o.at1 + 2 * usClk 1 then d
    else
      let bad := pin != bit d.swoLvl o.out
      let o := { o with checked := true, pinFault := o.pinFault || bad }
      let d := (if bad then d.raise .swo 17 else d).modSwo id (fun _ => o)
      if o.act = 2 ∧ o.mpt2.isNone then d else d.endSwo o (if o.pinFault then stPinFault else stOk)

/-- SWO_READBACK. -/
def execSwoReadback (id : Nat) (pin : Bool) (s : State) : Host.Outcome State Fault Refusal :=
  run (swoReadbackEffect id pin) s

/-! ### PHASE_CMD (14 R359) -/

/-- Body of PHASE_CMD for a target, at the offset in force (14 Table SW.2). -/
def Dev.phaseBody (d : Dev) (target pcid nout act pw : Nat) : List Byte :=
  let phi := unsigned 48 ((target : Int) - d.msync.ofs)
  leBytes 2 pcid ++ leBytes 2 (phi / 2 ^ 25) ++ leBytes 4 (phi % 2 ^ 25) ++ leBytes 1 nout ++ leBytes 1 act ++ leBytes 2 pw

/-- The message of a PHASE_CMD as a transmission built now carries it: the target is the tag of the message. -/
def Dev.freshBody (d : Dev) (m : Msdu) : Msdu :=
  match m.origin with
  | .own 0x0C target _ =>
    { m with data := mgmtMsg 0x0C (d.phaseBody target (leAt m.data 4 2) (byteAt m.data 12) (byteAt m.data 13) (leAt m.data 14 2)) }
  | _ => m

/-- Effect of PHASE_SEND. -/
def phaseSendEffect : CmdDesc → Dev → Dev :=
  command { CmdSpec.plain 0x4A with m0 := 2 ^ 48 - 1, m1 := 0x3FFFFFF, m2 := 0x3FFF, m3 := 0xFFFF, lim2 := 16384 } always always
    (fun id c d =>
      if !(d.node c.n2).st.reachable then d.finish id stNoNode (leBytes 2 (c.f1 15 0))
      else
        let pw := if c.f1 25 24 = 2 then c.n3 else 0
        d.sendOwn c.n2 0x0C c.mpt (some id) (d.phaseBody c.mpt (c.f1 15 0) (c.f1 23 16) (c.f1 25 24) pw))

/-- PHASE_SEND. -/
def execPhaseSend (d : CmdDesc) (s : State) : Host.Outcome State Fault Refusal := run (phaseSendEffect d) s

end Sys2Proof.Machine
end

