-- ==== Sys2Proof/Machine/Transmit.lean ====
section
/-! DEFINITION. Frames as they are built and sent: their symbols (06 R137-R149, 07 R167-R169, 08 R190-R207, 09 R221, R239), their
form and size (09 R220, R234, R235; 11 R283, R287), the check before the first sample (06 R156, R157). -/

namespace Sys2Proof.Machine

/-! ### Symbols -/

/-- The preamble: the body of the short symbols and the sync-word symbol (07 R167-R169). -/
def preambleSymbols (p : Nat) (es : List (BitVec 32)) (sync : Nat) : List (List Carrier) :=
  [shortSymbol p es, syncSymbol p es (syncWord sync)]

/-- A padded stream laid into units and interleaved, `n` units to a span; the pad generator's state after it (08 R199-R201). -/
def unitsFrom (n : Nat) (caps : List Nat) (coded : List Bool) : List (List Bool) × Nat :=
  let pad := padFrom (caps.foldl (· + ·) 0 - coded.length) 0x7FFFFF
  (interleave n caps.length caps (coded ++ pad.1), pad.2)

/-- The frame-control symbols (08 R202). -/
def fcTxSymbols (p : Nat) (es : List (BitVec 32)) (fc : BitVec 128) : List (List Carrier) :=
  let ms := List.range (fcSymbols p es)
  let d := droneOf 1
  let u := unitsFrom 1 (ms.map (fun m => droneCap d [openData p es m]))
    (codeword 0 ((List.range 128).map (fun i => bit fc.toNat i)))
  let bs := placeUnits d u.1 (ms.map (fun m => d.bits * openData p es m)) u.2
  (ms.zip bs).map (fun x => dataSymbol p es (fun _ => d.bits) x.1 x.2)

/-- The coded bits of blocks in their order (08 R199). -/
def codedPbs (rate : Nat) (pbs : List (List Byte)) : List Bool := pbs.flatMap (fun b => codeword rate (codeBits b))

/-- Units to a span at an `ILV` code, where a unit has `t` symbols (08 R201). -/
def spanUnits (ilv t : Nat) : Nat := if ilv = 0 then 1 else ilvSpan ilv / t

/-- The payload symbols of a Drone frame. -/
def droneSymbols (p : Nat) (es : List (BitVec 32)) (code ilv nsym : Nat) (pbs : List (List Byte)) : List (List Carrier) :=
  let d := droneOf code
  let m0 := fcSymbols p es
  let u := unitsFrom (spanUnits ilv d.time) ((List.range (nsym / d.time)).map (fun i => dronePayloadCap p es d m0 (i * d.time)))
    (codedPbs 0 pbs)
  let ms := (List.range nsym).map (fun i => m0 + i)
  let bs := placeUnits d u.1 (ms.map (fun m => d.bits * openData p es m)) u.2
  (ms.zip bs).map (fun x => dataSymbol p es (fun _ => d.bits) x.1 x.2)

/-- The payload symbols of a one-tap fallback frame, a training symbol before every eighth (09 R239). -/
def fallbackSymbols (p : Nat) (es : List (BitVec 32)) (ilv nsym : Nat) (pbs : List (List Byte)) : List (List Carrier) :=
  let m0 := fcSymbols p es
  let u := unitsFrom (spanUnits ilv 1) ((List.range nsym).map (fun i => 2 * openData p es (m0 + i))) (codedPbs 0 pbs)
  ((List.range nsym).zip u.1).flatMap (fun x =>
    (if x.1 % 8 = 0 then [trainSymbol p es 0x7FFB] else []) ++ [dataSymbol p es (fun _ => 2) (m0 + x.1) x.2])

/-- Numbered symbol `m` of stream 1: pilots and filler are those of stream 0 times (-1)^m (06 R148). -/
def stream1Symbol (p : Nat) (es : List (BitVec 32)) (load : Nat → Nat) (m : Nat) (bs : List Bool) : List Carrier :=
  mapSymbol es load (isPilot m)
    ((usable p).zip ((carBits (profCarriers p) (symSeed m)).map (fun c => c != decide (m % 2 = 1)))) bs

/-- The payload symbols of a tone-map frame on both streams, stream 1 empty without MIMO; `ent i` is the entry of payload symbol
`i` (08 R198, 09 R219, R220). -/
def mapSymbols (p : Nat) (es : List (BitVec 32)) (ent : Nat → Option Entry) (mimo : Bool) (rate ilv nsym : Nat)
    (pbs : List (List Byte)) : List (List Carrier) × List (List Carrier) :=
  let m0 := fcSymbols p es
  let load := fun (i k : Nat) => match ent i with | some e => e.at k | none => 0
  let caps := (List.range nsym).map (fun i => match ent i with | some e => mapCap p es e mimo (m0 + i) | none => 0)
  let u := ((List.range nsym).zip (unitsFrom (spanUnits ilv 1) caps (codedPbs rate pbs)).1)
  let half := fun (b : List Bool) => if mimo then b.length / 2 else b.length
  (u.map (fun x => dataSymbol p es (load x.1) (m0 + x.1) (x.2.take (half x.2))),
   if mimo then u.map (fun x => stream1Symbol p es (load x.1) (m0 + x.1) (x.2.drop (half x.2))) else [])

/-- The symbols of a sounding frame's payload: pilots and filler (09 R221). -/
def soundSymbols (p : Nat) (es : List (BitVec 32)) (mimo : Bool) (nsym : Nat) : List (List Carrier) × List (List Carrier) :=
  let m0 := fcSymbols p es
  ((List.range nsym).map (fun i => dataSymbol p es (fun _ => 0) (m0 + i) []),
   if mimo then (List.range nsym).map (fun i => stream1Symbol p es (fun _ => 0) (m0 + i) []) else [])

/-- A whole frame on both streams: preamble, frame control, in MIMO T0 and T1, payload (06 R148, R149). -/
def wholeFrame (p : Nat) (es : List (BitVec 32)) (sync : Nat) (fc : BitVec 128) (mimo : Bool)
    (payload : List (List Carrier) × List (List Carrier)) : List (List Carrier) × List (List Carrier) :=
  let head := preambleSymbols p es sync ++ fcTxSymbols p es fc
  if mimo then
    (head ++ [trainSymbol p es 0x7FFF, []] ++ payload.1, head.map (fun _ => []) ++ [[], trainSymbol p es 0x7FFE] ++ payload.2)
  else (head ++ payload.1, [])

/-! ### The check before the first sample (06 R156, R157) -/

/-- The length of the run that a frame of `f` samples would begin, or end, on a band if it started now. -/
def Dev.runLength (d : Dev) (g b f : Nat) (o : Occ) : Nat :=
  if o.continues (d.gapMin g b) d.tb.n then
    match o.runStart with | some r => d.tb.n + f - r | none => f
  else f

/-- Whether occupancy, and whether dwell, keeps a frame of `f` samples off a port. -/
def Dev.occFails (d : Dev) (p f : Nat) : Bool × Bool :=
  let g := portGroup p
  let bands := (d.port p).occ.filter (fun e => d.bandOpen g e.1)
  (bands.any (fun e => decide (e.2.level < f * 1024)),
   bands.any (fun e => decide (d.fld (Reg.occLim g e.1) 31 16 ≠ 0 ∧ d.fld (Reg.occLim g e.1) 31 16 * 1250 < d.runLength g e.1 f e.2)))

/-- Judge a frame of `f` samples on the ports it would be sent on: whether it may be sent, each failure shown and counted on its
port. -/
def Dev.gateFrame (d : Dev) (outs : List Nat) (f : Nat) : Bool × Dev :=
  let bad := outs.filter (fun p => (d.occFails p f).1 || (d.occFails p f).2)
  (bad.isEmpty, bad.foldl (fun x p =>
    let s : Src := .wf (portGroup p) (p % 4)
    let x := if (d.occFails p f).1 then x.raise s 30 else x
    if (d.occFails p f).2 then x.raise s 29 else x) d)

/-- A frame that failed the check is gated off for its whole span (06 R157). -/
def Dev.holdOff (d : Dev) (l f : Nat) : Dev := d.modEnc l (fun x => { x with nextAt := d.tb.n + f })

/-- The signal of a lane that a port takes: in MIMO L1 takes stream 0, L2 stream 1, L3 minus their sum (03 Table LP.4); else stream 0. -/
def Dev.outSignal (d : Dev) (f : TxFrame) (p : Nat) : Nat := if f.mimo then d.role p else 0

/-- A frame's first sample leaves: the lane sends it to the driven ports, whose cancellers that were CONVERGED start tracking. -/
def Dev.startFrame (d : Dev) (l : Nat) (f : TxFrame) : Dev :=
  let outs := (d.enc l).outs
  let d := d.modEnc l (fun x => { x with frame := some f })
  let d := outs.foldl (fun d p => d.modPort p (fun x => { x with
    fed := (({ frame := f, out := d.outSignal f p, stop := f.stop } : Feed) :: x.fed).take 2 })) d
  outs.foldl (fun d p => if (d.port p).enabled then d.trackStart p else d) d

/-- A frame that a command has started on a lane takes what is known of its words; a parity error of the lane's working memory is a fault
of class LANE_MEM (18 R431, 21 R482). -/
def Dev.withWrites (d before : Dev) (l : Nat) (w : LaneWrites) (parity : Bool) : Dev :=
  match (d.enc l).frame with
  | none => d
  | some f =>
    if (before.enc l).frame.map TxFrame.start = some f.start then d
    else
      let g := { f with late := w.late, badS := w.badS }
      let d := if parity then d.faultEvent 0x04 (96 + l) f.grp 0 else d
      let d := d.modEnc l (fun x => { x with frame := some g })
      (d.enc l).outs.foldl (fun d p => d.modPort p (fun x => { x with
        fed := x.fed.map (fun y => if y.frame.start = f.start then { y with frame := g } else y) })) d

/-- Whether an encode lane is free to start a frame. -/
def EncLane.idle (x : EncLane) (n : Nat) : Bool :=
  decide (x.nextAt ≤ n) && (match x.frame with | some f => decide (f.stop ≤ n) | none => true)

/-- Whether `samples` converter samples, counted from sample `at_` on, end at or before the start of slot unit `u` of this beacon
period, at the frequency in force. -/
def Dev.endsBy (d : Dev) (u at_ samples : Nat) : Bool :=
  let gone := d.bpPhase * 2 ^ 24 + d.tb.acc.toNat % 2 ^ 24
  decide (d.tb.n ≤ at_ ∧ gone * 5 + (at_ - d.tb.n + samples) * d.tb.freq.toNat ≤ d.unitStart u * 2 ^ 24 * 5)

/-- The samples from now to the start of slot unit `u` of this beacon period, at the frequency in force. -/
def Dev.samplesTo (d : Dev) (u : Nat) : Nat :=
  (d.unitStart u * 2 ^ 24 - (d.bpPhase * 2 ^ 24 + d.tb.acc.toNat % 2 ^ 24)) * 5 / d.tb.freq.toNat

/-! ### Form and size (09 R219, R220, R234; 11 R287) -/

/-- The pinned entry of a set's segment for an allocation of beacon period `bp`. -/
def Dev.pinOf (d : Dev) (bp start set seg : Nat) : Option Pin :=
  d.pins.find? (fun p => decide (p.bp = bp ∧ p.unit = start ∧ p.set = set ∧ p.entry.seg = seg))

/-- What the payload of a tone-map frame meets as it is laid out: it fits, or it covers a STALE key, a missing one, or takes more
than 4,095 symbols. -/
inductive Walk where
  | fits (nsym rate : Nat)
  | stale
  | missing
  | long
  deriving DecidableEq, Repr

/-- Lay out `n` blocks symbol by symbol (09 R220). The symbols of a segment whose key is missing hold nothing: from the first of them on
(`miss`) the frame goes on, over the symbols that lie in the allocation, as far as it takes to see whether it covers a STALE key (09 R242;
log 23). -/
def walkMap (p : Nat) (es : List (BitVec 32)) (seg : Nat → Nat) (ent : Nat → Option Entry) (stale : List Nat) (mimo : Bool) (n : Nat)
    (lies : Nat → Bool) :
    Nat → Nat → Nat → Nat → Bool → Walk
  | 0, i, rate, got, miss => if miss then .missing else if 0 < i ∧ pbCoded rate * n ≤ got then .fits i rate else .long
  | fuel + 1, i, rate, got, miss =>
    if 0 < i ∧ pbCoded rate * n ≤ got then (if miss then .missing else .fits i rate)
    else if miss && !lies i then .missing
    else if stale.contains (seg i) then .stale
    else match ent (seg i) with
      | none => walkMap p es seg ent stale mimo n lies fuel (i + 1) rate got true
      | some e =>
        walkMap p es seg ent stale mimo n lies fuel (i + 1) (if i = 0 then e.rate else min rate e.rate)
          (got + mapCap p es e mimo (fcSymbols p es + i)) miss

/-- How a frame is sent: `MAP`, MIMO, symbols, rate, length in samples, and whether a copy was missing. -/
structure TxForm where
  map  : Nat
  mimo : Bool
  nsym : Nat
  rate : Nat
  len  : Nat
  miss : Bool
  deriving DecidableEq, Repr

/-- The code of Table GC.5 for a `MAP` code (10 R253). -/
def formCode (map : Nat) : Nat := if 8 ≤ map then 0 else if map = 4 then 1 else 4 + map

/-- A frame of `n` blocks in a Drone mode. -/
def Dev.droneForm (d : Dev) (g code n : Nat) (miss : Bool) : TxForm :=
  { map := code, mimo := false, nsym := droneNsym (d.profile g) (d.maskOf g) code n, rate := 0
    len := d.droneLen g (d.ulGi g) code n, miss := miss }

/-- The Drone mode of an allocation: the one its entry names, else the group's (09 R234). -/
def Dev.droneNamed (d : Dev) (g form : Nat) : Nat := if 4 ≤ form ∧ form ≤ 7 then form - 4 else d.droneDef g

/-- Whether a lane's binding is MIMO (03 Table LP.4). -/
def Dev.mimoBound (d : Dev) (l : Nat) : Bool := decide ((d.enc l).bound.map (fun e => e.cpl) = some 2)

/-- The form of a frame of `n` blocks to neighbour `hop` that would start at sample `at_` in a lane's allocation, by the rules of
R234 in their order. A map without a loaded carrier can carry nothing: such a frame goes in the group's Drone mode (log 23). -/
def Dev.formFor (d : Dev) (l hop at_ n : Nat) (mgmt : Bool) : TxForm :=
  let x := d.enc l
  let g := x.grp
  let e := x.bound
  let form := (e.map (fun e => e.form)).getD 0
  let start := (e.map (fun e => e.start)).getD 0
  let mimo := d.mimoBound l
  let p := d.profile g
  let es := d.maskOf g
  let gi := d.ulGi g
  if mgmt ∨ 4 ≤ form then d.droneForm g (d.droneNamed g form) n false
  else
    let set := setIx hop false
    let first := at_ + preambleLen + (fcSymbols p es + (if mimo then 2 else 0)) * symPeriod gi
    let seg := fun (i : Nat) => d.segOfSample (first + i * symPeriod gi)
    let bp := d.msync.bpi
    let ent := fun (s : Nat) => (d.pinOf bp start set s).map (fun k => k.entry)
    let lies := fun (i : Nat) => d.endsBy (start + (e.map (fun e => e.len)).getD 0) first ((i + 1) * symPeriod gi)
    match walkMap p es seg ent x.stale mimo n lies 4095 0 0 0 false with
    | .fits nsym rate =>
      let ver := ((d.pinOf bp start set (seg 0)).map (fun k => k.ver)).getD 0
      { map := 8 + ver, mimo := mimo, nsym := nsym, rate := rate, len := frameLen p es gi (d.twCode g) 8 mimo nsym, miss := false }
    | .stale =>
      if d.flag (Reg.marGdef g) 8 then
        let nsym := fallbackNsym p es n
        { map := 4, mimo := false, nsym := nsym, rate := 0, len := frameLen p es gi (d.twCode g) 4 false nsym, miss := false }
      else d.droneForm g (d.droneDef g) n false
    | .missing => d.droneForm g (d.droneDef g) n true
    | .long => if n = 1 then d.droneForm g (d.droneDef g) n false else { d.droneForm g (d.droneDef g) n false with nsym := 4096 }

/-- Samples from a frame's end to the end of its ACK span: 64 us, the ACK, 8 us (11 Table LR.4). -/
def Dev.ackSpan (d : Dev) (g gi : Nat) : Nat := usSamples 72 + d.ackLen g gi

/-- As many of `n` blocks as fit, from sample `at_` to the allocation's end: how many, and their form (11 R287). -/
def Dev.fitBlocks (d : Dev) (l hop at_ : Nat) (mgmt ackReq : Bool) : Nat → Option (Nat × TxForm)
  | 0 => none
  | n + 1 =>
    let x := d.enc l
    let f := d.formFor l hop at_ (n + 1) mgmt
    let stop := (x.bound.map (fun e => e.start + e.len)).getD 0
    if f.nsym ≤ 4095 && d.endsBy stop at_ (f.len + (if ackReq then d.ackSpan x.grp (d.ulGi x.grp) else 0)) then some (n + 1, f)
    else d.fitBlocks l hop at_ mgmt ackReq n

/-! ### Which MSDU (10 R256, 11 R287, 12 R316) -/

/-- The smaller of two MSDUs in sending order: MGMT first, then as they came. -/
def msduFirst (a b : Msdu) : Msdu :=
  if a.mgmt = b.mgmt then (if b.id < a.id then b else a) else if a.mgmt then a else b

/-- The first in sending order. -/
def firstMsdu (ms : List Msdu) : Option Msdu :=
  ms.foldl (fun (a : Option Msdu) m => match a with | none => some m | some b => some (msduFirst b m)) none

/-- The MSDU unacknowledged towards a neighbour. -/
def Dev.unackedTo (d : Dev) (hop : Nat) : Option Msdu := (d.servedBy hop).findSome? (fun nh => (d.node nh).cur)

/-- The MSDU that a lane's allocation sends next to a neighbour: the unacknowledged one, once judged, before any other; in a
release part then the held ones in their order (those of a node that its POLL has woken stand in its queue, 12 Table DN.6), else
those that the slot's start found. -/
def Dev.nextMsdu (d : Dev) (l hop : Nat) (release : Bool) : Option Msdu :=
  match d.unackedTo hop with
  | some m => if m.spanEnd.isSome then none else some m
  | none =>
    if release then
      if (d.node hop).st = .dormant then (d.node hop).heldq.head? else (d.node hop).txq.find? (fun m => (d.enc l).fill.contains m.id)
    else firstMsdu (((d.servedBy hop).flatMap (fun nh => (d.node nh).txq)).filter (fun m => (d.enc l).fill.contains m.id))

/-- Whether a lane's allocation is a poll window of this beacon period with its POLL accepted and acknowledged, and a frame may leave now: within
100 us after the end of that ACK, or of the ACK span of the frame before (12 R316). -/
def Dev.releaseOpen (d : Dev) (l : Nat) (e : EncEntry) (hop : Nat) : Bool :=
  decide (e.kind = kindPoll ∧ (d.node hop).pollBp = some d.msync.bpi) &&
    (match (d.enc l).frame with
     | none => false
     | some f => (d.servedBy hop).contains f.nh &&
         decide (d.tb.n ≤ f.stop + (if fcFt f.fc = ftAck then 0 else d.ackSpan f.grp (d.ulGi f.grp)) + usSamples 100))

/-! ### The first transmission (11 R277-R279, R293, R294; 12 R306; 14 R359) -/

/-- The body of an MSDU under a frame counter and a key slot (11 Table LR.1, R293). -/
def Dev.sealBody (d : Dev) (m : Msdu) (fc kid : Nat) (key : List Byte) : List Byte :=
  let sec := secHeader fc kid
  let iv := gcmIv fc false kid
  let cipher := gcmCrypt key iv m.data
  frameBody m.data.length m.ftag sec cipher
    (gcmTag key iv (gcmAad m.data.length m.ftag sec 0 (d.node m.nh).saddr) cipher)

/-- The key slot that a node's MSDUs are protected under, where one is valid and the transmit counter has not run out. -/
def Dev.txSlot (d : Dev) (nh : Nat) : Option (List Byte) :=
  let n := d.node nh
  if n.txFc = 2 ^ 48 - 1 then none else n.keyOf (b2n n.txKey)

/-- The message of DORM_GRANT with its first poll, chosen as it is first sent; the node's reckoning starts there. -/
def Dev.firstPoll (d : Dev) (m : Msdu) : Msdu × Dev :=
  match m.origin with
  | .own 0x0A 0 _ =>
    let p := leAt m.data 4 2
    let c := d.chooseFirst p
    ({ m with data := mgmtMsg 0x0A (grantBody p c.1 (leAt m.data 8 2) 0) },
     c.2.modNode m.nh (fun n => { n with dorm := n.dorm.map (fun x => { x with next := c.1, k := 0 }) }))
  | _ => (m, d)

/-- A MAP_UPDATE takes `EFF_BP` as it is first sent: the first part fixes it for all parts of the update (09 R231); entries in force take the
beacon period in which they are first sent (09 R236). -/
def Dev.dateUpdate (d : Dev) (m : Msdu) : Msdu × Dev :=
  let dated := fun (bp : Nat) => { m with data := setAt (setAt m.data 6 (BitVec.ofNat 8 bp)) 7 (BitVec.ofNat 8 (bp / 256)) }
  match m.origin with
  | .own 0x06 tag _ =>
    if tag % 2 = 1 then (if (updateTag tag).2 = 1 then dated d.msync.bpi else m, d)
    else if d.updateCurrent tag then
      let d := d.fixBoundary (updateTag tag).1
      (dated (d.mapSet (updateTag tag).1).effBp, d)
    else (m, d)
  | _ => (m, d)

/-- Cells for a message of the device's own, from the device reserve (17 R414, R416). -/
def Dev.cellsFor (d : Dev) (m : Msdu) : Option (Msdu × Dev) :=
  if m.isOwn && m.blocks.isEmpty then
    (d.takeReserve m.n).map (fun d => ({ m with blocks := (List.range m.n).map (fun i => ({ idx := i, pool := .rsv } : Block)) }, d))
  else some (m, d)

/-- An MSDU takes what its first transmission fixes: its body, the neighbour's next `SEQ`, its `PBSN`s (a broadcast takes none). -/
def Dev.firstTx (d : Dev) (m : Msdu) (hop : Nat) : Msdu × Dev :=
  let a := d.firstPoll m
  let b := a.2.dateUpdate a.1
  let r := b.2
  let m := r.freshBody b.1
  let n := r.node m.nh
  let body := match (if m.prot then r.txSlot m.nh else none) with
    | some key => r.sealBody m n.txFc (b2n n.txKey) key
    | none => frameBody m.data.length m.ftag [] m.data []
  let r := if m.prot then r.modNode m.nh (fun n => { n with txFc := n.txFc + 1 }) else r
  if m.bcast then ({ m with body := body, sentOnce := true }, r)
  else
    let h := r.node hop
    let r := r.modNode hop (fun x => { x with txSeq := (x.txSeq + 1) % 4096, txPbsn := (x.txPbsn + m.n) % 1024 })
    ({ m with body := body, seq := h.txSeq, base := (h.txPbsn + 1) % 1024, sentOnce := true, life := 0, lifeBp := r.msync.bpi },
     r.modGroup m.grp (fun g => { g with seqGiven := g.seqGiven + 1 }))

/-- A retransmission resends the stored body; a PHASE_CMD is converted afresh, under the frame counter it has (14 R359, 11 R294),
unless its key is gone (11 Table LR.8). -/
def Dev.againTx (d : Dev) (m : Msdu) : Msdu :=
  match m.origin with
  | .own 0x0C _ _ =>
    let f := d.freshBody m
    if m.prot then
      let kid := byteAt m.body 10
      match (d.node m.nh).keyOf kid with
      | some key => { f with body := d.sealBody f (leAt m.body 4 6) kid key }
      | none => m
    else { f with body := frameBody f.data.length f.ftag [] f.data [] }
  | _ => m

/-- A block with its CRC-24 complemented, so that no receiver accepts it (18 Table IN.2). -/
def spoilPb (pb : List Byte) : List Byte := pb.take 516 ++ ((pb.drop 516).take 3).map (fun b => ~~~b) ++ pb.drop 519

/-- A block as it goes on the line: one whose cell is faulty carries a complemented CRC-24 (18 Table IN.2). -/
def Msdu.linePb (m : Msdu) (idx : Nat) : List Byte :=
  let pb := mkPb m.body idx (m.n - 1) (if m.bcast then idx else (m.base + idx) % 1024)
  if m.faulty.any (fun x => decide (x.1 = idx)) then spoilPb pb else pb

/-- What the reads for a frame of blocks `idxs` find joins the MSDU's faulty cells. -/
def Msdu.reading (m : Msdu) (idxs : List Nat) (x : MemFaults) : Msdu :=
  { m with faulty := m.faulty ++ x.cells.filterMap (fun c => (idxs[c.1]?).map (fun i => (i, c.2))) }

/-- The blocks of a frame that a parity error of the lane's working memory touches: sent as those of a faulty cell are (18 Table IN.3). -/
def touchedBlocks (x : MemFaults) (idxs : List Nat) : List Nat := (x.lane.getD []).filterMap (fun p => idxs[p]?)

/-- An MSDU as it is sent under such an error. -/
def Msdu.touched (m : Msdu) (bad : List Nat) : Msdu := { m with faulty := m.faulty ++ bad.map (fun i => (i, 0)) }

/-- The cell fault that a transmission of some blocks meets, if any. -/
def Msdu.faultAmong (m : Msdu) (idxs : List Nat) : Option Nat :=
  (m.faulty.find? (fun x => idxs.contains x.1)).map (fun x => x.2)

/-! ### FRAME_TX_START (06 R156) -/

/-- The payload symbols of a DATA or MGMT frame under its form. -/
def Dev.payloadOf (d : Dev) (l hop : Nat) (f : TxForm) (ilv : Nat) (pbs : List (List Byte)) :
    List (List Carrier) × List (List Carrier) :=
  let x := d.enc l
  let p := d.profile x.grp
  let es := d.maskOf x.grp
  if 8 ≤ f.map then
    let start := (x.bound.map (fun e => e.start)).getD 0
    let period := symPeriod (d.ulGi x.grp)
    let first := d.tb.n + preambleLen + (fcSymbols p es + (if f.mimo then 2 else 0)) * period
    mapSymbols p es (fun i => (d.pinOf d.msync.bpi start (setIx hop false) (d.segOfSample (first + i * period))).map (fun k => k.entry))
      f.mimo f.rate ilv f.nsym pbs
  else if f.map = 4 then (fallbackSymbols p es ilv f.nsym pbs, [])
  else (droneSymbols p es f.map ilv f.nsym pbs, [])

/-- The frame that carries blocks of an MSDU (11 R282, R287, R295; 08 R206). -/
def Dev.dataFrame (d : Dev) (l hop : Nat) (m : Msdu) (f : TxForm) (idxs : List Nat) : TxFrame :=
  let g := m.grp
  let dst := if m.bcast then 1023 else (d.node hop).saddr
  let ilv := if 2 ≤ idxs.length then d.fld (Reg.ccCtrl g) 18 16 else 0
  let fc := fcDataFrame (if m.mgmt then ftMgmt else ftData) (d.ulGi g) f.mimo dst 0 f.nsym f.map
    (if m.bcast then 1023 else (d.node m.nh).saddr) 0 0 (!m.bcast) m.prot ilv m.seq idxs.length
  let s := wholeFrame (d.profile g) (d.maskOf g) (d.fld (Reg.ffCtrl g) 21 16) fc f.mimo
    (d.payloadOf l hop f ilv (idxs.map m.linePb))
  { fc := fc, grp := g, nh := m.nh, msdu := m.id, form := formCode f.map, rate := f.rate, symbols := s.1, stream1 := s.2
    tw := d.twCode g, fcs := fcSymbols (d.profile g) (d.maskOf g), mimo := d.mimoBound l, late := [], badS := [], start := d.tb.n
    stop := d.tb.n + f.len }

/-- The records of a tagged frame as it starts: the form, stamped with the slot's start, and the start (20 Table CT.5). -/
def Dev.traceTx (d : Dev) (l : Nat) (m : Msdu) (f : TxForm) (n : Nat) : Dev :=
  let i : TraceInfo := { TraceInfo.of m.nh m.grp with lane := 96 + l, seq := m.seq, pbn := n, form := formCode f.map, try_ := m.tries }
  (d.trace m.clid 0x11 stOk (d.enc l).slotMpt i).trace m.clid 0x12 stOk d.mpt i

/-- Send some blocks of a unicast MSDU that is the neighbour's unacknowledged one. -/
def Dev.sendUnicast (d : Dev) (l hop : Nat) (m : Msdu) (k : Nat) (f : TxForm) (x : MemFaults) : Dev :=
  let idxs := (m.blocks.take k).map (fun b => b.idx)
  let bad := touchedBlocks x idxs
  let gate := d.gateFrame (d.enc l).outs f.len
  if !gate.1 then gate.2.holdOff l f.len
  else
    let d := if f.miss then gate.2.raise .mar 1 else gate.2
    let again := m.sentOnce
    let m := m.reading idxs x
    let r := if again then (d.againTx m, d) else d.firstTx m hop
    let d := r.2
    let fault := r.1.faultAmong idxs
    let span := d.tb.n + f.len + d.ackSpan m.grp (d.ulGi m.grp)
    let m := { r.1 with tries := r.1.tries + 1, sent := idxs, spanEnd := some span,
                        ending := if fault.isSome ∨ bad ≠ [] then some stNoAck else r.1.ending }
    let frame := d.dataFrame l hop (m.touched bad) f idxs
    let d := match fault with | some c => (d.count 39 7 2 none 1).faultEvent 0x01 c m.grp 0 | none => d
    let d := if again then d.nodeCount hop 5 1 else d
    let d := d.modNode m.nh (fun n => { n with
      cur := some m, txq := n.txq.filter (fun x => decide (x.id ≠ m.id)), heldq := n.heldq.filter (fun x => decide (x.id ≠ m.id)) })
    let d := (d.startFrame l frame).modEnc l (fun x => { x with nextAt := span + usSamples 16 })
    (d.traceTx l m f idxs.length).markGroup m.grp

/-- An MSDU that cannot be protected leaves with ST_AUTH (11 R293, R294). -/
def Dev.endAuth (d : Dev) (m : Msdu) : Dev :=
  (d.modNode m.nh (fun n => { n with txq := n.txq.filter (fun x => decide (x.id ≠ m.id)),
                                     heldq := n.heldq.filter (fun x => decide (x.id ≠ m.id)) })).finishMsdu m stAuth

/-- The next frame to a neighbour starts on a lane: an MSDU that waits for cells of the reserve, or whose blocks no longer fit the
allocation, stays where it is. -/
def Dev.txUnicast (d : Dev) (l hop : Nat) (release : Bool) (x : MemFaults) : Dev :=
  match d.nextMsdu l hop release with
  | none => d
  | some m =>
    let d := if x.key ∧ m.prot ∧ !m.sentOnce then d.loseKey m.nh (b2n (d.node m.nh).txKey) else d
    if !m.sentOnce ∧ m.prot ∧ (d.txSlot m.nh).isNone then d.endAuth m
    else match d.cellsFor m with
      | none => d
      | some (m', d') =>
        match d'.fitBlocks l hop d'.tb.n m.mgmt true m'.blocks.length with
        | none => d
        | some (k, f) => if !(d'.gateFrame (d'.enc l).outs f.len).1 then d.sendUnicast l hop m k f x
          else d'.sendUnicast l hop m' k f x

/-- The next frame of a group's broadcast queue. It is not acknowledged: the MSDU ends with the transmission that carries the last
of its blocks (15 R380). -/
def Dev.txBroadcast (d : Dev) (l : Nat) (x : MemFaults) : Dev :=
  let g := (d.enc l).grp
  match firstMsdu ((d.group g).bq.filter (fun m => (d.enc l).fill.contains m.id)) with
  | none => d
  | some m =>
    match d.cellsFor m with
    | none => d
    | some (m, d') =>
      let todo := (m.blocks.map (fun b => b.idx)).filter (fun i => !m.sent.contains i)
      match d'.fitBlocks l 0 d'.tb.n true false todo.length with
      | none => d
      | some (k, f) =>
        let gate := d.gateFrame (d.enc l).outs f.len
        if !gate.1 then gate.2.holdOff l f.len
        else
          let d := d'
          let idxs := todo.take k
          let bad := touchedBlocks x idxs
          let m := m.reading idxs x
          let r := if m.sentOnce then (m, d) else d.firstTx m 0
          let m := { r.1 with tries := r.1.tries + 1, sent := r.1.sent ++ idxs }
          let frame := r.2.dataFrame l 0 (m.touched bad) f idxs
          let fault := m.faultAmong idxs
          let d := match fault with | some c => (r.2.count 39 7 2 none 1).faultEvent 0x01 c g 0 | none => r.2
          let d := (d.startFrame l frame).modEnc l (fun x => { x with nextAt := frame.stop + usSamples 16 })
          let d := d.traceTx l m f idxs.length
          let others := (d.group g).bq.filter (fun x => decide (x.id ≠ m.id))
          let spoilt := fault.isSome || decide (bad ≠ [])
          if spoilt ∨ k = todo.length then
            (d.modGroup g (fun x => { x with bq := others })).finishMsdu m (if spoilt then stNoAck else stOk)
          else d.modGroup g (fun x => { x with bq := x.bq.map (fun y => if y.id = m.id then m else y) })

/-- The SND_ID of a session's frames: chosen freely with its first frame, and kept with the beacon period as the node's latest
downlink session (09 Table TM.1, R224; log 3). -/
def Dev.soundId (d : Dev) (s : Sess) : Nat × Dev :=
  if s.frames = 0 then
    let f := d.free
    let id := f.1.toNat % 256
    (id, { f.2 with sndId := SMap.set (fun _ => 0) s.nh ((f.2.msync.bpi + 1) * 256 + id) f.2.sndId })
  else (SMap.get (fun _ => 0) s.nh d.sndId % 256, d)

/-- A sounding frame of a downlink session that is placed for this beacon period: allocation number `seq` of the session holds frame number
`seq`, which fills it (09 R221, R222; log 13). -/
def Dev.txSound (d : Dev) (l : Nat) (e : EncEntry) (nh seq last nsym : Nat) : Dev :=
  let g := (d.enc l).grp
  match d.openOf nh false with
  | none => d
  | some s =>
    let mimo := decide (e.cpl = 2)
    let len := frameLen (d.profile g) (d.maskOf g) (d.ulGi g) (d.twCode g) 0 mimo nsym
    let mine := soundAllocs (d.planFor g d.msync.bpi) (d.node nh).saddr false
    if s.endBp ≠ some d.msync.bpi ∨ e.addr ≠ (d.node nh).saddr ∨ seq < s.frames ∨ last + 1 ≠ mine.length ∨
        (mine[seq]?).map (fun a => (a.start, a.len)) ≠ some (e.start, e.len) ∨ nsym = 0 ∨
        nsym ≠ d.soundRoom g mimo (d.samplesTo (e.start + e.len)) then d
    else
      let gate := d.gateFrame (d.enc l).outs len
      if !gate.1 then gate.2.holdOff l len
      else
        let i := gate.2.soundId s
        let d := i.2.modSess s.id (fun s => { s with frames := seq + 1, lastFr := last })
        let fc := fcSound (d.ulGi g) mimo (d.node nh).saddr 0 nsym s.segs i.1 seq last true
        let sy := wholeFrame (d.profile g) (d.maskOf g) (d.fld (Reg.ffCtrl g) 21 16) fc mimo
          (soundSymbols (d.profile g) (d.maskOf g) mimo nsym)
        let frame : TxFrame := { fc := fc, grp := g, nh := nh, msdu := 0, form := 4, rate := 0, symbols := sy.1, stream1 := sy.2
                                 tw := d.twCode g, fcs := fcSymbols (d.profile g) (d.maskOf g), mimo := mimo, late := [], badS := []
                                 start := d.tb.n, stop := d.tb.n + len }
        (d.startFrame l frame).modEnc l (fun x => { x with nextAt := frame.stop + usSamples 16 })

/-- Effect of FRAME_TX_START: a lane that is bound and free starts what is asked for, where its allocation is of that kind. -/
def frameTxStartEffect (l : Nat) (what : TxWhat) (f : MemFaults) (d : Dev) : Dev :=
  let x := d.enc l
  match x.bound with
  | none => d
  | some e =>
    if d.dev ≠ .run ∨ !x.idle d.tb.n then d
    else match what with
      | .node =>
        (match d.entryNode x.grp e.addr with
         | none => d
         | some hop =>
           if e.kind = kindData ∧ !e.dir ∧ (d.node hop).st ≠ .dormant then d.txUnicast l hop false f
           else if d.releaseOpen l e hop then d.txUnicast l hop true f
           else d)
      | .broadcast => if e.kind = kindData ∧ !e.dir ∧ e.addr = addrAll then d.txBroadcast l f else d
      | .sound nh seq last nsym => if e.kind = kindSounding ∧ !e.dir then d.txSound l e nh seq last nsym else d

/-- FRAME_TX_START. -/
def execFrameTxStart (lane : Fin 96) (what : TxWhat) (w : LaneWrites) (x : MemFaults) (s : State) :
    Host.Outcome State Fault Refusal :=
  run (fun d => (frameTxStartEffect lane.val what x d).withWrites d lane.val w x.lane.isSome) s

end Sys2Proof.Machine
end

