-- ==== Sys2Proof/Machine/Answers.lean ====
section
/-! DEFINITION. Beacons, acknowledgements in both directions, and the life of an unacknowledged MSDU (10 R249-R253, 11 R282-R288,
12 R317). -/

namespace Sys2Proof.Machine

/-! ### BEACON_TX (10 R249) -/

/-- Whether an uplink key is STALE at a slot's start, as far as is known: a commit scheduled up to then clears the mark. -/
def Dev.staleAt (d : Dev) (i seg bp u : Nat) : Bool :=
  let k := d.key (i * 16 + seg)
  k.stale && !(k.built && commitsBy (d.mapSet i) (d.segStart (d.mapSet i).effSeg) bp u)

/-- Whether an uplink key lacks a copy at a slot's start, as far as is known: there is none, or the request for it has been made and it is
not pinned. -/
def Dev.missingAt (d : Dev) (i seg bp u : Nat) : Bool :=
  (d.copyAt i seg bp u).1.isNone || (d.wasAsked bp u && (d.pinOf bp u i seg).isNone)

/-- `FORM` of an uplink allocation of beacon period `n` as the beacon before it announces it: the choice of R234 over the node's uplink keys
(09 R237; log 20). -/
def Dev.uplinkForm (d : Dev) (g n : Nat) (a : Alloc) : Alloc :=
  if !a.dir || decide (a.kind ≠ kindData ∨ 4 ≤ a.form) then a
  else match d.bySaddr g a.addr with
    | none => a
    | some nh =>
      let segs := d.spanSegs a.start a.len
      let i := setIx nh true
      let form := if segs.any (fun s => d.staleAt i s n a.start) then (if d.flag (Reg.marGdef g) 8 then 1 else 4 + d.droneDef g)
        else if segs.any (fun s => d.missingAt i s n a.start) then 4 + d.droneDef g else 0
      { a with form := form }

/-- Whether a mask change is under way that no beacon has carried yet. -/
def Dev.freshChange (d : Dev) (g : Nat) : Bool := match (d.group g).maskNext with | some mc => mc.effBp.isNone | none => false

/-- The first beacon that carries a mask change fixes its boundary: at least eight beacon periods on, the device's choice within 256
more is free (10 R251, log 19). -/
def Dev.placeChange (d : Dev) (g : Nat) : Dev :=
  if !d.freshChange g then d
  else
    let f := d.free
    let eff := (d.msync.bpi + 8 + f.1.toNat % 256) % 2 ^ 23
    f.2.modGroup g (fun x => { x with maskNext := x.maskNext.map (fun mc => { mc with effBp := some eff }) })

/-- The blocks that the beacon region of the beacon period in progress holds, at most four. -/
def Dev.beaconRoom (d : Dev) (g n : Nat) : Nat :=
  let br := (d.planFor g n).brlen
  if d.beaconUnits g 4 ≤ br then 4 else if d.beaconUnits g 3 ≤ br then 3 else if d.beaconUnits g 2 ≤ br then 2 else 1

/-- The body of a beacon with its allocation list cut short where it would not fit otherwise: a mask change accepted after the schedule was
frozen lengthens it (10 R251, R258; log 13). -/
def Dev.fittedBody (d : Dev) (g n : Nat) (next : Plan) : List Byte :=
  let body := fun (k : Nat) => d.beaconBody g n { next with allocs := next.allocs.take k }
  let fits := fun (b : List Byte) => decide (bodyPbs false b.length ≤ d.beaconRoom g n)
  let all := next.allocs.length
  if fits (body all) then body all
  else body ((((List.range all).reverse).find? (fun k => fits (body k))).getD 0)

/-- The beacon of the beacon period in progress: its frame control, its blocks and its length in samples. -/
def Dev.beacon (d : Dev) (g : Nat) : BitVec 128 × List (List Byte) × Nat × Nat :=
  let n := d.msync.bpi
  let after := (n + 1) % 2 ^ 23
  let next := d.planFor g after
  let body := d.fittedBody g n { next with allocs := next.allocs.map (d.uplinkForm g after) }
  let k := bodyPbs false body.length
  let pbs := (List.range k).map (fun i => mkPb (frameBody body.length 0 [] body []) i (k - 1) i)
  let nsym := droneNsym (d.profile g) (d.maskOf g) 2 k
  let fc := fcBeacon d.bcnGi nsym n (d.profile g) (d.twCode g) (d.fld (Reg.grpCtrl g) 1 0) (d.droneDef g) (d.group g).maskVer
    (d.fld Reg.gongCtrl 18 16) k
  (fc, pbs, nsym, d.droneLen g d.bcnGi 2 k)

/-- The encode lane bound for a group's beacon. -/
def Dev.beaconLane (d : Dev) (g : Nat) : Option Nat :=
  (d.encs.find? (fun (e : Nat × EncLane) => decide (e.2.grp = g) &&
    (match e.2.bound with | some b => decide (b.kind = kindBeacon ∧ b.start = 0) | none => false))).map (fun e => e.1)

/-- The blocks of a beacon as they go on the line: those read from a faulty cell, and those that a parity error of the lane touches, carry a
complemented CRC-24 (18 R430, Table IN.3). -/
def beaconPbs (pbs : List (List Byte)) (x : MemFaults) : List (List Byte) :=
  (pbs.zip (List.range pbs.length)).map (fun y =>
    if x.cells.any (fun c => decide (c.1 = y.2)) ∨ (x.lane.getD []).contains y.2 then spoilPb y.1 else y.1)

/-- Effect of BEACON_TX at the start of a beacon period in which the group beacons. -/
def beaconTxEffect (g : Nat) (x : MemFaults) (d : Dev) : Dev :=
  let n := d.msync.bpi
  match d.beaconLane g with
  | none => d
  | some l =>
    if d.dev ≠ .run ∨ !d.beacons g n ∨ (d.group g).lastBcn = some n ∨ !d.atBoundary ∨ d.unit / 8192 ≠ n then d
    else
      let placed := d.placeChange g
      let b := placed.beacon g
      let gate := d.gateFrame (d.enc l).outs b.2.2.2
      if !gate.1 then (gate.2.raise .gong 4).modGroup g (fun x => { x with lastBcn := some n })
      else
        let d := placed.modGroup g (fun y => { y with lastBcn := some n })
        let d := match x.cells with | c :: _ => (d.count 39 7 2 none 1).faultEvent 0x01 c.2 g 0 | [] => d
        let s := wholeFrame (d.profile g) (d.maskOf g) (d.fld (Reg.ffCtrl g) 21 16) b.1 false
          (droneSymbols (d.profile g) (d.maskOf g) 2 0 b.2.2.1 (beaconPbs b.2.1 x), [])
        d.startFrame l { fc := b.1, grp := g, nh := 0, msdu := 0, form := 6, rate := 0, symbols := s.1, stream1 := []
                         tw := d.twCode g, fcs := fcSymbols (d.profile g) (d.maskOf g), mimo := false, late := [], badS := []
                         start := d.tb.n, stop := d.tb.n + b.2.2.2 }

/-- BEACON_TX. -/
def execBeaconTx (g : Fin 32) (w : LaneWrites) (x : MemFaults) (s : State) : Host.Outcome State Fault Refusal :=
  run (fun d => (beaconTxEffect g x d).withWrites d ((d.beaconLane g).getD 96) w x.lane.isSome) s

/-! ### ACK_TX (11 R282-R284, R286; 12 R315) -/

/-- The encode lane bound for the allocation that a decode lane serves. -/
def Dev.ackLane (d : Dev) (x : DecLane) : Option Nat :=
  match x.bound with
  | none => none
  | some e => (d.encs.find? (fun (y : Nat × EncLane) => decide (y.2.grp = x.grp) &&
      (match y.2.bound with
       | some b => decide (b.start = e.start ∧ b.len = e.len ∧ b.addr = e.addr ∧ b.kind = e.kind)
       | none => false))).map (fun y => y.1)

/-- Whether a further frame will go to a polled node in its window once an ACK ends at sample `at_` (12 R315). -/
def Dev.willRelease (d : Dev) (l nh at_ : Nat) : Bool :=
  match d.nextMsdu l nh true with
  | none => false
  | some m => (d.fitBlocks l nh at_ m.mgmt true 1).isSome

/-- `PENDING` of an ACK: a further MSDU is queued or held for the node; in a poll window, a frame will be released. -/
def Dev.pendingFor (d : Dev) (l : Nat) (a : AckOwed) (stop : Nat) : Bool :=
  if a.poll then d.willRelease l a.nh stop else decide ((d.node a.nh).live ≠ [] ∨ (d.node a.nh).heldq ≠ [])

/-- Effect of ACK_TX: 64 us ± 1 us after the frame's end the lane's acknowledgement leaves, unless its encode lane is withheld,
busy or blocked, in which case it is not sent (11 Table LR.8, 06 R157). -/
def ackTxEffect (l : Nat) (d : Dev) : Dev :=
  let x := d.dec l
  match x.ack with
  | none => d
  | some a =>
    if d.dev ≠ .run ∨ d.tb.n + usSamples 1 < a.due ∨ a.due + usSamples 1 < d.tb.n then d
    else
      let d := d.modDec l (fun x => { x with ack := none })
      match d.ackLane x with
      | none => d
      | some e =>
        let busy : Bool := match (d.enc e).frame with | some f => decide (d.tb.n < f.stop) | none => false
        let len := d.ackLen a.grp a.gi
        if busy then d
        else
          let gate := d.gateFrame (d.enc e).outs len
          if !gate.1 then gate.2
          else
            let d := gate.2
            let pending := d.pendingFor e a (d.tb.n + len)
            let fc := fcAck a.gi (d.node a.nh).saddr 0 pending a.bitmap a.aseq
            let s := wholeFrame (d.profile a.grp) (d.maskOf a.grp) (d.fld (Reg.ffCtrl a.grp) 21 16) fc false ([], [])
            let d := d.modNode a.nh (fun n => { n with pendDl := pending })
            let d := d.startFrame e { fc := fc, grp := a.grp, nh := a.nh, msdu := 0, form := 0, rate := 0, symbols := s.1, stream1 := []
                                      tw := d.twCode a.grp, fcs := fcSymbols (d.profile a.grp) (d.maskOf a.grp), mimo := d.mimoBound e
                                      late := [], badS := [], start := d.tb.n, stop := d.tb.n + len }
            d.trace a.clid 0x05 stOk d.mpt
              { TraceInfo.of a.nh a.grp with lane := l, seq := a.aseq, bitmap := a.bitmap, level := a.level }

/-- ACK_TX. -/
def execAckTx (lane : Fin 96) (w : LaneWrites) (parity : Bool) (s : State) : Host.Outcome State Fault Refusal :=
  run (fun d => (ackTxEffect lane.val d).withWrites d ((d.ackLane (d.dec lane.val)).getD 96) w parity) s

/-! ### ACK_RECEIVED, ACK_TIMEOUT, MSDU_LIFE_EXPIRY (11 R285-R288) -/

/-- `TX_TRIES`. -/
def Dev.txTries (d : Dev) (g : Nat) : Nat := d.fld (Reg.lrCtrl g) 20 16

/-- The blocks of a transmission that a bitmap reports good. -/
def ackedOf (sent : List Nat) (bitmap : Nat) : List Nat :=
  ((sent.zip (List.range sent.length)).filter (fun x => bit bitmap x.2)).map (fun x => x.1)

/-- The MSDU whose transmission to a neighbour an ACK with `aseq` answers. -/
def Dev.awaiting (d : Dev) (hop aseq : Nat) : Option Msdu :=
  (d.unackedTo hop).filter (fun m => decide (m.sent ≠ [] ∧ m.seq = aseq) &&
    (match m.spanEnd with | some e => decide (d.tb.n ≤ e) | none => false))

/-- An ACK counts: the reported blocks' cells return at once; with none left the MSDU completes (11 R287, R288). -/
def Dev.acknowledge (d : Dev) (m : Msdu) (bitmap : Nat) : Dev :=
  let good := ackedOf m.sent bitmap
  let d := d.freePools m.grp ((m.blocks.filter (fun b => good.contains b.idx)).map (fun b => b.pool))
  let d := d.trace m.clid 0x13 stOk d.mpt { TraceInfo.of m.nh m.grp with seq := m.seq, try_ := m.tries, bitmap := bitmap }
  let m' := { m with blocks := m.blocks.filter (fun b => !good.contains b.idx), sent := [] }
  let out := d.modNode m.nh (fun n => { n with cur := none })
  let d := if m'.blocks.isEmpty then out.finishMsdu { m' with spanEnd := none } stOk
    else if m.ending.isSome then d.modNode m.nh (fun n => { n with cur := some m' })
    else if d.txTries m.grp ≤ m.tries then out.finishMsdu { m' with spanEnd := none } stNoAck
    else d.modNode m.nh (fun n => { n with cur := some { m' with spanEnd := none } })
  d.markGroup m.grp

/-- Effect of ACK_RECEIVED: the accepted ACK of a lane is judged; one that answers nothing is ignored. -/
def ackReceivedEffect (l : Nat) (d : Dev) : Dev :=
  match (d.dec l).ackIn with
  | none => d
  | some f =>
    if d.dev ≠ .run then d
    else
      let d := d.modDec l (fun x => { x with ackIn := none })
      match f.nh with
      | none => d
      | some hop =>
        match d.awaiting hop (fcAseq f.fc) with
        | none => d.modGroup f.grp (fun x => { x with acksOdd := x.acksOdd + 1 })
        | some m =>
          let d := d.modNode hop (fun n => { n with pendUl := fcPending f.fc, ulAsk := n.ulAsk || fcPending f.fc })
          d.acknowledge m (fcBitmap f.fc)

/-- ACK_RECEIVED. -/
def execAckReceived (lane : Fin 96) (s : State) : Host.Outcome State Fault Refusal :=
  run (ackReceivedEffect lane.val) s

/-- Effect of ACK_TIMEOUT: the ACK span of a node's transmission has ended. -/
def ackTimeoutEffect (nh : Nat) (d : Dev) : Dev :=
  match (d.node nh).cur with
  | none => d
  | some m =>
    match m.spanEnd with
    | none => d
    | some e =>
      if !d.dev.clocked ∨ d.tb.n < e then d
      else
        let d := if m.sent = [] then d
          else d.trace m.clid 0x13 stNoAck d.mpt { TraceInfo.of m.nh m.grp with seq := m.seq, try_ := m.tries }
        let m := { m with sent := [], spanEnd := none }
        let out := d.modNode nh (fun n => { n with cur := none })
        match m.ending with
        | some st => out.finishMsdu m st
        | none =>
          if d.txTries m.grp ≤ m.tries then out.finishMsdu m stNoAck
          else d.modNode nh (fun n => { n with cur := some m })

/-- ACK_TIMEOUT. -/
def execAckTimeout (nh : Fin 16384) (s : State) : Host.Outcome State Fault Refusal := run (ackTimeoutEffect nh) s

/-- Beacon periods counted against an MSDU's life: while its node is DORMANT only those with a poll window (12 R317). -/
def Dev.lived (d : Dev) (m : Msdu) : Nat :=
  if (d.node m.nh).st = .dormant then m.life else m.life + bpSince m.lifeBp d.msync.bpi

/-- Effect of MSDU_LIFE_EXPIRY: one in flight is judged when its ACK span ends (11 Table LR.8). -/
def msduLifeExpiryEffect (nh : Nat) (d : Dev) : Dev :=
  match (d.node nh).cur with
  | none => d
  | some m =>
    if !d.dev.clocked ∨ m.ending.isSome ∨ d.lived m < d.fld (Reg.lrCtrl m.grp) 15 8 then d
    else if m.spanEnd.isSome then d.modNode nh (fun n => { n with cur := some { m with ending := some stNoAck } })
    else (d.modNode nh (fun n => { n with cur := none })).finishMsdu m stNoAck

/-- MSDU_LIFE_EXPIRY. -/
def execMsduLifeExpiry (nh : Fin 16384) (s : State) : Host.Outcome State Fault Refusal := run (msduLifeExpiryEffect nh) s

end Sys2Proof.Machine
end

