-- ==== Sys2Proof/Machine/Decoder.lean ====
section
/-! DEFINITION. The receive coding chain on soft values: copies added, interleavers undone, depuncturing, the Viterbi decoder, descrambling
(08 R193-R195, R199-R207). A soft value is positive where 0 is the likelier bit. -/

namespace Sys2Proof.Machine

/-- A soft value limited to 6 bits without -32 (08 R194). -/
def clampSoft (i : Int) : Int := clampI (-31) 31 i

/-! ### Interleavers (08 R200, R201) -/

/-- The position in a unit of `n` bits at which the short interleaver puts input bit `i`: columns before it are full, or one short. -/
def shortPos (n i : Nat) : Nat :=
  i % 16 * ((n + 15) / 16) - (if n % 16 = 0 then 0 else i % 16 - n % 16) + i / 16

/-- The soft values of a unit of capacity `n` in the order of its input bits; what a unit lacks is 0. -/
def unshort (n : Nat) (o : List Int) : List Int := (List.range n).map (fun i => o.getD (shortPos n i) 0)

/-- Collect `n` bits of a span from its units in turn, as they were dealt (08 R201). -/
def gatherSpan (caps : List Nat) : Nat → List (List Int) → List Nat → Nat → List Int
  | 0, _, _, _ => []
  | n + 1, us, fills, nx =>
    let u := nextUnit caps fills caps.length nx
    (us.getD u []).headD 0 ::
      gatherSpan caps n (us.modify u (fun l => l.drop 1)) (fills.modify u (fun x => x + 1)) ((u + 1) % caps.length)

/-- The stream of coded bits from units of the given capacities, `n` units to a span, with fuel for the spans. -/
def deinterleave (n : Nat) : Nat → List Nat → List (List Int) → List Int
  | 0, _, _ => []
  | fuel + 1, caps, us =>
    match caps with
    | [] => []
    | _ =>
      let cs := caps.take n
      gatherSpan cs (cs.foldl (· + ·) 0) (us.take n) (cs.map (fun _ => 0)) 0 ++ deinterleave n fuel (caps.drop n) (us.drop n)

/-! ### Drone copies (08 R204, R205) -/

/-- The soft values of a Drone unit's chunk of `k` bits from those of its symbols: all copies of a bit added, then limited. An erased
symbol's list is empty and adds 0. -/
def droneSofts (d : Drone) (k : Nat) (syms : List (List Int)) : List Int :=
  (List.range k).map (fun i =>
    clampSoft (((syms.zip (List.range d.time)).flatMap (fun (x : List Int × Nat) =>
      (List.range d.freq).map (fun f => x.1.getD (f * k + (i + x.2 * (k / d.time)) % k) 0))).foldl (· + ·) 0))

/-! ### The decoder (08 R193, R195) -/

/-- The soft values of outputs A and B per input bit; punctured positions are 0. -/
def depuncture (ra rb : List Bool) : Nat → Nat → List Int → List (Int × Int)
  | 0, _, _ => []
  | n + 1, i, ss =>
    let j := i % ra.length
    let ka := ra.getD j false
    let ta := if ka then ss.drop 1 else ss
    let kb := rb.getD j false
    ((if ka then ss.headD 0 else 0), (if kb then ta.headD 0 else 0)) :: depuncture ra rb n (i + 1) (if kb then ta.drop 1 else ta)

/-- What a path gains by an output bit. -/
def softGain (b : Bool) (s : Int) : Int := if b then -s else s

/-- A path into a state: its gain and its input bits, latest first. -/
abbrev Path := Int × List Bool

/-- The better of two paths; of equals the first (log 30). -/
def betterPath : Option Path → Option Path → Option Path
  | none, b => b
  | a, none => a
  | some a, some b => if a.1 < b.1 then some b else some a

/-- One trellis step over the 64 states: the best path into each (08 R191, R195). -/
def trellisStep (ps : List (Option Path)) (s : Int × Int) : List (Option Path) :=
  (List.range 64).map (fun st =>
    let d := decide (32 ≤ st)
    let via := fun (p : Nat) => (ps.getD p none).map (fun (x : Path) =>
      let reg := b2n d * 64 + p
      ((x.1 + softGain (parity7 (reg &&& 0x5B)) s.1 + softGain (parity7 (reg &&& 0x79)) s.2, d :: x.2) : Path))
    betterPath (via (st % 32 * 2)) (via (st % 32 * 2 + 1)))

/-- The maximum-likelihood input bits of a codeword that starts and ends in state 0, without the six of its tail. -/
def viterbi (ss : List (Int × Int)) : List Bool :=
  match (ss.foldl trellisStep (some ((0, []) : Path) :: List.replicate 63 none)).getD 0 none with
  | some p => (p.2.drop 6).reverse
  | none => []

/-- The `n` bits of a codeword at a rate code, descrambled. -/
def decodeBits (rate n : Nat) (ss : List Int) : List Bool :=
  scramble (viterbi (depuncture (punctRows rate).1 (punctRows rate).2 (n + 6) 0 ss))

/-- Bits as bytes, bit 0 of each first. -/
def bitBytes (bs : List Bool) : List Byte :=
  (chunks 8 (bs.length / 8 + 1) bs).map (fun c => BitVec.ofNat 8 (c.foldr (fun b v => b2n b + 2 * v) 0))

/-- A block of 520 bytes from its soft values at a rate code; one of which nothing was received is none (08 Table CC.7). -/
def decodePb (rate : Nat) (ss : List Int) : List Byte :=
  if ss.all (fun s => decide (s = 0)) then [] else bitBytes (decodeBits rate 4160 ss)

/-- Frame control from its 268 soft values (08 R202). -/
def decodeFc (ss : List Int) : BitVec 128 :=
  BitVec.ofNat 128 ((decodeBits 0 128 ss).foldr (fun b v => b2n b + 2 * v) 0)

end Sys2Proof.Machine
end

