-- ==== Sys2Proof/Machine/Demap.lean ====
section
/-! DEFINITION. A received frame's symbols: places, channel taps and their tracking, the estimate after a channel step, separation of
streams, soft values (06 R148, R149; 08 R194, R205-R212, R214; 09 R238, R239). Precisions are those of log 30. -/

namespace Sys2Proof.Machine

/-! ### Places (06 R142, R149; 09 R239) -/

/-- MIMO training symbols of a frame: two where frame control says so (06 R149). -/
def mimoTrain (fc : BitVec 128) : Nat := if fcMimo fc then 2 else 0

/-- Training symbols that stand before the first payload symbol. -/
def leadTrain (fc : BitVec 128) : Nat := mimoTrain fc + (if fcMap fc = 4 then 1 else 0)

/-- Symbols of a frame after its frame control. -/
def bodySymbols (fc : BitVec 128) : Nat := trainCount (fcMap fc) (fcMimo fc) (fcNsym fc) + fcNsym fc

/-- Whether place `q` after frame control holds a training symbol. -/
def isTrain (fc : BitVec 128) (q : Nat) : Bool :=
  decide (q < mimoTrain fc) || (decide (fcMap fc = 4) && decide ((q - mimoTrain fc) % 9 = 0))

/-- The payload index of place `q` after frame control. -/
def payloadIx (fc : BitVec 128) (q : Nat) : Nat :=
  let r := q - mimoTrain fc
  if fcMap fc = 4 then r - r / 9 - 1 else r

/-- The place after frame control of payload symbol `j`. -/
def payloadPlace (fc : BitVec 128) (j : Nat) : Nat :=
  mimoTrain fc + (if fcMap fc = 4 then j + j / 8 + 1 else j)

/-- What stands at a place after the preamble. -/
inductive Place where
  | numbered (m : Nat)
  | t0
  | t1
  | fallback
  deriving DecidableEq, Repr

/-- The symbol at place `i` after the preamble of a frame with `n0` frame-control symbols, as far as its frame control is known. -/
def placeOf (n0 : Nat) (fc : Option (BitVec 128)) (i : Nat) : Place :=
  match fc with
  | none => .numbered i
  | some fc =>
    if i < n0 then .numbered i
    else if i - n0 < mimoTrain fc then (if i = n0 then .t0 else .t1)
    else if isTrain fc (i - n0) then .fallback
    else .numbered (n0 + payloadIx fc (i - n0))

/-- The place of a step: a transient before the first payload symbol counts for that symbol (08 R211). -/
def stepPlace (n0 : Nat) (fc : Option (BitVec 128)) (s : Nat × Bool) : Nat :=
  match fc with
  | some fc => if s.2 then max s.1 (n0 + leadTrain fc) else s.1
  | none => s.1

/-! ### Known values -/

/-- The values, in 2^-64, that the open carriers of a symbol have where they are pilots, filler or training (06 R143, R150). -/
def knownX (p : Nat) (es : List (BitVec 32)) (seed : Nat) : List Int :=
  (trainSymbol p es seed).map (fun c => c.i * (fixDb (4 * c.att) : Int))

/-- The known values of a place. -/
def placeX (p : Nat) (es : List (BitVec 32)) : Place → List Int
  | .numbered m => knownX p es (symSeed m)
  | .t0 => knownX p es 0x7FFF
  | .t1 => knownX p es 0x7FFE
  | .fallback => knownX p es 0x7FFB

/-- A received value over a known one, in 2^-48. -/
def cxOver (y : Cx) (x : Int) : Cx := cxDiv (cxScale (2 ^ 64) y) x

/-- A tap times a known value, in 2^-48 code. -/
def tapX (t : Cx) (x : Int) : Cx := cxDiv (cxScale x t) (2 ^ 64)

/-! ### Taps (09 R238, R239; 08 R212) -/

/-- The channel as a lane knows it while a frame comes in, per receive tap and open carrier: the taps of the symbols with even and with odd
number (in MIMO the two streams' sum and difference, 06 R148; else the same), the noise at carriers that have been pilots, and once
a step has come the symbols from it on, at most four, that the estimate rests on (08 R212); T0's taps until T1 comes. -/
structure Channel where
  even  : List (List Cx)
  odd   : List (List Cx)
  two   : Bool
  noise : List (List (Option Nat))
  since : Option (List (Nat × List (List Cx)))
  first : Option (List (List Cx))

/-- The channel at the start of a frame: the preamble's estimate. -/
def Channel.start (pre : List (List Cx)) : Channel :=
  { even := pre, odd := pre, two := false, noise := pre.map (fun l => l.map (fun _ => none)), since := none, first := none }

/-- A symbol ready to be demapped: number, blanked processing samples, and per receive tap and open carrier its values, the taps of both
streams and the noise. -/
structure Ready where
  m       : Nat
  blanked : Nat
  ys      : List (List Cx)
  h0      : List (List Cx)
  h1      : List (List Cx)
  noise   : List (List Nat)

/-- What a frame's symbols are read by: profile, open carriers, mask, frame-control symbols, frame control once known. -/
structure Grid where
  prof : Nat
  mask : List (BitVec 32)
  ks   : List Nat
  n0   : Nat
  fc   : Option (BitVec 128)

/-- Stream 0's and stream 1's taps. -/
def Channel.streams (c : Channel) : List (List Cx) × List (List Cx) :=
  ((c.even.zip c.odd).map (fun t => (t.1.zip t.2).map (fun x => cxDiv (cxAdd x.1 x.2) 2)),
   (c.even.zip c.odd).map (fun t => (t.1.zip t.2).map (fun x => if c.two then cxDiv (cxSub x.1 x.2) 2 else (0, 0))))

/-- The taps of symbol number `m`. -/
def Channel.tapsFor (c : Channel) (m : Nat) : List (List Cx) := if m % 2 = 0 then c.even else c.odd

/-- New taps for the symbols of a parity; for all of them while there is one stream. -/
def Channel.withTaps (c : Channel) (m : Nat) (ts : List (List Cx)) : Channel :=
  if !c.two then { c with even := ts, odd := ts } else if m % 2 = 0 then { c with even := ts } else { c with odd := ts }

/-- The noise at every open carrier, interpolated between those known. -/
def noiseAll (ks : List Nat) (ns : List (Option Nat)) : List Nat :=
  (interpFrom none ((ks.zip ns).filterMap (fun x => x.2.map (fun n => (x.1, ((n : Int), (0 : Int)))))) ks).map (fun c => c.1.toNat)

/-- The pilots of symbol `m` on one receive tap: carrier, received value, known value, tap. -/
def pilotsOf (m : Nat) (ks : List Nat) (xs : List Int) (ys ts : List Cx) : List (Cx × Int × Cx) :=
  (ks.zip (ys.zip (xs.zip ts))).filterMap (fun x => if isPilot m x.1 then some x.2 else none)

/-- The common phase error of a symbol as a rotation to be undone, in 2^-64 (09 R238). -/
def phaseError (ps : List (Cx × Int × Cx)) : Cx :=
  let c := cxSum (ps.map (fun p => cxMul p.1 (cxConj (tapX p.2.2 p.2.1))))
  let n := sqrtNat (cxNorm c)
  if n = 0 then (2 ^ 64, 0) else (c.1 * 2 ^ 64 / n, -(c.2 * 2 ^ 64 / n))

/-- A value rotated. -/
def rotated (u y : Cx) : Cx := cxDiv (cxMul y u) (2 ^ 64)

/-- The mean normalised pilot error, in 2^-16 (08 R211): the errors' energy over that of the values expected. -/
def pilotError (ps : List (Cx × Int × Cx)) : Nat :=
  natSum (ps.map (fun p => cxNorm (cxSub p.1 (tapX p.2.2 p.2.1)))) * 2 ^ 16 / natSum (ps.map (fun p => cxNorm (tapX p.2.2 p.2.1)))

/-- The taps of one receive tap after a symbol: pilots move a quarter of the way, the others are interpolated between pilot carriers
(09 R238). -/
def trackedTaps (m : Nat) (ks : List Nat) (xs : List Int) (ys ts : List Cx) : List Cx :=
  let pts := (ks.zip (ys.zip (xs.zip ts))).filterMap (fun x =>
    if x.1 % 8 ≠ 0 then none
    else if isPilot m x.1 then some (x.1, cxAdd x.2.2.2 (cxDiv (cxSub (cxOver x.2.1 x.2.2.1) x.2.2.2) 4))
    else some (x.1, x.2.2.2))
  if pts = [] then ts else interpFrom none pts ks

/-- The noise of one receive tap after a symbol: the pilots' errors, smoothed as the taps are (09 R238; log 30). -/
def trackedNoise (m : Nat) (ks : List Nat) (xs : List Int) (ys ts : List Cx) (ns : List (Option Nat)) : List (Option Nat) :=
  (ks.zip (ys.zip (xs.zip (ts.zip ns)))).map (fun x =>
    if !isPilot m x.1 then x.2.2.2.2
    else
      let e := cxNorm (cxSub x.2.1 (tapX x.2.2.2.1 x.2.2.1))
      match x.2.2.2.2 with
      | none => some e
      | some s => some (((s : Int) + ((e : Int) - (s : Int)) / 4).toNat))

/-- Points of the estimate after a step on one receive tap: Y / X at the pilots of the symbols with a parity in `par`, the mean where
several have one (08 R212). -/
def stepPoints (g : Grid) (r : Nat) (par : List Nat) (since : List (Nat × List (List Cx))) : List (Nat × Cx) :=
  let cols := since.filterMap (fun s => if par.contains (s.1 % 2) then
      some ((g.ks.zip ((s.2.getD r []).zip (knownX g.prof g.mask (symSeed s.1)))).map (fun x =>
        if isPilot s.1 x.1 then [cxOver x.2.1 x.2.2] else [])) else none)
  (g.ks.zip (columns g.ks.length cols)).filterMap (fun x =>
    match x.2.flatten with | [] => none | l => some (x.1, cxDiv (cxSum l) l.length))

/-- The error of each point against the line between its neighbours, by carrier (08 R212: the pilot error of the same symbols; log 30). -/
def pointErrors : Option (Nat × Cx) → List (Nat × Cx) → List (Nat × Nat)
  | _, [] => []
  | prev, p :: rest => (p.1, cxNorm (cxSub p.2 (between p.1 prev rest.head?))) :: pointErrors (some p) rest

/-- The channel from a step on: taps and noise from the symbols since (08 R212). -/
def Channel.reestimate (c : Channel) (g : Grid) (since : List (Nat × List (List Cx))) : Channel :=
  let rs := List.range c.even.length
  let of := fun (par : List Nat) => rs.map (fun r => stepPoints g r par since)
  let fill := fun (a b : List (List (Nat × Cx))) =>
    (a.zip b).map (fun (x : List (Nat × Cx) × List (Nat × Cx)) => interpFrom none (if x.1.isEmpty then x.2 else x.1) g.ks)
  let e := of (if c.two then [0] else [0, 1])
  let o := of (if c.two then [1] else [0, 1])
  let errs := (e.zip o).map (fun (x : List (Nat × Cx) × List (Nat × Cx)) => if c.two then pointErrors none x.1 ++ pointErrors none x.2 else pointErrors none x.1)
  { c with
    even := fill e o, odd := fill o e, since := some since
    noise := errs.map (fun (l : List (Nat × Nat)) => g.ks.map (fun k => (l.find? (fun x => decide (x.1 = k))).map (fun x =>
      let a := fixDb (4 * maskCode g.mask k)
      x.2 * (a * a) / 2 ^ 128))) }

/-- A non-erased numbered symbol comes in: the channel after it, the symbol ready to be demapped, and its pilot error. -/
def Channel.symbol (c : Channel) (g : Grid) (m : Nat) (y : RxSym) : Channel × Ready × Nat :=
  let xs := knownX g.prof g.mask (symSeed m)
  let ts := c.tapsFor m
  let pil := fun (ys : List (List Cx)) => (ys.zip ts).flatMap (fun x => pilotsOf m g.ks xs x.1 x.2)
  let u := phaseError (pil y.ys)
  let ys := y.ys.map (fun l => l.map (rotated u))
  let err := pilotError (pil ys)
  match c.since with
  | none =>
    let noise := (ys.zip (ts.zip c.noise)).map (fun x => trackedNoise m g.ks xs x.1 x.2.1 x.2.2)
    let taps := (ys.zip ts).map (fun x => trackedTaps m g.ks xs x.1 x.2)
    let s := c.streams
    (({ c with noise := noise }).withTaps m taps,
     { m := m, blanked := y.blanked, ys := ys, h0 := s.1, h1 := s.2, noise := noise.map (noiseAll g.ks) }, err)
  | some l =>
    let c := c.reestimate g (if l.length < 4 then l ++ [(m, y.ys)] else l)
    let s := c.streams
    (c, { m := m, blanked := y.blanked, ys := y.ys, h0 := s.1, h1 := s.2, noise := c.noise.map (noiseAll g.ks) }, err)

/-- Taps from a training symbol, each weighed by `w` in 2^-64. -/
def trainTaps (g : Grid) (pl : Place) (w : Nat) (ys : List (List Cx)) : List (List Cx) :=
  let xs := placeX g.prof g.mask pl
  ys.map (fun l => (l.zip xs).map (fun x => cxDiv (cxScale w (cxOver x.1 x.2)) (2 ^ 64)))

/-- The symbol at place `i` comes in: the channel after it, and what can be demapped, with its pilot error. In MIMO T0 and T1 give the two
streams' taps, weighed down to the streams' scale; where one of them is erased the payload's pilots do (08 Table CC.7). -/
def Channel.take (c : Channel) (g : Grid) (steps : List (Nat × Bool)) (i : Nat) (y : RxSym) : Channel × Option (Ready × Nat) :=
  let c := if steps.any (fun s => decide (stepPlace g.n0 g.fc s = i)) then { c with since := some [] } else c
  let w := 2 ^ 128 / fixRoot 2
  match placeOf g.n0 g.fc i with
  | .numbered m => if y.erased then (c, none) else let r := c.symbol g m y; (r.1, some r.2)
  | .fallback =>
    if y.erased then (c, none)
    else let t := trainTaps g .fallback (2 ^ 64) y.ys; ({ c with even := t, odd := t, since := none }, none)
  | .t0 => ({ c with two := true, first := if y.erased then none else some (trainTaps g .t0 w y.ys) }, none)
  | .t1 =>
    (match (if y.erased then none else c.first) with
     | none => ({ c with since := some [] }, none)
     | some a =>
       let b := trainTaps g .t1 w y.ys
       let with_ := fun (f : Cx → Cx → Cx) => (a.zip b).map (fun x => (x.1.zip x.2).map (fun z => f z.1 z.2))
       ({ c with even := with_ cxAdd, odd := with_ cxSub, since := none }, none))

/-- Symbols from place `i` on, oldest first: the channel after them, and by place what can be demapped. -/
def Channel.run (g : Grid) (steps : List (Nat × Bool)) : Channel → Nat → List RxSym → Channel × List (Option (Ready × Nat))
  | c, _, [] => (c, [])
  | c, i, y :: ys =>
    let r := c.take g steps i y
    let t := Channel.run g steps r.1 (i + 1) ys
    (t.1, r.2 :: t.2)

/-! ### Equalising (08 R209, R212; 09 R238) -/

/-- One carrier on one receive tap: both streams' taps, the value received, and the noise with what blanking adds, at least 1. -/
structure CarrierIn where
  h0 : Cx
  h1 : Cx
  y  : Cx
  v  : Nat

/-- A sum over receive taps, each weighed by the others' noise. -/
def weighed (cs : List CarrierIn) (all : Nat) (f : CarrierIn → Cx) : Cx := cxSum (cs.map (fun c => cxScale (all / c.v) (f c)))

/-- A carrier equalised over the receive taps: value, in 2^-64, and noise, in 2^-64, of stream 0 and of stream 1. One stream is combined
by its taps; two are separated by solving for both, and where they cannot be separated stream 0 is read alone. Noise none where
nothing is known of the carrier. -/
def equalised (cs : List CarrierIn) : (Cx × Option Nat) × (Cx × Option Nat) :=
  let all := (cs.map (fun c => c.v)).foldl (· * ·) 1
  let a := (weighed cs all (fun c => (cxNorm c.h0, 0))).1
  let b := (weighed cs all (fun c => (cxNorm c.h1, 0))).1
  let x := weighed cs all (fun c => cxMul (cxConj c.h0) c.h1)
  let z0 := weighed cs all (fun c => cxMul (cxConj c.h0) c.y)
  let z1 := weighed cs all (fun c => cxMul (cxConj c.h1) c.y)
  let det := a * b - cxNorm x
  let one := fun (n : Cx) (q : Int) => cxDiv (cxScale (2 ^ 64) n) q
  if 0 < det then
    ((one (cxSub (cxScale b z0) (cxMul x z1)) det, some (b * all * 2 ^ 64 / det).toNat),
     (one (cxSub (cxScale a z1) (cxMul (cxConj x) z0)) det, some (a * all * 2 ^ 64 / det).toNat))
  else if 0 < a then ((one z0 a, some (all * 2 ^ 64 / a).toNat), ((0, 0), none))
  else (((0, 0), none), ((0, 0), none))

/-- The carriers of a symbol with `size` processing samples in its window, each with its mask code, equalised. -/
def Ready.carriers (r : Ready) (size : Nat) (ks : List Nat) : List (Nat × (Cx × Option Nat) × (Cx × Option Nat)) :=
  let per := (r.ys.zip (r.h0.zip (r.h1.zip r.noise))).map (fun t =>
    (t.1.zip (t.2.1.zip (t.2.2.1.zip t.2.2.2))).map (fun x =>
      ({ y := x.1, h0 := x.2.1, h1 := x.2.2.1, v := max 1 (x.2.2.2 + cxNorm x.1 * r.blanked / size) } : CarrierIn)))
  (ks.zip (columns ks.length per)).map (fun x => (x.1, equalised x.2))

/-! ### Soft values (08 R194) -/

/-- The bits of word `w` of `n` bits, the most significant first. -/
def wordBits (n w : Nat) : List Bool := (List.range n).map (fun j => bit w (n - 1 - j))

/-- The least of a list of squares. -/
def leastOf (l : List Int) : Int := match l with | [] => 0 | a :: r => r.foldl min a

/-- The soft values of an axis of `n` bits: level 1 stands at `unit`, both it and the value `y` in 2^-64; noise in 2^-64. -/
def axisSofts (n : Nat) (unit y : Int) (noise : Nat) : List Int :=
  let ws := (List.range (2 ^ n)).map (fun w => let b := wordBits n w; let e := y - axisLevel b * unit; (b, e * e))
  (List.range n).map (fun j =>
    let side := fun (v : Bool) => leastOf ((ws.filter (fun w => w.1.getD j false == v)).map (fun w => w.2))
    let d := 2 * (side true - side false)
    if noise = 0 then clampSoft (31 * (if d < 0 then -1 else if 0 < d then 1 else 0)) else clampSoft (roundDiv d (noise * 2 ^ 64)))

/-- In-phase and quadrature bits in turn. -/
def weave : List Int → List Int → List Int
  | [], bs => bs
  | a :: as, bs => match bs with | [] => a :: as | b :: bs => a :: b :: weave as bs

/-- The soft values of a carrier of loading `b` under mask code `att`; 0 where nothing is known of it. -/
def carrierSofts (b att : Nat) (y : Cx) (noise : Option Nat) : List Int :=
  match noise with
  | none => List.replicate b 0
  | some v =>
    let unit := (fixDb (4 * att) * 2 ^ 64 / fixRoot (constPower b) : Nat)
    weave (axisSofts ((b + 1) / 2) unit y.1 v) (axisSofts (b / 2) unit y.2 v)

/-- The soft values of a symbol on one stream, in the order of its bit positions (08 R198). -/
def Grid.softs (g : Grid) (load : Nat → Nat) (s1 : Bool) (r : Ready) : List Int :=
  (r.carriers (4096 * 2 ^ g.prof) g.ks).flatMap (fun x =>
    if isPilot r.m x.1 then [] else
      let z := if s1 then x.2.2 else x.2.1
      carrierSofts (load x.1) (maskCode g.mask x.1) z.1 z.2)

/-! ### Frame control and payload -/

/-- The grid of a reception. -/
def Rx.grid (r : Rx) (fc : Option (BitVec 128)) : Grid :=
  { prof := r.prof, mask := r.mask, ks := openCarriers r.prof r.mask, n0 := r.fcs, fc := fc }

/-- What can be demapped of a reception, by place. -/
def Rx.ready (r : Rx) (fc : Option (BitVec 128)) : List (Option (Ready × Nat)) :=
  (Channel.run (r.grid fc) r.steps (Channel.start r.pre) 0 r.syms.reverse).2

/-- Frame control from its symbols (08 R202). -/
def Rx.frameControl (r : Rx) : BitVec 128 :=
  let g := r.grid none
  let d := droneOf 1
  let units := ((r.ready none).take r.fcs).zip (List.range r.fcs)
  decodeFc ((units.flatMap (fun x =>
    let k := droneCap d [openData r.prof r.mask x.2]
    unshort k (droneSofts d k [match x.1 with | some y => g.softs (fun _ => d.bits) false y.1 | none => []]))).take 268)

/-- The soft values of a frame's payload symbols, in their order; an erased symbol's list is empty. `load j` is the loading of payload
symbol `j`, `both` whether stream 1 carries bits of its own. -/
def Rx.payload (r : Rx) (fc : BitVec 128) (load : Nat → Nat → Nat) (both : Bool) : List (List Int) :=
  let g := r.grid (some fc)
  let all := r.ready (some fc)
  (List.range (fcNsym fc)).map (fun j =>
    match all.getD (r.fcs + payloadPlace fc j) none with
    | some y => g.softs (load j) false y.1 ++ (if both then g.softs (load j) true y.1 else [])
    | none => [])

/-- The frame's interleaver span in units of `t` symbols: control-class frames use the short interleaver alone (08 R201, R206). -/
def rxSpan (fc : BitVec 128) (t : Nat) : Nat :=
  let bulk := decide ((fcFt fc = ftData ∨ fcFt fc = ftMgmt) ∧ 2 ≤ fcPbs fc)
  if !bulk ∨ fcIlv fc = 0 then 1 else ilvSpan (fcIlv fc) / t

/-- The blocks of a stream of soft values at a rate code; those whose coded bits do not fit are bad (08 R207). -/
def cutPbs (rate n : Nat) (ss : List Int) : List (List Byte) :=
  (List.range n).map (fun i =>
    let w := (ss.drop (i * pbCoded rate)).take (pbCoded rate)
    if w.length < pbCoded rate then [] else decodePb rate w)

/-- The blocks of a received frame as the decoder delivers them; of one whose entries are missing, none (08 R194-R207, 09 R236, R239). -/
def RxFrame.decoded (f : RxFrame) : List (List Byte) :=
  let r := f.rx
  let p := r.prof
  let es := r.mask
  let fc := f.fc
  let n := fcNsym fc
  let map := fcMap fc
  if map ≤ 3 then
    let d := droneOf map
    let caps := (List.range (n / d.time)).map (fun i => dronePayloadCap p es d r.fcs (i * d.time))
    let ss := r.payload fc (fun _ _ => d.bits) false
    let units := caps.zip (List.range caps.length)
    cutPbs 0 (fcPbs fc) (deinterleave (rxSpan fc d.time) caps.length caps (units.map (fun x =>
      unshort x.1 (droneSofts d x.1 ((ss.drop (x.2 * d.time)).take d.time)))))
  else if map = 4 then
    let caps := (List.range n).map (fun i => 2 * openData p es (r.fcs + i))
    cutPbs 0 (fcPbs fc) (deinterleave (rxSpan fc 1) caps.length caps
      ((caps.zip (r.payload fc (fun _ _ => 2) false)).map (fun x => unshort x.1 x.2)))
  else
    let load := fun (j k : Nat) => match f.ents.getD j none with | some e => e.at k | none => 0
    let caps := ((List.range n).map (fun j => match f.ents.getD j none with
      | some e => mapCap p es e (fcMimo fc) (r.fcs + j) | none => 0))
    let rate := (f.ents.filterMap (fun e => e.map (fun e => e.rate))).foldl min 4
    cutPbs rate (fcPbs fc) (deinterleave (rxSpan fc 1) caps.length caps
      ((caps.zip (r.payload fc load (fcMimo fc))).map (fun x => unshort x.1 x.2)))

end Sys2Proof.Machine
end

