-- ==== Sys2Proof/Machine/Front.lean ====
section
/-! DEFINITION. What a decode lane takes from its taps: windows of samples, blanked processing samples, the residual canceller, preamble
detection, timing, the channel estimate and the sync word (04 R95; 07 R172-R174, R183; 08 R209). -/

namespace Sys2Proof.Machine

/-! ### Windows -/

/-- A window of a port's samples: what its converters gave, and the spans with B = 1. -/
structure TapWin where
  port  : Nat
  spans : List ConvSpan
  blank : List (Int × Int)

/-- A window of `w` samples from sample count `n0` on, on every port, pins in the order of the ports. -/
def Dev.windows (d : Dev) (ports : List Nat) (n0 w : Nat) (pins : List PinRuns) : List TapWin :=
  (ports.zip (List.range ports.length)).map (fun x =>
    let ss := d.convertAll x.1 n0 (windowSpans w (pins.getD x.2 []))
    { port := x.1, spans := ss, blank := d.blankSpans x.1 n0 ss })

/-- What the converters showed in a window leaves its marks. -/
def Dev.noteWindows (d : Dev) (n0 w : Nat) (ws : List TapWin) : Dev :=
  ws.foldl (fun d x => d.noteSamples x.port n0 w x.spans x.blank) d

/-- The spans of 0 to `hi` - 1 that given spans, in rising order, leave free, from `lo` on. -/
def openSpans (hi : Int) : Int → List (Int × Int) → List (Int × Int)
  | lo, [] => if lo < hi then [(lo, hi)] else []
  | lo, s :: rest => (if lo < s.1 then [(lo, s.1)] else []) ++ openSpans hi (max lo s.2) rest

/-- The pieces of a window's words within spans. -/
def TapWin.pieces (x : TapWin) (free : List (Int × Int)) : List Piece :=
  x.spans.flatMap (fun s => free.filterMap (fun f =>
    if max s.a f.1 < min s.b f.2 then some { a := (max s.a f.1).toNat, b := (min s.b f.2).toNat, v := s.word } else none))

/-- The unblanked pieces of a window of `w` samples: samples with B = 1 are left out (07 R172). -/
def TapWin.unblanked (w : Nat) (x : TapWin) : List Piece := x.pieces (openSpans w 0 (clipSpans 0 w x.blank))

/-- The processing samples, of `q` converter samples, of a window that hold a sample with B = 1 on any tap, as spans of whole processing samples
(08 R209). -/
def blankedSpans (q w : Nat) (ws : List TapWin) : List (Int × Int) :=
  unionSpans ((clipSpans 0 w (ws.flatMap (fun x => x.blank))).map (fun s =>
    (s.1 / (q : Int) * (q : Int), (s.2 + (q : Int) - 1) / (q : Int) * (q : Int))))

/-! ### Levels (04 R96, 07 R172, R174) -/

/-- The power of a full-scale sinusoid in one carrier, in 2^-96. -/
def fullPower : Nat := (2 ^ 15 * 131071) ^ 2 * 2 ^ 96

/-- A power in 2^-96 code at a receive gain, referred to `RX_GAIN` 0: 3 dB a step (03 Table LP.1). -/
def powerAt0 (gain v : Nat) : Nat := v * fixDb (12 * gain) / 2 ^ 64

/-- A power in dBFS0, in 0.25 dB units, rounded down. -/
def dbfs0 (v : Nat) : Int := levelOf v fullPower

/-- The short-symbol carriers of a profile under a mask (07 R168). -/
def shortKs (p : Nat) (es : List (BitVec 32)) : List Nat := (openCarriers p es).filter (fun k => k % 16 = 0)

/-- What the short-symbol carriers receive over pieces, as over a whole symbol: normalised by the samples there are (07 R172). -/
def shortSpectrum (ks : List Nat) (ps : List Piece) : List Cx :=
  let n := pieceLen ps
  if n = 0 then ks.map (fun _ => (0, 0)) else (spectrum ps ks).map (fun y => cxDiv (cxScale 65536 y) n)

/-- The mean per-carrier power over pieces on a tap of a given gain. -/
def shortPower (ks : List Nat) (gain : Nat) (ps : List Piece) : Nat :=
  powerAt0 gain (natSum ((shortSpectrum ks ps).map cxNorm) / ks.length)

/-! ### Detection (07 R172) -/

/-- Whether two short symbols on the taps meet the test: enough lag pairs, the normalised autocorrelation and the level, which is given
where they do. Each tap comes with its gain. -/
def detected (thr : Nat) (min_ : Int) (ks : List Nat) (taps : List (Nat × List Piece)) : Option Int :=
  let stats := taps.map (fun t => lagStats 0 t.2)
  let pairs := natSum (stats.map (fun s => s.1))
  let corr := sumBy (fun (s : Nat × Int × Int) => s.2.1) stats
  let en := sumBy (fun (s : Nat × Int × Int) => s.2.2) stats
  let level := dbfs0 (natSum (taps.map (fun t => shortPower ks t.1 t.2)))
  if taps ≠ [] ∧ 4096 * taps.length ≤ 2 * pairs ∧ 0 < en ∧ (thr : Int) * en ≤ 512 * corr ∧ min_ ≤ level then some level else none

/-! ### Timing and guard code (07 R173) -/

/-- Whether the short symbol at sample `lo` and the one after it have opposite signs. -/
def signChange (lo : Nat) (taps : List (List Piece)) : Bool :=
  decide (sumBy (fun (s : Nat × Int × Int) => s.2.1) (taps.map (fun t => lagStats lo t)) < 0)

/-- The power of j nearest to a complex number. -/
def quarterTurn (z : Cx) : Nat :=
  if absI z.2 ≤ absI z.1 then (if 0 ≤ z.1 then 0 else 2) else if 0 < z.2 then 1 else 3

/-- The phase of the short symbol at sample `lo` + 4,096 against the one at `lo`, as a power of j. -/
def guardCode (ks : List Nat) (lo : Nat) (taps : List (List Piece)) : Nat :=
  quarterTurn (cxSum (taps.flatMap (fun t =>
    ((spectrum (cutPieces (lo + 4096) (lo + 8192) t) ks).zip (spectrum (cutPieces lo (lo + 4096) t) ks)).map (fun x =>
      cxMul x.1 (cxConj x.2)))))

/-- The first of the short symbols 1 to 10 after the detection's whose sign differs from that before it. -/
def signFound (taps : List (List Piece)) : Option Nat := ((List.range 10).map (· + 1)).find? (fun i => signChange ((i - 1) * 4096) taps)

/-! ### Sync word (07 R174) -/

/-- The channel on the open carriers from SS1 to SS7 of a preamble, by tap: estimated on the short-symbol carriers, interpolated to all. -/
def preambleTaps (p : Nat) (es : List (BitVec 32)) (taps : List (List Piece)) : List (List Cx) :=
  let short := shortSymbol p es
  let ks := openCarriers p es
  taps.map (fun t =>
    interpFrom none (((shortSpectrum (short.map (fun c => c.k)) (cutPieces 4096 32768 t)).zip short).map (fun x =>
      (x.2.k, cxOver x.1 (x.2.i * (fixDb (4 * x.2.att) : Int))))) ks)

/-- The preamble level: the power of the short-symbol carriers over SS1 to SS7, summed over the taps. -/
def preambleLevel (ks : List Nat) (taps : List (Nat × List Piece)) : Int :=
  dbfs0 (natSum (taps.map (fun t => shortPower ks t.1 (cutPieces 4096 32768 t.2))))

/-- The 48 bits of the sync word: each carrier's received value against the channel and its sign, added per bit over carriers and taps; 1
where the sum is below 0. -/
def decidedWord (p : Nat) (es : List (BitVec 32)) (pre : List (List Cx)) (taps : List (List Piece)) : Nat :=
  let cs := trainSymbol p es 0x7FFC
  let soft := (taps.zip pre).flatMap (fun t =>
    (cs.zip ((spectrum (cutPieces 49152 114688 t.1) (cs.map (fun c => c.k))).zip t.2)).map (fun x =>
      ((x.1.k - 95) % 48, x.1.i * (cxMul x.2.1 (cxConj x.2.2)).1)))
  natSum ((List.range 48).map (fun b =>
    if sumBy (fun (s : Nat × Int) => if s.1 = b then s.2 else 0) soft < 0 then 2 ^ b else 0))

/-! ### The residual canceller (04 R95) -/

/-- A residual table's coefficient at carriers, linear between block centres, in 1/65,536. -/
def tableAt (tab : List Cx) (ks : List Nat) : List Cx :=
  interpFrom none ((tab.zip (List.range tab.length)).map (fun x => (8 * x.2 + 3, x.1))) (ks.map (fun k => 2 * k))

/-- The transform of a source's reference over the window from sample count `n0` on. -/
def Dev.refSpectrum (d : Dev) (q n0 : Nat) (ks : List Nat) : List Cx :=
  spectrum ((List.range 65536).filterMap (fun i =>
    let v := d.ldac q (n0 + i)
    if v = 0 then none else some { a := i, b := i + 1, v := v })) ks

/-- What the residual canceller subtracts on port `p`: for each source with an echo-reference tap and a table, reference times coefficient. -/
def Dev.residue (d : Dev) (p : Nat) (erf : List Nat) (n0 : Nat) (ks : List Nat) : List Cx :=
  erf.foldl (fun acc q =>
    match (d.port p).tabs.find? (fun t => decide (t.1 = q % 4)) with
    | none => acc
    | some t =>
      if t.2.all (fun c => decide (c = (0, 0))) then acc
      else (acc.zip ((d.refSpectrum q n0 ks).zip (tableAt t.2 ks))).map (fun x => cxAdd x.1 (cxDiv (cxMul x.2.1 x.2.2) 65536)))
    (ks.map (fun _ => (0, 0)))

/-- A symbol's window as the lane takes it: its blanked processing samples, and per tap what the open carriers receive, blanked processing
samples counted as 0 and the residue taken off (08 R209, 04 R95). -/
def Dev.receiveSymbol (d : Dev) (r : Rx) (n0 : Nat) (ws : List TapWin) : Nat × List (List Cx) :=
  let q := profStep r.prof
  let bl := blankedSpans q 65536 ws
  let ks := openCarriers r.prof r.mask
  (spanSum bl / q, ws.map (fun x =>
    ((spectrum (x.pieces (openSpans 65536 0 bl)) ks).zip (d.residue x.port r.erf n0 ks)).map (fun y => cxSub y.1 y.2)))

end Sys2Proof.Machine
end

