-- ==== Sys2Proof/Machine/Acquire.lean ====
section
/-! DEFINITION. Finding frames: detection, timing, sync word, frame control, capture, symbols and channel steps (07 R172-R187, 08
R208-R214, 09 R236, R240, 11 R289-R291). -/

namespace Sys2Proof.Machine

/-! ### Places of symbols -/

/-- The sample count at which the symbol at place `q` after frame control starts. -/
def RxFrame.startOf (f : RxFrame) (q : Nat) : Nat := f.rx.origin + (f.rx.fcs + q) * symPeriod f.rx.gi

/-- The sample count at which the capture window closes: the end of the fourth payload symbol, or of the frame (07 R183). -/
def RxFrame.closeAt (f : RxFrame) : Nat := f.startOf (leadTrain f.fc + min 4 (fcNsym f.fc))

/-- The sample counts at which a frame's payload symbols start. -/
def RxFrame.payloadStarts (f : RxFrame) : List Nat := (List.range (fcNsym f.fc)).map (fun j => f.startOf (payloadPlace f.fc j))

/-- The symbols of a reception after the preamble, as far as the lane knows of them. -/
def Rx.symbols (r : Rx) (fc : Option (BitVec 128)) : Nat := r.fcs + (match fc with | some fc => bodySymbols fc | none => 0)

/-- The mask of a frame whose first sample has count `n`: a change that came later does not touch it (06 R153). -/
def Dev.maskAt (d : Dev) (g n : Nat) : List (BitVec 32) :=
  match (d.group g).maskWas with
  | some (b, es) => if n < b then es else d.maskOf g
  | none => d.maskOf g

/-- The ports that a lane receives on. -/
def DecLane.rxPorts (x : DecLane) : List Nat := x.taps.map (fun t => t.port)

/-! ### PREAMBLE_DETECT, TIMING_ACQUIRED, SYNC_WORD_DECISION (07 R172-R174) -/

/-- The lane forgets what it had of a frame and stands at the frame control of another. -/
def DecLane.toFc (x : DecLane) (r : Rx) : DecLane := { x with acq := .fc, rx := r, win := true, second := none, frame := none }

/-- A frame is dropped: the lane goes on with the frame of an accepted second sync word, or is armed again (07 R180). -/
def Dev.rearm (d : Dev) (l : Nat) : Dev :=
  d.modDec l (fun x => match x.second with
    | some r => x.toFc r
    | none => { x with acq := .armed, win := false, frame := none, rx := Rx.init })

/-- A false sync (07 R180). -/
def Dev.falseSync (d : Dev) (l : Nat) : Dev := (d.raise (.ff (d.dec l).grp) 0).rearm l

/-- A reception as a lane begins it: `level` in dBFS0, `n` the sample count of the end of the detection's window. -/
def Dev.startRx (d : Dev) (x : DecLane) (level : Int) (n : Nat) : Rx :=
  { Rx.init with origin := n, level := level, prof := d.profile x.grp, ports := x.rxPorts, gains := x.rxPorts.map d.rxGainOf, erf := x.erf,
                   alloc := x.bound.map (fun e => (d.msync.bpi, e)) }

/-- A reception once its timing is known: the first sample after the preamble, the guard code, and with them mask and frame-control symbols. -/
def Dev.timedRx (d : Dev) (g : Nat) (r : Rx) (origin gi : Nat) : Rx :=
  let es := d.maskAt g (origin - preambleLen)
  { r with origin := origin, gi := gi, mask := es, fcs := fcSymbols r.prof es }

/-- Windows with the gains of their ports. -/
def Dev.withGains (d : Dev) (ws : List TapWin) (ps : List (List Piece)) : List (Nat × List Piece) :=
  (ws.zip ps).map (fun x => (d.rxGainOf x.1.port, x.2))

/-- The test of R172 on the two short symbols at the start of windows of a group's frame, under the mask given. -/
def Dev.detects (d : Dev) (g : Nat) (es : List (BitVec 32)) (ws : List TapWin) : Option Int :=
  detected (d.fld (Reg.ffDet g) 7 0) (-4 * (d.fld (Reg.ffDet g) 22 16 : Int)) (shortKs (d.profile g) es)
    (d.withGains ws (ws.map (fun x => x.unblanked 8192)))

/-- Effect of PREAMBLE_DETECT: the test over the last two short-symbol periods, which end eight samples before the pins given. -/
def preambleDetectEffect (l : Nat) (pins : List PinRuns) (d : Dev) : Dev :=
  let d := d.settleLane l
  let x := d.dec l
  if d.dev ≠ .run ∨ x.acq ≠ .armed then d
  else
    let n0 := d.tb.n - 8200
    let ws := d.windows x.rxPorts n0 8192 pins
    let e := d.noteWindows n0 8192 ws
    match d.detects x.grp (d.maskAt x.grp n0) ws with
    | none => e
    | some level => e.modDec l (fun x => { x with
        acq := .timing, win := true, failAt := none, rx := d.startRx x level (n0 + 8192), second := none, frame := none })

/-- PREAMBLE_DETECT. -/
def execPreambleDetect (lane : Fin 96) (pins : List PinRuns) (s : State) : Host.Outcome State Fault Refusal :=
  run (preambleDetectEffect lane.val pins) s

/-- Effect of TIMING_ACQUIRED: the short symbols from the detection's last one on, up to now. It is due once the sign has changed and the
symbol after it has come, or twelve symbols have come without a change. -/
def timingAcquiredEffect (l : Nat) (pins : List PinRuns) (d : Dev) : Dev :=
  let x := d.dec l
  let g := x.grp
  if d.dev ≠ .run ∨ x.acq ≠ .timing then d
  else
    let n0 := x.rx.origin - 4096
    let w := d.tb.n - 8 - n0
    let ws := d.windows x.rx.ports n0 w pins
    let ps := ws.map (TapWin.unblanked w)
    let e := d.noteWindows n0 w ws
    match signFound ps with
    | none => if w < 12 * 4096 then d else e.falseSync l
    | some i =>
      if w < (i + 2) * 4096 then d
      else
        let c := guardCode (shortKs x.rx.prof (d.maskAt g n0)) (i * 4096) ps
        if c = 3 then e.falseSync l
        else e.modDec l (fun x => { x with acq := .sync, rx := d.timedRx g x.rx (n0 + (i + 2) * 4096 + 73728) c })

/-- TIMING_ACQUIRED. -/
def execTimingAcquired (lane : Fin 96) (pins : List PinRuns) (s : State) : Host.Outcome State Fault Refusal :=
  run (timingAcquiredEffect lane.val pins) s

/-- Whether a decided sync word is accepted as a group's own (07 R171, R174). -/
def Dev.syncAccepted (d : Dev) (g word : Nat) : Bool :=
  decide (syncDist word (syncWord (d.fld (Reg.ffCtrl g) 21 16)) ≤ d.fld (Reg.ffCtrl g) 3 0)

/-- A preamble's windows as the lane transforms them: blanked processing samples are 0 (08 R209). -/
def cleaned (p : Nat) (ws : List TapWin) : List (List Piece) :=
  ws.map (fun x => x.pieces (openSpans preambleLen 0 (blankedSpans (profStep p) preambleLen ws)))

/-- A reception with what its preamble gives: the first taps and the level. -/
def Dev.preambleRx (d : Dev) (r : Rx) (ws : List TapWin) : Rx :=
  let ps := cleaned r.prof ws
  { r with pre := preambleTaps r.prof r.mask ps, level := preambleLevel (shortKs r.prof r.mask) (d.withGains ws ps) }

/-- The sync word of a preamble whose taps are known. -/
def Rx.decided (r : Rx) (ws : List TapWin) : Nat := decidedWord r.prof r.mask r.pre (cleaned r.prof ws)

/-- Effect of SYNC_WORD_DECISION, once the preamble has come. -/
def syncWordDecisionEffect (l : Nat) (pins : List PinRuns) (d : Dev) : Dev :=
  let x := d.dec l
  if d.dev ≠ .run ∨ x.acq ≠ .sync ∨ d.tb.n < x.rx.origin + 8 then d
  else
    let n0 := x.rx.origin - preambleLen
    let ws := d.windows x.rx.ports n0 preambleLen pins
    let e := d.noteWindows n0 preambleLen ws
    let r := d.preambleRx x.rx ws
    if d.syncAccepted x.grp (r.decided ws) then e.modDec l (fun x => { x with acq := .fc, rx := r }) else e.falseSync l

/-- SYNC_WORD_DECISION. -/
def execSyncWordDecision (lane : Fin 96) (pins : List PinRuns) (s : State) : Host.Outcome State Fault Refusal :=
  run (syncWordDecisionEffect lane.val pins) s

/-! ### FRAME_CONTROL_DECODE (07 R175-R181; 11 R289, R291) -/

/-- Whether a group's lane accepts frame control for its addresses, and the node it comes from (07 R181). -/
def Dev.rxFilter (d : Dev) (g : Nat) (fc : BitVec 128) : Option (Option Nat) :=
  if fcFt fc = ftBeacon ∨ (fcDst fc ≠ 0 ∧ fcDst fc ≠ 1023) then none
  else match d.bySaddr g (fcSrc fc) with
    | some nh => some (some nh)
    | none => if fcSrc fc = 1023 ∧ fcFt fc = ftMgmt then some none else none

/-- The class of `SEQ` in a DATA or MGMT frame from a node (11 R291). -/
def Node.classOf (n : Node) (seq : Nat) : SeqClass :=
  let dist := (seq + 4096 - n.rxSeq) % 4096
  if (match n.reasm with | some r => decide (r.seq = seq) | none => false) then .retrans
  else if !n.rxValid ∨ (1 ≤ dist ∧ dist ≤ 2047) then .fresh
  else .dup

/-- A new frame opens its reassembly; one in part of another MSDU is abandoned (11 R289). -/
def Dev.openReasm (d : Dev) (nh : Nat) (fc : BitVec 128) (clid : Option Nat) : Dev :=
  let d := if (d.node nh).reasm.isSome then (((d.dropReasm nh).raise (.lr (d.node nh).grp) 4).nodeCount nh 7 1) else d
  let r : Reasm := { seq := fcSeq fc, last := 0, base := 0, enc := fcEnc fc, orig := fcOrig fc, final := fcFinal fc, hop := fcHop fc
                     parts := [], clid := clid, faulty := none }
  d.modNode nh (fun n => { n with reasm := some r })

/-- Whether frame control holds an MSDU's blocks. -/
def carriesMsdu (fc : BitVec 128) : Bool := decide (fcFt fc = ftData ∨ fcFt fc = ftMgmt)

/-- The clave identifier of a frame: a retransmission keeps its MSDU's, any other frame is a candidate (20 R468, R469). -/
def Dev.claveRx (d : Dev) (g : Nat) (nh : Option Nat) (cls : SeqClass) : Option Nat × Dev :=
  match (if cls = .retrans then nh.bind (fun h => (d.node h).reasm.bind (fun r => r.clid)) else none) with
  | some c => (some c, d)
  | none => d.clave g

/-- The snapshot that a payload symbol of a frame is decoded with, by the sample count of its start: that of the allocation the frame came
in (09 R236). -/
def Dev.snapshot (d : Dev) (nh : Option Nat) (a : Option (Nat × DecEntry)) (n : Nat) : Option Pin :=
  match nh, a with
  | some nh, some a => d.pinOf a.1 a.2.start (setIx nh true) (d.segOfSample n)
  | _, _ => none

/-- Whether a tone-map frame meets another set version than that of its snapshots, or none, on a segment it covers (09 R236). -/
def Dev.mismatch (d : Dev) (f : RxFrame) : Bool :=
  f.payloadStarts.any (fun n => match d.snapshot f.nh f.rx.alloc n with
    | some p => decide (p.ver % 8 ≠ fcMap f.fc % 8)
    | none => true)

/-- The segment index in which a symbol that starts at a sample count lies whole, prefix and postfix included (09 R222, R223). -/
def Dev.wholeIn (d : Dev) (f : RxFrame) (n : Nat) : Option Nat :=
  let s := d.segOfSample n
  if d.segOfSample (n + symPeriod f.rx.gi + postfixLen (d.twCode f.grp) - 1) = s then some s else none

/-- The slot unit of the beacon period in which a sample came. -/
def Dev.unitOfSample (d : Dev) (n : Nat) : Nat :=
  let pos := (d.bpPos (d.mptOf n).1).toNat
  ((List.range 8192).filter (fun u => decide (0 < u ∧ d.unitStart u ≤ pos))).length

/-- A frame as it is received from its acceptance on. -/
def Dev.newFrame (d : Dev) (x : DecLane) (fc : BitVec 128) (nh : Option Nat) (cls : SeqClass) (clid : Option Nat) : RxFrame :=
  let f : RxFrame := { fc := fc, grp := x.grp, nh := nh, cls := cls, blind := false, clid := clid, rx := x.rx
                       lastSym := x.rx.origin + x.rx.symbols (some fc) * symPeriod x.rx.gi, alloc := x.rx.alloc.map (fun a => a.2)
                       arrival := d.unitOfSample (x.rx.origin - preambleLen), ents := [], segs := [], pbs := none }
  { f with
    ents := if carriesMsdu fc ∧ 8 ≤ fcMap fc then f.payloadStarts.map (fun n => (d.snapshot nh x.rx.alloc n).map (fun p => p.entry)) else []
    segs := if fcFt fc = ftSound then f.payloadStarts.map (d.wholeIn f) else [] }

/-- Frame control that has passed every test: the node is heard, the frame is classified, its reception begins or, for an ACK, is
over. -/
def Dev.acceptFc (d : Dev) (l : Nat) (fc : BitVec 128) (nh : Option Nat) : Dev :=
  let x := d.dec l
  let g := x.grp
  let d := d.count g 7 3 none 1
  let d : Dev := match nh with | some h => d.heard h | none => d
  let d : Dev := match nh with
    | some h => if carriesMsdu fc ∧ (d.node h).st = .dormant then d.wake h else d
    | none => d
  let cls : SeqClass := match nh with | some h => if carriesMsdu fc ∧ fcDst fc = 0 then (d.node h).classOf (fcSeq fc) else .none | none => .none
  let c := d.claveRx g nh cls
  let d := c.2
  let f := d.newFrame x fc nh cls c.1
  let m := d.mptOf (x.rx.origin - preambleLen)
  let d := m.2.traceRx l f 0x01 stOk m.1 0
  let d : Dev := match nh with | some h => if cls = .fresh then d.openReasm h fc c.1 else d | none => d
  if fcNsym fc = 0 then
    d.modDec l (fun x => { x with acq := .armed, win := false, second := none, frame := none, ackIn := some f })
  else
    let blind := carriesMsdu fc && decide (8 ≤ fcMap fc) && d.mismatch f
    let d := if blind then d.raise .mar 3 else d
    let d := match nh with | some h => if blind then d.resendCurrent (setIx h true) else d | none => d
    d.modDec l (fun x => { x with acq := .window, frame := some { f with blind := blind } })

/-- Effect of FRAME_CONTROL_DECODE, once its symbols have been demodulated. Frame control with an erased symbol fails its CRC (08 Table
CC.7). -/
def frameControlDecodeEffect (l : Nat) (d : Dev) : Dev :=
  let x := d.dec l
  let fc := x.rx.fcGot
  if d.dev ≠ .run ∨ x.acq ≠ .fc ∨ x.rx.syms.length < x.rx.fcs then d
  else if x.rx.syms.any (fun s => s.erased) ∨ !fcGood fc ∨ !fcValid fc x.rx.gi then
    (d.falseSync l).modDec l (fun x => { x with failAt := some d.clk })
  else match d.rxFilter x.grp fc with
    | none => (d.raise (.ff x.grp) 1).rearm l
    | some nh => d.acceptFc l fc nh

/-- FRAME_CONTROL_DECODE. -/
def execFrameControlDecode (lane : Fin 96) (s : State) : Host.Outcome State Fault Refusal :=
  run (frameControlDecodeEffect lane.val) s

/-! ### SECOND_SYNC_ACCEPT, CAPTURE_WINDOW_CLOSE (07 R183-R187) -/

/-- Whether the capture window of a lane still stands open: up to and with the sample in which it closes (07 Table FF.7). -/
def Dev.windowOpen (d : Dev) (x : DecLane) : Bool := match x.frame with | some f => decide (d.tb.n ≤ f.closeAt) | none => x.win

/-- A stronger frame is captured: the one in reception is abandoned (07 R184). -/
def Dev.capture (d : Dev) (l : Nat) (r : Rx) : Dev :=
  let x := d.dec l
  let d := d.raise (.ff x.grp) 2
  let d := match x.frame with | some f => d.traceRx l f 0x06 stFlushed d.mpt 0 | none => d
  d.modDec l (fun x => x.toFc r)

/-- What the second detector finds in the preamble whose last sample stands eight before the pins' last: none where R172, R173 or R174
fails (07 R183). -/
def Dev.secondRx (d : Dev) (x : DecLane) (ws : List TapWin) : Option Rx :=
  let g := x.grp
  let origin := d.tb.n - 8
  let es := d.maskAt g (origin - preambleLen)
  let ps := ws.map (TapWin.unblanked preambleLen)
  let c := guardCode (shortKs (d.profile g) es) (8 * 4096) ps
  match d.detects g es ws with
  | none => none
  | some level =>
    if !signChange (7 * 4096) ps ∨ c = 3 then none
    else
      let r := d.preambleRx (d.timedRx g (d.startRx x level origin) origin c) ws
      if d.syncAccepted g (r.decided ws) then some r else none

/-- An accepted second sync word meets the lane. One accepted in the cycle in which frame control failed is taken (07 Table FF.7); one
that is not captured is held for R180 in place of one held before, whatever the levels (DESIGN CHOICE where the rule does not say
which of two is held, log 30). -/
def Dev.meetSecond (d : Dev) (l : Nat) (r : Rx) : Dev :=
  let x := d.dec l
  let db := d.fld (Reg.ffCtrl x.grp) 11 8
  let stronger := decide (db ≠ 0 ∧ x.cur.level + 4 * (db : Int) ≤ r.level)
  if x.acq = .armed then d.modDec l (fun x => { x.toFc r with failAt := none })
  else if stronger && d.windowOpen x then d.capture l r
  else if x.acq = .timing ∨ x.acq = .sync ∨ x.acq = .fc then d.modDec l (fun x => { x with second := some r })
  else if stronger then d.raise (.ff x.grp) 3
  else d

/-- Effect of SECOND_SYNC_ACCEPT: the second detector looks at the preamble that has just ended, from the current frame's detection on. The
current frame's own preamble is no other frame. -/
def secondSyncAcceptEffect (l : Nat) (pins : List PinRuns) (d : Dev) : Dev :=
  let d := d.settleLane l
  let x := d.dec l
  let n0 := d.tb.n - 8 - preambleLen
  if d.dev ≠ .run ∨ !(x.acq.busy || decide (x.acq = .armed ∧ x.failAt = some d.clk)) ∨
      (x.acq.busy ∧ x.acq ≠ .timing ∧ x.cur.origin = d.tb.n - 8) then d
  else
    let ws := d.windows x.rxPorts n0 preambleLen pins
    let e := d.noteWindows n0 preambleLen ws
    match d.secondRx x ws with
    | none => e
    | some r => e.meetSecond l r

/-- SECOND_SYNC_ACCEPT. -/
def execSecondSyncAccept (lane : Fin 96) (pins : List PinRuns) (s : State) : Host.Outcome State Fault Refusal :=
  run (secondSyncAcceptEffect lane.val pins) s

/-- Effect of CAPTURE_WINDOW_CLOSE. -/
def captureWindowCloseEffect (l : Nat) (d : Dev) : Dev :=
  match (d.dec l).frame with
  | none => d
  | some f =>
    if d.dev ≠ .run ∨ (d.dec l).acq ≠ .window ∨ d.tb.n < f.closeAt ∨ f.lastSym ≤ f.closeAt then d
    else d.modDec l (fun x => { x with acq := .payload, win := false })

/-- CAPTURE_WINDOW_CLOSE. -/
def execCaptureWindowClose (lane : Fin 96) (s : State) : Host.Outcome State Fault Refusal :=
  run (captureWindowCloseEffect lane.val) s

/-! ### Symbols and channel steps (08 R208-R214) -/

/-- A reception with a CHANNEL_STEP more, unless it has that step already: no non-erased numbered symbol lies between the two (08
Table CC.7). A step is a place after the preamble and whether a transient brought it. -/
def Rx.withStep (r : Rx) (fc : Option (BitVec 128)) (s : Nat × Bool) : Option Rx :=
  let here := stepPlace r.fcs fc s
  let same := fun (t : Nat) => decide (t ≤ here) && r.errs.all (fun e => decide (e.1 < t ∨ here ≤ e.1))
  if r.steps.any (fun t => same t.1 || same (stepPlace r.fcs fc t)) then none else some { r with steps := r.steps ++ [s] }

/-- Whether a pilot error stands at least `db` dB above the mean of earlier ones. -/
def risen (err : Nat) (before : List (Nat × Nat)) (db : Nat) : Bool :=
  let sum := (before.map (fun e => e.2)).foldl (· + ·) 0
  decide (before ≠ [] ∧ 0 < err ∧ sum * tenRoot (4 * db % 40) * 10 ^ (4 * db / 40) ≤ err * before.length * 10 ^ 30)

/-- A non-erased numbered symbol's pilot error is weighed: two in succession that stand `STEP_DB` above the mean make a step at the first of
them (08 R211). -/
def Dev.weighError (d : Dev) (g : Nat) (r : Rx) (fc : Option (BitVec 128)) (i err : Nat) : Rx × Dev :=
  let up := risen err r.errs (d.fld (Reg.ccCtrl g) 3 0)
  let r' := { r with errs := (i, err) :: r.errs, rise := up }
  match r.errs.head? with
  | none => (r', d)
  | some e =>
    if up && r.rise then
      match r'.withStep fc (e.1, false) with
      | some r'' => (r'', d.raise (.cc g) 3)
      | none => (r', d)
    else (r', d)

/-- The next symbol of a reception, training symbols included, from the pins of its window (08 R209). -/
def Dev.demodulate (d : Dev) (g : Nat) (r : Rx) (fc : Option (BitVec 128)) (pins : List PinRuns) : Rx × Dev :=
  let i := r.syms.length
  let n0 := r.origin + i * symPeriod r.gi + (symPeriod r.gi - 65536)
  let ws := d.windows r.ports n0 65536 pins
  let y := d.receiveSymbol r n0 ws
  let erased := decide (d.fld (Reg.ccCtrl g) 13 8 * profFft r.prof < y.1 * 64)
  let d := d.noteWindows n0 65536 ws
  let r' := { r with syms := { blanked := y.1, erased := erased, ys := if erased then [] else y.2 } :: r.syms }
  if erased then (r', (d.raise (.cc g) 1).count g 7 2 none 1)
  else match placeOf r.fcs fc i with
    | .numbered _ => d.weighError g r' fc i (((r'.ready fc).getD i none).elim 0 (fun x => x.2))
    | _ => (r', d)

/-- Whether the next symbol of a reception has come, eight samples more included. -/
def Dev.symbolCame (d : Dev) (r : Rx) (fc : Option (BitVec 128)) : Bool :=
  decide (r.syms.length < r.symbols fc ∧ r.origin + (r.syms.length + 1) * symPeriod r.gi + 8 ≤ d.tb.n)

/-- The steps of a frame reach the Gong and the Marimba with its reception record (08 R213, 09 R240). -/
def Dev.reportSteps (d : Dev) (f : RxFrame) : Dev :=
  match f.nh with
  | none => d
  | some nh => f.rx.steps.foldl (fun d s =>
      d.markSegment [nh] (d.segOfSample (f.rx.origin + stepPlace f.rx.fcs (some f.fc) s * symPeriod f.rx.gi)) 0 nh f.grp) d

/-- The residual tables of a frame's receive ports are written back as it ends, refined on its pilots (04 R95). -/
def Dev.writeBack (d : Dev) (f : RxFrame) : Dev :=
  let r := f.rx
  let ks := openCarriers r.prof r.mask
  (r.ports.zip (List.range r.ports.length)).foldl (fun d x =>
    r.erf.foldl (fun d q =>
      let tab := (((d.port x.1).tabs.find? (fun t => decide (t.1 = q % 4))).map (fun t => t.2)).getD []
      let pil := (r.syms.reverse.zip (List.range r.syms.length)).flatMap (fun s => match placeOf r.fcs (some f.fc) s.2 with
        | .numbered m => (ks.zip (s.1.ys.getD x.2 [])).filter (fun k => isPilot m k.1)
        | _ => [])
      let new := (List.range (profFft r.prof / 8)).map (fun b => let c := Config.refine tab pil b; (sat18 c.1, sat18 c.2))
      d.modPort x.1 (fun p => { p with tabs := SMap.put (q % 4) new p.tabs })) d) d

/-- The symbols of a sounding frame join its node's uplink session: those not erased that lie whole in one segment (09 R223). -/
def Dev.feedSounding (d : Dev) (f : RxFrame) : Dev :=
  let r := f.rx
  let ks := openCarriers r.prof r.mask
  let got := (f.segs.zip (List.range f.segs.length)).filterMap (fun s =>
    match s.1, r.syms.reverse[r.fcs + payloadPlace f.fc s.2]? with
    | some seg, some y =>
      if y.erased then none
      else some ({ seg := seg, m := r.fcs + s.2, mimo := fcMimo f.fc, gains := r.gains
                   z := y.ys.map (fun l => (ks.zip (l.zip (knownX r.prof r.mask (symSeed (r.fcs + s.2))))).map (fun x =>
                     (x.1, if x.2.2 < 0 then cxScale (-1) x.2.1 else x.2.1))) } : SndSym)
    | _, _ => none)
  match f.nh.bind (fun nh => d.openOf nh true) with
  | some s => if fcFt f.fc = ftSound then d.modSess s.id (fun s => { s with rcvd := s.rcvd ++ got }) else d
  | none => d

/-- The blocks of a frame as decoded; one that a parity error of the lane's working memory has touched is bad (18 Table IN.3). -/
def RxFrame.blocks (f : RxFrame) : List (List Byte) :=
  let l := f.decoded
  if f.rx.upset = [] then l else (l.zip (List.range l.length)).map (fun x => if f.rx.upset.contains x.2 then [] else x.1)

/-- A frame's last symbol has been demodulated: its blocks are decoded, the residual tables written back, its steps reported. -/
def Dev.frameReceived (d : Dev) (f : RxFrame) : RxFrame × Dev :=
  ({ f with pbs := some (if carriesMsdu f.fc ∨ fcFt f.fc = ftPoll then f.blocks else []) },
   ((d.writeBack f).feedSounding f).reportSteps f)

/-- The next symbol of a frame that has ended on the line and is not complete yet. -/
def Dev.demodulateEnded (d : Dev) (l : Nat) (f : RxFrame) (pins : List PinRuns) : Dev :=
  let t := d.demodulate f.grp f.rx (some f.fc) pins
  let f := { f with rx := t.1 }
  let u := if f.rx.syms.length < f.rx.symbols (some f.fc) then (f, t.2) else t.2.frameReceived f
  u.2.modDec l (fun x =>
    let before := x.ended.takeWhile (fun y => y.pbs.isSome)
    { x with ended := before ++ u.1 :: x.ended.drop (before.length + 1) })

/-- The next symbol of the frame that a lane receives. Frame control is decoded with its last symbol. -/
def Dev.demodulateLane (d : Dev) (l : Nat) (pins : List PinRuns) : Dev :=
  let x := d.dec l
  let t := d.demodulate x.grp x.cur (x.frame.map (fun f => f.fc)) pins
  let r := if x.frame.isNone ∧ t.1.syms.length = t.1.fcs then { t.1 with fcGot := t.1.frameControl } else t.1
  t.2.modDec l (fun x => x.setCur r)

/-- A parity error of a decode lane's working memory: a fault of class LANE_MEM (18 R431, 21 R482). -/
def Dev.laneUpset (d : Dev) (l g : Nat) (upset : Option (List Nat)) : Dev :=
  if upset.isSome then d.faultEvent 0x04 l g 0 else d

/-- A reception whose memory a parity error has touched. -/
def Rx.touched (r : Rx) (upset : Option (List Nat)) : Rx := { r with upset := r.upset ++ upset.getD [] }

/-- Effect of SYMBOL_DEMODULATE: the next symbol of the oldest frame that is not complete, once it has come. `upset` names the blocks of the
frame that a parity error of the lane's working memory touches, none where there is no error. -/
def symbolDemodulateEffect (l : Nat) (pins : List PinRuns) (upset : Option (List Nat)) (d : Dev) : Dev :=
  let d := d.settleLane l
  let x := d.dec l
  if d.dev ≠ .run then d
  else match x.ended.find? (fun f => f.pbs.isNone) with
    | some f =>
      if d.symbolCame f.rx (some f.fc) then (d.laneUpset l f.grp upset).demodulateEnded l { f with rx := f.rx.touched upset } pins else d
    | none =>
      if (x.acq = .fc ∨ x.acq = .window ∨ x.acq = .payload) ∧ d.symbolCame x.cur (x.frame.map (fun f => f.fc)) then
        ((d.laneUpset l x.grp upset).modDec l (fun x => x.setCur (x.cur.touched upset))).demodulateLane l pins
      else d

/-- SYMBOL_DEMODULATE. -/
def execSymbolDemodulate (lane : Fin 96) (pins : List PinRuns) (upset : Option (List Nat)) (s : State) :
    Host.Outcome State Fault Refusal := run (symbolDemodulateEffect lane.val pins upset) s

/-! ### TRANSIENT_REPORT (08 R210, R211; 09 R240) -/

/-- A transient whose run ended with sample `n` meets a lane's frame, from its sync-word symbol on: a step at the symbol in which it
ended. -/
def Dev.stepLane (d : Dev) (l n : Nat) : Dev :=
  let x := d.dec l
  let r := x.cur
  let fc := x.frame.map (fun f => f.fc)
  if x.acq = .timing ∨ n + 73728 < r.origin then d
  else
    let i := if n < r.origin then 0 else (n - r.origin) / symPeriod r.gi
    match r.withStep fc ((match fc with | some _ => min i (r.symbols fc - 1) | none => i), true) with
    | none => d
    | some r => (d.raise (.cc x.grp) 3).modDec l (fun x => x.setCur r)

/-- The run of B = 1 that ends eight samples before the end of a port's pins: its length and the SADC peak in it (08 R210). -/
def Dev.blankedRun (d : Dev) (p n0 len : Nat) (ss : List ConvSpan) : Option (Nat × Nat) :=
  ((d.blankSpans p n0 ss).find? (fun s => decide (s.2 = (len : Int)))).map (fun s =>
    ((s.2 - s.1).toNat, ((ss.filter (fun y => decide (s.1 < y.b ∧ y.a < s.2))).map (fun y => (absI y.sadc).toNat)).foldl max 0))

/-- A transient has been reported on a port (08 R210, R211; 09 R240). -/
def Dev.transient (d : Dev) (p n : Nat) : Dev :=
  let g := portGroup p
  let d := d.raise (.cc g) 2
  let lanes := ((d.decs.filter (fun (e : Nat × DecLane) => d.receiving e.2 && e.2.rxPorts.contains p))).map (fun e => e.1)
  if lanes ≠ [] then lanes.foldl (fun d l => d.stepLane l n) d
  else if d.flag Reg.marCtrl 1 then
    let nhs := (d.nodesOf g).filter (fun nh => d.usesPort nh p)
    d.markSegment nhs (d.segAt d.bpPhase) 1 (match nhs with | [nh] => nh | _ => 0x3FFF) g
  else d

/-- Effect of TRANSIENT_REPORT: the pins of port `p` up to eight samples after the end of a blanked run. -/
def transientReportEffect (p : Nat) (pins : PinRuns) (d : Dev) : Dev :=
  let g := portGroup p
  let len := pinLen pins - 8
  let n0 := d.tb.n - pinLen pins
  let ss := d.convertAll p n0 (pinSpans 0 pins)
  if !d.dev.clocked ∨ !bit d.present (portQuad p) then d
  else match d.blankedRun p n0 len ss with
    | none => d
    | some r =>
      if r.1 < d.fld (Reg.ccTran g) 31 16 ∨ r.2 * 64 < d.fld (Reg.ccTran g) 5 0 * 131071 then d
      else (d.noteSamples p n0 len ss (d.blankSpans p n0 ss)).transient p (n0 + len - 1)

/-- TRANSIENT_REPORT. -/
def execTransientReport (p : Fin 128) (pins : PinRuns) (s : State) : Host.Outcome State Fault Refusal :=
  run (transientReportEffect p pins) s

end Sys2Proof.Machine
end

