-- ==== Sys2Proof/Machine/Audit.lean ====
section
/-! DEFINITION. The conservation identities and AUDIT (17 R422-R424). Items are counted where they stand; the other terms are
the counts kept with pools, rings, groups and queues. -/

namespace Sys2Proof.Machine

/-! ### Cells where they stand -/

/-- The pools behind the cells of some MSDUs. -/
def poolsOf (ms : List Msdu) : List Pool := ms.flatMap (fun m => m.blocks.map (fun b => b.pool))

/-- The pools behind every cell that group `g` holds: its broadcasts, its nodes' MSDUs and reassemblies, received MSDUs that
wait for delivery or for a forward, chains that wait with their grant. -/
def Dev.poolsAt (d : Dev) (g : Nat) : List Pool :=
  let ns := d.nodes.filter (fun e => decide (e.2.grp = g))
  poolsOf (d.group g).bq ++ ns.flatMap (fun e => poolsOf (e.2.live ++ e.2.heldq)) ++
    ns.flatMap (fun e => match e.2.reasm with | some r => r.parts.map (fun p => p.2.2) | none => []) ++
    (d.group g).rxq.flatMap (fun m => m.cells) ++
    (d.fwdWait.filter (fun w => decide (w.grp = g))).flatMap (fun w => w.msdu.cells) ++
    (d.ring (d.dataRing g 0)).grant

/-- Cells of group `g`. -/
def Dev.cellsOf (d : Dev) (g : Nat) : Nat := ((d.poolsAt g).filter (fun p => decide (p ≠ .rsv))).length
/-- Cells of the device reserve. -/
def Dev.reserveCells (d : Dev) : Nat :=
  (List.range 32).foldl (fun n g => n + ((d.poolsAt g).filter (fun p => decide (p = .rsv))).length) 0

/-! ### Items where they stand -/

/-- Every MSDU in the device. -/
def Dev.allMsdus (d : Dev) : List Msdu := d.msdusWhere (fun _ => true)

/-- Items of submission ring `k` in the device. -/
def Dev.itemsOf (d : Dev) (k : Nat) : Nat :=
  let owed := ((d.ring (k + 1)).owed.filter (fun b => decide (byteAt b 6 ≠ 0x30))).length
  owed + (if k = 0 then (d.cmds.filter (fun c => c.report)).length
          else if ringSlot k % 4 = 0 then (d.allMsdus.filter (fun m => m.fromRing (fun r => decide (r = k)))).length
          else (d.group (ringGroup k)).rxPool.length)

/-- Downlink MSDUs of a group with a sequence number that have not completed. -/
def Dev.unacked (d : Dev) (g : Nat) : Nat :=
  (d.allMsdus.filter (fun m => decide (m.grp = g) && m.sentOnce && !m.bcast)).length

/-! ### The identities (17 Table QC.3) -/

/-- One entry of the result block: identity, instance, left and right side. -/
structure AuditEntry where
  ident : Nat
  inst  : Nat
  left  : Int
  right : Int
  deriving DecidableEq, Repr

/-- Identity 1. -/
def Dev.audit1 (d : Dev) : AuditEntry :=
  { ident := 1, inst := 0, left := cellsTotal
    right := (d.freeCells + (List.range 32).foldl (fun n g => n + d.cellsOf g) 0 + d.reserveCells : Nat) }
/-- Identity 2. -/
def Dev.audit2 (d : Dev) (g : Nat) : AuditEntry :=
  { ident := 2, inst := g, left := d.cellsOf g, right := (d.group g).quota + (d.group g).borrowed }
/-- Identity 3. -/
def Dev.audit3 (d : Dev) (g : Nat) : AuditEntry :=
  { ident := 3, inst := g, left := d.quotaOf g, right := d.quotaFree g + (d.group g).quota }
/-- Identity 4. -/
def Dev.audit4 (d : Dev) : AuditEntry := { ident := 4, inst := 0, left := d.sharedInt, right := d.sharedFree + d.borrowedAll }
/-- Identity 5. -/
def Dev.audit5 (d : Dev) : AuditEntry :=
  { ident := 5, inst := 0, left := d.reserve, right := (d.reserve - d.ques.rsv : Nat) + d.reserveCells }
/-- Identity 6 on submission ring `k`. -/
def Dev.audit6 (d : Dev) (k : Nat) : AuditEntry :=
  let r := d.ring k
  { ident := 6, inst := k, left := r.consumed, right := r.completed + d.itemsOf k + r.flushed + r.faulted }
/-- Identity 7. -/
def Dev.audit7 (d : Dev) (g : Nat) : AuditEntry :=
  { ident := 7, inst := g, left := (d.group g).seqGiven, right := (d.group g).seqDone + d.unacked g }
/-- Identity 8: an MSDU whose forward waits for cells is resident. -/
def Dev.audit8 (d : Dev) (g : Nat) : AuditEntry :=
  let x := d.group g
  { ident := 8, inst := g, left := x.rxPassed
    right := x.rxGiven + x.rxForw + x.rxUsed + x.rxDropped +
      (x.rxq.length + (d.fwdWait.filter (fun w => decide (w.grp = g))).length : Nat) }
/-- Identity 9. -/
def Dev.audit9 (d : Dev) (q : Nat) : AuditEntry :=
  if q ≤ 10 then
    let x := d.lossy q
    { ident := 9, inst := q, left := x.produced
      right := x.consumed + x.overwritten + x.flushed + x.faulted + x.items.length }
  else
    let x := d.acct q
    { ident := 9, inst := q, left := x.produced, right := x.consumed + x.flushed + x.faulted + d.resident q }

/-- The data rings with offset 0 or 2 that serve the groups, in ascending key order. -/
def Dev.submissionRings (d : Dev) : List Nat :=
  let vf := fun (g : Nat) => d.vfEn && decide (g < d.numVfs)
  ((List.range 32).filter (fun g => !vf g) ++ (List.range 32).filter vf).flatMap (fun g => [d.dataRing g 0, d.dataRing g 2])

/-- The entries of a scope, in the order of Table QC.3. -/
def Dev.auditEntries (d : Dev) (scope : Nat) : List AuditEntry :=
  if scope = 0xFFFF then
    let gs := List.range 32
    d.audit1 :: gs.map d.audit2 ++ gs.map d.audit3 ++ [d.audit4, d.audit5] ++ (0 :: d.submissionRings).map d.audit6 ++
      gs.map d.audit7 ++ gs.map d.audit8 ++ ((List.range 113).filter queueListed).map d.audit9
  else
    let g := scope
    [d.audit2 g, d.audit3 g, d.audit6 (d.dataRing g 0), d.audit6 (d.dataRing g 2), d.audit7 g, d.audit8 g,
     d.audit9 (16 + g), d.audit9 (48 + g), d.audit9 (80 + g)]

/-- Whether an entry fails. -/
def AuditEntry.fails (e : AuditEntry) : Bool := decide (e.left ≠ e.right)

/-- The 32 bytes of an entry. -/
def AuditEntry.bytes (e : AuditEntry) : List Byte :=
  fit 32 (leBytes 2 e.ident ++ leBytes 2 e.inst ++ leBytes 4 (b2n e.fails) ++ leBytes 8 (unsigned 64 e.left) ++
    leBytes 8 (unsigned 64 e.right))

/-- The result block (17 Table QC.5). -/
def auditBlock (mpt scope : Nat) (es : List AuditEntry) : List Byte :=
  fit 64 (leBytes 6 mpt ++ leBytes 2 scope ++ leBytes 2 es.length ++ leBytes 2 (es.filter AuditEntry.fails).length) ++
    es.flatMap AuditEntry.bytes

/-- Effect of AUDIT: the terms as they stand at its start; a failing identity is an internal fault (21 Table MR.4). -/
def auditEffect : CmdDesc → Dev → Dev :=
  command { CmdSpec.plain 0x50 with needR := true, m2 := 0xFFFF } always
    (fun _ c => decide (c.n2 = 0xFFFF ∨ c.n2 < 32))
    (fun id c d =>
      let es := d.auditEntries c.n2
      let bad := es.filter AuditEntry.fails
      let block := auditBlock d.mpt c.n2 es
      match bad with
      | [] => d.finishBlock id stOk (quints es.length 0 0 0 0) block
      | e :: _ =>
        let d := d.finishBlock id stInternal (quints es.length bad.length 0 0 0) block
        let d := (d.faultClass 0x0C).event 0x0003 stInternal c.n2 (leBytes 2 e.ident ++ leBytes 8 (unsigned 64 (e.left - e.right)))
        if d.flag Reg.mntCtrl 16 then d.critical 1 else d)

/-- AUDIT. -/
def execAudit (d : CmdDesc) (s : State) : Host.Outcome State Fault Refusal := run (auditEffect d) s

end Sys2Proof.Machine
end

