-- ==== Sys2Proof/Machine/RingFault.lean ====
section
/-! DEFINITION. Faults of rings and queues: the forced reset and what it leaves (15 R387, 17 R420-R421, R425). -/

namespace Sys2Proof.Machine

/-! ### Items lost -/

/-- The MSDUs that a predicate holds for leave their queues as faulted: cells and credits return, a sequence number is
accounted for, a procedure of the device's own goes on as without an acknowledgement. -/
def Dev.loseMsdu (d : Dev) (m : Msdu) : Dev :=
  let d := d.freePools m.grp (m.blocks.map (fun b => b.pool))
  let d := if m.sentOnce ∧ !m.bcast then d.modGroup m.grp (fun g => { g with seqDone := g.seqDone + 1 }) else d
  let d := match m.queue with
    | none => d
    | some q => d.modAcct q (fun a => { a with faulted := a.faulted + 1 })
  if m.isOwn then d.ownDone m stNoAck else d

/-- Remove MSDUs from every queue they stand in, without ending them. -/
def Dev.removeWhere (d : Dev) (hit : Msdu → Bool) : Dev :=
  let gs := d.groups.map (fun (e : Nat × Group) => (e.1, { e.2 with bq := e.2.bq.filter (fun m => !hit m) }))
  let ns := d.nodes.map (fun (e : Nat × Node) => (e.1, e.2.drop hit))
  { d with groups := gs, nodes := ns }

/-- The MSDUs that a predicate holds for are lost. -/
def Dev.loseWhere (d : Dev) (hit : Msdu → Bool) : Dev :=
  let gone := d.msdusWhere hit
  gone.foldl (fun d m => d.loseMsdu m) (d.removeWhere hit)

/-- Count `n` items of submission ring `k` as lost: their reservations are released, and one error completion tells of them
(17 R421). -/
def Dev.errorCompletion (d : Dev) (k n : Nat) : Dev :=
  let idx := (d.ring k).devIdx
  let ct := if k = 0 then 3 else if ringSlot k % 4 = 0 then 1 else 2
  let bs := completionBytes 0 idx.toNat stQueueFault ct (leBytes 4 n)
  let d := d.modRing k (fun r => { r with faulted := r.faulted + n })
  match (d.ring (k + 1)).st with
  | .disabled => d
  | st =>
    let d := d.modRing (k + 1) (fun r => { r with rsvd := r.rsvd - n + 1, owed := r.owed ++ [bs] })
    if st = .fault then d else d.payOwed (k + 1)

/-- Completions owed for items of submission ring `k`: those items have completed and are not lost. -/
def Dev.owedFor (d : Dev) (k : Nat) : Nat := ((d.ring (k + 1)).owed.filter (fun b => decide (byteAt b 6 ≠ 0x30))).length

/-- Every outstanding command that still owes a completion is lost; what it began runs on. -/
def Dev.loseCommands (d : Dev) : Dev :=
  let n := (d.cmds.filter (fun c => c.report)).length
  ({ d with cmds := d.cmds.filter (fun c => !c.report) }).modAcct 12 (fun a => { a with faulted := a.faulted + n })

/-- The items that submission ring `k` has in the device are lost. -/
def Dev.loseItems (d : Dev) (k : Nat) : Dev :=
  if k = 0 then d.loseCommands
  else if ringSlot k % 4 = 0 then (d.dropChain k).loseWhere (fun m => m.fromRing (fun r => decide (r = k)))
  else d.modGroup (ringGroup k) (fun x => { x with rxPool := [] })

/-! ### Rings (15 R387) -/

/-- Ring `k` enters FAULT. A submission ring is reset: the items it has in the device are lost and one error completion is
written. A completion ring keeps what falls due, a record ring its queue. -/
def Dev.ringFault (d : Dev) (k : Nat) : Dev :=
  let sub := decide (ringClass k = .submission)
  let n := if sub then (d.ring k).resident - d.owedFor k else 0
  let d := if sub then d.loseItems k else d
  let d := d.modRing k (fun r => { r with st := .fault, err := BitVec.ofNat 8 stQueueFault })
  let d := if sub then d.errorCompletion k n else d
  (d.count 39 7 5 none n).event 0x0601 stQueueFault k (leBytes 4 n)

/-! ### Queues (17 R420, R421) -/

/-- The rings of the chains among some MSDUs. -/
def ringsOf (ms : List Msdu) : List Nat :=
  ms.foldl (fun l m => match m.origin with | .host r _ _ => if l.contains r then l else l ++ [r] | _ => l) []

/-- MSDUs of a HOLDING queue are lost with an error completion to each ring they came from. -/
def Dev.loseQueue (d : Dev) (q : Nat) (hit : Msdu → Bool) : Dev :=
  let ms := d.msdusWhere (fun m => hit m && decide (m.queue = some q))
  let d := d.loseWhere (fun m => hit m && decide (m.queue = some q))
  (ringsOf ms).foldl (fun d k =>
    d.errorCompletion k (ms.filter (fun m => m.fromRing (fun r => decide (r = k)))).length) d

/-- A received MSDU that waits for delivery is lost; identity 8 counts it as dropped. -/
def Dev.loseReceived (d : Dev) (g : Nat) : Dev :=
  let l := (d.group g).rxq
  let d := l.foldl (fun d m => d.freePools g m.cells) d
  let d := d.modGroup g (fun x => { x with rxq := [], rxDropped := x.rxDropped + l.length })
  d.modAcct (48 + g) (fun a => { a with faulted := a.faulted + l.length })

/-- The switching operations in the device queue are lost with their commands. -/
def Dev.loseSwo (d : Dev) : Dev :=
  let n := d.swo.length
  let ids := d.swo.map (fun o => o.cmd)
  let lost := (d.cmds.filter (fun c => c.report && ids.contains c.id)).length
  let d := { d with swo := [], cmds := d.cmds.filter (fun c => !ids.contains c.id) }
  let d := d.modAcct 11 (fun a => { a with faulted := a.faulted + n })
  let d := d.modAcct 12 (fun a => { a with faulted := a.faulted + ids.length })
  if lost = 0 then d else d.errorCompletion 0 lost

/-- The items of queue `q` are lost. -/
def Dev.emptyQueue (d : Dev) (q : Nat) : Dev :=
  if q ≤ 10 then
    d.modLossy q (fun x => { x with items := [], hw := 0, faulted := x.faulted + x.items.length })
  else if q = 11 then d.loseSwo
  else if q = 12 then
    let n := (d.cmds.filter (fun c => c.report)).length
    let d := d.loseCommands
    if n = 0 then d else d.errorCompletion 0 n
  else if 48 ≤ q ∧ q < 80 then d.loseReceived (q - 48)
  else d.loseQueue q (fun _ => true)

/-- Effect of QUEUE_POINTER_FAULT: the two copies of a ring's or a queue's pointers disagree. -/
def queuePointerFaultEffect (t : PtrTarget) (d : Dev) : Dev :=
  if !d.dev.live then d
  else
    match t with
    | .ring fn slot =>
      let k := ringKey fn slot
      if !d.slotServed fn slot ∨ (d.ring k).st = .disabled ∨ (d.ring k).st = .fault then d
      else (d.raise .que 2).ringFault k
    | .queue q =>
      if !queueListed q then d
      else
        let n := d.resident q
        let d := (d.raise .que 2).emptyQueue q
        ((d.count 39 7 5 none n).event 0x0601 stQueueFault (0x8000 + q) (leBytes 4 n)).mark q

/-- QUEUE_POINTER_FAULT. -/
def execQueuePointerFault (tgt : PtrTarget) (s : State) : Host.Outcome State Fault Refusal :=
  run (queuePointerFaultEffect tgt) s

end Sys2Proof.Machine
end

