-- ==== Sys2Proof/Machine/Doorbell.lean ====
section
/-! DEFINITION. Doorbell polls, status pages, messages and the draining of LOSSY queues (15 R371-R375, R386-R389; 17 R411). -/

namespace Sys2Proof.Machine

/-! ### Enabling and disabling a ring (15 R373, R374) -/

/-- The least entry of a record ring: events 64 bytes, a measurement record rounded up to 64, derived records 896, trace
records 64, capture records 4,096 (15 Table HR.3, 13 R342, 16 R403, R406, 20 R470). -/
def Dev.recordNeed (d : Dev) (slot : Nat) : Nat :=
  if slot = 2 then 64
  else if 3 ≤ slot ∧ slot ≤ 10 then (16 + 4 * (d.setInputs (slot - 3)).length + 63) / 64 * 64
  else if slot = 11 then 896
  else if slot = 12 then 64
  else 4096

/-- Whether an enable is accepted. -/
def Dev.enableOk (d : Dev) (f slot : Nat) (s : DbSlot) : Bool :=
  let k := ringKey f slot
  let size := s.esz.toNat * 16
  d.slotServed f slot && decide (3 ≤ s.lg.toNat ∧ s.lg.toNat ≤ 16) &&
    (match ringClass k with
     | .submission => decide (size = 32) && decide ((d.ring (k + 1)).st = .enabled)
     | .completion => decide (size = 16)
     | .record => decide (d.recordNeed slot ≤ size ∧ size % 64 = 0)) &&
    decide (s.vec.toNat = 255 ∨ s.vec.toNat < fnVectors f)

/-- The device takes the slot's fields and its own index; the terms of identity 6 start with what is resident (17 R422). A
completion ring keeps its reservations, and what is owed to it is written from now on (15 R387). -/
def Dev.takeSlot (d : Dev) (k : Nat) (s : DbSlot) : Dev :=
  let left := (d.ring k).resident
  let d := d.modRing k (fun r => { r with
    st := .enabled, base := BitVec.ofNat 64 (s.base.toNat / 64 * 64), lg := s.lg.toNat, vec := s.vec.toNat
    esz := s.esz.toNat, modCnt := s.modCnt.toNat, modUs := s.modUs.toNat, hostIdx := s.idx, devIdx := s.idx, err := 0
    unsig := 0, msgDue := false, consumed := left, completed := 0, flushed := 0, faulted := 0 })
  if ringClass k = .completion then d.payOwed k else d

/-- A change of `EN` to 1. -/
def Dev.enableRing (d : Dev) (f slot : Nat) (s : DbSlot) : Dev :=
  let k := ringKey f slot
  if d.enableOk f slot s then d.takeSlot k s else d.modRing k (fun r => { r with err := BitVec.ofNat 8 stInvalid })

/-- Whether nothing holds a completion ring: its submission ring is not enabled and has no items in the device. -/
def Dev.unpaired (d : Dev) (k : Nat) : Bool :=
  decide ((d.ring (k - 1)).st ≠ .enabled ∧ (d.ring (k - 1)).resident = 0 ∧ (d.ring k).owed = [])

/-- A change of `EN` to 0. -/
def Dev.disableRing (d : Dev) (k : Nat) : Dev :=
  match ringClass k with
  | .submission => (d.dropChain k).modRing k (fun r => { r with st := .disabled })
  | .record => d.modRing k (fun r => { r with st := .disabled })
  | .completion =>
    if d.unpaired k then d.modRing k (fun r => { r with st := .disabled })
    else d.modRing k (fun r => { r with st := match r.st with | .enabled => .stopping | x => x })

/-! ### A poll (15 R372, R373, R387) -/

/-- One pass over the slots: the changes of `EN` to `on` on rings that a predicate holds for. -/
def Dev.enPass (d : Dev) (f : Nat) (on : Bool) (hit : RingClass → Bool) (l : List (Nat × DbSlot)) : Dev :=
  l.foldl (fun d x =>
    let k := ringKey f x.1
    if x.2.en = on ∧ (d.ring k).lastEn ≠ on ∧ hit (ringClass k) then
      (if on then d.enableRing f x.1 x.2 else d.disableRing k).modRing k (fun r => { r with lastEn := on })
    else d) d

/-- The host index of a ring as read: a ring fault where it moved backwards, stands too far, or leads to a read of entries
that fails; else it takes effect. -/
def Dev.takeIdx (d : Dev) (k : Nat) (s : DbSlot) : Dev :=
  let r := d.ring k
  if !r.takes then d
  else
    let back := decide (2 ^ 31 ≤ (s.idx - r.hostIdx).toNat)
    let sub := decide (ringClass k = .submission)
    let far := decide (r.size < (if sub then s.idx - r.devIdx else r.devIdx - s.idx).toNat)
    if back ∨ far then d.ringFault k
    else
      let d := d.modRing k (fun r => { r with hostIdx := s.idx })
      if sub && s.rdErr && decide (0 < (d.ring k).waiting) then (d.reportAer (ringFn k)).ringFault k
      else if ringClass k = .completion ∧ r.owed ≠ [] then d.payOwed k
      else d

/-- A page access fails (15 R388). -/
def Dev.pageFault (d : Dev) (f : Nat) : Dev :=
  (d.modFn f (fun x => { x with pageFault := true, lastErr := BitVec.ofNat 8 stPageFault })).raise .hif 0

/-- The slots of a doorbell page as the device handles them: the three passes over `EN`, then the indices. -/
def Dev.pollSlots (d : Dev) (f : Nat) (l : List (Nat × DbSlot)) : Dev :=
  let d := d.enPass f true (fun c => decide (c ≠ .submission)) l
  let d := (d.enPass f true (fun c => decide (c = .submission)) l).enPass f false (fun c => decide (c = .submission)) l
  let d := d.enPass f false (fun c => decide (c ≠ .submission)) l
  l.foldl (fun d x => d.takeIdx (ringKey f x.1) x.2) d

/-- Effect of DOORBELL_POLL: due while the function is active, served and has Bus Master Enable. The slots of rings that the device state
does not serve are read and not acted upon: a change in one is seen by the first poll that serves it. -/
def doorbellPollEffect (f : Nat) (slots : Option (List DbSlot)) (d : Dev) : Dev :=
  if !((d.fn f).active && d.served f && (d.fn f).bme) then d
  else match slots with
    | none => (d.reportAer f).pageFault f
    | some l => d.pollSlots f (((List.range (fnSlots f)).zip l).filter (fun x => d.ringServed f x.1))

/-- DOORBELL_POLL. -/
def execDoorbellPoll (fn : Fin 34) (slots : Option (List DbSlot)) (s : State) : Host.Outcome State Fault Refusal :=
  run (doorbellPollEffect fn slots) s

/-- Effect of RING_STOPPING_END. A completion ring in FAULT whose `EN` was seen at 0 ends in the same way. -/
def ringStoppingEndEffect (f slot : Nat) (d : Dev) : Dev :=
  let k := ringKey f slot
  let r := d.ring k
  if ringClass k = .completion ∧ d.unpaired k ∧ (r.st = .stopping ∨ (r.st = .fault ∧ !r.lastEn)) then
    d.modRing k (fun r => { r with st := .disabled })
  else d

/-- RING_STOPPING_END. -/
def execRingStoppingEnd (fn : Fin 34) (slot : Fin 128) (s : State) : Host.Outcome State Fault Refusal :=
  run (ringStoppingEndEffect fn slot) s

/-! ### Status pages and messages (15 R375, R386) -/

/-- Effect of STATUS_PAGE_WRITE: due while the slot's content differs from what was last written, or a message waits for
it. -/
def statusPageWriteEffect (f slot : Nat) (ok : Bool) (d : Dev) : Dev :=
  let k := ringKey f slot
  if !(d.fn f).active ∨ fnSlots f ≤ slot ∨ (d.statusBytes k = (d.ring k).shown ∧ !(d.ring k).msgDue) then d
  else if ok then d.writeStatus k
  else d.pageFault f

/-- STATUS_PAGE_WRITE. -/
def execStatusPageWrite (fn : Fin 34) (slot : Fin 128) (ok : Bool) (s : State) : Host.Outcome State Fault Refusal :=
  run (statusPageWriteEffect fn slot ok) s

/-- Effect of MSIX_MODERATION_EXPIRY: `MOD_US` have passed since the first entry not yet signalled. The message follows the
status-page write that accounts for the entries (15 R375). -/
def msixModerationExpiryEffect (f slot : Nat) (d : Dev) : Dev :=
  let k := ringKey f slot
  let r := d.ring k
  if r.st = .disabled ∨ r.vec = 255 ∨ r.unsig = 0 ∨ d.clk < r.unsigAt + usClk r.modUs then d
  else
    let d := d.modRing k (fun r => { r with unsig := 0 })
    if d.statusBytes k = r.shown then d.message f r.vec else d.modRing k (fun r => { r with msgDue := true })

/-- MSIX_MODERATION_EXPIRY. -/
def execMsixModerationExpiry (fn : Fin 34) (slot : Fin 128) (s : State) : Host.Outcome State Fault Refusal :=
  run (msixModerationExpiryEffect fn slot) s

/-- Whether a function answers on the bus: outside OFF, and a VF while VF Enable and NumVFs give it. -/
def Dev.fnExists (d : Dev) (f : Nat) : Bool :=
  decide (d.dev ≠ .off) && (decide (f < 2) || (d.vfEn && decide (f - 2 < d.numVfs)))

/-- Effect of MSIX_UNMASK: the mask bit of a table entry is cleared, and a message held pending is sent once. -/
def msixUnmaskEffect (f v : Nat) (d : Dev) : Dev :=
  if !d.fnExists f ∨ fnVectors f ≤ v then d
  else if f = 0 then
    if d.flag (Reg.msixTable v 3) 0 then (d.setFld (Reg.msixTable v 3) 0 0 0).unmask 0 v else d
  else
    (d.modFn f (fun x => if x.unmasked.contains v then x else { x with unmasked := v :: x.unmasked })).unmask f v

/-- MSIX_UNMASK. -/
def execMsixUnmask (fn : Fin 34) (vec : Fin 128) (s : State) : Host.Outcome State Fault Refusal := run (msixUnmaskEffect fn vec) s

/-! ### LOSSY queues (17 R411) -/

/-- Effect of LOSSY_QUEUE_DRAIN: the oldest item goes to the queue's record ring while that has a free entry. -/
def lossyQueueDrainEffect (q : Nat) (d : Dev) : Dev :=
  let k := lossyRing q
  if !d.ringServed 0 k ∨ (d.ring k).st ≠ .enabled ∨ (d.ring k).freeEntries = 0 then d
  else match (d.lossy q).items with
    | [] => d
    | item :: rest =>
      let d := d.modLossy q (fun x => { x with items := rest, hw := 0, consumed := x.consumed + 1 })
      (d.writeEntry k item).mark q

/-- LOSSY_QUEUE_DRAIN. -/
def execLossyQueueDrain (q : Fin 11) (s : State) : Host.Outcome State Fault Refusal := run (lossyQueueDrainEffect q) s

/-! ### Functions (15 R366, R368, R389) -/

/-- Effect of FN_ENABLE: the page addresses are taken as the anchor then holds them, and `ACTIVE` is set. -/
def fnEnableEffect (f : Nat) (dbp stp : BitVec 64) (d : Dev) : Dev :=
  if !d.fnExists f ∨ (d.fn f).en then d
  else
    let page := fun (x : BitVec 64) => BitVec.ofNat 64 (x.toNat / 4096 * 4096)
    d.modFn f (fun x => { x with dbp := page dbp, stp := page stp, en := true, active := true, dbpOn := page dbp,
                                 stpOn := page stp })

/-- FN_ENABLE. -/
def execFnEnable (fn : Fin 34) (dbp stp : BitVec 64) (s : State) : Host.Outcome State Fault Refusal :=
  run (fnEnableEffect fn dbp stp) s

/-- Effect of FN_DISABLE: on the function's rings as an FLR; the rest of its configuration space stays. -/
def fnDisableEffect (f : Nat) (d : Dev) : Dev :=
  if !d.fnExists f ∨ !(d.fn f).en then d
  else (d.flrRings f).modFn f (fun x => { x with en := false, active := false })

/-- FN_DISABLE. -/
def execFnDisable (fn : Fin 34) (s : State) : Host.Outcome State Fault Refusal := run (fnDisableEffect fn) s

/-- Effect of VF_ENABLE_CHANGE: to 1, the PF1 rings of the groups that the VFs take are disabled; to 0, every VF undergoes
FLR. -/
def vfEnableChangeEffect (en : Bool) (n : Nat) (d : Dev) : Dev :=
  if d.dev = .off ∨ en = d.vfEn then d
  else if en then
    let d := d.flrData (fun k => decide (ringFn k = 1 ∧ ringSlot k / 4 < min n 32))
    { d with vfEn := true, numVfs := min n 32 }
  else { (iter 32 (fun i d => d.flrOne (2 + i)) d) with vfEn := false, numVfs := 0 }

/-- VF_ENABLE_CHANGE. -/
def execVfEnableChange (en : Bool) (numVfs : Nat) (s : State) : Host.Outcome State Fault Refusal :=
  run (vfEnableChangeEffect en numVfs) s

/-- Effect of BUS_MASTER_ENABLE_CHANGE: polls stop while it is 0; writes held meanwhile are made in their order when it
returns. -/
def busMasterEnableChangeEffect (f : Nat) (en : Bool) (d : Dev) : Dev :=
  if !d.fnExists f ∨ (d.fn f).bme = en then d
  else if en then
    let held := (d.fn f).held
    held.foldl (fun d w => d.post w.1 w.2) (d.modFn f (fun x => { x with bme := true, held := [] }))
  else d.modFn f (fun x => { x with bme := false })

/-- BUS_MASTER_ENABLE_CHANGE. -/
def execBusMasterEnableChange (fn : Fin 34) (en : Bool) (s : State) : Host.Outcome State Fault Refusal :=
  run (busMasterEnableChangeEffect fn en) s

end Sys2Proof.Machine
end

