-- ==== Sys2Proof/Machine/Chains.lean ====
section
/-! DEFINITION. Transmit chains, receive buffers and the delivery of received MSDUs (15 R376-R385). -/

namespace Sys2Proof.Machine

/-! ### Transmit chains (15 R378-R380) -/

/-- Whether descriptors are one chain: it ends at the first `CHAIN` 0 or after 16 descriptors. -/
def chainWhole (l : List TxDesc) : Bool :=
  match l.reverse with
  | [] => false
  | last :: rest => decide (l.length ≤ 16) && rest.all (fun x => x.chain) && (!last.chain || decide (l.length = 16))

/-- Check 1 of Table HR.8: DATA first, BUF after it, at most 16 descriptors. -/
def chainForm (l : List TxDesc) : Bool :=
  match l with
  | [] => false
  | x :: rest => decide (x.dt = 1) && rest.all (fun y => decide (y.dt = 2)) && (l.getLast?.map (fun y => !y.chain)).getD false

/-- Check 2: `LEN` from 1 to 16,352. -/
def lenOk (n : Nat) : Bool := decide (1 ≤ n ∧ n ≤ 16352)

/-- Check 4: the handle names a node of the ring's group that takes MSDUs (15 R367). -/
def Dev.nodeServed (d : Dev) (g nh : Nat) : Bool := decide ((d.node nh).grp = g) && (d.node nh).st.reachable

/-- The checks of Table HR.8 that need no payload: the status of the first that fails. -/
def Dev.chainShape (d : Dev) (g : Nat) (x : TxDesc) (l : List TxDesc) : Option Nat :=
  if !chainForm l then some stDesc
  else if !lenOk x.len.toNat then some stLen
  else if (l.map (fun y => y.blen.toNat)).foldl (· + ·) 0 < x.len.toNat then some stLenShort
  else if !x.bcast && !d.nodeServed g x.nh.toNat then some stNoNode
  else none

/-- The checks of Table HR.8 on a chain whose payload read ends as `payload`: the status of the first that fails. -/
def Dev.chainFault (d : Dev) (g : Nat) (x : TxDesc) (l : List TxDesc) (payload : List Byte) : Option Nat :=
  match d.chainShape g x l with
  | some st => some st
  | none => if x.hcv && decide (crc32c (payload.take x.len.toNat) ≠ x.hcrc.toNat) then some stHcrc else none

/-- The status bit that a rejection sets. -/
def rejectBit (st : Nat) : Nat := if st = stHcrc then 3 else if st = stLen ∨ st = stLenShort then 2 else 1

/-- Whether a chain is sent with protection (11 R293). -/
def Dev.chainProt (d : Dev) (x : TxDesc) : Bool := !x.bcast && (x.enc || d.encReq x.nh.toNat)

/-- Cells that a chain asks for: none where its descriptors or its length already reject it. -/
def Dev.chainCells (d : Dev) (x : TxDesc) (l : List TxDesc) : Nat :=
  if chainForm l && lenOk x.len.toNat then bodyPbs (d.chainProt x) x.len.toNat else 0

/-- The pools of the chain at the head of ring `k`: granted before, granted now, or none while it waits (17 R416). -/
def Dev.chainGrant (d : Dev) (k g : Nat) (x : TxDesc) (n : Nat) : Option (List Pool) × Dev :=
  let held := (d.ring k).grant
  if n = 0 then (some [], d.dropChain k)
  else if held.length = n then (some held, d.modRing k (fun r => { r with grant := [] }))
  else
    let d := if held = [] then d else d.dropChain k
    d.request (if !x.bcast ∧ (d.node x.nh.toNat).st = .dormant then 3 else 4) g n (.chain k)

/-- A chain is rejected: its cells return and its completion tells the status. -/
def Dev.rejectChain (d : Dev) (k g : Nat) (x : TxDesc) (idx : BitVec 32) (pools : List Pool) (clid : Option Nat) (st : Nat) :
    Dev :=
  let d := (d.freePools g pools).raise .hif (rejectBit st)
  let d := d.trace clid 0x10 st d.mpt (TraceInfo.of x.nh.toNat g)
  let d := d.complete k (completionBytes x.cookie.toNat idx.toNat st 1 (leBytes 4 0 ++ leBytes 2 x.nh.toNat ++ [0, 0]))
  d.trace clid 0x14 st d.mpt (TraceInfo.of x.nh.toNat g)

/-- A chain is accepted: the MSDU joins its node's queue or the group's broadcasts, or is held for a DORMANT node. -/
def Dev.acceptChain (d : Dev) (k g : Nat) (x : TxDesc) (idx : BitVec 32) (payload : List Byte) (pools : List Pool)
    (clid : Option Nat) : Dev :=
  let nh := if x.bcast then 0 else x.nh.toNat
  let m := newMsdu d.nextId (.host k idx x.cookie) false nh g x.bcast x.ftag.toNat x.enc (d.chainProt x)
    (payload.take x.len.toNat) pools clid
  let d := { d with nextId := d.nextId + 1 }
  let d := d.trace clid 0x10 stOk d.mpt { TraceInfo.of nh g with pbn := m.n }
  let d := d.produced m.queue
  if x.bcast then (d.modGroup g (fun y => { y with bq := y.bq ++ [m] })).markGroup g
  else if (d.node nh).st = .dormant then
    if d.mayHold nh pools.length then d.hold m else (d.raise (.dn g) 31).endMsdu m stHeldFull true
  else (d.modNode nh (fun y => { y with txq := y.txq ++ [m] })).markGroup g

/-- A chain whose cells are granted: its TXC entry is reserved, the consumer index passes it, it is judged. -/
def Dev.takeChain (d : Dev) (k g : Nat) (x : TxDesc) (l : List TxDesc) (payload : List Byte) (pools : List Pool) : Dev :=
  let idx := (d.ring k).devIdx
  let d := d.modRing k (fun r => { r with devIdx := r.devIdx + BitVec.ofNat 32 l.length, consumed := r.consumed + 1 })
  let d := d.modRing (k + 1) (fun r => { r with rsvd := r.rsvd + 1 })
  let c := d.clave g
  match c.2.chainFault g x l payload with
  | some st => c.2.rejectChain k g x idx pools c.1 st
  | none => c.2.acceptChain k g x idx payload pools c.1

/-- Whether ring `k` may hand over its next descriptors: a submission ring in use, and an entry of its completion ring to
reserve. -/
def Dev.mayTake (d : Dev) (f slot : Nat) : Bool :=
  let k := ringKey f slot
  d.slotServed f slot && decide (d.dev = .run) && decide ((d.ring k).st = .enabled) && decide (0 < (d.ring k).waiting) &&
    (d.ring (k + 1)).takes && decide (0 < (d.ring (k + 1)).freeEntries)

/-- Effect of CHAIN_FETCH on a TX ring. A read of a descriptor or of the payload that fails is a ring fault (15 R364, R387). -/
def chainFetchEffect (f slot : Nat) (descs : Option (List TxDesc)) (payload : List Byte) (d : Dev) : Dev :=
  let k := ringKey f slot
  let g := ringGroup k
  if f = 0 ∨ slot % 4 ≠ 0 ∨ !d.mayTake f slot then d
  else match descs with
    | none => (d.reportAer f).ringFault k
    | some [] => d
    | some (x :: rest) =>
      let l := x :: rest
      if !chainWhole l ∨ (d.ring k).waiting < l.length then d
      else
        let p := d.chainGrant k g x (d.chainCells x l)
        match p.1 with
        | none => p.2
        | some pools =>
          if (p.2.chainShape g x l).isNone ∧ payload.length < x.len.toNat then
            ((p.2.freePools g pools).reportAer f).ringFault k
          else p.2.takeChain k g x l payload pools

/-- CHAIN_FETCH. -/
def execChainFetch (fn : Fin 34) (slot : Fin 128) (descs : Option (List TxDesc)) (payload : List Byte) (s : State) :
    Host.Outcome State Fault Refusal := run (chainFetchEffect fn slot descs payload) s

/-! ### Receive buffers (15 R383) -/

/-- The status a receive descriptor completes with at once, where it does. -/
def rxDescFault (x : RxDesc) : Option Nat :=
  if x.dt ≠ 3 then some stDesc
  else if x.blen.toNat % 64 ≠ 0 ∨ x.blen.toNat < 1024 ∨ 65472 < x.blen.toNat then some stLen
  else none

/-- Effect of RX_BUFFER_TAKE on an RXP ring. -/
def rxBufferTakeEffect (f slot : Nat) (desc : Option RxDesc) (d : Dev) : Dev :=
  let k := ringKey f slot
  if f = 0 ∨ slot % 4 ≠ 2 ∨ !d.mayTake f slot then d
  else match desc with
    | none => (d.reportAer f).ringFault k
    | some x =>
      let idx := (d.ring k).devIdx
      let d := d.modRing k (fun r => { r with devIdx := r.devIdx + 1, consumed := r.consumed + 1 })
      let d := d.modRing (k + 1) (fun r => { r with rsvd := r.rsvd + 1 })
      match rxDescFault x with
      | some st =>
        let d := if st = stLen then d.raise .hif 2 else d
        d.complete k (completionBytes x.cookie.toNat idx.toNat st 2 [])
      | none =>
        d.modGroup (ringGroup k) (fun y => { y with rxPool := y.rxPool ++
          [({ addr := x.addr, blen := x.blen.toNat, idx := idx, cookie := x.cookie } : RxBuf)] })

/-- RX_BUFFER_TAKE. -/
def execRxBufferTake (fn : Fin 34) (slot : Fin 128) (desc : Option RxDesc) (s : State) : Host.Outcome State Fault Refusal :=
  run (rxBufferTakeEffect fn slot desc) s

/-! ### Delivery (15 R384, R385) -/

/-- The pool buffers that a stream of `n` bytes fills, each with the part it takes. -/
def cutStream : List Byte → List RxBuf → List (RxBuf × List Byte)
  | _, [] => []
  | s, b :: bs => if s = [] then [] else (b, s.take b.blen) :: cutStream (s.drop b.blen) bs

/-- The chunk of the frame body that byte `i` of a received MSDU lies in (11 Table LR.1). -/
def RxMsdu.chunkOf (m : RxMsdu) (i : Nat) : Nat := (4 + 8 * b2n m.encd + i) / 512

/-- The MSDU as read for delivery: bytes from a faulty cell are delivered as read, whatever they are, and the fault is
reported (18 Table IN.2; log 3). -/
def Dev.readForHost (d : Dev) (g : Nat) (m : RxMsdu) : List Byte × Dev :=
  match m.faulty with
  | [] => (m.data, d)
  | x :: _ =>
    let bad := fun (i : Nat) => m.faulty.any (fun y => decide (y.1 = m.chunkOf i))
    let bytes := (m.data.zip (List.range m.data.length)).map (fun (y : Byte × Nat) =>
      if bad y.2 then BitVec.ofNat 8 (Config.freeWord (d.freeCtr + y.2)).toNat else y.1)
    let d := { d with freeCtr := d.freeCtr + m.data.length }
    (bytes, (d.count 39 7 2 none 1).faultEvent 0x01 x.2 g 0)

/-- Whether the MSDU can start delivery. -/
def Dev.deliverable (d : Dev) (g : Nat) (m : RxMsdu) : Bool :=
  decide (d.dev = .run ∧ (d.ring (d.dataRing g 3)).st = .enabled) &&
    decide (m.data.length + 4 ≤ (((d.group g).rxPool.map (fun b => b.blen)).foldl (· + ·) 0))

/-- The completion of buffer `i` of `n` (15 Table HR.9). -/
def rxCompletion (m : RxMsdu) (n i : Nat) (b : RxBuf) (used : Nat) : List Byte :=
  completionBytes b.cookie.toNat b.idx.toNat (if m.failed then stFwdFail else stOk) 2
    (leBytes 2 used ++ leBytes 2 m.data.length ++ leBytes 2 m.nh ++ leBytes 1 m.ftag ++
      leBytes 1 (64 * b2n (decide (i + 1 < n)) + 32 * b2n m.encd + 16 * b2n m.copy + i % 16))

/-- A received MSDU leaves the head of its group's queue: its cells return. -/
def Dev.rxLeaves (d : Dev) (g : Nat) (m : RxMsdu) (st : Nat) : Dev :=
  let d := (d.modGroup g (fun x => { x with rxq := x.rxq.drop 1 })).freePools g m.cells
  let d := d.modAcct (48 + g) (fun a => { a with consumed := a.consumed + 1 })
  (d.trace m.clid 0x04 st d.mpt { TraceInfo.of m.nh g with seq := m.seq }).markGroup g

/-- Effect of RX_DELIVERY; `cells` names chunks of the MSDU whose cell the read finds faulty, each with the cell (18 R430). -/
def rxDeliveryEffect (g : Nat) (cells : List (Nat × Nat)) (d : Dev) : Dev :=
  match (d.group g).rxq with
  | [] => d
  | m :: _ =>
    if !d.deliverable g m then d
    else
      let k := d.dataRing g 2
      let p := d.readForHost g { m with faulty := m.faulty ++ cells.filter (fun x => decide (x.1 < m.cells.length)) }
      let d := p.2
      -- the check is the one computed when the MSDU was checked, over the bytes as they were (18 Table IN.1)
      let cut := cutStream (p.1 ++ leBytes 4 (crc32c m.data)) (d.group g).rxPool
      let d := d.modGroup g (fun x => { x with rxPool := x.rxPool.drop cut.length, rxGiven := x.rxGiven + 1 })
      let d := (cut.zip (List.range cut.length)).foldl (fun d x =>
        (d.hostWrite (ringFn k) x.1.1.addr.toNat x.1.2).complete k (rxCompletion m cut.length x.2 x.1.1 x.1.2.length)) d
      d.rxLeaves g m (if m.failed then stFwdFail else stOk)

/-- RX_DELIVERY. -/
def execRxDelivery (g : Fin 32) (cells : List (Nat × Nat)) (s : State) : Host.Outcome State Fault Refusal :=
  run (rxDeliveryEffect g cells) s

/-- The event RX_DROP of a beacon period that has ended: its count, at the MPT of the first drop (16 R407). -/
def Dev.postDrops (d : Dev) (g : Nat) : Dev :=
  let x := d.group g
  if x.dropCount = 0 ∨ x.dropBp = d.msync.bpi then d
  else (d.modGroup g (fun x => { x with dropCount := 0 })).eventAt x.dropMpt 0x0306 stRxDrop g (leBytes 2 x.dropCount)

/-- One more drop of this beacon period; the event of an earlier one goes first. -/
def Dev.noteDrop (d : Dev) (g : Nat) : Dev :=
  (d.postDrops g).modGroup g (fun x =>
    if x.dropCount = 0 then { x with dropCount := 1, dropMpt := d.mpt, dropBp := d.msync.bpi }
    else { x with dropCount := x.dropCount + 1 })

/-- Effect of RX_HOLD_EXPIRY. -/
def rxHoldExpiryEffect (g : Nat) (d : Dev) : Dev :=
  match (d.group g).rxq with
  | [] => d
  | m :: _ =>
    if !d.dev.clocked ∨ d.deliverable g m ∨ d.clk < m.at_ + usClk (d.fld Reg.hifRxhold 15 0) then d
    else
      let d := (d.modRing (d.dataRing g 3) (fun r => { r with loss := r.loss + 1 })).raise .hif 4
      let d := (d.noteDrop g).modGroup g (fun x => { x with rxDropped := x.rxDropped + 1 })
      d.rxLeaves g m stRxDrop

/-- RX_HOLD_EXPIRY. -/
def execRxHoldExpiry (g : Fin 32) (s : State) : Host.Outcome State Fault Refusal := run (rxHoldExpiryEffect g) s

/-! ### Discards of a beacon period (16 R407) -/

/-- Effect of RX_DROP: due at the end of a beacon period with drops. -/
def rxDropEffect (g : Nat) (d : Dev) : Dev := d.postDrops g

/-- RX_DROP. -/
def execRxDrop (g : Fin 32) (s : State) : Host.Outcome State Fault Refusal := run (rxDropEffect g) s

/-- Effect of LINK_DISCARD: the discards of a node under one status in a beacon period that has ended. -/
def linkDiscardEffect (nh st : Nat) (d : Dev) : Dev :=
  match (d.node nh).disc.find? (fun x => decide (x.st = st ∧ x.bp ≠ d.msync.bpi)) with
  | none => d
  | some x =>
    (d.modNode nh (fun n => { n with disc := n.disc.filter (fun y => decide (y ≠ x)) })).eventAt x.mpt 0x0304 st nh
      (leBytes 2 x.count)

/-- LINK_DISCARD. -/
def execLinkDiscard (nh : Fin 16384) (st : BitVec 8) (s : State) : Host.Outcome State Fault Refusal :=
  run (linkDiscardEffect nh st.toNat) s

end Sys2Proof.Machine
end

