-- ==== Sys2Proof/Machine/Device.lean ====
section
/-! DEFINITION. Device states: power, reset, boot, critical faults, the start, stop and reset commands
(01 R30-R32; 19 R445-R448; 21 R481-R488; 22 R492-R504). -/

namespace Sys2Proof.Machine

/-! ### VIN (22 R492-R494) -/

/-- Effect of VIN_VALID: a start after a brown-out counts as a level-3 event where what was kept is intact; else it is a
power cycle. -/
def vinValidEffect (mv : Nat) (checkOk : Bool) (d : Dev) : Dev :=
  if d.dev ≠ .off ∨ d.pwr.vinOk then d
  else
    let kept := checkOk && !d.pwr.lost
    let d := if kept then { d with pwr := { d.pwr with cause := 3, l3 := (d.pwr.l3 + 1) % 65536 } } else d.loseRetained
    { d with dev := .boot, pwr := { d.pwr with vinOk := true, vin := mv, lost := false, v33 := .up } }

/-- VIN_VALID. -/
def execVinValid (mv : Nat) (checkOk : Bool) (s : State) : Host.Outcome State Fault Refusal := run (vinValidEffect mv checkOk) s

/-- Effect of BROWN_OUT: drivers off, outputs in high impedance, the link down, OFF; nothing is written for items in the
device. -/
def brownOutEffect (d : Dev) : Dev :=
  if d.dev = .off then d
  else
    let d := d.resetDie
    { d with pwr := { d.pwr with vinOk := false, perst := false, v33 := .off } }

/-- BROWN_OUT. -/
def execBrownOut (s : State) : Host.Outcome State Fault Refusal := run brownOutEffect s

/-- Effect of POWER_CYCLE: VIN has stayed below 1 V for 100 ms. -/
def powerCycleEffect (d : Dev) : Dev :=
  if d.dev ≠ .off then d
  else
    let d := d.loseRetained
    { d with pwr := { d.pwr with lost := true } }

/-- POWER_CYCLE. -/
def execPowerCycle (s : State) : Host.Outcome State Fault Refusal := run powerCycleEffect s

/-- Effect of V33_OVERCURRENT (22 R497). -/
def v33OvercurrentEffect (d : Dev) : Dev :=
  if d.pwr.v33 = .up then ({ d with pwr := { d.pwr with v33 := .tripped, v33At := d.clk } }).setFld Reg.pwrStat 4 4 1 else d

/-- V33_OVERCURRENT. -/
def execV33Overcurrent (s : State) : Host.Outcome State Fault Refusal := run v33OvercurrentEffect s

/-- Effect of V33_RETRY, 100 ms after the output went off: it comes back; it switches off once more where the overload lasts. -/
def v33RetryEffect (overload : Bool) (d : Dev) : Dev :=
  if d.pwr.v33 ≠ .tripped ∨ d.clk < d.pwr.v33At + usClk 100000 then d
  else if overload then ({ d with pwr := { d.pwr with v33At := d.clk } }).setFld Reg.pwrStat 4 4 1
  else { d with pwr := { d.pwr with v33 := .up } }

/-- V33_RETRY. -/
def execV33Retry (overload : Bool) (s : State) : Host.Outcome State Fault Refusal := run (v33RetryEffect overload) s

/-! ### PERST# and the boot (22 R498-R501, 19 R445-R447) -/

/-- Effect of PERST_FALL: a device reset in CONFIG, RUN and SAFE; in BOOT the ROM stops before its first step. -/
def perstFallEffect (d : Dev) : Dev :=
  let low := fun (d : Dev) => { d with pwr := { d.pwr with perst := false, sysref := false, training := false, width := 0,
                                                           speed := 0 } }
  match d.dev with
  | .off => d
  | .boot =>
    let d := low d
    { d with sec := { d.sec with rom := .held }, pwr := { d.pwr with cause := if d.pwr.cause = 2 then 1 else d.pwr.cause } }
  | _ => low (d.level3 1)

/-- PERST_FALL. -/
def execPerstFall (s : State) : Host.Outcome State Fault Refusal := run perstFallEffect s

/-- Reset is released: every port's `DERATE` is that of VIN at this moment (03 Table LP.10), and the boot ROM begins. -/
def Dev.releaseReset (d : Dev) (io : BootIo) : Dev :=
  ((List.range 128).foldl (fun d p => d.modPort p (fun x => { x with derate := d.derateFor p d.pwr.vin })) d).startRom io

/-- Effect of PERST_RISE: BOOTSEL is latched, link training starts, the boot ROM begins. -/
def perstRiseEffect (bootsel : BitVec 2) (io : BootIo) (d : Dev) : Dev :=
  if d.dev ≠ .boot ∨ d.pwr.perst then d
  else
    let d := { d with pwr := { d.pwr with perst := true, bootsel := bootsel.toNat, training := true } }
    d.releaseReset io

/-- PERST_RISE. -/
def execPerstRise (bootsel : BitVec 2) (io : BootIo) (s : State) : Host.Outcome State Fault Refusal :=
  run (perstRiseEffect bootsel io) s

/-- What leaving BOOT starts: MPT at 0, the modulator clocks, the derived chains, the outputs at their idle levels
(02 R38, 13 R329, R343, 14 R349). -/
def Dev.leaveBoot (d : Dev) (st : DevState) : Dev :=
  let d := { d with tb := { Timebase.init with freq := d.nomFreq }, meas := { d.meas with clocks := true, start := d.clk }, swoHiZ := false, swoLvl := d.swoIdle
                    sec := { d.sec with rom := .done } }
  d.setDev st 3

/-- Effect of BOOT_COMPLETE: the image's log entries, `TRIAL`, CONFIG. -/
def bootCompleteEffect (d : Dev) : Dev :=
  match d.dev, d.sec.rom with
  | .boot, .verified _ =>
    let d := { d with sec := { d.sec with log := d.sec.log ++ imageLog d.sec.area, trial := d.commitDueImg } }
    d.leaveBoot .config
  | _, _ => d

/-- BOOT_COMPLETE. -/
def execBootComplete (s : State) : Host.Outcome State Fault Refusal := run bootCompleteEffect s

/-- Effect of BOOT_FAIL: SAFE with the ROM's own service alone. -/
def bootFailEffect (d : Dev) : Dev :=
  match d.dev, d.sec.rom with
  | .boot, .failed => ({ d with sec := { d.sec with restricted := true } }).leaveBoot .safe
  | _, _ => d

/-- BOOT_FAIL. -/
def execBootFail (s : State) : Host.Outcome State Fault Refusal := run bootFailEffect s

/-- The widths x16, x8 and x4 and the speeds 8, 16 and 32 GT/s, as `HIF_LINK` codes them (00 R2). -/
def linkOk (width speed : Nat) : Bool := decide (width ∈ [1, 4, 8]) && decide (speed ∈ [3, 4, 5])

/-- Effect of PCIE_LINK_TRAINED (22 R500). -/
def pcieLinkTrainedEffect (width speed : Nat) (d : Dev) : Dev :=
  if d.dev ≠ .off ∧ d.pwr.training ∧ linkOk width speed then { d with pwr := { d.pwr with training := false, width := width, speed := speed } }
  else d

/-- PCIE_LINK_TRAINED. -/
def execPcieLinkTrained (width : BitVec 4) (speed : BitVec 3) (s : State) : Host.Outcome State Fault Refusal :=
  run (pcieLinkTrainedEffect width.toNat speed.toNat) s

/-! ### Critical faults (21 R481-R483) -/

/-- Effect of WATCHDOG_EXPIRY: a core has not served its watchdog for `ms` milliseconds. -/
def watchdogExpiryEffect (core ms : Nat) (d : Dev) : Dev :=
  if d.dev.live ∧ d.fld Reg.mntCtrl 15 0 ≤ ms then (d.faultEvent 0x09 core 0xFF 0).critical 1 else d

/-- WATCHDOG_EXPIRY. -/
def execWatchdogExpiry (core : Fin 4) (ms : BitVec 16) (s : State) : Host.Outcome State Fault Refusal :=
  run (watchdogExpiryEffect core ms.toNat) s

/-- Effect of CLOCK_LOSS: a PLL or SYSREF loses lock; the core PLL's loss shows in `SYSREF_OK` (22 R498). -/
def clockLossEffect (core : Bool) (d : Dev) : Dev :=
  if d.dev.live then
    (({ d with pwr := { d.pwr with sysref := d.pwr.sysref && !core } }).faultEvent 0x0A 0 0xFF 0).critical 1
  else d

/-- CLOCK_LOSS. -/
def execClockLoss (core : Bool) (s : State) : Host.Outcome State Fault Refusal := run (clockLossEffect core) s

/-- Effect of CRIT_MEM_FAULT. -/
def critMemFaultEffect (addr : Nat) (grp : Option (Fin 32)) (d : Dev) : Dev :=
  if d.dev.live then (d.faultEvent 0x05 addr (match grp with | some g => g.val | none => 0xFF) 0).critical 1 else d

/-- CRIT_MEM_FAULT. -/
def execCritMemFault (addr : BitVec 32) (grp : Option (Fin 32)) (s : State) : Host.Outcome State Fault Refusal :=
  run (critMemFaultEffect addr.toNat grp) s

/-- The shutdown limit of a sensor (22 R504). -/
def shutdownLimit (n : Nat) : Int := if n < 4 then 125 else 120

/-- Effect of THERMAL_SHUTDOWN: a sensor reaches its limit. -/
def thermalShutdownEffect (n : Nat) (temp : Int) (d : Dev) : Dev :=
  if d.dev = .off then d
  else
    let before := d.pwr.temps.getD n 0
    let d := d.setTemp n temp
    if !d.dev.live ∨ temp < shutdownLimit n ∨ (shutdownLimit n ≤ before ∧ d.pwr.thermal) then d
    else
      let d := { d with pwr := { d.pwr with thermal := true } }
      (d.faultEvent 0x0B 0 0xFF (unsigned 8 temp)).critical 2

/-- THERMAL_SHUTDOWN. -/
def execThermalShutdown (n : Fin 8) (temp : Int) (s : State) : Host.Outcome State Fault Refusal :=
  run (thermalShutdownEffect n temp) s

/-- Effect of TALERT_RELEASE: every sensor is read; the alert ends 5 degrees below its threshold, and a boot held for
cooling goes on at 100 degrees. -/
def talertReleaseEffect (temps : List Int) (d : Dev) : Dev :=
  if d.dev = .off then d
  else
    let d := { d with pwr := { d.pwr with temps := temps } }
    let d := if temps.all (fun t => decide (t ≤ d.talertTh - 5)) then { d with pwr := { d.pwr with talert := false } } else d
    match d.sec.rom with
    | .cooling io => if d.dev = .boot ∧ d.pwr.perst then d.startRom io else d
    | _ => d

/-- TALERT_RELEASE. -/
def execTalertRelease (temps : List Int) (s : State) : Host.Outcome State Fault Refusal := run (talertReleaseEffect temps) s

/-! ### Start, stop and reset commands (01 R31, 16 R405, 21 R485) -/

/-- The boundary set differs from the one in force at the previous RUN: every key with an ACTIVE copy is marked (02 R55). -/
def Dev.markBounds (d : Dev) : Dev :=
  if d.segPrev ≠ [] ∧ d.segPrev ≠ d.segSet then d.markStale (d.activeKeys (fun _ _ _ => true)) 2 0x3FFF 0xFF 3 0xFF else d

/-- Effect of DEV_START. -/
def devStartEffect : CmdDesc → Dev → Dev :=
  command (CmdSpec.plain 0x01) always always (fun id _ d =>
    let d := (d.setDev .run 0).markBounds
    ({ d with segPrev := d.segSet }.beginCommit).finishSt id stOk)

/-- DEV_START. -/
def execDevStart (d : CmdDesc) (s : State) : Host.Outcome State Fault Refusal := run (devStartEffect d) s

/-- Effect of DEV_STOP. -/
def devStopEffect : CmdDesc → Dev → Dev :=
  command (CmdSpec.plain 0x02) always always (fun id _ d => (d.endRun.setDev .config 0).finishSt id stOk)

/-- DEV_STOP. -/
def execDevStop (d : CmdDesc) (s : State) : Host.Outcome State Fault Refusal := run (devStopEffect d) s

/-- Every other outstanding command completes with ST_FLUSHED (16 R405). -/
def Dev.flushCommands (d : Dev) (but : Nat) : Dev :=
  let d := d.swo.foldl (fun d o => d.endSwo o stFlushed) d
  (d.cmds.filter (fun c => decide (c.id ≠ but))).foldl (fun d c => d.finishSt c.id stFlushed) d

/-- The status page of PF0 is brought up to date. -/
def Dev.refreshStatus (d : Dev) : Dev :=
  (List.range 14).foldl (fun d k =>
    if (d.fn 0).active && decide (d.statusBytes k ≠ (d.ring k).shown) then d.writeStatus k else d) d

/-- Effect of DEV_RESET: the other commands are flushed, the completion is written and shown, and recovery level 3 begins;
PERST# stays high, so the boot ROM works through R445 at once. -/
def devResetEffect (c : CmdDesc) (io : BootIo) : Dev → Dev :=
  command { CmdSpec.plain 0x03 with m2 := 0xFFFF } always (fun _ c => decide (c.n2 = 3)) (fun id _ d =>
    let d := ((d.flushCommands id).finishSt id stOk).refreshStatus
    let d := d.level3 2
    let d := { d with pwr := { d.pwr with training := d.pwr.perst } }
    if d.pwr.perst then d.releaseReset io else d) c

/-- DEV_RESET. -/
def execDevReset (d : CmdDesc) (io : BootIo) (s : State) : Host.Outcome State Fault Refusal := run (devResetEffect d io) s

/-- The function that FN_RESET names (16 Table CE.3). -/
def fnNamed (a2 : Nat) : Option Nat :=
  if a2 = 1 then some 1 else if 0x100 ≤ a2 ∧ a2 < 0x120 then some (2 + (a2 - 0x100)) else none

/-- Effect of FN_RESET. -/
def fnResetEffect : CmdDesc → Dev → Dev :=
  command { CmdSpec.plain 0x04 with m2 := 0xFFFF } always (fun _ c => (fnNamed c.n2).isSome) (fun id c d =>
    (d.flr ((fnNamed c.n2).getD 1)).finishSt id stOk)

/-- FN_RESET. -/
def execFnReset (d : CmdDesc) (s : State) : Host.Outcome State Fault Refusal := run (fnResetEffect d) s

/-- Effect of FLR (21 R485); the functions answer configuration requests outside OFF. A VF exists while VF Enable is 1. -/
def flrEffect (f : Nat) (d : Dev) : Dev :=
  if d.dev = .off ∨ (2 ≤ f ∧ !(d.vfEn && decide (f - 2 < d.numVfs))) then d else d.flr f

/-- FLR. -/
def execFlr (fn : Fin 34) (s : State) : Host.Outcome State Fault Refusal := run (flrEffect fn) s

end Sys2Proof.Machine
end

