-- ==== Sys2Proof/Machine/Receive.lean ====
section
/-! DEFINITION. Received frames: what becomes of their blocks, reassembly, the receive checks, delivery, forwarding, polls (08 R197, R207; 11
R282, R289-R300; 12 R311-R318), and credits granted to those that wait (17 R416). -/

namespace Sys2Proof.Machine

/-! ### Blocks into a reassembly (11 R279, R282; 17 R415) -/

/-- Whether a good block stands against what is held for its MSDU (11 R279). -/
def Reasm.fits (r : Reasm) (pb : List Byte) : Bool :=
  r.parts.isEmpty || decide (pbLast pb = r.last ∧ pbBase pb = r.base)

/-- A block joins a reassembly: whether it is reported good. One already held is; one without a cell is not. -/
def Dev.takeBlock (d : Dev) (g : Nat) (r : Reasm) (pb : List Byte) : Bool × Dev × Reasm :=
  if !pbGood pb || !r.fits pb then (false, d, r)
  else if r.parts.any (fun x => decide (x.1 = pbIdx pb)) then (true, d, r)
  else match d.takeRx g with
    | none => (false, d.raise .que 0, r)
    | some (pool, d) =>
      (true, d, { r with last := pbLast pb, base := pbBase pb, parts := r.parts ++ [(pbIdx pb, pbBody pb, pool)] })

/-- A block of a frame is counted good or bad (20 Table CT.1, 11 Table LR.6). -/
def Dev.countPb (d : Dev) (g : Nat) (nh : Option Nat) (good : Bool) : Dev :=
  if good then d.count g 7 4 none 1
  else
    let d := d.count g 7 5 none 1
    match nh with | some h => d.nodeCount h 1 1 | none => d

/-- The blocks of a frame in their order: the bitmap and what becomes of the reassembly. -/
def Dev.takeBlocks (d : Dev) (g : Nat) (nh : Option Nat) (r : Reasm) (pbs : List (List Byte)) : Nat × Dev × Reasm :=
  (pbs.zip (List.range pbs.length)).foldl (fun (x : Nat × Dev × Reasm) (y : List Byte × Nat) =>
    let t := x.2.1.takeBlock g x.2.2 y.1
    (x.1 + b2n t.1 * 2 ^ y.2, t.2.1.countPb g nh t.1, t.2.2)) (0, d, r)

/-- The blocks of a duplicate: judged for the ACK alone (11 R291, R292). -/
def Dev.dupBlocks (d : Dev) (g : Nat) (nh : Option Nat) (pbs : List (List Byte)) : Nat × Dev :=
  (pbs.zip (List.range pbs.length)).foldl (fun (x : Nat × Dev) (y : List Byte × Nat) =>
    (x.1 + b2n (pbGood y.1) * 2 ^ y.2, x.2.countPb g nh (pbGood y.1))) (0, d)

/-- The pools of a reassembly's cells in the order of its blocks. -/
def Reasm.pools (r : Reasm) : List Pool :=
  (List.range 32).flatMap (fun i => (r.parts.filter (fun x => decide (x.1 = i))).map (fun x => x.2.2))

/-- The frame body of a reassembly. -/
def Reasm.body (r : Reasm) : List Byte :=
  (List.range (r.last + 1)).flatMap (fun i => match r.parts.find? (fun x => decide (x.1 = i)) with | some x => x.2.1 | none => [])

/-- Whether every block is held. -/
def Reasm.whole (r : Reasm) : Bool := !r.parts.isEmpty && decide (r.parts.length = r.last + 1)

/-! ### The receive checks (11 R290-R294) -/

/-- Whether `SEQ` `s` is new (11 R291). -/
def Node.seqNew (n : Node) (s : Nat) : Bool :=
  let dist := (s + 4096 - n.rxSeq) % 4096
  !n.rxValid || decide (1 ≤ dist ∧ dist ≤ 2047)

/-- `SEQ` `s` is recorded as received (11 R291). -/
def Node.seqMark (n : Node) (s : Nat) : Node :=
  let dist := (s + 4096 - n.rxSeq) % 4096
  let back := (n.rxSeq + 4096 - s) % 4096
  if !n.rxValid then { n with rxSeq := s, rxMap := 1, rxValid := true }
  else if 1 ≤ dist ∧ dist ≤ 2047 then { n with rxSeq := s, rxMap := (n.rxMap * 2 ^ dist + 1) % 2 ^ 64 }
  else if back < 64 then { n with rxMap := setBit n.rxMap back }
  else n

/-- Whether frame counter `v` is accepted (11 R294). -/
def Node.fcNew (n : Node) (v : Nat) : Bool := decide (n.rxFc < v) || (decide (n.rxFc - v < 64) && !bit n.rxFcMap (n.rxFc - v))

/-- Frame counter `v` is accepted (11 R294). -/
def Node.fcMark (n : Node) (v : Nat) : Node :=
  if n.rxFc < v then { n with rxFc := v, rxFcMap := (n.rxFcMap * 2 ^ min 64 (v - n.rxFc) + 1) % 2 ^ 64 }
  else { n with rxFcMap := setBit n.rxFcMap (n.rxFc - v) }

/-- The outcome of the checks on a reassembled MSDU: a failure in the order of Table LR.5, the two discards of relaying (R295,
R297), or the plaintext. -/
inductive Verdict where
  | check | len | dup | stray | hops | auth | replay
  | pass (data : List Byte)
  deriving DecidableEq, Repr

/-- `LEN` of a body. -/
def bodyLen (body : List Byte) : Nat := leAt body 0 2

/-- Open a protected body with a key, none where the tag does not fit (11 R293). -/
def openBody (body key : List Byte) (orig final : Nat) : Option (List Byte) :=
  let sec := bytesAt body 4 8
  let cipher := bytesAt body 12 (bodyLen body)
  let iv := gcmIv (leAt body 4 6) true (bits (byteAt body 10) 0 0)
  let aad := body.take 4 ++ sec ++ leBytes 2 orig ++ leBytes 2 final
  if gcmTag key iv aad cipher = bytesAt body (12 + bodyLen body) 16 then some (gcmCrypt key iv cipher) else none

/-- Checks 4 to 6, with the policy, keys and counter window of the originating node. -/
def Dev.openChecked (d : Dev) (origin : Option Nat) (r : Reasm) (body : List Byte) : Verdict :=
  let need := match origin with | some h => d.encReq h | none => false
  if !r.enc && !need then .pass (bytesAt body 4 (bodyLen body))
  else match (if r.enc then origin.bind (fun h => (d.node h).keyOf (bits (byteAt body 10) 0 0)) else none), origin with
    | some key, some h =>
      if !(d.node h).fcNew (leAt body 4 6) then .replay
      else match openBody body key r.orig r.final with | some x => .pass x | none => .auth
    | _, _ => .auth

/-- The checks of Table LR.5 in their order; those of relaying stand before protection. `hop` is the neighbour, none for an
unsequenced frame; `origin` the node that `ORIG` names. -/
def Dev.verdict (d : Dev) (hop origin : Option Nat) (r : Reasm) (faulty : Bool) : Verdict :=
  let body := r.body
  if faulty || !bodyCheck body then .check
  else if bodyPbs r.enc (bodyLen body) ≠ r.last + 1 then .len
  else if (match hop with | some h => !(d.node h).seqNew r.seq | none => false) then .dup
  else if hop.isSome && origin.isNone then .stray
  else if r.hop = 7 ∧ r.final ≠ 0 ∧ r.final ≠ 1023 then .hops
  else d.openChecked origin r body

/-- The status under which an outcome is traced and discarded. -/
def Verdict.st : Verdict → Nat
  | .check => stInternal | .len => stLen | .dup => stDup | .stray => stNoNode | .hops => stNoNode | .auth => stAuth
  | .replay => stReplay | .pass _ => stOk

/-- A discard is counted against the neighbour (11 R290). -/
def Dev.discard (d : Dev) (g : Nat) (hop : Option Nat) (st : Nat) (bit count : Option Nat) : Dev :=
  let d := match bit with | some b => d.raise (.lr g) b | none => d
  match hop with
  | none => d
  | some h =>
    let d := match count with | some i => d.nodeCount h i 1 | none => d
    d.noteDiscard h st

/-- `SEQ` is recorded as received. -/
def Dev.recordSeq (d : Dev) (hop : Option Nat) (s : Nat) : Dev :=
  match hop with | some h => d.modNode h (fun n => n.seqMark s) | none => d

/-- Failure of check 1: an internal fault (21 Table MR.4 class CHECK); found at a faulty cell it is a cell fault too (18 Table
IN.2). -/
def Dev.checkFault (d : Dev) (g : Nat) (hop : Option Nat) (s : Nat) (cell : Option Nat) : Dev :=
  let d := match cell with | some c => (d.count 39 7 2 none 1).faultEvent 0x01 c g 0 | none => d
  let d := (d.raise (.lr g) 3).faultClass 0xD
  (d.event 0x0004 stInternal (hop.getD 0) (leBytes 2 s ++ leBytes 1 g)).recordSeq hop s

/-! ### What becomes of an MSDU that passes -/

/-- The codes of messages that a node sends to the device (10 Table GC.8). -/
def msgToDevice (code : Nat) : Bool := [0x01, 0x03, 0x05, 0x07, 0x09, 0x0E].contains code

/-- The messages of a MGMT MSDU that are skipped, with fuel for their number: those whose code is not in `known`, and one that runs
past the end, which ends the reading (10 R261). Messages that can be used have rows of their own (log 17). -/
def msgSkipped (known : Nat → Bool) : Nat → List Byte → Nat
  | 0, _ => 0
  | fuel + 1, bs =>
    if bs = [] then 0
    else
      let len := leAt bs 2 2
      let size := 4 + (len + 3) / 4 * 4
      if bs.length < 4 ∨ bs.length < 4 + len then 1
      else b2n (!known (byteAt bs 0)) + msgSkipped known fuel (bs.drop size)

/-- Skipped messages are counted. -/
def Dev.skipMessages (d : Dev) (known : Nat → Bool) (data : List Byte) : Dev :=
  iter (msgSkipped known 4096 data) (fun _ d => d.skipMessage) d

/-- A received MSDU joins its group's delivery queue (15 R384). -/
def Dev.pushRx (d : Dev) (g : Nat) (m : RxMsdu) : Dev :=
  ((d.modGroup g (fun x => { x with rxq := x.rxq ++ [m] })).modAcct (48 + g) (fun a => { a with produced := a.produced + 1 })).markGroup g

/-- The forwarding entry of a group and tag (11 R299). -/
def Dev.fwdEntry (d : Dev) (g ftag : Nat) : Option FwdEntry :=
  d.fwd.find? (fun e => decide (e.grp = g ∧ e.ftag = ftag))

/-- Blocks of a forwarded body, protected or not, that hold bytes from faulty chunks of the body they came in (18 Table IN.2). -/
def RxMsdu.badBlocks (m : RxMsdu) (prot : Bool) : List (Nat × Nat) :=
  m.faulty.flatMap (fun x =>
    let head := 4 + 8 * b2n m.encd
    let lo := 512 * x.1 - head
    let hi := min m.data.length (512 * (x.1 + 1) - head)
    if hi ≤ lo then []
    else
      let first := (4 + 8 * b2n prot + lo) / 512
      let last := (4 + 8 * b2n prot + hi - 1) / 512
      (List.range (last + 1 - first)).map (fun i => (first + i, x.2)))

/-- A forward becomes a downlink MSDU of the egress node, in cells of its group; the host's copy is an ordinary delivery, and
without one the ingress cells return (11 R299, R410). -/
def Dev.makeForward (d : Dev) (w : FwdWait) (pools : List Pool) : Dev :=
  let prot := d.encReq w.egress
  let m := newMsdu d.nextId (.fwd w.msdu.nh w.grp w.msdu.seq) false w.egress (d.node w.egress).grp false w.msdu.ftag prot prot
    w.msdu.data pools w.msdu.clid
  let m := { m with faulty := w.msdu.badBlocks prot }
  let d := { d with nextId := d.nextId + 1 }
  let d := d.produced m.queue
  let d := if (d.node w.egress).st = .dormant then d.hold m
    else (d.modNode w.egress (fun n => { n with txq := n.txq ++ [m] })).markGroup m.grp
  if w.copy then d.pushRx w.grp w.msdu
  else
    let d := d.trace w.msdu.clid 0x04 stOk d.mpt { TraceInfo.of w.msdu.nh w.grp with seq := w.msdu.seq }
    ((d.freePools w.grp w.msdu.cells).modGroup w.grp (fun x => { x with rxForw := x.rxForw + 1 })).markGroup w.grp

/-- A forward fails before it is made: the MSDU goes to the host with ST_FWD_FAIL (11 R300). -/
def Dev.failForward (d : Dev) (w : FwdWait) : Dev :=
  (d.raise (.lr w.grp) 6).pushRx w.grp { w.msdu with failed := true, copy := false }

/-- An MSDU that passed its checks leaves for its egress node, at once or when cells are granted (01 R29). -/
def Dev.forward (d : Dev) (g : Nat) (m : RxMsdu) (e : FwdEntry) : Dev :=
  let id := d.nextId
  let w : FwdWait := { id := id, egress := e.egress, copy := e.copy, msdu := { m with copy := e.copy }, bp := d.msync.bpi, grp := g }
  let d := { d with nextId := id + 1 }
  if !(d.node e.egress).st.reachable then d.failForward w
  else
    let t := d.request 2 (d.node e.egress).grp (bodyPbs (d.encReq e.egress) m.data.length) (.forward id)
    match t.1 with
    | some pools => t.2.makeForward w pools
    | none => { t.2 with fwdWait := t.2.fwdWait ++ [w] }

/-- An MSDU passes: the windows advance, and it is used, forwarded or delivered (11 R290, R299, 17 Table QC.3). -/
def Dev.passMsdu (d : Dev) (f : RxFrame) (hop origin : Option Nat) (r : Reasm) (data : List Byte) : Dev :=
  let g := f.grp
  let body := r.body
  let d := d.recordSeq hop r.seq
  let d := match origin with | some h => if r.enc then d.modNode h (fun n => n.fcMark (leAt body 4 6)) else d | none => d
  let d := match hop with | some h => d.nodeCount h 0 1 | none => d
  let d := d.modGroup g (fun x => { x with rxPassed := x.rxPassed + 1 })
  if fcFt f.fc = ftMgmt then
    ((((d.freePools g r.pools).modGroup g (fun x => { x with rxUsed := x.rxUsed + 1 })).skipMessages msgToDevice data)).markGroup g
  else
    let ftag := byteAt body 2
    let m : RxMsdu := { nh := origin.getD 0, seq := r.seq, ftag := ftag, data := data, encd := r.enc, copy := false, failed := false
                        cells := r.pools, at_ := d.clk, faulty := [], clid := r.clid }
    match (if ftag ≠ 0 ∧ d.flag (Reg.lrCtrl g) 0 then d.fwdEntry g ftag else none) with
    | some e => d.forward g m e
    | none => d.pushRx g m

/-- Check 6 reads the key slot that a protected body names; where key memory reports an uncorrectable error the slot is lost first. -/
def Dev.readKey (d : Dev) (hop origin : Option Nat) (r : Reasm) (faulty key : Bool) : Dev :=
  match key && r.enc, origin, d.verdict hop origin r faulty with
  | true, some h, .auth | true, some h, .replay | true, some h, .pass _ => d.loseKey h (bits (byteAt r.body 10) 0 0)
  | _, _, _ => d

/-- Judge an MSDU all of whose blocks are held (11 R290). -/
def Dev.judge (d : Dev) (l : Nat) (f : RxFrame) (hop : Option Nat) (r : Reasm) (x : MemFaults) : Dev :=
  let g := f.grp
  let origin := d.bySaddr g r.orig
  let r := { r with faulty := match r.faulty, x.cells with | none, c :: _ => some c.2 | y, _ => y }
  let d := d.readKey hop origin r r.faulty.isSome x.key
  let v := d.verdict hop origin r r.faulty.isSome
  let d := d.traceRx l { f with clid := r.clid } 0x03 v.st d.mpt 0
  let drop := fun (d : Dev) => (d.freePools g r.pools).markGroup g
  match v with
  | .check => drop (d.checkFault g hop r.seq r.faulty)
  | .len => drop ((d.discard g hop stLen none none).recordSeq hop r.seq)
  | .dup => drop (d.discard g hop stDup (some 0) (some 2))
  | .stray => drop (d.modGroup g (fun x => { x with strays := x.strays + 1 }))
  | .hops => drop (d.raise (.lr g) 5)
  | .auth => drop (d.discard g hop stAuth (some 2) (some 4))
  | .replay => drop (d.discard g hop stReplay (some 1) (some 3))
  | .pass data => d.passMsdu f hop origin r data

/-! ### PB_DECODE_DONE (08 R197) -/

/-- An acknowledgement falls due 64 us after a frame's end (11 R282, R283), in the allocation that the frame came in. -/
def Dev.oweAck (d : Dev) (l : Nat) (f : RxFrame) (nh aseq bitmap : Nat) (poll : Bool) : Dev :=
  d.modDec l (fun x =>
    if x.bound.isSome ∧ x.bound = f.alloc ∧ x.grp = f.grp then
      { x with ack := some { gi := f.rx.gi, grp := f.grp, nh := nh, aseq := aseq, bitmap := bitmap
                             due := f.lastSym + postfixLen (d.twCode f.grp) + usSamples 64, poll := poll, clid := f.clid, level := f.rx.level } }
    else x)

/-- A reassembly of one frame that belongs to no sequence. -/
def RxFrame.alone (f : RxFrame) : Reasm :=
  { seq := fcSeq f.fc, last := 0, base := 0, enc := fcEnc f.fc, orig := fcOrig f.fc, final := fcFinal f.fc, hop := fcHop f.fc
    parts := [], clid := f.clid, faulty := none }

/-- The blocks of a DATA or MGMT frame: the bitmap, and what follows where the last of an MSDU has come. -/
def Dev.endMsduFrame (d : Dev) (l : Nat) (f : RxFrame) (pbs : List (List Byte)) (x : MemFaults) : Nat × Dev :=
  let g := f.grp
  if f.blind then (0, d)
  else
    match f.cls, f.nh with
    | .dup, some nh =>
      let t := d.dupBlocks g f.nh pbs
      (t.1, (t.2.discard g (some nh) stDup (some 0) (some 2)).traceRx l f 0x03 stDup d.mpt 0)
    | .none, nh =>
      let t := d.takeBlocks g nh f.alone pbs
      (t.1, if t.2.2.whole then t.2.1.judge l f none t.2.2 x else t.2.1.freePools g t.2.2.pools)
    | _, some nh =>
      match (d.node nh).reasm with
      | none => (0, d)
      | some r =>
        if r.seq ≠ fcSeq f.fc then (0, d)
        else
          let t := d.takeBlocks g f.nh r pbs
          if t.2.2.whole then (t.1, (t.2.1.modNode nh (fun n => { n with reasm := none })).judge l f (some nh) t.2.2 x)
          else (t.1, t.2.1.modNode nh (fun n => { n with reasm := some t.2.2 }))
    | _, none => (0, d)

/-- The oldest frame of a lane that has ended leaves it, once it has been decoded, with its blocks. -/
def Dev.takeEnded (d : Dev) (l : Nat) (p : RxFrame → Bool) : Option (RxFrame × List (List Byte) × Dev) :=
  let d := d.settleLane l
  match (d.dec l).ended with
  | [] => none
  | f :: _ =>
    match f.pbs with
    | some pbs => if d.dev = .run ∧ p f then some (f, pbs, d.modDec l (fun x => { x with ended := x.ended.drop 1 })) else none
    | none => none

/-- Effect of PB_DECODE_DONE: a frame other than a POLL has ended and its blocks are decoded. -/
def pbDecodeDoneEffect (l : Nat) (x : MemFaults) (d : Dev) : Dev :=
  match d.takeEnded l (fun f => decide (fcFt f.fc ≠ ftPoll)) with
  | none => d
  | some (f, pbs, d) =>
    if !carriesMsdu f.fc then d
    else
      let t := d.endMsduFrame l f pbs x
      let d := t.2.traceRx l f 0x02 stOk t.2.mpt 0
      match f.nh with
      | some nh => if fcAckReq f.fc ∧ fcDst f.fc = 0 then d.oweAck l f nh (fcSeq f.fc) t.1 false else d
      | none => d

/-- PB_DECODE_DONE. -/
def execPbDecodeDone (lane : Fin 96) (x : MemFaults) (s : State) : Host.Outcome State Fault Refusal :=
  run (pbDecodeDoneEffect lane.val x) s

/-! ### CREDIT_GRANT, FWD_WAIT_TIMEOUT (17 R416, 11 R300) -/

/-- A forward that waited is granted its cells; where its egress node takes MSDUs no more, it fails. -/
def Dev.grantForward (d : Dev) (id : Nat) (pools : List Pool) : Dev :=
  match d.fwdWait.find? (fun w => decide (w.id = id)) with
  | none => d
  | some w =>
    let d := { d with fwdWait := d.fwdWait.filter (fun x => decide (x.id ≠ id)) }
    if (d.node w.egress).st.reachable then d.makeForward w pools
    else (d.freePools (d.node w.egress).grp pools).failForward w

/-- One waiting request in its turn: granted where the pools cover it and none before it still waits for them. -/
def Dev.serveWaiter (x : Dev × List Waiter) (w : Waiter) : Dev × List Waiter :=
  if x.1.coverable w.grp w.need && !x.1.behind x.2 w.rank w.grp w.need then
    let t := x.1.takeCells w.grp w.need
    (match w.what with
     | .chain k => t.2.modRing k (fun r => { r with grant := t.1 })
     | .forward id => t.2.grantForward id t.1, x.2)
  else (x.1, x.2 ++ [w])

/-- Effect of CREDIT_GRANT: the waiting requests are served in the order of R29, equal ranks as they came. -/
def creditGrantEffect (d : Dev) : Dev :=
  if !d.dev.clocked then d
  else
    let ws := [2, 3, 4].flatMap (fun r => d.ques.waiters.filter (fun w => decide (w.rank = r)))
    let x := ws.foldl Dev.serveWaiter ({ d with ques := { d.ques with waiters := [] } }, [])
    { x.1 with ques := { x.1.ques with waiters := x.2 } }

/-- CREDIT_GRANT. -/
def execCreditGrant (s : State) : Host.Outcome State Fault Refusal := run creditGrantEffect s

/-- Effect of FWD_WAIT_TIMEOUT on the forward with number `id`. -/
def fwdWaitTimeoutEffect (id : Nat) (d : Dev) : Dev :=
  match d.fwdWait.find? (fun w => decide (w.id = id)) with
  | none => d
  | some w =>
    if !d.dev.clocked ∨ bpSince w.bp d.msync.bpi < d.fld (Reg.lrFwd w.grp) 7 0 then d
    else (({ d with fwdWait := d.fwdWait.filter (fun x => decide (x.id ≠ id)) }).dropWaiter (.forward id)).failForward w

/-- FWD_WAIT_TIMEOUT. -/
def execFwdWaitTimeout (id : Nat) (s : State) : Host.Outcome State Fault Refusal := run (fwdWaitTimeoutEffect id) s

/-! ### POLL_RECEIVED (12 R311-R318) -/

/-- Whether a POLL comes in its node's window of this beacon period (12 R311). -/
def Dev.inWindow (d : Dev) (f : RxFrame) (n : Node) (x : Dorm) (arrival : Nat) : Bool :=
  let g := d.pollGuard n x
  decide (n.st = .dormant ∧ x.next % 2 ^ 23 = d.msync.bpi ∧ x.pofs ≤ arrival + g ∧ arrival ≤ x.pofs + g) &&
    (match f.alloc with | some a => decide (a.kind = kindPoll ∧ a.addr = n.saddr) | none => false)

/-- `PBP` of a POLL. -/
def fcPbp (fc : BitVec 128) : Nat := fcField fc 111 96
/-- `WAKE` of a POLL. -/
def fcWake (fc : BitVec 128) : Bool := fcField fc 91 91 = 1

/-- The messages a POLL may carry (12 R313). -/
def msgInPoll (code : Nat) : Bool := [0x03, 0x0E].contains code

/-- The body of an accepted POLL: checks 1 and 2 of Table LR.5, then its messages (12 R313, 17 Table QC.3). -/
def Dev.pollBody (d : Dev) (g nh : Nat) (pb : List Byte) : Dev :=
  let body := pbBody pb
  if !bodyCheck body then d.checkFault g none 0 none
  else if bodyPbs false (bodyLen body) ≠ 1 then d.discard g (some nh) stLen none none
  else
    (d.modGroup g (fun x => { x with rxPassed := x.rxPassed + 1, rxUsed := x.rxUsed + 1 })).skipMessages msgInPoll
      (bytesAt body 4 (bodyLen body))

/-- A sounding waits for a DORMANT node: it is asked to end its dormancy first (12 R318). -/
def Dev.endForSounding (d : Dev) (nh : Nat) : Dev :=
  let n := d.node nh
  let asked := (n.heldq ++ n.live).any (fun m => match m.origin with | .own 0x0B _ _ => true | _ => false)
  if n.st = .dormant ∧ d.sess.any (fun s => decide (s.nh = nh) && !s.done) ∧ !asked then
    (d.sendDormEnd nh 1 none).modNode nh (fun n => { n with regrant := true })
  else d

/-- An accepted POLL: the miss count is 0, the next poll is P on, what is held may be released. -/
def Dev.acceptPoll (d : Dev) (f : RxFrame) (nh : Nat) (x : Dorm) (pb : List Byte) : Dev :=
  let d := d.modNode nh (fun n => { n.lifeWindow with
    dorm := some { x with k := 0, next := (x.next + x.p) % 2 ^ 23 }, pollBp := some d.msync.bpi })
  let d := (d.noteClip nh).pollBody f.grp nh pb
  if fcWake f.fc then d.wake nh else d.endForSounding nh

/-- Effect of POLL_RECEIVED: a POLL has ended on a lane and its block is decoded. One outside its window is not accepted; one whose block is
bad is acknowledged so and not accepted (12 R315). -/
def pollReceivedEffect (l : Nat) (d : Dev) : Dev :=
  match d.takeEnded l (fun f => decide (fcFt f.fc = ftPoll)) with
  | none => d
  | some (f, pbs, d) =>
    match f.nh with
    | none => d
    | some nh =>
      match (d.node nh).dorm with
      | none => d
      | some x =>
        if !d.inWindow f (d.node nh) x f.arrival then d
        else
          let t := d.takeBlocks f.grp (some nh) f.alone (pbs.take 1)
          let d := (t.2.1.freePools f.grp t.2.2.pools).traceRx l f 0x02 stOk d.mpt 0
          let d := if t.1 = 1 then d.acceptPoll f nh x (pbs.headD []) else d
          d.oweAck l f nh (fcPbp f.fc % 4096) t.1 true

/-- POLL_RECEIVED. -/
def execPollReceived (lane : Fin 96) (s : State) : Host.Outcome State Fault Refusal := run (pollReceivedEffect lane.val) s

end Sys2Proof.Machine
end

