-- ==== Sys2Proof/Machine/Security.lean ====
section
/-! DEFINITION. Staging, attestation, link keys and JTAG (16 R404, 19 R450-R458). -/

namespace Sys2Proof.Machine

/-! ### FW_STAGE -/

/-- Bytes of the staging area. -/
def stageSize : Nat := 33554432

/-- Write a chunk into the staging area. -/
def stageWrite (m : List (Nat × Byte)) (a : Nat) : List Byte → List (Nat × Byte)
  | [] => m
  | b :: bs => stageWrite (SMap.set (fun _ => (0 : Byte)) a b m) (a + 1) bs

/-- Effect of FW_STAGE: the last chunk has the staged image verified (19 R443, R444). -/
def fwStageEffect (readFail : Option Nat) : CmdDesc → Dev → Dev :=
  command { CmdSpec.plain 0x60 with len := fun _ n => decide (1 ≤ n ∧ n ≤ 65536), m1 := 2 ^ 32 - 1, m2 := 3, lim2 := 4 }
    always (fun _ c => decide (c.n1 + c.n3 ≤ stageSize))
    (fun id c d =>
      let d := if bit c.n2 0 then { d with sec := { d.sec with stage := [], stageLen := 0, pendImg := false } } else d
      let d := { d with sec := { d.sec with stage := stageWrite d.sec.stage c.n1 c.bytes
                                            stageLen := max d.sec.stageLen (c.n1 + c.n3) } }
      if !bit c.n2 1 then d.finishSt id stOk
      else
        match d.verify d.sec.stageLen (d.stagedSrc readFail) with
        | none => ({ d with sec := { d.sec with pendImg := true } }).finishSt id stOk
        | some code =>
          let d := ({ d with sec := { d.sec with pendImg := false } }).count 40 7 1 none 1
          d.finishSt id (if code = 0x01 ∨ code = 0x09 then stInvalid else stAuth))

/-- FW_STAGE. -/
def execFwStage (d : CmdDesc) (readFail : Option Nat) (s : State) : Host.Outcome State Fault Refusal :=
  run (fwStageEffect readFail d) s

/-! ### ATTEST -/

/-- The signed part of a report (19 Tables SE.7, SE.8). -/
def Dev.reportBody (d : Dev) (nonce : List Byte) : List Byte :=
  let a := d.sec.area
  fit 256 (leBytes 4 0x54415644 ++ leBytes 2 1 ++ leBytes 2 d.sec.log.length ++ fit 32 nonce ++ leBytes 6 d.mpt ++
    leBytes 1 d.dev.code ++ leBytes 1 (d.sec.lifecycle + 16 * b2n d.sec.dbgOpen) ++ devId ++
    leBytes 8 (imgSvn a) ++ leBytes 8 d.sec.arbCtr.toNat ++ leBytes 1 (imgKey a + 16 * d.sec.revoked) ++
    leBytes 1 (d.sec.src + 16 * b2n d.sec.trial) ++ List.replicate 46 0 ++ accumulated d.sec.log) ++
  (d.sec.log.zip (List.range d.sec.log.length)).flatMap (fun x =>
    leBytes 1 x.2 ++ leBytes 1 x.1.1 ++ List.replicate 14 0 ++ fit 64 x.1.2)

/-- 32 random bytes from the TRNG (19 R450, log 3). -/
def Dev.trng (d : Dev) : BitVec 256 × Dev :=
  let a := d.free
  let b := a.2.free
  let c := b.2.free
  let e := c.2.free
  (a.1 ++ b.1 ++ c.1 ++ e.1, e.2)

/-- The report with both signatures. -/
def signedReport (body : List Byte) (rnd : BitVec 256) : List Byte :=
  body ++ edSign idEd body ++ idMl.sign body (leBytes 32 rnd.toNat)

/-- Effect of ATTEST. -/
def attestEffect : CmdDesc → Dev → Dev :=
  command { CmdSpec.plain 0x61 with needR := true, len := fun _ n => decide (n = 32) } always always
    (fun id c d =>
      if d.sec.trngFail then ((d.raise .sec 3).faultEvent 0x07 0 0xFF 0).finishSt id stInternal
      else
        let body := d.reportBody c.bytes
        let t := d.trng
        t.2.finishBlock id stOk (quints (3629 + 80 * d.sec.log.length) 0 0 0 0) (signedReport body t.1))

/-- ATTEST. -/
def execAttest (d : CmdDesc) (s : State) : Host.Outcome State Fault Refusal := run (attestEffect d) s

/-! ### Keys -/

/-- Effect of KEK_SET. -/
def kekSetEffect : CmdDesc → Dev → Dev :=
  command { CmdSpec.plain 0x30 with len := fun _ n => decide (n = 32) } (fun d _ => d.sec.kek.isNone) always
    (fun id c d => ({ d with sec := { d.sec with kek := some c.bytes } }).finishSt id stOk)

/-- KEK_SET. -/
def execKekSet (d : CmdDesc) (s : State) : Host.Outcome State Fault Refusal := run (kekSetEffect d) s

/-- The key that a KEY_LOAD carries: none where unwrapping fails or no key-encryption key is held. -/
def Dev.loadedKey (d : Dev) (c : CmdDesc) : Option (List Byte) :=
  if c.f1 1 1 = 0 then some c.bytes
  else
    match d.sec.kek with
    | none => none
    | some k => unwrapKey k c.bytes

/-- A key enters a slot of a node (19 R454, 11 R294). -/
def Node.takeKey (n : Node) (slot : Nat) (key : List Byte) (makeTx restart : Bool) : Node :=
  let n := if slot = 0 then { n with key0 := some key } else { n with key1 := some key }
  let n := if makeTx then { n with txKey := decide (slot = 1) } else n
  if restart then { n with txFc := 0, rxFc := 0, rxFcMap := 0 } else n

/-- Effect of KEY_LOAD. -/
def keyLoadEffect : CmdDesc → Dev → Dev :=
  command { nodeSpec 0x31 0xF with len := fun c n => decide (n = if c.f1 1 1 = 1 then 40 else 32) } always
    (fun d c => (decide (c.f1 1 1 = 1) || d.flag Reg.secCtrl 0) &&
      decide ((d.node c.n2).st ≠ .unknown ∧ (d.node c.n2).st ≠ .evicted))
    (fun id c d =>
      match d.loadedKey c with
      | none => d.finishSt id stAuth
      | some k =>
        (d.modNode c.n2 (fun n => n.takeKey (c.f1 0 0) k (decide (c.f1 2 2 = 1)) (decide (c.f1 3 3 = 1)))).finishSt id stOk)

/-- KEY_LOAD. -/
def execKeyLoad (d : CmdDesc) (s : State) : Host.Outcome State Fault Refusal := run (keyLoadEffect d) s

/-- Effect of KEY_INVAL. -/
def keyInvalEffect : CmdDesc → Dev → Dev :=
  command (nodeSpec 0x32 1) always always
    (fun id c d =>
      (d.modNode c.n2 (fun n => n.noKey (c.f1 0 0))).finishSt id stOk)

/-- KEY_INVAL. -/
def execKeyInval (d : CmdDesc) (s : State) : Host.Outcome State Fault Refusal := run (keyInvalEffect d) s

/-! ### JTAG (19 R457, R458; 23 Table EP.16) -/

/-- The IDCODE. -/
def idcode : Nat := 0x19128A5B

/-- Effect of JTAG_TAP_ACCESS: boundary scan, IDCODE and the nonce work in every state with the rails up; debug reaches
the management cores and the debug registers while OPEN, and nothing else ever. A word that nothing has written is free
(log 3). -/
def jtagTapAccessEffect (acc : JtagAccess) (d : Dev) : Dev :=
  if d.dev = .off then d
  else
    match acc with
    | .boundary cells => { d with jtag := { d.jtag with cells := cells } }
    | .idcode => { d with jtag := { d.jtag with tdo := BitVec.ofNat 256 idcode } }
    | .nonce => { d with jtag := { d.jtag with tdo := d.sec.nonce } }
    | .token bytes => { d with sec := { d.sec with token := bytes } }
    | .debug space addr wr =>
      if !(d.sec.dbgOpen && decide (space ≤ 4)) then d
      else
        let key := space * 2 ^ 32 + addr % 2 ^ 32
        match wr with
        | some w => { d with jtag := { d.jtag with dbg := SMap.put key w d.jtag.dbg } }
        | none =>
          match d.jtag.dbg.find? (fun e => decide (e.1 = key)) with
          | some e => { d with jtag := { d.jtag with tdo := BitVec.ofNat 256 e.2.toNat } }
          | none =>
            let f := d.free
            { f.2 with jtag := { f.2.jtag with tdo := BitVec.ofNat 256 (f.1.toNat % 2 ^ 32) } }

/-- JTAG_TAP_ACCESS. -/
def execJtagTapAccess (acc : JtagAccess) (s : State) : Host.Outcome State Fault Refusal := run (jtagTapAccessEffect acc) s

end Sys2Proof.Machine
end

