-- ==== Sys2Proof/Machine/Sounding.lean ====
section
/-! DEFINITION. The end of sounding sessions: uplink sessions measured by the device, downlink sessions reported by the node (09
R223-R227; 12 R318). -/

namespace Sys2Proof.Machine

/-- `SND_MIN`. -/
def Dev.sndMin (d : Dev) : Nat := d.fld Reg.marLoad 20 16

/-- The indices of a mask. -/
def segList (mask : Nat) : List Nat := (List.range 16).filter (fun s => bit mask s)

/-- A mask of segment indices. -/
def segMask (l : List Nat) : Nat := l.foldl (fun m s => setBit m s) 0

/-- Derive entries for some keys of a set from their tone-group SNRs, and rebuild it. -/
def Dev.deriveSet (d : Dev) (nh : Nat) (up : Bool) (sndBp : Nat) (ms : List (Nat × List Nat × List Int)) : Dev :=
  let x := ms.foldl (fun (x : List Entry × Dev) m =>
    let r := x.2.deriveKey nh up m.1 sndBp m.2.1 m.2.2
    (x.1 ++ [r.1], r.2)) ([], d)
  x.2.rebuild (setIx nh up) x.1

/-- A formerly DORMANT node whose soundings have ended is granted dormancy unasked, with the interval and tolerance it last had (12
R318). -/
def Dev.regrantDue (d : Dev) (nh : Nat) : Dev :=
  let n := d.node nh
  if !n.regrant ∨ n.st ≠ .active ∨ d.sess.any (fun s => decide (s.nh = nh) && !s.done) then d
  else
    let d := d.modNode nh (fun n => { n with regrant := false })
    match n.dorm with
    | some x => if d.dormRefused nh then d else d.grantDormancy nh x.req x.ppm none
    | none => d

/-! ### SOUND_SESSION_END (09 R223) -/

/-- Whether the last sounding allocation of a session has ended. -/
def Dev.soundingOver (d : Dev) (s : Sess) : Bool :=
  match s.endBp with
  | none => false
  | some n =>
    let since := bpSince n d.msync.bpi
    if since = 0 then
      let g := (d.node s.nh).grp
      let mine := (d.planFor g n).allocs.filter (fun (a : Alloc) => decide (a.kind = kindSounding ∧ a.addr = (d.node s.nh).saddr) && a.dir == s.up)
      mine.all (fun (a : Alloc) => decide (d.unitStart (a.start + a.len) ≤ d.bpPhase))
    else decide (since < 2 ^ 22)

/-- What a carrier gives over the symbols of an index, on one stream of one tap: the ratio |h|² / var as numerator and denominator, and var, in
2^-96 code. `w` is 1 for one stream; for two the values are sums over symbol pairs, twice the stream's, whose noise adds, and `w` is 2. -/
def sounded (w : Nat) (zs : List Cx) : Nat × Nat × Nat :=
  let n := zs.length
  let s := cxSum zs
  let dev := natSum (zs.map (fun z => cxNorm (cxSub (cxScale n z) s)))
  (cxNorm s * (n - 1), w * dev, dev / (w * (n * n * (n - 1))))

/-- Pairs of consecutive symbols of a frame in one segment index, the even-numbered first, as the sum and the difference of their values
(06 R148, 09 R223). -/
def soundPairs : List (Nat × Cx) → List (Cx × Cx)
  | [] => []
  | [_] => []
  | a :: b :: rest =>
    if b.1 = a.1 + 1 then
      (cxAdd a.2 b.2, if a.1 % 2 = 0 then cxSub a.2 b.2 else cxSub b.2 a.2) :: soundPairs rest
    else soundPairs (b :: rest)

/-- A level in 0.25 dB of a sum of ratios, rounded down; without noise the highest. -/
def ratioLevel (rs : List (Nat × Nat)) : Int :=
  let t := rs.foldl (fun (a : Nat × Nat) r => (a.1 * r.2 + r.1 * a.2, a.2 * r.2)) (0, 1)
  if t.2 = 0 then (if rs.all (fun r => decide (r.1 = 0)) then 0 else 255) else levelOf t.1 t.2

/-- SNR and noise of one carrier, in 0.25 dB: over receive taps the ratios add and the lowest noise counts; of two streams the lower SNR
(09 R223; log 30). `zs` holds, by tap, the values with their symbol numbers. -/
def carrierSound (gains : List Nat) (mimo : Bool) (zs : List (List (Nat × Cx))) : Int × Int :=
  let streams : List (List (Nat × Nat × Nat)) :=
    if mimo then [zs.map (fun l => sounded 2 ((soundPairs l).map (fun x => x.1))), zs.map (fun l => sounded 2 ((soundPairs l).map (fun x => x.2)))]
    else [zs.map (fun l => sounded 1 (l.map (fun x => x.2)))]
  (((streams.map (fun l => ratioLevel (l.map (fun x => (x.1, x.2.1))))).foldl min 255),
   (streams.flatMap (fun l => (l.zip gains).map (fun x => max (-2047) (dbfs0 (powerAt0 x.2 x.1.2.2))))).foldl min 0)

/-- A list in rising key order cut by the quotient of its keys, for each of the quotients given. -/
def byQuotient {α : Type} (g : Nat) : List Nat → List (Nat × α) → List (List α)
  | [], _ => []
  | j :: js, l => (l.takeWhile (fun x => decide (x.1 / g = j))).map (fun x => x.2) ::
      byQuotient g js (l.dropWhile (fun x => decide (x.1 / g = j)))

/-- The tone-group SNRs, limited, and noise levels of the symbols of one index; a group without a usable unmasked carrier has SNR 0 (09
R223). -/
def Dev.measured (d : Dev) (g : Nat) (ss : List SndSym) : List Nat × List Int :=
  let p := d.profile g
  let ks := openCarriers p (d.maskOf g)
  let taps := (ss.map (fun s => s.z.length)).foldl max 0
  let gains := (ss.head?.map (fun s => s.gains)).getD []
  let mimo := ss.any (fun s => s.mimo)
  let byTap := (List.range taps).map (fun r =>
    columns ks.length (ss.map (fun s => ks.map (fun k => (((s.z.getD r []).find? (fun x => decide (x.1 = k))).map (fun x => (s.m, x.2)))))))
  let vals := (ks.zip (columns ks.length byTap)).map (fun x => (x.1, carrierSound gains mimo (x.2.map (fun l => l.filterMap id))))
  let groups := byQuotient (profGroup p) ((List.range (numTg p)).map (fun i => firstTg p + i)) vals
  (groups.map (fun l => match l with | [] => 0 | a :: r => snrLimit (r.foldl (fun m x => min m x.1) a.1)),
   groups.map (fun l => l.foldl (fun m x => min m x.2) 0))

/-- Effect of SOUND_SESSION_END: the node's uplink session is evaluated by the symbols received in it; an index with fewer than `SND_MIN`
counts as not measured. -/
def soundSessionEndEffect (nh : Nat) (d : Dev) : Dev :=
  match d.openOf nh true with
  | none => d
  | some s =>
    if d.dev ≠ .run ∨ !d.soundingOver s then d
    else
      let g := (d.node nh).grp
      let of := fun (k : Nat) => s.rcvd.filter (fun y => decide (y.seg = k))
      let good := (segList s.segs).filter (fun k => decide (d.sndMin ≤ (of k).length))
      let d := d.deriveSet nh true (s.endBp.getD 0) (good.map (fun k => let m := d.measured g (of k); (k, m.1, m.2)))
      (d.endSession s (segMask good)).regrantDue nh

/-- SOUND_SESSION_END. -/
def execSoundSessionEnd (nh : Fin 16384) (s : State) : Host.Outcome State Fault Refusal := run (soundSessionEndEffect nh) s

/-! ### SOUND_REPORT, SOUND_REPORT_TIMEOUT (09 R223, R224) -/

/-- The latest downlink session of a node: its `SND_ID` and the beacon period of its frames. -/
def Dev.latestSession (d : Dev) (nh : Nat) : Option (Nat × Nat) :=
  let v := SMap.get (fun _ => 0) nh d.sndId
  if v = 0 then none else some (v % 256, v / 256 - 1)

/-- Whether a report is used (09 R224). -/
def Dev.reportUsable (d : Dev) (nh : Nat) (body : List Byte) : Bool :=
  let p := d.profile (d.node nh).grp
  decide (4 ≤ body.length ∧ bits (byteAt body 1) 7 6 = p ∧ 4 + (segList (leAt body 2 2)).length * numTg p ≤ body.length) &&
    (match d.latestSession nh with | some x => decide (x.1 = byteAt body 0) | none => false)

/-- What a report gives for each index it names (09 Table TM.2). -/
def reportSnrs (body : List Byte) (tgs : Nat) : List (Nat × List Nat × List Int) :=
  let segs := segList (leAt body 2 2)
  (segs.zip (List.range segs.length)).map (fun x => (x.1, (bytesAt body (4 + x.2 * tgs) tgs).map (fun b => b.toNat), []))

/-- Effect of SOUND_REPORT. The session ends once every index it names has been reported. -/
def soundReportEffect (nh : Nat) (body : List Byte) (d : Dev) : Dev :=
  let n := d.node nh
  if d.dev ≠ .run ∨ !n.st.isAdmitted ∨ !(d.group n.grp).st.up then d
  else if !d.reportUsable nh body then d.skipMessage
  else
    let bp := ((d.latestSession nh).map (fun x => x.2)).getD 0
    let d := d.deriveSet nh false bp (reportSnrs body (numTg (d.profile n.grp)))
    match d.openOf nh false with
    | none => d
    | some s =>
      if s.frames = 0 then d
      else
        let got := s.got ||| (s.segs &&& leAt body 2 2)
        if got &&& s.segs = s.segs then (d.endSession s got).regrantDue nh else d.modSess s.id (fun s => { s with got := got })

/-- SOUND_REPORT. -/
def execSoundReport (nh : Fin 16384) (body : List Byte) (s : State) : Host.Outcome State Fault Refusal :=
  run (soundReportEffect nh body) s

/-- Effect of SOUND_REPORT_TIMEOUT: four beacon periods after the session's last allocation, an index without a usable report counts as
not measured. -/
def soundReportTimeoutEffect (nh : Nat) (d : Dev) : Dev :=
  match d.openOf nh false with
  | none => d
  | some s =>
    match s.endBp with
    | none => d
    | some n =>
      let since := bpSince n d.msync.bpi
      if d.dev = .run ∧ 5 ≤ since ∧ since < 2 ^ 22 then (d.endSession s s.got).regrantDue nh else d

/-- SOUND_REPORT_TIMEOUT. -/
def execSoundReportTimeout (nh : Fin 16384) (s : State) : Host.Outcome State Fault Refusal :=
  run (soundReportTimeoutEffect nh) s

end Sys2Proof.Machine
end

