-- ==== Sys2Proof/Machine/Dispatch.lean ====
section
/-! DEFINITION. The dispatcher: one arm per command, each one direct call of its meaning. -/

namespace Sys2Proof.Machine

def exec (i : Instr) (s : State) : Host.Outcome State Fault Refusal :=
  match i with
  | .registerWrite off size data => Sys2Proof.Machine.execRegisterWrite off size data s
  | .lockSet off data => Sys2Proof.Machine.execLockSet off data s
  | .mptNowLoRead => Sys2Proof.Machine.execMptNowLoRead s
  | .queueDirectRead q => Sys2Proof.Machine.execQueueDirectRead q s
  | .queueOccRead q => Sys2Proof.Machine.execQueueOccRead q s
  | .watermarkArm q data => Sys2Proof.Machine.execWatermarkArm q data s
  | .cvuGo u data readErr => Sys2Proof.Machine.execCvuGo u data readErr s
  | .cvuHalt u data => Sys2Proof.Machine.execCvuHalt u data s
  | .cvuFeed u data => Sys2Proof.Machine.execCvuFeed u data s
  | .cvuScanDone u bytes readErr => Sys2Proof.Machine.execCvuScanDone u bytes readErr s
  | .vinValid mv checkOk => Sys2Proof.Machine.execVinValid mv checkOk s
  | .brownOut => Sys2Proof.Machine.execBrownOut s
  | .powerCycle => Sys2Proof.Machine.execPowerCycle s
  | .vinMeasurement mv => Sys2Proof.Machine.execVinMeasurement mv s
  | .derateDecrease p => Sys2Proof.Machine.execDerateDecrease p s
  | .v33Overcurrent => Sys2Proof.Machine.execV33Overcurrent s
  | .v33Retry overload => Sys2Proof.Machine.execV33Retry overload s
  | .perstFall => Sys2Proof.Machine.execPerstFall s
  | .perstRise bootsel io => Sys2Proof.Machine.execPerstRise bootsel io s
  | .bootComplete => Sys2Proof.Machine.execBootComplete s
  | .bootFail => Sys2Proof.Machine.execBootFail s
  | .imageCommitDone readBack => Sys2Proof.Machine.execImageCommitDone readBack s
  | .trngHealthFail => Sys2Proof.Machine.execTrngHealthFail s
  | .watchdogExpiry core ms => Sys2Proof.Machine.execWatchdogExpiry core ms s
  | .clockLoss core => Sys2Proof.Machine.execClockLoss core s
  | .critMemFault addr grp => Sys2Proof.Machine.execCritMemFault addr grp s
  | .talertAssert n temp => Sys2Proof.Machine.execTalertAssert n temp s
  | .talertRelease temps => Sys2Proof.Machine.execTalertRelease temps s
  | .quadrantShutdown q temp => Sys2Proof.Machine.execQuadrantShutdown q temp s
  | .quadrantPowerUp q temp => Sys2Proof.Machine.execQuadrantPowerUp q temp s
  | .thermalShutdown n temp => Sys2Proof.Machine.execThermalShutdown n temp s
  | .halfCycleDetect pri alt => Sys2Proof.Machine.execHalfCycleDetect pri alt s
  | .timebaseLock => Sys2Proof.Machine.execTimebaseLock s
  | .timebaseUnlock => Sys2Proof.Machine.execTimebaseUnlock s
  | .refSwitch => Sys2Proof.Machine.execRefSwitch s
  | .lossOfMains => Sys2Proof.Machine.execLossOfMains s
  | .holdoverEnd => Sys2Proof.Machine.execHoldoverEnd s
  | .mptAnchor => Sys2Proof.Machine.execMptAnchor s
  | .msyncEdge agoNs falling => Sys2Proof.Machine.execMsyncEdge agoNs falling s
  | .msyncStep => Sys2Proof.Machine.execMsyncStep s
  | .msyncMiss => Sys2Proof.Machine.execMsyncMiss s
  | .devStart d => Sys2Proof.Machine.execDevStart d s
  | .devStop d => Sys2Proof.Machine.execDevStop d s
  | .devReset d io => Sys2Proof.Machine.execDevReset d io s
  | .fnReset d => Sys2Proof.Machine.execFnReset d s
  | .grpSetup d => Sys2Proof.Machine.execGrpSetup d s
  | .grpStart d => Sys2Proof.Machine.execGrpStart d s
  | .grpStop d => Sys2Proof.Machine.execGrpStop d s
  | .portRecal d => Sys2Proof.Machine.execPortRecal d s
  | .echTrain d => Sys2Proof.Machine.execEchTrain d s
  | .maskLoad d => Sys2Proof.Machine.execMaskLoad d s
  | .shapeLoad d => Sys2Proof.Machine.execShapeLoad d s
  | .shapeSwap d => Sys2Proof.Machine.execShapeSwap d s
  | .policySet d => Sys2Proof.Machine.execPolicySet d s
  | .admitMode d => Sys2Proof.Machine.execAdmitMode d s
  | .admitDecide d => Sys2Proof.Machine.execAdmitDecide d s
  | .nodeEvict d => Sys2Proof.Machine.execNodeEvict d s
  | .nodeRead d => Sys2Proof.Machine.execNodeRead d s
  | .nodeRoute d => Sys2Proof.Machine.execNodeRoute d s
  | .nodeDormant d => Sys2Proof.Machine.execNodeDormant d s
  | .sound d => Sys2Proof.Machine.execSound d s
  | .fwdSet d => Sys2Proof.Machine.execFwdSet d s
  | .kekSet d => Sys2Proof.Machine.execKekSet d s
  | .keyLoad d => Sys2Proof.Machine.execKeyLoad d s
  | .keyInval d => Sys2Proof.Machine.execKeyInval d s
  | .measCfg d => Sys2Proof.Machine.execMeasCfg d s
  | .measStart d => Sys2Proof.Machine.execMeasStart d s
  | .measStop d => Sys2Proof.Machine.execMeasStop d s
  | .swoSubmit d => Sys2Proof.Machine.execSwoSubmit d s
  | .swoCancel d => Sys2Proof.Machine.execSwoCancel d s
  | .phaseSend d => Sys2Proof.Machine.execPhaseSend d s
  | .audit d => Sys2Proof.Machine.execAudit d s
  | .cntSet d => Sys2Proof.Machine.execCntSet d s
  | .cntSnap d => Sys2Proof.Machine.execCntSnap d s
  | .traceCfg d => Sys2Proof.Machine.execTraceCfg d s
  | .capture d => Sys2Proof.Machine.execCapture d s
  | .captureNoLane => Sys2Proof.Machine.execCaptureNoLane s
  | .captureRecordWrite sidx pins lost => Sys2Proof.Machine.execCaptureRecordWrite sidx pins lost s
  | .fwStage d readFail => Sys2Proof.Machine.execFwStage d readFail s
  | .attest d => Sys2Proof.Machine.execAttest d s
  | .doorbellPoll fn slots => Sys2Proof.Machine.execDoorbellPoll fn slots s
  | .ringStoppingEnd fn slot => Sys2Proof.Machine.execRingStoppingEnd fn slot s
  | .statusPageWrite fn slot ok => Sys2Proof.Machine.execStatusPageWrite fn slot ok s
  | .chainFetch fn slot descs payload => Sys2Proof.Machine.execChainFetch fn slot descs payload s
  | .rxBufferTake fn slot desc => Sys2Proof.Machine.execRxBufferTake fn slot desc s
  | .rxDelivery g cells => Sys2Proof.Machine.execRxDelivery g cells s
  | .rxHoldExpiry g => Sys2Proof.Machine.execRxHoldExpiry g s
  | .msixModerationExpiry fn slot => Sys2Proof.Machine.execMsixModerationExpiry fn slot s
  | .msixUnmask fn vec => Sys2Proof.Machine.execMsixUnmask fn vec s
  | .fnEnable fn dbp stp => Sys2Proof.Machine.execFnEnable fn dbp stp s
  | .fnDisable fn => Sys2Proof.Machine.execFnDisable fn s
  | .flr fn => Sys2Proof.Machine.execFlr fn s
  | .vfEnableChange en numVfs => Sys2Proof.Machine.execVfEnableChange en numVfs s
  | .busMasterEnableChange fn en => Sys2Proof.Machine.execBusMasterEnableChange fn en s
  | .lossyQueueDrain q => Sys2Proof.Machine.execLossyQueueDrain q s
  | .creditGrant => Sys2Proof.Machine.execCreditGrant s
  | .queuePointerFault tgt => Sys2Proof.Machine.execQueuePointerFault tgt s
  | .frameStoreScrub cell res use => Sys2Proof.Machine.execFrameStoreScrub cell res use s
  | .marimbaScrub where_ res commits => Sys2Proof.Machine.execMarimbaScrub where_ res commits s
  | .counterSweep => Sys2Proof.Machine.execCounterSweep s
  | .maintGrant => Sys2Proof.Machine.execMaintGrant s
  | .slotBoundary unit => Sys2Proof.Machine.execSlotBoundary unit s
  | .bindingDelivery unit late => Sys2Proof.Machine.execBindingDelivery unit late s
  | .toneMapFetch bp unit corrected uncorrectable => Sys2Proof.Machine.execToneMapFetch bp unit corrected uncorrectable s
  | .scheduleFreeze g plan => Sys2Proof.Machine.execScheduleFreeze g plan s
  | .scheduleLate g => Sys2Proof.Machine.execScheduleLate g s
  | .beaconTx g w x => Sys2Proof.Machine.execBeaconTx g w x s
  | .frameTxStart lane what w x => Sys2Proof.Machine.execFrameTxStart lane what w x s
  | .ackTx lane w parity => Sys2Proof.Machine.execAckTx lane w parity s
  | .ackReceived lane => Sys2Proof.Machine.execAckReceived lane s
  | .ackTimeout nh => Sys2Proof.Machine.execAckTimeout nh s
  | .msduLifeExpiry nh => Sys2Proof.Machine.execMsduLifeExpiry nh s
  | .preambleDetect lane pins => Sys2Proof.Machine.execPreambleDetect lane pins s
  | .timingAcquired lane pins => Sys2Proof.Machine.execTimingAcquired lane pins s
  | .syncWordDecision lane pins => Sys2Proof.Machine.execSyncWordDecision lane pins s
  | .frameControlDecode lane => Sys2Proof.Machine.execFrameControlDecode lane s
  | .secondSyncAccept lane pins => Sys2Proof.Machine.execSecondSyncAccept lane pins s
  | .captureWindowClose lane => Sys2Proof.Machine.execCaptureWindowClose lane s
  | .symbolDemodulate lane pins upset => Sys2Proof.Machine.execSymbolDemodulate lane pins upset s
  | .transientReport p pins => Sys2Proof.Machine.execTransientReport p pins s
  | .pbDecodeDone lane x => Sys2Proof.Machine.execPbDecodeDone lane x s
  | .fwdWaitTimeout id => Sys2Proof.Machine.execFwdWaitTimeout id s
  | .assocReq g body => Sys2Proof.Machine.execAssocReq g body s
  | .zcReport nh body => Sys2Proof.Machine.execZcReport nh body s
  | .soundReport nh body => Sys2Proof.Machine.execSoundReport nh body s
  | .leave nh => Sys2Proof.Machine.execLeave nh s
  | .keepalive nh => Sys2Proof.Machine.execKeepalive nh s
  | .dormReq nh body => Sys2Proof.Machine.execDormReq nh body s
  | .pollReceived lane => Sys2Proof.Machine.execPollReceived lane s
  | .pollMiss nh => Sys2Proof.Machine.execPollMiss nh s
  | .heldLifeExpiry nh => Sys2Proof.Machine.execHeldLifeExpiry nh s
  | .admitAskTimeout nh => Sys2Proof.Machine.execAdmitAskTimeout nh s
  | .admitTimeout nh => Sys2Proof.Machine.execAdmitTimeout nh s
  | .silentTimeout nh => Sys2Proof.Machine.execSilentTimeout nh s
  | .lostEvictTimeout nh => Sys2Proof.Machine.execLostEvictTimeout nh s
  | .evictedRelease nh => Sys2Proof.Machine.execEvictedRelease nh s
  | .soundSessionEnd nh => Sys2Proof.Machine.execSoundSessionEnd nh s
  | .soundReportTimeout nh => Sys2Proof.Machine.execSoundReportTimeout nh s
  | .mapUpdateDeadline nh up => Sys2Proof.Machine.execMapUpdateDeadline nh up s
  | .mapCommit nh up => Sys2Proof.Machine.execMapCommit nh up s
  | .maskEffective g => Sys2Proof.Machine.execMaskEffective g s
  | .fadeEnd p => Sys2Proof.Machine.execFadeEnd p s
  | .driverOvercurrent p amps => Sys2Proof.Machine.execDriverOvercurrent p amps s
  | .driverThermalFault p temp => Sys2Proof.Machine.execDriverThermalFault p temp s
  | .driverFaultClear p temp => Sys2Proof.Machine.execDriverFaultClear p temp s
  | .portCalDone p res => Sys2Proof.Machine.execPortCalDone p res s
  | .echTrainingStart p => Sys2Proof.Machine.execEchTrainingStart p s
  | .echTrainingDone p res => Sys2Proof.Machine.execEchTrainingDone p res s
  | .quietIntervalEnd p q e u => Sys2Proof.Machine.execQuietIntervalEnd p q e u s
  | .echWindowEnd p obs => Sys2Proof.Machine.execEchWindowEnd p obs s
  | .echDivLimit p => Sys2Proof.Machine.execEchDivLimit p s
  | .modulatorFault ix value clocks => Sys2Proof.Machine.execModulatorFault ix value clocks s
  | .modulatorFaultClear ix value => Sys2Proof.Machine.execModulatorFaultClear ix value s
  | .setSyncPoint k => Sys2Proof.Machine.execSetSyncPoint k s
  | .measOutput k bits => Sys2Proof.Machine.execMeasOutput k bits s
  | .derivedCycleEnd bits => Sys2Proof.Machine.execDerivedCycleEnd bits s
  | .swoCommit id => Sys2Proof.Machine.execSwoCommit id s
  | .swoEdge id => Sys2Proof.Machine.execSwoEdge id s
  | .swoPulseEnd id => Sys2Proof.Machine.execSwoPulseEnd id s
  | .swoReadback id pin => Sys2Proof.Machine.execSwoReadback id pin s
  | .linkDiscard nh st => Sys2Proof.Machine.execLinkDiscard nh st s
  | .rxDrop g => Sys2Proof.Machine.execRxDrop g s
  | .converterPllLock => Sys2Proof.Machine.execConverterPllLock s
  | .pcieLinkTrained width speed => Sys2Proof.Machine.execPcieLinkTrained width speed s
  | .jtagTapAccess acc => Sys2Proof.Machine.execJtagTapAccess acc s

end Sys2Proof.Machine
end

