-- ==== Sys2Proof/Machine/RegView.lean ====
section
/-! DEFINITION. What a BAR 0 read gives (24 R523-R525): the stored fields of a register, and the read-only fields computed
from the state behind them. The spec's command table has no row for a plain read; the two reads that change state,
`QUE_DRD_q` and `QUE_OCC_q`, and the latching read of `MPT_NOW_LO` have rows of their own. -/

namespace Sys2Proof.Machine

/-- A field value at its place. -/
def at_ (v lo : Nat) : Nat := v * 2 ^ lo

/-- A tap field: `VALID`, stream code, port (05 R133). -/
def tapField (code port : Nat) : Nat := 2 ^ 9 + code % 4 * 2 ^ 7 + port % 128

/-- Tap `i` of a list of taps, 0 where there is none. -/
def tapWord (l : List Tap) (i : Nat) : Nat := match l[i]? with | some t => tapField t.code t.port | none => 0

/-- LDAC tap `i` of a list of ports: echo references and drive outputs carry stream code 0b10 (05 Tables CA.2, CA.8). -/
def ldacWord (l : List Nat) (i : Nat) : Nat := match l[i]? with | some p => tapField 2 p | none => 0

/-- Read-only fields of the identity block: the PBA of PF0, one bit a vector (24 Table AM.2). -/
def Dev.viewIdent (d : Dev) (off : Nat) : Nat :=
  if off = Reg.ident then 0x91280010
  else if off = Reg.msixPba then (d.fn 0).pend.foldl setBit 0 % 2 ^ 16
  else 0

/-- Read-only fields of the power block (22 Table PS.7). -/
def Dev.viewPower (d : Dev) (off : Nat) : Nat :=
  let p := d.pwr
  if off = Reg.pwrStat then
    at_ (p.qdown % 16) 8 + at_ (b2n p.sysref) 7 + at_ (b2n (decide (p.v33 = .up))) 1 + b2n p.talert
  else if off = Reg.pwrVin then p.vin % 2 ^ 16
  else if off = Reg.pwrStrap then p.bootsel % 4
  else if Reg.pwrTemp 0 ≤ off then unsigned 9 (p.temps.getD ((off - Reg.pwrTemp 0) / 4) 0)
  else 0

/-- Read-only fields of the timebase (02 Tables MT.5 and MT.7). -/
def Dev.viewMpt (d : Dev) (off : Nat) : Nat :=
  let t := d.tb
  if off = Reg.mptStatus then
    at_ (d.refUse % 8) 5 + at_ (b2n t.usingAlt) 4 + at_ (b2n t.slewActive) 3 + at_ (b2n t.holdover) 2 +
      at_ (b2n t.locked) 1 + b2n t.everLocked
  else if off = Reg.mptNowLo then d.mpt % 2 ^ 32
  else if off = Reg.mptNowHi then t.nowHi.toNat
  else if off = Reg.mptFreq then t.freq.toNat
  else if off = Reg.mptPhaseErr then unsigned 24 t.phaseErr
  else 0

/-- Read-only fields of MSYNC (02 Table MT.9). -/
def Dev.viewMsync (d : Dev) (off : Nat) : Nat :=
  let m := d.msync
  if off = Reg.msyncStatus then at_ (b2n (decide (m.ofs ≠ m.tgt))) 1 + b2n m.tracking
  else if off = Reg.msyncOfs then unsigned 21 m.ofs
  else if off = Reg.msyncTgt then unsigned 21 m.tgt
  else if off = Reg.msyncErr then unsigned 24 m.err
  else 0

/-- Read-only fields of measurement (13 Table ME.10): inputs in fault, set states, the ROM responses (13 R333, log 3). -/
def Dev.viewMeas (d : Dev) (off : Nat) : Nat :=
  if 0x62000 ≤ off ∧ off < 0x62600 then
    (Config.romCoef ((off - 0x62000) / 0x80 + 1) ((off - 0x62000) % 0x80 / 4)).toNat
  else if 0x60010 ≤ off ∧ off < 0x60020 then
    let j := (off - 0x60010) / 4
    (d.meas.fault.filter (fun e => decide (e.1 / 32 = j))).foldl (fun m e => setBit m (e.1 % 32)) 0
  else if 0x60100 ≤ off ∧ off < 0x60200 ∧ (off - 0x60100) % 0x20 = 0x14 then
    at_ (d.mset ((off - 0x60100) / 0x20)).st.code 8
  else 0

/-- Read-only fields of the switching outputs and of the host interface (14 Table SW.5, 15 Table HR.13). -/
def Dev.viewSwo (d : Dev) (off : Nat) : Nat :=
  if off = Reg.swoStat then d.swoLvl % 2 ^ 16
  else if off = Reg.swoQueue then d.swo.length
  else if off = Reg.hifLink then at_ (d.pwr.width % 16) 4 + d.pwr.speed % 8
  else 0

/-- Read-only fields of the queues (17 Table QC.4), those of `QUE_OCC_q` as its row reads them. -/
def Dev.viewQueue (d : Dev) (off : Nat) : Nat :=
  if off = Reg.queShared then d.sharedInt.toNat
  else if off = Reg.queFree then d.freeCells
  else if 0xA0300 ≤ off ∧ off < 0xA0380 then
    let g := d.group ((off - 0xA0300) / 4)
    g.quota + g.borrowed
  else if 0xA1000 ≤ off ∧ off < 0xA2000 then
    let q := (off - 0xA1000) / 16
    if off % 16 = 4 then at_ (b2n (d.wmark q).armed) 30
    else if off % 16 = 8 then at_ (min 0xFFFF (max (d.wmark q).peak (d.occ q))) 16 + min 0xFFFF (d.occ q)
    else if off % 16 = 12 then
      match (if q ≤ 10 then (d.lossy q).items else []) with
      | [] => 0x80000000
      | item :: _ => halfWord item (d.lossy q).hw
    else 0
  else 0

/-- Read-only fields of the check-value units (18 Table IN.7). -/
def Dev.viewCvu (d : Dev) (off : Nat) : Nat :=
  let c := d.cvu ((off - 0xB0100) / 0x40)
  match (off - 0xB0100) % 0x40 with
  | 0x18 => c.res.toNat % 2 ^ 32
  | 0x1C => c.res.toNat / 2 ^ 32
  | _ =>
    if off = Reg.cvuDone ((off - 0xB0100) / 0x40) then c.done % 2 ^ 32
    else if off = Reg.cvuStat ((off - 0xB0100) / 0x40) then at_ (b2n c.rdErr) 2 + at_ (b2n c.halted) 1 + b2n c.busy
    else 0

/-- Read-only fields of security (19 Table SE.10). -/
def Dev.viewSec (d : Dev) (off : Nat) : Nat :=
  let s := d.sec
  if off = Reg.secBoot then at_ (s.attempts % 16) 20 + at_ (b2n s.trial) 16 + at_ (s.lastFail % 256) 8 + s.src % 16
  else if off = Reg.secSvnLo then imgSvn s.area % 2 ^ 32
  else if off = Reg.secSvnHi then imgSvn s.area / 2 ^ 32
  else if off = Reg.secCtrLo then s.arbCtr.toNat % 2 ^ 32
  else if off = Reg.secCtrHi then s.arbCtr.toNat / 2 ^ 32
  else if off = Reg.secOtp then at_ (imgKey s.area) 8 + at_ (s.revoked % 16) 4 + s.lifecycle % 4
  else if off = Reg.secDbg then b2n s.dbgOpen
  else if Reg.secDevid 0 ≤ off ∧ off < Reg.secDevid 4 then
    leAt devId (off - Reg.secDevid 0) 4
  else if off = Reg.secStat then b2n s.kek.isSome
  else if off = Reg.secLog then s.log.length % 32
  else 0

/-- Fields of the counters that stand with them: overflows, and values at the last sweep (20 Table CT.9). -/
def Dev.viewCnt (d : Dev) (off : Nat) : Nat :=
  if 0xD2000 ≤ off ∧ off < 0xD20A8 then
    (List.range 16).foldl (fun m c => m + at_ (b2n (d.counter (16 * ((off - 0xD2000) / 4) + c)).ovf) c) 0
  else if 0xD4000 ≤ off ∧ off < 0xD4000 + 42 * 0x80 then
    let c := d.counter ((off - 0xD4000) / 0x80 * 16 + (off - 0xD4000) % 0x80 / 8)
    if off % 8 = 0 then c.capVal.toNat % 2 ^ 32 else c.capVal.toNat / 2 ^ 32
  else 0

/-- Read-only fields of maintenance (21 Table MR.9). -/
def Dev.viewMnt (d : Dev) (off : Nat) : Nat :=
  if off = Reg.mntFlast then d.mnt.fclass % 256
  else if off = Reg.mntRstc then at_ (d.pwr.l3 % 2 ^ 16) 16 + d.pwr.cause % 16
  else if off = Reg.mntWrRef then d.mnt.refOff % 2 ^ 24
  else if Reg.mntArb 0 ≤ off ∧ off < Reg.mntArb 128 then
    let p := (off - Reg.mntArb 0) / 4
    at_ (d.runKind p % 8) 8 + (d.reqsAt p).length % 8
  else 0

/-- Samples left in a fade in units of 1,024: a part of a unit counts or does not, freely (06 Table WF.7, log 3). -/
def Dev.fadeLeft (d : Dev) (f : Fade) : Nat :=
  let left := f.len - f.i
  left / 1024 + (if left % 1024 = 0 then 0 else (Config.freeWord d.freeCtr).toNat % 2)

/-- Read-only fields of one port of a group: its port block, canceller, filter and buckets (03 Table LP.10, 04 Table FD.9,
06 Table WF.7). -/
def Dev.viewPort (d : Dev) (g o : Nat) : Nat :=
  if 0x100 ≤ o ∧ o < 0x200 then
    let p := 4 * g + (o - 0x100) / 0x40
    let x := d.port p
    match (o - 0x100) % 0x40 with
    | 0x08 => at_ (b2n x.calFail) 26 + at_ (b2n (d.inService p)) 9 + at_ (b2n (!x.enabled)) 8 + x.derate % 64
    | 0x0C => unsigned 9 x.temp
    | 0x10 => at_ (unsigned 16 x.ldacTrim) 16 + at_ (unsigned 8 x.sadcOfs) 8 + unsigned 8 x.madcOfs
    | _ => 0
  else if 0x240 ≤ o ∧ o < 0x340 then
    let x := d.port (4 * g + (o - 0x240) / 0x40)
    let k := (o - 0x240) % 0x40
    if k = 0 then at_ (b2n x.held) 8 + x.ech.code
    else if k = 4 then at_ (x.bulkDly % 256) 16 + unsigned 12 x.supp
    else if 0x10 ≤ k ∧ k < 0x20 then
      let l := SMap.get (fun _ => ((-2048 : Int), (-2048 : Int))) ((k - 0x10) / 4) x.lvl
      at_ (unsigned 12 l.1) 16 + unsigned 12 l.2
    else 0
  else if 0x480 ≤ o ∧ o < 0x4C0 ∧ o % 16 = 0 then
    let x := d.port (4 * g + (o - 0x480) / 0x10)
    at_ (match x.fade with | some f => d.fadeLeft f | none => 0) 12 + at_ (b2n x.swap.isSome) 9 + at_ (b2n x.fade.isSome) 8 +
      at_ (b2n (match x.fade with | some f => !f.src | none => x.bank)) 4
  else if 0x700 ≤ o ∧ o < 0x780 then
    -- before a group's first start, and on a band not enabled at it, the level reads full (DESIGN CHOICE, log 8)
    let p := 4 * g + (o - 0x700) / 0x20
    let b := (o - 0x700) % 0x20 / 4
    (match (d.port p).occ.find? (fun e => decide (e.1 = b)) with | some e => e.2.level | none => d.occCap g b) / 1024 / 1250
  else if o = 0x1314 then d.occ (80 + g) % 2 ^ 12
  else 0

/-- Read-only fields of the Carillon: quadrants present and the bindings in force (05 Tables CA.7 and CA.8). -/
def Dev.viewCar (d : Dev) (off : Nat) : Nat :=
  if off = Reg.carQpres then d.present % 16
  else if 0x401000 ≤ off ∧ off < 0x401600 then
    let l := d.dec ((off - 0x401000) / 0x10)
    match off % 0x10 with
    | 0x0 => at_ (tapWord l.taps 2) 20 + at_ (tapWord l.taps 1) 10 + tapWord l.taps 0
    | 0x4 => at_ (b2n l.capture) 31 + at_ (tapWord l.stap.toList 0) 10 + tapWord l.taps 3
    | 0x8 => at_ (ldacWord l.erf 2) 20 + at_ (ldacWord l.erf 1) 10 + ldacWord l.erf 0
    | 0xC => ldacWord l.erf 3
    | _ => 0
  else if 0x402000 ≤ off ∧ off < 0x402180 then
    let l := d.enc ((off - 0x402000) / 4)
    at_ (ldacWord l.outs 2) 20 + at_ (ldacWord l.outs 1) 10 + ldacWord l.outs 0
  else 0

/-- The read-only fields of the register at a word offset (24 Tables AM.2 and AM.3). -/
def Dev.live (d : Dev) (off : Nat) : Nat :=
  if off < 0x10000 then d.viewIdent off
  else if off < 0x40000 then d.viewPower off
  else if off < 0x50000 then d.viewMpt off
  else if off < 0x60000 then d.viewMsync off
  else if off < 0x70000 then d.viewMeas off
  else if off < 0xA0000 then d.viewSwo off
  else if off < 0xB0000 then d.viewQueue off
  else if off < 0xC0000 then d.viewCvu off
  else if off < 0xD0000 then d.viewSec off
  else if off < 0xE0000 then d.viewCnt off
  else if off < 0x100000 then d.viewMnt off
  else if off < 0x300000 then d.viewPort ((off - 0x100000) / 0x10000) ((off - 0x100000) % 0x10000)
  else if off < 0x500000 then d.viewCar off
  else if off = Reg.marCache then pinLines d.pins % 2 ^ 17
  else 0

/-- The word that a read of the register at a word offset gives: 0 at a reserved offset and in reserved bits (24 R525), but
`NV` for a reserved queue number (17 R412). -/
def Dev.readReg (d : Dev) (off : Nat) : Word :=
  match regAt off with
  | none => if 0xA1000 ≤ off ∧ off < 0xA1800 ∧ off % 16 = 12 then 0x80000000 else 0
  | some (r, _) => (BitVec.ofNat 32 (d.reg off) &&& BitVec.ofNat 32 (storedMask r)) ||| BitVec.ofNat 32 (d.live off)

end Sys2Proof.Machine
end

