-- ==== Sys2Proof/WellFormed.lean ====
section
/-! DEFINITION. Which commands are well-formed: operands within the widths and counts that the spec gives what they stand
for. A command's meaning does not rest on it: it is total. -/

namespace Sys2Proof

/-- A doorbell slot or descriptor list is of at most the rows one read brings (15 Table HR.1, R379). -/
def lenOk (n lim : Nat) : Bool := decide (n ≤ lim)

/-- A queue number is one that the register file can name (17 Table QC.2). -/
def queueOk (q : Nat) : Bool := decide (q < 128)

/-- A slot unit of a beacon period (10 R246). -/
def unitOk (u : Nat) : Bool := decide (u < 8192)

/-- A level or temperature operand fits the signed width of its register field. -/
def signedOk (w : Nat) (i : Int) : Bool := decide (-(2 ^ (w - 1) : Int) ≤ i ∧ i < 2 ^ (w - 1))

/-- A cell of the frame store (17 R414). -/
def cellOk (c : Nat) : Bool := decide (c < 98304)

/-- A frame holds at most 32 blocks, and each cell named is one of the frame store. -/
def memOk (x : MemFaults) : Bool := x.cells.all (fun c => decide (c.1 < 32) && cellOk c.2)

/-- A descriptor or doorbell slot as read has 32 bytes (15 R371, R377). -/
def rawOk (l : List Byte) : Bool := decide (l.length = 32)

/-- The descriptor that a row of the CMD ring carries. -/
def Instr.desc : Instr → Option CmdDesc
  | .devStart c | .devStop c | .devReset c _ | .fnReset c | .grpSetup c | .grpStart c | .grpStop c | .portRecal c
  | .echTrain c | .maskLoad c | .shapeLoad c | .shapeSwap c | .policySet c | .admitMode c | .admitDecide c
  | .nodeEvict c | .nodeRead c | .nodeRoute c | .nodeDormant c | .sound c | .fwdSet c | .kekSet c | .keyLoad c
  | .keyInval c | .measCfg c | .measStart c | .measStop c | .swoSubmit c | .swoCancel c | .phaseSend c | .audit c
  | .cntSet c | .cntSnap c | .traceCfg c | .capture c | .fwStage c _ | .attest c => some c
  | _ => none

/-- The operands of a command that are no descriptor of the CMD ring are within the spec's widths. -/
def Instr.opsOk : Instr → Bool
  | .registerWrite _ size _ => decide (size = 1 ∨ size = 2 ∨ size = 4 ∨ size = 8)
  | .queueDirectRead q => queueOk q
  | .queueOccRead q => queueOk q
  | .watermarkArm q _ => queueOk q
  | .talertRelease temps => decide (temps.length = 8)
  | .talertAssert _ t => signedOk 9 t
  | .quadrantShutdown _ t => signedOk 9 t
  | .quadrantPowerUp _ t => signedOk 9 t
  | .thermalShutdown _ t => signedOk 9 t
  | .driverThermalFault _ t => signedOk 9 t
  | .driverFaultClear _ t => signedOk 9 t
  | .doorbellPoll _ slots => match slots with | some l => lenOk l.length 128 && l.all (fun x => rawOk x.raw) | none => true
  | .chainFetch _ _ descs _ => match descs with | some l => lenOk l.length 16384 && l.all (fun x => rawOk x.raw) | none => true
  | .rxBufferTake _ _ desc => match desc with | some x => rawOk x.raw | none => true
  | .slotBoundary u => unitOk u
  | .bindingDelivery u late => unitOk u && late.all (fun l => decide (l < 192))
  | .toneMapFetch _ u _ ks => unitOk u && ks.all (fun k => decide (k < 524288))
  | .scheduleFreeze _ plan => lenOk plan.allocs.length 192
  | .beaconTx _ _ x => memOk x
  | .frameTxStart _ _ _ x => memOk x
  | .pbDecodeDone _ x => memOk x
  | .rxDelivery _ cells => cells.all (fun c => cellOk c.2)
  | .frameStoreScrub cell _ _ => cellOk cell
  | .measOutput _ bits => lenOk bits.length 4
  | .captureRecordWrite _ pins _ => lenOk pins.length 5
  | _ => true

/-- The operands of a command are within the spec's widths. -/
def Instr.wf (i : Instr) : Bool :=
  i.opsOk && (match i.desc with | some c => rawOk c.raw | none => true)

end Sys2Proof
end

