-- ==== Sys2Proof/Safety.lean ====
section
/-! DEFINITION. The terms of the statements: what every step keeps, what a step leaves alone, and when a management
command is accepted. -/

namespace Sys2Proof.Machine

/-- What every step keeps: host memory as the device has written it stays in its canonical form, and no posted write is
left over between steps. -/
def State.Inv (s : State) : Prop := Memory.wf s.hostMem = true ∧ s.dev.posted = []

/-- A step that ends in a next state. -/
def Completes (o : Host.Outcome State Fault Refusal) : Prop := ∃ t, o = .next t

/-! ### What reports touch

A happening may be reported: by a status bit, counters, an event or a record with its watermark, a completion, a status slot
or a message. `Dev.core` is the device without the state that reports are made of; the registers are compared by
`statusOff`, host memory and the queue of commands apart from it. -/

/-- Everything of the device but the registers, the rings and functions, the outstanding commands with their numbering, the
internal LOSSY queues with their accounts and watermarks, event numbers, counter values, the last fault class, posted writes, and
the numbering of free values. -/
structure Core where
  dev     : DevState
  clk     : Nat
  busOut  : BitVec 64
  tb      : Timebase
  msync   : Msync
  segPrev : List Nat
  ports   : List (Nat × Port)
  groups  : List (Nat × Group)
  decs    : List (Nat × DecLane)
  encs    : List (Nat × EncLane)
  shadow  : List Nat
  late    : List Nat
  unit    : Nat
  present : Nat
  gaps    : List (Nat × Nat × Option Nat)
  keys    : List (Nat × MapKey)
  sets    : List (Nat × MapSet)
  pins    : List Pin
  asked   : List (Nat × Nat)
  sess    : List Sess
  sndId   : List (Nat × Nat)
  nodes   : List (Nat × Node)
  routes  : List Route
  policy  : List Policy
  fwd     : List FwdEntry
  fwdWait : List FwdWait
  meas    : Meas
  swo     : List SwoOp
  swoLvl  : Nat
  swoHiZ  : Bool
  vfEn    : Bool
  numVfs  : Nat
  capts   : List Capt
  ques    : Ques
  cvus    : List (Nat × Cvu)
  sec     : Sec
  cnts    : Counts
  mnt     : Mnt
  pwr     : Power
  jtag    : Jtag
  deriving DecidableEq, Repr

/-- The device without the state that reports are made of. -/
def Dev.core (d : Dev) : Core :=
  { dev := d.dev, clk := d.clk, busOut := d.busOut, tb := d.tb, msync := d.msync, segPrev := d.segPrev,
    ports := d.ports, groups := d.groups, decs := d.decs, encs := d.encs, shadow := d.shadow, late := d.late,
    unit := d.unit, present := d.present, gaps := d.gaps, keys := d.keys, sets := d.sets, pins := d.pins,
    asked := d.asked, sess := d.sess, sndId := d.sndId, nodes := d.nodes, routes := d.routes, policy := d.policy, fwd := d.fwd, fwdWait := d.fwdWait,
    meas := d.meas, swo := d.swo, swoLvl := d.swoLvl, swoHiZ := d.swoHiZ, vfEn := d.vfEn, numVfs := d.numVfs,
    capts := d.capts, ques := { d.ques with lossy := [], acct := [], wm := [] }, cvus := d.cvus, sec := d.sec,
    cnts := { d.cnts with cells := [] }, mnt := { d.mnt with fclass := 0 }, pwr := d.pwr, jtag := d.jtag }

/-- Offsets of the registers that carry status bits (20 Table CT.1, 17 Table QC.4, 22 Table PS.7), `CNT_STAT` among them. -/
def statusOff (off : Nat) : Bool :=
  if off < 0x100000 then
    [0x20008, 0x40020, 0x50014, 0x6000C, 0x7000C, 0x8000C, 0xA000C, 0xC001C, 0xC0030, 0xD0010, 0xE0004, 0xE0008].contains off ||
      decide (0xA1004 ≤ off ∧ off < 0xA1804 ∧ off % 16 = 4) ||
      decide (0xB0124 ≤ off ∧ off < 0xB0224 ∧ (off - 0xB0124) % 0x40 = 0)
  else if off < 0x300000 then
    [0x108, 0x148, 0x188, 0x1C8, 0x240, 0x280, 0x2C0, 0x300, 0x480, 0x490, 0x4A0, 0x4B0, 0x1008, 0x110C, 0x1208,
     0x1314].contains (off % 0x10000)
  else [0x400008, 0x50000C, 0x600014].contains off

/-- No configuration register differs between two devices. -/
def SameCfg (a b : Dev) : Prop := ∀ off, statusOff off = false → b.reg off = a.reg off

/-- `b` is `a` but for what reports touch: nothing else of the device differs, and no configuration register. -/
def Reports (a b : Dev) : Prop := b.core = a.core ∧ SameCfg a b

/-- A step that ends in a state whose device is `d` but for what reports touch, the other commands waiting as before. -/
def Reaches (o : Host.Outcome State Fault Refusal) (s : State) (d : Dev) : Prop :=
  ∃ t, o = .next t ∧ Reports d t.dev ∧ t.pending = s.pending

/-- `b` is `a` but for what reports touch and for how far the ports' samples have been judged. -/
def Judged (a b : Dev) : Prop :=
  Reports { a with ports := b.ports } b ∧ ∀ p, { b.port p with seen := 0 } = { a.port p with seen := 0 }

/-- A step that ends in a state whose device is `d` but for what reports and judged samples touch, the other commands waiting as before. -/
def Senses (o : Host.Outcome State Fault Refusal) (s : State) (d : Dev) : Prop :=
  ∃ t, o = .next t ∧ Judged d t.dev ∧ t.pending = s.pending

/-! ### Accepted commands (16 R392-R396) -/

/-- The CMD ring yields descriptor `c`, and it passes the checks of Table CE.2 that the row `sp` of Table CE.3 asks, object
states and further ranges apart. -/
def Accepted (s : State) (c : CmdDesc) (sp : CmdSpec) : Prop :=
  s.dev.cmdReady = true ∧ c.dt = 4 ∧ c.opc.toNat = sp.opc ∧ s.dev.accepts sp.opc = true ∧ raddrOk sp.needR c = true ∧
    blockOk (sp.len c) c = true ∧ argsOk sp c = true

/-- The command that this step fetches has ended: it is not outstanding. -/
def Ended (s t : State) : Prop := t.dev.cmdOf s.dev.nextId = none

/-- A step that serves the command it fetches: the command has the effect `e` on the device, but for what reports touch, and then
completes with status `st` and bytes 8 to 15 `q` of its completion. -/
def Serves (o : Host.Outcome State Fault Refusal) (s : State) (e : Dev) (st : Nat) (q : List Byte) : Prop :=
  ∃ (t : State) (d : Dev), o = .next t ∧ t.pending = s.pending ∧ Reports e d ∧ (d.cmdOf s.dev.nextId).isSome = true ∧
    t.dev = (d.finish s.dev.nextId st q).fresh ∧
    t.hostMem = Memory.commit s.hostMem (d.finish s.dev.nextId st q).posted

/-- The same for a command with a result block, written ahead of the completion. -/
def ServesBlock (o : Host.Outcome State Fault Refusal) (s : State) (e : Dev) (st : Nat) (q block : List Byte) : Prop :=
  ∃ (t : State) (d : Dev), o = .next t ∧ t.pending = s.pending ∧ Reports e d ∧ (d.cmdOf s.dev.nextId).isSome = true ∧
    t.dev = (d.finishBlock s.dev.nextId st q block).fresh ∧
    t.hostMem = Memory.commit s.hostMem (d.finishBlock s.dev.nextId st q block).posted

/-- A step that takes up the command it fetches and leaves it outstanding, with the effect `e` on the device. -/
def Waits (o : Host.Outcome State Fault Refusal) (s : State) (e : Dev) : Prop :=
  ∃ t, o = .next t ∧ t.pending = s.pending ∧ Reports e t.dev ∧ (t.dev.cmdOf s.dev.nextId).isSome = true

/-- A doorbell slot that asks nothing of its ring: `EN` as at the last poll, and on a ring in use an index that has not moved,
with nothing owed. -/
def Unmoved (d : Dev) (k : Nat) (x : DbSlot) : Prop :=
  x.en = (d.ring k).lastEn ∧ ((d.ring k).takes = false ∨
    (x.idx = (d.ring k).hostIdx ∧ x.rdErr = false ∧ (d.ring k).owed = [] ∧
      (if ringClass k = .submission then (d.ring k).waiting else (d.ring k).unread) ≤ (d.ring k).size))

end Sys2Proof.Machine
end

