-- ==== Sys2Proof/Certificates/Slice0/Obligations.lean ====
section
/-! DEFINITION. The statements for the provers. -/

open Sys2Proof Sys2Proof.Machine

/-! ### The step and the reset state -/

/-- A step takes the command at the front of the queue: it is `exec` of that command on the machine with the queue's rest. -/
def Obligations.StepExecutesFrontCommand : Prop :=
  ∀ (c : Instr) (s : State), step { s with pending := c :: s.pending } = exec c s

/-- 01 R31, 02 R38, 03 Table LP.10, 15 R368, 17 Table QC.4: right after reset the device is OFF, MPT stands at 0, every driver
is muted and every group DOWN, no ring is enabled, every cell is free, and no command waits; registers read the words of 24 Tables AM.2
and AM.3. -/
def Obligations.ResetLeavesDeviceOff : Prop :=
  State.reset.dev.dev = .off ∧ State.reset.dev.mpt = 0 ∧ State.reset.pending = [] ∧
    (∀ p, (State.reset.dev.port p).enabled = false) ∧ (∀ g, (State.reset.dev.group g).st = .down) ∧
    (∀ k, (State.reset.dev.ring k).st = .disabled) ∧ (∀ f, (State.reset.dev.fn f).active = false) ∧
    State.reset.dev.freeCells = 98304 ∧
    State.reset.dev.reg Reg.mptCtrl = 0x10E8 ∧ State.reset.dev.reg Reg.mptThr = 0x100C ∧ State.reset.dev.reg Reg.mptLom = 0x8021A ∧
    State.reset.dev.reg Reg.carLead = 0x500 ∧ State.reset.dev.reg (Reg.queWmCfg 0) = 0xFFFF0000 ∧
    (∀ g, g < 32 → State.reset.dev.reg (Reg.grpRole g) = 0x3210 ∧ State.reset.dev.reg (Reg.grpCtrl g) = 0xF00 ∧
      ∀ s, s < 4 → State.reset.dev.reg (Reg.portStat g s) = 0)

/-- Host memory is in its canonical form at reset. -/
def Obligations.ResetMeetsInvariant : Prop := State.reset.Inv

/-- Every step keeps host memory, as the device has written it, in its canonical form, and leaves no posted write behind:
a posted write is made in the step that posts it. -/
def Obligations.EveryStepKeepsMemoryCanonical : Prop :=
  ∀ s t : State, s.Inv → step s = .next t → t.Inv

/-- 02 R38, R46, R50, 20 R463, 13 R343: on an empty queue a step is one cycle of CK_MPT (the model's choice, log 1). It completes. While MPT
runs, MPT with its fraction advances by the frequency word and by the share of a correction being spread, and five converter samples pass;
before CONFIG the timebase stands. A counter sweep that runs goes one counter further, and only the cycle that captures the last one may write host memory. An
output instant of the derived chains that the cycle reaches leaves its timestamp. -/
def Obligations.IdleStepAdvancesTime : Prop :=
  ∀ s : State, s.pending = [] →
    ∃ t, step s = .next t ∧ t.pending = [] ∧ t.dev.clk = s.dev.clk + 1 ∧ t.dev.dev = s.dev.dev ∧
      (s.dev.cnts.ix ≠ some 671 → t.hostMem = s.hostMem) ∧
      (s.dev.dev.clocked = true →
        t.dev.tb.corrLeft = s.dev.tb.corrLeft -
          (if absI s.dev.tb.corrLeft ≤ absI s.dev.tb.corrRate then s.dev.tb.corrLeft else s.dev.tb.corrRate) ∧
        t.dev.tb.acc = BitVec.ofInt 72
          ((s.dev.tb.acc.toNat : Int) + (s.dev.tb.freq.toNat : Int) + (s.dev.tb.corrLeft - t.dev.tb.corrLeft)) ∧
        t.dev.tb.n = (if s.dev.tb.running then (s.dev.tb.n + 5) % 2 ^ 64 else s.dev.tb.n)) ∧
      (s.dev.dev.clocked = false → t.dev.tb = s.dev.tb) ∧
      (∀ i, s.dev.cnts.ix = some i → i < 672 → t.dev.cnts.ix = some (i + 1) ∧ (i < 671 →
        (t.dev.counter i).capVal = (t.dev.counter i).value ∧ (t.dev.counter i).capSel = (t.dev.counter i).sel)) ∧
      (s.dev.cnts.ix = some 672 → t.dev.cnts.ix = none) ∧
      (s.dev.cnts.ix = none → t.dev.cnts.ix = none) ∧
      (s.dev.meas.clocks = true → 4 * s.dev.meas.start + 12800 * (s.dev.meas.derN + 1) ≤ 4 * (s.dev.clk + 1) →
        t.dev.meas.derN = s.dev.meas.derN + 1 ∧ t.dev.meas.stamps = s.dev.meas.stamps ++ [t.dev.stamp 4 8 (4 * s.dev.meas.start) (s.dev.meas.derN + 1)]) ∧
      (s.dev.meas.clocks = false ∨ 4 * (s.dev.clk + 1) < 4 * s.dev.meas.start + 12800 * (s.dev.meas.derN + 1) →
        t.dev.meas = s.dev.meas)

/-! ### Reporting -/

/-- 20 R461: a happening sets its status bit and adds 1 to every counter of its bank that selects it, whether or not the bit was set,
and to no other counter; it is a report and nothing more. -/
def Obligations.HappeningSetsBitAndCounts : Prop :=
  ∀ (d : Dev) (r : Src) (b i : Nat), b < 32 →
    (d.raise r b).flag r.off b = true ∧ Reports d (d.raise r b) ∧
    (d.raise r b).counter i =
      (if i / 16 = r.place.1 ∧ selects (d.counter i) r.place.2.1 b r.place.2.2 = true then (d.counter i).add 1
       else d.counter i)

/-! ### Registers -/

/-- 00 R8, R11, R7, 02 R45, 24 R526, R527: REGISTER_WRITE of `MPT_THR` in CONFIG. Unlocked, a legal word sets both exponents; one that
02 R45 forbids leaves the register as it was, sets `WR_REFUSED_SEEN` and shows its offset; under `LOCK` the write changes nothing and
reports nothing. -/
def Obligations.ThresholdWriteInConfig : Prop :=
  ∀ (s : State) (data : BitVec 64), s.dev.dev = .config →
    let lck := bits data.toNat 4 0
    let unl := bits data.toNat 12 8
    let legal := 12 ≤ unl ∧ unl ≤ 22 ∧ 8 ≤ lck ∧ lck ≤ 18 ∧ lck < unl
    ∃ t, exec (.registerWrite 0x40010 4 data) s = .next t ∧ t.pending = s.pending ∧
      (s.dev.flag Reg.mptCtrl 31 = false → legal →
        t.dev.fld Reg.mptThr 12 8 = unl ∧ t.dev.fld Reg.mptThr 4 0 = lck ∧
        (∀ off, off ≠ Reg.mptThr → t.dev.reg off = s.dev.reg off) ∧ t.dev.core = s.dev.core) ∧
      (s.dev.flag Reg.mptCtrl 31 = false → ¬ legal →
        t.dev.flag Reg.mntStat 1 = true ∧
        Reports { s.dev with mnt := { s.dev.mnt with refOff := 0x40010 } } t.dev) ∧
      (s.dev.flag Reg.mptCtrl 31 = true → t.dev.core = s.dev.core ∧ ∀ off, t.dev.reg off = s.dev.reg off)

/-- 00 R12, 24 R526: in RUN, a REGISTER_WRITE to a register that its chapter does not mark writable in RUN is discarded: it changes
no register but the status bits of the report, sets `RUN_WR_SEEN`, and shows its offset. -/
def Obligations.RunWriteIsDiscarded : Prop :=
  ∀ (s : State) (off : BitVec 24) (size : Nat) (data : BitVec 64), s.dev.dev = .run → size ≠ 8 →
    inMsix off.toNat = false → (∀ r ix, regAt (off.toNat - off.toNat % 4) = some (r, ix) → r.run = false) →
    ∃ t, exec (.registerWrite off size data) s = .next t ∧ t.pending = s.pending ∧ t.dev.flag Reg.mntStat 0 = true ∧
      Reports { s.dev with mnt := { s.dev.mnt with refOff := off.toNat } } t.dev

/-- 00 R8: LOCK_SET in CONFIG, with a word whose other fields the register may hold, leaves the block's RWL fields frozen: its `LOCK`
bit reads 1. -/
def Obligations.LockSetFreezesBlock : Prop :=
  ∀ (s : State) (off : BitVec 24) (data : BitVec 32) (r : RegSpec) (ix : List Nat), s.dev.dev = .config →
    lockOf off.toNat = some off.toNat → regAt off.toNat = some (r, ix) → bit data.toNat 31 = true →
    s.dev.wordOk off.toNat
      (writeWord (s.dev.flag off.toNat 31) false (decide (0xA1000 ≤ off.toNat ∧ off.toNat < 0xA2000)) r.fields
        (s.dev.reg off.toNat) data.toNat) = true →
    ∃ t, exec (.lockSet off data) s = .next t ∧ t.pending = s.pending ∧ t.dev.locked off.toNat = true

/-- 02 R63, 17 R411, R412, R426: MPT_NOW_LO_READ returns MPT [31:0] and latches MPT [47:32] into `MPT_NOW_HI`. QUEUE_DIRECT_READ of a
LOSSY queue, wherever registers are served, returns the next half-word of its oldest item and consumes the item with the last one; of
an empty queue and of any other number it returns `NV` and consumes nothing. LOSSY_QUEUE_DRAIN moves the oldest item of a queue to its
record ring, where the device state serves that, which consumes it too. QUEUE_OCC_READ returns `PEAK` and `OCC`, and `PEAK` starts again from `OCC`. -/
def Obligations.ReadsWithEffects : Prop :=
  ∀ (s : State) (q : Nat), s.dev.dev ≠ .off →
    (∃ t, exec .mptNowLoRead s = .next t ∧ t.pending = s.pending ∧ t.hostMem = s.hostMem ∧
      t.dev.busOut.toNat = s.dev.mpt % 2 ^ 32 ∧ t.dev.tb.nowHi.toNat = s.dev.mpt / 2 ^ 32 ∧
      Reports { s.dev with busOut := t.dev.busOut, tb := t.dev.tb } t.dev ∧
      t.dev.tb = { s.dev.tb with nowHi := t.dev.tb.nowHi }) ∧
    (∀ (item : List Byte) (rest : List (List Byte)), q ≤ 10 → (s.dev.lossy q).items = item :: rest →
      ∃ t, exec (.queueDirectRead q) s = .next t ∧ t.pending = s.pending ∧
        Reports (s.dev.toBus (halfWord item (s.dev.lossy q).hw)) t.dev ∧
        (item.length ≤ 2 * ((s.dev.lossy q).hw + 1) →
          (t.dev.lossy q).hw = 0 ∧ (t.dev.lossy q).consumed = (s.dev.lossy q).consumed + 1 ∧
          (q ≠ 0 ∨ (s.dev.wmark 0).armed = false → (t.dev.lossy q).items = rest)) ∧
        (2 * ((s.dev.lossy q).hw + 1) < item.length →
          (t.dev.lossy q).items = item :: rest ∧ (t.dev.lossy q).hw = (s.dev.lossy q).hw + 1)) ∧
    ((10 < q ∨ (s.dev.lossy q).items = []) →
      ∃ t, exec (.queueDirectRead q) s = .next t ∧ t.dev = (s.dev.toBus 0x80000000).fresh ∧ t.hostMem = s.hostMem ∧ t.pending = s.pending) ∧
    (queueListed q = true →
      ∃ t, exec (.queueOccRead q) s = .next t ∧ t.pending = s.pending ∧ t.hostMem = s.hostMem ∧
        (t.dev.wmark q).peak = s.dev.occ q ∧
        Reports (s.dev.toBus (min 0xFFFF (max (s.dev.wmark q).peak (s.dev.occ q)) * 2 ^ 16 + min 0xFFFF (s.dev.occ q))) t.dev) ∧
    (∀ (q : Fin 11) (item : List Byte) (rest : List (List Byte)), s.dev.ringServed 0 (lossyRing q) = true → (s.dev.ring (lossyRing q)).st = .enabled →
      0 < (s.dev.ring (lossyRing q)).freeEntries → (s.dev.lossy q).items = item :: rest →
      let r := s.dev.ring (lossyRing q)
      ∃ t, exec (.lossyQueueDrain q) s = .next t ∧ t.pending = s.pending ∧ Reports s.dev t.dev ∧
        (t.dev.ring (lossyRing q)).devIdx = r.devIdx + 1 ∧
        (t.dev.lossy q).hw = 0 ∧ (t.dev.lossy q).consumed = (s.dev.lossy q).consumed + 1 ∧
        (q.val ≠ 0 ∨ (s.dev.wmark 0).armed = false → (t.dev.lossy q).items = rest) ∧
        ((s.dev.fn 0).bme = true → t.hostMem = Memory.commit s.hostMem
          [((r.base.toNat + r.devIdx.toNat % r.size * s.dev.entrySize (lossyRing q)) % 2 ^ 64,
            fit (s.dev.entrySize (lossyRing q)) item)]))

/-- 17 R418: WATERMARK_ARM, in CONFIG or RUN, on a queue whose occupancy stands strictly between its thresholds and with
notices enabled, leaves the watermark armed and posts nothing; where a threshold condition holds already, it ends disarmed. -/
def Obligations.WatermarkArmsOrNotices : Prop :=
  ∀ (s : State) (q : Nat) (data : BitVec 32), s.dev.dev = .config ∨ s.dev.dev = .run → queueListed q = true →
    bit data.toNat 31 = true → s.dev.flag Reg.queCtrl 0 = true →
    ∃ t, exec (.watermarkArm q data) s = .next t ∧ t.pending = s.pending ∧ Reports s.dev t.dev ∧
      (s.dev.fld (Reg.queWmCfg q) 15 0 < s.dev.occ q → s.dev.occ q < s.dev.fld (Reg.queWmCfg q) 31 16 →
        (t.dev.wmark q).armed = true ∧ t.dev.eseq = s.dev.eseq) ∧
      (s.dev.occ q ≤ s.dev.fld (Reg.queWmCfg q) 15 0 ∨ s.dev.fld (Reg.queWmCfg q) 31 16 ≤ s.dev.occ q →
        (t.dev.wmark q).armed = false)

/-! ### Check-value units -/

/-- 18 R434-R436: CVU_GO with a legal `POLY` starts a scan of `LEN` bytes on an idle unit, from the algorithm's initial value
when `SEED` is 0; CVU_HALT stops a running scan with `DONE` and `RUN` as they stand; CVU_FEED gives a scan of `SRC` 1 four bytes in
little-endian order, of which the last write supplies only those still required; CVU_SCAN_DONE with the bytes still required ends a
scan of host memory, and writes `RES` where `FINAL` is 1. Other units are left alone. -/
def Obligations.CheckValueScan : Prop :=
  ∀ (s : State) (u : Fin 4) (data : BitVec 32), s.dev.dev = .config ∨ s.dev.dev = .run →
    ((s.dev.cvu u).busy = false → bit data.toNat 31 = true → bits data.toNat 10 8 ≤ 4 →
      ∃ t, exec (.cvuGo u data false) s = .next t ∧ t.pending = s.pending ∧ (t.dev.cvu u).busy = true ∧
        (t.dev.cvu u).halted = false ∧ (t.dev.cvu u).rdErr = false ∧ (t.dev.cvu u).done = 0 ∧
        (t.dev.cvu u).left = s.dev.reg (Reg.cvuLen u) ∧ (t.dev.cvu u).res = (s.dev.cvu u).res ∧
        (bit data.toNat 1 = false → t.dev.cvuRun u = (crcAlg (bits data.toNat 10 8)).init) ∧
        (bit data.toNat 1 = true → t.dev.cvuRun u = s.dev.cvuRun u) ∧
        ∀ v, v ≠ u.val → t.dev.cvu v = s.dev.cvu v) ∧
    ((s.dev.cvu u).busy = true → bit data.toNat 30 = true →
      ∃ t, exec (.cvuHalt u data) s = .next t ∧ t.pending = s.pending ∧
        t.dev = { (s.dev.modCvu u (fun x => { x with busy := false, halted := true, rdErr := false })) with posted := [] }) ∧
    ((s.dev.cvu u).busy = true → s.dev.flag (Reg.cvuCfg u) 0 = true → 0 < (s.dev.cvu u).left →
      ∃ t, exec (.cvuFeed u data) s = .next t ∧ t.pending = s.pending ∧
        (t.dev.cvu u).done = (s.dev.cvu u).done + min 4 (s.dev.cvu u).left ∧
        (t.dev.cvu u).left = (s.dev.cvu u).left - 4 ∧
        (t.dev.cvu u).busy = decide (4 < (s.dev.cvu u).left) ∧
        t.dev.cvuRun u = ((crcAlg (s.dev.fld (Reg.cvuCfg u) 10 8)).across (s.dev.cvuRun u)
          ((leBytes 4 data.toNat).take (s.dev.cvu u).left)) % 2 ^ 64 ∧
        ∀ v, v ≠ u.val → t.dev.cvu v = s.dev.cvu v) ∧
    (∀ bytes : List Byte, (s.dev.cvu u).busy = true → s.dev.flag (Reg.cvuCfg u) 0 = false → (s.dev.fn 0).bme = true →
      bytes.length = (s.dev.cvu u).left →
      ∃ t, exec (.cvuScanDone u bytes false) s = .next t ∧ t.pending = s.pending ∧
        (t.dev.cvu u).busy = false ∧ (t.dev.cvu u).left = 0 ∧ (t.dev.cvu u).done = (s.dev.cvu u).done + bytes.length ∧
        (s.dev.flag (Reg.cvuCfg u) 4 = true →
          (t.dev.cvu u).res = BitVec.ofNat 64 ((crcAlg (s.dev.fld (Reg.cvuCfg u) 10 8)).finish
            ((crcAlg (s.dev.fld (Reg.cvuCfg u) 10 8)).across (s.dev.cvuRun u) bytes))) ∧
        ∀ v, v ≠ u.val → t.dev.cvu v = s.dev.cvu v)

/-! ### Supply, boot and device states -/

/-- 22 R492-R494, R497: VIN_VALID takes the device from OFF to BOOT with V33OUT up, as a level-3 event where what was kept is intact
and as a power cycle else; BROWN_OUT takes it to OFF with every driver muted, every ring disabled, the outputs in high impedance and
every register at its reset value, and writes nothing to host memory; POWER_CYCLE in OFF loses the staged image and the reset cause;
V33_OVERCURRENT switches the output off and shows it, and V33_RETRY 100 ms later switches it on again, or off once more while the overload lasts;
before that it does nothing. -/
def Obligations.SupplyEdges : Prop :=
  ∀ s : State,
    (∀ (mv : Nat) (ok : Bool), s.dev.dev = .off → s.dev.pwr.vinOk = false →
      ∃ t, exec (.vinValid mv ok) s = .next t ∧ t.pending = s.pending ∧ t.hostMem = s.hostMem ∧
        t.dev.dev = .boot ∧ t.dev.pwr.vinOk = true ∧ t.dev.pwr.vin = mv ∧ t.dev.pwr.v33 = .up ∧
        Reports { s.dev with dev := .boot, pwr := t.dev.pwr, sec := t.dev.sec } t.dev ∧
        (ok = true ∧ s.dev.pwr.lost = false →
          t.dev.pwr.cause = 3 ∧ t.dev.pwr.l3 = (s.dev.pwr.l3 + 1) % 65536 ∧ t.dev.sec = s.dev.sec) ∧
        (ok = false ∨ s.dev.pwr.lost = true →
          t.dev.pwr.cause = 0 ∧ t.dev.pwr.l3 = 0 ∧ t.dev.sec.stage = [] ∧ t.dev.sec.pendImg = false)) ∧
    (s.dev.dev ≠ .off →
      ∃ t, exec .brownOut s = .next t ∧ t.pending = s.pending ∧ t.hostMem = s.hostMem ∧ t.dev.dev = .off ∧
        (∀ p, (t.dev.port p).enabled = false) ∧ (∀ k, (t.dev.ring k).st = .disabled) ∧ t.dev.swoHiZ = true ∧
        (∀ off, t.dev.reg off = State.reset.dev.reg off) ∧ t.dev.pwr.v33 = .off ∧ t.dev.pwr.vinOk = false ∧
        t.dev.pwr.l3 = s.dev.pwr.l3 ∧ t.dev.sec.arbCtr = s.dev.sec.arbCtr ∧ t.dev.sec.revoked = s.dev.sec.revoked ∧
        t.dev.sec.kek = none) ∧
    (s.dev.dev = .off →
      ∃ t, exec .powerCycle s = .next t ∧ t.pending = s.pending ∧ t.hostMem = s.hostMem ∧ t.dev.pwr.lost = true ∧
        t.dev.pwr.cause = 0 ∧ t.dev.pwr.l3 = 0 ∧ t.dev.sec.stage = [] ∧ t.dev.sec.pendImg = false ∧
        Reports { s.dev with pwr := t.dev.pwr, sec := t.dev.sec } t.dev) ∧
    (s.dev.pwr.v33 = .up →
      ∃ t, exec .v33Overcurrent s = .next t ∧ t.pending = s.pending ∧ t.hostMem = s.hostMem ∧ t.dev.flag Reg.pwrStat 4 = true ∧
        Reports { s.dev with pwr := { s.dev.pwr with v33 := .tripped, v33At := s.dev.clk } } t.dev) ∧
    (s.dev.pwr.v33 = .tripped → s.dev.pwr.v33At + usClk 100000 ≤ s.dev.clk →
      Reaches (exec (.v33Retry false) s) s { s.dev with pwr := { s.dev.pwr with v33 := .up } } ∧
      ∃ t, exec (.v33Retry true) s = .next t ∧ t.pending = s.pending ∧ t.hostMem = s.hostMem ∧ t.dev.flag Reg.pwrStat 4 = true ∧
        Reports { s.dev with pwr := { s.dev.pwr with v33At := s.dev.clk } } t.dev) ∧
    (s.dev.pwr.v33 = .tripped → s.dev.clk < s.dev.pwr.v33At + usClk 100000 → ∀ o,
      Reaches (exec (.v33Retry o) s) s s.dev)

/-- 22 R498-R501, 19 R445-R447, 02 R38, 03 Table LP.10, 14 R349, 00 R2: PERST_FALL outside OFF and BOOT is a device reset with cause 1, and
in BOOT it holds the boot ROM; PERST_RISE in BOOT latches BOOTSEL, starts link training, sets every port's `DERATE` for VIN and lets the
ROM work through its sources; BOOT_COMPLETE leads to CONFIG with MPT at 0 and the nominal frequency word, and with the switching outputs at their
idle levels; BOOT_FAIL leads to SAFE with the ROM's own service alone; PCIE_LINK_TRAINED ends training with the link's width, x16, x8 or x4, and speed, 8, 16
or 32 GT/s. -/
def Obligations.BootPath : Prop :=
  ∀ s : State,
    (s.dev.dev = .config ∨ s.dev.dev = .run ∨ s.dev.dev = .safe →
      ∃ t, exec .perstFall s = .next t ∧ t.pending = s.pending ∧ t.hostMem = s.hostMem ∧ t.dev.dev = .boot ∧
        t.dev.pwr.perst = false ∧ t.dev.pwr.cause = 1 ∧ t.dev.pwr.l3 = (s.dev.pwr.l3 + 1) % 65536 ∧ t.dev.sec.rom = .held ∧
        (∀ p, (t.dev.port p).enabled = false) ∧ (∀ k, (t.dev.ring k).st = .disabled) ∧
        ∀ off, t.dev.reg off = State.reset.dev.reg off) ∧
    (s.dev.dev = .boot →
      ∃ t, exec .perstFall s = .next t ∧ t.pending = s.pending ∧ t.hostMem = s.hostMem ∧ t.dev.pwr.perst = false ∧
        Reports { s.dev with pwr := t.dev.pwr, sec := { s.dev.sec with rom := .held } } t.dev) ∧
    (∀ (bs : BitVec 2) (io : BootIo), s.dev.dev = .boot → s.dev.pwr.perst = false →
      ∃ t, exec (.perstRise bs io) s = .next t ∧ t.pending = s.pending ∧ t.dev.dev = .boot ∧ t.dev.pwr.perst = true ∧
        t.dev.pwr.bootsel = bs.toNat ∧ t.dev.pwr.training = true ∧
        (∀ p, p < 128 → (t.dev.port p).derate = s.dev.derateFor p s.dev.pwr.vin) ∧
        (s.dev.pwr.thermal = true → s.dev.pwr.temps.all (fun x => decide (x ≤ 100)) = false → t.dev.sec.rom = .cooling io) ∧
        (s.dev.pwr.thermal = false → io.katOk = false → t.dev.sec.rom = .failed ∧ t.dev.sec.lastFail = 0x0A) ∧
        (s.dev.pwr.thermal = false → io.katOk = true → s.dev.sec.pendImg = false → bs.toNat ≤ 1 → io.hasB = false →
          (s.dev.verify srcSize io.slotA = none →
            t.dev.sec.rom = .verified 0 ∧ t.dev.sec.src = 0 ∧ t.dev.sec.area = fit areaLen io.slotA.bytes) ∧
          ∀ code, s.dev.verify srcSize io.slotA = some code →
            t.dev.sec.rom = .failed ∧ t.dev.sec.src = 15 ∧ t.dev.sec.lastFail = code ∧ t.dev.sec.attempts = 1)) ∧
    (∀ src, s.dev.dev = .boot → s.dev.sec.rom = .verified src →
      ∃ t, exec .bootComplete s = .next t ∧ t.pending = s.pending ∧ t.dev.dev = .config ∧ t.dev.mpt = 0 ∧
        t.dev.tb.freq = (if s.dev.flag Reg.mptCtrl 1 then 67553994 else 56294995) ∧
        t.dev.swoHiZ = false ∧ t.dev.swoLvl = s.dev.fld Reg.swoCtrl 15 0 ∧ t.dev.meas.clocks = true ∧ t.dev.sec.rom = .done ∧
        t.dev.sec.trial = s.dev.commitDueImg ∧ t.dev.sec.log = s.dev.sec.log ++ imageLog s.dev.sec.area ∧
        (∀ p, t.dev.port p = s.dev.port p) ∧ ∀ off, statusOff off = false → t.dev.reg off = s.dev.reg off) ∧
    (s.dev.dev = .boot → s.dev.sec.rom = .failed →
      ∃ t, exec .bootFail s = .next t ∧ t.pending = s.pending ∧ t.dev.dev = .safe ∧ t.dev.sec.restricted = true ∧
        t.dev.sec.rom = .done ∧ t.dev.mpt = 0) ∧
    (∀ (w : BitVec 4) (v : BitVec 3), s.dev.dev ≠ .off → s.dev.pwr.training = true → w.toNat ∈ [1, 4, 8] → v.toNat ∈ [3, 4, 5] →
      Reaches (exec (.pcieLinkTrained w v) s) s
        { s.dev with pwr := { s.dev.pwr with training := false, width := w.toNat, speed := v.toNat } })

/-- 21 R481-R483, 01 R32: each of WATCHDOG_EXPIRY after `WDOG_MS`, CLOCK_LOSS, CRIT_MEM_FAULT and a THERMAL_SHUTDOWN at its sensor's limit
takes a device in CONFIG or RUN to SAFE, in which only commands that SAFE accepts stay outstanding; in SAFE it is recorded as the last
fault class, with its bit, and changes nothing else but power and temperature. -/
def Obligations.CriticalFaultsLeadToSafe : Prop :=
  ∀ (s : State) (c : Instr) (cls : Nat), s.dev.dev.live = true →
    ((∃ core ms, c = .watchdogExpiry core ms ∧ s.dev.fld Reg.mntCtrl 15 0 ≤ ms.toNat) ∧ cls = 0x09 ∨
      (∃ core, c = .clockLoss core) ∧ cls = 0x0A ∨ (∃ a g, c = .critMemFault a g) ∧ cls = 0x05 ∨
      (∃ (n : Fin 8) (x : Int), c = .thermalShutdown n x ∧ shutdownLimit n ≤ x ∧ s.dev.pwr.thermal = false) ∧ cls = 0x0B) →
    ∃ t, exec c s = .next t ∧ t.pending = s.pending ∧ t.dev.dev = .safe ∧
      (s.dev.dev ≠ .safe → ∀ x ∈ t.dev.cmds, t.dev.accepts x.desc.opc.toNat = true) ∧
      (s.dev.dev = .safe → t.dev.flag Reg.mntFstat cls = true ∧ t.dev.mnt.fclass = cls ∧
        Reports { s.dev with pwr := t.dev.pwr } t.dev)

/-- 01 R31, R33, 16 R405, 21 R485, 03 Table LP.10: DEV_START in CONFIG leads to RUN and is served with ST_OK; where the boundary set is that of the
last RUN nothing else follows. DEV_STOP in RUN leads to CONFIG with the switching outputs at their idle levels, and ends. DEV_RESET with level 3
leads to BOOT with every ring disabled, every driver muted, no command outstanding, cause 2, and with PERST# high every port's `DERATE` set for
VIN. -/
def Obligations.StartStopReset : Prop :=
  ∀ (s : State) (c : CmdDesc),
    (Accepted s c (CmdSpec.plain 0x01) →
      ∃ e, Serves (exec (.devStart c) s) s e stOk [] ∧ e.dev = .run ∧ e.segPrev = s.dev.segSet ∧ e.sec.started = true ∧
        e.tb = s.dev.tb ∧ e.msync = s.dev.msync ∧ e.ports = s.dev.ports ∧ e.groups = s.dev.groups ∧
        (s.dev.segPrev = [] ∨ s.dev.segPrev = s.dev.segSet →
          Reports { s.dev with dev := .run, segPrev := s.dev.segSet, sec := e.sec } e)) ∧
    (Accepted s c (CmdSpec.plain 0x02) →
      ∃ t, exec (.devStop c) s = .next t ∧ t.pending = s.pending ∧ Ended s t ∧ t.dev.dev = .config ∧
        t.dev.swoLvl = s.dev.fld Reg.swoCtrl 15 0 ∧ t.dev.msync.step = 0) ∧
    (∀ io, Accepted s c { CmdSpec.plain 0x03 with m2 := 0xFFFF } → c.n2 = 3 →
      ∃ t, exec (.devReset c io) s = .next t ∧ t.pending = s.pending ∧ t.dev.dev = .boot ∧ t.dev.cmds = [] ∧
        (∀ k, (t.dev.ring k).st = .disabled) ∧ (∀ p, (t.dev.port p).enabled = false) ∧ t.dev.pwr.cause = 2 ∧
        (s.dev.pwr.perst = true → ∀ p, p < 128 → (t.dev.port p).derate = t.dev.derateFor p s.dev.pwr.vin))

/-- 21 R485, 15 R366, R368: an FLR of a function that exists, and FN_RESET for the function it names, leave the function's anchor, Bus
Master Enable and MSI-X state at their reset values and every ring of it DISABLED, and one of PF1 takes VF Enable with it. An FLR leaves the ports
alone; FN_RESET ends with the device in the state it was in. -/
def Obligations.FunctionResets : Prop :=
  ∀ s : State,
    (∀ f : Fin 34, s.dev.dev ≠ .off → (2 ≤ f.val → s.dev.vfEn = true ∧ f.val - 2 < s.dev.numVfs) →
      ∃ t, exec (.flr f) s = .next t ∧ t.pending = s.pending ∧ t.dev.dev = s.dev.dev ∧
        t.dev.fn f = { Fn.init with sent := (t.dev.fn f).sent, aer := (t.dev.fn f).aer } ∧
        (∀ k, ringFn k = f.val → (t.dev.ring k).st = .disabled) ∧ (f.val = 1 → t.dev.vfEn = false) ∧
        ∀ p, t.dev.port p = s.dev.port p) ∧
    (∀ (c : CmdDesc) (f : Nat), Accepted s c { CmdSpec.plain 0x04 with m2 := 0xFFFF } → fnNamed c.n2 = some f →
      ∃ t, exec (.fnReset c) s = .next t ∧ t.pending = s.pending ∧ Ended s t ∧ t.dev.dev = s.dev.dev ∧
        t.dev.fn f = { Fn.init with sent := (t.dev.fn f).sent, aer := (t.dev.fn f).aer } ∧
        (∀ k, ringFn k = f → (t.dev.ring k).st = .disabled) ∧ (f = 1 → t.dev.vfEn = false))

/-- 19 R448, R450: IMAGE_COMMIT_DONE ends the commit in progress. For an image that was not staged, or whose slot reads back with the SHA-512 of
the trial copy, it raises the anti-rollback counter to the image's SVN, takes its revocations and ends TRIAL; a staged image whose slot reads back
differently leaves the counter, the revocations and TRIAL, and is recorded as the last fault class, 0x08; with one slot, that slot holds
what was written. TRNG_HEALTH_FAIL, outside OFF and BOOT, leaves the failure on record in `SEC_STAT` and as the last fault class, 0x07. -/
def Obligations.CommitAndTrng : Prop :=
  ∀ s : State,
    (s.dev.dev.clocked = true → s.dev.sec.commit = true → ∀ readBack : List Byte,
      ∃ t, exec (.imageCommitDone readBack) s = .next t ∧ t.pending = s.pending ∧ t.hostMem = s.hostMem ∧ t.dev.sec.commit = false ∧
        Reports { s.dev with sec := t.dev.sec } t.dev ∧
        (s.dev.sec.src = 2 → s.dev.sec.hasB = false → t.dev.sec.slotA = some { bytes := readBack, readFail := none }) ∧
        (s.dev.sec.src = 2 → s.dev.writtenWell readBack = false → t.dev.sec.arbCtr = s.dev.sec.arbCtr ∧
          t.dev.sec.trial = s.dev.sec.trial ∧ t.dev.sec.revoked = s.dev.sec.revoked ∧
          t.dev.flag Reg.secStat 1 = true ∧ t.dev.flag Reg.mntFstat 8 = true ∧ t.dev.mnt.fclass = 8) ∧
        (s.dev.sec.src ≠ 2 ∨ s.dev.writtenWell readBack = true → t.dev.sec.trial = false ∧
          t.dev.sec.revoked = s.dev.sec.revoked ||| imgRevoke s.dev.sec.area ∧
          t.dev.sec.arbCtr = if s.dev.sec.arbCtr.toNat < imgSvn s.dev.sec.area then BitVec.ofNat 64 (imgSvn s.dev.sec.area)
            else s.dev.sec.arbCtr)) ∧
    (s.dev.dev.live = true →
      ∃ t, exec .trngHealthFail s = .next t ∧ t.pending = s.pending ∧ t.hostMem = s.hostMem ∧
        Reports { s.dev with sec := { s.dev.sec with trngFail := true } } t.dev ∧
        t.dev.flag Reg.secStat 3 = true ∧ t.dev.flag Reg.mntFstat 7 = true ∧ t.dev.mnt.fclass = 7)

/-! ### Temperature, drivers and ports -/

/-- 22 R504: TALERT_ASSERT at `TALERT_TH` sets the alert and its bit; TALERT_RELEASE outside BOOT ends it once every sensor reads 5
degrees less, and notes what the sensors read; QUADRANT_SHUTDOWN at `QSHUT_TH` powers a quadrant down with its drivers muted;
QUADRANT_POWER_UP 15 degrees below `QSHUT_TH` powers it up and touches no port of another quadrant. -/
def Obligations.TemperatureRules : Prop :=
  ∀ s : State, s.dev.dev ≠ .off →
    (∀ (n : Fin 8) (x : Int), s.dev.pwr.talert = false → s.dev.talertTh ≤ x →
      ∃ t, exec (.talertAssert n x) s = .next t ∧ t.pending = s.pending ∧ t.hostMem = s.hostMem ∧
        t.dev.flag Reg.pwrStat 2 = true ∧
        Reports { s.dev with pwr := { s.dev.pwr with talert := true, temps := setAt s.dev.pwr.temps n x } } t.dev) ∧
    (∀ xs : List Int, s.dev.dev ≠ .boot →
      Reaches (exec (.talertRelease xs) s) s
        { s.dev with pwr := { s.dev.pwr with
          temps := xs
          talert := if xs.all (fun x => decide (x ≤ s.dev.talertTh - 5)) then false else s.dev.pwr.talert } }) ∧
    (∀ (q : Fin 4) (x : Int), s.dev.qshutTh ≤ x → bit s.dev.pwr.qdown q = false →
      ∃ t, exec (.quadrantShutdown q x) s = .next t ∧ t.pending = s.pending ∧ t.dev.dev = s.dev.dev ∧
        bit t.dev.pwr.qdown q = true ∧ ∀ p, p / 32 = q.val → (t.dev.port p).enabled = false) ∧
    (∀ (q : Fin 4) (x : Int), x ≤ s.dev.qshutTh - 15 → bit s.dev.pwr.qdown q = true →
      ∃ t, exec (.quadrantPowerUp q x) s = .next t ∧ t.pending = s.pending ∧ t.hostMem = s.hostMem ∧
        t.dev.pwr.qdown = s.dev.pwr.qdown - 2 ^ q.val ∧
        Reports { s.dev with pwr := t.dev.pwr, present := t.dev.present, gaps := t.dev.gaps, ports := t.dev.ports,
                             mnt := t.dev.mnt } t.dev ∧
        ∀ p, p / 32 ≠ q.val → t.dev.port p = s.dev.port p)

/-- 22 R492, R495, 03 R75, R76: VIN_MEASUREMENT records VIN, raises `DERATE` of every port to what VIN calls for where that is more, keeps
what 0.1 V less would call for among the last eleven such values, and mutes every driver from 18.5 V on until VIN is below 18.2 V;
DERATE_DECREASE, on a port that sends nothing, lowers its `DERATE` to the largest of the values kept, and with it that of every port of the
group for which the same holds. -/
def Obligations.DeratingFollowsVin : Prop :=
  ∀ s : State, s.dev.dev ≠ .off →
    (∀ mv : Nat, ∃ t, exec (.vinMeasurement mv) s = .next t ∧ t.pending = s.pending ∧
      Reports { s.dev with pwr := t.dev.pwr, ports := t.dev.ports } t.dev ∧ t.dev.pwr.vin = mv ∧
      (∀ p, p < 128 → (t.dev.port p).derate = max (s.dev.port p).derate (s.dev.derateFor p mv) ∧
        (t.dev.port p).dqWin = (s.dev.derateFor p (mv - 100) :: (s.dev.port p).dqWin).take 11) ∧
      (18500 ≤ mv → t.dev.pwr.ovMute = true ∧ ∀ p, (t.dev.port p).enabled = false) ∧
      (mv < 18200 → t.dev.pwr.ovMute = false) ∧
      (18200 ≤ mv → mv < 18500 → t.dev.pwr.ovMute = s.dev.pwr.ovMute)) ∧
    (∀ p : Fin 128, s.dev.derateDue p = true →
      Reaches (exec (.derateDecrease p) s) s
        (((groupPorts (portGroup p)).filter s.dev.derateDue).foldl (fun d q =>
          d.modPort q (fun x => { x with derate := (s.dev.port q).dq })) s.dev))

/-- 03 R77, R78, R79, R86, 04 R107: in RUN, DRIVER_OVERCURRENT with more than 10 µs of the last 1 ms above `OC_LIMIT`, and
DRIVER_THERMAL_FAULT above `FOLD_TEMP`, mute the driver, hold the fault, call for a new calibration and take the canceller to IDLE; a
second over-current within 1 s of the return to service bars the port. DRIVER_FAULT_CLEAR clears each fault whose condition is over, and
no other. PORT_CAL_DONE ends a converter calibration: the port holds the trims and offsets found and whether the checks of 03 R79 passed, and
counts as calibrated where they did and no driver fault stands. -/
def Obligations.DriversAndCalibration : Prop :=
  ∀ (s : State) (p : Fin 128),
    (∀ amps, s.dev.dev = .run → (s.dev.port p).ocFault = false → 10000 < s.dev.overTime p (lastMs amps) →
      ∃ t, exec (.driverOvercurrent p amps) s = .next t ∧ t.pending = s.pending ∧ t.dev.dev = .run ∧
        (t.dev.port p).enabled = false ∧ (t.dev.port p).ocFault = true ∧ (t.dev.port p).calOk = false ∧
        (t.dev.port p).ech = .idle ∧ (t.dev.port p).held = true ∧
        (∀ r, (s.dev.port p).ocReturn = some r → s.dev.clk < r + usClk 1000000 → (t.dev.port p).ocBarred = true)) ∧
    (∀ x : Int, s.dev.dev = .run → (s.dev.port p).thFault = false → s.dev.foldTemp p < x →
      ∃ t, exec (.driverThermalFault p x) s = .next t ∧ t.pending = s.pending ∧ t.dev.dev = .run ∧
        (t.dev.port p).enabled = false ∧ (t.dev.port p).thFault = true ∧ (t.dev.port p).calOk = false ∧
        (t.dev.port p).temp = x ∧ (t.dev.port p).ech = .idle ∧ (t.dev.port p).held = true) ∧
    (∀ x : Int, s.dev.dev ≠ .off → ((s.dev.port p).ocFault || (s.dev.port p).thFault) = true →
      ∃ t, exec (.driverFaultClear p x) s = .next t ∧ t.pending = s.pending ∧ t.hostMem = s.hostMem ∧
        Reports { s.dev with ports := t.dev.ports, mnt := t.dev.mnt } t.dev ∧
        (∀ q, q ≠ p.val → t.dev.port q = s.dev.port q) ∧
        t.dev.port p = { s.dev.port p with
          temp := x
          thFault := (s.dev.port p).thFault && decide (s.dev.foldTemp p - 10 < x)
          ocFault := (s.dev.port p).ocFault && decide (s.dev.clk < (s.dev.port p).ocAt + usClk 100000) }) ∧
    (∀ r : CalResult, s.dev.dev = .run → (s.dev.port p).calib = true →
      let pass := CalPasses r && !bit s.dev.pwr.qdown (portQuad p)
      ∃ t, exec (.portCalDone p r) s = .next t ∧ t.pending = s.pending ∧ t.dev.dev = .run ∧ (t.dev.port p).calib = false ∧
        (t.dev.port p).calOk = (pass && !(s.dev.port p).ocFault && !(s.dev.port p).thFault) ∧
        (t.dev.port p).calFail = !pass ∧
        (t.dev.port p).ldacTrim = r.ldacTrim ∧ (t.dev.port p).sadcOfs = r.sadcOfs ∧ (t.dev.port p).madcOfs = r.madcOfs)

/-! ### Groups, shaping and masks -/

/-- 01 R33, R34, 16 R397, 22 R502: GRP_SETUP writes profile, coupling mode, port enables, region and roles of a group in DOWN, and
nothing else; GRP_START of a group in DOWN with an enabled port leaves it CALIBRATING, with every such port in converter calibration
and the command waiting; GRP_STOP leaves the group DOWN. -/
def Obligations.GroupCommands : Prop :=
  ∀ (s : State) (c : CmdDesc),
    (Accepted s c { CmdSpec.plain 0x10 with m1 := 0x77773FFF, m2 := 0xFFFF, lim2 := 32 } → (s.dev.group c.n2).st = .down →
      c.f1 3 2 ≠ 3 → rolesOk (c.f1 31 16) = true →
      Serves (exec (.grpSetup c) s) s
        (((((s.dev.setFld (Reg.wfCtrl c.n2) 1 0 (c.f1 1 0)).setFld (Reg.grpCtrl c.n2) 1 0 (c.f1 3 2)).setFld
          (Reg.grpCtrl c.n2) 11 8 (c.f1 7 4)).setFld (Reg.ffCtrl c.n2) 21 16 (c.f1 13 8)).setReg (Reg.grpRole c.n2) (c.f1 30 16))
        stOk []) ∧
    (Accepted s c { CmdSpec.plain 0x11 with m2 := 0xFFFF, lim2 := 32 } → (s.dev.group c.n2).st = .down →
      s.dev.enabledPorts c.n2 ≠ [] →
      ∃ t, exec (.grpStart c) s = .next t ∧ t.pending = s.pending ∧ t.dev.dev = .run ∧
        (t.dev.group c.n2).st = .calibrating ∧ (t.dev.group c.n2).startCmd = some s.dev.nextId ∧
        ∀ p ∈ s.dev.enabledPorts c.n2, (t.dev.port p).calib = true ∧ (t.dev.port p).enabled = false ∧
          (t.dev.port p).ech = .idle) ∧
    (Accepted s c { CmdSpec.plain 0x12 with m2 := 0xFFFF, lim2 := 32 } →
      ∃ t, exec (.grpStop c) s = .next t ∧ t.pending = s.pending ∧ t.dev.dev = .run ∧ Ended s t ∧
        (t.dev.group c.n2).st = .down)

/-- 21 R477, R478, 04 Table FD.7: PORT_RECAL and ECH_TRAIN on a port whose group is not DOWN join the port's maintenance queue and wait; one
that finds a request of its kind waiting or running is merged with it; one that finds four requests waiting completes with ST_NO_ROOM.
ECH_TRAIN for a port in the training of its group's start, which no request runs, waits for that training. -/
def Obligations.MaintenanceCommands : Prop :=
  ∀ (s : State) (c : CmdDesc) (i : Instr) (kind opc : Nat),
    (i = .portRecal c ∧ kind = 1 ∧ opc = 0x13 ∨ i = .echTrain c ∧ kind = 2 ∧ opc = 0x14) →
    Accepted s c { CmdSpec.plain opc with m2 := 0xFFFF, lim2 := 128 } → (s.dev.group (portGroup c.n2)).st ≠ .down →
    (kind = 2 → (s.dev.port c.n2).ech = .training → s.dev.runOf 2 c.n2 = none → Waits (exec i s) s (s.dev.joinStart c.n2 s.dev.nextId)) ∧
    ((kind = 2 → (s.dev.port c.n2).ech = .training → (s.dev.runOf 2 c.n2).isSome = true) →
      (((s.dev.runOf kind c.n2).isSome || s.dev.waits kind c.n2) = false → (s.dev.reqsAt c.n2).length < 4 →
        Waits (exec i s) s (s.dev.enqueueMnt kind [c.n2] (some s.dev.nextId) none)) ∧
      (((s.dev.runOf kind c.n2).isSome || s.dev.waits kind c.n2) = true →
        Waits (exec i s) s { s.dev with mnt := { s.dev.mnt with merges := s.dev.mnt.merges ++
          [{ kind := kind, port := c.n2, cmd := s.dev.nextId, accept := s.dev.clk,
             found := if (s.dev.runOf kind c.n2).isSome then 0 else s.dev.runKind c.n2, start := false }] } }) ∧
      (((s.dev.runOf kind c.n2).isSome || s.dev.waits kind c.n2) = false → 4 ≤ (s.dev.reqsAt c.n2).length →
        Serves (exec i s) s s.dev stNoRoom []))

/-- 06 R158-R163: SHAPE_LOAD writes the 64 weights of a bank that is not in force, or of either bank while shaping is free, and
completes with ST_BANK_BUSY else; SHAPE_SWAP changes bank at once while shaping is free or its target is in force, starts a fade else,
and waits behind a fade in progress; FADE_END puts the bank faded to in force and handles the swap that waited. -/
def Obligations.ShapingBanks : Prop :=
  ∀ s : State,
    (∀ c : CmdDesc, Accepted s c { CmdSpec.plain 0x16 with
        len := fun _ n => decide (n = 256), m1 := 1, m2 := 0xFFFF, lim2 := 128 } →
      (List.range 64).all (fun t => decide (leAt c.bytes (4 * t) 4 < 2 ^ 18)) = true →
      let free := s.dev.shapeFree c.n2 ||
        ((s.dev.port c.n2).fade.isNone && decide (b2n (s.dev.port c.n2).bank ≠ c.f1 0 0))
      (free = true → Serves (exec (.shapeLoad c) s) s
        (iter 64 (fun t d => d.setReg (Reg.shape (portGroup c.n2) (c.n2 % 4) (c.f1 0 0) t) (leAt c.bytes (4 * t) 4)) s.dev)
        stOk []) ∧
      (free = false → Serves (exec (.shapeLoad c) s) s s.dev stBankBusy [])) ∧
    (∀ c : CmdDesc, Accepted s c { CmdSpec.plain 0x17 with m1 := 0xFF01, m2 := 0xFFFF, lim2 := 128 } → c.f1 15 8 ≤ 128 →
      let target := decide (c.f1 0 0 = 1)
      let fs := s.dev.fadeLen c.n2 (c.f1 15 8)
      (s.dev.shapeFree c.n2 = true →
        Serves (exec (.shapeSwap c) s) s (s.dev.modPort c.n2 (fun x => { x with bank := target })) stOk []) ∧
      (s.dev.shapeFree c.n2 = false → (s.dev.port c.n2).fade = none → (s.dev.port c.n2).bank = target →
        Serves (exec (.shapeSwap c) s) s s.dev stOk []) ∧
      (s.dev.shapeFree c.n2 = false → (s.dev.port c.n2).fade = none → (s.dev.port c.n2).bank ≠ target →
        Waits (exec (.shapeSwap c) s) s (s.dev.startFade c.n2 fs (some s.dev.nextId))) ∧
      (s.dev.shapeFree c.n2 = false → (s.dev.port c.n2).fade ≠ none →
        Reaches (exec (.shapeSwap c) s) s
          (s.dev.modPort c.n2 (fun x => { x with swap := some { target := target, fs := fs, cmd := some s.dev.nextId } })))) ∧
    (∀ (p : Fin 128) (f : Fade), (s.dev.port p).fade = some f → f.len ≤ f.i →
      ∃ t, exec (.fadeEnd p) s = .next t ∧ t.pending = s.pending ∧ Reports { s.dev with ports := t.dev.ports } t.dev ∧
        (∀ q, q ≠ p.val → t.dev.port q = s.dev.port q) ∧
        ((s.dev.port p).swap = none → t.dev.port p = { s.dev.port p with fade := none, bank := !f.src }) ∧
        (∀ w, (s.dev.port p).swap = some w → t.dev.port p = { s.dev.port p with
          bank := !f.src, swap := none
          fade := if w.target = !f.src then none else some { i := 0, len := w.fs * 73728, src := !f.src, cmd := w.cmd } }))

/-- 06 R150, R153, 16 R398: MASK_LOAD with legal entries changes a group's mask at once in CONFIG or while the group is DOWN, entries
not given becoming unused, and else waits for the beacons to announce it; MASK_EFFECTIVE at the announced beacon period puts it in
force and ends the command. Either way the mask it replaces is kept, with the sample count of the change, for frames that began before it. -/
def Obligations.MaskChanges : Prop :=
  ∀ s : State,
    (∀ c : CmdDesc, Accepted s c { CmdSpec.plain 0x15 with
        len := fun _ n => decide (4 ≤ n ∧ n ≤ 256 ∧ n % 4 = 0), m1 := 0xF, m2 := 0xFFFF, lim2 := 32 } →
      (s.dev.group c.n2).maskNext = none → (maskBlock c).all (fun w => maskEntryOk w.toNat) = true →
      (s.dev.dev = .config ∨ (s.dev.group c.n2).st = .down →
        ∃ e, Serves (exec (.maskLoad c) s) s e stOk (quints 0 0 0 0 0) ∧ (e.group c.n2).maskVer = c.f1 3 0 ∧
          (e.group c.n2).maskWas = some (s.dev.tb.n, s.dev.maskOf c.n2) ∧
          (∀ n, n < 64 → e.reg (Reg.mask c.n2 n) = ((maskBlock c).getD n 0).toNat) ∧ e.ports = s.dev.ports ∧
          e.nodes = s.dev.nodes) ∧
      (s.dev.dev = .run → (s.dev.group c.n2).st ≠ .down →
        Waits (exec (.maskLoad c) s) s (s.dev.modGroup c.n2 (fun x => { x with
          maskNext := some { entries := maskBlock c, ver := c.f1 3 0, effBp := none, cmd := s.dev.nextId } })))) ∧
    (∀ (g : Fin 32) (m : MaskChange) (b : Nat), s.dev.dev.clocked = true → (s.dev.group g).maskNext = some m →
      m.effBp = some b → bpSince b s.dev.msync.bpi < 2 ^ 22 →
      ∃ t, exec (.maskEffective g) s = .next t ∧ t.pending = s.pending ∧ t.dev.cmdOf m.cmd = none ∧
        (t.dev.group g).maskNext = none ∧ (t.dev.group g).maskVer = m.ver ∧
        (t.dev.group g).maskWas = some (s.dev.tb.n, s.dev.maskOf g) ∧
        (∀ n, n < 64 → t.dev.reg (Reg.mask g n) = (m.entries.getD n 0).toNat) ∧ t.dev.ports = s.dev.ports ∧
        t.dev.nodes = s.dev.nodes)

/-! ### Timebase and MSYNC -/

/-- 02 R42, R44-R47: HALF_CYCLE_DETECT enters the half-cycle in the history of its reference as valid or not, a valid one with its RMS, and
keeps the bits that make no whole output of the tap yet; while MPT follows a live reference a valid one gives the phase error and counts
towards lock and unlock, and an invalid one restarts both counts and leaves MPT; before the first lock the timebase takes the detected phase,
the frequency of the half-cycle's length where the one before it was valid too, and leaves the cycle count; after it what a beacon period takes
of correction stays within 2^SLEW_EXP. -/
def Obligations.HalfCycles : Prop :=
  ∀ (s : State) (pri alt : BitRuns), s.dev.dev.clocked = true →
    let obs := if s.dev.tb.usingAlt then alt else pri
    let e := s.dev.phaseError obs
    let h := s.dev.refHist s.dev.refPri
    let len := runLen obs
    ∃ t, exec (.halfCycleDetect pri alt) s = .next t ∧ t.pending = s.pending ∧ t.hostMem = s.hostMem ∧
      Reports { s.dev with tb := t.dev.tb } t.dev ∧
      (s.dev.altEn = false ∧ s.dev.tb.usingAlt = false ∨ s.dev.refAlt ≠ s.dev.refPri →
        (t.dev.refHist s.dev.refPri).part.length < 256 ∧
        (s.dev.halfValid s.dev.refPri pri = true →
          (t.dev.refHist s.dev.refPri).rms = (rmsCode (s.dev.halfOuts s.dev.refPri pri) :: h.rms).take 64 ∧
          (t.dev.refHist s.dev.refPri).valid = h.valid + 1 ∧ (t.dev.refHist s.dev.refPri).invalid = 0) ∧
        (s.dev.halfValid s.dev.refPri pri = false →
          (t.dev.refHist s.dev.refPri).rms = h.rms ∧ (t.dev.refHist s.dev.refPri).valid = 0 ∧
          (t.dev.refHist s.dev.refPri).invalid = h.invalid + 1)) ∧
      (s.dev.refLive = true → s.dev.halfValid s.dev.refUse obs = true →
        t.dev.tb.phaseErr = e ∧
        t.dev.tb.lockRun = (if absI e < 2 ^ s.dev.fld Reg.mptThr 4 0 then s.dev.tb.lockRun + 1 else 0) ∧
        t.dev.tb.bigRun = (if 2 ^ s.dev.fld Reg.mptThr 12 8 < absI e then s.dev.tb.bigRun + 1 else 0) ∧
        (s.dev.tb.everLocked = false → t.dev.mpt / 2 ^ 24 = s.dev.mpt / 2 ^ 24 ∧
          t.dev.mpt % 2 ^ 24 = unsigned 24 ((s.dev.mpt % 2 ^ 24 : Nat) + e) ∧
          ((s.dev.refHist s.dev.refUse).valid = 0 → t.dev.tb.freq = s.dev.tb.freq) ∧
          ((s.dev.refHist s.dev.refUse).valid ≠ 0 → t.dev.tb.freq = BitVec.ofNat 32 (2 ^ 48 / (25 * len)) ∨
            t.dev.tb.freq = BitVec.ofNat 32 (2 ^ 48 / (25 * len) + 1))) ∧
        (s.dev.tb.everLocked = true → t.dev.tb.acc = s.dev.tb.acc ∧ t.dev.tb.freq = s.dev.tb.freq ∧
          (s.dev.tb.corrUsed ≤ s.dev.slewLimit → t.dev.tb.corrUsed ≤ s.dev.slewLimit))) ∧
      (s.dev.refLive = true → s.dev.halfValid s.dev.refUse obs = false →
        t.dev.tb.lockRun = 0 ∧ t.dev.tb.bigRun = 0 ∧ t.dev.tb.freq = s.dev.tb.freq ∧ t.dev.tb.acc = s.dev.tb.acc) ∧
      (s.dev.refLive = false → t.dev.tb.freq = s.dev.tb.freq ∧ t.dev.tb.acc = s.dev.tb.acc ∧
        t.dev.tb.lockRun = s.dev.tb.lockRun ∧ t.dev.tb.bigRun = s.dev.tb.bigRun)

/-- 02 R41, R45, R47-R49: TIMEBASE_LOCK after `LOCK_CNT` small errors locks, marks EVER_LOCKED and ends holdover; TIMEBASE_UNLOCK after
four consecutive large ones unlocks; REF_SWITCH, when due, changes the reference in use and nothing else of the timebase; LOSS_OF_MAINS enters
holdover at the mean of the frequency words of the 32 half-cycles before the losing run, where it divides; HOLDOVER_END takes up a reference that
is back, the primary first. -/
def Obligations.LockAndHoldover : Prop :=
  ∀ s : State, s.dev.dev.clocked = true →
    (s.dev.tb.locked = false → s.dev.fld Reg.mptCtrl 15 8 ≤ s.dev.tb.lockRun →
      ∃ t, exec .timebaseLock s = .next t ∧ t.pending = s.pending ∧ t.dev.dev = s.dev.dev ∧
        t.dev.tb = { s.dev.tb with locked := true, everLocked := true, holdover := false, taken := false, bigRun := 0 }) ∧
    (s.dev.tb.locked = true → 4 ≤ s.dev.tb.bigRun →
      Reaches (exec .timebaseUnlock s) s { s.dev with tb := { s.dev.tb with locked := false, lockRun := 0 } }) ∧
    (s.dev.refLive = true →
      (if s.dev.tb.usingAlt then s.dev.refBack s.dev.refPri
       else s.dev.altEn && s.dev.refLost s.dev.refPri && s.dev.refValid s.dev.refAlt) = true →
      Reaches (exec .refSwitch s) s { s.dev with tb := { s.dev.tb with usingAlt := !s.dev.tb.usingAlt } }) ∧
    (s.dev.refLive = true → s.dev.refLost s.dev.refUse = true → s.dev.otherValid = false →
      let h := (s.dev.tb.freqHist.drop (s.dev.refHist s.dev.refUse).invalid).take 32
      ∃ t, exec .lossOfMains s = .next t ∧ t.pending = s.pending ∧ t.dev.tb.holdover = true ∧ t.dev.tb.locked = false ∧
        t.dev.tb.acc = s.dev.tb.acc ∧ t.dev.tb.corrLeft = 0 ∧
        (h ≠ [] → h.foldl (· + ·) 0 % h.length = 0 →
          t.dev.tb.freq = BitVec.ofNat 32 (h.foldl (· + ·) 0 / h.length)) ∧
        Reports { s.dev with tb := t.dev.tb, meas := { s.dev.meas with cycHold := true } } t.dev) ∧
    (s.dev.tb.holdover = true → s.dev.tb.taken = false →
      (s.dev.refBack s.dev.refPri || (s.dev.altEn && s.dev.refBack s.dev.refAlt)) = true →
      ∃ t, exec .holdoverEnd s = .next t ∧ t.pending = s.pending ∧ Reports { s.dev with tb := t.dev.tb } t.dev ∧
        t.dev.tb.taken = true ∧ t.dev.tb.holdover = true ∧ t.dev.tb.usingAlt = !s.dev.refBack s.dev.refPri)

/-- 02 R50, 05 R130, R131: CONVERTER_PLL_LOCK starts the sample counters together at 0 and makes the streams of every quadrant in service
present, those of the others absent from sample 0 on; MPT_ANCHOR, every 1,024 cycles of CK_MPT, publishes the sample count, MPT and the rate
per sample, which is the exact quotient rounded one way or the other. -/
def Obligations.SampleAnchors : Prop :=
  ∀ s : State, s.dev.dev.clocked = true →
    (s.dev.tb.running = false →
      ∃ t, exec .converterPllLock s = .next t ∧ t.pending = s.pending ∧ t.hostMem = s.hostMem ∧
        t.dev.tb = { s.dev.tb with running := true, n := 0, ancN := 0, ancM := s.dev.mpt, ancClk := s.dev.clk, ancR := t.dev.tb.ancR } ∧
        (t.dev.tb.ancR = s.dev.tb.freq.toNat * 2 ^ 16 / 5 ∨ t.dev.tb.ancR = s.dev.tb.freq.toNat * 2 ^ 16 / 5 + 1) ∧
        (∀ q, q < 4 → bit t.dev.present q = !bit s.dev.pwr.qdown q) ∧
        t.dev.gaps = ((List.range 4).filter (bit s.dev.pwr.qdown)).map (fun q => (q, 0, none)) ∧
        Reports { s.dev with tb := t.dev.tb, present := t.dev.present, gaps := t.dev.gaps } t.dev) ∧
    (s.dev.tb.running = true → s.dev.tb.ancClk + 1024 ≤ s.dev.clk →
      ∃ t, exec .mptAnchor s = .next t ∧ t.pending = s.pending ∧ t.hostMem = s.hostMem ∧
        t.dev.tb = { s.dev.tb with ancN := s.dev.tb.n, ancM := s.dev.mpt, ancClk := s.dev.clk, ancR := t.dev.tb.ancR } ∧
        (t.dev.tb.ancR = s.dev.tb.freq.toNat * 2 ^ 16 / 5 ∨ t.dev.tb.ancR = s.dev.tb.freq.toNat * 2 ^ 16 / 5 + 1) ∧
        Reports { s.dev with tb := t.dev.tb } t.dev)

/-- 02 R46, R56-R60, R62: MSYNC_EDGE of the polarity of `EDGE` is matched with the nearest boundary, and accepted within the window once per
boundary: its error sets the target, limited to ABS; else it changes nothing but its report. MSYNC_STEP at a boundary applies the step decided
before and decides the next, within RATE and 0 outside RUN, towards the target, or towards the one before it where the edge came in the very
cycle; it counts the beacon period on, and the corrections found in the period that ends begin to act. MSYNC_MISS ends tracking after DIV + 1
boundaries without an accepted edge. -/
def Obligations.MsyncSteps : Prop :=
  ∀ s : State, s.dev.dev.clocked = true →
    (∀ (ago : Nat) (falling : Bool), s.dev.msyncEn = true →
      let b := nearestBound (s.dev.edgePos ago) s.dev.edgeBounds (s.dev.msync.bpi, s.dev.msync.ofs)
      let e := edgeError (s.dev.edgePos ago) b
      let lim : Int := s.dev.fld Reg.msyncAbs 19 0
      (falling ≠ s.dev.flag Reg.msyncCtrl 1 ∨ 2 ^ s.dev.fld Reg.msyncCtrl 20 16 < absI e ∨ s.dev.msync.accepted = some b.1 →
        Reaches (exec (.msyncEdge ago falling) s) s s.dev) ∧
      (falling = s.dev.flag Reg.msyncCtrl 1 → absI e ≤ 2 ^ s.dev.fld Reg.msyncCtrl 20 16 → s.dev.msync.accepted ≠ some b.1 →
        ∃ t, exec (.msyncEdge ago falling) s = .next t ∧ t.pending = s.pending ∧
          Reports { s.dev with msync := t.dev.msync } t.dev ∧ t.dev.msync.err = e ∧ t.dev.msync.accepted = some b.1 ∧
          t.dev.msync.tracking = true ∧ t.dev.msync.ofs = s.dev.msync.ofs ∧ t.dev.msync.step = s.dev.msync.step ∧
          absI t.dev.msync.tgt ≤ lim ∧ (absI (b.2 + e) ≤ lim → t.dev.msync.tgt = b.2 + e))) ∧
    (s.dev.bpDue = true →
      let target := if s.dev.msyncEn then (s.dev.msync.judged s.dev.clk).1 else 0
      ∃ t, exec .msyncStep s = .next t ∧ t.pending = s.pending ∧ t.dev.msync.bpi = (s.dev.msync.bpi + 1) % 2 ^ 23 ∧
        t.dev.msync.ofs = s.dev.msync.ofs + s.dev.msync.step ∧
        t.dev.msync.past = (s.dev.msync.ofs :: s.dev.msync.past).take 16 ∧
        t.dev.msync.tgt = (if s.dev.msyncEn then s.dev.msync.tgt else 0) ∧
        absI t.dev.msync.step ≤ s.dev.fld Reg.msyncRate 14 0 ∧
        (s.dev.dev ≠ .run → t.dev.msync.step = 0) ∧
        (s.dev.dev = .run → absI (target - t.dev.msync.ofs) ≤ s.dev.fld Reg.msyncRate 14 0 →
          t.dev.msync.step = target - t.dev.msync.ofs) ∧
        t.dev.tb.freq = BitVec.ofInt 32 ((s.dev.tb.freq.toNat : Int) + s.dev.tb.freqNext) ∧
        t.dev.tb.corrLeft = s.dev.tb.corrLeft + s.dev.tb.corrNext * ((2 ^ 24 : Nat) : Int) ∧
        Reports { s.dev with
          msync := t.dev.msync
          tb := { s.dev.tb with freq := t.dev.tb.freq, corrLeft := t.dev.tb.corrLeft, corrRate := t.dev.tb.corrRate,
                                corrUsed := 0, corrNext := 0, freqNext := 0 } } t.dev) ∧
    (s.dev.msyncEn = true →
      (2 ^ s.dev.fld Reg.msyncCtrl 20 16 : Int) ≤ edgeError (s.dev.mpt : Int) (s.dev.msync.bpi, s.dev.msync.ofs) →
      s.dev.msync.accepted ≠ some s.dev.msync.bpi → s.dev.msyncDiv ≤ bpSince s.dev.msync.runStart s.dev.msync.bpi →
      bpSince s.dev.msync.runStart s.dev.msync.bpi < 2 ^ 22 →
      Reaches (exec .msyncMiss s) s
        { s.dev with msync := { s.dev.msync with runStart := s.dev.msync.bpi, tracking := false } })

/-! ### Nodes -/

/-- 16 R399, R400, 10 R275, 11 R301: POLICY_SET and FWD_SET add records in place of those of the same key, remove, or clear, and
complete with ST_NO_ROOM, the table unchanged, where it would overflow; an added record that denies evicts the admitted nodes of its
EUI-64. ADMIT_MODE writes the group's admission mode. NODE_READ writes the handle's neighbour entry to `RADDR`. -/
def Obligations.NodeTables : Prop :=
  ∀ (s : State) (c : CmdDesc),
    (Accepted s c { CmdSpec.plain 0x20 with len := fun _ n => decide (n % 16 = 0 ∧ n ≤ 4096), m2 := 3, lim2 := 3 } →
      (records 16 c.bytes).all (fun b => policyRsvd b && (decide (c.n2 ≠ 0) || policyRange (policyRec b))) = true →
      let rs := (records 16 c.bytes).map policyRec
      let table := rs.foldl (fun (t : List Policy) r => t.filter (fun p => decide (p.eui ≠ r.eui)) ++ [r]) s.dev.policy
      (c.n2 = 2 → Serves (exec (.policySet c) s) s { s.dev with policy := [] } stOk []) ∧
      (c.n2 = 1 → Serves (exec (.policySet c) s) s
        { s.dev with policy := s.dev.policy.filter (fun p => !rs.any (fun r => decide (r.eui = p.eui))) } stOk []) ∧
      (c.n2 = 0 → 16384 < table.length → Serves (exec (.policySet c) s) s s.dev stNoRoom []) ∧
      (c.n2 = 0 → table.length ≤ 16384 →
        ∃ t, exec (.policySet c) s = .next t ∧ t.pending = s.pending ∧ Ended s t ∧ t.dev.policy = table ∧
          ((∀ r ∈ rs, r.deny = false) → Reports { s.dev with policy := table } t.dev) ∧
          ∀ r ∈ rs, r.deny = true → ∀ h, (s.dev.node h).eui = r.eui → (s.dev.node h).st.isAdmitted = true →
            (t.dev.node h).st = .evicted)) ∧
    (Accepted s c { CmdSpec.plain 0x28 with len := fun _ n => decide (n % 4 = 0 ∧ n ≤ 512), m2 := 3, lim2 := 3 } →
      (records 4 c.bytes).all (fun b => decide (bits (leNat b) 7 5 = 0 ∧ bits (leNat b) 30 30 = 0 ∧ bits (leNat b) 15 8 ≠ 0))
        = true →
      let rs := (records 4 c.bytes).map (fun b => fwdRec (leNat b))
      let same := fun (a b : FwdEntry) => decide (a.grp = b.grp ∧ a.ftag = b.ftag)
      let table := rs.foldl (fun (t : List FwdEntry) r => t.filter (fun e => !same e r) ++ [r]) s.dev.fwd
      (c.n2 = 2 → Serves (exec (.fwdSet c) s) s { s.dev with fwd := [] } stOk []) ∧
      (c.n2 = 1 → Serves (exec (.fwdSet c) s) s { s.dev with fwd := s.dev.fwd.filter (fun e => !rs.any (same e)) } stOk []) ∧
      (c.n2 = 0 → 1024 < table.length → Serves (exec (.fwdSet c) s) s s.dev stNoRoom []) ∧
      (c.n2 = 0 → table.length ≤ 1024 → Serves (exec (.fwdSet c) s) s { s.dev with fwd := table } stOk [])) ∧
    (Accepted s c { CmdSpec.plain 0x21 with m1 := 3, m2 := 0xFFFF, lim2 := 32 } →
      Serves (exec (.admitMode c) s) s (s.dev.setFld (Reg.gongGrp c.n2) 17 16 (c.f1 1 0)) stOk []) ∧
    (Accepted s c { nodeSpec 0x24 0 with needR := true } →
      ServesBlock (exec (.nodeRead c) s) s s.dev stOk [] (s.dev.neighbour c.n2))

/-- 10 R265, R266, Table GC.11: an ASSOC_REQ of a new EUI-64 in a group that is up takes the first free handle: where the group admits it,
the handle becomes ADMITTED and RESULT 0 with its address is queued; where policy denies it or it lacks the group's profile, the handle
stays free. ADMIT_DECIDE admits or refuses the node that waits for the host, and finds none otherwise; ADMIT_ASK_TIMEOUT refuses it. -/
def Obligations.Association : Prop :=
  ∀ s : State,
    (∀ (g : Fin 32) (body : List Byte) (h : Nat), s.dev.dev = .run → (s.dev.group g).st.up = true → 20 ≤ body.length →
      let eui := BitVec.ofNat 64 (leAt body 0 8)
      (s.dev.group g).bq.any (respPending s.dev.msync.bpi eui) = false → s.dev.byEui eui = [] → s.dev.freeHandle = some h →
      let deny := match s.dev.policyOf eui with | some p => p.deny | none => false
      let allow := match s.dev.policyOf eui with | some p => p.allow && decide (p.grp = g.val ∨ p.grp = 255) | none => false
      let lacks := !bit (byteAt body 9) (s.dev.profile g)
      let mode := s.dev.fld (Reg.gongGrp g) 17 16
      ∃ t, exec (.assocReq g body) s = .next t ∧ t.pending = s.pending ∧
        ((deny || lacks) = true → (t.dev.node h).st = .unknown) ∧
        ((deny || lacks) = false → (s.dev.admittedOf g).length < 512 → mode = 0 ∨ (mode = 1 ∧ allow = true) →
          (t.dev.node h).st = .admitted ∧ (t.dev.node h).eui = eui ∧ (t.dev.node h).grp = g.val ∧
          ∃ m ∈ (t.dev.group g).bq, ∃ ph, m.data =
            mgmtMsg 0x02 (assocResp eui (byteAt body 11) 0 (t.dev.node h).saddr 0 ph)) ∧
        ((deny || lacks) = false → (s.dev.admittedOf g).length < 512 → mode = 2 →
          (t.dev.node h).st = .associating ∧ (t.dev.node h).askBp = some s.dev.msync.bpi)) ∧
    (∀ c : CmdDesc, Accepted s c { CmdSpec.plain 0x22 with m0 := 2 ^ 64 - 1, m1 := 1, m2 := 0xFFFF, lim2 := 32 } →
      let asked := (s.dev.byEui c.a0).find? (fun h => decide ((s.dev.node h).grp = c.n2) && s.dev.askPending h)
      (asked = none → Serves (exec (.admitDecide c) s) s s.dev stNotFound []) ∧
      (∀ h, asked = some h →
        ∃ t, exec (.admitDecide c) s = .next t ∧ t.pending = s.pending ∧ Ended s t ∧
          (c.f1 0 0 = 0 → (t.dev.node h).st = .unknown) ∧
          (c.f1 0 0 = 1 → (s.dev.admittedOf c.n2).length < 512 → (t.dev.node h).st = .admitted))) ∧
    (∀ (nh : Fin 16384) (b : Nat), s.dev.dev = .run → (s.dev.node nh).st = .associating → (s.dev.node nh).askBp = some b →
      s.dev.fld Reg.gongAssoc 23 16 ≤ bpSince b s.dev.msync.bpi →
      ∃ t, exec (.admitAskTimeout nh) s = .next t ∧ t.pending = s.pending ∧ (t.dev.node nh).st = .unknown ∧
        ∀ k, k ≠ nh.val → t.dev.node k = s.dev.node k)

/-- 10 R267, R269, Table GC.13, 12 Table DN.4: KEEPALIVE counts as a frame heard and leaves an admitted node ACTIVE; SILENT_TIMEOUT makes an
ACTIVE node LOST; LEAVE, ADMIT_TIMEOUT, LOST_EVICT_TIMEOUT and NODE_EVICT of an admitted node leave it EVICTED, without keys, address or
queued MSDUs; EVICTED_RELEASE frees a handle with nothing left. ZC_REPORT keeps a valid sample of the last 16 beacon periods as an MPT phase,
at most eight of them, and is skipped where it does not hold what its code requires (10 R261, R270, R271). -/
def Obligations.NodeLife : Prop :=
  ∀ (s : State) (nh : Fin 16384),
    (s.dev.dev = .run → (s.dev.node nh).st.isAdmitted = true → (s.dev.group (s.dev.node nh).grp).st.up = true →
      ∃ t, exec (.keepalive nh) s = .next t ∧ t.pending = s.pending ∧ (t.dev.node nh).st = .active ∧
        (t.dev.node nh).heardBp = s.dev.msync.bpi ∧ ∀ k, k ≠ nh.val → t.dev.node k = s.dev.node k) ∧
    (s.dev.dev = .run → (s.dev.node nh).st = .active →
      s.dev.fld Reg.gongNode 15 0 ≤ bpSince (s.dev.node nh).heardBp s.dev.msync.bpi →
      ∃ t, exec (.silentTimeout nh) s = .next t ∧ t.pending = s.pending ∧ (t.dev.node nh).st = .lost ∧
        (t.dev.node nh).stBp = s.dev.msync.bpi ∧ (∀ k, k ≠ nh.val → t.dev.node k = s.dev.node k) ∧
        Reports { s.dev with nodes := t.dev.nodes } t.dev) ∧
    (∀ i : Instr, s.dev.dev = .run →
      (i = .leave nh ∧ (s.dev.node nh).st.isAdmitted = true ∧ (s.dev.group (s.dev.node nh).grp).st.up = true ∨
        i = .admitTimeout nh ∧ (s.dev.node nh).st = .admitted ∧
          s.dev.fld Reg.gongAssoc 15 0 ≤ bpSince (s.dev.node nh).stBp s.dev.msync.bpi ∨
        i = .lostEvictTimeout nh ∧ (s.dev.node nh).st = .lost ∧ s.dev.flag Reg.gongCtrl 0 = true ∧
          s.dev.fld Reg.gongNode 31 16 ≤ bpSince (s.dev.node nh).stBp s.dev.msync.bpi ∨
        ∃ c : CmdDesc, i = .nodeEvict c ∧ Accepted s c (nodeSpec 0x23 0) ∧ c.n2 = nh.val ∧
          (s.dev.node nh).st.isAdmitted = true) →
      ∃ t, exec i s = .next t ∧ t.pending = s.pending ∧ (t.dev.node nh).st = .evicted ∧ (t.dev.node nh).key0 = none ∧
        (t.dev.node nh).key1 = none ∧ (t.dev.node nh).saddr = 0 ∧ (t.dev.node nh).live = [] ∧ (t.dev.node nh).heldq = [] ∧
        (t.dev.node nh).reasm = none) ∧
    (∀ c : CmdDesc, Accepted s c (nodeSpec 0x23 0) → c.n2 = nh.val →
      (s.dev.node nh).st = .unknown ∨ (s.dev.node nh).st = .evicted → Serves (exec (.nodeEvict c) s) s s.dev stNoNode []) ∧
    ((s.dev.node nh).st = .evicted → (s.dev.node nh).live = [] → (s.dev.node nh).heldq = [] → (s.dev.node nh).reasm = none →
      (s.dev.node nh).evictDue = false → (s.dev.group (s.dev.node nh).grp).rxq.any (fun m => decide (m.nh = nh.val)) = false →
      ∃ t, exec (.evictedRelease nh) s = .next t ∧ t.pending = s.pending ∧ t.dev.node nh = Node.init ∧
        (∀ k, k ≠ nh.val → t.dev.node k = s.dev.node k) ∧ Reports { s.dev with nodes := t.dev.nodes } t.dev) ∧
    (∀ body : List Byte, s.dev.dev = .run → (s.dev.node nh).st.isAdmitted = true →
      (s.dev.group (s.dev.node nh).grp).st.up = true →
      (zcWellFormed body = false → Reaches (exec (.zcReport nh body) s) s s.dev) ∧
      (∀ zbp zc : Nat, zcWellFormed body = true → zcRecords body = [(zbp, zc, true)] → s.dev.bpAge zbp ≤ 16 →
        (s.dev.node nh).zc.length ≤ 8 →
        ∃ t, exec (.zcReport nh body) s = .next t ∧ t.pending = s.pending ∧ Reports { s.dev with nodes := t.dev.nodes } t.dev ∧
          (t.dev.node nh).zc = ((s.dev.node nh).zc ++
            [({ bp := zbp % 65536, z := unsigned 24 ((zc : Int) + s.dev.offsetAt (s.dev.bpAge zbp)) } : ZcSample)]).drop
              ((s.dev.node nh).zc.length - 7) ∧
          (t.dev.node nh).zc.length ≤ 8))

/-- 11 R295, R296: NODE_ROUTE to no parent makes an admitted node its group's neighbour at once; to a relay, it waits until every relay of
the new route has been told, and the old route stands; a node not admitted is ST_NO_NODE. -/
def Obligations.Routes : Prop :=
  ∀ (s : State) (c : CmdDesc), Accepted s c (nodeSpec 0x25 0x3FF) →
    let rs := s.dev.relays (s.dev.node c.n2).grp 7 (c.f1 9 0)
    ((s.dev.node c.n2).st.isAdmitted = false → Serves (exec (.nodeRoute c) s) s s.dev stNoNode []) ∧
    ((s.dev.node c.n2).st.isAdmitted = true → c.f1 9 0 = 0 →
      Serves (exec (.nodeRoute c) s) s (s.dev.modNode c.n2 (fun n => { n with parent := 0, depth := 0 })) stOk []) ∧
    ((s.dev.node c.n2).st.isAdmitted = true → s.dev.parentOk c.n2 (c.f1 9 0) = true → rs ≠ [] →
      ∃ t, exec (.nodeRoute c) s = .next t ∧ t.pending = s.pending ∧ (t.dev.cmdOf s.dev.nextId).isSome = true ∧
        t.dev.routes = { cmd := s.dev.nextId, nh := c.n2, parent := c.f1 9 0, left := rs.length } :: s.dev.routes ∧
        Reports { s.dev with nodes := t.dev.nodes, routes := t.dev.routes } t.dev ∧
        (t.dev.node c.n2).parent = (s.dev.node c.n2).parent ∧ (t.dev.node c.n2).depth = (s.dev.node c.n2).depth)

/-- 09 R241, R221: SOUND of an ACTIVE or DORMANT node waits for a session of each direction asked for, which covers the indices asked for, or holds
those that it does not cover until it ends; of another handle it is ST_NO_NODE. -/
def Obligations.SoundOpensSessions : Prop :=
  ∀ (s : State) (c : CmdDesc), Accepted s c (nodeSpec 0x27 0x3FFFF) → c.f1 15 0 ≠ 0 → c.f1 17 16 ≠ 0 →
    ((s.dev.node c.n2).st ≠ .active → (s.dev.node c.n2).st ≠ .dormant → Serves (exec (.sound c) s) s s.dev stNoNode []) ∧
    ((s.dev.node c.n2).st = .active ∨ (s.dev.node c.n2).st = .dormant →
      ∃ t, exec (.sound c) s = .next t ∧ t.pending = s.pending ∧ (t.dev.cmdOf s.dev.nextId).isSome = true ∧
        Reports { s.dev with sess := t.dev.sess, mnt := t.dev.mnt } t.dev ∧
        ∀ up : Bool, bit c.n1 (if up then 17 else 16) = true →
          ∃ x ∈ t.dev.sess, x.nh = c.n2 ∧ x.up = up ∧ x.done = false ∧ s.dev.nextId ∈ x.cmds ∧
            (x.segs ||| x.more) ||| c.f1 15 0 = x.segs ||| x.more ∧ (x.endBp = none → x.segs ||| c.f1 15 0 = x.segs))

/-- 09 R223, R224: the end of a sounding session completes the commands that wait for it alone: SOUND_SESSION_END of an uplink
session once its last allocation is over, SOUND_REPORT that covers every index of a downlink session, SOUND_REPORT_TIMEOUT from the
fifth beacon period on. Unless the set is SCHEDULED, the SHADOW copy is written of every index of an uplink session with at least `SND_MIN`
symbols received, and of every index that a report names; a report that cannot be used is skipped. -/
def Obligations.SoundingEnds : Prop :=
  ∀ (s : State) (nh : Fin 16384) (x : Sess), s.dev.dev = .run →
    (s.dev.openOf nh true = some x → s.dev.soundingOver x = true →
      ∃ t, exec (.soundSessionEnd nh) s = .next t ∧ t.pending = s.pending ∧ t.dev.dev = .run ∧
        (∀ c ∈ x.cmds, (∀ y ∈ s.dev.sess, c ∈ y.cmds → y.id = x.id) → t.dev.cmdOf c = none) ∧
        ((s.dev.mapSet (setIx nh true)).upd ≠ .scheduled → ∀ k ∈ segList x.segs,
          s.dev.sndMin ≤ (x.rcvd.filter (fun y => decide (y.seg = k))).length →
          (t.dev.key (keyIx nh true k)).built = true)) ∧
    (∀ body : List Byte, (s.dev.node nh).st.isAdmitted = true → (s.dev.group (s.dev.node nh).grp).st.up = true →
      (s.dev.reportUsable nh body = false → Reaches (exec (.soundReport nh body) s) s s.dev) ∧
      (s.dev.reportUsable nh body = true → s.dev.openOf nh false = some x → x.frames ≠ 0 →
        (x.got ||| (x.segs &&& leAt body 2 2)) &&& x.segs = x.segs →
        ∃ t, exec (.soundReport nh body) s = .next t ∧ t.pending = s.pending ∧ t.dev.dev = .run ∧
          (∀ c ∈ x.cmds, (∀ y ∈ s.dev.sess, c ∈ y.cmds → y.id = x.id) → t.dev.cmdOf c = none) ∧
          ((s.dev.mapSet (setIx nh false)).upd ≠ .scheduled → ∀ k ∈ segList (leAt body 2 2),
            (t.dev.key (keyIx nh false k)).built = true))) ∧
    (∀ b, s.dev.openOf nh false = some x → x.endBp = some b → 5 ≤ bpSince b s.dev.msync.bpi →
      bpSince b s.dev.msync.bpi < 2 ^ 22 →
      ∃ t, exec (.soundReportTimeout nh) s = .next t ∧ t.pending = s.pending ∧ t.dev.dev = .run ∧
        ∀ c ∈ x.cmds, (∀ y ∈ s.dev.sess, c ∈ y.cmds → y.id = x.id) → t.dev.cmdOf c = none)

/-- 09 R230-R232, R242, Table TM.5: at a deadline an update that has gone out and is not acknowledged is built again for another send while sends
remain (its boundary is fixed as it goes out, the model's reading, log 19), and else dropped, its SHADOW copies freed and the set's keys marked
STALE but for one committed in that very cycle; MAP_COMMIT at the announced boundary exchanges the copies of every
key written, clears their marks, and advances the version. -/
def Obligations.MapUpdates : Prop :=
  ∀ (s : State) (nh : Fin 16384) (up : Bool), s.dev.dev.clocked = true →
    let i := setIx nh up
    let ahead := bpSince s.dev.msync.bpi (s.dev.mapSet i).effBp
    ((s.dev.mapSet i).upd = .built → (s.dev.mapSet i).sent = true → ahead ≤ 2 ∨ 2 ^ 22 ≤ ahead →
      (s.dev.mapSet i).sends < s.dev.fld Reg.marUpd 11 8 →
      ∃ t, exec (.mapUpdateDeadline nh up) s = .next t ∧ t.pending = s.pending ∧ t.hostMem = s.hostMem ∧
        (t.dev.mapSet i).upd = .built ∧ (t.dev.mapSet i).sends = (s.dev.mapSet i).sends + 1 ∧ (t.dev.mapSet i).sent = false ∧
        (t.dev.mapSet i).acked = [] ∧ Reports { s.dev with nodes := t.dev.nodes, sets := t.dev.sets } t.dev) ∧
    ((s.dev.mapSet i).upd = .built → (s.dev.mapSet i).sent = true → ahead ≤ 2 ∨ 2 ^ 22 ≤ ahead →
      s.dev.fld Reg.marUpd 11 8 ≤ (s.dev.mapSet i).sends →
      ∃ t, exec (.mapUpdateDeadline nh up) s = .next t ∧ t.pending = s.pending ∧ (t.dev.mapSet i).upd = .free ∧
        (∀ k, k < 16 → (t.dev.key (i * 16 + k)).shadow = none ∧
          (t.dev.key (i * 16 + k)).active = (s.dev.key (i * 16 + k)).active ∧
          ((s.dev.key (i * 16 + k)).active.isSome = true →
            (t.dev.key (i * 16 + k)).stale = decide ((s.dev.key (i * 16 + k)).swapAt ≠ some s.dev.clk))) ∧
        Reports { s.dev with keys := t.dev.keys, sets := t.dev.sets, encs := t.dev.encs } t.dev) ∧
    (s.dev.commitDue (s.dev.mapSet i) = true →
      ∃ t, exec (.mapCommit nh up) s = .next t ∧ t.pending = s.pending ∧
        (t.dev.mapSet i).ver = ((s.dev.mapSet i).ver + 1) % 8 ∧
        ((s.dev.mapSet i).heldR = [] → (t.dev.mapSet i).upd = .free ∧
          Reports { s.dev with keys := t.dev.keys, sets := t.dev.sets, encs := t.dev.encs } t.dev) ∧
        ∀ k, k < 16 → (s.dev.key (i * 16 + k)).built = true →
          (t.dev.key (i * 16 + k)).active = (s.dev.key (i * 16 + k)).shadow ∧ (t.dev.key (i * 16 + k)).stale = false ∧
          (t.dev.key (i * 16 + k)).swapAt = some s.dev.clk)

/-- 12 R305-R307, R318, Table DN.4: dormancy is granted to an ACTIVE node that asks for it or that NODE_DORMANT names, with an interval
within the group's limits and no poll missed yet, and refused where R306 refuses it; NODE_DORMANT that ends the dormancy of a DORMANT
node puts DORM_END at the head of what is held for it. -/
def Obligations.Dormancy : Prop :=
  ∀ s : State,
    (∀ (nh : Fin 16384) (body : List Byte), s.dev.dev = .run → (s.dev.group (s.dev.node nh).grp).st.up = true →
      4 ≤ body.length →
      ((s.dev.node nh).st = .active → s.dev.dormRefused nh = false →
        ∃ t x, exec (.dormReq nh body) s = .next t ∧ t.pending = s.pending ∧ (t.dev.node nh).st = .active ∧
          (t.dev.node nh).dorm = some x ∧ x.k = 0 ∧
          x.p = min (max (leAt body 0 2) (s.dev.fld (Reg.dnPoll (s.dev.node nh).grp) 15 0))
            (s.dev.fld (Reg.dnPoll (s.dev.node nh).grp) 31 16) ∧
          Reports { s.dev with nodes := t.dev.nodes } t.dev) ∧
      ((s.dev.node nh).st = .dormant ∨ ((s.dev.node nh).st = .active ∧ s.dev.dormRefused nh = true) →
        ∃ t, exec (.dormReq nh body) s = .next t ∧ t.pending = s.pending ∧ (t.dev.node nh).st = (s.dev.node nh).st ∧
          (t.dev.node nh).dorm = (s.dev.node nh).dorm ∧ Reports { s.dev with nodes := t.dev.nodes } t.dev)) ∧
    (∀ c : CmdDesc, Accepted s c (nodeSpec 0x26 0x1FFFFFF) →
      (c.f1 24 24 = 0 → c.f1 15 0 ≠ 0 → (s.dev.node c.n2).st = .active → s.dev.dormRefused c.n2 = false →
        ∃ t x, exec (.nodeDormant c) s = .next t ∧ t.pending = s.pending ∧ (t.dev.cmdOf s.dev.nextId).isSome = true ∧
          (t.dev.node c.n2).st = .active ∧ (t.dev.node c.n2).dorm = some x ∧ x.k = 0 ∧
          x.p = min (max (c.f1 15 0) (s.dev.fld (Reg.dnPoll (s.dev.node c.n2).grp) 15 0))
            (s.dev.fld (Reg.dnPoll (s.dev.node c.n2).grp) 31 16) ∧
          Reports { s.dev with nodes := t.dev.nodes } t.dev) ∧
      (c.f1 24 24 = 1 → (s.dev.node c.n2).st = .dormant →
        ∃ t m rest, exec (.nodeDormant c) s = .next t ∧ t.pending = s.pending ∧ (t.dev.cmdOf s.dev.nextId).isSome = true ∧
          (t.dev.node c.n2).heldq = m :: rest ∧ m.origin = .own 0x0B 0 (some s.dev.nextId) ∧
          rest = (s.dev.node c.n2).heldq ∧ Reports { s.dev with nodes := t.dev.nodes } t.dev) ∧
      (c.f1 24 24 = 1 → (s.dev.node c.n2).st ≠ .dormant → Serves (exec (.nodeDormant c) s) s s.dev stNoNode []))

/-- 12 R319-R321, R323: POLL_MISS in a group that is up counts the miss: below the limit the next poll follows the ladder, at the limit
the node is LOST and what was held for it is gone; HELD_LIFE_EXPIRY ends every host MSDU held for `HELD_LIFE` beacon periods or more. -/
def Obligations.MissedPollsAndHeldLife : Prop :=
  ∀ (s : State) (nh : Fin 16384),
    (∀ x : Dorm, s.dev.dev = .run → (s.dev.node nh).st = .dormant → (s.dev.node nh).dorm = some x →
      s.dev.pollMissed (s.dev.node nh) x = true → (s.dev.group (s.dev.node nh).grp).st.up = true →
      ∃ t, exec (.pollMiss nh) s = .next t ∧ t.pending = s.pending ∧
        (s.dev.fld (Reg.dnCtrl (s.dev.node nh).grp) 23 20 ≤ x.k + 1 →
          (t.dev.node nh).st = .lost ∧ (t.dev.node nh).dorm = none ∧
          ∀ m ∈ (t.dev.node nh).heldq, m.isHost = false) ∧
        (x.k + 1 < s.dev.fld (Reg.dnCtrl (s.dev.node nh).grp) 23 20 →
          (t.dev.node nh).st = .dormant ∧ (t.dev.node nh).dorm = some { x with
            k := x.k + 1, next := (x.next + s.dev.ladder (s.dev.node nh).grp { x with k := x.k + 1 }) % 2 ^ 23 } ∧
          Reports { s.dev with nodes := t.dev.nodes } t.dev)) ∧
    (s.dev.dev.clocked = true →
      ∃ t, exec (.heldLifeExpiry nh) s = .next t ∧ t.pending = s.pending ∧ t.dev.dev = s.dev.dev ∧
        ∀ m ∈ (t.dev.node nh).heldq, m.isHost = true → s.dev.heldLong m = false)

/-! ### Security -/

/-- 19 R453, R454, R456, 16 R395: KEK_SET takes the key-encryption key in CONFIG while none is held: it fails check 3 while one is
held and in every other state; bit 0 of `SEC_STAT` reads 1 while one is held. PERST_FALL and a level-3 DEV_RESET leave no key-encryption key and no
link key. KEY_LOAD puts the key it carries, unwrapped where it is wrapped, into a slot of the node; it completes with ST_AUTH and changes nothing
where unwrapping fails or no key-encryption key is held, and with ST_INVALID for a clear key while `CLEAR_KEYS` is 0 and for a handle in UNKNOWN or
EVICTED. KEY_INVAL empties a slot. -/
def Obligations.LinkKeys : Prop :=
  ∀ (s : State) (c : CmdDesc),
    bit (s.dev.readReg Reg.secStat).toNat 0 = s.dev.sec.kek.isSome ∧
    (s.dev.dev = .config ∨ s.dev.dev = .run ∨ s.dev.dev = .safe →
      ∃ t, exec .perstFall s = .next t ∧ t.pending = s.pending ∧ t.dev.sec.kek = none ∧
        ∀ h, (t.dev.node h).key0 = none ∧ (t.dev.node h).key1 = none) ∧
    (∀ io, Accepted s c { CmdSpec.plain 0x03 with m2 := 0xFFFF } → c.n2 = 3 →
      ∃ t, exec (.devReset c io) s = .next t ∧ t.pending = s.pending ∧ t.dev.sec.kek = none ∧
        ∀ h, (t.dev.node h).key0 = none ∧ (t.dev.node h).key1 = none) ∧
    (s.dev.dev ≠ .config → s.dev.cmdReady = true → c.dt = 4 → c.opc = 0x30 → Serves (exec (.kekSet c) s) s s.dev stBadState []) ∧
    (Accepted s c { CmdSpec.plain 0x30 with len := fun _ n => decide (n = 32) } →
      (s.dev.sec.kek = none →
        Serves (exec (.kekSet c) s) s { s.dev with sec := { s.dev.sec with kek := some c.bytes } } stOk []) ∧
      (s.dev.sec.kek ≠ none → Serves (exec (.kekSet c) s) s s.dev stBadState [])) ∧
    (Accepted s c { nodeSpec 0x31 0xF with len := fun c n => decide (n = if c.f1 1 1 = 1 then 40 else 32) } →
      let key := if c.f1 1 1 = 1 then s.dev.sec.kek.bind (fun k => unwrapKey k c.bytes) else some c.bytes
      let bad := (c.f1 1 1 = 0 ∧ s.dev.flag Reg.secCtrl 0 = false) ∨ (s.dev.node c.n2).st = .unknown ∨ (s.dev.node c.n2).st = .evicted
      (bad → Serves (exec (.keyLoad c) s) s s.dev stInvalid []) ∧
      (¬ bad → key = none → Serves (exec (.keyLoad c) s) s s.dev stAuth []) ∧
      ∀ k, ¬ bad → key = some k →
        Serves (exec (.keyLoad c) s) s
          (s.dev.modNode c.n2 (fun n => n.takeKey (c.f1 0 0) k (decide (c.f1 2 2 = 1)) (decide (c.f1 3 3 = 1)))) stOk []) ∧
    (Accepted s c (nodeSpec 0x32 1) →
      Serves (exec (.keyInval c) s) s
        (s.dev.modNode c.n2 (fun n => if c.f1 0 0 = 0 then { n with key0 := none } else { n with key1 := none })) stOk [])

/-- 16 R404, 19 R443, R444, R457, R458: FW_STAGE writes its chunk at its place in the staging area, a first chunk discarding what was
staged before; the last chunk has the staged image verified, which is pending for the next boot where verification passes, and completes
with ST_INVALID, for an image that is malformed or none, or ST_AUTH where it does not. Outside OFF, JTAG reaches the boundary register, IDCODE, the
nonce and the token register; a debug access to the management cores or the debug registers works while debug is OPEN (a word that nothing has
written is free), and one while it is not, or beyond them, changes nothing. -/
def Obligations.StagingAndDebug : Prop :=
  ∀ s : State,
    (∀ (c : CmdDesc) (readFail : Option Nat),
      Accepted s c { CmdSpec.plain 0x60 with len := fun _ n => decide (1 ≤ n ∧ n ≤ 65536), m1 := 2 ^ 32 - 1, m2 := 3, lim2 := 4 } →
      c.n1 + c.n3 ≤ stageSize →
      let base : Sec := if bit c.n2 0 then { s.dev.sec with stage := [], stageLen := 0, pendImg := false } else s.dev.sec
      let x : Sec := { base with stage := stageWrite base.stage c.n1 c.bytes, stageLen := max base.stageLen (c.n1 + c.n3) }
      let e : Dev := { s.dev with sec := x }
      (bit c.n2 1 = false → Serves (exec (.fwStage c readFail) s) s e stOk []) ∧
      (bit c.n2 1 = true → e.verify x.stageLen (e.stagedSrc readFail) = none →
        Serves (exec (.fwStage c readFail) s) s { e with sec := { x with pendImg := true } } stOk []) ∧
      ∀ code, bit c.n2 1 = true → e.verify x.stageLen (e.stagedSrc readFail) = some code →
        Serves (exec (.fwStage c readFail) s) s { e with sec := { x with pendImg := false } }
          (if code = 0x01 ∨ code = 0x09 then stInvalid else stAuth) []) ∧
    (s.dev.dev ≠ .off →
      (∀ cells, Reaches (exec (.jtagTapAccess (.boundary cells)) s) s { s.dev with jtag := { s.dev.jtag with cells := cells } }) ∧
      Reaches (exec (.jtagTapAccess .idcode) s) s { s.dev with jtag := { s.dev.jtag with tdo := 0x19128A5B } } ∧
      Reaches (exec (.jtagTapAccess .nonce) s) s { s.dev with jtag := { s.dev.jtag with tdo := s.dev.sec.nonce } } ∧
      (∀ bytes, Reaches (exec (.jtagTapAccess (.token bytes)) s) s { s.dev with sec := { s.dev.sec with token := bytes } }) ∧
      ∀ (space addr : Nat) (wr : Option (BitVec 32)),
        (s.dev.sec.dbgOpen = false ∨ 4 < space → Reaches (exec (.jtagTapAccess (.debug space addr wr)) s) s s.dev) ∧
        (∀ w, s.dev.sec.dbgOpen = true → space ≤ 4 → wr = some w →
          Reaches (exec (.jtagTapAccess (.debug space addr wr)) s) s
            { s.dev with jtag := { s.dev.jtag with dbg := SMap.put (space * 2 ^ 32 + addr % 2 ^ 32) w s.dev.jtag.dbg } }) ∧
        (s.dev.sec.dbgOpen = true → space ≤ 4 → wr = none →
          ∃ w : BitVec 32, Reaches (exec (.jtagTapAccess (.debug space addr wr)) s) s
              { s.dev with jtag := { s.dev.jtag with tdo := BitVec.ofNat 256 w.toNat } } ∧
            ∀ v, s.dev.jtag.dbg.find? (fun e => decide (e.1 = space * 2 ^ 32 + addr % 2 ^ 32)) =
              some (space * 2 ^ 32 + addr % 2 ^ 32, v) → w = v))

/-- 19 R450, R452, 17 R423, Tables QC.3 and QC.5: ATTEST writes a report over the nonce it brings, signed, to `RADDR`, and completes
with ST_INTERNAL while a TRNG health test reports a failure. AUDIT writes the terms of the identities in its scope as they stand at its
start; it completes with ST_OK where every identity holds, and an identity that fails is a fault of class 0x0C, critical where
`AUDIT_HALT` is 1. -/
def Obligations.AttestAndAudit : Prop :=
  ∀ (s : State) (c : CmdDesc),
    (Accepted s c { CmdSpec.plain 0x61 with needR := true, len := fun _ n => decide (n = 32) } →
      (s.dev.sec.trngFail = false → ∃ rnd : BitVec 256,
        ServesBlock (exec (.attest c) s) s s.dev stOk (quints (3629 + 80 * s.dev.sec.log.length) 0 0 0 0)
          (signedReport (s.dev.reportBody c.bytes) rnd)) ∧
      (s.dev.sec.trngFail = true → Serves (exec (.attest c) s) s s.dev stInternal [])) ∧
    (Accepted s c { CmdSpec.plain 0x50 with needR := true, m2 := 0xFFFF } → c.n2 = 0xFFFF ∨ c.n2 < 32 →
      let es := (s.dev.fresh.fetchCmd c).auditEntries c.n2
      ((∀ e ∈ es, e.left = e.right) →
        ServesBlock (exec (.audit c) s) s s.dev stOk (quints es.length 0 0 0 0) (auditBlock s.dev.mpt c.n2 es)) ∧
      ((∃ e ∈ es, e.left ≠ e.right) → s.dev.flag Reg.mntCtrl 16 = false →
        ∃ t, exec (.audit c) s = .next t ∧ t.pending = s.pending ∧ Ended s t ∧ Reports s.dev t.dev ∧
          t.dev.flag Reg.mntFstat 0x0C = true ∧ t.dev.mnt.fclass = 0x0C) ∧
      ((∃ e ∈ es, e.left ≠ e.right) → s.dev.flag Reg.mntCtrl 16 = true →
        ∃ t, exec (.audit c) s = .next t ∧ t.pending = s.pending ∧ t.dev.dev = .safe))

/-! ### Counters, traces and captures -/

/-- 20 R463-R467: CNT_SET leaves its changes waiting for the next sweep boundary, and waits itself; COUNTER_SWEEP, where `SWEEP_US` has passed since
the last boundary or, without periodic sweeps, a CNT_SNAP waits, starts a sweep at MPT: what waited for it waits for its end, an overflow to be
cleared is cleared, a waiting selector is taken into the sweep, no value changes; while a sweep runs it does nothing (how the sweep goes on is an
idle step's, O5). CNT_SNAP waits for the next periodic sweep, and starts a sweep of its own where there are none and none runs. -/
def Obligations.CounterSweeps : Prop :=
  ∀ s : State,
    let begun := fun (t : State) (snaps : List Nat) =>
      t.dev.cnts = { s.dev.cnts with
        cells := t.dev.cnts.cells, ix := some 0, mpt := s.dev.mpt, swept := s.dev.clk, us := s.dev.fld Reg.cntSweep 19 0
        dueSets := s.dev.cnts.dueSets ++ s.dev.cnts.sets, dueSnaps := s.dev.cnts.dueSnaps ++ snaps, sets := [], snaps := [] } ∧
      ∀ i, t.dev.counter i = (let c := s.dev.counter i
        { c with ovf := c.ovf && !c.clr, clr := false, turn := c.pend, pend := none })
    (∀ (c : CmdDesc) (w : Nat), Accepted s c { CmdSpec.plain 0x51 with len := fun _ n => decide (n % 4 = 0 ∧ n ≤ 2688) } →
      c.ablk = true → cntWords c.bytes = [w] → cntEntryOk w = true →
      ∃ t, exec (.cntSet c) s = .next t ∧ t.pending = s.pending ∧ (t.dev.cmdOf s.dev.nextId).isSome = true ∧
        Reports { s.dev with cnts := t.dev.cnts } t.dev ∧ t.dev.cnts.sets = s.dev.cnts.sets ++ [s.dev.nextId] ∧
        (bit w 1 = true → (t.dev.counter (bits w 15 6)).pend = some (BitVec.ofNat 16 (bits w 31 16))) ∧
        (bit w 2 = true → (t.dev.counter (bits w 15 6)).clr = true) ∧
        ∀ i, (t.dev.counter i).sel = (s.dev.counter i).sel ∧ (i ≠ bits w 15 6 → (t.dev.counter i).pend = (s.dev.counter i).pend)) ∧
    (s.dev.dev.clocked = true → s.dev.cnts.ix = none →
      (if s.dev.flag Reg.cntCtrl 0 = true then s.dev.cnts.swept + usClk s.dev.cnts.us ≤ s.dev.clk else s.dev.cnts.snaps ≠ []) →
      ∃ t, exec .counterSweep s = .next t ∧ t.pending = s.pending ∧ t.hostMem = s.hostMem ∧
        Reports { s.dev with cnts := t.dev.cnts } t.dev ∧ begun t s.dev.cnts.snaps) ∧
    (s.dev.cnts.ix ≠ none → Reaches (exec .counterSweep s) s s.dev) ∧
    (∀ c : CmdDesc, Accepted s c { CmdSpec.plain 0x52 with needR := true } →
      (s.dev.flag Reg.cntCtrl 0 = true ∨ s.dev.cnts.ix ≠ none →
        Waits (exec (.cntSnap c) s) s { s.dev with cnts := { s.dev.cnts with snaps := s.dev.cnts.snaps ++ [s.dev.nextId] } }) ∧
      (s.dev.flag Reg.cntCtrl 0 = false → s.dev.cnts.ix = none →
        ∃ t, exec (.cntSnap c) s = .next t ∧ t.pending = s.pending ∧ (t.dev.cmdOf s.dev.nextId).isSome = true ∧
          Reports { s.dev with cnts := t.dev.cnts } t.dev ∧ t.dev.cnts.ix = some 0 ∧ t.dev.cnts.snaps = [] ∧
          t.dev.cnts.dueSnaps = s.dev.cnts.dueSnaps ++ s.dev.cnts.snaps ++ [s.dev.nextId]))

/-- 20 R468, 16 R403: TRACE_CFG writes the tagger's probability, stages, group and seed to its registers, and loads its LFSR with the seed. CAPTURE
waits for a decode lane while no other capture is in hand, capturing is enabled and the CAPT ring is ENABLED, and is ST_BAD_STATE else;
CAPTURE_NO_LANE ends it with ST_NO_ROOM 16 beacon periods after the first that it could begin in, without a lane; CAPTURE_RECORD_WRITE of a staged
record takes one entry of the ring, and the last one completes the command. -/
def Obligations.TraceAndCapture : Prop :=
  ∀ s : State,
    (∀ c : CmdDesc, Accepted s c { CmdSpec.plain 0x53 with len := fun _ n => decide (n = 16) } → c.ablk = true →
      byteAt c.bytes 2 < 2 → byteAt c.bytes 3 < 32 → leAt c.bytes 4 4 ≠ 0 → leAt c.bytes 4 4 < 2 ^ 31 → leAt c.bytes 8 2 < 2 ^ 11 →
      leAt c.bytes 10 6 = 0 →
      Serves (exec (.traceCfg c) s) s
        { ((((s.dev.setFld Reg.cntClv 31 16 (leAt c.bytes 0 2)).setFld Reg.cntClv 15 5 (leAt c.bytes 8 2)).setFld Reg.cntClv 4 4
            (byteAt c.bytes 2)).setFld Reg.cntClvSeed 30 0 (leAt c.bytes 4 4)) with
          cnts := { s.dev.cnts with lfsr := leAt c.bytes 4 4 } }
        stOk [] ∧
      ∃ t, exec (.traceCfg c) s = .next t ∧ t.dev.fld Reg.cntStat 12 8 = byteAt c.bytes 3) ∧
    (∀ c : CmdDesc, Accepted s c { CmdSpec.plain 0x54 with len := fun _ n => decide (n = 16), m1 := 2 ^ 32 - 1 } → c.ablk = true →
      1 ≤ c.n1 → c.n1 ≤ 8388608 → (captTaps c.bytes).all (fun t => decide (t < 1024)) = true →
      (captTaps c.bytes).any (fun t => bit t 9) = true → leAt c.bytes 10 6 = 0 →
      let ready := s.dev.capts.all (fun c => c.flushed.isSome) && s.dev.flag Reg.carCtrl 0 && decide ((s.dev.ring 13).st = .enabled)
      (ready = false → Serves (exec (.capture c) s) s s.dev stBadState []) ∧
      (ready = true → ∃ x : Capt, Waits (exec (.capture c) s) s { s.dev with capts := s.dev.capts ++ [x] } ∧
        x.cmd = s.dev.nextId ∧ x.start = c.mpt ∧ x.len = c.n1 ∧ x.taps = captTaps c.bytes ∧ x.lane = none ∧ x.written = 0 ∧
        x.flushed = none ∧ 4 ≤ bpSince s.dev.msync.bpi x.firstBp)) ∧
    (∀ c : Capt, s.dev.capts.find? (fun c => c.flushed.isNone) = some c → c.lane = none →
      16 ≤ bpSince c.firstBp s.dev.msync.bpi → bpSince c.firstBp s.dev.msync.bpi < 2 ^ 22 →
      ∃ t, exec .captureNoLane s = .next t ∧ t.pending = s.pending ∧ t.dev.cmdOf c.cmd = none ∧
        Reports { s.dev with capts := s.dev.capts.filter (fun x => x.flushed.isSome) } t.dev) ∧
    ∀ (c : Capt) (rest : List Capt) (sidx : BitVec 64) (pins : List PinRuns) (lost : Bool), s.dev.dev.live = true →
      s.dev.capts = c :: rest → s.dev.staged c = true → (s.dev.ring 13).st = .enabled → 0 < (s.dev.ring 13).freeEntries →
      sidx.toNat = c.n0 + c.written * c.perRecord → c.flushed = none →
      (c.written * c.perRecord + c.nextNs < c.len →
        ∃ t mpt, exec (.captureRecordWrite sidx pins lost) s = .next t ∧ t.pending = s.pending ∧
          Reports { s.dev with capts := { c with written := c.written + 1 } :: rest } t.dev ∧
          (t.dev.ring 13).devIdx = (s.dev.ring 13).devIdx + 1 ∧
          ∃ ws : List (BitVec 20), ws.length = c.nextNs * c.streams ∧
            ((s.dev.fn 0).bme = true → t.hostMem = Memory.commit s.hostMem
              [(((s.dev.ring 13).base.toNat + (s.dev.ring 13).devIdx.toNat % (s.dev.ring 13).size * s.dev.entrySize 13) % 2 ^ 64,
                fit (s.dev.entrySize 13) (c.record mpt false (s.dev.recordAbsent c sidx.toNat || lost) ws))])) ∧
      (c.len ≤ c.written * c.perRecord + c.nextNs →
        ∃ t, exec (.captureRecordWrite sidx pins lost) s = .next t ∧ t.pending = s.pending ∧ t.dev.cmdOf c.cmd = none ∧
          Reports { s.dev with capts := rest } t.dev)

/-! ### Measurement -/

/-- 13 R333-R342, 16 R401: MEAS_CFG writes the inputs, chain and coefficients of a STOPPED set that shares no input with another;
MEAS_START arms it for its target; SET_SYNC_POINT at the first modulator edge at or after the target runs it with record number 0; each MEAS_OUTPUT
numbers one record into the set's queue, in place of the oldest of a full one; MEAS_STOP stops a set without records still due and tells the last
record's number, and else waits for the last of them, which stops the set and completes the command. -/
def Obligations.MeasurementSets : Prop :=
  ∀ s : State,
    (∀ c : CmdDesc, Accepted s c { CmdSpec.plain 0x40 with len := fun _ n => decide (n = 16 ∨ n = 144), m1 := 0x0F0F0707 } →
      let k := c.f1 2 0
      ((s.dev.mset k).st ≠ .stopped → Serves (exec (.measCfg c) s) s s.dev stNotStopped []) ∧
      ((s.dev.mset k).st = .stopped → measCfgOk c = true → s.dev.maskShared k (c.bytes.take 16) = true →
        Serves (exec (.measCfg c) s) s s.dev stInvalid []) ∧
      ((s.dev.mset k).st = .stopped → measCfgOk c = true → s.dev.maskShared k (c.bytes.take 16) = false →
        let e := iter 4 (fun j d => d.setReg (Reg.measSetCh k j) (leAt c.bytes (4 * j) 4))
          (((s.dev.setFld (Reg.measSetCfg k) 18 16 (c.f1 10 8)).setFld (Reg.measSetCfg k) 11 8 (c.f1 19 16)).setFld
            (Reg.measSetCfg k) 27 24 (c.f1 27 24))
        Serves (exec (.measCfg c) s) s
          (if c.n3 = 144 then iter 32 (fun t d => d.setReg (Reg.measFir k t) (leAt c.bytes (16 + 4 * t) 4)) e else e) stOk [])) ∧
    (∀ c : CmdDesc, Accepted s c { CmdSpec.plain 0x41 with m0 := 2 ^ 64 - 1, m1 := 7, m2 := 1 } →
      c.n2 = 0 ∨ c.a0.toNat < 2 ^ 48 →
      let k := c.f1 2 0
      ((s.dev.mset k).st ≠ .stopped → Serves (exec (.measStart c) s) s s.dev stBadState []) ∧
      ((s.dev.mset k).st = .stopped → s.dev.setInputs k ≠ [] → c.n2 = 1 → mptBefore s.dev.mpt c.mpt = false →
        Serves (exec (.measStart c) s) s s.dev stLate []) ∧
      ((s.dev.mset k).st = .stopped → s.dev.setInputs k ≠ [] → c.n2 = 0 ∨ mptBefore s.dev.mpt c.mpt = true →
        Waits (exec (.measStart c) s) s (s.dev.modMset k (fun m => { m with
          st := .armed, target := if c.n2 = 0 then (s.dev.mpt / 2 ^ 24 + 1) * 2 ^ 24 % 2 ^ 48 else c.mpt, cmd := some s.dev.nextId })))) ∧
    (∀ k : Fin 8, s.dev.dev = .run → (s.dev.mset k).st = .armed → mptBefore s.dev.mpt (s.dev.mset k).target = false →
      s.dev.syncEdge (s.dev.mset k).target ≤ 4 * s.dev.clk →
      ∃ t, exec (.setSyncPoint k) s = .next t ∧ t.pending = s.pending ∧ Reports { s.dev with meas := t.dev.meas } t.dev ∧
        (∀ id, (s.dev.mset k).cmd = some id → t.dev.cmdOf id = none) ∧
        t.dev.mset k = { s.dev.mset k with
          st := .running, sync := s.dev.syncEdge (s.dev.mset k).target, rseq := 0, cmd := none
          chains := (s.dev.setInputs k).map (fun i => (i, Chain.init)) }) ∧
    (∀ (k : Fin 8) (bs : List (List Bool)), s.dev.outputDue k bs = true →
      ∃ t r, exec (.measOutput k bs) s = .next t ∧ t.pending = s.pending ∧ Reports { s.dev with meas := t.dev.meas } t.dev ∧
        (t.dev.mset k).rseq = (s.dev.mset k).rseq + 1 ∧ (r.drop 8).take 4 = leBytes 4 (s.dev.mset k).rseq ∧
        (t.dev.lossy (1 + k)).items =
          (if 64 ≤ (s.dev.lossy (1 + k)).items.length then (s.dev.lossy (1 + k)).items.drop 1 else (s.dev.lossy (1 + k)).items) ++ [r] ∧
        ((s.dev.mset k).ends = some ((s.dev.mset k).rseq + 1) →
          (t.dev.mset k).st = .stopped ∧ ∀ id ∈ (s.dev.mset k).stops, t.dev.cmdOf id = none)) ∧
    (∀ c : CmdDesc, Accepted s c { CmdSpec.plain 0x42 with m1 := 7 } →
      let k := c.f1 2 0
      let halted := s.dev.modMset k (fun m => { m with st := .stopped, ends := none, stops := [], cmd := none })
      (s.dev.outputsLeft k = true →
        Waits (exec (.measStop c) s) s (s.dev.modMset k (fun m => { m with
          ends := some (m.ends.getD (s.dev.outputsBy k)), stops := m.stops ++ [s.dev.nextId] }))) ∧
      (s.dev.outputsLeft k = false → (s.dev.mset k).st ≠ .stopped → ∀ id, (s.dev.mset k).cmd = some id →
        ∃ t, exec (.measStop c) s = .next t ∧ t.pending = s.pending ∧ Ended s t ∧ t.dev.cmdOf id = none ∧ Reports halted t.dev) ∧
      (s.dev.outputsLeft k = false → (s.dev.mset k).st = .stopped ∨ (s.dev.mset k).cmd = none →
        ∃ q, Serves (exec (.measStop c) s) s (if (s.dev.mset k).st = .stopped then s.dev else halted) stOk q ∧
          (0 < (s.dev.mset k).rseq →
            q = quints (((s.dev.mset k).rseq - 1) % 65536) (((s.dev.mset k).rseq - 1) / 65536 % 65536) 0 0 0)))

/-- 13 R329, R330, R343-R345: DERIVED_CYCLE_END publishes theta of the eight voltage inputs, numbers the next cycle, and puts one record
into the derived queue while `DER_EN` is 1; MODULATOR_FAULT of a bit held for `FAULT_CLK` clocks or more holds the input's bit in fault at that value with its
happening, a shorter one does nothing; MODULATOR_FAULT_CLEAR by the other value ends the fault, except while the input's clock is held low. -/
def Obligations.DerivedAndModulators : Prop :=
  ∀ s : State,
    (∀ bs : List (List Bool), s.dev.derivedDue bs = true →
      ∃ t, exec (.derivedCycleEnd bs) s = .next t ∧ t.pending = s.pending ∧ Reports { s.dev with meas := t.dev.meas } t.dev ∧
        t.dev.meas.cyc = (s.dev.meas.cyc + 1) % 2 ^ 24 ∧ t.dev.meas.theta.map (fun e => e.1) = List.range 8 ∧
        t.dev.meas.fault = s.dev.meas.fault ∧ t.dev.meas.sets = s.dev.meas.sets ∧
        t.dev.meas.stamps = s.dev.meas.stamps.drop s.dev.meas.cycleStamps.length ∧
        (s.dev.flag Reg.measCtrl 0 = true → (t.dev.lossy 9).produced = (s.dev.lossy 9).produced + 1) ∧
        (s.dev.flag Reg.measCtrl 0 = false → t.dev.lossy 9 = s.dev.lossy 9)) ∧
    (∀ (i : Fin 104) (v : Bool) (clocks : Nat), s.dev.dev.clocked = true →
      (s.dev.inFault i = true ∨ clocks < s.dev.fld Reg.measFault 11 0 → Reaches (exec (.modulatorFault i v clocks) s) s s.dev) ∧
      (s.dev.inFault i = false → s.dev.fld Reg.measFault 11 0 ≤ clocks →
        ∃ t, exec (.modulatorFault i v clocks) s = .next t ∧ t.pending = s.pending ∧ t.dev.flag Reg.measStat 2 = true ∧
          Reports { s.dev with meas := { s.dev.meas with fault := SMap.put i.val v s.dev.meas.fault } } t.dev)) ∧
    (∀ (i : Fin 104) (v : Bool), s.dev.dev.clocked = true →
      (s.dev.mclkOn i = true → (i.val, !v) ∈ s.dev.meas.fault → Reaches (exec (.modulatorFaultClear i v) s) s
        { s.dev with meas := { s.dev.meas with fault := SMap.del i.val s.dev.meas.fault } }) ∧
      (s.dev.mclkOn i = false ∨ (i.val, !v) ∉ s.dev.meas.fault → Reaches (exec (.modulatorFaultClear i v) s) s s.dev))

/-! ### Switching -/

/-- 14 R353, R355, R359, 16 R402: SWO_SUBMIT enters an operation in the device queue in the order of targets, or completes with the status of
the first refusal of R353 that applies; SWO_CANCEL ends every operation with its tag whose commit is still to come, and finds none otherwise; PHASE_SEND
queues PHASE_CMD for a node, and is ST_NO_NODE where the node takes no MSDUs. -/
def Obligations.SwitchingCommands : Prop :=
  ∀ (s : State) (c : CmdDesc),
    (Accepted s c { CmdSpec.plain 0x48 with needR := true, m0 := 2 ^ 48 - 1, m1 := 2 ^ 32 - 1, m2 := 0xFFFF, m3 := 0x3F } →
      bits c.n3 5 4 ≠ 3 →
      let o := swoOf s.dev.nextId c
      (∀ st, s.dev.swoRefusal o = some st → Serves (exec (.swoSubmit c) s) s s.dev st []) ∧
      (s.dev.swoRefusal o = none → Waits (exec (.swoSubmit c) s) s
        { s.dev with swo := s.dev.swo.filter (fun x => decide (s.dev.toGo x.t ≤ s.dev.toGo o.t)) ++ [o] ++
          s.dev.swo.filter (fun x => !decide (s.dev.toGo x.t ≤ s.dev.toGo o.t)) })) ∧
    (Accepted s c { CmdSpec.plain 0x49 with m2 := 0xFFFF } →
      let ops := s.dev.swo.filter (fun o => decide (o.tag = c.n2) && s.dev.swoOpen o)
      (ops = [] → Serves (exec (.swoCancel c) s) s s.dev stNotFound []) ∧
      (ops ≠ [] → ∃ t, exec (.swoCancel c) s = .next t ∧ t.pending = s.pending ∧ Ended s t ∧
        (∀ o ∈ ops, t.dev.cmdOf o.cmd = none) ∧
        Reports { s.dev with swo := s.dev.swo.filter (fun o => !ops.any (fun x => decide (x.id = o.id))) } t.dev)) ∧
    (Accepted s c { CmdSpec.plain 0x4A with m0 := 2 ^ 48 - 1, m1 := 0x3FFFFFF, m2 := 0x3FFF, m3 := 0xFFFF, lim2 := 16384 } →
      ((s.dev.node c.n2).st.reachable = false →
        Serves (exec (.phaseSend c) s) s s.dev stNoNode (leBytes 2 (c.f1 15 0))) ∧
      (∀ q, q = (if (s.dev.node c.n2).st = .dormant then (s.dev.node c.n2).heldq else (s.dev.node c.n2).txq) →
        (s.dev.node c.n2).st.reachable = true →
        ∃ t m, exec (.phaseSend c) s = .next t ∧ t.pending = s.pending ∧ (t.dev.cmdOf s.dev.nextId).isSome = true ∧
          (if (s.dev.node c.n2).st = .dormant then (t.dev.node c.n2).heldq else (t.dev.node c.n2).txq) = q ++ [m] ∧
          m.origin = .own 0x0C c.mpt (some s.dev.nextId) ∧
          m.data = mgmtMsg 0x0C (s.dev.phaseBody c.mpt (c.f1 15 0) (c.f1 23 16) (c.f1 25 24) (if c.f1 25 24 = 2 then c.n3 else 0)) ∧
          Reports { s.dev with nodes := t.dev.nodes } t.dev))

/-- 14 R350, R352, R354, R357: in RUN, SWO_COMMIT five microseconds before the target commits an operation, and ends it where the timebase is
in holdover and its output asks for that; SWO_EDGE drives the output in the CK_SWO cycle nearest the target; SWO_PULSE_END drives it to its idle level
`PW` such cycles later; each notes the MPT of its edge; SWO_READBACK, from 1 µs after an edge on,
completes the operation after its last edge, and reports a pin that does not follow. -/
def Obligations.SwitchingEdges : Prop :=
  ∀ (s : State) (id : Nat) (o : SwoOp), s.dev.dev = .run → s.dev.swoAt id = some o →
    (o.committed = false → s.dev.toGo o.t ≤ s.dev.runs (usClk 5) →
      ((s.dev.tb.holdover && s.dev.flag Reg.swoCfg (16 + o.out)) = false →
        Reaches (exec (.swoCommit id) s) s (s.dev.modSwo id (fun _ => { o with committed := true, hold := s.dev.tb.holdover }))) ∧
      ((s.dev.tb.holdover && s.dev.flag Reg.swoCfg (16 + o.out)) = true →
        ∃ t, exec (.swoCommit id) s = .next t ∧ t.pending = s.pending ∧ t.dev.swoAt id = none ∧ t.dev.cmdOf o.cmd = none ∧
          t.dev.swoLvl = s.dev.swoLvl)) ∧
    (o.committed = true → o.mpt1 = none → 2 * s.dev.toGo o.t ≤ s.dev.runs 1 →
      Reaches (exec (.swoEdge id) s) s
        ((s.dev.drive o.out (s.dev.swoLevel o)).modSwo id (fun x => { x with
          mpt1 := some (s.dev.mptAtNs (2 * s.dev.edgeCycle o.t : Nat)), at1 := s.dev.edgeCycle o.t, checked := false }))) ∧
    (o.act = 2 → o.mpt1.isSome = true → o.mpt2 = none → o.at1 + o.pw ≤ 2 * s.dev.clk + 1 →
      Reaches (exec (.swoPulseEnd id) s) s
        ((s.dev.drive o.out (bit s.dev.swoIdle o.out)).modSwo id (fun x => { x with
          mpt2 := some (s.dev.mptAtNs (2 * (o.at1 + o.pw) : Nat)), at1 := o.at1 + o.pw, checked := false }))) ∧
    (∀ pin : Bool, o.mpt1.isSome = true → o.checked = false → o.at1 + 2 * usClk 1 ≤ 2 * s.dev.clk →
      let bad := pin != bit s.dev.swoLvl o.out
      (o.act = 2 → o.mpt2 = none →
        Reaches (exec (.swoReadback id pin) s) s
          (s.dev.modSwo id (fun _ => { o with checked := true, pinFault := o.pinFault || bad }))) ∧
      (o.act ≠ 2 ∨ o.mpt2.isSome = true →
        ∃ t, exec (.swoReadback id pin) s = .next t ∧ t.pending = s.pending ∧ t.dev.swoAt id = none ∧ t.dev.cmdOf o.cmd = none ∧
          t.dev.swoLvl = s.dev.swoLvl ∧ (bad = true → t.dev.flag Reg.swoStat 17 = true)))

/-! ### Functions, rings and data -/

/-- 15 R366, R368, R372, R386, R389, Table HR.10: FN_ENABLE takes the page addresses, FN_DISABLE leaves every ring of the function DISABLED;
VF_ENABLE_CHANGE to 1 disables the PF1 rings of the groups that the VFs take, to 0 it resets every VF; while Bus Master Enable is 0 writes
are held, and they are made in their order when it returns; MSIX_UNMASK clears an entry's mask bit and sends once what was pending;
MSIX_MODERATION_EXPIRY has the message of entries not yet signalled sent, after the status-page write that shows them. -/
def Obligations.FunctionsAndMessages : Prop :=
  ∀ (s : State) (f : Fin 34),
    (s.dev.fnExists f = true →
      (∀ dbp stp : BitVec 64, (s.dev.fn f).en = false →
        let page := fun (x : BitVec 64) => BitVec.ofNat 64 (x.toNat / 4096 * 4096)
        ∃ t, exec (.fnEnable f dbp stp) s = .next t ∧ t.pending = s.pending ∧ t.hostMem = s.hostMem ∧
          t.dev = (s.dev.modFn f (fun x => { x with
            dbp := page dbp, stp := page stp, en := true, active := true, dbpOn := page dbp, stpOn := page stp })).fresh) ∧
      ((s.dev.fn f).en = true →
        ∃ t, exec (.fnDisable f) s = .next t ∧ t.pending = s.pending ∧ t.dev.dev = s.dev.dev ∧ (t.dev.fn f).en = false ∧
          (t.dev.fn f).active = false ∧ ∀ k, ringFn k = f.val → (t.dev.ring k).st = .disabled) ∧
      ((s.dev.fn f).bme = true →
        ∃ t, exec (.busMasterEnableChange f false) s = .next t ∧ t.pending = s.pending ∧ t.hostMem = s.hostMem ∧
          t.dev = (s.dev.modFn f (fun x => { x with bme := false })).fresh) ∧
      ((s.dev.fn f).bme = false →
        ∃ t, exec (.busMasterEnableChange f true) s = .next t ∧ t.pending = s.pending ∧ Reports s.dev t.dev ∧
          (t.dev.fn f).bme = true ∧ (t.dev.fn f).held = [] ∧ t.hostMem = Memory.commit s.hostMem (s.dev.fn f).held) ∧
      (∀ v : Fin 128, v.val < fnVectors f →
        ∃ t, exec (.msixUnmask f v) s = .next t ∧ t.pending = s.pending ∧ t.dev.core = s.dev.core ∧
          (f.val ≠ 0 → v.val ∈ (t.dev.fn f).unmasked ∧ v.val ∉ (t.dev.fn f).pend ∧
            SMap.get (fun _ => 0) v.val (t.dev.fn f).sent =
              SMap.get (fun _ => 0) v.val (s.dev.fn f).sent + b2n ((s.dev.fn f).pend.contains v.val)) ∧
          (f.val = 0 → t.dev.flag (Reg.msixTable v 3) 0 = false ∧
            (s.dev.flag (Reg.msixTable v 3) 0 = true → v.val ∉ (t.dev.fn f).pend)))) ∧
    (∀ slot : Fin 128,
      let k := ringKey f slot
      (s.dev.ring k).st ≠ .disabled → (s.dev.ring k).vec ≠ 255 → (s.dev.ring k).unsig ≠ 0 →
      (s.dev.ring k).unsigAt + usClk (s.dev.ring k).modUs ≤ s.dev.clk →
      ∃ t, exec (.msixModerationExpiry f slot) s = .next t ∧ t.pending = s.pending ∧ Reports s.dev t.dev ∧
        (t.dev.ring k).unsig = 0 ∧ (s.dev.statusBytes k ≠ (s.dev.ring k).shown → (t.dev.ring k).msgDue = true) ∧
        (s.dev.statusBytes k = (s.dev.ring k).shown → f.val ≠ 0 → (s.dev.ring k).vec ∈ (s.dev.fn f).unmasked →
          SMap.get (fun _ => 0) (s.dev.ring k).vec (t.dev.fn f).sent =
            SMap.get (fun _ => 0) (s.dev.ring k).vec (s.dev.fn f).sent + 1)) ∧
    (s.dev.dev ≠ .off →
      (∀ n : Nat, s.dev.vfEn = false →
        ∃ t, exec (.vfEnableChange true n) s = .next t ∧ t.pending = s.pending ∧ t.dev.dev = s.dev.dev ∧ t.dev.vfEn = true ∧
          t.dev.numVfs = min n 32 ∧ ∀ k, ringFn k = 1 → ringSlot k / 4 < min n 32 → (t.dev.ring k).st = .disabled) ∧
      (∀ n : Nat, s.dev.vfEn = true →
        ∃ t, exec (.vfEnableChange false n) s = .next t ∧ t.pending = s.pending ∧ t.dev.dev = s.dev.dev ∧ t.dev.vfEn = false ∧
          t.dev.numVfs = 0 ∧ ∀ i, i < 32 → (t.dev.fn (2 + i)).active = false ∧ (t.dev.fn (2 + i)).bme = false ∧
            ∀ k, ringFn k = 2 + i → (t.dev.ring k).st = .disabled))

/-- 15 R372-R375, R387, R388, 17 R420: DOORBELL_POLL of an active function, where one slot asks for something, takes up a change of `EN` and a host
index that moved forward of a ring that the device state serves, and leaves a ring that it does not; an enable that may not be accepted leaves the ring as it is with `ERR`, an index that moved backwards is a ring fault. A doorbell
page that cannot be read, and a status page that cannot be written, leave every ring as it is, set `PAGE_FAULT` with ST_PAGE_FAULT in
`LAST_ERR` and `PAGE_FAULT_SEEN`, and leave what was due to be tried again; the failed read is reported through AER. RING_STOPPING_END disables a completion ring that nothing
holds. STATUS_PAGE_WRITE shows what has changed. QUEUE_POINTER_FAULT leaves a ring in FAULT, or empties a queue. -/
def Obligations.RingService : Prop :=
  ∀ (s : State) (f : Fin 34),
    ((s.dev.fn f).active = true → s.dev.served f = true → (s.dev.fn f).bme = true →
      (∃ t, exec (.doorbellPoll f none) s = .next t ∧ t.pending = s.pending ∧ Reports s.dev t.dev ∧ t.dev.rings = s.dev.rings ∧
        t.dev.fn f = { s.dev.fn f with
          pageFault := true, lastErr := BitVec.ofNat 8 stPageFault, aer := (s.dev.fn f).aer + 1 } ∧
        t.dev.flag Reg.hifStat 0 = true) ∧
      ∀ (l : List DbSlot) (sl : Nat) (x : DbSlot), l[sl]? = some x → sl < fnSlots f →
        (∀ j y, j ≠ sl → l[j]? = some y → Unmoved s.dev (ringKey f j) y) →
        let k := ringKey f sl
        let r := s.dev.ring k
        (s.dev.ringServed f sl = false →
          ∃ t, exec (.doorbellPoll f (some l)) s = .next t ∧ t.pending = s.pending ∧ t.dev.ring k = r) ∧
        (s.dev.ringServed f sl = true → x.en = true → r.lastEn = false → s.dev.enableOk f sl x = true →
          ∃ t, exec (.doorbellPoll f (some l)) s = .next t ∧ t.pending = s.pending ∧ (t.dev.ring k).st = .enabled ∧
            (t.dev.ring k).hostIdx = x.idx ∧ (t.dev.ring k).lastEn = true ∧ (r.owed = [] → (t.dev.ring k).devIdx = x.idx)) ∧
        (s.dev.ringServed f sl = true → x.en = true → r.lastEn = false → s.dev.enableOk f sl x = false → r.takes = false →
          ∃ t, exec (.doorbellPoll f (some l)) s = .next t ∧ t.pending = s.pending ∧ (t.dev.ring k).st = r.st ∧
            (t.dev.ring k).err = BitVec.ofNat 8 stInvalid) ∧
        (s.dev.ringServed f sl = true → x.en = r.lastEn → r.takes = true → (x.idx - r.hostIdx).toNat < 2 ^ 31 → x.rdErr = false →
          (if ringClass k = .submission then x.idx - r.devIdx else r.devIdx - x.idx).toNat ≤ r.size →
          ∃ t, exec (.doorbellPoll f (some l)) s = .next t ∧ t.pending = s.pending ∧ (t.dev.ring k).st = r.st ∧
            (t.dev.ring k).hostIdx = x.idx) ∧
        (s.dev.ringServed f sl = true → x.en = r.lastEn → r.takes = true → 2 ^ 31 ≤ (x.idx - r.hostIdx).toNat →
          ∃ t, exec (.doorbellPoll f (some l)) s = .next t ∧ t.pending = s.pending ∧ (t.dev.ring k).st = .fault ∧
            (t.dev.ring k).err = BitVec.ofNat 8 stQueueFault) ∧
        (s.dev.ringServed f sl = true → x.en = false → r.lastEn = true → ringClass k ≠ .completion →
          ∃ t, exec (.doorbellPoll f (some l)) s = .next t ∧ t.pending = s.pending ∧ (t.dev.ring k).st = .disabled ∧
            (t.dev.ring k).lastEn = false)) ∧
    (∀ slot : Fin 128,
      let k := ringKey f slot
      (ringClass k = .completion → s.dev.unpaired k = true → (s.dev.ring k).st = .stopping →
        ∃ t, exec (.ringStoppingEnd f slot) s = .next t ∧ t.pending = s.pending ∧ t.hostMem = s.hostMem ∧
          t.dev = (s.dev.modRing k (fun r => { r with st := .disabled })).fresh) ∧
      ((s.dev.fn f).active = true → slot.val < fnSlots f →
        s.dev.statusBytes k ≠ (s.dev.ring k).shown ∨ (s.dev.ring k).msgDue = true →
        (∃ t, exec (.statusPageWrite f slot true) s = .next t ∧ t.pending = s.pending ∧ Reports s.dev t.dev ∧
          (t.dev.ring k).shown = s.dev.statusBytes k ∧ (t.dev.ring k).msgDue = false ∧
          ((s.dev.fn f).bme = true → (s.dev.ring k).msgDue = false → t.hostMem = Memory.commit s.hostMem
            [(((s.dev.fn f).stpOn.toNat + 32 * slot.val) % 2 ^ 64,
              s.dev.statusBytes k ++ leBytes 6 s.dev.mpt ++ List.replicate 10 0)])) ∧
        ∃ t, exec (.statusPageWrite f slot false) s = .next t ∧ t.pending = s.pending ∧ Reports s.dev t.dev ∧
          t.dev.rings = s.dev.rings ∧ t.dev.statusBytes k = s.dev.statusBytes k ∧
          t.dev.fn f = { s.dev.fn f with pageFault := true, lastErr := BitVec.ofNat 8 stPageFault } ∧
          t.dev.flag Reg.hifStat 0 = true) ∧
      (s.dev.dev.live = true → s.dev.slotServed f slot = true → (s.dev.ring k).takes = true →
        ∃ t, exec (.queuePointerFault (.ring f slot)) s = .next t ∧ t.pending = s.pending ∧ (t.dev.ring k).st = .fault ∧
          (t.dev.ring k).err = BitVec.ofNat 8 stQueueFault)) ∧
    (∀ q : Nat, s.dev.dev.live = true → 1 ≤ q → q ≤ 10 →
      ∃ t, exec (.queuePointerFault (.queue q)) s = .next t ∧ t.pending = s.pending ∧ Reports s.dev t.dev ∧
        (t.dev.lossy q).items = [] ∧ (t.dev.lossy q).faulted = (s.dev.lossy q).faulted + (s.dev.lossy q).items.length) ∧
    (s.dev.dev.live = true →
      ∃ t, exec (.queuePointerFault (.queue 11)) s = .next t ∧ t.pending = s.pending ∧
        Reports { s.dev with swo := [] } t.dev)

/-- 15 R378-R380, R383, Table HR.8, 17 R416: CHAIN_FETCH takes a whole chain once its cells are granted: it joins the node's queue or the
group's broadcasts with its payload, or is completed with the status of the first check that fails, no queue changed; until then it
waits, the consumer index unmoved; a descriptor that cannot be read is a ring fault. RX_BUFFER_TAKE puts a buffer of legal length into
the group's pool. -/
def Obligations.ChainsAndBuffers : Prop :=
  ∀ (s : State) (f : Fin 34) (slot : Fin 128), f.val ≠ 0 → s.dev.mayTake f slot = true →
    let k := ringKey f slot
    let g := ringGroup k
    (slot.val % 4 = 0 →
      (∀ payload, ∃ t, exec (.chainFetch f slot none payload) s = .next t ∧ t.pending = s.pending ∧ (t.dev.ring k).st = .fault) ∧
      ∀ (x : TxDesc) (rest : List TxDesc) (payload : List Byte), chainWhole (x :: rest) = true →
        (x :: rest).length ≤ (s.dev.ring k).waiting →
        let grant := (s.dev.fresh.chainGrant k g x (s.dev.chainCells x (x :: rest))).1
        (grant = none →
          ∃ t, exec (.chainFetch f slot (some (x :: rest)) payload) s = .next t ∧ t.pending = s.pending ∧
            (t.dev.ring k).devIdx = (s.dev.ring k).devIdx ∧
            Reports { s.dev with groups := t.dev.groups, ques := t.dev.ques } t.dev) ∧
        (∀ (pools : List Pool) (st : Nat), grant = some pools → s.dev.chainFault g x (x :: rest) payload = some st →
          x.len.toNat ≤ payload.length →
          ∃ t, exec (.chainFetch f slot (some (x :: rest)) payload) s = .next t ∧ t.pending = s.pending ∧
            (t.dev.ring k).devIdx = (s.dev.ring k).devIdx + BitVec.ofNat 32 (rest.length + 1) ∧
            (t.dev.ring k).consumed = (s.dev.ring k).consumed + 1 ∧ t.dev.nodes = s.dev.nodes ∧
            (t.dev.group g).bq = (s.dev.group g).bq) ∧
        (∀ pools : List Pool, grant = some pools → s.dev.chainFault g x (x :: rest) payload = none → x.len.toNat ≤ payload.length →
          x.bcast = true ∨ (s.dev.node x.nh.toNat).st ≠ .dormant →
          ∃ t m, exec (.chainFetch f slot (some (x :: rest)) payload) s = .next t ∧ t.pending = s.pending ∧
            (t.dev.ring k).devIdx = (s.dev.ring k).devIdx + BitVec.ofNat 32 (rest.length + 1) ∧
            (t.dev.ring k).consumed = (s.dev.ring k).consumed + 1 ∧
            m.data = payload.take x.len.toNat ∧ m.origin = .host k (s.dev.ring k).devIdx x.cookie ∧ m.ftag = x.ftag.toNat ∧
            (x.bcast = true → (t.dev.group g).bq = (s.dev.group g).bq ++ [m] ∧ t.dev.nodes = s.dev.nodes) ∧
            (x.bcast = false → (t.dev.node x.nh.toNat).txq = (s.dev.node x.nh.toNat).txq ++ [m] ∧
              (∀ h, h ≠ x.nh.toNat → t.dev.node h = s.dev.node h) ∧ (t.dev.group g).bq = (s.dev.group g).bq))) ∧
    (slot.val % 4 = 2 →
      (∃ t, exec (.rxBufferTake f slot none) s = .next t ∧ t.pending = s.pending ∧ (t.dev.ring k).st = .fault) ∧
      ∀ x : RxDesc, ∃ t, exec (.rxBufferTake f slot (some x)) s = .next t ∧ t.pending = s.pending ∧
        (t.dev.ring k).devIdx = (s.dev.ring k).devIdx + 1 ∧ (t.dev.ring k).consumed = (s.dev.ring k).consumed + 1 ∧
        (rxDescFault x = none → (t.dev.group g).rxPool = (s.dev.group g).rxPool ++
          [{ addr := x.addr, blen := x.blen.toNat, idx := (s.dev.ring k).devIdx, cookie := x.cookie }]) ∧
        (rxDescFault x ≠ none → (t.dev.group g).rxPool = (s.dev.group g).rxPool))

/-- 15 R384, R385, 11 R299, R300, 16 R407, 17 R416: RX_DELIVERY of the MSDU at the head of a group's queue writes it with its CRC into the pool's
buffers, and the MSDU leaves, whatever cells the read finds faulty; RX_HOLD_EXPIRY drops one that no buffer came for; RX_DROP and LINK_DISCARD tell of the drops and discards of a
beacon period that has ended; CREDIT_GRANT grants a waiting request that the pools cover; FWD_WAIT_TIMEOUT hands the MSDU to the host, marked
as failed. -/
def Obligations.DeliveryAndCredits : Prop :=
  ∀ s : State,
    (∀ (g : Fin 32) (m : RxMsdu) (rest : List RxMsdu), (s.dev.group g).rxq = m :: rest →
      (s.dev.deliverable g m = true →
        ∀ cells, ∃ t, exec (.rxDelivery g cells) s = .next t ∧ t.pending = s.pending ∧ (t.dev.group g).rxq = rest ∧
          (t.dev.group g).rxGiven = (s.dev.group g).rxGiven + 1 ∧ t.dev.nodes = s.dev.nodes ∧
          ∀ (b : RxBuf) (bs : List RxBuf), (s.dev.group g).rxPool = b :: bs → m.faulty = [] → cells = [] →
            (s.dev.fn (ringFn (s.dev.dataRing g 2))).bme = true →
            ∃ ws, t.hostMem = Memory.commit s.hostMem
              ((b.addr.toNat % 2 ^ 64, (m.data ++ leBytes 4 (crc32c m.data)).take b.blen) :: ws)) ∧
      (s.dev.dev.clocked = true → s.dev.deliverable g m = false → m.at_ + usClk (s.dev.fld Reg.hifRxhold 15 0) ≤ s.dev.clk →
        ∃ t, exec (.rxHoldExpiry g) s = .next t ∧ t.pending = s.pending ∧ (t.dev.group g).rxq = rest ∧
          (t.dev.group g).rxDropped = (s.dev.group g).rxDropped + 1 ∧ (t.dev.group g).rxPool = (s.dev.group g).rxPool ∧
          (t.dev.ring (s.dev.dataRing g 3)).loss = (s.dev.ring (s.dev.dataRing g 3)).loss + 1 ∧ t.dev.nodes = s.dev.nodes)) ∧
    (∀ g : Fin 32, (s.dev.group g).dropCount ≠ 0 → (s.dev.group g).dropBp ≠ s.dev.msync.bpi →
      Reaches (exec (.rxDrop g) s) s (s.dev.modGroup g (fun x => { x with dropCount := 0 }))) ∧
    (∀ (nh : Fin 16384) (st : BitVec 8) (x : Discard),
      (s.dev.node nh).disc.find? (fun x => decide (x.st = st.toNat ∧ x.bp ≠ s.dev.msync.bpi)) = some x →
      Reaches (exec (.linkDiscard nh st) s) s
        (s.dev.modNode nh (fun n => { n with disc := n.disc.filter (fun y => decide (y ≠ x)) }))) ∧
    (s.dev.dev.clocked = true →
      (∃ t, exec .creditGrant s = .next t ∧ t.pending = s.pending ∧ t.dev.dev = s.dev.dev ∧
        ∀ w ∈ t.dev.ques.waiters, w ∈ s.dev.ques.waiters) ∧
      ∀ (w : Waiter) (k : Nat), s.dev.ques.waiters = [w] → w.rank = 2 ∨ w.rank = 3 ∨ w.rank = 4 → w.what = .chain k →
        (s.dev.coverable w.grp w.need = true → ∃ t, exec .creditGrant s = .next t ∧ t.pending = s.pending ∧
          t.dev.ques.waiters = [] ∧ (t.dev.ring k).grant = (s.dev.takeCells w.grp w.need).1 ∧
          Reports { s.dev with groups := t.dev.groups, ques := t.dev.ques } t.dev) ∧
        (s.dev.coverable w.grp w.need = false → Reaches (exec .creditGrant s) s s.dev)) ∧
    (∀ (id : Nat) (w : FwdWait), s.dev.fwdWait.find? (fun w => decide (w.id = id)) = some w → s.dev.dev.clocked = true →
      s.dev.fld (Reg.lrFwd w.grp) 7 0 ≤ bpSince w.bp s.dev.msync.bpi →
      ∃ t, exec (.fwdWaitTimeout id) s = .next t ∧ t.pending = s.pending ∧
        t.dev.fwdWait = s.dev.fwdWait.filter (fun x => decide (x.id ≠ id)) ∧
        (t.dev.group w.grp).rxq = (s.dev.group w.grp).rxq ++ [{ w.msdu with failed := true, copy := false }] ∧
        t.dev.nodes = s.dev.nodes)

/-- 18 R429-R432, Tables IN.2, IN.3: a scrub that corrects a word, or meets an uncorrectable one in a free cell, changes nothing but its
report; an uncorrectable cell in use is marked for its next reader; a Marimba scrub that meets a commit yields; an uncorrectable copy of a
key is discarded, and other keys stay. -/
def Obligations.Scrubbing : Prop :=
  ∀ s : State, s.dev.dev.clocked = true →
    (∀ (cell : Nat) (res : ScrubResult) (use : Option CellUse), cell < 98304 →
      (res ≠ .uncorrectable ∨ use = none → Reaches (exec (.frameStoreScrub cell res use) s) s s.dev) ∧
      (∀ u, res = .uncorrectable → use = some u →
        Reaches (exec (.frameStoreScrub cell res use) s) s (s.dev.markCell u cell))) ∧
    (∀ (w : MarPlace) (res : ScrubResult), s.dev.flag Reg.marCtrl 2 = true →
      (∃ t, exec (.marimbaScrub w res true) s = .next t ∧ t.pending = s.pending ∧ t.dev.flag Reg.mntStat 3 = true ∧
        marCode w ∈ t.dev.mnt.revisit ∧ Reports { s.dev with mnt := t.dev.mnt } t.dev) ∧
      (res ≠ .uncorrectable ∨ (∃ n, w = .line n) →
        Reaches (exec (.marimbaScrub w res false) s) s
          { s.dev with mnt := { s.dev.mnt with revisit := s.dev.mnt.revisit.filter (fun c => decide (c ≠ marCode w)) } }) ∧
      (∀ nh up seg shadow, res = .uncorrectable → w = .copy nh up seg shadow → seg < 16 →
        ∃ t, exec (.marimbaScrub w res false) s = .next t ∧ t.pending = s.pending ∧
          (shadow = true → (t.dev.key (keyIx nh up seg)).shadow = none) ∧
          (shadow = false → (t.dev.key (keyIx nh up seg)).active = none) ∧
          (∀ i, i ≠ keyIx nh up seg → t.dev.key i = s.dev.key i) ∧
          Reports { s.dev with keys := t.dev.keys, sess := t.dev.sess, mnt := t.dev.mnt } t.dev))

/-! ### Slots and schedules -/

/-- 05 R122, R126, R127, 03 R73, 09 R233: BINDING_DELIVERY for the coming boundary puts every lane it binds into the shadow or, too late
for it, among the late ones; SLOT_BOUNDARY takes up the boundary, leaves a lane whose entry was not delivered unbound, and gives every
driver that does not train its condition; TONE_MAP_FETCH, where its reads find nothing beyond correction, notes the slot's entries as
requested and pins the copies of every segment that a data allocation of the slot covers, within the 65,536 lines of the cache (which lines
count as in use is the model's choice, log 20), and unpins none. -/
def Obligations.SlotBindings : Prop :=
  ∀ s : State, s.dev.dev = .run →
    (∀ (unit : Nat) (late : List Nat), s.dev.coming.2.1 = unit →
      ∃ t, exec (.bindingDelivery unit late) s = .next t ∧ t.pending = s.pending ∧
        Reports { s.dev with shadow := t.dev.shadow, late := t.dev.late } t.dev ∧
        (∀ l ∈ s.dev.shadow, l ∈ t.dev.shadow) ∧
        ∀ l ∈ s.dev.lanesAt s.dev.coming.1 unit, (l ∈ t.dev.shadow ∨ l ∈ t.dev.late) ∧
          (s.dev.leadLeft s.dev.coming.2.2 = true → l ∉ late → l ∉ s.dev.late → l ∈ t.dev.shadow) ∧
          (s.dev.leadLeft s.dev.coming.2.2 = false → l ∉ s.dev.shadow → l ∉ t.dev.shadow)) ∧
    (∀ u : Nat, s.dev.boundaryDue u = true →
      ∃ t, exec (.slotBoundary u) s = .next t ∧ t.pending = s.pending ∧ t.dev.dev = .run ∧
        t.dev.unit = s.dev.msync.bpi * 8192 + u ∧ t.dev.shadow = [] ∧ t.dev.late = [] ∧
        (∀ l, l < 96 → l ∉ s.dev.shadow → (t.dev.dec l).bound = none) ∧
        (∀ l, l < 96 → 96 + l ∉ s.dev.shadow → (t.dev.enc l).bound = none) ∧
        ∀ p, p < 128 → (t.dev.port p).ech ≠ .training → (t.dev.port p).enabled = t.dev.driverOn p) ∧
    (∀ (bp : BitVec 23) (unit corrected : Nat), s.dev.fetchTime bp.toNat unit = true →
      ∃ t, exec (.toneMapFetch bp unit corrected []) s = .next t ∧ t.pending = s.pending ∧
        Reports { s.dev with pins := t.dev.pins, asked := t.dev.asked } t.dev ∧ (∀ p ∈ s.dev.pins, p ∈ t.dev.pins) ∧
        (∀ a, a ∈ t.dev.asked ↔ a ∈ s.dev.asked ∨ a = (bp.toNat, unit)) ∧
        (∀ p ∈ t.dev.pins, p ∈ s.dev.pins ∨ (p.bp = bp.toNat ∧ p.unit = unit)) ∧
        (pinLines s.dev.pins ≤ 65536 → pinLines t.dev.pins ≤ 65536) ∧
        ∀ (g : Nat) (pl : Plan) (a : Alloc) (nh seg : Nat) (e : Entry), (g, pl) ∈ s.dev.plansAt bp.toNat → a ∈ pl.allocs →
          a.start = unit → a.kind = kindData → s.dev.entryNode g a.addr = some nh → seg ∈ s.dev.spanSegs a.start a.len →
          (s.dev.copyAt (setIx nh a.dir) seg bp.toNat unit).1 = some e →
          (∃ p ∈ t.dev.pins, p.bp = bp.toNat ∧ p.unit = unit ∧ p.set = setIx nh a.dir ∧ p.entry = e) ∨
            t.dev.flag Reg.marStat 2 = true)

/-- 10 R249, R256, R257, 21 R475, 22 R503: at the start of a beacon period SCHEDULE_FREEZE puts a plan that keeps the rules into force for the
period three ahead, and no other plan; at another time it does nothing. SCHEDULE_LATE gives a beacon period without a plan a beacon region and
one contention allocation of `CA_MIN` units after it. BEACON_TX sends one beacon at its boundary, unless the check of 06 R156 keeps it off.
MAINT_GRANT hands over the waiting request that may run, placed in the first beacon period not yet frozen. -/
def Obligations.Schedules : Prop :=
  ∀ s : State, s.dev.dev = .run →
    (∀ (g : Fin 32) (pl : Plan),
      let n := (s.dev.msync.bpi + 3) % 2 ^ 23
      let d := (s.dev.sess.filter (fun x => decide ((s.dev.node x.nh).grp = g.val) && !x.done && x.endBp.isNone)).foldl
        (fun d x => d.askSession x) s.dev.fresh
      (s.dev.atBoundary = false ∨ s.dev.unplanned g n = false → Reaches (exec (.scheduleFreeze g pl) s) s s.dev) ∧
      (s.dev.atBoundary = true → s.dev.unplanned g n = true → d.planOk g n pl = true →
        ∃ t, exec (.scheduleFreeze g pl) s = .next t ∧ t.pending = s.pending ∧ t.dev.dev = .run ∧ t.dev.planOf g n = some pl ∧
          t.dev.keys = s.dev.keys ∧ t.dev.ports = s.dev.ports) ∧
      (s.dev.atBoundary = true → s.dev.unplanned g n = true → d.planOk g n pl = false →
        ∃ t, exec (.scheduleFreeze g pl) s = .next t ∧ t.pending = s.pending ∧ t.dev.planOf g n = none ∧
          Reports { s.dev with mnt := t.dev.mnt } t.dev)) ∧
    (∀ (g : Fin 32) (n : Nat), s.dev.wanting g = some n →
      ∃ t pl, exec (.scheduleLate g) s = .next t ∧ t.pending = s.pending ∧ t.dev.dev = .run ∧ t.dev.planOf g n = some pl ∧
        pl.allocs = [{ start := pl.brlen, len := s.dev.fld Reg.gongGrid 12 0, addr := addrAll, dir := true, form := 5, cpl := 1
                       kind := kindContention }] ∧
        t.dev.keys = s.dev.keys ∧ t.dev.nodes = s.dev.nodes) ∧
    (∀ (g : Fin 32) (w : LaneWrites) (x : MemFaults) (l : Nat), s.dev.beaconLane g = some l →
      s.dev.beacons g s.dev.msync.bpi = true → (s.dev.group g).lastBcn ≠ some s.dev.msync.bpi → s.dev.atBoundary = true →
      s.dev.unit / 8192 = s.dev.msync.bpi →
      let b := (s.dev.fresh.placeChange g).beacon g
      ∃ t, exec (.beaconTx g w x) s = .next t ∧ t.pending = s.pending ∧ t.dev.dev = .run ∧
        (t.dev.group g).lastBcn = some s.dev.msync.bpi ∧ t.dev.nodes = s.dev.nodes ∧
        ((s.dev.fresh.gateFrame (s.dev.enc l).outs b.2.2.2).1 = true →
          ∃ f, (t.dev.enc l).frame = some f ∧ f.fc = b.1 ∧ f.start = s.dev.tb.n ∧ f.stop = s.dev.tb.n + b.2.2.2) ∧
        ((s.dev.fresh.gateFrame (s.dev.enc l).outs b.2.2.2).1 = false →
          (t.dev.enc l).frame = (s.dev.enc l).frame ∧ t.dev.flag Reg.gongStat 4 = true)) ∧
    (∀ r : MntReq, s.dev.mnt.reqs.find? (fun r => s.dev.grantable r) = some r →
      Reaches (exec .maintGrant s) s { s.dev with mnt := { s.dev.mnt with
        reqs := s.dev.mnt.reqs.filter (fun x => decide (x.stamp ≠ r.stamp))
        runs := s.dev.mnt.runs ++ [{ req := r, grant := s.dev.clk, placed := some ((s.dev.msync.bpi + 4) % 2 ^ 23) }] } })

/-! ### Frames sent and acknowledged -/

/-- 06 R156, R157, 09 R221, R222, 10 R256, 11 R283, R287, 12 R316: on a lane that is bound and free, FRAME_TX_START of the next MSDU of the
allocation's node, one already sent or without protection, sends as many of its blocks as fit, and leaves it the node's unacknowledged MSDU; a
frame that the check keeps off is not sent, the failure is shown on its port, and the lane stays off for the frame's span. A broadcast MSDU
starts in the same way, as many of the blocks still to be sent as fit, and stays with what is sent while blocks remain and nothing read for the
frame is faulty; so does a frame of the sounding session placed here, which fills its allocation (the model's choice, log 13). -/
def Obligations.FramesSent : Prop :=
  ∀ (s : State) (l : Fin 96) (e : EncEntry) (w : LaneWrites) (r : MemFaults), s.dev.dev = .run → (s.dev.enc l).bound = some e →
    (s.dev.enc l).idle s.dev.tb.n = true →
    let d := s.dev.fresh
    let outs := (s.dev.enc l).outs
    let g := (s.dev.enc l).grp
    (∀ (hop k : Nat) (rel : Bool) (m : Msdu) (f : TxForm),
      (e.kind = kindData ∧ e.dir = false ∧ (s.dev.node hop).st ≠ .dormant ∧ rel = false) ∨
        (e.kind = kindPoll ∧ s.dev.releaseOpen l e hop = true ∧ rel = true) →
      s.dev.entryNode g e.addr = some hop → d.nextMsdu l hop rel = some m → m.sentOnce = true ∨ m.prot = false → m.blocks ≠ [] →
      d.fitBlocks l hop s.dev.tb.n m.mgmt true m.blocks.length = some (k, f) →
      ((d.gateFrame outs f.len).1 = true →
        ∃ t x m', exec (.frameTxStart l .node w r) s = .next t ∧ t.pending = s.pending ∧ t.dev.dev = .run ∧
          (t.dev.enc l).frame = some x ∧ x.start = s.dev.tb.n ∧ x.stop = s.dev.tb.n + f.len ∧ x.msdu = m.id ∧ x.nh = m.nh ∧
          (t.dev.node m.nh).cur = some m' ∧ m'.id = m.id ∧ m'.tries = m.tries + 1 ∧ m'.blocks = m.blocks ∧
          m'.sent = (m.blocks.take k).map (fun b => b.idx) ∧
          m'.spanEnd = some (s.dev.tb.n + f.len + d.ackSpan m.grp (d.ulGi m.grp)) ∧
          (∀ i, i ≠ l.val → t.dev.enc i = s.dev.enc i) ∧ ∀ h, h ≠ m.nh → h ≠ hop → t.dev.node h = s.dev.node h) ∧
      ((d.gateFrame outs f.len).1 = false →
        ∃ t, exec (.frameTxStart l .node w r) s = .next t ∧ t.pending = s.pending ∧ (t.dev.enc l).frame = (s.dev.enc l).frame ∧
          (t.dev.enc l).nextAt = s.dev.tb.n + f.len ∧ Reports { s.dev with encs := t.dev.encs } t.dev ∧
          ∃ p ∈ outs, t.dev.flag (Src.wf (portGroup p) (p % 4)).off 29 = true ∨
            t.dev.flag (Src.wf (portGroup p) (p % 4)).off 30 = true)) ∧
    (∀ (k : Nat) (m : Msdu) (f : TxForm), e.kind = kindData → e.dir = false → e.addr = addrAll →
      firstMsdu ((s.dev.group g).bq.filter (fun m => (s.dev.enc l).fill.contains m.id)) = some m → m.blocks ≠ [] → m.faulty = [] →
      let todo := (m.blocks.map (fun b => b.idx)).filter (fun i => !m.sent.contains i)
      d.fitBlocks l 0 s.dev.tb.n true false todo.length = some (k, f) → (d.gateFrame outs f.len).1 = true →
      ∃ t x, exec (.frameTxStart l .broadcast w r) s = .next t ∧ t.pending = s.pending ∧ (t.dev.enc l).frame = some x ∧
        x.start = s.dev.tb.n ∧ x.stop = s.dev.tb.n + f.len ∧ x.msdu = m.id ∧
        (r.cells = [] → r.lane = none → k < todo.length →
          ∃ y ∈ (t.dev.group g).bq, y.id = m.id ∧ y.sent = m.sent ++ todo.take k)) ∧
    (∀ (x : Sess) (nh seq last nsym : Nat), e.kind = kindSounding → e.dir = false → s.dev.openOf nh false = some x →
      x.endBp = some s.dev.msync.bpi → e.addr = (s.dev.node nh).saddr → x.frames ≤ seq →
      let mine := soundAllocs (s.dev.planFor g s.dev.msync.bpi) (s.dev.node nh).saddr false
      let mimo := decide (e.cpl = 2)
      last + 1 = mine.length → (mine[seq]?).map (fun a => (a.start, a.len)) = some (e.start, e.len) →
      nsym = d.soundRoom g mimo (d.samplesTo (e.start + e.len)) → nsym ≠ 0 →
      let len := frameLen (d.profile g) (d.maskOf g) (d.ulGi g) (d.twCode g) 0 mimo nsym
      (d.gateFrame outs len).1 = true →
      ∃ t f, exec (.frameTxStart l (.sound nh seq last nsym) w r) s = .next t ∧ t.pending = s.pending ∧
        (t.dev.enc l).frame = some f ∧ f.start = s.dev.tb.n ∧ f.stop = s.dev.tb.n + len ∧ f.nh = nh ∧ fcFt f.fc = ftSound ∧
        (∃ y ∈ t.dev.sess, y.id = x.id ∧ y.frames = seq + 1 ∧ y.lastFr = last) ∧ t.dev.nodes = s.dev.nodes)

/-- 11 R282-R288, Table LR.8: within 1 us of 64 us after the frame's end, ACK_TX sends the acknowledgement that a lane owes on the encode lane
of its allocation, and none where that lane is not bound, is busy, or the check of 06 R156 keeps it off. ACK_RECEIVED takes the reported
blocks from the unacknowledged MSDU that it answers: with none left it is over, and else it is sent again while tries remain; an ACK that
answers nothing changes no node. ACK_TIMEOUT, at the end of the ACK span, and MSDU_LIFE_EXPIRY act on an MSDU in the same way, save that one
in flight is first judged when its span ends. -/
def Obligations.Acknowledgements : Prop :=
  ∀ s : State,
    (∀ (l : Fin 96) (a : AckOwed) (w : LaneWrites) (parity : Bool), s.dev.dev = .run → (s.dev.dec l).ack = some a →
      a.due ≤ s.dev.tb.n + usSamples 1 → s.dev.tb.n ≤ a.due + usSamples 1 →
      let gone := s.dev.modDec l (fun x => { x with ack := none })
      (s.dev.ackLane (s.dev.dec l) = none → Reaches (exec (.ackTx l w parity) s) s gone) ∧
      (∀ (e : Nat) (f : TxFrame), s.dev.ackLane (s.dev.dec l) = some e → (s.dev.enc e).frame = some f → s.dev.tb.n < f.stop →
        Reaches (exec (.ackTx l w parity) s) s gone) ∧
      (∀ e : Nat, s.dev.ackLane (s.dev.dec l) = some e →
        (∀ f, (s.dev.enc e).frame = some f → f.stop ≤ s.dev.tb.n) →
        ((s.dev.fresh.gateFrame (s.dev.enc e).outs (s.dev.ackLen a.grp a.gi)).1 = false →
          Reaches (exec (.ackTx l w parity) s) s gone) ∧
        ((s.dev.fresh.gateFrame (s.dev.enc e).outs (s.dev.ackLen a.grp a.gi)).1 = true →
          ∃ t f pending, exec (.ackTx l w parity) s = .next t ∧ t.pending = s.pending ∧ (t.dev.dec l).ack = none ∧
            (t.dev.enc e).frame = some f ∧ f.start = s.dev.tb.n ∧ f.stop = s.dev.tb.n + s.dev.ackLen a.grp a.gi ∧
            f.fc = fcAck a.gi (s.dev.node a.nh).saddr 0 pending a.bitmap a.aseq ∧ (t.dev.node a.nh).pendDl = pending ∧
            ∀ h, h ≠ a.nh → t.dev.node h = s.dev.node h))) ∧
    (∀ (l : Fin 96) (f : RxFrame), s.dev.dev = .run → (s.dev.dec l).ackIn = some f →
      (∀ hop, f.nh = some hop → s.dev.awaiting hop (fcAseq f.fc) = none →
        ∃ t, exec (.ackReceived l) s = .next t ∧ t.pending = s.pending ∧ (t.dev.dec l).ackIn = none ∧ t.dev.nodes = s.dev.nodes) ∧
      (∀ (hop : Nat) (m : Msdu), f.nh = some hop → s.dev.awaiting hop (fcAseq f.fc) = some m →
        let left := m.blocks.filter (fun b => !(ackedOf m.sent (fcBitmap f.fc)).contains b.idx)
        ∃ t, exec (.ackReceived l) s = .next t ∧ t.pending = s.pending ∧ (t.dev.dec l).ackIn = none ∧
          (left = [] → (t.dev.node m.nh).cur = none) ∧
          (left ≠ [] → m.ending = none → m.tries < s.dev.txTries m.grp →
            (t.dev.node m.nh).cur = some { m with blocks := left, sent := [], spanEnd := none } ∧
            ∀ h, h ≠ m.nh → h ≠ hop → t.dev.node h = s.dev.node h) ∧
          (left ≠ [] → m.ending = none → s.dev.txTries m.grp ≤ m.tries → (t.dev.node m.nh).cur = none))) ∧
    (∀ (nh : Fin 16384) (m : Msdu), s.dev.dev.clocked = true → (s.dev.node nh).cur = some m →
      (∀ e, m.spanEnd = some e → s.dev.tb.n < e → Reaches (exec (.ackTimeout nh) s) s s.dev) ∧
      (∀ e, m.spanEnd = some e → e ≤ s.dev.tb.n →
        ∃ t, exec (.ackTimeout nh) s = .next t ∧ t.pending = s.pending ∧
          (m.ending = none → m.tries < s.dev.txTries m.grp →
            (t.dev.node nh).cur = some { m with sent := [], spanEnd := none } ∧ Reports { s.dev with nodes := t.dev.nodes } t.dev) ∧
          (m.ending ≠ none ∨ s.dev.txTries m.grp ≤ m.tries → (t.dev.node nh).cur = none)) ∧
      (m.ending = none → s.dev.fld (Reg.lrCtrl m.grp) 15 8 ≤ s.dev.lived m →
        (m.spanEnd ≠ none → Reaches (exec (.msduLifeExpiry nh) s) s
          (s.dev.modNode nh (fun n => { n with cur := some { m with ending := some stNoAck } }))) ∧
        (m.spanEnd = none →
          ∃ t, exec (.msduLifeExpiry nh) s = .next t ∧ t.pending = s.pending ∧ (t.dev.node nh).cur = none)))

/-! ### Frames found -/

/-- 07 R172-R187, Tables FF.6 and FF.7: PREAMBLE_DETECT on an armed lane starts a frame's acquisition where the samples pass the test of R172,
and else changes nothing. TIMING_ACQUIRED, SYNC_WORD_DECISION and FRAME_CONTROL_DECODE, where they are due, carry it on by the sign change
and guard code found, the decided sync word and the frame control, or end it and leave the lane armed, or with the frame of a second sync word
accepted meanwhile; frame control that is not for the group is not taken. SECOND_SYNC_ACCEPT of a stronger frame within the window drops the
frame in reception; another accepted before frame control is held. CAPTURE_WINDOW_CLOSE leaves the payload to be received. -/
def Obligations.Acquisition : Prop :=
  ∀ (s : State) (l : Fin 96), s.dev.dev = .run →
    let x := s.dev.dec l
    let d0 := s.dev.settleLane l
    let others := fun (t : State) => ∀ i, i ≠ l.val → t.dev.dec i = s.dev.dec i
    let onlyLane := fun (t : State) => Judged { s.dev with decs := t.dev.decs } t.dev ∧ others t
    let again := fun (t : State) => (x.second = none → (t.dev.dec l).acq = .armed ∧ (t.dev.dec l).frame = none) ∧
      ∀ y, x.second = some y → (t.dev.dec l).acq = .fc ∧ (t.dev.dec l).rx = y
    let ends := fun (i : Instr) => ∃ t, exec i s = .next t ∧ t.pending = s.pending ∧ onlyLane t ∧ again t ∧
      t.dev.flag (Src.ff x.grp).off 0 = true
    (∀ pins : List PinRuns,
      let y := d0.dec l
      let n0 := s.dev.tb.n - 8200
      let found := d0.detects y.grp (d0.maskAt y.grp n0) (d0.windows y.rxPorts n0 8192 pins)
      (y.acq ≠ .armed → Reaches (exec (.preambleDetect l pins) s) s d0) ∧
      (y.acq = .armed → found = none → Senses (exec (.preambleDetect l pins) s) s d0) ∧
      (∀ level, y.acq = .armed → found = some level → Senses (exec (.preambleDetect l pins) s) s (d0.modDec l (fun z => { z with
        acq := .timing, win := true, failAt := none, rx := d0.startRx y level (n0 + 8192), second := none, frame := none })))) ∧
    (∀ pins : List PinRuns, x.acq = .timing →
      let n0 := x.rx.origin - 4096
      let len := s.dev.tb.n - 8 - n0
      let ps := (s.dev.windows x.rx.ports n0 len pins).map (TapWin.unblanked len)
      let code := fun (i : Nat) => guardCode (shortKs x.rx.prof (s.dev.maskAt x.grp n0)) (i * 4096) ps
      (signFound ps = none → len < 12 * 4096 → Reaches (exec (.timingAcquired l pins) s) s s.dev) ∧
      (signFound ps = none → 12 * 4096 ≤ len → ends (.timingAcquired l pins)) ∧
      (∀ i, signFound ps = some i → len < (i + 2) * 4096 → Reaches (exec (.timingAcquired l pins) s) s s.dev) ∧
      (∀ i, signFound ps = some i → (i + 2) * 4096 ≤ len → code i = 3 → ends (.timingAcquired l pins)) ∧
      (∀ i, signFound ps = some i → (i + 2) * 4096 ≤ len → code i ≠ 3 →
        Senses (exec (.timingAcquired l pins) s) s (s.dev.modDec l (fun y => { y with
          acq := .sync, rx := s.dev.timedRx x.grp x.rx (n0 + (i + 2) * 4096 + 73728) (code i) })))) ∧
    (∀ pins : List PinRuns, x.acq = .sync →
      let ws := s.dev.windows x.rx.ports (x.rx.origin - preambleLen) preambleLen pins
      let r := s.dev.preambleRx x.rx ws
      (s.dev.tb.n < x.rx.origin + 8 → Reaches (exec (.syncWordDecision l pins) s) s s.dev) ∧
      (x.rx.origin + 8 ≤ s.dev.tb.n → s.dev.syncAccepted x.grp (r.decided ws) = true →
        Senses (exec (.syncWordDecision l pins) s) s (s.dev.modDec l (fun y => { y with acq := .fc, rx := r }))) ∧
      (x.rx.origin + 8 ≤ s.dev.tb.n → s.dev.syncAccepted x.grp (r.decided ws) = false → ends (.syncWordDecision l pins))) ∧
    (x.acq = .fc →
      let fc := x.rx.fcGot
      let good := x.rx.syms.any (fun y => y.erased) = false ∧ fcGood fc = true ∧ fcValid fc x.rx.gi = true
      (x.rx.syms.length < x.rx.fcs → Reaches (exec (.frameControlDecode l) s) s s.dev) ∧
      (x.rx.fcs ≤ x.rx.syms.length → ¬ good → ends (.frameControlDecode l)) ∧
      (x.rx.fcs ≤ x.rx.syms.length → good → s.dev.rxFilter x.grp fc = none →
        ∃ t, exec (.frameControlDecode l) s = .next t ∧ t.pending = s.pending ∧ onlyLane t ∧ again t ∧
          t.dev.flag (Src.ff x.grp).off 1 = true) ∧
      (∀ nh, x.rx.fcs ≤ x.rx.syms.length → good → s.dev.rxFilter x.grp fc = some nh →
        ∃ t, exec (.frameControlDecode l) s = .next t ∧ t.pending = s.pending ∧ others t ∧
          (∀ h, nh = some h → (t.dev.node h).heardBp = s.dev.msync.bpi) ∧
          (fcNsym fc = 0 → ∃ f, (t.dev.dec l).ackIn = some f ∧ f.fc = fc ∧ f.nh = nh ∧ (t.dev.dec l).acq = .armed) ∧
          (fcNsym fc ≠ 0 → ∃ f, (t.dev.dec l).frame = some f ∧ f.fc = fc ∧ f.nh = nh ∧ (t.dev.dec l).acq = .window ∧
            f.rx = x.rx ∧ f.lastSym = x.rx.origin + (x.rx.fcs + bodySymbols fc) * symPeriod x.rx.gi))) ∧
    (∀ pins : List PinRuns,
      let y := d0.dec l
      let found := d0.secondRx y (d0.windows y.rxPorts (s.dev.tb.n - 8 - preambleLen) preambleLen pins)
      let looks := (y.acq.busy = true ∧ (y.acq = .timing ∨ y.cur.origin ≠ s.dev.tb.n - 8)) ∨
        (y.acq = .armed ∧ y.failAt = some s.dev.clk)
      let db := s.dev.fld (Reg.ffCtrl y.grp) 11 8
      let caught := fun (r : Rx) => y.acq.busy = true ∧ db ≠ 0 ∧ y.cur.level + 4 * (db : Int) ≤ r.level ∧ d0.windowOpen y = true
      (¬ looks → Reaches (exec (.secondSyncAccept l pins) s) s d0) ∧
      (looks → found = none → Senses (exec (.secondSyncAccept l pins) s) s d0) ∧
      (∀ r, looks → found = some r → caught r ∨ y.acq = .armed →
        ∃ t, exec (.secondSyncAccept l pins) s = .next t ∧ t.pending = s.pending ∧ onlyLane t ∧ (t.dev.dec l).acq = .fc ∧
          (t.dev.dec l).rx = r ∧ (t.dev.dec l).frame = none ∧ (caught r → t.dev.flag (Src.ff y.grp).off 2 = true)) ∧
      (∀ r, looks → found = some r → ¬ caught r → y.acq = .timing ∨ y.acq = .sync ∨ y.acq = .fc →
        Senses (exec (.secondSyncAccept l pins) s) s (d0.modDec l (fun z => { z with second := some r }))) ∧
      (∀ r, looks → found = some r → ¬ caught r → y.acq = .window ∨ y.acq = .payload →
        Senses (exec (.secondSyncAccept l pins) s) s d0)) ∧
    (∀ f, x.frame = some f → x.acq = .window → f.closeAt ≤ s.dev.tb.n → f.closeAt < f.lastSym →
      Reaches (exec (.captureWindowClose l) s) s (s.dev.modDec l (fun y => { y with acq := .payload, win := false })))

/-- 08 R197, R207-R214, 11 R282, R289-R294, 12 R311-R316: SYMBOL_DEMODULATE takes the next symbol, once it has come, of the oldest frame that
has ended on the line and is not complete, or of the frame in reception: one erased, or a training symbol, leaves no pilot error.
TRANSIENT_REPORT below either threshold, or without a blanked run, changes nothing; above both it marks a step in every frame that is received
on the port and has none. PB_DECODE_DONE takes the oldest ended frame, once it is complete, from its lane, and an ACK is owed where one is
asked for. POLL_RECEIVED with a good block in its node's window moves the next poll on by the interval, and wakes the node if it asks so;
outside the window it is not accepted. Judging an MSDU all of whose blocks are held delivers it, or discards it by its CRC, length, `SEQ`,
frame counter, or for want of protection or of a key. -/
def Obligations.Reception : Prop :=
  ∀ s : State, s.dev.dev = .run →
    (∀ (l : Fin 96) (pins : List PinRuns) (upset : Option (List Nat)),
      let d0 := s.dev.settleLane l
      let x := d0.dec l
      let others := fun (t : State) => ∀ i, i ≠ l.val → t.dev.dec i = s.dev.dec i
      (∀ f, x.ended.find? (fun f => f.pbs.isNone) = some f →
        (d0.symbolCame f.rx (some f.fc) = false → Reaches (exec (.symbolDemodulate l pins upset) s) s d0) ∧
        (d0.symbolCame f.rx (some f.fc) = true →
          ∃ t f', exec (.symbolDemodulate l pins upset) s = .next t ∧ t.pending = s.pending ∧ others t ∧
            (t.dev.dec l).acq = x.acq ∧ (t.dev.dec l).frame = x.frame ∧ f' ∈ (t.dev.dec l).ended ∧ f'.fc = f.fc ∧
            f'.rx.syms.length = f.rx.syms.length + 1 ∧
            (f'.pbs.isSome = true ↔ f.rx.symbols (some f.fc) = f.rx.syms.length + 1))) ∧
      (x.ended.find? (fun f => f.pbs.isNone) = none →
        let fc := x.frame.map (fun f => f.fc)
        let i := x.cur.syms.length
        let n0 := x.cur.origin + i * symPeriod x.cur.gi + (symPeriod x.cur.gi - 65536)
        let blanked := (d0.receiveSymbol x.cur n0 (d0.windows x.cur.ports n0 65536 pins)).1
        let erased := s.dev.fld (Reg.ccCtrl x.grp) 13 8 * profFft x.cur.prof < blanked * 64
        let due := (x.acq = .fc ∨ x.acq = .window ∨ x.acq = .payload) ∧ d0.symbolCame x.cur fc = true
        (¬ due → Reaches (exec (.symbolDemodulate l pins upset) s) s d0) ∧
        (due → ∃ t y, exec (.symbolDemodulate l pins upset) s = .next t ∧ t.pending = s.pending ∧
          Judged { s.dev with decs := t.dev.decs } t.dev ∧ others t ∧ (t.dev.dec l).acq = x.acq ∧
          (t.dev.dec l).cur.syms = y :: x.cur.syms ∧ y.blanked = blanked ∧ (y.erased = true ↔ erased) ∧
          (erased → (t.dev.dec l).cur.errs = x.cur.errs ∧ t.dev.flag (Src.cc x.grp).off 1 = true) ∧
          (∀ m, ¬ erased → placeOf x.cur.fcs fc i = .numbered m → ∃ e, (t.dev.dec l).cur.errs = (i, e) :: x.cur.errs) ∧
          ((∀ m, placeOf x.cur.fcs fc i ≠ .numbered m) → (t.dev.dec l).cur.errs = x.cur.errs)))) ∧
    (∀ (p : Fin 128) (pins : PinRuns),
      let g := portGroup p
      let n0 := s.dev.tb.n - pinLen pins
      let run := s.dev.blankedRun p n0 (pinLen pins - 8) (s.dev.convertAll p n0 (pinSpans 0 pins))
      let above := fun (r : Nat × Nat) => s.dev.fld (Reg.ccTran g) 31 16 ≤ r.1 ∧ s.dev.fld (Reg.ccTran g) 5 0 * 131071 ≤ r.2 * 64
      (bit s.dev.present (portQuad p) = false ∨ (∀ r, run = some r → ¬ above r) →
        Reaches (exec (.transientReport p pins) s) s s.dev) ∧
      (∀ r, bit s.dev.present (portQuad p) = true → run = some r → above r →
        ∃ t, exec (.transientReport p pins) s = .next t ∧ t.pending = s.pending ∧ t.dev.flag (Src.cc g).off 2 = true ∧
          ∀ (l : Nat) (x : DecLane) (f : RxFrame), (l, x) ∈ s.dev.decs → s.dev.dec l = x → s.dev.receiving x = true → x.acq ≠ .timing →
            x.rxPorts.contains p = true → x.frame = some f → f.rx.steps = [] → f.rx.origin ≤ n0 + (pinLen pins - 8) - 1 →
            ∃ f', (t.dev.dec l).frame = some f' ∧ f'.fc = f.fc ∧ f'.rx.steps =
              [(min ((n0 + (pinLen pins - 8) - 1 - f.rx.origin) / symPeriod f.rx.gi) (f.rx.symbols (some f.fc) - 1), true)])) ∧
    (∀ (l : Fin 96) (m : MemFaults) (f : RxFrame) (rest : List RxFrame),
      let d0 := s.dev.settleLane l
      let y := d0.dec l
      y.ended = f :: rest → fcFt f.fc ≠ ftPoll →
      (f.pbs = none → Reaches (exec (.pbDecodeDone l m) s) s d0) ∧
      (f.pbs.isSome = true →
        ∃ t, exec (.pbDecodeDone l m) s = .next t ∧ t.pending = s.pending ∧ (t.dev.dec l).ended = rest ∧
        (∀ i, i ≠ l.val → t.dev.dec i = s.dev.dec i) ∧
        (carriesMsdu f.fc = false → (t.dev.dec l).ack = y.ack ∧ t.dev.nodes = s.dev.nodes) ∧
        ∀ h, carriesMsdu f.fc = true → f.nh = some h → fcAckReq f.fc = true → fcDst f.fc = 0 → y.bound.isSome = true →
          y.bound = f.alloc → y.grp = f.grp →
          ∃ a, (t.dev.dec l).ack = some a ∧ a.nh = h ∧ a.aseq = fcSeq f.fc ∧ a.gi = f.rx.gi ∧ a.poll = false ∧
            a.due = f.lastSym + postfixLen (s.dev.twCode f.grp) + usSamples 64 ∧ (f.blind = true → a.bitmap = 0))) ∧
    (∀ (l : Fin 96) (h : Nat) (f : RxFrame) (rest : List RxFrame) (pb : List Byte) (pbs : List (List Byte)) (x : Dorm),
      let d0 := s.dev.settleLane l
      (d0.dec l).ended = f :: rest → fcFt f.fc = ftPoll → f.nh = some h → f.pbs = some (pb :: pbs) →
      let d1 := d0.modDec l (fun y => { y with ended := rest })
      (s.dev.node h).dorm = some x →
      (s.dev.inWindow f (s.dev.node h) x f.arrival = false → Reaches (exec (.pollReceived l) s) s d1) ∧
      (s.dev.inWindow f (s.dev.node h) x f.arrival = true → pbGood pb = true → (s.dev.takeRx f.grp).isSome = true →
        ∃ t, exec (.pollReceived l) s = .next t ∧ t.pending = s.pending ∧
          (t.dev.node h).dorm = some { x with k := 0, next := (x.next + x.p) % 2 ^ 23 } ∧
          (t.dev.node h).pollBp = some s.dev.msync.bpi ∧
          (t.dev.node h).st = (if fcWake f.fc then .active else .dormant))) ∧
    (∀ (l h : Nat) (f : RxFrame) (r : Reasm), r.faulty = none →
      let d := s.dev
      let g := f.grp
      let t := d.judge l f (some h) r { cells := [], lane := none, key := false }
      let kept := (t.group g).rxq = (d.group g).rxq
      let whole := bodyCheck r.body = true ∧ bodyPbs r.enc (bodyLen r.body) = r.last + 1
      (bodyCheck r.body = false → kept ∧ t.flag (Src.lr g).off 3 = true ∧ t.mnt.fclass = 0xD) ∧
      (bodyCheck r.body = true → bodyPbs r.enc (bodyLen r.body) ≠ r.last + 1 → kept) ∧
      (whole → (d.node h).seqNew r.seq = false → kept ∧ t.flag (Src.lr g).off 0 = true) ∧
      (∀ b, whole → (d.node h).seqNew r.seq = true → d.bySaddr g r.orig = some b → r.hop < 7 →
        (r.enc = false → d.encReq b = true → kept ∧ t.flag (Src.lr g).off 2 = true) ∧
        (r.enc = true → (d.node b).keyOf (bits (byteAt r.body 10) 0 0) = none → kept ∧ t.flag (Src.lr g).off 2 = true) ∧
        (∀ key, r.enc = true → (d.node b).keyOf (bits (byteAt r.body 10) 0 0) = some key → (d.node b).fcNew (leAt r.body 4 6) = false →
          kept ∧ t.flag (Src.lr g).off 1 = true) ∧
        (r.enc = false → d.encReq b = false → fcFt f.fc ≠ ftMgmt → byteAt r.body 2 = 0 →
          ∃ m, (t.group g).rxq = (d.group g).rxq ++ [m] ∧ m.data = bytesAt r.body 4 (bodyLen r.body) ∧ m.nh = b ∧ m.seq = r.seq)))

/-! ### Cancellers -/

/-- 04 R96-R107, 21 R478: ECH_TRAINING_START, where a cold training is due, puts the canceller in TRAINING with `HELD`; ECH_TRAINING_DONE, once
its symbols have been sent, ends it converged, or idle where it has not passed, with the driver muted, and publishes its levels. After 200 us
of quiet QUIET_INTERVAL_END publishes one pair a source and beacon period, none for an N port's own slot. ECH_WINDOW_END, after 16 us of
transmit activity, makes a canceller diverge on two windows above the threshold, a limit code or an excess of energy, and brings a diverged one
back after four good windows; ECH_DIV_LIMIT then asks for one cold training. -/
def Obligations.Cancellers : Prop :=
  ∀ (s : State) (p : Fin 128),
    let g := portGroup p
    let x := s.dev.port p
    let alone := fun (t : State) => Reports { s.dev with ports := t.dev.ports } t.dev ∧ ∀ i, i ≠ p.val → t.dev.port i = s.dev.port i
    (s.dev.trainingDue p = true →
      ∃ t, exec (.echTrainingStart p) s = .next t ∧ t.pending = s.pending ∧ alone t ∧ (t.dev.port p).ech = .training ∧
        (t.dev.port p).held = true ∧ (t.dev.port p).enabled = (s.dev.isL p && !s.dev.pwr.ovMute) ∧
        (t.dev.port p).trainAt = some s.dev.tb.n) ∧
    (s.dev.trainingDue p = false → Reaches (exec (.echTrainingStart p) s) s s.dev) ∧
    (∀ r : TrainResult, x.ech = .training → s.dev.trainingSent p = true →
      ∃ t, exec (.echTrainingDone p r) s = .next t ∧ t.pending = s.pending ∧ (t.dev.port p).enabled = false ∧
        (s.dev.trainingPasses p r = true → (t.dev.port p).ech = .converged ∨ (t.dev.group g).st = .down) ∧
        (s.dev.trainingPasses p r = false → (t.dev.port p).ech = .idle ∧ (t.dev.port p).trainOk = s.dev.flag (Reg.echCtrl g) 2) ∧
        ∀ q e u, r.lvl = [(q, e, u)] → r.others = [] → q < 4 → q ≠ p.val % 4 ∨ s.dev.isL p = true →
          (t.dev.port p).level q = some (s.dev.referred (4 * g + q) e, s.dev.referred (4 * g + q) u)) ∧
    (∀ r : TrainResult, x.ech ≠ .training ∨ s.dev.trainingSent p = false → Reaches (exec (.echTrainingDone p r) s) s s.dev) ∧
    (∀ (q : Fin 4) (e u : Int), s.dev.dev = .run →
      let done := x.lvlBp.any (fun y => decide (y.1 = q.val ∧ y.2 = s.dev.msync.bpi))
      let src := 4 * g + q.val
      let begun := fun (y : Port) => { y with quiet := SMap.put q.val (s.dev.port src).sent y.quiet }
      (s.dev.quietOver p q = false → Reaches (exec (.quietIntervalEnd p q e u) s) s s.dev) ∧
      (s.dev.quietOver p q = true → done = true → Reaches (exec (.quietIntervalEnd p q e u) s) s (s.dev.modPort p begun)) ∧
      (s.dev.quietOver p q = true → done = false →
        ∃ t, exec (.quietIntervalEnd p q e u) s = .next t ∧ t.pending = s.pending ∧ alone t ∧ (t.dev.port p).ech = x.ech ∧
          (q.val = p.val % 4 → s.dev.isL p = false → (t.dev.port p).lvl = x.lvl ∧ (t.dev.port p).supp = x.supp) ∧
          (q.val ≠ p.val % 4 ∨ s.dev.isL p = true → (t.dev.port p).level q = some (s.dev.referred src e, s.dev.referred src u) ∧
            (t.dev.port p).supp = if q.val = p.val % 4 then s.dev.referred src e - s.dev.referred src u else x.supp))) ∧
    (∀ o : WindowObs,
      let n0 := s.dev.tb.n - pinLen o.pins
      let ss := s.dev.convertAll p n0 (pinSpans 0 o.pins)
      let codes := madcCodes ss
      let td := if x.ech = .converged then x.td else s.dev.adapt p codes.length n0 codes x.td
      let limit := s.dev.clipsWhileSending p n0 ss
      let residue := s.dev.referred p (o.ests.foldl max (-2048))
      let above := match x.level (p.val % 4) with
        | some l => decide (l.2 + (4 * s.dev.fld (Reg.echThr g) 3 0 : Int) < residue)
        | none => false
      let lost := (above && x.overPrev) || limit || decide (4 * x.tdRef < energy td)
      let e := match x.level (p.val % 4) with | some l => l.1 | none => 0
      let fine := decide ((4 * s.dev.fld (Reg.echThr g) 15 8 : Int) ≤ e - residue) && !limit
      (x.ech = .idle ∨ x.ech = .training ∨ s.dev.windowDue p = false → Reaches (exec (.echWindowEnd p o) s) s s.dev) ∧
      (s.dev.windowDue p = true → x.ech = .converged ∨ x.ech = .tracking →
        ∃ t, exec (.echWindowEnd p o) s = .next t ∧ t.pending = s.pending ∧ alone t ∧ (t.dev.port p).td = td ∧
          (t.dev.port p).winAt = x.winAt + 20000 ∧
          (lost = true → (t.dev.port p).ech = .diverged ∧ (t.dev.port p).held = true ∧
            t.dev.flag (Src.ech g (p.val % 4)).off 31 = true) ∧
          (lost = false → (t.dev.port p).ech = x.ech ∧ (t.dev.port p).held = x.held ∧ (t.dev.port p).overPrev = above)) ∧
      (s.dev.windowDue p = true → x.ech = .diverged →
        ∃ t, exec (.echWindowEnd p o) s = .next t ∧ t.pending = s.pending ∧ (∀ i, i ≠ p.val → t.dev.port i = s.dev.port i) ∧
          (t.dev.port p).td = td ∧ (t.dev.port p).winAt = x.winAt + 20000 ∧
          (fine = true → 3 ≤ x.goodWins.length → (t.dev.port p).ech = .tracking ∧ (t.dev.port p).trainAsk = false) ∧
          (fine = true → x.goodWins.length < 3 →
            (t.dev.port p).ech = .diverged ∧ (t.dev.port p).goodWins = residue :: x.goodWins) ∧
          (fine = false → (t.dev.port p).ech = .diverged ∧ (t.dev.port p).goodWins = [] ∧
            (t.dev.port p).divWin = x.divWin + 1))) ∧
    (let above := x.ech = .diverged ∧ s.dev.fld (Reg.echThr g) 31 16 ≤ x.divWin ∧ x.trainAsk = false
     (above → ∃ t, exec (.echDivLimit p) s = .next t ∧ t.pending = s.pending ∧ (t.dev.port p).trainAsk = true ∧
        (t.dev.waits 2 p = true ∨ (t.dev.runOf 2 p).isSome = true) ∧ ∀ i, i ≠ p.val → t.dev.port i = s.dev.port i) ∧
     (¬ above → Reaches (exec (.echDivLimit p) s) s s.dev))

/-! ### The checks of Table CE.2 -/

/-- 16 R392-R396, Table CE.2: a command that the CMD ring yields is judged in the order of the table, and the first check that fails decides
its status: it then has no effect. A ring that yields none, or a descriptor that holds another listed command, is not this row's. The
completion is written to host memory at CMDC's device index, with its phase. -/
def Obligations.CommandChecks : Prop :=
  ∀ (s : State) (c : CmdDesc) (readFail : Option Nat) (io : BootIo),
    let rows : List (Instr × CmdSpec) :=
      [(.devStart c, CmdSpec.plain 0x01), (.devStop c, CmdSpec.plain 0x02),
       (.devReset c io, { CmdSpec.plain 0x03 with m2 := 0xFFFF }), (.fnReset c, { CmdSpec.plain 0x04 with m2 := 0xFFFF }),
       (.grpStop c, { CmdSpec.plain 0x12 with m2 := 0xFFFF, lim2 := 32 }),
       (.admitMode c, { CmdSpec.plain 0x21 with m1 := 3, m2 := 0xFFFF, lim2 := 32 }),
       (.admitDecide c, { CmdSpec.plain 0x22 with m0 := 2 ^ 64 - 1, m1 := 1, m2 := 0xFFFF, lim2 := 32 }),
       (.nodeEvict c, nodeSpec 0x23 0), (.nodeRead c, { nodeSpec 0x24 0 with needR := true }), (.nodeRoute c, nodeSpec 0x25 0x3FF),
       (.nodeDormant c, nodeSpec 0x26 0x1FFFFFF), (.sound c, nodeSpec 0x27 0x3FFFF), (.keyInval c, nodeSpec 0x32 1),
       (.measStop c, { CmdSpec.plain 0x42 with m1 := 7 }), (.swoCancel c, { CmdSpec.plain 0x49 with m2 := 0xFFFF }),
       (.audit c, { CmdSpec.plain 0x50 with needR := true, m2 := 0xFFFF }), (.cntSnap c, { CmdSpec.plain 0x52 with needR := true }),
       (.fwStage c readFail, { CmdSpec.plain 0x60 with
          len := fun _ n => decide (1 ≤ n ∧ n ≤ 65536), m1 := 2 ^ 32 - 1, m2 := 3, lim2 := 4 }),
       (.attest c, { CmdSpec.plain 0x61 with needR := true, len := fun _ n => decide (n = 32) })]
    ∀ x ∈ rows,
      let i := x.1
      let sp := x.2
      (s.dev.cmdReady = false ∨ (c.dt = 4 ∧ (cmdStates c.opc.toNat).isSome = true ∧ c.opc.toNat ≠ sp.opc) →
        ∃ t, exec i s = .next t ∧ t.dev = s.dev.fresh ∧ t.hostMem = s.hostMem ∧ t.pending = s.pending) ∧
      (s.dev.cmdReady = true →
        (c.dt ≠ 4 → Serves (exec i s) s s.dev stDesc []) ∧
        (c.dt = 4 → cmdStates c.opc.toNat = none → Serves (exec i s) s s.dev stUnsupported []) ∧
        (c.dt = 4 → c.opc.toNat = sp.opc → s.dev.accepts sp.opc = false → Serves (exec i s) s s.dev stBadState []) ∧
        (c.dt = 4 → c.opc.toNat = sp.opc → s.dev.accepts sp.opc = true →
          (raddrOk sp.needR c && blockOk (sp.len c) c && argsOk sp c) = false → Serves (exec i s) s s.dev stInvalid []) ∧
        (c.dt ≠ 4 → s.dev.cmds = [] → (s.dev.ring 1).st = .enabled → (s.dev.ring 1).owed = [] → (s.dev.fn 0).bme = true →
          ∃ t, exec i s = .next t ∧ t.hostMem = Memory.commit s.hostMem
            [(((s.dev.ring 1).base.toNat + (s.dev.ring 1).devIdx.toNat % (s.dev.ring 1).size * 16) % 2 ^ 64,
              fit 16 (withPhase (s.dev.ring 1) (completionBytes c.cookie.toNat (s.dev.ring 0).devIdx.toNat stDesc 3 [])))]))
end

