-- ==== Sys2Proof/Laws/Sparse.lean ====
section
/-! SUPPORT. Laws of sparse maps and of host memory: a read after a write, and that every operation keeps the canonical
form. -/

namespace Sys2Proof.Machine

section Maps
variable {β : Type} (dflt : Nat → β)

@[simp] theorem SMap.get_nil (k : Nat) : SMap.get dflt k [] = dflt k := rfl

theorem SMap.get_put_same (k : Nat) (v : β) (m : List (Nat × β)) : SMap.get dflt k (SMap.put k v m) = v := by
  induction m with
  | nil => simp [SMap.put, SMap.get]
  | cons e m ih =>
    obtain ⟨a, w⟩ := e
    unfold SMap.put
    split
    · simp [SMap.get]
    · split
      · simp [SMap.get]
      · next h1 h2 => simp [SMap.get, Ne.symm h2, ih]

theorem SMap.get_put_ne {k j : Nat} (h : j ≠ k) (v : β) (m : List (Nat × β)) :
    SMap.get dflt j (SMap.put k v m) = SMap.get dflt j m := by
  induction m with
  | nil => simp [SMap.put, SMap.get, Ne.symm h]
  | cons e m ih =>
    obtain ⟨a, w⟩ := e
    unfold SMap.put
    split
    · simp [SMap.get, Ne.symm h]
    · split
      · next h2 => subst h2; simp [SMap.get, Ne.symm h]
      · simp only [SMap.get]; split
        · rfl
        · exact ih

theorem SMap.get_del_same (k : Nat) (m : List (Nat × β)) : SMap.get dflt k (SMap.del k m) = dflt k := by
  induction m with
  | nil => rfl
  | cons e m ih =>
    obtain ⟨a, w⟩ := e
    unfold SMap.del
    split
    · exact ih
    · next h => simp [SMap.get, Ne.symm h, ih]

theorem SMap.get_del_ne {k j : Nat} (h : j ≠ k) (m : List (Nat × β)) :
    SMap.get dflt j (SMap.del k m) = SMap.get dflt j m := by
  induction m with
  | nil => rfl
  | cons e m ih =>
    obtain ⟨a, w⟩ := e
    unfold SMap.del
    split
    · next h2 => subst h2; simp [SMap.get, Ne.symm h, ih]
    · simp only [SMap.get]; split
      · rfl
      · exact ih

variable [DecidableEq β]

/-- A read after a write of the same key gives what was written. -/
@[simp] theorem SMap.get_set_same (k : Nat) (v : β) (m : List (Nat × β)) : SMap.get dflt k (SMap.set dflt k v m) = v := by
  unfold SMap.set
  split
  · next h => rw [SMap.get_del_same, h]
  · exact SMap.get_put_same dflt k v m

/-- A write leaves every other key alone. -/
theorem SMap.get_set_ne {k j : Nat} (h : j ≠ k) (v : β) (m : List (Nat × β)) :
    SMap.get dflt j (SMap.set dflt k v m) = SMap.get dflt j m := by
  unfold SMap.set
  split
  · exact SMap.get_del_ne dflt h m
  · exact SMap.get_put_ne dflt h v m

end Maps

section Rising
variable {β : Type}

theorem SMap.risingFrom_mono {lo lo' : Nat} (h : lo' ≤ lo) (m : List (Nat × β)) (hm : SMap.risingFrom lo m = true) :
    SMap.risingFrom lo' m = true := by
  cases m with
  | nil => rfl
  | cons e m =>
    obtain ⟨a, w⟩ := e
    simp only [SMap.risingFrom, Bool.and_eq_true, decide_eq_true_eq] at hm ⊢
    exact ⟨Nat.le_trans h hm.1, hm.2⟩

theorem SMap.risingFrom_put (k : Nat) (v : β) (m : List (Nat × β)) :
    ∀ lo, lo ≤ k → SMap.risingFrom lo m = true → SMap.risingFrom lo (SMap.put k v m) = true := by
  induction m with
  | nil => intro lo hk _; simp [SMap.put, SMap.risingFrom, hk]
  | cons e m ih =>
    obtain ⟨a, w⟩ := e
    intro lo hk hm
    simp only [SMap.risingFrom, Bool.and_eq_true, decide_eq_true_eq] at hm
    unfold SMap.put
    split
    · next h => simp only [SMap.risingFrom, Bool.and_eq_true, decide_eq_true_eq]; exact ⟨hk, h, hm.2⟩
    · split
      · next h => subst h; simp only [SMap.risingFrom, Bool.and_eq_true, decide_eq_true_eq]; exact ⟨hk, hm.2⟩
      · simp only [SMap.risingFrom, Bool.and_eq_true, decide_eq_true_eq]
        exact ⟨hm.1, ih (a + 1) (by omega) hm.2⟩

theorem SMap.risingFrom_del (k : Nat) (m : List (Nat × β)) :
    ∀ lo, SMap.risingFrom lo m = true → SMap.risingFrom lo (SMap.del k m) = true := by
  induction m with
  | nil => intro lo h; exact h
  | cons e m ih =>
    obtain ⟨a, w⟩ := e
    intro lo hm
    simp only [SMap.risingFrom, Bool.and_eq_true, decide_eq_true_eq] at hm
    unfold SMap.del
    split
    · exact ih lo (SMap.risingFrom_mono (by omega) m hm.2)
    · simp only [SMap.risingFrom, Bool.and_eq_true, decide_eq_true_eq]; exact ⟨hm.1, ih _ hm.2⟩

end Rising

section Canonical
variable {β : Type}

theorem SMap.all_put (p : Nat × β → Bool) (k : Nat) (v : β) (hv : p (k, v) = true) (m : List (Nat × β))
    (hm : m.all p = true) : (SMap.put k v m).all p = true := by
  induction m with
  | nil => simp [SMap.put, hv]
  | cons e m ih =>
    obtain ⟨a, w⟩ := e
    simp only [List.all_cons, Bool.and_eq_true] at hm
    unfold SMap.put
    split
    · simp only [List.all_cons, Bool.and_eq_true]; exact ⟨hv, hm.1, hm.2⟩
    · split
      · simp only [List.all_cons, Bool.and_eq_true]; exact ⟨hv, hm.2⟩
      · simp only [List.all_cons, Bool.and_eq_true]; exact ⟨hm.1, ih hm.2⟩

theorem SMap.all_del (p : Nat × β → Bool) (k : Nat) (m : List (Nat × β)) (hm : m.all p = true) :
    (SMap.del k m).all p = true := by
  induction m with
  | nil => exact hm
  | cons e m ih =>
    obtain ⟨a, w⟩ := e
    simp only [List.all_cons, Bool.and_eq_true] at hm
    unfold SMap.del
    split
    · exact ih hm.2
    · simp only [List.all_cons, Bool.and_eq_true]; exact ⟨hm.1, ih hm.2⟩

variable [DecidableEq β] (dflt : Nat → β)

/-- A write keeps the canonical form. -/
theorem SMap.wf_set (k : Nat) (v : β) (m : List (Nat × β)) (hm : SMap.wf dflt m = true) :
    SMap.wf dflt (SMap.set dflt k v m) = true := by
  simp only [SMap.wf, Bool.and_eq_true] at hm ⊢
  unfold SMap.set
  split
  · exact ⟨SMap.risingFrom_del k m 0 hm.1, SMap.all_del _ k m hm.2⟩
  · next h => exact ⟨SMap.risingFrom_put k v m 0 (by omega) hm.1, SMap.all_put _ k v (by simpa using h) m hm.2⟩

end Canonical

/-! ### Host memory -/

theorem Memory.read_put_same (a : Nat) (v : Byte) (m : List Host.Cell) : Memory.read (SMap.put a v m) a = some v := by
  induction m with
  | nil => simp [SMap.put, Memory.read]
  | cons e m ih =>
    obtain ⟨b, w⟩ := e
    unfold SMap.put
    split
    · simp [Memory.read]
    · split
      · simp [Memory.read]
      · next h => simp [Memory.read, Ne.symm h, ih]

theorem Memory.read_put_ne {a b : Nat} (h : b ≠ a) (v : Byte) (m : List Host.Cell) :
    Memory.read (SMap.put a v m) b = Memory.read m b := by
  induction m with
  | nil => simp [SMap.put, Memory.read, Ne.symm h]
  | cons e m ih =>
    obtain ⟨c, w⟩ := e
    unfold SMap.put
    split
    · simp [Memory.read, Ne.symm h]
    · split
      · next h2 => subst h2; simp [Memory.read, Ne.symm h]
      · simp only [Memory.read]; split
        · rfl
        · exact ih

/-- A write of consecutive bytes keeps the canonical form. -/
theorem Memory.wf_write (bs : List Byte) : ∀ (m : List Host.Cell) (a : Nat), Memory.wf m = true →
    Memory.wf (Memory.write m a bs) = true := by
  induction bs with
  | nil => intro m a h; exact h
  | cons v vs ih => intro m a h; exact ih _ _ (SMap.risingFrom_put a v m 0 (by omega) h)

/-- Committing posted writes keeps the canonical form. -/
theorem Memory.wf_commit (ws : List (Nat × List Byte)) : ∀ m : List Host.Cell, Memory.wf m = true →
    Memory.wf (Memory.commit m ws) = true := by
  induction ws with
  | nil => intro m h; exact h
  | cons w ws ih => intro m h; exact ih _ (Memory.wf_write w.2 m w.1 h)

/-- A write of consecutive bytes leaves every other byte alone. -/
theorem Memory.read_write_ne (bs : List Byte) : ∀ (m : List Host.Cell) (a b : Nat), b < a ∨ a + bs.length ≤ b →
    Memory.read (Memory.write m a bs) b = Memory.read m b := by
  induction bs with
  | nil => intro m a b _; rfl
  | cons v vs ih =>
    intro m a b h
    simp only [List.length_cons] at h
    rw [Memory.write, ih _ _ _ (by omega), Memory.read_put_ne (by omega)]

/-- A byte of a write reads as written. -/
theorem Memory.read_write_same (bs : List Byte) : ∀ (m : List Host.Cell) (a i : Nat) (h : i < bs.length),
    Memory.read (Memory.write m a bs) (a + i) = some bs[i] := by
  induction bs with
  | nil => intro m a i h; simp at h
  | cons v vs ih =>
    intro m a i h
    rw [Memory.write]
    cases i with
    | zero => rw [Memory.read_write_ne _ _ _ _ (by omega)]; simpa using Memory.read_put_same a v m
    | succ i =>
      simp only [List.length_cons] at h
      have := ih (SMap.put a v m) (a + 1) i (by omega)
      simpa [Nat.add_assoc, Nat.add_comm 1 i] using this

end Sys2Proof.Machine
end

