-- ==== Sys2Proof/Laws/Bits.lean ====
section
/-! SUPPORT. Laws of bit fields: what a field reads after it, or another one, has been replaced, and the same of registers. -/

namespace Sys2Proof.Machine

/-- The value of `setBits` by its three parts: above, the field, below. -/
theorem setBits_parts {hi lo : Nat} (h : lo ≤ hi) (v x : Nat) :
    setBits v hi lo x = 2 ^ (hi + 1) * (v / 2 ^ (hi + 1)) + (2 ^ lo * (x % 2 ^ (hi + 1 - lo)) + v % 2 ^ lo) := by
  have hw : 2 ^ (hi + 1) = 2 ^ lo * 2 ^ (hi + 1 - lo) := by rw [← Nat.pow_add]; congr 1; omega
  unfold setBits
  simp only
  rw [hw, ← Nat.div_div_eq_div_mul]
  have h1 := Nat.div_add_mod v (2 ^ lo)
  have h2 := Nat.div_add_mod (v / 2 ^ lo) (2 ^ (hi + 1 - lo))
  generalize 2 ^ lo = p at *
  generalize 2 ^ (hi + 1 - lo) = w at *
  generalize v / p / w = a at *
  generalize v / p % w = b at *
  generalize v % p = c at *
  rw [← h2] at h1
  have e : v = p * w * a + b * p + c := by rw [← h1, Nat.mul_add, Nat.mul_assoc, Nat.mul_comm b p]
  have e2 : p * (x % w) = x % w * p := Nat.mul_comm _ _
  omega

theorem low_part_lt {hi lo : Nat} (h : lo ≤ hi) (v x : Nat) :
    2 ^ lo * (x % 2 ^ (hi + 1 - lo)) + v % 2 ^ lo < 2 ^ (hi + 1) := by
  have hw : 2 ^ (hi + 1) = 2 ^ lo * 2 ^ (hi + 1 - lo) := by rw [← Nat.pow_add]; congr 1; omega
  have h1 : x % 2 ^ (hi + 1 - lo) + 1 ≤ 2 ^ (hi + 1 - lo) := Nat.mod_lt _ (Nat.pow_pos (by decide))
  have h2 : v % 2 ^ lo < 2 ^ lo := Nat.mod_lt _ (Nat.pow_pos (by decide))
  have h3 := Nat.mul_le_mul_left (2 ^ lo) h1
  rw [Nat.mul_add, Nat.mul_one] at h3
  omega

/-- A replaced field reads what was put there. -/
theorem bits_setBits_same {hi lo : Nat} (h : lo ≤ hi) (v x : Nat) :
    bits (setBits v hi lo x) hi lo = x % 2 ^ (hi + 1 - lo) := by
  have hw : 2 ^ (hi + 1) = 2 ^ lo * 2 ^ (hi + 1 - lo) := by rw [← Nat.pow_add]; congr 1; omega
  rw [setBits_parts h]
  unfold bits
  have hp : 0 < 2 ^ lo := Nat.pow_pos (by decide)
  have hz : v % 2 ^ lo / 2 ^ lo = 0 := Nat.div_eq_of_lt (Nat.mod_lt _ hp)
  rw [hw, Nat.mul_assoc, ← Nat.add_assoc, ← Nat.mul_add, Nat.mul_add_div hp, hz, Nat.add_zero, Nat.mul_add_mod, Nat.mod_mod]

/-- A field that lies apart from a replaced one reads as before. -/
theorem bits_setBits_apart {hi lo hi' lo' : Nat} (h : lo ≤ hi) (h' : lo' ≤ hi') (ha : hi' < lo ∨ hi < lo') (v x : Nat) :
    bits (setBits v hi lo x) hi' lo' = bits v hi' lo' := by
  rcases ha with ha | ha
  · have e : ∀ y, bits y hi' lo' = bits (y % 2 ^ lo) hi' lo' := by
      intro y
      unfold bits
      have d : 2 ^ lo = 2 ^ lo' * 2 ^ (lo - lo') := by rw [← Nat.pow_add]; congr 1; omega
      rw [d, Nat.mod_mul_right_div_self, Nat.mod_mod_of_dvd]
      exact Nat.pow_dvd_pow 2 (by omega)
    have m : setBits v hi lo x % 2 ^ lo = v % 2 ^ lo := by
      have hw : 2 ^ (hi + 1) = 2 ^ lo * 2 ^ (hi + 1 - lo) := by rw [← Nat.pow_add]; congr 1; omega
      rw [setBits_parts h, hw, Nat.mul_assoc, ← Nat.add_assoc, ← Nat.mul_add, Nat.mul_add_mod, Nat.mod_mod]
    rw [e, m, ← e]
  · have e : ∀ y, bits y hi' lo' = y / 2 ^ (hi + 1) / 2 ^ (lo' - (hi + 1)) % 2 ^ (hi' + 1 - lo') := by
      intro y
      unfold bits
      rw [Nat.div_div_eq_div_mul, ← Nat.pow_add]
      congr 3; omega
    have m : setBits v hi lo x / 2 ^ (hi + 1) = v / 2 ^ (hi + 1) := by
      rw [setBits_parts h, Nat.mul_add_div (Nat.pow_pos (by decide)), Nat.div_eq_of_lt (low_part_lt h v x), Nat.add_zero]
    rw [e, m, ← e]

/-- Replacing a field of a 32-bit word gives a 32-bit word. -/
theorem setBits_lt {hi lo v : Nat} (h : lo ≤ hi) (hh : hi < 32) (hv : v < 2 ^ 32) (x : Nat) : setBits v hi lo x < 2 ^ 32 := by
  rw [setBits_parts h]
  have hw : 2 ^ 32 = 2 ^ (hi + 1) * 2 ^ (31 - hi) := by rw [← Nat.pow_add]; congr 1; omega
  have h1 : v / 2 ^ (hi + 1) + 1 ≤ 2 ^ (31 - hi) := by
    have : v / 2 ^ (hi + 1) < 2 ^ (31 - hi) := by rw [Nat.div_lt_iff_lt_mul (Nat.pow_pos (by decide)), Nat.mul_comm, ← hw]; exact hv
    omega
  have h2 := Nat.mul_le_mul_left (2 ^ (hi + 1)) h1
  have h3 := low_part_lt h v x
  rw [Nat.mul_add, Nat.mul_one] at h2
  omega

/-! ### Registers -/

theorem reg_lt (d : Dev) (off : Nat) : d.reg off < 2 ^ 32 := (SMap.get resetWord off d.regs).isLt

/-- A write to one register leaves every other register alone. -/
theorem reg_setReg_ne {off off' : Nat} (h : off' ≠ off) (d : Dev) (v : Nat) : (d.setReg off v).reg off' = d.reg off' := by
  simp [Dev.reg, Dev.setReg, SMap.get_set_ne _ h]

/-- A register reads back what was written to it, as 32 bits. -/
@[simp] theorem reg_setReg_same (d : Dev) (off v : Nat) : (d.setReg off v).reg off = v % 2 ^ 32 := by
  simp [Dev.reg, Dev.setReg]

/-- A field reads back what was written to it. -/
theorem fld_setFld_same {hi lo : Nat} (h : lo ≤ hi) (hh : hi < 32) (d : Dev) (off v : Nat) :
    (d.setFld off hi lo v).fld off hi lo = v % 2 ^ (hi + 1 - lo) := by
  unfold Dev.fld Dev.setFld
  rw [reg_setReg_same, Nat.mod_eq_of_lt (setBits_lt h hh (reg_lt d off) v), bits_setBits_same h]

/-- A field apart from the one written reads as before. -/
theorem fld_setFld_apart {hi lo hi' lo' : Nat} (h : lo ≤ hi) (hh : hi < 32) (h' : lo' ≤ hi') (ha : hi' < lo ∨ hi < lo')
    (d : Dev) (off v : Nat) : (d.setFld off hi lo v).fld off hi' lo' = d.fld off hi' lo' := by
  unfold Dev.fld Dev.setFld
  rw [reg_setReg_same, Nat.mod_eq_of_lt (setBits_lt h hh (reg_lt d off) v), bits_setBits_apart h h' ha]

theorem fld_setFld_other {off off' : Nat} (h : off' ≠ off) (d : Dev) (hi lo v hi' lo' : Nat) :
    (d.setFld off hi lo v).fld off' hi' lo' = d.fld off' hi' lo' := by
  unfold Dev.fld Dev.setFld
  rw [reg_setReg_ne h]

/-- A flag is its one-bit field. -/
theorem bit_eq_bits (v i : Nat) : bit v i = decide (bits v i i = 1) := by
  simp [bit, bits]

/-- A bit that has been set reads 1. -/
theorem flag_setFld_same {i : Nat} (h : i < 32) (d : Dev) (off : Nat) : (d.setFld off i i 1).flag off i = true := by
  unfold Dev.flag
  rw [bit_eq_bits]
  have := fld_setFld_same (Nat.le_refl i) h d off 1
  unfold Dev.fld at this
  rw [this]
  simp

theorem flag_setFld_other {off off' : Nat} (h : off' ≠ off) (d : Dev) (hi lo v i : Nat) :
    (d.setFld off hi lo v).flag off' i = d.flag off' i := by
  unfold Dev.flag Dev.setFld
  rw [reg_setReg_ne h]

/-- A bit outside a replaced field reads as before. -/
theorem flag_setFld_apart {hi lo i : Nat} (h : lo ≤ hi) (hh : hi < 32) (ha : i < lo ∨ hi < i) (d : Dev) (off v : Nat) :
    (d.setFld off hi lo v).flag off i = d.flag off i := by
  unfold Dev.flag
  rw [bit_eq_bits, bit_eq_bits]
  have := fld_setFld_apart h hh (Nat.le_refl i) ha d off v
  unfold Dev.fld at this
  rw [this]

end Sys2Proof.Machine
end

