-- ==== Sys2Proof/Laws/Reports.lean ====
section
/-! SUPPORT. What reporting leaves alone: each operation that reports a happening changes nothing of `Dev.core` and no
configuration register. -/

namespace Sys2Proof.Machine

/-! ### Status registers -/

theorem statusOff_group {g o : Nat} (hg : g < 32) (ho : o < 0x10000) :
    statusOff (0x100000 + o + g * 0x10000) = [0x108, 0x148, 0x188, 0x1C8, 0x240, 0x280, 0x2C0, 0x300, 0x480, 0x490, 0x4A0,
      0x4B0, 0x1008, 0x110C, 0x1208, 0x1314].contains o := by
  have h1 : ¬ 0x100000 + o + g * 0x10000 < 0x100000 := by omega
  have h2 : 0x100000 + o + g * 0x10000 < 0x300000 := by omega
  have h3 : (0x100000 + o + g * 0x10000) % 0x10000 = o := by omega
  unfold statusOff
  rw [if_neg h1, if_pos h2, h3]

theorem lt_four_cases {s : Nat} (h : s < 4) : s = 0 ∨ s = 1 ∨ s = 2 ∨ s = 3 := by omega

theorem statusOff_port {g s : Nat} (hg : g < 32) (hs : s < 4) : statusOff (Reg.portStat g s) = true := by
  have e : Reg.portStat g s = 0x100000 + (0x108 + s * 0x40) + g * 0x10000 := by unfold Reg.portStat; omega
  rw [e, statusOff_group hg (by omega)]
  rcases lt_four_cases hs with rfl | rfl | rfl | rfl <;> rfl

theorem statusOff_ech {g s : Nat} (hg : g < 32) (hs : s < 4) : statusOff (Reg.echStat g s) = true := by
  have e : Reg.echStat g s = 0x100000 + (0x240 + s * 0x40) + g * 0x10000 := by unfold Reg.echStat; omega
  rw [e, statusOff_group hg (by omega)]
  rcases lt_four_cases hs with rfl | rfl | rfl | rfl <;> rfl

theorem statusOff_wf {g s : Nat} (hg : g < 32) (hs : s < 4) : statusOff (Reg.wfStat g s) = true := by
  have e : Reg.wfStat g s = 0x100000 + (0x480 + s * 0x10) + g * 0x10000 := by unfold Reg.wfStat; omega
  rw [e, statusOff_group hg (by omega)]
  rcases lt_four_cases hs with rfl | rfl | rfl | rfl <;> rfl

theorem statusOff_ff {g : Nat} (hg : g < 32) : statusOff (Reg.ffStat g) = true := statusOff_group (o := 0x1008) hg (by omega)
theorem statusOff_cc {g : Nat} (hg : g < 32) : statusOff (Reg.ccStat g) = true := statusOff_group (o := 0x110C) hg (by omega)
theorem statusOff_lr {g : Nat} (hg : g < 32) : statusOff (Reg.lrStat g) = true := statusOff_group (o := 0x1208) hg (by omega)
theorem statusOff_dn {g : Nat} (hg : g < 32) : statusOff (Reg.dnStat g) = true := statusOff_group (o := 0x1314) hg (by omega)

theorem mod32_lt (g : Nat) : g % 32 < 32 := Nat.mod_lt _ (by omega)
theorem mod4_lt (s : Nat) : s % 4 < 4 := Nat.mod_lt _ (by omega)

theorem statusOff_src (r : Src) : statusOff r.off = true := by
  cases r with
  | port g s => exact statusOff_port (mod32_lt g) (mod4_lt s)
  | ech g s => exact statusOff_ech (mod32_lt g) (mod4_lt s)
  | wf g s => exact statusOff_wf (mod32_lt g) (mod4_lt s)
  | ff g => exact statusOff_ff (mod32_lt g)
  | cc g => exact statusOff_cc (mod32_lt g)
  | lr g => exact statusOff_lr (mod32_lt g)
  | dn g => exact statusOff_dn (mod32_lt g)
  | mpt | msync | car | mar | gong | meas | swo | hif | que | sec | dbg | mnt | mntF => rfl

theorem statusOff_wm (q : Nat) : statusOff (Reg.queWmStat (q % 128)) = true := by
  have h : q % 128 < 128 := Nat.mod_lt _ (by omega)
  have h1 : Reg.queWmStat (q % 128) < 0x100000 := by unfold Reg.queWmStat; omega
  have h2 : 0xA1004 ≤ Reg.queWmStat (q % 128) ∧ Reg.queWmStat (q % 128) < 0xA1804 ∧ Reg.queWmStat (q % 128) % 16 = 4 := by
    unfold Reg.queWmStat; omega
  unfold statusOff
  rw [if_pos h1, decide_eq_true h2]
  simp

theorem statusOff_cnt : statusOff Reg.cntStat = true := by decide

@[simp] theorem core_setReg (d : Dev) (off v : Nat) : (d.setReg off v).core = d.core := rfl
@[simp] theorem core_setFld (d : Dev) (off hi lo v : Nat) : (d.setFld off hi lo v).core = d.core := rfl

/-- A change of a status register changes no configuration register. -/
theorem reg_setFld_status {off : Nat} (hs : statusOff off = true) {o : Nat} (h : statusOff o = false) (d : Dev)
    (hi lo v : Nat) : (d.setFld off hi lo v).reg o = d.reg o :=
  reg_setReg_ne (fun e => by rw [e, hs] at h; cases h) _ _

theorem src_ne_cnt (r : Src) : r.off ≠ Reg.cntStat := by
  cases r <;> simp [Src.off, Reg.cntStat, Reg.portStat, Reg.echStat, Reg.wfStat, Reg.ffStat, Reg.ccStat, Reg.lrStat, Reg.dnStat,
    Reg.mptStatus, Reg.msyncStatus, Reg.carStat, Reg.marStat, Reg.gongStat, Reg.measStat, Reg.swoStat, Reg.hifStat,
    Reg.queStat, Reg.secStat, Reg.secDbg, Reg.mntStat, Reg.mntFstat] <;> omega

/-- Counting changes no register but `CNT_STAT`. -/
theorem reg_count {off : Nat} (h : off ≠ Reg.cntStat) (d : Dev) (bank src b : Nat) (slot : Option Nat) (n : Nat) :
    (d.count bank src b slot n).reg off = d.reg off := by
  unfold Dev.count
  simp only
  split
  · exact reg_setReg_ne h _ _
  · rfl

/-- A happening sets its status bit (20 R461). -/
theorem flag_raise {b : Nat} (h : b < 32) (d : Dev) (r : Src) : (d.raise r b).flag r.off b = true := by
  unfold Dev.raise Dev.flag
  rw [reg_count (src_ne_cnt r)]
  exact flag_setFld_same h d r.off

/-! ### Reports is an equivalence -/

theorem Reports.refl (a : Dev) : Reports a a := ⟨rfl, fun _ _ => rfl⟩
theorem Reports.symm {a b : Dev} (h : Reports a b) : Reports b a := ⟨h.1.symm, fun o ho => (h.2 o ho).symm⟩
theorem Reports.trans {a b c : Dev} (h : Reports a b) (k : Reports b c) : Reports a c :=
  ⟨k.1.trans h.1, fun o ho => (k.2 o ho).trans (h.2 o ho)⟩

/-- A report that neither fetches nor ends a command. -/
def Quiet (a b : Dev) : Prop := Reports a b ∧ b.cmds = a.cmds ∧ b.nextId = a.nextId

theorem Quiet.refl (a : Dev) : Quiet a a := ⟨Reports.refl a, rfl, rfl⟩
theorem Quiet.trans {a b c : Dev} (h : Quiet a b) (k : Quiet b c) : Quiet a c :=
  ⟨h.1.trans k.1, k.2.1.trans h.2.1, k.2.2.trans h.2.2⟩

/-! ### Counters and status bits -/

theorem count_quiet (d : Dev) (bank src b : Nat) (slot : Option Nat) (n : Nat) :
    Quiet d (d.count bank src b slot n) := by
  unfold Dev.count
  simp only
  split
  · exact ⟨⟨rfl, fun o ho => reg_setFld_status statusOff_cnt ho _ _ _ _⟩, rfl, rfl⟩
  · exact ⟨⟨rfl, fun _ _ => rfl⟩, rfl, rfl⟩

theorem setReg_quiet {off : Nat} (hs : statusOff off = true) (d : Dev) (v : Nat) : Quiet d (d.setReg off v) :=
  ⟨⟨rfl, fun _ ho => reg_setReg_ne (fun e => by rw [e, hs] at ho; cases ho) _ _⟩, rfl, rfl⟩

theorem setFld_quiet {off : Nat} (hs : statusOff off = true) (d : Dev) (hi lo v : Nat) :
    Quiet d (d.setFld off hi lo v) := ⟨⟨rfl, fun _ ho => reg_setFld_status hs ho _ _ _ _⟩, rfl, rfl⟩

theorem raise_quiet (d : Dev) (r : Src) (b : Nat) : Quiet d (d.raise r b) :=
  (setFld_quiet (statusOff_src r) d b b 1).trans (count_quiet _ _ _ _ _ _)

/-! ### Rings, functions, LOSSY queues and watermarks -/

theorem modRing_quiet (d : Dev) (k : Nat) (f : Ring → Ring) : Quiet d (d.modRing k f) := ⟨⟨rfl, fun _ _ => rfl⟩, rfl, rfl⟩
theorem modFn_quiet (d : Dev) (k : Nat) (f : Fn → Fn) : Quiet d (d.modFn k f) := ⟨⟨rfl, fun _ _ => rfl⟩, rfl, rfl⟩
theorem modLossy_quiet (d : Dev) (k : Nat) (f : LossyQ → LossyQ) : Quiet d (d.modLossy k f) := ⟨⟨rfl, fun _ _ => rfl⟩, rfl, rfl⟩
theorem modAcct_quiet (d : Dev) (k : Nat) (f : QAcct → QAcct) : Quiet d (d.modAcct k f) := ⟨⟨rfl, fun _ _ => rfl⟩, rfl, rfl⟩
theorem modWm_quiet (d : Dev) (k : Nat) (f : Wm → Wm) : Quiet d (d.modWm k f) := ⟨⟨rfl, fun _ _ => rfl⟩, rfl, rfl⟩
theorem post_quiet (d : Dev) (a : Nat) (bs : List Byte) : Quiet d (d.post a bs) := ⟨⟨rfl, fun _ _ => rfl⟩, rfl, rfl⟩
theorem free_quiet (d : Dev) : Quiet d d.free.2 := ⟨⟨rfl, fun _ _ => rfl⟩, rfl, rfl⟩

theorem ite_quiet {d a b : Dev} {p : Prop} [Decidable p] (ha : Quiet d a) (hb : Quiet d b) :
    Quiet d (if p then a else b) := by split <;> assumption

theorem divFree_quiet (d : Dev) (num : Int) (den : Nat) : Quiet d (d.divFree num den).2 := by
  unfold Dev.divFree
  split
  · exact Quiet.refl d
  · exact free_quiet d

theorem hostWrite_quiet (d : Dev) (f a : Nat) (bs : List Byte) : Quiet d (d.hostWrite f a bs) := by
  unfold Dev.hostWrite
  exact ite_quiet (post_quiet d _ _) (modFn_quiet d _ _)

theorem pushRaw_quiet (d : Dev) (q : Nat) (item : List Byte) : Quiet d (d.pushRaw q item) := by
  unfold Dev.pushRaw
  simp only
  refine ite_quiet (ite_quiet (Quiet.trans ?_ (raise_quiet _ _ _)) ?_) (modLossy_quiet d _ _) <;>
    exact ((modLossy_quiet d q _).trans (modRing_quiet _ _ _)).trans (count_quiet _ _ _ _ _ _)

theorem eventRaw_quiet (d : Dev) (mpt code st obj : Nat) (detail : List Byte) :
    Quiet d (d.eventRaw mpt code st obj detail) := by
  unfold Dev.eventRaw
  refine ite_quiet ?_ (Quiet.refl d)
  have h := pushRaw_quiet d 0 (eventBytes mpt code st obj d.eseq.toNat detail)
  exact ⟨⟨h.1.1, h.1.2⟩, h.2⟩

theorem sticky_quiet (d : Dev) (q : Nat) : Quiet d (d.sticky q) := by
  unfold Dev.sticky
  exact (setReg_quiet (statusOff_wm q) d _).trans (modWm_quiet _ _ _)

theorem markWith_quiet (post : Dev → Nat → List Byte → Dev) (hp : ∀ d q b, Quiet d (post d q b)) (d : Dev) (q : Nat) :
    Quiet d (Dev.markWith post d q) := by
  unfold Dev.markWith
  simp only
  have h := sticky_quiet d q
  have m := h.trans (modWm_quiet (d.sticky q) q (fun w => { w with armed := false }))
  exact ite_quiet h (ite_quiet m (ite_quiet (m.trans (hp _ _ _)) h))

theorem notice_quiet (d : Dev) (q : Nat) (detail : List Byte) : Quiet d (d.notice q detail) :=
  (eventRaw_quiet d _ _ _ _ _).trans (markWith_quiet _ (fun _ _ _ => eventRaw_quiet _ _ _ _ _ _) _ _)

theorem mark_quiet (d : Dev) (q : Nat) : Quiet d (d.mark q) := markWith_quiet _ notice_quiet d q

theorem markGroup_quiet (d : Dev) (g : Nat) : Quiet d (d.markGroup g) :=
  (((mark_quiet d _).trans (mark_quiet _ _)).trans (mark_quiet _ _)).trans (mark_quiet _ _)

theorem push_quiet (d : Dev) (q : Nat) (item : List Byte) : Quiet d (d.push q item) :=
  (pushRaw_quiet d q item).trans (mark_quiet _ q)

/-! ### Events and faults -/

theorem eventAt_quiet (d : Dev) (mpt code st obj : Nat) (detail : List Byte) :
    Quiet d (d.eventAt mpt code st obj detail) := by
  unfold Dev.eventAt
  exact ite_quiet ((eventRaw_quiet d _ _ _ _ _).trans (mark_quiet _ _)) (Quiet.refl d)

theorem event_quiet (d : Dev) (code st obj : Nat) (detail : List Byte) : Quiet d (d.event code st obj detail) :=
  eventAt_quiet d _ _ _ _ _

theorem faultClass_quiet (d : Dev) (cls : Nat) : Quiet d (d.faultClass cls) := by
  have h := raise_quiet d .mntF cls
  have e : (d.faultClass cls).core = (d.raise .mntF cls).core := rfl
  exact ⟨⟨e.trans h.1.1, h.1.2⟩, h.2⟩

theorem faultEvent_quiet (d : Dev) (cls loc grp b5 : Nat) : Quiet d (d.faultEvent cls loc grp b5) :=
  (faultClass_quiet d cls).trans (event_quiet _ _ _ _ _)

/-! ### Completions, status slots and messages -/

theorem message_quiet (d : Dev) (f v : Nat) : Quiet d (d.message f v) := by
  unfold Dev.message
  refine ite_quiet (modFn_quiet d _ _) ?_
  simp only
  exact ite_quiet ((modFn_quiet d _ _).trans (hostWrite_quiet _ _ _ _)) (modFn_quiet d _ _)

theorem writeEntry_quiet (d : Dev) (k : Nat) (bs : List Byte) : Quiet d (d.writeEntry k bs) :=
  (hostWrite_quiet d _ _ _).trans (modRing_quiet _ _ _)

theorem foldl_quiet {α : Type} (f : Dev → α → Dev) (hf : ∀ d a, Quiet d (f d a)) (l : List α) :
    ∀ d, Quiet d (l.foldl f d) := by
  induction l with
  | nil => exact Quiet.refl
  | cons a l ih => exact fun d => (hf d a).trans (ih _)

theorem payOwed_quiet (d : Dev) (k : Nat) : Quiet d (d.payOwed k) := by
  unfold Dev.payOwed
  simp only
  refine Quiet.trans (ite_quiet (Quiet.refl d) (modRing_quiet d _ _)) (foldl_quiet _ ?_ _ _)
  intro d bs
  have h := (writeEntry_quiet d k (withPhase (d.ring k) bs)).trans
    (modRing_quiet _ k (fun r => { r with rsvd := r.rsvd - 1 }))
  exact ite_quiet h (h.trans (modRing_quiet _ _ _))

theorem complete_quiet (d : Dev) (k : Nat) (bs : List Byte) : Quiet d (d.complete k bs) := by
  unfold Dev.complete
  simp only
  split
  · exact Quiet.refl d
  · exact modRing_quiet d _ _
  · exact (modRing_quiet d _ _).trans (payOwed_quiet _ _)

theorem flushItem_quiet (d : Dev) (k : Nat) : Quiet d (d.flushItem k) :=
  ((modRing_quiet d _ _).trans (modRing_quiet _ _ _)).trans (count_quiet _ _ _ _ _ _)

theorem writeStatus_quiet (d : Dev) (k : Nat) : Quiet d (d.writeStatus k) := by
  unfold Dev.writeStatus
  simp only
  refine ite_quiet (Quiet.trans ?_ (message_quiet _ _ _)) ?_ <;>
    exact (hostWrite_quiet d _ _ _).trans (modRing_quiet _ _ _)

/-! ### As reports -/

theorem count_reports (d : Dev) (bank src b : Nat) (slot : Option Nat) (n : Nat) :
    Reports d (d.count bank src b slot n) := (count_quiet d bank src b slot n).1
theorem setFld_reports {off : Nat} (hs : statusOff off = true) (d : Dev) (hi lo v : Nat) :
    Reports d (d.setFld off hi lo v) := (setFld_quiet hs d hi lo v).1
theorem raise_reports (d : Dev) (r : Src) (b : Nat) : Reports d (d.raise r b) := (raise_quiet d r b).1
theorem modRing_reports (d : Dev) (k : Nat) (f : Ring → Ring) : Reports d (d.modRing k f) := (modRing_quiet d k f).1
theorem modFn_reports (d : Dev) (k : Nat) (f : Fn → Fn) : Reports d (d.modFn k f) := (modFn_quiet d k f).1
theorem modLossy_reports (d : Dev) (k : Nat) (f : LossyQ → LossyQ) : Reports d (d.modLossy k f) := (modLossy_quiet d k f).1
theorem modAcct_reports (d : Dev) (k : Nat) (f : QAcct → QAcct) : Reports d (d.modAcct k f) := (modAcct_quiet d k f).1
theorem modWm_reports (d : Dev) (k : Nat) (f : Wm → Wm) : Reports d (d.modWm k f) := (modWm_quiet d k f).1
theorem post_reports (d : Dev) (a : Nat) (bs : List Byte) : Reports d (d.post a bs) := (post_quiet d a bs).1
theorem free_reports (d : Dev) : Reports d d.free.2 := (free_quiet d).1
theorem divFree_reports (d : Dev) (num : Int) (den : Nat) : Reports d (d.divFree num den).2 := (divFree_quiet d num den).1
theorem hostWrite_reports (d : Dev) (f a : Nat) (bs : List Byte) : Reports d (d.hostWrite f a bs) := (hostWrite_quiet d f a bs).1
theorem pushRaw_reports (d : Dev) (q : Nat) (item : List Byte) : Reports d (d.pushRaw q item) := (pushRaw_quiet d q item).1
theorem eventRaw_reports (d : Dev) (mpt code st obj : Nat) (detail : List Byte) :
    Reports d (d.eventRaw mpt code st obj detail) := (eventRaw_quiet d mpt code st obj detail).1
theorem notice_reports (d : Dev) (q : Nat) (detail : List Byte) : Reports d (d.notice q detail) := (notice_quiet d q detail).1
theorem mark_reports (d : Dev) (q : Nat) : Reports d (d.mark q) := (mark_quiet d q).1
theorem markGroup_reports (d : Dev) (g : Nat) : Reports d (d.markGroup g) := (markGroup_quiet d g).1
theorem push_reports (d : Dev) (q : Nat) (item : List Byte) : Reports d (d.push q item) := (push_quiet d q item).1
theorem eventAt_reports (d : Dev) (mpt code st obj : Nat) (detail : List Byte) :
    Reports d (d.eventAt mpt code st obj detail) := (eventAt_quiet d mpt code st obj detail).1
theorem event_reports (d : Dev) (code st obj : Nat) (detail : List Byte) : Reports d (d.event code st obj detail) := (event_quiet d code st obj detail).1
theorem faultClass_reports (d : Dev) (cls : Nat) : Reports d (d.faultClass cls) := (faultClass_quiet d cls).1
theorem faultEvent_reports (d : Dev) (cls loc grp b5 : Nat) : Reports d (d.faultEvent cls loc grp b5) := (faultEvent_quiet d cls loc grp b5).1
theorem message_reports (d : Dev) (f v : Nat) : Reports d (d.message f v) := (message_quiet d f v).1
theorem writeEntry_reports (d : Dev) (k : Nat) (bs : List Byte) : Reports d (d.writeEntry k bs) := (writeEntry_quiet d k bs).1
theorem payOwed_reports (d : Dev) (k : Nat) : Reports d (d.payOwed k) := (payOwed_quiet d k).1
theorem complete_reports (d : Dev) (k : Nat) (bs : List Byte) : Reports d (d.complete k bs) := (complete_quiet d k bs).1
theorem flushItem_reports (d : Dev) (k : Nat) : Reports d (d.flushItem k) := (flushItem_quiet d k).1
theorem writeStatus_reports (d : Dev) (k : Nat) : Reports d (d.writeStatus k) := (writeStatus_quiet d k).1

/-! ### Management commands -/

theorem ite_reports {d a b : Dev} {p : Prop} [Decidable p] (ha : Reports d a) (hb : Reports d b) :
    Reports d (if p then a else b) := by split <;> assumption

theorem foldl_reports {α : Type} (f : Dev → α → Dev) (hf : ∀ d a, Reports d (f d a)) (l : List α) :
    ∀ d, Reports d (l.foldl f d) := by
  induction l with
  | nil => exact Reports.refl
  | cons a l ih => exact fun d => (hf d a).trans (ih _)


theorem finish_reports (d : Dev) (id st : Nat) (q : List Byte) : Reports d (d.finish id st q) := by
  unfold Dev.finish
  split
  · exact Reports.refl d
  · simp only
    refine Reports.trans ?_ (mark_reports _ _)
    refine ite_reports ?_ ?_
    · exact Reports.trans (b := { d with cmds := d.cmds.filter (fun x => decide (x.id ≠ id)) }) ⟨rfl, fun _ _ => rfl⟩
        ((modAcct_reports _ _ _).trans (complete_reports _ _ _))
    · exact Reports.trans (b := { d with cmds := d.cmds.filter (fun x => decide (x.id ≠ id)) }) ⟨rfl, fun _ _ => rfl⟩
        (modAcct_reports _ _ _)

theorem finishSt_reports (d : Dev) (id st : Nat) : Reports d (d.finishSt id st) := finish_reports d id st []

theorem finishOpt_reports (d : Dev) (id : Option Nat) (st : Nat) : Reports d (d.finishOpt id st) := by
  cases id with
  | none => exact Reports.refl d
  | some i => exact finishSt_reports d i st

theorem finishBlock_reports (d : Dev) (id st : Nat) (q b : List Byte) : Reports d (d.finishBlock id st q b) := by
  unfold Dev.finishBlock
  split
  · exact Reports.refl d
  · exact ite_reports (finish_reports d _ _ _) (ite_reports ((modFn_reports d _ _).trans (finish_reports _ _ _ _))
      ((hostWrite_reports d _ _ _).trans (finish_reports _ _ _ _)))

theorem cmds_reports (d : Dev) (l : List Cmd) (n : Nat) : Reports d { d with cmds := l, nextId := n } := ⟨rfl, fun _ _ => rfl⟩

/-- A command that has been finished is not outstanding. -/
theorem finish_ended (d : Dev) (id st : Nat) (q : List Byte) : (d.finish id st q).cmdOf id = none := by
  unfold Dev.finish
  split
  · assumption
  · simp only
    rw [Dev.cmdOf, (mark_quiet _ _).2.1]
    split
    · rw [(complete_quiet _ _ _).2.1]
      simp [Dev.modAcct]
    · simp [Dev.modAcct]

theorem fetchCmd_reports (d : Dev) (c : CmdDesc) : Reports d (d.fetchCmd c) := by
  unfold Dev.fetchCmd
  simp only
  exact ((((modRing_reports d _ _).trans (modRing_reports _ _ _)).trans (cmds_reports _ _ _)).trans
    (modAcct_reports _ _ _)).trans (mark_reports _ _)

end Sys2Proof.Machine
end

