-- ==== Sys2Proof/Laws/Frames.lean ====
section
/-! SUPPORT. What `Reports` gives: each field and each unit of the device is as before, and an update of one of them commutes with
a report. -/

namespace Sys2Proof.Machine

section Fields
variable {a b : Dev} (h : Reports a b)
include h

theorem Reports.dev : b.dev = a.dev := congrArg Core.dev h.1
theorem Reports.clk : b.clk = a.clk := congrArg Core.clk h.1
theorem Reports.busOut : b.busOut = a.busOut := congrArg Core.busOut h.1
theorem Reports.tb : b.tb = a.tb := congrArg Core.tb h.1
theorem Reports.msync : b.msync = a.msync := congrArg Core.msync h.1
theorem Reports.segPrev : b.segPrev = a.segPrev := congrArg Core.segPrev h.1
theorem Reports.ports : b.ports = a.ports := congrArg Core.ports h.1
theorem Reports.groups : b.groups = a.groups := congrArg Core.groups h.1
theorem Reports.decs : b.decs = a.decs := congrArg Core.decs h.1
theorem Reports.encs : b.encs = a.encs := congrArg Core.encs h.1
theorem Reports.shadow : b.shadow = a.shadow := congrArg Core.shadow h.1
theorem Reports.late : b.late = a.late := congrArg Core.late h.1
theorem Reports.unit : b.unit = a.unit := congrArg Core.unit h.1
theorem Reports.present : b.present = a.present := congrArg Core.present h.1
theorem Reports.gaps : b.gaps = a.gaps := congrArg Core.gaps h.1
theorem Reports.keys : b.keys = a.keys := congrArg Core.keys h.1
theorem Reports.sets : b.sets = a.sets := congrArg Core.sets h.1
theorem Reports.pins : b.pins = a.pins := congrArg Core.pins h.1
theorem Reports.asked : b.asked = a.asked := congrArg Core.asked h.1
theorem Reports.sess : b.sess = a.sess := congrArg Core.sess h.1
theorem Reports.sndId : b.sndId = a.sndId := congrArg Core.sndId h.1
theorem Reports.nodes : b.nodes = a.nodes := congrArg Core.nodes h.1
theorem Reports.routes : b.routes = a.routes := congrArg Core.routes h.1
theorem Reports.policy : b.policy = a.policy := congrArg Core.policy h.1
theorem Reports.fwd : b.fwd = a.fwd := congrArg Core.fwd h.1
theorem Reports.fwdWait : b.fwdWait = a.fwdWait := congrArg Core.fwdWait h.1
theorem Reports.meas : b.meas = a.meas := congrArg Core.meas h.1
theorem Reports.swo : b.swo = a.swo := congrArg Core.swo h.1
theorem Reports.swoLvl : b.swoLvl = a.swoLvl := congrArg Core.swoLvl h.1
theorem Reports.swoHiZ : b.swoHiZ = a.swoHiZ := congrArg Core.swoHiZ h.1
theorem Reports.vfEn : b.vfEn = a.vfEn := congrArg Core.vfEn h.1
theorem Reports.numVfs : b.numVfs = a.numVfs := congrArg Core.numVfs h.1
theorem Reports.capts : b.capts = a.capts := congrArg Core.capts h.1
theorem Reports.cvus : b.cvus = a.cvus := congrArg Core.cvus h.1
theorem Reports.sec : b.sec = a.sec := congrArg Core.sec h.1
theorem Reports.pwr : b.pwr = a.pwr := congrArg Core.pwr h.1
theorem Reports.jtag : b.jtag = a.jtag := congrArg Core.jtag h.1
theorem Reports.ques_rsv : b.ques.rsv = a.ques.rsv := congrArg (fun c => c.ques.rsv) h.1
theorem Reports.ques_waiters : b.ques.waiters = a.ques.waiters := congrArg (fun c => c.ques.waiters) h.1
theorem Reports.cnts_swn : b.cnts.swn = a.cnts.swn := congrArg (fun c => c.cnts.swn) h.1
theorem Reports.cnts_sets : b.cnts.sets = a.cnts.sets := congrArg (fun c => c.cnts.sets) h.1
theorem Reports.cnts_snaps : b.cnts.snaps = a.cnts.snaps := congrArg (fun c => c.cnts.snaps) h.1
theorem Reports.cnts_lfsr : b.cnts.lfsr = a.cnts.lfsr := congrArg (fun c => c.cnts.lfsr) h.1
theorem Reports.cnts_clid : b.cnts.clid = a.cnts.clid := congrArg (fun c => c.cnts.clid) h.1
theorem Reports.mnt_reqs : b.mnt.reqs = a.mnt.reqs := congrArg (fun c => c.mnt.reqs) h.1
theorem Reports.mnt_runs : b.mnt.runs = a.mnt.runs := congrArg (fun c => c.mnt.runs) h.1
theorem Reports.mnt_merges : b.mnt.merges = a.mnt.merges := congrArg (fun c => c.mnt.merges) h.1
theorem Reports.mnt_stamp : b.mnt.stamp = a.mnt.stamp := congrArg (fun c => c.mnt.stamp) h.1
theorem Reports.mnt_revisit : b.mnt.revisit = a.mnt.revisit := congrArg (fun c => c.mnt.revisit) h.1
theorem Reports.mnt_refOff : b.mnt.refOff = a.mnt.refOff := congrArg (fun c => c.mnt.refOff) h.1

theorem Reports.port (p : Nat) : b.port p = a.port p := by unfold Dev.port; rw [h.ports]
theorem Reports.group (g : Nat) : b.group g = a.group g := by unfold Dev.group; rw [h.groups]
theorem Reports.dec (l : Nat) : b.dec l = a.dec l := by unfold Dev.dec; rw [h.decs]
theorem Reports.enc (l : Nat) : b.enc l = a.enc l := by unfold Dev.enc; rw [h.encs]
theorem Reports.node (nh : Nat) : b.node nh = a.node nh := by unfold Dev.node; rw [h.nodes]
theorem Reports.key (i : Nat) : b.key i = a.key i := by unfold Dev.key; rw [h.keys]
theorem Reports.mapSet (i : Nat) : b.mapSet i = a.mapSet i := by unfold Dev.mapSet; rw [h.sets]
theorem Reports.cvu (u : Nat) : b.cvu u = a.cvu u := by unfold Dev.cvu; rw [h.cvus]
theorem Reports.mset (k : Nat) : b.mset k = a.mset k := by unfold Dev.mset; rw [h.meas]
theorem Reports.mpt : b.mpt = a.mpt := by unfold Dev.mpt; rw [h.tb]
theorem Reports.phis : b.phis = a.phis := by unfold Dev.phis; rw [h.mpt, h.msync]
theorem Reports.bpPhase : b.bpPhase = a.bpPhase := by
  unfold Dev.bpPhase Dev.bpPos; rw [h.mpt, h.msync]

/-- A configuration register reads as before. -/
theorem Reports.reg {off : Nat} (ho : statusOff off = false) : b.reg off = a.reg off := h.2 off ho
theorem Reports.fld {off : Nat} (ho : statusOff off = false) (hi lo : Nat) : b.fld off hi lo = a.fld off hi lo := by
  unfold Dev.fld; rw [h.reg ho]
theorem Reports.flag {off : Nat} (ho : statusOff off = false) (i : Nat) : b.flag off i = a.flag off i := by
  unfold Dev.flag; rw [h.reg ho]

end Fields

/-! ### Updates commute with reports -/

section Updates
variable {a b : Dev} (h : Reports a b)
include h

theorem Reports.set_dev (x : DevState) : Reports { a with dev := x } { b with dev := x } :=
  ⟨congrArg (fun c => { c with dev := x }) h.1, h.2⟩
theorem Reports.set_clk (x : Nat) : Reports { a with clk := x } { b with clk := x } :=
  ⟨congrArg (fun c => { c with clk := x }) h.1, h.2⟩
theorem Reports.set_busOut (x : BitVec 64) : Reports { a with busOut := x } { b with busOut := x } :=
  ⟨congrArg (fun c => { c with busOut := x }) h.1, h.2⟩
theorem Reports.set_tb (x : Timebase) : Reports { a with tb := x } { b with tb := x } :=
  ⟨congrArg (fun c => { c with tb := x }) h.1, h.2⟩
theorem Reports.set_msync (x : Msync) : Reports { a with msync := x } { b with msync := x } :=
  ⟨congrArg (fun c => { c with msync := x }) h.1, h.2⟩
theorem Reports.set_segPrev (x : List Nat) : Reports { a with segPrev := x } { b with segPrev := x } :=
  ⟨congrArg (fun c => { c with segPrev := x }) h.1, h.2⟩
theorem Reports.set_ports (x : List (Nat × Port)) : Reports { a with ports := x } { b with ports := x } :=
  ⟨congrArg (fun c => { c with ports := x }) h.1, h.2⟩
theorem Reports.set_groups (x : List (Nat × Group)) : Reports { a with groups := x } { b with groups := x } :=
  ⟨congrArg (fun c => { c with groups := x }) h.1, h.2⟩
theorem Reports.set_decs (x : List (Nat × DecLane)) : Reports { a with decs := x } { b with decs := x } :=
  ⟨congrArg (fun c => { c with decs := x }) h.1, h.2⟩
theorem Reports.set_encs (x : List (Nat × EncLane)) : Reports { a with encs := x } { b with encs := x } :=
  ⟨congrArg (fun c => { c with encs := x }) h.1, h.2⟩
theorem Reports.set_shadow (x : List Nat) : Reports { a with shadow := x } { b with shadow := x } :=
  ⟨congrArg (fun c => { c with shadow := x }) h.1, h.2⟩
theorem Reports.set_late (x : List Nat) : Reports { a with late := x } { b with late := x } :=
  ⟨congrArg (fun c => { c with late := x }) h.1, h.2⟩
theorem Reports.set_unit (x : Nat) : Reports { a with unit := x } { b with unit := x } :=
  ⟨congrArg (fun c => { c with unit := x }) h.1, h.2⟩
theorem Reports.set_present (x : Nat) : Reports { a with present := x } { b with present := x } :=
  ⟨congrArg (fun c => { c with present := x }) h.1, h.2⟩
theorem Reports.set_gaps (x : List (Nat × Nat × Option Nat)) : Reports { a with gaps := x } { b with gaps := x } :=
  ⟨congrArg (fun c => { c with gaps := x }) h.1, h.2⟩
theorem Reports.set_keys (x : List (Nat × MapKey)) : Reports { a with keys := x } { b with keys := x } :=
  ⟨congrArg (fun c => { c with keys := x }) h.1, h.2⟩
theorem Reports.set_sets (x : List (Nat × MapSet)) : Reports { a with sets := x } { b with sets := x } :=
  ⟨congrArg (fun c => { c with sets := x }) h.1, h.2⟩
theorem Reports.set_pins (x : List Pin) : Reports { a with pins := x } { b with pins := x } :=
  ⟨congrArg (fun c => { c with pins := x }) h.1, h.2⟩
theorem Reports.set_asked (x : List (Nat × Nat)) : Reports { a with asked := x } { b with asked := x } :=
  ⟨congrArg (fun c => { c with asked := x }) h.1, h.2⟩
theorem Reports.set_sess (x : List Sess) : Reports { a with sess := x } { b with sess := x } :=
  ⟨congrArg (fun c => { c with sess := x }) h.1, h.2⟩
theorem Reports.set_sndId (x : List (Nat × Nat)) : Reports { a with sndId := x } { b with sndId := x } :=
  ⟨congrArg (fun c => { c with sndId := x }) h.1, h.2⟩
theorem Reports.set_nodes (x : List (Nat × Node)) : Reports { a with nodes := x } { b with nodes := x } :=
  ⟨congrArg (fun c => { c with nodes := x }) h.1, h.2⟩
theorem Reports.set_routes (x : List Route) : Reports { a with routes := x } { b with routes := x } :=
  ⟨congrArg (fun c => { c with routes := x }) h.1, h.2⟩
theorem Reports.set_policy (x : List Policy) : Reports { a with policy := x } { b with policy := x } :=
  ⟨congrArg (fun c => { c with policy := x }) h.1, h.2⟩
theorem Reports.set_fwd (x : List FwdEntry) : Reports { a with fwd := x } { b with fwd := x } :=
  ⟨congrArg (fun c => { c with fwd := x }) h.1, h.2⟩
theorem Reports.set_fwdWait (x : List FwdWait) : Reports { a with fwdWait := x } { b with fwdWait := x } :=
  ⟨congrArg (fun c => { c with fwdWait := x }) h.1, h.2⟩
theorem Reports.set_meas (x : Meas) : Reports { a with meas := x } { b with meas := x } :=
  ⟨congrArg (fun c => { c with meas := x }) h.1, h.2⟩
theorem Reports.set_swo (x : List SwoOp) : Reports { a with swo := x } { b with swo := x } :=
  ⟨congrArg (fun c => { c with swo := x }) h.1, h.2⟩
theorem Reports.set_swoLvl (x : Nat) : Reports { a with swoLvl := x } { b with swoLvl := x } :=
  ⟨congrArg (fun c => { c with swoLvl := x }) h.1, h.2⟩
theorem Reports.set_swoHiZ (x : Bool) : Reports { a with swoHiZ := x } { b with swoHiZ := x } :=
  ⟨congrArg (fun c => { c with swoHiZ := x }) h.1, h.2⟩
theorem Reports.set_vfEn (x : Bool) : Reports { a with vfEn := x } { b with vfEn := x } :=
  ⟨congrArg (fun c => { c with vfEn := x }) h.1, h.2⟩
theorem Reports.set_numVfs (x : Nat) : Reports { a with numVfs := x } { b with numVfs := x } :=
  ⟨congrArg (fun c => { c with numVfs := x }) h.1, h.2⟩
theorem Reports.set_capts (x : List Capt) : Reports { a with capts := x } { b with capts := x } :=
  ⟨congrArg (fun c => { c with capts := x }) h.1, h.2⟩
theorem Reports.set_cvus (x : List (Nat × Cvu)) : Reports { a with cvus := x } { b with cvus := x } :=
  ⟨congrArg (fun c => { c with cvus := x }) h.1, h.2⟩
theorem Reports.set_sec (x : Sec) : Reports { a with sec := x } { b with sec := x } :=
  ⟨congrArg (fun c => { c with sec := x }) h.1, h.2⟩
theorem Reports.set_pwr (x : Power) : Reports { a with pwr := x } { b with pwr := x } :=
  ⟨congrArg (fun c => { c with pwr := x }) h.1, h.2⟩
theorem Reports.set_jtag (x : Jtag) : Reports { a with jtag := x } { b with jtag := x } :=
  ⟨congrArg (fun c => { c with jtag := x }) h.1, h.2⟩

theorem Reports.modPort (i : Nat) (f : Port → Port) : Reports (a.modPort i f) (b.modPort i f) := by
  unfold Dev.modPort
  rw [h.port i, h.ports]
  exact h.set_ports _

theorem Reports.modGroup (i : Nat) (f : Group → Group) : Reports (a.modGroup i f) (b.modGroup i f) := by
  unfold Dev.modGroup
  rw [h.group i, h.groups]
  exact h.set_groups _

theorem Reports.modDec (i : Nat) (f : DecLane → DecLane) : Reports (a.modDec i f) (b.modDec i f) := by
  unfold Dev.modDec
  rw [h.dec i, h.decs]
  exact h.set_decs _

theorem Reports.modEnc (i : Nat) (f : EncLane → EncLane) : Reports (a.modEnc i f) (b.modEnc i f) := by
  unfold Dev.modEnc
  rw [h.enc i, h.encs]
  exact h.set_encs _

theorem Reports.modNode (i : Nat) (f : Node → Node) : Reports (a.modNode i f) (b.modNode i f) := by
  unfold Dev.modNode
  rw [h.node i, h.nodes]
  exact h.set_nodes _

theorem Reports.modKey (i : Nat) (f : MapKey → MapKey) : Reports (a.modKey i f) (b.modKey i f) := by
  unfold Dev.modKey
  rw [h.key i, h.keys]
  exact h.set_keys _

theorem Reports.modMapSet (i : Nat) (f : MapSet → MapSet) : Reports (a.modMapSet i f) (b.modMapSet i f) := by
  unfold Dev.modMapSet
  rw [h.mapSet i, h.sets]
  exact h.set_sets _

theorem Reports.modCvu (i : Nat) (f : Cvu → Cvu) : Reports (a.modCvu i f) (b.modCvu i f) := by
  unfold Dev.modCvu
  rw [h.cvu i, h.cvus]
  exact h.set_cvus _

theorem Reports.set_refOff (n : Nat) :
    Reports { a with mnt := { a.mnt with refOff := n } } { b with mnt := { b.mnt with refOff := n } } :=
  ⟨congrArg (fun c => { c with mnt := { c.mnt with refOff := n } }) h.1, h.2⟩

theorem Reports.modMset (k : Nat) (f : MSet → MSet) : Reports (a.modMset k f) (b.modMset k f) := by
  unfold Dev.modMset
  rw [h.mset k, h.meas]
  exact h.set_meas _

theorem Reports.setReg (off v : Nat) : Reports (a.setReg off v) (b.setReg off v) := by
  refine ⟨h.1, fun o ho => ?_⟩
  by_cases e : o = off
  · subst e; simp
  · rw [reg_setReg_ne e, reg_setReg_ne e, h.reg ho]

theorem Reports.setFld {off : Nat} (ho : statusOff off = false) (hi lo v : Nat) :
    Reports (a.setFld off hi lo v) (b.setFld off hi lo v) := by
  unfold Dev.setFld
  rw [h.reg ho]
  exact h.setReg _ _

end Updates

/-! ### Units after an update -/

@[simp] theorem port_modPort_same (d : Dev) (i : Nat) (f : Port → Port) : (d.modPort i f).port i = f (d.port i) := by
  simp [Dev.port, Dev.modPort]
theorem port_modPort_ne {i j : Nat} (h : j ≠ i) (d : Dev) (f : Port → Port) : (d.modPort i f).port j = d.port j := by
  simp [Dev.port, Dev.modPort, SMap.get_set_ne _ h]
@[simp] theorem group_modGroup_same (d : Dev) (i : Nat) (f : Group → Group) : (d.modGroup i f).group i = f (d.group i) := by
  simp [Dev.group, Dev.modGroup]
theorem group_modGroup_ne {i j : Nat} (h : j ≠ i) (d : Dev) (f : Group → Group) : (d.modGroup i f).group j = d.group j := by
  simp [Dev.group, Dev.modGroup, SMap.get_set_ne _ h]
@[simp] theorem dec_modDec_same (d : Dev) (i : Nat) (f : DecLane → DecLane) : (d.modDec i f).dec i = f (d.dec i) := by
  simp [Dev.dec, Dev.modDec]
theorem dec_modDec_ne {i j : Nat} (h : j ≠ i) (d : Dev) (f : DecLane → DecLane) : (d.modDec i f).dec j = d.dec j := by
  simp [Dev.dec, Dev.modDec, SMap.get_set_ne _ h]
@[simp] theorem enc_modEnc_same (d : Dev) (i : Nat) (f : EncLane → EncLane) : (d.modEnc i f).enc i = f (d.enc i) := by
  simp [Dev.enc, Dev.modEnc]
theorem enc_modEnc_ne {i j : Nat} (h : j ≠ i) (d : Dev) (f : EncLane → EncLane) : (d.modEnc i f).enc j = d.enc j := by
  simp [Dev.enc, Dev.modEnc, SMap.get_set_ne _ h]
@[simp] theorem node_modNode_same (d : Dev) (i : Nat) (f : Node → Node) : (d.modNode i f).node i = f (d.node i) := by
  simp [Dev.node, Dev.modNode]
theorem node_modNode_ne {i j : Nat} (h : j ≠ i) (d : Dev) (f : Node → Node) : (d.modNode i f).node j = d.node j := by
  simp [Dev.node, Dev.modNode, SMap.get_set_ne _ h]
@[simp] theorem key_modKey_same (d : Dev) (i : Nat) (f : MapKey → MapKey) : (d.modKey i f).key i = f (d.key i) := by
  simp [Dev.key, Dev.modKey]
theorem key_modKey_ne {i j : Nat} (h : j ≠ i) (d : Dev) (f : MapKey → MapKey) : (d.modKey i f).key j = d.key j := by
  simp [Dev.key, Dev.modKey, SMap.get_set_ne _ h]
@[simp] theorem mapSet_modMapSet_same (d : Dev) (i : Nat) (f : MapSet → MapSet) : (d.modMapSet i f).mapSet i = f (d.mapSet i) := by
  simp [Dev.mapSet, Dev.modMapSet]
theorem mapSet_modMapSet_ne {i j : Nat} (h : j ≠ i) (d : Dev) (f : MapSet → MapSet) : (d.modMapSet i f).mapSet j = d.mapSet j := by
  simp [Dev.mapSet, Dev.modMapSet, SMap.get_set_ne _ h]
@[simp] theorem cvu_modCvu_same (d : Dev) (i : Nat) (f : Cvu → Cvu) : (d.modCvu i f).cvu i = f (d.cvu i) := by
  simp [Dev.cvu, Dev.modCvu]
theorem cvu_modCvu_ne {i j : Nat} (h : j ≠ i) (d : Dev) (f : Cvu → Cvu) : (d.modCvu i f).cvu j = d.cvu j := by
  simp [Dev.cvu, Dev.modCvu, SMap.get_set_ne _ h]
@[simp] theorem ring_modRing_same (d : Dev) (i : Nat) (f : Ring → Ring) : (d.modRing i f).ring i = f (d.ring i) := by
  simp [Dev.ring, Dev.modRing]
theorem ring_modRing_ne {i j : Nat} (h : j ≠ i) (d : Dev) (f : Ring → Ring) : (d.modRing i f).ring j = d.ring j := by
  simp [Dev.ring, Dev.modRing, SMap.get_set_ne _ h]
@[simp] theorem fn_modFn_same (d : Dev) (i : Nat) (f : Fn → Fn) : (d.modFn i f).fn i = f (d.fn i) := by
  simp [Dev.fn, Dev.modFn]
theorem fn_modFn_ne {i j : Nat} (h : j ≠ i) (d : Dev) (f : Fn → Fn) : (d.modFn i f).fn j = d.fn j := by
  simp [Dev.fn, Dev.modFn, SMap.get_set_ne _ h]
@[simp] theorem mset_modMset_same (d : Dev) (i : Nat) (f : MSet → MSet) : (d.modMset i f).mset i = f (d.mset i) := by
  simp [Dev.mset, Dev.modMset]
theorem mset_modMset_ne {i j : Nat} (h : j ≠ i) (d : Dev) (f : MSet → MSet) : (d.modMset i f).mset j = d.mset j := by
  simp [Dev.mset, Dev.modMset, SMap.get_set_ne _ h]
@[simp] theorem lossy_modLossy_same (d : Dev) (i : Nat) (f : LossyQ → LossyQ) : (d.modLossy i f).lossy i = f (d.lossy i) := by
  simp [Dev.lossy, Dev.modLossy]
theorem lossy_modLossy_ne {i j : Nat} (h : j ≠ i) (d : Dev) (f : LossyQ → LossyQ) : (d.modLossy i f).lossy j = d.lossy j := by
  simp [Dev.lossy, Dev.modLossy, SMap.get_set_ne _ h]
@[simp] theorem wmark_modWm_same (d : Dev) (i : Nat) (f : Wm → Wm) : (d.modWm i f).wmark i = f (d.wmark i) := by
  simp [Dev.wmark, Dev.modWm]
theorem wmark_modWm_ne {i j : Nat} (h : j ≠ i) (d : Dev) (f : Wm → Wm) : (d.modWm i f).wmark j = d.wmark j := by
  simp [Dev.wmark, Dev.modWm, SMap.get_set_ne _ h]
@[simp] theorem acct_modAcct_same (d : Dev) (i : Nat) (f : QAcct → QAcct) : (d.modAcct i f).acct i = f (d.acct i) := by
  simp [Dev.acct, Dev.modAcct]
theorem acct_modAcct_ne {i j : Nat} (h : j ≠ i) (d : Dev) (f : QAcct → QAcct) : (d.modAcct i f).acct j = d.acct j := by
  simp [Dev.acct, Dev.modAcct, SMap.get_set_ne _ h]
@[simp] theorem counter_modCounter_same (d : Dev) (i : Nat) (f : Counter → Counter) : (d.modCounter i f).counter i = f (d.counter i) := by
  simp [Dev.counter, Dev.modCounter]
theorem counter_modCounter_ne {i j : Nat} (h : j ≠ i) (d : Dev) (f : Counter → Counter) : (d.modCounter i f).counter j = d.counter j := by
  simp [Dev.counter, Dev.modCounter, SMap.get_set_ne _ h]

end Sys2Proof.Machine
end

