-- ==== Sys2Proof/Laws/Commands.lean ====
section
/-! SUPPORT. How an effect becomes a step, and what an accepted management command does before its own effect. -/

namespace Sys2Proof.Machine

/-! ### Runs -/

/-- Writes posted or not yet posted are no part of `Reports`. -/
theorem fresh_reports (d : Dev) : Reports d d.fresh := ⟨rfl, fun _ _ => rfl⟩

/-- Every meaning is the run of an effect: it answers a next state, with the queue as it stood and no posted write left. -/
theorem run_next (f : Dev → Dev) (s : State) :
    run f s = .next { s with dev := (f s.dev.fresh).fresh, hostMem := Memory.commit s.hostMem (f s.dev.fresh).posted } := rfl

/-- A run keeps what every step keeps. -/
theorem run_inv (f : Dev → Dev) (s t : State) (h : s.Inv) (e : run f s = .next t) : t.Inv := by
  rw [run_next] at e
  cases e
  exact ⟨Memory.wf_commit _ _ h.1, rfl⟩

/-- A run reaches a device that its effect gives but for reports. -/
theorem run_reaches {f : Dev → Dev} {s : State} {d : Dev} (h : Reports d (f s.dev.fresh)) : Reaches (run f s) s d :=
  ⟨_, run_next f s, h.trans (fresh_reports _), rfl⟩

/-- Reaching is closed under reports. -/
theorem Reaches.congr {o : Host.Outcome State Fault Refusal} {s : State} {d e : Dev} (h : Reaches o s d) (r : Reports e d) :
    Reaches o s e := by
  obtain ⟨t, h1, h2, h3⟩ := h
  exact ⟨t, h1, r.trans h2, h3⟩

section Fresh
variable (d : Dev)
@[simp] theorem fresh_dev : d.fresh.dev = d.dev := rfl
@[simp] theorem fresh_tb : d.fresh.tb = d.tb := rfl
@[simp] theorem fresh_msync : d.fresh.msync = d.msync := rfl
@[simp] theorem fresh_pwr : d.fresh.pwr = d.pwr := rfl
@[simp] theorem fresh_sec : d.fresh.sec = d.sec := rfl
@[simp] theorem fresh_meas : d.fresh.meas = d.meas := rfl
@[simp] theorem fresh_mnt : d.fresh.mnt = d.mnt := rfl
@[simp] theorem fresh_cnts : d.fresh.cnts = d.cnts := rfl
@[simp] theorem fresh_ques : d.fresh.ques = d.ques := rfl
@[simp] theorem fresh_cmds : d.fresh.cmds = d.cmds := rfl
@[simp] theorem fresh_swo : d.fresh.swo = d.swo := rfl
@[simp] theorem fresh_nextId : d.fresh.nextId = d.nextId := rfl
@[simp] theorem fresh_port (p : Nat) : d.fresh.port p = d.port p := rfl
@[simp] theorem fresh_group (g : Nat) : d.fresh.group g = d.group g := rfl
@[simp] theorem fresh_dec (l : Nat) : d.fresh.dec l = d.dec l := rfl
@[simp] theorem fresh_enc (l : Nat) : d.fresh.enc l = d.enc l := rfl
@[simp] theorem fresh_node (n : Nat) : d.fresh.node n = d.node n := rfl
@[simp] theorem fresh_ring (k : Nat) : d.fresh.ring k = d.ring k := rfl
@[simp] theorem fresh_fn (k : Nat) : d.fresh.fn k = d.fn k := rfl
@[simp] theorem fresh_mset (k : Nat) : d.fresh.mset k = d.mset k := rfl
@[simp] theorem fresh_key (k : Nat) : d.fresh.key k = d.key k := rfl
@[simp] theorem fresh_mapSet (k : Nat) : d.fresh.mapSet k = d.mapSet k := rfl
@[simp] theorem fresh_cvu (k : Nat) : d.fresh.cvu k = d.cvu k := rfl
@[simp] theorem fresh_lossy (k : Nat) : d.fresh.lossy k = d.lossy k := rfl
@[simp] theorem fresh_reg (o : Nat) : d.fresh.reg o = d.reg o := rfl
@[simp] theorem fresh_fld (o hi lo : Nat) : d.fresh.fld o hi lo = d.fld o hi lo := rfl
@[simp] theorem fresh_flag (o i : Nat) : d.fresh.flag o i = d.flag o i := rfl
@[simp] theorem fresh_mpt : d.fresh.mpt = d.mpt := rfl
@[simp] theorem fresh_phis : d.fresh.phis = d.phis := rfl
end Fresh

/-! ### Commands (16 R392-R396) -/

/-- An accepted command whose object state and further ranges pass too is fetched and has its row's effect. -/
theorem command_accepted {s : State} {c : CmdDesc} {sp : CmdSpec} (h : Accepted s c sp) {obj arg : Dev → CmdDesc → Bool}
    (ho : obj s.dev.fresh c = true) (ha : arg s.dev.fresh c = true) (eff : Nat → CmdDesc → Dev → Dev) :
    command sp obj arg eff c s.dev.fresh = eff s.dev.nextId c (s.dev.fresh.fetchCmd c) := by
  obtain ⟨h1, h2, h3, h4, h5, h6, h7⟩ := h
  have hr : s.dev.fresh.cmdReady = true := h1
  have hs : cmdStates sp.opc ≠ none := by
    intro e; unfold Dev.accepts at h4; rw [e] at h4; cases h4
  have hac : s.dev.fresh.accepts sp.opc = true := h4
  have hj : judge sp (obj s.dev.fresh c) (arg s.dev.fresh c) s.dev.fresh c = none := by
    unfold judge
    rw [h3, hac, ho, ha, h5, h6, h7]
    simp [h2, hs]
  have hx : ¬ (c.dt = 4 ∧ (cmdStates c.opc.toNat).isSome = true ∧ c.opc.toNat ≠ sp.opc) := fun e => e.2.2 h3
  unfold command
  simp only [hr, hj, if_neg hx, Bool.not_true, Bool.false_eq_true, if_false]
  rfl

/-- The device after the fetch of a command is the one before it but for reports. -/
theorem fetched_reports (s : State) (c : CmdDesc) : Reports s.dev (s.dev.fresh.fetchCmd c) :=
  (fresh_reports _).trans (fetchCmd_reports _ _)

end Sys2Proof.Machine
end

