-- ==== Sys2Proof/Laws/Images.lean ====
section
/-! SUPPORT. A complete image that verifies: both signatures are degenerate ones, whose verification comes down to sums and products
with 0 whatever the hashes are. It witnesses that an image source can pass every step of 19 Table SE.5. -/

namespace Sys2Proof.Machine

/- One theorem after the other: the threads of many at once, each with its stack, do not fit a memory limit. -/
set_option Elab.async false

/-! ### Ed25519 with neutral points -/

/-- A form of the neutral point in extended coordinates. -/
def EdPoint.Neutral (p : EdPoint) : Prop := p.x = 0 ∧ p.t = 0 ∧ p.y = p.z

theorem EdPoint.neutral_add {p q : EdPoint} (hp : p.Neutral) (hq : q.Neutral) : (p.add q).Neutral := by
  obtain ⟨px, pt, pz⟩ := hp
  obtain ⟨qx, qt, qz⟩ := hq
  have e0 : ((p.y + p.x) * (q.y + q.x) % edP + edP - (p.y + edP - p.x) * (q.y + edP - q.x) % edP) % edP = 0 := by
    have : (p.y + edP - p.x) * (q.y + edP - q.x) % edP = p.y * q.y % edP := by
      rw [px, qx, Nat.sub_zero, Nat.sub_zero, Nat.mul_mod, Nat.add_mod_right, Nat.add_mod_right, ← Nat.mul_mod]
    rw [this, px, qx, Nat.add_zero, Nat.add_zero, Nat.add_sub_cancel_left, Nat.mod_self]
  have e1 : (p.y + edP - p.x) * (q.y + edP - q.x) % edP = p.y * q.y % edP := by
    rw [px, qx, Nat.sub_zero, Nat.sub_zero, Nat.mul_mod, Nat.add_mod_right, Nat.add_mod_right, ← Nat.mul_mod]
  have e2 : p.z * 2 * q.z % edP = (p.y * q.y % edP + p.y * q.y % edP) % edP := by
    rw [← Nat.add_mod, ← pz, ← qz, Nat.mul_two, Nat.add_mul]
  refine ⟨?_, ?_, ?_⟩
  · simp only [EdPoint.add]; rw [e0, Nat.zero_mul, Nat.zero_mod]
  · simp only [EdPoint.add]; rw [e0, Nat.zero_mul, Nat.zero_mod]
  · simp only [EdPoint.add, pt, qt, px, qx, Nat.zero_mul, Nat.mul_zero, Nat.zero_mod, Nat.add_zero, Nat.sub_zero] at e1 ⊢
    rw [e1, e2]
    simp only [Nat.add_mod_mod, Nat.mod_add_mod, Nat.add_mod_right, Nat.mod_mod]

theorem EdPoint.neutral_zero : EdPoint.zero.Neutral := ⟨rfl, rfl, rfl⟩

/-- What a step of an iteration keeps, the iteration keeps. -/
theorem iter_keeps {α : Type} (P : α → Prop) (f : Nat → α → α) (h : ∀ i x, P x → P (f i x)) (n : Nat) {a : α} (ha : P a) :
    P (iter n f a) := by
  unfold iter
  generalize List.range n = l
  induction l generalizing a with
  | nil => exact ha
  | cons i l ih => exact ih (h i a ha)

theorem EdPoint.neutral_mul {p : EdPoint} (n : Nat) (hp : p.Neutral) : (EdPoint.mul n p).Neutral := by
  unfold EdPoint.mul
  refine iter_keeps _ _ (fun i q hq => ?_) _ neutral_zero
  dsimp only
  split
  · exact neutral_add (neutral_add hq hq) hp
  · exact neutral_add hq hq

/-- No multiple at all is a neutral point. -/
theorem EdPoint.neutral_mul_zero (p : EdPoint) : (EdPoint.mul 0 p).Neutral := by
  unfold EdPoint.mul
  refine iter_keeps _ _ (fun i q hq => ?_) _ neutral_zero
  simp only [bit, Nat.zero_div, Nat.zero_mod, Nat.zero_ne_one, decide_false, Bool.false_eq_true, if_false]
  exact neutral_add hq hq

theorem EdPoint.neutral_same {p q : EdPoint} (hp : p.Neutral) (hq : q.Neutral) : p.same q = true := by
  unfold same
  rw [hp.1, hq.1, hp.2.2, hq.2.2, Nat.zero_mul, Nat.zero_mul, Nat.mul_comm p.z]
  simp

/-- The encoding of the neutral point. -/
def edOne : List Byte := 1 :: List.replicate 31 0

theorem edDecode_one : edDecode edOne = some EdPoint.zero := by decide +kernel

/-- Under the neutral point as the key, the neutral point and 0 sign every message. -/
theorem edVerify_neutral {pk sig : List Byte} (msg : List Byte) (hk : pk = edOne) (hr : bytesAt sig 0 32 = edOne)
    (hs : leNat (bytesAt sig 32 32) = 0) : edVerify pk sig msg = true := by
  unfold edVerify
  simp only [hr, hk, hs, edDecode_one, Bool.and_eq_true, decide_eq_true_eq]
  refine ⟨by decide, EdPoint.neutral_same (EdPoint.neutral_mul _ (EdPoint.neutral_mul_zero _)) (EdPoint.neutral_mul _ ?_)⟩
  exact EdPoint.neutral_add EdPoint.neutral_zero (EdPoint.neutral_mul _ EdPoint.neutral_zero)

/-! ### ML-DSA with zero vectors -/

/-- Every coefficient is 0. -/
def AllZero (p : Poly) : Prop := ∀ x ∈ p, x = 0

theorem allZero_zip {f : Nat × Nat → Nat} (hf : f (0, 0) = 0) {a b : Poly} (ha : AllZero a) (hb : AllZero b) :
    AllZero ((a.zip b).map f) := by
  intro x hx
  obtain ⟨⟨u, v⟩, hm, rfl⟩ := List.mem_map.1 hx
  have h := List.of_mem_zip hm
  rw [ha u h.1, hb v h.2, hf]

theorem allZero_map {f : Nat → Nat} (hf : f 0 = 0) {a : Poly} (ha : AllZero a) : AllZero (a.map f) := by
  intro x hx
  obtain ⟨u, hm, rfl⟩ := List.mem_map.1 hx
  rw [ha u hm, hf]

theorem allZero_append {a b : Poly} (ha : AllZero a) (hb : AllZero b) : AllZero (a ++ b) := fun x hx =>
  (List.mem_append.1 hx).elim (ha x) (hb x)

theorem mlAdd_zero {a b : Poly} (ha : AllZero a) (hb : AllZero b) : AllZero (mlAdd a b) := allZero_zip (by decide) ha hb
theorem mlSub_zero {a b : Poly} (ha : AllZero a) (hb : AllZero b) : AllZero (mlSub a b) := allZero_zip (by decide) ha hb

theorem mlMul_zero (a : Poly) {b : Poly} (hb : AllZero b) : AllZero (mlMul a b) := by
  intro x hx
  obtain ⟨⟨u, v⟩, hm, rfl⟩ := List.mem_map.1 hx
  rw [hb v (List.of_mem_zip hm).2, Nat.mul_zero, Nat.zero_mod]

theorem mlInvAt_zero : ∀ (n m : Nat) (w : Poly), AllZero w → AllZero (mlInvAt n m w)
  | 0, _, _, h => h
  | n + 1, m, w, h => by
    have h1 := mlInvAt_zero n (2 * m) (w.take (2 ^ n)) (fun x hx => h x (List.mem_of_mem_take hx))
    have h2 := mlInvAt_zero n (2 * m + 1) (w.drop (2 ^ n)) (fun x hx => h x (List.mem_of_mem_drop hx))
    exact allZero_append (mlAdd_zero h1 h2) (allZero_map (by simp) (mlSub_zero h1 h2))

theorem mlInv_zero {w : Poly} (h : AllZero w) : AllZero (mlInv w) := allZero_map (by simp) (mlInvAt_zero 8 1 w h)

theorem mlApply_zero (a : List (List Poly)) {v : List Poly} (hv : ∀ p ∈ v, AllZero p) : ∀ p ∈ mlApply a v, AllZero p := by
  intro p hp
  obtain ⟨row, -, rfl⟩ := List.mem_map.1 hp
  refine mlInv_zero ?_
  have h : ∀ x ∈ row.zip v, AllZero x.2 := fun x hx => hv _ (List.of_mem_zip hx).2
  have hz : AllZero mlZero := fun x hx => (List.mem_replicate.1 hx).2
  generalize row.zip v = l at h
  generalize mlZero = z at hz
  induction l generalizing z with
  | nil => exact hz
  | cons x l ih =>
    exact ih (fun y hy => h y (List.mem_cons_of_mem _ hy)) _ (mlAdd_zero hz (mlMul_zero _ (h x List.mem_cons_self)))

theorem mlScale_zero (c : Poly) {v : List Poly} (hv : ∀ p ∈ v, AllZero p) : ∀ p ∈ mlScale c v, AllZero p := by
  intro p hp
  obtain ⟨q, hq, rfl⟩ := List.mem_map.1 hp
  exact mlInv_zero (mlMul_zero _ (hv q hq))

theorem mlSubV_zero {a b : List Poly} (ha : ∀ p ∈ a, AllZero p) (hb : ∀ p ∈ b, AllZero p) : ∀ p ∈ mlSubV a b, AllZero p := by
  intro p hp
  obtain ⟨⟨u, v⟩, hm, rfl⟩ := List.mem_map.1 hp
  have h := List.of_mem_zip hm
  exact mlSub_zero (ha u h.1) (hb v h.2)

theorem mlPack_zero {p : Poly} (h : AllZero p) (d : Nat) : mlPack d p = leBytes (32 * d) 0 := by
  have e : ∀ l : List (Nat × Nat), (∀ x ∈ l, x.1 = 0) → ∀ v, l.foldl (fun v x => v + x.1 % 2 ^ d * 2 ^ (d * x.2)) v = v := by
    intro l
    induction l with
    | nil => exact fun _ _ => rfl
    | cons x l ih =>
      intro hl v
      rw [List.foldl_cons, hl x List.mem_cons_self, Nat.zero_mod, Nat.zero_mul, Nat.add_zero]
      exact ih (fun y hy => hl y (List.mem_cons_of_mem _ hy)) v
  unfold mlPack
  rw [e _ (fun x hx => h _ (List.of_mem_zip hx).1)]

theorem flatMap_zero {l : List Poly} (h : ∀ p ∈ l, AllZero p) (hl : l.length = 6) :
    l.flatMap (mlPack 4) = (List.replicate 6 mlZero).flatMap (mlPack 4) := by
  have e : ∀ l : List Poly, (∀ p ∈ l, AllZero p) → l.flatMap (mlPack 4) = (List.replicate l.length (leBytes 128 0)).flatten := by
    intro l
    induction l with
    | nil => exact fun _ => rfl
    | cons p l ih =>
      intro h
      rw [List.flatMap_cons, mlPack_zero (h p List.mem_cons_self), ih (fun q hq => h q (List.mem_cons_of_mem _ hq))]
      rfl
  rw [e l h, e _ (fun p hp x hx => by rw [(List.mem_replicate.1 hp).2] at hx; exact (List.mem_replicate.1 hx).2), hl]
  rfl

/-- The commitment hash of a signature over `msg` whose vectors are 0, under a key of zeros. -/
def zeroChallenge (msg : List Byte) : List Byte := mlChallenge (mlMu (List.replicate 1952 0) msg) (List.replicate 6 mlZero)

/-- The vector of zeros, as a signature holds it. -/
def zeroZ : List Byte := (List.replicate 640 [0x00, 0x00, 0x08, 0x00, 0x80]).flatten

/-- Under a key of zeros, a commitment to nothing with a vector of zeros signs every message. -/
theorem mlVerify_zero {pk sig msg : List Byte} (hk : pk = List.replicate 1952 0) (hc : bytesAt sig 0 48 = zeroChallenge msg)
    (hs : ∀ i < 5, bytesAt sig (48 + 640 * i) 640 = bytesAt zeroZ (640 * i) 640)
    (hh : bytesAt sig 3248 61 = List.replicate 61 0) : mlVerify pk sig msg = true := by
  have z5 : ((List.range 5).map (fun i => mlUnpackZ (bytesAt sig (48 + 640 * i) 640))) = List.replicate 5 mlZero := by
    have : ((List.range 5).map (fun i => mlUnpackZ (bytesAt sig (48 + 640 * i) 640))) =
        (List.range 5).map (fun i => mlUnpackZ (bytesAt zeroZ (640 * i) 640)) :=
      List.map_congr_left (fun i hi => by rw [hs i (List.mem_range.1 hi)])
    rw [this]; decide +kernel
  have hint : mlUnpackHint (List.replicate 61 0) = some (List.replicate 6 mlZero) := by decide +kernel
  have t1 : ∀ p ∈ (List.range 6).map (fun i => mlNtt ((mlUnpack 10 (bytesAt pk (32 + 320 * i) 320)).map (fun x => x * 8192 % mlQ))),
      AllZero p := by
    have : (List.range 6).map (fun i => mlNtt ((mlUnpack 10 (bytesAt (List.replicate 1952 0) (32 + 320 * i) 320)).map
        (fun x => x * 8192 % mlQ))) = List.replicate 6 mlZero := by decide +kernel
    rw [hk, this]
    intro p hp x hx
    rw [(List.mem_replicate.1 hp).2] at hx
    exact (List.mem_replicate.1 hx).2
  have hw := fun (a : List (List Poly)) (c : Poly) => mlSubV_zero (mlApply_zero a (v := (List.replicate 5 mlZero).map mlNtt) (by
    have : (List.replicate 5 mlZero).map mlNtt = List.replicate 5 mlZero := by decide +kernel
    rw [this]
    intro p hp x hx
    rw [(List.mem_replicate.1 hp).2] at hx
    exact (List.mem_replicate.1 hx).2)) (mlScale_zero c t1)
  have fk : fit 1952 pk = List.replicate 1952 0 := by rw [hk]; decide +kernel
  have below : mlBelow (2 ^ 19 - 196) (List.replicate 5 mlZero) = true := by decide +kernel
  unfold mlVerify
  simp only [z5, hh, hint, hc, below, fk, Bool.true_and, decide_eq_true_eq]
  unfold zeroChallenge mlChallenge
  refine congrArg (fun x => shake256 (mlMu (List.replicate 1952 0) msg ++ x) 48) (flatMap_zero ?_ ?_)
  · intro p hp
    obtain ⟨⟨u, v⟩, hm, rfl⟩ := List.mem_map.1 hp
    have h := List.of_mem_zip hm
    refine allZero_zip (by decide) ?_ (hw _ _ v h.2)
    rw [(List.mem_replicate.1 h.1).2]
    exact fun x hx => (List.mem_replicate.1 hx).2
  · simp only [mlSubV, mlApply, mlScale, mlMatrix, List.length_map, List.length_zip, List.length_range, List.length_replicate, Nat.min_self]

/-! ### The image -/

/-- The key block: the neutral point and a key of zeros. -/
def keyBlock0 : List Byte := edOne ++ List.replicate 1952 0

/-- SHA-512 of 64 zero bytes. -/
def digest0 : List Byte :=
  [123, 233, 253, 164, 143, 65, 121, 230, 17, 198, 152, 167, 60, 255, 9, 250, 247, 40, 105, 67, 30, 254, 230, 234, 173, 20, 222, 12, 180, 75, 191, 102] ++
  [80, 63, 117, 43, 122, 142, 177, 112, 131, 53, 95, 60, 230, 235, 125, 40, 6, 242, 54, 178, 90, 249, 106, 36, 226, 43, 136, 116, 5, 194, 0, 129]

/-- A segment entry of type `t` at offset `o`: 64 bytes of zeros. -/
def segEntry (t : Byte) (o : List Byte) : List Byte := [t, 0, 0, 0] ++ o ++ [0x40, 0, 0, 0, 0, 0, 0, 0] ++ digest0 ++ List.replicate 16 0

/-- A signed area with security version `svn` and a revocation mask: two segments (19 Table SE.3, Table SE.4). -/
def area0 (svn revoke : Byte) : List Byte :=
  [0x42, 0x52, 0x58, 0x53, 1, 0, 0, 0, svn, 0, 0, 0, 0, 0, 0, 0, 0x80, 0x1C, 0, 0, 2, 0, revoke, 0, 0x28, 0x91] ++
    List.replicate 230 0 ++ keyBlock0 ++ segEntry 1 [0, 0x1C, 0, 0] ++ segEntry 2 [0x40, 0x1C, 0, 0] ++ List.replicate 1344 0

/-- The image: signed area, signatures, padding, segments. -/
def image0 (svn revoke : Byte) : List Byte :=
  (area0 svn revoke ++ edOne ++ List.replicate 32 0) ++ ((List.range 48).map (fun i => (zeroChallenge (area0 svn revoke)).getD i 0) ++
    (zeroZ ++ List.replicate 208 0))

/-- The image that the tests use: security version 5, revocation of slot 1. -/
def image5 : List Byte := image0 5 2

theorem image5_area : fit areaLen image5 = area0 5 2 := by decide +kernel
theorem image5_key : bytesAt image5 0x100 0x7C0 = keyBlock0 := by decide +kernel
theorem image5_ed : bytesAt image5 0xEC0 64 = edOne ++ List.replicate 32 0 := by decide +kernel
theorem image5_z : ∀ i < 5, bytesAt (bytesAt image5 0xF00 3309) (48 + 640 * i) 640 = bytesAt zeroZ (640 * i) 640 := by
  decide +kernel
theorem image5_hint : bytesAt (bytesAt image5 0xF00 3309) 3248 61 = List.replicate 61 0 := by decide +kernel
theorem image5_formed : wellFormed image5 0x1C80 = true := by decide +kernel
theorem image5_digests : (imgSegs image5).all (fun s => decide (sha512 (bytesAt image5 s.ofs s.len) = s.digest)) = true := by
  decide +kernel
theorem image5_head : imgMagic image5 = true ∧ imgKey image5 = 0 ∧ imgSvn image5 = 5 := by decide +kernel

/-- A larger source holds an image as well. -/
theorem wellFormed_mono {a : List Byte} {n m : Nat} (h : wellFormed a n = true) (hm : n ≤ m) : wellFormed a m = true := by
  unfold wellFormed at h ⊢
  simp only [Bool.and_eq_true, decide_eq_true_eq] at h ⊢
  obtain ⟨⟨⟨⟨⟨⟨⟨h1, h2⟩, h3⟩, h4⟩, h5⟩, h6⟩, h7⟩, h8⟩ := h
  exact ⟨⟨⟨⟨⟨⟨⟨h1, ⟨h2.1, h2.2.1, Nat.le_trans h2.2.2.1 hm, h2.2.2.2⟩⟩, h3⟩, h4⟩, h5⟩, h6⟩, h7⟩, h8⟩

theorem keccakRound_length (s : List (BitVec 64)) (rc : BitVec 64) : (keccakRound s rc).length = 25 := by
  simp [keccakRound]

theorem keccakF_length (s : List (BitVec 64)) : (keccakF s).length = 25 := by
  unfold keccakF keccakRc
  simp only [List.cons_append, List.nil_append, List.foldl_cons, List.foldl_nil, keccakRound_length]

theorem leBytes_length (n v : Nat) : (leBytes n v).length = n := by
  induction n generalizing v with
  | zero => rfl
  | succ n ih => simp [leBytes, ih]

theorem words_length (l : List (BitVec 64)) : (l.flatMap (fun w => leBytes 8 w.toNat)).length = 8 * l.length := by
  induction l with
  | nil => rfl
  | cons w l ih => rw [List.flatMap_cons, List.length_append, leBytes_length, ih, List.length_cons]; omega

theorem zeroChallenge_length (msg : List Byte) : (zeroChallenge msg).length = 48 := by
  have h : ∀ (bs : List Byte), (shake256 bs 48).length = 48 := by
    intro bs
    unfold shake256 shake
    have e : ∀ (l : List (List Byte)) (s : List (BitVec 64)), s.length = 25 → (l.foldl shakeAbsorb s).length = 25 := by
      intro l
      induction l with
      | nil => exact fun _ h => h
      | cons b l ih => exact fun s _ => ih _ (keccakF_length _)
    have h25 := e (chunks 136 ((shakePad 136 bs).length / 136) (shakePad 136 bs)) (List.replicate 25 0) rfl
    dsimp only
    generalize (chunks 136 ((shakePad 136 bs).length / 136) (shakePad 136 bs)).foldl shakeAbsorb (List.replicate 25 0) = s at h25 ⊢
    rw [List.length_take]
    simp only [Nat.reduceAdd, Nat.reduceSub, Nat.reduceDiv, shakeSqueeze, List.append_nil, words_length, List.length_take, h25]
    decide
  exact h _

/-- A list of known length as its elements. -/
theorem elements (c : List Byte) (h : c.length = 48) : (List.range 48).map (fun i => c.getD i 0) = c := by
  refine List.ext_getElem (by simp [h]) (fun i h1 h2 => ?_)
  simp [List.getD_eq_getElem?_getD, h2]

/-- The start of a part of a list that starts with `c`. -/
theorem bytesAt_start (a c t : List Byte) (n m k : Nat) (ha : a.length = k) (hc : c.length = n) (h : n ≤ m) :
    bytesAt (bytesAt (a ++ (c ++ t)) k m) 0 n = c := by
  subst ha hc
  simp only [bytesAt, List.drop_left, List.drop_zero, List.take_append, List.take_of_length_le h, List.append_assoc,
    List.take_length, Nat.sub_self, List.take_zero, Nat.zero_sub, List.append_nil, List.replicate_zero]

theorem image5_challenge : bytesAt (bytesAt image5 0xF00 3309) 0 48 = zeroChallenge (area0 5 2) := by
  rw [← elements _ (zeroChallenge_length (area0 5 2))]
  exact bytesAt_start _ _ _ 48 3309 0xF00 (by decide +kernel) (by simp) (by decide)

theorem sha512_length (bs : List Byte) : (sha512 bs).length = 64 := by
  have round : ∀ (ks : List (BitVec 64)) (x : List (BitVec 64) × List (BitVec 64)), x.1.length = 8 →
      (ks.foldl shaRound x).1.length = 8 := by
    intro ks
    induction ks with
    | nil => exact fun _ h => h
    | cons k ks ih =>
      refine fun x hx => ih _ ?_
      unfold shaRound
      split
      · rfl
      · exact hx
  have block : ∀ (l : List (List Byte)) (h : List (BitVec 64)), h.length = 8 → (l.foldl shaBlock h).length = 8 := by
    intro l
    induction l with
    | nil => exact fun _ h => h
    | cons b l ih =>
      intro h hh
      rw [List.foldl_cons]
      apply ih
      have hr := fun w => round shaK (h, w) hh
      unfold shaBlock
      rw [List.length_map, List.length_zip, hr, hh, Nat.min_self]
  have out : ∀ l : List (BitVec 64), (l.flatMap (fun w => beBytes 8 w.toNat)).length = 8 * l.length := by
    intro l
    induction l with
    | nil => rfl
    | cons w l ih =>
      rw [List.flatMap_cons, List.length_append, beBytes, List.length_reverse, leBytes_length, ih, List.length_cons]; omega
  have init : shaInit.length = 8 := by decide
  unfold sha512
  simp only [out, block _ shaInit init]

/-- The image passes every step where its key block is the one that OTP names, its key is not revoked and its security version is no
older than the counter. -/
theorem verify_image5 {arb revoked size : Nat} {kd : List (List Byte)} (ha : arb ≤ 5) (hr : bit revoked 0 = false)
    (hk : kd.getD 0 [] = sha512 keyBlock0) (hs : 0x1C80 ≤ size) :
    verifyImage arb revoked kd size { bytes := image5, readFail := none } = none := by
  have key : keyBlockOk kd 0 keyBlock0 = true := by
    unfold keyBlockOk
    rw [hk, decide_eq_true_eq]
    simp only [fit, bytesAt, List.drop_zero, List.take_of_length_le (Nat.le_of_eq (sha512_length keyBlock0)), sha512_length, Nat.sub_self,
      List.replicate_zero, List.append_nil]
  have sig : bothVerify keyBlock0 (edOne ++ List.replicate 32 0) (bytesAt image5 0xF00 3309) (area0 5 2) = (true, true) := by
    unfold bothVerify
    rw [edVerify_neutral _ (by decide +kernel) (by decide +kernel) (by decide +kernel),
      mlVerify_zero (by decide +kernel) image5_challenge image5_z image5_hint]
  have hm : ¬ size < 0x1C00 := by omega
  have h4 : ¬ size < 4 := by omega
  unfold verifyImage imageSteps
  simp only [image5_head, image5_area, image5_key, image5_ed, image5_digests, wellFormed_mono image5_formed hs, hr, key, sig]
  simp [List.range, List.range.loop, stepReads, ha, hm, h4]

end Sys2Proof.Machine
end

