-- ==== Sys2Proof/Laws/Queues.lean ====
section
/-! SUPPORT. LOSSY queues and watermarks: which operations leave a queue's items alone, and what one item's entry does. -/

namespace Sys2Proof.Machine

/-! ### Operations that leave LOSSY queues alone -/

@[simp] theorem lossy_setReg (d : Dev) (off v k : Nat) : (d.setReg off v).lossy k = d.lossy k := rfl
@[simp] theorem lossy_setFld (d : Dev) (off hi lo v k : Nat) : (d.setFld off hi lo v).lossy k = d.lossy k := rfl
@[simp] theorem lossy_modRing (d : Dev) (r : Nat) (f : Ring → Ring) (k : Nat) : (d.modRing r f).lossy k = d.lossy k := rfl
@[simp] theorem lossy_modFn (d : Dev) (r : Nat) (f : Fn → Fn) (k : Nat) : (d.modFn r f).lossy k = d.lossy k := rfl
@[simp] theorem lossy_modWm (d : Dev) (r : Nat) (f : Wm → Wm) (k : Nat) : (d.modWm r f).lossy k = d.lossy k := rfl

@[simp] theorem lossy_count (d : Dev) (bank src b : Nat) (slot : Option Nat) (n k : Nat) :
    (d.count bank src b slot n).lossy k = d.lossy k := by
  unfold Dev.count
  simp only
  split <;> rfl

@[simp] theorem lossy_raise (d : Dev) (r : Src) (b k : Nat) : (d.raise r b).lossy k = d.lossy k := by
  unfold Dev.raise
  rw [lossy_count, lossy_setFld]

@[simp] theorem lossy_sticky (d : Dev) (q k : Nat) : (d.sticky q).lossy k = d.lossy k := by
  unfold Dev.sticky
  simp only
  rw [lossy_modWm, lossy_setReg]

/-! ### An item enters (17 R409) -/

/-- An item that enters a LOSSY queue stands last; a full queue loses its oldest item and nothing else. -/
theorem lossy_pushRaw (d : Dev) (q : Nat) (item : List Byte) :
    ((d.pushRaw q item).lossy q).items =
      (if lossyDepth q ≤ (d.lossy q).items.length then (d.lossy q).items.drop 1 else (d.lossy q).items) ++ [item] := by
  unfold Dev.pushRaw
  simp only
  split
  · split <;> simp
  · simp

theorem lossy_pushRaw_ne {q k : Nat} (h : k ≠ q) (d : Dev) (item : List Byte) :
    (d.pushRaw q item).lossy k = d.lossy k := by
  unfold Dev.pushRaw
  simp only
  split
  · split
    · rw [lossy_raise, lossy_count, lossy_modRing, lossy_modLossy_ne h]
    · rw [lossy_count, lossy_modRing, lossy_modLossy_ne h]
  · exact lossy_modLossy_ne h _ _

/-! ### Watermarks (17 R417, R418) -/

/-- The peak records the occupancy, the armed state stays. -/
theorem wmark_sticky (d : Dev) (q : Nat) :
    (d.sticky q).wmark q = { d.wmark q with peak := max (d.wmark q).peak (d.occ q) } := by
  unfold Dev.sticky
  simp only
  rw [wmark_modWm_same]
  rfl

/-- A disarmed watermark only records. -/
theorem markWith_disarmed {d : Dev} {q : Nat} (h : (d.wmark q).armed = false) (post : Dev → Nat → List Byte → Dev) :
    Dev.markWith post d q = d.sticky q := by
  unfold Dev.markWith
  simp only
  rw [wmark_sticky]
  simp [h]

/-- An armed watermark whose thresholds are not met stays armed. -/
theorem markWith_between {d : Dev} {q : Nat} (hq : d.flag Reg.queCtrl 0 = true) (hh : d.atHi q = false) (hl : d.atLo q = false)
    (post : Dev → Nat → List Byte → Dev) : Dev.markWith post d q = d.sticky q := by
  unfold Dev.markWith
  simp only
  rw [(sticky_quiet d q).1.flag rfl, hq, hh, hl]
  simp

/-- A watermark that has met a threshold ends disarmed, its notice posted while notices are on. -/
theorem markWith_met {d : Dev} {q : Nat} (ha : (d.wmark q).armed = true) (hq : d.flag Reg.queCtrl 0 = true)
    (hm : (d.atHi q || d.atLo q) = true) (post : Dev → Nat → List Byte → Dev) :
    ∃ detail, Dev.markWith post d q = post ((d.sticky q).modWm q (fun w => { w with armed := false })) q detail := by
  unfold Dev.markWith
  simp only
  rw [(sticky_quiet d q).1.flag rfl, hq, hm, wmark_sticky, ha]
  simp only [Bool.not_true, Bool.false_eq_true, if_false, if_true]
  exact ⟨_, rfl⟩

theorem lossy_markWith (post : Dev → Nat → List Byte → Dev) (k : Nat)
    (hp : ∀ d q b, (post d q b).lossy k = d.lossy k) (d : Dev) (q : Nat) : (Dev.markWith post d q).lossy k = d.lossy k := by
  unfold Dev.markWith
  simp only
  split
  · exact lossy_sticky d q k
  · split
    · rw [lossy_modWm, lossy_sticky]
    · split
      · rw [hp, lossy_modWm, lossy_sticky]
      · exact lossy_sticky d q k

theorem lossy_eventRaw_ne {k : Nat} (h : k ≠ 0) (d : Dev) (mpt code st obj : Nat) (detail : List Byte) :
    (d.eventRaw mpt code st obj detail).lossy k = d.lossy k := by
  unfold Dev.eventRaw
  split
  · exact lossy_pushRaw_ne h _ _
  · rfl

/-- Recording an occupancy touches no queue but the event queue. -/
theorem lossy_mark_ne {k : Nat} (h : k ≠ 0) (d : Dev) (q : Nat) : (d.mark q).lossy k = d.lossy k :=
  lossy_markWith _ k (fun d q b => by
    unfold Dev.notice
    rw [lossy_markWith _ k (fun d q b => lossy_eventRaw_ne h _ _ _ _ _ _), lossy_eventRaw_ne h]) d q

end Sys2Proof.Machine
end

