-- ==== Sys2Proof/Laws/Staging.lean ====
section
/-! SUPPORT. The staging area (16 R404): what a chunk leaves behind. -/

namespace Sys2Proof.Machine

/-- A byte of the staging area after a chunk: the chunk's where it lies in the chunk, and else what was there before. -/
theorem stageWrite_get (bs : List Byte) : ∀ (m : List (Nat × Byte)) (a k : Nat),
    SMap.get (fun _ => (0 : Byte)) k (stageWrite m a bs) =
      if a ≤ k ∧ k < a + bs.length then bs.getD (k - a) 0 else SMap.get (fun _ => 0) k m := by
  induction bs with
  | nil => intro m a k; exact (if_neg (by rw [List.length_nil]; omega)).symm
  | cons b bs ih =>
    intro m a k
    rw [stageWrite, ih]
    by_cases h : a = k
    · subst h; rw [if_neg (by omega), if_pos (by simp)]; simp
    · by_cases hk : a + 1 ≤ k ∧ k < a + 1 + bs.length
      · obtain ⟨j, rfl⟩ : ∃ j, k = a + 1 + j := ⟨k - (a + 1), by omega⟩
        have e : a + 1 + j - a = j + 1 := by omega
        rw [if_pos hk, if_pos ⟨by omega, by simp; omega⟩, e]; simp
      · rw [if_neg hk, if_neg (by simp; omega), SMap.get_set_ne _ (Ne.symm h)]

/-- The bytes of an image staged from its start into an empty staging area are the chunk's. -/
theorem stagedSrc_bytes (d : Dev) (f : Option Nat) (bs : List Byte) (h : d.sec.stage = stageWrite [] 0 bs)
    (hl : d.sec.stageLen = bs.length) : (d.stagedSrc f).bytes = bs := by
  refine List.ext_getElem (by simp [Dev.stagedSrc, hl]) (fun i h1 h2 => ?_)
  simp only [Dev.stagedSrc, List.getElem_map, List.getElem_range, h, stageWrite_get, Nat.zero_le, true_and, Nat.zero_add, Nat.sub_zero]
  simp [h2]

end Sys2Proof.Machine
end

