-- ==== Sys2Proof/Laws/State.lean ====
section
/-! SUPPORT. What an update of one unit leaves: every other field of the device, and every other unit, reads as before. -/

namespace Sys2Proof.Machine

section
variable (d : Dev) (i : Nat) (f : Port → Port)
@[simp] theorem modPort_dev : (d.modPort i f).dev = d.dev := rfl
@[simp] theorem modPort_clk : (d.modPort i f).clk = d.clk := rfl
@[simp] theorem modPort_regs : (d.modPort i f).regs = d.regs := rfl
@[simp] theorem modPort_busOut : (d.modPort i f).busOut = d.busOut := rfl
@[simp] theorem modPort_tb : (d.modPort i f).tb = d.tb := rfl
@[simp] theorem modPort_msync : (d.modPort i f).msync = d.msync := rfl
@[simp] theorem modPort_segPrev : (d.modPort i f).segPrev = d.segPrev := rfl
@[simp] theorem modPort_groups : (d.modPort i f).groups = d.groups := rfl
@[simp] theorem modPort_decs : (d.modPort i f).decs = d.decs := rfl
@[simp] theorem modPort_encs : (d.modPort i f).encs = d.encs := rfl
@[simp] theorem modPort_shadow : (d.modPort i f).shadow = d.shadow := rfl
@[simp] theorem modPort_late : (d.modPort i f).late = d.late := rfl
@[simp] theorem modPort_unit : (d.modPort i f).unit = d.unit := rfl
@[simp] theorem modPort_present : (d.modPort i f).present = d.present := rfl
@[simp] theorem modPort_gaps : (d.modPort i f).gaps = d.gaps := rfl
@[simp] theorem modPort_keys : (d.modPort i f).keys = d.keys := rfl
@[simp] theorem modPort_sets : (d.modPort i f).sets = d.sets := rfl
@[simp] theorem modPort_pins : (d.modPort i f).pins = d.pins := rfl
@[simp] theorem modPort_asked : (d.modPort i f).asked = d.asked := rfl
@[simp] theorem modPort_sess : (d.modPort i f).sess = d.sess := rfl
@[simp] theorem modPort_sndId : (d.modPort i f).sndId = d.sndId := rfl
@[simp] theorem modPort_nodes : (d.modPort i f).nodes = d.nodes := rfl
@[simp] theorem modPort_routes : (d.modPort i f).routes = d.routes := rfl
@[simp] theorem modPort_policy : (d.modPort i f).policy = d.policy := rfl
@[simp] theorem modPort_fwd : (d.modPort i f).fwd = d.fwd := rfl
@[simp] theorem modPort_fwdWait : (d.modPort i f).fwdWait = d.fwdWait := rfl
@[simp] theorem modPort_meas : (d.modPort i f).meas = d.meas := rfl
@[simp] theorem modPort_swo : (d.modPort i f).swo = d.swo := rfl
@[simp] theorem modPort_swoLvl : (d.modPort i f).swoLvl = d.swoLvl := rfl
@[simp] theorem modPort_swoHiZ : (d.modPort i f).swoHiZ = d.swoHiZ := rfl
@[simp] theorem modPort_fns : (d.modPort i f).fns = d.fns := rfl
@[simp] theorem modPort_vfEn : (d.modPort i f).vfEn = d.vfEn := rfl
@[simp] theorem modPort_numVfs : (d.modPort i f).numVfs = d.numVfs := rfl
@[simp] theorem modPort_rings : (d.modPort i f).rings = d.rings := rfl
@[simp] theorem modPort_cmds : (d.modPort i f).cmds = d.cmds := rfl
@[simp] theorem modPort_nextId : (d.modPort i f).nextId = d.nextId := rfl
@[simp] theorem modPort_capts : (d.modPort i f).capts = d.capts := rfl
@[simp] theorem modPort_ques : (d.modPort i f).ques = d.ques := rfl
@[simp] theorem modPort_eseq : (d.modPort i f).eseq = d.eseq := rfl
@[simp] theorem modPort_cvus : (d.modPort i f).cvus = d.cvus := rfl
@[simp] theorem modPort_sec : (d.modPort i f).sec = d.sec := rfl
@[simp] theorem modPort_cnts : (d.modPort i f).cnts = d.cnts := rfl
@[simp] theorem modPort_mnt : (d.modPort i f).mnt = d.mnt := rfl
@[simp] theorem modPort_pwr : (d.modPort i f).pwr = d.pwr := rfl
@[simp] theorem modPort_jtag : (d.modPort i f).jtag = d.jtag := rfl
@[simp] theorem modPort_freeCtr : (d.modPort i f).freeCtr = d.freeCtr := rfl
@[simp] theorem modPort_posted : (d.modPort i f).posted = d.posted := rfl
@[simp] theorem modPort_group (k : Nat) : (d.modPort i f).group k = d.group k := rfl
@[simp] theorem modPort_dec (k : Nat) : (d.modPort i f).dec k = d.dec k := rfl
@[simp] theorem modPort_enc (k : Nat) : (d.modPort i f).enc k = d.enc k := rfl
@[simp] theorem modPort_node (k : Nat) : (d.modPort i f).node k = d.node k := rfl
@[simp] theorem modPort_fn (k : Nat) : (d.modPort i f).fn k = d.fn k := rfl
@[simp] theorem modPort_ring (k : Nat) : (d.modPort i f).ring k = d.ring k := rfl
@[simp] theorem modPort_cvu (k : Nat) : (d.modPort i f).cvu k = d.cvu k := rfl
@[simp] theorem modPort_key (k : Nat) : (d.modPort i f).key k = d.key k := rfl
@[simp] theorem modPort_mapSet (k : Nat) : (d.modPort i f).mapSet k = d.mapSet k := rfl
@[simp] theorem modPort_mset (k : Nat) : (d.modPort i f).mset k = d.mset k := rfl
@[simp] theorem modPort_lossy (k : Nat) : (d.modPort i f).lossy k = d.lossy k := rfl
@[simp] theorem modPort_acct (k : Nat) : (d.modPort i f).acct k = d.acct k := rfl
@[simp] theorem modPort_wmark (k : Nat) : (d.modPort i f).wmark k = d.wmark k := rfl
@[simp] theorem modPort_counter (k : Nat) : (d.modPort i f).counter k = d.counter k := rfl
@[simp] theorem modPort_reg (k : Nat) : (d.modPort i f).reg k = d.reg k := rfl
@[simp] theorem modPort_fld (o hi lo : Nat) : (d.modPort i f).fld o hi lo = d.fld o hi lo := rfl
@[simp] theorem modPort_flag (o b : Nat) : (d.modPort i f).flag o b = d.flag o b := rfl
@[simp] theorem modPort_mpt : (d.modPort i f).mpt = d.mpt := rfl
@[simp] theorem modPort_bpPhase : (d.modPort i f).bpPhase = d.bpPhase := rfl
end

section
variable (d : Dev) (i : Nat) (f : Group → Group)
@[simp] theorem modGroup_dev : (d.modGroup i f).dev = d.dev := rfl
@[simp] theorem modGroup_clk : (d.modGroup i f).clk = d.clk := rfl
@[simp] theorem modGroup_regs : (d.modGroup i f).regs = d.regs := rfl
@[simp] theorem modGroup_busOut : (d.modGroup i f).busOut = d.busOut := rfl
@[simp] theorem modGroup_tb : (d.modGroup i f).tb = d.tb := rfl
@[simp] theorem modGroup_msync : (d.modGroup i f).msync = d.msync := rfl
@[simp] theorem modGroup_segPrev : (d.modGroup i f).segPrev = d.segPrev := rfl
@[simp] theorem modGroup_ports : (d.modGroup i f).ports = d.ports := rfl
@[simp] theorem modGroup_decs : (d.modGroup i f).decs = d.decs := rfl
@[simp] theorem modGroup_encs : (d.modGroup i f).encs = d.encs := rfl
@[simp] theorem modGroup_shadow : (d.modGroup i f).shadow = d.shadow := rfl
@[simp] theorem modGroup_late : (d.modGroup i f).late = d.late := rfl
@[simp] theorem modGroup_unit : (d.modGroup i f).unit = d.unit := rfl
@[simp] theorem modGroup_present : (d.modGroup i f).present = d.present := rfl
@[simp] theorem modGroup_gaps : (d.modGroup i f).gaps = d.gaps := rfl
@[simp] theorem modGroup_keys : (d.modGroup i f).keys = d.keys := rfl
@[simp] theorem modGroup_sets : (d.modGroup i f).sets = d.sets := rfl
@[simp] theorem modGroup_pins : (d.modGroup i f).pins = d.pins := rfl
@[simp] theorem modGroup_asked : (d.modGroup i f).asked = d.asked := rfl
@[simp] theorem modGroup_sess : (d.modGroup i f).sess = d.sess := rfl
@[simp] theorem modGroup_sndId : (d.modGroup i f).sndId = d.sndId := rfl
@[simp] theorem modGroup_nodes : (d.modGroup i f).nodes = d.nodes := rfl
@[simp] theorem modGroup_routes : (d.modGroup i f).routes = d.routes := rfl
@[simp] theorem modGroup_policy : (d.modGroup i f).policy = d.policy := rfl
@[simp] theorem modGroup_fwd : (d.modGroup i f).fwd = d.fwd := rfl
@[simp] theorem modGroup_fwdWait : (d.modGroup i f).fwdWait = d.fwdWait := rfl
@[simp] theorem modGroup_meas : (d.modGroup i f).meas = d.meas := rfl
@[simp] theorem modGroup_swo : (d.modGroup i f).swo = d.swo := rfl
@[simp] theorem modGroup_swoLvl : (d.modGroup i f).swoLvl = d.swoLvl := rfl
@[simp] theorem modGroup_swoHiZ : (d.modGroup i f).swoHiZ = d.swoHiZ := rfl
@[simp] theorem modGroup_fns : (d.modGroup i f).fns = d.fns := rfl
@[simp] theorem modGroup_vfEn : (d.modGroup i f).vfEn = d.vfEn := rfl
@[simp] theorem modGroup_numVfs : (d.modGroup i f).numVfs = d.numVfs := rfl
@[simp] theorem modGroup_rings : (d.modGroup i f).rings = d.rings := rfl
@[simp] theorem modGroup_cmds : (d.modGroup i f).cmds = d.cmds := rfl
@[simp] theorem modGroup_nextId : (d.modGroup i f).nextId = d.nextId := rfl
@[simp] theorem modGroup_capts : (d.modGroup i f).capts = d.capts := rfl
@[simp] theorem modGroup_ques : (d.modGroup i f).ques = d.ques := rfl
@[simp] theorem modGroup_eseq : (d.modGroup i f).eseq = d.eseq := rfl
@[simp] theorem modGroup_cvus : (d.modGroup i f).cvus = d.cvus := rfl
@[simp] theorem modGroup_sec : (d.modGroup i f).sec = d.sec := rfl
@[simp] theorem modGroup_cnts : (d.modGroup i f).cnts = d.cnts := rfl
@[simp] theorem modGroup_mnt : (d.modGroup i f).mnt = d.mnt := rfl
@[simp] theorem modGroup_pwr : (d.modGroup i f).pwr = d.pwr := rfl
@[simp] theorem modGroup_jtag : (d.modGroup i f).jtag = d.jtag := rfl
@[simp] theorem modGroup_freeCtr : (d.modGroup i f).freeCtr = d.freeCtr := rfl
@[simp] theorem modGroup_posted : (d.modGroup i f).posted = d.posted := rfl
@[simp] theorem modGroup_port (k : Nat) : (d.modGroup i f).port k = d.port k := rfl
@[simp] theorem modGroup_dec (k : Nat) : (d.modGroup i f).dec k = d.dec k := rfl
@[simp] theorem modGroup_enc (k : Nat) : (d.modGroup i f).enc k = d.enc k := rfl
@[simp] theorem modGroup_node (k : Nat) : (d.modGroup i f).node k = d.node k := rfl
@[simp] theorem modGroup_fn (k : Nat) : (d.modGroup i f).fn k = d.fn k := rfl
@[simp] theorem modGroup_ring (k : Nat) : (d.modGroup i f).ring k = d.ring k := rfl
@[simp] theorem modGroup_cvu (k : Nat) : (d.modGroup i f).cvu k = d.cvu k := rfl
@[simp] theorem modGroup_key (k : Nat) : (d.modGroup i f).key k = d.key k := rfl
@[simp] theorem modGroup_mapSet (k : Nat) : (d.modGroup i f).mapSet k = d.mapSet k := rfl
@[simp] theorem modGroup_mset (k : Nat) : (d.modGroup i f).mset k = d.mset k := rfl
@[simp] theorem modGroup_lossy (k : Nat) : (d.modGroup i f).lossy k = d.lossy k := rfl
@[simp] theorem modGroup_acct (k : Nat) : (d.modGroup i f).acct k = d.acct k := rfl
@[simp] theorem modGroup_wmark (k : Nat) : (d.modGroup i f).wmark k = d.wmark k := rfl
@[simp] theorem modGroup_counter (k : Nat) : (d.modGroup i f).counter k = d.counter k := rfl
@[simp] theorem modGroup_reg (k : Nat) : (d.modGroup i f).reg k = d.reg k := rfl
@[simp] theorem modGroup_fld (o hi lo : Nat) : (d.modGroup i f).fld o hi lo = d.fld o hi lo := rfl
@[simp] theorem modGroup_flag (o b : Nat) : (d.modGroup i f).flag o b = d.flag o b := rfl
@[simp] theorem modGroup_mpt : (d.modGroup i f).mpt = d.mpt := rfl
@[simp] theorem modGroup_bpPhase : (d.modGroup i f).bpPhase = d.bpPhase := rfl
end

section
variable (d : Dev) (i : Nat) (f : DecLane → DecLane)
@[simp] theorem modDec_dev : (d.modDec i f).dev = d.dev := rfl
@[simp] theorem modDec_clk : (d.modDec i f).clk = d.clk := rfl
@[simp] theorem modDec_regs : (d.modDec i f).regs = d.regs := rfl
@[simp] theorem modDec_busOut : (d.modDec i f).busOut = d.busOut := rfl
@[simp] theorem modDec_tb : (d.modDec i f).tb = d.tb := rfl
@[simp] theorem modDec_msync : (d.modDec i f).msync = d.msync := rfl
@[simp] theorem modDec_segPrev : (d.modDec i f).segPrev = d.segPrev := rfl
@[simp] theorem modDec_ports : (d.modDec i f).ports = d.ports := rfl
@[simp] theorem modDec_groups : (d.modDec i f).groups = d.groups := rfl
@[simp] theorem modDec_encs : (d.modDec i f).encs = d.encs := rfl
@[simp] theorem modDec_shadow : (d.modDec i f).shadow = d.shadow := rfl
@[simp] theorem modDec_late : (d.modDec i f).late = d.late := rfl
@[simp] theorem modDec_unit : (d.modDec i f).unit = d.unit := rfl
@[simp] theorem modDec_present : (d.modDec i f).present = d.present := rfl
@[simp] theorem modDec_gaps : (d.modDec i f).gaps = d.gaps := rfl
@[simp] theorem modDec_keys : (d.modDec i f).keys = d.keys := rfl
@[simp] theorem modDec_sets : (d.modDec i f).sets = d.sets := rfl
@[simp] theorem modDec_pins : (d.modDec i f).pins = d.pins := rfl
@[simp] theorem modDec_asked : (d.modDec i f).asked = d.asked := rfl
@[simp] theorem modDec_sess : (d.modDec i f).sess = d.sess := rfl
@[simp] theorem modDec_sndId : (d.modDec i f).sndId = d.sndId := rfl
@[simp] theorem modDec_nodes : (d.modDec i f).nodes = d.nodes := rfl
@[simp] theorem modDec_routes : (d.modDec i f).routes = d.routes := rfl
@[simp] theorem modDec_policy : (d.modDec i f).policy = d.policy := rfl
@[simp] theorem modDec_fwd : (d.modDec i f).fwd = d.fwd := rfl
@[simp] theorem modDec_fwdWait : (d.modDec i f).fwdWait = d.fwdWait := rfl
@[simp] theorem modDec_meas : (d.modDec i f).meas = d.meas := rfl
@[simp] theorem modDec_swo : (d.modDec i f).swo = d.swo := rfl
@[simp] theorem modDec_swoLvl : (d.modDec i f).swoLvl = d.swoLvl := rfl
@[simp] theorem modDec_swoHiZ : (d.modDec i f).swoHiZ = d.swoHiZ := rfl
@[simp] theorem modDec_fns : (d.modDec i f).fns = d.fns := rfl
@[simp] theorem modDec_vfEn : (d.modDec i f).vfEn = d.vfEn := rfl
@[simp] theorem modDec_numVfs : (d.modDec i f).numVfs = d.numVfs := rfl
@[simp] theorem modDec_rings : (d.modDec i f).rings = d.rings := rfl
@[simp] theorem modDec_cmds : (d.modDec i f).cmds = d.cmds := rfl
@[simp] theorem modDec_nextId : (d.modDec i f).nextId = d.nextId := rfl
@[simp] theorem modDec_capts : (d.modDec i f).capts = d.capts := rfl
@[simp] theorem modDec_ques : (d.modDec i f).ques = d.ques := rfl
@[simp] theorem modDec_eseq : (d.modDec i f).eseq = d.eseq := rfl
@[simp] theorem modDec_cvus : (d.modDec i f).cvus = d.cvus := rfl
@[simp] theorem modDec_sec : (d.modDec i f).sec = d.sec := rfl
@[simp] theorem modDec_cnts : (d.modDec i f).cnts = d.cnts := rfl
@[simp] theorem modDec_mnt : (d.modDec i f).mnt = d.mnt := rfl
@[simp] theorem modDec_pwr : (d.modDec i f).pwr = d.pwr := rfl
@[simp] theorem modDec_jtag : (d.modDec i f).jtag = d.jtag := rfl
@[simp] theorem modDec_freeCtr : (d.modDec i f).freeCtr = d.freeCtr := rfl
@[simp] theorem modDec_posted : (d.modDec i f).posted = d.posted := rfl
@[simp] theorem modDec_port (k : Nat) : (d.modDec i f).port k = d.port k := rfl
@[simp] theorem modDec_group (k : Nat) : (d.modDec i f).group k = d.group k := rfl
@[simp] theorem modDec_enc (k : Nat) : (d.modDec i f).enc k = d.enc k := rfl
@[simp] theorem modDec_node (k : Nat) : (d.modDec i f).node k = d.node k := rfl
@[simp] theorem modDec_fn (k : Nat) : (d.modDec i f).fn k = d.fn k := rfl
@[simp] theorem modDec_ring (k : Nat) : (d.modDec i f).ring k = d.ring k := rfl
@[simp] theorem modDec_cvu (k : Nat) : (d.modDec i f).cvu k = d.cvu k := rfl
@[simp] theorem modDec_key (k : Nat) : (d.modDec i f).key k = d.key k := rfl
@[simp] theorem modDec_mapSet (k : Nat) : (d.modDec i f).mapSet k = d.mapSet k := rfl
@[simp] theorem modDec_mset (k : Nat) : (d.modDec i f).mset k = d.mset k := rfl
@[simp] theorem modDec_lossy (k : Nat) : (d.modDec i f).lossy k = d.lossy k := rfl
@[simp] theorem modDec_acct (k : Nat) : (d.modDec i f).acct k = d.acct k := rfl
@[simp] theorem modDec_wmark (k : Nat) : (d.modDec i f).wmark k = d.wmark k := rfl
@[simp] theorem modDec_counter (k : Nat) : (d.modDec i f).counter k = d.counter k := rfl
@[simp] theorem modDec_reg (k : Nat) : (d.modDec i f).reg k = d.reg k := rfl
@[simp] theorem modDec_fld (o hi lo : Nat) : (d.modDec i f).fld o hi lo = d.fld o hi lo := rfl
@[simp] theorem modDec_flag (o b : Nat) : (d.modDec i f).flag o b = d.flag o b := rfl
@[simp] theorem modDec_mpt : (d.modDec i f).mpt = d.mpt := rfl
@[simp] theorem modDec_bpPhase : (d.modDec i f).bpPhase = d.bpPhase := rfl
end

section
variable (d : Dev) (i : Nat) (f : EncLane → EncLane)
@[simp] theorem modEnc_dev : (d.modEnc i f).dev = d.dev := rfl
@[simp] theorem modEnc_clk : (d.modEnc i f).clk = d.clk := rfl
@[simp] theorem modEnc_regs : (d.modEnc i f).regs = d.regs := rfl
@[simp] theorem modEnc_busOut : (d.modEnc i f).busOut = d.busOut := rfl
@[simp] theorem modEnc_tb : (d.modEnc i f).tb = d.tb := rfl
@[simp] theorem modEnc_msync : (d.modEnc i f).msync = d.msync := rfl
@[simp] theorem modEnc_segPrev : (d.modEnc i f).segPrev = d.segPrev := rfl
@[simp] theorem modEnc_ports : (d.modEnc i f).ports = d.ports := rfl
@[simp] theorem modEnc_groups : (d.modEnc i f).groups = d.groups := rfl
@[simp] theorem modEnc_decs : (d.modEnc i f).decs = d.decs := rfl
@[simp] theorem modEnc_shadow : (d.modEnc i f).shadow = d.shadow := rfl
@[simp] theorem modEnc_late : (d.modEnc i f).late = d.late := rfl
@[simp] theorem modEnc_unit : (d.modEnc i f).unit = d.unit := rfl
@[simp] theorem modEnc_present : (d.modEnc i f).present = d.present := rfl
@[simp] theorem modEnc_gaps : (d.modEnc i f).gaps = d.gaps := rfl
@[simp] theorem modEnc_keys : (d.modEnc i f).keys = d.keys := rfl
@[simp] theorem modEnc_sets : (d.modEnc i f).sets = d.sets := rfl
@[simp] theorem modEnc_pins : (d.modEnc i f).pins = d.pins := rfl
@[simp] theorem modEnc_asked : (d.modEnc i f).asked = d.asked := rfl
@[simp] theorem modEnc_sess : (d.modEnc i f).sess = d.sess := rfl
@[simp] theorem modEnc_sndId : (d.modEnc i f).sndId = d.sndId := rfl
@[simp] theorem modEnc_nodes : (d.modEnc i f).nodes = d.nodes := rfl
@[simp] theorem modEnc_routes : (d.modEnc i f).routes = d.routes := rfl
@[simp] theorem modEnc_policy : (d.modEnc i f).policy = d.policy := rfl
@[simp] theorem modEnc_fwd : (d.modEnc i f).fwd = d.fwd := rfl
@[simp] theorem modEnc_fwdWait : (d.modEnc i f).fwdWait = d.fwdWait := rfl
@[simp] theorem modEnc_meas : (d.modEnc i f).meas = d.meas := rfl
@[simp] theorem modEnc_swo : (d.modEnc i f).swo = d.swo := rfl
@[simp] theorem modEnc_swoLvl : (d.modEnc i f).swoLvl = d.swoLvl := rfl
@[simp] theorem modEnc_swoHiZ : (d.modEnc i f).swoHiZ = d.swoHiZ := rfl
@[simp] theorem modEnc_fns : (d.modEnc i f).fns = d.fns := rfl
@[simp] theorem modEnc_vfEn : (d.modEnc i f).vfEn = d.vfEn := rfl
@[simp] theorem modEnc_numVfs : (d.modEnc i f).numVfs = d.numVfs := rfl
@[simp] theorem modEnc_rings : (d.modEnc i f).rings = d.rings := rfl
@[simp] theorem modEnc_cmds : (d.modEnc i f).cmds = d.cmds := rfl
@[simp] theorem modEnc_nextId : (d.modEnc i f).nextId = d.nextId := rfl
@[simp] theorem modEnc_capts : (d.modEnc i f).capts = d.capts := rfl
@[simp] theorem modEnc_ques : (d.modEnc i f).ques = d.ques := rfl
@[simp] theorem modEnc_eseq : (d.modEnc i f).eseq = d.eseq := rfl
@[simp] theorem modEnc_cvus : (d.modEnc i f).cvus = d.cvus := rfl
@[simp] theorem modEnc_sec : (d.modEnc i f).sec = d.sec := rfl
@[simp] theorem modEnc_cnts : (d.modEnc i f).cnts = d.cnts := rfl
@[simp] theorem modEnc_mnt : (d.modEnc i f).mnt = d.mnt := rfl
@[simp] theorem modEnc_pwr : (d.modEnc i f).pwr = d.pwr := rfl
@[simp] theorem modEnc_jtag : (d.modEnc i f).jtag = d.jtag := rfl
@[simp] theorem modEnc_freeCtr : (d.modEnc i f).freeCtr = d.freeCtr := rfl
@[simp] theorem modEnc_posted : (d.modEnc i f).posted = d.posted := rfl
@[simp] theorem modEnc_port (k : Nat) : (d.modEnc i f).port k = d.port k := rfl
@[simp] theorem modEnc_group (k : Nat) : (d.modEnc i f).group k = d.group k := rfl
@[simp] theorem modEnc_dec (k : Nat) : (d.modEnc i f).dec k = d.dec k := rfl
@[simp] theorem modEnc_node (k : Nat) : (d.modEnc i f).node k = d.node k := rfl
@[simp] theorem modEnc_fn (k : Nat) : (d.modEnc i f).fn k = d.fn k := rfl
@[simp] theorem modEnc_ring (k : Nat) : (d.modEnc i f).ring k = d.ring k := rfl
@[simp] theorem modEnc_cvu (k : Nat) : (d.modEnc i f).cvu k = d.cvu k := rfl
@[simp] theorem modEnc_key (k : Nat) : (d.modEnc i f).key k = d.key k := rfl
@[simp] theorem modEnc_mapSet (k : Nat) : (d.modEnc i f).mapSet k = d.mapSet k := rfl
@[simp] theorem modEnc_mset (k : Nat) : (d.modEnc i f).mset k = d.mset k := rfl
@[simp] theorem modEnc_lossy (k : Nat) : (d.modEnc i f).lossy k = d.lossy k := rfl
@[simp] theorem modEnc_acct (k : Nat) : (d.modEnc i f).acct k = d.acct k := rfl
@[simp] theorem modEnc_wmark (k : Nat) : (d.modEnc i f).wmark k = d.wmark k := rfl
@[simp] theorem modEnc_counter (k : Nat) : (d.modEnc i f).counter k = d.counter k := rfl
@[simp] theorem modEnc_reg (k : Nat) : (d.modEnc i f).reg k = d.reg k := rfl
@[simp] theorem modEnc_fld (o hi lo : Nat) : (d.modEnc i f).fld o hi lo = d.fld o hi lo := rfl
@[simp] theorem modEnc_flag (o b : Nat) : (d.modEnc i f).flag o b = d.flag o b := rfl
@[simp] theorem modEnc_mpt : (d.modEnc i f).mpt = d.mpt := rfl
@[simp] theorem modEnc_bpPhase : (d.modEnc i f).bpPhase = d.bpPhase := rfl
end

section
variable (d : Dev) (i : Nat) (f : Node → Node)
@[simp] theorem modNode_dev : (d.modNode i f).dev = d.dev := rfl
@[simp] theorem modNode_clk : (d.modNode i f).clk = d.clk := rfl
@[simp] theorem modNode_regs : (d.modNode i f).regs = d.regs := rfl
@[simp] theorem modNode_busOut : (d.modNode i f).busOut = d.busOut := rfl
@[simp] theorem modNode_tb : (d.modNode i f).tb = d.tb := rfl
@[simp] theorem modNode_msync : (d.modNode i f).msync = d.msync := rfl
@[simp] theorem modNode_segPrev : (d.modNode i f).segPrev = d.segPrev := rfl
@[simp] theorem modNode_ports : (d.modNode i f).ports = d.ports := rfl
@[simp] theorem modNode_groups : (d.modNode i f).groups = d.groups := rfl
@[simp] theorem modNode_decs : (d.modNode i f).decs = d.decs := rfl
@[simp] theorem modNode_encs : (d.modNode i f).encs = d.encs := rfl
@[simp] theorem modNode_shadow : (d.modNode i f).shadow = d.shadow := rfl
@[simp] theorem modNode_late : (d.modNode i f).late = d.late := rfl
@[simp] theorem modNode_unit : (d.modNode i f).unit = d.unit := rfl
@[simp] theorem modNode_present : (d.modNode i f).present = d.present := rfl
@[simp] theorem modNode_gaps : (d.modNode i f).gaps = d.gaps := rfl
@[simp] theorem modNode_keys : (d.modNode i f).keys = d.keys := rfl
@[simp] theorem modNode_sets : (d.modNode i f).sets = d.sets := rfl
@[simp] theorem modNode_pins : (d.modNode i f).pins = d.pins := rfl
@[simp] theorem modNode_asked : (d.modNode i f).asked = d.asked := rfl
@[simp] theorem modNode_sess : (d.modNode i f).sess = d.sess := rfl
@[simp] theorem modNode_sndId : (d.modNode i f).sndId = d.sndId := rfl
@[simp] theorem modNode_routes : (d.modNode i f).routes = d.routes := rfl
@[simp] theorem modNode_policy : (d.modNode i f).policy = d.policy := rfl
@[simp] theorem modNode_fwd : (d.modNode i f).fwd = d.fwd := rfl
@[simp] theorem modNode_fwdWait : (d.modNode i f).fwdWait = d.fwdWait := rfl
@[simp] theorem modNode_meas : (d.modNode i f).meas = d.meas := rfl
@[simp] theorem modNode_swo : (d.modNode i f).swo = d.swo := rfl
@[simp] theorem modNode_swoLvl : (d.modNode i f).swoLvl = d.swoLvl := rfl
@[simp] theorem modNode_swoHiZ : (d.modNode i f).swoHiZ = d.swoHiZ := rfl
@[simp] theorem modNode_fns : (d.modNode i f).fns = d.fns := rfl
@[simp] theorem modNode_vfEn : (d.modNode i f).vfEn = d.vfEn := rfl
@[simp] theorem modNode_numVfs : (d.modNode i f).numVfs = d.numVfs := rfl
@[simp] theorem modNode_rings : (d.modNode i f).rings = d.rings := rfl
@[simp] theorem modNode_cmds : (d.modNode i f).cmds = d.cmds := rfl
@[simp] theorem modNode_nextId : (d.modNode i f).nextId = d.nextId := rfl
@[simp] theorem modNode_capts : (d.modNode i f).capts = d.capts := rfl
@[simp] theorem modNode_ques : (d.modNode i f).ques = d.ques := rfl
@[simp] theorem modNode_eseq : (d.modNode i f).eseq = d.eseq := rfl
@[simp] theorem modNode_cvus : (d.modNode i f).cvus = d.cvus := rfl
@[simp] theorem modNode_sec : (d.modNode i f).sec = d.sec := rfl
@[simp] theorem modNode_cnts : (d.modNode i f).cnts = d.cnts := rfl
@[simp] theorem modNode_mnt : (d.modNode i f).mnt = d.mnt := rfl
@[simp] theorem modNode_pwr : (d.modNode i f).pwr = d.pwr := rfl
@[simp] theorem modNode_jtag : (d.modNode i f).jtag = d.jtag := rfl
@[simp] theorem modNode_freeCtr : (d.modNode i f).freeCtr = d.freeCtr := rfl
@[simp] theorem modNode_posted : (d.modNode i f).posted = d.posted := rfl
@[simp] theorem modNode_port (k : Nat) : (d.modNode i f).port k = d.port k := rfl
@[simp] theorem modNode_group (k : Nat) : (d.modNode i f).group k = d.group k := rfl
@[simp] theorem modNode_dec (k : Nat) : (d.modNode i f).dec k = d.dec k := rfl
@[simp] theorem modNode_enc (k : Nat) : (d.modNode i f).enc k = d.enc k := rfl
@[simp] theorem modNode_fn (k : Nat) : (d.modNode i f).fn k = d.fn k := rfl
@[simp] theorem modNode_ring (k : Nat) : (d.modNode i f).ring k = d.ring k := rfl
@[simp] theorem modNode_cvu (k : Nat) : (d.modNode i f).cvu k = d.cvu k := rfl
@[simp] theorem modNode_key (k : Nat) : (d.modNode i f).key k = d.key k := rfl
@[simp] theorem modNode_mapSet (k : Nat) : (d.modNode i f).mapSet k = d.mapSet k := rfl
@[simp] theorem modNode_mset (k : Nat) : (d.modNode i f).mset k = d.mset k := rfl
@[simp] theorem modNode_lossy (k : Nat) : (d.modNode i f).lossy k = d.lossy k := rfl
@[simp] theorem modNode_acct (k : Nat) : (d.modNode i f).acct k = d.acct k := rfl
@[simp] theorem modNode_wmark (k : Nat) : (d.modNode i f).wmark k = d.wmark k := rfl
@[simp] theorem modNode_counter (k : Nat) : (d.modNode i f).counter k = d.counter k := rfl
@[simp] theorem modNode_reg (k : Nat) : (d.modNode i f).reg k = d.reg k := rfl
@[simp] theorem modNode_fld (o hi lo : Nat) : (d.modNode i f).fld o hi lo = d.fld o hi lo := rfl
@[simp] theorem modNode_flag (o b : Nat) : (d.modNode i f).flag o b = d.flag o b := rfl
@[simp] theorem modNode_mpt : (d.modNode i f).mpt = d.mpt := rfl
@[simp] theorem modNode_bpPhase : (d.modNode i f).bpPhase = d.bpPhase := rfl
end

section
variable (d : Dev) (i : Nat) (f : Fn → Fn)
@[simp] theorem modFn_dev : (d.modFn i f).dev = d.dev := rfl
@[simp] theorem modFn_clk : (d.modFn i f).clk = d.clk := rfl
@[simp] theorem modFn_regs : (d.modFn i f).regs = d.regs := rfl
@[simp] theorem modFn_busOut : (d.modFn i f).busOut = d.busOut := rfl
@[simp] theorem modFn_tb : (d.modFn i f).tb = d.tb := rfl
@[simp] theorem modFn_msync : (d.modFn i f).msync = d.msync := rfl
@[simp] theorem modFn_segPrev : (d.modFn i f).segPrev = d.segPrev := rfl
@[simp] theorem modFn_ports : (d.modFn i f).ports = d.ports := rfl
@[simp] theorem modFn_groups : (d.modFn i f).groups = d.groups := rfl
@[simp] theorem modFn_decs : (d.modFn i f).decs = d.decs := rfl
@[simp] theorem modFn_encs : (d.modFn i f).encs = d.encs := rfl
@[simp] theorem modFn_shadow : (d.modFn i f).shadow = d.shadow := rfl
@[simp] theorem modFn_late : (d.modFn i f).late = d.late := rfl
@[simp] theorem modFn_unit : (d.modFn i f).unit = d.unit := rfl
@[simp] theorem modFn_present : (d.modFn i f).present = d.present := rfl
@[simp] theorem modFn_gaps : (d.modFn i f).gaps = d.gaps := rfl
@[simp] theorem modFn_keys : (d.modFn i f).keys = d.keys := rfl
@[simp] theorem modFn_sets : (d.modFn i f).sets = d.sets := rfl
@[simp] theorem modFn_pins : (d.modFn i f).pins = d.pins := rfl
@[simp] theorem modFn_asked : (d.modFn i f).asked = d.asked := rfl
@[simp] theorem modFn_sess : (d.modFn i f).sess = d.sess := rfl
@[simp] theorem modFn_sndId : (d.modFn i f).sndId = d.sndId := rfl
@[simp] theorem modFn_nodes : (d.modFn i f).nodes = d.nodes := rfl
@[simp] theorem modFn_routes : (d.modFn i f).routes = d.routes := rfl
@[simp] theorem modFn_policy : (d.modFn i f).policy = d.policy := rfl
@[simp] theorem modFn_fwd : (d.modFn i f).fwd = d.fwd := rfl
@[simp] theorem modFn_fwdWait : (d.modFn i f).fwdWait = d.fwdWait := rfl
@[simp] theorem modFn_meas : (d.modFn i f).meas = d.meas := rfl
@[simp] theorem modFn_swo : (d.modFn i f).swo = d.swo := rfl
@[simp] theorem modFn_swoLvl : (d.modFn i f).swoLvl = d.swoLvl := rfl
@[simp] theorem modFn_swoHiZ : (d.modFn i f).swoHiZ = d.swoHiZ := rfl
@[simp] theorem modFn_vfEn : (d.modFn i f).vfEn = d.vfEn := rfl
@[simp] theorem modFn_numVfs : (d.modFn i f).numVfs = d.numVfs := rfl
@[simp] theorem modFn_rings : (d.modFn i f).rings = d.rings := rfl
@[simp] theorem modFn_cmds : (d.modFn i f).cmds = d.cmds := rfl
@[simp] theorem modFn_nextId : (d.modFn i f).nextId = d.nextId := rfl
@[simp] theorem modFn_capts : (d.modFn i f).capts = d.capts := rfl
@[simp] theorem modFn_ques : (d.modFn i f).ques = d.ques := rfl
@[simp] theorem modFn_eseq : (d.modFn i f).eseq = d.eseq := rfl
@[simp] theorem modFn_cvus : (d.modFn i f).cvus = d.cvus := rfl
@[simp] theorem modFn_sec : (d.modFn i f).sec = d.sec := rfl
@[simp] theorem modFn_cnts : (d.modFn i f).cnts = d.cnts := rfl
@[simp] theorem modFn_mnt : (d.modFn i f).mnt = d.mnt := rfl
@[simp] theorem modFn_pwr : (d.modFn i f).pwr = d.pwr := rfl
@[simp] theorem modFn_jtag : (d.modFn i f).jtag = d.jtag := rfl
@[simp] theorem modFn_freeCtr : (d.modFn i f).freeCtr = d.freeCtr := rfl
@[simp] theorem modFn_posted : (d.modFn i f).posted = d.posted := rfl
@[simp] theorem modFn_port (k : Nat) : (d.modFn i f).port k = d.port k := rfl
@[simp] theorem modFn_group (k : Nat) : (d.modFn i f).group k = d.group k := rfl
@[simp] theorem modFn_dec (k : Nat) : (d.modFn i f).dec k = d.dec k := rfl
@[simp] theorem modFn_enc (k : Nat) : (d.modFn i f).enc k = d.enc k := rfl
@[simp] theorem modFn_node (k : Nat) : (d.modFn i f).node k = d.node k := rfl
@[simp] theorem modFn_ring (k : Nat) : (d.modFn i f).ring k = d.ring k := rfl
@[simp] theorem modFn_cvu (k : Nat) : (d.modFn i f).cvu k = d.cvu k := rfl
@[simp] theorem modFn_key (k : Nat) : (d.modFn i f).key k = d.key k := rfl
@[simp] theorem modFn_mapSet (k : Nat) : (d.modFn i f).mapSet k = d.mapSet k := rfl
@[simp] theorem modFn_mset (k : Nat) : (d.modFn i f).mset k = d.mset k := rfl
@[simp] theorem modFn_lossy (k : Nat) : (d.modFn i f).lossy k = d.lossy k := rfl
@[simp] theorem modFn_acct (k : Nat) : (d.modFn i f).acct k = d.acct k := rfl
@[simp] theorem modFn_wmark (k : Nat) : (d.modFn i f).wmark k = d.wmark k := rfl
@[simp] theorem modFn_counter (k : Nat) : (d.modFn i f).counter k = d.counter k := rfl
@[simp] theorem modFn_reg (k : Nat) : (d.modFn i f).reg k = d.reg k := rfl
@[simp] theorem modFn_fld (o hi lo : Nat) : (d.modFn i f).fld o hi lo = d.fld o hi lo := rfl
@[simp] theorem modFn_flag (o b : Nat) : (d.modFn i f).flag o b = d.flag o b := rfl
@[simp] theorem modFn_mpt : (d.modFn i f).mpt = d.mpt := rfl
@[simp] theorem modFn_bpPhase : (d.modFn i f).bpPhase = d.bpPhase := rfl
end

section
variable (d : Dev) (i : Nat) (f : Ring → Ring)
@[simp] theorem modRing_dev : (d.modRing i f).dev = d.dev := rfl
@[simp] theorem modRing_clk : (d.modRing i f).clk = d.clk := rfl
@[simp] theorem modRing_regs : (d.modRing i f).regs = d.regs := rfl
@[simp] theorem modRing_busOut : (d.modRing i f).busOut = d.busOut := rfl
@[simp] theorem modRing_tb : (d.modRing i f).tb = d.tb := rfl
@[simp] theorem modRing_msync : (d.modRing i f).msync = d.msync := rfl
@[simp] theorem modRing_segPrev : (d.modRing i f).segPrev = d.segPrev := rfl
@[simp] theorem modRing_ports : (d.modRing i f).ports = d.ports := rfl
@[simp] theorem modRing_groups : (d.modRing i f).groups = d.groups := rfl
@[simp] theorem modRing_decs : (d.modRing i f).decs = d.decs := rfl
@[simp] theorem modRing_encs : (d.modRing i f).encs = d.encs := rfl
@[simp] theorem modRing_shadow : (d.modRing i f).shadow = d.shadow := rfl
@[simp] theorem modRing_late : (d.modRing i f).late = d.late := rfl
@[simp] theorem modRing_unit : (d.modRing i f).unit = d.unit := rfl
@[simp] theorem modRing_present : (d.modRing i f).present = d.present := rfl
@[simp] theorem modRing_gaps : (d.modRing i f).gaps = d.gaps := rfl
@[simp] theorem modRing_keys : (d.modRing i f).keys = d.keys := rfl
@[simp] theorem modRing_sets : (d.modRing i f).sets = d.sets := rfl
@[simp] theorem modRing_pins : (d.modRing i f).pins = d.pins := rfl
@[simp] theorem modRing_asked : (d.modRing i f).asked = d.asked := rfl
@[simp] theorem modRing_sess : (d.modRing i f).sess = d.sess := rfl
@[simp] theorem modRing_sndId : (d.modRing i f).sndId = d.sndId := rfl
@[simp] theorem modRing_nodes : (d.modRing i f).nodes = d.nodes := rfl
@[simp] theorem modRing_routes : (d.modRing i f).routes = d.routes := rfl
@[simp] theorem modRing_policy : (d.modRing i f).policy = d.policy := rfl
@[simp] theorem modRing_fwd : (d.modRing i f).fwd = d.fwd := rfl
@[simp] theorem modRing_fwdWait : (d.modRing i f).fwdWait = d.fwdWait := rfl
@[simp] theorem modRing_meas : (d.modRing i f).meas = d.meas := rfl
@[simp] theorem modRing_swo : (d.modRing i f).swo = d.swo := rfl
@[simp] theorem modRing_swoLvl : (d.modRing i f).swoLvl = d.swoLvl := rfl
@[simp] theorem modRing_swoHiZ : (d.modRing i f).swoHiZ = d.swoHiZ := rfl
@[simp] theorem modRing_fns : (d.modRing i f).fns = d.fns := rfl
@[simp] theorem modRing_vfEn : (d.modRing i f).vfEn = d.vfEn := rfl
@[simp] theorem modRing_numVfs : (d.modRing i f).numVfs = d.numVfs := rfl
@[simp] theorem modRing_cmds : (d.modRing i f).cmds = d.cmds := rfl
@[simp] theorem modRing_nextId : (d.modRing i f).nextId = d.nextId := rfl
@[simp] theorem modRing_capts : (d.modRing i f).capts = d.capts := rfl
@[simp] theorem modRing_ques : (d.modRing i f).ques = d.ques := rfl
@[simp] theorem modRing_eseq : (d.modRing i f).eseq = d.eseq := rfl
@[simp] theorem modRing_cvus : (d.modRing i f).cvus = d.cvus := rfl
@[simp] theorem modRing_sec : (d.modRing i f).sec = d.sec := rfl
@[simp] theorem modRing_cnts : (d.modRing i f).cnts = d.cnts := rfl
@[simp] theorem modRing_mnt : (d.modRing i f).mnt = d.mnt := rfl
@[simp] theorem modRing_pwr : (d.modRing i f).pwr = d.pwr := rfl
@[simp] theorem modRing_jtag : (d.modRing i f).jtag = d.jtag := rfl
@[simp] theorem modRing_freeCtr : (d.modRing i f).freeCtr = d.freeCtr := rfl
@[simp] theorem modRing_posted : (d.modRing i f).posted = d.posted := rfl
@[simp] theorem modRing_port (k : Nat) : (d.modRing i f).port k = d.port k := rfl
@[simp] theorem modRing_group (k : Nat) : (d.modRing i f).group k = d.group k := rfl
@[simp] theorem modRing_dec (k : Nat) : (d.modRing i f).dec k = d.dec k := rfl
@[simp] theorem modRing_enc (k : Nat) : (d.modRing i f).enc k = d.enc k := rfl
@[simp] theorem modRing_node (k : Nat) : (d.modRing i f).node k = d.node k := rfl
@[simp] theorem modRing_fn (k : Nat) : (d.modRing i f).fn k = d.fn k := rfl
@[simp] theorem modRing_cvu (k : Nat) : (d.modRing i f).cvu k = d.cvu k := rfl
@[simp] theorem modRing_key (k : Nat) : (d.modRing i f).key k = d.key k := rfl
@[simp] theorem modRing_mapSet (k : Nat) : (d.modRing i f).mapSet k = d.mapSet k := rfl
@[simp] theorem modRing_mset (k : Nat) : (d.modRing i f).mset k = d.mset k := rfl
@[simp] theorem modRing_lossy (k : Nat) : (d.modRing i f).lossy k = d.lossy k := rfl
@[simp] theorem modRing_acct (k : Nat) : (d.modRing i f).acct k = d.acct k := rfl
@[simp] theorem modRing_wmark (k : Nat) : (d.modRing i f).wmark k = d.wmark k := rfl
@[simp] theorem modRing_counter (k : Nat) : (d.modRing i f).counter k = d.counter k := rfl
@[simp] theorem modRing_reg (k : Nat) : (d.modRing i f).reg k = d.reg k := rfl
@[simp] theorem modRing_fld (o hi lo : Nat) : (d.modRing i f).fld o hi lo = d.fld o hi lo := rfl
@[simp] theorem modRing_flag (o b : Nat) : (d.modRing i f).flag o b = d.flag o b := rfl
@[simp] theorem modRing_mpt : (d.modRing i f).mpt = d.mpt := rfl
@[simp] theorem modRing_bpPhase : (d.modRing i f).bpPhase = d.bpPhase := rfl
end

section
variable (d : Dev) (i : Nat) (f : Cvu → Cvu)
@[simp] theorem modCvu_dev : (d.modCvu i f).dev = d.dev := rfl
@[simp] theorem modCvu_clk : (d.modCvu i f).clk = d.clk := rfl
@[simp] theorem modCvu_regs : (d.modCvu i f).regs = d.regs := rfl
@[simp] theorem modCvu_busOut : (d.modCvu i f).busOut = d.busOut := rfl
@[simp] theorem modCvu_tb : (d.modCvu i f).tb = d.tb := rfl
@[simp] theorem modCvu_msync : (d.modCvu i f).msync = d.msync := rfl
@[simp] theorem modCvu_segPrev : (d.modCvu i f).segPrev = d.segPrev := rfl
@[simp] theorem modCvu_ports : (d.modCvu i f).ports = d.ports := rfl
@[simp] theorem modCvu_groups : (d.modCvu i f).groups = d.groups := rfl
@[simp] theorem modCvu_decs : (d.modCvu i f).decs = d.decs := rfl
@[simp] theorem modCvu_encs : (d.modCvu i f).encs = d.encs := rfl
@[simp] theorem modCvu_shadow : (d.modCvu i f).shadow = d.shadow := rfl
@[simp] theorem modCvu_late : (d.modCvu i f).late = d.late := rfl
@[simp] theorem modCvu_unit : (d.modCvu i f).unit = d.unit := rfl
@[simp] theorem modCvu_present : (d.modCvu i f).present = d.present := rfl
@[simp] theorem modCvu_gaps : (d.modCvu i f).gaps = d.gaps := rfl
@[simp] theorem modCvu_keys : (d.modCvu i f).keys = d.keys := rfl
@[simp] theorem modCvu_sets : (d.modCvu i f).sets = d.sets := rfl
@[simp] theorem modCvu_pins : (d.modCvu i f).pins = d.pins := rfl
@[simp] theorem modCvu_asked : (d.modCvu i f).asked = d.asked := rfl
@[simp] theorem modCvu_sess : (d.modCvu i f).sess = d.sess := rfl
@[simp] theorem modCvu_sndId : (d.modCvu i f).sndId = d.sndId := rfl
@[simp] theorem modCvu_nodes : (d.modCvu i f).nodes = d.nodes := rfl
@[simp] theorem modCvu_routes : (d.modCvu i f).routes = d.routes := rfl
@[simp] theorem modCvu_policy : (d.modCvu i f).policy = d.policy := rfl
@[simp] theorem modCvu_fwd : (d.modCvu i f).fwd = d.fwd := rfl
@[simp] theorem modCvu_fwdWait : (d.modCvu i f).fwdWait = d.fwdWait := rfl
@[simp] theorem modCvu_meas : (d.modCvu i f).meas = d.meas := rfl
@[simp] theorem modCvu_swo : (d.modCvu i f).swo = d.swo := rfl
@[simp] theorem modCvu_swoLvl : (d.modCvu i f).swoLvl = d.swoLvl := rfl
@[simp] theorem modCvu_swoHiZ : (d.modCvu i f).swoHiZ = d.swoHiZ := rfl
@[simp] theorem modCvu_fns : (d.modCvu i f).fns = d.fns := rfl
@[simp] theorem modCvu_vfEn : (d.modCvu i f).vfEn = d.vfEn := rfl
@[simp] theorem modCvu_numVfs : (d.modCvu i f).numVfs = d.numVfs := rfl
@[simp] theorem modCvu_rings : (d.modCvu i f).rings = d.rings := rfl
@[simp] theorem modCvu_cmds : (d.modCvu i f).cmds = d.cmds := rfl
@[simp] theorem modCvu_nextId : (d.modCvu i f).nextId = d.nextId := rfl
@[simp] theorem modCvu_capts : (d.modCvu i f).capts = d.capts := rfl
@[simp] theorem modCvu_ques : (d.modCvu i f).ques = d.ques := rfl
@[simp] theorem modCvu_eseq : (d.modCvu i f).eseq = d.eseq := rfl
@[simp] theorem modCvu_sec : (d.modCvu i f).sec = d.sec := rfl
@[simp] theorem modCvu_cnts : (d.modCvu i f).cnts = d.cnts := rfl
@[simp] theorem modCvu_mnt : (d.modCvu i f).mnt = d.mnt := rfl
@[simp] theorem modCvu_pwr : (d.modCvu i f).pwr = d.pwr := rfl
@[simp] theorem modCvu_jtag : (d.modCvu i f).jtag = d.jtag := rfl
@[simp] theorem modCvu_freeCtr : (d.modCvu i f).freeCtr = d.freeCtr := rfl
@[simp] theorem modCvu_posted : (d.modCvu i f).posted = d.posted := rfl
@[simp] theorem modCvu_port (k : Nat) : (d.modCvu i f).port k = d.port k := rfl
@[simp] theorem modCvu_group (k : Nat) : (d.modCvu i f).group k = d.group k := rfl
@[simp] theorem modCvu_dec (k : Nat) : (d.modCvu i f).dec k = d.dec k := rfl
@[simp] theorem modCvu_enc (k : Nat) : (d.modCvu i f).enc k = d.enc k := rfl
@[simp] theorem modCvu_node (k : Nat) : (d.modCvu i f).node k = d.node k := rfl
@[simp] theorem modCvu_fn (k : Nat) : (d.modCvu i f).fn k = d.fn k := rfl
@[simp] theorem modCvu_ring (k : Nat) : (d.modCvu i f).ring k = d.ring k := rfl
@[simp] theorem modCvu_key (k : Nat) : (d.modCvu i f).key k = d.key k := rfl
@[simp] theorem modCvu_mapSet (k : Nat) : (d.modCvu i f).mapSet k = d.mapSet k := rfl
@[simp] theorem modCvu_mset (k : Nat) : (d.modCvu i f).mset k = d.mset k := rfl
@[simp] theorem modCvu_lossy (k : Nat) : (d.modCvu i f).lossy k = d.lossy k := rfl
@[simp] theorem modCvu_acct (k : Nat) : (d.modCvu i f).acct k = d.acct k := rfl
@[simp] theorem modCvu_wmark (k : Nat) : (d.modCvu i f).wmark k = d.wmark k := rfl
@[simp] theorem modCvu_counter (k : Nat) : (d.modCvu i f).counter k = d.counter k := rfl
@[simp] theorem modCvu_reg (k : Nat) : (d.modCvu i f).reg k = d.reg k := rfl
@[simp] theorem modCvu_fld (o hi lo : Nat) : (d.modCvu i f).fld o hi lo = d.fld o hi lo := rfl
@[simp] theorem modCvu_flag (o b : Nat) : (d.modCvu i f).flag o b = d.flag o b := rfl
@[simp] theorem modCvu_mpt : (d.modCvu i f).mpt = d.mpt := rfl
@[simp] theorem modCvu_bpPhase : (d.modCvu i f).bpPhase = d.bpPhase := rfl
end

section
variable (d : Dev) (i : Nat) (f : MapKey → MapKey)
@[simp] theorem modKey_dev : (d.modKey i f).dev = d.dev := rfl
@[simp] theorem modKey_clk : (d.modKey i f).clk = d.clk := rfl
@[simp] theorem modKey_regs : (d.modKey i f).regs = d.regs := rfl
@[simp] theorem modKey_busOut : (d.modKey i f).busOut = d.busOut := rfl
@[simp] theorem modKey_tb : (d.modKey i f).tb = d.tb := rfl
@[simp] theorem modKey_msync : (d.modKey i f).msync = d.msync := rfl
@[simp] theorem modKey_segPrev : (d.modKey i f).segPrev = d.segPrev := rfl
@[simp] theorem modKey_ports : (d.modKey i f).ports = d.ports := rfl
@[simp] theorem modKey_groups : (d.modKey i f).groups = d.groups := rfl
@[simp] theorem modKey_decs : (d.modKey i f).decs = d.decs := rfl
@[simp] theorem modKey_encs : (d.modKey i f).encs = d.encs := rfl
@[simp] theorem modKey_shadow : (d.modKey i f).shadow = d.shadow := rfl
@[simp] theorem modKey_late : (d.modKey i f).late = d.late := rfl
@[simp] theorem modKey_unit : (d.modKey i f).unit = d.unit := rfl
@[simp] theorem modKey_present : (d.modKey i f).present = d.present := rfl
@[simp] theorem modKey_gaps : (d.modKey i f).gaps = d.gaps := rfl
@[simp] theorem modKey_sets : (d.modKey i f).sets = d.sets := rfl
@[simp] theorem modKey_pins : (d.modKey i f).pins = d.pins := rfl
@[simp] theorem modKey_asked : (d.modKey i f).asked = d.asked := rfl
@[simp] theorem modKey_sess : (d.modKey i f).sess = d.sess := rfl
@[simp] theorem modKey_sndId : (d.modKey i f).sndId = d.sndId := rfl
@[simp] theorem modKey_nodes : (d.modKey i f).nodes = d.nodes := rfl
@[simp] theorem modKey_routes : (d.modKey i f).routes = d.routes := rfl
@[simp] theorem modKey_policy : (d.modKey i f).policy = d.policy := rfl
@[simp] theorem modKey_fwd : (d.modKey i f).fwd = d.fwd := rfl
@[simp] theorem modKey_fwdWait : (d.modKey i f).fwdWait = d.fwdWait := rfl
@[simp] theorem modKey_meas : (d.modKey i f).meas = d.meas := rfl
@[simp] theorem modKey_swo : (d.modKey i f).swo = d.swo := rfl
@[simp] theorem modKey_swoLvl : (d.modKey i f).swoLvl = d.swoLvl := rfl
@[simp] theorem modKey_swoHiZ : (d.modKey i f).swoHiZ = d.swoHiZ := rfl
@[simp] theorem modKey_fns : (d.modKey i f).fns = d.fns := rfl
@[simp] theorem modKey_vfEn : (d.modKey i f).vfEn = d.vfEn := rfl
@[simp] theorem modKey_numVfs : (d.modKey i f).numVfs = d.numVfs := rfl
@[simp] theorem modKey_rings : (d.modKey i f).rings = d.rings := rfl
@[simp] theorem modKey_cmds : (d.modKey i f).cmds = d.cmds := rfl
@[simp] theorem modKey_nextId : (d.modKey i f).nextId = d.nextId := rfl
@[simp] theorem modKey_capts : (d.modKey i f).capts = d.capts := rfl
@[simp] theorem modKey_ques : (d.modKey i f).ques = d.ques := rfl
@[simp] theorem modKey_eseq : (d.modKey i f).eseq = d.eseq := rfl
@[simp] theorem modKey_cvus : (d.modKey i f).cvus = d.cvus := rfl
@[simp] theorem modKey_sec : (d.modKey i f).sec = d.sec := rfl
@[simp] theorem modKey_cnts : (d.modKey i f).cnts = d.cnts := rfl
@[simp] theorem modKey_mnt : (d.modKey i f).mnt = d.mnt := rfl
@[simp] theorem modKey_pwr : (d.modKey i f).pwr = d.pwr := rfl
@[simp] theorem modKey_jtag : (d.modKey i f).jtag = d.jtag := rfl
@[simp] theorem modKey_freeCtr : (d.modKey i f).freeCtr = d.freeCtr := rfl
@[simp] theorem modKey_posted : (d.modKey i f).posted = d.posted := rfl
@[simp] theorem modKey_port (k : Nat) : (d.modKey i f).port k = d.port k := rfl
@[simp] theorem modKey_group (k : Nat) : (d.modKey i f).group k = d.group k := rfl
@[simp] theorem modKey_dec (k : Nat) : (d.modKey i f).dec k = d.dec k := rfl
@[simp] theorem modKey_enc (k : Nat) : (d.modKey i f).enc k = d.enc k := rfl
@[simp] theorem modKey_node (k : Nat) : (d.modKey i f).node k = d.node k := rfl
@[simp] theorem modKey_fn (k : Nat) : (d.modKey i f).fn k = d.fn k := rfl
@[simp] theorem modKey_ring (k : Nat) : (d.modKey i f).ring k = d.ring k := rfl
@[simp] theorem modKey_cvu (k : Nat) : (d.modKey i f).cvu k = d.cvu k := rfl
@[simp] theorem modKey_mapSet (k : Nat) : (d.modKey i f).mapSet k = d.mapSet k := rfl
@[simp] theorem modKey_mset (k : Nat) : (d.modKey i f).mset k = d.mset k := rfl
@[simp] theorem modKey_lossy (k : Nat) : (d.modKey i f).lossy k = d.lossy k := rfl
@[simp] theorem modKey_acct (k : Nat) : (d.modKey i f).acct k = d.acct k := rfl
@[simp] theorem modKey_wmark (k : Nat) : (d.modKey i f).wmark k = d.wmark k := rfl
@[simp] theorem modKey_counter (k : Nat) : (d.modKey i f).counter k = d.counter k := rfl
@[simp] theorem modKey_reg (k : Nat) : (d.modKey i f).reg k = d.reg k := rfl
@[simp] theorem modKey_fld (o hi lo : Nat) : (d.modKey i f).fld o hi lo = d.fld o hi lo := rfl
@[simp] theorem modKey_flag (o b : Nat) : (d.modKey i f).flag o b = d.flag o b := rfl
@[simp] theorem modKey_mpt : (d.modKey i f).mpt = d.mpt := rfl
@[simp] theorem modKey_bpPhase : (d.modKey i f).bpPhase = d.bpPhase := rfl
end

section
variable (d : Dev) (i : Nat) (f : MapSet → MapSet)
@[simp] theorem modMapSet_dev : (d.modMapSet i f).dev = d.dev := rfl
@[simp] theorem modMapSet_clk : (d.modMapSet i f).clk = d.clk := rfl
@[simp] theorem modMapSet_regs : (d.modMapSet i f).regs = d.regs := rfl
@[simp] theorem modMapSet_busOut : (d.modMapSet i f).busOut = d.busOut := rfl
@[simp] theorem modMapSet_tb : (d.modMapSet i f).tb = d.tb := rfl
@[simp] theorem modMapSet_msync : (d.modMapSet i f).msync = d.msync := rfl
@[simp] theorem modMapSet_segPrev : (d.modMapSet i f).segPrev = d.segPrev := rfl
@[simp] theorem modMapSet_ports : (d.modMapSet i f).ports = d.ports := rfl
@[simp] theorem modMapSet_groups : (d.modMapSet i f).groups = d.groups := rfl
@[simp] theorem modMapSet_decs : (d.modMapSet i f).decs = d.decs := rfl
@[simp] theorem modMapSet_encs : (d.modMapSet i f).encs = d.encs := rfl
@[simp] theorem modMapSet_shadow : (d.modMapSet i f).shadow = d.shadow := rfl
@[simp] theorem modMapSet_late : (d.modMapSet i f).late = d.late := rfl
@[simp] theorem modMapSet_unit : (d.modMapSet i f).unit = d.unit := rfl
@[simp] theorem modMapSet_present : (d.modMapSet i f).present = d.present := rfl
@[simp] theorem modMapSet_gaps : (d.modMapSet i f).gaps = d.gaps := rfl
@[simp] theorem modMapSet_keys : (d.modMapSet i f).keys = d.keys := rfl
@[simp] theorem modMapSet_pins : (d.modMapSet i f).pins = d.pins := rfl
@[simp] theorem modMapSet_asked : (d.modMapSet i f).asked = d.asked := rfl
@[simp] theorem modMapSet_sess : (d.modMapSet i f).sess = d.sess := rfl
@[simp] theorem modMapSet_sndId : (d.modMapSet i f).sndId = d.sndId := rfl
@[simp] theorem modMapSet_nodes : (d.modMapSet i f).nodes = d.nodes := rfl
@[simp] theorem modMapSet_routes : (d.modMapSet i f).routes = d.routes := rfl
@[simp] theorem modMapSet_policy : (d.modMapSet i f).policy = d.policy := rfl
@[simp] theorem modMapSet_fwd : (d.modMapSet i f).fwd = d.fwd := rfl
@[simp] theorem modMapSet_fwdWait : (d.modMapSet i f).fwdWait = d.fwdWait := rfl
@[simp] theorem modMapSet_meas : (d.modMapSet i f).meas = d.meas := rfl
@[simp] theorem modMapSet_swo : (d.modMapSet i f).swo = d.swo := rfl
@[simp] theorem modMapSet_swoLvl : (d.modMapSet i f).swoLvl = d.swoLvl := rfl
@[simp] theorem modMapSet_swoHiZ : (d.modMapSet i f).swoHiZ = d.swoHiZ := rfl
@[simp] theorem modMapSet_fns : (d.modMapSet i f).fns = d.fns := rfl
@[simp] theorem modMapSet_vfEn : (d.modMapSet i f).vfEn = d.vfEn := rfl
@[simp] theorem modMapSet_numVfs : (d.modMapSet i f).numVfs = d.numVfs := rfl
@[simp] theorem modMapSet_rings : (d.modMapSet i f).rings = d.rings := rfl
@[simp] theorem modMapSet_cmds : (d.modMapSet i f).cmds = d.cmds := rfl
@[simp] theorem modMapSet_nextId : (d.modMapSet i f).nextId = d.nextId := rfl
@[simp] theorem modMapSet_capts : (d.modMapSet i f).capts = d.capts := rfl
@[simp] theorem modMapSet_ques : (d.modMapSet i f).ques = d.ques := rfl
@[simp] theorem modMapSet_eseq : (d.modMapSet i f).eseq = d.eseq := rfl
@[simp] theorem modMapSet_cvus : (d.modMapSet i f).cvus = d.cvus := rfl
@[simp] theorem modMapSet_sec : (d.modMapSet i f).sec = d.sec := rfl
@[simp] theorem modMapSet_cnts : (d.modMapSet i f).cnts = d.cnts := rfl
@[simp] theorem modMapSet_mnt : (d.modMapSet i f).mnt = d.mnt := rfl
@[simp] theorem modMapSet_pwr : (d.modMapSet i f).pwr = d.pwr := rfl
@[simp] theorem modMapSet_jtag : (d.modMapSet i f).jtag = d.jtag := rfl
@[simp] theorem modMapSet_freeCtr : (d.modMapSet i f).freeCtr = d.freeCtr := rfl
@[simp] theorem modMapSet_posted : (d.modMapSet i f).posted = d.posted := rfl
@[simp] theorem modMapSet_port (k : Nat) : (d.modMapSet i f).port k = d.port k := rfl
@[simp] theorem modMapSet_group (k : Nat) : (d.modMapSet i f).group k = d.group k := rfl
@[simp] theorem modMapSet_dec (k : Nat) : (d.modMapSet i f).dec k = d.dec k := rfl
@[simp] theorem modMapSet_enc (k : Nat) : (d.modMapSet i f).enc k = d.enc k := rfl
@[simp] theorem modMapSet_node (k : Nat) : (d.modMapSet i f).node k = d.node k := rfl
@[simp] theorem modMapSet_fn (k : Nat) : (d.modMapSet i f).fn k = d.fn k := rfl
@[simp] theorem modMapSet_ring (k : Nat) : (d.modMapSet i f).ring k = d.ring k := rfl
@[simp] theorem modMapSet_cvu (k : Nat) : (d.modMapSet i f).cvu k = d.cvu k := rfl
@[simp] theorem modMapSet_key (k : Nat) : (d.modMapSet i f).key k = d.key k := rfl
@[simp] theorem modMapSet_mset (k : Nat) : (d.modMapSet i f).mset k = d.mset k := rfl
@[simp] theorem modMapSet_lossy (k : Nat) : (d.modMapSet i f).lossy k = d.lossy k := rfl
@[simp] theorem modMapSet_acct (k : Nat) : (d.modMapSet i f).acct k = d.acct k := rfl
@[simp] theorem modMapSet_wmark (k : Nat) : (d.modMapSet i f).wmark k = d.wmark k := rfl
@[simp] theorem modMapSet_counter (k : Nat) : (d.modMapSet i f).counter k = d.counter k := rfl
@[simp] theorem modMapSet_reg (k : Nat) : (d.modMapSet i f).reg k = d.reg k := rfl
@[simp] theorem modMapSet_fld (o hi lo : Nat) : (d.modMapSet i f).fld o hi lo = d.fld o hi lo := rfl
@[simp] theorem modMapSet_flag (o b : Nat) : (d.modMapSet i f).flag o b = d.flag o b := rfl
@[simp] theorem modMapSet_mpt : (d.modMapSet i f).mpt = d.mpt := rfl
@[simp] theorem modMapSet_bpPhase : (d.modMapSet i f).bpPhase = d.bpPhase := rfl
end

section
variable (d : Dev) (i : Nat) (f : MSet → MSet)
@[simp] theorem modMset_dev : (d.modMset i f).dev = d.dev := rfl
@[simp] theorem modMset_clk : (d.modMset i f).clk = d.clk := rfl
@[simp] theorem modMset_regs : (d.modMset i f).regs = d.regs := rfl
@[simp] theorem modMset_busOut : (d.modMset i f).busOut = d.busOut := rfl
@[simp] theorem modMset_tb : (d.modMset i f).tb = d.tb := rfl
@[simp] theorem modMset_msync : (d.modMset i f).msync = d.msync := rfl
@[simp] theorem modMset_segPrev : (d.modMset i f).segPrev = d.segPrev := rfl
@[simp] theorem modMset_ports : (d.modMset i f).ports = d.ports := rfl
@[simp] theorem modMset_groups : (d.modMset i f).groups = d.groups := rfl
@[simp] theorem modMset_decs : (d.modMset i f).decs = d.decs := rfl
@[simp] theorem modMset_encs : (d.modMset i f).encs = d.encs := rfl
@[simp] theorem modMset_shadow : (d.modMset i f).shadow = d.shadow := rfl
@[simp] theorem modMset_late : (d.modMset i f).late = d.late := rfl
@[simp] theorem modMset_unit : (d.modMset i f).unit = d.unit := rfl
@[simp] theorem modMset_present : (d.modMset i f).present = d.present := rfl
@[simp] theorem modMset_gaps : (d.modMset i f).gaps = d.gaps := rfl
@[simp] theorem modMset_keys : (d.modMset i f).keys = d.keys := rfl
@[simp] theorem modMset_sets : (d.modMset i f).sets = d.sets := rfl
@[simp] theorem modMset_pins : (d.modMset i f).pins = d.pins := rfl
@[simp] theorem modMset_asked : (d.modMset i f).asked = d.asked := rfl
@[simp] theorem modMset_sess : (d.modMset i f).sess = d.sess := rfl
@[simp] theorem modMset_sndId : (d.modMset i f).sndId = d.sndId := rfl
@[simp] theorem modMset_nodes : (d.modMset i f).nodes = d.nodes := rfl
@[simp] theorem modMset_routes : (d.modMset i f).routes = d.routes := rfl
@[simp] theorem modMset_policy : (d.modMset i f).policy = d.policy := rfl
@[simp] theorem modMset_fwd : (d.modMset i f).fwd = d.fwd := rfl
@[simp] theorem modMset_fwdWait : (d.modMset i f).fwdWait = d.fwdWait := rfl
@[simp] theorem modMset_swo : (d.modMset i f).swo = d.swo := rfl
@[simp] theorem modMset_swoLvl : (d.modMset i f).swoLvl = d.swoLvl := rfl
@[simp] theorem modMset_swoHiZ : (d.modMset i f).swoHiZ = d.swoHiZ := rfl
@[simp] theorem modMset_fns : (d.modMset i f).fns = d.fns := rfl
@[simp] theorem modMset_vfEn : (d.modMset i f).vfEn = d.vfEn := rfl
@[simp] theorem modMset_numVfs : (d.modMset i f).numVfs = d.numVfs := rfl
@[simp] theorem modMset_rings : (d.modMset i f).rings = d.rings := rfl
@[simp] theorem modMset_cmds : (d.modMset i f).cmds = d.cmds := rfl
@[simp] theorem modMset_nextId : (d.modMset i f).nextId = d.nextId := rfl
@[simp] theorem modMset_capts : (d.modMset i f).capts = d.capts := rfl
@[simp] theorem modMset_ques : (d.modMset i f).ques = d.ques := rfl
@[simp] theorem modMset_eseq : (d.modMset i f).eseq = d.eseq := rfl
@[simp] theorem modMset_cvus : (d.modMset i f).cvus = d.cvus := rfl
@[simp] theorem modMset_sec : (d.modMset i f).sec = d.sec := rfl
@[simp] theorem modMset_cnts : (d.modMset i f).cnts = d.cnts := rfl
@[simp] theorem modMset_mnt : (d.modMset i f).mnt = d.mnt := rfl
@[simp] theorem modMset_pwr : (d.modMset i f).pwr = d.pwr := rfl
@[simp] theorem modMset_jtag : (d.modMset i f).jtag = d.jtag := rfl
@[simp] theorem modMset_freeCtr : (d.modMset i f).freeCtr = d.freeCtr := rfl
@[simp] theorem modMset_posted : (d.modMset i f).posted = d.posted := rfl
@[simp] theorem modMset_port (k : Nat) : (d.modMset i f).port k = d.port k := rfl
@[simp] theorem modMset_group (k : Nat) : (d.modMset i f).group k = d.group k := rfl
@[simp] theorem modMset_dec (k : Nat) : (d.modMset i f).dec k = d.dec k := rfl
@[simp] theorem modMset_enc (k : Nat) : (d.modMset i f).enc k = d.enc k := rfl
@[simp] theorem modMset_node (k : Nat) : (d.modMset i f).node k = d.node k := rfl
@[simp] theorem modMset_fn (k : Nat) : (d.modMset i f).fn k = d.fn k := rfl
@[simp] theorem modMset_ring (k : Nat) : (d.modMset i f).ring k = d.ring k := rfl
@[simp] theorem modMset_cvu (k : Nat) : (d.modMset i f).cvu k = d.cvu k := rfl
@[simp] theorem modMset_key (k : Nat) : (d.modMset i f).key k = d.key k := rfl
@[simp] theorem modMset_mapSet (k : Nat) : (d.modMset i f).mapSet k = d.mapSet k := rfl
@[simp] theorem modMset_lossy (k : Nat) : (d.modMset i f).lossy k = d.lossy k := rfl
@[simp] theorem modMset_acct (k : Nat) : (d.modMset i f).acct k = d.acct k := rfl
@[simp] theorem modMset_wmark (k : Nat) : (d.modMset i f).wmark k = d.wmark k := rfl
@[simp] theorem modMset_counter (k : Nat) : (d.modMset i f).counter k = d.counter k := rfl
@[simp] theorem modMset_reg (k : Nat) : (d.modMset i f).reg k = d.reg k := rfl
@[simp] theorem modMset_meas_fault : (d.modMset i f).meas.fault = d.meas.fault := rfl
@[simp] theorem modMset_meas_der : (d.modMset i f).meas.der = d.meas.der := rfl
@[simp] theorem modMset_meas_theta : (d.modMset i f).meas.theta = d.meas.theta := rfl
@[simp] theorem modMset_meas_cyc : (d.modMset i f).meas.cyc = d.meas.cyc := rfl
@[simp] theorem modMset_meas_cycHold : (d.modMset i f).meas.cycHold = d.meas.cycHold := rfl
@[simp] theorem modMset_meas_clocks : (d.modMset i f).meas.clocks = d.meas.clocks := rfl
@[simp] theorem modMset_meas_start : (d.modMset i f).meas.start = d.meas.start := rfl
@[simp] theorem modMset_meas_derN : (d.modMset i f).meas.derN = d.meas.derN := rfl
@[simp] theorem modMset_meas_stamps : (d.modMset i f).meas.stamps = d.meas.stamps := rfl
@[simp] theorem modMset_fld (o hi lo : Nat) : (d.modMset i f).fld o hi lo = d.fld o hi lo := rfl
@[simp] theorem modMset_flag (o b : Nat) : (d.modMset i f).flag o b = d.flag o b := rfl
@[simp] theorem modMset_mpt : (d.modMset i f).mpt = d.mpt := rfl
@[simp] theorem modMset_bpPhase : (d.modMset i f).bpPhase = d.bpPhase := rfl
end

section
variable (d : Dev) (i : Nat) (f : LossyQ → LossyQ)
@[simp] theorem modLossy_dev : (d.modLossy i f).dev = d.dev := rfl
@[simp] theorem modLossy_clk : (d.modLossy i f).clk = d.clk := rfl
@[simp] theorem modLossy_regs : (d.modLossy i f).regs = d.regs := rfl
@[simp] theorem modLossy_busOut : (d.modLossy i f).busOut = d.busOut := rfl
@[simp] theorem modLossy_tb : (d.modLossy i f).tb = d.tb := rfl
@[simp] theorem modLossy_msync : (d.modLossy i f).msync = d.msync := rfl
@[simp] theorem modLossy_segPrev : (d.modLossy i f).segPrev = d.segPrev := rfl
@[simp] theorem modLossy_ports : (d.modLossy i f).ports = d.ports := rfl
@[simp] theorem modLossy_groups : (d.modLossy i f).groups = d.groups := rfl
@[simp] theorem modLossy_decs : (d.modLossy i f).decs = d.decs := rfl
@[simp] theorem modLossy_encs : (d.modLossy i f).encs = d.encs := rfl
@[simp] theorem modLossy_shadow : (d.modLossy i f).shadow = d.shadow := rfl
@[simp] theorem modLossy_late : (d.modLossy i f).late = d.late := rfl
@[simp] theorem modLossy_unit : (d.modLossy i f).unit = d.unit := rfl
@[simp] theorem modLossy_present : (d.modLossy i f).present = d.present := rfl
@[simp] theorem modLossy_gaps : (d.modLossy i f).gaps = d.gaps := rfl
@[simp] theorem modLossy_keys : (d.modLossy i f).keys = d.keys := rfl
@[simp] theorem modLossy_sets : (d.modLossy i f).sets = d.sets := rfl
@[simp] theorem modLossy_pins : (d.modLossy i f).pins = d.pins := rfl
@[simp] theorem modLossy_asked : (d.modLossy i f).asked = d.asked := rfl
@[simp] theorem modLossy_sess : (d.modLossy i f).sess = d.sess := rfl
@[simp] theorem modLossy_sndId : (d.modLossy i f).sndId = d.sndId := rfl
@[simp] theorem modLossy_nodes : (d.modLossy i f).nodes = d.nodes := rfl
@[simp] theorem modLossy_routes : (d.modLossy i f).routes = d.routes := rfl
@[simp] theorem modLossy_policy : (d.modLossy i f).policy = d.policy := rfl
@[simp] theorem modLossy_fwd : (d.modLossy i f).fwd = d.fwd := rfl
@[simp] theorem modLossy_fwdWait : (d.modLossy i f).fwdWait = d.fwdWait := rfl
@[simp] theorem modLossy_meas : (d.modLossy i f).meas = d.meas := rfl
@[simp] theorem modLossy_swo : (d.modLossy i f).swo = d.swo := rfl
@[simp] theorem modLossy_swoLvl : (d.modLossy i f).swoLvl = d.swoLvl := rfl
@[simp] theorem modLossy_swoHiZ : (d.modLossy i f).swoHiZ = d.swoHiZ := rfl
@[simp] theorem modLossy_fns : (d.modLossy i f).fns = d.fns := rfl
@[simp] theorem modLossy_vfEn : (d.modLossy i f).vfEn = d.vfEn := rfl
@[simp] theorem modLossy_numVfs : (d.modLossy i f).numVfs = d.numVfs := rfl
@[simp] theorem modLossy_rings : (d.modLossy i f).rings = d.rings := rfl
@[simp] theorem modLossy_cmds : (d.modLossy i f).cmds = d.cmds := rfl
@[simp] theorem modLossy_nextId : (d.modLossy i f).nextId = d.nextId := rfl
@[simp] theorem modLossy_capts : (d.modLossy i f).capts = d.capts := rfl
@[simp] theorem modLossy_eseq : (d.modLossy i f).eseq = d.eseq := rfl
@[simp] theorem modLossy_cvus : (d.modLossy i f).cvus = d.cvus := rfl
@[simp] theorem modLossy_sec : (d.modLossy i f).sec = d.sec := rfl
@[simp] theorem modLossy_cnts : (d.modLossy i f).cnts = d.cnts := rfl
@[simp] theorem modLossy_mnt : (d.modLossy i f).mnt = d.mnt := rfl
@[simp] theorem modLossy_pwr : (d.modLossy i f).pwr = d.pwr := rfl
@[simp] theorem modLossy_jtag : (d.modLossy i f).jtag = d.jtag := rfl
@[simp] theorem modLossy_freeCtr : (d.modLossy i f).freeCtr = d.freeCtr := rfl
@[simp] theorem modLossy_posted : (d.modLossy i f).posted = d.posted := rfl
@[simp] theorem modLossy_port (k : Nat) : (d.modLossy i f).port k = d.port k := rfl
@[simp] theorem modLossy_group (k : Nat) : (d.modLossy i f).group k = d.group k := rfl
@[simp] theorem modLossy_dec (k : Nat) : (d.modLossy i f).dec k = d.dec k := rfl
@[simp] theorem modLossy_enc (k : Nat) : (d.modLossy i f).enc k = d.enc k := rfl
@[simp] theorem modLossy_node (k : Nat) : (d.modLossy i f).node k = d.node k := rfl
@[simp] theorem modLossy_fn (k : Nat) : (d.modLossy i f).fn k = d.fn k := rfl
@[simp] theorem modLossy_ring (k : Nat) : (d.modLossy i f).ring k = d.ring k := rfl
@[simp] theorem modLossy_cvu (k : Nat) : (d.modLossy i f).cvu k = d.cvu k := rfl
@[simp] theorem modLossy_key (k : Nat) : (d.modLossy i f).key k = d.key k := rfl
@[simp] theorem modLossy_mapSet (k : Nat) : (d.modLossy i f).mapSet k = d.mapSet k := rfl
@[simp] theorem modLossy_mset (k : Nat) : (d.modLossy i f).mset k = d.mset k := rfl
@[simp] theorem modLossy_acct (k : Nat) : (d.modLossy i f).acct k = d.acct k := rfl
@[simp] theorem modLossy_wmark (k : Nat) : (d.modLossy i f).wmark k = d.wmark k := rfl
@[simp] theorem modLossy_counter (k : Nat) : (d.modLossy i f).counter k = d.counter k := rfl
@[simp] theorem modLossy_reg (k : Nat) : (d.modLossy i f).reg k = d.reg k := rfl
@[simp] theorem modLossy_ques_rsv : (d.modLossy i f).ques.rsv = d.ques.rsv := rfl
@[simp] theorem modLossy_ques_waiters : (d.modLossy i f).ques.waiters = d.ques.waiters := rfl
@[simp] theorem modLossy_ques_acct : (d.modLossy i f).ques.acct = d.ques.acct := rfl
@[simp] theorem modLossy_ques_wm : (d.modLossy i f).ques.wm = d.ques.wm := rfl
@[simp] theorem modLossy_fld (o hi lo : Nat) : (d.modLossy i f).fld o hi lo = d.fld o hi lo := rfl
@[simp] theorem modLossy_flag (o b : Nat) : (d.modLossy i f).flag o b = d.flag o b := rfl
@[simp] theorem modLossy_mpt : (d.modLossy i f).mpt = d.mpt := rfl
@[simp] theorem modLossy_bpPhase : (d.modLossy i f).bpPhase = d.bpPhase := rfl
end

section
variable (d : Dev) (i : Nat) (f : QAcct → QAcct)
@[simp] theorem modAcct_dev : (d.modAcct i f).dev = d.dev := rfl
@[simp] theorem modAcct_clk : (d.modAcct i f).clk = d.clk := rfl
@[simp] theorem modAcct_regs : (d.modAcct i f).regs = d.regs := rfl
@[simp] theorem modAcct_busOut : (d.modAcct i f).busOut = d.busOut := rfl
@[simp] theorem modAcct_tb : (d.modAcct i f).tb = d.tb := rfl
@[simp] theorem modAcct_msync : (d.modAcct i f).msync = d.msync := rfl
@[simp] theorem modAcct_segPrev : (d.modAcct i f).segPrev = d.segPrev := rfl
@[simp] theorem modAcct_ports : (d.modAcct i f).ports = d.ports := rfl
@[simp] theorem modAcct_groups : (d.modAcct i f).groups = d.groups := rfl
@[simp] theorem modAcct_decs : (d.modAcct i f).decs = d.decs := rfl
@[simp] theorem modAcct_encs : (d.modAcct i f).encs = d.encs := rfl
@[simp] theorem modAcct_shadow : (d.modAcct i f).shadow = d.shadow := rfl
@[simp] theorem modAcct_late : (d.modAcct i f).late = d.late := rfl
@[simp] theorem modAcct_unit : (d.modAcct i f).unit = d.unit := rfl
@[simp] theorem modAcct_present : (d.modAcct i f).present = d.present := rfl
@[simp] theorem modAcct_gaps : (d.modAcct i f).gaps = d.gaps := rfl
@[simp] theorem modAcct_keys : (d.modAcct i f).keys = d.keys := rfl
@[simp] theorem modAcct_sets : (d.modAcct i f).sets = d.sets := rfl
@[simp] theorem modAcct_pins : (d.modAcct i f).pins = d.pins := rfl
@[simp] theorem modAcct_asked : (d.modAcct i f).asked = d.asked := rfl
@[simp] theorem modAcct_sess : (d.modAcct i f).sess = d.sess := rfl
@[simp] theorem modAcct_sndId : (d.modAcct i f).sndId = d.sndId := rfl
@[simp] theorem modAcct_nodes : (d.modAcct i f).nodes = d.nodes := rfl
@[simp] theorem modAcct_routes : (d.modAcct i f).routes = d.routes := rfl
@[simp] theorem modAcct_policy : (d.modAcct i f).policy = d.policy := rfl
@[simp] theorem modAcct_fwd : (d.modAcct i f).fwd = d.fwd := rfl
@[simp] theorem modAcct_fwdWait : (d.modAcct i f).fwdWait = d.fwdWait := rfl
@[simp] theorem modAcct_meas : (d.modAcct i f).meas = d.meas := rfl
@[simp] theorem modAcct_swo : (d.modAcct i f).swo = d.swo := rfl
@[simp] theorem modAcct_swoLvl : (d.modAcct i f).swoLvl = d.swoLvl := rfl
@[simp] theorem modAcct_swoHiZ : (d.modAcct i f).swoHiZ = d.swoHiZ := rfl
@[simp] theorem modAcct_fns : (d.modAcct i f).fns = d.fns := rfl
@[simp] theorem modAcct_vfEn : (d.modAcct i f).vfEn = d.vfEn := rfl
@[simp] theorem modAcct_numVfs : (d.modAcct i f).numVfs = d.numVfs := rfl
@[simp] theorem modAcct_rings : (d.modAcct i f).rings = d.rings := rfl
@[simp] theorem modAcct_cmds : (d.modAcct i f).cmds = d.cmds := rfl
@[simp] theorem modAcct_nextId : (d.modAcct i f).nextId = d.nextId := rfl
@[simp] theorem modAcct_capts : (d.modAcct i f).capts = d.capts := rfl
@[simp] theorem modAcct_eseq : (d.modAcct i f).eseq = d.eseq := rfl
@[simp] theorem modAcct_cvus : (d.modAcct i f).cvus = d.cvus := rfl
@[simp] theorem modAcct_sec : (d.modAcct i f).sec = d.sec := rfl
@[simp] theorem modAcct_cnts : (d.modAcct i f).cnts = d.cnts := rfl
@[simp] theorem modAcct_mnt : (d.modAcct i f).mnt = d.mnt := rfl
@[simp] theorem modAcct_pwr : (d.modAcct i f).pwr = d.pwr := rfl
@[simp] theorem modAcct_jtag : (d.modAcct i f).jtag = d.jtag := rfl
@[simp] theorem modAcct_freeCtr : (d.modAcct i f).freeCtr = d.freeCtr := rfl
@[simp] theorem modAcct_posted : (d.modAcct i f).posted = d.posted := rfl
@[simp] theorem modAcct_port (k : Nat) : (d.modAcct i f).port k = d.port k := rfl
@[simp] theorem modAcct_group (k : Nat) : (d.modAcct i f).group k = d.group k := rfl
@[simp] theorem modAcct_dec (k : Nat) : (d.modAcct i f).dec k = d.dec k := rfl
@[simp] theorem modAcct_enc (k : Nat) : (d.modAcct i f).enc k = d.enc k := rfl
@[simp] theorem modAcct_node (k : Nat) : (d.modAcct i f).node k = d.node k := rfl
@[simp] theorem modAcct_fn (k : Nat) : (d.modAcct i f).fn k = d.fn k := rfl
@[simp] theorem modAcct_ring (k : Nat) : (d.modAcct i f).ring k = d.ring k := rfl
@[simp] theorem modAcct_cvu (k : Nat) : (d.modAcct i f).cvu k = d.cvu k := rfl
@[simp] theorem modAcct_key (k : Nat) : (d.modAcct i f).key k = d.key k := rfl
@[simp] theorem modAcct_mapSet (k : Nat) : (d.modAcct i f).mapSet k = d.mapSet k := rfl
@[simp] theorem modAcct_mset (k : Nat) : (d.modAcct i f).mset k = d.mset k := rfl
@[simp] theorem modAcct_lossy (k : Nat) : (d.modAcct i f).lossy k = d.lossy k := rfl
@[simp] theorem modAcct_wmark (k : Nat) : (d.modAcct i f).wmark k = d.wmark k := rfl
@[simp] theorem modAcct_counter (k : Nat) : (d.modAcct i f).counter k = d.counter k := rfl
@[simp] theorem modAcct_reg (k : Nat) : (d.modAcct i f).reg k = d.reg k := rfl
@[simp] theorem modAcct_ques_rsv : (d.modAcct i f).ques.rsv = d.ques.rsv := rfl
@[simp] theorem modAcct_ques_waiters : (d.modAcct i f).ques.waiters = d.ques.waiters := rfl
@[simp] theorem modAcct_ques_lossy : (d.modAcct i f).ques.lossy = d.ques.lossy := rfl
@[simp] theorem modAcct_ques_wm : (d.modAcct i f).ques.wm = d.ques.wm := rfl
@[simp] theorem modAcct_fld (o hi lo : Nat) : (d.modAcct i f).fld o hi lo = d.fld o hi lo := rfl
@[simp] theorem modAcct_flag (o b : Nat) : (d.modAcct i f).flag o b = d.flag o b := rfl
@[simp] theorem modAcct_mpt : (d.modAcct i f).mpt = d.mpt := rfl
@[simp] theorem modAcct_bpPhase : (d.modAcct i f).bpPhase = d.bpPhase := rfl
end

section
variable (d : Dev) (i : Nat) (f : Wm → Wm)
@[simp] theorem modWm_dev : (d.modWm i f).dev = d.dev := rfl
@[simp] theorem modWm_clk : (d.modWm i f).clk = d.clk := rfl
@[simp] theorem modWm_regs : (d.modWm i f).regs = d.regs := rfl
@[simp] theorem modWm_busOut : (d.modWm i f).busOut = d.busOut := rfl
@[simp] theorem modWm_tb : (d.modWm i f).tb = d.tb := rfl
@[simp] theorem modWm_msync : (d.modWm i f).msync = d.msync := rfl
@[simp] theorem modWm_segPrev : (d.modWm i f).segPrev = d.segPrev := rfl
@[simp] theorem modWm_ports : (d.modWm i f).ports = d.ports := rfl
@[simp] theorem modWm_groups : (d.modWm i f).groups = d.groups := rfl
@[simp] theorem modWm_decs : (d.modWm i f).decs = d.decs := rfl
@[simp] theorem modWm_encs : (d.modWm i f).encs = d.encs := rfl
@[simp] theorem modWm_shadow : (d.modWm i f).shadow = d.shadow := rfl
@[simp] theorem modWm_late : (d.modWm i f).late = d.late := rfl
@[simp] theorem modWm_unit : (d.modWm i f).unit = d.unit := rfl
@[simp] theorem modWm_present : (d.modWm i f).present = d.present := rfl
@[simp] theorem modWm_gaps : (d.modWm i f).gaps = d.gaps := rfl
@[simp] theorem modWm_keys : (d.modWm i f).keys = d.keys := rfl
@[simp] theorem modWm_sets : (d.modWm i f).sets = d.sets := rfl
@[simp] theorem modWm_pins : (d.modWm i f).pins = d.pins := rfl
@[simp] theorem modWm_asked : (d.modWm i f).asked = d.asked := rfl
@[simp] theorem modWm_sess : (d.modWm i f).sess = d.sess := rfl
@[simp] theorem modWm_sndId : (d.modWm i f).sndId = d.sndId := rfl
@[simp] theorem modWm_nodes : (d.modWm i f).nodes = d.nodes := rfl
@[simp] theorem modWm_routes : (d.modWm i f).routes = d.routes := rfl
@[simp] theorem modWm_policy : (d.modWm i f).policy = d.policy := rfl
@[simp] theorem modWm_fwd : (d.modWm i f).fwd = d.fwd := rfl
@[simp] theorem modWm_fwdWait : (d.modWm i f).fwdWait = d.fwdWait := rfl
@[simp] theorem modWm_meas : (d.modWm i f).meas = d.meas := rfl
@[simp] theorem modWm_swo : (d.modWm i f).swo = d.swo := rfl
@[simp] theorem modWm_swoLvl : (d.modWm i f).swoLvl = d.swoLvl := rfl
@[simp] theorem modWm_swoHiZ : (d.modWm i f).swoHiZ = d.swoHiZ := rfl
@[simp] theorem modWm_fns : (d.modWm i f).fns = d.fns := rfl
@[simp] theorem modWm_vfEn : (d.modWm i f).vfEn = d.vfEn := rfl
@[simp] theorem modWm_numVfs : (d.modWm i f).numVfs = d.numVfs := rfl
@[simp] theorem modWm_rings : (d.modWm i f).rings = d.rings := rfl
@[simp] theorem modWm_cmds : (d.modWm i f).cmds = d.cmds := rfl
@[simp] theorem modWm_nextId : (d.modWm i f).nextId = d.nextId := rfl
@[simp] theorem modWm_capts : (d.modWm i f).capts = d.capts := rfl
@[simp] theorem modWm_eseq : (d.modWm i f).eseq = d.eseq := rfl
@[simp] theorem modWm_cvus : (d.modWm i f).cvus = d.cvus := rfl
@[simp] theorem modWm_sec : (d.modWm i f).sec = d.sec := rfl
@[simp] theorem modWm_cnts : (d.modWm i f).cnts = d.cnts := rfl
@[simp] theorem modWm_mnt : (d.modWm i f).mnt = d.mnt := rfl
@[simp] theorem modWm_pwr : (d.modWm i f).pwr = d.pwr := rfl
@[simp] theorem modWm_jtag : (d.modWm i f).jtag = d.jtag := rfl
@[simp] theorem modWm_freeCtr : (d.modWm i f).freeCtr = d.freeCtr := rfl
@[simp] theorem modWm_posted : (d.modWm i f).posted = d.posted := rfl
@[simp] theorem modWm_port (k : Nat) : (d.modWm i f).port k = d.port k := rfl
@[simp] theorem modWm_group (k : Nat) : (d.modWm i f).group k = d.group k := rfl
@[simp] theorem modWm_dec (k : Nat) : (d.modWm i f).dec k = d.dec k := rfl
@[simp] theorem modWm_enc (k : Nat) : (d.modWm i f).enc k = d.enc k := rfl
@[simp] theorem modWm_node (k : Nat) : (d.modWm i f).node k = d.node k := rfl
@[simp] theorem modWm_fn (k : Nat) : (d.modWm i f).fn k = d.fn k := rfl
@[simp] theorem modWm_ring (k : Nat) : (d.modWm i f).ring k = d.ring k := rfl
@[simp] theorem modWm_cvu (k : Nat) : (d.modWm i f).cvu k = d.cvu k := rfl
@[simp] theorem modWm_key (k : Nat) : (d.modWm i f).key k = d.key k := rfl
@[simp] theorem modWm_mapSet (k : Nat) : (d.modWm i f).mapSet k = d.mapSet k := rfl
@[simp] theorem modWm_mset (k : Nat) : (d.modWm i f).mset k = d.mset k := rfl
@[simp] theorem modWm_lossy (k : Nat) : (d.modWm i f).lossy k = d.lossy k := rfl
@[simp] theorem modWm_acct (k : Nat) : (d.modWm i f).acct k = d.acct k := rfl
@[simp] theorem modWm_counter (k : Nat) : (d.modWm i f).counter k = d.counter k := rfl
@[simp] theorem modWm_reg (k : Nat) : (d.modWm i f).reg k = d.reg k := rfl
@[simp] theorem modWm_ques_rsv : (d.modWm i f).ques.rsv = d.ques.rsv := rfl
@[simp] theorem modWm_ques_waiters : (d.modWm i f).ques.waiters = d.ques.waiters := rfl
@[simp] theorem modWm_ques_lossy : (d.modWm i f).ques.lossy = d.ques.lossy := rfl
@[simp] theorem modWm_ques_acct : (d.modWm i f).ques.acct = d.ques.acct := rfl
@[simp] theorem modWm_fld (o hi lo : Nat) : (d.modWm i f).fld o hi lo = d.fld o hi lo := rfl
@[simp] theorem modWm_flag (o b : Nat) : (d.modWm i f).flag o b = d.flag o b := rfl
@[simp] theorem modWm_mpt : (d.modWm i f).mpt = d.mpt := rfl
@[simp] theorem modWm_bpPhase : (d.modWm i f).bpPhase = d.bpPhase := rfl
end

section
variable (d : Dev) (i : Nat) (f : Counter → Counter)
@[simp] theorem modCounter_dev : (d.modCounter i f).dev = d.dev := rfl
@[simp] theorem modCounter_clk : (d.modCounter i f).clk = d.clk := rfl
@[simp] theorem modCounter_regs : (d.modCounter i f).regs = d.regs := rfl
@[simp] theorem modCounter_busOut : (d.modCounter i f).busOut = d.busOut := rfl
@[simp] theorem modCounter_tb : (d.modCounter i f).tb = d.tb := rfl
@[simp] theorem modCounter_msync : (d.modCounter i f).msync = d.msync := rfl
@[simp] theorem modCounter_segPrev : (d.modCounter i f).segPrev = d.segPrev := rfl
@[simp] theorem modCounter_ports : (d.modCounter i f).ports = d.ports := rfl
@[simp] theorem modCounter_groups : (d.modCounter i f).groups = d.groups := rfl
@[simp] theorem modCounter_decs : (d.modCounter i f).decs = d.decs := rfl
@[simp] theorem modCounter_encs : (d.modCounter i f).encs = d.encs := rfl
@[simp] theorem modCounter_shadow : (d.modCounter i f).shadow = d.shadow := rfl
@[simp] theorem modCounter_late : (d.modCounter i f).late = d.late := rfl
@[simp] theorem modCounter_unit : (d.modCounter i f).unit = d.unit := rfl
@[simp] theorem modCounter_present : (d.modCounter i f).present = d.present := rfl
@[simp] theorem modCounter_gaps : (d.modCounter i f).gaps = d.gaps := rfl
@[simp] theorem modCounter_keys : (d.modCounter i f).keys = d.keys := rfl
@[simp] theorem modCounter_sets : (d.modCounter i f).sets = d.sets := rfl
@[simp] theorem modCounter_pins : (d.modCounter i f).pins = d.pins := rfl
@[simp] theorem modCounter_asked : (d.modCounter i f).asked = d.asked := rfl
@[simp] theorem modCounter_sess : (d.modCounter i f).sess = d.sess := rfl
@[simp] theorem modCounter_sndId : (d.modCounter i f).sndId = d.sndId := rfl
@[simp] theorem modCounter_nodes : (d.modCounter i f).nodes = d.nodes := rfl
@[simp] theorem modCounter_routes : (d.modCounter i f).routes = d.routes := rfl
@[simp] theorem modCounter_policy : (d.modCounter i f).policy = d.policy := rfl
@[simp] theorem modCounter_fwd : (d.modCounter i f).fwd = d.fwd := rfl
@[simp] theorem modCounter_fwdWait : (d.modCounter i f).fwdWait = d.fwdWait := rfl
@[simp] theorem modCounter_meas : (d.modCounter i f).meas = d.meas := rfl
@[simp] theorem modCounter_swo : (d.modCounter i f).swo = d.swo := rfl
@[simp] theorem modCounter_swoLvl : (d.modCounter i f).swoLvl = d.swoLvl := rfl
@[simp] theorem modCounter_swoHiZ : (d.modCounter i f).swoHiZ = d.swoHiZ := rfl
@[simp] theorem modCounter_fns : (d.modCounter i f).fns = d.fns := rfl
@[simp] theorem modCounter_vfEn : (d.modCounter i f).vfEn = d.vfEn := rfl
@[simp] theorem modCounter_numVfs : (d.modCounter i f).numVfs = d.numVfs := rfl
@[simp] theorem modCounter_rings : (d.modCounter i f).rings = d.rings := rfl
@[simp] theorem modCounter_cmds : (d.modCounter i f).cmds = d.cmds := rfl
@[simp] theorem modCounter_nextId : (d.modCounter i f).nextId = d.nextId := rfl
@[simp] theorem modCounter_capts : (d.modCounter i f).capts = d.capts := rfl
@[simp] theorem modCounter_ques : (d.modCounter i f).ques = d.ques := rfl
@[simp] theorem modCounter_eseq : (d.modCounter i f).eseq = d.eseq := rfl
@[simp] theorem modCounter_cvus : (d.modCounter i f).cvus = d.cvus := rfl
@[simp] theorem modCounter_sec : (d.modCounter i f).sec = d.sec := rfl
@[simp] theorem modCounter_mnt : (d.modCounter i f).mnt = d.mnt := rfl
@[simp] theorem modCounter_pwr : (d.modCounter i f).pwr = d.pwr := rfl
@[simp] theorem modCounter_jtag : (d.modCounter i f).jtag = d.jtag := rfl
@[simp] theorem modCounter_freeCtr : (d.modCounter i f).freeCtr = d.freeCtr := rfl
@[simp] theorem modCounter_posted : (d.modCounter i f).posted = d.posted := rfl
@[simp] theorem modCounter_port (k : Nat) : (d.modCounter i f).port k = d.port k := rfl
@[simp] theorem modCounter_group (k : Nat) : (d.modCounter i f).group k = d.group k := rfl
@[simp] theorem modCounter_dec (k : Nat) : (d.modCounter i f).dec k = d.dec k := rfl
@[simp] theorem modCounter_enc (k : Nat) : (d.modCounter i f).enc k = d.enc k := rfl
@[simp] theorem modCounter_node (k : Nat) : (d.modCounter i f).node k = d.node k := rfl
@[simp] theorem modCounter_fn (k : Nat) : (d.modCounter i f).fn k = d.fn k := rfl
@[simp] theorem modCounter_ring (k : Nat) : (d.modCounter i f).ring k = d.ring k := rfl
@[simp] theorem modCounter_cvu (k : Nat) : (d.modCounter i f).cvu k = d.cvu k := rfl
@[simp] theorem modCounter_key (k : Nat) : (d.modCounter i f).key k = d.key k := rfl
@[simp] theorem modCounter_mapSet (k : Nat) : (d.modCounter i f).mapSet k = d.mapSet k := rfl
@[simp] theorem modCounter_mset (k : Nat) : (d.modCounter i f).mset k = d.mset k := rfl
@[simp] theorem modCounter_lossy (k : Nat) : (d.modCounter i f).lossy k = d.lossy k := rfl
@[simp] theorem modCounter_acct (k : Nat) : (d.modCounter i f).acct k = d.acct k := rfl
@[simp] theorem modCounter_wmark (k : Nat) : (d.modCounter i f).wmark k = d.wmark k := rfl
@[simp] theorem modCounter_reg (k : Nat) : (d.modCounter i f).reg k = d.reg k := rfl
@[simp] theorem modCounter_cnts_swn : (d.modCounter i f).cnts.swn = d.cnts.swn := rfl
@[simp] theorem modCounter_cnts_sets : (d.modCounter i f).cnts.sets = d.cnts.sets := rfl
@[simp] theorem modCounter_cnts_snaps : (d.modCounter i f).cnts.snaps = d.cnts.snaps := rfl
@[simp] theorem modCounter_cnts_ix : (d.modCounter i f).cnts.ix = d.cnts.ix := rfl
@[simp] theorem modCounter_cnts_mpt : (d.modCounter i f).cnts.mpt = d.cnts.mpt := rfl
@[simp] theorem modCounter_cnts_swept : (d.modCounter i f).cnts.swept = d.cnts.swept := rfl
@[simp] theorem modCounter_cnts_us : (d.modCounter i f).cnts.us = d.cnts.us := rfl
@[simp] theorem modCounter_cnts_dueSets : (d.modCounter i f).cnts.dueSets = d.cnts.dueSets := rfl
@[simp] theorem modCounter_cnts_dueSnaps : (d.modCounter i f).cnts.dueSnaps = d.cnts.dueSnaps := rfl
@[simp] theorem modCounter_cnts_lfsr : (d.modCounter i f).cnts.lfsr = d.cnts.lfsr := rfl
@[simp] theorem modCounter_cnts_clid : (d.modCounter i f).cnts.clid = d.cnts.clid := rfl
@[simp] theorem modCounter_fld (o hi lo : Nat) : (d.modCounter i f).fld o hi lo = d.fld o hi lo := rfl
@[simp] theorem modCounter_flag (o b : Nat) : (d.modCounter i f).flag o b = d.flag o b := rfl
@[simp] theorem modCounter_mpt : (d.modCounter i f).mpt = d.mpt := rfl
@[simp] theorem modCounter_bpPhase : (d.modCounter i f).bpPhase = d.bpPhase := rfl
end

section
variable (d : Dev) (o v : Nat)
@[simp] theorem setReg_dev : (d.setReg o v).dev = d.dev := rfl
@[simp] theorem setReg_clk : (d.setReg o v).clk = d.clk := rfl
@[simp] theorem setReg_busOut : (d.setReg o v).busOut = d.busOut := rfl
@[simp] theorem setReg_tb : (d.setReg o v).tb = d.tb := rfl
@[simp] theorem setReg_msync : (d.setReg o v).msync = d.msync := rfl
@[simp] theorem setReg_segPrev : (d.setReg o v).segPrev = d.segPrev := rfl
@[simp] theorem setReg_ports : (d.setReg o v).ports = d.ports := rfl
@[simp] theorem setReg_groups : (d.setReg o v).groups = d.groups := rfl
@[simp] theorem setReg_decs : (d.setReg o v).decs = d.decs := rfl
@[simp] theorem setReg_encs : (d.setReg o v).encs = d.encs := rfl
@[simp] theorem setReg_shadow : (d.setReg o v).shadow = d.shadow := rfl
@[simp] theorem setReg_late : (d.setReg o v).late = d.late := rfl
@[simp] theorem setReg_unit : (d.setReg o v).unit = d.unit := rfl
@[simp] theorem setReg_present : (d.setReg o v).present = d.present := rfl
@[simp] theorem setReg_gaps : (d.setReg o v).gaps = d.gaps := rfl
@[simp] theorem setReg_keys : (d.setReg o v).keys = d.keys := rfl
@[simp] theorem setReg_sets : (d.setReg o v).sets = d.sets := rfl
@[simp] theorem setReg_pins : (d.setReg o v).pins = d.pins := rfl
@[simp] theorem setReg_asked : (d.setReg o v).asked = d.asked := rfl
@[simp] theorem setReg_sess : (d.setReg o v).sess = d.sess := rfl
@[simp] theorem setReg_sndId : (d.setReg o v).sndId = d.sndId := rfl
@[simp] theorem setReg_nodes : (d.setReg o v).nodes = d.nodes := rfl
@[simp] theorem setReg_routes : (d.setReg o v).routes = d.routes := rfl
@[simp] theorem setReg_policy : (d.setReg o v).policy = d.policy := rfl
@[simp] theorem setReg_fwd : (d.setReg o v).fwd = d.fwd := rfl
@[simp] theorem setReg_fwdWait : (d.setReg o v).fwdWait = d.fwdWait := rfl
@[simp] theorem setReg_meas : (d.setReg o v).meas = d.meas := rfl
@[simp] theorem setReg_swo : (d.setReg o v).swo = d.swo := rfl
@[simp] theorem setReg_swoLvl : (d.setReg o v).swoLvl = d.swoLvl := rfl
@[simp] theorem setReg_swoHiZ : (d.setReg o v).swoHiZ = d.swoHiZ := rfl
@[simp] theorem setReg_fns : (d.setReg o v).fns = d.fns := rfl
@[simp] theorem setReg_vfEn : (d.setReg o v).vfEn = d.vfEn := rfl
@[simp] theorem setReg_numVfs : (d.setReg o v).numVfs = d.numVfs := rfl
@[simp] theorem setReg_rings : (d.setReg o v).rings = d.rings := rfl
@[simp] theorem setReg_cmds : (d.setReg o v).cmds = d.cmds := rfl
@[simp] theorem setReg_nextId : (d.setReg o v).nextId = d.nextId := rfl
@[simp] theorem setReg_capts : (d.setReg o v).capts = d.capts := rfl
@[simp] theorem setReg_ques : (d.setReg o v).ques = d.ques := rfl
@[simp] theorem setReg_eseq : (d.setReg o v).eseq = d.eseq := rfl
@[simp] theorem setReg_cvus : (d.setReg o v).cvus = d.cvus := rfl
@[simp] theorem setReg_sec : (d.setReg o v).sec = d.sec := rfl
@[simp] theorem setReg_cnts : (d.setReg o v).cnts = d.cnts := rfl
@[simp] theorem setReg_mnt : (d.setReg o v).mnt = d.mnt := rfl
@[simp] theorem setReg_pwr : (d.setReg o v).pwr = d.pwr := rfl
@[simp] theorem setReg_jtag : (d.setReg o v).jtag = d.jtag := rfl
@[simp] theorem setReg_freeCtr : (d.setReg o v).freeCtr = d.freeCtr := rfl
@[simp] theorem setReg_posted : (d.setReg o v).posted = d.posted := rfl
@[simp] theorem setReg_port (k : Nat) : (d.setReg o v).port k = d.port k := rfl
@[simp] theorem setReg_group (k : Nat) : (d.setReg o v).group k = d.group k := rfl
@[simp] theorem setReg_dec (k : Nat) : (d.setReg o v).dec k = d.dec k := rfl
@[simp] theorem setReg_enc (k : Nat) : (d.setReg o v).enc k = d.enc k := rfl
@[simp] theorem setReg_node (k : Nat) : (d.setReg o v).node k = d.node k := rfl
@[simp] theorem setReg_fn (k : Nat) : (d.setReg o v).fn k = d.fn k := rfl
@[simp] theorem setReg_ring (k : Nat) : (d.setReg o v).ring k = d.ring k := rfl
@[simp] theorem setReg_cvu (k : Nat) : (d.setReg o v).cvu k = d.cvu k := rfl
@[simp] theorem setReg_key (k : Nat) : (d.setReg o v).key k = d.key k := rfl
@[simp] theorem setReg_mapSet (k : Nat) : (d.setReg o v).mapSet k = d.mapSet k := rfl
@[simp] theorem setReg_mset (k : Nat) : (d.setReg o v).mset k = d.mset k := rfl
@[simp] theorem setReg_lossy (k : Nat) : (d.setReg o v).lossy k = d.lossy k := rfl
@[simp] theorem setReg_acct (k : Nat) : (d.setReg o v).acct k = d.acct k := rfl
@[simp] theorem setReg_wmark (k : Nat) : (d.setReg o v).wmark k = d.wmark k := rfl
@[simp] theorem setReg_counter (k : Nat) : (d.setReg o v).counter k = d.counter k := rfl
@[simp] theorem setReg_mpt : (d.setReg o v).mpt = d.mpt := rfl
@[simp] theorem setReg_bpPhase : (d.setReg o v).bpPhase = d.bpPhase := rfl
end

section
variable (d : Dev) (o hi lo v : Nat)
@[simp] theorem setFld_dev : (d.setFld o hi lo v).dev = d.dev := rfl
@[simp] theorem setFld_clk : (d.setFld o hi lo v).clk = d.clk := rfl
@[simp] theorem setFld_busOut : (d.setFld o hi lo v).busOut = d.busOut := rfl
@[simp] theorem setFld_tb : (d.setFld o hi lo v).tb = d.tb := rfl
@[simp] theorem setFld_msync : (d.setFld o hi lo v).msync = d.msync := rfl
@[simp] theorem setFld_segPrev : (d.setFld o hi lo v).segPrev = d.segPrev := rfl
@[simp] theorem setFld_ports : (d.setFld o hi lo v).ports = d.ports := rfl
@[simp] theorem setFld_groups : (d.setFld o hi lo v).groups = d.groups := rfl
@[simp] theorem setFld_decs : (d.setFld o hi lo v).decs = d.decs := rfl
@[simp] theorem setFld_encs : (d.setFld o hi lo v).encs = d.encs := rfl
@[simp] theorem setFld_shadow : (d.setFld o hi lo v).shadow = d.shadow := rfl
@[simp] theorem setFld_late : (d.setFld o hi lo v).late = d.late := rfl
@[simp] theorem setFld_unit : (d.setFld o hi lo v).unit = d.unit := rfl
@[simp] theorem setFld_present : (d.setFld o hi lo v).present = d.present := rfl
@[simp] theorem setFld_gaps : (d.setFld o hi lo v).gaps = d.gaps := rfl
@[simp] theorem setFld_keys : (d.setFld o hi lo v).keys = d.keys := rfl
@[simp] theorem setFld_sets : (d.setFld o hi lo v).sets = d.sets := rfl
@[simp] theorem setFld_pins : (d.setFld o hi lo v).pins = d.pins := rfl
@[simp] theorem setFld_asked : (d.setFld o hi lo v).asked = d.asked := rfl
@[simp] theorem setFld_sess : (d.setFld o hi lo v).sess = d.sess := rfl
@[simp] theorem setFld_sndId : (d.setFld o hi lo v).sndId = d.sndId := rfl
@[simp] theorem setFld_nodes : (d.setFld o hi lo v).nodes = d.nodes := rfl
@[simp] theorem setFld_routes : (d.setFld o hi lo v).routes = d.routes := rfl
@[simp] theorem setFld_policy : (d.setFld o hi lo v).policy = d.policy := rfl
@[simp] theorem setFld_fwd : (d.setFld o hi lo v).fwd = d.fwd := rfl
@[simp] theorem setFld_fwdWait : (d.setFld o hi lo v).fwdWait = d.fwdWait := rfl
@[simp] theorem setFld_meas : (d.setFld o hi lo v).meas = d.meas := rfl
@[simp] theorem setFld_swo : (d.setFld o hi lo v).swo = d.swo := rfl
@[simp] theorem setFld_swoLvl : (d.setFld o hi lo v).swoLvl = d.swoLvl := rfl
@[simp] theorem setFld_swoHiZ : (d.setFld o hi lo v).swoHiZ = d.swoHiZ := rfl
@[simp] theorem setFld_fns : (d.setFld o hi lo v).fns = d.fns := rfl
@[simp] theorem setFld_vfEn : (d.setFld o hi lo v).vfEn = d.vfEn := rfl
@[simp] theorem setFld_numVfs : (d.setFld o hi lo v).numVfs = d.numVfs := rfl
@[simp] theorem setFld_rings : (d.setFld o hi lo v).rings = d.rings := rfl
@[simp] theorem setFld_cmds : (d.setFld o hi lo v).cmds = d.cmds := rfl
@[simp] theorem setFld_nextId : (d.setFld o hi lo v).nextId = d.nextId := rfl
@[simp] theorem setFld_capts : (d.setFld o hi lo v).capts = d.capts := rfl
@[simp] theorem setFld_ques : (d.setFld o hi lo v).ques = d.ques := rfl
@[simp] theorem setFld_eseq : (d.setFld o hi lo v).eseq = d.eseq := rfl
@[simp] theorem setFld_cvus : (d.setFld o hi lo v).cvus = d.cvus := rfl
@[simp] theorem setFld_sec : (d.setFld o hi lo v).sec = d.sec := rfl
@[simp] theorem setFld_cnts : (d.setFld o hi lo v).cnts = d.cnts := rfl
@[simp] theorem setFld_mnt : (d.setFld o hi lo v).mnt = d.mnt := rfl
@[simp] theorem setFld_pwr : (d.setFld o hi lo v).pwr = d.pwr := rfl
@[simp] theorem setFld_jtag : (d.setFld o hi lo v).jtag = d.jtag := rfl
@[simp] theorem setFld_freeCtr : (d.setFld o hi lo v).freeCtr = d.freeCtr := rfl
@[simp] theorem setFld_posted : (d.setFld o hi lo v).posted = d.posted := rfl
@[simp] theorem setFld_port (k : Nat) : (d.setFld o hi lo v).port k = d.port k := rfl
@[simp] theorem setFld_group (k : Nat) : (d.setFld o hi lo v).group k = d.group k := rfl
@[simp] theorem setFld_dec (k : Nat) : (d.setFld o hi lo v).dec k = d.dec k := rfl
@[simp] theorem setFld_enc (k : Nat) : (d.setFld o hi lo v).enc k = d.enc k := rfl
@[simp] theorem setFld_node (k : Nat) : (d.setFld o hi lo v).node k = d.node k := rfl
@[simp] theorem setFld_fn (k : Nat) : (d.setFld o hi lo v).fn k = d.fn k := rfl
@[simp] theorem setFld_ring (k : Nat) : (d.setFld o hi lo v).ring k = d.ring k := rfl
@[simp] theorem setFld_cvu (k : Nat) : (d.setFld o hi lo v).cvu k = d.cvu k := rfl
@[simp] theorem setFld_key (k : Nat) : (d.setFld o hi lo v).key k = d.key k := rfl
@[simp] theorem setFld_mapSet (k : Nat) : (d.setFld o hi lo v).mapSet k = d.mapSet k := rfl
@[simp] theorem setFld_mset (k : Nat) : (d.setFld o hi lo v).mset k = d.mset k := rfl
@[simp] theorem setFld_lossy (k : Nat) : (d.setFld o hi lo v).lossy k = d.lossy k := rfl
@[simp] theorem setFld_acct (k : Nat) : (d.setFld o hi lo v).acct k = d.acct k := rfl
@[simp] theorem setFld_wmark (k : Nat) : (d.setFld o hi lo v).wmark k = d.wmark k := rfl
@[simp] theorem setFld_counter (k : Nat) : (d.setFld o hi lo v).counter k = d.counter k := rfl
@[simp] theorem setFld_mpt : (d.setFld o hi lo v).mpt = d.mpt := rfl
@[simp] theorem setFld_bpPhase : (d.setFld o hi lo v).bpPhase = d.bpPhase := rfl
end

section
variable (d : Dev) (v : Nat)
@[simp] theorem toBus_dev : (d.toBus v).dev = d.dev := rfl
@[simp] theorem toBus_clk : (d.toBus v).clk = d.clk := rfl
@[simp] theorem toBus_regs : (d.toBus v).regs = d.regs := rfl
@[simp] theorem toBus_tb : (d.toBus v).tb = d.tb := rfl
@[simp] theorem toBus_msync : (d.toBus v).msync = d.msync := rfl
@[simp] theorem toBus_segPrev : (d.toBus v).segPrev = d.segPrev := rfl
@[simp] theorem toBus_ports : (d.toBus v).ports = d.ports := rfl
@[simp] theorem toBus_groups : (d.toBus v).groups = d.groups := rfl
@[simp] theorem toBus_decs : (d.toBus v).decs = d.decs := rfl
@[simp] theorem toBus_encs : (d.toBus v).encs = d.encs := rfl
@[simp] theorem toBus_shadow : (d.toBus v).shadow = d.shadow := rfl
@[simp] theorem toBus_late : (d.toBus v).late = d.late := rfl
@[simp] theorem toBus_unit : (d.toBus v).unit = d.unit := rfl
@[simp] theorem toBus_present : (d.toBus v).present = d.present := rfl
@[simp] theorem toBus_gaps : (d.toBus v).gaps = d.gaps := rfl
@[simp] theorem toBus_keys : (d.toBus v).keys = d.keys := rfl
@[simp] theorem toBus_sets : (d.toBus v).sets = d.sets := rfl
@[simp] theorem toBus_pins : (d.toBus v).pins = d.pins := rfl
@[simp] theorem toBus_asked : (d.toBus v).asked = d.asked := rfl
@[simp] theorem toBus_sess : (d.toBus v).sess = d.sess := rfl
@[simp] theorem toBus_sndId : (d.toBus v).sndId = d.sndId := rfl
@[simp] theorem toBus_nodes : (d.toBus v).nodes = d.nodes := rfl
@[simp] theorem toBus_routes : (d.toBus v).routes = d.routes := rfl
@[simp] theorem toBus_policy : (d.toBus v).policy = d.policy := rfl
@[simp] theorem toBus_fwd : (d.toBus v).fwd = d.fwd := rfl
@[simp] theorem toBus_fwdWait : (d.toBus v).fwdWait = d.fwdWait := rfl
@[simp] theorem toBus_meas : (d.toBus v).meas = d.meas := rfl
@[simp] theorem toBus_swo : (d.toBus v).swo = d.swo := rfl
@[simp] theorem toBus_swoLvl : (d.toBus v).swoLvl = d.swoLvl := rfl
@[simp] theorem toBus_swoHiZ : (d.toBus v).swoHiZ = d.swoHiZ := rfl
@[simp] theorem toBus_fns : (d.toBus v).fns = d.fns := rfl
@[simp] theorem toBus_vfEn : (d.toBus v).vfEn = d.vfEn := rfl
@[simp] theorem toBus_numVfs : (d.toBus v).numVfs = d.numVfs := rfl
@[simp] theorem toBus_rings : (d.toBus v).rings = d.rings := rfl
@[simp] theorem toBus_cmds : (d.toBus v).cmds = d.cmds := rfl
@[simp] theorem toBus_nextId : (d.toBus v).nextId = d.nextId := rfl
@[simp] theorem toBus_capts : (d.toBus v).capts = d.capts := rfl
@[simp] theorem toBus_ques : (d.toBus v).ques = d.ques := rfl
@[simp] theorem toBus_eseq : (d.toBus v).eseq = d.eseq := rfl
@[simp] theorem toBus_cvus : (d.toBus v).cvus = d.cvus := rfl
@[simp] theorem toBus_sec : (d.toBus v).sec = d.sec := rfl
@[simp] theorem toBus_cnts : (d.toBus v).cnts = d.cnts := rfl
@[simp] theorem toBus_mnt : (d.toBus v).mnt = d.mnt := rfl
@[simp] theorem toBus_pwr : (d.toBus v).pwr = d.pwr := rfl
@[simp] theorem toBus_jtag : (d.toBus v).jtag = d.jtag := rfl
@[simp] theorem toBus_freeCtr : (d.toBus v).freeCtr = d.freeCtr := rfl
@[simp] theorem toBus_posted : (d.toBus v).posted = d.posted := rfl
@[simp] theorem toBus_port (k : Nat) : (d.toBus v).port k = d.port k := rfl
@[simp] theorem toBus_group (k : Nat) : (d.toBus v).group k = d.group k := rfl
@[simp] theorem toBus_dec (k : Nat) : (d.toBus v).dec k = d.dec k := rfl
@[simp] theorem toBus_enc (k : Nat) : (d.toBus v).enc k = d.enc k := rfl
@[simp] theorem toBus_node (k : Nat) : (d.toBus v).node k = d.node k := rfl
@[simp] theorem toBus_fn (k : Nat) : (d.toBus v).fn k = d.fn k := rfl
@[simp] theorem toBus_ring (k : Nat) : (d.toBus v).ring k = d.ring k := rfl
@[simp] theorem toBus_cvu (k : Nat) : (d.toBus v).cvu k = d.cvu k := rfl
@[simp] theorem toBus_key (k : Nat) : (d.toBus v).key k = d.key k := rfl
@[simp] theorem toBus_mapSet (k : Nat) : (d.toBus v).mapSet k = d.mapSet k := rfl
@[simp] theorem toBus_mset (k : Nat) : (d.toBus v).mset k = d.mset k := rfl
@[simp] theorem toBus_lossy (k : Nat) : (d.toBus v).lossy k = d.lossy k := rfl
@[simp] theorem toBus_acct (k : Nat) : (d.toBus v).acct k = d.acct k := rfl
@[simp] theorem toBus_wmark (k : Nat) : (d.toBus v).wmark k = d.wmark k := rfl
@[simp] theorem toBus_counter (k : Nat) : (d.toBus v).counter k = d.counter k := rfl
@[simp] theorem toBus_reg (k : Nat) : (d.toBus v).reg k = d.reg k := rfl
@[simp] theorem toBus_mpt : (d.toBus v).mpt = d.mpt := rfl
@[simp] theorem toBus_bpPhase : (d.toBus v).bpPhase = d.bpPhase := rfl
end

section
variable (d : Dev)
@[simp] theorem free_dev : d.free.2.dev = d.dev := rfl
@[simp] theorem free_clk : d.free.2.clk = d.clk := rfl
@[simp] theorem free_regs : d.free.2.regs = d.regs := rfl
@[simp] theorem free_busOut : d.free.2.busOut = d.busOut := rfl
@[simp] theorem free_tb : d.free.2.tb = d.tb := rfl
@[simp] theorem free_msync : d.free.2.msync = d.msync := rfl
@[simp] theorem free_segPrev : d.free.2.segPrev = d.segPrev := rfl
@[simp] theorem free_ports : d.free.2.ports = d.ports := rfl
@[simp] theorem free_groups : d.free.2.groups = d.groups := rfl
@[simp] theorem free_decs : d.free.2.decs = d.decs := rfl
@[simp] theorem free_encs : d.free.2.encs = d.encs := rfl
@[simp] theorem free_shadow : d.free.2.shadow = d.shadow := rfl
@[simp] theorem free_late : d.free.2.late = d.late := rfl
@[simp] theorem free_unit : d.free.2.unit = d.unit := rfl
@[simp] theorem free_present : d.free.2.present = d.present := rfl
@[simp] theorem free_gaps : d.free.2.gaps = d.gaps := rfl
@[simp] theorem free_keys : d.free.2.keys = d.keys := rfl
@[simp] theorem free_sets : d.free.2.sets = d.sets := rfl
@[simp] theorem free_pins : d.free.2.pins = d.pins := rfl
@[simp] theorem free_asked : d.free.2.asked = d.asked := rfl
@[simp] theorem free_sess : d.free.2.sess = d.sess := rfl
@[simp] theorem free_sndId : d.free.2.sndId = d.sndId := rfl
@[simp] theorem free_nodes : d.free.2.nodes = d.nodes := rfl
@[simp] theorem free_routes : d.free.2.routes = d.routes := rfl
@[simp] theorem free_policy : d.free.2.policy = d.policy := rfl
@[simp] theorem free_fwd : d.free.2.fwd = d.fwd := rfl
@[simp] theorem free_fwdWait : d.free.2.fwdWait = d.fwdWait := rfl
@[simp] theorem free_meas : d.free.2.meas = d.meas := rfl
@[simp] theorem free_swo : d.free.2.swo = d.swo := rfl
@[simp] theorem free_swoLvl : d.free.2.swoLvl = d.swoLvl := rfl
@[simp] theorem free_swoHiZ : d.free.2.swoHiZ = d.swoHiZ := rfl
@[simp] theorem free_fns : d.free.2.fns = d.fns := rfl
@[simp] theorem free_vfEn : d.free.2.vfEn = d.vfEn := rfl
@[simp] theorem free_numVfs : d.free.2.numVfs = d.numVfs := rfl
@[simp] theorem free_rings : d.free.2.rings = d.rings := rfl
@[simp] theorem free_cmds : d.free.2.cmds = d.cmds := rfl
@[simp] theorem free_nextId : d.free.2.nextId = d.nextId := rfl
@[simp] theorem free_capts : d.free.2.capts = d.capts := rfl
@[simp] theorem free_ques : d.free.2.ques = d.ques := rfl
@[simp] theorem free_eseq : d.free.2.eseq = d.eseq := rfl
@[simp] theorem free_cvus : d.free.2.cvus = d.cvus := rfl
@[simp] theorem free_sec : d.free.2.sec = d.sec := rfl
@[simp] theorem free_cnts : d.free.2.cnts = d.cnts := rfl
@[simp] theorem free_mnt : d.free.2.mnt = d.mnt := rfl
@[simp] theorem free_pwr : d.free.2.pwr = d.pwr := rfl
@[simp] theorem free_jtag : d.free.2.jtag = d.jtag := rfl
@[simp] theorem free_posted : d.free.2.posted = d.posted := rfl
@[simp] theorem free_port (k : Nat) : d.free.2.port k = d.port k := rfl
@[simp] theorem free_group (k : Nat) : d.free.2.group k = d.group k := rfl
@[simp] theorem free_dec (k : Nat) : d.free.2.dec k = d.dec k := rfl
@[simp] theorem free_enc (k : Nat) : d.free.2.enc k = d.enc k := rfl
@[simp] theorem free_node (k : Nat) : d.free.2.node k = d.node k := rfl
@[simp] theorem free_fn (k : Nat) : d.free.2.fn k = d.fn k := rfl
@[simp] theorem free_ring (k : Nat) : d.free.2.ring k = d.ring k := rfl
@[simp] theorem free_cvu (k : Nat) : d.free.2.cvu k = d.cvu k := rfl
@[simp] theorem free_key (k : Nat) : d.free.2.key k = d.key k := rfl
@[simp] theorem free_mapSet (k : Nat) : d.free.2.mapSet k = d.mapSet k := rfl
@[simp] theorem free_mset (k : Nat) : d.free.2.mset k = d.mset k := rfl
@[simp] theorem free_lossy (k : Nat) : d.free.2.lossy k = d.lossy k := rfl
@[simp] theorem free_acct (k : Nat) : d.free.2.acct k = d.acct k := rfl
@[simp] theorem free_wmark (k : Nat) : d.free.2.wmark k = d.wmark k := rfl
@[simp] theorem free_counter (k : Nat) : d.free.2.counter k = d.counter k := rfl
@[simp] theorem free_reg (k : Nat) : d.free.2.reg k = d.reg k := rfl
@[simp] theorem free_mpt : d.free.2.mpt = d.mpt := rfl
@[simp] theorem free_bpPhase : d.free.2.bpPhase = d.bpPhase := rfl
end

section
variable (d : Dev) (a : Nat) (bs : List Byte)
@[simp] theorem post_dev : (d.post a bs).dev = d.dev := rfl
@[simp] theorem post_clk : (d.post a bs).clk = d.clk := rfl
@[simp] theorem post_regs : (d.post a bs).regs = d.regs := rfl
@[simp] theorem post_busOut : (d.post a bs).busOut = d.busOut := rfl
@[simp] theorem post_tb : (d.post a bs).tb = d.tb := rfl
@[simp] theorem post_msync : (d.post a bs).msync = d.msync := rfl
@[simp] theorem post_segPrev : (d.post a bs).segPrev = d.segPrev := rfl
@[simp] theorem post_ports : (d.post a bs).ports = d.ports := rfl
@[simp] theorem post_groups : (d.post a bs).groups = d.groups := rfl
@[simp] theorem post_decs : (d.post a bs).decs = d.decs := rfl
@[simp] theorem post_encs : (d.post a bs).encs = d.encs := rfl
@[simp] theorem post_shadow : (d.post a bs).shadow = d.shadow := rfl
@[simp] theorem post_late : (d.post a bs).late = d.late := rfl
@[simp] theorem post_unit : (d.post a bs).unit = d.unit := rfl
@[simp] theorem post_present : (d.post a bs).present = d.present := rfl
@[simp] theorem post_gaps : (d.post a bs).gaps = d.gaps := rfl
@[simp] theorem post_keys : (d.post a bs).keys = d.keys := rfl
@[simp] theorem post_sets : (d.post a bs).sets = d.sets := rfl
@[simp] theorem post_pins : (d.post a bs).pins = d.pins := rfl
@[simp] theorem post_asked : (d.post a bs).asked = d.asked := rfl
@[simp] theorem post_sess : (d.post a bs).sess = d.sess := rfl
@[simp] theorem post_sndId : (d.post a bs).sndId = d.sndId := rfl
@[simp] theorem post_nodes : (d.post a bs).nodes = d.nodes := rfl
@[simp] theorem post_routes : (d.post a bs).routes = d.routes := rfl
@[simp] theorem post_policy : (d.post a bs).policy = d.policy := rfl
@[simp] theorem post_fwd : (d.post a bs).fwd = d.fwd := rfl
@[simp] theorem post_fwdWait : (d.post a bs).fwdWait = d.fwdWait := rfl
@[simp] theorem post_meas : (d.post a bs).meas = d.meas := rfl
@[simp] theorem post_swo : (d.post a bs).swo = d.swo := rfl
@[simp] theorem post_swoLvl : (d.post a bs).swoLvl = d.swoLvl := rfl
@[simp] theorem post_swoHiZ : (d.post a bs).swoHiZ = d.swoHiZ := rfl
@[simp] theorem post_fns : (d.post a bs).fns = d.fns := rfl
@[simp] theorem post_vfEn : (d.post a bs).vfEn = d.vfEn := rfl
@[simp] theorem post_numVfs : (d.post a bs).numVfs = d.numVfs := rfl
@[simp] theorem post_rings : (d.post a bs).rings = d.rings := rfl
@[simp] theorem post_cmds : (d.post a bs).cmds = d.cmds := rfl
@[simp] theorem post_nextId : (d.post a bs).nextId = d.nextId := rfl
@[simp] theorem post_capts : (d.post a bs).capts = d.capts := rfl
@[simp] theorem post_ques : (d.post a bs).ques = d.ques := rfl
@[simp] theorem post_eseq : (d.post a bs).eseq = d.eseq := rfl
@[simp] theorem post_cvus : (d.post a bs).cvus = d.cvus := rfl
@[simp] theorem post_sec : (d.post a bs).sec = d.sec := rfl
@[simp] theorem post_cnts : (d.post a bs).cnts = d.cnts := rfl
@[simp] theorem post_mnt : (d.post a bs).mnt = d.mnt := rfl
@[simp] theorem post_pwr : (d.post a bs).pwr = d.pwr := rfl
@[simp] theorem post_jtag : (d.post a bs).jtag = d.jtag := rfl
@[simp] theorem post_freeCtr : (d.post a bs).freeCtr = d.freeCtr := rfl
@[simp] theorem post_port (k : Nat) : (d.post a bs).port k = d.port k := rfl
@[simp] theorem post_group (k : Nat) : (d.post a bs).group k = d.group k := rfl
@[simp] theorem post_dec (k : Nat) : (d.post a bs).dec k = d.dec k := rfl
@[simp] theorem post_enc (k : Nat) : (d.post a bs).enc k = d.enc k := rfl
@[simp] theorem post_node (k : Nat) : (d.post a bs).node k = d.node k := rfl
@[simp] theorem post_fn (k : Nat) : (d.post a bs).fn k = d.fn k := rfl
@[simp] theorem post_ring (k : Nat) : (d.post a bs).ring k = d.ring k := rfl
@[simp] theorem post_cvu (k : Nat) : (d.post a bs).cvu k = d.cvu k := rfl
@[simp] theorem post_key (k : Nat) : (d.post a bs).key k = d.key k := rfl
@[simp] theorem post_mapSet (k : Nat) : (d.post a bs).mapSet k = d.mapSet k := rfl
@[simp] theorem post_mset (k : Nat) : (d.post a bs).mset k = d.mset k := rfl
@[simp] theorem post_lossy (k : Nat) : (d.post a bs).lossy k = d.lossy k := rfl
@[simp] theorem post_acct (k : Nat) : (d.post a bs).acct k = d.acct k := rfl
@[simp] theorem post_wmark (k : Nat) : (d.post a bs).wmark k = d.wmark k := rfl
@[simp] theorem post_counter (k : Nat) : (d.post a bs).counter k = d.counter k := rfl
@[simp] theorem post_reg (k : Nat) : (d.post a bs).reg k = d.reg k := rfl
@[simp] theorem post_mpt : (d.post a bs).mpt = d.mpt := rfl
@[simp] theorem post_bpPhase : (d.post a bs).bpPhase = d.bpPhase := rfl
end

end Sys2Proof.Machine
end

