-- ==== Sys2Proof/Laws/Wave.lean ====
section
/-! SUPPORT. Lengths without masked carriers (06 R142-R144, 08 R198, R202, R207): closed forms, since they are long to count out. -/

namespace Sys2Proof.Machine

/-- Entries whose attenuation code is 0 mask nothing (06 R150). -/
def Unmasked (es : List (BitVec 32)) : Prop := ∀ e ∈ es, bits e.toNat 31 28 = 0

/-- The usable carriers of profile `p` that are no pilots in symbol `m`. -/
def openCount (p m : Nat) : Nat :=
  profCarriers p - ((profTop p + 32 - 8 * (m % 4)) / 32 - (126 - 8 * (m % 4)) / 32)

theorem foldl_masks_nothing (k : Nat) : ∀ (es : List (BitVec 32)), Unmasked es → ∀ a : Nat,
    es.foldl (fun a e =>
      let att := bits e.toNat 31 28
      if att ≠ 0 ∧ bits e.toNat 13 0 ≤ k ∧ k ≤ bits e.toNat 27 14 then max a att else a) a = a := by
  intro es
  induction es with
  | nil => intro _ _; rfl
  | cons e es ih =>
    intro h a
    have he : bits e.toNat 31 28 = 0 := h e (by simp)
    rw [List.foldl_cons]
    simp only [he, ne_eq, not_true_eq_false, false_and, if_false]
    exact ih (fun x hx => h x (List.mem_cons_of_mem _ hx)) a

theorem notched_unmasked {es : List (BitVec 32)} (h : Unmasked es) (k : Nat) : notched es k = false := by
  rw [notched, maskCode, foldl_masks_nothing k es h 0]; rfl

theorem openCarriers_unmasked {es : List (BitVec 32)} (h : Unmasked es) (p : Nat) : openCarriers p es = usable p := by
  rw [openCarriers, List.filter_eq_self]
  intro k _; rw [notched_unmasked h]; rfl

/-- How many of `n` carriers from 95 on are no pilots of comb `c`. -/
theorem count_no_pilots (c : Nat) (hc : c < 4) : ∀ n : Nat,
    ((List.range n).filter (fun i => !decide ((i + 95) % 32 = 8 * c))).length =
      n - ((n + 126 - 8 * c) / 32 - (126 - 8 * c) / 32) := by
  intro n
  induction n with
  | zero => simp
  | succ n ih =>
    rw [List.range_succ, List.filter_append, List.length_append, ih]
    by_cases h : (n + 95) % 32 = 8 * c
    · simp only [List.filter_cons, h, decide_true, Bool.not_true, Bool.false_eq_true, if_false, List.filter_nil, List.length_nil]; omega
    · simp only [List.filter_cons, h, decide_false, Bool.not_false, if_true, List.filter_nil, List.length_cons, List.length_nil]; omega

theorem openData_unmasked {es : List (BitVec 32)} (h : Unmasked es) (p m : Nat) : openData p es m = openCount p m := by
  have e : profTop p = profCarriers p + 94 := by
    unfold profCarriers profTop; split <;> rfl
  rw [openData, dataCarriers, openCarriers_unmasked h, usable, List.filter_map, List.length_map, openCount, e]
  have f : ((fun k => !isPilot m k && decide (1 ≤ 2)) ∘ fun i => i + 95) = fun i => !decide ((i + 95) % 32 = 8 * (m % 4)) := by
    funext i; simp [isPilot]
  rw [f, count_no_pilots _ (Nat.mod_lt _ (by decide))]

theorem openCount_le (p m : Nat) : 1400 ≤ openCount p m := by
  have : m % 4 < 4 := Nat.mod_lt _ (by decide)
  have e : profCarriers p = profTop p - 94 := rfl
  have : 1572 ≤ profTop p := by unfold profTop; split <;> decide
  unfold openCount; omega

/-- Every profile holds frame control in one symbol where nothing is masked (08 R202). -/
theorem fcSymbols_unmasked {es : List (BitVec 32)} (h : Unmasked es) (p : Nat) : fcSymbols p es = 1 := by
  have := openCount_le p 0
  rw [fcSymbols, fcSymbolsFrom, if_neg (by decide), fcSymbolsFrom, openData_unmasked h, if_pos]
  simp [droneCap, droneOf]; omega

/-- Unit capacities of a Drone payload where nothing is masked. -/
def openCap (p : Nat) (d : Drone) (i : Nat) : Nat := droneCap d ((List.range d.time).map (fun t => openCount p (1 + i + t)))

theorem dronePayloadCap_unmasked {es : List (BitVec 32)} (h : Unmasked es) (p : Nat) (d : Drone) :
    dronePayloadCap p es d (fcSymbols p es) = openCap p d := by
  funext i; simp only [dronePayloadCap, fcSymbols_unmasked h, openData_unmasked h, openCap]

theorem droneNsym_unmasked {es : List (BitVec 32)} (h : Unmasked es) (p code n : Nat) :
    droneNsym p es code n = growNsym (droneOf code).time (openCap p (droneOf code)) (8332 * n) 4096 0 0 := by
  rw [droneNsym, dronePayloadCap_unmasked h]

theorem frameLen_unmasked {es : List (BitVec 32)} (h : Unmasked es) (p gi tw map : Nat) (mimo : Bool) (nsym : Nat) :
    frameLen p es gi tw map mimo nsym =
      preambleLen + (1 + trainCount map mimo nsym + nsym) * symPeriod gi + postfixLen tw := by
  rw [frameLen, fcSymbols_unmasked h]

/-- A frame takes time. -/
theorem frameLen_pos (p : Nat) (es : List (BitVec 32)) (gi tw map : Nat) (mimo : Bool) (nsym : Nat) :
    0 < frameLen p es gi tw map mimo nsym := by
  have : 0 < preambleLen := by decide
  unfold frameLen; omega

/-- A group's entries mask nothing where each of its registers has code 0. -/
theorem maskOf_unmasked (d : Dev) (g : Nat) (h : (d.maskOf g).all (fun e => decide (bits e.toNat 31 28 = 0)) = true) :
    Unmasked (d.maskOf g) := fun e he => by simpa using List.all_eq_true.mp h e he

end Sys2Proof.Machine
end

