-- ==== Sys2Proof/Tests/Slice0.lean ====
section
/-! SUPPORT. Tests: what is ill-formed is refused; for every statement with hypotheses, states and operands that meet them; and
single steps whose outcome the spec gives. Expected values are the spec's, cited at each test. -/

namespace Sys2Proof.Tests

open Sys2Proof.Machine

/- One theorem after the other: the threads of many at once, each with its stack, do not fit a memory limit. -/
set_option Elab.async false

/-! ### States and operands -/

/-- The fields of a command descriptor (16 Table CE.1), with values that most tests share. -/
structure CmdF where
  dt      : Nat := 4
  ablk    : Bool := false
  opc     : BitVec 8 := 0
  a0      : Nat := 0
  a1      : BitVec 32 := 0
  a2      : BitVec 16 := 0
  a3      : BitVec 32 := 0
  raddr   : Nat := 0
  block   : Option (List Byte) := none

/-- The descriptor, written out from the table: cookie 7. -/
def CmdF.desc (c : CmdF) : CmdDesc :=
  { raw := leBytes 8 c.a0 ++ leBytes 4 c.a1.toNat ++
      leBytes 4 (c.dt * 2 ^ 28 + b2n c.ablk * 2 ^ 27 + c.opc.toNat * 2 ^ 16 + c.a2.toNat) ++
      leBytes 4 c.a3.toNat ++ leBytes 4 7 ++ leBytes 8 c.raddr
    block := c.block, resFail := false }

/-- A descriptor with every argument 0. -/
def cmd0 : CmdDesc := ({} : CmdF).desc

/-- A ring of eight entries in use. -/
def ringOn : Ring := { Ring.init with st := .enabled, lg := 3, lastEn := true }

/-- A device in state `x`, with PF0 in use, one command waiting on the CMD ring and CMDC empty at 0x4000. -/
def inState (x : DevState) : Dev :=
  { Dev.init with
    dev := x
    fns := [(0, { Fn.init with active := true, en := true, bme := true })]
    rings := [(0, { ringOn with hostIdx := 1 }), (1, { ringOn with base := 0x4000 })] }

/-- A state around a device. -/
def st (d : Dev) : State := { dev := d, hostMem := [], pending := [] }

/-- What holds of the next state. -/
def after (o : Host.Outcome State Fault Refusal) (p : State → Bool) : Bool :=
  match o with
  | .next t => p t
  | _ => false

/-- The status byte of the first completion on CMDC. -/
def status (t : State) : Option Byte := Memory.read t.hostMem 0x4006

/-! ### Ill-formed operands -/

theorem wf_register_size : (Instr.registerWrite 0 3 0).wf = false := by decide
theorem wf_queue_number : (Instr.queueDirectRead 128).wf = false ∧ (Instr.queueOccRead 128).wf = false ∧
    (Instr.watermarkArm 128 0).wf = false := by decide
theorem wf_temperature_count : (Instr.talertRelease [25]).wf = false := by decide
theorem wf_temperature_range : (Instr.talertAssert 0 256).wf = false ∧ (Instr.quadrantShutdown 0 (-257)).wf = false ∧
    (Instr.quadrantPowerUp 0 256).wf = false ∧ (Instr.thermalShutdown 0 256).wf = false ∧
    (Instr.driverThermalFault 0 256).wf = false ∧ (Instr.driverFaultClear 0 256).wf = false := by decide
theorem wf_unit : (Instr.slotBoundary 8192).wf = false ∧ (Instr.bindingDelivery 8192 []).wf = false ∧
    (Instr.bindingDelivery 0 [192]).wf = false ∧ (Instr.toneMapFetch 0 8192 0 []).wf = false ∧
    (Instr.toneMapFetch 0 0 0 [524288]).wf = false := by decide
/-- Reads of a frame's blocks that find nothing. -/
def noFaults : MemFaults := { cells := [], lane := none, key := false }
/-- Words that are written in time. -/
def inTime : LaneWrites := { late := [], badS := [] }
theorem wf_frame_block : (Instr.pbDecodeDone 0 { noFaults with cells := [(32, 0)] }).wf = false ∧
    (Instr.beaconTx 0 inTime { noFaults with cells := [(0, 98304)] }).wf = false ∧
    (Instr.frameTxStart 0 .node inTime { noFaults with cells := [(32, 0)] }).wf = false := by decide
theorem wf_cell : (Instr.frameStoreScrub 98304 .clean none).wf = false ∧ (Instr.rxDelivery 0 [(0, 98304)]).wf = false := by decide
theorem wf_descriptor_length : (Instr.devStart { cmd0 with raw := [] }).wf = false ∧
    (Instr.doorbellPoll 0 (some [{ raw := [], rdErr := false }])).wf = false ∧
    (Instr.chainFetch 1 0 (some [{ raw := [] }]) []).wf = false ∧ (Instr.rxBufferTake 1 0 (some { raw := [] })).wf = false := by decide
theorem wf_descriptor_count : (Instr.doorbellPoll 0 (some (List.replicate 129 { raw := List.replicate 32 0, rdErr := false }))).wf = false ∧
    lenOk 16385 16384 = false := by decide +kernel
/-- An allocation of one unit. -/
def alloc1 : Alloc := { start := 0, len := 1, addr := 0, dir := true, form := 0, cpl := 0, kind := 0 }
theorem wf_plan : (Instr.scheduleFreeze 0 { brlen := 0, caSlot := 0, allocs := List.replicate 193 alloc1, decs := [], encs := [] }).wf = false := by
  decide +kernel
theorem wf_capture_streams : (Instr.captureRecordWrite 0 (List.replicate 6 []) false).wf = false := by decide
theorem wf_modulator_bits : (Instr.measOutput 0 (List.replicate 5 [])).wf = false := by decide
theorem wf_well_formed : (Instr.registerWrite 0x40010 4 0).wf = true ∧ (Instr.queueDirectRead 127).wf = true ∧
    (Instr.talertAssert 0 255).wf = true ∧ (Instr.slotBoundary 8191).wf = true := by decide
/-- No row of the command table has bits, so no word spells a command. -/
theorem no_word_decodes : decodeTableWord 32 0xFFFFFFFF = none := by decide

/-! ### Registers and queues -/

/-- MPT runs in CONFIG, samples pass once the converters have locked. -/
def ticking : Dev := { inState .config with tb := { Timebase.init with running := true } }
/-- A counter sweep stands at counter `i`; an output instant of the derived chains comes within the next cycle. -/
def sweeping (i : Nat) : Dev :=
  { inState .run with clk := 3199, cnts := { (inState .run).cnts with ix := some i }, meas := { (inState .run).meas with clocks := true } }
theorem witness_IdleStep : (st ticking).pending = [] ∧ ticking.dev.clocked = true ∧ ticking.cnts.ix = none ∧
    (inState .boot).dev.clocked = false ∧ (sweeping 3).cnts.ix = some 3 ∧ (sweeping 672).cnts.ix = some 672 ∧
    (sweeping 3).meas.clocks = true ∧ 4 * (sweeping 3).meas.start + 12800 * ((sweeping 3).meas.derN + 1) ≤ 4 * ((sweeping 3).clk + 1) ∧
    4 * (ticking.clk + 1) < 4 * ticking.meas.start + 12800 * (ticking.meas.derN + 1) := by decide
/-- 20 R463: a sweep takes one counter a cycle; 13 R343: the derived chains' output rate is 78.125 kHz. -/
theorem test_idle_sweep : after (step (st (sweeping 3))) (fun t => decide (t.dev.cnts.ix = some 4 ∧ t.dev.meas.derN = 1)) = true := by decide
/-- 02 R38: the default word advances MPT by 56,294,995 units in 4 ns; 02 R50: 1.25 GS/s, five samples. -/
theorem test_idle_step : after (step (st ticking)) (fun t => decide (t.dev.tb.acc = 56294995 ∧ t.dev.tb.n = 5 ∧ t.dev.clk = 1)) = true := by
  decide

/-- Counter 0 of bank 38 selects bit 0 of `HIF_STAT`, counter 1 bit 1. -/
def counting : Dev := ((inState .run).modCounter (38 * 16) (fun c => { c with sel := 0x8000 })).modCounter (38 * 16 + 1)
  (fun c => { c with sel := 0x8001 })
theorem witness_Happening : (31 : Nat) < 32 ∧ (0 : Nat) < 32 := by decide
/-- 20 R461, R464: whether or not the bit was set; a counter wraps with its overflow bit. -/
theorem test_happening :
    (((counting.raise .hif 0).raise .hif 0).counter 608).value = 2 ∧ (((counting.raise .hif 0).raise .hif 0).counter 609).value = 0 ∧
      ((({ Counter.init with value := 0xFFFFFFFFFFFF } : Counter).add 1).value = 0 ∧
        (({ Counter.init with value := 0xFFFFFFFFFFFF } : Counter).add 1).ovf = true) := by decide

theorem witness_Threshold : (inState .config).dev = .config ∧
    (12 ≤ bits 0x160C 12 8 ∧ bits 0x160C 12 8 ≤ 22 ∧ 8 ≤ bits 0x160C 4 0 ∧ bits 0x160C 4 0 ≤ 18 ∧ bits 0x160C 4 0 < bits 0x160C 12 8) ∧
    ¬ bits 0x0B0A 12 8 ≥ 12 ∧ (inState .config).flag Reg.mptCtrl 31 = false ∧
    ((inState .config).setFld Reg.mptCtrl 31 31 1).flag Reg.mptCtrl 31 = true := by decide
/-- 00 R11: a reserved encoding is refused whole, with `WR_REFUSED_SEEN`. -/
theorem test_register_write :
    after (exec (.registerWrite 0x40010 4 0x160C) (st (inState .config))) (fun t => decide (t.dev.reg 0x40010 = 0x160C)) = true ∧
    after (exec (.registerWrite 0x40010 4 0x0B0A) (st (inState .config))) (fun t =>
      decide (t.dev.reg 0x40010 = 0x100C ∧ t.dev.flag Reg.mntStat 1 = true ∧ t.dev.mnt.refOff = 0x40010)) = true := by decide

theorem witness_RunWrite : (inState .run).dev = .run ∧ inMsix 0x40010 = false ∧
    (∀ r ix, regAt (0x40010 - 0x40010 % 4) = some (r, ix) → r.run = false) := by
  refine ⟨by decide, by decide, fun r ix h => ?_⟩
  have e : (regAt (0x40010 - 0x40010 % 4)).map (fun x => x.1.run) = some false := by decide
  rw [h] at e; simpa using e
theorem test_run_write :
    after (exec (.registerWrite 0x40010 4 0x160C) (st (inState .run))) (fun t =>
      decide (t.dev.reg 0x40010 = 0x100C ∧ t.dev.flag Reg.mntStat 0 = true)) = true := by decide

theorem witness_LockSet : (inState .config).dev = .config ∧ lockOf 0x40000 = some 0x40000 ∧
    (regAt 0x40000).isSome = true ∧ bit 0x800010E8 31 = true ∧
    (match regAt 0x40000 with
     | some (r, _) => (inState .config).wordOk 0x40000 (writeWord ((inState .config).flag 0x40000 31) false
          (decide (0xA1000 ≤ 0x40000 ∧ 0x40000 < 0xA2000)) r.fields ((inState .config).reg 0x40000) 0x800010E8)
     | none => false) = true := by decide
/-- 00 R8. -/
theorem test_lock_set :
    after (exec (.lockSet 0x40000 0x800010E8) (st (inState .config))) (fun t =>
      after (exec (.registerWrite 0x40010 4 0x160C) t) (fun u => decide (u.dev.reg 0x40010 = 0x100C))) = true := by decide

/-- Queue 10 holds an item of three bytes; its record ring is in use; queue 9 is empty. -/
def lossyDev (x : DevState) : Dev :=
  { inState x with
    ques := { Ques.init with lossy := [(10, { LossyQ.init with items := [[1, 2, 3]], produced := 1 })] }
    rings := [(0, { ringOn with hostIdx := 1 }), (1, { ringOn with base := 0x4000 }), (12, { ringOn with base := 0x8000, esz := 4 })] }
theorem witness_Reads : (lossyDev .safe).dev ≠ .off ∧ (lossyDev .safe).lossy 10 = { LossyQ.init with items := [[1, 2, 3]], produced := 1 } ∧
    (10 : Nat) ≤ 10 ∧ 2 * (0 + 1) < [1, 2, 3].length ∧ [1, 2, 3].length ≤ 2 * (1 + 1) ∧ (10 : Nat) < 11 ∧ ((lossyDev .safe).lossy 9).items = [] ∧
    queueListed 112 = true ∧ (lossyDev .run).ringServed 0 (lossyRing 10) = true ∧ ((lossyDev .run).ring (lossyRing 10)).st = .enabled ∧
    0 < ((lossyDev .run).ring (lossyRing 10)).freeEntries ∧ (lossyDev .run).lossy 10 = { LossyQ.init with items := [[1, 2, 3]], produced := 1 } ∧
    ((lossyDev .run).wmark 0).armed = false ∧ ((lossyDev .run).fn 0).bme = true := by decide
/-- 17 R412, Table QC.4: `LAST` at bit 30, `HWIDX` from bit 16. -/
theorem test_queue_direct_read :
    after (exec (.queueDirectRead 10) (st (lossyDev .safe))) (fun t => decide (t.dev.busOut = 0x0201) &&
      after (exec (.queueDirectRead 10) t) (fun u => decide (u.dev.busOut = 0x40010003 ∧ (u.dev.lossy 10).items = [] ∧
        (u.dev.lossy 10).consumed = 1) && after (exec (.queueDirectRead 10) u) (fun v => decide (v.dev.busOut = 0x80000000)))) = true := by
  decide
/-- 17 R411; in SAFE no record ring is served (01 Table OR.4). -/
theorem test_lossy_drain :
    after (exec (.lossyQueueDrain 10) (st (lossyDev .safe))) (fun t => decide ((t.dev.lossy 10).items = [[1, 2, 3]])) = true ∧
    after (exec (.lossyQueueDrain 10) (st (lossyDev .run))) (fun t => decide ((t.dev.lossy 10).items = [] ∧
      Memory.read t.hostMem 0x8002 = some 3 ∧ Memory.read t.hostMem 0x8003 = some 0)) = true := by decide
/-- 17 R425, R426. -/
theorem test_queue_occ_read :
    after (exec (.queueOccRead 10) (st ((lossyDev .run).modWm 10 (fun w => { w with peak := 5 })))) (fun t =>
      decide (t.dev.busOut = 0x50001 ∧ (t.dev.wmark 10).peak = 1)) = true := by decide
/-- 02 R63. -/
theorem test_mpt_now_lo :
    after (exec .mptNowLoRead (st { inState .run with tb := { Timebase.init with acc := 0x123456789ABC000000 } })) (fun t =>
      decide (t.dev.busOut = 0x56789ABC ∧ t.dev.tb.nowHi = 0x1234)) = true := by decide

/-- Queue 10 with an item, `LO` 0 and `HI` 2, notices enabled. -/
def marking : Dev := ((lossyDev .run).setReg (Reg.queWmCfg 10) 0x20000).setFld Reg.queCtrl 0 0 1
theorem witness_Watermark : marking.dev = .run ∧ queueListed 10 = true ∧ bit 0x80000000 31 = true ∧ marking.flag Reg.queCtrl 0 = true ∧
    marking.fld (Reg.queWmCfg 10) 15 0 < marking.occ 10 ∧ marking.occ 10 < marking.fld (Reg.queWmCfg 10) 31 16 ∧
    marking.occ 9 ≤ marking.fld (Reg.queWmCfg 9) 15 0 := by decide
/-- 17 R418: a condition that holds already is noticed at once. -/
theorem test_watermark_arm :
    after (exec (.watermarkArm 10 0x80000000) (st marking)) (fun t => (t.dev.wmark 10).armed) = true ∧
    after (exec (.watermarkArm 9 0x80000000) (st marking)) (fun t =>
      !(t.dev.wmark 9).armed && decide ((t.dev.lossy 0).items.length = 1)) = true := by decide

/-- Unit 3 with `LEN` 9, POLY 3 (CRC-32C), and a scan of host memory, or of the feed register, in progress. -/
def scanning (src : Nat) : Dev :=
  (((inState .run).setReg (Reg.cvuCfg 3) (0x310 + src)).setCvuRun 3 0xFFFFFFFF).modCvu 3 (fun x => { x with busy := true, left := 9 })
theorem witness_CheckValue : ((inState .run).cvu 3).busy = false ∧ bit 0x80000000 31 = true ∧ bits 0x80000400 10 8 ≤ 4 ∧
    ((scanning 1).cvu 3).busy = true ∧ bit 0x40000000 30 = true ∧ (scanning 1).flag (Reg.cvuCfg 3) 0 = true ∧
    0 < ((scanning 1).cvu 3).left ∧ ((scanning 0).cvu 3).busy = true ∧ (scanning 0).flag (Reg.cvuCfg 3) 0 = false ∧
    ((scanning 0).fn 0).bme = true ∧ (List.replicate 9 (0 : Byte)).length = ((scanning 0).cvu 3).left := by decide
/-- The check value of CRC-32C over "123456789" is E3069283 (18 Table IN.4). -/
theorem test_cvu_scan_done :
    after (exec (.cvuScanDone 3 [0x31, 0x32, 0x33, 0x34, 0x35, 0x36, 0x37, 0x38, 0x39] false) (st (scanning 0))) (fun t =>
      decide ((t.dev.cvu 3).res = 0xE3069283 ∧ (t.dev.cvu 3).busy = false)) = true := by decide +kernel
theorem test_cvu_feed :
    after (exec (.cvuFeed 3 0x34333231) (st (scanning 1))) (fun t => after (exec (.cvuFeed 3 0x38373635) t) (fun u =>
      after (exec (.cvuFeed 3 0x99999939) u) (fun v => decide ((v.dev.cvu 3).res = 0xE3069283 ∧ (v.dev.cvu 3).done = 9)))) = true := by
  decide +kernel
/-- 18 R435: `HALT` leaves `DONE` and `RUN`; 18 R434: `GO` starts from `LEN`. -/
theorem test_cvu_go_halt :
    after (exec (.cvuGo 3 0x80000310 false) (st ((inState .config).setReg (Reg.cvuLen 3) 9))) (fun t =>
      decide ((t.dev.cvu 3).busy = true ∧ (t.dev.cvu 3).left = 9) &&
      after (exec (.cvuHalt 3 0x40000000) t) (fun u => decide ((u.dev.cvu 3).busy = false ∧ (u.dev.cvu 3).halted = true ∧
        u.dev.cvuRun 3 = 0xFFFFFFFF))) = true := by decide

/-! ### Supply, boot and device states -/

/-- An image source with the image of security version 5. -/
def src5 : BootSrc := { bytes := image5, readFail := none }
/-- A source without an image. -/
def src0 : BootSrc := { bytes := [], readFail := none }
/-- What a boot with one slot meets. -/
def io5 (a : BootSrc) : BootIo :=
  { katOk := true, trngOk := true, nonce := 0, token := [], hasB := false, slotA := a, slotB := src0, stagedFail := none }
/-- A boot that waits for PERST# to rise. -/
def booting : Dev := { inState .boot with sec := { Sec.init with kd := [sha512 keyBlock0] } }
/-- A THERMAL fault led to SAFE, and a sensor still reads 101 degrees. -/
def hot : Dev := { booting with pwr := { Power.init with thermal := true, temps := [101, 25, 25, 25, 25, 25, 25, 25] } }

/-- V33OUT switched off at clock 0, and 100 ms have passed. -/
def tripped : Dev := { inState .run with pwr := { Power.init with v33 := .tripped }, clk := 25000000 }
theorem witness_Supply : (inState .off).dev = .off ∧ (inState .off).pwr.vinOk = false ∧ (inState .run).dev ≠ .off ∧
    ({ Power.init with v33 := .up } : Power).v33 = .up ∧ tripped.pwr.v33 = .tripped ∧ tripped.pwr.v33At + usClk 100000 ≤ tripped.clk ∧
    ({ tripped with clk := 24999999 } : Dev).clk < tripped.pwr.v33At + usClk 100000 ∧
    { Power.init with lost := false }.lost = false ∧ Power.init.lost = true := by decide
/-- 22 R492, R494; 21 R488: the level-3 count goes on where what OFF retains is intact. -/
theorem test_vin_valid :
    after (exec (.vinValid 12000 true) (st { inState .off with pwr := { Power.init with lost := false, l3 := 7 } })) (fun t =>
      decide (t.dev.dev = .boot ∧ t.dev.pwr.cause = 3 ∧ t.dev.pwr.l3 = 8)) = true ∧
    after (exec (.vinValid 12000 true) (st { inState .off with pwr := { Power.init with l3 := 7 } })) (fun t =>
      decide (t.dev.dev = .boot ∧ t.dev.pwr.cause = 0 ∧ t.dev.pwr.l3 = 0)) = true := by decide
theorem test_brown_out :
    after (exec .brownOut (st ((inState .run).setReg Reg.mptThr 0x160C))) (fun t =>
      decide (t.dev.dev = .off ∧ t.dev.reg Reg.mptThr = 0x100C ∧ (t.dev.ring 0).st = .disabled)) = true := by decide
theorem test_power_cycle :
    after (exec .powerCycle (st { inState .off with pwr := { Power.init with lost := false, l3 := 7 } })) (fun t =>
      decide (t.dev.pwr.l3 = 0 ∧ t.dev.pwr.lost = true)) = true := by decide
theorem test_v33 :
    after (exec .v33Overcurrent (st { inState .run with pwr := { Power.init with v33 := .up } })) (fun t =>
      decide (t.dev.pwr.v33 = .tripped) && after (exec (.v33Retry false) t) (fun u => decide (u.dev.pwr.v33 = .tripped))) = true ∧
    after (exec (.v33Retry false) (st tripped)) (fun u => decide (u.dev.pwr.v33 = .up)) = true := by decide

theorem witness_Boot : (inState .safe).dev = .safe ∧ booting.dev = .boot ∧ booting.pwr.perst = false ∧ hot.dev = .boot ∧
    hot.pwr.perst = false ∧ hot.pwr.thermal = true ∧ hot.pwr.temps.all (fun x => decide (x ≤ 100)) = false ∧
    booting.pwr.thermal = false ∧ (io5 src5).katOk = true ∧ { io5 src5 with katOk := false }.katOk = false ∧
    booting.sec.pendImg = false ∧ (1#2).toNat ≤ 1 ∧ (io5 src5).hasB = false ∧ booting.verify srcSize src0 = some 0x09 ∧
    ({ Sec.init with rom := .verified 0 } : Sec).rom = .verified 0 ∧ ({ Sec.init with rom := .failed } : Sec).rom = .failed ∧
    ({ Power.init with training := true } : Power).training = true ∧ (4#4).toNat ∈ [1, 4, 8] ∧ (3#3).toNat ∈ [3, 4, 5] := by
  decide +kernel
/-- 19 Table SE.5: the image passes every step. -/
theorem witness_Verified : booting.verify srcSize src5 = none := by
  have h : booting.sec.kd = [sha512 keyBlock0] := by unfold booting; rfl
  exact verify_image5 (by decide) (by decide) (by rw [h]; exact List.getD_cons_zero) (by decide)
/-- 22 R498, 21 R488. -/
theorem test_perst_fall :
    after (exec .perstFall (st (inState .safe))) (fun t => decide (t.dev.dev = .boot ∧ t.dev.pwr.cause = 1 ∧ t.dev.pwr.l3 = 1)) = true := by
  decide
/-- 19 R445, R446, Table SE.5: step 1 fails for want of `MAGIC`. -/
theorem test_perst_rise :
    after (exec (.perstRise 0 (io5 src0)) (st booting)) (fun t =>
      decide (t.dev.sec.rom = .failed ∧ t.dev.sec.lastFail = 9 ∧ t.dev.pwr.training = true)) = true := by decide +kernel
theorem test_boot_complete :
    after (exec .bootComplete (st { inState .boot with sec := { Sec.init with rom := .verified 0 }, tb := { Timebase.init with acc := 5 } })) (fun t =>
      decide (t.dev.dev = .config ∧ t.dev.mpt = 0 ∧ t.dev.swoHiZ = false ∧ t.dev.meas.clocks = true)) = true := by decide
theorem test_boot_fail :
    after (exec .bootFail (st { booting with sec := { Sec.init with rom := .failed } })) (fun t =>
      decide (t.dev.dev = .safe ∧ t.dev.sec.restricted = true)) = true := by decide
theorem test_link_trained :
    after (exec (.pcieLinkTrained 4 3) (st { inState .boot with pwr := { Power.init with training := true } })) (fun t =>
      decide (t.dev.pwr.width = 4 ∧ t.dev.pwr.speed = 3 ∧ t.dev.pwr.training = false)) = true := by decide

theorem witness_Critical : (inState .run).dev.live = true ∧ (inState .safe).dev.live = true ∧ (inState .run).fld Reg.mntCtrl 15 0 ≤ (500#16).toNat ∧ shutdownLimit (3 : Fin 8) ≤ 125 ∧
    shutdownLimit (4 : Fin 8) ≤ 120 ∧ (inState .run).pwr.thermal = false := by decide
/-- 21 R481, R483; 22 R504: 125 degrees on a quadrant die, 120 on the digital die. -/
theorem test_critical :
    after (exec (.watchdogExpiry 2 500) (st (inState .run))) (fun t => decide (t.dev.dev = .safe ∧ t.dev.mnt.fclass = 0x09)) = true ∧
    after (exec (.clockLoss true) (st (inState .safe))) (fun t => decide (t.dev.dev = .safe ∧ t.dev.mnt.fclass = 0x0A)) = true ∧
    after (exec (.critMemFault 0 none) (st (inState .safe))) (fun t => t.dev.flag Reg.mntFstat 5) = true ∧
    after (exec (.thermalShutdown 3 125) (st (inState .safe))) (fun t => decide (t.dev.pwr.thermal = true ∧ t.dev.mnt.fclass = 0x0B)) = true ∧
    after (exec (.thermalShutdown 3 124) (st (inState .run))) (fun t => decide (t.dev.dev = .run)) = true := by decide +kernel

/-- A command with an opcode and an `A2`. -/
def cmdA (opc : BitVec 8) (a2 : BitVec 16) : CmdDesc := ({ opc := opc, a2 := a2 } : CmdF).desc
theorem witness_StartStop :
    Accepted (st (inState .config)) (cmdA 1 0) (CmdSpec.plain 0x01) ∧ Accepted (st (inState .run)) (cmdA 2 0) (CmdSpec.plain 0x02) ∧
    Accepted (st (inState .safe)) (cmdA 3 3) { CmdSpec.plain 0x03 with m2 := 0xFFFF } ∧ (cmdA 3 3).n2 = 3 ∧
    (inState .config).segPrev = [] ∧ ({ Power.init with perst := true } : Power).perst = true := by unfold Accepted; decide
/-- 01 Table OR.5, 16 R405. -/
theorem test_start_stop_reset :
    after (exec (.devStart (cmdA 1 0)) (st (inState .config))) (fun t => decide (t.dev.dev = .run ∧ status t = some 0)) = true ∧
    after (exec (.devStop (cmdA 2 0)) (st (inState .run))) (fun t => decide (t.dev.dev = .config ∧ status t = some 0)) = true ∧
    after (exec (.devReset (cmdA 3 3) (io5 src0)) (st (inState .safe))) (fun t =>
      decide (t.dev.dev = .boot ∧ t.dev.pwr.cause = 2 ∧ status t = some 0 ∧ (t.dev.ring 0).st = .disabled)) = true := by decide +kernel

theorem witness_FunctionResets : (inState .run).dev ≠ .off ∧ ({ inState .run with vfEn := true, numVfs := 1 }).vfEn = true ∧ 2 - 2 < 1 ∧
    Accepted (st (inState .run)) (cmdA 4 0x11F) { CmdSpec.plain 0x04 with m2 := 0xFFFF } ∧ fnNamed (cmdA 4 0x11F).n2 = some 33 ∧
    fnNamed (cmdA 4 1).n2 = some 1 ∧ fnNamed (cmdA 4 0x120).n2 = none := by unfold Accepted; decide
theorem test_function_resets :
    after (exec (.flr 0) (st (inState .run))) (fun t => decide ((t.dev.ring 1).st = .disabled ∧ (t.dev.fn 0).active = false)) = true ∧
    after (exec (.flr 1) (st { inState .run with vfEn := true, numVfs := 3 })) (fun t => decide (t.dev.vfEn = false)) = true ∧
    after (exec (.fnReset (cmdA 4 1)) (st ((inState .run).modFn 1 (fun x => { x with active := true })))) (fun t =>
      decide ((t.dev.fn 1).active = false ∧ status t = some 0)) = true := by decide +kernel

/-- The staged image of security version 5 runs on trial and its commit is in progress; the trial copy gives its length as 24 bytes. -/
def trialing : Dev := { inState .run with sec := { Sec.init with
  src := 2, trial := true, commit := true, area := area0 5 2, trialCopy := List.replicate 16 0 ++ [24, 0, 0, 0, 1, 2, 3, 4] } }
theorem witness_Commit : trialing.dev.clocked = true ∧ trialing.sec.commit = true ∧ trialing.sec.src = 2 ∧ trialing.sec.hasB = false ∧
    trialing.writtenWell [] = false ∧ trialing.writtenWell trialing.sec.trialCopy = true ∧ ({ trialing.sec with src := 0 }).src ≠ 2 ∧
    trialing.dev.live = true := by decide +kernel
/-- 19 R448. -/
theorem test_commit :
    after (exec (.imageCommitDone trialing.sec.trialCopy) (st trialing)) (fun t =>
      decide (t.dev.sec.arbCtr = 5 ∧ t.dev.sec.revoked = 2 ∧ t.dev.sec.trial = false)) = true ∧
    after (exec (.imageCommitDone []) (st trialing)) (fun t =>
      decide (t.dev.sec.arbCtr = 0 ∧ t.dev.mnt.fclass = 0x08)) = true := by decide +kernel
theorem test_trng :
    after (exec .trngHealthFail (st (inState .run))) (fun t => decide (t.dev.sec.trngFail = true ∧ t.dev.mnt.fclass = 0x07)) = true := by
  decide

/-! ### Temperature, drivers and ports -/

/-- Quadrant 3 is powered down; the driver of port 127 was enabled. -/
def quadDown : Dev := { inState .run with pwr := { Power.init with qdown := 8 } }
theorem witness_Temperature : (inState .run).dev ≠ .off ∧ (inState .run).dev ≠ .boot ∧ (inState .run).pwr.talert = false ∧
    (inState .run).talertTh ≤ (inState .run).talertTh ∧ (inState .run).qshutTh ≤ (inState .run).qshutTh ∧
    bit (inState .run).pwr.qdown 3 = false ∧ bit quadDown.pwr.qdown 3 = true ∧ quadDown.qshutTh - 15 ≤ quadDown.qshutTh - 15 := by decide
/-- 22 R504: Table PS.7: 100 degrees for the alert and 112 for a quadrant. -/
theorem test_talert :
    after (exec (.talertAssert 7 100) (st (inState .run))) (fun t => t.dev.pwr.talert && t.dev.flag Reg.pwrStat 2 &&
      after (exec (.talertRelease [95, 96, 95, 95, 95, 95, 95, 95]) t) (fun u => u.dev.pwr.talert) &&
      after (exec (.talertRelease [95, 95, 95, 95, 95, 95, 95, 95]) t) (fun u => !u.dev.pwr.talert)) = true := by decide
theorem test_quadrant :
    after (exec (.quadrantShutdown 3 112) (st ((inState .run).modPort 127 (fun x => { x with enabled := true })))) (fun t =>
      decide (t.dev.pwr.qdown = 8 ∧ (t.dev.port 127).enabled = false)) = true ∧
    after (exec (.quadrantPowerUp 3 97) (st quadDown)) (fun t => decide (t.dev.pwr.qdown = 0)) = true ∧
    after (exec (.quadrantPowerUp 3 98) (st quadDown)) (fun t => decide (t.dev.pwr.qdown = 8)) = true := by decide +kernel

/-- Port 0 is derated by 4 dB and 1 dB would do. -/
def derated : Dev := (inState .run).modPort 0 (fun x => { x with derate := 4, dqWin := [1] })
theorem witness_Derating : (inState .run).dev ≠ .off ∧ derated.dev ≠ .off ∧ derated.derateDue (0 : Fin 128) = true ∧ 18500 ≤ 18500 ∧
    18199 < 18200 ∧ 18200 ≤ 18499 := by decide
/-- 22 R495. -/
theorem test_vin_measurement :
    after (exec (.vinMeasurement 18500) (st ((inState .run).modPort 5 (fun x => { x with enabled := true })))) (fun t =>
      decide (t.dev.pwr.ovMute = true ∧ (t.dev.port 5).enabled = false)) = true := by decide +kernel
theorem test_derate_decrease :
    after (exec (.derateDecrease 0) (st derated)) (fun t => decide ((t.dev.port 0).derate = 1)) = true := by decide

/-- Port 9 with its driver enabled, one second after it came back from an over-current. -/
def driving : Dev :=
  { (inState .run).modPort 9 (fun x => { x with enabled := true, calOk := true, ocReturn := some 1, ech := .tracking, calib := true })
    with clk := 250000000 }
/-- 11 µs of the last millisecond at 10 A. -/
def overRuns : List (Nat × Nat) := [(5000000, 0), (11000, 10000), (5000, 0)]
/-- A good calibration. -/
def cal0 : CalResult := { sadcOfs := 1, madcOfs := 2, ldacTrim := 3, ratioErr := 0, ldacErr := 0, cdacErr := 0 }
theorem witness_Drivers : driving.dev = .run ∧ (driving.port (9 : Fin 128)).ocFault = false ∧ 10000 < driving.overTime 9 (lastMs overRuns) ∧
    (driving.port 9).ocReturn = some 1 ∧ driving.clk < 1 + usClk 1000000 ∧ (driving.port 9).thFault = false ∧
    driving.foldTemp 9 < driving.foldTemp 9 + 1 ∧ (driving.port (9 : Fin 128)).calib = true ∧ CalPasses cal0 = true ∧
    CalPasses { cal0 with ldacErr := 1000000 } = false ∧
    ({ (driving.port 9) with thFault := true }).thFault = true := by decide
/-- 03 R77, R78. -/
theorem test_driver_faults :
    after (exec (.driverOvercurrent 9 overRuns) (st driving)) (fun t =>
      decide ((t.dev.port 9).enabled = false ∧ (t.dev.port 9).ocBarred = true ∧ (t.dev.port 9).ech = .idle) &&
      after (exec (.driverFaultClear 9 25) t) (fun u => (u.dev.port 9).ocFault) &&
      after (exec (.driverFaultClear 9 25) (st { t.dev with clk := 250000000 + 25000000 })) (fun u => !(u.dev.port 9).ocFault)) = true := by
  decide +kernel
theorem test_driver_thermal :
    after (exec (.driverThermalFault 9 (driving.foldTemp 9 + 1)) (st driving)) (fun t =>
      decide ((t.dev.port 9).thFault = true ∧ (t.dev.port 9).enabled = false)) = true := by decide +kernel
theorem test_port_cal_done :
    after (exec (.portCalDone 9 cal0) (st driving)) (fun t => decide ((t.dev.port 9).calOk = true ∧ (t.dev.port 9).madcOfs = 2)) = true ∧
    after (exec (.portCalDone 9 { cal0 with ldacErr := 1000000 }) (st driving)) (fun t => (t.dev.port 9).calFail) = true := by decide +kernel

/-! ### Groups, shaping and masks -/

/-- A command with `A1`, `A2` and an argument block. -/
def cmdB (opc : BitVec 8) (a1 : BitVec 32) (a2 : BitVec 16) (b : List Byte) : CmdDesc :=
  ({ opc := opc, a1 := a1, a2 := a2, ablk := true, a3 := BitVec.ofNat 32 b.length, block := some b } : CmdF).desc
/-- A command with `A1` and `A2`. -/
def cmdC (opc : BitVec 8) (a1 : BitVec 32) (a2 : BitVec 16) : CmdDesc := ({ opc := opc, a1 := a1, a2 := a2 } : CmdF).desc
/-- Group `g` in state `x`. -/
def withGroup (d : Dev) (g : Nat) (x : GroupState) : Dev := d.modGroup g (fun y => { y with st := x })

theorem witness_GroupCommands :
    Accepted (st (inState .config)) (cmdC 0x10 0x32103FF1 31) { CmdSpec.plain 0x10 with m1 := 0x77773FFF, m2 := 0xFFFF, lim2 := 32 } ∧
    ((inState .config).group (cmdC 0x10 0x32103FF1 31).n2).st = .down ∧ (cmdC 0x10 0x32103FF1 31).f1 3 2 ≠ 3 ∧
    rolesOk ((cmdC 0x10 0x32103FF1 31).f1 31 16) = true ∧
    Accepted (st (inState .run)) (cmdA 0x11 0) { CmdSpec.plain 0x11 with m2 := 0xFFFF, lim2 := 32 } ∧
    ((inState .run).group 0).st = .down ∧ (inState .run).enabledPorts (cmdA 0x11 0).n2 ≠ [] ∧
    Accepted (st (inState .run)) (cmdA 0x12 0) { CmdSpec.plain 0x12 with m2 := 0xFFFF, lim2 := 32 } := by
  unfold Accepted; decide
/-- 16 R397, Table CE.3: profile 1, coupling 0, every port, region 63, the roles of reset. -/
theorem test_grp_setup :
    after (exec (.grpSetup (cmdC 0x10 0x32103FF1 31)) (st (inState .config))) (fun t =>
      decide (status t = some 0 ∧ t.dev.profile 31 = 1 ∧ t.dev.fld (Reg.ffCtrl 31) 21 16 = 63 ∧ t.dev.role 126 = 2)) = true := by decide
/-- 01 Table OR.6. -/
theorem test_grp_start_stop :
    after (exec (.grpStart (cmdA 0x11 0)) (st (inState .run))) (fun t =>
      decide ((t.dev.group 0).st = .calibrating ∧ (t.dev.port 3).calib = true ∧ status t = none)) = true ∧
    after (exec (.grpStop (cmdA 0x12 0)) (st (withGroup (inState .run) 0 .degraded))) (fun t =>
      decide ((t.dev.group 0).st = .down ∧ status t = some 0)) = true := by decide +kernel

/-- Group 0 is up; port 1 has a request of kind 2 waiting, and port 2 four of kind 3; port 3 is in the
training of the group's start. -/
def maintaining : Dev :=
  let r : Nat → Nat → Nat → MntReq := fun k p n => { kind := k, ports := [p], stamp := n, cmd := none, accept := 0, found := 0, sess := none }
  { (withGroup (inState .run) 0 .coordinating).modPort 3 (fun x => { x with ech := .training }) with
    mnt := { Mnt.init with reqs := [r 2 1 0, r 3 2 1, r 3 2 2, r 3 2 3, r 3 2 4], stamp := 5 } }
theorem witness_Maintenance :
    Accepted (st maintaining) (cmdA 0x13 1) { CmdSpec.plain 0x13 with m2 := 0xFFFF, lim2 := 128 } ∧
    Accepted (st maintaining) (cmdA 0x14 1) { CmdSpec.plain 0x14 with m2 := 0xFFFF, lim2 := 128 } ∧
    (maintaining.group (portGroup 1)).st ≠ .down ∧ (maintaining.group (portGroup 2)).st ≠ .down ∧
    ((maintaining.runOf 1 1).isSome || maintaining.waits 1 1) = false ∧ (maintaining.reqsAt 1).length < 4 ∧
    ((maintaining.runOf 2 1).isSome || maintaining.waits 2 1) = true ∧
    ((maintaining.runOf 1 2).isSome || maintaining.waits 1 2) = false ∧ 4 ≤ (maintaining.reqsAt 2).length ∧
    Accepted (st maintaining) (cmdA 0x14 3) { CmdSpec.plain 0x14 with m2 := 0xFFFF, lim2 := 128 } ∧ (maintaining.port 3).ech = .training ∧
    maintaining.runOf 2 3 = none ∧ (maintaining.port 1).ech ≠ .training := by unfold Accepted; decide
/-- 21 R477, R478. -/
theorem test_maintenance :
    after (exec (.portRecal (cmdA 0x13 1)) (st maintaining)) (fun t => decide (t.dev.waits 1 1 = true ∧ status t = none)) = true ∧
    after (exec (.echTrain (cmdA 0x14 1)) (st maintaining)) (fun t => decide (t.dev.mnt.merges.length = 1 ∧ t.dev.mnt.reqs.length = 5)) = true ∧
    after (exec (.portRecal (cmdA 0x13 2)) (st maintaining)) (fun t => decide (status t = some 0x1C)) = true := by decide

/-- Group 0 is up, port 0 holds bank A; on port 1 a fade to bank B has just ended and a swap to A waits. -/
def shaping : Dev :=
  (withGroup (inState .run) 0 .coordinating).modPort 1 (fun x => { x with
    fade := some { i := 73728, len := 73728, src := false, cmd := none }, swap := some { target := false, fs := 1, cmd := none } })
/-- Weights of one bank: all 5. -/
def weights : List Byte := (List.replicate 64 ([5, 0, 0, 0] : List Byte)).flatten
def shapeLoadSpec : CmdSpec := { CmdSpec.plain 0x16 with len := fun _ n => decide (n = 256), m1 := 1, m2 := 0xFFFF, lim2 := 128 }
def shapeSwapSpec : CmdSpec := { CmdSpec.plain 0x17 with m1 := 0xFF01, m2 := 0xFFFF, lim2 := 128 }
theorem witness_Shaping :
    Accepted (st shaping) (cmdB 0x16 1 0 weights) shapeLoadSpec ∧ Accepted (st shaping) (cmdB 0x16 0 0 weights) shapeLoadSpec ∧
    (List.range 64).all (fun t => decide (leAt (cmdB 0x16 1 0 weights).bytes (4 * t) 4 < 2 ^ 18)) = true ∧
    (shaping.shapeFree 0 || ((shaping.port 0).fade.isNone && decide (b2n (shaping.port 0).bank ≠ (cmdB 0x16 1 0 weights).f1 0 0))) = true ∧
    (shaping.shapeFree 0 || ((shaping.port 0).fade.isNone && decide (b2n (shaping.port 0).bank ≠ (cmdB 0x16 0 0 weights).f1 0 0))) = false ∧
    Accepted (st shaping) (cmdC 0x17 0x8001 0) shapeSwapSpec ∧ (cmdC 0x17 0x8001 0).f1 15 8 ≤ 128 ∧
    Accepted (st (inState .config)) (cmdC 0x17 1 0) shapeSwapSpec ∧ (inState .config).shapeFree 0 = true ∧
    shaping.shapeFree 0 = false ∧ (shaping.port 0).fade = none ∧ (shaping.port 0).bank = decide ((cmdC 0x17 0 0).f1 0 0 = 1) ∧
    Accepted (st shaping) (cmdC 0x17 0 0) shapeSwapSpec ∧ (shaping.port 0).bank ≠ decide ((cmdC 0x17 0x8001 0).f1 0 0 = 1) ∧
    Accepted (st shaping) (cmdC 0x17 0 1) shapeSwapSpec ∧ (shaping.port 1).fade ≠ none ∧
    (shaping.port (1 : Fin 128)).fade = some { i := 73728, len := 73728, src := false, cmd := none } ∧ 73728 ≤ 73728 := by
  unfold Accepted; decide +kernel
/-- 06 R158, R162. -/
theorem test_shape_load :
    after (exec (.shapeLoad (cmdB 0x16 1 0 weights)) (st shaping)) (fun t => decide (t.dev.reg (Reg.shape 0 0 1 63) = 5 ∧ status t = some 0)) = true ∧
    after (exec (.shapeLoad (cmdB 0x16 0 0 weights)) (st shaping)) (fun t => decide (status t = some 0x19)) = true := by decide +kernel
/-- 06 R159-R161. -/
theorem test_shape_swap :
    after (exec (.shapeSwap (cmdC 0x17 1 0)) (st (inState .config))) (fun t => decide ((t.dev.port 0).bank = true ∧ status t = some 0)) = true ∧
    after (exec (.shapeSwap (cmdC 0x17 0x8001 0)) (st shaping)) (fun t => decide ((t.dev.port 0).fade.isSome = true ∧ status t = none)) = true ∧
    after (exec (.fadeEnd 1) (st shaping)) (fun t => decide ((t.dev.port 1).bank = true ∧ (t.dev.port 1).swap = none ∧
      (t.dev.port 1).fade.isSome = true)) = true := by decide

def maskSpec : CmdSpec :=
  { CmdSpec.plain 0x15 with len := fun _ n => decide (4 ≤ n ∧ n ≤ 256 ∧ n % 4 = 0), m1 := 0xF, m2 := 0xFFFF, lim2 := 32 }
/-- One entry: carriers 100 to 200, code 0. -/
def entry1 : List Byte := [0x64, 0x00, 0x32, 0x00]
/-- Group 0 is up and its announced mask takes effect in this beacon period. -/
def masking : Dev := (withGroup (inState .run) 0 .coordinating).modGroup 0 (fun x => { x with
  maskNext := some { entries := [0x00320064], ver := 3, effBp := some 0, cmd := 9 } })
theorem witness_Masks :
    Accepted (st (inState .config)) (cmdB 0x15 3 0 entry1) maskSpec ∧ (maskBlock (cmdB 0x15 3 0 entry1)).all (fun w => maskEntryOk w.toNat) = true ∧
    Accepted (st (withGroup (inState .run) 0 .coordinating)) (cmdB 0x15 3 0 entry1) maskSpec ∧
    Accepted (st (inState .run)) (cmdB 0x15 3 0 entry1) maskSpec ∧ ((inState .run).group 0).st = .down ∧
    ((withGroup (inState .run) 0 .coordinating).group 0).maskNext = none ∧ ((withGroup (inState .run) 0 .coordinating).group 0).st ≠ .down ∧
    masking.dev.clocked = true ∧ (masking.group (0 : Fin 32)).maskNext.isSome = true ∧ bpSince 0 masking.msync.bpi < 2 ^ 22 := by
  unfold Accepted; decide
/-- 06 R153: with the group up, the beacons announce the change. -/
theorem test_mask :
    after (exec (.maskLoad (cmdB 0x15 3 0 entry1)) (st (withGroup (inState .run) 0 .coordinating))) (fun t =>
      decide ((t.dev.group 0).maskNext = some { entries := [0x00320064], ver := 3, effBp := none, cmd := 0 } ∧ (t.dev.group 0).maskVer = 0)) = true := by
  decide

/-! ### Timebase and MSYNC -/

/-- A half-cycle of 50 Hz, 200,000 modulator clocks of 50 ns. -/
def half : BitRuns := [(100000, true), (100000, false)]
/-- A half-cycle of 40 Hz, which is none of the mains. -/
def noHalf : BitRuns := [(250000, true)]
/-- MPT follows the primary; once locked. -/
def locked1 : Dev := { inState .run with tb := { Timebase.init with everLocked := true, locked := true, freqHist := List.replicate 40 56294995 } }
theorem witness_HalfCycles : (inState .run).dev.clocked = true ∧ ((inState .run).setFld Reg.mptCtrl 3 3 0).altEn = false ∧
    (inState .run).tb.usingAlt = false ∧ (inState .run).refAlt ≠ (inState .run).refPri ∧ (inState .run).refLive = true ∧
    (inState .run).halfValid (inState .run).refUse half = true ∧ (inState .run).halfValid (inState .run).refUse noHalf = false ∧
    (inState .run).halfValid (inState .run).refPri half = true ∧ (inState .run).halfValid (inState .run).refPri noHalf = false ∧
    (inState .run).tb.everLocked = false ∧ ((inState .run).refHist (inState .run).refUse).valid = 0 ∧
    ({ inState .run with tb := { Timebase.init with refs := [(0, { RefHist.init with valid := 3 })] } }.refHist 0).valid ≠ 0 ∧
    locked1.tb.everLocked = true ∧ locked1.halfValid locked1.refUse half = true ∧
    locked1.tb.corrUsed ≤ locked1.slewLimit ∧ ({ inState .run with tb := { Timebase.init with holdover := true } }).refLive = false := by decide
/-- 02 R45, R47: an invalid half-cycle breaks the counts. -/
theorem test_half_cycle :
    after (exec (.halfCycleDetect noHalf half) (st { inState .run with tb := { Timebase.init with lockRun := 5 } })) (fun t =>
      decide (t.dev.tb.lockRun = 0 ∧ (t.dev.refHist 0).invalid = 1)) = true := by decide +kernel
/-- 02 R42: a sine in step with MPT has phase 0, a cosine a quarter turn. -/
theorem test_correlate :
    correlate [(0, 0), (100000, 2 ^ 22), (0, 2 ^ 23), (-100000, 3 * 2 ^ 22)] = 0 ∧
    correlate [(100000, 0), (0, 2 ^ 22), (-100000, 2 ^ 23), (0, 3 * 2 ^ 22)] = 2 ^ 22 := by decide +kernel

/-- Sixteen small errors; four large ones; a lost primary, alone and with a valid alternate; a primary back in holdover. -/
def locking : Dev := { inState .run with tb := { Timebase.init with lockRun := 16 } }
def unlocking : Dev := { locked1 with tb := { locked1.tb with bigRun := 4 } }
def losing : Dev := { locked1 with tb := { locked1.tb with refs := [(0, { RefHist.init with invalid := 8 })] } }
def switching : Dev := { (losing.setFld Reg.mptCtrl 3 3 1).setFld Reg.mptRef 6 4 1 with
  tb := { locked1.tb with refs := [(0, { RefHist.init with invalid := 8 }), (1, { RefHist.init with valid := 3 })] } }
def returning : Dev := { locked1 with tb := { locked1.tb with holdover := true, locked := false, refs := [(0, { RefHist.init with valid := 16 })] } }
theorem witness_Lock : locking.dev.clocked = true ∧ locking.tb.locked = false ∧ locking.fld Reg.mptCtrl 15 8 ≤ locking.tb.lockRun ∧
    unlocking.tb.locked = true ∧ 4 ≤ unlocking.tb.bigRun ∧ switching.refLive = true ∧ switching.altEn = true ∧
    (if switching.tb.usingAlt then switching.refBack switching.refPri
      else switching.altEn && switching.refLost switching.refPri && switching.refValid switching.refAlt) = true ∧
    losing.refLive = true ∧ losing.refLost losing.refUse = true ∧ losing.otherValid = false ∧
    (losing.tb.freqHist.drop (losing.refHist losing.refUse).invalid).take 32 ≠ [] ∧
    ((losing.tb.freqHist.drop (losing.refHist losing.refUse).invalid).take 32).foldl (· + ·) 0 %
      ((losing.tb.freqHist.drop (losing.refHist losing.refUse).invalid).take 32).length = 0 ∧
    returning.tb.holdover = true ∧ returning.tb.taken = false ∧
    (returning.refBack returning.refPri || (returning.altEn && returning.refBack returning.refAlt)) = true := by decide
/-- 02 R45, R48, R49. -/
theorem test_lock :
    after (exec .timebaseLock (st locking)) (fun t => t.dev.tb.locked && t.dev.tb.everLocked) = true ∧
    after (exec .timebaseUnlock (st unlocking)) (fun t => !t.dev.tb.locked) = true ∧
    after (exec .refSwitch (st switching)) (fun t => t.dev.tb.usingAlt) = true := by decide +kernel
theorem test_holdover :
    after (exec .lossOfMains (st losing)) (fun t => t.dev.tb.holdover && decide (t.dev.tb.freq = 56294995)) = true ∧
    after (exec .holdoverEnd (st returning)) (fun t => t.dev.tb.taken && t.dev.tb.holdover) = true := by decide +kernel

/-- 1,024 cycles after an anchor. -/
def anchoring : Dev := { inState .run with clk := 1024, tb := { Timebase.init with running := true, n := 5120, freq := 5 } }
theorem witness_Anchors : (inState .config).dev.clocked = true ∧ (inState .config).tb.running = false ∧ anchoring.dev.clocked = true ∧
    anchoring.tb.running = true ∧ anchoring.tb.ancClk + 1024 ≤ anchoring.clk := by decide
theorem test_anchor :
    after (exec .mptAnchor (st anchoring)) (fun t => decide (t.dev.tb.ancN = 5120 ∧ t.dev.tb.ancR = 65536)) = true ∧
    after (exec .converterPllLock (st (inState .config))) (fun t => decide (t.dev.tb.running = true ∧ t.dev.present = 15)) = true := by decide

/-- MSYNC enabled with a window of 2^10; MPT stands `x` PU after a boundary. -/
def edging (x : Nat) : Dev :=
  { ((inState .run).setFld Reg.msyncCtrl 0 0 1).setFld Reg.msyncCtrl 20 16 10 with
    tb := { Timebase.init with acc := BitVec.ofNat 72 (x * 2 ^ 24), freq := 0 } }
/-- DIV + 1 boundaries have passed without an accepted edge. -/
def missing : Dev := { edging 1024 with msync := { Msync.init with runStart := 2 ^ 23 - 1, tracking := true } }
theorem witness_Msync : (edging 100).dev.clocked = true ∧ (edging 100).msyncEn = true ∧ true ≠ (edging 100).flag Reg.msyncCtrl 1 ∧
    false = (edging 100).flag Reg.msyncCtrl 1 ∧
    (2 ^ (edging 1025).fld Reg.msyncCtrl 20 16 : Int) <
      absI (edgeError ((edging 1025).edgePos 0) (nearestBound ((edging 1025).edgePos 0) (edging 1025).edgeBounds (0, 0))) ∧
    absI (edgeError ((edging 1024).edgePos 0) (nearestBound ((edging 1024).edgePos 0) (edging 1024).edgeBounds (0, 0))) ≤
      2 ^ (edging 1024).fld Reg.msyncCtrl 20 16 ∧
    (edging 1024).msync.accepted ≠ some 0 ∧ absI (0 + 100 : Int) ≤ (edging 100).fld Reg.msyncAbs 19 0 ∧ (edging (2 ^ 25)).bpDue = true ∧
    absI (((edging (2 ^ 25)).msync.judged (edging (2 ^ 25)).clk).1 - 0) ≤ (edging (2 ^ 25)).fld Reg.msyncRate 14 0 ∧
    (2 ^ missing.fld Reg.msyncCtrl 20 16 : Int) ≤ edgeError (missing.mpt : Int) (missing.msync.bpi, missing.msync.ofs) ∧
    missing.msync.accepted ≠ some missing.msync.bpi ∧ missing.msyncDiv ≤ bpSince missing.msync.runStart missing.msync.bpi ∧
    bpSince missing.msync.runStart missing.msync.bpi < 2 ^ 22 := by decide
/-- 02 R56, R57: an edge at most the window from a boundary sets the target. -/
theorem test_msync_edge :
    after (exec (.msyncEdge 0 false) (st (edging 100))) (fun t => decide (t.dev.msync.tgt = 100 ∧ t.dev.msync.tracking = true)) = true ∧
    after (exec (.msyncEdge 0 false) (st (edging 1025))) (fun t => decide (t.dev.msync.accepted = none)) = true := by decide
/-- 02 R58: the step is limited by `RATE`; 02 R59. -/
theorem test_msync_step :
    after (exec .msyncStep (st { edging (2 ^ 25) with msync := { Msync.init with tgt := 100000 } })) (fun t =>
      decide (t.dev.msync.bpi = 1 ∧ t.dev.msync.step = (edging 0).fld Reg.msyncRate 14 0)) = true ∧
    after (exec .msyncMiss (st missing)) (fun t => !t.dev.msync.tracking) = true := by decide

/-! ### Nodes -/

/-- Node handle 5 of group 0 as given, in a device in RUN with the group up. -/
def withNode (n : Node) : Dev := (withGroup (inState .run) 0 .coordinating).modNode 5 (fun _ => n)
/-- A node in state `x` at short address 1. -/
def nodeIn (x : NodeState) : Node := { Node.init with eui := 0x0102030405060708, st := x, saddr := 1 }

def policySpec : CmdSpec := { CmdSpec.plain 0x20 with len := fun _ n => decide (n % 16 = 0 ∧ n ≤ 4096), m2 := 3, lim2 := 3 }
def fwdSpec : CmdSpec := { CmdSpec.plain 0x28 with len := fun _ n => decide (n % 4 = 0 ∧ n ≤ 512), m2 := 3, lim2 := 3 }
/-- A policy record of the node's EUI-64 with weight 1 and the flags `f`, for every group. -/
def polRec (f : Byte) : List Byte := [8, 7, 6, 5, 4, 3, 2, 1, 1, 0, f, 255, 0, 0, 0, 0]
/-- A table of `n` entries. -/
def policies (n : Nat) : List Policy := (List.range n).map (fun i =>
  { eui := BitVec.ofNat 64 i, weight := 1, encReq := false, mimoOk := false, allow := true, deny := false, grp := 255 })
def fwds (n : Nat) : List FwdEntry := (List.range n).map (fun i => { grp := i / 255, ftag := 1 + i % 255, egress := 3, copy := false })
theorem witness_NodeTables :
    Accepted (st (withNode (nodeIn .active))) (cmdB 0x20 0 0 (polRec 8)) policySpec ∧
    Accepted (st (withNode (nodeIn .active))) (cmdB 0x20 0 1 (polRec 8)) policySpec ∧
    Accepted (st (withNode (nodeIn .active))) (cmdA 0x20 2) policySpec ∧
    (records 16 (cmdB 0x20 0 0 (polRec 8)).bytes).all (fun b => policyRsvd b && (decide ((cmdB 0x20 0 0 (polRec 8)).n2 ≠ 0) || policyRange (policyRec b))) = true ∧
    (policyRec (polRec 8)).deny = true ∧ (policyRec (polRec 8)).eui = (nodeIn .active).eui ∧ NodeState.active.isAdmitted = true ∧
    Accepted (st (inState .config)) (cmdB 0x28 0 0 [0x1F, 7, 3, 0x80]) fwdSpec ∧ Accepted (st (inState .config)) (cmdB 0x28 0 1 [0x1F, 7, 3, 0x80]) fwdSpec ∧
    Accepted (st (inState .config)) (cmdA 0x28 2) fwdSpec ∧
    (records 4 [0x1F, 7, 3, 0x80]).all (fun b => decide (bits (leNat b) 7 5 = 0 ∧ bits (leNat b) 30 30 = 0 ∧ bits (leNat b) 15 8 ≠ 0)) = true ∧
    Accepted (st (inState .config)) (cmdC 0x21 2 31) { CmdSpec.plain 0x21 with m1 := 3, m2 := 0xFFFF, lim2 := 32 } ∧
    Accepted (st (inState .safe)) ({ opc := 0x24, a2 := 5, raddr := 0x1000 } : CmdF).desc { nodeSpec 0x24 0 with needR := true } := by
  unfold Accepted; decide
/-- 16 R399: the table's limits, 16,384 records and 1,024 entries, are met by one more record. -/
theorem witness_NodeTables_full :
    1024 < (fwds 1024 ++ [fwdRec 0x8003071F]).length ∧ ¬ 1024 < (fwds 1023 ++ [fwdRec 0x8003071F]).length ∧
    (fwds 1024).all (fun e => decide ((e.grp, e.ftag) ≠ ((fwdRec 0x8003071F).grp, (fwdRec 0x8003071F).ftag))) = true ∧
    16384 < (policies 16384 ++ [policyRec (polRec 8)]).length := by
  refine ⟨by decide +kernel, by decide +kernel, by decide +kernel, ?_⟩
  simp [policies]
/-- 16 R399, 10 R265: a record that denies evicts. -/
theorem test_policy_set :
    after (exec (.policySet (cmdB 0x20 0 0 (polRec 8))) (st (withNode (nodeIn .active)))) (fun t =>
      decide ((t.dev.node 5).st = .evicted ∧ t.dev.policy.length = 1 ∧ status t = some 0)) = true ∧
    after (exec (.policySet (cmdB 0x20 0 0 (polRec 16))) (st (withNode (nodeIn .active)))) (fun t => decide (status t = some 0x15)) = true := by
  decide +kernel
/-- 16 R400: group 31, tag 7, egress group 3, copy. -/
theorem test_fwd_set :
    after (exec (.fwdSet (cmdB 0x28 0 0 [0x1F, 7, 3, 0x80])) (st (inState .config))) (fun t =>
      decide (t.dev.fwd = [{ grp := 31, ftag := 7, egress := 3, copy := true }] ∧ status t = some 0)) = true := by decide
theorem test_admit_mode_node_read :
    after (exec (.admitMode (cmdC 0x21 2 31)) (st (inState .config))) (fun t => decide (t.dev.fld (Reg.gongGrp 31) 17 16 = 2)) = true ∧
    after (exec (.nodeRead ({ opc := 0x24, a2 := 5, raddr := 0x1000 } : CmdF).desc) (st (withNode (nodeIn .active)))) (fun t =>
      decide (Memory.read t.hostMem 0x1000 = some 8 ∧ Memory.read t.hostMem 0x100C = some 3 ∧ status t = some 0)) = true := by decide +kernel

/-- The body of an ASSOC_REQ of the EUI-64 above: class 1, every profile, no relay. -/
def assocBody : List Byte := [8, 7, 6, 5, 4, 3, 2, 1, 1, 0x0F, 0, 0x55, 0, 0, 0, 0, 0, 0, 0, 0]
/-- Group 0 up, admission mode `m`, policy `p`, no node. -/
def admitting (m : Nat) (p : List Policy) : Dev := { ((withGroup (inState .run) 0 .coordinating).setFld (Reg.gongGrp 0) 17 16 m) with policy := p }
/-- Handle 5 waits for the host. -/
def asking : Dev := withNode { nodeIn .associating with askBp := some 0 }
theorem witness_Association :
    (admitting 0 []).dev = .run ∧ ((admitting 0 []).group (0 : Fin 32)).st.up = true ∧ 20 ≤ assocBody.length ∧
    ((admitting 0 []).group 0).bq.any (respPending 0 (BitVec.ofNat 64 (leAt assocBody 0 8))) = false ∧
    (admitting 0 []).byEui (BitVec.ofNat 64 (leAt assocBody 0 8)) = [] ∧ (admitting 0 []).freeHandle = some 0 ∧
    ((admitting 0 []).admittedOf 0).length < 512 ∧ (!bit (byteAt assocBody 9) ((admitting 0 []).profile 0)) = false ∧
    (!bit 0 ((admitting 0 []).profile 0)) = true ∧ (admitting 1 [policyRec (polRec 4)]).fld (Reg.gongGrp 0) 17 16 = 1 ∧
    ((admitting 1 [policyRec (polRec 4)]).policyOf 0x0102030405060708) = some (policyRec (polRec 4)) ∧
    (policyRec (polRec 4)).allow = true ∧ (policyRec (polRec 4)).grp = 255 ∧ (admitting 2 []).fld (Reg.gongGrp 0) 17 16 = 2 ∧
    Accepted (st asking) ({ opc := 0x22, a1 := 1, a0 := 0x0102030405060708 } : CmdF).desc { CmdSpec.plain 0x22 with m0 := 2 ^ 64 - 1, m1 := 1, m2 := 0xFFFF, lim2 := 32 } ∧
    (asking.byEui 0x0102030405060708).find? (fun h => decide ((asking.node h).grp = 0) && asking.askPending h) = some 5 ∧
    Accepted (st asking) ({ opc := 0x22, a0 := 9 } : CmdF).desc { CmdSpec.plain 0x22 with m0 := 2 ^ 64 - 1, m1 := 1, m2 := 0xFFFF, lim2 := 32 } ∧
    (asking.byEui 9).find? (fun h => decide ((asking.node h).grp = 0) && asking.askPending h) = none ∧
    (asking.node (5 : Fin 16384)).st = .associating ∧ (asking.node 5).askBp = some 0 ∧
    asking.fld Reg.gongAssoc 23 16 ≤ bpSince 0 255 := by unfold Accepted; decide +kernel
/-- 10 R265, Table GC.11. -/
theorem test_assoc_req :
    after (exec (.assocReq 0 assocBody) (st (admitting 0 []))) (fun t => decide ((t.dev.node 0).st = .admitted ∧ (t.dev.node 0).saddr = 1)) = true ∧
    after (exec (.assocReq 0 assocBody) (st (admitting 2 []))) (fun t => decide ((t.dev.node 0).st = .associating)) = true := by decide +kernel
theorem test_admit_decide :
    after (exec (.admitDecide ({ opc := 0x22, a1 := 1, a0 := 0x0102030405060708 } : CmdF).desc) (st asking)) (fun t =>
      decide ((t.dev.node 5).st = .admitted ∧ status t = some 0)) = true ∧
    after (exec (.admitAskTimeout 5) (st { asking with msync := { Msync.init with bpi := 255 } })) (fun t =>
      decide ((t.dev.node 5).st = .unknown)) = true := by decide +kernel

/-- A body of ZC_REPORT with one valid record: beacon period 0, phase 0x000102. -/
def zcBody : List Byte := [1, 0, 0, 2, 1, 0, 1]
/-- The device at beacon period `b`. -/
def atBp (d : Dev) (b : Nat) : Dev := { d with msync := { Msync.init with bpi := b } }
theorem witness_NodeLife :
    (withNode (nodeIn .admitted)).dev = .run ∧ NodeState.admitted.isAdmitted = true ∧ NodeState.lost.isAdmitted = true ∧
    ((withNode (nodeIn .active)).group ((withNode (nodeIn .active)).node 5).grp).st.up = true ∧
    ((withNode (nodeIn .active)).node (5 : Fin 16384)).st = .active ∧
    (withNode (nodeIn .active)).fld Reg.gongNode 15 0 ≤ bpSince 0 0xFFFF ∧ (withNode (nodeIn .admitted)).fld Reg.gongAssoc 15 0 ≤ bpSince 0 0xFFFF ∧
    (withNode (nodeIn .lost)).fld Reg.gongNode 31 16 ≤ bpSince 0 0xFFFF ∧ ((withNode (nodeIn .lost)).setFld Reg.gongCtrl 0 0 1).flag Reg.gongCtrl 0 = true ∧
    Accepted (st (withNode (nodeIn .active))) (cmdA 0x23 5) (nodeSpec 0x23 0) ∧ (cmdA 0x23 5).n2 = (5 : Fin 16384).val ∧
    ((inState .run).node 16383).st = .unknown ∧ (nodeIn .evicted).live = [] ∧ (nodeIn .evicted).heldq = [] ∧ (nodeIn .evicted).reasm = none ∧
    (nodeIn .evicted).evictDue = false ∧ ((withNode (nodeIn .evicted)).group 0).rxq.any (fun m => decide (m.nh = 5)) = false ∧
    zcWellFormed [] = false ∧ zcWellFormed zcBody = true ∧ zcRecords zcBody = [(0, 0x102, true)] ∧ (atBp (withNode (nodeIn .active)) 16).bpAge 0 ≤ 16 ∧
    (nodeIn .active).zc.length ≤ 8 := by unfold Accepted; decide
/-- 10 R267, Table GC.13. -/
theorem test_node_states :
    after (exec (.keepalive 5) (st (withNode (nodeIn .admitted)))) (fun t => decide ((t.dev.node 5).st = .active)) = true ∧
    after (exec (.silentTimeout 5) (st (atBp (withNode (nodeIn .active)) 0xFFFF))) (fun t => decide ((t.dev.node 5).st = .lost)) = true ∧
    after (exec (.leave 5) (st (withNode (nodeIn .active)))) (fun t => decide ((t.dev.node 5).st = .evicted ∧ (t.dev.node 5).saddr = 0)) = true := by
  decide +kernel
theorem test_node_evictions :
    after (exec (.admitTimeout 5) (st (atBp (withNode (nodeIn .admitted)) 0xFFFF))) (fun t => decide ((t.dev.node 5).st = .evicted)) = true ∧
    after (exec (.lostEvictTimeout 5) (st (atBp ((withNode (nodeIn .lost)).setFld Reg.gongCtrl 0 0 1) 0xFFFF))) (fun t => decide ((t.dev.node 5).st = .evicted)) = true ∧
    after (exec (.nodeEvict (cmdA 0x23 5)) (st (withNode (nodeIn .active)))) (fun t => decide ((t.dev.node 5).st = .evicted ∧ status t = some 0)) = true ∧
    after (exec (.evictedRelease 5) (st (withNode (nodeIn .evicted)))) (fun t => decide (t.dev.node 5 = Node.init)) = true := by decide +kernel
/-- 10 R270: a sample is kept with its beacon period; one of 17 beacon periods ago is not. -/
theorem test_zc_report :
    after (exec (.zcReport 5 zcBody) (st (atBp (withNode (nodeIn .active)) 16))) (fun t => decide ((t.dev.node 5).zc = [{ bp := 0, z := 0x102 }])) = true ∧
    after (exec (.zcReport 5 zcBody) (st (atBp (withNode (nodeIn .active)) 17))) (fun t => decide ((t.dev.node 5).zc = [])) = true := by decide +kernel

/-- Handle 6 is an admitted relay at short address 2. -/
def relayed : Dev := (withNode (nodeIn .active)).modNode 6 (fun _ => { nodeIn .active with eui := 1, saddr := 2, relayCap := true })
theorem witness_Routes :
    Accepted (st relayed) (cmdC 0x25 2 5) (nodeSpec 0x25 0x3FF) ∧ (relayed.node 5).st.isAdmitted = true ∧ relayed.parentOk 5 2 = true ∧
    relayed.relays (relayed.node 5).grp 7 2 ≠ [] ∧ Accepted (st relayed) (cmdC 0x25 0 5) (nodeSpec 0x25 0x3FF) ∧ (cmdC 0x25 0 5).f1 9 0 = 0 ∧
    Accepted (st relayed) (cmdC 0x25 0 7) (nodeSpec 0x25 0x3FF) ∧ (relayed.node 7).st.isAdmitted = false := by unfold Accepted; decide
/-- 11 R296: the relay is told before the route changes. -/
theorem test_node_route :
    after (exec (.nodeRoute (cmdC 0x25 2 5)) (st relayed)) (fun t => decide ((t.dev.node 5).parent = 0 ∧ (t.dev.node 6).txq.length = 1 ∧ status t = none)) = true ∧
    after (exec (.nodeRoute (cmdC 0x25 0 5)) (st (relayed.modNode 5 (fun n => { n with parent := 2, depth := 1 })))) (fun t =>
      decide ((t.dev.node 5).parent = 0 ∧ status t = some 0)) = true := by decide +kernel

theorem witness_Sound : Accepted (st (withNode (nodeIn .active))) (cmdC 0x27 0x3FFFF 5) (nodeSpec 0x27 0x3FFFF) ∧
    (cmdC 0x27 0x3FFFF 5).f1 15 0 ≠ 0 ∧ (cmdC 0x27 0x3FFFF 5).f1 17 16 ≠ 0 ∧ bit (cmdC 0x27 0x3FFFF 5).n1 17 = true ∧
    bit (cmdC 0x27 0x3FFFF 5).n1 16 = true ∧ ((withNode (nodeIn .active)).node 5).st = .active ∧ (nodeIn .dormant).st = .dormant ∧
    ((inState .run).node 5).st ≠ .active ∧ ((inState .run).node 5).st ≠ .dormant := by unfold Accepted; decide
theorem test_sound :
    after (exec (.sound (cmdC 0x27 0x20001 5)) (st (withNode (nodeIn .active)))) (fun t =>
      decide (t.dev.sess.map (fun x => (x.nh, x.up, x.segs)) = [(5, true, 1)] ∧ status t = none)) = true := by decide

/-- A session of handle 5 that command 9 waits for, placed in beacon period 0. -/
def sess5 (up : Bool) (segs : Nat) : Sess :=
  { id := 1, nh := 5, up := up, segs := segs, got := 0, endBp := some 0, mark := none, more := 0, moreMark := none, cmds := [9],
    frames := 1, lastFr := 0, done := false, rcvd := List.replicate 16 { seg := 15, m := 0, mimo := false, gains := [4], z := [[]] } }
/-- The device with that session and that command outstanding, in beacon period `b`. -/
def sounding (up : Bool) (segs b : Nat) : Dev :=
  { atBp (withNode (nodeIn .active)) b with
    sess := [sess5 up segs], sndId := [(5, 256 + 0x33)]
    cmds := [{ id := 9, idx := 0, desc := cmdC 0x27 0x20001 5, start := 0, report := true }] }
/-- A report of index 15 in that session. -/
def report15 : List Byte := [0x33, 0x40, 0, 0x80] ++ List.replicate (numTg 1) 40
theorem witness_SoundingEnds :
    (sounding true 0x8000 1).dev = .run ∧ (sounding true 0x8000 1).openOf (5 : Fin 16384) true = some (sess5 true 0x8000) ∧
    (sounding true 0x8000 1).soundingOver (sess5 true 0x8000) = true ∧ (sess5 true 0x8000).cmds = [9] ∧
    (sounding true 0x8000 1).sess.all (fun y => decide (y.id = (sess5 true 0x8000).id)) = true ∧
    ((sounding true 0x8000 1).mapSet (setIx 5 true)).upd ≠ .scheduled ∧ segList (sess5 true 0x8000).segs = [15] ∧
    (sounding true 0x8000 1).sndMin ≤ ((sess5 true 0x8000).rcvd.filter (fun y => decide (y.seg = 15))).length ∧
    (sounding false 0 0).reportUsable 5 [] = false ∧ (sounding false 0x8000 1).reportUsable 5 report15 = true ∧
    (sounding false 0x8000 1).openOf (5 : Fin 16384) false = some (sess5 false 0x8000) ∧ (sess5 false 0x8000).frames ≠ 0 ∧
    ((sess5 false 0x8000).got ||| ((sess5 false 0x8000).segs &&& leAt report15 2 2)) &&& (sess5 false 0x8000).segs = (sess5 false 0x8000).segs ∧
    ((sounding false 0x8000 1).mapSet (setIx 5 false)).upd ≠ .scheduled ∧ segList (leAt report15 2 2) = [15] ∧
    (sess5 false 1).endBp = some 0 ∧ 5 ≤ bpSince 0 (sounding false 1 5).msync.bpi ∧ bpSince 0 (sounding false 1 5).msync.bpi < 2 ^ 22 := by decide +kernel
/-- 09 R223: what was not measured is asked for again. -/
theorem test_sounding_ends :
    after (exec (.soundSessionEnd 5) (st (sounding true 1 1))) (fun t =>
      decide ((t.dev.cmdOf 9).isNone ∧ t.dev.sess.map (fun x => (x.segs, x.cmds)) = [(1, [])])) = true ∧
    after (exec (.soundReportTimeout 5) (st (sounding false 1 5))) (fun t => decide ((t.dev.cmdOf 9).isNone)) = true ∧
    after (exec (.soundReportTimeout 5) (st (sounding false 1 4))) (fun t => decide ((t.dev.cmdOf 9).isSome)) = true := by decide +kernel

/-- An entry without a loaded carrier. -/
def entry0 (v : Nat) : Entry := { ver := v, dir := true, seg := 3, rate := 0, prof := 0, nf := none, sndBp := 0, load := [] }
/-- The uplink set of handle 5 with key 3 written, announced for beacon period `b` in state `u` after `n` sends. -/
def updating (u : UpdState) (b n : Nat) : Dev :=
  (((withNode (nodeIn .active)).modMapSet (setIx 5 true) (fun x => { x with upd := u, sent := true, effBp := b, effSeg := 0, sends := n, ver := 7 })).modKey
    (setIx 5 true * 16 + 3) (fun k => { k with active := some (entry0 7), shadow := some (entry0 0), built := true, stale := true }))
theorem witness_MapUpdates :
    (updating .built 2 0).dev.clocked = true ∧ ((updating .built 2 0).mapSet (setIx 5 true)).upd = .built ∧ ((updating .built 2 0).mapSet (setIx 5 true)).sent = true ∧
    bpSince 0 ((updating .built 2 0).mapSet (setIx 5 true)).effBp ≤ 2 ∧ (2 : Nat) ^ 22 ≤ bpSince 0 (2 ^ 23 - 1) ∧
    ((updating .built 2 0).mapSet (setIx 5 true)).sends < (updating .built 2 0).fld Reg.marUpd 11 8 ∧
    (updating .built 2 15).fld Reg.marUpd 11 8 ≤ ((updating .built 2 15).mapSet (setIx 5 true)).sends ∧
    (updating .scheduled 0 1).commitDue ((updating .scheduled 0 1).mapSet (setIx 5 true)) = true ∧
    ((updating .scheduled 0 1).key (setIx 5 true * 16 + 3)).built = true ∧ ((updating .scheduled 0 1).mapSet (setIx 5 true)).heldR = [] := by
  decide +kernel
/-- 09 R231, R232. -/
theorem test_map_commit :
    after (exec (.mapCommit 5 true) (st (updating .scheduled 0 1))) (fun t =>
      decide ((t.dev.key (setIx 5 true * 16 + 3)).active = some (entry0 0) ∧ (t.dev.key (setIx 5 true * 16 + 3)).shadow = some (entry0 7) ∧
        (t.dev.mapSet (setIx 5 true)).ver = 0 ∧ (t.dev.key (setIx 5 true * 16 + 3)).stale = false)) = true := by decide +kernel
theorem test_map_deadline :
    after (exec (.mapUpdateDeadline 5 true) (st (updating .built 2 0))) (fun t => decide ((t.dev.node 5).txq.length = 1)) = true ∧
    after (exec (.mapUpdateDeadline 5 true) (st (updating .built 2 15))) (fun t =>
      decide ((t.dev.key (setIx 5 true * 16 + 3)).shadow = none ∧ (t.dev.mapSet (setIx 5 true)).upd = .free)) = true := by decide +kernel

/-- Group 0 grants dormancy, and handle 5 can sleep. -/
def sleepy (n : Node) : Dev := (withNode { n with dormCap := true }).setFld (Reg.dnCtrl 0) 0 0 1
/-- A dormancy of interval 32 with `k` polls missed, the next due in beacon period 0. -/
def dorm0 (k : Nat) : Dorm := { p := 32, pofs := 100, slope := 1, req := 32, ppm := 0, next := 0, k := k }
theorem witness_Dormancy :
    (sleepy (nodeIn .active)).dev = .run ∧ ((sleepy (nodeIn .active)).group ((sleepy (nodeIn .active)).node 5).grp).st.up = true ∧
    4 ≤ [32, 0, 0, (0 : Byte)].length ∧ ((sleepy (nodeIn .active)).node 5).st = .active ∧ (sleepy (nodeIn .active)).dormRefused 5 = false ∧
    (withNode (nodeIn .active)).dormRefused 5 = true ∧
    Accepted (st (sleepy (nodeIn .active))) (cmdC 0x26 32 5) (nodeSpec 0x26 0x1FFFFFF) ∧ (cmdC 0x26 32 5).f1 24 24 = 0 ∧ (cmdC 0x26 32 5).f1 15 0 ≠ 0 ∧
    Accepted (st (sleepy (nodeIn .dormant))) (cmdC 0x26 0x1000000 5) (nodeSpec 0x26 0x1FFFFFF) ∧ (cmdC 0x26 0x1000000 5).f1 24 24 = 1 ∧
    ((sleepy (nodeIn .dormant)).node 5).st = .dormant ∧ ((sleepy (nodeIn .active)).node 5).st ≠ .dormant := by unfold Accepted; decide
theorem test_node_dormant :
    after (exec (.nodeDormant (cmdC 0x26 0x1000000 5)) (st (sleepy (nodeIn .dormant)))) (fun t =>
      decide ((t.dev.node 5).heldq.length = 1 ∧ status t = none)) = true ∧
    after (exec (.nodeDormant (cmdC 0x26 0x1000000 5)) (st (sleepy (nodeIn .active)))) (fun t => decide (status t = some 0x13)) = true := by
  decide +kernel
/-- 12 R306: a node that cannot sleep is refused. -/
theorem test_dorm_req :
    after (exec (.dormReq 5 [32, 0, 0, 0]) (st (withNode (nodeIn .active)))) (fun t =>
      decide ((t.dev.node 5).txq.map (fun m => bytesAt m.data 4 8) = [[0, 0, 0, 0, 0, 0, 1, 0]])) = true := by decide +kernel

/-- An MSDU of the host for handle 5. -/
def msdu1 : Msdu :=
  { id := 77, origin := .host 0x100 0 0xABCD, mgmt := false, nh := 5, grp := 0, bcast := false, ftag := 0, enc := false, data := [1, 2, 3, 4], body := []
    prot := false, seq := 0, base := 0, sentOnce := false, n := 0, blocks := [], tries := 0, life := 0, lifeBp := 0, sent := [], spanEnd := none
    ending := none, heldBp := none, clid := none, faulty := [] }
/-- Handle 5 sleeps with `k` polls missed and holds an MSDU since beacon period 0; the poll of beacon period 0 has passed by. -/
def polling (k : Nat) : Dev := atBp (withNode { nodeIn .dormant with dorm := some (dorm0 k), heldq := [{ msdu1 with heldBp := some 0 }] }) 1
theorem witness_MissedPolls :
    (polling 0).dev = .run ∧ ((polling 0).node 5).st = .dormant ∧ ((polling 0).node (5 : Fin 16384)).dorm = some (dorm0 0) ∧
    (polling 0).pollMissed ((polling 0).node 5) (dorm0 0) = true ∧ ((polling 0).group ((polling 0).node 5).grp).st.up = true ∧
    (polling 14).fld (Reg.dnCtrl 0) 23 20 ≤ 14 + 1 ∧ 0 + 1 < (polling 0).fld (Reg.dnCtrl 0) 23 20 ∧ (polling 0).dev.clocked = true := by decide
/-- 12 R319-R321. -/
theorem test_poll_miss :
    after (exec (.pollMiss 5) (st (polling 0))) (fun t => decide ((t.dev.node 5).st = .dormant ∧ (t.dev.node 5).dorm.map (fun x => x.k) = some 1)) = true ∧
    after (exec (.pollMiss 5) (st (polling 14))) (fun t => decide ((t.dev.node 5).st = .lost ∧ (t.dev.node 5).heldq = [])) = true ∧
    after (exec (.heldLifeExpiry 5) (st (atBp (polling 0) 0xFFFF))) (fun t => decide ((t.dev.node 5).heldq = [])) = true := by decide +kernel

/-! ### Keys, staging, attestation, audit -/

def keySpec : CmdSpec := { nodeSpec 0x31 0xF with len := fun c n => decide (n = if c.f1 1 1 = 1 then 40 else 32) }
/-- Bytes 0, 1, … of a key. -/
def keyBytes (n : Nat) : List Byte := (List.range n).map (BitVec.ofNat 8)
/-- A device in state `x` that holds a key-encryption key, or not. -/
def kekDev (x : DevState) (k : Option (List Byte)) : Dev := { inState x with sec := { Sec.init with kek := k } }
theorem witness_LinkKeys :
    (kekDev .config (some (keyBytes 32))).sec.kek ≠ none ∧ (kekDev .config none).sec.kek = none ∧ (inState .run).dev ≠ .config ∧
    (inState .run).cmdReady = true ∧ (cmdB 0x30 0 0 (keyBytes 32)).dt = 4 ∧ (cmdB 0x30 0 0 (keyBytes 32)).opc = 0x30 ∧
    Accepted (st (kekDev .config none)) (cmdB 0x30 0 0 (keyBytes 32)) { CmdSpec.plain 0x30 with len := fun _ n => decide (n = 32) } ∧
    Accepted (st (kekDev .config (some (keyBytes 32)))) (cmdB 0x30 0 0 (keyBytes 32)) { CmdSpec.plain 0x30 with len := fun _ n => decide (n = 32) } ∧
    Accepted (st (withNode (nodeIn .active))) (cmdB 0x31 0xD 5 (keyBytes 32)) keySpec ∧
    Accepted (st (withNode (nodeIn .active))) (cmdB 0x31 0xE 5 (keyBytes 40)) keySpec ∧
    (cmdB 0x31 0xD 5 (keyBytes 32)).f1 1 1 = 0 ∧ (cmdB 0x31 0xE 5 (keyBytes 40)).f1 1 1 = 1 ∧
    ((withNode (nodeIn .active)).setFld Reg.secCtrl 0 0 0).flag Reg.secCtrl 0 = false ∧
    ((withNode (nodeIn .active)).setFld Reg.secCtrl 0 0 1).flag Reg.secCtrl 0 = true ∧ ((withNode (nodeIn .active)).node 5).st = .active ∧
    ((withNode (nodeIn .active)).sec.kek.bind (fun k => unwrapKey k (cmdB 0x31 0xE 5 (keyBytes 40)).bytes)) = none ∧
    Accepted (st (inState .safe)) (cmdA 3 3) { CmdSpec.plain 0x03 with m2 := 0xFFFF } ∧
    Accepted (st (withNode (nodeIn .active))) (cmdC 0x32 1 5) (nodeSpec 0x32 1) := by unfold Accepted; decide
/-- FIPS 197, C.3, which 00 R2 names: a block under the AES-256 key 0 to 31, both ways. -/
theorem test_aes :
    aesEnc (aesKeys (keyBytes 32)) (0 :: (List.range 15).map (fun i => BitVec.ofNat 8 (17 * (i + 1)))) =
      [0x8E, 0xA2, 0xB7, 0xCA, 0x51, 0x67, 0x45, 0xBF, 0xEA, 0xFC, 0x49, 0x90, 0x4B, 0x49, 0x60, 0x89] ∧
    aesDec (aesKeys (keyBytes 32)) [0x8E, 0xA2, 0xB7, 0xCA, 0x51, 0x67, 0x45, 0xBF, 0xEA, 0xFC, 0x49, 0x90, 0x4B, 0x49, 0x60, 0x89] =
      0 :: (List.range 15).map (fun i => BitVec.ofNat 8 (17 * (i + 1))) := by decide +kernel
/-- 19 R453. -/
theorem test_kek_set :
    after (exec (.kekSet (cmdB 0x30 0 0 (keyBytes 32))) (st (kekDev .config none))) (fun t =>
      decide (t.dev.sec.kek = some (keyBytes 32) ∧ status t = some 0) && decide (t.dev.readReg Reg.secStat = 1)) = true ∧
    after (exec (.kekSet (cmdB 0x30 0 0 (keyBytes 32))) (st (kekDev .config (some [1])))) (fun t =>
      decide (t.dev.sec.kek = some [1] ∧ status t = some 0x16)) = true := by decide +kernel
/-- 19 R454: key 1, for transmission, counters restarted; a wrapped key with no key-encryption key. -/
theorem test_key_load_inval :
    after (exec (.keyLoad (cmdB 0x31 0xD 5 (keyBytes 32))) (st ((withNode { nodeIn .active with txFc := 9 }).setFld Reg.secCtrl 0 0 1))) (fun t =>
      decide ((t.dev.node 5).key1 = some (keyBytes 32) ∧ (t.dev.node 5).txKey = true ∧ (t.dev.node 5).txFc = 0) &&
      after (exec (.keyInval (cmdC 0x32 1 5)) (st (withNode (t.dev.node 5)))) (fun u => decide ((u.dev.node 5).key1 = none))) = true ∧
    after (exec (.keyLoad (cmdB 0x31 0xE 5 (keyBytes 40))) (st (withNode (nodeIn .active)))) (fun t => decide (status t = some 0x26)) = true := by
  decide +kernel

def stageSpec : CmdSpec :=
  { CmdSpec.plain 0x60 with len := fun _ n => decide (1 ≤ n ∧ n ≤ 65536), m1 := 2 ^ 32 - 1, m2 := 3, lim2 := 4 }
/-- The image has been written from the start of an empty staging area, in a part that names its key block. -/
def stagedDev : Dev :=
  { inState .run with sec := { Sec.init with stage := stageWrite [] 0 image5, stageLen := 0x1C80, kd := [sha512 keyBlock0] } }
/-- Debug is open, and word 4 of the port DSP space has been written. -/
def openDebug : Dev :=
  { inState .safe with sec := { Sec.init with dbgOpen := true }, jtag := { Jtag.init with dbg := [(4 * 2 ^ 32 + 4, 0xCAFE)] } }
theorem witness_Staging :
    Accepted (st (inState .run)) (cmdB 0x60 0x1FFFFFF 3 [1]) stageSpec ∧ (cmdB 0x60 0x1FFFFFF 3 [1]).n1 + (cmdB 0x60 0x1FFFFFF 3 [1]).n3 = stageSize ∧
    bit (cmdB 0x60 0x1FFFFFF 3 [1]).n2 1 = true ∧ bit (cmdB 0x60 0 1 [1]).n2 1 = false ∧
    (inState .run).verify 1 ((inState .run).stagedSrc none) = some 0x08 ∧ (1 : Nat) ≤ 4 ∧ 4 < (5 : Nat) := by unfold Accepted; decide +kernel
theorem image5_length : image5.length = 0x1C80 := by decide +kernel
/-- 19 Table SE.5: the staged image passes every step. -/
theorem witness_Staging_good : stagedDev.verify stagedDev.sec.stageLen (stagedDev.stagedSrc none) = none := by
  have hk : stagedDev.sec.kd = [sha512 keyBlock0] := by simp only [stagedDev]
  have hs : stagedDev.sec.stage = stageWrite [] 0 image5 := by simp only [stagedDev]
  have hl : stagedDev.sec.stageLen = 0x1C80 := by simp only [stagedDev]
  have ha : stagedDev.sec.arbCtr.toNat ≤ 5 ∧ bit stagedDev.sec.revoked 0 = false := by simp only [stagedDev]; decide
  have h := stagedSrc_bytes stagedDev none image5 hs (hl.trans image5_length.symm)
  have e : ∀ x : BootSrc, x.bytes = image5 → x.readFail = none → x = { bytes := image5, readFail := none } := by
    intro x h1 h2; cases x; cases h1; cases h2; rfl
  rw [e _ h rfl, hl]
  exact verify_image5 ha.1 ha.2 (by rw [hk]; exact List.getD_cons_zero) (Nat.le_refl _)
theorem witness_Debug : openDebug.dev ≠ .off ∧ openDebug.sec.dbgOpen = true ∧ (4 : Nat) ≤ 4 ∧ (4 : Nat) < 5 ∧ (inState .run).sec.dbgOpen = false ∧
    openDebug.jtag.dbg.find? (fun e => decide (e.1 = 4 * 2 ^ 32 + 4 % 2 ^ 32)) = some (4 * 2 ^ 32 + 4 % 2 ^ 32, 0xCAFE) := by decide
/-- 16 R404. -/
theorem test_fw_stage :
    after (exec (.fwStage (cmdB 0x60 6 0 [7, 8]) none) (st { inState .run with sec := { Sec.init with stage := [(1, 9)], stageLen := 2 } })) (fun t =>
      decide (t.dev.sec.stage = [(1, 9), (6, 7), (7, 8)] ∧ t.dev.sec.stageLen = 8 ∧ status t = some 0)) = true ∧
    after (exec (.fwStage (cmdB 0x60 6 1 [7, 8]) none) (st { inState .run with sec := { Sec.init with stage := [(1, 9)], stageLen := 2 } })) (fun t =>
      decide (t.dev.sec.stage = [(6, 7), (7, 8)] ∧ t.dev.sec.stageLen = 8)) = true := by decide +kernel
/-- 19 R457, R458. -/
theorem test_jtag :
    after (exec (.jtagTapAccess .idcode) (st openDebug)) (fun t => decide (t.dev.jtag.tdo = 0x19128A5B)) = true ∧
    after (exec (.jtagTapAccess (.debug 4 4 none)) (st openDebug)) (fun t => decide (t.dev.jtag.tdo = 0xCAFE)) = true ∧
    after (exec (.jtagTapAccess (.debug 5 4 (some 1))) (st openDebug)) (fun t => decide (t.dev = openDebug)) = true := by decide +kernel

/-- A command with a result address, with and without an argument block. -/
def cmdQ (opc : BitVec 8) (a2 : BitVec 16) : CmdDesc := ({ opc := opc, a2 := a2, raddr := 0x1000 } : CmdF).desc
def cmdR (opc : BitVec 8) (a2 : BitVec 16) (b : List Byte) : CmdDesc := 
  ({ opc := opc, a2 := a2, ablk := true, a3 := BitVec.ofNat 32 b.length, block := some b, raddr := 0x1000 } : CmdF).desc
theorem witness_AttestAndAudit :
    Accepted (st (inState .safe)) (cmdR 0x61 0 (keyBytes 32)) { CmdSpec.plain 0x61 with needR := true, len := fun _ n => decide (n = 32) } ∧
    (inState .safe).sec.trngFail = false ∧
    Accepted (st (inState .run)) (cmdQ 0x50 31) { CmdSpec.plain 0x50 with needR := true, m2 := 0xFFFF } ∧
    Accepted (st (inState .run)) (cmdQ 0x50 0xFFFF) { CmdSpec.plain 0x50 with needR := true, m2 := 0xFFFF } ∧
    (cmdQ 0x50 31).n2 < 32 ∧ (cmdQ 0x50 0xFFFF).n2 = 0xFFFF ∧
    ((inState .run).setFld Reg.mntCtrl 16 16 1).flag Reg.mntCtrl 16 = true ∧ ((inState .run).setFld Reg.mntCtrl 16 16 0).flag Reg.mntCtrl 16 = false := by
  unfold Accepted; decide
/-- One sequence number of group 0 given, and accounted for nowhere. -/
def unbalanced (h : Nat) : Dev := ((inState .run).modGroup 0 (fun g => { g with seqGiven := 1 })).setFld Reg.mntCtrl 16 16 h
def audit0 : CmdDesc := cmdQ 0x50 0
theorem witness_Audit_sides :
    ((inState .run).fresh.fetchCmd audit0).auditEntries 0 ≠ [] ∧
    (((inState .run).fresh.fetchCmd audit0).auditEntries 0).all (fun e => decide (e.left = e.right)) = true ∧
    (((unbalanced 0).fresh.fetchCmd audit0).auditEntries 0).any (fun e => decide (e.left ≠ e.right)) = true := by decide +kernel
/-- 17 R423: an identity that fails is a fault of class 0x0C. -/
theorem test_audit :
    after (exec (.audit audit0) (st (unbalanced 0))) (fun t => decide (t.dev.dev = .run ∧ t.dev.mnt.fclass = 0x0C)) = true := by
  decide +kernel
theorem test_attest :
    after (exec (.attest (cmdR 0x61 0 (keyBytes 32))) (st { inState .run with sec := { Sec.init with trngFail := true } })) (fun t =>
      decide (status t = some 0x31 ∧ t.dev.mnt.fclass = 7)) = true := by decide +kernel

/-! ### Counters, traces, captures -/

def cntSpec : CmdSpec := { CmdSpec.plain 0x51 with len := fun _ n => decide (n % 4 = 0 ∧ n ≤ 2688) }
/-- The word for counter 671: selector 0x8000, overflow cleared. -/
def cnt671 : List Byte := [0xC7, 0xA7, 0x00, 0x80]
/-- No sweep runs; a CNT_SET of counter 608 and a CNT_SNAP wait; the clock stands at 1,000,000. -/
def sweepDev (en : Nat) : Dev :=
  { ((counting.raise .hif 0).modCounter 608 (fun c => { c with pend := some 0x8001 })).setFld Reg.cntCtrl 0 0 en with
    clk := 1000000
    cnts := { ((counting.raise .hif 0).modCounter 608 (fun c => { c with pend := some 0x8001 })).cnts with sets := [8], snaps := [9], us := 4000 }
    cmds := [{ id := 8, idx := 0, desc := cmd0, start := 0, report := true },
      { id := 9, idx := 0, desc := ({ raddr := 0x9000 } : CmdF).desc, start := 0, report := true }] }
theorem witness_CounterSweeps :
    Accepted (st (inState .config)) (cmdB 0x51 0 0 cnt671) cntSpec ∧ (cmdB 0x51 0 0 cnt671).ablk = true ∧ cntWords cnt671 = [0x8000A7C7] ∧
    cntEntryOk 0x8000A7C7 = true ∧ bits 0x8000A7C7 15 6 = 671 ∧ bit 0x8000A7C7 1 = true ∧ bit 0x8000A7C7 2 = true ∧ (sweepDev 0).dev.clocked = true ∧
    (sweepDev 0).cnts.ix = none ∧ (sweepDev 1).flag Reg.cntCtrl 0 = true ∧ (sweepDev 0).flag Reg.cntCtrl 0 = false ∧
    (sweepDev 1).cnts.swept + usClk (sweepDev 1).cnts.us ≤ (sweepDev 1).clk ∧ (sweepDev 0).cnts.snaps ≠ [] ∧
    (sweeping 3).cnts.ix ≠ none ∧ Accepted (st (sweeping 3)) (cmdQ 0x52 0) { CmdSpec.plain 0x52 with needR := true } ∧
    Accepted (st (sweepDev 0)) (cmdQ 0x52 0) { CmdSpec.plain 0x52 with needR := true } ∧
    Accepted (st (sweepDev 1)) (cmdQ 0x52 0) { CmdSpec.plain 0x52 with needR := true } := by unfold Accepted; decide +kernel
/-- 20 R465, R467. -/
theorem test_cnt_set :
    after (exec (.cntSet (cmdB 0x51 0 0 cnt671)) (st (inState .config))) (fun t =>
      decide ((t.dev.counter 671).pend = some 0x8000 ∧ (t.dev.counter 671).sel = 0 ∧ (t.dev.counter 671).clr = true ∧ status t = none)) = true := by
  decide +kernel
/-- 20 R463, R465: a waiting selector is taken into the sweep at its start; the counter's own value stays. -/
theorem test_sweep_begins :
    after (exec .counterSweep (st (sweepDev 0))) (fun t =>
      decide (t.dev.cnts.ix = some 0 ∧ t.dev.cnts.dueSets = [8] ∧ t.dev.cnts.dueSnaps = [9] ∧ t.dev.cnts.sets = [] ∧
        (t.dev.counter 608).turn = some 0x8001 ∧ (t.dev.counter 608).pend = none ∧ (t.dev.counter 608).value = 1)) = true := by
  decide +kernel

/-- Group 31, probability 0x1234 in stages 0x7FF, seed 1. -/
def traceBlock : List Byte := [0x34, 0x12, 1, 31, 1, 0, 0, 0, 0xFF, 7, 0, 0, 0, 0, 0, 0]
def traceSpec : CmdSpec := { CmdSpec.plain 0x53 with len := fun _ n => decide (n = 16) }
/-- Tap 3 of the line, one stream. -/
def captBlock : List Byte := [3, 2] ++ List.replicate 14 0
def captSpec : CmdSpec := { CmdSpec.plain 0x54 with len := fun _ n => decide (n = 16), m1 := 2 ^ 32 - 1 }
/-- Capturing is enabled and the CAPT ring is in use, its entries kept short. -/
def captDev (cs : List Capt) : Dev :=
  { (inState .run).setFld Reg.carCtrl 0 0 1 with
    capts := cs, tb := { Timebase.init with n := 5000 }
    rings := [(0, { ringOn with hostIdx := 1 }), (1, { ringOn with base := 0x4000 }), (13, { ringOn with base := 0x20000, esz := 6 })]
    cmds := [{ id := 9, idx := 0, desc := cmd0, start := 0, report := true }] }
def capt1 (len : Nat) (lane : Option Nat) : Capt :=
  { cmd := 9, start := 0, firstBp := 0, len := len, taps := captTaps captBlock, lane := lane, n0 := 100, mpt0 := 5, written := 0, flushed := none }
theorem witness_Trace :
    Accepted (st (inState .config)) (cmdB 0x53 0 0 traceBlock) traceSpec ∧ byteAt traceBlock 2 < 2 ∧ byteAt traceBlock 3 = 31 ∧ leAt traceBlock 4 4 = 1 ∧
    leAt traceBlock 8 2 < 2 ^ 11 ∧ leAt traceBlock 10 6 = 0 ∧ Accepted (st (captDev [])) (cmdB 0x54 8388608 0 captBlock) captSpec ∧
    Accepted (st (inState .run)) (cmdB 0x54 1 0 captBlock) captSpec ∧ (captTaps captBlock).all (fun t => decide (t < 1024)) = true ∧
    (captTaps captBlock).any (fun t => bit t 9) = true ∧ leAt captBlock 10 6 = 0 ∧
    ((captDev []).capts.all (fun c => c.flushed.isSome) && (captDev []).flag Reg.carCtrl 0 && decide (((captDev []).ring 13).st = .enabled)) = true ∧
    ((inState .run).setFld Reg.carCtrl 0 0 0).flag Reg.carCtrl 0 = false := by unfold Accepted; decide
theorem witness_Captures :
    (captDev [capt1 5 none]).capts.find? (fun c => c.flushed.isNone) = some (capt1 5 none) ∧ (capt1 5 none).lane = none ∧
    16 ≤ bpSince 0 16 ∧ bpSince 0 16 < 2 ^ 22 ∧ (captDev []).dev.live = true ∧ (captDev [capt1 5 (some 3)]).staged (capt1 5 (some 3)) = true ∧
    ((captDev []).ring 13).st = .enabled ∧ 0 < ((captDev []).ring 13).freeEntries ∧ (capt1 5 (some 3)).n0 + 0 * (capt1 5 (some 3)).perRecord = 100 ∧
    (capt1 5 (some 3)).nextNs * (capt1 5 (some 3)).streams = 5 ∧ (capt1 5 (some 3)).len ≤ 0 * (capt1 5 (some 3)).perRecord + (capt1 5 (some 3)).nextNs ∧
    (captDev [capt1 2000 (some 3)]).staged (capt1 2000 (some 3)) = true ∧ (capt1 2000 (some 3)).nextNs < 2000 ∧ ((captDev []).fn 0).bme = true := by
  decide
/-- 20 R468, 16 R403. -/
theorem test_trace_cfg :
    after (exec (.traceCfg (cmdB 0x53 0 0 traceBlock)) (st (inState .config))) (fun t =>
      decide (t.dev.fld Reg.cntClv 31 16 = 0x1234 ∧ t.dev.fld Reg.cntClv 15 5 = 0x7FF ∧ t.dev.cnts.lfsr = 1 ∧ t.dev.fld Reg.cntStat 12 8 = 31)) = true := by
  decide
theorem test_capture :
    after (exec (.capture (cmdB 0x54 5 0 captBlock)) (st (captDev []))) (fun t => decide (t.dev.capts.length = 1 ∧ status t = none)) = true ∧
    after (exec .captureNoLane (st { captDev [capt1 5 none] with msync := { Msync.init with bpi := 16 } })) (fun t =>
      decide (t.dev.capts = [] ∧ status t = some 0x1C)) = true := by decide +kernel
/-- 16 Table CE.4: a record's number, streams, flags and samples. -/
theorem test_capture_record :
    after (exec (.captureRecordWrite 100 [[(5, 0)]] false) (st (captDev [capt1 5 (some 3)]))) (fun t =>
      decide (t.dev.capts = [] ∧ Memory.read t.hostMem 0x20004 = some 1 ∧ Memory.read t.hostMem 0x20005 = some 1 ∧
        Memory.read t.hostMem 0x20040 = some 0 ∧ status t = some 0)) = true := by decide +kernel

/-! ### Measurement -/

def measCfgSpec : CmdSpec := { CmdSpec.plain 0x40 with len := fun _ n => decide (n = 16 ∨ n = 144), m1 := 0x0F0F0707 }
/-- Set 7: order 3, decimation 16, response of the RAM; input 103 alone. -/
def meas7 : CmdDesc := cmdB 0x40 0x00040307 0 (List.replicate 12 0 ++ [0x80, 0, 0, 0])
/-- Set 7 measures input 103 so; state `x`, target `t`. -/
def measuring (x : SetState) (t : Nat) : Dev :=
  { ((((inState .run).setReg (Reg.measSetCh 7 3) 0x80).setFld (Reg.measSetCfg 7) 27 24 0).setFld (Reg.measSetCfg 7) 18 16 3).setFld (Reg.measSetCfg 7) 11 8 4 with
    clk := 200
    meas := { Meas.init with sets := [(7, { MSet.init with
      st := x, target := t, cmd := if x = .armed then some 9 else none, chains := if x = .running then [(103, Chain.init)] else [] })] }
    cmds := [{ id := 9, idx := 0, desc := cmd0, start := 0, report := true }] }
def ones16 : List (List Bool) := [List.replicate 16 true]
theorem witness_Measurement :
    Accepted (st (inState .config)) meas7 measCfgSpec ∧ meas7.f1 2 0 = 7 ∧ measCfgOk meas7 = true ∧ (inState .config).maskShared 7 (meas7.bytes.take 16) = false ∧
    ((inState .config).setReg (Reg.measSetCh 6 3) 0x80).maskShared 7 (meas7.bytes.take 16) = true ∧ ((inState .config).mset 7).st = .stopped ∧
    Accepted (st (measuring .armed 0)) meas7 measCfgSpec ∧ ((measuring .armed 0).mset 7).st ≠ .stopped ∧
    Accepted (st (measuring .stopped 0)) ({ opc := 0x41, a1 := 7, a2 := 1, a0 := 0x7FFFFFFFFFFF } : CmdF).desc { CmdSpec.plain 0x41 with m0 := 2 ^ 64 - 1, m1 := 7, m2 := 1 } ∧
    (measuring .stopped 0).setInputs 7 ≠ [] ∧ mptBefore (measuring .stopped 0).mpt 0x7FFFFFFFFFFF = true ∧ mptBefore (measuring .stopped 0).mpt 0 = false ∧
    ((measuring .armed 0).mset (7 : Fin 8)).st = .armed ∧ ((measuring .armed 0).mset 7).cmd = some 9 ∧
    (measuring .running 0).outputDue (7 : Fin 8) ones16 = true ∧ Accepted (st (measuring .armed 0)) (cmdC 0x42 7 0) { CmdSpec.plain 0x42 with m1 := 7 } := by
  unfold Accepted; decide
theorem witness_Measurement_stop :
    mptBefore (measuring .armed 0).mpt ((measuring .armed 0).mset 7).target = false ∧
    (measuring .armed 0).syncEdge ((measuring .armed 0).mset 7).target ≤ 4 * (measuring .armed 0).clk ∧
    (((measuring .running 0).modMset 7 (fun m => { m with ends := some 1, stops := [9] })).outputDue 7 ones16) = true ∧
    (((measuring .running 0).modMset 7 (fun m => { m with ends := some 1, stops := [9] })).mset 7).ends = some (0 + 1) ∧
    (measuring .running 0).outputsLeft 7 = true ∧ (measuring .armed 0).outputsLeft 7 = false ∧
    ((measuring .running 0).modMset 7 (fun m => { m with rseq := 65537 })).outputsLeft 7 = false ∧
    ((measuring .armed 0).mset 7).cmd = some 9 ∧ (((measuring .running 0).modMset 7 (fun m => { m with rseq := 65537 })).mset 7).cmd = none ∧
    0 < (((measuring .running 0).modMset 7 (fun m => { m with rseq := 65537 })).mset 7).rseq ∧
    64 ≤ ((({ measuring .running 0 with ques := { Ques.init with lossy := [(8, { LossyQ.init with items := List.replicate 64 [] })] } }).lossy (1 + 7)).items).length ∧
    ((measuring .running 0).lossy (1 + 7)).items.length < 64 := by decide
theorem test_meas_cfg :
    after (exec (.measCfg meas7) (st (inState .config))) (fun t =>
      decide (t.dev.setInputs 7 = [103] ∧ (t.dev.setCfg 7).n = 3 ∧ (t.dev.setCfg 7).e = 4 ∧ status t = some 0)) = true ∧
    after (exec (.measCfg meas7) (st (measuring .armed 0))) (fun t => decide (status t = some 0x18)) = true := by decide +kernel
theorem test_meas_start_stop :
    after (exec (.measStart ({ opc := 0x41, a1 := 7, a2 := 1, a0 := 0x7FFFFFFFFFFF } : CmdF).desc) (st (measuring .stopped 0))) (fun t =>
      decide ((t.dev.mset 7).st = .armed ∧ (t.dev.mset 7).target = 0x7FFFFFFFFFFF ∧ status t = none)) = true ∧
    after (exec (.measStop (cmdC 0x42 7 0)) (st ((measuring .running 0).modMset 7 (fun m => { m with rseq := 65537 })))) (fun t =>
      decide ((t.dev.mset 7).st = .stopped ∧ Memory.read t.hostMem 0x400A = some 1 ∧ status t = some 0)) = true := by decide +kernel
/-- 13 R339, Table ME.4: the record's number, and the sample of the first output of a chain is marked SETTLING. -/
theorem test_meas_output :
    after (exec (.setSyncPoint 7) (st (measuring .armed 0))) (fun t => decide ((t.dev.mset 7).st = .running ∧ (t.dev.mset 7).sync = 800 ∧ status t = some 0)) = true ∧
    after (exec (.measOutput 7 ones16) (st (measuring .running 0))) (fun t =>
      decide ((t.dev.mset 7).rseq = 1 ∧ ((t.dev.lossy 8).items.map (fun r => bytesAt r 6 6)) = [[7, 1, 0, 0, 0, 0]] ∧
        ((t.dev.lossy 8).items.map (fun r => (byteAt r 19, bit (byteAt r 18) 2))) = [(103, true)])) = true := by decide +kernel

/-- The derived chains have had one output in cycle 0 and one in cycle 1: the derived record of cycle 0 is due. -/
def cycled : Dev := { inState .run with tb := { Timebase.init with acc := 2 ^ 48 }, meas := { Meas.init with stamps := [0, 2 ^ 24] } }
/-- One output period of every input. -/
def derOne : List (List Bool) := List.replicate 104 (List.replicate 256 true)
theorem witness_Derived : cycled.derivedDue derOne = true ∧ (inState .config).dev.clocked = true ∧
    (cycled.setFld Reg.measCtrl 0 0 1).flag Reg.measCtrl 0 = true ∧ (cycled.setFld Reg.measCtrl 0 0 0).flag Reg.measCtrl 0 = false ∧
    ({ inState .config with meas := { Meas.init with fault := [(103, true)] } }).inFault (103 : Fin 104) = true ∧ (inState .config).inFault 103 = false ∧
    (inState .config).fld Reg.measFault 11 0 ≤ 4095 ∧ 0 < (inState .config).fld Reg.measFault 11 0 ∧
    ((inState .config).setFld Reg.measIf 25 25 1).mclkOn (103 : Fin 104) = true ∧ ((inState .config).setFld Reg.measIf 25 25 0).mclkOn 103 = false ∧
    (103, !false) ∈ [(103, true)] ∧ (103, !true) ∉ [(103, true)] := by
  decide +kernel
/-- 13 R330: the first fault holds the bit's value. -/
theorem test_modulator_fault :
    after (exec (.modulatorFault 103 true 4095) (st (inState .config))) (fun t =>
      decide (t.dev.meas.fault = [(103, true)] ∧ t.dev.flag Reg.measStat 2 = true) &&
      after (exec (.modulatorFault 103 false 4095) t) (fun u => decide (u.dev.meas.fault = [(103, true)])) &&
      after (exec (.modulatorFaultClear 103 true) (st (t.dev.setFld Reg.measIf 25 25 1))) (fun u => decide (u.dev.meas.fault = [(103, true)])) &&
      after (exec (.modulatorFaultClear 103 false) (st (t.dev.setFld Reg.measIf 25 25 1))) (fun u => decide (u.dev.meas.fault = []))) = true ∧
    after (exec (.modulatorFault 103 true 0) (st (inState .config))) (fun t => decide (t.dev.meas.fault = [])) = true := by decide

/-! ### Switching -/

def submitSpec : CmdSpec := { CmdSpec.plain 0x48 with needR := true, m0 := 2 ^ 48 - 1, m1 := 2 ^ 32 - 1, m2 := 0xFFFF, m3 := 0x3F }
/-- A pulse of output 15 at MPT `t` for 1 ms, tag 5. -/
def pulse15 (t : BitVec 64) : CmdDesc :=
  ({ opc := 0x48, a0 := t.toNat, a1 := 500000, a2 := 5, a3 := 0x2F, raddr := 0x1000 } : CmdF).desc
/-- An operation of output 15, tag 5, for command 9. -/
def op9 (act t : Nat) : SwoOp :=
  { id := 9, out := 15, act := act, t := t, pw := 500000, tag := 5, committed := false, hold := false, mpt1 := none, mpt2 := none, at1 := 0
    checked := false, pinFault := false, raddr := 0, cmd := 9 }
/-- RUN with operations queued for command 9. -/
def swoDev (l : List SwoOp) : Dev :=
  { inState .run with
    clk := 1000000, swo := l, swoHiZ := false, cmds := [{ id := 9, idx := 0, desc := cmd0, start := 0, report := true }] }
theorem witness_SwitchingCommands :
    Accepted (st (swoDev [])) (pulse15 0x100000) submitSpec ∧ bits (pulse15 0x100000).n3 5 4 ≠ 3 ∧
    (swoDev []).swoRefusal (swoOf 0 (pulse15 0x100000)) = none ∧ (swoDev []).swoRefusal (swoOf 0 (pulse15 0)) = some stLate ∧
    (swoDev [op9 0 0x100001]).swoRefusal (swoOf 0 (pulse15 0x100000)) = some stConflict ∧
    (swoDev []).swoRefusal (swoOf 0 (pulse15 0xFF0000000000)) = some stLate ∧ (swoDev []).swoRefusal (swoOf 0 (pulse15 0x10000000000)) = some stInvalid ∧
    Accepted (st (swoDev [op9 0 0x100000])) (cmdA 0x49 5) { CmdSpec.plain 0x49 with m2 := 0xFFFF } ∧
    (swoDev [op9 0 0x100000]).swo.filter (fun o => decide (o.tag = (cmdA 0x49 5).n2) && (swoDev []).swoOpen o) ≠ [] ∧
    (swoDev [op9 0 7]).swo.filter (fun o => decide (o.tag = (cmdA 0x49 5).n2) && (swoDev []).swoOpen o) = [] := by unfold Accepted; decide
theorem test_swo_submit :
    after (exec (.swoSubmit (pulse15 0x100000)) (st (swoDev [op9 0 7000]))) (fun t =>
      decide (t.dev.swo.map (fun o => (o.t, o.out, o.act)) = [(7000, 15, 0), (0x100000, 15, 2)] ∧ status t = none)) = true ∧
    after (exec (.swoSubmit (pulse15 0)) (st (swoDev []))) (fun t => decide (status t = some 0x1A ∧ t.dev.flag Reg.swoStat 16 = true)) = true := by
  decide +kernel
theorem test_swo_cancel :
    after (exec (.swoCancel (cmdA 0x49 5)) (st (swoDev [op9 0 0x100000]))) (fun t => decide (t.dev.swo = [] ∧ t.dev.cmdOf 9 = none ∧ status t = some 0x21)) = true := by
  decide +kernel
theorem witness_PhaseSend :
    Accepted (st (withNode (nodeIn .active))) ({ opc := 0x4A, a0 := 0x2000001, a1 := 0x2010007, a2 := 5, a3 := 9 } : CmdF).desc
      { CmdSpec.plain 0x4A with m0 := 2 ^ 48 - 1, m1 := 0x3FFFFFF, m2 := 0x3FFF, m3 := 0xFFFF, lim2 := 16384 } ∧
    ((withNode (nodeIn .active)).node 5).st.reachable = true ∧ ((withNode (nodeIn .dormant)).node 5).st.reachable = true ∧
    ((inState .run).node 5).st.reachable = false := by unfold Accepted; decide
/-- 14 Table SW.2. -/
theorem test_phase_send :
    after (exec (.phaseSend ({ opc := 0x4A, a0 := 0x2000001, a1 := 0x2010007, a2 := 5, a3 := 9 } : CmdF).desc) (st (withNode (nodeIn .active)))) (fun t =>
      decide ((t.dev.node 5).txq.map (fun m => bytesAt m.data 4 12) = [[7, 0, 1, 0, 1, 0, 0, 0, 1, 2, 9, 0]])) = true := by decide +kernel

/-- MPT stands at `t`. -/
def mptAt (d : Dev) (t : Nat) : Dev := { d with tb := { d.tb with acc := BitVec.ofNat 72 (t * 2 ^ 24) } }
theorem witness_SwitchingEdges :
    (swoDev [op9 2 7]).dev = .run ∧ (mptAt (swoDev [op9 2 7000]) 6999).swoAt 9 = some (op9 2 7000) ∧
    (mptAt (swoDev []) 6999).toGo 7000 ≤ (swoDev []).runs (usClk 5) ∧
    ((swoDev []).setFld Reg.swoCfg 31 16 0x8000).flag Reg.swoCfg (16 + 15) = true ∧ (swoDev []).flag Reg.swoCfg (16 + 15) = false ∧
    2 * (mptAt (swoDev []) 7000).toGo 7000 ≤ (mptAt (swoDev []) 7000).runs 1 ∧ ({ op9 2 7 with committed := true }).committed = true ∧
    (op9 2 7).committed = false ∧ (op9 2 7).mpt1 = none ∧ (op9 2 7).mpt2 = none ∧ (op9 2 7).at1 + (op9 2 7).pw ≤ 2 * (swoDev []).clk + 1 ∧
    (op9 2 7).at1 + 2 * usClk 1 ≤ 2 * (swoDev []).clk ∧ (op9 2 7).checked = false ∧
    ({ op9 2 7 with mpt1 := some 7 }).mpt1.isSome = true ∧ (op9 1 7).act ≠ 2 ∧ ({ op9 2 7 with mpt2 := some 7 }).mpt2.isSome = true ∧
    (true != bit (swoDev []).swoLvl 15) = true := by decide +kernel
theorem test_swo_commit :
    after (exec (.swoCommit 9) (st (mptAt (swoDev [op9 0 7000]) 6999))) (fun t => decide (t.dev.swo.map (fun o => o.committed) = [true])) = true ∧
    after (exec (.swoCommit 9) (st (mptAt (swoDev [op9 0 7000]) 0))) (fun t => decide (t.dev.swo.map (fun o => o.committed) = [false])) = true := by
  decide +kernel
/-- 14 R352: the edge at the target; the pulse's end; the readback completes. -/
theorem test_swo_edges :
    after (exec (.swoEdge 9) (st (mptAt (swoDev [{ op9 2 7000 with committed := true }]) 7000))) (fun t =>
      decide (t.dev.swoLvl = 0x8000) && after (exec (.swoReadback 9 true) (st { t.dev with clk := 1000249 })) (fun u => decide (u.dev.swo = t.dev.swo)) &&
      after (exec (.swoPulseEnd 9) (st { t.dev with clk := 1249999 })) (fun u => decide (u.dev.swoLvl = 0x8000)) &&
      after (exec (.swoPulseEnd 9) (st { t.dev with clk := 1250000 })) (fun u => decide (u.dev.swoLvl = 0) &&
        after (exec (.swoReadback 9 true) (st { u.dev with clk := 1250250 })) (fun v =>
          decide (v.dev.swo = [] ∧ status v = some 0x2A ∧ v.dev.flag Reg.swoStat 17 = true)))) = true := by decide +kernel

/-! ### Functions, rings, data -/

/-- The device with function `f` as given. -/
def withFn (d : Dev) (f : Nat) (x : Fn) : Dev := d.modFn f (fun _ => x)
/-- Function 1 in use, moderation of its ring 3 running out. -/
def moderated : Dev :=
  { withFn (inState .run) 1 { Fn.init with active := true, en := true, bme := true, unmasked := [9] } with
    clk := 500, rings := [(259, { ringOn with vec := 9, unsig := 2, unsigAt := 0, modUs := 2, shown := leBytes 4 0 ++ [1] ++ List.replicate 11 0 })] }
theorem witness_Functions :
    (inState .run).fnExists (1 : Fin 34) = true ∧ ((inState .run).fn (1 : Fin 34)).en = false ∧ ((inState .run).fn (0 : Fin 34)).en = true ∧
    ((inState .run).fn (0 : Fin 34)).bme = true ∧ ((inState .run).fn (1 : Fin 34)).bme = false ∧
    ({ inState .run with vfEn := true, numVfs := 32 }).fnExists (33 : Fin 34) = true ∧ (127 : Fin 128).val < fnVectors (1 : Fin 34) ∧
    (moderated.ring (ringKey (1 : Fin 34) (3 : Fin 128))).st ≠ .disabled ∧ (moderated.ring 259).vec ≠ 255 ∧ (moderated.ring 259).unsig ≠ 0 ∧
    (moderated.ring 259).unsigAt + usClk (moderated.ring 259).modUs ≤ moderated.clk ∧ moderated.statusBytes 259 = (moderated.ring 259).shown ∧
    (moderated.ring 259).vec ∈ (moderated.fn 1).unmasked ∧ (inState .run).dev ≠ .off ∧ (inState .run).vfEn = false := by decide
/-- 15 R366: addresses of whole pages. -/
theorem test_fn :
    after (exec (.fnEnable 1 0x12345678 0x9FFF) (st (inState .run))) (fun t =>
      decide ((t.dev.fn 1).dbpOn = 0x12345000 ∧ (t.dev.fn 1).stpOn = 0x9000 ∧ (t.dev.fn 1).active = true)) = true ∧
    after (exec (.fnDisable 0) (st (inState .run))) (fun t => decide ((t.dev.ring 1).st = .disabled ∧ (t.dev.fn 0).active = false)) = true ∧
    after (exec (.vfEnableChange true 2) (st { inState .run with rings := [(256 + 7, ringOn), (256 + 8, ringOn)] })) (fun t =>
      decide ((t.dev.ring (256 + 7)).st = .disabled ∧ (t.dev.ring (256 + 8)).st = .enabled ∧ t.dev.numVfs = 2)) = true := by decide +kernel
/-- 15 R386, R389: a pending message is sent once; held writes are made when Bus Master Enable returns. -/
theorem test_messages :
    after (exec (.msixUnmask 1 9) (st (withFn (inState .run) 1 { Fn.init with pend := [9] }))) (fun t =>
      decide ((t.dev.fn 1).sent = [(9, 1)] ∧ (t.dev.fn 1).pend = [])) = true ∧
    after (exec (.msixModerationExpiry 1 3) (st moderated)) (fun t => decide ((t.dev.fn 1).sent = [(9, 1)] ∧ (t.dev.ring 259).unsig = 0)) = true ∧
    after (exec (.busMasterEnableChange 1 true) (st (withFn (inState .run) 1 { Fn.init with held := [(16, [1]), (16, [2])] }))) (fun t =>
      decide (Memory.read t.hostMem 16 = some 2)) = true := by decide +kernel

/-- The bytes of a doorbell slot (15 Table HR.4) with `EN` 1 and no moderation. -/
def slotOf (base lg vec esz idx : Nat) : DbSlot :=
  { raw := leBytes 8 base ++ leBytes 4 (2 ^ 31 + lg * 2 ^ 16 + vec * 2 ^ 8 + esz) ++ leBytes 4 0 ++ leBytes 4 idx ++ List.replicate 12 0
    rdErr := false }
/-- A doorbell slot of CMD with the host's index `i`. -/
def slotI (i : Nat) : DbSlot := slotOf 0 3 255 2 i
/-- The same as it was last read. -/
def slot0 : DbSlot := slotI 1
/-- A doorbell slot of CMDC as it was last read. -/
def slot1 : DbSlot := slotOf 0x4000 3 255 1 0
/-- A slot to enable on ring 2, for 8 entries of 64 bytes. -/
def slot2 (lg : Nat) : DbSlot := slotOf 0x8000 lg 15 4 0xFFFFFFFF
theorem witness_RingService :
    ((inState .run).fn (0 : Fin 34)).active = true ∧ (inState .run).served (0 : Fin 34) = true ∧ ((inState .run).fn (0 : Fin 34)).bme = true ∧
    ((slot2 3).en = true ∧ ((inState .run).ring (ringKey (0 : Fin 34) 2)).lastEn = false ∧ (inState .run).enableOk (0 : Fin 34) 2 (slot2 3) = true) ∧
    ((inState .run).enableOk (0 : Fin 34) 2 (slot2 2) = false ∧ (inState .run).enableOk (0 : Fin 34) 2 (slot2 17) = false ∧ ((inState .run).ring 2).takes = false) ∧
    (inState .run).ringServed (0 : Fin 34) 2 = true ∧ (inState .safe).ringServed (0 : Fin 34) 12 = false ∧ (12 : Nat) < fnSlots (0 : Fin 34) ∧
    Unmoved (inState .run) (ringKey (0 : Fin 34) 0) slot0 ∧ Unmoved (inState .run) (ringKey (0 : Fin 34) 1) slot1 := by
  refine ⟨by decide, by decide, by decide, by decide, by decide, by decide, by decide, by decide, ?_, ?_⟩ <;> unfold Unmoved <;> decide
theorem witness_RingService_index :
    (slot0.en = ((inState .run).ring 0).lastEn ∧ ((inState .run).ring 0).takes = true ∧ slot0.rdErr = false) ∧ (slotI 8).idx = 8 ∧ (slotI 0).idx = 0 ∧
    ({ raw := List.replicate 32 0, rdErr := false } : DbSlot).en = false ∧ ((inState .run).ring 0).lastEn = true ∧
    ((8#32 - ((inState .run).ring 0).hostIdx).toNat < 2 ^ 31 ∧ (8#32 - ((inState .run).ring 0).devIdx).toNat ≤ ((inState .run).ring 0).size) ∧
    2 ^ 31 ≤ (0#32 - ((inState .run).ring 0).hostIdx).toNat ∧ ringClass 0 ≠ .completion ∧ ringClass 1 = .completion ∧
    (({ inState .config with rings := [(1, { ringOn with st := .stopping })] }).unpaired 1 = true) ∧
    (inState .run).statusBytes (ringKey (0 : Fin 34) (1 : Fin 128)) ≠ ((inState .run).ring 1).shown ∧ (1 : Fin 128).val < fnSlots (0 : Fin 34) ∧
    (inState .run).dev.live = true ∧ (inState .run).slotServed (0 : Fin 34) (1 : Fin 128) = true ∧ ((inState .run).ring 1).takes = true ∧
    1 ≤ 10 ∧ (10 : Nat) ≤ 10 := by decide
/-- 15 R373, R387: an enable; the host's index forward and back. -/
theorem test_doorbell_poll :
    after (exec (.doorbellPoll 0 (some [slot0, slot1, slot2 3])) (st (inState .run))) (fun t =>
      decide ((t.dev.ring 2).st = .enabled ∧ (t.dev.ring 2).devIdx = 0xFFFFFFFF ∧ (t.dev.ring 2).base = 0x8000)) = true ∧
    after (exec (.doorbellPoll 0 (some [slotI 8, slot1])) (st (inState .run))) (fun t => decide ((t.dev.ring 0).hostIdx = 8)) = true ∧
    after (exec (.doorbellPoll 0 (some [slotI 0, slot1])) (st (inState .run))) (fun t => decide ((t.dev.ring 0).st = .fault)) = true := by
  decide +kernel
theorem test_rings :
    after (exec (.ringStoppingEnd 0 1) (st { inState .config with rings := [(1, { ringOn with st := .stopping })] })) (fun t =>
      decide ((t.dev.ring 1).st = .disabled)) = true ∧
    after (exec (.statusPageWrite 0 1 true) (st (withFn (inState .run) 0 { (inState .run).fn 0 with stpOn := 0x6000 }))) (fun t =>
      decide (Memory.read t.hostMem 0x6024 = some 1)) = true ∧
    after (exec (.queuePointerFault (.queue 10)) (st (lossyDev .run))) (fun t => decide ((t.dev.lossy 10).items = [])) = true := by decide +kernel

/-- A chain of one descriptor for handle 5: four bytes. -/
def tx1 : TxDesc :=
  { raw := leBytes 8 0x100 ++ leBytes 2 4 ++ leBytes 2 4 ++ leBytes 4 (2 ^ 28 + 3 * 2 ^ 16 + 5) ++ leBytes 4 0 ++ leBytes 4 0xABCD ++
      List.replicate 8 0 }
/-- The same as a broadcast. -/
def txB : TxDesc :=
  { raw := leBytes 8 0x100 ++ leBytes 2 4 ++ leBytes 2 4 ++ leBytes 4 (2 ^ 28 + 2 ^ 24 + 3 * 2 ^ 16 + 5) ++ leBytes 4 0 ++ leBytes 4 0xABCD ++
      List.replicate 8 0 }
/-- A receive buffer of `n` bytes. -/
def rxOf (n : Nat) : RxDesc := { raw := leBytes 8 0x200 ++ leBytes 4 n ++ leBytes 4 (3 * 2 ^ 28) ++ leBytes 4 0 ++ leBytes 4 6 ++ List.replicate 8 0 }
def rx1 : RxDesc := rxOf 1024
/-- Function 1's rings of group 0 in use with a descriptor each; handle 5 is as given. -/
def dataDev (n : Node) : Dev :=
  { withFn (withNode n) 1 { Fn.init with active := true, en := true, bme := true } with
    rings := [(256, { ringOn with hostIdx := 1 }), (257, { ringOn with base := 0x5000 }), (258, { ringOn with hostIdx := 1 }),
              (259, { ringOn with base := 0x7000 })] }
theorem witness_ChainsAndBuffers :
    (1 : Fin 34).val ≠ 0 ∧ (dataDev (nodeIn .active)).mayTake (1 : Fin 34) (0 : Fin 128) = true ∧ (dataDev (nodeIn .active)).mayTake (1 : Fin 34) (2 : Fin 128) = true ∧
    (0 : Fin 128).val % 4 = 0 ∧ (2 : Fin 128).val % 4 = 2 ∧ chainWhole [tx1] = true ∧ [tx1].length ≤ ((dataDev (nodeIn .active)).ring 256).waiting ∧
    ((dataDev (nodeIn .active)).fresh.chainGrant 256 0 tx1 ((dataDev (nodeIn .active)).chainCells tx1 [tx1])).1 = some [.quota] ∧
    (((dataDev (nodeIn .active)).setReg (Reg.queGrp 0) 0).fresh.chainGrant 256 0 tx1 1).1 = none ∧
    (dataDev (nodeIn .active)).chainFault 0 tx1 [tx1] [1, 2, 3, 4] = none ∧ (inState .run).chainFault 0 tx1 [tx1] [1, 2, 3, 4] = some stNoNode ∧
    tx1.len.toNat ≤ [1, 2, 3, (4 : Byte)].length ∧ ((dataDev (nodeIn .active)).node tx1.nh.toNat).st ≠ .dormant ∧
    (dataDev (nodeIn .active)).chainFault 0 txB [txB] [1, 2, 3, 4] = none ∧ txB.bcast = true ∧
    rxDescFault rx1 = none ∧ rxDescFault (rxOf 1023) ≠ none ∧ rxDescFault (rxOf 65472) = none := by decide
theorem test_chain_fetch :
    after (exec (.chainFetch 1 0 (some [tx1]) [1, 2, 3, 4]) (st (dataDev (nodeIn .active)))) (fun t =>
      decide ((t.dev.node 5).txq.map (fun m => (m.data, m.ftag)) = [([1, 2, 3, 4], 3)] ∧ (t.dev.ring 256).devIdx = 1 ∧ (t.dev.group 0).quota = 1)) = true ∧
    after (exec (.chainFetch 1 0 (some [tx1]) [1, 2, 3, 4]) (st (dataDev (nodeIn .evicted)))) (fun t =>
      decide ((t.dev.node 5).txq = [] ∧ Memory.read t.hostMem 0x5006 = some 0x13)) = true := by decide +kernel
theorem test_rx_buffer :
    after (exec (.rxBufferTake 1 2 (some rx1)) (st (dataDev (nodeIn .active)))) (fun t =>
      decide ((t.dev.group 0).rxPool.map (fun b => (b.addr, b.blen)) = [(0x200, 1024)])) = true ∧
    after (exec (.rxBufferTake 1 2 (some (rxOf 1023))) (st (dataDev (nodeIn .active)))) (fun t =>
      decide ((t.dev.group 0).rxPool = [] ∧ Memory.read t.hostMem 0x7006 = some 0x10)) = true := by decide +kernel

/-- A received MSDU of handle 5. -/
def rxm : RxMsdu :=
  { nh := 5, seq := 1, ftag := 0, data := [1, 2, 3], encd := false, copy := false, failed := false, cells := [.quota], at_ := 0, faulty := [], clid := none }
/-- Group 0 holds it, with the buffers given, `k` cycles after reset. -/
def received (bs : List RxBuf) (k : Nat) : Dev :=
  { (dataDev (nodeIn .active)).modGroup 0 (fun x => { x with rxq := [rxm], rxPool := bs, quota := 1 }) with clk := k }
def rbuf : RxBuf := { addr := 0x200, blen := 1024, idx := 0, cookie := 6 }
theorem witness_Delivery :
    ((received [rbuf] 0).group (0 : Fin 32)).rxq = [rxm] ∧ (received [rbuf] 0).deliverable (0 : Fin 32) rxm = true ∧ rxm.faulty = [] ∧
    ((received [rbuf] 0).fn (ringFn ((received [rbuf] 0).dataRing (0 : Fin 32) 2))).bme = true ∧ (received [] 0).deliverable (0 : Fin 32) rxm = false ∧
    (received [] 0).dev.clocked = true ∧ rxm.at_ + usClk ((received [] 20000000).fld Reg.hifRxhold 15 0) ≤ (received [] 20000000).clk := by decide
theorem test_rx_delivery :
    after (exec (.rxDelivery 0 []) (st (received [rbuf] 0))) (fun t =>
      decide (Memory.read t.hostMem 0x200 = some 1 ∧ Memory.read t.hostMem 0x206 ≠ none ∧ Memory.read t.hostMem 0x207 = none ∧ Memory.read t.hostMem 0x7006 = some 0 ∧
        (t.dev.group 0).rxq = [] ∧ (t.dev.group 0).quota = 0)) = true ∧
    after (exec (.rxHoldExpiry 0) (st (received [] 20000000))) (fun t => decide ((t.dev.group 0).rxDropped = 1 ∧ (t.dev.ring 259).loss = 1)) = true := by
  decide +kernel

/-- Chain of ring 256 waits for one cell; group 0 has dropped twice in beacon period 1, and handle 5 has one discard there. -/
def waitingDev : Dev :=
  let d := (dataDev { nodeIn .active with disc := [{ st := 0x27, count := 3, mpt := 9, bp := 1 }] }).modGroup 0 (fun x => { x with dropCount := 2, dropBp := 1 })
  { d with ques := { Ques.init with waiters := [{ rank := 4, grp := 0, need := 1, what := .chain 256 }] } }
/-- An MSDU of group 0 waits for cells to be forwarded, since beacon period 0. -/
def forwarding : Dev := { waitingDev with fwdWait := [{ id := 4, egress := 6, copy := true, msdu := rxm, bp := 0, grp := 0 }], msync := { Msync.init with bpi := 255 } }
theorem witness_Credits :
    (waitingDev.group (0 : Fin 32)).dropCount ≠ 0 ∧ (waitingDev.group (0 : Fin 32)).dropBp ≠ waitingDev.msync.bpi ∧
    (waitingDev.node (5 : Fin 16384)).disc.find? (fun x => decide (x.st = (0x27#8).toNat ∧ x.bp ≠ waitingDev.msync.bpi)) = some { st := 0x27, count := 3, mpt := 9, bp := 1 } ∧
    waitingDev.dev.clocked = true ∧ waitingDev.ques.waiters = [{ rank := 4, grp := 0, need := 1, what := .chain 256 }] ∧ waitingDev.coverable 0 1 = true ∧
    (waitingDev.setReg (Reg.queGrp 0) 0).coverable 0 1 = false ∧
    forwarding.fwdWait.find? (fun w => decide (w.id = 4)) = some { id := 4, egress := 6, copy := true, msdu := rxm, bp := 0, grp := 0 } ∧
    forwarding.fld (Reg.lrFwd 0) 7 0 ≤ bpSince 0 forwarding.msync.bpi := by decide
theorem test_credits :
    after (exec .creditGrant (st waitingDev)) (fun t => decide (t.dev.ques.waiters = [] ∧ (t.dev.ring 256).grant = [.quota])) = true ∧
    after (exec (.fwdWaitTimeout 4) (st forwarding)) (fun t => decide (t.dev.fwdWait = [] ∧ (t.dev.group 0).rxq = [{ rxm with failed := true }])) = true := by
  decide +kernel
/-- 16 R407: the events of a beacon period that has ended. -/
theorem test_period_events :
    after (exec (.rxDrop 0) (st waitingDev)) (fun t => decide ((t.dev.lossy 0).items.map (fun b => leAt b 0 2) = [0x0306] ∨ (t.dev.group 0).dropCount = 0)) = true ∧
    after (exec (.linkDiscard 5 0x27) (st waitingDev)) (fun t => decide ((t.dev.node 5).disc = [] ∧ (t.dev.lossy 0).items.length = 1)) = true := by decide +kernel

/-- Both copies of the uplink key 3 of handle 5 are written. -/
def scrubbed : Dev := updating .built 2 0
theorem witness_Scrubbing :
    scrubbed.dev.clocked = true ∧ (98303 : Nat) < 98304 ∧ ScrubResult.corrected ≠ .uncorrectable ∧ (scrubbed.setFld Reg.marCtrl 2 2 1).flag Reg.marCtrl 2 = true ∧
    (15 : Nat) < 16 := by decide +kernel
theorem test_frame_store_scrub :
    after (exec (.frameStoreScrub 98303 .uncorrectable (some (.tx 77 0))) (st (withNode { nodeIn .active with txq := [{ msdu1 with blocks := [{ idx := 0, pool := .quota }] }] })))
      (fun t => decide ((t.dev.node 5).txq.map (fun m => m.faulty) = [[(0, 98303)]])) = true := by decide +kernel
/-- 21 R479, 18 Table IN.3. -/
theorem test_marimba_scrub :
    after (exec (.marimbaScrub (.copy 5 true 3 false) .uncorrectable true) (st (scrubbed.setFld Reg.marCtrl 2 2 1))) (fun t =>
      decide ((t.dev.key (keyIx 5 true 3)).active.isSome = true ∧ t.dev.flag Reg.mntStat 3 = true ∧ t.dev.mnt.revisit.length = 1)) = true ∧
    after (exec (.marimbaScrub (.copy 5 true 3 false) .uncorrectable false) (st (scrubbed.setFld Reg.marCtrl 2 2 1))) (fun t =>
      decide ((t.dev.key (keyIx 5 true 3)).active = none ∧ (t.dev.key (keyIx 5 true 3)).shadow.isSome = true)) = true := by decide +kernel

/-! ### Slots, schedules, frames -/

/-- Port `p` can be in service. -/
def fitPort (d : Dev) (p : Nat) : Dev := d.modPort p (fun x => { x with calOk := true, trainOk := true })
/-- Group 0 up with the narrowest profile, its four ports in service and node 5 active; it has beaconed since beacon period 0. -/
def upDev : Dev :=
  let d := (withNode (nodeIn .active)).modGroup 0 (fun g => { g with firstBcn := some 0 })
  let d := ((d.setFld (Reg.wfCtrl 0) 1 0 0).setFld (Reg.grpCtrl 0) 11 8 15).setReg (Reg.grpRole 0) 0x3210
  { [0, 1, 2, 3].foldl fitPort d with present := 15 }
/-- A plan of group 0 with contention, a downlink and an uplink allocation of node 5. -/
def planA : Plan :=
  { brlen := 4, caSlot := 1
    allocs := [{ start := 4, len := 256, addr := addrAll, dir := true, form := 5, cpl := 1, kind := kindContention },
      { start := 260, len := 200, addr := 1, dir := false, form := 5, cpl := 1, kind := kindData },
      { start := 460, len := 100, addr := 1, dir := true, form := 5, cpl := 1, kind := kindData }]
    decs := [{ lane := 0, start := 4, len := 256, taps := [⟨0, 0⟩, ⟨0, 1⟩, ⟨0, 2⟩, ⟨0, 3⟩], stap := some ⟨1, 0⟩, echo := false, capture := false
               gain := none, addr := addrAll, kind := kindContention },
      { lane := 1, start := 260, len := 200, taps := [⟨0, 0⟩, ⟨0, 1⟩, ⟨0, 2⟩, ⟨0, 3⟩], stap := some ⟨1, 0⟩, echo := false, capture := false
        gain := none, addr := 1, kind := kindData },
      { lane := 2, start := 460, len := 100, taps := [⟨0, 0⟩, ⟨0, 1⟩, ⟨0, 2⟩, ⟨0, 3⟩], stap := some ⟨1, 0⟩, echo := false, capture := false
        gain := some 3, addr := 1, kind := kindData }]
    encs := [{ lane := 0, start := 0, len := 4, outs := [0, 1, 2], cpl := 1, addr := addrAll, kind := kindBeacon, dir := false, form := 6 },
      { lane := 1, start := 260, len := 200, outs := [0, 1, 2], cpl := 1, addr := 1, kind := kindData, dir := false, form := 5 },
      { lane := 2, start := 460, len := 100, outs := [0, 1, 2], cpl := 1, addr := 1, kind := kindData, dir := true, form := 5 }] }
/-- The plan is in force for the first two beacon periods; Φs stands at slot unit `u`. -/
def planned (u : Nat) : Dev :=
  let d := upDev.modGroup 0 (fun g => { g with frozen := [(0, planA), (1, planA)] })
  { d with tb := { d.tb with acc := BitVec.ofNat 72 (u * 2 ^ 36), n := 1000000 }, unit := if u = 0 then 8192 else u - 1 }
/-- Five PU before slot unit 260. -/
def nearing : Dev := { planned 259 with tb := { (planned 259).tb with acc := 260 * 2 ^ 36 - 5 * 2 ^ 24 } }
/-- An entry of segment `k` of node 5's downlink set. -/
def entryD (k : Nat) : Entry := { ver := 0, dir := false, seg := k, rate := 0, prof := 0, nf := none, sndBp := 0, load := [] }
/-- Node 5's downlink set has a copy of segment 1. -/
def fetching : Dev := (planned 0).modKey (keyIx 5 false 1) (fun x => { x with active := some (entryD 1) })
theorem witness_SlotBindings :
    (planned 0).dev = .run ∧ (planned 0).coming.2.1 = 4 ∧ nearing.coming.2.1 = 260 ∧ (planned 259).leadLeft (planned 259).coming.2.2 = true ∧
    nearing.leadLeft nearing.coming.2.2 = false ∧ 1 ∈ nearing.lanesAt nearing.coming.1 260 ∧ 97 ∈ (planned 259).lanesAt (planned 259).coming.1 260 ∧
    (planned 260).boundaryDue 260 = true ∧ (planned 0).boundaryDue 0 = true ∧ ((planned 260).port 1).ech ≠ .training ∧
    fetching.fetchTime (1 : BitVec 23).toNat 260 = true ∧ fetching.fetchTime (1 : BitVec 23).toNat 0 = true ∧ pinLines fetching.pins ≤ 65536 := by
  decide +kernel
theorem witness_fetched_entry :
    (0, planA) ∈ fetching.plansAt (1 : BitVec 23).toNat ∧
    ({ start := 260, len := 200, addr := 1, dir := false, form := 5, cpl := 1, kind := kindData } : Alloc) ∈ planA.allocs ∧
    fetching.entryNode 0 1 = some 5 ∧ 1 ∈ fetching.spanSegs 260 200 ∧
    (fetching.copyAt (setIx 5 false) 1 (1 : BitVec 23).toNat 260).1 = some (entryD 1) := by decide +kernel
/-- 05 R126: lanes go to the shadow in time, and are late once the lead has passed. -/
theorem test_delivery :
    after (exec (.bindingDelivery 260 [97]) (st (planned 259))) (fun t => decide (t.dev.shadow = [1] ∧ t.dev.late = [97])) = true ∧
    after (exec (.bindingDelivery 260 []) (st nearing)) (fun t => decide (t.dev.shadow = [] ∧ t.dev.late = [1, 97])) = true := by decide +kernel
/-- 05 R122, R127: lane 1 is bound, lane 97 was not delivered. -/
theorem test_boundary :
    after (exec (.slotBoundary 260) (st { planned 260 with shadow := [1] })) (fun t =>
      decide ((t.dev.dec 1).acq = .armed ∧ (t.dev.enc 1).bound = none ∧ t.dev.unit = 260)) = true := by decide +kernel
/-- 09 R233. -/
theorem test_fetch :
    after (exec (.toneMapFetch 1 260 0 []) (st fetching)) (fun t => decide (t.dev.pins.map (fun p => (p.unit, p.set, p.entry.seg)) = [(260, setIx 5 false, 1)])) = true := by
  decide +kernel
/-- A plan for beacon period 3 with contention alone. -/
def planB : Plan :=
  { brlen := 2302, caSlot := 184
    allocs := [{ start := 2302, len := 256, addr := addrAll, dir := true, form := 5, cpl := 1, kind := kindContention }]
    decs := [{ lane := 0, start := 2302, len := 256, taps := [⟨0, 0⟩, ⟨0, 1⟩, ⟨0, 2⟩, ⟨0, 3⟩], stap := some ⟨1, 0⟩, echo := false
               capture := false, gain := none, addr := addrAll, kind := kindContention }]
    encs := [{ lane := 0, start := 0, len := 2302, outs := [0, 1, 2], cpl := 1, addr := addrAll, kind := kindBeacon, dir := false, form := 6 }] }
theorem upDev_unmasked : Unmasked (upDev.fresh.maskOf 0) := maskOf_unmasked _ _ (by decide +kernel)
/-- 10 R249, R258: the lengths of a four-block beacon and of a contention slot at profile W14. -/
theorem upDev_beaconUnits : upDev.fresh.beaconUnits 0 4 = 2302 := by
  rw [Dev.beaconUnits, Dev.droneLen, frameLen_unmasked upDev_unmasked, droneNsym_unmasked upDev_unmasked]; decide +kernel
theorem upDev_caSlot : upDev.fresh.caSlot 0 = 184 := by
  rw [Dev.caSlot, Dev.droneLen, frameLen_unmasked upDev_unmasked, droneNsym_unmasked upDev_unmasked]; decide +kernel
theorem planB_beaconOk : upDev.fresh.beaconOk 0 3 planB = true := by
  have h : [1, 2, 3, 4].any (fun k => decide (planB.brlen = upDev.fresh.beaconUnits 0 k)) = true :=
    List.any_eq_true.mpr ⟨4, by simp, by rw [upDev_beaconUnits]; decide⟩
  have h' : (upDev.fresh.beaconBody 0 ((3 + 2 ^ 23 - 1) % 2 ^ 23) planB).length ≤ 2040 := by
    have e : planB.caSlot = 184 := rfl
    decide +kernel
  have h'' : planB.caSlot = upDev.fresh.caSlot 0 ∧ planB.allocs.length ≤ upDev.fresh.fld Reg.gongGrid 31 24 := by
    rw [upDev_caSlot]; decide +kernel
  unfold Dev.beaconOk; rw [h, decide_eq_true h', decide_eq_true h'']; rfl
theorem planB_rest : (planB.allocs.all (allocForm planB) && allocsAscend planB.allocs && allocsApart planB.allocs &&
    planB.allocs.all (upDev.fresh.allocNode 0 3) && planB.allocs.all (upDev.fresh.allocServed 0 planB) && planB.decs.all (upDev.fresh.decEntryOk 0 3 planB) &&
    planB.encs.all (upDev.fresh.encEntryOk 0 3 planB) && planB.encs.any (fun e => decide (e.kind = kindBeacon)) &&
    lanesOk 0 (upDev.fresh.takenDecs 0 3) (planB.decs.map (fun e => (e.lane, e.start, e.len))) &&
    lanesOk 0 (upDev.fresh.takenEncs 0 3) (planB.encs.map (fun e => (e.lane, e.start, e.len))) &&
    planB.decs.all (upDev.fresh.overlapPlanned 0 planB) && upDev.fresh.contentionOk planB && upDev.fresh.trainingOk 0 3 planB && upDev.fresh.soundingOk 0 3 planB &&
    upDev.fresh.pollsOk 0 3 planB && upDev.fresh.uplinkOk 0 3 planB) = true := by decide +kernel
theorem witness_frozen_plan :
    upDev.dev = .run ∧ upDev.atBoundary = true ∧ (planned 5).dev = .run ∧ (planned 5).atBoundary = false ∧ (upDev.msync.bpi + 3) % 2 ^ 23 = 3 ∧
    upDev.unplanned (0 : Fin 32) 3 = true ∧ upDev.sess = [] ∧ upDev.fresh.planOk (0 : Fin 32) 3 planB = true ∧
    upDev.fresh.planOk (0 : Fin 32) 3 { planB with allocs := [] } = false := by
  have h : upDev.fresh.planOk (0 : Fin 32) 3 planB = true := by
    have r := planB_rest
    have b : upDev.fresh.beaconOk (0 : Fin 32) 3 planB = true := planB_beaconOk
    simp only [Bool.and_assoc] at r ⊢
    simp only [Dev.planOk, Bool.and_assoc, b, Bool.true_and]
    exact r
  have c : upDev.fresh.contentionOk { planB with allocs := [] } = false := by decide +kernel
  refine ⟨by decide +kernel, by decide +kernel, by decide +kernel, by decide +kernel, by decide +kernel, by decide +kernel, by decide +kernel, h, ?_⟩
  simp only [Dev.planOk, c, Bool.and_false, Bool.false_and]
/-- A lane of group 0 holds the beacon's binding; the beacon period has just begun. -/
def beaconing : Dev :=
  let e : EncEntry := { lane := 0, start := 0, len := 4, outs := [0, 1, 2], cpl := 1, addr := addrAll, kind := kindBeacon, dir := false, form := 6 }
  { planned 0 with unit := 0, encs := [(3, { EncLane.init with outs := [0, 1, 2], bound := some e })] }
/-- Band 0 is occupied on port 1. -/
def shut (d : Dev) : Dev :=
  (d.setReg (Reg.occBand 0 0) 0xFFFFC000).modPort 1 (fun x => { x with occ := [(0, { level := 0, runStart := none, last := none })] })
/-- 06 R156: no frame may be sent there, however short. -/
theorem shut_gates (d : Dev) (f : Nat) (hf : 0 < f) (ho : (d.port 1).occ = [(0, { level := 0, runStart := none, last := none })])
    (hb : d.bandOpen (portGroup 1) 0 = true) : (d.gateFrame [0, 1, 2] f).1 = false := by
  have h : (d.occFails 1 f).1 = true := by simp [Dev.occFails, ho, hb]; omega
  have m : 1 ∈ [0, 1, 2].filter (fun p => (d.occFails p f).1 || (d.occFails p f).2) := by simp [h]
  simp only [Dev.gateFrame, List.isEmpty_eq_false_iff]
  exact List.ne_nil_of_mem m
/-- A request for a sounding on port 1. -/
def req1 : MntReq := { kind := 3, ports := [1], stamp := 4, cmd := none, accept := 0, found := 0, sess := none }
theorem witness_Schedules :
    (planned 5).wanting (0 : Fin 32) = some 2 ∧ beaconing.dev = .run ∧ beaconing.beaconLane (0 : Fin 32) = some 3 ∧
    beaconing.beacons (0 : Fin 32) beaconing.msync.bpi = true ∧ (beaconing.group (0 : Fin 32)).lastBcn ≠ some beaconing.msync.bpi ∧
    beaconing.atBoundary = true ∧ beaconing.unit / 8192 = beaconing.msync.bpi ∧ (beaconing.fresh.gateFrame (beaconing.enc 3).outs
      ((beaconing.fresh.placeChange 0).beacon 0).2.2.2).1 = true ∧
    ({ upDev with mnt := { Mnt.init with reqs := [req1] } }).mnt.reqs.find? (fun r => ({ upDev with mnt := { Mnt.init with reqs := [req1] } }).grantable r) = some req1 := by
  decide +kernel
theorem witness_beacon_kept_off :
    (shut beaconing).beaconLane (0 : Fin 32) = some 3 ∧ (shut beaconing).beacons (0 : Fin 32) (shut beaconing).msync.bpi = true ∧
    ((shut beaconing).group (0 : Fin 32)).lastBcn ≠ some (shut beaconing).msync.bpi ∧ (shut beaconing).atBoundary = true ∧
    (shut beaconing).unit / 8192 = (shut beaconing).msync.bpi ∧
    ((shut beaconing).fresh.gateFrame ((shut beaconing).enc 3).outs (((shut beaconing).fresh.placeChange 0).beacon 0).2.2.2).1 = false := by
  refine ⟨by decide +kernel, by decide +kernel, by decide +kernel, by decide +kernel, by decide +kernel, ?_⟩
  exact shut_gates _ _ (frameLen_pos _ _ _ _ _ _ _) (by decide +kernel) (by decide +kernel)
/-- 10 R256, R257, 21 R475. -/
theorem test_schedules :
    after (exec (.scheduleLate 0) (st (planned 5))) (fun t => decide ((t.dev.planOf 0 2).map (fun p => p.allocs.map (fun a => (a.len, a.kind))) = some [(256, 4)])) = true ∧
    after (exec .maintGrant (st { upDev with mnt := { Mnt.init with reqs := [req1] } })) (fun t =>
      decide (t.dev.mnt.reqs = [] ∧ t.dev.mnt.runs.map (fun r => r.placed) = [some 4])) = true := by decide +kernel
/-- 10 R249 (on a lane without outputs: how many samples saturate on one is free). -/
theorem test_beacon :
    after (exec (.beaconTx 0 inTime noFaults) (st (beaconing.modEnc 3 (fun x => { x with outs := [] })))) (fun t =>
      decide ((t.dev.enc 3).frame.map (fun f => (f.start, f.form)) = some (1000000, 6) ∧ (t.dev.group 0).lastBcn = some 0)) = true := by
  decide +kernel

/-! ### Frames sent, acknowledgements -/

/-- An allocation entry for node 5 from slot unit 260 on. -/
def entryE (kind : Nat) (dir : Bool) (addr : Nat) : EncEntry :=
  { lane := 1, start := 260, len := 5000, outs := [0, 1, 2], cpl := 1, addr := addr, kind := kind, dir := dir, form := 5 }
/-- An MSDU of one block with its cell. -/
def oneBlock : Msdu := { msdu1 with n := 1, blocks := [{ idx := 0, pool := .quota }] }
/-- A frame for node 5 that ends at sample `n`. -/
def txTo (n : Nat) : TxFrame :=
  { fc := 0, grp := 0, nh := 5, msdu := 0, form := 0, rate := 0, symbols := [], stream1 := [], tw := 0, fcs := 0, mimo := false, late := []
    badS := [], start := 0, stop := n }
/-- Lane 3 is bound to an entry and free. -/
def sending (e : EncEntry) (n : Node) : Dev :=
  let d := (planned 260).modNode 5 (fun _ => n)
  { d with encs := [(3, { EncLane.init with outs := [0, 1, 2], bound := some e, fill := [77] })] }
/-- A one-block frame in Drone-4. -/
def formW : TxForm := { map := 1, mimo := false, nsym := 12, rate := 0, len := 1073664, miss := false }
/-- 08 R207, 06 R156: the length of such a frame. -/
theorem formW_of (d : Dev) (hu : Unmasked (d.maskOf 0)) (hp : d.profile 0 = 0) (hg : d.ulGi 0 = 1) (ht : d.twCode 0 = 2) :
    d.droneForm 0 1 1 false = formW := by
  rw [Dev.droneForm, Dev.droneLen, droneNsym_unmasked hu, frameLen_unmasked hu, hp, hg, ht]; decide +kernel
/-- 11 Table LR.4. -/
theorem span_of (d : Dev) (hu : Unmasked (d.maskOf 0)) (hg : d.ulGi 0 = 1) (ht : d.twCode 0 = 2) :
    d.ackSpan 0 (d.ulGi 0) = 278928 := by
  rw [Dev.ackSpan, Dev.ackLen, frameLen_unmasked hu, hg, ht]; decide
/-- One block fits an allocation that leaves 1,352,592 samples, or 1,073,664 where no ACK is asked for. -/
theorem fits_formW (d : Dev) (e : EncEntry) (hop n : Nat) (mgmt req : Bool) (hu : Unmasked (d.maskOf 0)) (hp : d.profile 0 = 0)
    (hg : d.ulGi 0 = 1) (ht : d.twCode 0 = 2) (hb : (d.enc 3).bound = some e) (hf : e.form = 5) (hr : (d.enc 3).grp = 0)
    (he : d.endsBy (e.start + e.len) n (if req then 1352592 else 1073664) = true) :
    d.fitBlocks 3 hop n mgmt req 1 = some (1, formW) := by
  have hw : d.formFor 3 hop n (0 + 1) mgmt = formW := by
    have hc : mgmt = true ∨ 4 ≤ ((d.enc 3).bound.map (fun e => e.form)).getD 0 := Or.inr (by rw [hb]; simp [hf])
    rw [Dev.formFor, if_pos hc, hr, hb]
    simp only [Option.map_some, Option.getD_some, hf]
    exact formW_of d hu hp hg ht
  have hl : formW.len + (if req then d.ackSpan (d.enc 3).grp (d.ulGi (d.enc 3).grp) else 0) = if req then 1352592 else 1073664 := by
    rw [hr, span_of d hu hg ht]; cases req <;> rfl
  rw [Dev.fitBlocks, hw]
  simp only [hb, Option.map_some, Option.getD_some, hl, he]
  rfl
/-- Node 5 has an MSDU to be sent; a release part after its POLL; broadcasts; a sounding session placed here. -/
def downD : Dev := sending (entryE kindData false 1) { nodeIn .active with txq := [oneBlock] }
def pollD : Dev :=
  (sending (entryE kindPoll true 1) { nodeIn .dormant with heldq := [oneBlock], pollBp := some 0 }).modEnc 3 (fun x => { x with
    frame := some { txTo 1000000 with fc := fcAck 1 1 0 false 1 0 } })
def castD : Dev := (sending (entryE kindData false addrAll) (nodeIn .active)).modGroup 0 (fun g => { g with bq := [{ oneBlock with bcast := true }] })
def soundS : Sess :=
  { id := 3, nh := 5, up := false, segs := 2, got := 0, endBp := some 0, mark := none, more := 0, moreMark := none, cmds := [],
    frames := 0, lastFr := 0, done := false, rcvd := [] }
def soundD : Dev :=
  { (sending (entryE kindSounding false 1) (nodeIn .active)).modGroup 0 (fun g => { g with frozen := [(0, { planA with
      allocs := [{ start := 260, len := 5000, addr := 1, dir := false, form := 5, cpl := 1, kind := kindSounding }] })] }) with sess := [soundS] }
theorem downD_fits : downD.fresh.fitBlocks (3 : Fin 96) 5 downD.tb.n oneBlock.mgmt true oneBlock.blocks.length = some (1, formW) :=
  fits_formW downD.fresh (entryE kindData false 1) 5 _ _ true (maskOf_unmasked _ _ (by decide +kernel)) (by decide +kernel) (by decide +kernel) (by decide +kernel)
    (by decide +kernel) rfl (by decide +kernel) (by decide +kernel)
theorem witness_FramesSent_data :
    downD.dev = .run ∧ (downD.enc (3 : Fin 96)).bound = some (entryE kindData false 1) ∧ (downD.enc (3 : Fin 96)).idle downD.tb.n = true ∧
    ((entryE kindData false 1).kind = kindData ∧ (entryE kindData false 1).dir = false ∧ (downD.node 5).st ≠ .dormant) ∧
    downD.entryNode (downD.enc (3 : Fin 96)).grp (entryE kindData false 1).addr = some 5 ∧ downD.fresh.nextMsdu (3 : Fin 96) 5 false = some oneBlock ∧
    oneBlock.prot = false ∧ oneBlock.blocks ≠ [] ∧
    downD.fresh.fitBlocks (3 : Fin 96) 5 downD.tb.n oneBlock.mgmt true oneBlock.blocks.length = some (1, formW) ∧
    (downD.fresh.gateFrame (downD.enc (3 : Fin 96)).outs formW.len).1 = true := by
  refine ⟨?_, ?_, ?_, ?_, ?_, ?_, ?_, ?_, downD_fits, ?_⟩ <;> decide +kernel
theorem witness_FramesSent_kept_off :
    (shut downD).dev = .run ∧ ((shut downD).enc (3 : Fin 96)).bound = some (entryE kindData false 1) ∧ (shut downD).fresh.nextMsdu (3 : Fin 96) 5 false = some oneBlock ∧
    (shut downD).fresh.fitBlocks (3 : Fin 96) 5 (shut downD).tb.n oneBlock.mgmt true oneBlock.blocks.length = some (1, formW) ∧
    ((shut downD).fresh.gateFrame ((shut downD).enc (3 : Fin 96)).outs formW.len).1 = false := by
  refine ⟨by decide +kernel, by decide +kernel, by decide +kernel, ?_, by decide +kernel⟩
  exact fits_formW (shut downD).fresh (entryE kindData false 1) 5 _ _ true (maskOf_unmasked _ _ (by decide +kernel)) (by decide +kernel)
    (by decide +kernel) (by decide +kernel) (by decide +kernel) rfl (by decide +kernel) (by decide +kernel)
theorem witness_FramesSent_poll :
    pollD.dev = .run ∧ (pollD.enc (3 : Fin 96)).bound = some (entryE kindPoll true 1) ∧ (pollD.enc (3 : Fin 96)).idle pollD.tb.n = true ∧
    (entryE kindPoll true 1).kind = kindPoll ∧ pollD.releaseOpen (3 : Fin 96) (entryE kindPoll true 1) 5 = true ∧
    pollD.entryNode (pollD.enc (3 : Fin 96)).grp (entryE kindPoll true 1).addr = some 5 ∧ pollD.fresh.nextMsdu (3 : Fin 96) 5 true = some oneBlock ∧
    pollD.fresh.fitBlocks (3 : Fin 96) 5 pollD.tb.n oneBlock.mgmt true oneBlock.blocks.length = some (1, formW) ∧
    (pollD.fresh.gateFrame (pollD.enc (3 : Fin 96)).outs formW.len).1 = true := by
  refine ⟨by decide +kernel, by decide +kernel, by decide +kernel, by decide +kernel, by decide +kernel, by decide +kernel, by decide +kernel, ?_, by decide +kernel⟩
  exact fits_formW pollD.fresh (entryE kindPoll true 1) 5 _ _ true (maskOf_unmasked _ _ (by decide +kernel)) (by decide +kernel) (by decide +kernel) (by decide +kernel)
    (by decide +kernel) rfl (by decide +kernel) (by decide +kernel)
theorem witness_FramesSent_broadcast :
    castD.dev = .run ∧ (castD.enc (3 : Fin 96)).bound = some (entryE kindData false addrAll) ∧
    firstMsdu ((castD.group (castD.enc (3 : Fin 96)).grp).bq.filter (fun m => (castD.enc (3 : Fin 96)).fill.contains m.id)) =
      some { oneBlock with bcast := true } ∧ oneBlock.faulty = [] ∧
    castD.fresh.fitBlocks (3 : Fin 96) 0 castD.tb.n true false 1 = some (1, formW) ∧
    (castD.fresh.gateFrame (castD.enc (3 : Fin 96)).outs formW.len).1 = true := by
  refine ⟨by decide +kernel, by decide +kernel, by decide +kernel, by decide +kernel, ?_, by decide +kernel⟩
  exact fits_formW castD.fresh (entryE kindData false addrAll) 0 _ _ false (maskOf_unmasked _ _ (by decide +kernel)) (by decide +kernel)
    (by decide +kernel) (by decide +kernel) (by decide +kernel) rfl (by decide +kernel) (by decide +kernel)
/-- Two blocks are to be sent, and the allocation has room for one. -/
def shortD : Dev :=
  (sending { entryE kindData false addrAll with len := 200 } (nodeIn .active)).modGroup 0 (fun g =>
    { g with bq := [{ oneBlock with bcast := true, blocks := [{ idx := 0, pool := .quota }, { idx := 1, pool := .quota }] }] })
theorem witness_FramesSent_in_parts :
    shortD.fresh.fitBlocks (3 : Fin 96) 0 shortD.tb.n true false 2 = some (1, formW) ∧ (shortD.fresh.gateFrame (shortD.enc (3 : Fin 96)).outs formW.len).1 = true ∧
    firstMsdu ((shortD.group (shortD.enc (3 : Fin 96)).grp).bq.filter (fun m => (shortD.enc (3 : Fin 96)).fill.contains m.id)) =
      some { oneBlock with bcast := true, blocks := [{ idx := 0, pool := .quota }, { idx := 1, pool := .quota }] } := by
  have hu : Unmasked (shortD.fresh.maskOf 0) := maskOf_unmasked _ _ (by decide +kernel)
  have h2 : shortD.fresh.droneForm 0 1 2 false = { formW with nsym := 24, len := 1958400 } := by
    rw [Dev.droneForm, Dev.droneLen, droneNsym_unmasked hu, frameLen_unmasked hu]; decide +kernel
  have w2 : shortD.fresh.formFor 3 0 shortD.tb.n (1 + 1) true = { formW with nsym := 24, len := 1958400 } := by
    rw [Dev.formFor, if_pos (Or.inl rfl)]; exact h2
  refine ⟨?_, by decide +kernel, by decide +kernel⟩
  show shortD.fresh.fitBlocks 3 0 shortD.tb.n true false (1 + 1) = some (1, formW)
  rw [Dev.fitBlocks, w2, if_neg (by decide +kernel)]
  exact fits_formW shortD.fresh { entryE kindData false addrAll with len := 200 } 0 _ _ false hu (by decide +kernel)
    (by decide +kernel) (by decide +kernel) (by decide +kernel) rfl (by decide +kernel) (by decide +kernel)
theorem witness_FramesSent_sounding :
    soundD.dev = .run ∧ (soundD.enc (3 : Fin 96)).bound = some (entryE kindSounding false 1) ∧ (soundD.enc (3 : Fin 96)).idle soundD.tb.n = true ∧
    soundD.openOf 5 false = some soundS ∧ soundS.endBp = some soundD.msync.bpi ∧ (entryE kindSounding false 1).addr = (soundD.node 5).saddr ∧
    soundS.frames ≤ 0 ∧ 0 + 1 = (soundAllocs (soundD.planFor 0 soundD.msync.bpi) (soundD.node 5).saddr false).length ∧
    ((soundAllocs (soundD.planFor 0 soundD.msync.bpi) (soundD.node 5).saddr false)[0]?).map (fun a => (a.start, a.len)) = some (260, 5000) ∧
    411 = soundD.fresh.soundRoom 0 false (soundD.fresh.samplesTo 5260) ∧
    (soundD.fresh.gateFrame (soundD.enc (3 : Fin 96)).outs (frameLen (soundD.fresh.profile 0) (soundD.fresh.maskOf 0) (soundD.fresh.ulGi 0)
      (soundD.fresh.twCode 0) 0 false 411)).1 = true := by
  have hu : Unmasked (soundD.fresh.maskOf 0) := maskOf_unmasked _ _ (by decide +kernel)
  refine ⟨by decide +kernel, by decide +kernel, by decide +kernel, by decide +kernel, by decide +kernel, by decide +kernel, by decide +kernel,
    by decide +kernel, by decide +kernel, ?_, ?_⟩ <;> simp only [Dev.soundRoom, frameLen_unmasked hu] <;> decide +kernel

/-- The decode entry of node 5's uplink allocation. -/
def entryU (kind : Nat) : DecEntry :=
  { lane := 2, start := 460, len := 100, taps := [⟨0, 0⟩, ⟨0, 1⟩, ⟨0, 2⟩, ⟨0, 3⟩], stap := some ⟨1, 0⟩, echo := false, capture := false
    gain := some 3, addr := 1, kind := kind }
/-- The same allocation's encode lane. -/
def replyLane : EncLane :=
  let e : EncEntry := { lane := 2, start := 460, len := 100, outs := [0, 1, 2], cpl := 1, addr := 1, kind := kindData, dir := true, form := 5 }
  { EncLane.init with outs := [0, 1, 2], bound := some e }
/-- An acknowledgement that falls due now. -/
def owed5 : AckOwed := { gi := 1, grp := 0, nh := 5, aseq := 9, bitmap := 5, due := 1000000, poll := false, clid := none, level := -8 }
/-- Lane 7 owes it; `es` are the encode lanes. -/
def owing (es : List (Nat × EncLane)) : Dev :=
  { planned 460 with encs := es, decs := [(7, { DecLane.init with bound := some (entryU kindData), acq := .armed, ack := some owed5 })] }
/-- A frame received on lane 7 from node 5. -/
def rxFr (fc : BitVec 128) : RxFrame :=
  { fc := fc, grp := 0, nh := some 5, cls := .none, blind := false, clid := none, lastSym := 999000, alloc := some (entryU kindData)
    arrival := 100, ents := [], segs := [], rx := { Rx.init with origin := 600000, gi := 1, prof := 0, ports := [0, 1, 2, 3], gains := [4, 4, 4, 4] }
    pbs := none }
/-- Node 5's unacknowledged MSDU: of three blocks, 0 and 2 are on the line. -/
def inFlight : Msdu :=
  { msdu1 with n := 3, blocks := [{ idx := 0, pool := .quota }, { idx := 1, pool := .quota }, { idx := 2, pool := .quota }], sentOnce := true
               seq := 9, sent := [0, 2], spanEnd := some 1000005, tries := 1 }
/-- An ACK of `ASEQ` 9 has come in on lane 7. -/
def acked (m : Msdu) (fc : BitVec 128) : Dev :=
  let d := (planned 460).modNode 5 (fun _ => { nodeIn .active with cur := some m })
  { d with decs := [(7, { DecLane.init with bound := some (entryU kindData), acq := .armed, ackIn := some (rxFr fc) })] }
theorem witness_AckTx :
    (owing []).dev = .run ∧ ((owing []).dec (7 : Fin 96)).ack = some owed5 ∧ owed5.due ≤ (owing []).tb.n + usSamples 1 ∧
    (owing []).tb.n ≤ owed5.due + usSamples 1 ∧ (owing []).ackLane ((owing []).dec (7 : Fin 96)) = none ∧
    (owing [(9, { replyLane with frame := some (txTo 1000001) })]).ackLane ((owing [(9, { replyLane with frame := some (txTo 1000001) })]).dec (7 : Fin 96)) = some 9 ∧
    (owing [(9, replyLane)]).ackLane ((owing [(9, replyLane)]).dec (7 : Fin 96)) = some 9 ∧ ((owing [(9, replyLane)]).enc 9).frame = none ∧
    ((owing [(9, replyLane)]).fresh.gateFrame ((owing [(9, replyLane)]).enc 9).outs ((owing [(9, replyLane)]).ackLen owed5.grp owed5.gi)).1 = true := by
  decide +kernel
theorem witness_AckTx_kept_off :
    (shut (owing [(9, replyLane)])).ackLane ((shut (owing [(9, replyLane)])).dec (7 : Fin 96)) = some 9 ∧
    ((shut (owing [(9, replyLane)])).dec (7 : Fin 96)).ack = some owed5 ∧
    ((shut (owing [(9, replyLane)])).fresh.gateFrame ((shut (owing [(9, replyLane)])).enc 9).outs
      ((shut (owing [(9, replyLane)])).ackLen owed5.grp owed5.gi)).1 = false := by
  refine ⟨by decide +kernel, by decide +kernel, ?_⟩
  exact shut_gates _ _ (frameLen_pos _ _ _ _ _ _ _) (by decide +kernel) (by decide +kernel)
theorem witness_AckReceived :
    (acked inFlight (fcAck 1 0 1 false 1 9)).dev = .run ∧ ((acked inFlight (fcAck 1 0 1 false 1 9)).dec (7 : Fin 96)).ackIn = some (rxFr (fcAck 1 0 1 false 1 9)) ∧
    (acked inFlight 0).awaiting 5 (fcAseq (fcAck 1 0 1 false 1 9)) = some inFlight ∧ (acked inFlight 0).awaiting 5 8 = none ∧
    inFlight.blocks.filter (fun b => !(ackedOf inFlight.sent (fcBitmap (fcAck 1 0 1 false 1 9))).contains b.idx) ≠ [] ∧
    inFlight.tries < (acked inFlight 0).txTries inFlight.grp ∧ (acked inFlight 0).txTries 0 ≤ 31 ∧
    (acked { inFlight with blocks := [{ idx := 2, pool := .quota }] } 0).awaiting 5 9 = some { inFlight with blocks := [{ idx := 2, pool := .quota }] } ∧
    [({ idx := 2, pool := .quota } : Block)].filter (fun b => !(ackedOf inFlight.sent 3).contains b.idx) = [] ∧
    (acked { inFlight with tries := 31 } 0).awaiting 5 9 = some { inFlight with tries := 31 } ∧ inFlight.ending = none := by decide +kernel
theorem witness_AckTimeout :
    (acked inFlight 0).dev.clocked = true ∧ ((acked inFlight 0).node (5 : Fin 16384)).cur = some inFlight ∧ (acked inFlight 0).tb.n < 1000005 ∧
    ((acked { inFlight with spanEnd := some 1000000 } 0).node (5 : Fin 16384)).cur = some { inFlight with spanEnd := some 1000000 } ∧ 1000000 ≤ (acked inFlight 0).tb.n ∧
    inFlight.tries < (acked inFlight 0).txTries inFlight.grp ∧ (acked inFlight 0).txTries inFlight.grp ≤ 31 ∧
    inFlight.ending = none ∧ (acked inFlight 0).fld (Reg.lrCtrl 0) 15 8 ≤ (acked { inFlight with life := 255 } 0).lived { inFlight with life := 255 } ∧
    inFlight.spanEnd ≠ none ∧ ((acked { inFlight with life := 255, spanEnd := none } 0).node 5).cur = some { inFlight with life := 255, spanEnd := none } := by
  decide +kernel
/-- 11 R282, R284. -/
theorem test_ack_tx :
    after (exec (.ackTx 7 inTime false) (st (owing [(9, { replyLane with outs := [] })]))) (fun t =>
      decide ((t.dev.enc 9).frame.map (fun f => (fcAseq f.fc, fcBitmap f.fc, fcDst f.fc, f.start)) = some (9, 5, 1, 1000000) ∧ (t.dev.dec 7).ack = none)) = true ∧
    after (exec (.ackTx 7 inTime false) (st (owing [(9, { replyLane with frame := some (txTo 1000001) })]))) (fun t =>
      decide ((t.dev.enc 9).frame = some (txTo 1000001) ∧ (t.dev.dec 7).ack = none)) = true := by decide +kernel
/-- 11 R287: bit 0 of `BITMAP` is the first block on the line. -/
theorem test_ack_received :
    after (exec (.ackReceived 7) (st (acked inFlight (fcAck 1 0 1 false 2 9)))) (fun t =>
      decide ((t.dev.node 5).cur.map (fun m => m.blocks.map (fun b => b.idx)) = some [0, 1])) = true := by decide +kernel
/-- 11 Table LR.8. -/
theorem test_ack_timeout :
    after (exec (.ackTimeout 5) (st (acked { inFlight with spanEnd := some 1000000 } 0))) (fun t =>
      decide ((t.dev.node 5).cur.map (fun m => (m.sent, m.blocks.length)) = some ([], 3))) = true ∧
    after (exec (.msduLifeExpiry 5) (st (acked { inFlight with life := 255 } 0))) (fun t =>
      decide ((t.dev.node 5).cur.map (fun m => m.ending) = some (some stNoAck))) = true := by decide +kernel

/-! ### Frames found and received -/

/-- A mask that leaves the carriers 95 to 159 open, and one that leaves 128 alone. -/
def open65 : List (BitVec 32) := [0xF0000000 + 16383 * 2 ^ 14 + 160]
def open128 : List (BitVec 32) := [0xF0000000 + 127 * 2 ^ 14, 0xF0000000 + 16383 * 2 ^ 14 + 129]
/-- A reception of port 1 whose preamble ended at sample `n`. -/
def rxAt (n : Nat) : Rx := { Rx.init with origin := n, gi := 1, prof := 0, fcs := 2, ports := [1], gains := [4], mask := open65 }
/-- A decode lane of node 5's uplink allocation, with one tap, in an acquisition state. -/
def laneAt (a : Acq) : DecLane := { DecLane.init with bound := some (entryU kindData), taps := [⟨0, 1⟩], acq := a, rx := rxAt 900000 }
/-- Lane 7 as given; the mask `es` has been in force till now, and a sync word may differ from word 38 in 15 bits. -/
def hearingIn (es : List (BitVec 32)) (x : DecLane) : Dev :=
  let d := ((planned 460).setFld (Reg.ffCtrl 0) 21 16 38).setFld (Reg.ffCtrl 0) 3 0 15
  { d with clk := 800000, decs := [(7, x)] }.modGroup 0 (fun g => { g with maskWas := some (2000000, es) })
def hearing : DecLane → Dev := hearingIn open65
/-- One sample of 200 mV as each short symbol begins; the two last are negative; then one 703 samples into the body of the sync symbol. -/
def preamblePins : PinRuns :=
  (List.range 8).flatMap (fun _ => [(1, 200000), (4095, 0)]) ++
    [(1, -200000), (4095, 0), (1, -200000), (4095, 0), (8895, 0), (1, 200000), (64832, 0), (8, 0)]
/-- Two short symbols; two of opposite sign and a third of the sign given. -/
def twoPins : PinRuns := [(1, 200000), (4095, 0), (1, 200000), (4103, 0)]
def signPins (v : Int) : PinRuns := [(1, 200000), (4095, 0), (1, -200000), (4095, 0), (1, v), (4103, 0)]
/-- The third begins 128 samples late: a quarter of a period of carrier 128. -/
def quarterPins : PinRuns := [(1, 200000), (4095, 0), (1, -200000), (4223, 0), (1, -200000), (3975, 0)]
/-- Frame control of a DATA frame of `n` payload symbols from node 5, of an ACK, and of a frame from nobody. -/
def fcD (n : Nat) : BitVec 128 := fcDataFrame ftData 1 false 0 1 n 1 0 1 0 true false 0 7 1
def fcA : BitVec 128 := fcAck 1 0 1 true 5 9
def fcX : BitVec 128 := fcDataFrame ftData 1 false 0 9 3 1 0 1 0 true false 0 7 1
theorem witness_Detection :
    (hearing (laneAt .armed)).dev = .run ∧ (((hearing (laneAt .armed)).settleLane (7 : Fin 96)).dec (7 : Fin 96)).acq = .armed ∧
    ((hearing (laneAt .armed)).detects 0 ((hearing (laneAt .armed)).maskAt 0 991800) ((hearing (laneAt .armed)).windows [1] 991800 8192 [twoPins])).isSome = true ∧
    (hearing (laneAt .armed)).detects 0 ((hearing (laneAt .armed)).maskAt 0 991800) ((hearing (laneAt .armed)).windows [1] 991800 8192 []) = none ∧
    (((hearing (laneAt .fc)).settleLane (7 : Fin 96)).dec (7 : Fin 96)).acq ≠ .armed := by decide +kernel
/-- Lane 7 times a frame whose detection's last short symbol was followed by `n` samples and eight more. -/
def timing (es : List (BitVec 32)) (n : Nat) : Dev := hearingIn es { laneAt .timing with rx := rxAt (999992 - n) }
/-- What TIMING_ACQUIRED looks at there. -/
def timed (n : Nat) (pins : PinRuns) : List (List Piece) :=
  ((timing open65 n).windows [1] (999992 - n - 4096) (n + 4096) [pins]).map (TapWin.unblanked (n + 4096))
theorem witness_Timing :
    ((timing open65 8192).dec (7 : Fin 96)).acq = .timing ∧ (timing open65 8192).tb.n - 8 - (999992 - 8192 - 4096) = 12288 ∧
    signFound (timed 8192 []) = none ∧ signFound (timed 8192 (signPins 200000)) = some 1 ∧ (1 + 2) * 4096 ≤ 12288 ∧
    12 * 4096 ≤ (timing open65 45056).tb.n - 8 - (999992 - 45056 - 4096) ∧ signFound (timed 45056 []) = none ∧
    guardCode (shortKs 0 ((timing open65 8192).maskAt 0 987704)) 4096 (timed 8192 (signPins 200000)) = 2 ∧
    guardCode (shortKs 0 ((timing open128 8192).maskAt 0 987704)) 4096 (timed 8192 quarterPins) = 3 ∧ signFound (timed 8192 quarterPins) = some 1 ∧
    signFound (timed 4096 [(1, 200000), (4095, 0), (1, -200000), (4103, 0)]) = some 1 ∧ (timing open65 4096).tb.n - 8 - (999992 - 8192) < (1 + 2) * 4096 := by
  decide +kernel
/-- Lane 7 is at the sync word of a frame whose preamble ended eight samples ago. -/
def syncing : Dev := hearing { laneAt .sync with rx := rxAt 999992 }
/-- The windows of its preamble. -/
def preambleOf (pins : List PinRuns) : List TapWin := syncing.windows [1] (999992 - preambleLen) preambleLen pins
theorem witness_Sync :
    (syncing.dec (7 : Fin 96)).acq = .sync ∧ (rxAt 999992).origin + 8 ≤ syncing.tb.n ∧ syncing.tb.n < (rxAt 999993).origin + 8 ∧
    syncing.syncAccepted 0 ((syncing.preambleRx (rxAt 999992) (preambleOf [preamblePins])).decided (preambleOf [preamblePins])) = true ∧
    syncing.syncAccepted 0 ((syncing.preambleRx (rxAt 999992) (preambleOf [])).decided (preambleOf [])) = false := by decide +kernel
/-- A symbol received without blanking; lane 7 has both frame-control symbols of a frame with frame control `fc`. -/
def sym0 : RxSym := { blanked := 0, erased := false, ys := [[]] }
def controlled (fc : BitVec 128) : DecLane := { laneAt .fc with rx := { rxAt 850000 with syms := [sym0, sym0], fcGot := fc } }
theorem witness_FrameControl :
    ((hearing (controlled (fcD 3))).dec (7 : Fin 96)).acq = .fc ∧ (controlled (fcD 3)).rx.fcs ≤ (controlled (fcD 3)).rx.syms.length ∧
    ((controlled (fcD 3)).rx.syms.any (fun y => y.erased) = false ∧ fcGood (fcD 3) = true ∧ fcValid (fcD 3) (controlled (fcD 3)).rx.gi = true) ∧
    (hearing (controlled (fcD 3))).rxFilter 0 (fcD 3) = some (some 5) ∧ fcNsym (fcD 3) ≠ 0 ∧
    (fcGood fcA = true ∧ fcValid fcA 1 = true) ∧ (hearing (controlled fcA)).rxFilter 0 fcA = some (some 5) ∧ fcNsym fcA = 0 ∧
    (fcGood fcX = true ∧ fcValid fcX 1 = true) ∧ (hearing (controlled fcX)).rxFilter 0 fcX = none ∧ fcGood 1 = false ∧ (laneAt .fc).rx.syms.length < (laneAt .fc).rx.fcs ∧
    { controlled fcX with second := some (rxAt 900001) }.second = some (rxAt 900001) := by decide +kernel
/-- What the second detector finds, on lane 7 in a state, in the preamble that has just ended. -/
def secondOf (x : DecLane) (pins : List PinRuns) : Option Rx :=
  (hearing x).secondRx x ((hearing x).windows [1] (1000000 - 8 - preambleLen) preambleLen pins)
theorem witness_SecondSync :
    ((hearing (laneAt .payload)).settleLane (7 : Fin 96)).dec (7 : Fin 96) = laneAt .payload ∧ (laneAt .fc).acq.busy = true ∧
    (laneAt .fc).cur.origin ≠ (hearing (laneAt .fc)).tb.n - 8 ∧ (secondOf (laneAt .fc) [preamblePins]).isSome = true ∧ secondOf (laneAt .fc) [] = none ∧
    ((hearing (laneAt .fc)).setFld (Reg.ffCtrl 0) 11 8 6).fld (Reg.ffCtrl 0) 11 8 ≠ 0 ∧
    (secondOf { laneAt .fc with rx := { rxAt 900000 with level := -1000 }, win := true } [preamblePins]).any (fun r => decide ((-1000 : Int) + 4 * (6 : Int) ≤ r.level)) = true ∧
    (hearing { laneAt .fc with win := true }).windowOpen { laneAt .fc with win := true } = true ∧
    ((hearing { laneAt .armed with failAt := some 800000 }).dec (7 : Fin 96)).failAt = some (hearing (laneAt .armed)).clk ∧
    (hearing (laneAt .fc)).windowOpen (laneAt .fc) = false ∧ ¬ ((laneAt .unbound).acq.busy = true ∨ (laneAt .unbound).acq = .armed) := by decide +kernel
/-- A frame of six payload symbols that is past its fourth one. -/
def longFr : RxFrame := { rxFr (fcD 6) with lastSym := 600000 + 8 * 81920, rx := { rxAt 490000 with gi := 1 } }
theorem witness_CaptureWindow :
    ((hearing { laneAt .window with frame := some longFr }).dec (7 : Fin 96)).frame = some longFr ∧
    longFr.closeAt ≤ (hearing (laneAt .window)).tb.n ∧ longFr.closeAt < longFr.lastSym := by decide +kernel
/-- 07 R172, R173. -/
theorem test_preamble :
    after (exec (.preambleDetect 7 [twoPins]) (st (hearing (laneAt .armed)))) (fun t =>
      decide ((t.dev.dec 7).acq = .timing ∧ (t.dev.dec 7).rx.origin = 999992)) = true ∧
    after (exec (.timingAcquired 7 [signPins (-200000)]) (st (timing open65 8192))) (fun t =>
      decide ((t.dev.dec 7).acq = .sync ∧ (t.dev.dec 7).rx.gi = 0 ∧ (t.dev.dec 7).rx.origin = 999992 + 73728)) = true := by decide +kernel
/-- 07 R174, R180. -/
theorem test_sync_word :
    after (exec (.syncWordDecision 7 [preamblePins]) (st syncing)) (fun t => decide ((t.dev.dec 7).acq = .fc)) = true ∧
    after (exec (.syncWordDecision 7 []) (st (hearing { laneAt .sync with rx := rxAt 999992, second := some (rxAt 999000) }))) (fun t =>
      decide ((t.dev.dec 7).acq = .fc ∧ (t.dev.dec 7).rx.origin = 999000)) = true := by decide +kernel
/-- 07 R175-R181. -/
theorem test_frame_control :
    after (exec (.frameControlDecode 7) (st (hearing (controlled (fcD 3 ^^^ 256))))) (fun t =>
      decide ((t.dev.dec 7).acq = .armed ∧ (t.dev.dec 7).failAt = some 800000)) = true ∧
    after (exec (.frameControlDecode 7) (st (hearing (controlled (fcD 3))))) (fun t =>
      decide ((t.dev.dec 7).frame.map (fun f => (f.nh, f.lastSym)) = some (some 5, 850000 + 5 * 73728))) = true := by decide +kernel
/-- 07 R183, R184. -/
theorem test_capture_window :
    after (exec (.secondSyncAccept 7 [preamblePins]) (st ((hearing { laneAt .fc with rx := { rxAt 900000 with level := -1000 }, win := true }).setFld
      (Reg.ffCtrl 0) 11 8 6))) (fun t => decide ((t.dev.dec 7).rx.origin = 999992 ∧ t.dev.flag (Src.ff 0).off 2 = true)) = true ∧
    after (exec (.captureWindowClose 7) (st (hearing { laneAt .window with frame := some longFr }))) (fun t => decide ((t.dev.dec 7).acq = .payload)) = true := by
  decide +kernel

/-- Lane 7 demodulates a frame whose preamble has ended `n` samples ago, of three payload symbols in Drone-4, or in the one-tap fallback. -/
def demod (map n : Nat) : DecLane :=
  { laneAt .payload with frame := some { rxFr (fcDataFrame ftData 1 false 0 1 9 map 0 1 0 true false 0 7 1) with
      lastSym := 1500000, rx := { rxAt (1000000 - n) with fcs := 0 } } }
/-- Both converters at a limit for a whole symbol, and eight samples of nothing. -/
def loudPins : PinRuns := [(65536, 30000000), (8, 0)]
/-- The processing samples with B = 1 in lane 7's next symbol. -/
def blankedOf (pins : List PinRuns) : Nat :=
  let x := demod 1 80000
  ((hearing x).receiveSymbol x.cur 928192 ((hearing x).windows x.cur.ports 928192 65536 pins)).1
/-- A frame that has ended on the line with no symbol demodulated. -/
def halfFr (n : Nat) : RxFrame := { rxFr (fcD 3) with lastSym := 990000, rx := rxAt (1000000 - n) }
theorem witness_Symbols :
    ((hearing (demod 1 80000)).settleLane (7 : Fin 96)).dec (7 : Fin 96) = demod 1 80000 ∧ (demod 1 80000).acq = .payload ∧
    (demod 1 80000).ended.find? (fun f => f.pbs.isNone) = none ∧
    (hearing (demod 1 80000)).symbolCame (demod 1 80000).cur ((demod 1 80000).frame.map (fun f => f.fc)) = true ∧
    (hearing (demod 1 73735)).symbolCame (demod 1 73735).cur ((demod 1 73735).frame.map (fun f => f.fc)) = false ∧
    (hearing (demod 1 80000)).fld (Reg.ccCtrl 0) 13 8 * profFft 0 < blankedOf [loudPins] * 64 ∧
    ¬ (hearing (demod 1 80000)).fld (Reg.ccCtrl 0) 13 8 * profFft 0 < blankedOf [] * 64 ∧
    placeOf 0 ((demod 1 80000).frame.map (fun f => f.fc)) 0 = .numbered 0 ∧ placeOf 0 ((demod 4 80000).frame.map (fun f => f.fc)) 0 = .fallback ∧
    ((hearing { laneAt .armed with ended := [halfFr 80000] }).settleLane (7 : Fin 96)).dec (7 : Fin 96) = { laneAt .armed with ended := [halfFr 80000] } ∧
    (hearing (laneAt .armed)).symbolCame (halfFr 80000).rx (some (fcD 3)) = true ∧ (hearing (laneAt .armed)).symbolCame (halfFr 70000).rx (some (fcD 3)) = false := by
  decide +kernel
/-- 08 R209, R214: a blanked symbol is erased. -/
theorem test_symbol :
    after (exec (.symbolDemodulate 7 [loudPins] none) (st (hearing (demod 1 80000)))) (fun t =>
      decide (((t.dev.dec 7).cur.syms.map (fun y => (y.blanked, y.erased)) = [(4096, true)]) ∧ t.dev.flag (Src.cc 0).off 1 = true)) = true := by decide +kernel
/-- 2,000 samples past both thresholds of CC_TRAN, the hold of 64, eight samples more. -/
def burstPins (n : Nat) : PinRuns := [(100, 0), (n, 30000000), (64, 0), (8, 0)]
/-- The blanked run on port 1 that ends eight samples ago. -/
def burst (n : Nat) : Option (Nat × Nat) :=
  let d := hearing (demod 1 80000)
  let n0 := 1000000 - pinLen (burstPins n)
  d.blankedRun 1 n0 (pinLen (burstPins n) - 8) (d.convertAll 1 n0 (pinSpans 0 (burstPins n)))
theorem witness_Transients :
    bit (hearing (laneAt .armed)).present (portQuad 1) = true ∧ bit { hearing (laneAt .armed) with present := 7 }.present (portQuad 127) = false ∧
    burst 2000 = some (2072, 131071) ∧ (hearing (laneAt .armed)).fld (Reg.ccTran 0) 31 16 ≤ 2072 ∧
    (hearing (laneAt .armed)).fld (Reg.ccTran 0) 5 0 * 131071 ≤ 131071 * 64 ∧
    burst 1000 = some (1072, 131071) ∧ ¬ (hearing (laneAt .armed)).fld (Reg.ccTran 0) 31 16 ≤ 1072 ∧
    (7, demod 1 80000) ∈ (hearing (demod 1 80000)).decs ∧ (hearing (demod 1 80000)).dec 7 = demod 1 80000 ∧
    (hearing (demod 1 80000)).receiving (demod 1 80000) = true ∧ (demod 1 80000).acq ≠ .timing ∧ (demod 1 80000).rxPorts.contains 1 = true ∧
    (demod 1 80000).frame.map (fun f => (f.rx.steps, decide (f.rx.origin ≤ 1000000 - 8 - 1))) = some ([], true) := by decide +kernel
/-- 08 R210, R211: a step at the symbol in which the run ended. -/
theorem test_transient :
    after (exec (.transientReport 1 (burstPins 2000)) (st (hearing (demod 1 80000)))) (fun t =>
      decide ((t.dev.dec 7).frame.map (fun f => f.rx.steps) = some [(1, true)])) = true := by decide +kernel
/-- Lane 7 has a frame that has ended. -/
def endedAt (f : RxFrame) (n : Node) : Dev := (hearing { laneAt .armed with ended := [f] }).modNode 5 (fun _ => n)
/-- A frame of one bad block. -/
def doneFr : RxFrame := { rxFr (fcD 3) with pbs := some [[]] }
theorem witness_Decoded :
    (endedAt doneFr (nodeIn .active)).dev = .run ∧ (((endedAt doneFr (nodeIn .active)).settleLane (7 : Fin 96)).dec (7 : Fin 96)).ended = [doneFr] ∧
    fcFt (fcD 3) ≠ ftPoll ∧ doneFr.pbs.isSome = true ∧ (rxFr (fcD 3)).pbs = none ∧ carriesMsdu (fcD 3) = true ∧ doneFr.nh = some 5 ∧ fcAckReq (fcD 3) = true ∧
    fcDst (fcD 3) = 0 ∧ (laneAt .armed).bound.isSome = true ∧ (laneAt .armed).bound = doneFr.alloc ∧ (laneAt .armed).grp = doneFr.grp ∧
    fcFt (fcSound 1 false 0 1 3 1 7 0 0 true) ≠ ftPoll ∧ carriesMsdu (fcSound 1 false 0 1 3 1 7 0 0 true) = false := by decide +kernel
/-- 11 R282, 09 R236: a blind frame's blocks are all reported bad, 64 us after its end. -/
theorem test_decoded :
    after (exec (.pbDecodeDone 7 noFaults) (st (endedAt { doneFr with blind := true } (nodeIn .active)))) (fun t =>
      decide ((t.dev.dec 7).ack.map (fun a => (a.bitmap, a.aseq, a.due)) = some (0, 7, 999000 + 512 + 80000) ∧ (t.dev.dec 7).ended = [])) = true := by
  decide +kernel
/-- A POLL of node 5. -/
def fcP : BitVec 128 := fcSeal (fcCommon ftPoll 1 false 0 1 12 1 + BitVec.ofNat 128 (2 ^ 91))
/-- A block that begins with the start value of its CRC-24, which is then 0 over zeros (11 R280). -/
def pb0 : List Byte := [0xB7, 0x04, 0xCE] ++ List.replicate 517 0
theorem crc24_zeros (n : Nat) : (List.replicate n (0 : Byte)).foldl (crcMsbByte 24 0x864CFB) 0 = 0 := by
  induction n with
  | zero => rfl
  | succ n ih =>
    have h : crcMsbByte 24 0x864CFB 0 0 = 0 := by decide
    rw [List.replicate_succ, List.foldl_cons, h]; exact ih
theorem pb0_good : pbGood pb0 = true := by
  have t : pb0.take 516 = [0xB7, 0x04, 0xCE] ++ List.replicate 513 0 := by decide +kernel
  have c : crc24 (pb0.take 516) = 0 := by
    have h : List.foldl (crcMsbByte 24 0x864CFB) 0xB704CE [0xB7, 0x04, 0xCE] = 0 := by decide +kernel
    rw [t, crc24, List.foldl_append, h, crc24_zeros]
  unfold pbGood; rw [c]; decide +kernel
def pollFr (at_ : Nat) : RxFrame := { rxFr fcP with alloc := some (entryU kindPoll), arrival := at_, pbs := some [pb0] }
def polled (at_ : Nat) : Dev := endedAt (pollFr at_) { nodeIn .dormant with dorm := some (dorm0 0) }
theorem witness_Poll :
    (((polled 100).settleLane (7 : Fin 96)).dec (7 : Fin 96)).ended = [pollFr 100] ∧ fcFt (pollFr 100).fc = ftPoll ∧ (pollFr 100).nh = some 5 ∧
    (pollFr 100).pbs = some [pb0] ∧ ((polled 100).node 5).dorm = some (dorm0 0) ∧
    (polled 100).inWindow (pollFr 100) ((polled 100).node 5) (dorm0 0) 100 = true ∧
    (polled 8000).inWindow (pollFr 8000) ((polled 8000).node 5) (dorm0 0) 8000 = false ∧ pbGood pb0 = true ∧ ((polled 100).takeRx 0).isSome = true := by
  refine ⟨?_, ?_, ?_, ?_, ?_, ?_, ?_, pb0_good, ?_⟩ <;> decide +kernel
/-- 12 R311: outside its window a POLL changes nothing of its node. -/
theorem test_poll :
    after (exec (.pollReceived 7) (st (polled 8000))) (fun t => decide (t.dev.node 5 = (polled 8000).node 5 ∧ (t.dev.dec 7).ended = [])) = true := by
  decide +kernel
/-- An MSDU of no bytes, all of whose blocks are held; the same protected. -/
def whole0 : Reasm :=
  { seq := 7, last := 0, base := 0, enc := false, orig := 1, final := 0, hop := 0, parts := [(0, [0, 0, 0, 0], .quota)], clid := none, faulty := none }
def sealed0 : Reasm := { whole0 with enc := true, parts := [(0, List.replicate 28 0 ++ leBytes 4 (crc32 (List.replicate 28 0)), .quota)] }
theorem witness_Judged :
    whole0.faulty = none ∧ bodyCheck whole0.body = true ∧ bodyPbs whole0.enc (bodyLen whole0.body) = whole0.last + 1 ∧
    bodyCheck { whole0 with parts := [(0, [0, 0, 0, 1], .quota)] }.body = false ∧
    bodyPbs whole0.enc (bodyLen whole0.body) ≠ { whole0 with last := 1, parts := [(0, [0, 0, 0, 0], .quota), (1, [], .quota)] }.last + 1 ∧
    bodyCheck { whole0 with last := 1, parts := [(0, [0, 0, 0, 0], .quota), (1, [], .quota)] }.body = true ∧
    ((hearing (laneAt .armed)).node 5).seqNew whole0.seq = true ∧ ({ nodeIn .active with rxValid := true, rxSeq := 7 }).seqNew whole0.seq = false ∧
    (hearing (laneAt .armed)).bySaddr 0 whole0.orig = some 5 ∧ whole0.hop < 7 ∧ (hearing (laneAt .armed)).encReq 5 = false ∧
    { hearing (laneAt .armed) with policy := [⟨0x0102030405060708, 1, true, false, true, false, 255⟩] }.encReq 5 = true ∧
    fcFt (fcD 3) ≠ ftMgmt ∧ byteAt whole0.body 2 = 0 := by decide +kernel
theorem witness_Judged_protected :
    sealed0.faulty = none ∧ bodyCheck sealed0.body = true ∧ bodyPbs sealed0.enc (bodyLen sealed0.body) = sealed0.last + 1 ∧
    ((nodeIn .active).keyOf (bits (byteAt sealed0.body 10) 0 0)) = none ∧
    ({ nodeIn .active with key0 := some [] }).keyOf (bits (byteAt sealed0.body 10) 0 0) = some [] ∧
    (nodeIn .active).fcNew (leAt sealed0.body 4 6) = true ∧ ({ nodeIn .active with rxFc := 99 }).fcNew (leAt sealed0.body 4 6) = false := by decide +kernel
/-- 11 R290. -/
theorem test_judged :
    ((hearing (laneAt .armed)).judge 7 (rxFr (fcD 3)) (some 5) whole0 noFaults |>.group 0).rxq.map (fun m => (m.nh, m.seq, m.data)) = [(5, 7, [])] := by
  decide +kernel


/-! ### Cancellers, checks of commands -/

/-- A granted training of port 1 of eight symbols, its slot at slot unit 600 of beacon period 0. -/
def trainingIn (u : Nat) : Dev :=
  let a : Alloc := { start := 600, len := 1000, addr := addrAll, dir := false, form := 0, cpl := 0, kind := kindTraining }
  let r : MntReq := { kind := 2, ports := [1], stamp := 0, cmd := none, accept := 0, found := 0, sess := none }
  let d := ((planned u).setFld (Reg.echCtrl 0) 23 16 8).modGroup 0 (fun g => { g with frozen := [(0, { planA with allocs := planA.allocs ++ [a] })] })
  { d with mnt := { Mnt.init with runs := [{ req := r, grant := 0, placed := some 0 }] } }
/-- Port `p`'s canceller in a state; a window's activity has passed, and training symbols have left since sample `n`. -/
def echPort (p n : Nat) (x : EchState) : Dev :=
  (trainingIn 600).modPort p (fun y => { y with ech := x, sent := 250000, trainAt := some n, lvl := [(p, (0, -200))] })
def echAt : EchState → Dev := echPort 1 0
def train0 : TrainResult :=
  { bulk := some 100, clips := [], lvl := [(1, 300, -100)], others := [], pre := [1], td := [2], tabs := [], otherTabs := [] }
theorem witness_Training :
    (trainingIn 600).trainingDue (1 : Fin 128) = true ∧ (trainingIn 100).trainingDue (1 : Fin 128) = false ∧
    ((echAt .training).port (1 : Fin 128)).ech = .training ∧ (echAt .training).trainingSent (1 : Fin 128) = true ∧
    (echPort 1 410177 .training).trainingSent (1 : Fin 128) = false ∧ (echPort 1 410176 .training).trainingSent (1 : Fin 128) = true ∧
    (echAt .training).trainingPasses (1 : Fin 128) train0 = true ∧ (echAt .training).trainingPasses (1 : Fin 128) { train0 with bulk := none } = false ∧
    train0.lvl = [(1, 300, -100)] ∧ (echAt .training).isL (1 : Fin 128) = true ∧ (echAt .training).isL (3 : Fin 128) = false ∧
    (echPort 3 0 .training).trainingPasses (3 : Fin 128) train0 = true ∧
    (echPort 3 0 .training).trainingPasses (3 : Fin 128) { train0 with clips := [442368] } = false ∧ ((echAt .idle).port (1 : Fin 128)).ech ≠ .training := by decide +kernel
theorem witness_Quiet :
    (echAt .idle).dev = .run ∧ (echAt .idle).quietOver (1 : Fin 128) (1 : Fin 4) = true ∧ (echAt .idle).quietOver (1 : Fin 128) (0 : Fin 4) = false ∧
    ((echAt .idle).port 1).lvlBp.any (fun y => decide (y.1 = (1 : Fin 4).val ∧ y.2 = (echAt .idle).msync.bpi)) = false ∧
    (((echAt .idle).modPort 1 (fun y => { y with lvlBp := [(1, 0)] })).port 1).lvlBp.any (fun y =>
      decide (y.1 = (1 : Fin 4).val ∧ y.2 = (echAt .idle).msync.bpi)) = true ∧
    (echPort 3 0 .idle).quietOver (3 : Fin 128) (3 : Fin 4) = true ∧ (3 : Fin 4).val = (3 : Fin 128).val % 4 ∧ (echPort 3 0 .idle).isL (3 : Fin 128) = false := by
  decide +kernel
/-- What ECH_WINDOW_END finds of estimates on port 1, with nothing at the pins. -/
def residueOf (x : EchState) (ests : List Int) : Int := (echAt x).referred 1 (ests.foldl max (-2048))
theorem witness_Windows :
    (echAt .tracking).windowDue (1 : Fin 128) = true ∧ (inState .run).windowDue (1 : Fin 128) = false ∧
    ((echAt .tracking).port (1 : Fin 128)).level 1 = some (0, -200) ∧
    (-200 : Int) + 4 * (echAt .tracking).fld (Reg.echThr 0) 3 0 < residueOf .tracking [0] ∧
    ¬ (-200 : Int) + 4 * (echAt .tracking).fld (Reg.echThr 0) 3 0 < residueOf .tracking [-300] ∧
    (((echAt .tracking).modPort 1 (fun y => { y with overPrev := true })).port 1).overPrev = true ∧
    4 * ((echAt .tracking).port 1).tdRef < energy [1] ∧ ¬ 4 * ((echAt .tracking).port 1).tdRef < energy ((echAt .tracking).port 1).td ∧
    (echAt .diverged).windowDue (1 : Fin 128) = true ∧
    (4 * (echAt .diverged).fld (Reg.echThr 0) 15 8 : Int) ≤ 0 - residueOf .diverged [-1020] ∧
    ¬ (4 * (echAt .diverged).fld (Reg.echThr 0) 15 8 : Int) ≤ 0 - residueOf .diverged [0] ∧
    3 ≤ (((echAt .diverged).modPort 1 (fun y => { y with goodWins := [-500, -500, -500] })).port 1).goodWins.length ∧
    ((echAt .diverged).port 1).goodWins.length < 3 ∧ ((echAt .diverged).port (1 : Fin 128)).trainAsk = false ∧
    (echAt .diverged).fld (Reg.echThr 0) 31 16 ≤ 65535 ∧ ¬ (echAt .diverged).fld (Reg.echThr 0) 31 16 ≤ ((echAt .diverged).port 1).divWin := by decide +kernel
/-- 04 R98-R101. -/
theorem test_training :
    after (exec (.echTrainingStart 1) (st (trainingIn 600))) (fun t => decide ((t.dev.port 1).ech = .training ∧ (t.dev.port 1).trainAt = some 1000000)) = true ∧
    after (exec (.echTrainingDone 1 train0) (st (echAt .training))) (fun t =>
      decide ((t.dev.port 1).ech = .converged ∧ (t.dev.port 1).level 1 = some (300, -100) ∧ (t.dev.port 1).pre = [1])) = true := by decide +kernel
/-- 04 R104-R107. -/
theorem test_residue :
    after (exec (.echWindowEnd 1 { ests := [0], pins := [] }) (st (echAt .tracking))) (fun t =>
      decide ((t.dev.port 1).ech = .tracking ∧ (t.dev.port 1).overPrev = true) && after (exec (.echWindowEnd 1 { ests := [0], pins := [] }) t)
        (fun u => decide ((u.dev.port 1).ech = .diverged))) = true ∧
    after (exec (.echDivLimit 1) (st ((echAt .diverged).modPort 1 (fun p => { p with divWin := 65535 })))) (fun t => decide ((t.dev.port 1).trainAsk = true)) = true := by
  decide +kernel
/-- 04 R97, R96. -/
theorem test_quiet :
    after (exec (.quietIntervalEnd 1 1 300 (-100)) (st (echAt .converged))) (fun t => decide ((t.dev.port 1).supp = 400)) = true ∧
    after (exec (.quietIntervalEnd 3 3 300 (-100)) (st (echPort 3 0 .converged))) (fun t => decide ((t.dev.port 3).level 3 = some (0, -200))) = true := by
  decide +kernel

/-- A descriptor that names an object beyond the table's limit. -/
def badF : CmdF := { opc := 0x12, a2 := 32 }
theorem witness_CommandChecks :
    (inState .run).cmdReady = true ∧ ({ inState .run with rings := [] }).cmdReady = false ∧ (cmdStates 0x77) = none ∧ (cmdStates 0x12).isSome = true ∧
    (inState .config).accepts 0x12 = false ∧ (inState .run).accepts 0x12 = true ∧ badF.desc.opc.toNat = 0x12 ∧ badF.desc.dt = 4 ∧
    (raddrOk false badF.desc && blockOk ((CmdSpec.plain 0x12).len badF.desc) badF.desc && argsOk { CmdSpec.plain 0x12 with m2 := 0xFFFF, lim2 := 32 } badF.desc) = false ∧
    ({ badF with dt := 3 } : CmdF).desc.dt ≠ 4 ∧ (inState .run).cmds = [] ∧ ((inState .run).ring 1).st = .enabled ∧ ((inState .run).ring 1).owed = [] ∧
    ((inState .run).fn 0).bme = true := by decide +kernel
/-- 16 Table CE.2: type, opcode, state, arguments. -/
theorem test_command_checks :
    after (exec (.grpStop ({ badF with dt := 3 } : CmdF).desc) (st (inState .run))) (fun t => decide (status t = some 0x12)) = true ∧
    after (exec (.grpStop badF.desc) (st (inState .config))) (fun t => decide (status t = some 0x16)) = true := by decide +kernel

end Sys2Proof.Tests
end

section
/-! SUPPORT. Register writes (00 R7-R12, 24 R524-R527): the write that the device state discards, the write that is refused whole,
the word that a write leaves in a register, and the bit that LOCK_SET sets. -/

namespace Sys2Proof.Machine

/-! ### Discarded and refused writes (24 R526) -/

/-- A discarded write changes nothing but `REF_OFF` and what reports touch. -/
theorem stateDiscard_reports (d : Dev) (off : Nat) :
    Reports { d with mnt := { d.mnt with refOff := off } } (d.stateDiscard off) :=
  ((raise_reports d .mnt 0).trans (count_reports _ _ _ _ _ _)).set_refOff off

theorem stateDiscard_sets_runWrSeen (d : Dev) (off : Nat) : (d.stateDiscard off).flag Reg.mntStat 0 = true := by
  have hreg : (d.stateDiscard off).reg Reg.mntStat = (d.raise .mnt 0).reg Reg.mntStat :=
    reg_count (src_ne_cnt .mnt) (d.raise .mnt 0) 41 7 1 none 1
  have hset : (d.raise .mnt 0).flag Reg.mntStat 0 = true := flag_raise (by decide) d .mnt
  rwa [Dev.flag, hreg]

/-- A refused write changes nothing but `REF_OFF` and what reports touch. -/
theorem refuseWrite_reports (d : Dev) (off : Nat) :
    Reports { d with mnt := { d.mnt with refOff := off } } (d.refuseWrite off) :=
  (raise_reports d .mnt 1).set_refOff off

theorem refuseWrite_sets_wrRefusedSeen (d : Dev) (off : Nat) : (d.refuseWrite off).flag Reg.mntStat 1 = true :=
  flag_raise (by decide) d .mnt

/-! ### Which writes reach a register -/

/-- An access of no more than 32 bits that the device state does not take is discarded (00 R12, 24 R526). -/
theorem barWrite_of_not_taken {d : Dev} {off size : Nat} (hd : d.dev ≠ .off) (hs : size ≠ 8) (ht : d.takesWrite off = false)
    (v : Nat) : d.barWrite off size v = d.stateDiscard off := by
  simp [Dev.barWrite, Dev.writeAccess, hd, hs, ht]

/-- An aligned 32-bit access reaches its register in CONFIG. -/
theorem barWrite_in_config {d : Dev} {off : Nat} (hd : d.dev = .config) (ha : off % 4 = 0) (v : Nat) :
    d.barWrite off 4 v = d.writeReg off (v % 2 ^ 32) := by
  simp [Dev.barWrite, Dev.writeAccess, Dev.takesWrite, hd, ha]

theorem takesWrite_in_run {d : Dev} {off : Nat} (hd : d.dev = .run) (hm : inMsix off = false)
    (hr : ∀ r ix, regAt (off - off % 4) = some (r, ix) → r.run = false) : d.takesWrite off = false := by
  simp only [Dev.takesWrite, hm, hd, Bool.false_or]
  cases h : regAt (off - off % 4) with
  | none => rfl
  | some e => exact hr e.1 e.2 h

/-! ### The word that a write leaves (00 R7) -/

/-- The word that a write of `v` leaves in the register `r` at an offset. -/
def Dev.written (d : Dev) (off : Nat) (r : RegSpec) (v : Nat) : Nat :=
  writeWord (d.locked off) (d.frozenSet off) (decide (0xA1000 ≤ off ∧ off < 0xA2000)) r.fields (d.reg off) v

section
variable {d : Dev} {off v : Nat} {r : RegSpec} {ix : List Nat} (hi : off ≠ Reg.ident) (hc : ¬ (0xB0100 ≤ off ∧ off < 0xB0200))
  (hr : regAt off = some (r, ix))
include hi hc hr

/-- A write to a register outside the check-value units: taken where nothing of the word is judged or the word may stand, else
refused whole (00 R11, 24 R526, R527). -/
theorem writeReg_eq :
    d.writeReg off v =
      if (d.locked off && r.fields.any (fun f => decide (f.acc = .rwl))) || d.frozenSet off ||
          d.wordOk off (d.written off r v) then
        (d.setReg off (d.written off r v)).afterWrite (d.locked off) off (d.reg off) (d.written off r v) v
      else d.refuseWrite off := by
  unfold Dev.writeReg
  rw [if_neg hi, if_neg (fun h => hc ⟨h.1, h.2.1⟩), hr]
  rfl

theorem writeReg_of_wordOk (hw : d.wordOk off (d.written off r v) = true) :
    d.writeReg off v =
      (d.setReg off (d.written off r v)).afterWrite (d.locked off) off (d.reg off) (d.written off r v) v := by
  rw [writeReg_eq hi hc hr, hw, Bool.or_true, if_pos rfl]

theorem writeReg_of_locked (hl : d.locked off = true) (hf : r.fields.any (fun f => decide (f.acc = .rwl)) = true) :
    d.writeReg off v =
      (d.setReg off (d.written off r v)).afterWrite (d.locked off) off (d.reg off) (d.written off r v) v := by
  rw [writeReg_eq hi hc hr, hf, Bool.and_true, if_pos (by simp [hl])]

theorem writeReg_of_not_wordOk (hl : d.locked off = false) (hz : d.frozenSet off = false)
    (hw : d.wordOk off (d.written off r v) = false) : d.writeReg off v = d.refuseWrite off := by
  rw [writeReg_eq hi hc hr, hl, hz, hw, if_neg (by simp)]

end

/-- A field of a 32-bit word is read from the low 32 bits. -/
theorem bits_mod_word {hi lo : Nat} (h : lo ≤ hi) (hh : hi < 32) (v : Nat) : bits (v % 2 ^ 32) hi lo = bits v hi lo := by
  have hw : 2 ^ 32 = 2 ^ lo * 2 ^ (32 - lo) := by rw [← Nat.pow_add]; congr 1; omega
  unfold bits
  rw [hw, Nat.mod_mul_right_div_self, Nat.mod_mod_of_dvd _ (Nat.pow_dvd_pow 2 (by omega))]

/-- Replacing a field by what it reads changes nothing. -/
theorem setBits_bits_self (v hi lo : Nat) : setBits v hi lo (bits v hi lo) = v := by
  have hle : v / 2 ^ lo % 2 ^ (hi + 1 - lo) * 2 ^ lo ≤ v :=
    Nat.le_trans (Nat.mul_le_mul_right _ (Nat.mod_le _ _)) (Nat.div_mul_le_self _ _)
  simp only [setBits, bits, Nat.mod_mod]
  exact Nat.sub_add_cancel hle

/-- Under `LOCK` a register that has RWL fields alone keeps its word (00 R8). -/
theorem writeWord_of_locked {fs : List RegField} (h : ∀ f ∈ fs, f.acc = .rwl) (frozen wm : Bool) (old v : Nat) :
    writeWord true frozen wm fs old v = old := by
  unfold writeWord
  induction fs with
  | nil => rfl
  | cons f fs ih =>
    have hf : writeField true frozen wm old v f = bits old f.hi f.lo := by simp [writeField, h f (by simp)]
    rw [List.foldl_cons, hf, setBits_bits_self]
    exact ih fun g hg => h g (List.mem_cons_of_mem _ hg)

/-! ### `MPT_THR` (02 R45) -/

theorem regAt_mptThr : ∃ r ix, regAt Reg.mptThr = some (r, ix) ∧ r.fields = [⟨12, 8, .rwl⟩, ⟨4, 0, .rwl⟩] :=
  ⟨_, _, rfl, rfl⟩

theorem locked_mptThr (d : Dev) : d.locked Reg.mptThr = d.flag Reg.mptCtrl 31 := rfl
theorem frozenSet_mptThr (d : Dev) : d.frozenSet Reg.mptThr = false := rfl
theorem afterWrite_mptThr (d : Dev) (lk : Bool) (old new v : Nat) : d.afterWrite lk Reg.mptThr old new v = d := rfl

/-- The exponents of a word keep the rule of 02 R45. -/
def ThrLegal (v : Nat) : Prop :=
  12 ≤ bits v 12 8 ∧ bits v 12 8 ≤ 22 ∧ 8 ≤ bits v 4 0 ∧ bits v 4 0 ≤ 18 ∧ bits v 4 0 < bits v 12 8

theorem wordOk_mptThr (d : Dev) (v : Nat) : d.wordOk Reg.mptThr v = true ↔ ThrLegal v := decide_eq_true_iff

section
variable {d : Dev} {r : RegSpec} (hf : r.fields = [⟨12, 8, .rwl⟩, ⟨4, 0, .rwl⟩])
include hf

/-- Unlocked, both exponents of the word left are those of the word written. -/
theorem written_mptThr_unlocked (hl : d.flag Reg.mptCtrl 31 = false) (v : Nat) :
    bits (d.written Reg.mptThr r v) 12 8 = bits v 12 8 ∧ bits (d.written Reg.mptThr r v) 4 0 = bits v 4 0 := by
  have e : d.written Reg.mptThr r v = setBits (setBits (d.reg Reg.mptThr) 12 8 (bits v 12 8)) 4 0 (bits v 4 0) := by
    simp [Dev.written, locked_mptThr, hl, hf, writeWord, writeField]
  rw [e, bits_setBits_apart (by omega) (by omega) (by omega), bits_setBits_same (by omega), bits_setBits_same (by omega)]
  simp [bits]

theorem written_mptThr_locked (hl : d.flag Reg.mptCtrl 31 = true) (v : Nat) :
    d.written Reg.mptThr r v = d.reg Reg.mptThr := by
  rw [Dev.written, locked_mptThr, hl]
  exact writeWord_of_locked (by simp [hf]) _ _ _ _

end

/-- Unlocked, `MPT_THR` may hold what a write leaves exactly where the word written keeps the rule. -/
theorem wordOk_written_mptThr {d : Dev} {r : RegSpec} (hf : r.fields = [⟨12, 8, .rwl⟩, ⟨4, 0, .rwl⟩])
    (hl : d.flag Reg.mptCtrl 31 = false) (v : Nat) : d.wordOk Reg.mptThr (d.written Reg.mptThr r v) = true ↔ ThrLegal v := by
  obtain ⟨hunl, hlck⟩ := written_mptThr_unlocked hf hl v
  rw [wordOk_mptThr, ThrLegal, hunl, hlck, ThrLegal]

theorem writeReg_mptThr_legal {d : Dev} {v : Nat} (hl : d.flag Reg.mptCtrl 31 = false) (hv : ThrLegal v) :
    ∃ w, d.writeReg Reg.mptThr v = d.setReg Reg.mptThr w ∧ bits w 12 8 = bits v 12 8 ∧ bits w 4 0 = bits v 4 0 := by
  obtain ⟨r, ix, hr, hf⟩ := regAt_mptThr
  exact ⟨_, (writeReg_of_wordOk (by decide) (by decide) hr ((wordOk_written_mptThr hf hl v).2 hv)).trans
    (afterWrite_mptThr _ _ _ _ _), written_mptThr_unlocked hf hl v⟩

theorem writeReg_mptThr_illegal {d : Dev} {v : Nat} (hl : d.flag Reg.mptCtrl 31 = false) (hv : ¬ ThrLegal v) :
    d.writeReg Reg.mptThr v = d.refuseWrite Reg.mptThr := by
  obtain ⟨r, ix, hr, hf⟩ := regAt_mptThr
  exact writeReg_of_not_wordOk (by decide) (by decide) hr hl (frozenSet_mptThr d)
    (Bool.eq_false_iff.2 fun h => hv ((wordOk_written_mptThr hf hl v).1 h))

theorem writeReg_mptThr_locked {d : Dev} (hl : d.flag Reg.mptCtrl 31 = true) (v : Nat) :
    d.writeReg Reg.mptThr v = d.setReg Reg.mptThr (d.reg Reg.mptThr) := by
  obtain ⟨r, ix, hr, hf⟩ := regAt_mptThr
  rw [writeReg_of_locked (by decide) (by decide) hr hl (by simp [hf]), afterWrite_mptThr, written_mptThr_locked hf hl]

/-- A register written with its own word reads as before, and so does every other. -/
theorem reg_setReg_self (d : Dev) (off off' : Nat) : (d.setReg off (d.reg off)).reg off' = d.reg off' := by
  by_cases e : off' = off
  · rw [e, reg_setReg_same, Nat.mod_eq_of_lt (reg_lt d off)]
  · exact reg_setReg_ne e _ _

/-! ### What a written register does changes no configuration register -/

theorem sameCfg_of_regs {a b : Dev} (h : b.regs = a.regs) : SameCfg a b := fun o _ => by simp only [Dev.reg, h]
theorem SameCfg.refl (a : Dev) : SameCfg a a := fun _ _ => rfl
theorem SameCfg.trans {a b c : Dev} (h : SameCfg a b) (k : SameCfg b c) : SameCfg a c :=
  fun o ho => (k o ho).trans (h o ho)

theorem foldl_sameCfg {α : Type} (f : Dev → α → Dev) (hf : ∀ d a, SameCfg d (f d a)) (l : List α) :
    ∀ d, SameCfg d (l.foldl f d) := by
  induction l with
  | nil => exact SameCfg.refl
  | cons a l ih => exact fun d => (hf d a).trans (ih _)

theorem modFault_sameCfg (d : Dev) (i : Nat) (b : Bool) : SameCfg d (d.modFault i b) := by
  unfold Dev.modFault
  split
  · exact SameCfg.refl d
  · exact fun o ho => ((raise_reports _ _ _).trans (event_reports _ _ _ _ _)).2 o ho

theorem unmask_sameCfg (d : Dev) (f v : Nat) : SameCfg d (d.unmask f v) := by
  unfold Dev.unmask
  split
  · exact ((modFn_reports d f _).trans (message_reports _ _ _)).2
  · exact SameCfg.refl d

theorem ite_sameCfg {d a b : Dev} {p : Prop} [Decidable p] (ha : p → SameCfg d a) (hb : SameCfg d b) :
    SameCfg d (if p then a else b) := by
  split
  · next h => exact ha h
  · exact hb

/-- What a written register outside the check-value units does changes no configuration register. -/
theorem afterWrite_sameCfg {off : Nat} (hc : ¬ (0xB0100 ≤ off ∧ off < 0xB0200)) (d : Dev) (lk : Bool) (old new v : Nat) :
    SameCfg d (d.afterWrite lk off old new v) := by
  have same : SameCfg d d := SameCfg.refl d
  unfold Dev.afterWrite
  -- an MSI-X entry
  refine ite_sameCfg (fun _ => ite_sameCfg (fun _ => unmask_sameCfg d _ _) same) ?_
  -- `PWR_CTRL`
  refine ite_sameCfg (fun _ => ite_sameCfg (fun _ => sameCfg_of_regs rfl) (ite_sameCfg (fun _ => sameCfg_of_regs rfl) same)) ?_
  -- `MPT_CTRL`
  refine ite_sameCfg (fun _ => ite_sameCfg (fun _ => same) (sameCfg_of_regs rfl)) ?_
  -- `MPT_REF`
  refine ite_sameCfg (fun _ => foldl_sameCfg _ ?_ _ d) ?_
  · exact fun _ _ => sameCfg_of_regs rfl
  -- `MPT_MSYNC_CTRL`
  refine ite_sameCfg (fun _ => ite_sameCfg (fun _ => sameCfg_of_regs rfl) (ite_sameCfg (fun _ => sameCfg_of_regs rfl) same)) ?_
  -- `SWO_CTRL`
  refine ite_sameCfg (fun _ => ite_sameCfg (fun _ => same) (sameCfg_of_regs rfl)) ?_
  -- `MEAS_IF`
  refine ite_sameCfg (fun _ => foldl_sameCfg _ (fun d i => ite_sameCfg
    (fun _ => (free_reports d).2.trans (modFault_sameCfg _ i _)) (SameCfg.refl d)) _ d) ?_
  -- `QUE_CTRL`
  refine ite_sameCfg (fun _ => ite_sameCfg (fun _ => same) (foldl_sameCfg _ (fun d q => ite_sameCfg
    (fun _ => (mark_reports d q).2) (SameCfg.refl d)) _ d)) ?_
  -- the watermarks
  refine ite_sameCfg (fun _ => ite_sameCfg (fun _ => (mark_reports d _).2) (ite_sameCfg
    (fun _ => ((modWm_reports d _ _).trans (mark_reports _ _)).2) same)) ?_
  -- the check-value units
  refine ite_sameCfg (fun h => absurd ⟨h.1, h.2.1⟩ hc) ?_
  -- the selectors and the clears of counters
  refine ite_sameCfg (fun _ => ite_sameCfg (fun _ => same) (sameCfg_of_regs rfl)) ?_
  refine ite_sameCfg (fun _ => foldl_sameCfg _ ?_ _ d) same
  exact fun d c => ite_sameCfg (fun _ => sameCfg_of_regs rfl) (SameCfg.refl d)

/-! ### The groups' registers (24 Table AM.3) -/

/-- Whether a register has an element at an offset. -/
def RegSpec.hits (off : Nat) (r : RegSpec) : Bool := decide (r.base ≤ off) && (splitIndex r.dims (off - r.base)).isSome

/-- A search finds the first register that has an element at the offset. -/
theorem findIn_fst (off : Nat) (rs : List RegSpec) : (findIn off rs).map Prod.fst = rs.find? (RegSpec.hits off) := by
  induction rs with
  | nil => rfl
  | cons r rs ih =>
    rw [findIn, List.find?_cons, RegSpec.hits]
    by_cases hb : r.base ≤ off
    · cases h : splitIndex r.dims (off - r.base) <;> simp [hb, ih]
    · simp [hb, ih]

/-- How far an array of registers reaches from its first one. -/
def dimsReach : List (Nat × Nat) → Nat
  | [] => 1
  | (stride, count) :: _ => stride * count

theorem splitIndex_past_reach {ds : List (Nat × Nat)} (hp : 0 < dimsReach ds) {rem : Nat} (h : dimsReach ds ≤ rem) :
    splitIndex ds rem = none := by
  cases ds with
  | nil => exact if_neg (Nat.ne_of_gt h)
  | cons e ds =>
    have hstride : 0 < e.1 := Nat.pos_of_mul_pos_right hp
    exact if_neg (Nat.not_lt.2 ((Nat.le_div_iff_mul_le hstride).2 (by rwa [Nat.mul_comm])))

/-- Of an array with one element a group, group `q` has an element where group 0 has one. -/
theorem splitIndex_group {q rem : Nat} (hq : q < 32) (hrem : rem < 0x10000) (ds : List (Nat × Nat)) :
    (splitIndex ((0x10000, 32) :: ds) (rem + q * 0x10000)).isSome = (splitIndex ds rem).isSome := by
  have hdiv : (rem + q * 0x10000) / 0x10000 = q := by omega
  have hmod : (rem + q * 0x10000) % 0x10000 = rem := by omega
  rw [splitIndex, hdiv, hmod, if_pos hq]
  cases splitIndex ds rem <;> rfl

/-- A register of each of the 32 groups, whose elements lie within its group's 64 KiB. -/
def RegSpec.perGroup (r : RegSpec) : Bool :=
  decide (r.dims.head? = some (0x10000, 32) ∧ 0x100000 ≤ r.base ∧ 0 < dimsReach r.dims.tail ∧
    r.base + dimsReach r.dims.tail ≤ 0x110000)

theorem groupRegs_perGroup : ∀ r ∈ groupRegs, r.perGroup = true := by decide

theorem hits_perGroup {g o : Nat} (hg : g < 32) (ho : o < 0x10000) {r : RegSpec} (h : r.perGroup = true) :
    r.hits (0x100000 + o + g * 0x10000) = r.hits (0x100000 + o) := by
  obtain ⟨hhead, hbase, hpos, hreach⟩ := of_decide_eq_true h
  obtain ⟨ds, hdims⟩ := List.head?_eq_some_iff.1 hhead
  rw [hdims, List.tail_cons] at hpos hreach
  unfold RegSpec.hits
  rw [hdims]
  by_cases hb : r.base ≤ 0x100000 + o
  · have e : 0x100000 + o + g * 0x10000 - r.base = (0x100000 + o - r.base) + g * 0x10000 := by omega
    have e0 : 0x100000 + o - r.base = (0x100000 + o - r.base) + 0 * 0x10000 := by omega
    rw [e, splitIndex_group hg (by omega), e0, splitIndex_group (by omega) (by omega)]
    simp [hb, Nat.le_add_right_of_le hb]
  · simp only [hb, decide_false, Bool.false_and, Bool.and_eq_false_imp, decide_eq_true_iff]
    intro hle
    have e : 0x100000 + o + g * 0x10000 - r.base = (0x110000 + o - r.base) + (g - 1) * 0x10000 := by omega
    rw [e, splitIndex_group (by omega) (by omega), splitIndex_past_reach hpos (by omega)]
    rfl

theorem find?_perGroup {g o : Nat} (hg : g < 32) (ho : o < 0x10000) {rs : List RegSpec} (h : ∀ r ∈ rs, r.perGroup = true) :
    rs.find? (RegSpec.hits (0x100000 + o + g * 0x10000)) = rs.find? (RegSpec.hits (0x100000 + o)) := by
  induction rs with
  | nil => rfl
  | cons r rs ih =>
    rw [List.find?_cons, List.find?_cons, hits_perGroup hg ho (h r List.mem_cons_self),
      ih fun r' hr => h r' (List.mem_cons_of_mem _ hr)]

/-- Every group has the registers of group 0. -/
theorem regAt_group {g o : Nat} (hg : g < 32) (ho : o < 0x10000) :
    (regAt (0x100000 + o + g * 0x10000)).map Prod.fst = groupRegs.find? (RegSpec.hits (0x100000 + o)) := by
  have hregs : regAt (0x100000 + o + g * 0x10000) = findIn (0x100000 + o + g * 0x10000) groupRegs := by
    unfold regAt findReg blockRegs
    iterate 11 rw [if_neg (by omega)]
    rw [if_pos (by omega)]
  rw [hregs, findIn_fst]
  exact find?_perGroup hg ho groupRegs_perGroup

/-! ### The `LOCK` bits (00 R8) -/

/-- The registers whose bit 31 locks a block, those of the groups apart. -/
def blockLocks : List Nat :=
  [Reg.pwrCtrl, Reg.mptCtrl, Reg.msyncCtrl, Reg.measCtrl, Reg.swoCtrl, Reg.hifCtrl, Reg.queCtrl, Reg.secCtrl, Reg.cntCtrl,
    Reg.mntCtrl, Reg.carCtrl, Reg.marCtrl, Reg.gongCtrl]

/-- Where among a group's registers those stand whose bit 31 locks a block of the group. -/
def groupLocks : List Nat := [0x0, 0x200, 0x400, 0x1000, 0x1100, 0x1200, 0x1300]

/-- What `lockOf` may answer. -/
def LockReg (l : Nat) : Prop := l ∈ blockLocks ∨ ∃ g o, g < 32 ∧ o ∈ groupLocks ∧ l = 0x100000 + o + g * 0x10000

/-- A choice that answers `LOCK` registers alone. -/
def AnswersLock (x : Option Nat) : Prop := ∀ l, x = some l → LockReg l

theorem answersLock_none : AnswersLock none := fun _ e => nomatch e

theorem answersLock_ite {p : Prop} [Decidable p] {a b : Option Nat} (ha : p → AnswersLock a) (hb : AnswersLock b) :
    AnswersLock (if p then a else b) := by
  split
  · next h => exact ha h
  · exact hb

theorem answersLock_block {p : Prop} [Decidable p] {a : Nat} {b : Option Nat} (ha : a ∈ blockLocks) (hb : AnswersLock b) :
    AnswersLock (if p then some a else b) :=
  answersLock_ite (fun _ _ e => Option.some.inj e ▸ .inl ha) hb

theorem answersLock_group {p : Prop} [Decidable p] {a : Nat} {b : Option Nat} {g : Nat} (hg : g < 32) (o : Nat)
    (ho : o ∈ groupLocks) (ha : a = 0x100000 + o + g * 0x10000) (hb : AnswersLock b) :
    AnswersLock (if p then some a else b) :=
  answersLock_ite (fun _ _ e => Option.some.inj e ▸ .inr ⟨g, o, hg, ho, ha⟩) hb

/-- Every block is locked by one of these registers. -/
theorem lockOf_lockReg (off : Nat) : AnswersLock (lockOf off) := by
  unfold lockOf
  refine answersLock_ite (fun _ => answersLock_none) ?_
  iterate 10 refine answersLock_block (by decide) ?_
  refine answersLock_ite (fun hrange => ?_) ?_
  · have hg : (off - 0x100000) / 0x10000 < 32 := by omega
    refine answersLock_group hg 0x0 (by decide) rfl ?_
    refine answersLock_group hg 0x200 (by decide) rfl ?_
    refine answersLock_group hg 0x400 (by decide) rfl ?_
    refine answersLock_group hg 0x1000 (by decide) rfl ?_
    refine answersLock_group hg 0x1100 (by decide) rfl ?_
    refine answersLock_group hg 0x1200 (by decide) rfl ?_
    exact answersLock_group hg 0x1300 (by decide) rfl answersLock_none
  · iterate 3 refine answersLock_block (by decide) ?_
    exact answersLock_none

/-- A register whose first field is the `LOCK` bit, with every other field below it. -/
def RegSpec.hasLock (r : RegSpec) : Bool :=
  decide (r.fields.head? = some ⟨31, 31, .w1s⟩) && r.fields.tail.all (fun f => decide (f.lo ≤ f.hi ∧ f.hi < 31))

theorem LockReg.hasLock {l : Nat} (h : LockReg l) {r : RegSpec} {ix : List Nat} (hr : regAt l = some (r, ix)) :
    r.hasLock = true := by
  obtain hl | ⟨g, o, hg, ho, rfl⟩ := h
  · have hblocks : ∀ l ∈ blockLocks, ((regAt l).map Prod.fst).all RegSpec.hasLock = true := by decide
    simpa [hr] using hblocks l hl
  · have hgroup : ∀ o ∈ groupLocks,
        o < 0x10000 ∧ (groupRegs.find? (RegSpec.hits (0x100000 + o))).all RegSpec.hasLock = true := by decide
    obtain ⟨hlt, hall⟩ := hgroup o ho
    rw [← regAt_group hg hlt, hr] at hall
    exact hall

/-- A `LOCK` register is aligned, carries no status bit, and lies outside the check-value units, the watermarks and the registers of
the measurement's sets. -/
theorem LockReg.place {l : Nat} (h : LockReg l) : l ≠ Reg.ident ∧ l % 4 = 0 ∧ statusOff l = false ∧
    ¬ (0xB0100 ≤ l ∧ l < 0xB0200) ∧ ¬ (0xA1000 ≤ l ∧ l < 0xA2000) ∧ setAtOffset l = none := by
  obtain hl | ⟨g, o, hg, ho, rfl⟩ := h
  · revert l; decide
  · have hgroup : ∀ o ∈ groupLocks, o < 0x10000 ∧ o % 4 = 0 ∧ statusOff (0x100000 + o + 0 * 0x10000) = false := by decide
    obtain ⟨hlt, h4, hs⟩ := hgroup o ho
    refine ⟨by simp only [Reg.ident]; omega, by omega, ?_, by omega, by omega, ?_⟩
    · rwa [statusOff_group hg hlt, ← statusOff_group (g := 0) (by omega) hlt]
    · unfold setAtOffset
      rw [if_neg (by omega), if_neg (by omega)]

/-- Fields below bit 31 leave it alone. -/
theorem bit31_foldl_setBits (x : RegField → Nat) {fs : List RegField}
    (h : fs.all (fun f => decide (f.lo ≤ f.hi ∧ f.hi < 31)) = true) (w : Nat) :
    bit (fs.foldl (fun w f => setBits w f.hi f.lo (x f)) w) 31 = bit w 31 := by
  induction fs generalizing w with
  | nil => rfl
  | cons f fs ih =>
    simp only [List.all_cons, Bool.and_eq_true, decide_eq_true_iff] at h
    obtain ⟨⟨hle, hlt⟩, hfs⟩ := h
    rw [List.foldl_cons, ih hfs, bit_eq_bits, bits_setBits_apart hle (by omega) (by omega), ← bit_eq_bits]

/-- 1 written to a `LOCK` bit leaves it at 1, whatever it was. -/
theorem bit31_writeWord {r : RegSpec} (h : r.hasLock = true) (locked frozen : Bool) (old : Nat) {v : Nat} (hv : bit v 31 = true) :
    bit (writeWord locked frozen false r.fields old v) 31 = true := by
  simp only [RegSpec.hasLock, Bool.and_eq_true, decide_eq_true_iff] at h
  obtain ⟨hhead, htail⟩ := h
  obtain ⟨fs, hfs⟩ := List.head?_eq_some_iff.1 hhead
  rw [hfs, List.tail_cons] at htail
  have hv1 : bits v 31 31 = 1 := by simpa [bit_eq_bits] using hv
  have hle : (31 : Nat) ≤ 31 := Nat.le_refl 31
  rw [writeWord, hfs, List.foldl_cons, bit31_foldl_setBits _ htail, bit_eq_bits, bits_setBits_same hle]
  simp [writeField, hv1]

/-- The word left in a `LOCK` register: no set freezes it and no watermark is armed by it. -/
theorem LockReg.written_eq {l : Nat} (h : LockReg l) (d : Dev) (r : RegSpec) (v : Nat) :
    d.written l r v = writeWord (d.locked l) false false r.fields (d.reg l) v := by
  obtain ⟨-, -, -, -, hwm, hset⟩ := h.place
  rw [Dev.written, Dev.frozenSet, hset, decide_eq_false hwm]

/-- 1 written to the `LOCK` bit of a block with a word that the register may hold stays there (00 R8). -/
theorem LockReg.flag_writeReg {l : Nat} (h : LockReg l) {d : Dev} {r : RegSpec} {ix : List Nat} {v : Nat}
    (hr : regAt l = some (r, ix)) (hv : bit v 31 = true) (hw : d.wordOk l (d.written l r v) = true) :
    (d.writeReg l v).flag l 31 = true := by
  obtain ⟨hident, -, hstatus, hcvu, -, -⟩ := h.place
  have hbit : bit (d.written l r v) 31 = true := by
    rw [h.written_eq]
    exact bit31_writeWord (h.hasLock hr) _ _ _ hv
  have hreg : (d.writeReg l v).reg l = d.written l r v % 2 ^ 32 := by
    rw [writeReg_of_wordOk hident hcvu hr hw, afterWrite_sameCfg hcvu _ _ _ _ _ l hstatus, reg_setReg_same]
  rw [Dev.flag, hreg, bit_eq_bits, bits_mod_word (by omega) (by omega), ← bit_eq_bits, hbit]

/-! ### Register writes as steps -/

/-- REGISTER_WRITE ends in the device that its access gives, the queue as it stood. -/
theorem registerWrite_next {s : State} {off : BitVec 24} {size : Nat} {data : BitVec 64} {d : Dev}
    (h : s.dev.fresh.barWrite off.toNat size data.toNat = d) :
    ∃ t, exec (.registerWrite off size data) s = .next t ∧ t.pending = s.pending ∧ t.dev = d.fresh :=
  ⟨_, run_next (fun d => d.barWrite off.toNat size data.toNat) s, rfl, congrArg Dev.fresh h⟩

/-- LOCK_SET ends in the device that its effect gives, the queue as it stood. -/
theorem lockSet_next {s : State} {off : BitVec 24} {data : BitVec 32} {d : Dev}
    (h : lockSetEffect off.toNat data.toNat s.dev.fresh = d) :
    ∃ t, exec (.lockSet off data) s = .next t ∧ t.pending = s.pending ∧ t.dev = d.fresh :=
  ⟨_, run_next (lockSetEffect off.toNat data.toNat) s, rfl, congrArg Dev.fresh h⟩

/-- A report on the device with a new `REF_OFF`, as a step sees it from its state. -/
theorem Reports.of_step {a d : Dev} (off : Nat) (h : Reports { a.fresh with mnt := { a.fresh.mnt with refOff := off } } d) :
    Reports { a with mnt := { a.mnt with refOff := off } } d.fresh :=
  ((fresh_reports a).set_refOff off).trans (h.trans (fresh_reports d))

/-! ### The statements -/

/-- Settles O7: the three outcomes of `writeReg` at `MPT_THR`. -/
theorem thresholdWriteInConfig : Obligations.ThresholdWriteInConfig := by
  intro s data hd lck unl legal
  have hunl : bits (data.toNat % 2 ^ 32) 12 8 = unl := bits_mod_word (by omega) (by omega) _
  have hlck : bits (data.toNat % 2 ^ 32) 4 0 = lck := bits_mod_word (by omega) (by omega) _
  have hlegal : ThrLegal (data.toNat % 2 ^ 32) ↔ legal := by rw [ThrLegal, hunl, hlck]
  obtain ⟨t, ht, hp, hdev⟩ := registerWrite_next (off := 0x40010) (size := 4) (data := data)
    (barWrite_in_config (d := s.dev.fresh) (off := Reg.mptThr) hd (by decide) _)
  refine ⟨t, ht, hp, fun hl hv => ?_, fun hl hv => ?_, fun hl => ?_⟩
  · obtain ⟨w, hw, hw12, hw4⟩ := writeReg_mptThr_legal (d := s.dev.fresh) hl (hlegal.2 hv)
    rw [hdev, hw]
    refine ⟨?_, ?_, fun off ho => reg_setReg_ne ho _ _, rfl⟩
    · rw [fresh_fld, Dev.fld, reg_setReg_same, bits_mod_word (by omega) (by omega), hw12, hunl]
    · rw [fresh_fld, Dev.fld, reg_setReg_same, bits_mod_word (by omega) (by omega), hw4, hlck]
  · rw [hdev, writeReg_mptThr_illegal (d := s.dev.fresh) hl (mt hlegal.1 hv)]
    exact ⟨refuseWrite_sets_wrRefusedSeen s.dev.fresh Reg.mptThr, (refuseWrite_reports _ _).of_step _⟩
  · rw [hdev, writeReg_mptThr_locked (d := s.dev.fresh) hl]
    exact ⟨rfl, reg_setReg_self s.dev.fresh Reg.mptThr⟩

/-- Settles O8: RUN does not take the write, and a write that is not taken is discarded. -/
theorem runWriteIsDiscarded : Obligations.RunWriteIsDiscarded := by
  intro s off size data hd hs hm hr
  have hoff : s.dev.fresh.dev ≠ .off := by simp [hd]
  obtain ⟨t, ht, hp, hdev⟩ := registerWrite_next
    (barWrite_of_not_taken (d := s.dev.fresh) hoff hs (takesWrite_in_run hd hm hr) data.toNat)
  refine ⟨t, ht, hp, ?_⟩
  rw [hdev]
  exact ⟨stateDiscard_sets_runWrSeen s.dev.fresh off.toNat, (stateDiscard_reports _ _).of_step _⟩

/-- Settles O9: the word left has its `LOCK` bit, and what the register does when written leaves it there. -/
theorem lockSetFreezesBlock : Obligations.LockSetFreezesBlock := by
  intro s off data r ix hd hlock hr hbit hok
  have hreg : LockReg off.toNat := lockOf_lockReg _ _ hlock
  obtain ⟨-, halign, -, -, hwm, -⟩ := hreg.place
  have hlocked : ∀ d : Dev, d.locked off.toNat = d.flag off.toNat 31 := fun d => by rw [Dev.locked, hlock]
  have hword : s.dev.fresh.wordOk off.toNat (s.dev.fresh.written off.toNat r data.toNat) = true := by
    rw [hreg.written_eq, hlocked]
    rwa [decide_eq_false hwm] at hok
  have hbar : s.dev.fresh.barWrite off.toNat 4 data.toNat = s.dev.fresh.writeReg off.toNat data.toNat := by
    rw [barWrite_in_config (d := s.dev.fresh) hd halign, Nat.mod_eq_of_lt data.isLt]
  obtain ⟨t, ht, hp, hdev⟩ := lockSet_next (s := s) ((if_pos ⟨hbit, hlock⟩).trans hbar)
  refine ⟨t, ht, hp, ?_⟩
  rw [hdev, hlocked, fresh_flag]
  exact hreg.flag_writeReg hr hbit hword

end Sys2Proof.Machine
end

section
/-! SUPPORT. Work that ends early (01 R33, R34, 10 R269, 16 R405, 21 R480): what its flushing leaves alone, and what a start, a stop
and a reset of the device or of a group lead to. -/

namespace Sys2Proof.Machine

/-! ### What flushing leaves alone -/

/-- `b` is in the device state of `a`, under the same supply and configuration, and its groups stand in the same states with the same
starts waiting. -/
structure Steady (a b : Dev) : Prop where
  dev : b.dev = a.dev
  pwr : b.pwr = a.pwr
  cfg : SameCfg a b
  st : ∀ g, (b.group g).st = (a.group g).st
  startCmd : ∀ g, (b.group g).startCmd = (a.group g).startCmd

theorem Steady.trans {a b c : Dev} (h : Steady a b) (k : Steady b c) : Steady a c :=
  ⟨k.dev.trans h.dev, k.pwr.trans h.pwr, h.cfg.trans k.cfg, fun g => (k.st g).trans (h.st g),
    fun g => (k.startCmd g).trans (h.startCmd g)⟩

theorem Steady.symm {a b : Dev} (h : Steady a b) : Steady b a :=
  ⟨h.dev.symm, h.pwr.symm, fun o ho => (h.cfg o ho).symm, fun g => (h.st g).symm, fun g => (h.startCmd g).symm⟩

/-- A device that differs in none of the four parts. -/
theorem Steady.of_eq {a b : Dev} (hd : b.dev = a.dev) (hp : b.pwr = a.pwr) (hr : b.regs = a.regs) (hg : b.groups = a.groups) :
    Steady a b :=
  ⟨hd, hp, sameCfg_of_regs hr, fun g => by simp only [Dev.group, hg], fun g => by simp only [Dev.group, hg]⟩

theorem Steady.refl (a : Dev) : Steady a a := .of_eq rfl rfl rfl rfl

theorem Reports.steady {a b : Dev} (h : Reports a b) : Steady a b :=
  ⟨h.dev, h.pwr, h.2, fun g => by rw [h.group], fun g => by rw [h.group]⟩

theorem ite_steady {d a b : Dev} {p : Prop} [Decidable p] (ha : Steady d a) (hb : Steady d b) :
    Steady d (if p then a else b) := by split <;> assumption

theorem Steady.foldl {α : Type} {f : Dev → α → Dev} {l : List α} {a d : Dev} (h : Steady a d)
    (hf : ∀ d x, Steady d (f d x)) : Steady a (l.foldl f d) := by
  induction l generalizing d with
  | nil => exact h
  | cons x l ih => exact ih (h.trans (hf d x))

theorem modGroup_steady {d : Dev} {g : Nat} {f : Group → Group} (hs : (f (d.group g)).st = (d.group g).st)
    (hc : (f (d.group g)).startCmd = (d.group g).startCmd) : Steady d (d.modGroup g f) := by
  have same : ∀ j, ((d.modGroup g f).group j).st = (d.group j).st ∧
      ((d.modGroup g f).group j).startCmd = (d.group j).startCmd := by
    intro j
    by_cases e : j = g
    · rw [e, group_modGroup_same]; exact ⟨hs, hc⟩
    · rw [group_modGroup_ne e]; exact ⟨rfl, rfl⟩
  exact ⟨rfl, rfl, fun _ _ => rfl, fun j => (same j).1, fun j => (same j).2⟩

theorem modPort_steady (d : Dev) (p : Nat) (f : Port → Port) : Steady d (d.modPort p f) := .of_eq rfl rfl rfl rfl
theorem modDec_steady (d : Dev) (l : Nat) (f : DecLane → DecLane) : Steady d (d.modDec l f) := .of_eq rfl rfl rfl rfl
theorem modEnc_steady (d : Dev) (l : Nat) (f : EncLane → EncLane) : Steady d (d.modEnc l f) := .of_eq rfl rfl rfl rfl
theorem modNode_steady (d : Dev) (nh : Nat) (f : Node → Node) : Steady d (d.modNode nh f) := .of_eq rfl rfl rfl rfl
theorem modMset_steady (d : Dev) (k : Nat) (f : MSet → MSet) : Steady d (d.modMset k f) := .of_eq rfl rfl rfl rfl

theorem finishSt_steady (d : Dev) (id st : Nat) : Steady d (d.finishSt id st) := (finishSt_reports d id st).steady

/-! ### Frames and fades -/

theorem trace_reports (d : Dev) (clid : Option Nat) (stage st mpt : Nat) (i : TraceInfo) :
    Reports d (d.trace clid stage st mpt i) := by
  cases clid with
  | none => exact Reports.refl d
  | some c => exact ite_reports (push_reports d _ _) (Reports.refl d)

theorem settleLane_steady (d : Dev) (l : Nat) : Steady d (d.settleLane l) :=
  ite_steady (modDec_steady d _ _) (Steady.refl d)

theorem unbindDec_steady (d : Dev) (l : Nat) : Steady d (d.unbindDec l) := by
  unfold Dev.unbindDec
  simp only
  refine (settleLane_steady d l).trans (Steady.trans (ite_steady ?_ (Steady.refl _)) (modDec_steady _ _ _))
  split
  · exact ((raise_reports _ _ _).trans (trace_reports _ _ _ _ _ _)).steady
  · exact (raise_reports _ _ _).steady

theorem unbindEnc_steady (d : Dev) (l : Nat) : Steady d (d.unbindEnc l) :=
  ((Steady.refl d).foldl (fun d p => modPort_steady d p _)).trans (modEnc_steady _ _ _)

theorem unbindGroup_steady (d : Dev) (g : Nat) : Steady d (d.unbindGroup g) :=
  ((Steady.refl d).foldl unbindDec_steady).foldl unbindEnc_steady

theorem unbindAll_steady (d : Dev) : Steady d d.unbindAll := by
  unfold Dev.unbindAll
  refine Steady.foldl (Steady.foldl ?_ unbindDec_steady) unbindEnc_steady
  exact .of_eq rfl rfl rfl rfl

theorem endFades_steady (d : Dev) (p : Nat) : Steady d (d.endFades p) := by
  have ends : ∀ (d : Dev) (f : Port → Port) (id : Option Nat), Steady d ((d.modPort p f).finishOpt id stOk) :=
    fun d f id => (modPort_steady d p f).trans (finishOpt_reports _ _ _).steady
  unfold Dev.endFades
  dsimp only
  cases (d.port p).fade with
  | none =>
    cases (d.port p).swap with
    | none => exact Steady.refl d
    | some w => exact ends d _ _
  | some f =>
    cases (d.port p).swap with
    | none => exact ends d _ _
    | some w => exact (ends d _ _).trans (ends _ _ _)

/-! ### Maintenance requests, soundings, sets, switching operations and captures -/

theorem endJoined_steady {fin : Dev → Nat → Dev} (hf : ∀ d id, Steady d (fin d id)) (d : Dev) (ps : List Nat) :
    Steady d (d.endJoined ps fin) := by
  unfold Dev.endJoined
  refine Steady.foldl ?_ hf
  exact .of_eq rfl rfl rfl rfl

theorem flushMnt_steady (d : Dev) (ps : List Nat) : Steady d (d.flushMnt ps) := by
  have flushes : ∀ (d : Dev) (id : Nat), Steady d (d.finishSt id stFlushed) := fun d id => finishSt_steady d id _
  unfold Dev.flushMnt
  refine Steady.foldl (Steady.trans (Steady.foldl ?_ fun d r => ?_) (endJoined_steady flushes _ _)) flushes
  · exact .of_eq rfl rfl rfl rfl
  · exact .of_eq rfl rfl rfl rfl

theorem dropSessions_steady (d : Dev) (nh : Nat) : Steady d (d.dropSessions nh) := by
  unfold Dev.dropSessions
  refine Steady.foldl ?_ fun d s => (Steady.refl d).foldl fun d c => finishSt_steady d c _
  exact .of_eq rfl rfl rfl rfl

theorem stopSet_steady (d : Dev) (k : Nat) : Steady d (d.stopSet k) :=
  ite_steady (Steady.refl d) ((modMset_steady d k _).trans (finishOpt_reports _ _ _).steady)

/-- A set that no command stops. -/
theorem haltSet_none_steady (d : Dev) (k : Nat) : Steady d (d.haltSet k none) :=
  ite_steady (modMset_steady d k _) (stopSet_steady d k)

theorem endSwo_steady (d : Dev) (o : SwoOp) (st : Nat) : Steady d (d.endSwo o st) := by
  unfold Dev.endSwo
  refine Steady.trans ?_ (((modAcct_reports _ _ _).trans (finishBlock_reports _ _ _ _ _)).trans (mark_reports _ _)).steady
  exact .of_eq rfl rfl rfl rfl

theorem flushCapture_steady (d : Dev) : Steady d d.flushCapture := by
  unfold Dev.flushCapture
  split
  · exact Steady.refl d
  · refine Steady.trans ?_ (finishSt_steady _ _ _)
    split
    · refine Steady.trans ?_ ((raise_reports _ _ _).trans (count_reports _ _ _ _ _ _)).steady
      exact .of_eq rfl rfl rfl rfl
    · exact .of_eq rfl rfl rfl rfl

/-! ### Groups (01 R33, R34) -/

/-- A start that waits completes, and nothing else of the group changes. -/
theorem startDone_steady (d : Dev) (g st : Nat) :
    Steady (d.modGroup g (fun x => { x with startCmd := none })) (d.startDone g st) := by
  unfold Dev.startDone
  split
  · next h => exact (modGroup_steady rfl h.symm).symm
  · exact (finish_reports _ _ _ _).steady

theorem setGroup_steady (d : Dev) (g : Nat) (st : GroupState) :
    Steady (d.modGroup g (fun x => { x with st := st })) (d.setGroup g st) := by
  unfold Dev.setGroup
  simp only
  split
  · next h => exact (modGroup_steady h.symm rfl).symm
  · exact (event_reports _ _ _ _ _).steady

theorem toIdle_steady (d : Dev) (p : Nat) : Steady d (d.toIdle p) := modPort_steady d p _

/-- A group on its way down changes its own state alone of the groups' states. -/
theorem groupDown_steady (d : Dev) (g : Nat) :
    Steady (d.modGroup g (fun x => { x with st := .down })) (d.groupDown g) := by
  unfold Dev.groupDown
  split
  · next h => exact (modGroup_steady h.symm rfl).symm
  · refine Steady.foldl (Steady.trans ?_ (flushMnt_steady _ _)) dropSessions_steady
    refine Steady.foldl (Steady.foldl (Steady.trans ?_ (modGroup_steady rfl rfl)) toIdle_steady) endFades_steady
    exact ((setGroup_steady d g .down).foldl fun d p => modPort_steady d p _).trans (unbindGroup_steady _ g)

theorem groupDown_dev (d : Dev) (g : Nat) : (d.groupDown g).dev = d.dev := (groupDown_steady d g).dev
theorem startDone_dev (d : Dev) (g st : Nat) : (d.startDone g st).dev = d.dev := (startDone_steady d g st).dev

theorem groupDown_st (d : Dev) (g : Nat) : ((d.groupDown g).group g).st = .down := by
  rw [(groupDown_steady d g).st, group_modGroup_same]

theorem groupDown_sameCfg (d : Dev) (g : Nat) : SameCfg d (d.groupDown g) := fun o ho => (groupDown_steady d g).cfg o ho
theorem startDone_sameCfg (d : Dev) (g st : Nat) : SameCfg d (d.startDone g st) := fun o ho => (startDone_steady d g st).cfg o ho

/-- What leaving RUN ends changes no configuration register. -/
theorem endRun_sameCfg (d : Dev) : SameCfg d d.endRun := by
  have idle : ∀ x : Dev, SameCfg x { x with swoLvl := x.swoIdle, msync := { x.msync with step := 0 } } := fun _ _ _ => rfl
  have mutes : ∀ x : Dev, Steady x x.muteAll := fun _ => .of_eq rfl rfl rfl rfl
  have downs : ∀ (x : Dev) (g : Nat), SameCfg x (if (x.group g).st = .down then x else (x.startDone g stFlushed).groupDown g) :=
    fun x g => ite_sameCfg (fun _ => SameCfg.refl x) ((startDone_sameCfg x g _).trans (groupDown_sameCfg _ g))
  unfold Dev.endRun
  refine SameCfg.trans ?_ (idle _)
  refine (foldl_sameCfg _ downs (List.range 32) _).trans (Steady.cfg ?_)
  refine Steady.trans (Steady.foldl (Steady.foldl (Steady.foldl ?_ dropSessions_steady) haltSet_none_steady)
    fun d o => endSwo_steady d o stFlushed) (flushCapture_steady _)
  exact ((unbindAll_steady _).trans (flushMnt_steady _ _)).trans (mutes _)

/-! ### Nodes evicted and profiles changed (10 R269, 09 R229) -/

theorem freePools_steady (d : Dev) (g : Nat) (ps : List Pool) : Steady d (d.freePools g ps) := by
  unfold Dev.freePools
  refine Steady.trans (modGroup_steady (g := g) (f := fun x => { x with
    quota := x.quota - (ps.filter (fun p => decide (p = .quota))).length
    borrowed := x.borrowed - (ps.filter (fun p => decide (p = .shared))).length }) rfl rfl) ?_
  exact .of_eq rfl rfl rfl rfl

theorem consumed_reports (d : Dev) (q : Option Nat) (flushed : Bool) : Reports d (d.consumed q flushed) := by
  cases q with
  | none => exact Reports.refl d
  | some q => exact ite_reports ((modAcct_reports d _ _).trans (count_reports _ _ _ _ _ _)) (modAcct_reports d _ _)

/-- The end of an MSDU reaches its origin, and changes of its group the credits and counts alone. -/
theorem endMsdu_steady (d : Dev) (m : Msdu) (st : Nat) (report : Bool) : Steady d (d.endMsdu m st report) := by
  unfold Dev.endMsdu
  refine Steady.trans (Steady.trans ?_ (trace_reports _ _ _ _ _ _).steady) (markGroup_reports _ _).steady
  have seqs : ∀ x : Dev, Steady x (if m.sentOnce ∧ !m.bcast then
      x.modGroup m.grp (fun g => { g with seqDone := g.seqDone + 1 }) else x) :=
    fun x => ite_steady (modGroup_steady rfl rfl) (Steady.refl x)
  have counts : ∀ x : Dev, Steady x (if st = stNoAck ∧ !m.bcast then x.nodeCount m.nh 6 1 else x) :=
    fun x => ite_steady (modNode_steady x _ _) (Steady.refl x)
  refine Steady.trans ((((freePools_steady d m.grp (m.blocks.map (fun b => b.pool))).trans
    (consumed_reports _ m.queue (decide (st = stFlushed))).steady).trans (seqs _)).trans (counts _)) ?_
  cases m.origin with
  | host ring idx cookie => exact ite_steady (complete_reports _ _ _).steady (flushItem_reports _ _).steady
  | fwd ingress grp seq =>
    exact ite_steady ((raise_reports _ _ _).trans (event_reports _ _ _ _ _)).steady (Steady.refl _)
  | own code tag cmd => exact Steady.refl _

theorem updateUnsent_steady (d : Dev) (m : Msdu) : Steady d (d.updateUnsent m) := by
  unfold Dev.updateUnsent
  split
  · exact ite_steady (.of_eq rfl rfl rfl rfl) (Steady.refl d)
  · exact Steady.refl d

theorem ownFlushed_steady (d : Dev) (m : Msdu) : Steady d (d.ownFlushed m) := by
  unfold Dev.ownFlushed
  split
  · exact updateUnsent_steady d m
  · refine Steady.trans ?_ (finishOpt_reports _ _ _).steady
    exact .of_eq rfl rfl rfl rfl
  · exact (finishOpt_reports d _ _).steady
  · exact Steady.refl d

theorem flushMsdu_steady (d : Dev) (m : Msdu) : Steady d (d.flushMsdu m) :=
  (endMsdu_steady d m _ _).trans (ownFlushed_steady _ m)

theorem dropReasm_steady (d : Dev) (nh : Nat) : Steady d (d.dropReasm nh) := by
  unfold Dev.dropReasm
  dsimp only
  split
  · exact Steady.refl d
  · exact ((freePools_steady d _ _).trans (modNode_steady _ _ _)).trans (markGroup_reports _ _).steady

theorem flushNode_steady (d : Dev) (nh : Nat) : Steady d (d.flushNode nh) :=
  (modNode_steady d nh _).foldl flushMsdu_steady

theorem sendOwnBcast_steady (d : Dev) (g code tag : Nat) (body : List Byte) : Steady d (d.sendOwnBcast g code tag body) := by
  unfold Dev.sendOwnBcast
  refine Steady.trans (modGroup_steady (g := g) (f := fun x => { x with bq := x.bq ++
    [newMsdu d.nextId (.own code tag none) true 0 g true 0 false false (mgmtMsg code body) [] none] }) rfl rfl) ?_
  exact .of_eq rfl rfl rfl rfl

theorem emptySets_steady (d : Dev) (nh : Nat) : Steady d (d.emptySets nh) := .of_eq rfl rfl rfl rfl

theorem nodeState_steady (d : Dev) (nh : Nat) (st : NodeState) (reason : Nat) : Steady d (d.nodeState nh st reason) :=
  (modNode_steady d nh _).trans (event_reports _ _ _ _ _).steady

theorem evict_steady (d : Dev) (nh reason : Nat) : Steady d (d.evict nh reason) := by
  unfold Dev.evict
  have flushes : ∀ d : Dev, Steady d ((((d.dropReasm nh).flushNode nh).emptySets nh).dropSessions nh) := fun d =>
    (((dropReasm_steady d nh).trans (flushNode_steady _ nh)).trans (emptySets_steady _ nh)).trans (dropSessions_steady _ nh)
  refine Steady.trans ?_ (ite_steady (sendOwnBcast_steady _ _ _ _ _) (Steady.refl _))
  refine Steady.trans (Steady.trans (Steady.trans ?_ (modGroup_steady rfl rfl)) (modNode_steady _ _ _)) (flushes _)
  exact (nodeState_steady d nh _ _).trans (raise_reports _ _ _).steady

theorem modSess_steady (d : Dev) (id : Nat) (f : Sess → Sess) : Steady d (d.modSess id f) := .of_eq rfl rfl rfl rfl

theorem enqueueMnt_steady (d : Dev) (kind : Nat) (ps : List Nat) (cmd sess : Option Nat) :
    Steady d (d.enqueueMnt kind ps cmd sess) := .of_eq rfl rfl rfl rfl

theorem askSession_steady (d : Dev) (s : Sess) : Steady d (d.askSession s) := by
  unfold Dev.askSession
  refine ite_steady (Steady.refl d) ?_
  split
  · exact Steady.refl d
  · exact ite_steady (enqueueMnt_steady d _ _ _ _) (Steady.refl d)

theorem openSession_steady (d : Dev) (nh : Nat) (up : Bool) (segs : Nat) (mark : Option Nat) (cmds : List Nat) :
    Steady d (d.openSession nh up segs mark cmds) := by
  unfold Dev.openSession
  split
  · exact ite_steady (modSess_steady d _ _) (modSess_steady d _ _)
  · refine Steady.trans ?_ (askSession_steady _ _)
    exact .of_eq rfl rfl rfl rfl

theorem convertGroup_steady (d : Dev) (g : Nat) : Steady d (d.convertGroup g) := by
  unfold Dev.convertGroup
  refine Steady.foldl ?_ fun d i => openSession_steady d _ _ _ _ _
  exact .of_eq rfl rfl rfl rfl

theorem newProfile_steady (d : Dev) (g : Nat) : Steady d (d.newProfile g) :=
  ite_steady (Steady.refl d) (((Steady.foldl (Steady.refl d) fun d nh => evict_steady d nh 6).trans
    (convertGroup_steady _ g)).trans (modGroup_steady rfl rfl))

/-! ### Ports of a start (22 R502) -/

theorem startPort_steady (d : Dev) (p : Nat) : Steady d (d.startPort p) :=
  (((modPort_steady d p _).trans (modPort_steady _ p _)).trans (modPort_steady _ p _))

/-- A port in converter calibration: muted, its canceller in IDLE. -/
def Port.inCal (x : Port) : Prop := x.calib = true ∧ x.enabled = false ∧ x.ech = .idle

theorem startPort_inCal (d : Dev) (p : Nat) : ((d.startPort p).port p).inCal := by
  simp [Dev.startPort, Dev.startCal, Dev.toIdle, Port.inCal]

theorem startPort_keeps_inCal {d : Dev} {q : Nat} (h : (d.port q).inCal) (p : Nat) : ((d.startPort p).port q).inCal := by
  by_cases e : q = p
  · rw [e]; exact startPort_inCal d p
  · have same : (d.startPort p).port q = d.port q := by
      simp only [Dev.startPort, Dev.startCal, Dev.toIdle, port_modPort_ne e]
    rwa [same]

theorem startPorts_inCal (ps : List Nat) (d : Dev) {q : Nat} (h : q ∈ ps ∨ (d.port q).inCal) :
    ((ps.foldl (fun d p => d.startPort p) d).port q).inCal := by
  induction ps generalizing d with
  | nil => exact h.resolve_left (by simp)
  | cons p ps ih =>
    rw [List.foldl_cons]
    apply ih
    rcases h with h | h
    · rcases List.mem_cons.1 h with rfl | h
      · exact .inr (startPort_inCal d q)
      · exact .inl h
    · exact .inr (startPort_keeps_inCal h p)

/-- The enabled ports of a group are read from its `GRP_CTRL`. -/
theorem SameCfg.enabledPorts {a b : Dev} (h : SameCfg a b) {g : Nat} (hg : g < 32) : b.enabledPorts g = a.enabledPorts g := by
  refine List.filter_congr fun p hp => ?_
  have hpg : portGroup p = g := by
    simp only [groupPorts, List.mem_cons, List.not_mem_nil, or_false] at hp
    unfold portGroup; omega
  have hs : statusOff (Reg.grpCtrl g) = false := statusOff_group (o := 0) hg (by omega)
  simp only [Dev.portEn, Dev.flag, hpg, h _ hs]

/-- A group one of whose enabled ports is in calibration is not judged yet. -/
theorem judgeCal_of_calib {d : Dev} {g p : Nat} (hp : p ∈ d.enabledPorts g) (hc : (d.port p).calib = true) :
    d.judgeCal g = d := by
  have hall : (d.enabledPorts g).all (fun p => !(d.port p).calib) = false :=
    List.all_eq_false.2 ⟨p, hp, by simp [hc]⟩
  have hend : d.calEnded g = false := by simp [Dev.calEnded, hall]
  exact if_neg fun h => by simp [hend] at h

/-- What a start does once the group is CALIBRATING: another profile is taken up, the occupancy buckets start full, and converter
calibration begins on every enabled port. -/
def Dev.startPorts (d : Dev) (g : Nat) : Dev :=
  let d := (groupPorts g).foldl (fun d p => d.fillBuckets p) (d.newProfile g)
  (d.enabledPorts g).foldl (fun d p => d.startPort p) d

/-- A group begins its start: CALIBRATING, for a command that waits. -/
def Dev.beginStart (d : Dev) (g id : Nat) : Dev :=
  (d.modGroup g (fun x => { x with startCmd := some id, calBp := none })).setGroup g .calibrating

theorem beginStart_dev (d : Dev) (g id : Nat) : (d.beginStart g id).dev = d.dev := (setGroup_steady _ g .calibrating).dev

theorem beginStart_sameCfg (d : Dev) (g id : Nat) : SameCfg d (d.beginStart g id) :=
  fun o ho => (setGroup_steady _ g .calibrating).cfg o ho

theorem beginStart_group (d : Dev) (g id : Nat) :
    ((d.beginStart g id).group g).st = .calibrating ∧ ((d.beginStart g id).group g).startCmd = some id := by
  have h := setGroup_steady (d.modGroup g (fun x => { x with startCmd := some id, calBp := none })) g .calibrating
  have hst := h.st g
  have hcmd := h.startCmd g
  rw [group_modGroup_same] at hst hcmd
  rw [group_modGroup_same] at hcmd
  exact ⟨hst, hcmd⟩

theorem fillBuckets_steady (d : Dev) (p : Nat) : Steady d (d.fillBuckets p) := by
  unfold Dev.fillBuckets
  exact modPort_steady d p _

theorem buckets_steady (d : Dev) (g : Nat) :
    Steady d ((groupPorts g).foldl (fun d p => d.fillBuckets p) (d.newProfile g)) :=
  (newProfile_steady d g).foldl fillBuckets_steady

theorem startPorts_steady (d : Dev) (g : Nat) : Steady d (d.startPorts g) :=
  (buckets_steady d g).foldl startPort_steady

theorem port_startPorts_inCal {d : Dev} {g p : Nat} (hg : g < 32) (hp : p ∈ d.enabledPorts g) :
    ((d.startPorts g).port p).inCal := by
  refine startPorts_inCal _ _ (.inl ?_)
  rwa [(buckets_steady d g).cfg.enabledPorts hg]

/-- A start with an enabled port is not judged before that port's calibration has ended. -/
theorem judgeCal_startPorts {d : Dev} {g : Nat} (hg : g < 32) (h : d.enabledPorts g ≠ []) :
    (d.startPorts g).judgeCal g = d.startPorts g := by
  obtain ⟨p, hp⟩ := List.exists_mem_of_ne_nil _ h
  have hcal := (port_startPorts_inCal hg hp).1
  exact judgeCal_of_calib (by rwa [(startPorts_steady d g).cfg.enabledPorts hg]) hcal

/-! ### Commands as steps (16 R392-R396) -/

/-- A command that has been fetched is outstanding. -/
theorem fetchCmd_outstanding (d : Dev) (c : CmdDesc) : ((d.fetchCmd c).cmdOf d.nextId).isSome = true := by
  have hcmds : ∃ x : Cmd, x.id = d.nextId ∧ (d.fetchCmd c).cmds = d.cmds ++ [x] :=
    ⟨_, rfl, (mark_quiet _ 12).2.1⟩
  obtain ⟨x, hx, hcmds⟩ := hcmds
  rw [Dev.cmdOf, hcmds, List.find?_isSome]
  exact ⟨x, by simp, by simp [hx]⟩

theorem fetched_outstanding (s : State) (c : CmdDesc) :
    ((s.dev.fresh.fetchCmd c).cmdOf s.dev.nextId).isSome = true := fetchCmd_outstanding s.dev.fresh c

theorem cmdOf_setReg (d : Dev) (off v id : Nat) : (d.setReg off v).cmdOf id = d.cmdOf id := rfl
theorem cmdOf_setFld (d : Dev) (off hi lo v id : Nat) : (d.setFld off hi lo v).cmdOf id = d.cmdOf id := rfl

/-- A command that has been finished is not outstanding after the step either. -/
theorem finishSt_ended (d : Dev) (id st : Nat) : (d.finishSt id st).fresh.cmdOf id = none := finish_ended d id st []

theorem fresh_steady (d : Dev) : Steady d d.fresh := (fresh_reports d).steady

section
variable {s : State} {c : CmdDesc} {sp : CmdSpec} (h : Accepted s c sp) {obj arg : Dev → CmdDesc → Bool}
  (ho : obj s.dev.fresh c = true) (ha : arg s.dev.fresh c = true) {eff : Nat → CmdDesc → Dev → Dev}
include h ho ha

/-- An accepted command ends in the device that its row's effect gives, the queue as it stood. -/
theorem command_next :
    ∃ t, run (command sp obj arg eff c) s = .next t ∧ t.pending = s.pending ∧
      t.dev = (eff s.dev.nextId c (s.dev.fresh.fetchCmd c)).fresh := by
  rw [run_next, command_accepted h ho ha]
  exact ⟨_, rfl, rfl, rfl⟩

/-- An accepted command whose effect ends in its completion is served. -/
theorem command_serves {d e : Dev} {st : Nat} {q : List Byte}
    (heff : eff s.dev.nextId c (s.dev.fresh.fetchCmd c) = d.finish s.dev.nextId st q) (hr : Reports e d)
    (hc : (d.cmdOf s.dev.nextId).isSome = true) : Serves (run (command sp obj arg eff c) s) s e st q := by
  rw [run_next, command_accepted h ho ha, heff]
  exact ⟨_, d, rfl, rfl, hr, hc, rfl, rfl⟩

end

/-- A command that only RUN takes has been accepted in RUN. -/
theorem Accepted.run {s : State} {c : CmdDesc} {sp : CmdSpec} (h : Accepted s c sp)
    (hs : cmdStates sp.opc = some (false, true, false)) : s.dev.dev = .run := by
  obtain ⟨-, -, -, hacc, -⟩ := h
  unfold Dev.accepts at hacc
  rw [hs] at hacc
  cases hd : s.dev.dev <;> simp [hd] at hacc
  rfl

/-- The object that an accepted command names is within the row's bound. -/
theorem Accepted.n2_lt {s : State} {c : CmdDesc} {sp : CmdSpec} (h : Accepted s c sp) : c.n2 < sp.lim2 := by
  obtain ⟨-, -, -, -, -, -, hargs⟩ := h
  simp only [argsOk, Bool.and_eq_true, decide_eq_true_iff] at hargs
  exact hargs.1.2.2

/-! ### DEV_START (01 R31, 02 R55) -/

/-- The change of state is reported, and nothing else. -/
theorem setDev_quiet (d : Dev) (st : DevState) (cause : Nat) : Quiet { d with dev := st } (d.setDev st cause) :=
  event_quiet _ _ _ _ _

/-- `b` is `a` but for the marks on its keys, what its slots see of them, and reports. -/
def Marks (a b : Dev) : Prop := Quiet { a with keys := b.keys, encs := b.encs } b

theorem Marks.refl (a : Dev) : Marks a a := Quiet.refl a

theorem Quiet.marks {a b : Dev} (h : Quiet a b) : Marks a b := by
  have hk : b.keys = a.keys := h.1.keys
  have he : b.encs = a.encs := h.1.encs
  rwa [Marks, hk, he]

theorem Marks.trans {a b c : Dev} (h : Marks a b) (k : Marks b c) : Marks a c :=
  ⟨((h.1.set_keys c.keys).set_encs c.encs).trans k.1, k.2.1.trans h.2.1, k.2.2.trans h.2.2⟩

theorem Quiet.cmdOf {a b : Dev} (h : Quiet a b) (id : Nat) : b.cmdOf id = a.cmdOf id := by
  obtain ⟨-, hcmds, -⟩ := h
  unfold Dev.cmdOf
  rw [hcmds]

theorem foldl_marks {α : Type} {f : Dev → α → Dev} (hf : ∀ d a, Marks d (f d a)) (l : List α) :
    ∀ d, Marks d (l.foldl f d) := by
  induction l with
  | nil => exact Marks.refl
  | cons a l ih => exact fun d => (hf d a).trans (ih _)

theorem modKey_marks (d : Dev) (i : Nat) (f : MapKey → MapKey) : Marks d (d.modKey i f) := Quiet.refl _
theorem lookAgain_marks (d : Dev) : Marks d d.lookAgain := Quiet.refl _

theorem markStale_marks (d : Dev) (ks : List Nat) (cause obj seg dirs grp : Nat) :
    Marks d (d.markStale ks cause obj seg dirs grp) := by
  unfold Dev.markStale
  split
  · exact Marks.refl d
  · refine Marks.trans (Marks.trans (foldl_marks ?_ ks d) (lookAgain_marks _)) (event_quiet _ _ _ _ _).marks
    exact fun d i => (modKey_marks d i _).trans (raise_quiet _ _ _).marks

theorem markBounds_marks (d : Dev) : Marks d d.markBounds := by
  unfold Dev.markBounds
  split
  · exact markStale_marks d _ _ _ _ _ _
  · exact Marks.refl d

theorem markBounds_of_same {d : Dev} (h : d.segPrev = [] ∨ d.segPrev = d.segSet) : d.markBounds = d :=
  if_neg fun e => h.elim e.1 e.2

theorem statusOff_segb {neg : Bool} {k : Nat} (hk : k < 7) :
    statusOff (if neg then Reg.mptSegbN k else Reg.mptSegbP k) = false := by
  revert neg k
  decide

/-- The boundary set lies in configuration registers. -/
theorem SameCfg.segSet {a b : Dev} (h : SameCfg a b) : b.segSet = a.segSet := by
  have hbound : ∀ neg k, k < 7 → b.bound neg (k + 1) = a.bound neg (k + 1) := by
    intro neg k hk
    simp only [Dev.bound, Nat.add_one_ne_zero, if_false, Nat.add_sub_cancel, Dev.fld, h _ (statusOff_segb hk)]
  unfold Dev.segSet
  congr 1 <;> exact List.map_congr_left fun k hk => hbound _ k (List.mem_range.1 hk)

/-- The commit of the running image begins at most once, and touches nothing else. -/
theorem beginCommit_eq (d : Dev) : d.beginCommit = { d with sec := d.beginCommit.sec } := by
  unfold Dev.beginCommit
  split <;> rfl

theorem beginCommit_started (d : Dev) : d.beginCommit.sec.started = true := by
  unfold Dev.beginCommit
  split
  · assumption
  · rfl

/-- The device that DEV_START leaves, its completion apart. -/
def Dev.started (d : Dev) : Dev :=
  let d := (d.setDev .run 0).markBounds
  { d with segPrev := d.segSet }.beginCommit

/-- What DEV_START changes: the state, the boundary set of the last RUN, the commit begun, and marks where that set is another. -/
theorem started_quiet (d : Dev) :
    Quiet { d with dev := .run, segPrev := d.segSet, sec := d.started.sec, keys := d.started.keys, encs := d.started.encs }
      d.started := by
  have hmarks : Marks { d with dev := .run } (d.setDev .run 0).markBounds :=
    (setDev_quiet d .run 0).marks.trans (markBounds_marks _)
  have hseg : (d.setDev .run 0).markBounds.segSet = d.segSet := SameCfg.segSet (a := d) hmarks.1.2
  have heq := beginCommit_eq { (d.setDev .run 0).markBounds with segPrev := (d.setDev .run 0).markBounds.segSet }
  unfold Dev.started
  dsimp only
  rw [heq, hseg]
  exact ⟨(hmarks.1.set_segPrev _).set_sec _, hmarks.2⟩

theorem started_begun (d : Dev) : d.started.sec.started = true := beginCommit_started _

/-- Under the boundary set of the last RUN, or at the first one (log 8), DEV_START marks nothing. -/
theorem started_of_same {d : Dev} (h : d.segPrev = [] ∨ d.segPrev = d.segSet) :
    Reports { d with dev := .run, segPrev := d.segSet, sec := d.started.sec } d.started := by
  have hset := (setDev_quiet d .run 0).1
  have hseg : (d.setDev .run 0).segSet = d.segSet := SameCfg.segSet (a := d) hset.2
  have hsame : (d.setDev .run 0).markBounds = d.setDev .run 0 :=
    markBounds_of_same (by rw [hset.segPrev, hseg]; exact h)
  have heq := beginCommit_eq { d.setDev .run 0 with segPrev := d.segSet }
  unfold Dev.started
  dsimp only
  rw [hsame, hseg, heq]
  exact (hset.set_segPrev _).set_sec _

/-! ### DEV_STOP (01 R31, R34) -/

/-- Leaving RUN leaves the switching outputs at their idle levels, and no MSYNC step. -/
theorem endRun_outputs (d : Dev) : d.endRun.swoLvl = d.swoIdle ∧ d.endRun.msync.step = 0 := by
  obtain ⟨x, hx⟩ : ∃ x : Dev, d.endRun = { x with swoLvl := x.swoIdle, msync := { x.msync with step := 0 } } := ⟨_, rfl⟩
  have hcfg : SameCfg d x := by
    have h := endRun_sameCfg d
    rwa [hx] at h
  rw [hx]
  refine ⟨?_, rfl⟩
  simp only [Dev.swoIdle, Dev.fld, hcfg Reg.swoCtrl (by decide)]

/-! ### The reset of the die (21 R485, 03 Table LP.10) -/

theorem flushCommands_steady (d : Dev) (but : Nat) : Steady d (d.flushCommands but) :=
  ((Steady.refl d).foldl fun d o => endSwo_steady d o _).foldl fun d c => finishSt_steady d c.id _

theorem refreshStatus_steady (d : Dev) : Steady d d.refreshStatus :=
  (Steady.refl d).foldl fun d k => ite_steady (writeStatus_reports d k).steady (Steady.refl d)

/-- In BOOT after a reset with a cause: no command outstanding, every ring disabled, every driver muted. -/
structure Cleared (cause : Nat) (d : Dev) : Prop where
  dev : d.dev = .boot
  cmds : d.cmds = []
  rings : d.rings = []
  muted : ∀ p, (d.port p).enabled = false
  cause : d.pwr.cause = cause

theorem Cleared.ring {cause : Nat} {d : Dev} (h : Cleared cause d) (k : Nat) : (d.ring k).st = .disabled := by
  unfold Dev.ring
  rw [h.rings]
  rfl

theorem resetDie_muted (d : Dev) (p : Nat) : (d.resetDie.port p).enabled = false := by
  have hports : d.resetDie.port p =
      SMap.get (fun _ => Port.init) p (d.ports.map (fun e => (e.1, { Port.init with temp := e.2.temp }))) := rfl
  rw [hports]
  induction d.ports with
  | nil => rfl
  | cons e es ih =>
    rw [List.map_cons, SMap.get]
    split
    · rfl
    · exact ih

theorem level3_cleared (d : Dev) (cause : Nat) : Cleared cause (d.level3 cause) :=
  ⟨rfl, rfl, rfl, resetDie_muted d, rfl⟩

/-- What the boot ROM leaves alone: the state, the ports, the rings, the commands, the cause of the reset and the configuration. -/
structure RomKeeps (a b : Dev) : Prop where
  dev : b.dev = a.dev
  ports : b.ports = a.ports
  cmds : b.cmds = a.cmds
  rings : b.rings = a.rings
  cause : b.pwr.cause = a.pwr.cause
  cfg : SameCfg a b

theorem RomKeeps.refl (a : Dev) : RomKeeps a a := ⟨rfl, rfl, rfl, rfl, rfl, SameCfg.refl a⟩

theorem RomKeeps.trans {a b c : Dev} (h : RomKeeps a b) (k : RomKeeps b c) : RomKeeps a c :=
  ⟨k.dev.trans h.dev, k.ports.trans h.ports, k.cmds.trans h.cmds, k.rings.trans h.rings, k.cause.trans h.cause,
    h.cfg.trans k.cfg⟩

theorem ite_romKeeps {d a b : Dev} {p : Prop} [Decidable p] (ha : RomKeeps d a) (hb : RomKeeps d b) :
    RomKeeps d (if p then a else b) := by split <;> assumption

theorem count_rings (d : Dev) (bank src b : Nat) (slot : Option Nat) (n : Nat) :
    (d.count bank src b slot n).rings = d.rings := by
  unfold Dev.count
  dsimp only
  split <;> rfl

theorem count_romKeeps (d : Dev) (bank src b : Nat) (slot : Option Nat) (n : Nat) :
    RomKeeps d (d.count bank src b slot n) := by
  obtain ⟨hr, hc, -⟩ := count_quiet d bank src b slot n
  exact ⟨hr.dev, hr.ports, hc, count_rings d _ _ _ _ _, by rw [hr.pwr], hr.2⟩

theorem raise_romKeeps (d : Dev) (r : Src) (b : Nat) : RomKeeps d (d.raise r b) := by
  have hset : RomKeeps d (d.setFld r.off b b 1) :=
    ⟨rfl, rfl, rfl, rfl, rfl, (setFld_reports (statusOff_src r) d b b 1).2⟩
  exact hset.trans (count_romKeeps _ _ _ _ _ _)

theorem set_sec_romKeeps (d : Dev) (x : Sec) : RomKeeps d { d with sec := x } := ⟨rfl, rfl, rfl, rfl, rfl, fun _ _ => rfl⟩

theorem settleDebug_romKeeps (d : Dev) (io : BootIo) : RomKeeps d (d.settleDebug io) := by
  unfold Dev.settleDebug
  exact ite_romKeeps ((set_sec_romKeeps d _).trans (raise_romKeeps _ _ _)) (set_sec_romKeeps d _)

theorem trySource_romKeeps (d : Dev) (x : Nat × BootSrc) : RomKeeps d (d.trySource x) := by
  have copies : ∀ (p : Prop) [Decidable p] (y : Sec), RomKeeps d (if p then { d with sec := y } else d) :=
    fun p _ y => ite_romKeeps (set_sec_romKeeps d y) (RomKeeps.refl d)
  unfold Dev.trySource
  split
  · exact RomKeeps.refl d
  · dsimp only
    split
    · exact (copies _ _).trans (set_sec_romKeeps _ _)
    · exact ((copies _ _).trans (set_sec_romKeeps _ _)).trans (count_romKeeps _ _ _ _ _ _)

theorem foldl_trySource_romKeeps (l : List (Nat × BootSrc)) : ∀ d : Dev, RomKeeps d (l.foldl Dev.trySource d) := by
  induction l with
  | nil => exact RomKeeps.refl
  | cons x l ih => exact fun d => (trySource_romKeeps d x).trans (ih _)

theorem runRom_romKeeps (d : Dev) (io : BootIo) : RomKeeps d (d.runRom io) := by
  unfold Dev.runRom
  have trng : ∀ x : Dev, RomKeeps x (if io.trngOk then x else x.raise .sec 3) :=
    fun x => ite_romKeeps (RomKeeps.refl x) (raise_romKeeps x _ _)
  refine RomKeeps.trans ?_ (ite_romKeeps (set_sec_romKeeps _ _)
    (((settleDebug_romKeeps _ io).trans (set_sec_romKeeps _ _)).trans (foldl_trySource_romKeeps _ _)))
  refine RomKeeps.trans ?_ (trng _)
  exact ⟨rfl, rfl, rfl, rfl, rfl, fun _ _ => rfl⟩

theorem startRom_romKeeps (d : Dev) (io : BootIo) : RomKeeps d (d.startRom io) :=
  ite_romKeeps (set_sec_romKeeps d _) (runRom_romKeeps d io)

theorem RomKeeps.port {a b : Dev} (h : RomKeeps a b) (p : Nat) : b.port p = a.port p := by
  unfold Dev.port
  rw [h.ports]

theorem RomKeeps.cleared {a b : Dev} (h : RomKeeps a b) {cause : Nat} (k : Cleared cause a) : Cleared cause b :=
  ⟨h.dev.trans k.dev, h.cmds.trans k.cmds, h.rings.trans k.rings, fun p => by rw [h.port, k.muted], h.cause.trans k.cause⟩

/-! ### Derating at the release of reset (03 Table LP.10) -/

theorem statusOff_portCfg {g s : Nat} (hg : g < 32) (hs : s < 4) : statusOff (Reg.portCfg g s) = false := by
  have e : Reg.portCfg g s = 0x100000 + (0x100 + s * 0x40) + g * 0x10000 := by unfold Reg.portCfg; omega
  rw [e, statusOff_group hg (by omega)]
  rcases lt_four_cases hs with rfl | rfl | rfl | rfl <;> rfl

/-- The derating that a VIN calls for is read from the port's `PORT_CFG`. -/
theorem SameCfg.derateFor {a b : Dev} (h : SameCfg a b) {p : Nat} (hp : p < 128) (mv : Nat) :
    b.derateFor p mv = a.derateFor p mv := by
  have hs : statusOff (Reg.portCfg (portGroup p) (p % 4)) = false :=
    statusOff_portCfg (by unfold portGroup; omega) (mod4_lt p)
  have hrail : b.railMode p = a.railMode p := by simp only [Dev.railMode, Dev.fld, h _ hs]
  unfold Dev.derateFor Dev.ceiling
  rw [hrail]

/-- A port takes the `DERATE` that VIN calls for now. -/
def Dev.deratePort (d : Dev) (p : Nat) : Dev := d.modPort p (fun x => { x with derate := d.derateFor p d.pwr.vin })

/-- Every port takes the `DERATE` that VIN calls for now. -/
def Dev.derateAll (d : Dev) : Dev := (List.range 128).foldl Dev.deratePort d

theorem releaseReset_eq (d : Dev) (io : BootIo) : d.releaseReset io = d.derateAll.startRom io := rfl

theorem deratePort_cleared {d : Dev} {cause : Nat} (h : Cleared cause d) (p : Nat) : Cleared cause (d.deratePort p) := by
  refine ⟨h.dev, h.cmds, h.rings, fun q => ?_, h.cause⟩
  by_cases e : q = p
  · rw [e, Dev.deratePort, port_modPort_same]
    exact h.muted p
  · rw [Dev.deratePort, port_modPort_ne e]
    exact h.muted q

theorem deratePort_sameCfg (d : Dev) (p : Nat) : SameCfg d (d.deratePort p) := fun _ _ => rfl

theorem foldl_deratePort_cleared (ps : List Nat) {d : Dev} {cause : Nat} (h : Cleared cause d) :
    Cleared cause (ps.foldl Dev.deratePort d) := by
  induction ps generalizing d with
  | nil => exact h
  | cons p ps ih => exact ih (deratePort_cleared h p)

theorem foldl_deratePort_derate (ps : List Nat) (d : Dev) {q : Nat}
    (h : q ∈ ps ∨ (d.port q).derate = d.derateFor q d.pwr.vin) :
    ((ps.foldl Dev.deratePort d).port q).derate = d.derateFor q d.pwr.vin := by
  induction ps generalizing d with
  | nil => exact h.resolve_left (by simp)
  | cons p ps ih =>
    have hnext : q ∈ ps ∨ ((d.deratePort p).port q).derate = d.derateFor q d.pwr.vin := by
      by_cases e : q = p
      · exact .inr (by rw [e, Dev.deratePort, port_modPort_same])
      · rw [Dev.deratePort, port_modPort_ne e]
        exact h.imp_left fun hm => (List.mem_cons.1 hm).resolve_left e
    exact ih (d.deratePort p) hnext

/-- Released from reset, a cleared device stays so, with every port's `DERATE` set for VIN. -/
theorem releaseReset_cleared {d : Dev} {cause : Nat} (h : Cleared cause d) (io : BootIo) :
    Cleared cause (d.releaseReset io) ∧
      ∀ p, p < 128 → ((d.releaseReset io).port p).derate = (d.releaseReset io).derateFor p d.pwr.vin := by
  have hrom := startRom_romKeeps d.derateAll io
  have hcfg : SameCfg d d.derateAll := foldl_sameCfg Dev.deratePort deratePort_sameCfg (List.range 128) d
  rw [releaseReset_eq]
  refine ⟨hrom.cleared (foldl_deratePort_cleared (List.range 128) h), fun p hp => ?_⟩
  rw [hrom.port, (hcfg.trans hrom.cfg).derateFor hp, Dev.derateAll]
  exact foldl_deratePort_derate (List.range 128) d (.inl (List.mem_range.2 hp))

/-- The reset of the die that DEV_RESET begins: with PERST# high, reset is released at once. -/
def Dev.commandedReset (d : Dev) (io : BootIo) : Dev :=
  let d := d.level3 2
  let d := { d with pwr := { d.pwr with training := d.pwr.perst } }
  if d.pwr.perst then d.releaseReset io else d

theorem commandedReset_cleared (d : Dev) (io : BootIo) :
    Cleared 2 (d.commandedReset io) ∧ (d.pwr.perst = true → ∀ p, p < 128 →
      ((d.commandedReset io).port p).derate = (d.commandedReset io).derateFor p d.pwr.vin) := by
  have hreset := level3_cleared d 2
  have htrain : Cleared 2 { d.level3 2 with pwr := { (d.level3 2).pwr with training := (d.level3 2).pwr.perst } } :=
    ⟨hreset.dev, hreset.cmds, hreset.rings, hreset.muted, hreset.cause⟩
  unfold Dev.commandedReset
  dsimp only
  split
  · exact ⟨(releaseReset_cleared htrain io).1, fun _ => (releaseReset_cleared htrain io).2⟩
  · next hperst => exact ⟨htrain, fun h => absurd h hperst⟩

/-! ### The effects of the commands -/

theorem exec_devStart (c : CmdDesc) (s : State) : exec (.devStart c) s =
    run (command (CmdSpec.plain 0x01) always always (fun id _ d => d.started.finishSt id stOk) c) s := rfl

theorem exec_devStop (c : CmdDesc) (s : State) : exec (.devStop c) s =
    run (command (CmdSpec.plain 0x02) always always (fun id _ d => (d.endRun.setDev .config 0).finishSt id stOk) c) s := rfl

theorem exec_devReset (c : CmdDesc) (io : BootIo) (s : State) : exec (.devReset c io) s =
    run (command { CmdSpec.plain 0x03 with m2 := 0xFFFF } always (fun _ c => decide (c.n2 = 3))
      (fun id _ d => ((d.flushCommands id).finishSt id stOk).refreshStatus.commandedReset io) c) s := rfl

theorem exec_grpSetup (c : CmdDesc) (s : State) : exec (.grpSetup c) s =
    run (command { CmdSpec.plain 0x10 with m1 := 0x77773FFF, m2 := 0xFFFF, lim2 := 32 }
      (fun d c => decide ((d.group c.n2).st = .down)) (fun _ c => decide (c.f1 3 2 ≠ 3) && rolesOk (c.f1 31 16))
      (fun id c d => (((((d.setFld (Reg.wfCtrl c.n2) 1 0 (c.f1 1 0)).setFld (Reg.grpCtrl c.n2) 1 0 (c.f1 3 2)).setFld
        (Reg.grpCtrl c.n2) 11 8 (c.f1 7 4)).setFld (Reg.ffCtrl c.n2) 21 16 (c.f1 13 8)).setReg (Reg.grpRole c.n2)
        (c.f1 30 16)).finishSt id stOk) c) s := rfl

theorem exec_grpStart (c : CmdDesc) (s : State) : exec (.grpStart c) s =
    run (command { CmdSpec.plain 0x11 with m2 := 0xFFFF, lim2 := 32 } (fun d c => decide ((d.group c.n2).st = .down)) always
      (fun id c d => ((d.beginStart c.n2 id).startPorts c.n2).judgeCal c.n2) c) s := rfl

theorem exec_grpStop (c : CmdDesc) (s : State) : exec (.grpStop c) s =
    run (command { CmdSpec.plain 0x12 with m2 := 0xFFFF, lim2 := 32 } always always
      (fun id c d => ((d.startDone c.n2 stFlushed).groupDown c.n2).finishSt id stOk) c) s := rfl

/-! ### The statements -/

/-- Settles O2: unlisted units stand at their `init`, and unlisted registers at their reset words. -/
theorem resetLeavesDeviceOff : Obligations.ResetLeavesDeviceOff := by
  have hgroups : ∀ g, g < 32 → State.reset.dev.reg (Reg.grpRole g) = 0x3210 ∧ State.reset.dev.reg (Reg.grpCtrl g) = 0xF00 ∧
      ∀ s, s < 4 → State.reset.dev.reg (Reg.portStat g s) = 0 := by decide
  exact ⟨rfl, rfl, rfl, fun _ => rfl, fun _ => rfl, fun _ => rfl, fun _ => rfl, rfl, rfl, rfl, rfl, rfl, rfl, hgroups⟩

/-- DEV_START is served with the effect `Dev.started`. -/
theorem devStart_serves {s : State} {c : CmdDesc} (h : Accepted s c (CmdSpec.plain 0x01)) :
    Serves (exec (.devStart c) s) s (s.dev.fresh.fetchCmd c).started stOk [] := by
  rw [exec_devStart]
  refine command_serves (d := (s.dev.fresh.fetchCmd c).started) h rfl rfl rfl (Reports.refl _) ?_
  rw [(started_quiet _).cmdOf]
  exact fetched_outstanding s c

/-- DEV_STOP ends in CONFIG with the outputs at their idle levels. -/
theorem devStop_next {s : State} {c : CmdDesc} (h : Accepted s c (CmdSpec.plain 0x02)) :
    ∃ t, exec (.devStop c) s = .next t ∧ t.pending = s.pending ∧ Ended s t ∧ t.dev.dev = .config ∧
      t.dev.swoLvl = s.dev.fld Reg.swoCtrl 15 0 ∧ t.dev.msync.step = 0 := by
  rw [exec_devStop]
  obtain ⟨t, ht, hp, hdev⟩ := command_next h (obj := always) (arg := always) rfl rfl
    (eff := fun id _ d => (d.endRun.setDev .config 0).finishSt id stOk)
  obtain ⟨hlvl, hstep⟩ := endRun_outputs (s.dev.fresh.fetchCmd c)
  have hset := ((setDev_quiet (s.dev.fresh.fetchCmd c).endRun .config 0).1.trans
    (finishSt_reports _ s.dev.nextId stOk)).trans (fresh_reports _)
  have hidle : (s.dev.fresh.fetchCmd c).swoIdle = s.dev.fld Reg.swoCtrl 15 0 := (fetched_reports s c).fld (by decide) 15 0
  refine ⟨t, ht, hp, ?_⟩
  rw [Ended, hdev]
  exact ⟨finishSt_ended _ _ _, hset.dev, hset.swoLvl.trans (hlvl.trans hidle), (congrArg Msync.step hset.msync).trans hstep⟩

/-- DEV_RESET with level 3 ends in the commanded reset of a device under the same supply. -/
theorem devReset_next {s : State} {c : CmdDesc} (io : BootIo) (h : Accepted s c { CmdSpec.plain 0x03 with m2 := 0xFFFF })
    (hl : c.n2 = 3) :
    ∃ (t : State) (d : Dev), exec (.devReset c io) s = .next t ∧ t.pending = s.pending ∧ t.dev = (d.commandedReset io).fresh ∧
      d.pwr = s.dev.pwr := by
  rw [exec_devReset]
  obtain ⟨t, ht, hp, hdev⟩ := command_next h (obj := always) rfl (arg := fun _ c => decide (c.n2 = 3)) (decide_eq_true hl)
    (eff := fun id _ d => ((d.flushCommands id).finishSt id stOk).refreshStatus.commandedReset io)
  have hflush := (((fetched_reports s c).steady.trans (flushCommands_steady _ s.dev.nextId)).trans
    (finishSt_steady _ s.dev.nextId stOk)).trans (refreshStatus_steady _)
  exact ⟨t, _, ht, hp, hdev, hflush.pwr⟩

/-- Settles O16: the device that each of the three commands leaves. -/
theorem startStopReset : Obligations.StartStopReset := by
  intro s c
  refine ⟨fun h => ?_, devStop_next, fun io h hl => ?_⟩
  · have hf := fetched_reports s c
    have hq := (started_quiet (s.dev.fresh.fetchCmd c)).1
    have hseg := SameCfg.segSet hf.2
    refine ⟨_, devStart_serves h, hq.dev, hq.segPrev.trans hseg, started_begun _, hq.tb.trans hf.tb,
      hq.msync.trans hf.msync, hq.ports.trans hf.ports, hq.groups.trans hf.groups, fun hsame => ?_⟩
    have hstart := started_of_same (d := s.dev.fresh.fetchCmd c) (by rw [hf.segPrev, hseg]; exact hsame)
    rw [hseg] at hstart
    exact (((hf.set_dev .run).set_segPrev _).set_sec _).trans hstart
  · obtain ⟨t, d, ht, hp, hdev, hpwr⟩ := devReset_next io h hl
    obtain ⟨hclear, hderate⟩ := commandedReset_cleared d io
    rw [hpwr] at hderate
    refine ⟨t, ht, hp, ?_⟩
    rw [hdev]
    exact ⟨hclear.dev, hclear.cmds, hclear.ring, hclear.muted, hclear.cause, hderate⟩

/-- GRP_SETUP writes the fields that its arguments name. -/
theorem grpSetup_serves {s : State} {c : CmdDesc}
    (h : Accepted s c { CmdSpec.plain 0x10 with m1 := 0x77773FFF, m2 := 0xFFFF, lim2 := 32 })
    (hdown : (s.dev.group c.n2).st = .down) (hcpl : c.f1 3 2 ≠ 3) (hroles : rolesOk (c.f1 31 16) = true) :
    Serves (exec (.grpSetup c) s) s
      (((((s.dev.setFld (Reg.wfCtrl c.n2) 1 0 (c.f1 1 0)).setFld (Reg.grpCtrl c.n2) 1 0 (c.f1 3 2)).setFld
        (Reg.grpCtrl c.n2) 11 8 (c.f1 7 4)).setFld (Reg.ffCtrl c.n2) 21 16 (c.f1 13 8)).setReg (Reg.grpRole c.n2) (c.f1 30 16))
      stOk [] := by
  have hg : c.n2 < 32 := h.n2_lt
  have hwf : statusOff (Reg.wfCtrl c.n2) = false := statusOff_group (o := 0x400) hg (by omega)
  have hctrl : statusOff (Reg.grpCtrl c.n2) = false := statusOff_group (o := 0) hg (by omega)
  have hff : statusOff (Reg.ffCtrl c.n2) = false := statusOff_group (o := 0x1000) hg (by omega)
  have hwrites := (((((fetched_reports s c).setFld hwf 1 0 (c.f1 1 0)).setFld hctrl 1 0 (c.f1 3 2)).setFld
    hctrl 11 8 (c.f1 7 4)).setFld hff 21 16 (c.f1 13 8)).setReg (Reg.grpRole c.n2) (c.f1 30 16)
  rw [exec_grpSetup]
  refine command_serves h (decide_eq_true hdown) (by simp [hcpl, hroles]) rfl hwrites ?_
  rw [cmdOf_setReg, cmdOf_setFld, cmdOf_setFld, cmdOf_setFld, cmdOf_setFld]
  exact fetched_outstanding s c

/-- GRP_START leaves its group CALIBRATING and its enabled ports in calibration, and waits. -/
theorem grpStart_next {s : State} {c : CmdDesc} (h : Accepted s c { CmdSpec.plain 0x11 with m2 := 0xFFFF, lim2 := 32 })
    (hdown : (s.dev.group c.n2).st = .down) (hports : s.dev.enabledPorts c.n2 ≠ []) :
    ∃ t, exec (.grpStart c) s = .next t ∧ t.pending = s.pending ∧ t.dev.dev = .run ∧
      (t.dev.group c.n2).st = .calibrating ∧ (t.dev.group c.n2).startCmd = some s.dev.nextId ∧
      ∀ p ∈ s.dev.enabledPorts c.n2, (t.dev.port p).inCal := by
  have hg : c.n2 < 32 := h.n2_lt
  rw [exec_grpStart]
  obtain ⟨t, ht, hp, hdev⟩ := command_next h (obj := fun d c => decide ((d.group c.n2).st = .down)) (decide_eq_true hdown)
    (arg := always) rfl (eff := fun id c d => ((d.beginStart c.n2 id).startPorts c.n2).judgeCal c.n2)
  have hcfg := (fetched_reports s c).2.trans (beginStart_sameCfg _ c.n2 s.dev.nextId)
  have hsame := hcfg.enabledPorts hg
  have hstart := (startPorts_steady ((s.dev.fresh.fetchCmd c).beginStart c.n2 s.dev.nextId) c.n2).trans (fresh_steady _)
  obtain ⟨hst, hcmd⟩ := beginStart_group (s.dev.fresh.fetchCmd c) c.n2 s.dev.nextId
  rw [judgeCal_startPorts hg (by rwa [hsame])] at hdev
  refine ⟨t, ht, hp, ?_⟩
  rw [hdev, hstart.dev, hstart.st, hstart.startCmd, beginStart_dev]
  refine ⟨(fetched_reports s c).dev.trans (h.run rfl), hst, hcmd, fun p hp => ?_⟩
  rw [fresh_port]
  exact port_startPorts_inCal hg (by rwa [hsame])

/-- GRP_STOP ends with its group DOWN. -/
theorem grpStop_next {s : State} {c : CmdDesc} (h : Accepted s c { CmdSpec.plain 0x12 with m2 := 0xFFFF, lim2 := 32 }) :
    ∃ t, exec (.grpStop c) s = .next t ∧ t.pending = s.pending ∧ t.dev.dev = .run ∧ Ended s t ∧
      (t.dev.group c.n2).st = .down := by
  rw [exec_grpStop]
  obtain ⟨t, ht, hp, hdev⟩ := command_next h (obj := always) (arg := always) rfl rfl
    (eff := fun id c d => ((d.startDone c.n2 stFlushed).groupDown c.n2).finishSt id stOk)
  have hfinish := (finishSt_reports (((s.dev.fresh.fetchCmd c).startDone c.n2 stFlushed).groupDown c.n2) s.dev.nextId
    stOk).trans (fresh_reports _)
  refine ⟨t, ht, hp, ?_⟩
  rw [Ended, hdev, hfinish.dev, hfinish.group, groupDown_dev, startDone_dev, groupDown_st]
  exact ⟨(fetched_reports s c).dev.trans (h.run rfl), finishSt_ended _ _ _, rfl⟩

/-- Settles O22: the effect of each of the three commands. -/
theorem groupCommands : Obligations.GroupCommands := fun _ _ => ⟨grpSetup_serves, grpStart_next, grpStop_next⟩

end Sys2Proof.Machine
end

section
/-! SUPPORT. Sample counters and anchors (02 R50, 05 R130, R131), with what a quotient of free rounding and a limited value can be. -/

namespace Sys2Proof.Machine

/-! ### Quotients whose rounding is free (log 3) -/

/-- A quotient uses up at most a free value. -/
theorem divFree_dev (d : Dev) (num : Int) (den : Nat) : ∃ n, (d.divFree num den).2 = { d with freeCtr := n } := by
  unfold Dev.divFree
  split
  · exact ⟨d.freeCtr, rfl⟩
  · exact ⟨d.freeCtr + 1, rfl⟩

theorem divFree_exact {num : Int} {den : Nat} (h : num % (den : Int) = 0) (d : Dev) :
    (d.divFree num den).1 = num / (den : Int) := by
  rw [Dev.divFree, if_pos h]

/-- The integer below or the one above. -/
theorem divFree_cases (d : Dev) (num : Int) (den : Nat) :
    (d.divFree num den).1 = num / (den : Int) ∨ (d.divFree num den).1 = num / (den : Int) + 1 := by
  unfold Dev.divFree
  split
  · exact .inl rfl
  · rcases Nat.mod_two_eq_zero_or_one d.free.1.toNat with h | h
    · exact .inl (by simp [h])
    · exact .inr (by simp [h])

/-- The same of a natural number, as a word. -/
theorem divFree_nat_cases (d : Dev) (num den : Nat) :
    (d.divFree (num : Int) den).1 = ((num / den : Nat) : Int) ∨ (d.divFree (num : Int) den).1 = ((num / den + 1 : Nat) : Int) := by
  simpa using divFree_cases d num den

/-! ### Limits -/

theorem absI_clampI_le {l : Int} (h : 0 ≤ l) (x : Int) : absI (clampI (-l) l x) ≤ l := by
  unfold clampI absI
  split
  · split <;> omega
  · split <;> split <;> omega

/-- A value within the limit is left as it is. -/
theorem clampI_of_absI_le {l x : Int} (h : absI x ≤ l) : clampI (-l) l x = x := by
  have hlo : ¬ x < -l := by unfold absI at h; split at h <;> omega
  have hhi : ¬ l < x := by unfold absI at h; split at h <;> omega
  rw [clampI, if_neg hlo, if_neg hhi]

theorem natAbs_clampI_le (l : Nat) (x : Int) : (clampI (-(l : Int)) l x).natAbs ≤ l := by
  unfold clampI
  split
  · omega
  · split <;> omega

/-! ### Steps that post nothing -/

/-- A run whose effect posts no write leaves host memory, and the device that the effect gives. -/
theorem run_unposted {f : Dev → Dev} {s : State} (h : (f s.dev.fresh).posted = []) :
    ∃ t, run f s = .next t ∧ t.pending = s.pending ∧ t.hostMem = s.hostMem ∧ t.dev = (f s.dev.fresh).fresh := by
  refine ⟨_, run_next f s, rfl, ?_, rfl⟩
  rw [h]
  rfl

/-! ### Samples (02 R50, 05 R131) -/

/-- An anchor changes the anchor alone; its rate is the quotient rounded one way or the other. -/
theorem publishAnchor_eq (d : Dev) :
    ∃ r n, d.publishAnchor = { d with
        tb := { d.tb with ancN := d.tb.n, ancM := d.mpt, ancR := r, ancClk := d.clk }, freeCtr := n } ∧
      (r = d.tb.freq.toNat * 2 ^ 16 / 5 ∨ r = d.tb.freq.toNat * 2 ^ 16 / 5 + 1) := by
  obtain ⟨n, hn⟩ := divFree_dev d (d.tb.freq.toNat * 2 ^ 16 : Nat) 5
  refine ⟨_, n, by rw [Dev.publishAnchor, hn], ?_⟩
  rcases divFree_nat_cases d (d.tb.freq.toNat * 2 ^ 16) 5 with h | h
  · exact .inl (by rw [h, Int.toNat_natCast])
  · exact .inr (by rw [h, Int.toNat_natCast])

/-- The quadrants that become present are those in service. -/
theorem bit_present (qdown : Nat) {q : Nat} (h : q < 4) :
    bit ((List.range 4).foldl (fun m q => if bit qdown q then m else m + 2 ^ q) 0) q = !bit qdown q := by
  have table : ∀ b0 b1 b2 b3 : Bool, ∀ q, q < 4 →
      bit ([(0, b0), (1, b1), (2, b2), (3, b3)].foldl (fun m (e : Nat × Bool) => if e.2 then m else m + 2 ^ e.1) 0) q =
        !([b0, b1, b2, b3].getD q false) := by decide
  have := table (bit qdown 0) (bit qdown 1) (bit qdown 2) (bit qdown 3) q h
  rcases lt_four_cases h with rfl | rfl | rfl | rfl <;> exact this

theorem converterPllLock_next {s : State} (hc : s.dev.dev.clocked = true) (hr : s.dev.tb.running = false) :
    ∃ t r n, exec .converterPllLock s = .next t ∧ t.pending = s.pending ∧ t.hostMem = s.hostMem ∧
      (r = s.dev.tb.freq.toNat * 2 ^ 16 / 5 ∨ r = s.dev.tb.freq.toNat * 2 ^ 16 / 5 + 1) ∧
      t.dev = { s.dev.fresh with
        tb := { s.dev.tb with running := true, n := 0, ancN := 0, ancM := s.dev.mpt, ancClk := s.dev.clk, ancR := r }
        present := (List.range 4).foldl (fun m q => if bit s.dev.pwr.qdown q then m else m + 2 ^ q) 0
        gaps := ((List.range 4).filter (bit s.dev.pwr.qdown)).map (fun q => (q, 0, none)), freeCtr := n } := by
  obtain ⟨r, n, heq, hrate⟩ := publishAnchor_eq { s.dev.fresh with tb := { s.dev.tb with running := true, n := 0 } }
  have heff : converterPllLockEffect s.dev.fresh = _ := if_pos (by simp [hc, hr])
  rw [fresh_tb, heq] at heff
  obtain ⟨t, ht, hp, hm, hdev⟩ := run_unposted (f := converterPllLockEffect) (s := s) (by rw [heff]; rfl)
  exact ⟨t, r, n, ht, hp, hm, hrate, by rw [hdev, heff]; rfl⟩

theorem mptAnchor_next {s : State} (hc : s.dev.dev.clocked = true) (hr : s.dev.tb.running = true)
    (hd : s.dev.tb.ancClk + 1024 ≤ s.dev.clk) :
    ∃ t r n, exec .mptAnchor s = .next t ∧ t.pending = s.pending ∧ t.hostMem = s.hostMem ∧
      (r = s.dev.tb.freq.toNat * 2 ^ 16 / 5 ∨ r = s.dev.tb.freq.toNat * 2 ^ 16 / 5 + 1) ∧
      t.dev = { s.dev.fresh with
        tb := { s.dev.tb with ancN := s.dev.tb.n, ancM := s.dev.mpt, ancClk := s.dev.clk, ancR := r }, freeCtr := n } := by
  obtain ⟨r, n, heq, hrate⟩ := publishAnchor_eq s.dev.fresh
  have heff : mptAnchorEffect s.dev.fresh = s.dev.fresh.publishAnchor := if_pos (by simp [hc, hr, Dev.fresh, hd])
  rw [heq] at heff
  obtain ⟨t, ht, hp, hm, hdev⟩ := run_unposted (f := mptAnchorEffect) (s := s) (by rw [heff]; rfl)
  exact ⟨t, r, n, ht, hp, hm, hrate, by rw [hdev, heff]; rfl⟩

/-- Settles O28: each of the two events publishes an anchor, and the first starts the counter and the streams with it. -/
theorem sampleAnchors : Obligations.SampleAnchors := by
  intro s hc
  refine ⟨fun hr => ?_, fun hr hd => ?_⟩
  · obtain ⟨t, r, n, ht, hp, hm, hrate, hdev⟩ := converterPllLock_next hc hr
    refine ⟨t, ht, hp, hm, ?_⟩
    rw [hdev]
    exact ⟨rfl, hrate, fun q hq => bit_present _ hq, rfl, rfl, fun _ _ => rfl⟩
  · obtain ⟨t, r, n, ht, hp, hm, hrate, hdev⟩ := mptAnchor_next hc hr hd
    refine ⟨t, ht, hp, hm, ?_⟩
    rw [hdev]
    exact ⟨rfl, hrate, rfl, fun _ _ => rfl⟩

end Sys2Proof.Machine
end

section
/-! SUPPORT. Lock, reference switches and holdover (02 R41, R45, R47-R49): what leaves the timebase alone, groups judged at the lock among
it, and the timebase that each event leaves. -/

namespace Sys2Proof.Machine

/-! ### What leaves the timebase alone -/

/-- `b` is in the device state of `a` at the same instant: the clock, the timebase and the measurement clocks are those of `a`. -/
structure SameTime (a b : Dev) : Prop where
  dev : b.dev = a.dev
  clk : b.clk = a.clk
  tb : b.tb = a.tb
  meas : b.meas = a.meas

theorem SameTime.refl (a : Dev) : SameTime a a := ⟨rfl, rfl, rfl, rfl⟩

theorem SameTime.trans {a b c : Dev} (h : SameTime a b) (k : SameTime b c) : SameTime a c :=
  ⟨k.dev.trans h.dev, k.clk.trans h.clk, k.tb.trans h.tb, k.meas.trans h.meas⟩

theorem SameTime.foldl {α : Type} {f : Dev → α → Dev} {l : List α} {a d : Dev} (h : SameTime a d)
    (hf : ∀ d x, SameTime d (f d x)) : SameTime a (l.foldl f d) := by
  induction l generalizing d with
  | nil => exact h
  | cons x l ih => exact ih (h.trans (hf d x))

theorem ite_sameTime {d a b : Dev} {p : Prop} [Decidable p] (ha : SameTime d a) (hb : SameTime d b) :
    SameTime d (if p then a else b) := by split <;> assumption

theorem Reports.sameTime {a b : Dev} (h : Reports a b) : SameTime a b := ⟨h.dev, h.clk, h.tb, h.meas⟩

theorem modPort_sameTime (d : Dev) (p : Nat) (f : Port → Port) : SameTime d (d.modPort p f) := ⟨rfl, rfl, rfl, rfl⟩
theorem modGroup_sameTime (d : Dev) (g : Nat) (f : Group → Group) : SameTime d (d.modGroup g f) := ⟨rfl, rfl, rfl, rfl⟩
theorem modDec_sameTime (d : Dev) (l : Nat) (f : DecLane → DecLane) : SameTime d (d.modDec l f) := ⟨rfl, rfl, rfl, rfl⟩
theorem modEnc_sameTime (d : Dev) (l : Nat) (f : EncLane → EncLane) : SameTime d (d.modEnc l f) := ⟨rfl, rfl, rfl, rfl⟩
theorem finishSt_sameTime (d : Dev) (id st : Nat) : SameTime d (d.finishSt id st) := (finishSt_reports d id st).sameTime

theorem unbindDec_sameTime (d : Dev) (l : Nat) : SameTime d (d.unbindDec l) := by
  have settles : SameTime d (d.settleLane l) := ite_sameTime (modDec_sameTime d _ _) (SameTime.refl d)
  unfold Dev.unbindDec
  simp only
  refine settles.trans (SameTime.trans (ite_sameTime ?_ (SameTime.refl _)) (modDec_sameTime _ _ _))
  split
  · exact ((raise_reports _ _ _).trans (trace_reports _ _ _ _ _ _)).sameTime
  · exact (raise_reports _ _ _).sameTime

theorem unbindEnc_sameTime (d : Dev) (l : Nat) : SameTime d (d.unbindEnc l) :=
  ((SameTime.refl d).foldl fun d p => modPort_sameTime d p _).trans (modEnc_sameTime _ _ _)

theorem endFades_sameTime (d : Dev) (p : Nat) : SameTime d (d.endFades p) := by
  have ends : ∀ (d : Dev) (f : Port → Port) (id : Option Nat), SameTime d ((d.modPort p f).finishOpt id stOk) :=
    fun d f id => (modPort_sameTime d p f).trans (finishOpt_reports _ _ _).sameTime
  have fades : ∀ o : Option Fade, SameTime d (match o with
      | none => d
      | some f => (d.modPort p (fun x => { x with fade := none, bank := !f.src })).finishOpt f.cmd stOk) := by
    rintro (_ | f)
    · exact SameTime.refl d
    · exact ends d _ _
  unfold Dev.endFades
  refine SameTime.trans (fades (d.port p).fade) ?_
  dsimp only
  cases (d.port p).swap with
  | none => exact SameTime.refl _
  | some w => exact ends _ _ _

theorem endJoined_sameTime {fin : Dev → Nat → Dev} (hf : ∀ d id, SameTime d (fin d id)) (d : Dev) (ps : List Nat) :
    SameTime d (d.endJoined ps fin) := by
  unfold Dev.endJoined
  refine SameTime.foldl ?_ hf
  exact ⟨rfl, rfl, rfl, rfl⟩

theorem flushMnt_sameTime (d : Dev) (ps : List Nat) : SameTime d (d.flushMnt ps) := by
  have flushes : ∀ (d : Dev) (id : Nat), SameTime d (d.finishSt id stFlushed) := fun d id => finishSt_sameTime d id _
  unfold Dev.flushMnt
  refine SameTime.foldl (SameTime.trans (SameTime.foldl ?_ fun d r => ?_) (endJoined_sameTime flushes _ _)) flushes
  · exact ⟨rfl, rfl, rfl, rfl⟩
  · exact ⟨rfl, rfl, rfl, rfl⟩

theorem dropSessions_sameTime (d : Dev) (nh : Nat) : SameTime d (d.dropSessions nh) := by
  unfold Dev.dropSessions
  refine SameTime.foldl ?_ fun d s => (SameTime.refl d).foldl fun d c => finishSt_sameTime d c _
  exact ⟨rfl, rfl, rfl, rfl⟩

/-! ### Groups judged at the lock (01 R28, R33, R34) -/

theorem setGroup_sameTime (d : Dev) (g : Nat) (st : GroupState) : SameTime d (d.setGroup g st) :=
  ite_sameTime (SameTime.refl d) ((modGroup_sameTime d g _).trans (event_reports _ _ _ _ _).sameTime)

theorem startDone_sameTime (d : Dev) (g st : Nat) : SameTime d (d.startDone g st) := by
  unfold Dev.startDone
  split
  · exact SameTime.refl d
  · exact (modGroup_sameTime d g _).trans (finish_reports _ _ _ _).sameTime

theorem groupDown_sameTime (d : Dev) (g : Nat) : SameTime d (d.groupDown g) := by
  have unbinds : ∀ d : Dev, SameTime d (d.unbindGroup g) := fun d =>
    ((SameTime.refl d).foldl unbindDec_sameTime).foldl unbindEnc_sameTime
  have idles : ∀ (d : Dev) (p : Nat), SameTime d (d.toIdle p) := fun d p => modPort_sameTime d p _
  unfold Dev.groupDown
  refine ite_sameTime (SameTime.refl d) (SameTime.foldl (SameTime.trans ?_ (flushMnt_sameTime _ _)) dropSessions_sameTime)
  refine SameTime.foldl (SameTime.foldl (SameTime.trans ?_ (modGroup_sameTime _ g _)) idles) endFades_sameTime
  exact ((setGroup_sameTime d g .down).foldl fun d p => modPort_sameTime d p _).trans (unbinds _)

theorem groupLive_sameTime (d : Dev) (g : Nat) (st : GroupState) : SameTime d (d.groupLive g st) :=
  ((setGroup_sameTime d g st).trans (modGroup_sameTime _ g _)).trans (startDone_sameTime _ g stOk)

theorem judgeCal_sameTime (d : Dev) (g : Nat) : SameTime d (d.judgeCal g) := by
  have downs : SameTime d ((d.modGroup g (fun x => { x with startCmd := none })).groupDown g) :=
    (modGroup_sameTime d g _).trans (groupDown_sameTime _ g)
  unfold Dev.judgeCal
  refine ite_sameTime (ite_sameTime ?_ (ite_sameTime (groupLive_sameTime d g _) (SameTime.refl d))) (SameTime.refl d)
  dsimp only
  split
  · exact downs
  · exact downs.trans (finish_reports _ _ _ _).sameTime

/-! ### Lock and unlock (02 R45, R49) -/

/-- The timebase as the lock leaves it. -/
def Timebase.nowLocked (t : Timebase) : Timebase :=
  { t with locked := true, everLocked := true, holdover := false, taken := false, bigRun := 0 }

/-- The lock changes the timebase, and lets groups go on without touching it. -/
theorem timebaseLock_sameTime {d : Dev} (hc : d.dev.clocked = true) (hl : d.tb.locked = false)
    (hr : d.fld Reg.mptCtrl 15 8 ≤ d.tb.lockRun) : SameTime { d with tb := d.tb.nowLocked } (timebaseLockEffect d) := by
  have heff : timebaseLockEffect d = _ := if_pos (by simp [hc, hl, hr])
  rw [heff]
  refine SameTime.foldl (SameTime.trans ?_ (ite_sameTime (event_reports _ _ _ _ _).sameTime (SameTime.refl _))) judgeCal_sameTime
  exact (event_reports _ _ _ _ _).sameTime

theorem timebaseUnlock_reports {d : Dev} (hc : d.dev.clocked = true) (hl : d.tb.locked = true) (hb : 4 ≤ d.tb.bigRun) :
    Reports { d with tb := { d.tb with locked := false, lockRun := 0 } } (timebaseUnlockEffect d) := by
  have heff : timebaseUnlockEffect d = _ := if_pos (by simp [hc, hl, hb])
  rw [heff]
  exact (raise_reports _ _ _).trans (event_reports _ _ _ _ _)

/-! ### References switched, lost and back (02 R41, R47-R49) -/

theorem switchRef_reports (d : Dev) : Reports { d with tb := { d.tb with usingAlt := !d.tb.usingAlt } } d.switchRef :=
  (raise_reports _ _ _).trans (event_reports _ _ _ _ _)

/-- A switch that is due takes the other reference. -/
theorem refSwitch_reports {d : Dev} (hc : d.dev.clocked = true) (hl : d.refLive = true)
    (hd : (if d.tb.usingAlt then d.refBack d.refPri else d.altEn && d.refLost d.refPri && d.refValid d.refAlt) = true) :
    Reports { d with tb := { d.tb with usingAlt := !d.tb.usingAlt } } (refSwitchEffect d) := by
  have hdue : d.switchDue = true := by rw [Dev.switchDue, hc, hl, hd]; rfl
  rw [refSwitchEffect, if_pos hdue]
  exact switchRef_reports d

/-- The frozen word uses up at most a free value. -/
theorem frozenFreq_dev (d : Dev) : ∃ n, d.frozenFreq.2 = { d with freeCtr := n } := by
  unfold Dev.frozenFreq
  dsimp only
  split
  · exact ⟨d.freeCtr, rfl⟩
  · exact divFree_dev d _ _

/-- The frozen word is the mean where that divides. -/
theorem frozenFreq_exact {d : Dev} {h : List Nat} (hh : (d.tb.freqHist.drop (d.refHist d.refUse).invalid).take 32 = h)
    (hn : h ≠ []) (hd : h.foldl (· + ·) 0 % h.length = 0) :
    d.frozenFreq.1 = BitVec.ofNat 32 (h.foldl (· + ·) 0 / h.length) := by
  have hint : ((h.foldl (· + ·) 0 : Nat) : Int) % (h.length : Int) = 0 := by rw [← Int.natCast_emod, hd]; rfl
  unfold Dev.frozenFreq
  simp only [hh, if_neg hn]
  rw [divFree_exact hint, ← Int.natCast_ediv, BitVec.ofInt_natCast]

/-- The timebase as holdover begins. -/
def Dev.heldTb (d : Dev) : Timebase :=
  { d.tb with freq := d.frozenFreq.1, holdover := true, taken := false, locked := false, lockRun := 0, bigRun := 0, corrLeft := 0,
              corrNext := 0, freqNext := 0, slewActive := false }

theorem lossOfMains_reports {d : Dev} (hc : d.dev.clocked = true) (hl : d.refLive = true)
    (hr : d.refLost d.refUse = true) (ho : d.otherValid = false) :
    Reports { d with tb := d.heldTb, meas := { d.meas with cycHold := true } } (lossOfMainsEffect d) := by
  obtain ⟨n, hn⟩ := frozenFreq_dev d
  have heff : lossOfMainsEffect d = _ := if_pos (by simp [hc, hl, hr, ho])
  rw [heff]
  dsimp only
  rw [hn]
  refine Reports.trans (Reports.trans ?_ (ite_reports (raise_reports _ _ _) (Reports.refl _))) (event_reports _ _ _ _ _)
  refine Reports.trans ?_ (raise_reports _ _ _)
  exact ⟨rfl, fun _ _ => rfl⟩

/-- A reference that is back is taken up, the primary first. -/
theorem holdoverEnd_reports {d : Dev} (hc : d.dev.clocked = true) (hh : d.tb.holdover = true) (ht : d.tb.taken = false)
    (hb : (d.refBack d.refPri || (d.altEn && d.refBack d.refAlt)) = true) :
    Reports { d with tb := { d.tb with taken := true, usingAlt := !d.refBack d.refPri } } (holdoverEndEffect d) := by
  have heff : holdoverEndEffect d = _ := if_pos (by simp only [hc, hh, ht, hb]; rfl)
  rw [heff]
  split
  · next h => rw [h]; exact switchRef_reports _
  · next h =>
    have hn : d.tb.usingAlt = !d.refBack d.refPri := by
      revert h
      cases d.refBack d.refPri <;> cases d.tb.usingAlt <;> simp
    rw [← hn]
    exact Reports.refl _

/-- Settles O27: the timebase that each of the five events leaves. -/
theorem lockAndHoldover : Obligations.LockAndHoldover := by
  intro s hc
  have fresh_tb_reports : ∀ x, Reports { s.dev with tb := x } { s.dev.fresh with tb := x } :=
    fun x => (fresh_reports s.dev).set_tb x
  refine ⟨fun hl hr => ?_, fun hl hb => ?_, fun hlive hdue => ?_, fun hlive hlost hother => ?_, fun hh ht hb => ?_⟩
  · have hsame := timebaseLock_sameTime (d := s.dev.fresh) hc hl hr
    exact ⟨_, run_next timebaseLockEffect s, rfl, hsame.dev, hsame.tb⟩
  · exact run_reaches ((fresh_tb_reports _).trans (timebaseUnlock_reports (d := s.dev.fresh) hc hl hb))
  · exact run_reaches ((fresh_tb_reports _).trans (refSwitch_reports (d := s.dev.fresh) hc hlive hdue))
  · have hrep := lossOfMains_reports (d := s.dev.fresh) hc hlive hlost hother
    have hfresh := ((fresh_reports s.dev).set_tb s.dev.fresh.heldTb).set_meas { s.dev.meas with cycHold := true }
    obtain ⟨t, ht, hr, hp⟩ : Reaches (exec .lossOfMains s) s _ := run_reaches (hfresh.trans hrep)
    refine ⟨t, ht, hp, ?_⟩
    rw [hr.tb]
    exact ⟨rfl, rfl, rfl, rfl, fun hn hd => frozenFreq_exact (d := s.dev.fresh) rfl hn hd, hr⟩
  · have hrep := holdoverEnd_reports (d := s.dev.fresh) hc hh ht hb
    obtain ⟨t, hnext, hr, hp⟩ : Reaches (exec .holdoverEnd s) s _ := run_reaches ((fresh_tb_reports _).trans hrep)
    refine ⟨t, hnext, hp, ?_⟩
    rw [hr.tb]
    exact ⟨hr, rfl, hh, rfl⟩

end Sys2Proof.Machine
end

section
/-! SUPPORT. Half-cycles of the mains references (02 R42-R47): what a half-cycle leaves in the history of its reference, and what it
makes of the timebase while MPT follows a live reference. -/

namespace Sys2Proof.Machine

/-! ### The history of a reference (02 R42, R47) -/

theorem refHist_seeHalf_ne {i j : Nat} (h : j ≠ i) (d : Dev) (o : BitRuns) : (d.seeHalf i o).refHist j = d.refHist j := by
  simp [Dev.refHist, Dev.seeHalf, SMap.get_set_ne _ h]

/-- What of the bits makes no whole output of the tap stays. -/
theorem refHist_seeHalf_part (d : Dev) (i : Nat) (o : BitRuns) : ((d.seeHalf i o).refHist i).part.length < 256 := by
  simp only [Dev.refHist, Dev.seeHalf, SMap.get_set_same, List.length_drop]
  omega

theorem refHist_seeHalf_valid {d : Dev} {i : Nat} {o : BitRuns} (h : d.halfValid i o = true) :
    ((d.seeHalf i o).refHist i).rms = (rmsCode (d.halfOuts i o) :: (d.refHist i).rms).take 64 ∧
    ((d.seeHalf i o).refHist i).valid = (d.refHist i).valid + 1 ∧ ((d.seeHalf i o).refHist i).invalid = 0 := by
  simp [Dev.seeHalf, h, Dev.refHist]

theorem refHist_seeHalf_invalid {d : Dev} {i : Nat} {o : BitRuns} (h : d.halfValid i o = false) :
    ((d.seeHalf i o).refHist i).rms = (d.refHist i).rms ∧ ((d.seeHalf i o).refHist i).valid = 0 ∧
    ((d.seeHalf i o).refHist i).invalid = (d.refHist i).invalid + 1 := by
  simp [Dev.seeHalf, h, Dev.refHist]

/-- The frequency word enters the record of the half-cycles. -/
def Dev.noteFreq (d : Dev) : Dev := { d with tb := { d.tb with freqHist := (d.tb.freq.toNat :: d.tb.freqHist).take 128 } }

/-- Both half-cycles enter their histories; the alternate's only where it is enabled or in use. -/
def Dev.seeHalves (d : Dev) (pri alt : BitRuns) : Dev :=
  let p := d.noteFreq.seeHalf d.refPri pri
  if p.altEn || d.tb.usingAlt then p.seeHalf p.refAlt alt else p

/-- Only the two records of the timebase change. -/
theorem seeHalves_eq (d : Dev) (pri alt : BitRuns) :
    ∃ hs rs, d.seeHalves pri alt = { d with tb := { d.tb with freqHist := hs, refs := rs } } := by
  unfold Dev.seeHalves
  dsimp only
  split
  · exact ⟨_, _, rfl⟩
  · exact ⟨_, _, rfl⟩

/-- Where the alternate's half-cycle is not seen, or is one of another input, the primary's history is that of its own half-cycle. -/
theorem refHist_seeHalves {d : Dev} (h : d.altEn = false ∧ d.tb.usingAlt = false ∨ d.refAlt ≠ d.refPri) (pri alt : BitRuns) :
    (d.seeHalves pri alt).refHist d.refPri = (d.noteFreq.seeHalf d.refPri pri).refHist d.refPri := by
  unfold Dev.seeHalves
  dsimp only
  split
  · next hseen =>
    have hother : d.refPri ≠ d.refAlt := by
      rcases h with ⟨hen, huse⟩ | hne
      · have hen' : (d.noteFreq.seeHalf d.refPri pri).altEn = false := hen
        simp [hen', huse] at hseen
      · exact hne.symm
    exact refHist_seeHalf_ne hother _ _
  · rfl

/-! ### The loop (02 R43-R46) -/

/-- A valid half-cycle's phase error, and how it counts towards lock and unlock. -/
def Dev.countError (d : Dev) (e : Int) : Dev :=
  { d with tb := { d.tb with
      phaseErr := e
      lockRun := if absI e < 2 ^ d.fld Reg.mptThr 4 0 then d.tb.lockRun + 1 else 0
      bigRun := if 2 ^ d.fld Reg.mptThr 12 8 < absI e then d.tb.bigRun + 1 else 0 } }

/-- Phase and frequency path of an error within the bound leave what the period has left: `a` the clamped error, `k` and `m` the
coefficients, `f` the frequency word, `s` what is left. -/
theorem corrections_fit {k m f s a : Nat} (hf : 0 < f) (ha : a ≤ s * 2 ^ 32 / max 1 (k + (m * 2 ^ 25 + (f - 1)) / f)) :
    k * a / 2 ^ 32 + m * a / 2 ^ 32 * 2 ^ 25 / f ≤ s := by
  obtain ⟨c, hc⟩ : ∃ c, c = (m * 2 ^ 25 + (f - 1)) / f := ⟨_, rfl⟩
  obtain ⟨p, hp⟩ : ∃ p, p = k * a / 2 ^ 32 := ⟨_, rfl⟩
  obtain ⟨q, hq⟩ : ∃ q, q = m * a / 2 ^ 32 := ⟨_, rfl⟩
  obtain ⟨r, hr⟩ : ∃ r, r = q * 2 ^ 25 / f := ⟨_, rfl⟩
  rw [← hc] at ha
  rw [← hp, ← hq, ← hr]
  have hceil : m * 2 ^ 25 ≤ c * f := by
    have h := Nat.div_add_mod (m * 2 ^ 25 + (f - 1)) f
    have hlt := Nat.mod_lt (m * 2 ^ 25 + (f - 1)) hf
    rw [← hc, Nat.mul_comm] at h
    omega
  have hphase : p * 2 ^ 32 ≤ k * a := by rw [hp]; exact Nat.div_mul_le_self _ _
  have hstep : q * 2 ^ 32 ≤ m * a := by rw [hq]; exact Nat.div_mul_le_self _ _
  have heffect : r * f ≤ q * 2 ^ 25 := by rw [hr]; exact Nat.div_mul_le_self _ _
  have hfreq : r * 2 ^ 32 ≤ c * a := by
    refine Nat.le_of_mul_le_mul_right ?_ hf
    calc r * 2 ^ 32 * f = r * f * 2 ^ 32 := Nat.mul_right_comm _ _ _
      _ ≤ q * 2 ^ 25 * 2 ^ 32 := Nat.mul_le_mul_right _ heffect
      _ = q * 2 ^ 32 * 2 ^ 25 := Nat.mul_right_comm _ _ _
      _ ≤ m * a * 2 ^ 25 := Nat.mul_le_mul_right _ hstep
      _ = m * 2 ^ 25 * a := Nat.mul_right_comm _ _ _
      _ ≤ c * f * a := Nat.mul_le_mul_right _ hceil
      _ = c * a * f := Nat.mul_right_comm _ _ _
  have hbound : (k + c) * a ≤ s * 2 ^ 32 :=
    calc (k + c) * a ≤ max 1 (k + c) * a := Nat.mul_le_mul_right _ (Nat.le_max_right _ _)
      _ ≤ max 1 (k + c) * (s * 2 ^ 32 / max 1 (k + c)) := Nat.mul_le_mul_left _ ha
      _ ≤ s * 2 ^ 32 := Nat.mul_div_le _ _
  rw [Nat.add_mul] at hbound
  omega

/-- The size of one path's correction. -/
theorem natAbs_scaled (k : Nat) (e : Int) : (((k : Int) * e).tdiv ((2 ^ 32 : Nat) : Int)).natAbs = k * e.natAbs / 2 ^ 32 := by
  rw [Int.natAbs_tdiv, Int.natAbs_mul]
  rfl

/-- The error as the loop sees it (02 R46). -/
def Dev.clamped (d : Dev) (e : Int) : Int := clampI (-(d.errorBound : Int)) d.errorBound e

/-- Closing the loop leaves MPT and its frequency word to the end of the beacon period. -/
theorem closeLoop_eq (d : Dev) (e : Int) : ∃ x y u b, d.closeLoop e =
    { d with tb := { d.tb with corrNext := x, freqNext := y, corrUsed := u, slewActive := b } } := ⟨_, _, _, _, rfl⟩

/-- The loop takes the phase path of the clamped error, and what its frequency path moves MPT by. -/
theorem closeLoop_corrUsed (d : Dev) (e : Int) : (d.closeLoop e).tb.corrUsed =
    d.tb.corrUsed + d.loopCoef.1 * (d.clamped e).natAbs / 2 ^ 32 +
      d.loopCoef.2 * (d.clamped e).natAbs / 2 ^ 32 * 2 ^ 25 / max 1 d.tb.freq.toNat := by
  rw [← natAbs_scaled, ← natAbs_scaled]
  rfl

/-- What a beacon period takes of correction stays within its limit. -/
theorem closeLoop_corrUsed_le {d : Dev} (h : d.tb.corrUsed ≤ d.slewLimit) (e : Int) :
    (d.closeLoop e).tb.corrUsed ≤ d.slewLimit := by
  have hfit := corrections_fit (k := d.loopCoef.1) (m := d.loopCoef.2) (s := d.slewLimit - d.tb.corrUsed)
    (Nat.lt_of_lt_of_le Nat.one_pos (Nat.le_max_left 1 d.tb.freq.toNat)) (natAbs_clampI_le d.errorBound e)
  have hused := closeLoop_corrUsed d e
  unfold Dev.clamped at hused
  omega

/-- Before the first lock the timebase takes the detected phase, and the frequency of the half-cycle's length where the one before it
was valid too. -/
theorem setLoop_eq (d : Dev) (e : Int) (run len : Nat) :
    ∃ f n, d.setLoop e run len = { d with
        tb := { d.tb with
          freq := f
          acc := BitVec.ofNat 72 (d.tb.acc.toNat / 2 ^ 48 * 2 ^ 48 +
            unsigned 24 (((d.tb.acc.toNat / 2 ^ 24 % 2 ^ 24 : Nat) : Int) + e) * 2 ^ 24)
          corrLeft := 0 }
        freeCtr := n } ∧
      (run = 0 → f = d.tb.freq) ∧
      (run ≠ 0 → f = BitVec.ofNat 32 (2 ^ 48 / (25 * len)) ∨ f = BitVec.ofNat 32 (2 ^ 48 / (25 * len) + 1)) := by
  unfold Dev.setLoop
  by_cases hrun : run = 0
  · simp only [if_pos hrun]
    exact ⟨d.tb.freq, d.freeCtr, rfl, fun _ => rfl, fun h => absurd hrun h⟩
  · obtain ⟨n, hn⟩ := divFree_dev d ((2 ^ 48 : Nat) : Int) (25 * len)
    simp only [if_neg hrun, Dev.estimate, hn]
    refine ⟨_, n, rfl, fun h => absurd h hrun, fun _ => ?_⟩
    rcases divFree_nat_cases d (2 ^ 48) (25 * len) with h | h
    · exact .inl (by rw [h, BitVec.ofInt_natCast])
    · exact .inr (by rw [h, BitVec.ofInt_natCast])

theorem unsigned_lt (w : Nat) (x : Int) : unsigned w x < 2 ^ w := by
  have hpos : (0 : Int) < ((2 ^ w : Nat) : Int) := by exact_mod_cast Nat.two_pow_pos w
  have h0 := Int.emod_nonneg x (Int.ne_of_gt hpos)
  have h1 := Int.emod_lt_of_pos x hpos
  unfold unsigned
  omega

/-- An accumulator with its turn count kept and its phase replaced: the cycle count and the phase of MPT. -/
theorem mpt_of_acc {d e : Dev} {x : Nat} (hx : x < 2 ^ 24)
    (h : e.tb.acc = BitVec.ofNat 72 (d.tb.acc.toNat / 2 ^ 48 * 2 ^ 48 + x * 2 ^ 24)) :
    e.mpt / 2 ^ 24 = d.mpt / 2 ^ 24 ∧ e.mpt % 2 ^ 24 = x := by
  have hlt := d.tb.acc.isLt
  unfold Dev.mpt
  rw [h, BitVec.toNat_ofNat]
  omega

/-! ### The event (02 R42-R47) -/

/-- The observed half-cycle of the reference in use. -/
def Dev.inUse (d : Dev) (pri alt : BitRuns) : BitRuns := if d.tb.usingAlt then alt else pri

/-- The phase error of the observed half-cycle (02 R42). -/
def Dev.errorOf (d : Dev) (pri alt : BitRuns) : Int := d.phaseError (d.inUse pri alt)

/-- Both half-cycles seen, the phase error of the one in use counted. -/
def Dev.counted (d : Dev) (pri alt : BitRuns) : Dev := (d.seeHalves pri alt).countError (d.errorOf pri alt)

/-- Counting an error moves neither MPT nor what a beacon period has taken of its limit. -/
theorem counted_keeps (d : Dev) (pri alt : BitRuns) :
    (d.counted pri alt).tb.acc = d.tb.acc ∧ (d.counted pri alt).tb.freq = d.tb.freq ∧
    (d.counted pri alt).tb.corrUsed = d.tb.corrUsed ∧ (d.counted pri alt).slewLimit = d.slewLimit := by
  obtain ⟨hs, rs, hsee⟩ := seeHalves_eq d pri alt
  rw [Dev.counted, hsee]
  exact ⟨rfl, rfl, rfl, rfl⟩

/-- The event by its branches, each read from the device before it. -/
theorem halfCycleEffect_eq {d : Dev} (hc : d.dev.clocked = true) (pri alt : BitRuns) :
    halfCycleEffect pri alt d =
      if !d.refLive then d.seeHalves pri alt
      else if !d.halfValid d.refUse (d.inUse pri alt) then
        { d.seeHalves pri alt with tb := { (d.seeHalves pri alt).tb with lockRun := 0, bigRun := 0 } }
      else if d.tb.everLocked then (d.counted pri alt).closeLoop (d.errorOf pri alt)
      else (d.counted pri alt).setLoop (d.errorOf pri alt) (d.refHist d.refUse).valid (runLen (d.inUse pri alt)) := by
  obtain ⟨hs, rs, hsee⟩ := seeHalves_eq d pri alt
  have hlive : d.refLive = (d.seeHalves pri alt).refLive := by rw [hsee]; rfl
  have hever : d.tb.everLocked = (d.counted pri alt).tb.everLocked := by rw [Dev.counted, hsee]; rfl
  rw [hlive, hever]
  exact if_neg (by simp [hc])

/-- Half-cycles change the timebase alone, and use up at most a free value. -/
theorem halfCycleEffect_dev {d : Dev} (hc : d.dev.clocked = true) (pri alt : BitRuns) :
    ∃ tb n, halfCycleEffect pri alt d = { d with tb := tb, freeCtr := n } ∧ tb.refs = (d.seeHalves pri alt).tb.refs := by
  obtain ⟨hs, rs, hsee⟩ := seeHalves_eq d pri alt
  rw [halfCycleEffect_eq hc]
  split
  · rw [hsee]; exact ⟨_, d.freeCtr, rfl, rfl⟩
  · split
    · rw [hsee]; exact ⟨_, d.freeCtr, rfl, rfl⟩
    · split
      · obtain ⟨x, y, u, b, hclose⟩ := closeLoop_eq (d.counted pri alt) (d.errorOf pri alt)
        rw [hclose, Dev.counted, hsee]
        exact ⟨_, d.freeCtr, rfl, rfl⟩
      · obtain ⟨f, n, hset, -⟩ := setLoop_eq (d.counted pri alt) (d.errorOf pri alt) (d.refHist d.refUse).valid
          (runLen (d.inUse pri alt))
        rw [hset, Dev.counted, hsee]
        exact ⟨_, n, rfl, rfl⟩

section
variable {d : Dev} {pri alt : BitRuns} (hc : d.dev.clocked = true) (hl : d.refLive = true)
  (hv : d.halfValid d.refUse (d.inUse pri alt) = true)
include hc hl hv

/-- After the first lock a valid half-cycle closes the loop on its error. -/
theorem halfCycle_locked (he : d.tb.everLocked = true) :
    halfCycleEffect pri alt d = (d.counted pri alt).closeLoop (d.errorOf pri alt) := by
  rw [halfCycleEffect_eq hc, hl, hv, he]
  rfl

/-- Before it the timebase takes what the half-cycle shows. -/
theorem halfCycle_unlocked (he : d.tb.everLocked = false) :
    halfCycleEffect pri alt d =
      (d.counted pri alt).setLoop (d.errorOf pri alt) (d.refHist d.refUse).valid (runLen (d.inUse pri alt)) := by
  rw [halfCycleEffect_eq hc, hl, hv, he]
  rfl

/-- Either way it gives the phase error, and counts. -/
theorem halfCycle_counts :
    (halfCycleEffect pri alt d).tb.phaseErr = d.errorOf pri alt ∧
    (halfCycleEffect pri alt d).tb.lockRun =
      (if absI (d.errorOf pri alt) < 2 ^ d.fld Reg.mptThr 4 0 then d.tb.lockRun + 1 else 0) ∧
    (halfCycleEffect pri alt d).tb.bigRun =
      (if 2 ^ d.fld Reg.mptThr 12 8 < absI (d.errorOf pri alt) then d.tb.bigRun + 1 else 0) := by
  obtain ⟨hs, rs, hsee⟩ := seeHalves_eq d pri alt
  cases he : d.tb.everLocked with
  | true =>
    obtain ⟨x, y, u, b, hclose⟩ := closeLoop_eq (d.counted pri alt) (d.errorOf pri alt)
    rw [halfCycle_locked hc hl hv he, hclose, Dev.counted, hsee]
    exact ⟨rfl, rfl, rfl⟩
  | false =>
    obtain ⟨f, n, hset, -⟩ := setLoop_eq (d.counted pri alt) (d.errorOf pri alt) (d.refHist d.refUse).valid
      (runLen (d.inUse pri alt))
    rw [halfCycle_unlocked hc hl hv he, hset, Dev.counted, hsee]
    exact ⟨rfl, rfl, rfl⟩

/-- Phase and frequency before the first lock. -/
theorem halfCycle_unlocked_time (he : d.tb.everLocked = false) :
    (halfCycleEffect pri alt d).mpt / 2 ^ 24 = d.mpt / 2 ^ 24 ∧
    (halfCycleEffect pri alt d).mpt % 2 ^ 24 = unsigned 24 ((d.mpt % 2 ^ 24 : Nat) + d.errorOf pri alt) ∧
    ((d.refHist d.refUse).valid = 0 → (halfCycleEffect pri alt d).tb.freq = d.tb.freq) ∧
    ((d.refHist d.refUse).valid ≠ 0 →
      (halfCycleEffect pri alt d).tb.freq = BitVec.ofNat 32 (2 ^ 48 / (25 * runLen (d.inUse pri alt))) ∨
      (halfCycleEffect pri alt d).tb.freq = BitVec.ofNat 32 (2 ^ 48 / (25 * runLen (d.inUse pri alt)) + 1)) := by
  obtain ⟨hacc, hfreq, -, -⟩ := counted_keeps d pri alt
  obtain ⟨f, n, hset, hkeep, hlen⟩ := setLoop_eq (d.counted pri alt) (d.errorOf pri alt) (d.refHist d.refUse).valid
    (runLen (d.inUse pri alt))
  rw [hacc] at hset
  rw [hfreq] at hkeep
  rw [halfCycle_unlocked hc hl hv he]
  obtain ⟨hcount, hphase⟩ := mpt_of_acc (d := d) (unsigned_lt 24 _) (congrArg (fun x => x.tb.acc) hset)
  refine ⟨hcount, hphase, ?_⟩
  rw [hset]
  exact ⟨hkeep, hlen⟩

/-- Phase and frequency after it, and the limit of the correction. -/
theorem halfCycle_locked_time (he : d.tb.everLocked = true) :
    (halfCycleEffect pri alt d).tb.acc = d.tb.acc ∧ (halfCycleEffect pri alt d).tb.freq = d.tb.freq ∧
    (d.tb.corrUsed ≤ d.slewLimit → (halfCycleEffect pri alt d).tb.corrUsed ≤ d.slewLimit) := by
  obtain ⟨hacc, hfreq, hused, hlimit⟩ := counted_keeps d pri alt
  obtain ⟨x, y, u, b, hclose⟩ := closeLoop_eq (d.counted pri alt) (d.errorOf pri alt)
  rw [halfCycle_locked hc hl hv he, ← hused, ← hlimit]
  refine ⟨?_, ?_, fun h => closeLoop_corrUsed_le h _⟩
  · rw [hclose]; exact hacc
  · rw [hclose]; exact hfreq

end

/-- Settles O26: the histories by `seeHalves`, the timebase by the branches of the event. -/
theorem halfCycles : Obligations.HalfCycles := by
  intro s pri alt hc obs e h len
  obtain ⟨tb, n, heff, hrefs⟩ := halfCycleEffect_dev (d := s.dev.fresh) hc pri alt
  obtain ⟨hs, rs, hsee⟩ := seeHalves_eq s.dev.fresh pri alt
  obtain ⟨t, ht, hp, hm, hdev⟩ := run_unposted (f := halfCycleEffect pri alt) (s := s) (by rw [heff]; rfl)
  have hbranch := halfCycleEffect_eq (d := s.dev.fresh) hc pri alt
  refine ⟨t, ht, hp, hm, ?_, fun hown => ?_, fun hlive hv => ?_, fun hlive hv => ?_, fun hlive => ?_⟩
  · rw [hdev, heff]
    exact ⟨rfl, fun _ _ => rfl⟩
  · have hhist : t.dev.refHist s.dev.refPri = (s.dev.fresh.noteFreq.seeHalf s.dev.refPri pri).refHist s.dev.refPri := by
      refine Eq.trans ?_ (refHist_seeHalves (d := s.dev.fresh) hown pri alt)
      rw [hdev, heff]
      exact congrArg (SMap.get (fun _ => RefHist.init) s.dev.refPri) hrefs
    rw [hhist]
    exact ⟨refHist_seeHalf_part _ _ _, fun hv => refHist_seeHalf_valid (d := s.dev.fresh.noteFreq) hv,
      fun hv => refHist_seeHalf_invalid (d := s.dev.fresh.noteFreq) hv⟩
  · rw [hdev]
    obtain ⟨herr, hlock, hbig⟩ := halfCycle_counts (d := s.dev.fresh) hc hlive hv
    exact ⟨herr, hlock, hbig, halfCycle_unlocked_time (d := s.dev.fresh) hc hlive hv,
      halfCycle_locked_time (d := s.dev.fresh) hc hlive hv⟩
  · have hlive' : s.dev.fresh.refLive = true := hlive
    have hv' : s.dev.fresh.halfValid s.dev.fresh.refUse (s.dev.fresh.inUse pri alt) = false := hv
    simp only [hlive', hv', Bool.not_true, Bool.false_eq_true, if_false, Bool.not_false, if_true, hsee] at hbranch
    rw [hdev, hbranch]
    exact ⟨rfl, rfl, rfl, rfl⟩
  · have hlive' : s.dev.fresh.refLive = false := hlive
    simp only [hlive', Bool.not_false, if_true, hsee] at hbranch
    rw [hdev, hbranch]
    exact ⟨rfl, rfl, rfl, rfl⟩

end Sys2Proof.Machine
end

section
/-! SUPPORT. MSYNC (02 R46, R56-R62): what an edge, a boundary and a boundary missed lead to. -/

namespace Sys2Proof.Machine

/-! ### Edges (02 R56, R57) -/

/-- The boundary that an edge captured `ago` ns ago is matched with, and its offset. -/
def Dev.edgeBound (d : Dev) (ago : Nat) : Nat × Int :=
  nearestBound (d.edgePos ago) d.edgeBounds (d.msync.bpi, d.msync.ofs)

/-- An edge of the other polarity, outside the window, or at a boundary that has had its edge, is at most reported. -/
theorem msyncEdge_ignored {d : Dev} {ago : Nat} {falling : Bool}
    (h : falling ≠ d.flag Reg.msyncCtrl 1 ∨
      2 ^ d.fld Reg.msyncCtrl 20 16 < absI (edgeError (d.edgePos ago) (d.edgeBound ago)) ∨
      d.msync.accepted = some (d.edgeBound ago).1) : Reports d (msyncEdgeEffect ago falling d) := by
  unfold msyncEdgeEffect
  split
  · exact Reports.refl d
  · next hcap =>
    have hpol : ¬ falling ≠ d.flag Reg.msyncCtrl 1 := fun hne => hcap (by simp [hne])
    dsimp only
    split
    · exact raise_reports d _ _
    · next hkept => exact absurd (h.resolve_left hpol) hkept

/-- Any other edge is accepted: its error sets the target, limited to ABS. -/
theorem msyncEdge_accepted {d : Dev} {ago : Nat} {falling : Bool} (hc : d.dev.clocked = true) (hen : d.msyncEn = true)
    (hpol : falling = d.flag Reg.msyncCtrl 1)
    (hwin : absI (edgeError (d.edgePos ago) (d.edgeBound ago)) ≤ 2 ^ d.fld Reg.msyncCtrl 20 16)
    (honce : d.msync.accepted ≠ some (d.edgeBound ago).1) :
    ∃ run clip rep was, Reports { d with msync := { d.msync with
        tgt := clampI (-(d.fld Reg.msyncAbs 19 0 : Int)) (d.fld Reg.msyncAbs 19 0 : Int)
          ((d.edgeBound ago).2 + edgeError (d.edgePos ago) (d.edgeBound ago))
        err := edgeError (d.edgePos ago) (d.edgeBound ago), accepted := some (d.edgeBound ago).1
        runStart := run, tracking := true, absClip := clip, reported := rep, was := was } } (msyncEdgeEffect ago falling d) := by
  have hcap : ¬ (!(d.dev.clocked && d.msyncEn) || (falling != d.flag Reg.msyncCtrl 1)) = true := by simp [hc, hen, hpol]
  unfold msyncEdgeEffect
  rw [if_neg hcap]
  dsimp only
  rw [if_neg (by rw [not_or]; exact ⟨Int.not_lt.2 hwin, honce⟩)]
  split
  · rw [(raise_reports d .msync 9).msync]
    exact ⟨_, _, _, _, (raise_reports d .msync 9).set_msync _⟩
  · exact ⟨_, _, _, _, Reports.refl _⟩

/-! ### Boundaries (02 R46, R58, R60, R62) -/

/-- MSYNC as the beacon period that begins finds it. -/
def Dev.nextMsync (d : Dev) : Msync :=
  let m := d.msync
  let m := { m with prevOfs := m.ofs, past := (m.ofs :: m.past).take 16, ofs := m.ofs + m.step, bpi := (m.bpi + 1) % 2 ^ 23 }
  let m := if d.msyncEn then m else m.released
  if !d.msyncEn && decide (d.msyncDiv < bpSince m.runStart m.bpi) then { m with tracking := false } else m

/-- The target that the step at a boundary is decided on. -/
def Dev.stepTarget (d : Dev) : Int := if d.msyncEn then (d.msync.judged d.clk).1 else 0

/-- The step decided at a boundary: within RATE towards the target, and none outside RUN. -/
def Dev.nextStep (d : Dev) : Int :=
  if d.dev = .run then
    clampI (-(d.fld Reg.msyncRate 14 0 : Int)) (d.fld Reg.msyncRate 14 0 : Int) ((d.nextMsync.judged d.clk).1 - d.nextMsync.ofs)
  else 0

/-- The period counts on, under the offset that the step decided before gives; without `EN` the target is zero. -/
theorem nextMsync_fields (d : Dev) :
    d.nextMsync.bpi = (d.msync.bpi + 1) % 2 ^ 23 ∧ d.nextMsync.ofs = d.msync.ofs + d.msync.step ∧
    d.nextMsync.past = (d.msync.ofs :: d.msync.past).take 16 ∧ d.nextMsync.tgt = (if d.msyncEn then d.msync.tgt else 0) ∧
    (d.nextMsync.judged d.clk).1 = d.stepTarget := by
  unfold Dev.nextMsync Dev.stepTarget
  dsimp only
  generalize (d.msync.bpi + 1) % 2 ^ 23 = b
  cases d.msyncEn with
  | true => exact ⟨rfl, rfl, rfl, rfl, rfl⟩
  | false =>
    simp only [Bool.not_false, Bool.true_and, Bool.false_eq_true, if_false]
    split
    · exact ⟨rfl, rfl, rfl, rfl, rfl⟩
    · exact ⟨rfl, rfl, rfl, rfl, rfl⟩

/-- The device at a boundary: the step is decided and the corrections of the loop act. -/
def Dev.crossed (d : Dev) (rep : Bool) : Dev :=
  Dev.applyLoop { d with msync := { d.nextMsync with step := d.nextStep, reported := rep, was := none } }

theorem msyncoPulse_eq (d : Dev) :
    ∃ n e, d.msyncoPulse = { d with msync := { d.msync with pulses := n, pulseEnd := e } } := by
  unfold Dev.msyncoPulse
  split
  · exact ⟨_, _, rfl⟩
  · exact ⟨_, _, rfl⟩

/-- At a boundary that is due the next period begins, a step that is limited is reported, and MSYNCO pulses. -/
theorem msyncStepEffect_eq {d : Dev} (hd : d.bpDue = true) :
    ∃ rep e, Reports (d.crossed rep) e ∧ msyncStepEffect d = e.msyncoPulse := by
  have hform : ∃ rep limited tell detail, msyncStepEffect d =
      (let x := d.crossed rep
       let x := if limited = true then x.raise .msync 8 else x
       if tell = true then x.event 0x0104 stOk 0 detail else x).msyncoPulse := ⟨_, _, _, _, if_neg (by simp [hd])⟩
  obtain ⟨rep, limited, tell, detail, heff⟩ := hform
  have hraise : ∀ x : Dev, Reports x (if limited = true then x.raise .msync 8 else x) :=
    fun x => ite_reports (raise_reports x _ _) (Reports.refl x)
  exact ⟨rep, _, (hraise _).trans (ite_reports (event_reports _ _ _ _ _) (Reports.refl _)), heff⟩

/-- The step stays within RATE, is none outside RUN, and reaches a target within RATE. -/
theorem nextStep_bounds (d : Dev) :
    absI d.nextStep ≤ d.fld Reg.msyncRate 14 0 ∧ (d.dev ≠ .run → d.nextStep = 0) ∧
    (d.dev = .run → absI (d.stepTarget - (d.msync.ofs + d.msync.step)) ≤ d.fld Reg.msyncRate 14 0 →
      d.nextStep = d.stepTarget - (d.msync.ofs + d.msync.step)) := by
  obtain ⟨-, hofs, -, -, htarget⟩ := nextMsync_fields d
  unfold Dev.nextStep
  rw [hofs, htarget]
  by_cases hrun : d.dev = .run
  · rw [if_pos hrun]
    exact ⟨absI_clampI_le (Int.natCast_nonneg _) _, fun h => absurd hrun h, fun _ => clampI_of_absI_le⟩
  · rw [if_neg hrun]
    exact ⟨Int.natCast_nonneg _, fun _ => rfl, fun h => absurd h hrun⟩

/-- The timebase at a boundary: the frequency word moves, and the phase correction found waits to be spread at a rate. -/
def Timebase.corrected (t : Timebase) (rate : Int) : Timebase :=
  { t with freq := BitVec.ofInt 32 ((t.freq.toNat : Int) + t.freqNext)
           corrLeft := t.corrLeft + t.corrNext * ((2 ^ 24 : Nat) : Int), corrRate := rate, corrUsed := 0, corrNext := 0
           freqNext := 0 }

theorem applyLoop_eq (d : Dev) : ∃ rate, d.applyLoop = { d with tb := d.tb.corrected rate } := ⟨_, rfl⟩

/-- MSYNC and the timebase after MSYNC_STEP; nothing else changes but by reports. -/
theorem msyncStep_next {s : State} (hd : s.dev.bpDue = true) :
    ∃ t rep n e rate, exec .msyncStep s = .next t ∧ t.pending = s.pending ∧
      t.dev.msync = { s.dev.nextMsync with step := s.dev.nextStep, reported := rep, was := none, pulses := n, pulseEnd := e } ∧
      t.dev.tb = s.dev.tb.corrected rate ∧ Reports { s.dev with msync := t.dev.msync, tb := t.dev.tb } t.dev := by
  obtain ⟨rep, x, hx, heff⟩ := msyncStepEffect_eq (d := s.dev.fresh) hd
  obtain ⟨n, e, hpulse⟩ := msyncoPulse_eq x
  obtain ⟨rate, hloop⟩ := applyLoop_eq
    { s.dev.fresh with msync := { s.dev.nextMsync with step := s.dev.nextStep, reported := rep, was := none } }
  have hcross : s.dev.fresh.crossed rep = _ := hloop
  rw [hcross] at hx
  rw [hpulse] at heff
  have hnext := run_next msyncStepEffect s
  rw [heff] at hnext
  refine ⟨_, rep, n, e, rate, hnext, rfl, ?_, hx.tb, ?_⟩
  · have hm := hx.msync
    simp only [hm, fresh_msync]
  · have hr := (hx.set_msync { x.msync with pulses := n, pulseEnd := e }).trans (fresh_reports _)
    refine Reports.trans ?_ hr
    dsimp only [fresh_tb]
    rw [hx.tb]
    exact ⟨rfl, fun _ _ => rfl⟩

/-! ### Boundaries without an edge (02 R59) -/

/-- After DIV + 1 boundaries without an accepted edge tracking ends, and the run is counted anew. -/
theorem msyncMiss_reports {d : Dev} (hc : d.dev.clocked = true) (hen : d.msyncEn = true)
    (hpast : (2 ^ d.fld Reg.msyncCtrl 20 16 : Int) ≤ edgeError (d.mpt : Int) (d.msync.bpi, d.msync.ofs))
    (hno : d.msync.accepted ≠ some d.msync.bpi) (hdiv : d.msyncDiv ≤ bpSince d.msync.runStart d.msync.bpi)
    (hrun : bpSince d.msync.runStart d.msync.bpi < 2 ^ 22) :
    Reports { d with msync := { d.msync with runStart := d.msync.bpi, tracking := false } } (msyncMissEffect d) := by
  have heff : msyncMissEffect d = _ :=
    if_pos (by simp only [hc, hen, decide_eq_true hpast, decide_eq_true hno, decide_eq_true (And.intro hdiv hrun)]; rfl)
  rw [heff]
  exact raise_reports _ _ _

/-- Settles O29: edges ignored and accepted, boundaries crossed, boundaries missed. -/
theorem msyncSteps : Obligations.MsyncSteps := by
  intro s hc
  refine ⟨?_, fun hd => ?_, fun hen hpast hno hdiv hrun => ?_⟩
  · intro ago falling hen b e lim
    refine ⟨fun h => ?_, fun hpol hwin honce => ?_⟩
    · exact run_reaches ((fresh_reports s.dev).trans (msyncEdge_ignored (d := s.dev.fresh) h))
    · obtain ⟨run, clip, rep, was, hr⟩ := msyncEdge_accepted (d := s.dev.fresh) hc hen hpol hwin honce
      obtain ⟨t, ht, hr, hp⟩ : Reaches (exec (.msyncEdge ago falling) s) s _ :=
        run_reaches (((fresh_reports s.dev).set_msync _).trans hr)
      refine ⟨t, ht, hp, ?_⟩
      rw [hr.msync]
      exact ⟨hr, rfl, rfl, rfl, rfl, rfl, absI_clampI_le (Int.natCast_nonneg _) _, clampI_of_absI_le⟩
  · intro target
    obtain ⟨t, rep, n, e, rate, ht, hp, hm, htb, hr⟩ := msyncStep_next hd
    obtain ⟨hbpi, hofs, hpast, htgt, -⟩ := nextMsync_fields s.dev
    obtain ⟨hrate, hzero, hreach⟩ := nextStep_bounds s.dev
    refine ⟨t, ht, hp, ?_⟩
    rw [htb] at hr ⊢
    rw [hm] at hr ⊢
    refine ⟨hbpi, hofs, hpast, htgt, hrate, hzero, fun hrun hle => ?_, rfl, rfl, hr⟩
    rw [hofs] at hle ⊢
    exact hreach hrun hle
  · exact run_reaches (((fresh_reports s.dev).set_msync _).trans
      (msyncMiss_reports (d := s.dev.fresh) hc hen hpast hno hdiv hrun))

end Sys2Proof.Machine
end

section
/-! SUPPORT. One cycle of CK_MPT (02 R38, R46, R50, 13 R343, 20 R463): what the tick, the derived chains and the sweep of the counters
each make of the device. -/

namespace Sys2Proof.Machine

/-! ### The tick (02 R38, R43, R50) -/

theorem modCounter_reports (d : Dev) (i : Nat) (f : Counter → Counter) : Reports d (d.modCounter i f) := ⟨rfl, fun _ _ => rfl⟩

theorem tickLane_reports (x : EncLane) (n : Nat) (e : Dev) : Reports e (tickLane x n e) := by
  unfold tickLane
  split
  · exact Reports.refl e
  · refine ite_reports (foldl_reports _ (fun e _ => ?_) _ e) (Reports.refl e)
    exact (ite_reports (raise_reports e _ _) (Reports.refl e)).trans (ite_reports (count_reports _ _ _ _ _ _) (Reports.refl _))

/-- The words of five samples leave status bits and counts alone. -/
theorem tickWords_reports (d : Dev) : Reports d d.tickWords := by
  unfold Dev.tickWords iter
  refine foldl_reports _ (fun e i => ?_) _ d
  refine (foldl_reports _ (fun e x => tickLane_reports _ _ e) _ e).trans (foldl_reports _ (fun e x => ?_) _ _)
  exact ite_reports (raise_reports e _ _) (Reports.refl e)

/-- A counter that counts cycles counts one. -/
def Dev.countOne (d : Dev) (e : Nat × Counter) : Dev :=
  if selects e.2 7 0 none then d.modCounter e.1 (fun c => c.add 1) else d

/-- Every counter that counts cycles has counted one. -/
def Dev.countCycle (d : Dev) : Dev := d.cnts.cells.foldl Dev.countOne d

theorem countCycle_reports (d : Dev) : Reports d d.countCycle :=
  foldl_reports _ (fun d _ => ite_reports (modCounter_reports d _ _) (Reports.refl d)) _ d

theorem foldl_countOne_posted (l : List (Nat × Counter)) : ∀ d : Dev, (l.foldl Dev.countOne d).posted = d.posted := by
  induction l with
  | nil => exact fun _ => rfl
  | cons e l ih =>
    intro d
    rw [List.foldl_cons, ih, Dev.countOne]
    split <;> rfl

theorem countCycle_posted (d : Dev) : d.countCycle.posted = d.posted := foldl_countOne_posted _ d

/-- While MPT runs, the tick moves the clock, the ports and the timebase, counts, and posts nothing. -/
theorem tick_clocked {d : Dev} (hc : d.dev.clocked = true) :
    ∃ ps, Reports { d with clk := d.clk + 1, ports := ps, tb := d.tb.tick } d.tick ∧ d.tick.posted = d.posted := by
  have hform : ∃ ps wraps, d.tick =
      (let c : Dev := { d with clk := d.clk + 1, ports := ps, regs := d.tickWords.regs, cnts := d.tickWords.cnts, tb := d.tb.tick }
       if wraps = true then c.countCycle.setFld Reg.cntStat 0 0 1 else c.countCycle) := ⟨_, _, if_neg (by simp [hc])⟩
  obtain ⟨ps, wraps, heff⟩ := hform
  obtain ⟨hcore, hcfg⟩ := tickWords_reports d
  have hwords : ∀ x : Timebase, Reports { d with clk := d.clk + 1, ports := ps, tb := x }
      { d with clk := d.clk + 1, ports := ps, regs := d.tickWords.regs, cnts := d.tickWords.cnts, tb := x } := fun x =>
    ⟨congrArg (fun c : Core => { d.core with clk := d.clk + 1, ports := ps, tb := x, cnts := c.cnts }) hcore, hcfg⟩
  have hcount := (hwords d.tb.tick).trans (countCycle_reports _)
  rw [heff]
  dsimp only
  refine ⟨ps, hcount.trans (ite_reports (setFld_reports statusOff_cnt _ _ _ _) (Reports.refl _)), ?_⟩
  split <;> exact countCycle_posted _

/-- Before CONFIG only the clock moves. -/
theorem tick_unclocked {d : Dev} (hc : d.dev.clocked = false) : d.tick = { d with clk := d.clk + 1 } := if_pos (by simp [hc])

/-- What every tick leaves alone. -/
theorem tick_keeps (d : Dev) :
    d.tick.dev = d.dev ∧ d.tick.clk = d.clk + 1 ∧ d.tick.meas = d.meas ∧ d.tick.cnts.ix = d.cnts.ix ∧ d.tick.posted = d.posted := by
  cases hc : d.dev.clocked with
  | true =>
    obtain ⟨ps, hr, hp⟩ := tick_clocked hc
    exact ⟨hr.dev, hr.clk, hr.meas, congrArg (fun c => c.cnts.ix) hr.1, hp⟩
  | false =>
    rw [tick_unclocked hc]
    exact ⟨rfl, rfl, rfl, rfl, rfl⟩

/-- A correction is spread by its rate, and what is less than a share is taken whole. -/
theorem tick_corr (t : Timebase) :
    t.tick.corrLeft = t.corrLeft - (if absI t.corrLeft ≤ absI t.corrRate then t.corrLeft else t.corrRate) := by
  by_cases h : t.corrLeft = 0
  · have hshare : absI t.corrLeft ≤ absI t.corrRate := by
      rw [h]
      unfold absI
      split <;> split <;> omega
    simp [Timebase.tick, h, if_pos (h ▸ hshare)]
  · simp only [Timebase.tick, if_neg h]

/-- MPT advances by the frequency word and by the share taken. -/
theorem tick_acc (t : Timebase) :
    t.tick.acc = BitVec.ofInt 72 ((t.acc.toNat : Int) + (t.freq.toNat : Int) + (t.corrLeft - t.tick.corrLeft)) := by
  simp only [Timebase.tick, Int.sub_sub_self]

/-! ### The derived chains (13 R343, R344) -/

/-- Whether this cycle has reached an output instant. -/
def Dev.derDue (d : Dev) : Prop := d.meas.clocks = true ∧ 4 * d.meas.start + 12800 * (d.meas.derN + 1) ≤ 4 * d.clk

theorem derCycle_due {d : Dev} (h : d.derDue) :
    d.derCycle = { d with meas := { d.meas with
      derN := d.meas.derN + 1, stamps := d.meas.stamps ++ [d.stamp 4 8 (4 * d.meas.start) (d.meas.derN + 1)] } } := if_pos h

theorem derCycle_not_due {d : Dev} (h : ¬ d.derDue) : d.derCycle = d := if_neg h

/-- Only the measurement state changes. -/
theorem derCycle_eq (d : Dev) : ∃ m, d.derCycle = { d with meas := m } := by
  by_cases h : d.derDue
  · exact ⟨_, derCycle_due h⟩
  · exact ⟨d.meas, derCycle_not_due h⟩

/-! ### The sweep (20 R463-R466) -/

theorem turnCounter_eq (d : Dev) (i : Nat) :
    ∃ rs cs, d.turnCounter i = { d with regs := rs, cnts := { d.cnts with cells := cs } } := by
  unfold Dev.turnCounter
  split
  · exact ⟨d.regs, d.cnts.cells, rfl⟩
  · exact ⟨_, _, rfl⟩

/-- The cycle of a counter first turns the one before it. -/
theorem turnBefore_eq (d : Dev) (i : Nat) :
    ∃ rs cs, (if i = 0 then d else d.turnCounter (i - 1)) = { d with regs := rs, cnts := { d.cnts with cells := cs } } := by
  split
  · exact ⟨d.regs, d.cnts.cells, rfl⟩
  · exact turnCounter_eq d (i - 1)

theorem endSweep_reports (d : Dev) :
    Reports { d with cnts := { d.cnts with swn := (d.cnts.swn + 1) % 2 ^ 32, dueSets := [], dueSnaps := [] } } d.endSweep := by
  unfold Dev.endSweep
  exact (foldl_reports _ (fun d id => finishSt_reports d id _) _ _).trans
    (foldl_reports _ (fun d id => finishBlock_reports d id _ _ _) _ _)

theorem sweepCycle_idle {d : Dev} (h : d.cnts.ix = none) : d.sweepCycle = d := by
  unfold Dev.sweepCycle
  rw [h]

/-- The cycle after the last capture ends the sweep. -/
theorem sweepCycle_past {d : Dev} {i : Nat} (h : d.cnts.ix = some i) (hi : 672 ≤ i) :
    ∃ rs cs, d.sweepCycle = { d with regs := rs, cnts := { d.cnts with cells := cs, ix := none } } := by
  obtain ⟨rs, cs, hturn⟩ := turnBefore_eq d i
  unfold Dev.sweepCycle
  rw [h]
  dsimp only
  rw [hturn, if_pos hi]
  exact ⟨rs, cs, rfl⟩

/-- A cycle of the sweep captures its counter; the last one ends with the sweep's record. -/
theorem sweepCycle_captures {d : Dev} {i : Nat} (h : d.cnts.ix = some i) (hi : i < 672) :
    ∃ x rs cs, x = { d with regs := rs, cnts := { d.cnts with cells := cs, ix := some (i + 1) } } ∧
      (x.counter i).capVal = (x.counter i).value ∧ (x.counter i).capSel = (x.counter i).sel ∧
      d.sweepCycle = if i = 671 then x.endSweep else x := by
  obtain ⟨rs, cs, hturn⟩ := turnBefore_eq d i
  obtain ⟨y, hy⟩ : ∃ y : Dev, y = { d with regs := rs, cnts := { d.cnts with cells := cs } } := ⟨_, rfl⟩
  obtain ⟨x, hx⟩ : ∃ x : Dev, x = { y.modCounter i Counter.capture with
      cnts := { (y.modCounter i Counter.capture).cnts with ix := some (i + 1) } } := ⟨_, rfl⟩
  have hcap : x.counter i = (y.counter i).capture := by rw [hx]; exact counter_modCounter_same y i Counter.capture
  refine ⟨x, rs, _, by rw [hx, hy]; rfl, by rw [hcap]; rfl, by rw [hcap]; rfl, ?_⟩
  unfold Dev.sweepCycle
  rw [h]
  dsimp only
  rw [hturn, if_neg (Nat.not_le.2 hi), ← hy, hx]

/-- The sweep leaves the clock, the timebase and the measurement state alone. -/
theorem sweepCycle_sameTime (d : Dev) : SameTime d d.sweepCycle := by
  cases h : d.cnts.ix with
  | none => rw [sweepCycle_idle h]; exact SameTime.refl d
  | some i =>
    by_cases hi : i < 672
    · obtain ⟨x, rs, cs, hx, -, -, heff⟩ := sweepCycle_captures h hi
      have hsame : SameTime d x := by rw [hx]; exact ⟨rfl, rfl, rfl, rfl⟩
      obtain ⟨hd, hc, ht, hm⟩ := (endSweep_reports x).sameTime
      rw [heff]
      exact hsame.trans (ite_sameTime ⟨hd, hc, ht, hm⟩ (SameTime.refl x))
    · obtain ⟨rs, cs, heff⟩ := sweepCycle_past h (Nat.not_lt.1 hi)
      rw [heff]
      exact ⟨rfl, rfl, rfl, rfl⟩

/-- Only the cycle of the last capture posts writes. -/
theorem sweepCycle_posted {d : Dev} (h : d.cnts.ix ≠ some 671) : d.sweepCycle.posted = d.posted := by
  cases hix : d.cnts.ix with
  | none => rw [sweepCycle_idle hix]
  | some i =>
    by_cases hi : i < 672
    · obtain ⟨x, rs, cs, hx, -, -, heff⟩ := sweepCycle_captures hix hi
      have hlast : i ≠ 671 := fun e => h (hix.trans (congrArg some e))
      rw [heff, if_neg hlast, hx]
    · obtain ⟨rs, cs, heff⟩ := sweepCycle_past hix (Nat.not_lt.1 hi)
      rw [heff]

/-- A sweep that runs goes one counter further. -/
theorem sweepCycle_next {d : Dev} {i : Nat} (h : d.cnts.ix = some i) (hi : i < 672) :
    d.sweepCycle.cnts.ix = some (i + 1) ∧ (i < 671 →
      (d.sweepCycle.counter i).capVal = (d.sweepCycle.counter i).value ∧
      (d.sweepCycle.counter i).capSel = (d.sweepCycle.counter i).sel) := by
  obtain ⟨x, rs, cs, hx, hval, hsel, heff⟩ := sweepCycle_captures h hi
  have hix : x.cnts.ix = some (i + 1) := by rw [hx]
  rw [heff]
  split
  · next hlast =>
    have hend : x.endSweep.cnts.ix = x.cnts.ix := congrArg (fun c => c.cnts.ix) (endSweep_reports x).1
    exact ⟨hend.trans hix, fun h => absurd hlast (Nat.ne_of_lt h)⟩
  · exact ⟨hix, fun _ => ⟨hval, hsel⟩⟩

/-! ### The cycle -/

/-- What the cycle makes of the time: the timebase and the clock of the tick, the measurement state of the derived chains. -/
theorem cycle_time (d : Dev) :
    d.cycle.dev = d.dev ∧ d.cycle.clk = d.clk + 1 ∧ d.cycle.tb = d.tick.tb ∧ d.cycle.meas = d.tick.derCycle.meas := by
  obtain ⟨hdev, hclk, -⟩ := tick_keeps d
  obtain ⟨m, hm⟩ := derCycle_eq d.tick
  have hsweep := sweepCycle_sameTime d.tick.derCycle
  have hder : d.tick.derCycle.dev = d.tick.dev ∧ d.tick.derCycle.clk = d.tick.clk ∧ d.tick.derCycle.tb = d.tick.tb := by
    rw [hm]; exact ⟨rfl, rfl, rfl⟩
  obtain ⟨hd, hc, ht⟩ := hder
  exact ⟨hsweep.dev.trans (hd.trans hdev), hsweep.clk.trans (hc.trans hclk), hsweep.tb.trans ht, hsweep.meas⟩

/-- The sweep finds the place that the device had, and nothing posted. -/
theorem derCycle_tick_keeps (d : Dev) : d.tick.derCycle.cnts.ix = d.cnts.ix ∧ d.tick.derCycle.posted = d.posted := by
  obtain ⟨-, -, -, hix, hp⟩ := tick_keeps d
  obtain ⟨m, hm⟩ := derCycle_eq d.tick
  rw [hm]
  exact ⟨hix, hp⟩

/-- An output instant reached leaves the timestamp that the device after the cycle gives it. -/
theorem cycle_meas_due {d : Dev} (hm : d.meas.clocks = true)
    (hd : 4 * d.meas.start + 12800 * (d.meas.derN + 1) ≤ 4 * (d.clk + 1)) :
    d.cycle.meas.derN = d.meas.derN + 1 ∧
    d.cycle.meas.stamps = d.meas.stamps ++ [d.cycle.stamp 4 8 (4 * d.meas.start) (d.meas.derN + 1)] := by
  obtain ⟨-, hclk, hmeas, -, -⟩ := tick_keeps d
  obtain ⟨-, hc, ht, hcm⟩ := cycle_time d
  have hdue : d.tick.derDue := by unfold Dev.derDue; rw [hmeas, hclk]; exact ⟨hm, hd⟩
  have hstamp : ∀ n e sync j, d.cycle.stamp n e sync j = d.tick.stamp n e sync j := fun n e sync j => by
    unfold Dev.stamp Dev.mptAtNs
    rw [ht, hc, hclk]
  rw [hcm, derCycle_due hdue, hmeas, hstamp]
  exact ⟨rfl, rfl⟩

theorem cycle_meas_not_due {d : Dev}
    (h : d.meas.clocks = false ∨ 4 * (d.clk + 1) < 4 * d.meas.start + 12800 * (d.meas.derN + 1)) :
    d.cycle.meas = d.meas := by
  obtain ⟨-, hclk, hmeas, -, -⟩ := tick_keeps d
  have hnot : ¬ d.tick.derDue := by
    unfold Dev.derDue
    rw [hmeas, hclk]
    rintro ⟨hm, hd⟩
    rcases h with h | h
    · simp [h] at hm
    · exact Nat.not_lt.2 hd h
  rw [(cycle_time d).2.2.2, derCycle_not_due hnot, hmeas]

/-- A step on an empty queue is the run of a cycle. -/
theorem step_empty {s : State} (h : s.pending = []) : step s = run Dev.cycle s := by
  unfold step
  rw [h]
  rfl

/-- Settles O5: the parts of the cycle, each by its own lemma. -/
theorem idleStepAdvancesTime : Obligations.IdleStepAdvancesTime := by
  intro s hq
  obtain ⟨hdev, hclk, htb, -⟩ := cycle_time s.dev.fresh
  obtain ⟨hix, hposted⟩ := derCycle_tick_keeps s.dev.fresh
  refine ⟨_, (step_empty hq).trans (run_next Dev.cycle s), hq, hclk, hdev, fun hlast => ?_, fun hc => ?_, fun hc => ?_,
    fun i hi hlt => ?_, fun hi => ?_, fun hi => ?_, cycle_meas_due (d := s.dev.fresh), cycle_meas_not_due (d := s.dev.fresh)⟩
  · have hnone : s.dev.fresh.cycle.posted = [] := (sweepCycle_posted (by rw [hix]; exact hlast)).trans hposted
    dsimp only
    rw [hnone]
    rfl
  · obtain ⟨ps, hr, -⟩ := tick_clocked (d := s.dev.fresh) hc
    dsimp only
    rw [fresh_tb, htb, hr.tb]
    exact ⟨tick_corr _, tick_acc _, rfl⟩
  · dsimp only
    rw [fresh_tb, htb, tick_unclocked (d := s.dev.fresh) hc]
    rfl
  · exact sweepCycle_next (hix.trans hi) hlt
  · obtain ⟨rs, cs, heff⟩ := sweepCycle_past (hix.trans hi) (Nat.le_refl 672)
    dsimp only
    rw [fresh_cnts, Dev.cycle, heff]
  · dsimp only
    rw [fresh_cnts, Dev.cycle, sweepCycle_idle (hix.trans hi), hix]
    exact hi

end Sys2Proof.Machine
end

section
/-! SUPPORT. Driver faults and converter calibration (03 R77-R79, 04 R107, 21 R476): what a port that leaves service and a group that is
judged leave of the ports' faults and calibration results, and the port that each event leaves. -/

namespace Sys2Proof.Machine

/-! ### What a port keeps out of service -/

/-- The faults of a port, the temperature of its driver, and what its last converter calibration found. -/
structure LineRecord where
  ocFault : Bool
  thFault : Bool
  ocBarred : Bool
  temp : Int
  calOk : Bool
  calFail : Bool
  ldacTrim : Int
  sadcOfs : Int
  madcOfs : Int

def Port.record (x : Port) : LineRecord :=
  { ocFault := x.ocFault, thFault := x.thFault, ocBarred := x.ocBarred, temp := x.temp, calOk := x.calOk, calFail := x.calFail,
    ldacTrim := x.ldacTrim, sadcOfs := x.sadcOfs, madcOfs := x.madcOfs }

/-- A port whose canceller is in IDLE (04 R107). -/
def Port.idle (x : Port) : Prop := x.ech = .idle ∧ x.held = true

/-- `y` has the faults and calibration results of `x`, and where `x` is muted, not in calibration, or its canceller idle, so is `y`. -/
structure Port.Calms (x y : Port) : Prop where
  record : y.record = x.record
  muted : x.enabled = false → y.enabled = false
  calib : x.calib = false → y.calib = false
  idle : x.idle → y.idle

theorem Port.Calms.refl (x : Port) : x.Calms x := ⟨rfl, id, id, id⟩

theorem Port.Calms.trans {x y z : Port} (h : x.Calms y) (k : y.Calms z) : x.Calms z :=
  ⟨k.record.trans h.record, k.muted ∘ h.muted, k.calib ∘ h.calib, k.idle ∘ h.idle⟩

/-- `b` is in the device state of `a`, and every port has only become calmer. -/
structure Calms (a b : Dev) : Prop where
  dev : b.dev = a.dev
  port : ∀ p, (a.port p).Calms (b.port p)

theorem Calms.trans {a b c : Dev} (h : Calms a b) (k : Calms b c) : Calms a c :=
  ⟨k.dev.trans h.dev, fun p => (h.port p).trans (k.port p)⟩

/-- A device whose ports stand as they did. -/
theorem Calms.of_ports {a b : Dev} (hd : b.dev = a.dev) (hp : b.ports = a.ports) : Calms a b := by
  refine ⟨hd, fun p => ?_⟩
  unfold Dev.port
  rw [hp]
  exact Port.Calms.refl _

theorem Calms.refl (a : Dev) : Calms a a := .of_ports rfl rfl

theorem Reports.calms {a b : Dev} (h : Reports a b) : Calms a b := .of_ports h.dev h.ports

theorem Calms.foldl {α : Type} {f : Dev → α → Dev} {l : List α} {a d : Dev} (h : Calms a d)
    (hf : ∀ d x, Calms d (f d x)) : Calms a (l.foldl f d) := by
  induction l generalizing d with
  | nil => exact h
  | cons x l ih => exact ih (h.trans (hf d x))

theorem ite_calms {d a b : Dev} {p : Prop} [Decidable p] (ha : Calms d a) (hb : Calms d b) :
    Calms d (if p then a else b) := by split <;> assumption

theorem modPort_calms {d : Dev} {p : Nat} {f : Port → Port} (h : (d.port p).Calms (f (d.port p))) :
    Calms d (d.modPort p f) := by
  refine ⟨rfl, fun q => ?_⟩
  by_cases e : q = p
  · rw [e, port_modPort_same]; exact h
  · rw [port_modPort_ne e]; exact Port.Calms.refl _

theorem modGroup_calms (d : Dev) (g : Nat) (f : Group → Group) : Calms d (d.modGroup g f) := .of_ports rfl rfl
theorem modDec_calms (d : Dev) (l : Nat) (f : DecLane → DecLane) : Calms d (d.modDec l f) := .of_ports rfl rfl
theorem modEnc_calms (d : Dev) (l : Nat) (f : EncLane → EncLane) : Calms d (d.modEnc l f) := .of_ports rfl rfl
theorem finishSt_calms (d : Dev) (id st : Nat) : Calms d (d.finishSt id st) := (finishSt_reports d id st).calms

/-- A canceller that enters IDLE enables no driver (04 R107). -/
theorem toIdle_calms (d : Dev) (p : Nat) : Calms d (d.toIdle p) := by
  refine modPort_calms ⟨rfl, fun hm => ?_, id, fun _ => ⟨rfl, rfl⟩⟩
  dsimp only
  rw [hm, Bool.false_and]

theorem toIdle_idle (d : Dev) (p : Nat) : ((d.toIdle p).port p).idle := by
  rw [Dev.toIdle, port_modPort_same]
  exact ⟨rfl, rfl⟩

/-! ### Groups and their maintenance -/

theorem unbindDec_calms (d : Dev) (l : Nat) : Calms d (d.unbindDec l) := by
  have settles : Calms d (d.settleLane l) := ite_calms (modDec_calms d _ _) (Calms.refl d)
  unfold Dev.unbindDec
  simp only
  refine settles.trans (Calms.trans (ite_calms ?_ (Calms.refl _)) (modDec_calms _ _ _))
  split
  · exact ((raise_reports _ _ _).trans (trace_reports _ _ _ _ _ _)).calms
  · exact (raise_reports _ _ _).calms

theorem unbindEnc_calms (d : Dev) (l : Nat) : Calms d (d.unbindEnc l) :=
  ((Calms.refl d).foldl fun _ _ => modPort_calms ⟨rfl, id, id, id⟩).trans (modEnc_calms _ _ _)

theorem unbindGroup_calms (d : Dev) (g : Nat) : Calms d (d.unbindGroup g) :=
  ((Calms.refl d).foldl unbindDec_calms).foldl unbindEnc_calms

theorem endFades_calms (d : Dev) (p : Nat) : Calms d (d.endFades p) := by
  have ends : ∀ (d : Dev) (f : Port → Port) (id : Option Nat), (d.port p).Calms (f (d.port p)) →
      Calms d ((d.modPort p f).finishOpt id stOk) :=
    fun d f id h => (modPort_calms h).trans (finishOpt_reports _ _ _).calms
  have swaps : ∀ d : Dev, ∀ w : Swap,
      Calms d ((d.modPort p (fun x => { x with swap := none, bank := w.target })).finishOpt w.cmd stOk) :=
    fun d w => ends d _ _ ⟨rfl, id, id, id⟩
  unfold Dev.endFades
  dsimp only
  cases (d.port p).fade with
  | none =>
    cases (d.port p).swap with
    | none => exact Calms.refl d
    | some w => exact swaps d w
  | some f =>
    have fades := ends d (fun x => { x with fade := none, bank := !f.src }) f.cmd ⟨rfl, id, id, id⟩
    cases (d.port p).swap with
    | none => exact fades
    | some w => exact fades.trans (swaps _ w)

theorem endJoined_calms {fin : Dev → Nat → Dev} (hf : ∀ d id, Calms d (fin d id)) (d : Dev) (ps : List Nat) :
    Calms d (d.endJoined ps fin) := by
  unfold Dev.endJoined
  exact Calms.foldl (.of_ports rfl rfl) hf

theorem flushMnt_calms (d : Dev) (ps : List Nat) : Calms d (d.flushMnt ps) := by
  have flushes : ∀ (d : Dev) (id : Nat), Calms d (d.finishSt id stFlushed) := fun d id => finishSt_calms d id _
  unfold Dev.flushMnt
  refine Calms.foldl (Calms.trans (Calms.foldl ?_ fun d r => ?_) (endJoined_calms flushes _ _)) flushes
  · exact .of_ports rfl rfl
  · exact .of_ports rfl rfl

theorem dropSessions_calms (d : Dev) (nh : Nat) : Calms d (d.dropSessions nh) := by
  unfold Dev.dropSessions
  refine Calms.foldl ?_ fun d s => (Calms.refl d).foldl fun d c => finishSt_calms d c _
  exact .of_ports rfl rfl

theorem setGroup_calms (d : Dev) (g : Nat) (st : GroupState) : Calms d (d.setGroup g st) :=
  ite_calms (Calms.refl d) ((modGroup_calms d g _).trans (event_reports _ _ _ _ _).calms)

theorem startDone_calms (d : Dev) (g st : Nat) : Calms d (d.startDone g st) := by
  unfold Dev.startDone
  split
  · exact Calms.refl d
  · exact (modGroup_calms d g _).trans (finish_reports _ _ _ _).calms

theorem groupDown_calms (d : Dev) (g : Nat) : Calms d (d.groupDown g) := by
  have stops : ∀ (d : Dev) (p : Nat), Calms d (d.modPort p (fun x => { x with calib := false, trainEnd := false })) :=
    fun d p => modPort_calms ⟨rfl, id, fun _ => rfl, id⟩
  unfold Dev.groupDown
  refine ite_calms (Calms.refl d) (Calms.foldl (Calms.trans ?_ (flushMnt_calms _ _)) dropSessions_calms)
  refine Calms.foldl (Calms.foldl (Calms.trans ?_ (modGroup_calms _ g _)) toIdle_calms) endFades_calms
  exact ((setGroup_calms d g .down).foldl stops).trans (unbindGroup_calms _ g)

theorem groupLive_calms (d : Dev) (g : Nat) (st : GroupState) : Calms d (d.groupLive g st) :=
  ((setGroup_calms d g st).trans (modGroup_calms _ g _)).trans (startDone_calms _ g stOk)

theorem judgeCal_calms (d : Dev) (g : Nat) : Calms d (d.judgeCal g) := by
  have downs : Calms d ((d.modGroup g (fun x => { x with startCmd := none })).groupDown g) :=
    (modGroup_calms d g _).trans (groupDown_calms _ g)
  unfold Dev.judgeCal
  refine ite_calms (ite_calms ?_ (ite_calms (groupLive_calms d g _) (Calms.refl d))) (Calms.refl d)
  dsimp only
  split
  · exact downs
  · exact downs.trans (finish_reports _ _ _ _).calms

theorem portChanged_calms (d : Dev) (g : Nat) : Calms d (d.portChanged g) :=
  ite_calms (ite_calms (groupDown_calms d g) (setGroup_calms d g _)) (judgeCal_calms d g)

theorem endMnt_calms (d : Dev) (kind p q0 q3 q4 : Nat) : Calms d (d.endMnt kind p q0 q3 q4) := by
  obtain ⟨e, he⟩ : ∃ e, e = if kind = 2 then d.endJoined [p] (fun d id => d.finish id stOk (quints q0 0 0 q3 q4)) else d :=
    ⟨_, rfl⟩
  have joined : Calms d e :=
    he ▸ ite_calms (endJoined_calms (fun d id => (finish_reports d id _ _).calms) d [p]) (Calms.refl d)
  unfold Dev.endMnt
  dsimp only
  rw [← he]
  refine joined.trans ?_
  split
  · exact Calms.refl e
  · exact Calms.foldl (.of_ports rfl rfl) fun d c => (finish_reports d _ _ _).calms

theorem requeueMnt_calms (d : Dev) (kind p : Nat) : Calms d (d.requeueMnt kind p) := by
  unfold Dev.requeueMnt
  split
  · exact Calms.refl d
  · exact .of_ports rfl rfl

/-- What the device asks of maintenance itself changes the maintenance queues alone (21 R477). -/
theorem askMnt_own_eq (d : Dev) (kind p : Nat) : ∃ m, d.askMnt kind p none = { d with mnt := m } := by
  unfold Dev.askMnt
  split
  · exact ⟨d.mnt, rfl⟩
  · split
    · exact ⟨_, rfl⟩
    · dsimp only
      split <;> exact ⟨_, rfl⟩

theorem askMnt_own_calms (d : Dev) (kind p : Nat) : Calms d (d.askMnt kind p none) := by
  obtain ⟨m, hm⟩ := askMnt_own_eq d kind p
  rw [hm]
  exact .of_ports rfl rfl

/-! ### A port taken out of service by a driver fault (03 R77, 04 R107) -/

/-- What follows the canceller's passage to IDLE as a port leaves service. -/
theorem toIdle_leaveService_calms (d : Dev) (p : Nat) : Calms (d.toIdle p) (d.leaveService p) :=
  ite_calms (endMnt_calms _ _ _ _ _ _) (requeueMnt_calms _ _ _)

theorem toIdle_portOut_calms (d : Dev) (p : Nat) : Calms (d.toIdle p) (d.portOut p) :=
  (toIdle_leaveService_calms d p).trans (portChanged_calms _ _)

/-- A driver fault changes its port by `f`, is reported by status bit `b` and cause `k`, and takes the port out of service. -/
def Dev.faultOut (d : Dev) (p : Nat) (f : Port → Port) (b : Nat) (k : Byte) : Dev :=
  (((d.modPort p f).raise (.port (portGroup p) (p % 4)) b).event 0x0203 stOk p [k]).portOut p

theorem faultOut_port (d : Dev) (p : Nat) {f : Port → Port} (b : Nat) (k : Byte) (hm : (f (d.port p)).enabled = false) :
    (d.faultOut p f b k).dev = d.dev ∧ ((d.faultOut p f b k).port p).record = (f (d.port p)).record ∧
      ((d.faultOut p f b k).port p).enabled = false ∧ ((d.faultOut p f b k).port p).idle := by
  obtain ⟨e, he⟩ : ∃ e, e = ((d.modPort p f).raise (.port (portGroup p) (p % 4)) b).event 0x0203 stOk p [k] := ⟨_, rfl⟩
  have hreport : Reports (d.modPort p f) e := he ▸ (raise_reports _ _ _).trans (event_reports _ _ _ _ _)
  have hport : e.port p = f (d.port p) := by rw [hreport.port, port_modPort_same]
  have hout := (toIdle_calms e p).trans (toIdle_portOut_calms e p)
  rw [Dev.faultOut, ← he]
  refine ⟨hout.dev.trans hreport.dev, ?_, (hout.port p).muted (by rw [hport, hm]), ?_⟩
  · rw [(hout.port p).record, hport]
  · exact ((toIdle_portOut_calms e p).port p).idle (toIdle_idle e p)

/-- A step that takes a port out of service by a driver fault. -/
theorem run_faultOut {f : Dev → Dev} {s : State} {d : Dev} {p : Nat} {g : Port → Port} {b : Nat} {k : Byte}
    (heff : f s.dev.fresh = d.faultOut p g b k) (hm : (g (d.port p)).enabled = false) :
    ∃ t, run f s = .next t ∧ t.pending = s.pending ∧ t.dev.dev = d.dev ∧ (t.dev.port p).record = (g (d.port p)).record ∧
      (t.dev.port p).enabled = false ∧ (t.dev.port p).idle := by
  have hport := faultOut_port d p b k hm
  rw [run_next, heff]
  generalize d.faultOut p g b k = e at hport ⊢
  exact ⟨_, rfl, rfl, hport⟩

/-- A port as an over-current leaves it: `again` bars it from a return by the device itself (03 R78). -/
def Port.overCurrent (clk : Nat) (again : Bool) (x : Port) : Port :=
  { x with ocFault := true, ocAt := clk, ocPend := true, enabled := false, calOk := false, ocBarred := x.ocBarred || again }

/-- A port as a thermal fault leaves it. -/
def Port.overHeated (x : Port) : Port := { x with thFault := true, enabled := false, calOk := false }

theorem driverOvercurrentEffect_eq {d : Dev} {p : Nat} {amps : List (Nat × Nat)} (hd : d.dev = .run)
    (hf : (d.port p).ocFault = false) (ho : 10000 < d.overTime p (lastMs amps)) :
    ∃ again, driverOvercurrentEffect p amps d = d.faultOut p (Port.overCurrent d.clk again) 31 1 ∧
      ∀ r, (d.port p).ocReturn = some r → d.clk < r + usClk 1000000 → again = true := by
  have hdue : ¬ (d.dev ≠ .run ∨ (d.port p).ocFault = true ∨ d.overTime p (lastMs amps) ≤ 10000) := by
    simp [hd, hf, ho]
  unfold driverOvercurrentEffect
  dsimp only
  rw [if_neg hdue]
  refine ⟨_, rfl, fun r hr hlt => ?_⟩
  rw [hr]
  exact decide_eq_true hlt

theorem driverThermalFaultEffect_eq {d : Dev} {p : Nat} {temp : Int} (hd : d.dev = .run) (hf : (d.port p).thFault = false)
    (ht : d.foldTemp p < temp) :
    driverThermalFaultEffect p temp d = (d.modPort p (fun x => { x with temp := temp })).faultOut p Port.overHeated 30 2 := by
  obtain ⟨e, he⟩ : ∃ e, e = d.modPort p (fun x => { x with temp := temp }) := ⟨_, rfl⟩
  have hoff : d.dev ≠ .off := by simp [hd]
  have hlive : e.dev.live = true := by rw [he]; exact congrArg DevState.live hd
  have hfault : (e.port p).thFault = false := by rw [he, port_modPort_same]; exact hf
  have hfold : e.foldTemp p = d.foldTemp p := by rw [he]; rfl
  have hdue : ¬ ((!e.dev.live) = true ∨ (e.port p).thFault = true ∨ temp ≤ e.foldTemp p) := by
    simp [hlive, hfault, hfold, ht]
  unfold driverThermalFaultEffect
  rw [if_neg hoff, ← he]
  exact if_neg hdue

/-! ### The end of driver faults (03 R78) -/

/-- The calibration that brings a port back is a request of maintenance, and changes nothing else. -/
theorem recover_eq (d : Dev) (p : Nat) : ∃ m, d.recover p = { d with mnt := m } := by
  unfold Dev.recover
  dsimp only
  split
  · exact ⟨d.mnt, rfl⟩
  · exact askMnt_own_eq d 1 p

/-- A port with the given faults. -/
def Port.withFaults (th oc : Bool) (x : Port) : Port := { x with thFault := th, ocFault := oc }

/-- Whether a thermal fault still stands at a temperature: it clears 10 degrees below the limit. -/
def Dev.thStands (d : Dev) (p : Nat) (temp : Int) : Bool := (d.port p).thFault && decide (d.foldTemp p - 10 < temp)

/-- Whether an over-current fault still stands: it clears 100 ms after the mute. -/
def Dev.ocStands (d : Dev) (p : Nat) : Bool := (d.port p).ocFault && decide (d.clk < (d.port p).ocAt + usClk 100000)

/-- DRIVER_FAULT_CLEAR judges the faults of its port at its new temperature, and may ask for a calibration. -/
theorem driverFaultClearEffect_eq {d e : Dev} {p : Nat} {temp : Int} (he : e = d.modPort p (fun x => { x with temp := temp }))
    (hd : d.dev ≠ .off) (hf : ((e.port p).ocFault || (e.port p).thFault) = true) :
    ∃ m, driverFaultClearEffect p temp d =
      { e.modPort p (Port.withFaults (e.thStands p temp) (e.ocStands p)) with mnt := m } := by
  obtain ⟨c, hc⟩ : ∃ c, c = e.modPort p (Port.withFaults (e.thStands p temp) (e.ocStands p)) := ⟨_, rfl⟩
  have hstands : ¬ (!((e.port p).ocFault || (e.port p).thFault)) = true := by rw [hf]; exact Bool.false_ne_true
  have heff : driverFaultClearEffect p temp d =
      if (e.thStands p temp || e.ocStands p) = true then c else c.recover p := by
    unfold driverFaultClearEffect
    rw [if_neg hd]
    dsimp only
    rw [← he, if_neg hstands, hc]
    rfl
  obtain ⟨m, hm⟩ := recover_eq c p
  rw [heff, ← hc, hm]
  split
  · exact ⟨c.mnt, rfl⟩
  · exact ⟨m, rfl⟩

/-! ### The end of a converter calibration (03 R79) -/

/-- A port as its calibration leaves it, `back` where it may return to service and `named` where a command asked for it. -/
def Port.calibrated (clk : Nat) (r : CalResult) (pass back named : Bool) (x : Port) : Port :=
  { x with
    calib := false, calFail := !pass, calOk := back, trainOk := x.trainOk || back, ldacTrim := r.ldacTrim
    sadcOfs := r.sadcOfs, madcOfs := r.madcOfs, ocBarred := x.ocBarred && !(back && named)
    ocReturn := if back && x.ocPend then some clk else x.ocReturn, ocPend := x.ocPend && !back }

/-- What follows the end of a port's calibration: in a group's start the group is judged; else the request of maintenance ends, and
training may follow. -/
def Dev.afterCal (d : Dev) (p : Nat) (pass : Bool) : Dev :=
  let g := portGroup p
  if (d.group g).st = .calibrating then
    let d := if (d.enabledPorts g).all (fun q => !(d.port q).calib) then
        d.modGroup g (fun x => { x with calBp := some d.msync.bpi }) else d
    d.judgeCal g
  else
    let d := (d.endMnt 1 p 0 0 (b2n pass)).portChanged g
    if d.inService p && (d.group g).st.up then d.askMnt 2 p none else d

theorem afterCal_calms (d : Dev) (p : Nat) (pass : Bool) : Calms d (d.afterCal p pass) := by
  have ends := (endMnt_calms d 1 p 0 0 (b2n pass)).trans (portChanged_calms _ (portGroup p))
  unfold Dev.afterCal
  refine ite_calms (Calms.trans (ite_calms (modGroup_calms d _ _) (Calms.refl d)) (judgeCal_calms _ _)) (ends.trans ?_)
  exact ite_calms (askMnt_own_calms _ 2 p) (Calms.refl _)

/-- Whether a calibration with these results passes on a port. -/
def Dev.calPass (d : Dev) (p : Nat) (r : CalResult) : Bool := CalPasses r && !bit d.pwr.qdown (portQuad p)

/-- Whether a calibration with these results lets a port count as calibrated. -/
def Dev.calBack (d : Dev) (p : Nat) (r : CalResult) : Bool := d.calPass p r && !(d.port p).ocFault && !(d.port p).thFault

/-- A calibration that ends leaves its results with the port, and nothing that follows changes them. -/
theorem portCalDoneEffect_calms {d : Dev} {p : Nat} (r : CalResult) (hd : d.dev = .run) (hc : (d.port p).calib = true) :
    Calms (d.modPort p (Port.calibrated d.clk r (d.calPass p r) (d.calBack p r) (d.calNamed p))) (portCalDoneEffect p r d) := by
  obtain ⟨e, he⟩ : ∃ e, e = d.modPort p (Port.calibrated d.clk r (d.calPass p r) (d.calBack p r) (d.calNamed p)) := ⟨_, rfl⟩
  have hdue : ¬ (d.dev ≠ .run ∨ (!(d.port p).calib) = true) := by simp [hd, hc]
  have heff : portCalDoneEffect p r d =
      Dev.afterCal (if d.calPass p r = true then e else e.event 0x0203 stOk p [4]) p (d.calPass p r) := by
    unfold portCalDoneEffect
    rw [if_neg hdue, he]
    rfl
  rw [heff, ← he]
  exact Calms.trans (ite_calms (Calms.refl e) (event_reports e _ _ _ _).calms) (afterCal_calms _ p _)

/-! ### The statement -/

/-- An over-current mutes its driver and takes the port out of service. -/
theorem driverOvercurrent_next {s : State} {p : Fin 128} (amps : List (Nat × Nat)) (hd : s.dev.dev = .run)
    (hf : (s.dev.port p).ocFault = false) (ho : 10000 < s.dev.overTime p (lastMs amps)) :
    ∃ t, exec (.driverOvercurrent p amps) s = .next t ∧ t.pending = s.pending ∧ t.dev.dev = .run ∧
      (t.dev.port p).enabled = false ∧ (t.dev.port p).ocFault = true ∧ (t.dev.port p).calOk = false ∧
      (t.dev.port p).ech = .idle ∧ (t.dev.port p).held = true ∧
      (∀ r, (s.dev.port p).ocReturn = some r → s.dev.clk < r + usClk 1000000 → (t.dev.port p).ocBarred = true) := by
  obtain ⟨again, heff, hagain⟩ := driverOvercurrentEffect_eq (d := s.dev.fresh) hd hf ho
  obtain ⟨t, ht, hp, hdev, hrec, hmuted, hech, hheld⟩ := run_faultOut heff rfl
  refine ⟨t, ht, hp, hdev.trans hd, hmuted, congrArg LineRecord.ocFault hrec, congrArg LineRecord.calOk hrec, hech, hheld,
    fun r hr hlt => (congrArg LineRecord.ocBarred hrec).trans ?_⟩
  rw [hagain r hr hlt]
  exact Bool.or_true _

/-- A thermal fault mutes its driver and takes the port out of service. -/
theorem driverThermalFault_next {s : State} {p : Fin 128} (x : Int) (hd : s.dev.dev = .run)
    (hf : (s.dev.port p).thFault = false) (hx : s.dev.foldTemp p < x) :
    ∃ t, exec (.driverThermalFault p x) s = .next t ∧ t.pending = s.pending ∧ t.dev.dev = .run ∧
      (t.dev.port p).enabled = false ∧ (t.dev.port p).thFault = true ∧ (t.dev.port p).calOk = false ∧
      (t.dev.port p).temp = x ∧ (t.dev.port p).ech = .idle ∧ (t.dev.port p).held = true := by
  obtain ⟨t, ht, hp, hdev, hrec, hmuted, hech, hheld⟩ :=
    run_faultOut (driverThermalFaultEffect_eq (d := s.dev.fresh) hd hf hx) rfl
  rw [port_modPort_same] at hrec
  exact ⟨t, ht, hp, hdev.trans hd, hmuted, congrArg LineRecord.thFault hrec, congrArg LineRecord.calOk hrec,
    congrArg LineRecord.temp hrec, hech, hheld⟩

/-- Each fault whose condition is over is cleared, and no other. -/
theorem driverFaultClear_next {s : State} {p : Fin 128} (x : Int) (hd : s.dev.dev ≠ .off)
    (hf : ((s.dev.port p).ocFault || (s.dev.port p).thFault) = true) :
    ∃ t, exec (.driverFaultClear p x) s = .next t ∧ t.pending = s.pending ∧ t.hostMem = s.hostMem ∧
      Reports { s.dev with ports := t.dev.ports, mnt := t.dev.mnt } t.dev ∧
      (∀ q, q ≠ p.val → t.dev.port q = s.dev.port q) ∧
      t.dev.port p = Port.withFaults (s.dev.thStands p x) (s.dev.ocStands p) { s.dev.port p with temp := x } := by
  obtain ⟨e, he⟩ : ∃ e, e = s.dev.fresh.modPort p (fun y => { y with temp := x }) := ⟨_, rfl⟩
  obtain ⟨c, hc⟩ : ∃ c, c = e.modPort p (Port.withFaults (e.thStands p x) (e.ocStands p)) := ⟨_, rfl⟩
  have hport : e.port p = { s.dev.port p with temp := x } := by rw [he, port_modPort_same, fresh_port]
  have hth : e.thStands p x = s.dev.thStands p x := by
    unfold Dev.thStands
    rw [hport, he]
    rfl
  have hoc : e.ocStands p = s.dev.ocStands p := by
    unfold Dev.ocStands
    rw [hport, he]
    rfl
  obtain ⟨m, heff⟩ := driverFaultClearEffect_eq he hd (by rw [hport]; exact hf)
  have hrest : { c with mnt := m } = { s.dev.fresh with ports := c.ports, mnt := m } := by rw [hc, he]; rfl
  rw [← hc, hrest] at heff
  obtain ⟨t, ht, hp, hmem, hdev⟩ := run_unposted (f := driverFaultClearEffect p x) (s := s) (by rw [heff]; rfl)
  rw [heff] at hdev
  have hports : ∀ q, t.dev.port q = c.port q := fun q => by rw [hdev]; rfl
  refine ⟨t, ht, hp, hmem, ?_, fun q hq => ?_, ?_⟩
  · rw [hdev]
    exact fresh_reports _
  · rw [hports, hc, port_modPort_ne hq, he, port_modPort_ne hq, fresh_port]
  · rw [hports, hc, port_modPort_same, hport, hth, hoc]

/-- The end of a calibration leaves its results with the port, out of calibration. -/
theorem portCalDone_next {s : State} {p : Fin 128} (r : CalResult) (hd : s.dev.dev = .run) (hc : (s.dev.port p).calib = true) :
    ∃ t named, exec (.portCalDone p r) s = .next t ∧ t.pending = s.pending ∧ t.dev.dev = .run ∧ (t.dev.port p).calib = false ∧
      (t.dev.port p).record =
        ((s.dev.port p).calibrated s.dev.clk r (s.dev.calPass p r) (s.dev.calBack p r) named).record := by
  have hend := portCalDoneEffect_calms (d := s.dev.fresh) r hd hc
  have hport := hend.port p
  rw [port_modPort_same] at hport
  exact ⟨_, _, run_next (portCalDoneEffect p r) s, rfl, hend.dev.trans hd, hport.calib rfl, hport.record⟩

/-- Settles O21: the port that each of the four events leaves. -/
theorem driversAndCalibration : Obligations.DriversAndCalibration := by
  intro s p
  refine ⟨driverOvercurrent_next, driverThermalFault_next, driverFaultClear_next, fun r hd hc => ?_⟩
  obtain ⟨t, named, ht, hp, hdev, hcal, hrec⟩ := portCalDone_next r hd hc
  exact ⟨t, ht, hp, hdev, hcal, congrArg LineRecord.calOk hrec, congrArg LineRecord.calFail hrec,
    congrArg LineRecord.ldacTrim hrec, congrArg LineRecord.sadcOfs hrec, congrArg LineRecord.madcOfs hrec⟩

end Sys2Proof.Machine
end

section
/-! SUPPORT. What a step about one port leaves (04, 21 R478): the other ports, the status bits that events keep, the levels that a port
publishes, and what a group that is judged leaves of its ports. -/

namespace Sys2Proof.Machine

/-! ### A port alone -/

/-- `b` is `a` but for port `p` and what reports touch. -/
def AtPort (p : Nat) (a b : Dev) : Prop :=
  Reports { a with ports := b.ports } b ∧ ∀ i, i ≠ p → b.port i = a.port i

theorem Reports.atPort {a b : Dev} (h : Reports a b) (p : Nat) : AtPort p a b := by
  refine ⟨?_, fun i _ => h.port i⟩
  rw [h.ports]
  exact h

theorem AtPort.trans {p : Nat} {a b c : Dev} (h : AtPort p a b) (k : AtPort p b c) : AtPort p a c :=
  ⟨(h.1.set_ports c.ports).trans k.1, fun i hi => (k.2 i hi).trans (h.2 i hi)⟩

theorem modPort_atPort (d : Dev) (p : Nat) (f : Port → Port) : AtPort p d (d.modPort p f) :=
  ⟨Reports.refl _, fun _ hi => port_modPort_ne hi d f⟩

theorem AtPort.fld {p : Nat} {a b : Dev} (h : AtPort p a b) {off : Nat} (ho : statusOff off = false) (hi lo : Nat) :
    b.fld off hi lo = a.fld off hi lo := h.1.fld ho hi lo

/-- A field of a port that an update keeps is kept on every port. -/
theorem port_modPort_keeps {α : Type} (π : Port → α) {f : Port → Port} (h : ∀ x, π (f x) = π x) (d : Dev) (i p : Nat) :
    π ((d.modPort i f).port p) = π (d.port p) := by
  by_cases e : p = i
  · rw [e, port_modPort_same, h]
  · rw [port_modPort_ne e]

/-- What each step of a fold keeps, the fold keeps. -/
theorem foldl_keeps {α β : Type} (π : Dev → β) {f : Dev → α → Dev} (h : ∀ d x, π (f d x) = π d) (l : List α) (d : Dev) :
    π (l.foldl f d) = π d :=
  List.foldlRecOn l f (motive := fun e => π e = π d) rfl fun e he x _ => (h e x).trans he

/-- A step ends in the device that its effect gives, nothing posted. -/
theorem run_fresh (f : Dev → Dev) (s : State) :
    ∃ t, run f s = .next t ∧ t.pending = s.pending ∧ t.dev = (f s.dev.fresh).fresh := ⟨_, run_next f s, rfl, rfl⟩

/-! ### Status bits of a group's units -/

theorem reg_count_group {off : Nat} (h : 0x100000 ≤ off) (d : Dev) (bank src b : Nat) (slot : Option Nat) (n : Nat) :
    (d.count bank src b slot n).reg off = d.reg off :=
  reg_count (fun e => by simp only [e, Reg.cntStat] at h; omega) d bank src b slot n

theorem reg_pushRaw_group {off : Nat} (h : 0x100000 ≤ off) (d : Dev) (item : List Byte) :
    (d.pushRaw 0 item).reg off = d.reg off := by
  unfold Dev.pushRaw
  dsimp only
  split
  · rw [if_neg (by omega), reg_count_group h]
    rfl
  · rfl

theorem reg_eventRaw_group {off : Nat} (h : 0x100000 ≤ off) (d : Dev) (mpt code st obj : Nat) (detail : List Byte) :
    (d.eventRaw mpt code st obj detail).reg off = d.reg off := by
  unfold Dev.eventRaw
  split
  · exact reg_pushRaw_group h d _
  · rfl

theorem reg_sticky_group {off : Nat} (h : 0x100000 ≤ off) (d : Dev) (q : Nat) : (d.sticky q).reg off = d.reg off := by
  have hq : off ≠ Reg.queWmStat (q % 128) := by unfold Reg.queWmStat; omega
  exact reg_setReg_ne hq d _

theorem reg_markWith_group {off : Nat} (h : 0x100000 ≤ off) {post : Dev → Nat → List Byte → Dev}
    (hp : ∀ d q b, (post d q b).reg off = d.reg off) (d : Dev) (q : Nat) : (Dev.markWith post d q).reg off = d.reg off := by
  have disarmed : ((d.sticky q).modWm q (fun w => { w with armed := false })).reg off = d.reg off := reg_sticky_group h d q
  unfold Dev.markWith
  dsimp only
  split
  · exact reg_sticky_group h d q
  · split
    · exact disarmed
    · split
      · rw [hp, disarmed]
      · exact reg_sticky_group h d q

/-- An event is reported by the event queue: no status register of a group changes. -/
theorem reg_event_group {off : Nat} (h : 0x100000 ≤ off) (d : Dev) (code st obj : Nat) (detail : List Byte) :
    (d.event code st obj detail).reg off = d.reg off := by
  have notices : ∀ (d : Dev) (q : Nat) (b : List Byte), (d.notice q b).reg off = d.reg off := fun d q b =>
    (reg_markWith_group h (fun _ _ _ => reg_eventRaw_group h _ _ _ _ _ _) _ 0).trans (reg_eventRaw_group h d _ _ _ _ _)
  unfold Dev.event Dev.eventAt
  split
  · exact (reg_markWith_group h notices _ 0).trans (reg_eventRaw_group h d _ _ _ _ _)
  · rfl

theorem flag_event_ech (d : Dev) (g q i code st obj : Nat) (detail : List Byte) :
    (d.event code st obj detail).flag (Src.ech g q).off i = d.flag (Src.ech g q).off i := by
  have hoff : 0x100000 ≤ (Src.ech g q).off := by simp only [Src.off, Reg.echStat]; omega
  rw [Dev.flag, reg_event_group hoff, Dev.flag]

/-- A happening leaves the other bits of its status register. -/
theorem flag_raise_apart {b i : Nat} (hb : b < 32) (hi : i ≠ b) (d : Dev) (r : Src) :
    (d.raise r b).flag r.off i = d.flag r.off i := by
  unfold Dev.raise
  rw [Dev.flag, reg_count (src_ne_cnt r)]
  exact flag_setFld_apart (Nat.le_refl b) hb (by omega) d r.off 1

/-! ### Samples that are judged -/

theorem raiseN_reports (d : Dev) (r : Src) (b n : Nat) : Reports d (d.raiseN r b n) :=
  ite_reports (Reports.refl d) ((setFld_reports (statusOff_src r) d b b 1).trans (count_reports _ _ _ _ _ _))

theorem countBlanked_reports (d : Dev) (p n : Nat) : Reports d (d.countBlanked p n) :=
  ite_reports (Reports.refl d) ((raiseN_reports d _ _ _).trans (count_reports _ _ _ _ _ _))

/-- The registers and counters of a report are a report. -/
theorem Reports.regs_cnts {d e : Dev} (h : Reports d e) : Reports d { d with regs := e.regs, cnts := e.cnts } := by
  refine ⟨?_, h.2⟩
  have hcnts : { e.cnts with cells := [] } = { d.cnts with cells := [] } := congrArg Core.cnts h.1
  simp only [Dev.core, hcnts]

/-- Judging samples leaves how far they have been judged, and reports. -/
theorem noteSamples_eq (d : Dev) (p n0 w : Nat) (ss : List ConvSpan) (bl : List (Int × Int)) :
    ∃ e, Reports d e ∧ d.noteSamples p n0 w ss bl = e.modPort p (fun x => { x with seen := max x.seen (n0 + w) }) :=
  ⟨_, (((raiseN_reports d _ _ _).trans (raiseN_reports _ _ _ _)).trans (countBlanked_reports _ _ _)).regs_cnts, rfl⟩

/-! ### Published levels (04 R96, R97) -/

theorem SMap.find?_put {β : Type} (k : Nat) (v : β) (m : List (Nat × β)) :
    (SMap.put k v m).find? (fun e => decide (e.1 = k)) = some (k, v) := by
  induction m with
  | nil => simp [SMap.put]
  | cons e m ih =>
    obtain ⟨a, w⟩ := e
    unfold SMap.put
    split
    · simp
    · split
      · simp
      · next h => simp [Ne.symm h, ih]

theorem Port.level_publish (x : Port) (q : Nat) (e u : Int) : (x.publish q e u).level q = some (e, u) := by
  simp only [Port.level, Port.publish, SMap.find?_put, Option.map_some]

/-- An N port's own slot has no source: no pair of it is published. -/
theorem publish_own_N {d : Dev} {p q : Nat} (hq : q = p % 4) (hl : d.isL p = false) (e u : Int) : d.publish p q e u = d :=
  if_pos (by simp [hq, hl])

theorem publish_eq {d : Dev} {p q : Nat} (h : q ≠ p % 4 ∨ d.isL p = true) (e u : Int) :
    d.publish p q e u = d.modPort p (fun x => { x.publish q e u with supp := if q = p % 4 then e - u else x.supp }) :=
  if_neg fun ⟨hq, hl⟩ => h.elim (fun hne => hne hq) fun h => by simp [h] at hl

theorem publish_atPort (d : Dev) (p q : Nat) (e u : Int) : AtPort p d (d.publish p q e u) := by
  unfold Dev.publish
  split
  · exact (Reports.refl d).atPort p
  · exact modPort_atPort d p _

/-- A port without what it publishes. -/
def Port.unpublished (x : Port) : Port := { x with lvl := [], supp := 0 }

/-- The ports of `b` are those of `a` but for what port `p` publishes. -/
structure Republishes (p : Nat) (a b : Dev) : Prop where
  others : ∀ i, i ≠ p → b.port i = a.port i
  port : (b.port p).unpublished = (a.port p).unpublished

theorem Republishes.trans {p : Nat} {a b c : Dev} (h : Republishes p a b) (k : Republishes p b c) : Republishes p a c :=
  ⟨fun i hi => (k.others i hi).trans (h.others i hi), k.port.trans h.port⟩

theorem Republishes.ech {p : Nat} {a b : Dev} (h : Republishes p a b) : (b.port p).ech = (a.port p).ech :=
  show (b.port p).unpublished.ech = (a.port p).unpublished.ech by rw [h.port]

theorem Republishes.goodWins {p : Nat} {a b : Dev} (h : Republishes p a b) : (b.port p).goodWins = (a.port p).goodWins :=
  show (b.port p).unpublished.goodWins = (a.port p).unpublished.goodWins by rw [h.port]

theorem publish_republishes (d : Dev) (p q : Nat) (e u : Int) : Republishes p d (d.publish p q e u) := by
  refine ⟨(publish_atPort d p q e u).2, ?_⟩
  unfold Dev.publish
  split
  · rfl
  · exact port_modPort_keeps Port.unpublished (fun _ => by rfl) d p p

theorem publish_steady (d : Dev) (p q : Nat) (e u : Int) : Steady d (d.publish p q e u) :=
  ite_steady (Steady.refl d) (modPort_steady d p _)

/-! ### What a group leaves of its ports on its way DOWN (01 R33, R34) -/

/-- A port without what its group resets on its way DOWN: the canceller, the driver's enable, what runs of a start, shaping fades and the
frames on its stream. -/
def Port.lasting (x : Port) : Port :=
  { x with
    ech := .idle, held := true, divWin := 0, overPrev := false, goodWins := [], trainAsk := false, enabled := false, trainAt := none
    winAt := 0, pre := [], td := [], tdRef := 0, corr := [], tabs := [], calib := false, trainEnd := false, fade := none, swap := none
    bank := false, fed := [] }

theorem unbindDec_ports (d : Dev) (l : Nat) : (d.unbindDec l).ports = d.ports := by
  have settles : (d.settleLane l).ports = d.ports := by unfold Dev.settleLane; split <;> rfl
  unfold Dev.unbindDec
  dsimp only
  rw [modDec_ports]
  split
  · split
    · exact (((raise_reports _ _ _).trans (trace_reports _ _ _ _ _ _)).ports).trans settles
    · exact (raise_reports _ _ _).ports.trans settles
  · exact settles

theorem unbindEnc_lasting (d : Dev) (l p : Nat) : ((d.unbindEnc l).port p).lasting = (d.port p).lasting :=
  foldl_keeps (fun d => (d.port p).lasting) (fun d i => port_modPort_keeps Port.lasting (fun _ => by rfl) d i p) _ d

theorem unbindGroup_lasting (d : Dev) (g p : Nat) : ((d.unbindGroup g).port p).lasting = (d.port p).lasting := by
  unfold Dev.unbindGroup
  dsimp only
  rw [foldl_keeps (fun d => (d.port p).lasting) (fun d l => unbindEnc_lasting d l p)]
  exact foldl_keeps (fun d => (d.port p).lasting) (fun d l => by simp only [Dev.port, unbindDec_ports]) _ d

theorem toIdle_lasting (d : Dev) (i p : Nat) : ((d.toIdle i).port p).lasting = (d.port p).lasting :=
  port_modPort_keeps Port.lasting (fun _ => by rfl) d i p

theorem endFades_lasting (d : Dev) (i p : Nat) : ((d.endFades i).port p).lasting = (d.port p).lasting := by
  have ends : ∀ (d : Dev) (f : Port → Port) (id : Option Nat), (∀ x, (f x).lasting = x.lasting) →
      (((d.modPort i f).finishOpt id stOk).port p).lasting = (d.port p).lasting := fun d f id h => by
    rw [(finishOpt_reports _ _ _).port, port_modPort_keeps Port.lasting h]
  unfold Dev.endFades
  dsimp only
  cases (d.port i).fade with
  | none =>
    cases (d.port i).swap with
    | none => rfl
    | some w => exact ends d _ _ fun _ => rfl
  | some f =>
    cases (d.port i).swap with
    | none => exact ends d _ _ fun _ => rfl
    | some w => exact (ends _ _ _ fun _ => by rfl).trans (ends d _ _ fun _ => by rfl)

theorem endJoined_ports {fin : Dev → Nat → Dev} (hf : ∀ d id, (fin d id).ports = d.ports) (d : Dev) (ps : List Nat) :
    (d.endJoined ps fin).ports = d.ports :=
  foldl_keeps Dev.ports hf _ _

theorem flushMnt_ports (d : Dev) (ps : List Nat) : (d.flushMnt ps).ports = d.ports := by
  have flushes : ∀ (d : Dev) (id : Nat), (d.finishSt id stFlushed).ports = d.ports := fun d id => (finishSt_reports d id _).ports
  unfold Dev.flushMnt
  dsimp only
  rw [foldl_keeps Dev.ports flushes, endJoined_ports flushes]
  exact foldl_keeps Dev.ports (fun _ _ => by rfl) _ _

theorem dropSessions_ports (d : Dev) (nh : Nat) : (d.dropSessions nh).ports = d.ports := by
  unfold Dev.dropSessions
  dsimp only
  rw [foldl_keeps Dev.ports fun d s => foldl_keeps Dev.ports (fun d id => (finishSt_reports d id _).ports) _ d]

theorem setGroup_ports (d : Dev) (g : Nat) (st : GroupState) : (d.setGroup g st).ports = d.ports := by
  unfold Dev.setGroup
  dsimp only
  split
  · rfl
  · exact (event_reports _ _ _ _ _).ports

theorem startDone_ports (d : Dev) (g st : Nat) : (d.startDone g st).ports = d.ports := by
  unfold Dev.startDone
  split
  · rfl
  · exact (finish_reports _ _ _ _).ports

theorem endMnt_ports (d : Dev) (kind p q0 q3 q4 : Nat) : (d.endMnt kind p q0 q3 q4).ports = d.ports := by
  obtain ⟨e, he⟩ : ∃ e, e = if kind = 2 then d.endJoined [p] (fun d id => d.finish id stOk (quints q0 0 0 q3 q4)) else d :=
    ⟨_, rfl⟩
  have joined : e.ports = d.ports := by
    rw [he]
    split
    · exact endJoined_ports (fun d id => (finish_reports d id _ _).ports) d [p]
    · rfl
  unfold Dev.endMnt
  dsimp only
  rw [← he]
  split
  · exact joined
  · rw [foldl_keeps Dev.ports fun d c => (finish_reports d _ _ _).ports]
    exact joined

theorem groupDown_lasting (d : Dev) (g p : Nat) : ((d.groupDown g).port p).lasting = (d.port p).lasting := by
  have keeps : ∀ {α : Type} {f : Dev → α → Dev} (l : List α) (d : Dev),
      (∀ d x, ((f d x).port p).lasting = (d.port p).lasting) → ((l.foldl f d).port p).lasting = (d.port p).lasting :=
    fun l d h => foldl_keeps (fun d => (d.port p).lasting) h l d
  have ports : ∀ {a b : Dev}, b.ports = a.ports → (b.port p).lasting = (a.port p).lasting :=
    fun h => by simp only [Dev.port, h]
  unfold Dev.groupDown
  split
  · rfl
  · dsimp only
    rw [keeps _ _ fun d nh => ports (dropSessions_ports d nh), ports (flushMnt_ports _ _),
      keeps _ _ fun d i => endFades_lasting d i p, keeps _ _ fun d i => toIdle_lasting d i p, modGroup_port, unbindGroup_lasting]
    exact (keeps _ _ fun d i => port_modPort_keeps Port.lasting (fun _ => by rfl) d i p).trans (ports (setGroup_ports d g .down))

/-- A group that is judged leaves every port as it is, or it is DOWN and leaves what lasts of every port. -/
def StaysOrDown (g : Nat) (a b : Dev) : Prop :=
  b.ports = a.ports ∨ (b.group g).st = .down ∧ ∀ p, (b.port p).lasting = (a.port p).lasting

theorem groupDown_staysOrDown (d : Dev) (g : Nat) : StaysOrDown g d (d.groupDown g) :=
  .inr ⟨groupDown_st d g, groupDown_lasting d g⟩

theorem StaysOrDown.of_ports {g : Nat} {a b c : Dev} (h : b.ports = a.ports) (k : StaysOrDown g b c) : StaysOrDown g a c :=
  k.imp (·.trans h) fun ⟨hst, hp⟩ => ⟨hst, fun p => (hp p).trans (by simp only [Dev.port, h])⟩

theorem StaysOrDown.reports {g : Nat} {a b c : Dev} (h : StaysOrDown g a b) (k : Reports b c) : StaysOrDown g a c :=
  h.imp k.ports.trans fun ⟨hst, hp⟩ => ⟨by rw [k.group, hst], fun p => by rw [k.port, hp]⟩

theorem StaysOrDown.port {g : Nat} {a b : Dev} (h : StaysOrDown g a b) (p : Nat) : (b.port p).lasting = (a.port p).lasting :=
  h.elim (fun hp => by simp only [Dev.port, hp]) fun hd => hd.2 p

theorem judgeCal_staysOrDown (d : Dev) (g : Nat) : StaysOrDown g d (d.judgeCal g) := by
  have downs : StaysOrDown g d ((d.modGroup g (fun x => { x with startCmd := none })).groupDown g) :=
    (groupDown_staysOrDown _ g).of_ports rfl
  unfold Dev.judgeCal
  split
  · split
    · dsimp only
      split
      · exact downs
      · exact downs.reports (finish_reports _ _ _ _)
    · split
      · exact .inl ((startDone_ports _ g stOk).trans (setGroup_ports d g _))
      · exact .inl rfl
  · exact .inl rfl

theorem portChanged_staysOrDown (d : Dev) (g : Nat) : StaysOrDown g d (d.portChanged g) := by
  unfold Dev.portChanged
  split
  · split
    · exact groupDown_staysOrDown d g
    · exact .inl (setGroup_ports d g _)
  · exact judgeCal_staysOrDown d g

end Sys2Proof.Machine
end

section
/-! SUPPORT. Cancellers (04 R96-R107, 21 R478): the port that cold trainings, quiet intervals, residue windows and
lasting divergence lead to. -/

namespace Sys2Proof.Machine

/-! ### Cold training (04 R98-R101, R107) -/

theorem statusOff_echCtrl (p : Fin 128) : statusOff (Reg.echCtrl (portGroup p)) = false :=
  statusOff_group (o := 0x200) (by unfold portGroup; omega) (by omega)

theorem statusOff_echThr (p : Fin 128) : statusOff (Reg.echThr (portGroup p)) = false :=
  statusOff_group (o := 0x204) (by unfold portGroup; omega) (by omega)

/-- A port at its first training symbol, sample `n`; its driver sends the symbols where `drives`. -/
def Port.training (drives : Bool) (n : Nat) (x : Port) : Port :=
  { x with ech := .training, held := true, divWin := 0, overPrev := false, goodWins := [], trainAsk := false, enabled := drives
           trainAt := some n, pre := [], td := [], corr := [] }

theorem echTrainingStart_next {s : State} {p : Fin 128} (h : s.dev.trainingDue p = true) :
    ∃ t, exec (.echTrainingStart p) s = .next t ∧ t.pending = s.pending ∧ AtPort p s.dev t.dev ∧
      (t.dev.port p).ech = .training ∧ (t.dev.port p).held = true ∧
      (t.dev.port p).enabled = (s.dev.isL p && !s.dev.pwr.ovMute) ∧ (t.dev.port p).trainAt = some s.dev.tb.n := by
  have heff : echTrainingStartEffect p s.dev.fresh =
      s.dev.fresh.modPort p (Port.training (s.dev.isL p && !s.dev.pwr.ovMute) s.dev.tb.n) :=
    if_neg (by rw [show s.dev.fresh.trainingDue p = true from h]; decide)
  obtain ⟨t, ht, hr, hp⟩ := run_reaches (f := echTrainingStartEffect p) (s := s) (Reports.refl _)
  rw [heff] at hr
  refine ⟨t, ht, hp, (((fresh_reports _).atPort p).trans (modPort_atPort _ _ _)).trans (hr.atPort p), ?_⟩
  rw [hr.port, port_modPort_same]
  exact ⟨rfl, rfl, rfl, rfl⟩

theorem echTrainingStart_reaches {s : State} {p : Fin 128} (h : s.dev.trainingDue p = false) :
    Reaches (exec (.echTrainingStart p) s) s s.dev := by
  have heff : echTrainingStartEffect p s.dev.fresh = s.dev.fresh :=
    if_pos (by rw [show s.dev.fresh.trainingDue p = false from h]; rfl)
  exact run_reaches (f := echTrainingStartEffect p) (by rw [heff]; exact fresh_reports _)

/-- What a training has measured is published, and its coefficients are taken, an L port's also by the group's other ports. -/
theorem takeTraining_eq (d : Dev) (p : Nat) (r : TrainResult) :
    ∃ (f : Port → Port) (ts : List (Nat × List (Int × Int))), (∀ x, (f x).lvl = x.lvl) ∧
      ∀ e, e = (r.lvl.foldl (fun d e => d.publishMeasured p (e.1 % 4) e.2.1 e.2.2) d).modPort p f →
        d.takeTraining p r = if (!e.isL p) = true then e else
          ts.foldl (fun d t => d.modPort (4 * portGroup p + t.1 % 4) (fun x => { x with tabs := SMap.put (p % 4) t.2 x.tabs }))
            ((r.others.filter (fun o => decide (o.1 % 4 ≠ p % 4))).foldl
              (fun d o => d.publishMeasured (4 * portGroup p + o.1 % 4) (p % 4) o.2.1 o.2.2) e) := by
  refine ⟨?taken, ?tables, ?keeps, ?eq⟩
  case eq =>
    rintro e rfl
    rfl
  case keeps => exact fun _ => rfl

theorem takeTraining_steady (d : Dev) (p : Nat) (r : TrainResult) : Steady d (d.takeTraining p r) := by
  obtain ⟨f, ts, -, heq⟩ := takeTraining_eq d p r
  have publishes : ∀ (d : Dev) (p q : Nat) (e u : Int), Steady d (d.publishMeasured p q e u) := fun d p q e u =>
    publish_steady d p q _ _
  have own := ((Steady.refl d).foldl (l := r.lvl) fun d e => publishes d p (e.1 % 4) e.2.1 e.2.2).trans (modPort_steady _ p f)
  rw [heq _ rfl]
  exact ite_steady own ((own.foldl fun d e => publishes d _ _ _ _).foldl fun d e => modPort_steady d _ _)

/-- A training that has measured one source publishes its pair. -/
theorem takeTraining_level {d : Dev} {p q : Nat} {r : TrainResult} {e u : Int} (hl : r.lvl = [(q, e, u)]) (ho : r.others = [])
    (hq : q < 4) (hs : q ≠ p % 4 ∨ d.isL p = true) :
    ((d.takeTraining p r).port p).level q =
      some (d.referred (4 * portGroup p + q) e, d.referred (4 * portGroup p + q) u) := by
  obtain ⟨f, ts, hf, heq⟩ := takeTraining_eq d p r
  have coefs : ∀ (d : Dev) (i : Nat) (f : Port → Port), (∀ x, (f x).lvl = x.lvl) →
      ((d.modPort i f).port p).level q = (d.port p).level q := fun d i f h =>
    port_modPort_keeps (fun x => x.level q) (fun x => by simp only [Port.level, h]) d i p
  have own : ((d.publishMeasured p q e u).port p).level q =
      some (d.referred (4 * portGroup p + q) e, d.referred (4 * portGroup p + q) u) := by
    rw [Dev.publishMeasured, publish_eq hs, port_modPort_same]
    exact Port.level_publish _ q _ _
  rw [heq _ rfl, hl, ho]
  simp only [List.foldl_cons, List.foldl_nil, List.filter_nil, Nat.mod_eq_of_lt hq]
  split
  · rw [coefs _ _ _ hf, own]
  · exact ((foldl_keeps (fun d => (d.port p).level q) (fun d t => coefs d _ _ fun _ => by rfl) _ _).trans
      (coefs _ _ _ hf)).trans own

/-- A port whose training symbols have all been sent, with what they have measured and fitted. -/
def Dev.trained (d : Dev) (p : Nat) (r : TrainResult) : Dev :=
  let d := (d.takeTraining p r).raiseN (.port (portGroup p) (p % 4)) 28 r.clips.length
  d.modPort p (fun x => { x with enabled := false, trainEnd := true, winAt := x.sent, seen := max x.seen d.tb.n })

/-- A training that has not passed, told of by an event unless a command asked for it. -/
def Dev.trainingFailed (d : Dev) (p : Nat) (asked : Bool) : Dev :=
  let e := ((d.toIdle p).raise (.ech (portGroup p) (p % 4)) 29).modPort p
    (fun x => { x with trainOk := d.flag (Reg.echCtrl (portGroup p)) 2 })
  if asked then e else e.event 0x0205 stOk p (leBytes 2 (unsigned 12 (d.port p).supp))

/-- A training that has been judged (04 R100, R101). -/
def Dev.trainingJudged (d : Dev) (p : Nat) (r : TrainResult) (asked : Bool) : Dev :=
  if d.trainingPasses p r then (d.trained p r).modPort p (fun x => { x with ech := .converged })
  else (d.trained p r).trainingFailed p asked

theorem trained_port (d : Dev) (p : Nat) (r : TrainResult) :
    ((d.trained p r).port p).enabled = false ∧ ((d.trained p r).port p).lvl = ((d.takeTraining p r).port p).lvl := by
  rw [Dev.trained, port_modPort_same, (raiseN_reports _ _ _ _).port]
  exact ⟨rfl, rfl⟩

theorem trainingFailed_port (d : Dev) (p : Nat) (asked : Bool) :
    (d.trainingFailed p asked).port p = { (d.toIdle p).port p with trainOk := d.flag (Reg.echCtrl (portGroup p)) 2 } := by
  obtain ⟨e, he⟩ : ∃ e, e = ((d.toIdle p).raise (.ech (portGroup p) (p % 4)) 29).modPort p
    (fun x => { x with trainOk := d.flag (Reg.echCtrl (portGroup p)) 2 }) := ⟨_, rfl⟩
  have hreport : Reports e (d.trainingFailed p asked) := by
    rw [Dev.trainingFailed, ← he]
    exact ite_reports (Reports.refl e) (event_reports e _ _ _ _)
  rw [hreport.port, he, port_modPort_same, (raise_reports _ _ _).port]

theorem trained_flag_echCtrl (d : Dev) (p : Fin 128) (r : TrainResult) (i : Nat) :
    (d.trained p r).flag (Reg.echCtrl (portGroup p)) i = d.flag (Reg.echCtrl (portGroup p)) i := by
  have hs := statusOff_echCtrl p
  rw [Dev.trained, modPort_flag, (raiseN_reports _ _ _ _).flag hs, Dev.flag, (takeTraining_steady d p r).cfg _ hs, Dev.flag]

theorem trainingJudged_pass {d : Dev} {p : Nat} {r : TrainResult} (h : d.trainingPasses p r = true) (asked : Bool) :
    ((d.trainingJudged p r asked).port p).ech = .converged := by
  rw [Dev.trainingJudged, if_pos h, port_modPort_same]

theorem trainingJudged_fail {d : Dev} {p : Fin 128} {r : TrainResult} (h : d.trainingPasses p r = false) (asked : Bool) :
    ((d.trainingJudged p r asked).port p).idle ∧
      ((d.trainingJudged p r asked).port p).trainOk = d.flag (Reg.echCtrl (portGroup p)) 2 := by
  rw [Dev.trainingJudged, if_neg (by simp [h]), trainingFailed_port, trained_flag_echCtrl]
  exact ⟨toIdle_idle _ _, rfl⟩

theorem trainingJudged_port (d : Dev) (p : Nat) (r : TrainResult) (asked : Bool) :
    ((d.trainingJudged p r asked).port p).enabled = false ∧
      ((d.trainingJudged p r asked).port p).lvl = ((d.takeTraining p r).port p).lvl := by
  obtain ⟨hen, hlvl⟩ := trained_port d p r
  unfold Dev.trainingJudged
  split
  · rw [port_modPort_same]
    exact ⟨hen, hlvl⟩
  · rw [trainingFailed_port, Dev.toIdle, port_modPort_same]
    exact ⟨by rw [hen]; rfl, hlvl⟩

/-- After the judgement the request of maintenance ends, and the group is judged. -/
theorem echTrainingDoneEffect_follows {d : Dev} {p : Nat} (r : TrainResult) (hx : (d.port p).ech = .training)
    (hs : d.trainingSent p = true) :
    ∃ asked, Calms (d.trainingJudged p r asked) (echTrainingDoneEffect p r d) ∧
      StaysOrDown (portGroup p) (d.trainingJudged p r asked) (echTrainingDoneEffect p r d) := by
  have hdue : ¬ ((d.port p).ech ≠ .training ∨ (!d.trainingSent p) = true) := by simp [hx, hs]
  obtain ⟨asked, q0, code, heff⟩ : ∃ asked q0 code, echTrainingDoneEffect p r d =
      ((d.trainingJudged p r asked).endMnt 2 p q0 code 0).portChanged (portGroup p) := by
    unfold echTrainingDoneEffect
    rw [if_neg hdue]
    exact ⟨_, _, _, rfl⟩
  rw [heff]
  exact ⟨asked, (endMnt_calms _ _ _ _ _ _).trans (portChanged_calms _ _),
    (portChanged_staysOrDown _ _).of_ports (endMnt_ports _ _ _ _ _ _)⟩

theorem echTrainingDone_next {s : State} {p : Fin 128} (r : TrainResult) (hx : (s.dev.port p).ech = .training)
    (hs : s.dev.trainingSent p = true) :
    ∃ t, exec (.echTrainingDone p r) s = .next t ∧ t.pending = s.pending ∧ (t.dev.port p).enabled = false ∧
      (s.dev.trainingPasses p r = true → (t.dev.port p).ech = .converged ∨ (t.dev.group (portGroup p)).st = .down) ∧
      (s.dev.trainingPasses p r = false →
        (t.dev.port p).ech = .idle ∧ (t.dev.port p).trainOk = s.dev.flag (Reg.echCtrl (portGroup p)) 2) ∧
      ∀ q e u, r.lvl = [(q, e, u)] → r.others = [] → q < 4 → q ≠ p.val % 4 ∨ s.dev.isL p = true →
        (t.dev.port p).level q =
          some (s.dev.referred (4 * portGroup p + q) e, s.dev.referred (4 * portGroup p + q) u) := by
  obtain ⟨asked, hcalms, hstays⟩ := echTrainingDoneEffect_follows (d := s.dev.fresh) r hx hs
  obtain ⟨t, ht, hr, hp⟩ := run_reaches (f := echTrainingDoneEffect p r) (s := s) (Reports.refl _)
  have hcalm := (hcalms.trans hr.calms).port p
  have hstay := hstays.reports hr
  have hlast := hstay.port p
  obtain ⟨hen, hlvl⟩ := trainingJudged_port s.dev.fresh p r asked
  refine ⟨t, ht, hp, hcalm.muted hen, fun hpass => ?_, fun hfail => ?_, fun q e u hl ho hq hq' => ?_⟩
  · refine hstay.imp (fun hports => ?_) And.left
    rw [Dev.port, hports]
    exact trainingJudged_pass (d := s.dev.fresh) hpass asked
  · obtain ⟨hidle, hok⟩ := trainingJudged_fail (d := s.dev.fresh) hfail asked
    exact ⟨(hcalm.idle hidle).1, (congrArg Port.trainOk hlast).trans hok⟩
  · have hsame : (t.dev.port p).lvl = ((s.dev.fresh.takeTraining p r).port p).lvl := (congrArg Port.lvl hlast).trans hlvl
    rw [Port.level, hsame]
    exact takeTraining_level (d := s.dev.fresh) hl ho hq hq'

theorem echTrainingDone_reaches {s : State} {p : Fin 128} (r : TrainResult)
    (h : (s.dev.port p).ech ≠ .training ∨ s.dev.trainingSent p = false) : Reaches (exec (.echTrainingDone p r) s) s s.dev := by
  have heff : echTrainingDoneEffect p r s.dev.fresh = s.dev.fresh :=
    if_pos (h.imp id fun hs => by rw [show s.dev.fresh.trainingSent p = false from hs]; rfl)
  exact run_reaches (f := echTrainingDoneEffect p r) (by rw [heff]; exact fresh_reports _)

/-! ### Quiet intervals (04 R97) -/

/-- A quiet interval that ends is followed by the next. -/
def Dev.quietBegun (d : Dev) (p q sent : Nat) : Dev := d.modPort p (fun x => { x with quiet := SMap.put q sent x.quiet })

section
variable {d : Dev} {p q : Nat} (hd : d.dev = .run) (hq : d.quietOver p q = true)
include hd hq

theorem quietIntervalEndEffect_first (hb : (d.port p).lvlBp.any (fun x => decide (x.1 = q ∧ x.2 = d.msync.bpi)) = false) (e u : Int) :
    quietIntervalEndEffect p q e u d = ((d.publishMeasured p q e u).modPort p
      (fun x => { x with lvlBp := SMap.put q d.msync.bpi x.lvlBp })).quietBegun p q (d.port (4 * portGroup p + q)).sent := by
  rw [quietIntervalEndEffect, if_neg (by simp [hd, hq]), if_neg (by rw [hb]; exact Bool.false_ne_true), Dev.quietBegun]

theorem quietIntervalEndEffect_again (hb : (d.port p).lvlBp.any (fun x => decide (x.1 = q ∧ x.2 = d.msync.bpi)) = true) (e u : Int) :
    quietIntervalEndEffect p q e u d = d.quietBegun p q (d.port (4 * portGroup p + q)).sent := by
  rw [quietIntervalEndEffect, if_neg (by simp [hd, hq]), if_pos hb, Dev.quietBegun]

end

theorem quietIntervalEnd_early {s : State} {p : Fin 128} {q : Fin 4} (e u : Int) (h : s.dev.quietOver p q = false) :
    Reaches (exec (.quietIntervalEnd p q e u) s) s s.dev := by
  have heff : quietIntervalEndEffect p q e u s.dev.fresh = s.dev.fresh :=
    if_pos (.inr (by rw [show s.dev.fresh.quietOver p q = false from h]; rfl))
  exact run_reaches (f := quietIntervalEndEffect p q e u) (by rw [heff]; exact fresh_reports _)

/-- Of a further interval in a beacon period nothing is held but that the next has begun. -/
theorem quietIntervalEnd_again {s : State} {p : Fin 128} {q : Fin 4} (e u : Int) (hd : s.dev.dev = .run)
    (hq : s.dev.quietOver p q = true)
    (hb : (s.dev.port p).lvlBp.any (fun y => decide (y.1 = q.val ∧ y.2 = s.dev.msync.bpi)) = true) :
    Reaches (exec (.quietIntervalEnd p q e u) s) s (s.dev.quietBegun p q (s.dev.port (4 * portGroup p + q.val)).sent) := by
  have heff := quietIntervalEndEffect_again (d := s.dev.fresh) hd hq hb e u
  exact run_reaches (f := quietIntervalEndEffect p q e u) (by rw [heff]; exact (fresh_reports _).modPort _ _)

/-- The first interval of a beacon period publishes its pair, none for an N port's own slot. -/
theorem quietIntervalEnd_first {s : State} {p : Fin 128} {q : Fin 4} (e u : Int) (hd : s.dev.dev = .run)
    (hq : s.dev.quietOver p q = true)
    (hb : (s.dev.port p).lvlBp.any (fun y => decide (y.1 = q.val ∧ y.2 = s.dev.msync.bpi)) = false) :
    ∃ t, exec (.quietIntervalEnd p q e u) s = .next t ∧ t.pending = s.pending ∧ AtPort p s.dev t.dev ∧
      (t.dev.port p).ech = (s.dev.port p).ech ∧
      (q.val = p.val % 4 → s.dev.isL p = false →
        (t.dev.port p).lvl = (s.dev.port p).lvl ∧ (t.dev.port p).supp = (s.dev.port p).supp) ∧
      (q.val ≠ p.val % 4 ∨ s.dev.isL p = true →
        (t.dev.port p).level q = some (s.dev.referred (4 * portGroup p + q) e, s.dev.referred (4 * portGroup p + q) u) ∧
        (t.dev.port p).supp = if q.val = p.val % 4
          then s.dev.referred (4 * portGroup p + q) e - s.dev.referred (4 * portGroup p + q) u else (s.dev.port p).supp) := by
  obtain ⟨b, hpub⟩ : ∃ b, b = s.dev.fresh.publishMeasured p q e u := ⟨_, rfl⟩
  have heff := quietIntervalEndEffect_first (d := s.dev.fresh) hd hq hb e u
  obtain ⟨t, ht, hr, hp⟩ := run_reaches (f := quietIntervalEndEffect p q e u) (s := s) (Reports.refl _)
  rw [heff, ← hpub] at hr
  have hat : AtPort p s.dev b := ((fresh_reports _).atPort p).trans (hpub ▸ publish_atPort _ _ _ _ _)
  have hech : (b.port p).ech = (s.dev.port p).ech := hpub ▸ (publish_republishes s.dev.fresh p q _ _).ech
  refine ⟨t, ht, hp, ((hat.trans (modPort_atPort _ _ _)).trans (modPort_atPort _ _ _)).trans (hr.atPort p), ?_⟩
  rw [hr.port, Dev.quietBegun, port_modPort_same, port_modPort_same]
  refine ⟨hech, fun hn hl => ?_, fun hs => ?_⟩
  · rw [hpub, Dev.publishMeasured, publish_own_N (d := s.dev.fresh) hn hl]
    exact ⟨rfl, rfl⟩
  · rw [hpub, Dev.publishMeasured, publish_eq (d := s.dev.fresh) hs, port_modPort_same]
    exact ⟨Port.level_publish _ _ _ _, rfl⟩

/-! ### Residue windows (04 R102-R107) -/

/-- The sample count at which a window's samples begin. -/
def Dev.windowStart (d : Dev) (o : WindowObs) : Nat := d.tb.n - pinLen o.pins

/-- What the converters show in a window. -/
def Dev.windowSpans (d : Dev) (p : Nat) (o : WindowObs) : List ConvSpan := d.convertAll p (d.windowStart o) (pinSpans 0 o.pins)

/-- Whether a limit code fell in a window while a source transmitted. -/
def Dev.windowLimit (d : Dev) (p : Nat) (o : WindowObs) : Bool := d.clipsWhileSending p (d.windowStart o) (d.windowSpans p o)

/-- The highest estimate of a window's residue, referred to full level. -/
def Dev.windowResidue (d : Dev) (p : Nat) (o : WindowObs) : Int := d.referred p (o.ests.foldl max (-2048))

/-- The time-domain coefficients after a window: CONVERGED holds them. -/
def Dev.windowTd (d : Dev) (p : Nat) (o : WindowObs) : List Int :=
  if (d.port p).ech = .converged then (d.port p).td
  else d.adapt p (madcCodes (d.windowSpans p o)).length (d.windowStart o) (madcCodes (d.windowSpans p o)) (d.port p).td

/-- Whether a residue lies above the threshold over a port's own level. -/
def Dev.residueAbove (d : Dev) (p : Nat) (residue : Int) : Bool :=
  match (d.port p).level (p % 4) with
  | some l => decide (l.2 + (4 * d.fld (Reg.echThr (portGroup p)) 3 0 : Int) < residue)
  | none => false

/-- Whether a window loses a canceller that has converged: a second residue above the threshold, a limit code, or an excess of energy. -/
def Dev.windowLost (d : Dev) (p : Nat) (residue : Int) (limit : Bool) : Bool :=
  (d.residueAbove p residue && (d.port p).overPrev) || limit || decide (4 * (d.port p).tdRef < energy (d.port p).td)

/-- A port's published level of its own source. -/
def Port.ownLevel (x : Port) (p : Nat) : Int := match x.level (p % 4) with | some l => l.1 | none => 0

/-- Whether a window of a DIVERGED canceller is good. -/
def Dev.windowGood (d : Dev) (p : Nat) (residue : Int) (limit : Bool) : Bool :=
  decide ((4 * d.fld (Reg.echThr (portGroup p)) 15 8 : Int) ≤ (d.port p).ownLevel p - residue) && !limit

/-- A port whose canceller is lost. -/
def Port.lost (x : Port) : Port :=
  { x with ech := .diverged, held := true, divWin := 0, overPrev := false, goodWins := [], trainAsk := false }

/-- A window that loses a canceller makes it DIVERGED, raises `DIV_SEEN`, and changes nothing else but reports. -/
theorem windowTracking_lost {d : Dev} {p : Nat} {residue : Int} {limit : Bool} (h : d.windowLost p residue limit = true) :
    Reports (d.modPort p Port.lost) (d.windowTracking p residue limit) ∧
      (d.windowTracking p residue limit).flag (Src.ech (portGroup p) (p % 4)).off 31 = true := by
  obtain ⟨e, he⟩ : ∃ e, e = (d.modPort p Port.lost).raise (.ech (portGroup p) (p % 4)) 31 := ⟨_, rfl⟩
  obtain ⟨e', he'⟩ : ∃ e', e' = if limit then e.raise (.ech (portGroup p) (p % 4)) 30 else e := ⟨_, rfl⟩
  have heff : d.windowTracking p residue limit =
      e'.event 0x0204 stOk p (leBytes 1 (b2n limit) ++ leBytes 2 (unsigned 16 residue)) := by
    rw [he', he]
    exact if_pos h
  have hbit : e.flag (Src.ech (portGroup p) (p % 4)).off 31 = true := by
    rw [he]
    exact flag_raise (by decide) _ _
  have hseen : Reports e e' ∧ e'.flag (Src.ech (portGroup p) (p % 4)).off 31 = true := by
    rw [he']
    split
    · exact ⟨raise_reports _ _ _, by rw [flag_raise_apart (by decide) (by decide), hbit]⟩
    · exact ⟨Reports.refl e, hbit⟩
  rw [heff, flag_event_ech]
  refine ⟨Reports.trans ?_ (hseen.1.trans (event_reports _ _ _ _ _)), hseen.2⟩
  rw [he]
  exact raise_reports _ _ _

theorem windowTracking_kept {d : Dev} {p : Nat} {residue : Int} {limit : Bool} (h : d.windowLost p residue limit = false) :
    d.windowTracking p residue limit = d.modPort p (fun x => { x with overPrev := d.residueAbove p residue }) :=
  if_neg (fun hl => Bool.false_ne_true (h.symm.trans hl))

theorem windowTracking_atPort (d : Dev) (p : Nat) (residue : Int) (limit : Bool) :
    AtPort p d (d.windowTracking p residue limit) := by
  cases h : d.windowLost p residue limit with
  | true => exact (modPort_atPort d p _).trans ((windowTracking_lost h).1.atPort p)
  | false => rw [windowTracking_kept h]; exact modPort_atPort d p _

/-- A port whose canceller comes back from DIVERGED. -/
def Port.recovered (x : Port) : Port := { x with ech := .tracking, divWin := 0, goodWins := [], trainAsk := false }

/-- A port whose canceller stays DIVERGED after a window, with its good windows in a row. -/
def Port.stillLost (wins : List Int) (x : Port) : Port := { x with goodWins := wins, divWin := x.divWin + 1 }

/-- What follows a window of a DIVERGED canceller, its good windows in a row given (04 R105, R106). -/
def Dev.closeWindow (d : Dev) (p : Nat) (e residue : Int) (wins : List Int) : Dev :=
  if 4 ≤ wins.length then
    let d := d.publish p (p % 4) e ((wins.take 4).foldl max residue)
    (if (d.port p).trainAsk then d.withdrawTraining p else d).modPort p Port.recovered
  else d.modPort p (Port.stillLost wins)

/-- The fourth good window in a row brings a canceller back. -/
theorem closeWindow_eq (d : Dev) (p : Nat) (e residue : Int) (wins : List Int) :
    ∃ b, Republishes p d b ∧
      d.closeWindow p e residue wins = b.modPort p (if 4 ≤ wins.length then Port.recovered else Port.stillLost wins) := by
  unfold Dev.closeWindow
  by_cases h : 4 ≤ wins.length
  · rw [if_pos h, if_pos h]
    refine ⟨_, ?_, rfl⟩
    have hpub := publish_republishes d p (p % 4) e ((wins.take 4).foldl max residue)
    split
    · exact ⟨hpub.others, hpub.port⟩
    · exact hpub
  · rw [if_neg h, if_neg h]
    exact ⟨d, ⟨fun _ _ => rfl, rfl⟩, rfl⟩

/-- The good windows in a row of a port after a window. -/
def Dev.goodWinsAfter (d : Dev) (p : Nat) (residue : Int) (limit : Bool) : List Int :=
  if d.windowGood p residue limit then residue :: (d.port p).goodWins else []

theorem windowDiverged_eq (d : Dev) (p : Nat) (residue : Int) (limit : Bool) :
    ∃ b, Republishes p d b ∧ d.windowDiverged p residue limit =
      b.modPort p (if 4 ≤ (d.goodWinsAfter p residue limit).length then Port.recovered
        else Port.stillLost (d.goodWinsAfter p residue limit)) := by
  obtain ⟨b, hb⟩ : ∃ b, b = d.publish p (p % 4) ((d.port p).ownLevel p) residue := ⟨_, rfl⟩
  have hpub : Republishes p d b := hb ▸ publish_republishes d p _ _ _
  have hthr : b.fld (Reg.echThr (portGroup p)) 15 8 = d.fld (Reg.echThr (portGroup p)) 15 8 := by
    rw [hb, Dev.publish]
    split <;> rfl
  have hclose : d.windowDiverged p residue limit = b.closeWindow p ((d.port p).ownLevel p) residue
      (if decide ((4 * b.fld (Reg.echThr (portGroup p)) 15 8 : Int) ≤ (d.port p).ownLevel p - residue) && !limit
        then residue :: (b.port p).goodWins else []) := by
    rw [hb]
    rfl
  rw [hpub.goodWins, hthr] at hclose
  obtain ⟨e, he, heq⟩ := closeWindow_eq b p ((d.port p).ownLevel p) residue (d.goodWinsAfter p residue limit)
  exact ⟨e, hpub.trans he, hclose.trans heq⟩

/-! ### The end of a window -/

/-- The correlation that a window leaves. -/
def Dev.windowCorr (d : Dev) (p : Nat) (o : WindowObs) : List Int :=
  if (d.port p).ech = .diverged then d.correlate p (d.windowStart o) (madcCodes (d.windowSpans p o)) (d.port p).corr
  else (d.port p).corr

/-- A port at the end of a window, whose samples have been judged up to count `n` and whose coefficients are adapted. -/
def Port.windowed (n : Nat) (td corr : List Int) (x : Port) : Port :=
  { x with seen := n, winAt := x.winAt + 20000, td := td, corr := corr }

/-- A device whose port `p` has come to the end of a window: its samples are judged, its coefficients adapted. -/
def Dev.windowTaken (d : Dev) (p : Nat) (o : WindowObs) : Dev :=
  (d.noteSamples p (d.windowStart o) (pinLen o.pins - 8) (d.windowSpans p o)
    (d.blankSpans p (d.windowStart o) (d.windowSpans p o))).modPort p
      (fun x => x.windowed x.seen (d.windowTd p o) (d.windowCorr p o))

theorem windowTaken_atPort (d : Dev) (p : Nat) (o : WindowObs) : AtPort p d (d.windowTaken p o) := by
  obtain ⟨e, he, heq⟩ := noteSamples_eq d p (d.windowStart o) (pinLen o.pins - 8) (d.windowSpans p o)
    (d.blankSpans p (d.windowStart o) (d.windowSpans p o))
  rw [Dev.windowTaken, heq]
  exact ((he.atPort p).trans (modPort_atPort _ _ _)).trans (modPort_atPort _ _ _)

theorem windowTaken_port (d : Dev) (p : Nat) (o : WindowObs) :
    ∃ n, (d.windowTaken p o).port p = (d.port p).windowed n (d.windowTd p o) (d.windowCorr p o) := by
  obtain ⟨e, he, heq⟩ := noteSamples_eq d p (d.windowStart o) (pinLen o.pins - 8) (d.windowSpans p o)
    (d.blankSpans p (d.windowStart o) (d.windowSpans p o))
  refine ⟨max (d.port p).seen (d.windowStart o + (pinLen o.pins - 8)), ?_⟩
  rw [Dev.windowTaken, heq, port_modPort_same, port_modPort_same, he.port]
  rfl

theorem echWindowEndEffect_tracking {d : Dev} {p : Nat} (o : WindowObs) (hw : d.windowDue p = true)
    (hx : (d.port p).ech = .converged ∨ (d.port p).ech = .tracking) :
    echWindowEndEffect p o d = (d.windowTaken p o).windowTracking p (d.windowResidue p o) (d.windowLimit p o) := by
  have hne : (d.port p).ech ≠ .diverged := by rcases hx with h | h <;> rw [h] <;> decide
  have hdue : ¬ (!(decide ((d.port p).ech = .converged ∨ (d.port p).ech = .tracking ∨ (d.port p).ech = .diverged) &&
      d.windowDue p)) = true := by rcases hx with h | h <;> simp [h, hw]
  unfold echWindowEndEffect
  dsimp only
  rw [if_neg hdue, if_neg hne]
  rfl

theorem echWindowEndEffect_diverged {d : Dev} {p : Nat} (o : WindowObs) (hw : d.windowDue p = true)
    (hx : (d.port p).ech = .diverged) :
    echWindowEndEffect p o d = (d.windowTaken p o).windowDiverged p (d.windowResidue p o) (d.windowLimit p o) := by
  have hdue : ¬ (!(decide ((d.port p).ech = .converged ∨ (d.port p).ech = .tracking ∨ (d.port p).ech = .diverged) &&
      d.windowDue p)) = true := by simp [hx, hw]
  unfold echWindowEndEffect
  dsimp only
  rw [if_neg hdue]
  exact if_pos hx

theorem echWindowEnd_reaches {s : State} {p : Fin 128} (o : WindowObs)
    (h : (s.dev.port p).ech = .idle ∨ (s.dev.port p).ech = .training ∨ s.dev.windowDue p = false) :
    Reaches (exec (.echWindowEnd p o) s) s s.dev := by
  have hskip : (!(decide ((s.dev.port p).ech = .converged ∨ (s.dev.port p).ech = .tracking ∨ (s.dev.port p).ech = .diverged) &&
      s.dev.windowDue p)) = true := by rcases h with h | h | h <;> simp [h]
  have heff : echWindowEndEffect p o s.dev.fresh = s.dev.fresh := if_pos hskip
  exact run_reaches (f := echWindowEndEffect p o) (by rw [heff]; exact fresh_reports _)

/-! ### Posted writes are no part of a window -/

theorem windowSpans_fresh (d : Dev) (p : Nat) (o : WindowObs) : d.fresh.windowSpans p o = d.windowSpans p o := rfl
theorem windowLimit_fresh (d : Dev) (p : Nat) (o : WindowObs) : d.fresh.windowLimit p o = d.windowLimit p o := rfl
theorem windowResidue_fresh (d : Dev) (p : Nat) (o : WindowObs) : d.fresh.windowResidue p o = d.windowResidue p o := rfl
theorem adaptBlock_fresh (d : Dev) (p n : Nat) (madc td : List Int) : d.fresh.adaptBlock p n madc td = d.adaptBlock p n madc td := rfl

theorem adapt_fresh (d : Dev) (p fuel : Nat) :
    ∀ (n : Nat) (madc td : List Int), d.fresh.adapt p fuel n madc td = d.adapt p fuel n madc td := by
  induction fuel with
  | zero => exact fun _ _ _ => rfl
  | succ fuel ih =>
    intro n madc td
    rw [Dev.adapt, Dev.adapt, adaptBlock_fresh, ih]

theorem windowTd_fresh (d : Dev) (p : Nat) (o : WindowObs) : d.fresh.windowTd p o = d.windowTd p o := by
  unfold Dev.windowTd
  rw [adapt_fresh, windowSpans_fresh, fresh_port]
  rfl

/-! ### What judged samples and adapted coefficients leave of a window's judgement -/

theorem windowLevel_taken (d : Dev) (p : Nat) (o : WindowObs) (q : Nat) :
    ((d.windowTaken p o).port p).level q = (d.port p).level q := by
  obtain ⟨n, hn⟩ := windowTaken_port d p o
  rw [hn]
  rfl

theorem residueAbove_taken (d : Dev) (p : Fin 128) (o : WindowObs) (residue : Int) :
    (d.windowTaken p o).residueAbove p residue = d.residueAbove p residue := by
  unfold Dev.residueAbove
  rw [windowLevel_taken, (windowTaken_atPort d p o).fld (statusOff_echThr p)]

/-- Whether the window that ends loses a canceller that has converged. -/
def Dev.losesWindow (d : Dev) (p : Nat) (o : WindowObs) : Bool :=
  (d.residueAbove p (d.windowResidue p o) && (d.port p).overPrev) || d.windowLimit p o ||
    decide (4 * (d.port p).tdRef < energy (d.windowTd p o))

theorem losesWindow_fresh (d : Dev) (p : Nat) (o : WindowObs) : d.fresh.losesWindow p o = d.losesWindow p o := by
  unfold Dev.losesWindow
  rw [windowTd_fresh, windowResidue_fresh, windowLimit_fresh]
  rfl

theorem windowLost_taken (d : Dev) (p : Fin 128) (o : WindowObs) :
    (d.windowTaken p o).windowLost p (d.windowResidue p o) (d.windowLimit p o) = d.losesWindow p o := by
  obtain ⟨n, hn⟩ := windowTaken_port d p o
  rw [Dev.windowLost, residueAbove_taken, hn]
  rfl

theorem goodWinsAfter_taken (d : Dev) (p : Fin 128) (o : WindowObs) (residue : Int) (limit : Bool) :
    (d.windowTaken p o).goodWinsAfter p residue limit = d.goodWinsAfter p residue limit := by
  obtain ⟨n, hn⟩ := windowTaken_port d p o
  unfold Dev.goodWinsAfter Dev.windowGood Port.ownLevel
  rw [windowLevel_taken, (windowTaken_atPort d p o).fld (statusOff_echThr p), hn]
  rfl

/-! ### The step of a window's end -/

/-- A window in CONVERGED or TRACKING. -/
theorem echWindowEnd_tracking {s : State} {p : Fin 128} (o : WindowObs) (hw : s.dev.windowDue p = true)
    (hx : (s.dev.port p).ech = .converged ∨ (s.dev.port p).ech = .tracking) :
    ∃ t, exec (.echWindowEnd p o) s = .next t ∧ t.pending = s.pending ∧ AtPort p s.dev t.dev ∧
      (t.dev.port p).td = s.dev.windowTd p o ∧ (t.dev.port p).winAt = (s.dev.port p).winAt + 20000 ∧
      (s.dev.losesWindow p o = true → (t.dev.port p).ech = .diverged ∧ (t.dev.port p).held = true ∧
        t.dev.flag (Src.ech (portGroup p) (p % 4)).off 31 = true) ∧
      (s.dev.losesWindow p o = false → (t.dev.port p).ech = (s.dev.port p).ech ∧ (t.dev.port p).held = (s.dev.port p).held ∧
        (t.dev.port p).overPrev = s.dev.residueAbove p (s.dev.windowResidue p o)) := by
  obtain ⟨e, he⟩ : ∃ e, e = s.dev.fresh.windowTaken p o := ⟨_, rfl⟩
  have heff := echWindowEndEffect_tracking (d := s.dev.fresh) o hw hx
  rw [← he, windowResidue_fresh, windowLimit_fresh] at heff
  have hlost : e.windowLost p (s.dev.windowResidue p o) (s.dev.windowLimit p o) = s.dev.losesWindow p o := by
    rw [he, ← losesWindow_fresh, ← windowLost_taken, windowResidue_fresh, windowLimit_fresh]
  obtain ⟨n, hn⟩ := windowTaken_port s.dev.fresh p o
  rw [← he, windowTd_fresh, fresh_port] at hn
  obtain ⟨t, ht, hp, hdev⟩ := run_fresh (echWindowEndEffect p o) s
  rw [heff] at hdev
  have hat := ((fresh_reports s.dev).atPort p).trans (he ▸ windowTaken_atPort s.dev.fresh p o)
  have hend := (hat.trans (windowTracking_atPort e p (s.dev.windowResidue p o) (s.dev.windowLimit p o))).trans
    ((fresh_reports _).atPort p)
  rw [← hdev] at hend
  have hport : t.dev.port p = (e.windowTracking p (s.dev.windowResidue p o) (s.dev.windowLimit p o)).port p := by
    rw [hdev, fresh_port]
  cases hl : s.dev.losesWindow p o with
  | true =>
    obtain ⟨hr, hflag⟩ := windowTracking_lost (hlost.trans hl)
    rw [hr.port, port_modPort_same, hn] at hport
    refine ⟨t, ht, hp, hend, ?_⟩
    rw [hport]
    refine ⟨rfl, rfl, fun _ => ⟨rfl, rfl, ?_⟩, nofun⟩
    rw [hdev]
    exact hflag
  | false =>
    rw [windowTracking_kept (hlost.trans hl), port_modPort_same, hn, he, residueAbove_taken] at hport
    refine ⟨t, ht, hp, hend, ?_⟩
    rw [hport]
    exact ⟨rfl, rfl, nofun, fun _ => ⟨rfl, rfl, rfl⟩⟩

/-- The good windows in a row after the window that ends. -/
def Dev.goodWindows (d : Dev) (p : Nat) (o : WindowObs) : List Int := d.goodWinsAfter p (d.windowResidue p o) (d.windowLimit p o)

theorem goodWindows_good {d : Dev} {p : Nat} {o : WindowObs}
    (h : d.windowGood p (d.windowResidue p o) (d.windowLimit p o) = true) :
    d.goodWindows p o = d.windowResidue p o :: (d.port p).goodWins := if_pos h

theorem goodWindows_bad {d : Dev} {p : Nat} {o : WindowObs}
    (h : d.windowGood p (d.windowResidue p o) (d.windowLimit p o) = false) : d.goodWindows p o = [] :=
  if_neg fun hg => Bool.false_ne_true (h.symm.trans hg)

theorem goodWindows_fresh (d : Dev) (p : Nat) (o : WindowObs) : d.fresh.goodWindows p o = d.goodWindows p o := rfl

/-- A window in DIVERGED leaves its port but for what it publishes. -/
theorem echWindowEnd_diverged_port {s : State} {p : Fin 128} (o : WindowObs) (hw : s.dev.windowDue p = true)
    (hx : (s.dev.port p).ech = .diverged) :
    ∃ t n corr, exec (.echWindowEnd p o) s = .next t ∧ t.pending = s.pending ∧
      (∀ i, i ≠ p.val → t.dev.port i = s.dev.port i) ∧
      (t.dev.port p).unpublished = Port.unpublished
        ((if 4 ≤ (s.dev.goodWindows p o).length then Port.recovered else Port.stillLost (s.dev.goodWindows p o))
          ((s.dev.port p).windowed n (s.dev.windowTd p o) corr)) := by
  obtain ⟨e, he⟩ : ∃ e, e = s.dev.fresh.windowTaken p o := ⟨_, rfl⟩
  obtain ⟨b, hb, heff⟩ := windowDiverged_eq e p (s.dev.fresh.windowResidue p o) (s.dev.fresh.windowLimit p o)
  have hwins : e.goodWinsAfter p (s.dev.fresh.windowResidue p o) (s.dev.fresh.windowLimit p o) = s.dev.goodWindows p o := by
    rw [he, goodWinsAfter_taken, ← goodWindows_fresh, Dev.goodWindows]
  obtain ⟨n, hn⟩ := windowTaken_port s.dev.fresh p o
  rw [← he, windowTd_fresh, fresh_port] at hn
  obtain ⟨t, ht, hp, hdev⟩ := run_fresh (echWindowEndEffect p o) s
  rw [echWindowEndEffect_diverged (d := s.dev.fresh) o hw hx, ← he, heff, hwins] at hdev
  refine ⟨t, n, s.dev.fresh.windowCorr p o, ht, hp, fun i hi => ?_, ?_⟩
  · rw [hdev, fresh_port, port_modPort_ne hi, hb.others i hi, he, (windowTaken_atPort s.dev.fresh p o).2 i hi, fresh_port]
  · rw [hdev, fresh_port, port_modPort_same, ← hn]
    have hport := hb.port
    split
    · exact congrArg Port.recovered hport
    · exact congrArg (Port.stillLost (s.dev.goodWindows p o)) hport

/-- Four good windows in a row bring a canceller back; a window that is not good begins the row anew. -/
theorem echWindowEnd_diverged {s : State} {p : Fin 128} (o : WindowObs) (hw : s.dev.windowDue p = true)
    (hx : (s.dev.port p).ech = .diverged) :
    let good := s.dev.windowGood p (s.dev.windowResidue p o) (s.dev.windowLimit p o)
    ∃ t, exec (.echWindowEnd p o) s = .next t ∧ t.pending = s.pending ∧ (∀ i, i ≠ p.val → t.dev.port i = s.dev.port i) ∧
      (t.dev.port p).td = s.dev.windowTd p o ∧ (t.dev.port p).winAt = (s.dev.port p).winAt + 20000 ∧
      (good = true → 3 ≤ (s.dev.port p).goodWins.length →
        (t.dev.port p).ech = .tracking ∧ (t.dev.port p).trainAsk = false) ∧
      (good = true → (s.dev.port p).goodWins.length < 3 →
        (t.dev.port p).ech = .diverged ∧ (t.dev.port p).goodWins = s.dev.windowResidue p o :: (s.dev.port p).goodWins) ∧
      (good = false → (t.dev.port p).ech = .diverged ∧ (t.dev.port p).goodWins = [] ∧
        (t.dev.port p).divWin = (s.dev.port p).divWin + 1) := by
  obtain ⟨t, n, corr, ht, hp, hothers, hport⟩ := echWindowEnd_diverged_port o hw hx
  refine ⟨t, ht, hp, hothers, (congrArg Port.td hport).trans (by split <;> rfl),
    (congrArg Port.winAt hport).trans (by split <;> rfl), fun hgood h3 => ?_, fun hgood h3 => ?_, fun hbad => ?_⟩
  · rw [goodWindows_good hgood, List.length_cons, if_pos (by omega)] at hport
    exact ⟨congrArg Port.ech hport, congrArg Port.trainAsk hport⟩
  · rw [goodWindows_good hgood, List.length_cons, if_neg (by omega)] at hport
    exact ⟨(congrArg Port.ech hport).trans hx, congrArg Port.goodWins hport⟩
  · rw [goodWindows_bad hbad, List.length_nil, if_neg (by decide)] at hport
    exact ⟨(congrArg Port.ech hport).trans hx, congrArg Port.goodWins hport, congrArg Port.divWin hport⟩

/-! ### Divergence that lasts (04 R106) -/

theorem enqueueMnt_waits (d : Dev) (kind p : Nat) (cmd sess : Option Nat) : (d.enqueueMnt kind [p] cmd sess).waits kind p = true := by
  simp [Dev.waits, Dev.reqsAt, Dev.enqueueMnt]

/-- What the device asks of maintenance waits or runs. -/
theorem askMnt_own_waits (d : Dev) (kind p : Nat) :
    (d.askMnt kind p none).waits kind p = true ∨ ((d.askMnt kind p none).runOf kind p).isSome = true := by
  unfold Dev.askMnt
  split
  · next h => exact ((Bool.or_eq_true _ _).mp h).symm
  · split
    · exact .inl (enqueueMnt_waits d kind p none none)
    · exact .inl (enqueueMnt_waits _ kind p none none)

theorem echDivLimit_next {s : State} {p : Fin 128} (hx : (s.dev.port p).ech = .diverged)
    (hw : s.dev.fld (Reg.echThr (portGroup p)) 31 16 ≤ (s.dev.port p).divWin) (ha : (s.dev.port p).trainAsk = false) :
    ∃ t, exec (.echDivLimit p) s = .next t ∧ t.pending = s.pending ∧ (t.dev.port p).trainAsk = true ∧
      (t.dev.waits 2 p = true ∨ (t.dev.runOf 2 p).isSome = true) ∧ ∀ i, i ≠ p.val → t.dev.port i = s.dev.port i := by
  obtain ⟨e, he⟩ : ∃ e, e = s.dev.fresh.modPort p (fun x => { x with trainAsk := true }) := ⟨_, rfl⟩
  have heff : echDivLimitEffect p s.dev.fresh = e.askMnt 2 p none := by
    rw [he]
    exact if_pos ⟨hx, hw, by rw [fresh_port, ha]; rfl⟩
  obtain ⟨m, hm⟩ := askMnt_own_eq e 2 p
  obtain ⟨t, ht, hp, hdev⟩ := run_fresh (echDivLimitEffect p) s
  rw [heff] at hdev
  have hports : ∀ i, t.dev.port i = e.port i := fun i => by rw [hdev, fresh_port, hm]; rfl
  refine ⟨t, ht, hp, ?_, ?_, fun i hi => ?_⟩
  · rw [hports, he, port_modPort_same]
  · rw [hdev]
    exact askMnt_own_waits e 2 p
  · rw [hports, he, port_modPort_ne hi, fresh_port]

theorem echDivLimit_reaches {s : State} {p : Fin 128}
    (h : ¬ ((s.dev.port p).ech = .diverged ∧ s.dev.fld (Reg.echThr (portGroup p)) 31 16 ≤ (s.dev.port p).divWin ∧
      (s.dev.port p).trainAsk = false)) : Reaches (exec (.echDivLimit p) s) s s.dev := by
  have heff : echDivLimitEffect p s.dev.fresh = s.dev.fresh :=
    if_neg fun ⟨hx, hw, ha⟩ => h ⟨hx, hw, by simpa using ha⟩
  exact run_reaches (f := echDivLimitEffect p) (by rw [heff]; exact fresh_reports _)

/-! ### The statement -/

/-- Settles O59: the port that each of the five events leaves. -/
theorem cancellers : Obligations.Cancellers := by
  intro s p
  exact ⟨echTrainingStart_next, echTrainingStart_reaches, echTrainingDone_next, echTrainingDone_reaches,
    fun _ e u hd => ⟨quietIntervalEnd_early e u, quietIntervalEnd_again e u hd, quietIntervalEnd_first e u hd⟩,
    fun o => ⟨echWindowEnd_reaches o, echWindowEnd_tracking o, echWindowEnd_diverged o⟩,
    fun ⟨hx, hw, ha⟩ => echDivLimit_next hx hw ha, echDivLimit_reaches⟩

end Sys2Proof.Machine
end

section
/-! SUPPORT. Slots (05 R122, R126, R127, 03 R73): what a delivery leaves in the shadow and among the late lanes, and what a boundary makes
of the lanes that it does not bind and of the drivers. -/

namespace Sys2Proof.Machine

/-! ### Delivery (05 R126) -/

/-- The lanes of the coming boundary that neither wait in the shadow nor are late yet. -/
def Dev.toDeliver (d : Dev) (unit : Nat) : List Nat :=
  (d.lanesAt d.coming.1 unit).filter (fun l => !d.shadow.contains l && !d.late.contains l)

/-- Those of them that a delivery finds too late, or brings too late. -/
def Dev.tooLate (d : Dev) (unit : Nat) (late : List Nat) : List Nat :=
  (d.toDeliver unit).filter (fun l => !d.leadLeft d.coming.2.2 || late.contains l)

theorem mem_toDeliver {d : Dev} {unit l : Nat} :
    l ∈ d.toDeliver unit ↔ l ∈ d.lanesAt d.coming.1 unit ∧ l ∉ d.shadow ∧ l ∉ d.late := by
  simp [Dev.toDeliver]

theorem mem_tooLate {d : Dev} {unit l : Nat} {late : List Nat} :
    l ∈ d.tooLate unit late ↔ l ∈ d.toDeliver unit ∧ (d.leadLeft d.coming.2.2 = false ∨ l ∈ late) := by
  simp [Dev.tooLate]

/-- The lanes in the shadow once a delivery has come. -/
def Dev.shadowAfter (d : Dev) (unit : Nat) (late : List Nat) : List Nat :=
  d.shadow ++ (d.toDeliver unit).filter (fun l => !(d.tooLate unit late).contains l)

theorem mem_shadowAfter {d : Dev} {unit l : Nat} {late : List Nat} :
    l ∈ d.shadowAfter unit late ↔ l ∈ d.shadow ∨ (l ∈ d.toDeliver unit ∧ l ∉ d.tooLate unit late) := by
  simp [Dev.shadowAfter]

theorem shadowAfter_or_late {d : Dev} {unit l : Nat} (hl : l ∈ d.lanesAt d.coming.1 unit) (late : List Nat) :
    l ∈ d.shadowAfter unit late ∨ l ∈ d.late ++ d.tooLate unit late := by
  by_cases hs : l ∈ d.shadow
  · exact .inl (mem_shadowAfter.2 (.inl hs))
  · by_cases ha : l ∈ d.late
    · exact .inr (List.mem_append.2 (.inl ha))
    · by_cases ht : l ∈ d.tooLate unit late
      · exact .inr (List.mem_append.2 (.inr ht))
      · exact .inl (mem_shadowAfter.2 (.inr ⟨mem_toDeliver.2 ⟨hl, hs, ha⟩, ht⟩))

theorem mem_shadowAfter_of_lead {d : Dev} {unit l : Nat} {late : List Nat} (hl : l ∈ d.lanesAt d.coming.1 unit)
    (hlead : d.leadLeft d.coming.2.2 = true) (hn : l ∉ late) (ha : l ∉ d.late) : l ∈ d.shadowAfter unit late := by
  by_cases hs : l ∈ d.shadow
  · exact mem_shadowAfter.2 (.inl hs)
  · refine mem_shadowAfter.2 (.inr ⟨mem_toDeliver.2 ⟨hl, hs, ha⟩, fun ht => ?_⟩)
    exact (mem_tooLate.1 ht).2.elim (fun h => Bool.noConfusion (hlead.symm.trans h)) hn

theorem not_mem_shadowAfter_of_no_lead {d : Dev} {unit l : Nat} {late : List Nat} (hlead : d.leadLeft d.coming.2.2 = false)
    (hs : l ∉ d.shadow) : l ∉ d.shadowAfter unit late := fun h =>
  (mem_shadowAfter.1 h).elim hs fun ⟨hn, ht⟩ => ht (mem_tooLate.2 ⟨hn, .inl hlead⟩)

theorem bindingDeliveryEffect_reports {d : Dev} {unit : Nat} (hd : d.dev = .run) (hu : d.coming.2.1 = unit) (late : List Nat) :
    Reports { d with shadow := d.shadowAfter unit late, late := d.late ++ d.tooLate unit late } (bindingDeliveryEffect unit late d) := by
  have heff : bindingDeliveryEffect unit late d = (d.tooLate unit late).foldl (fun d _ => d.raise .car 0)
      { d with shadow := d.shadowAfter unit late, late := d.late ++ d.tooLate unit late } :=
    if_neg fun h => h.elim (· hd) (· hu)
  rw [heff]
  exact foldl_reports _ (fun d _ => raise_reports d _ _) _ _

/-- 05 R126: every lane of the coming boundary goes to the shadow or is late. -/
theorem bindingDelivery_next {s : State} {unit : Nat} (late : List Nat) (hd : s.dev.dev = .run) (hu : s.dev.coming.2.1 = unit) :
    ∃ t, exec (.bindingDelivery unit late) s = .next t ∧ t.pending = s.pending ∧
      Reports { s.dev with shadow := t.dev.shadow, late := t.dev.late } t.dev ∧
      (∀ l ∈ s.dev.shadow, l ∈ t.dev.shadow) ∧
      ∀ l ∈ s.dev.lanesAt s.dev.coming.1 unit, (l ∈ t.dev.shadow ∨ l ∈ t.dev.late) ∧
        (s.dev.leadLeft s.dev.coming.2.2 = true → l ∉ late → l ∉ s.dev.late → l ∈ t.dev.shadow) ∧
        (s.dev.leadLeft s.dev.coming.2.2 = false → l ∉ s.dev.shadow → l ∉ t.dev.shadow) := by
  obtain ⟨t, ht, hp, hdev⟩ := run_fresh (bindingDeliveryEffect unit late) s
  have hr : Reports { s.dev with shadow := s.dev.shadowAfter unit late, late := s.dev.late ++ s.dev.tooLate unit late } t.dev := by
    rw [hdev]
    exact ((bindingDeliveryEffect_reports (d := s.dev.fresh) hd hu late).trans (fresh_reports _))
  have hshadow : t.dev.shadow = s.dev.shadowAfter unit late := hr.shadow
  have hlate : t.dev.late = s.dev.late ++ s.dev.tooLate unit late := hr.late
  refine ⟨t, ht, hp, by rw [hshadow, hlate]; exact hr, fun l hl => ?_, fun l hl => ?_⟩
  · rw [hshadow]
    exact mem_shadowAfter.2 (.inl hl)
  · rw [hshadow, hlate]
    exact ⟨shadowAfter_or_late hl late, mem_shadowAfter_of_lead hl, not_mem_shadowAfter_of_no_lead⟩

/-! ### Folds over lanes and ports -/

/-- What a step about `x` brings about and every step keeps holds once `x` has had its step. -/
theorem foldl_settles {α β : Type} {P : β → Prop} {f : β → α → β} {x : α} {l : List α} (hx : x ∈ l) (hf : ∀ d, P (f d x))
    (hk : ∀ d y, P d → P (f d y)) (d : β) : P (l.foldl f d) := by
  induction l generalizing d with
  | nil => cases hx
  | cons y l ih =>
    rcases List.mem_cons.1 hx with rfl | hx
    · exact List.foldlRecOn l f (hf d) fun e he y _ => hk e y he
    · exact ih hx _

/-! ### One lane bound -/

/-- `b` is `a` but for decode lane `l`, captures and what reports touch. -/
def AtDec (l : Nat) (a b : Dev) : Prop :=
  Reports { a with decs := b.decs, capts := b.capts } b ∧ ∀ i, i ≠ l → b.dec i = a.dec i

theorem Reports.atDec {a b : Dev} (h : Reports a b) (l : Nat) : AtDec l a b := by
  refine ⟨?_, fun i _ => h.dec i⟩
  rw [h.decs, h.capts]
  exact h

theorem AtDec.trans {l : Nat} {a b c : Dev} (h : AtDec l a b) (k : AtDec l b c) : AtDec l a c :=
  ⟨((h.1.set_decs c.decs).set_capts c.capts).trans k.1, fun i hi => (k.2 i hi).trans (h.2 i hi)⟩

theorem modDec_atDec (d : Dev) (l : Nat) (f : DecLane → DecLane) : AtDec l d (d.modDec l f) :=
  ⟨Reports.refl _, fun _ hi => dec_modDec_ne hi d f⟩

theorem ite_atDec {l : Nat} {d a b : Dev} {p : Prop} [Decidable p] (ha : AtDec l d a) (hb : AtDec l d b) :
    AtDec l d (if p then a else b) := by split <;> assumption

theorem unbindDec_atDec (d : Dev) (l : Nat) : AtDec l d (d.unbindDec l) := by
  have settles : AtDec l d (d.settleLane l) := ite_atDec (modDec_atDec d l _) ((Reports.refl d).atDec l)
  unfold Dev.unbindDec
  dsimp only
  refine settles.trans (AtDec.trans (ite_atDec ?_ ((Reports.refl _).atDec l)) (modDec_atDec _ l _))
  split
  · exact ((raise_reports _ _ _).trans (trace_reports _ _ _ _ _ _)).atDec l
  · exact (raise_reports _ _ _).atDec l

theorem unbindDec_bound (d : Dev) (l : Nat) : ((d.unbindDec l).dec l).bound = none := by
  unfold Dev.unbindDec
  dsimp only
  rw [dec_modDec_same]
  rfl

theorem mptOf_reports (d : Dev) (n : Nat) : Reports d (d.mptOf n).2 := by
  unfold Dev.mptOf
  split
  · exact Reports.refl d
  · exact free_reports d

/-- A capture whose start has come begins on the lane that is bound for it (16 R403). -/
def Dev.startCapture (d : Dev) (l : Nat) : Dev :=
  match d.captFor l with
  | some c =>
    if c.lane.isSome then d
    else
      let m := d.mptOf d.tb.n
      { m.2 with capts := m.2.capts.map (fun (y : Capt) =>
          if y.cmd = c.cmd ∧ y.flushed.isNone then { y with lane := some l, n0 := d.tb.n, mpt0 := m.1 } else y) }
  | none => d

theorem startCapture_atDec (d : Dev) (l : Nat) : AtDec l d (d.startCapture l) := by
  unfold Dev.startCapture
  split
  · exact ite_atDec ((Reports.refl d).atDec l) (((mptOf_reports d _).atDec l).trans ⟨Reports.refl _, fun _ _ => rfl⟩)
  · exact (Reports.refl d).atDec l

theorem bindDec_atDec (d : Dev) (es : List EncBind) (l : Nat) (b : Option DecBind) : AtDec l d (d.bindDec es l b) := by
  have same : AtDec l d d := (Reports.refl d).atDec l
  cases b with
  | none => exact ite_atDec (unbindDec_atDec d l) same
  | some b =>
    have anew : ∀ f, let e := (if (d.dec l).bound.isSome then d.unbindDec l else d).modDec l f
        AtDec l d (if b.e.capture then e.startCapture l else e) := fun f =>
      have taken := (ite_atDec (p := (d.dec l).bound.isSome) (unbindDec_atDec d l) same).trans (modDec_atDec _ l f)
      ite_atDec (taken.trans (startCapture_atDec _ l)) taken
    exact ite_atDec (modDec_atDec d l _) (anew _)

theorem bindDec_none_bound (d : Dev) (es : List EncBind) (l : Nat) : ((d.bindDec es l none).dec l).bound = none := by
  unfold Dev.bindDec
  dsimp only
  split
  · exact unbindDec_bound d l
  · next h => simpa using h

/-- `b` is `a` but for encode lane `l`, ports and what reports touch. -/
def AtEnc (l : Nat) (a b : Dev) : Prop :=
  Reports { a with encs := b.encs, ports := b.ports } b ∧ ∀ i, i ≠ l → b.enc i = a.enc i

theorem AtEnc.refl (l : Nat) (a : Dev) : AtEnc l a a := ⟨Reports.refl a, fun _ _ => rfl⟩

theorem AtEnc.trans {l : Nat} {a b c : Dev} (h : AtEnc l a b) (k : AtEnc l b c) : AtEnc l a c :=
  ⟨((h.1.set_encs c.encs).set_ports c.ports).trans k.1, fun i hi => (k.2 i hi).trans (h.2 i hi)⟩

theorem modEnc_atEnc (d : Dev) (l : Nat) (f : EncLane → EncLane) : AtEnc l d (d.modEnc l f) :=
  ⟨Reports.refl _, fun _ hi => enc_modEnc_ne hi d f⟩

theorem ite_atEnc {l : Nat} {d a b : Dev} {p : Prop} [Decidable p] (ha : AtEnc l d a) (hb : AtEnc l d b) :
    AtEnc l d (if p then a else b) := by split <;> assumption

theorem cutFeeds_atEnc (d : Dev) (ps : List Nat) (l : Nat) : AtEnc l d (d.cutFeeds ps) :=
  List.foldlRecOn ps _ (motive := AtEnc l d) (AtEnc.refl l d) fun _ he _ _ => he.trans ⟨Reports.refl _, fun _ _ => rfl⟩

theorem unbindEnc_atEnc (d : Dev) (l : Nat) : AtEnc l d (d.unbindEnc l) :=
  (cutFeeds_atEnc d _ l).trans (modEnc_atEnc _ l _)

theorem bindEnc_atEnc (d : Dev) (l : Nat) (b : Option EncBind) : AtEnc l d (d.bindEnc l b) := by
  cases b with
  | none => exact ite_atEnc (unbindEnc_atEnc d l) (AtEnc.refl l d)
  | some b => exact ite_atEnc (modEnc_atEnc d l _) ((ite_atEnc (AtEnc.refl l d) (cutFeeds_atEnc d _ l)).trans (modEnc_atEnc _ l _))

theorem bindEnc_none_bound (d : Dev) (l : Nat) : ((d.bindEnc l none).enc l).bound = none := by
  unfold Dev.bindEnc
  dsimp only
  split
  · unfold Dev.unbindEnc
    rw [enc_modEnc_same]
    rfl
  · next h => simpa using h

/-! ### What a boundary binds (05 R122, R126) -/

/-- The device state, the slot unit, the shadow and the late lanes. -/
def Dev.slotState (d : Dev) : DevState × Nat × List Nat × List Nat := (d.dev, d.unit, d.shadow, d.late)

/-- These and the lanes: what the steps before and after the binding of lanes leave alone. -/
def Dev.slotView (d : Dev) : (DevState × Nat × List Nat × List Nat) × List (Nat × DecLane) × List (Nat × EncLane) :=
  (d.slotState, d.decs, d.encs)

theorem Reports.slotState {a b : Dev} (h : Reports a b) : b.slotState = a.slotState := by
  simp only [Dev.slotState, h.dev, h.unit, h.shadow, h.late]

theorem Reports.slotView {a b : Dev} (h : Reports a b) : b.slotView = a.slotView := by
  simp only [Dev.slotView, h.slotState, h.decs, h.encs]

theorem foldl_modPort_slotView (l : List Nat) (f : Port → Port) (d : Dev) :
    (l.foldl (fun d p => d.modPort p f) d).slotView = d.slotView :=
  foldl_keeps Dev.slotView (fun _ _ => by rfl) l d

/-- The device at slot unit `u` once calibrations have started and pre-cancellers have been refitted. -/
def Dev.refitted (d : Dev) (u : Nat) : Dev :=
  let d := { d with unit := d.msync.bpi * 8192 + u }
  let d := if u = 0 then d.startCals else d
  d.ports.foldl (fun d e => if e.2.ech = .diverged then d.modPort e.1 Port.refit else d) d

theorem refitted_slotState (d : Dev) (u : Nat) :
    (d.refitted u).slotState = (d.dev, d.msync.bpi * 8192 + u, d.shadow, d.late) := by
  have refits : ∀ (d : Dev) (e : Nat × Port),
      (if e.2.ech = .diverged then d.modPort e.1 Port.refit else d).slotState = d.slotState := fun d e => by split <;> rfl
  unfold Dev.refitted
  dsimp only
  rw [foldl_keeps Dev.slotState refits]
  split
  · exact foldl_keeps Dev.slotState (fun _ _ => by rfl) _ _
  · rfl

theorem refitted_shadow (d : Dev) (u : Nat) : (d.refitted u).shadow = d.shadow := by
  have h := refitted_slotState d u
  simp only [Dev.slotState, Prod.mk.injEq] at h
  exact h.2.2.1

/-- The entries that the boundary finds delivered, and the lanes that it misses. -/
def Dev.found (d : Dev) (u : Nat) : List DecBind × List EncBind × List Nat := (d.refitted u).delivered d.msync.bpi u

/-- The device once the shadow has been taken up. -/
def Dev.slotOpened (d : Dev) (u : Nat) : Dev :=
  (d.found u).2.2.foldl (fun d _ => d.raise .car 0) { d.refitted u with shadow := [], late := [] }

theorem slotOpened_slotState (d : Dev) (u : Nat) : (d.slotOpened u).slotState = (d.dev, d.msync.bpi * 8192 + u, [], []) := by
  have hraised : Reports { d.refitted u with shadow := [], late := [] } (d.slotOpened u) :=
    foldl_reports (fun d _ => d.raise .car 0) (fun d _ => raise_reports d _ _) _ _
  have hstate := refitted_slotState d u
  simp only [Dev.slotState, Prod.mk.injEq] at hstate
  obtain ⟨hdev, hunit, -, -⟩ := hstate
  rw [hraised.slotState, Dev.slotState]
  dsimp only
  rw [hdev, hunit]

/-- The decode entries that are applied, and the lanes of those refused. -/
def Dev.slotDecs (d : Dev) (u : Nat) : List DecBind × List Nat := (d.slotOpened u).applyDecs (d.found u).1

/-- The encode entries that are applied, and the lanes of those refused. -/
def Dev.slotEncs (d : Dev) (u : Nat) : List EncBind × List Nat := (d.slotOpened u).applyEncs (d.found u).2.1

theorem applyDecs_subset (d : Dev) (bs : List DecBind) : (d.applyDecs bs).1 ⊆ bs := by
  refine List.foldlRecOn bs _ (motive := fun acc : List DecBind × List Nat => acc.1 ⊆ bs) (List.nil_subset bs) fun acc hacc b hb => ?_
  split
  · exact hacc
  · split
    · exact hacc
    · exact List.append_subset.2 ⟨hacc, List.cons_subset.2 ⟨hb, List.nil_subset bs⟩⟩

/-- Every encode entry that is applied is for the lane of one that was given. -/
theorem applyEncs_lane (d : Dev) (bs : List EncBind) : ∀ b ∈ (d.applyEncs bs).1, ∃ c ∈ bs, b.e.lane = c.e.lane := by
  refine List.foldlRecOn bs _ (motive := fun acc : List EncBind × List Nat => ∀ b ∈ acc.1, ∃ c ∈ bs, b.e.lane = c.e.lane)
    (fun _ h => absurd h List.not_mem_nil)
    fun acc hacc c hc => ?_
  split
  · exact hacc
  · dsimp only
    split
    · exact hacc
    · intro b hb
      rcases List.mem_append.1 hb with h | h
      · exact hacc b h
      · exact ⟨c, hc, by rw [List.mem_singleton.1 h]; rfl⟩

theorem slotDecs_lane {d : Dev} {u : Nat} {b : DecBind} (h : b ∈ (d.slotDecs u).1) : b.e.lane ∈ d.shadow := by
  have hb := (List.mem_filter.1 (applyDecs_subset _ _ h)).2
  rwa [refitted_shadow, List.contains_iff_mem] at hb

theorem slotEncs_lane {d : Dev} {u : Nat} {b : EncBind} (h : b ∈ (d.slotEncs u).1) : 96 + b.e.lane ∈ d.shadow := by
  obtain ⟨c, hc, hlane⟩ := applyEncs_lane _ _ b h
  have hs := (List.mem_filter.1 hc).2
  rwa [refitted_shadow, List.contains_iff_mem, ← hlane] at hs

/-! ### Sources withheld (04 R109-R111, 05 R123) -/

/-- Checks that have gone on from `x` to `y`: entries have only been taken away, and the device has only been reported about. -/
structure Gated.Narrows (x y : Gated) : Prop where
  es : y.es ⊆ x.es
  reports : Reports x.d y.d

theorem Gated.Narrows.refl (x : Gated) : x.Narrows x := ⟨List.Subset.refl _, Reports.refl _⟩

theorem Gated.Narrows.trans {x y z : Gated} (h : x.Narrows y) (k : y.Narrows z) : x.Narrows z :=
  ⟨fun _ hb => h.es (k.es hb), h.reports.trans k.reports⟩

theorem withhold_narrows (x : Gated) (ps : List Nat) (q : Nat) : x.Narrows (x.withhold ps q) :=
  ⟨fun _ hb => (List.mem_filter.1 hb).1, foldl_reports _ (fun _ _ => foldl_reports _ (fun d _ => raise_reports d _ _) _ _) _ _⟩

theorem fourSources_narrows (b : DecBind) (fuel : Nat) (x : Gated) : x.Narrows (Gated.fourSources b fuel x) := by
  induction fuel generalizing x with
  | zero => exact .refl x
  | succ fuel ih =>
    unfold Gated.fourSources
    split
    · exact .refl x
    · split
      · exact .refl x
      · exact (withhold_narrows x _ _).trans (ih _)

theorem gate_narrows (b : DecBind) (nf : Option Int) (fuel : Nat) (x : Gated) : x.Narrows (Gated.gate b nf fuel x) := by
  induction fuel generalizing x with
  | zero => exact .refl x
  | succ fuel ih =>
    unfold Gated.gate
    dsimp only
    split
    · exact .refl x
    · exact .refl x
    · exact (withhold_narrows x _ _).trans (ih _)

theorem entry_narrows (u stop : Nat) (x : Gated) (b : DecBind) : x.Narrows (Gated.entry u stop x b) := by
  unfold Gated.entry
  split
  · exact .refl x
  · exact (gate_narrows b _ 96 x).trans ⟨List.Subset.refl _, Reports.refl _⟩

theorem holds_slotState (x : Gated) : x.holds.slotState = x.d.slotState := by
  refine congrArg Prod.fst (a₁ := x.holds.slotView) (a₂ := x.d.slotView) ?_
  unfold Gated.holds
  dsimp only
  rw [foldl_modPort_slotView, foldl_modPort_slotView]

/-- The checks of a boundary after that of four sources. -/
def Dev.slotSources (d : Dev) (u : Nat) : Gated :=
  (d.slotDecs u).1.foldl (fun x b => Gated.fourSources b 96 x) { d := d.slotOpened u, es := (d.slotEncs u).1, hit := [], clear := [] }

/-- The checks of a boundary, all made. -/
def Dev.slotGated (d : Dev) (u : Nat) : Gated :=
  (d.slotDecs u).1.foldl (fun x b => Gated.entry u (d.slotEnd d.msync.bpi u) x b) (d.slotSources u)

theorem slotGated_narrows (d : Dev) (u : Nat) :
    Gated.Narrows { d := d.slotOpened u, es := (d.slotEncs u).1, hit := [], clear := [] } (d.slotGated u) :=
  List.foldlRecOn _ _ (motive := Gated.Narrows _)
    (List.foldlRecOn _ _ (motive := Gated.Narrows _) (.refl _) fun x h b _ => h.trans (fourSources_narrows b 96 x))
    fun x h b _ => h.trans (entry_narrows u _ x b)

/-! ### Every lane bound (05 R127) -/

/-- Every decode lane takes its entry, or none. -/
def Dev.bindDecs (d : Dev) (refs : List EncBind) (bs : List DecBind) : Dev :=
  (List.range 96).foldl (fun d l => d.bindDec refs l (bs.find? (fun b => decide (b.e.lane = l)))) d

/-- Every encode lane takes its entry, or none. -/
def Dev.bindEncs (d : Dev) (bs : List EncBind) : Dev :=
  (List.range 96).foldl (fun d l => d.bindEnc l (bs.find? (fun b => decide (b.e.lane = l)))) d

/-- The gains of the decode entries go to the ports. -/
def Dev.setGains (d : Dev) (bs : List DecBind) : Dev :=
  bs.foldl (fun d b => if b.e.capture then d else b.ports.foldl (fun d p => d.modPort p (fun y => { y with rxGain := b.e.gain })) d) d

theorem bindDecs_unbound {bs : List DecBind} {l : Nat} (hl : l < 96) (hb : ∀ b ∈ bs, b.e.lane ≠ l) (d : Dev) (refs : List EncBind) :
    ((d.bindDecs refs bs).dec l).bound = none := by
  have hnone : bs.find? (fun b => decide (b.e.lane = l)) = none := List.find?_eq_none.2 fun b h => by simpa using hb b h
  have unbinds : ∀ d : Dev, ((d.bindDec refs l (bs.find? (fun b => decide (b.e.lane = l)))).dec l).bound = none := fun d => by
    rw [hnone]
    exact bindDec_none_bound d refs l
  refine foldl_settles (P := fun d : Dev => (d.dec l).bound = none) (List.mem_range.2 hl) unbinds (fun d i hd => ?_) d
  by_cases e : i = l
  · rw [e]
    exact unbinds d
  · rw [(bindDec_atDec d refs i _).2 l (Ne.symm e)]
    exact hd

theorem bindEncs_unbound {bs : List EncBind} {l : Nat} (hl : l < 96) (hb : ∀ b ∈ bs, b.e.lane ≠ l) (d : Dev) :
    ((d.bindEncs bs).enc l).bound = none := by
  have hnone : bs.find? (fun b => decide (b.e.lane = l)) = none := List.find?_eq_none.2 fun b h => by simpa using hb b h
  have unbinds : ∀ d : Dev, ((d.bindEnc l (bs.find? (fun b => decide (b.e.lane = l)))).enc l).bound = none := fun d => by
    rw [hnone]
    exact bindEnc_none_bound d l
  refine foldl_settles (P := fun d : Dev => (d.enc l).bound = none) (List.mem_range.2 hl) unbinds (fun d i hd => ?_) d
  by_cases e : i = l
  · rw [e]
    exact unbinds d
  · rw [(bindEnc_atEnc d i _).2 l (Ne.symm e)]
    exact hd

theorem bindEncs_decs (d : Dev) (bs : List EncBind) : (d.bindEncs bs).decs = d.decs :=
  foldl_keeps Dev.decs (fun d l => (bindEnc_atEnc d l _).1.decs) _ d

theorem bindDecs_slotState (d : Dev) (refs : List EncBind) (bs : List DecBind) : (d.bindDecs refs bs).slotState = d.slotState :=
  foldl_keeps Dev.slotState (fun d l => by
    have h := (bindDec_atDec d refs l (bs.find? (fun b => decide (b.e.lane = l)))).1
    simp only [Dev.slotState, h.dev, h.unit, h.shadow, h.late]) _ d

theorem bindEncs_slotState (d : Dev) (bs : List EncBind) : (d.bindEncs bs).slotState = d.slotState :=
  foldl_keeps Dev.slotState (fun d l => by
    have h := (bindEnc_atEnc d l (bs.find? (fun b => decide (b.e.lane = l)))).1
    simp only [Dev.slotState, h.dev, h.unit, h.shadow, h.late]) _ d

/-! ### Drivers (03 R73) -/

/-- A port without its driver's enable. -/
def Port.undriven (x : Port) : Port := { x with enabled := false }

theorem SameCfg.portEn {a b : Dev} (h : SameCfg a b) {p : Nat} (hp : p < 128) : b.portEn p = a.portEn p := by
  have hs : statusOff (Reg.grpCtrl (portGroup p)) = false := statusOff_group (o := 0) (by unfold portGroup; omega) (by omega)
  unfold Dev.portEn Dev.flag
  rw [h _ hs]

theorem SameCfg.role {a b : Dev} (h : SameCfg a b) {p : Nat} (hp : p < 128) : b.role p = a.role p := by
  have hs : statusOff (Reg.grpRole (portGroup p)) = false := statusOff_group (o := 4) (by unfold portGroup; omega) (by omega)
  unfold Dev.role Dev.fld
  rw [h _ hs]

/-- Whether a port is in service does not rest on its driver's enable. -/
theorem Steady.inService {a b : Dev} (h : Steady a b) {p : Nat} (hp : p < 128)
    (hx : (b.port p).undriven = (a.port p).undriven) : b.inService p = a.inService p := by
  have hcal : (b.port p).calOk = (a.port p).calOk := (congrArg Port.calOk hx :)
  have htrain : (b.port p).trainOk = (a.port p).trainOk := (congrArg Port.trainOk hx :)
  have hoc : (b.port p).ocFault = (a.port p).ocFault := (congrArg Port.ocFault hx :)
  have hth : (b.port p).thFault = (a.port p).thFault := (congrArg Port.thFault hx :)
  have hbar : (b.port p).ocBarred = (a.port p).ocBarred := (congrArg Port.ocBarred hx :)
  have hrun : (b.port p).calib = (a.port p).calib := (congrArg Port.calib hx :)
  unfold Dev.inService Dev.counts
  dsimp only
  rw [h.cfg.portEn hp, h.cfg.role hp, hcal, htrain, hoc, hth, hbar, hrun, h.pwr]

/-- A driver's condition does not rest on its present enable. -/
theorem Steady.driverOn {a b : Dev} (h : Steady a b) (he : b.encs = a.encs) {p : Nat} (hp : p < 128)
    (hx : (b.port p).undriven = (a.port p).undriven) : b.driverOn p = a.driverOn p := by
  unfold Dev.driverOn Dev.isL
  rw [h.inService hp hx, h.cfg.role hp, h.pwr, h.st, he]

/-- The step of one driver. -/
def Dev.setDriver (d : Dev) (p : Nat) : Dev :=
  if (d.port p).ech = .training ∨ (d.port p).enabled = d.driverOn p then d
  else d.modPort p (fun x => { x with enabled := d.driverOn p })

/-- The driver of a port takes its condition, unless it trains. -/
def Dev.Driven (p : Nat) (d : Dev) : Prop := (d.port p).ech ≠ .training → (d.port p).enabled = d.driverOn p

theorem modPort_enabled_driverOn (d : Dev) (i : Nat) (x : Bool) {p : Nat} (hp : p < 128) :
    (d.modPort i (fun y => { y with enabled := x })).driverOn p = d.driverOn p :=
  (modPort_steady d i _).driverOn rfl hp (port_modPort_keeps Port.undriven (fun _ => by rfl) d i p)

theorem setDriver_driven (d : Dev) {p : Nat} (hp : p < 128) : (d.setDriver p).Driven p := by
  unfold Dev.setDriver
  split
  · next h => exact fun ht => h.resolve_left ht
  · intro _
    rw [modPort_enabled_driverOn d p _ hp, port_modPort_same]

theorem setDriver_keeps_driven {d : Dev} {p : Nat} (hp : p < 128) (h : d.Driven p) (i : Nat) : (d.setDriver i).Driven p := by
  by_cases e : p = i
  · rw [← e]
    exact setDriver_driven d hp
  · unfold Dev.setDriver
    split
    · exact h
    · unfold Dev.Driven
      rw [modPort_enabled_driverOn d i _ hp, port_modPort_ne e]
      exact h

theorem setDrivers_driven (d : Dev) {p : Nat} (hp : p < 128) : d.setDrivers.Driven p :=
  foldl_settles (P := Dev.Driven p) (f := Dev.setDriver) (List.mem_range.2 hp) (fun d => setDriver_driven d hp)
    (fun _ i h => setDriver_keeps_driven hp h i) d

theorem Reports.driven {a b : Dev} (h : Reports a b) {p : Nat} (hp : p < 128) (ha : a.Driven p) : b.Driven p := by
  unfold Dev.Driven
  rw [h.steady.driverOn h.encs hp (by rw [h.port]), h.port]
  exact ha

/-! ### The boundary (05 R122, R127) -/

theorem setGains_slotView (d : Dev) (bs : List DecBind) : (d.setGains bs).slotView = d.slotView :=
  foldl_keeps Dev.slotView (fun d b => by
    split
    · rfl
    · exact foldl_modPort_slotView _ _ d) bs d

theorem setDrivers_slotView (d : Dev) : d.setDrivers.slotView = d.slotView :=
  foldl_keeps Dev.slotView (fun d p => by split <;> rfl) _ d

theorem refusals_reports (d : Dev) (ls : List Nat) : Reports d (d.refusals ls) :=
  ite_reports (Reports.refl d) ((foldl_reports _ (fun d _ => raise_reports d _ _) _ _).trans (event_reports _ _ _ _ _))

/-- The device with every lane bound. -/
def Dev.slotBound (d : Dev) (u : Nat) : Dev :=
  ((d.slotGated u).holds.bindDecs (d.slotSources u).es (d.slotDecs u).1).bindEncs (d.slotGated u).es

theorem slotBoundaryEffect_due {d : Dev} {u : Nat} (h : d.boundaryDue u = true) :
    slotBoundaryEffect u d =
      ((((d.slotBound u).setGains (d.slotDecs u).1).dropPins u).setDrivers).refusals ((d.slotDecs u).2 ++ (d.slotEncs u).2) :=
  if_neg (by simp [h])

theorem dropPins_slotView (d : Dev) (u : Nat) : (d.dropPins u).slotView = d.slotView := rfl

theorem slotBoundaryEffect_slotView {d : Dev} {u : Nat} (h : d.boundaryDue u = true) :
    (slotBoundaryEffect u d).slotView = (d.slotBound u).slotView := by
  rw [slotBoundaryEffect_due h, (refusals_reports _ _).slotView, setDrivers_slotView, dropPins_slotView, setGains_slotView]

theorem slotBound_slotState (d : Dev) (u : Nat) : (d.slotBound u).slotState = (d.dev, d.msync.bpi * 8192 + u, [], []) := by
  unfold Dev.slotBound
  rw [bindEncs_slotState, bindDecs_slotState, holds_slotState, (slotGated_narrows d u).reports.slotState, slotOpened_slotState]

theorem slotBound_dec_unbound {d : Dev} {u l : Nat} (hl : l < 96) (hs : l ∉ d.shadow) : ((d.slotBound u).dec l).bound = none := by
  have hdecs : (d.slotBound u).dec l = ((d.slotGated u).holds.bindDecs (d.slotSources u).es (d.slotDecs u).1).dec l := by
    simp only [Dev.dec, Dev.slotBound, bindEncs_decs]
  rw [hdecs]
  exact bindDecs_unbound hl (fun b hb e => hs (e ▸ slotDecs_lane hb)) _ _

theorem slotBound_enc_unbound {d : Dev} {u l : Nat} (hl : l < 96) (hs : 96 + l ∉ d.shadow) :
    ((d.slotBound u).enc l).bound = none :=
  bindEncs_unbound hl (fun _ hb e => hs (e ▸ slotEncs_lane ((slotGated_narrows d u).es hb))) _

/-- What a boundary that is due leaves. -/
theorem slotBoundaryEffect_leaves {d : Dev} {u : Nat} (h : d.boundaryDue u = true) :
    (slotBoundaryEffect u d).slotState = (d.dev, d.msync.bpi * 8192 + u, [], []) ∧
      (∀ l, l < 96 → l ∉ d.shadow → ((slotBoundaryEffect u d).dec l).bound = none) ∧
      (∀ l, l < 96 → 96 + l ∉ d.shadow → ((slotBoundaryEffect u d).enc l).bound = none) ∧
      ∀ p, p < 128 → (slotBoundaryEffect u d).Driven p := by
  have hview := slotBoundaryEffect_slotView h
  simp only [Dev.slotView, Prod.mk.injEq] at hview
  obtain ⟨hstate, hdecs, hencs⟩ := hview
  refine ⟨hstate.trans (slotBound_slotState d u), fun l hl hs => ?_, fun l hl hs => ?_, fun p hp => ?_⟩
  · unfold Dev.dec
    rw [hdecs]
    exact slotBound_dec_unbound hl hs
  · unfold Dev.enc
    rw [hencs]
    exact slotBound_enc_unbound hl hs
  · rw [slotBoundaryEffect_due h]
    exact (refusals_reports _ _).driven hp (setDrivers_driven _ hp)

/-- 05 R122, R127, 03 R73: a boundary that is due is taken up. -/
theorem slotBoundary_next {s : State} {u : Nat} (h : s.dev.boundaryDue u = true) :
    ∃ t, exec (.slotBoundary u) s = .next t ∧ t.pending = s.pending ∧ t.dev.dev = s.dev.dev ∧
      t.dev.unit = s.dev.msync.bpi * 8192 + u ∧ t.dev.shadow = [] ∧ t.dev.late = [] ∧
      (∀ l, l < 96 → l ∉ s.dev.shadow → (t.dev.dec l).bound = none) ∧
      (∀ l, l < 96 → 96 + l ∉ s.dev.shadow → (t.dev.enc l).bound = none) ∧
      ∀ p, p < 128 → (t.dev.port p).ech ≠ .training → (t.dev.port p).enabled = t.dev.driverOn p := by
  obtain ⟨t, ht, hp, hdev⟩ := run_fresh (slotBoundaryEffect u) s
  obtain ⟨hstate, hdecs, hencs, hdriven⟩ := slotBoundaryEffect_leaves (d := s.dev.fresh) h
  simp only [Dev.slotState, Prod.mk.injEq] at hstate
  obtain ⟨hrun, hunit, hshadow, hlate⟩ := hstate
  refine ⟨t, ht, hp, ?_⟩
  rw [hdev]
  exact ⟨hrun, hunit, hshadow, hlate, hdecs, hencs, fun p hp => (fresh_reports _).driven hp (hdriven p hp)⟩

end Sys2Proof.Machine
end

section
/-! SUPPORT. Tone-map entries fetched for a slot (09 R231, R233): what the copies of a set rest on, and what a fetch pins. -/

namespace Sys2Proof.Machine

/-! ### What a fetch rests on (02 R53, R54, 09 R231) -/

theorem SameCfg.bound {a b : Dev} (h : SameCfg a b) {neg : Bool} {k : Nat} (hk : k ≤ 7) : b.bound neg k = a.bound neg k := by
  unfold Dev.bound
  split
  · rfl
  · rw [Dev.fld, Dev.fld, h _ (statusOff_segb (by omega))]

theorem SameCfg.segStart {a b : Dev} (h : SameCfg a b) {seg : Nat} (hs : seg < 16) : b.segStart seg = a.segStart seg := by
  unfold Dev.segStart
  split
  · exact h.bound (by omega)
  · rw [h.bound (by omega)]

theorem SameCfg.segSpans {a b : Dev} (h : SameCfg a b) : b.segSpans = a.segSpans := by
  refine List.map_congr_left fun i _ => ?_
  dsimp only
  rw [h.bound (by omega)]
  split
  · rfl
  · rw [h.bound (by omega)]

theorem SameCfg.spanSegs {a b : Dev} (h : SameCfg a b) (start len : Nat) : b.spanSegs start len = a.spanSegs start len := by
  unfold Dev.spanSegs
  rw [h.segSpans]

section
variable {a b : Dev} (h : Reports a b)
include h

theorem Reports.entryNode (g addr : Nat) : b.entryNode g addr = a.entryNode g addr := by
  unfold Dev.entryNode Dev.bySaddr
  rw [h.nodes]

/-- The copies of a set whose commit names a segment index stay as they are. -/
theorem Reports.copyAt {i : Nat} (hi : (a.mapSet i).effSeg < 16) (seg n start : Nat) :
    b.copyAt i seg n start = a.copyAt i seg n start := by
  unfold Dev.copyAt
  dsimp only
  rw [h.mapSet, h.key, h.2.segStart hi]

end

/-- An allocation of a group finds the copy `e` of its node `nh` for one of its segments, as far as the commit of the set names a segment
index. -/
structure Dev.Wants (d : Dev) (bp g : Nat) (a : Alloc) (nh seg : Nat) (e : Entry) : Prop where
  node : d.entryNode g a.addr = some nh
  covers : seg ∈ d.spanSegs a.start a.len
  commit : (d.mapSet (setIx nh a.dir)).effSeg < 16
  copy : (d.copyAt (setIx nh a.dir) seg bp a.start).1 = some e

theorem Reports.wants {d d' : Dev} (h : Reports d d') {bp g nh seg : Nat} {a : Alloc} {e : Entry} (w : d.Wants bp g a nh seg e) :
    d'.Wants bp g a nh seg e := by
  refine ⟨?_, ?_, ?_, ?_⟩
  · rw [h.entryNode]; exact w.node
  · rw [h.2.spanSegs]; exact w.covers
  · rw [h.mapSet]; exact w.commit
  · rw [h.copyAt w.commit]; exact w.copy

/-! ### Fetching and nothing else -/

/-- The device has only fetched on its way from `a` to `b`: pins of the slot `bp`, `u` have joined the others as far as the cache holds
them, and nothing else has changed but what reports touch. -/
structure Fetches (bp u : Nat) (a b : Dev) : Prop where
  reports : Reports { a with pins := b.pins } b
  kept : a.pins ⊆ b.pins
  joined : ∀ p ∈ b.pins, p ∈ a.pins ∨ (p.bp = bp ∧ p.unit = u)
  fits : pinLines a.pins ≤ 65536 → pinLines b.pins ≤ 65536
  full : a.flag Reg.marStat 2 = true → b.flag Reg.marStat 2 = true

theorem Fetches.refl (bp u : Nat) (a : Dev) : Fetches bp u a a :=
  ⟨Reports.refl a, List.Subset.refl _, fun _ h => .inl h, id, id⟩

theorem Fetches.trans {bp u : Nat} {a b c : Dev} (h : Fetches bp u a b) (k : Fetches bp u b c) : Fetches bp u a c :=
  ⟨(h.reports.set_pins c.pins).trans k.reports, fun _ hp => k.kept (h.kept hp),
    fun p hp => (k.joined p hp).elim (h.joined p) .inr, fun hf => k.fits (h.fits hf), fun hf => k.full (h.full hf)⟩

theorem Fetches.foldl {α : Type} {bp u : Nat} {f : Dev → α → Dev} {l : List α} (hf : ∀ d, ∀ x ∈ l, Fetches bp u d (f d x)) (d : Dev) :
    Fetches bp u d (l.foldl f d) :=
  List.foldlRecOn l f (motive := Fetches bp u d) (.refl bp u d) fun e h x hx => h.trans (hf e x hx)

theorem Fetches.wants {bp u bp' g nh seg : Nat} {d d' : Dev} {a : Alloc} {e : Entry} (h : Fetches bp u d d')
    (w : d.Wants bp' g a nh seg e) : d'.Wants bp' g a nh seg e :=
  h.reports.wants ⟨w.node, w.covers, w.commit, w.copy⟩

/-- What one step of a fetch brings about, wherever the fetch has come, stands once all are done, if fetching keeps it. -/
theorem Fetches.foldl_reaches {α : Type} {bp u : Nat} {f : Dev → α → Dev} {P : Dev → Prop} {l : List α} {x : α} (hx : x ∈ l)
    (hf : ∀ d, ∀ x ∈ l, Fetches bp u d (f d x)) (hP : ∀ d e, Fetches bp u d e → P d → P e) (d : Dev)
    (hfx : ∀ e, Fetches bp u d e → P (f e x)) : P (l.foldl f d) := by
  induction l generalizing d with
  | nil => cases hx
  | cons y l ih =>
    have hy : Fetches bp u d (f d y) := hf d y List.mem_cons_self
    have hrest : ∀ e, ∀ z ∈ l, Fetches bp u e (f e z) := fun e z hz => hf e z (List.mem_cons_of_mem y hz)
    rcases List.mem_cons.1 hx with rfl | hx
    · exact hP _ _ (Fetches.foldl hrest _) (hfx d (.refl bp u d))
    · exact ih hx hrest _ fun e he => hfx e (hy.trans he)

/-! ### One key fetched (09 R233) -/

/-- An entry of a set is pinned for a slot, or the cache has been found full. -/
def Pinned (bp u i : Nat) (e : Entry) (d : Dev) : Prop :=
  (∃ p ∈ d.pins, p.bp = bp ∧ p.unit = u ∧ p.set = i ∧ p.entry = e) ∨ d.flag Reg.marStat 2 = true

theorem Fetches.pinned {bp u bp' u' i : Nat} {e : Entry} {a b : Dev} (h : Fetches bp u a b) (k : Pinned bp' u' i e a) :
    Pinned bp' u' i e b :=
  k.imp (fun ⟨p, hp, hprop⟩ => ⟨p, h.kept hp, hprop⟩) h.full

/-- The pin of a copy for an allocation. -/
def pinOf (a : Alloc) (bp i ver : Nat) (e : Entry) : Pin :=
  { bp := bp, unit := a.start, stop := a.start + a.len, set := i, ver := ver, entry := e, lines := e.lines }

/-- What a fetch does about one pin. -/
def Dev.addPin (d : Dev) (pin : Pin) : Dev :=
  if d.pins.contains pin then d
  else if 65536 < pinLines (pin :: d.pins) then d.raise .mar 2
  else { d with pins := pin :: d.pins }

/-- Without an error beyond correction, a key is fetched where it has a copy. -/
theorem fetchKey_eq (d : Dev) (bp : Nat) (a : Alloc) (i seg : Nat) :
    d.fetchKey bp a i seg [] = match (d.copyAt i seg bp a.start).1 with
      | none => d
      | some e => d.addPin (pinOf a bp i (d.copyAt i seg bp a.start).2.1 e) := rfl

theorem addPin_fetches (d : Dev) (pin : Pin) : Fetches pin.bp pin.unit d (d.addPin pin) := by
  unfold Dev.addPin
  split
  · exact .refl _ _ d
  · split
    · have hr := raise_reports d .mar 2
      have hpins : (d.raise .mar 2).pins = d.pins := hr.pins
      refine ⟨?_, ?_, ?_, ?_, fun _ => flag_raise (by omega) d .mar⟩
      · rw [hpins]; exact hr
      · rw [hpins]; exact List.Subset.refl _
      · rw [hpins]; exact fun _ h => .inl h
      · rw [hpins]; exact id
    · next hroom =>
      refine ⟨Reports.refl _, List.subset_cons_self _ _, fun p hp => ?_, fun _ => Nat.le_of_not_lt hroom, id⟩
      rcases List.mem_cons.1 hp with rfl | hp
      · exact .inr ⟨rfl, rfl⟩
      · exact .inl hp

theorem addPin_pinned (d : Dev) (pin : Pin) : Pinned pin.bp pin.unit pin.set pin.entry (d.addPin pin) := by
  unfold Dev.addPin
  split
  · next h => exact .inl ⟨pin, List.contains_iff_mem.1 h, rfl, rfl, rfl, rfl⟩
  · split
    · exact .inr (flag_raise (by omega) d .mar)
    · exact .inl ⟨pin, List.mem_cons_self, rfl, rfl, rfl, rfl⟩

theorem fetchKey_fetches (d : Dev) (bp : Nat) (a : Alloc) (i seg : Nat) : Fetches bp a.start d (d.fetchKey bp a i seg []) := by
  rw [fetchKey_eq]
  split
  · exact .refl _ _ d
  · exact addPin_fetches d (pinOf a bp i _ _)

theorem fetchKey_pinned {d : Dev} {bp i seg : Nat} {a : Alloc} {e : Entry} (h : (d.copyAt i seg bp a.start).1 = some e) :
    Pinned bp a.start i e (d.fetchKey bp a i seg []) := by
  rw [fetchKey_eq, h]
  exact addPin_pinned d (pinOf a bp i _ e)

/-! ### A slot fetched (09 R233) -/

/-- The directions whose sets an allocation reads. -/
def fetchDirs (a : Alloc) : List Bool := if a.kind = kindPoll then [false, true] else [a.dir]

/-- Every segment that an allocation covers, in one direction. -/
def Dev.fetchSegs (d : Dev) (bp : Nat) (a : Alloc) (nh : Nat) (up : Bool) : Dev :=
  (d.spanSegs a.start a.len).foldl (fun d seg => d.fetchKey bp a (setIx nh up) seg []) d

/-- Everything that an allocation of a group needs. -/
def Dev.fetchAlloc (d : Dev) (bp g : Nat) (a : Alloc) : Dev :=
  match d.entryNode g a.addr with
  | none => d
  | some nh => (fetchDirs a).foldl (fun d up => d.fetchSegs bp a nh up) d

/-- The allocations of a plan that start at a slot unit and carry frames of nodes. -/
def startingAt (pl : Plan) (u : Nat) : List Alloc :=
  pl.allocs.filter (fun (a : Alloc) => decide (a.start = u ∧ (a.kind = kindData ∨ a.kind = kindPoll)))

/-- Everything that a plan of a group needs for a slot. -/
def Dev.fetchPlan (d : Dev) (bp u : Nat) (x : Nat × Plan) : Dev :=
  (startingAt x.2 u).foldl (fun d a => d.fetchAlloc bp x.1 a) d

theorem fetchSegs_fetches (d : Dev) (bp : Nat) (a : Alloc) (nh : Nat) (up : Bool) :
    Fetches bp a.start d (d.fetchSegs bp a nh up) :=
  Fetches.foldl (fun d seg _ => fetchKey_fetches d bp a (setIx nh up) seg) d

theorem fetchAlloc_fetches (d : Dev) (bp g : Nat) (a : Alloc) : Fetches bp a.start d (d.fetchAlloc bp g a) := by
  unfold Dev.fetchAlloc
  split
  · exact .refl _ _ d
  · next nh _ => exact Fetches.foldl (fun d up _ => fetchSegs_fetches d bp a nh up) d

theorem mem_startingAt {pl : Plan} {u : Nat} {a : Alloc} :
    a ∈ startingAt pl u ↔ a ∈ pl.allocs ∧ a.start = u ∧ (a.kind = kindData ∨ a.kind = kindPoll) := by
  simp [startingAt]

theorem fetchPlan_fetches (d : Dev) (bp u : Nat) (x : Nat × Plan) : Fetches bp u d (d.fetchPlan bp u x) :=
  Fetches.foldl (fun d a ha => (mem_startingAt.1 ha).2.1 ▸ fetchAlloc_fetches d bp x.1 a) d

theorem fetchSegs_pinned {d : Dev} {bp g nh seg : Nat} {a : Alloc} {e : Entry} (w : d.Wants bp g a nh seg e) :
    Pinned bp a.start (setIx nh a.dir) e (d.fetchSegs bp a nh a.dir) :=
  Fetches.foldl_reaches w.covers (fun d seg _ => fetchKey_fetches d bp a (setIx nh a.dir) seg) (fun _ _ h => h.pinned) d
    fun _ h => fetchKey_pinned (h.wants w).copy

theorem fetchAlloc_pinned {d : Dev} {bp g nh seg : Nat} {a : Alloc} {e : Entry} (hk : a.kind = kindData)
    (w : d.Wants bp g a nh seg e) : Pinned bp a.start (setIx nh a.dir) e (d.fetchAlloc bp g a) := by
  have hdirs : fetchDirs a = [a.dir] := if_neg (by rw [hk]; decide)
  unfold Dev.fetchAlloc
  rw [w.node, hdirs]
  exact fetchSegs_pinned w

theorem fetchPlan_pinned {d : Dev} {bp g nh seg : Nat} {pl : Plan} {a : Alloc} {e : Entry} (ha : a ∈ pl.allocs)
    (hk : a.kind = kindData) (w : d.Wants bp g a nh seg e) :
    Pinned bp a.start (setIx nh a.dir) e (d.fetchPlan bp a.start (g, pl)) :=
  Fetches.foldl_reaches (mem_startingAt.2 ⟨ha, rfl, .inl hk⟩)
    (fun d x hx => (mem_startingAt.1 hx).2.1 ▸ fetchAlloc_fetches d bp g x) (fun _ _ h => h.pinned) d
    fun _ h => fetchAlloc_pinned hk (h.wants w)

/-! ### The fetch (09 R233) -/

/-- What has been requested once a slot's entries are. -/
def Dev.askedAfter (d : Dev) (bp u : Nat) : List (Nat × Nat) := if d.wasAsked bp u then d.asked else (bp, u) :: d.asked

theorem mem_askedAfter {d : Dev} {bp u : Nat} {x : Nat × Nat} : x ∈ d.askedAfter bp u ↔ x ∈ d.asked ∨ x = (bp, u) := by
  unfold Dev.askedAfter Dev.wasAsked
  split
  · next h =>
    refine ⟨.inl, fun h' => h'.elim id fun e => ?_⟩
    rw [e]
    exact List.contains_iff_mem.1 h
  · rw [List.mem_cons, or_comm]

/-- The device once a slot's entries have been requested and the errors corrected have been counted. -/
def Dev.fetchBegun (d : Dev) (bp u corrected : Nat) : Dev :=
  let d := { d with asked := d.askedAfter bp u }
  if corrected = 0 then d else d.count 34 7 3 none corrected

theorem fetchBegun_reports (d : Dev) (bp u corrected : Nat) :
    Reports { d with asked := d.askedAfter bp u } (d.fetchBegun bp u corrected) :=
  ite_reports (Reports.refl _) (count_reports _ _ _ _ _ _)

theorem toneMapFetchEffect_eq {d : Dev} {bp u : Nat} (hd : d.dev = .run) (ht : d.fetchTime bp u = true) (corrected : Nat) :
    toneMapFetchEffect bp u corrected [] d =
      ((d.fetchBegun bp u corrected).plansAt bp).foldl (fun d x => d.fetchPlan bp u x) (d.fetchBegun bp u corrected) := by
  have hdue : ¬ (d.dev ≠ .run ∨ !d.fetchTime bp u) := by simp [hd, ht]
  unfold toneMapFetchEffect
  rw [if_neg hdue]
  rfl

theorem latePlan_kind {d : Dev} {g n : Nat} {a : Alloc} (h : a ∈ (d.latePlan g n).allocs) : a.kind = kindContention := by
  unfold Dev.latePlan at h
  dsimp only at h
  split at h <;> rw [List.mem_singleton.1 h]

theorem mem_plansAt {d : Dev} {n g : Nat} {pl : Plan} :
    (g, pl) ∈ d.plansAt n ↔ g < 32 ∧ d.beacons g n = true ∧ d.planFor g n = pl := by
  unfold Dev.plansAt
  simp only [List.mem_map, List.mem_filter, List.mem_range, Prod.mk.injEq]
  constructor
  · rintro ⟨i, ⟨hi, hb⟩, rfl, hpl⟩
    exact ⟨hi, hb, hpl⟩
  · rintro ⟨hi, hb, hpl⟩
    exact ⟨g, ⟨hi, hb⟩, rfl, hpl⟩

/-- A plan with data has been frozen. -/
theorem planOf_of_data {d : Dev} {n g : Nat} {x : Alloc} (hx : x ∈ (d.planFor g n).allocs) (hk : x.kind = kindData) :
    d.planOf g n = some (d.planFor g n) := by
  unfold Dev.planFor at hx ⊢
  cases hp : d.planOf g n with
  | some p => rw [Option.getD_some]
  | none =>
    rw [hp, Option.getD_none] at hx
    exact absurd (hk.symm.trans (latePlan_kind hx)) (by decide)

/-- A plan with data stands as long as nothing but reports changes. -/
theorem Reports.mem_plansAt_of_data {a b : Dev} (h : Reports a b) {g n : Nat} {pl : Plan} {x : Alloc} (hm : (g, pl) ∈ a.plansAt n)
    (hx : x ∈ pl.allocs) (hk : x.kind = kindData) : (g, pl) ∈ b.plansAt n := by
  obtain ⟨hg, hbeacons, rfl⟩ := mem_plansAt.1 hm
  refine mem_plansAt.2 ⟨hg, ?_, ?_⟩
  · unfold Dev.beacons at hbeacons ⊢
    rw [h.group]
    exact hbeacons
  · have hof : b.planOf g n = some (a.planFor g n) := by
      rw [← planOf_of_data hx hk, Dev.planOf, h.group, Dev.planOf]
    rw [Dev.planFor, hof, Option.getD_some]

/-- 09 R233: a fetch whose reads find nothing beyond correction pins what its slot's data needs, where each commit names a segment
index. -/
theorem toneMapFetch_next {s : State} {bp : BitVec 23} {unit : Nat} (corrected : Nat) (hd : s.dev.dev = .run)
    (hs : ∀ i, (s.dev.mapSet i).effSeg < 16) (ht : s.dev.fetchTime bp.toNat unit = true) :
    ∃ t, exec (.toneMapFetch bp unit corrected []) s = .next t ∧ t.pending = s.pending ∧
      Reports { s.dev with pins := t.dev.pins, asked := t.dev.asked } t.dev ∧ (∀ p ∈ s.dev.pins, p ∈ t.dev.pins) ∧
      (∀ a, a ∈ t.dev.asked ↔ a ∈ s.dev.asked ∨ a = (bp.toNat, unit)) ∧
      (∀ p ∈ t.dev.pins, p ∈ s.dev.pins ∨ (p.bp = bp.toNat ∧ p.unit = unit)) ∧
      (pinLines s.dev.pins ≤ 65536 → pinLines t.dev.pins ≤ 65536) ∧
      ∀ (g : Nat) (pl : Plan) (a : Alloc) (nh seg : Nat) (e : Entry), (g, pl) ∈ s.dev.plansAt bp.toNat → a ∈ pl.allocs →
        a.start = unit → a.kind = kindData → s.dev.entryNode g a.addr = some nh → seg ∈ s.dev.spanSegs a.start a.len →
        (s.dev.copyAt (setIx nh a.dir) seg bp.toNat unit).1 = some e →
        (∃ p ∈ t.dev.pins, p.bp = bp.toNat ∧ p.unit = unit ∧ p.set = setIx nh a.dir ∧ p.entry = e) ∨
          t.dev.flag Reg.marStat 2 = true := by
  obtain ⟨t, hnext, hp, hdev⟩ := run_fresh (toneMapFetchEffect bp.toNat unit corrected []) s
  obtain ⟨b, hb⟩ : ∃ b, b = s.dev.fresh.fetchBegun bp.toNat unit corrected := ⟨_, rfl⟩
  have hbegun : Reports { s.dev with asked := s.dev.askedAfter bp.toNat unit } b := hb ▸ fetchBegun_reports s.dev.fresh _ _ _
  rw [toneMapFetchEffect_eq (d := s.dev.fresh) hd ht, ← hb] at hdev
  have hplans : ∀ d, ∀ x ∈ b.plansAt bp.toNat, Fetches bp.toNat unit d (d.fetchPlan bp.toNat unit x) :=
    fun d x _ => fetchPlan_fetches d _ _ x
  have hall : Fetches bp.toNat unit b t.dev := by
    rw [hdev]
    exact (Fetches.foldl hplans b).trans ⟨fresh_reports _, List.Subset.refl _, fun _ h => .inl h, id, id⟩
  have hpins : b.pins = s.dev.pins := hbegun.pins
  have hasked : t.dev.asked = s.dev.askedAfter bp.toNat unit := hall.reports.asked.trans hbegun.asked
  refine ⟨t, hnext, hp, ?_, hpins ▸ hall.kept, fun a => ?_, hpins ▸ hall.joined, hpins ▸ hall.fits, ?_⟩
  · rw [hasked]
    exact (hbegun.set_pins _).trans hall.reports
  · rw [hasked]
    exact mem_askedAfter
  · intro g pl a nh seg e hpl ha hstart hk hnode hseg hcopy
    subst hstart
    have hpl' : (g, pl) ∈ b.plansAt bp.toNat := hbegun.mem_plansAt_of_data hpl ha hk
    have hw : b.Wants bp.toNat g a nh seg e := hbegun.wants ⟨hnode, hseg, hs _, hcopy⟩
    rw [hdev]
    exact Fetches.foldl_reaches hpl' hplans (fun _ _ h => h.pinned) b fun _ h => fetchPlan_pinned ha hk (h.wants hw)

end Sys2Proof.Machine
end

section
/-! SUPPORT. Slot bindings (05 R122, R126, R127, 09 R233): a state in which a fetch that corrects an error reads another copy than the one
that was to be read. -/

namespace Sys2Proof.Machine

/-! ### A set whose commit names no segment index -/

/-- One slot unit of data to short address 1, at the start of the second half-cycle. -/
def halfPlan : Plan :=
  { brlen := 4, caSlot := 1
    allocs := [{ start := 2048, len := 1, addr := 1, dir := false, form := 5, cpl := 1, kind := kindData }], decs := [], encs := [] }

/-- An entry of segment index 8 without a loaded carrier. -/
def halfEntry : Entry := { ver := 0, dir := false, seg := 8, rate := 0, prof := 0, nf := none, sndBp := 0, load := [] }

/-- A number whose bound `Dev.segStart` looks for in `CNT_STAT`; the segment indices end at 15 (02 R54). -/
def strayIndex : Nat := 9 + (Reg.cntStat - Reg.mptSegbN 0) / 4

/-- Group 0 has data for node 5 at slot unit 2,048 of beacon period 1. The node's downlink set commits there, by its `effSeg`, as long as
`CNT_STAT` reads 0, and has a copy of segment index 8 in SHADOW alone. One more error corrected makes a counter wrap, and `CNT_STAT` 1. -/
def strayDev : Dev :=
  { Dev.init with
    dev := .run
    groups := [(0, { Group.init with st := .coordinating, firstBcn := some 0, frozen := [(1, halfPlan)] })]
    nodes := [(5, { Node.init with st := .active, saddr := 1 })]
    sets := [(setIx 5 false, { MapSet.init with upd := .scheduled, effBp := 1, effSeg := strayIndex })]
    keys := [(keyIx 5 false 8, { MapKey.init with shadow := some halfEntry, built := true })]
    cnts := { Counts.init with cells := [(34 * 16, { Counter.init with value := 2 ^ 48 - 1, sel := 0x80E3 })] } }

/-- The copy that is to be in force at the slot is the one in SHADOW. -/
theorem strayDev_copyAt : (strayDev.copyAt (setIx 5 false) 8 (1 : BitVec 23).toNat 2048).1 = some halfEntry := by decide

/-- Counting the error corrected moves the commit behind the slot's start, and no copy is pinned. -/
theorem strayDev_not_pinned (e : Entry) :
    ¬ Pinned (1 : BitVec 23).toNat 2048 (setIx 5 false) e (toneMapFetchEffect (1 : BitVec 23).toNat 2048 1 [] strayDev.fresh).fresh := by
  have hpins : (toneMapFetchEffect (1 : BitVec 23).toNat 2048 1 [] strayDev.fresh).fresh.pins = [] := by decide
  have hflag : (toneMapFetchEffect (1 : BitVec 23).toNat 2048 1 [] strayDev.fresh).fresh.flag Reg.marStat 2 = false := by decide
  rintro (⟨p, hp, -⟩ | hfull)
  · rw [hpins] at hp
    exact List.not_mem_nil hp
  · rw [hflag] at hfull
    cases hfull

/-! ### The statement -/

/-- Refutes O53: it takes every number for the segment index of a scheduled commit, and `strayDev` holds one that makes the commit depend on
`CNT_STAT`, which the fetch itself writes. What it says of BINDING_DELIVERY and SLOT_BOUNDARY holds (`bindingDelivery_next`,
`slotBoundary_next`), and so does what it says of TONE_MAP_FETCH where every `effSeg` is below 16 (`toneMapFetch_next`). -/
theorem not_slotBindings : ¬ Obligations.SlotBindings := by
  unfold Obligations.SlotBindings
  intro h
  obtain ⟨-, -, hfetch⟩ := h { dev := strayDev, hostMem := [], pending := [] } rfl
  have htime : strayDev.fetchTime (1 : BitVec 23).toNat 2048 = true := by decide
  have hplan : (0, halfPlan) ∈ strayDev.plansAt (1 : BitVec 23).toNat := by decide
  have hnode : strayDev.entryNode 0 1 = some 5 := by decide
  have hseg : 8 ∈ strayDev.spanSegs 2048 1 := by decide
  obtain ⟨t, ht, -, -, -, -, -, -, hpinned⟩ := hfetch 1 2048 1 htime
  obtain ⟨t', ht', -, hdev⟩ := run_fresh (toneMapFetchEffect (1 : BitVec 23).toNat 2048 1 [])
    { dev := strayDev, hostMem := [], pending := [] }
  obtain rfl : t = t' := Host.Outcome.next.inj (ht.symm.trans ht')
  have hpin : Pinned (1 : BitVec 23).toNat 2048 (setIx 5 false) halfEntry t.dev :=
    hpinned 0 halfPlan _ 5 8 halfEntry hplan List.mem_cons_self rfl rfl hnode hseg strayDev_copyAt
  rw [hdev] at hpin
  exact strayDev_not_pinned halfEntry hpin

end Sys2Proof.Machine
end

section
/-! SUPPORT. Shaping banks (06 R158-R163): banks loaded, swaps at once and as fades, and the fade's end. -/

namespace Sys2Proof.Machine

/-! ### Registers written in turn -/

theorem iter_succ {α : Type} (n : Nat) (f : Nat → α → α) (a : α) : iter (n + 1) f a = f n (iter n f a) := by
  unfold iter
  rw [List.range_succ, List.foldl_append]
  rfl

/-- Registers written in turn after a report are the registers written before it. -/
theorem Reports.iter_setReg {a b : Dev} (h : Reports a b) (n : Nat) (off v : Nat → Nat) :
    Reports (iter n (fun i d => d.setReg (off i) (v i)) a) (iter n (fun i d => d.setReg (off i) (v i)) b) := by
  induction n with
  | zero => exact h
  | succ n ih =>
    rw [iter_succ, iter_succ]
    exact ih.setReg (off n) (v n)

/-- Writing registers in turn changes registers alone. -/
theorem iter_setReg_eq (n : Nat) (off v : Nat → Nat) (d : Dev) :
    ∃ rs, iter n (fun i d => d.setReg (off i) (v i)) d = { d with regs := rs } := by
  refine iter_keeps (fun x => ∃ rs, x = { d with regs := rs }) _ (fun i x hx => ?_) n ⟨d.regs, rfl⟩
  obtain ⟨rs, rfl⟩ := hx
  exact ⟨_, rfl⟩

theorem cmdOf_iter_setReg (n : Nat) (off v : Nat → Nat) (d : Dev) (id : Nat) :
    (iter n (fun i d => d.setReg (off i) (v i)) d).cmdOf id = d.cmdOf id := by
  obtain ⟨rs, hrs⟩ := iter_setReg_eq n off v d
  rw [hrs]
  rfl

/-! ### What shaping rests on -/

theorem Reports.shapeFree {a b : Dev} (h : Reports a b) (p : Nat) : b.shapeFree p = a.shapeFree p := by
  unfold Dev.shapeFree
  rw [h.dev, h.group]

theorem Reports.fadeLen {a b : Dev} (h : Reports a b) {p : Nat} (hp : p < 128) (fs : Nat) : b.fadeLen p fs = a.fadeLen p fs := by
  have hwf : statusOff (Reg.wfCtrl (portGroup p)) = false := statusOff_group (o := 0x400) (by unfold portGroup; omega) (by omega)
  unfold Dev.fadeLen
  rw [h.fld hwf]

theorem Reports.startFade {a b : Dev} (h : Reports a b) (p fs : Nat) (cmd : Option Nat) :
    Reports (a.startFade p fs cmd) (b.startFade p fs cmd) := h.modPort p _

/-- Whether SHAPE_LOAD finds bank `x` of a port free to be written (06 R162). -/
def Dev.bankFree (d : Dev) (p x : Nat) : Bool :=
  d.shapeFree p || ((d.port p).fade.isNone && decide (b2n (d.port p).bank ≠ x))

theorem Reports.bankFree {a b : Dev} (h : Reports a b) (p x : Nat) : b.bankFree p x = a.bankFree p x := by
  unfold Dev.bankFree
  rw [h.shapeFree, h.port]

/-! ### SHAPE_LOAD (06 R162) -/

/-- The 64 weights of a bank, written from a block. -/
def Dev.loadBank (d : Dev) (c : CmdDesc) : Dev :=
  iter 64 (fun t d => d.setReg (Reg.shape (portGroup c.n2) (c.n2 % 4) (c.f1 0 0) t) (leAt c.bytes (4 * t) 4)) d

theorem exec_shapeLoad (c : CmdDesc) (s : State) : exec (.shapeLoad c) s =
    run (command { CmdSpec.plain 0x16 with len := fun _ n => decide (n = 256), m1 := 1, m2 := 0xFFFF, lim2 := 128 } always
      (fun _ c => (List.range 64).all (fun t => decide (leAt c.bytes (4 * t) 4 < 2 ^ 18)))
      (fun id c d => if d.bankFree c.n2 (c.f1 0 0) then (d.loadBank c).finishSt id stOk
        else (d.raise (.wf (portGroup c.n2) (c.n2 % 4)) 28).finishSt id stBankBusy) c) s := rfl

section
variable {s : State} {c : CmdDesc}
  (h : Accepted s c { CmdSpec.plain 0x16 with len := fun _ n => decide (n = 256), m1 := 1, m2 := 0xFFFF, lim2 := 128 })
  (hw : (List.range 64).all (fun t => decide (leAt c.bytes (4 * t) 4 < 2 ^ 18)) = true)
include h hw

/-- A bank that is free is loaded. -/
theorem shapeLoad_free (hf : s.dev.bankFree c.n2 (c.f1 0 0) = true) :
    Serves (exec (.shapeLoad c) s) s (s.dev.loadBank c) stOk [] := by
  have hr := fetched_reports s c
  rw [exec_shapeLoad]
  refine command_serves (d := (s.dev.fresh.fetchCmd c).loadBank c) h rfl hw (if_pos ?_) (hr.iter_setReg 64 _ _) ?_
  · rwa [hr.bankFree]
  · rw [Dev.loadBank, cmdOf_iter_setReg]
    exact fetched_outstanding s c

/-- A bank in force is busy. -/
theorem shapeLoad_busy (hf : s.dev.bankFree c.n2 (c.f1 0 0) = false) :
    Serves (exec (.shapeLoad c) s) s s.dev stBankBusy [] := by
  have hr := fetched_reports s c
  have hq := raise_quiet (s.dev.fresh.fetchCmd c) (.wf (portGroup c.n2) (c.n2 % 4)) 28
  rw [exec_shapeLoad]
  refine command_serves h rfl hw (if_neg ?_) (hr.trans hq.1) ?_
  · rw [hr.bankFree, hf]
    exact Bool.false_ne_true
  · rw [hq.cmdOf]
    exact fetched_outstanding s c

end

/-! ### SHAPE_SWAP (06 R160, R161, R163) -/

/-- The bank that SHAPE_SWAP names. -/
def swapTarget (c : CmdDesc) : Bool := decide (c.f1 0 0 = 1)

/-- The request that SHAPE_SWAP leaves behind a fade. -/
def swapWaiting (s : State) (c : CmdDesc) : Port → Port :=
  fun x => { x with swap := some { target := swapTarget c, fs := s.dev.fadeLen c.n2 (c.f1 15 8), cmd := some s.dev.nextId } }

/-- A swap that waited gives way to a newer one. -/
def Dev.supersede (d : Dev) (p : Nat) : Dev :=
  match (d.port p).swap with
  | some w => d.finishOpt w.cmd stSuperseded
  | none => d

theorem supersede_reports (d : Dev) (p : Nat) : Reports d (d.supersede p) := by
  unfold Dev.supersede
  split
  · exact finishOpt_reports _ _ _
  · exact Reports.refl d

/-- Effect of SHAPE_SWAP once its checks have passed. -/
def Dev.swapAsked (d : Dev) (id : Nat) (c : CmdDesc) : Dev :=
  if d.shapeFree c.n2 then (d.modPort c.n2 (fun x => { x with bank := swapTarget c })).finishSt id stOk
  else
    match (d.port c.n2).fade with
    | none => d.swapTo c.n2 (swapTarget c) (d.fadeLen c.n2 (c.f1 15 8)) (some id)
    | some _ => (d.supersede c.n2).modPort c.n2
        (fun x => { x with swap := some { target := swapTarget c, fs := d.fadeLen c.n2 (c.f1 15 8), cmd := some id } })

theorem exec_shapeSwap (c : CmdDesc) (s : State) : exec (.shapeSwap c) s =
    run (command { CmdSpec.plain 0x17 with m1 := 0xFF01, m2 := 0xFFFF, lim2 := 128 } always (fun _ c => decide (c.f1 15 8 ≤ 128))
      (fun id c d => d.swapAsked id c) c) s := rfl

section
variable {d : Dev} {c : CmdDesc} (id : Nat)

theorem swapAsked_free (h : d.shapeFree c.n2 = true) :
    d.swapAsked id c = (d.modPort c.n2 (fun x => { x with bank := swapTarget c })).finishSt id stOk := if_pos h

section
variable (h : d.shapeFree c.n2 = false)
include h

theorem swapAsked_stable (hf : (d.port c.n2).fade = none) :
    d.swapAsked id c = d.swapTo c.n2 (swapTarget c) (d.fadeLen c.n2 (c.f1 15 8)) (some id) := by
  simp only [Dev.swapAsked, h, hf, Bool.false_eq_true, if_false]

theorem swapAsked_fading (hf : (d.port c.n2).fade ≠ none) :
    d.swapAsked id c = (d.supersede c.n2).modPort c.n2
      (fun x => { x with swap := some { target := swapTarget c, fs := d.fadeLen c.n2 (c.f1 15 8), cmd := some id } }) := by
  obtain ⟨f, hf⟩ := Option.ne_none_iff_exists'.1 hf
  simp only [Dev.swapAsked, h, hf, Bool.false_eq_true, if_false]

end
end

section
variable {s : State} {c : CmdDesc} (h : Accepted s c { CmdSpec.plain 0x17 with m1 := 0xFF01, m2 := 0xFFFF, lim2 := 128 })
  (ha : c.f1 15 8 ≤ 128)
include h ha

/-- Shaping that is free swaps at once. -/
theorem shapeSwap_free (hf : s.dev.shapeFree c.n2 = true) :
    Serves (exec (.shapeSwap c) s) s (s.dev.modPort c.n2 (fun x => { x with bank := swapTarget c })) stOk [] := by
  have hr := fetched_reports s c
  rw [exec_shapeSwap]
  exact command_serves h rfl (decide_eq_true ha) (swapAsked_free _ (by rwa [hr.shapeFree])) (hr.modPort _ _)
    (fetched_outstanding s c)

section
variable (hf : s.dev.shapeFree c.n2 = false)
include hf

/-- A target that is in force is swapped to at once. -/
theorem shapeSwap_same (hn : (s.dev.port c.n2).fade = none) (hb : (s.dev.port c.n2).bank = swapTarget c) :
    Serves (exec (.shapeSwap c) s) s s.dev stOk [] := by
  have hr := fetched_reports s c
  rw [exec_shapeSwap]
  refine command_serves h rfl (decide_eq_true ha) ?_ hr (fetched_outstanding s c)
  rw [swapAsked_stable _ (by rwa [hr.shapeFree]) (by rwa [hr.port])]
  exact if_pos (by rwa [hr.port])

/-- A swap to the other bank fades, and waits. -/
theorem shapeSwap_fades (hn : (s.dev.port c.n2).fade = none) (hb : (s.dev.port c.n2).bank ≠ swapTarget c) :
    Waits (exec (.shapeSwap c) s) s (s.dev.startFade c.n2 (s.dev.fadeLen c.n2 (c.f1 15 8)) (some s.dev.nextId)) := by
  have hr := fetched_reports s c
  rw [exec_shapeSwap]
  obtain ⟨t, ht, hp, hdev⟩ := command_next h (obj := always) rfl (arg := fun _ c => decide (c.f1 15 8 ≤ 128)) (decide_eq_true ha)
    (eff := fun id c d => d.swapAsked id c)
  have hfade : t.dev = ((s.dev.fresh.fetchCmd c).startFade c.n2 (s.dev.fadeLen c.n2 (c.f1 15 8)) (some s.dev.nextId)).fresh := by
    rw [hdev, swapAsked_stable _ (by rwa [hr.shapeFree]) (by rwa [hr.port]), Dev.swapTo, if_neg (by rwa [hr.port]),
      hr.fadeLen h.n2_lt]
  refine ⟨t, ht, hp, ?_⟩
  rw [hfade]
  exact ⟨(hr.startFade _ _ _).trans (fresh_reports _), fetched_outstanding s c⟩

/-- A swap that meets a fade waits behind it. -/
theorem shapeSwap_waits (hn : (s.dev.port c.n2).fade ≠ none) :
    Reaches (exec (.shapeSwap c) s) s (s.dev.modPort c.n2 (swapWaiting s c)) := by
  have hr := fetched_reports s c
  rw [exec_shapeSwap]
  refine run_reaches ?_
  rw [command_accepted h rfl (decide_eq_true ha), swapAsked_fading _ (by rwa [hr.shapeFree]) (by rwa [hr.port]),
    hr.fadeLen h.n2_lt]
  exact (hr.trans (supersede_reports _ _)).modPort _ _

end
end

/-! ### FADE_END (06 R159, R161) -/

/-- The port as its fade ends: the bank faded to is in force. -/
def Port.faded (f : Fade) (x : Port) : Port := { x with fade := none, bank := !f.src }

/-- The fade of a port ends and its command completes. -/
def Dev.endFade (d : Dev) (p : Nat) (f : Fade) : Dev := (d.modPort p (Port.faded f)).finishOpt f.cmd stOk

theorem endFade_atPort (d : Dev) (p : Nat) (f : Fade) : AtPort p d (d.endFade p f) :=
  (modPort_atPort d p _).trans ((finishOpt_reports _ _ _).atPort p)

theorem endFade_port (d : Dev) (p : Nat) (f : Fade) : (d.endFade p f).port p = (d.port p).faded f := by
  rw [Dev.endFade, (finishOpt_reports _ _ _).port, port_modPort_same]

/-- The swap that waited is handled. -/
def Dev.takeSwap (d : Dev) (p : Nat) (w : Swap) : Dev := (d.modPort p (fun x => { x with swap := none })).swapTo p w.target w.fs w.cmd

theorem swapTo_atPort (d : Dev) (p : Nat) (target : Bool) (fs : Nat) (cmd : Option Nat) : AtPort p d (d.swapTo p target fs cmd) := by
  unfold Dev.swapTo
  split
  · exact (finishOpt_reports _ _ _).atPort p
  · exact modPort_atPort d p _

/-- The port as a swap that waited is taken up: a fade from the bank in force, unless that is its target. -/
def Port.swapped (w : Swap) (x : Port) : Port :=
  { x with swap := none
           fade := if w.target = x.bank then x.fade else some { i := 0, len := w.fs * 73728, src := x.bank, cmd := w.cmd } }

theorem takeSwap_port (d : Dev) (p : Nat) (w : Swap) : (d.takeSwap p w).port p = (d.port p).swapped w := by
  have hport := port_modPort_same d p (fun x => { x with swap := none })
  unfold Dev.takeSwap Dev.swapTo Port.swapped
  by_cases hb : w.target = (d.port p).bank
  · rw [if_pos (by rw [hport]; exact hb.symm), (finishOpt_reports _ _ _).port, hport, if_pos hb]
  · rw [if_neg (by rw [hport]; exact fun e => hb e.symm), if_neg hb, Dev.startFade, port_modPort_same, hport]

section
variable {d : Dev} {p : Nat} {f : Fade} (hf : (d.port p).fade = some f) (hl : f.len ≤ f.i)
include hf hl

theorem fadeEndEffect_alone (hw : (d.port p).swap = none) : fadeEndEffect p d = d.endFade p f := by
  have hs : ((d.endFade p f).port p).swap = none := by rw [endFade_port]; exact hw
  unfold Dev.endFade Port.faded at hs
  simp only [fadeEndEffect, hf, if_neg (Nat.not_lt.2 hl), hs]
  rfl

theorem fadeEndEffect_swap {w : Swap} (hw : (d.port p).swap = some w) : fadeEndEffect p d = (d.endFade p f).takeSwap p w := by
  have hs : ((d.endFade p f).port p).swap = some w := by rw [endFade_port]; exact hw
  unfold Dev.endFade Port.faded at hs
  simp only [fadeEndEffect, hf, if_neg (Nat.not_lt.2 hl), hs]
  rfl

end

/-- FADE_END puts the bank faded to in force and handles the swap that waited. -/
theorem fadeEnd_next {s : State} {p : Fin 128} {f : Fade} (hf : (s.dev.port p).fade = some f) (hl : f.len ≤ f.i) :
    ∃ t, exec (.fadeEnd p) s = .next t ∧ t.pending = s.pending ∧ AtPort p s.dev t.dev ∧
      ((s.dev.port p).swap = none → t.dev.port p = (s.dev.port p).faded f) ∧
      (∀ w, (s.dev.port p).swap = some w → t.dev.port p = { s.dev.port p with
        bank := !f.src, swap := none
        fade := if w.target = !f.src then none else some { i := 0, len := w.fs * 73728, src := !f.src, cmd := w.cmd } }) := by
  obtain ⟨t, ht, hp, hdev⟩ := run_fresh (fadeEndEffect p) s
  have hfresh := (fresh_reports s.dev).atPort p.val
  have hend := hfresh.trans (endFade_atPort s.dev.fresh p f)
  refine ⟨t, ht, hp, ?_⟩
  rw [hdev]
  cases hw : (s.dev.port p).swap with
  | none =>
    rw [fadeEndEffect_alone (d := s.dev.fresh) hf hl hw]
    exact ⟨hend.trans ((fresh_reports _).atPort p), fun _ => endFade_port _ _ f, fun w e => (nomatch e)⟩
  | some w =>
    rw [fadeEndEffect_swap (d := s.dev.fresh) hf hl hw]
    refine ⟨hend.trans (((modPort_atPort _ _ _).trans (swapTo_atPort _ _ _ _ _)).trans ((fresh_reports _).atPort p)),
      fun e => (nomatch e), fun w' e => ?_⟩
    obtain rfl : w = w' := Option.some.inj e
    rw [fresh_port, takeSwap_port, endFade_port]
    rfl

/-! ### The statement -/

/-- Settles O24: each of the three in each of its cases. -/
theorem shapingBanks : Obligations.ShapingBanks := by
  intro s
  refine ⟨fun c h hw => ⟨shapeLoad_free h hw, shapeLoad_busy h hw⟩,
    fun c h ha => ⟨shapeSwap_free h ha, shapeSwap_same h ha, shapeSwap_fades h ha, shapeSwap_waits h ha⟩, fun p f hf hl => ?_⟩
  obtain ⟨t, ht, hp, ⟨hports, hothers⟩, hport⟩ := fadeEnd_next hf hl
  exact ⟨t, ht, hp, hports, hothers, hport⟩

end Sys2Proof.Machine
end

section
/-! SUPPORT. Mask changes (06 R150, R153, 16 R398): the words that a new mask leaves, the mask that it replaces, and what waits for the
beacons. -/

namespace Sys2Proof.Machine

/-! ### A mask taken into force (06 R153) -/

/-- Past the groups three registers carry status bits. -/
theorem statusOff_past_groups {off : Nat} (h : 0x300000 ≤ off) (h1 : off ≠ 0x400008) (h2 : off ≠ 0x50000C) (h3 : off ≠ 0x600014) :
    statusOff off = false := by
  unfold statusOff
  rw [if_neg (by omega), if_neg (by omega)]
  simp [h1, h2, h3]

/-- A mask word is a configuration register, whatever number its group is given. -/
theorem statusOff_mask (g : Nat) {n : Nat} (hn : n < 64) : statusOff (Reg.mask g n) = false := by
  unfold Reg.mask
  by_cases hg : g < 32
  · rw [show 0x100500 + g * 0x10000 + n * 0x4 = 0x100000 + (0x500 + n * 4) + g * 0x10000 by omega, statusOff_group hg (by omega)]
    simp only [List.contains_eq_mem, List.mem_cons, List.not_mem_nil, or_false, decide_eq_false_iff_not]
    omega
  · exact statusOff_past_groups (by omega) (by omega) (by omega) (by omega)

/-- Registers written in turn, no two the same, read what was written last to them. -/
theorem reg_iter_setReg {off : Nat → Nat} (hoff : ∀ i j, off i = off j → i = j) (v : Nat → Nat) (d : Dev) {n i : Nat} (h : i < n) :
    (iter n (fun i d => d.setReg (off i) (v i)) d).reg (off i) = v i % 2 ^ 32 := by
  induction n with
  | zero => exact absurd h (Nat.not_lt_zero i)
  | succ n ih =>
    rw [iter_succ]
    rcases Nat.lt_succ_iff_lt_or_eq.1 h with hi | rfl
    · rw [reg_setReg_ne fun e => Nat.ne_of_lt hi (hoff _ _ e)]
      exact ih hi
    · exact reg_setReg_same _ _ _

theorem mask_inj (g i j : Nat) (h : Reg.mask g i = Reg.mask g j) : i = j := by
  unfold Reg.mask at h
  omega

theorem SameCfg.maskOf {a b : Dev} (h : SameCfg a b) (g : Nat) : b.maskOf g = a.maskOf g :=
  List.map_congr_left fun n hn => by rw [h _ (statusOff_mask g (List.mem_range.1 hn))]

/-- The words of a mask, written. -/
def Dev.setWords (d : Dev) (g : Nat) (es : List (BitVec 32)) : Dev :=
  iter 64 (fun n d => d.setReg (Reg.mask g n) (es.getD n 0).toNat) d

/-- The words of a mask, and the change noted in its group. -/
def Dev.setMask (d : Dev) (g : Nat) (es : List (BitVec 32)) (ver : Nat) : Dev :=
  (d.setWords g es).modGroup g (fun x => { x with maskVer := ver, maskNext := none, maskWas := some (d.tb.n, d.maskOf g) })

/-- Writing a mask's words changes registers alone. -/
theorem setWords_eq (d : Dev) (g : Nat) (es : List (BitVec 32)) : ∃ rs, d.setWords g es = { d with regs := rs } :=
  iter_setReg_eq 64 (Reg.mask g) (fun n => (es.getD n 0).toNat) d

theorem setWords_reg (d : Dev) (g : Nat) (es : List (BitVec 32)) {n : Nat} (hn : n < 64) :
    (d.setWords g es).reg (Reg.mask g n) = (es.getD n 0).toNat := by
  rw [Dev.setWords, reg_iter_setReg (mask_inj g) (fun n => (es.getD n 0).toNat) d hn]
  exact Nat.mod_eq_of_lt (BitVec.isLt _)

theorem setWords_tb (d : Dev) (g : Nat) (es : List (BitVec 32)) : (d.setWords g es).tb = d.tb := by
  obtain ⟨rs, hrs⟩ := setWords_eq d g es
  rw [hrs]

/-- A mask taken into force is set, and marks keys STALE where it moves a carrier. -/
theorem applyMask_marks (d : Dev) (g : Nat) (es : List (BitVec 32)) (ver : Nat) : Marks (d.setMask g es ver) (d.applyMask g es ver) := by
  have hmask : (d.setWords g es).modGroup g (fun x => { x with
      maskVer := ver, maskNext := none, maskWas := some ((d.setWords g es).tb.n, d.maskOf g) }) = d.setMask g es ver := by
    rw [Dev.setMask, setWords_tb]
  unfold Dev.applyMask
  rw [← Dev.setWords]
  dsimp only
  rw [hmask]
  split
  · exact markStale_marks _ _ _ _ _ _ _
  · exact Marks.refl _

/-- What a mask taken into force leaves: the words of its entries, and in the group its version and the mask it replaces. -/
structure Masked (g : Nat) (es : List (BitVec 32)) (ver : Nat) (a b : Dev) : Prop where
  ver : (b.group g).maskVer = ver
  next : (b.group g).maskNext = none
  was : (b.group g).maskWas = some (a.tb.n, a.maskOf g)
  words : ∀ n, n < 64 → b.reg (Reg.mask g n) = (es.getD n 0).toNat
  ports : b.ports = a.ports
  nodes : b.nodes = a.nodes

theorem setMask_masked (d : Dev) (g : Nat) (es : List (BitVec 32)) (ver : Nat) : Masked g es ver d (d.setMask g es ver) := by
  have words : ∀ n, n < 64 → (d.setMask g es ver).reg (Reg.mask g n) = (es.getD n 0).toNat := fun n hn => by
    rw [Dev.setMask, modGroup_reg, setWords_reg d g es hn]
  obtain ⟨rs, hrs⟩ := setWords_eq d g es
  rw [Dev.setMask, hrs] at words ⊢
  exact ⟨by rw [group_modGroup_same], by rw [group_modGroup_same], by rw [group_modGroup_same], words, rfl, rfl⟩

section
variable {g : Nat} {es : List (BitVec 32)} {ver : Nat}

theorem Masked.marks {a b c : Dev} (h : Masked g es ver a b) (k : Marks b c) : Masked g es ver a c := by
  have hgrp : c.group g = b.group g := k.1.group g
  refine ⟨?_, ?_, ?_, fun n hn => (k.1.reg (statusOff_mask g hn)).trans (h.words n hn), k.1.ports.trans h.ports,
    k.1.nodes.trans h.nodes⟩
  · rw [hgrp, h.ver]
  · rw [hgrp, h.next]
  · rw [hgrp, h.was]

theorem Masked.reports {a b c : Dev} (h : Masked g es ver a b) (k : Reports b c) : Masked g es ver a c := by
  refine ⟨?_, ?_, ?_, fun n hn => (k.reg (statusOff_mask g hn)).trans (h.words n hn), k.ports.trans h.ports, k.nodes.trans h.nodes⟩
  · rw [k.group, h.ver]
  · rw [k.group, h.next]
  · rw [k.group, h.was]

theorem Masked.of_reports {a b c : Dev} (h : Reports a b) (k : Masked g es ver b c) : Masked g es ver a c := by
  have hwas := k.was
  rw [h.tb, h.2.maskOf g] at hwas
  exact ⟨k.ver, k.next, hwas, k.words, k.ports.trans h.ports, k.nodes.trans h.nodes⟩

theorem applyMask_masked (d : Dev) (es : List (BitVec 32)) (ver : Nat) :
    Masked g es ver d (d.applyMask g es ver) := (setMask_masked d g es ver).marks (applyMask_marks d g es ver)

theorem applyMask_cmdOf (d : Dev) (g : Nat) (es : List (BitVec 32)) (ver id : Nat) :
    (d.applyMask g es ver).cmdOf id = d.cmdOf id := by
  obtain ⟨-, hcmds, -⟩ := applyMask_marks d g es ver
  obtain ⟨rs, hrs⟩ := setWords_eq d g es
  rw [Dev.setMask, hrs] at hcmds
  rw [Dev.cmdOf, hcmds]
  rfl

end

theorem fresh_cmdOf (d : Dev) (id : Nat) : d.fresh.cmdOf id = d.cmdOf id := rfl

/-! ### MASK_LOAD (06 R153, 16 R398) -/

theorem exec_maskLoad (c : CmdDesc) (s : State) : exec (.maskLoad c) s =
    run (command { CmdSpec.plain 0x15 with len := fun _ n => decide (4 ≤ n ∧ n ≤ 256 ∧ n % 4 = 0), m1 := 0xF, m2 := 0xFFFF, lim2 := 32 }
      (fun d c => (d.group c.n2).maskNext.isNone) (fun _ c => (maskBlock c).all (fun w => maskEntryOk w.toNat))
      (fun id c d =>
        if d.dev = .config ∨ (d.group c.n2).st = .down then
          (d.applyMask c.n2 (maskBlock c) (c.f1 3 0)).finish id stOk (quints 0 0 0 0 0)
        else d.modGroup c.n2 (fun x => { x with
          maskNext := some { entries := maskBlock c, ver := c.f1 3 0, effBp := none, cmd := id } })) c) s := rfl

section
variable {s : State} {c : CmdDesc} (h : Accepted s c { CmdSpec.plain 0x15 with
    len := fun _ n => decide (4 ≤ n ∧ n ≤ 256 ∧ n % 4 = 0), m1 := 0xF, m2 := 0xFFFF, lim2 := 32 })
  (hn : (s.dev.group c.n2).maskNext = none) (hw : (maskBlock c).all (fun w => maskEntryOk w.toNat) = true)
include h hn hw

/-- In CONFIG or with its group DOWN a mask is in force at once. -/
theorem maskLoad_at_once (hd : s.dev.dev = .config ∨ (s.dev.group c.n2).st = .down) :
    ∃ e, Serves (exec (.maskLoad c) s) s e stOk (quints 0 0 0 0 0) ∧ Masked c.n2 (maskBlock c) (c.f1 3 0) s.dev e := by
  have hr := fetched_reports s c
  refine ⟨_, ?_, (applyMask_masked _ (maskBlock c) (c.f1 3 0)).of_reports hr⟩
  rw [exec_maskLoad]
  refine command_serves h (by rw [fresh_group, hn]; rfl) hw (if_pos ?_) (Reports.refl _) ?_
  · rwa [hr.dev, hr.group]
  · rw [applyMask_cmdOf]
    exact fetched_outstanding s c

/-- In RUN with its group up a mask waits for the beacons. -/
theorem maskLoad_waits (hd : s.dev.dev = .run) (hu : (s.dev.group c.n2).st ≠ .down) :
    Waits (exec (.maskLoad c) s) s (s.dev.modGroup c.n2 (fun x => { x with
      maskNext := some { entries := maskBlock c, ver := c.f1 3 0, effBp := none, cmd := s.dev.nextId } })) := by
  have hr := fetched_reports s c
  have hup : ¬ ((s.dev.fresh.fetchCmd c).dev = .config ∨ ((s.dev.fresh.fetchCmd c).group c.n2).st = .down) := by
    rw [hr.dev, hr.group, hd]
    rintro (e | e)
    · cases e
    · exact hu e
  rw [exec_maskLoad, Waits, run_next, command_accepted h (by rw [fresh_group, hn]; rfl) hw, if_neg hup]
  exact ⟨_, rfl, rfl, (hr.modGroup _ _).trans (fresh_reports _), fetched_outstanding s c⟩

end

/-! ### MASK_EFFECTIVE (06 R153) -/

theorem maskEffectiveEffect_announced {d : Dev} {g : Nat} {m : MaskChange} {b : Nat} (hc : d.dev.clocked = true)
    (hm : (d.group g).maskNext = some m) (hb : m.effBp = some b) (hs : bpSince b d.msync.bpi < 2 ^ 22) :
    maskEffectiveEffect g d = (d.applyMask g m.entries m.ver).finish m.cmd stOk (quints (b % 65536) 0 0 0 0) := by
  simp only [maskEffectiveEffect, hc, hm, hb, hs, Bool.not_true, Bool.false_eq_true, if_false, if_true]

/-- At the beacon period announced the mask is in force and its command has ended. -/
theorem maskEffective_next {s : State} {g : Fin 32} {m : MaskChange} {b : Nat} (hc : s.dev.dev.clocked = true)
    (hm : (s.dev.group g).maskNext = some m) (hb : m.effBp = some b) (hs : bpSince b s.dev.msync.bpi < 2 ^ 22) :
    ∃ t, exec (.maskEffective g) s = .next t ∧ t.pending = s.pending ∧ t.dev.cmdOf m.cmd = none ∧
      Masked g m.entries m.ver s.dev t.dev := by
  obtain ⟨t, ht, hp, hdev⟩ := run_fresh (maskEffectiveEffect g) s
  refine ⟨t, ht, hp, ?_⟩
  rw [hdev, maskEffectiveEffect_announced (d := s.dev.fresh) hc hm hb hs]
  refine ⟨(fresh_cmdOf _ _).trans (finish_ended _ _ _ _), ?_⟩
  have hmask := (applyMask_masked (g := g.val) s.dev.fresh m.entries m.ver).of_reports (fresh_reports s.dev)
  exact hmask.reports ((finish_reports _ _ _ _).trans (fresh_reports _))

/-! ### The statement -/

/-- Settles O25: a mask at once, one that waits, and one whose beacon period has come. -/
theorem maskChanges : Obligations.MaskChanges := by
  intro s
  refine ⟨fun c h hn hw => ⟨fun hd => ?_, maskLoad_waits h hn hw⟩, fun g m b hc hm hb hs => ?_⟩
  · obtain ⟨e, hserves, hmask⟩ := maskLoad_at_once h hn hw hd
    exact ⟨e, hserves, hmask.ver, hmask.was, hmask.words, hmask.ports, hmask.nodes⟩
  · obtain ⟨t, ht, hp, hend, hmask⟩ := maskEffective_next hc hm hb hs
    exact ⟨t, ht, hp, hend, hmask.next, hmask.ver, hmask.was, hmask.words, hmask.ports, hmask.nodes⟩

end Sys2Proof.Machine
end

section
/-! SUPPORT. Frames that an encode lane starts (06 R156, R157, 11 R287): the check before the first sample, the frame on its lane, and
what the words known of it change. -/

namespace Sys2Proof.Machine

/-! ### The check before the first sample (06 R156, R157) -/

/-- A happening clears no status bit. -/
theorem flag_raise_keeps {r : Src} {i b : Nat} (hb : b < 32) {d : Dev} (h : d.flag r.off i = true) (q : Src) :
    (d.raise q b).flag r.off i = true := by
  by_cases hr : q.off = r.off
  · by_cases hi : i = b
    · rw [hi, ← hr]
      exact flag_raise hb d q
    · rw [← hr, flag_raise_apart hb hi, hr, h]
  · unfold Dev.raise
    rw [Dev.flag, reg_count (src_ne_cnt r)]
    exact (flag_setFld_other (fun e => hr e.symm) d b b 1 i).trans h

/-- The status of a port's waveform unit. -/
def wfSrc (p : Nat) : Src := .wf (portGroup p) (p % 4)

/-- Port `p` shows that a frame has been kept off it. -/
def Dev.ShowsKeptOff (p : Nat) (d : Dev) : Prop := d.flag (wfSrc p).off 29 = true ∨ d.flag (wfSrc p).off 30 = true

theorem raise_keeps_showsKeptOff {p b : Nat} (hb : b < 32) {d : Dev} (h : d.ShowsKeptOff p) (q : Src) : (d.raise q b).ShowsKeptOff p :=
  h.imp (fun h => flag_raise_keeps hb h q) (fun h => flag_raise_keeps hb h q)

/-- A failed check is shown on its port. -/
def Dev.showFails (d : Dev) (p : Nat) (fails : Bool × Bool) : Dev :=
  let e := if fails.1 then d.raise (wfSrc p) 30 else d
  if fails.2 then e.raise (wfSrc p) 29 else e

theorem showFails_reports (d : Dev) (p : Nat) (fails : Bool × Bool) : Reports d (d.showFails p fails) :=
  have occ := ite_reports (p := fails.1) (raise_reports d (wfSrc p) 30) (Reports.refl d)
  ite_reports (occ.trans (raise_reports _ _ _)) occ

theorem showFails_keeps {p q : Nat} {d : Dev} (h : d.ShowsKeptOff p) (fails : Bool × Bool) : (d.showFails q fails).ShowsKeptOff p := by
  have occ : (if fails.1 then d.raise (wfSrc q) 30 else d).ShowsKeptOff p := by
    split
    · exact raise_keeps_showsKeptOff (by omega) h _
    · exact h
  unfold Dev.showFails
  dsimp only
  split
  · exact raise_keeps_showsKeptOff (by omega) occ _
  · exact occ

theorem showFails_shows {p : Nat} {fails : Bool × Bool} (h : fails.1 = true ∨ fails.2 = true) (d : Dev) :
    (d.showFails p fails).ShowsKeptOff p := by
  unfold Dev.showFails
  dsimp only
  by_cases h2 : fails.2 = true
  · rw [if_pos h2]
    exact .inl (flag_raise (by omega) _ _)
  · rw [if_neg h2, if_pos (h.resolve_right h2)]
    exact .inr (flag_raise (by omega) _ _)

/-- The ports on which the check keeps a frame of `f` samples off. -/
def Dev.badPorts (d : Dev) (outs : List Nat) (f : Nat) : List Nat := outs.filter (fun p => (d.occFails p f).1 || (d.occFails p f).2)

theorem gateFrame_eq (d : Dev) (outs : List Nat) (f : Nat) :
    d.gateFrame outs f = ((d.badPorts outs f).isEmpty, (d.badPorts outs f).foldl (fun e p => e.showFails p (d.occFails p f)) d) := rfl

/-- A frame that passes leaves nothing. -/
theorem gateFrame_pass {d : Dev} {outs : List Nat} {f : Nat} (h : (d.gateFrame outs f).1 = true) : (d.gateFrame outs f).2 = d := by
  rw [gateFrame_eq] at h ⊢
  rw [List.isEmpty_iff.1 h]
  rfl

theorem gateFrame_reports (d : Dev) (outs : List Nat) (f : Nat) : Reports d (d.gateFrame outs f).2 :=
  foldl_reports _ (fun e p => showFails_reports e p _) _ d

/-- A frame that fails shows it on a port that it was to be sent on. -/
theorem gateFrame_fail {d : Dev} {outs : List Nat} {f : Nat} (h : (d.gateFrame outs f).1 = false) :
    ∃ p ∈ outs, (d.gateFrame outs f).2.ShowsKeptOff p := by
  obtain ⟨p, hp⟩ := List.exists_mem_of_ne_nil _ (List.isEmpty_eq_false_iff.1 h)
  obtain ⟨hout, hfail⟩ := List.mem_filter.1 hp
  refine ⟨p, hout, ?_⟩
  exact foldl_settles (P := Dev.ShowsKeptOff p) hp (fun e => showFails_shows (by simpa using hfail) e)
    (fun e q he => showFails_keeps he _) d

/-! ### A frame on its lane -/

theorem Reports.atEnc {a b : Dev} (h : Reports a b) (l : Nat) : AtEnc l a b := by
  refine ⟨?_, fun i _ => h.enc i⟩
  rw [h.encs, h.ports]
  exact h

/-- `b` is `a` but for ports. -/
def OnlyPorts (a b : Dev) : Prop := b = { a with ports := b.ports }

theorem OnlyPorts.trans {a b c : Dev} (h : OnlyPorts a b) (k : OnlyPorts b c) : OnlyPorts a c := by
  unfold OnlyPorts at h k ⊢
  rw [k, h]

theorem OnlyPorts.foldl {α : Type} {f : Dev → α → Dev} (hf : ∀ d x, OnlyPorts d (f d x)) (l : List α) (d : Dev) :
    OnlyPorts d (l.foldl f d) :=
  List.foldlRecOn l f (motive := OnlyPorts d) rfl fun e he x _ => he.trans (hf e x)

theorem OnlyPorts.atEnc {a b : Dev} (h : OnlyPorts a b) (l : Nat) : AtEnc l a b := by
  rw [h]
  exact ⟨Reports.refl _, fun _ _ => rfl⟩

theorem OnlyPorts.enc {a b : Dev} (h : OnlyPorts a b) (l : Nat) : b.enc l = a.enc l := by
  rw [h]
  rfl

theorem foldl_modPort_onlyPorts (f : Dev → Nat → Port → Port) (ps : List Nat) (d : Dev) :
    OnlyPorts d (ps.foldl (fun d p => d.modPort p (f d p)) d) := OnlyPorts.foldl (fun d p => (rfl : OnlyPorts d (d.modPort p (f d p)))) ps d

theorem trackStart_onlyPorts (d : Dev) (p : Nat) : OnlyPorts d (d.trackStart p) := by
  unfold Dev.trackStart
  split <;> rfl

/-- A frame that starts stands on its lane; beside that it feeds ports. -/
theorem startFrame_onlyPorts (d : Dev) (l : Nat) (f : TxFrame) :
    OnlyPorts (d.modEnc l (fun x => { x with frame := some f })) (d.startFrame l f) := by
  unfold Dev.startFrame
  dsimp only
  refine (foldl_modPort_onlyPorts _ _ _).trans (OnlyPorts.foldl (fun e p => ?_) _ _)
  split
  · exact trackStart_onlyPorts e p
  · rfl

/-- A frame starts on a lane that then stays off until sample `next`. -/
def Dev.begin (d : Dev) (l : Nat) (f : TxFrame) (next : Nat) : Dev := (d.startFrame l f).modEnc l (fun x => { x with nextAt := next })

theorem begin_atEnc (d : Dev) (l : Nat) (f : TxFrame) (next : Nat) : AtEnc l d (d.begin l f next) :=
  ((modEnc_atEnc d l _).trans ((startFrame_onlyPorts d l f).atEnc l)).trans (modEnc_atEnc _ l _)

theorem begin_frame (d : Dev) (l : Nat) (f : TxFrame) (next : Nat) : ((d.begin l f next).enc l).frame = some f := by
  rw [Dev.begin, enc_modEnc_same]
  dsimp only
  rw [(startFrame_onlyPorts d l f).enc, enc_modEnc_same]

theorem traceTx_reports (d : Dev) (l : Nat) (m : Msdu) (f : TxForm) (n : Nat) : Reports d (d.traceTx l m f n) :=
  (trace_reports d _ _ _ _ _).trans (trace_reports _ _ _ _ _ _)

/-! ### The words known of a frame (18 R431, 21 R482) -/

/-- A frame without what is known of its words. -/
def TxFrame.sheer (f : TxFrame) : TxFrame := { f with late := [], badS := [] }

section
variable (d before : Dev) (l : Nat) (w : LaneWrites) (parity : Bool)

/-- A lane whose frame has not started with this command takes nothing. -/
theorem withWrites_same (h : (d.enc l).frame = (before.enc l).frame) : d.withWrites before l w parity = d := by
  unfold Dev.withWrites
  split
  · rfl
  · next f hf => rw [if_pos (by rw [← h, hf]; rfl)]

theorem withWrites_atEnc : AtEnc l d (d.withWrites before l w parity) := by
  unfold Dev.withWrites
  split
  · exact AtEnc.refl l d
  · refine ite_atEnc (AtEnc.refl l d) ?_
    dsimp only
    have parities : ∀ g, AtEnc l d (if parity then d.faultEvent 0x04 (96 + l) g 0 else d) := fun g =>
      (ite_reports (faultEvent_reports d _ _ _ _) (Reports.refl d)).atEnc l
    exact ((parities _).trans (modEnc_atEnc _ l _)).trans (OnlyPorts.atEnc (foldl_modPort_onlyPorts _ _ _) l)

variable {d} in
theorem withWrites_frame {f : TxFrame} (hf : (d.enc l).frame = some f) :
    ∃ g, ((d.withWrites before l w parity).enc l).frame = some g ∧ g.sheer = f.sheer := by
  unfold Dev.withWrites
  rw [hf]
  dsimp only
  split
  · exact ⟨f, hf, rfl⟩
  · rw [OnlyPorts.enc (foldl_modPort_onlyPorts _ _ _), enc_modEnc_same]
    exact ⟨_, rfl, rfl⟩

end

end Sys2Proof.Machine
end

section
/-! SUPPORT. MSDUs as they are sent (11 R277-R294, 15 R380): what a transmission leaves of an MSDU, and what it changes beside the lane that
it leaves on. -/

namespace Sys2Proof.Machine

/-! ### What a transmission changes -/

/-- `b` is in the device state of `a` at the same sample under the same configuration; of encode lanes it may differ in lane `l`, of nodes
in `nh` and `hop`, and the broadcast queues are those of `a`. -/
structure Sends (l nh hop : Nat) (a b : Dev) : Prop where
  dev : b.dev = a.dev
  tb : b.tb = a.tb
  cfg : SameCfg a b
  bq : ∀ g, (b.group g).bq = (a.group g).bq
  enc : ∀ i, i ≠ l → b.enc i = a.enc i
  node : ∀ h, h ≠ nh → h ≠ hop → b.node h = a.node h

section
variable {l nh hop : Nat}

theorem Sends.trans {a b c : Dev} (h : Sends l nh hop a b) (k : Sends l nh hop b c) : Sends l nh hop a c :=
  ⟨k.dev.trans h.dev, k.tb.trans h.tb, h.cfg.trans k.cfg, fun g => (k.bq g).trans (h.bq g), fun i hi => (k.enc i hi).trans (h.enc i hi),
    fun i h1 h2 => (k.node i h1 h2).trans (h.node i h1 h2)⟩

theorem AtEnc.sends {a b : Dev} (h : AtEnc l a b) : Sends l nh hop a b :=
  ⟨h.1.dev, h.1.tb, h.1.2, fun g => by rw [h.1.group]; rfl, h.2, fun i _ _ => h.1.node i⟩

theorem Reports.sends {a b : Dev} (h : Reports a b) : Sends l nh hop a b := (h.atEnc l).sends

theorem Sends.refl (a : Dev) : Sends l nh hop a a := (Reports.refl a).sends

theorem ite_sends {d a b : Dev} {p : Prop} [Decidable p] (ha : Sends l nh hop d a) (hb : Sends l nh hop d b) :
    Sends l nh hop d (if p then a else b) := by split <;> assumption

theorem modNode_sends {i : Nat} (hi : i = nh ∨ i = hop) (d : Dev) (f : Node → Node) : Sends l nh hop d (d.modNode i f) :=
  ⟨rfl, rfl, fun _ _ => rfl, fun _ => rfl, fun _ _ => rfl, fun _ h1 h2 =>
    node_modNode_ne (fun e => hi.elim (fun k => h1 (e.trans k)) (fun k => h2 (e.trans k))) d f⟩

theorem modGroup_sends (d : Dev) (i : Nat) {f : Group → Group} (hf : ∀ x, (f x).bq = x.bq) : Sends l nh hop d (d.modGroup i f) := by
  refine ⟨rfl, rfl, fun _ _ => rfl, fun g => ?_, fun _ _ => rfl, fun _ _ _ => rfl⟩
  by_cases hg : g = i
  · rw [hg, group_modGroup_same, hf]
  · rw [group_modGroup_ne hg]

end

/-! ### The ACK span (11 Table LR.4) -/

theorem statusOff_wfCtrl (g : Nat) : statusOff (Reg.wfCtrl g) = false := by
  by_cases hg : g < 32
  · exact statusOff_group (o := 0x400) hg (by omega)
  · unfold Reg.wfCtrl
    exact statusOff_past_groups (by omega) (by omega) (by omega) (by omega)

theorem statusOff_gongGrp (g : Nat) : statusOff (Reg.gongGrp g) = false := by
  unfold Reg.gongGrp
  exact statusOff_past_groups (by omega) (by omega) (by omega) (by omega)

theorem SameCfg.fld {a b : Dev} (h : SameCfg a b) {off : Nat} (ho : statusOff off = false) (hi lo : Nat) :
    b.fld off hi lo = a.fld off hi lo := by
  rw [Dev.fld, h off ho, Dev.fld]

theorem SameCfg.ulGi {a b : Dev} (h : SameCfg a b) (g : Nat) : b.ulGi g = a.ulGi g := h.fld (statusOff_gongGrp g) 1 0

/-- The ACK span of a group follows from its configuration. -/
theorem SameCfg.ackSpan {a b : Dev} (h : SameCfg a b) (g gi : Nat) : b.ackSpan g gi = a.ackSpan g gi := by
  have hprof : b.profile g = a.profile g := h.fld (statusOff_wfCtrl g) 1 0
  have htw : b.twCode g = a.twCode g := h.fld (statusOff_wfCtrl g) 17 16
  rw [Dev.ackSpan, Dev.ackLen, hprof, htw, h.maskOf, Dev.ackSpan, Dev.ackLen]

/-! ### What a transmission leaves of an MSDU -/

/-- An MSDU without what its transmissions fix: its data and body, its numbers, and the beacon periods it has lived. -/
def Msdu.item (m : Msdu) : Msdu := { m with data := [], body := [], seq := 0, base := 0, sentOnce := true, life := 0, lifeBp := 0 }

section
variable {a b : Msdu} (h : a.item = b.item)
include h
theorem item_id : a.id = b.id := by have e := congrArg Msdu.id h; exact e
theorem item_nh : a.nh = b.nh := by have e := congrArg Msdu.nh h; exact e
theorem item_tries : a.tries = b.tries := by have e := congrArg Msdu.tries h; exact e
theorem item_blocks : a.blocks = b.blocks := by have e := congrArg Msdu.blocks h; exact e
theorem item_sent : a.sent = b.sent := by have e := congrArg Msdu.sent h; exact e
theorem item_faulty : a.faulty = b.faulty := by have e := congrArg Msdu.faulty h; exact e
end

theorem firstPoll_item (d : Dev) (m : Msdu) : (d.firstPoll m).1.item = m.item := by
  unfold Dev.firstPoll
  split <;> rfl

theorem dateUpdate_item (d : Dev) (m : Msdu) : (d.dateUpdate m).1.item = m.item := by
  unfold Dev.dateUpdate
  dsimp only
  split
  · split
    · split <;> rfl
    · split <;> rfl
  · rfl

theorem freshBody_item (d : Dev) (m : Msdu) : (d.freshBody m).item = m.item := by
  unfold Dev.freshBody
  split <;> rfl

theorem againTx_item (d : Dev) (m : Msdu) : (d.againTx m).item = m.item := by
  unfold Dev.againTx
  split
  · dsimp only
    split
    · split
      · exact freshBody_item d m
      · rfl
    · exact freshBody_item d m
  · rfl

theorem firstPoll_sends {l hop : Nat} (d : Dev) (m : Msdu) : Sends l m.nh hop d (d.firstPoll m).2 := by
  have chooses : Reports d (d.chooseFirst (leAt m.data 4 2)).2 := free_reports d
  unfold Dev.firstPoll
  split
  · dsimp only
    exact chooses.sends.trans (modNode_sends (.inl rfl) _ _)
  · exact Sends.refl d

theorem dateUpdate_sends {l nh hop : Nat} (d : Dev) (m : Msdu) : Sends l nh hop d (d.dateUpdate m).2 := by
  have fixes : ∀ i, Sends l nh hop d (d.fixBoundary i) := fun _ =>
    ⟨rfl, rfl, fun _ _ => rfl, fun _ => rfl, fun _ _ => rfl, fun _ _ _ => rfl⟩
  unfold Dev.dateUpdate
  dsimp only
  split
  · split
    · exact Sends.refl d
    · split
      · exact fixes _
      · exact Sends.refl d
  · exact Sends.refl d

/-- An MSDU as its first transmission finds it, with what that fixes ahead of the body. -/
def Dev.dated (d : Dev) (m : Msdu) : Msdu × Dev :=
  let a := d.firstPoll m
  let b := a.2.dateUpdate a.1
  (b.2.freshBody b.1, b.2)

theorem dated_item (d : Dev) (m : Msdu) : (d.dated m).1.item = m.item :=
  ((freshBody_item _ _).trans (dateUpdate_item _ _)).trans (firstPoll_item d m)

theorem dated_sends {l hop : Nat} (d : Dev) (m : Msdu) : Sends l m.nh hop d (d.dated m).2 :=
  (firstPoll_sends d m).trans (dateUpdate_sends _ _)

theorem firstTx_item (d : Dev) (m : Msdu) (hop : Nat) : (d.firstTx m hop).1.item = m.item := by
  refine Eq.trans ?_ (dated_item d m)
  unfold Dev.firstTx Dev.dated
  dsimp only
  split <;> rfl

theorem firstTx_sends {l : Nat} (d : Dev) (m : Msdu) (hop : Nat) : Sends l m.nh hop d (d.firstTx m hop).2 := by
  have hnh : (d.dated m).1.nh = m.nh := item_nh (dated_item d m)
  have counts : ∀ f, Sends l m.nh hop d (if (d.dated m).1.prot then (d.dated m).2.modNode (d.dated m).1.nh f else (d.dated m).2) :=
    fun f => ite_sends ((dated_sends d m).trans (modNode_sends (.inl hnh) _ f)) (dated_sends d m)
  unfold Dev.dated at counts
  unfold Dev.firstTx
  dsimp only at counts ⊢
  split
  · exact counts _
  · exact ((counts _).trans (modNode_sends (.inr rfl) _ _)).trans
      (modGroup_sends _ _ (f := fun g => { g with seqGiven := g.seqGiven + 1 }) fun _ => rfl)

end Sys2Proof.Machine
end

section
/-! SUPPORT. A frame to a neighbour (06 R156, R157, 11 R283, R287, 12 R316): the blocks that fit leave, or the check keeps them off. -/

namespace Sys2Proof.Machine

/-! ### Blocks sent -/

/-- The first `k` blocks of an MSDU that are still to be acknowledged. -/
def Msdu.firstBlocks (m : Msdu) (k : Nat) : List Nat := (m.blocks.take k).map (fun b => b.idx)

/-- `b` is `a` in flight with its first `k` blocks until its ACK span ends at `span`. -/
structure InFlight (a : Msdu) (k span : Nat) (b : Msdu) : Prop where
  id : b.id = a.id
  nh : b.nh = a.nh
  tries : b.tries = a.tries + 1
  blocks : b.blocks = a.blocks
  sent : b.sent = a.firstBlocks k
  spanEnd : b.spanEnd = some span

/-- A frame of `len` samples that starts at sample `n` with blocks of an MSDU of node `nh`. -/
structure Carries (n len id nh : Nat) (x : TxFrame) : Prop where
  start : x.start = n
  stop : x.stop = n + len
  msdu : x.msdu = id
  nh : x.nh = nh

/-- What is known of a frame's words does not matter to what it carries. -/
theorem Carries.of_sheer {n len id nh : Nat} {x y : TxFrame} (h : Carries n len id nh x) (e : y.sheer = x.sheer) :
    Carries n len id nh y := by
  have hstart : y.start = x.start := by have k := congrArg TxFrame.start e; exact k
  have hstop : y.stop = x.stop := by have k := congrArg TxFrame.stop e; exact k
  have hmsdu : y.msdu = x.msdu := by have k := congrArg TxFrame.msdu e; exact k
  have hnh : y.nh = x.nh := by have k := congrArg TxFrame.nh e; exact k
  exact ⟨hstart.trans h.start, hstop.trans h.stop, hmsdu.trans h.msdu, hnh.trans h.nh⟩

/-- A node's MSDU is in flight: its unacknowledged one, and in no queue. -/
def Dev.fly (d : Dev) (m : Msdu) : Dev :=
  d.modNode m.nh (fun n => { n with
    cur := some m, txq := n.txq.filter (fun x => decide (x.id ≠ m.id)), heldq := n.heldq.filter (fun x => decide (x.id ≠ m.id)) })

/-- The frame of an MSDU in flight leaves on its lane. -/
def Dev.launch (d : Dev) (l : Nat) (m : Msdu) (f : TxForm) (n next : Nat) (frame : TxFrame) : Dev :=
  (((d.fly m).begin l frame next).traceTx l m f n).markGroup m.grp

theorem launch_atEnc (d : Dev) (l : Nat) (m : Msdu) (f : TxForm) (n next : Nat) (frame : TxFrame) :
    AtEnc l (d.fly m) (d.launch l m f n next frame) :=
  (begin_atEnc _ l frame next).trans (((traceTx_reports _ l m f n).trans (markGroup_reports _ m.grp)).atEnc l)

theorem launch_frame (d : Dev) (l : Nat) (m : Msdu) (f : TxForm) (n next : Nat) (frame : TxFrame) :
    ((d.launch l m f n next frame).enc l).frame = some frame := by
  rw [Dev.launch, (markGroup_reports _ _).enc, (traceTx_reports _ _ _ _ _).enc, begin_frame]

/-- The MSDU and the device as blocks `idxs` are about to be sent: after a first transmission's numbers, or with the body that it has. -/
def Dev.dressed (d : Dev) (hop : Nat) (m : Msdu) (f : TxForm) (idxs : List Nat) (x : MemFaults) : Msdu × Dev :=
  let e := if f.miss then d.raise .mar 1 else d
  if m.sentOnce then (e.againTx (m.reading idxs x), e) else e.firstTx (m.reading idxs x) hop

theorem dressed_item (d : Dev) (hop : Nat) (m : Msdu) (f : TxForm) (idxs : List Nat) (x : MemFaults) :
    (d.dressed hop m f idxs x).1.item = (m.reading idxs x).item := by
  unfold Dev.dressed
  dsimp only
  split
  · exact againTx_item _ _
  · exact firstTx_item _ _ _

theorem dressed_sends {l : Nat} (d : Dev) (hop : Nat) (m : Msdu) (f : TxForm) (idxs : List Nat) (x : MemFaults) :
    Sends l m.nh hop d (d.dressed hop m f idxs x).2 := by
  have misses : Sends l m.nh hop d (if f.miss then d.raise .mar 1 else d) := ite_sends (raise_reports _ _ _).sends (Sends.refl d)
  unfold Dev.dressed
  dsimp only
  split
  · exact misses
  · exact misses.trans (firstTx_sends _ (m.reading idxs x) hop)

/-- A faulty cell read for a frame is counted and reported (18 R432, 21 R482). -/
def Dev.noteFault (d : Dev) (fault : Option Nat) (g : Nat) : Dev :=
  match fault with
  | some c => (d.count 39 7 2 none 1).faultEvent 0x01 c g 0
  | none => d

theorem noteFault_reports (d : Dev) (fault : Option Nat) (g : Nat) : Reports d (d.noteFault fault g) := by
  cases fault with
  | none => exact Reports.refl d
  | some c => exact (count_reports _ _ _ _ _ _).trans (faultEvent_reports _ _ _ _ _)

/-- What leaves as blocks `idxs` of an MSDU of group `g` are sent, those of `bad` spoilt in the lane's memory. -/
def sendDressed (r : Msdu × Dev) (l hop g : Nat) (again : Bool) (f : TxForm) (idxs bad : List Nat) : Dev :=
  let d := r.2
  let fault := r.1.faultAmong idxs
  let span := d.tb.n + f.len + d.ackSpan g (d.ulGi g)
  let m := { r.1 with tries := r.1.tries + 1, sent := idxs, spanEnd := some span,
                      ending := if fault.isSome ∨ bad ≠ [] then some stNoAck else r.1.ending }
  let frame := d.dataFrame l hop (m.touched bad) f idxs
  let d := d.noteFault fault m.grp
  let d := if again then d.nodeCount hop 5 1 else d
  d.launch l m f idxs.length (span + usSamples 16) frame

/-- Where the check lets the blocks go they are sent. -/
theorem sendUnicast_eq {d : Dev} {l hop k : Nat} {m : Msdu} {f : TxForm} (x : MemFaults)
    (hg : (d.gateFrame (d.enc l).outs f.len).1 = true) :
    d.sendUnicast l hop m k f x =
      sendDressed ((d.gateFrame (d.enc l).outs f.len).2.dressed hop m f (m.firstBlocks k) x) l hop m.grp m.sentOnce f
        (m.firstBlocks k) (touchedBlocks x (m.firstBlocks k)) :=
  if_neg (by rw [hg]; exact Bool.false_ne_true)

theorem sendDressed_eq (r : Msdu × Dev) (l hop g : Nat) (again : Bool) (f : TxForm) (idxs bad : List Nat) :
    ∃ (e : Dev) (m : Msdu) (n next : Nat) (frame : TxFrame), Sends l r.1.nh hop r.2 e ∧
      m = { r.1 with tries := r.1.tries + 1, sent := idxs, ending := m.ending
                     spanEnd := some (r.2.tb.n + f.len + r.2.ackSpan g (r.2.ulGi g)) } ∧
      Carries r.2.tb.n f.len r.1.id r.1.nh frame ∧ sendDressed r l hop g again f idxs bad = e.launch l m f n next frame := by
  refine ⟨_, _, _, _, _, ?_, ?_, ?_, rfl⟩
  · exact (noteFault_reports _ _ _).sends.trans (ite_sends (modNode_sends (.inr rfl) _ _) (Sends.refl _))
  · rfl
  · exact ⟨rfl, rfl, rfl, rfl⟩

/-- The blocks that fit leave on their lane where the check lets them. -/
theorem sendUnicast_pass {d : Dev} {l hop k : Nat} {m : Msdu} {f : TxForm} (x : MemFaults)
    (hg : (d.gateFrame (d.enc l).outs f.len).1 = true) :
    ∃ (e : Dev) (m' : Msdu) (n next : Nat) (frame : TxFrame), Sends l m.nh hop d e ∧
      InFlight m k (d.tb.n + f.len + d.ackSpan m.grp (d.ulGi m.grp)) m' ∧ Carries d.tb.n f.len m.id m.nh frame ∧
      d.sendUnicast l hop m k f x = e.launch l m' f n next frame := by
  have hitem := dressed_item d hop m f (m.firstBlocks k) x
  have hid : (d.dressed hop m f (m.firstBlocks k) x).1.id = m.id := (item_id hitem).trans rfl
  have hnh : (d.dressed hop m f (m.firstBlocks k) x).1.nh = m.nh := (item_nh hitem).trans rfl
  have htries : (d.dressed hop m f (m.firstBlocks k) x).1.tries = m.tries := (item_tries hitem).trans rfl
  have hblocks : (d.dressed hop m f (m.firstBlocks k) x).1.blocks = m.blocks := (item_blocks hitem).trans rfl
  have hsends : Sends l m.nh hop d _ := dressed_sends d hop m f (m.firstBlocks k) x
  rw [sendUnicast_eq x hg, gateFrame_pass hg]
  obtain ⟨e, m', n, next, frame, he, hm, hframe, heq⟩ := sendDressed_eq (d.dressed hop m f (m.firstBlocks k) x) l hop m.grp m.sentOnce f
    (m.firstBlocks k) (touchedBlocks x (m.firstBlocks k))
  rw [hnh] at he
  rw [hnh, hid, hsends.tb] at hframe
  rw [hsends.tb, hsends.cfg.ulGi, hsends.cfg.ackSpan] at hm
  refine ⟨e, m', n, next, frame, hsends.trans he, ?_, hframe, heq⟩
  rw [hm]
  exact ⟨hid, hnh, congrArg (· + 1) htries, hblocks, rfl, rfl⟩

/-- A lane that is kept off is free again after the frame's span. -/
theorem sendUnicast_kept_off {d : Dev} {l hop k : Nat} {m : Msdu} {f : TxForm} (x : MemFaults)
    (hg : (d.gateFrame (d.enc l).outs f.len).1 = false) :
    d.sendUnicast l hop m k f x = (d.gateFrame (d.enc l).outs f.len).2.holdOff l f.len :=
  if_pos (by rw [hg]; rfl)

/-! ### The next MSDU (10 R256, 11 R287) -/

/-- An MSDU that has its cells asks for none. -/
theorem cellsFor_of_blocks {m : Msdu} (h : m.blocks ≠ []) (d : Dev) : d.cellsFor m = some (m, d) := by
  unfold Dev.cellsFor
  rw [List.isEmpty_eq_false_iff.2 h, Bool.and_false]
  rfl

/-- The next MSDU to a neighbour, one already sent or without protection, is sent with as many blocks as fit. -/
theorem txUnicast_eq {d : Dev} {l hop k : Nat} {rel : Bool} {m : Msdu} {f : TxForm} (x : MemFaults) (hm : d.nextMsdu l hop rel = some m)
    (hp : m.sentOnce = true ∨ m.prot = false) (hb : m.blocks ≠ [])
    (hf : d.fitBlocks l hop d.tb.n m.mgmt true m.blocks.length = some (k, f)) : d.txUnicast l hop rel x = d.sendUnicast l hop m k f x := by
  have hkey : ¬ (x.key ∧ m.prot ∧ !m.sentOnce) := by
    rintro ⟨-, h1, h2⟩
    rcases hp with h | h
    · rw [h] at h2; cases h2
    · rw [h] at h1; cases h1
  have hauth : ¬ (!m.sentOnce ∧ m.prot ∧ (d.txSlot m.nh).isNone) := fun ⟨h1, h2, _⟩ => by
    rcases hp with h | h
    · rw [h] at h1; cases h1
    · rw [h] at h2; cases h2
  unfold Dev.txUnicast
  simp only [hm, if_neg hkey, if_neg hauth, cellsFor_of_blocks hb, hf, ite_self]

end Sys2Proof.Machine
end

section
/-! SUPPORT. FRAME_TX_START of a node's next MSDU (06 R156, R157, 11 R283, R287, 12 R316). -/

namespace Sys2Proof.Machine

/-! ### The start of a frame as a step -/

/-- A lane that is bound to an entry and free, in RUN. -/
structure LaneFree (d : Dev) (l : Nat) (e : EncEntry) : Prop where
  run : d.dev = .run
  bound : (d.enc l).bound = some e
  idle : (d.enc l).idle d.tb.n = true

/-- FRAME_TX_START ends in the device that its effect leaves, with what is known of the frame's words. -/
theorem frameTxStart_next (l : Fin 96) (what : TxWhat) (w : LaneWrites) (x : MemFaults) (s : State) :
    ∃ t, exec (.frameTxStart l what w x) s = .next t ∧ t.pending = s.pending ∧
      t.dev = ((frameTxStartEffect l what x s.dev.fresh).withWrites s.dev.fresh l w x.lane.isSome).fresh :=
  run_fresh (fun d => (frameTxStartEffect l what x d).withWrites d l w x.lane.isSome) s

section
variable {d : Dev} {l : Nat} {e : EncEntry} (h : LaneFree d l e) (x : MemFaults)
include h

theorem LaneFree.passes : ¬ (d.dev ≠ .run ∨ !(d.enc l).idle d.tb.n) := by
  rw [h.run, h.idle]
  simp

/-- An allocation of downlink data to a node that is not DORMANT, or a poll window with its release part open, sends to its node. -/
theorem frameTxStartEffect_node {hop : Nat} {rel : Bool} (hn : d.entryNode (d.enc l).grp e.addr = some hop)
    (hk : (e.kind = kindData ∧ e.dir = false ∧ (d.node hop).st ≠ .dormant ∧ rel = false) ∨
      (e.kind = kindPoll ∧ d.releaseOpen l e hop = true ∧ rel = true)) :
    frameTxStartEffect l .node x d = d.txUnicast l hop rel x := by
  unfold frameTxStartEffect
  simp only [h.bound, if_neg h.passes, hn]
  rcases hk with ⟨hkind, hdir, hst, rfl⟩ | ⟨hkind, hopen, rfl⟩
  · rw [if_pos ⟨hkind, by rw [hdir]; rfl, hst⟩]
  · rw [if_neg (fun k => absurd (hkind.symm.trans k.1) (by decide)), if_pos hopen]

end

/-! ### The two outcomes -/

section
variable {s : State} {l : Fin 96} {e : EncEntry} {hop k : Nat} {rel : Bool} {m : Msdu} {f : TxForm} (w : LaneWrites) (x : MemFaults)
  (heff : frameTxStartEffect l .node x s.dev.fresh = s.dev.fresh.sendUnicast l hop m k f x)
include heff

/-- A frame that passes the check leaves on its lane, and its MSDU is the node's unacknowledged one. -/
theorem frameTxStart_sent (hg : (s.dev.fresh.gateFrame (s.dev.enc l).outs f.len).1 = true) :
    ∃ t y m', exec (.frameTxStart l .node w x) s = .next t ∧ t.pending = s.pending ∧ Sends l m.nh hop s.dev t.dev ∧
      (t.dev.enc l).frame = some y ∧ Carries s.dev.tb.n f.len m.id m.nh y ∧ (t.dev.node m.nh).cur = some m' ∧
      InFlight m k (s.dev.tb.n + f.len + s.dev.ackSpan m.grp (s.dev.ulGi m.grp)) m' := by
  obtain ⟨t, ht, hp, hdev⟩ := frameTxStart_next l .node w x s
  obtain ⟨a, m', n, next, frame, ha, hm', hframe, hlaunch⟩ := sendUnicast_pass (d := s.dev.fresh) (hop := hop) (k := k) (m := m) x hg
  rw [heff, hlaunch] at hdev
  obtain ⟨y, hy, hsheer⟩ := withWrites_frame s.dev.fresh l w x.lane.isSome (launch_frame a l m' f n next frame)
  have htail : AtEnc l (a.fly m') t.dev := by
    rw [hdev]
    exact ((launch_atEnc a l m' f n next frame).trans (withWrites_atEnc _ _ l w _)).trans ((fresh_reports _).atEnc l)
  have hfly : Sends l m.nh hop a (a.fly m') := modNode_sends (.inl hm'.nh) a _
  refine ⟨t, y, m', ht, hp, (((fresh_reports s.dev).sends.trans ha).trans hfly).trans htail.sends, ?_, hframe.of_sheer hsheer, ?_, hm'⟩
  · rw [hdev, fresh_enc, hy]
  · have hnode : t.dev.node m.nh = (a.fly m').node m.nh := htail.1.node m.nh
    rw [hnode, Dev.fly, hm'.nh, node_modNode_same]

/-- A frame that the check keeps off changes what its lane waits for, and shows on a port. -/
theorem frameTxStart_kept_off (hg : (s.dev.fresh.gateFrame (s.dev.enc l).outs f.len).1 = false) :
    ∃ t, exec (.frameTxStart l .node w x) s = .next t ∧ t.pending = s.pending ∧ (t.dev.enc l).frame = (s.dev.enc l).frame ∧
      (t.dev.enc l).nextAt = s.dev.tb.n + f.len ∧ Reports { s.dev with encs := t.dev.encs } t.dev ∧
      ∃ p ∈ (s.dev.enc l).outs, t.dev.ShowsKeptOff p := by
  have hr : Reports s.dev (s.dev.fresh.gateFrame (s.dev.enc l).outs f.len).2 := (fresh_reports s.dev).trans (gateFrame_reports _ _ _)
  have hlane : ((s.dev.fresh.gateFrame (s.dev.enc l).outs f.len).2.holdOff l f.len).enc l =
      { s.dev.enc l with nextAt := s.dev.tb.n + f.len } := by
    rw [Dev.holdOff, enc_modEnc_same, hr.enc, hr.tb]
  have hsame : (((s.dev.fresh.gateFrame (s.dev.enc l).outs f.len).2.holdOff l f.len).enc l).frame = (s.dev.fresh.enc l).frame := by
    rw [hlane, fresh_enc]
  obtain ⟨t, ht, hp, hdev⟩ := frameTxStart_next l .node w x s
  rw [heff, sendUnicast_kept_off (d := s.dev.fresh) x hg, fresh_enc, withWrites_same _ _ _ _ _ hsame] at hdev
  obtain ⟨p, hout, hshows⟩ := gateFrame_fail hg
  refine ⟨t, ht, hp, ?_⟩
  rw [hdev, fresh_enc, hlane]
  exact ⟨rfl, rfl, (hr.set_encs _).trans (fresh_reports _), p, hout, hshows⟩

end

end Sys2Proof.Machine
end

section
/-! SUPPORT. FRAME_TX_START of a broadcast MSDU (15 R380): as many of the blocks still to be sent as fit, and what stays of it in its
queue; what the end of an MSDU leaves of the encode lanes. -/

namespace Sys2Proof.Machine

/-! ### The end of an MSDU changes no encode lane -/

theorem ite_encs {d a b : Dev} {p : Prop} [Decidable p] (ha : a.encs = d.encs) (hb : b.encs = d.encs) :
    (if p then a else b).encs = d.encs := by split <;> assumption

theorem endMsdu_encs (d : Dev) (m : Msdu) (st : Nat) (report : Bool) : (d.endMsdu m st report).encs = d.encs := by
  unfold Dev.endMsdu
  have seqs : ∀ x : Dev, (if m.sentOnce ∧ !m.bcast then
      x.modGroup m.grp (fun g => { g with seqDone := g.seqDone + 1 }) else x).encs = x.encs := fun x => ite_encs rfl rfl
  have counts : ∀ x : Dev, (if st = stNoAck ∧ !m.bcast then x.nodeCount m.nh 6 1 else x).encs = x.encs := fun x => ite_encs rfl rfl
  refine ((trace_reports _ _ _ _ _ _).trans (markGroup_reports _ _)).encs.trans (Eq.trans ?_ ((counts _).trans ((seqs _).trans
    (consumed_reports (d.freePools m.grp (m.blocks.map (fun b => b.pool))) m.queue (decide (st = stFlushed))).encs)))
  cases m.origin with
  | host ring idx cookie => exact ite_encs (complete_reports _ _ _).encs (flushItem_reports _ _).encs
  | fwd ingress grp seq => exact ite_encs ((raise_reports _ _ _).trans (event_reports _ _ _ _ _)).encs rfl
  | own code tag cmd => rfl

theorem produced_reports (d : Dev) (q : Option Nat) : Reports d (d.produced q) := by
  cases q with
  | none => exact Reports.refl d
  | some q => exact modAcct_reports d _ _

theorem hold_encs (d : Dev) (m : Msdu) : (d.hold m).encs = d.encs :=
  (markGroup_reports _ _).encs.trans ((consumed_reports d m.queue false).trans (produced_reports _ _)).encs

theorem holdQueued_encs (d : Dev) (nh : Nat) : (d.holdQueued nh).encs = d.encs := by
  unfold Dev.holdQueued
  exact foldl_keeps Dev.encs (fun x m => ite_encs ((endMsdu_encs _ _ _ _).trans (raise_reports _ _ _).encs) (hold_encs x m)) _ _

theorem nodeState_encs (d : Dev) (nh : Nat) (st : NodeState) (reason : Nat) : (d.nodeState nh st reason).encs = d.encs :=
  (event_reports _ _ _ _ _).encs

theorem noteClip_reports (d : Dev) (nh : Nat) : Reports d (d.noteClip nh) := by
  unfold Dev.noteClip
  dsimp only
  split
  · exact ite_reports (raise_reports _ _ _) (Reports.refl d)
  · exact Reports.refl d

theorem unhold_encs (d : Dev) (nh : Nat) : (d.unhold nh).encs = d.encs := by
  unfold Dev.unhold
  refine (markGroup_reports _ _).encs.trans ?_
  exact foldl_keeps Dev.encs (fun x m => ite_encs rfl ((consumed_reports x _ _).trans (produced_reports _ _)).encs) _ d

theorem wake_encs (d : Dev) (nh : Nat) : (d.wake nh).encs = d.encs := (nodeState_encs _ _ _ _).trans (unhold_encs d nh)

theorem updateUnsent_encs (d : Dev) (m : Msdu) : (d.updateUnsent m).encs = d.encs := by
  unfold Dev.updateUnsent
  split
  · exact ite_encs rfl rfl
  · rfl

theorem sendOwn_encs (d : Dev) (nh code tag : Nat) (cmd : Option Nat) (body : List Byte) : (d.sendOwn nh code tag cmd body).encs = d.encs :=
  ite_encs rfl rfl

theorem ownDone_encs (d : Dev) (m : Msdu) (st : Nat) : (d.ownDone m st).encs = d.encs := by
  have opt : ∀ (x : Dev) (cmd : Option Nat) (st : Nat), (x.finishOpt cmd st).encs = x.encs := fun x cmd st =>
    (finishOpt_reports x cmd st).encs
  have fin : ∀ (x : Dev) (id st : Nat) (q : List Byte), (x.finish id st q).encs = x.encs := fun x id st q =>
    (finish_reports x id st q).encs
  unfold Dev.ownDone
  dsimp only
  split
  · exact ite_encs rfl (ite_encs (sendOwn_encs _ _ _ _ _ _) (updateUnsent_encs d m))
  · rfl
  · refine ite_encs (ite_encs ?_ (opt _ _ _)) (opt _ _ _)
    exact (opt _ _ _).trans ((noteClip_reports _ _).encs.trans ((holdQueued_encs _ _).trans (nodeState_encs _ _ _ _)))
  · exact ite_encs ((opt _ _ _).trans (ite_encs (wake_encs _ _) rfl)) (opt _ _ _)
  · split
    · rfl
    · exact ite_encs (fin _ _ _ _) (ite_encs (fin _ _ _ _) (fin _ _ _ _))
  · split
    · rfl
    · split
      · rfl
      · exact ite_encs (fin _ _ _ _) (ite_encs (fin _ _ _ _) rfl)
  · exact opt _ _ _
  · rfl

theorem finishMsdu_encs (d : Dev) (m : Msdu) (st : Nat) : (d.finishMsdu m st).encs = d.encs :=
  (ownDone_encs _ _ _).trans (endMsdu_encs _ _ _ _)

/-! ### The first in sending order -/

theorem mem_of_firstMsdu {ms : List Msdu} {m : Msdu} (h : firstMsdu ms = some m) : m ∈ ms := by
  have mem : ∀ a, ms.foldl (fun (a : Option Msdu) m => match a with | none => some m | some b => some (msduFirst b m)) a = some m →
      a = some m ∨ m ∈ ms := by
    clear h
    induction ms with
    | nil => exact fun a h => .inl h
    | cons x ms ih =>
      intro a h
      rcases ih _ h with h | h
      · cases a with
        | none => exact .inr (List.mem_cons.2 (.inl (Option.some.inj h).symm))
        | some b =>
          have hx : msduFirst b x = b ∨ msduFirst b x = x := by
            unfold msduFirst
            split <;> split <;> simp
          have hm : msduFirst b x = m := Option.some.inj h
          rcases hx with e | e
          · exact .inl (congrArg some (e.symm.trans hm))
          · exact .inr (List.mem_cons.2 (.inl (hm.symm.trans e)))
      · exact .inr (List.mem_cons_of_mem _ h)
  exact (mem none h).resolve_left (fun e => nomatch e)

/-! ### Blocks broadcast -/

/-- The blocks of a broadcast MSDU still to be sent. -/
def Msdu.unsent (m : Msdu) : List Nat := (m.blocks.map (fun b => b.idx)).filter (fun i => !m.sent.contains i)

/-- What becomes of a broadcast MSDU as its frame with `k` of `n` blocks starts: it stays with what is sent while blocks remain and none
was spoilt (15 R380). -/
def Dev.castOver (d : Dev) (g : Nat) (m : Msdu) (spoilt : Bool) (k n : Nat) : Dev :=
  if spoilt ∨ k = n then
    (d.modGroup g (fun x => { x with bq := (d.group g).bq.filter (fun x => decide (x.id ≠ m.id)) })).finishMsdu m
      (if spoilt then stNoAck else stOk)
  else d.modGroup g (fun x => { x with bq := x.bq.map (fun y => if y.id = m.id then m else y) })

theorem castOver_encs (d : Dev) (g : Nat) (m : Msdu) (spoilt : Bool) (k n : Nat) : (d.castOver g m spoilt k n).encs = d.encs :=
  ite_encs (finishMsdu_encs _ _ _) rfl

theorem mem_castOver {d : Dev} {g k n : Nat} {m y : Msdu} (hk : k < n) (hy : y ∈ (d.group g).bq) (hid : y.id = m.id) :
    m ∈ ((d.castOver g m false k n).group g).bq := by
  rw [Dev.castOver, if_neg (by simp [Nat.ne_of_lt hk]), group_modGroup_same]
  exact List.mem_map.2 ⟨y, hy, if_pos hid⟩

/-- A broadcast MSDU with blocks `idxs` sent. -/
def Msdu.castSent (m : Msdu) (idxs : List Nat) : Msdu := { m with tries := m.tries + 1, sent := m.sent ++ idxs }

/-- What leaves as blocks `idxs` of a broadcast MSDU are sent, those of `bad` spoilt in the lane's memory. -/
def castDressed (r : Msdu × Dev) (l g : Nat) (f : TxForm) (idxs bad : List Nat) (n k : Nat) : Dev :=
  let m := r.1.castSent idxs
  let frame := r.2.dataFrame l 0 (m.touched bad) f idxs
  let fault := m.faultAmong idxs
  let d := r.2.noteFault fault g
  let d := (d.begin l frame (frame.stop + usSamples 16)).traceTx l m f idxs.length
  d.castOver g m (fault.isSome || decide (bad ≠ [])) k n

/-- The first broadcast MSDU that the slot's start found is sent where the check lets it, with as many blocks as fit. -/
theorem txBroadcast_eq {d : Dev} {l k : Nat} {m : Msdu} {f : TxForm} (x : MemFaults)
    (hm : firstMsdu ((d.group (d.enc l).grp).bq.filter (fun m => (d.enc l).fill.contains m.id)) = some m) (hb : m.blocks ≠ [])
    (hf : d.fitBlocks l 0 d.tb.n true false m.unsent.length = some (k, f)) (hg : (d.gateFrame (d.enc l).outs f.len).1 = true) :
    d.txBroadcast l x =
      castDressed (if m.sentOnce then (m.reading (m.unsent.take k) x, d) else d.firstTx (m.reading (m.unsent.take k) x) 0) l (d.enc l).grp f
        (m.unsent.take k) (touchedBlocks x (m.unsent.take k)) m.unsent.length k := by
  unfold Msdu.unsent at hf
  unfold Dev.txBroadcast
  simp only [hm, cellsFor_of_blocks hb, hf]
  exact if_neg (by rw [hg]; exact Bool.false_ne_true)

theorem enc_of_encs {a b : Dev} (h : b.encs = a.encs) (l : Nat) : b.enc l = a.enc l := by
  unfold Dev.enc
  rw [h]

section
variable (r : Msdu × Dev) (l g : Nat) (f : TxForm) (idxs bad : List Nat) (n k : Nat)

theorem castDressed_frame :
    ∃ y, ((castDressed r l g f idxs bad n k).enc l).frame = some y ∧ Carries r.2.tb.n f.len r.1.id r.1.nh y := by
  unfold castDressed
  dsimp only
  rw [enc_of_encs (castOver_encs _ _ _ _ _ _), (traceTx_reports _ _ _ _ _).enc, begin_frame]
  exact ⟨_, rfl, rfl, rfl, rfl, rfl⟩

/-- An MSDU that is not spoilt and has blocks left stays in its queue, with what is sent. -/
theorem castDressed_stays (hk : k < n) (hbad : bad = []) (hfault : r.1.faulty = []) {y : Msdu} (hy : y ∈ (r.2.group g).bq)
    (hid : y.id = r.1.id) :
    r.1.castSent idxs ∈ ((castDressed r l g f idxs bad n k).group g).bq := by
  have hfine : (r.1.castSent idxs).faultAmong idxs = none := by
    rw [Msdu.faultAmong, Msdu.castSent, hfault]
    rfl
  unfold castDressed
  dsimp only
  rw [hfine, hbad]
  refine mem_castOver hk (y := y) ?_ hid
  rw [(traceTx_reports _ _ _ _ _).group, (begin_atEnc _ l _ _).1.group]
  exact hy

end

/-- The MSDU and the device as blocks `idxs` of a broadcast MSDU are about to be sent. -/
def Dev.castBegun (d : Dev) (m : Msdu) (idxs : List Nat) (x : MemFaults) : Msdu × Dev :=
  if m.sentOnce then (m.reading idxs x, d) else d.firstTx (m.reading idxs x) 0

theorem castBegun_item (d : Dev) (m : Msdu) (idxs : List Nat) (x : MemFaults) :
    (d.castBegun m idxs x).1.item = (m.reading idxs x).item := by
  unfold Dev.castBegun
  split
  · rfl
  · exact firstTx_item _ _ _

theorem castBegun_sends {l : Nat} (d : Dev) (m : Msdu) (idxs : List Nat) (x : MemFaults) : Sends l m.nh 0 d (d.castBegun m idxs x).2 := by
  unfold Dev.castBegun
  split
  · exact Sends.refl d
  · exact firstTx_sends d (m.reading idxs x) 0

/-- A broadcast MSDU leaves on the lane of an allocation to all, and stays while blocks remain and nothing read for its frame is faulty. -/
theorem frameTxStart_broadcast {s : State} {l : Fin 96} {e : EncEntry} {k : Nat} {m : Msdu} {f : TxForm} (w : LaneWrites) (x : MemFaults)
    (h : LaneFree s.dev.fresh l e) (hk : e.kind = kindData ∧ e.dir = false ∧ e.addr = addrAll)
    (hm : firstMsdu ((s.dev.group (s.dev.enc l).grp).bq.filter (fun m => (s.dev.enc l).fill.contains m.id)) = some m) (hb : m.blocks ≠ [])
    (hfaulty : m.faulty = []) (hf : s.dev.fresh.fitBlocks l 0 s.dev.tb.n true false m.unsent.length = some (k, f))
    (hg : (s.dev.fresh.gateFrame (s.dev.enc l).outs f.len).1 = true) :
    ∃ t y, exec (.frameTxStart l .broadcast w x) s = .next t ∧ t.pending = s.pending ∧ (t.dev.enc l).frame = some y ∧
      Carries s.dev.tb.n f.len m.id m.nh y ∧
      (x.cells = [] → x.lane = none → k < m.unsent.length →
        ∃ z ∈ (t.dev.group (s.dev.enc l).grp).bq, z.id = m.id ∧ z.sent = m.sent ++ m.unsent.take k) := by
  have hbegun := castBegun_item s.dev.fresh m (m.unsent.take k) x
  have hid : (s.dev.fresh.castBegun m (m.unsent.take k) x).1.id = m.id := (item_id hbegun).trans rfl
  have hnh : (s.dev.fresh.castBegun m (m.unsent.take k) x).1.nh = m.nh := (item_nh hbegun).trans rfl
  have hsent : (s.dev.fresh.castBegun m (m.unsent.take k) x).1.sent = m.sent := (item_sent hbegun).trans rfl
  have hsends : Sends l m.nh 0 s.dev.fresh _ := castBegun_sends s.dev.fresh m (m.unsent.take k) x
  have heff : frameTxStartEffect l .broadcast x s.dev.fresh = s.dev.fresh.txBroadcast l x := by
    unfold frameTxStartEffect
    simp only [h.bound, if_neg h.passes]
    exact if_pos ⟨hk.1, by rw [hk.2.1]; rfl, hk.2.2⟩
  obtain ⟨t, ht, hp, hdev⟩ := frameTxStart_next l .broadcast w x s
  rw [heff, txBroadcast_eq (d := s.dev.fresh) x hm hb hf hg, ← Dev.castBegun] at hdev
  obtain ⟨y, hy, hcarries⟩ := castDressed_frame (s.dev.fresh.castBegun m (m.unsent.take k) x) l (s.dev.fresh.enc l).grp f (m.unsent.take k)
    (touchedBlocks x (m.unsent.take k)) m.unsent.length k
  rw [hid, hnh, hsends.tb] at hcarries
  obtain ⟨z, hz, hsheer⟩ := withWrites_frame s.dev.fresh l w x.lane.isSome hy
  refine ⟨t, z, ht, hp, by rw [hdev, fresh_enc, hz], hcarries.of_sheer hsheer, fun hcells hlane hlt => ?_⟩
  have hbad : touchedBlocks x (m.unsent.take k) = [] := by rw [touchedBlocks, hlane]; rfl
  have hfault : (s.dev.fresh.castBegun m (m.unsent.take k) x).1.faulty = [] := by
    refine (item_faulty hbegun).trans ?_
    rw [Msdu.reading, hfaulty, hcells]
    rfl
  have hin : m ∈ ((s.dev.fresh.castBegun m (m.unsent.take k) x).2.group (s.dev.enc l).grp).bq := by
    rw [hsends.bq]
    exact (List.mem_filter.1 (mem_of_firstMsdu hm)).1
  have hstays := castDressed_stays (s.dev.fresh.castBegun m (m.unsent.take k) x) l (s.dev.enc l).grp f (m.unsent.take k) _
    m.unsent.length k hlt hbad hfault hin hid.symm
  have hgrp : t.dev.group (s.dev.enc l).grp =
      (castDressed (s.dev.fresh.castBegun m (m.unsent.take k) x) l (s.dev.enc l).grp f (m.unsent.take k)
        (touchedBlocks x (m.unsent.take k)) m.unsent.length k).group (s.dev.enc l).grp := by
    rw [hdev]
    exact (withWrites_atEnc _ _ l w _).1.group _
  rw [hgrp]
  exact ⟨_, hstays, hid, congrArg (· ++ m.unsent.take k) hsent⟩

end Sys2Proof.Machine
end

section
/-! SUPPORT. FRAME_TX_START of a sounding session (09 R221, R222), and what O55 says of the three kinds of frames. -/

namespace Sys2Proof.Machine

/-! ### Frame control (07 R175) -/

theorem bits_ofNat128_low (x : Nat) : bits (BitVec.ofNat 128 x).toNat 3 0 = bits x 3 0 := by
  simp only [bits, BitVec.toNat_ofNat]
  omega

/-- The CRC leaves the frame type. -/
theorem fcFt_fcSeal (fc : BitVec 128) : fcFt (fcSeal fc) = fcFt fc := by
  refine iter_keeps (fun x => fcFt x = fcFt fc) _ (fun i x hx => ?_) 16 rfl
  have hset : bits (setBits x.toNat (112 + i) (112 + i) (b2n (bit (crc16Fc (fcBits fc)) (15 - i)))) 3 0 = bits x.toNat 3 0 :=
    bits_setBits_apart (Nat.le_refl _) (by omega) (.inl (by omega)) _ _
  rw [← hx, fcFt, fcField, fcSet, bits_ofNat128_low, hset]
  rfl

/-- A SOUND frame is one by its frame control. -/
theorem fcFt_fcSound (gi : Nat) (mimo : Bool) (dst src nsym segreq id seq last : Nat) (report : Bool) :
    fcFt (fcSound gi mimo dst src nsym segreq id seq last report) = ftSound := by
  rw [fcSound, fcFt_fcSeal, fcCommon, ← BitVec.ofNat_add, fcFt, fcField, bits_ofNat128_low]
  simp only [bits, ftSound]
  omega

/-! ### A sounding frame -/

/-- The identifier of a session's frames is the device's own: nothing else changes. -/
theorem soundId_eq (d : Dev) (s : Sess) : ∃ n ids, (d.soundId s).2 = { d with freeCtr := n, sndId := ids } := by
  unfold Dev.soundId
  dsimp only
  split
  · exact ⟨_, _, rfl⟩
  · exact ⟨_, _, rfl⟩

/-- What leaves as a frame of `len` samples of a session is sent under an identifier. -/
def soundDressed (i : Nat × Dev) (s : Sess) (l g nh seq last nsym len : Nat) (mimo : Bool) : Dev :=
  let d := i.2.modSess s.id (fun s => { s with frames := seq + 1, lastFr := last })
  let fc := fcSound (d.ulGi g) mimo (d.node nh).saddr 0 nsym s.segs i.1 seq last true
  let sy := wholeFrame (d.profile g) (d.maskOf g) (d.fld (Reg.ffCtrl g) 21 16) fc mimo
    (soundSymbols (d.profile g) (d.maskOf g) mimo nsym)
  let frame : TxFrame := { fc := fc, grp := g, nh := nh, msdu := 0, form := 4, rate := 0, symbols := sy.1, stream1 := sy.2
                           tw := d.twCode g, fcs := fcSymbols (d.profile g) (d.maskOf g), mimo := mimo, late := [], badS := []
                           start := d.tb.n, stop := d.tb.n + len }
  d.begin l frame (frame.stop + usSamples 16)

/-- A session whose frame `seq` has been sent. -/
def Sess.framed (seq last : Nat) (s : Sess) : Sess := { s with frames := seq + 1, lastFr := last }

theorem soundDressed_frame (i : Nat × Dev) (s : Sess) (l g nh seq last nsym len : Nat) (mimo : Bool) :
    ∃ y, ((soundDressed i s l g nh seq last nsym len mimo).enc l).frame = some y ∧ Carries i.2.tb.n len 0 nh y ∧ fcFt y.fc = ftSound := by
  unfold soundDressed
  dsimp only
  rw [begin_frame]
  exact ⟨_, rfl, ⟨rfl, rfl, rfl, rfl⟩, fcFt_fcSound _ _ _ _ _ _ _ _ _ _⟩

theorem soundDressed_atEnc (i : Nat × Dev) (s : Sess) (l g nh seq last nsym len : Nat) (mimo : Bool) :
    AtEnc l (i.2.modSess s.id (Sess.framed seq last)) (soundDressed i s l g nh seq last nsym len mimo) := begin_atEnc _ l _ _

section
variable {d : Dev} {l nh seq last nsym : Nat} {e : EncEntry} {s : Sess}

/-- A session's frame that fills its allocation is sent where the check lets it. -/
theorem txSound_eq (hs : d.openOf nh false = some s) (hbp : s.endBp = some d.msync.bpi) (ha : e.addr = (d.node nh).saddr)
    (hseq : s.frames ≤ seq)
    (hlast : last + 1 = (soundAllocs (d.planFor (d.enc l).grp d.msync.bpi) (d.node nh).saddr false).length)
    (hmine : ((soundAllocs (d.planFor (d.enc l).grp d.msync.bpi) (d.node nh).saddr false)[seq]?).map (fun a => (a.start, a.len)) =
      some (e.start, e.len))
    (hn : nsym = d.soundRoom (d.enc l).grp (decide (e.cpl = 2)) (d.samplesTo (e.start + e.len))) (hz : nsym ≠ 0) {len : Nat}
    (hlen : len = frameLen (d.profile (d.enc l).grp) (d.maskOf (d.enc l).grp) (d.ulGi (d.enc l).grp) (d.twCode (d.enc l).grp) 0
      (decide (e.cpl = 2)) nsym)
    (hg : (d.gateFrame (d.enc l).outs len).1 = true) :
    d.txSound l e nh seq last nsym = soundDressed (d.soundId s) s l (d.enc l).grp nh seq last nsym len (decide (e.cpl = 2)) := by
  have hplace : ¬ (s.endBp ≠ some d.msync.bpi ∨ e.addr ≠ (d.node nh).saddr ∨ seq < s.frames ∨
      last + 1 ≠ (soundAllocs (d.planFor (d.enc l).grp d.msync.bpi) (d.node nh).saddr false).length ∨
      ((soundAllocs (d.planFor (d.enc l).grp d.msync.bpi) (d.node nh).saddr false)[seq]?).map (fun a => (a.start, a.len)) ≠
        some (e.start, e.len) ∨ nsym = 0 ∨
      nsym ≠ d.soundRoom (d.enc l).grp (decide (e.cpl = 2)) (d.samplesTo (e.start + e.len))) := by
    rintro (h | h | h | h | h | h | h)
    · exact h hbp
    · exact h ha
    · exact absurd h (Nat.not_lt.2 hseq)
    · exact h hlast
    · exact h hmine
    · exact hz h
    · exact h hn
  subst hlen
  unfold Dev.txSound
  rw [hs]
  refine (if_neg hplace).trans ((if_neg (by rw [hg]; exact Bool.false_ne_true)).trans ?_)
  rw [gateFrame_pass hg]
  rfl

end
/-- A frame of a session placed here leaves on the lane of its allocation and is noted in the session. -/
theorem frameTxStart_sound {st : State} {l : Fin 96} {e : EncEntry} {nh seq last nsym len : Nat} {s : Sess} (w : LaneWrites) (x : MemFaults)
    (h : LaneFree st.dev.fresh l e) (hk : e.kind = kindSounding ∧ e.dir = false) (hs : st.dev.openOf nh false = some s)
    (heff : st.dev.fresh.txSound l e nh seq last nsym =
      soundDressed (st.dev.fresh.soundId s) s l (st.dev.enc l).grp nh seq last nsym len (decide (e.cpl = 2))) :
    ∃ t y, exec (.frameTxStart l (.sound nh seq last nsym) w x) st = .next t ∧ t.pending = st.pending ∧ (t.dev.enc l).frame = some y ∧
      Carries st.dev.tb.n len 0 nh y ∧ fcFt y.fc = ftSound ∧ s.framed seq last ∈ t.dev.sess ∧ t.dev.nodes = st.dev.nodes := by
  obtain ⟨n, ids, hid⟩ := soundId_eq st.dev.fresh s
  obtain ⟨y, hy, hcarries, hft⟩ :=
    soundDressed_frame (st.dev.fresh.soundId s) s l (st.dev.enc l).grp nh seq last nsym len (decide (e.cpl = 2))
  have hat := soundDressed_atEnc (st.dev.fresh.soundId s) s l (st.dev.enc l).grp nh seq last nsym len (decide (e.cpl = 2))
  rw [hid] at hcarries hat
  obtain ⟨t, ht, hp, hdev⟩ := frameTxStart_next l (.sound nh seq last nsym) w x st
  have hplaced : frameTxStartEffect l (.sound nh seq last nsym) x st.dev.fresh = st.dev.fresh.txSound l e nh seq last nsym := by
    unfold frameTxStartEffect
    simp only [h.bound, if_neg h.passes]
    exact if_pos ⟨hk.1, by rw [hk.2]; rfl⟩
  rw [hplaced, heff] at hdev
  obtain ⟨z, hz, hsheer⟩ := withWrites_frame st.dev.fresh l w x.lane.isSome hy
  have hfc : z.fc = y.fc := by have k := congrArg TxFrame.fc hsheer; exact k
  have htail := hat.trans ((withWrites_atEnc _ st.dev.fresh l w x.lane.isSome).trans ((fresh_reports _).atEnc l))
  rw [← hdev] at htail
  refine ⟨t, z, ht, hp, by rw [hdev, fresh_enc, hz], hcarries.of_sheer hsheer, by rw [hfc, hft], ?_, htail.1.nodes⟩
  rw [htail.1.sess]
  exact List.mem_map.2 ⟨s, List.mem_of_find?_eq_some hs, if_pos rfl⟩

/-! ### The statement -/

/-- Settles O55: a node's next MSDU sent or kept off, a broadcast MSDU, and a sounding frame. -/
theorem framesSent : Obligations.FramesSent := by
  intro s l e w r hrun hbound hidle
  have hfree : LaneFree s.dev.fresh l e := ⟨hrun, hbound, hidle⟩
  refine ⟨fun hop k rel m f hk hn hm hp hb hf => ?_, fun k m f hkind hdir haddr hm hb hfaulty hf hg => ?_,
    fun x nh seq last nsym hkind hdir hs hbp ha hseq hlast hmine hnsym hz hg => ?_⟩
  · have heff : frameTxStartEffect l .node r s.dev.fresh = s.dev.fresh.sendUnicast l hop m k f r :=
      (frameTxStartEffect_node hfree r hn hk).trans (txUnicast_eq r hm hp hb hf)
    refine ⟨fun hg => ?_, fun hg => frameTxStart_kept_off w r heff hg⟩
    obtain ⟨t, y, m', ht, hpend, hsends, hframe, hy, hcur, hm'⟩ := frameTxStart_sent w r heff hg
    exact ⟨t, y, m', ht, hpend, hsends.dev.trans hrun, hframe, hy.start, hy.stop, hy.msdu, hy.nh, hcur, hm'.id, hm'.tries, hm'.blocks,
      hm'.sent, hm'.spanEnd, hsends.enc, hsends.node⟩
  · obtain ⟨t, y, ht, hpend, hframe, hy, hstays⟩ := frameTxStart_broadcast w r hfree ⟨hkind, hdir, haddr⟩ hm hb hfaulty hf hg
    exact ⟨t, y, ht, hpend, hframe, hy.start, hy.stop, hy.msdu, hstays⟩
  · obtain ⟨t, y, ht, hpend, hframe, hy, hft, hsess, hnodes⟩ := frameTxStart_sound w r hfree ⟨hkind, hdir⟩ hs
      (txSound_eq (d := s.dev.fresh) hs hbp ha hseq hlast hmine hnsym hz rfl hg)
    exact ⟨t, y, ht, hpend, hframe, hy.start, hy.stop, hy.nh, hft, ⟨_, hsess, rfl, rfl, rfl⟩, hnodes⟩

end Sys2Proof.Machine
end

section
/-! SUPPORT. What a step about one decode lane leaves (07 R186): windows that are looked at are judged, the other lanes stand as they did, and a
frame that is dropped leaves its lane armed or with the frame of a second sync word. -/

namespace Sys2Proof.Machine

/-! ### Windows judged -/

theorem Reports.judged {a b : Dev} (h : Reports a b) : Judged a b := by
  refine ⟨?_, fun p => by rw [h.port]⟩
  rw [h.ports]
  exact h

theorem Judged.trans {a b c : Dev} (h : Judged a b) (k : Judged b c) : Judged a c :=
  ⟨(h.1.set_ports c.ports).trans k.1, fun p => (k.2 p).trans (h.2 p)⟩

theorem Judged.set_decs {a b : Dev} (h : Judged a b) (x : List (Nat × DecLane)) : Judged { a with decs := x } { b with decs := x } :=
  ⟨h.1.set_decs x, h.2⟩

theorem Judged.modDec {a b : Dev} (h : Judged a b) (l : Nat) (f : DecLane → DecLane) : Judged (a.modDec l f) (b.modDec l f) :=
  ⟨h.1.modDec l f, h.2⟩

theorem Judged.dec {a b : Dev} (h : Judged a b) (l : Nat) : b.dec l = a.dec l := h.1.dec l

theorem noteSamples_judged (d : Dev) (p n0 w : Nat) (ss : List ConvSpan) (bl : List (Int × Int)) : Judged d (d.noteSamples p n0 w ss bl) := by
  obtain ⟨e, he, heq⟩ := noteSamples_eq d p n0 w ss bl
  rw [heq]
  refine he.judged.trans ⟨Reports.refl _, fun q => ?_⟩
  exact port_modPort_keeps (f := fun x => { x with seen := max x.seen (n0 + w) }) (fun x => { x with seen := 0 }) (fun _ => rfl) e p q

/-- Windows that are looked at are judged, and nothing else changes but what reports touch (03 R69, 08 R208). -/
theorem noteWindows_judged (d : Dev) (n0 w : Nat) (ws : List TapWin) : Judged d (d.noteWindows n0 w ws) :=
  List.foldlRecOn ws _ (motive := Judged d) (Reports.refl d).judged fun _ he _ _ => he.trans (noteSamples_judged _ _ _ _ _ _)

/-! ### Posted writes are no part of what a lane takes from its taps -/

theorem windows_fresh (d : Dev) (ps : List Nat) (n0 w : Nat) (pins : List PinRuns) : d.fresh.windows ps n0 w pins = d.windows ps n0 w pins := rfl
theorem maskAt_fresh (d : Dev) (g n : Nat) : d.fresh.maskAt g n = d.maskAt g n := rfl
theorem detects_fresh (d : Dev) (g : Nat) (es : List (BitVec 32)) (ws : List TapWin) : d.fresh.detects g es ws = d.detects g es ws := rfl
theorem preambleRx_fresh (d : Dev) (r : Rx) (ws : List TapWin) : d.fresh.preambleRx r ws = d.preambleRx r ws := rfl
theorem secondRx_fresh (d : Dev) (x : DecLane) (ws : List TapWin) : d.fresh.secondRx x ws = d.secondRx x ws := rfl

/-! ### A step about one decode lane -/

/-- `b` is `a` but for decode lane `l`, judged samples and what reports touch. -/
def AtLane (l : Nat) (a b : Dev) : Prop := Judged { a with decs := b.decs } b ∧ ∀ i, i ≠ l → b.dec i = a.dec i

theorem Judged.atLane {a b : Dev} (h : Judged a b) (l : Nat) : AtLane l a b := by
  refine ⟨?_, fun i _ => h.dec i⟩
  rw [h.1.decs]
  exact h

theorem AtLane.trans {l : Nat} {a b c : Dev} (h : AtLane l a b) (k : AtLane l b c) : AtLane l a c :=
  ⟨(h.1.set_decs c.decs).trans k.1, fun i hi => (k.2 i hi).trans (h.2 i hi)⟩

theorem modDec_atLane (d : Dev) (l : Nat) (f : DecLane → DecLane) : AtLane l d (d.modDec l f) :=
  ⟨(Reports.refl _).judged, fun _ hi => dec_modDec_ne hi d f⟩

/-- An update of a lane, which may name what the lane is, is what it makes of the lane. -/
theorem modDec_congr {d : Dev} {l : Nat} {f g : DecLane → DecLane} (h : f (d.dec l) = g (d.dec l)) : d.modDec l f = d.modDec l g := by
  unfold Dev.modDec
  rw [h]

theorem Judged.update {a b : Dev} (h : Judged a b) {l : Nat} {f g : DecLane → DecLane} (hfg : f (a.dec l) = g (a.dec l)) :
    Judged (a.modDec l g) (b.modDec l f) := by
  rw [modDec_congr (d := b) (f := f) (g := g) (by rw [h.dec]; exact hfg)]
  exact h.modDec l g

theorem settleLane_atLane (d : Dev) (l : Nat) : AtLane l d (d.settleLane l) := by
  unfold Dev.settleLane
  split
  · exact modDec_atLane d l _
  · exact (Reports.refl d).judged.atLane l

theorem settleLane_dev (d : Dev) (l : Nat) : (d.settleLane l).dev = d.dev := (settleLane_steady d l).dev
theorem settleLane_tb (d : Dev) (l : Nat) : (d.settleLane l).tb = d.tb := by unfold Dev.settleLane; split <;> rfl
theorem settleLane_clk (d : Dev) (l : Nat) : (d.settleLane l).clk = d.clk := by unfold Dev.settleLane; split <;> rfl
theorem settleLane_fld (d : Dev) (l off hi lo : Nat) : (d.settleLane l).fld off hi lo = d.fld off hi lo := by
  unfold Dev.settleLane; split <;> rfl

/-- Posted writes are no part of a lane. -/
theorem settleLane_fresh (d : Dev) (l : Nat) : d.fresh.settleLane l = (d.settleLane l).fresh := by
  have hover : d.fresh.frameOver (d.fresh.dec l) = d.frameOver (d.dec l) := rfl
  unfold Dev.settleLane
  rw [hover]
  split <;> rfl

/-! ### Frames dropped (07 R180, R181) -/

/-- Lane `z` after the frame of lane `x` was dropped: armed, or at the frame control of the second sync word. -/
def DecLane.Resumes (x z : DecLane) : Prop :=
  (x.second = none → z.acq = .armed ∧ z.frame = none) ∧ ∀ y, x.second = some y → z.acq = .fc ∧ z.rx = y

theorem rearm_resumes (d : Dev) (l : Nat) : (d.dec l).Resumes ((d.rearm l).dec l) := by
  unfold Dev.rearm
  rw [dec_modDec_same]
  refine ⟨fun h => ?_, fun y h => ?_⟩
  · simp [h]
  · simp [h, DecLane.toFc]

/-- From `d` to `e` the frame of lane `l` is dropped, and bit `b` of its group's `GRP_FF_STAT` tells of it. -/
structure Drops (l b : Nat) (d e : Dev) : Prop where
  lane : AtLane l d e
  resumes : (d.dec l).Resumes (e.dec l)
  shown : e.flag (Src.ff (d.dec l).grp).off b = true

theorem rearm_drops {l b : Nat} {d e : Dev} (h : Judged d e) (hb : b < 32) : Drops l b d ((e.raise (.ff (e.dec l).grp) b).rearm l) := by
  have hr := raise_reports e (.ff (e.dec l).grp) b
  refine ⟨((h.trans hr.judged).atLane l).trans (modDec_atLane _ l _), ?_, ?_⟩
  · exact ((hr.dec l).trans (h.dec l)) ▸ rearm_resumes (e.raise (.ff (e.dec l).grp) b) l
  · rw [← h.dec l]
    exact flag_raise hb e _

theorem falseSync_drops {l : Nat} {d e : Dev} (h : Judged d e) : Drops l 0 d (e.falseSync l) := rearm_drops h (by omega)

/-- What a dropped frame leaves is not touched by a change of the lane's other fields. -/
theorem Drops.modDec {l b : Nat} {d e : Dev} (h : Drops l b d e) {f : DecLane → DecLane}
    (hf : ∀ x, (f x).acq = x.acq ∧ (f x).frame = x.frame ∧ (f x).rx = x.rx) : Drops l b d (e.modDec l f) := by
  obtain ⟨hacq, hframe, hrx⟩ := hf (e.dec l)
  refine ⟨h.lane.trans (modDec_atLane _ l f), ?_, h.shown⟩
  rw [dec_modDec_same, DecLane.Resumes, hacq, hframe, hrx]
  exact h.resumes

/-! ### Steps -/

/-- A step that drops the frame in acquisition on lane `l`, and shows it by bit `b` of `GRP_FF_STAT`. -/
def DropsIn (o : Host.Outcome State Fault Refusal) (s : State) (l b : Nat) : Prop :=
  ∃ t, o = .next t ∧ t.pending = s.pending ∧ AtLane l s.dev t.dev ∧ (s.dev.dec l).Resumes (t.dev.dec l) ∧
    t.dev.flag (Src.ff (s.dev.dec l).grp).off b = true

section
variable {f : Dev → Dev} {s : State} {l b : Nat} {d : Dev}

theorem run_senses (h : Judged d (f s.dev.fresh)) : Senses (run f s) s d :=
  ⟨_, run_next f s, h.trans (fresh_reports _).judged, rfl⟩

theorem run_settled (h : Judged (s.dev.fresh.settleLane l) (f s.dev.fresh)) : Senses (run f s) s (s.dev.settleLane l) := by
  rw [settleLane_fresh] at h
  exact run_senses ((fresh_reports _).judged.trans h)

theorem run_settles (h : f s.dev.fresh = s.dev.fresh.settleLane l) : Reaches (run f s) s (s.dev.settleLane l) :=
  run_reaches (by rw [h, settleLane_fresh]; exact fresh_reports _)

/-- A step that changes its lane alone and judges samples. -/
theorem run_updates {g : DecLane → DecLane} (h : Judged (s.dev.fresh.modDec l g) (f s.dev.fresh)) :
    Senses (run f s) s (s.dev.modDec l g) := run_senses (((fresh_reports _).judged.modDec l g).trans h)

theorem run_settled_updates {g : DecLane → DecLane} (h : Judged ((s.dev.fresh.settleLane l).modDec l g) (f s.dev.fresh)) :
    Senses (run f s) s ((s.dev.settleLane l).modDec l g) := by
  rw [settleLane_fresh] at h
  exact run_senses (((fresh_reports _).judged.modDec l g).trans h)

theorem run_idle (h : f s.dev.fresh = s.dev.fresh) : Reaches (run f s) s s.dev := run_reaches (by rw [h]; exact fresh_reports _)

theorem run_atLane (h : AtLane l s.dev.fresh (f s.dev.fresh)) : AtLane l s.dev (f s.dev.fresh).fresh :=
  (((fresh_reports _).judged.atLane l).trans h).trans ((fresh_reports _).judged.atLane l)

theorem run_drops (h : Drops l b s.dev.fresh (f s.dev.fresh)) : DropsIn (run f s) s l b :=
  ⟨_, run_next f s, rfl, run_atLane h.lane, h.resumes, h.shown⟩

end

end Sys2Proof.Machine
end

section
/-! SUPPORT. From the detection of a preamble to its sync word (07 R172-R174): PREAMBLE_DETECT, TIMING_ACQUIRED and SYNC_WORD_DECISION. -/

namespace Sys2Proof.Machine

/-! ### PREAMBLE_DETECT (07 R172) -/

/-- The level of the preamble that a lane detects, once a frame that is over has left it, where the samples pass the test. -/
def Dev.preambleFound (d : Dev) (l : Nat) (pins : List PinRuns) : Option Int :=
  let d0 := d.settleLane l
  let y := d0.dec l
  d0.detects y.grp (d0.maskAt y.grp (d.tb.n - 8200)) (d0.windows y.rxPorts (d.tb.n - 8200) 8192 pins)

/-- What the reception of a detected frame begins with. -/
def Dev.detectedRx (d : Dev) (l : Nat) (level : Int) : Rx :=
  (d.settleLane l).startRx ((d.settleLane l).dec l) level (d.tb.n - 8200 + 8192)

/-- A lane that begins the acquisition of a frame. -/
def DecLane.detected (x : DecLane) (r : Rx) : DecLane :=
  { x with acq := .timing, win := true, failAt := none, rx := r, second := none, frame := none }

theorem preambleFound_fresh (d : Dev) (l : Nat) (pins : List PinRuns) : d.fresh.preambleFound l pins = d.preambleFound l pins := by
  dsimp only [Dev.preambleFound]
  rw [settleLane_fresh, windows_fresh, maskAt_fresh, detects_fresh]
  rfl

theorem detectedRx_fresh (d : Dev) (l : Nat) (level : Int) : d.fresh.detectedRx l level = d.detectedRx l level := by
  unfold Dev.detectedRx
  rw [settleLane_fresh]
  rfl

section
variable {d : Dev} {l : Nat} {pins : List PinRuns}

theorem preambleDetectEffect_idle (h : ((d.settleLane l).dec l).acq ≠ .armed) : preambleDetectEffect l pins d = d.settleLane l :=
  if_pos (.inr h)

variable (hrun : d.dev = .run) (hacq : ((d.settleLane l).dec l).acq = .armed)
include hrun hacq

theorem preambleDetectEffect_none (h : d.preambleFound l pins = none) : Judged (d.settleLane l) (preambleDetectEffect l pins d) := by
  dsimp only [Dev.preambleFound] at h
  unfold preambleDetectEffect
  dsimp only
  rw [if_neg (by simp [hacq, settleLane_dev, hrun]), settleLane_tb, h]
  exact noteWindows_judged _ _ _ _

theorem preambleDetectEffect_some {level : Int} (h : d.preambleFound l pins = some level) :
    Judged ((d.settleLane l).modDec l (fun x => x.detected (d.detectedRx l level))) (preambleDetectEffect l pins d) := by
  dsimp only [Dev.preambleFound] at h
  unfold preambleDetectEffect
  dsimp only
  rw [if_neg (by simp [hacq, settleLane_dev, hrun]), settleLane_tb, h]
  exact (noteWindows_judged _ _ _ _).update rfl

end

section
variable {s : State} {l : Fin 96} {pins : List PinRuns}

theorem preambleDetect_idle (h : ((s.dev.settleLane l).dec l).acq ≠ .armed) :
    Reaches (exec (.preambleDetect l pins) s) s (s.dev.settleLane l) :=
  run_settles (f := preambleDetectEffect l pins) (preambleDetectEffect_idle (by rw [settleLane_fresh]; exact h))

variable (hrun : s.dev.dev = .run) (hacq : ((s.dev.settleLane l).dec l).acq = .armed)
include hrun hacq

theorem preambleDetect_none (h : s.dev.preambleFound l pins = none) : Senses (exec (.preambleDetect l pins) s) s (s.dev.settleLane l) := by
  rw [← fresh_dec, ← settleLane_fresh] at hacq
  rw [← preambleFound_fresh] at h
  exact run_settled (f := preambleDetectEffect l pins) (preambleDetectEffect_none (d := s.dev.fresh) hrun hacq h)

theorem preambleDetect_some {level : Int} (h : s.dev.preambleFound l pins = some level) : Senses (exec (.preambleDetect l pins) s) s
    ((s.dev.settleLane l).modDec l (fun x => x.detected (s.dev.detectedRx l level))) := by
  rw [← fresh_dec, ← settleLane_fresh] at hacq
  rw [← preambleFound_fresh] at h
  rw [← detectedRx_fresh]
  exact run_settled_updates (f := preambleDetectEffect l pins) (preambleDetectEffect_some (d := s.dev.fresh) hrun hacq h)

end

/-! ### TIMING_ACQUIRED (07 R173) -/

/-- The first sample that TIMING_ACQUIRED looks at: the detection's last short symbol begins with it. -/
def Dev.timingStart (d : Dev) (l : Nat) : Nat := (d.dec l).rx.origin - 4096

/-- How many samples it looks at. -/
def Dev.timingLen (d : Dev) (l : Nat) : Nat := d.tb.n - 8 - d.timingStart l

/-- The unblanked pieces of them, by tap. -/
def Dev.timingTaps (d : Dev) (l : Nat) (pins : List PinRuns) : List (List Piece) :=
  (d.windows (d.dec l).rx.ports (d.timingStart l) (d.timingLen l) pins).map (TapWin.unblanked (d.timingLen l))

/-- The guard code read where the sign changes with short symbol `i`. -/
def Dev.timingCode (d : Dev) (l : Nat) (pins : List PinRuns) (i : Nat) : Nat :=
  guardCode (shortKs (d.dec l).rx.prof (d.maskAt (d.dec l).grp (d.timingStart l))) (i * 4096) (d.timingTaps l pins)

/-- Where the preamble ends then. -/
def Dev.timingEnd (d : Dev) (l i : Nat) : Nat := d.timingStart l + (i + 2) * 4096 + 73728

/-- A reception once its sign change has been found at short symbol `i`. -/
def Dev.timingRx (d : Dev) (l : Nat) (pins : List PinRuns) (i : Nat) (r : Rx) : Rx :=
  d.timedRx (d.dec l).grp r (d.timingEnd l i) (d.timingCode l pins i)

/-- A lane that goes on from a frame's timing to its sync word. -/
def DecLane.timed (x : DecLane) (r : Rx) : DecLane := { x with acq := .sync, rx := r }

theorem timingLen_fresh (d : Dev) (l : Nat) : d.fresh.timingLen l = d.timingLen l := rfl
theorem timingTaps_fresh (d : Dev) (l : Nat) (pins : List PinRuns) : d.fresh.timingTaps l pins = d.timingTaps l pins := by
  unfold Dev.timingTaps
  rw [windows_fresh]
  rfl
theorem timingCode_fresh (d : Dev) (l : Nat) (pins : List PinRuns) (i : Nat) :
    d.fresh.timingCode l pins i = d.timingCode l pins i := by
  unfold Dev.timingCode
  rw [timingTaps_fresh]
  rfl
theorem timingRx_fresh (d : Dev) (l : Nat) (pins : List PinRuns) (i : Nat) (r : Rx) :
    d.fresh.timingRx l pins i r = d.timingRx l pins i r := by
  unfold Dev.timingRx
  rw [timingCode_fresh]
  rfl

section
variable {d : Dev} {l : Nat} {pins : List PinRuns} (hrun : d.dev = .run) (hacq : (d.dec l).acq = .timing)
include hrun hacq

/-- The effect where no short symbol has changed its sign. -/
theorem timingAcquiredEffect_unsigned (h : signFound (d.timingTaps l pins) = none) : ∃ e, Judged d e ∧
    timingAcquiredEffect l pins d = if d.timingLen l < 12 * 4096 then d else e.falseSync l := by
  dsimp only [Dev.timingTaps, Dev.timingLen, Dev.timingStart] at h
  unfold timingAcquiredEffect
  dsimp only
  rw [if_neg (by simp [hrun, hacq]), h]
  exact ⟨_, noteWindows_judged _ _ _ _, rfl⟩

/-- The effect where the sign has changed with short symbol `i`. -/
theorem timingAcquiredEffect_signed {i : Nat} (h : signFound (d.timingTaps l pins) = some i) : ∃ e, Judged d e ∧
    timingAcquiredEffect l pins d = if d.timingLen l < (i + 2) * 4096 then d
      else if d.timingCode l pins i = 3 then e.falseSync l else e.modDec l (fun x => x.timed (d.timingRx l pins i x.rx)) := by
  dsimp only [Dev.timingTaps, Dev.timingLen, Dev.timingStart] at h
  unfold timingAcquiredEffect
  dsimp only
  rw [if_neg (by simp [hrun, hacq]), h]
  exact ⟨_, noteWindows_judged _ _ _ _, rfl⟩

theorem timingAcquiredEffect_waits (h : (signFound (d.timingTaps l pins) = none ∧ d.timingLen l < 12 * 4096) ∨
    ∃ i, signFound (d.timingTaps l pins) = some i ∧ d.timingLen l < (i + 2) * 4096) : timingAcquiredEffect l pins d = d := by
  rcases h with ⟨hsign, hlen⟩ | ⟨i, hsign, hlen⟩
  · obtain ⟨e, -, heff⟩ := timingAcquiredEffect_unsigned hrun hacq hsign
    exact heff.trans (if_pos hlen)
  · obtain ⟨e, -, heff⟩ := timingAcquiredEffect_signed hrun hacq hsign
    exact heff.trans (if_pos hlen)

theorem timingAcquiredEffect_drops (h : (signFound (d.timingTaps l pins) = none ∧ 12 * 4096 ≤ d.timingLen l) ∨
    ∃ i, signFound (d.timingTaps l pins) = some i ∧ (i + 2) * 4096 ≤ d.timingLen l ∧ d.timingCode l pins i = 3) :
    Drops l 0 d (timingAcquiredEffect l pins d) := by
  rcases h with ⟨hsign, hlen⟩ | ⟨i, hsign, hlen, hcode⟩
  · obtain ⟨e, he, heff⟩ := timingAcquiredEffect_unsigned hrun hacq hsign
    rw [heff, if_neg (Nat.not_lt.2 hlen)]
    exact falseSync_drops he
  · obtain ⟨e, he, heff⟩ := timingAcquiredEffect_signed hrun hacq hsign
    rw [heff, if_neg (Nat.not_lt.2 hlen), if_pos hcode]
    exact falseSync_drops he

theorem timingAcquiredEffect_timed {i : Nat} (hsign : signFound (d.timingTaps l pins) = some i) (hlen : (i + 2) * 4096 ≤ d.timingLen l)
    (hcode : d.timingCode l pins i ≠ 3) :
    Judged (d.modDec l (fun x => x.timed (d.timingRx l pins i (d.dec l).rx))) (timingAcquiredEffect l pins d) := by
  obtain ⟨e, he, heff⟩ := timingAcquiredEffect_signed hrun hacq hsign
  rw [heff, if_neg (Nat.not_lt.2 hlen), if_neg hcode]
  exact he.update rfl

end

section
variable {s : State} {l : Fin 96} {pins : List PinRuns} (hrun : s.dev.dev = .run) (hacq : (s.dev.dec l).acq = .timing)
include hrun hacq

theorem timingAcquired_waits (h : (signFound (s.dev.timingTaps l pins) = none ∧ s.dev.timingLen l < 12 * 4096) ∨
    ∃ i, signFound (s.dev.timingTaps l pins) = some i ∧ s.dev.timingLen l < (i + 2) * 4096) :
    Reaches (exec (.timingAcquired l pins) s) s s.dev := by
  rw [← timingTaps_fresh, ← timingLen_fresh] at h
  exact run_idle (f := timingAcquiredEffect l pins) (timingAcquiredEffect_waits (d := s.dev.fresh) hrun hacq h)

theorem timingAcquired_drops (h : (signFound (s.dev.timingTaps l pins) = none ∧ 12 * 4096 ≤ s.dev.timingLen l) ∨
    ∃ i, signFound (s.dev.timingTaps l pins) = some i ∧ (i + 2) * 4096 ≤ s.dev.timingLen l ∧ s.dev.timingCode l pins i = 3) :
    DropsIn (exec (.timingAcquired l pins) s) s l 0 := by
  simp only [← timingTaps_fresh s.dev, ← timingLen_fresh s.dev, ← timingCode_fresh s.dev] at h
  exact run_drops (f := timingAcquiredEffect l pins) (timingAcquiredEffect_drops (d := s.dev.fresh) hrun hacq h)

theorem timingAcquired_timed {i : Nat} (hsign : signFound (s.dev.timingTaps l pins) = some i) (hlen : (i + 2) * 4096 ≤ s.dev.timingLen l)
    (hcode : s.dev.timingCode l pins i ≠ 3) :
    Senses (exec (.timingAcquired l pins) s) s (s.dev.modDec l (fun x => x.timed (s.dev.timingRx l pins i (s.dev.dec l).rx))) := by
  rw [← timingTaps_fresh] at hsign
  rw [← timingCode_fresh] at hcode
  rw [← timingRx_fresh]
  exact run_updates (f := timingAcquiredEffect l pins) (timingAcquiredEffect_timed (d := s.dev.fresh) hrun hacq hsign hlen hcode)

end

/-! ### SYNC_WORD_DECISION (07 R174) -/

/-- The windows of the preamble that a lane has timed. -/
def Dev.syncWindows (d : Dev) (l : Nat) (pins : List PinRuns) : List TapWin :=
  d.windows (d.dec l).rx.ports ((d.dec l).rx.origin - preambleLen) preambleLen pins

/-- The lane's reception with what they give. -/
def Dev.syncRx (d : Dev) (l : Nat) (pins : List PinRuns) : Rx := d.preambleRx (d.dec l).rx (d.syncWindows l pins)

/-- Whether the sync word decided on a lane is its group's. -/
def Dev.syncHeld (d : Dev) (l : Nat) (pins : List PinRuns) : Bool :=
  d.syncAccepted (d.dec l).grp ((d.syncRx l pins).decided (d.syncWindows l pins))

/-- A lane that goes on from a frame's sync word to its frame control. -/
def DecLane.synced (x : DecLane) (r : Rx) : DecLane := { x with acq := .fc, rx := r }

theorem syncWindows_fresh (d : Dev) (l : Nat) (pins : List PinRuns) : d.fresh.syncWindows l pins = d.syncWindows l pins :=
  windows_fresh d _ _ _ _
theorem syncRx_fresh (d : Dev) (l : Nat) (pins : List PinRuns) : d.fresh.syncRx l pins = d.syncRx l pins := by
  unfold Dev.syncRx
  rw [preambleRx_fresh, syncWindows_fresh]
  rfl
theorem syncHeld_fresh (d : Dev) (l : Nat) (pins : List PinRuns) : d.fresh.syncHeld l pins = d.syncHeld l pins := by
  unfold Dev.syncHeld
  rw [syncRx_fresh, syncWindows_fresh]
  rfl

section
variable {d : Dev} {l : Nat} {pins : List PinRuns}

theorem syncWordDecisionEffect_waits (h : d.tb.n < (d.dec l).rx.origin + 8) : syncWordDecisionEffect l pins d = d := if_pos (.inr (.inr h))

variable (hrun : d.dev = .run) (hacq : (d.dec l).acq = .sync) (hcame : (d.dec l).rx.origin + 8 ≤ d.tb.n)
include hrun hacq hcame

/-- The effect once the preamble has come. -/
theorem syncWordDecisionEffect_decides : ∃ e, Judged d e ∧ syncWordDecisionEffect l pins d =
    if d.syncHeld l pins then e.modDec l (fun x => x.synced (d.syncRx l pins)) else e.falseSync l :=
  ⟨_, noteWindows_judged d ((d.dec l).rx.origin - preambleLen) preambleLen (d.syncWindows l pins), if_neg (by simp [hrun, hacq, hcame])⟩

theorem syncWordDecisionEffect_synced (h : d.syncHeld l pins = true) :
    Judged (d.modDec l (fun x => x.synced (d.syncRx l pins))) (syncWordDecisionEffect l pins d) := by
  obtain ⟨e, he, heff⟩ := syncWordDecisionEffect_decides (pins := pins) hrun hacq hcame
  rw [heff, if_pos h]
  exact he.modDec l _

theorem syncWordDecisionEffect_drops (h : d.syncHeld l pins = false) : Drops l 0 d (syncWordDecisionEffect l pins d) := by
  obtain ⟨e, he, heff⟩ := syncWordDecisionEffect_decides (pins := pins) hrun hacq hcame
  rw [heff, h]
  exact falseSync_drops he

end

section
variable {s : State} {l : Fin 96} {pins : List PinRuns}

theorem syncWordDecision_waits (h : s.dev.tb.n < (s.dev.dec l).rx.origin + 8) : Reaches (exec (.syncWordDecision l pins) s) s s.dev :=
  run_idle (f := syncWordDecisionEffect l pins) (syncWordDecisionEffect_waits h)

variable (hrun : s.dev.dev = .run) (hacq : (s.dev.dec l).acq = .sync) (hcame : (s.dev.dec l).rx.origin + 8 ≤ s.dev.tb.n)
include hrun hacq hcame

theorem syncWordDecision_synced (h : s.dev.syncHeld l pins = true) :
    Senses (exec (.syncWordDecision l pins) s) s (s.dev.modDec l (fun x => x.synced (s.dev.syncRx l pins))) := by
  rw [← syncHeld_fresh] at h
  rw [← syncRx_fresh]
  exact run_updates (f := syncWordDecisionEffect l pins) (syncWordDecisionEffect_synced (d := s.dev.fresh) hrun hacq hcame h)

theorem syncWordDecision_drops (h : s.dev.syncHeld l pins = false) : DropsIn (exec (.syncWordDecision l pins) s) s l 0 := by
  rw [← syncHeld_fresh] at h
  exact run_drops (f := syncWordDecisionEffect l pins) (syncWordDecisionEffect_drops (d := s.dev.fresh) hrun hacq hcame h)

end

end Sys2Proof.Machine
end

section
/-! SUPPORT. FRAME_CONTROL_DECODE (07 R175-R181, 11 R289, R291): frame control that ends a frame, and the frame that accepted frame control
begins. -/

namespace Sys2Proof.Machine

/-! ### What nodes do leaves the lanes alone -/

/-- `b` has the decode lanes of `a` in the same beacon period, and each node was last heard when it was in `a`. -/
structure SameLanes (a b : Dev) : Prop where
  decs : b.decs = a.decs
  msync : b.msync = a.msync
  heard : ∀ h, (b.node h).heardBp = (a.node h).heardBp

theorem SameLanes.trans {a b c : Dev} (h : SameLanes a b) (k : SameLanes b c) : SameLanes a c :=
  ⟨k.decs.trans h.decs, k.msync.trans h.msync, fun i => (k.heard i).trans (h.heard i)⟩

theorem Reports.sameLanes {a b : Dev} (h : Reports a b) : SameLanes a b := ⟨h.decs, h.msync, fun i => by rw [h.node]⟩

theorem SameLanes.refl (a : Dev) : SameLanes a a := (Reports.refl a).sameLanes

/-- A device that differs in none of the three parts. -/
theorem SameLanes.of_eq {a b : Dev} (hd : b.decs = a.decs) (hm : b.msync = a.msync) (hn : b.nodes = a.nodes) : SameLanes a b :=
  ⟨hd, hm, fun i => by simp only [Dev.node, hn]⟩

theorem ite_sameLanes {d a b : Dev} {p : Prop} [Decidable p] (ha : SameLanes d a) (hb : SameLanes d b) :
    SameLanes d (if p then a else b) := by split <;> assumption

theorem SameLanes.modNode {a b : Dev} (h : SameLanes a b) (i : Nat) {f : Node → Node} (hf : ∀ x, (f x).heardBp = x.heardBp) :
    SameLanes a (b.modNode i f) := by
  refine ⟨h.decs, h.msync, fun k => (?_ : _ = (b.node k).heardBp).trans (h.heard k)⟩
  by_cases e : k = i
  · rw [e, node_modNode_same, hf]
  · rw [node_modNode_ne e]

theorem foldl_sameLanes {α : Type} {f : Dev → α → Dev} (hf : ∀ d x, SameLanes d (f d x)) (l : List α) (d : Dev) :
    SameLanes d (l.foldl f d) :=
  List.foldlRecOn l f (motive := SameLanes d) (SameLanes.refl d) fun e he x _ => he.trans (hf e x)

theorem nodeState_sameLanes (d : Dev) (nh : Nat) (st : NodeState) (reason : Nat) : SameLanes d (d.nodeState nh st reason) := by
  refine SameLanes.trans ?_ (event_reports _ _ _ _ _).sameLanes
  exact (SameLanes.refl d).modNode nh fun _ => rfl

theorem unhold_sameLanes (d : Dev) (nh : Nat) : SameLanes d (d.unhold nh) := by
  unfold Dev.unhold
  refine SameLanes.trans ?_ (markGroup_reports _ _).sameLanes
  refine SameLanes.modNode ?_ nh fun _ => rfl
  exact foldl_sameLanes (fun x _ => ite_sameLanes (SameLanes.refl x) ((consumed_reports x _ _).trans (produced_reports _ _)).sameLanes) _ d

theorem wake_sameLanes (d : Dev) (nh : Nat) : SameLanes d (d.wake nh) := (unhold_sameLanes d nh).trans (nodeState_sameLanes _ _ _ _)

theorem askSession_sameLanes (d : Dev) (s : Sess) : SameLanes d (d.askSession s) := by
  unfold Dev.askSession
  refine ite_sameLanes (SameLanes.refl d) ?_
  split
  · exact SameLanes.refl d
  · exact ite_sameLanes (.of_eq rfl rfl rfl) (SameLanes.refl d)

theorem openSession_sameLanes (d : Dev) (nh : Nat) (up : Bool) (segs : Nat) (mark : Option Nat) (cmds : List Nat) :
    SameLanes d (d.openSession nh up segs mark cmds) := by
  unfold Dev.openSession
  split
  · exact ite_sameLanes (.of_eq rfl rfl rfl) (.of_eq rfl rfl rfl)
  · refine SameLanes.trans ?_ (askSession_sameLanes _ _)
    exact .of_eq rfl rfl rfl

theorem clave_sameLanes (d : Dev) (g : Nat) : SameLanes d (d.clave g).2 := by
  unfold Dev.clave
  dsimp only
  split
  · exact SameLanes.refl d
  · split <;> exact .of_eq rfl rfl rfl

theorem claveRx_sameLanes (d : Dev) (g : Nat) (nh : Option Nat) (cls : SeqClass) : SameLanes d (d.claveRx g nh cls).2 := by
  unfold Dev.claveRx
  split
  · exact SameLanes.refl d
  · exact clave_sameLanes d g

theorem freePools_sameLanes (d : Dev) (g : Nat) (ps : List Pool) : SameLanes d (d.freePools g ps) := .of_eq rfl rfl rfl

theorem dropReasm_sameLanes (d : Dev) (nh : Nat) : SameLanes d (d.dropReasm nh) := by
  unfold Dev.dropReasm
  dsimp only
  split
  · exact SameLanes.refl d
  · refine SameLanes.trans ?_ (markGroup_reports _ _).sameLanes
    refine SameLanes.modNode ?_ nh fun _ => rfl
    exact freePools_sameLanes d _ _

theorem openReasm_sameLanes (d : Dev) (nh : Nat) (fc : BitVec 128) (clid : Option Nat) : SameLanes d (d.openReasm nh fc clid) := by
  unfold Dev.openReasm
  refine SameLanes.modNode (ite_sameLanes ?_ (SameLanes.refl d)) nh fun _ => rfl
  refine SameLanes.modNode ?_ nh fun _ => rfl
  exact (dropReasm_sameLanes d nh).trans (raise_reports _ _ _).sameLanes

theorem sendOwn_sameLanes (d : Dev) (nh code tag : Nat) (cmd : Option Nat) (body : List Byte) : SameLanes d (d.sendOwn nh code tag cmd body) := by
  unfold Dev.sendOwn
  have counted : SameLanes d { d with nextId := d.nextId + 1 } := .of_eq rfl rfl rfl
  refine ite_sameLanes ?_ ?_
  · exact counted.modNode nh fun _ => rfl
  · exact counted.modNode nh fun _ => rfl

theorem resendCurrent_sameLanes (d : Dev) (i : Nat) : SameLanes d (d.resendCurrent i) :=
  foldl_sameLanes (fun _ _ => sendOwn_sameLanes _ _ _ _ _ _) _ d

theorem traceRx_reports (d : Dev) (l : Nat) (f : RxFrame) (stage st mpt bitmap : Nat) : Reports d (d.traceRx l f stage st mpt bitmap) :=
  trace_reports _ _ _ _ _ _

/-! ### A node heard (10 R267) -/

theorem heard_sameLanes (d : Dev) (nh : Nat) : SameLanes (d.modNode nh (fun n => { n with heardBp := d.msync.bpi })) (d.heard nh) := by
  unfold Dev.heard
  dsimp only
  split
  · exact ((nodeState_sameLanes _ _ _ _).trans (openSession_sameLanes _ _ _ _ _ _)).trans (openSession_sameLanes _ _ _ _ _ _)
  · exact nodeState_sameLanes _ _ _ _
  · exact SameLanes.refl _

/-- `b` has the decode lanes of `a`, and the node `nh` has been heard in the beacon period of `a`. -/
structure Hears (nh : Option Nat) (a b : Dev) : Prop where
  decs : b.decs = a.decs
  heard : ∀ h, nh = some h → (b.node h).heardBp = a.msync.bpi

theorem Hears.trans {nh : Option Nat} {a b c : Dev} (h : Hears nh a b) (k : SameLanes b c) : Hears nh a c :=
  ⟨k.decs.trans h.decs, fun i hi => (k.heard i).trans (h.heard i hi)⟩

theorem Hears.dec {nh : Option Nat} {a b : Dev} (h : Hears nh a b) (l : Nat) : b.dec l = a.dec l := by unfold Dev.dec; rw [h.decs]

theorem Hears.of_reports {nh : Option Nat} {a b c : Dev} (h : Reports a b) (k : Hears nh b c) : Hears nh a c :=
  ⟨k.decs.trans h.decs, fun i hi => (k.heard i hi).trans (by rw [h.msync])⟩

theorem heard_hears (d : Dev) (nh : Nat) : Hears (some nh) d (d.heard nh) := by
  have hsame := heard_sameLanes d nh
  refine ⟨hsame.decs, fun h e => ?_⟩
  cases e
  rw [hsame.heard, node_modNode_same]

/-! ### Accepted frame control (07 R181, 11 R289) -/

/-- The node of an accepted frame is heard, and a DATA or MGMT frame wakes it (10 R267, 12 Table DN.4). -/
def Dev.hearFc (d : Dev) (g : Nat) (fc : BitVec 128) (nh : Option Nat) : Dev :=
  let d := d.count g 7 3 none 1
  let d : Dev := match nh with | some h => d.heard h | none => d
  match nh with
  | some h => if carriesMsdu fc ∧ (d.node h).st = .dormant then d.wake h else d
  | none => d

/-- The frame that accepted frame control begins on a lane, and the device that has traced it and opened its reassembly. -/
def Dev.beginFrame (d : Dev) (l : Nat) (x : DecLane) (fc : BitVec 128) (nh : Option Nat) : RxFrame × Dev :=
  let cls : SeqClass := match nh with | some h => if carriesMsdu fc ∧ fcDst fc = 0 then (d.node h).classOf (fcSeq fc) else .none | none => .none
  let c := d.claveRx x.grp nh cls
  let d := c.2
  let f := d.newFrame x fc nh cls c.1
  let m := d.mptOf (x.rx.origin - preambleLen)
  let d := m.2.traceRx l f 0x01 stOk m.1 0
  (f, match nh with | some h => if cls = .fresh then d.openReasm h fc c.1 else d | none => d)

/-- A frame that is not decoded asks for its node's tone maps to be sent again (09 R236). -/
def Dev.noteBlind (d : Dev) (nh : Option Nat) (blind : Bool) : Dev :=
  let d := if blind then d.raise .mar 3 else d
  match nh with | some h => if blind then d.resendCurrent (setIx h true) else d | none => d

theorem hearFc_hears (d : Dev) (g : Nat) (fc : BitVec 128) (nh : Option Nat) : Hears nh d (d.hearFc g fc nh) := by
  have hcount := count_reports d g 7 3 none 1
  cases nh with
  | none => exact ⟨hcount.decs, nofun⟩
  | some h => exact ((heard_hears _ h).trans (ite_sameLanes (wake_sameLanes _ _) (SameLanes.refl _))).of_reports hcount

theorem beginFrame_sameLanes (d : Dev) (l : Nat) (x : DecLane) (fc : BitVec 128) (nh : Option Nat) :
    SameLanes d (d.beginFrame l x fc nh).2 := by
  have traced : ∀ cls f, SameLanes d (((d.claveRx x.grp nh cls).2.mptOf (x.rx.origin - preambleLen)).2.traceRx l f 0x01 stOk
      ((d.claveRx x.grp nh cls).2.mptOf (x.rx.origin - preambleLen)).1 0) := fun cls f =>
    (claveRx_sameLanes d _ _ cls).trans ((mptOf_reports _ _).trans (traceRx_reports _ _ _ _ _ _ _)).sameLanes
  unfold Dev.beginFrame
  dsimp only
  cases nh with
  | none => exact traced _ _
  | some h => exact ite_sameLanes ((traced _ _).trans (openReasm_sameLanes _ _ _ _)) (traced _ _)

theorem noteBlind_sameLanes (d : Dev) (nh : Option Nat) (blind : Bool) : SameLanes d (d.noteBlind nh blind) := by
  have raised : SameLanes d (if blind = true then d.raise .mar 3 else d) := ite_sameLanes (raise_reports _ _ _).sameLanes (SameLanes.refl d)
  cases nh with
  | none => exact raised
  | some h => exact raised.trans (ite_sameLanes (resendCurrent_sameLanes _ _) (SameLanes.refl _))

/-- An ACK ends with its frame control; any other frame stands in its capture window (07 Table FF.6). -/
theorem acceptFc_eq (d : Dev) (l : Nat) (fc : BitVec 128) (nh : Option Nat) : d.acceptFc l fc nh =
    let b := (d.hearFc (d.dec l).grp fc nh).beginFrame l (d.dec l) fc nh
    let blind := carriesMsdu fc && decide (8 ≤ fcMap fc) && b.2.mismatch b.1
    if fcNsym fc = 0 then
      b.2.modDec l (fun x => { x with acq := .armed, win := false, second := none, frame := none, ackIn := some b.1 })
    else (b.2.noteBlind nh blind).modDec l (fun x => { x with acq := .window, frame := some { b.1 with blind := blind } }) := rfl

/-- Lane `z` with what accepted frame control `fc` of a frame from `nh` leaves of a lane that received `r` (07 Table FF.6). -/
structure DecLane.Accepts (r : Rx) (fc : BitVec 128) (nh : Option Nat) (z : DecLane) : Prop where
  ack : fcNsym fc = 0 → ∃ f, z.ackIn = some f ∧ f.fc = fc ∧ f.nh = nh ∧ z.acq = .armed
  frame : fcNsym fc ≠ 0 → ∃ f, z.frame = some f ∧ f.fc = fc ∧ f.nh = nh ∧ z.acq = .window ∧ f.rx = r ∧
    f.lastSym = r.origin + (r.fcs + bodySymbols fc) * symPeriod r.gi

theorem acceptFc_accepts (d : Dev) (l : Nat) (fc : BitVec 128) (nh : Option Nat) :
    DecLane.Accepts (d.dec l).rx fc nh ((d.acceptFc l fc nh).dec l) := by
  rw [acceptFc_eq]
  refine ⟨fun h => ?_, fun h => ?_⟩
  · dsimp only
    rw [if_pos h, dec_modDec_same]
    exact ⟨_, rfl, rfl, rfl, rfl⟩
  · dsimp only
    rw [if_neg h, dec_modDec_same]
    exact ⟨_, rfl, rfl, rfl, rfl, rfl, rfl⟩

/-- Accepted frame control changes its own lane alone, and its node is heard. -/
theorem acceptFc_hears (d : Dev) (l : Nat) (fc : BitVec 128) (nh : Option Nat) : (∀ i, i ≠ l → (d.acceptFc l fc nh).dec i = d.dec i) ∧
    ∀ h, nh = some h → ((d.acceptFc l fc nh).node h).heardBp = d.msync.bpi := by
  have hbegun := (hearFc_hears d (d.dec l).grp fc nh).trans (beginFrame_sameLanes _ l (d.dec l) fc nh)
  have updates : ∀ {e : Dev} (f : DecLane → DecLane), Hears nh d e →
      (∀ i, i ≠ l → (e.modDec l f).dec i = d.dec i) ∧ ∀ h, nh = some h → ((e.modDec l f).node h).heardBp = d.msync.bpi :=
    fun f he => ⟨fun i hi => (dec_modDec_ne hi _ f).trans (he.dec i), he.heard⟩
  rw [acceptFc_eq]
  dsimp only
  split
  · exact updates _ hbegun
  · exact updates _ (hbegun.trans (noteBlind_sameLanes _ _ _))

/-! ### FRAME_CONTROL_DECODE -/

/-- Whether a lane's frame control passes R175 and R179. -/
def DecLane.FcSound (x : DecLane) : Prop :=
  x.rx.syms.any (fun y => y.erased) = false ∧ fcGood x.rx.fcGot = true ∧ fcValid x.rx.fcGot x.rx.gi = true

section
variable {d : Dev} {l : Nat}

theorem frameControlDecodeEffect_waits (h : (d.dec l).rx.syms.length < (d.dec l).rx.fcs) : frameControlDecodeEffect l d = d :=
  if_pos (.inr (.inr h))

variable (hrun : d.dev = .run) (hacq : (d.dec l).acq = .fc) (hcame : (d.dec l).rx.fcs ≤ (d.dec l).rx.syms.length)
include hrun hacq hcame

theorem frameControlDecodeEffect_drops (h : ¬ (d.dec l).FcSound) : Drops l 0 d (frameControlDecodeEffect l d) := by
  have hbad : (d.dec l).rx.syms.any (fun y => y.erased) = true ∨ (!fcGood (d.dec l).rx.fcGot) = true ∨
      (!fcValid (d.dec l).rx.fcGot (d.dec l).rx.gi) = true := by
    cases hsyms : (d.dec l).rx.syms.any (fun y => y.erased) with
    | true => exact .inl rfl
    | false => cases hgood : fcGood (d.dec l).rx.fcGot with
      | false => exact .inr (.inl rfl)
      | true => cases hvalid : fcValid (d.dec l).rx.fcGot (d.dec l).rx.gi with
        | false => exact .inr (.inr rfl)
        | true => exact absurd ⟨hsyms, hgood, hvalid⟩ h
  have heff : frameControlDecodeEffect l d = (d.falseSync l).modDec l (fun x => { x with failAt := some d.clk }) :=
    (if_neg (by simp [hrun, hacq, hcame])).trans (if_pos hbad)
  rw [heff]
  exact (falseSync_drops (Reports.refl d).judged).modDec (fun _ => ⟨rfl, rfl, rfl⟩)

variable (hsound : (d.dec l).FcSound)
include hsound

/-- The effect of frame control that passes both tests, by the filter of R181. -/
theorem frameControlDecodeEffect_sound {o : Option (Option Nat)} (h : d.rxFilter (d.dec l).grp (d.dec l).rx.fcGot = o) :
    frameControlDecodeEffect l d = o.elim ((d.raise (.ff (d.dec l).grp) 1).rearm l) (d.acceptFc l (d.dec l).rx.fcGot) := by
  obtain ⟨hsyms, hgood, hvalid⟩ := hsound
  refine (if_neg (by simp [hrun, hacq, hcame])).trans ((if_neg ?_).trans ?_)
  · rw [hsyms, hgood, hvalid]
    decide
  · rw [h]
    cases o <;> rfl

theorem frameControlDecodeEffect_filtered (h : d.rxFilter (d.dec l).grp (d.dec l).rx.fcGot = none) :
    Drops l 1 d (frameControlDecodeEffect l d) := by
  rw [frameControlDecodeEffect_sound hrun hacq hcame hsound h]
  exact rearm_drops (Reports.refl d).judged (by omega)

theorem frameControlDecodeEffect_accepts {nh : Option Nat} (h : d.rxFilter (d.dec l).grp (d.dec l).rx.fcGot = some nh) :
    frameControlDecodeEffect l d = d.acceptFc l (d.dec l).rx.fcGot nh := frameControlDecodeEffect_sound hrun hacq hcame hsound h

end

section
variable {s : State} {l : Fin 96}

theorem frameControlDecode_waits (h : (s.dev.dec l).rx.syms.length < (s.dev.dec l).rx.fcs) :
    Reaches (exec (.frameControlDecode l) s) s s.dev := run_idle (f := frameControlDecodeEffect l) (frameControlDecodeEffect_waits h)

variable (hrun : s.dev.dev = .run) (hacq : (s.dev.dec l).acq = .fc) (hcame : (s.dev.dec l).rx.fcs ≤ (s.dev.dec l).rx.syms.length)
include hrun hacq hcame

theorem frameControlDecode_drops (h : ¬ (s.dev.dec l).FcSound) : DropsIn (exec (.frameControlDecode l) s) s l 0 :=
  run_drops (f := frameControlDecodeEffect l) (frameControlDecodeEffect_drops (d := s.dev.fresh) hrun hacq hcame h)

variable (hsound : (s.dev.dec l).FcSound)
include hsound

theorem frameControlDecode_filtered (h : s.dev.rxFilter (s.dev.dec l).grp (s.dev.dec l).rx.fcGot = none) :
    DropsIn (exec (.frameControlDecode l) s) s l 1 :=
  run_drops (f := frameControlDecodeEffect l) (frameControlDecodeEffect_filtered (d := s.dev.fresh) hrun hacq hcame hsound h)

theorem frameControlDecode_accepts {nh : Option Nat} (h : s.dev.rxFilter (s.dev.dec l).grp (s.dev.dec l).rx.fcGot = some nh) :
    ∃ t, exec (.frameControlDecode l) s = .next t ∧ t.pending = s.pending ∧ (∀ i, i ≠ l.val → t.dev.dec i = s.dev.dec i) ∧
      (∀ h, nh = some h → (t.dev.node h).heardBp = s.dev.msync.bpi) ∧
      DecLane.Accepts (s.dev.dec l).rx (s.dev.dec l).rx.fcGot nh (t.dev.dec l) := by
  obtain ⟨t, ht, hp, hdev⟩ := run_fresh (frameControlDecodeEffect l) s
  rw [frameControlDecodeEffect_accepts (d := s.dev.fresh) hrun hacq hcame hsound h, fresh_dec] at hdev
  obtain ⟨hothers, hheard⟩ := acceptFc_hears s.dev.fresh l (s.dev.dec l).rx.fcGot nh
  refine ⟨t, ht, hp, ?_⟩
  rw [hdev]
  exact ⟨hothers, hheard, acceptFc_accepts s.dev.fresh l _ nh⟩

end

end Sys2Proof.Machine
end

section
/-! SUPPORT. SECOND_SYNC_ACCEPT and CAPTURE_WINDOW_CLOSE (07 R183-R187): what the second detector finds, and how it meets the frame in
reception; then what O57 says of acquisition. -/

namespace Sys2Proof.Machine

/-! ### A traced frame leaves its group's status (20 R470) -/

theorem reg_trace_group {off : Nat} (h : 0x100000 ≤ off) (d : Dev) (clid : Option Nat) (stage st mpt : Nat) (i : TraceInfo) :
    (d.trace clid stage st mpt i).reg off = d.reg off := by
  have notices : ∀ (d : Dev) (q : Nat) (b : List Byte), (d.notice q b).reg off = d.reg off := fun d q b =>
    (reg_markWith_group h (fun _ _ _ => reg_eventRaw_group h _ _ _ _ _ _) _ 0).trans (reg_eventRaw_group h d _ _ _ _ _)
  have raw : ∀ item, (d.pushRaw 10 item).reg off = d.reg off := fun item => by
    unfold Dev.pushRaw
    dsimp only
    split
    · rw [if_neg (by omega), reg_count_group h]
      rfl
    · rfl
  unfold Dev.trace
  split
  · rfl
  · split
    · exact (reg_markWith_group h notices _ 10).trans (raw _)
    · rfl

/-! ### What the second detector finds (07 R183) -/

/-- Whether the second detector looks at the preamble that has just ended: during a frame whose own it is not, or in the cycle in which frame
control failed (07 Table FF.7). -/
def Dev.SecondDue (d : Dev) (l : Nat) : Prop :=
  let y := (d.settleLane l).dec l
  (y.acq.busy = true ∧ (y.acq = .timing ∨ y.cur.origin ≠ d.tb.n - 8)) ∨ (y.acq = .armed ∧ y.failAt = some d.clk)

/-- The frame of the sync word that it accepts. -/
def Dev.secondFound (d : Dev) (l : Nat) (pins : List PinRuns) : Option Rx :=
  let d0 := d.settleLane l
  let y := d0.dec l
  d0.secondRx y (d0.windows y.rxPorts (d.tb.n - 8 - preambleLen) preambleLen pins)

theorem secondFound_fresh (d : Dev) (l : Nat) (pins : List PinRuns) : d.fresh.secondFound l pins = d.secondFound l pins := by
  dsimp only [Dev.secondFound]
  rw [settleLane_fresh, windows_fresh, secondRx_fresh]
  rfl

theorem secondDue_fresh (d : Dev) (l : Nat) : d.fresh.SecondDue l ↔ d.SecondDue l := by
  unfold Dev.SecondDue
  rw [settleLane_fresh]
  rfl

/-- A frame in acquisition or reception is no armed lane. -/
theorem busy_ne_armed {a : Acq} (h : a.busy = true) : a ≠ .armed := by
  rintro rfl
  exact Bool.false_ne_true h

section
variable {d : Dev} {l : Nat} {pins : List PinRuns}

theorem secondSyncAcceptEffect_idle (h : ¬ d.SecondDue l) : secondSyncAcceptEffect l pins d = d.settleLane l := by
  refine if_pos (.inr ?_)
  rw [settleLane_tb, settleLane_clk]
  cases hb : ((d.settleLane l).dec l).acq.busy with
  | true =>
    have hown : ((d.settleLane l).dec l).cur.origin = d.tb.n - 8 := Decidable.byContradiction fun ho => h (Or.inl ⟨hb, .inr ho⟩)
    exact .inr ⟨rfl, fun ht => h (Or.inl ⟨hb, .inl ht⟩), hown⟩
  | false =>
    rw [Bool.false_or]
    exact .inl (by rw [decide_eq_false fun k => h (Or.inr k)]; rfl)

/-- Where it is due, the effect is what the second detector finds, over windows that it judges. -/
theorem secondSyncAcceptEffect_due (hrun : d.dev = .run) (h : d.SecondDue l) : ∃ e, Judged (d.settleLane l) e ∧
    secondSyncAcceptEffect l pins d = (d.secondFound l pins).elim e (e.meetSecond l) := by
  have hdue : ¬ ((d.settleLane l).dev ≠ .run ∨ (!(((d.settleLane l).dec l).acq.busy ||
      decide (((d.settleLane l).dec l).acq = .armed ∧ ((d.settleLane l).dec l).failAt = some (d.settleLane l).clk))) = true ∨
      (((d.settleLane l).dec l).acq.busy = true ∧ ((d.settleLane l).dec l).acq ≠ .timing ∧
        ((d.settleLane l).dec l).cur.origin = (d.settleLane l).tb.n - 8)) := by
    rw [settleLane_dev, settleLane_tb, settleLane_clk]
    rcases h with ⟨hbusy, hother⟩ | ⟨harmed, hfail⟩
    · simp only [hrun, hbusy, ne_eq, not_true_eq_false, Bool.true_or, Bool.not_true, Bool.false_eq_true, true_and, false_or, not_and]
      exact fun ht ho => hother.elim ht (fun k => k ho)
    · simp [hrun, harmed, hfail, Acq.busy]
  refine ⟨_, noteWindows_judged _ (d.tb.n - 8 - preambleLen) preambleLen
    ((d.settleLane l).windows ((d.settleLane l).dec l).rxPorts (d.tb.n - 8 - preambleLen) preambleLen pins), (if_neg hdue).trans ?_⟩
  dsimp only [Dev.secondFound]
  rw [settleLane_tb]
  cases (d.settleLane l).secondRx ((d.settleLane l).dec l)
    ((d.settleLane l).windows ((d.settleLane l).dec l).rxPorts (d.tb.n - 8 - preambleLen) preambleLen pins) <;> rfl

end

/-! ### A second sync word meets the lane (07 R183-R185) -/

/-- Whether a reception stands at least `CAPTURE_DB` above that of a lane. -/
def Dev.stronger (d : Dev) (x : DecLane) (r : Rx) : Bool :=
  decide (d.fld (Reg.ffCtrl x.grp) 11 8 ≠ 0 ∧ x.cur.level + 4 * (d.fld (Reg.ffCtrl x.grp) 11 8 : Int) ≤ r.level)

theorem statusOff_ffCtrl (g : Nat) : statusOff (Reg.ffCtrl g) = false := by
  by_cases hg : g < 32
  · exact statusOff_group (o := 0x1000) hg (by omega)
  · unfold Reg.ffCtrl
    exact statusOff_past_groups (by omega) (by omega) (by omega) (by omega)

theorem Judged.stronger {a b : Dev} (h : Judged a b) (x : DecLane) (r : Rx) : b.stronger x r = a.stronger x r := by
  have hdb : b.fld (Reg.ffCtrl x.grp) 11 8 = a.fld (Reg.ffCtrl x.grp) 11 8 := h.1.fld (statusOff_ffCtrl _) 11 8
  rw [Dev.stronger, hdb, Dev.stronger]

theorem Judged.windowOpen {a b : Dev} (h : Judged a b) (x : DecLane) : b.windowOpen x = a.windowOpen x := by
  have htb : b.tb = a.tb := h.1.tb
  unfold Dev.windowOpen
  rw [htb]

theorem meetSecond_eq (d : Dev) (l : Nat) (r : Rx) : d.meetSecond l r =
    if (d.dec l).acq = .armed then d.modDec l (fun x => { x.toFc r with failAt := none })
    else if d.stronger (d.dec l) r && d.windowOpen (d.dec l) then d.capture l r
    else if (d.dec l).acq = .timing ∨ (d.dec l).acq = .sync ∨ (d.dec l).acq = .fc then d.modDec l (fun x => { x with second := some r })
    else if d.stronger (d.dec l) r then d.raise (.ff (d.dec l).grp) 3
    else d := rfl

/-- From `d` to `e` lane `l` has come to stand at the frame control of `r`, without a frame. -/
structure TakesUp (l : Nat) (r : Rx) (d e : Dev) : Prop where
  lane : AtLane l d e
  acq : (e.dec l).acq = .fc
  rx : (e.dec l).rx = r
  frame : (e.dec l).frame = none

/-- A sync word that captures the lane: accepted while a frame is in progress, and stronger within the window (07 R183). -/
def Dev.Captures (d : Dev) (l : Nat) (r : Rx) : Prop :=
  let d0 := d.settleLane l
  let y := d0.dec l
  let db := d.fld (Reg.ffCtrl y.grp) 11 8
  y.acq.busy = true ∧ db ≠ 0 ∧ y.cur.level + 4 * (db : Int) ≤ r.level ∧ d0.windowOpen y = true

theorem captures_fresh (d : Dev) (l : Nat) (r : Rx) : d.fresh.Captures l r ↔ d.Captures l r := by
  unfold Dev.Captures
  rw [settleLane_fresh]
  rfl

theorem captures_iff (d : Dev) (l : Nat) (r : Rx) : d.Captures l r ↔ ((d.settleLane l).dec l).acq.busy = true ∧
    (d.settleLane l).stronger ((d.settleLane l).dec l) r = true ∧ (d.settleLane l).windowOpen ((d.settleLane l).dec l) = true := by
  rw [Dev.stronger, settleLane_fld, decide_eq_true_iff, and_assoc]
  rfl

theorem not_captured {d : Dev} {l : Nat} {r : Rx} (hbusy : ((d.settleLane l).dec l).acq.busy = true) (h : ¬ d.Captures l r) :
    ((d.settleLane l).stronger ((d.settleLane l).dec l) r && (d.settleLane l).windowOpen ((d.settleLane l).dec l)) = false := by
  rw [Bool.eq_false_iff, ne_eq, Bool.and_eq_true]
  exact fun k => h ((captures_iff d l r).2 ⟨hbusy, k⟩)

theorem capture_takesUp (d : Dev) (l : Nat) (r : Rx) : TakesUp l r d (d.capture l r) ∧
    (d.capture l r).flag (Src.ff (d.dec l).grp).off 2 = true := by
  have hoff : 0x100000 ≤ (Src.ff (d.dec l).grp).off := by simp only [Src.off, Reg.ffStat]; omega
  have hraise := raise_reports d (.ff (d.dec l).grp) 2
  have hshown := flag_raise (b := 2) (by omega) d (.ff (d.dec l).grp)
  have taken : ∀ e, Reports d e → TakesUp l r d (e.modDec l (fun x => x.toFc r)) := fun e he =>
    ⟨(he.judged.atLane l).trans (modDec_atLane e l _), by rw [dec_modDec_same]; rfl, by rw [dec_modDec_same]; rfl, by rw [dec_modDec_same]; rfl⟩
  unfold Dev.capture
  dsimp only
  split
  · refine ⟨taken _ (hraise.trans (traceRx_reports _ _ _ _ _ _ _)), ?_⟩
    rw [modDec_flag, Dev.flag, Dev.traceRx, reg_trace_group hoff]
    exact hshown
  · exact ⟨taken _ hraise, hshown⟩

section
variable {d e : Dev} {l : Nat} {r : Rx} (h : Judged d e)
include h

theorem meetSecond_armed (ha : (d.dec l).acq = .armed) : TakesUp l r d (e.meetSecond l r) := by
  rw [meetSecond_eq, h.dec, if_pos ha]
  exact ⟨(h.atLane l).trans (modDec_atLane e l _), by rw [dec_modDec_same]; rfl, by rw [dec_modDec_same]; rfl, by rw [dec_modDec_same]; rfl⟩

variable (ha : (d.dec l).acq ≠ .armed)
include ha

theorem meetSecond_captured (hs : d.stronger (d.dec l) r = true) (hw : d.windowOpen (d.dec l) = true) :
    TakesUp l r d (e.meetSecond l r) ∧ (e.meetSecond l r).flag (Src.ff (d.dec l).grp).off 2 = true := by
  obtain ⟨htake, hshown⟩ := capture_takesUp e l r
  rw [meetSecond_eq, h.dec, if_neg ha, h.stronger, h.windowOpen, hs, hw, if_pos rfl, ← h.dec]
  exact ⟨⟨(h.atLane l).trans htake.lane, htake.acq, htake.rx, htake.frame⟩, hshown⟩

variable (hc : (d.stronger (d.dec l) r && d.windowOpen (d.dec l)) = false)
include hc

theorem meetSecond_held (hq : (d.dec l).acq = .timing ∨ (d.dec l).acq = .sync ∨ (d.dec l).acq = .fc) :
    Judged (d.modDec l (fun x => { x with second := some r })) (e.meetSecond l r) := by
  rw [meetSecond_eq, h.dec, if_neg ha, h.stronger, h.windowOpen, hc, if_neg Bool.false_ne_true, if_pos hq]
  exact h.modDec l _

theorem meetSecond_late (hq : (d.dec l).acq = .window ∨ (d.dec l).acq = .payload) : Judged d (e.meetSecond l r) := by
  have hpast : ¬ ((d.dec l).acq = .timing ∨ (d.dec l).acq = .sync ∨ (d.dec l).acq = .fc) := by
    rcases hq with hq | hq <;> simp [hq]
  rw [meetSecond_eq, h.dec, if_neg ha, h.stronger, h.windowOpen, hc, if_neg Bool.false_ne_true, if_neg hpast]
  split
  · exact h.trans (raise_reports _ _ _).judged
  · exact h

end

/-! ### SECOND_SYNC_ACCEPT -/

section
variable {d : Dev} {l : Nat} {pins : List PinRuns} (hrun : d.dev = .run) (hdue : d.SecondDue l)
include hrun hdue

theorem secondSyncAcceptEffect_none (h : d.secondFound l pins = none) : Judged (d.settleLane l) (secondSyncAcceptEffect l pins d) := by
  obtain ⟨e, he, heff⟩ := secondSyncAcceptEffect_due hrun hdue (pins := pins)
  rw [heff, h]
  exact he

variable {r : Rx} (hfound : d.secondFound l pins = some r)
include hfound

theorem secondSyncAcceptEffect_takesUp (h : d.Captures l r ∨ ((d.settleLane l).dec l).acq = .armed) :
    TakesUp l r (d.settleLane l) (secondSyncAcceptEffect l pins d) ∧
      (d.Captures l r → (secondSyncAcceptEffect l pins d).flag (Src.ff ((d.settleLane l).dec l).grp).off 2 = true) := by
  obtain ⟨e, he, heff⟩ := secondSyncAcceptEffect_due hrun hdue (pins := pins)
  rw [heff, hfound]
  by_cases hc : d.Captures l r
  · obtain ⟨hbusy, hstrong, hopen⟩ := (captures_iff d l r).1 hc
    obtain ⟨htake, hshown⟩ := meetSecond_captured he (busy_ne_armed hbusy) hstrong hopen
    exact ⟨htake, fun _ => hshown⟩
  · exact ⟨meetSecond_armed he (h.resolve_left hc), fun k => absurd k hc⟩

variable (hc : ¬ d.Captures l r)
include hc

theorem secondSyncAcceptEffect_held (hq : ((d.settleLane l).dec l).acq = .timing ∨ ((d.settleLane l).dec l).acq = .sync ∨
    ((d.settleLane l).dec l).acq = .fc) :
    Judged ((d.settleLane l).modDec l (fun x => { x with second := some r })) (secondSyncAcceptEffect l pins d) := by
  have hbusy : ((d.settleLane l).dec l).acq.busy = true := by rcases hq with hq | hq | hq <;> rw [hq] <;> rfl
  obtain ⟨e, he, heff⟩ := secondSyncAcceptEffect_due hrun hdue (pins := pins)
  rw [heff, hfound]
  exact meetSecond_held he (busy_ne_armed hbusy) (not_captured hbusy hc) hq

theorem secondSyncAcceptEffect_late (hq : ((d.settleLane l).dec l).acq = .window ∨ ((d.settleLane l).dec l).acq = .payload) :
    Judged (d.settleLane l) (secondSyncAcceptEffect l pins d) := by
  have hbusy : ((d.settleLane l).dec l).acq.busy = true := by rcases hq with hq | hq <;> rw [hq] <;> rfl
  obtain ⟨e, he, heff⟩ := secondSyncAcceptEffect_due hrun hdue (pins := pins)
  rw [heff, hfound]
  exact meetSecond_late he (busy_ne_armed hbusy) (not_captured hbusy hc) hq

end

/-! ### CAPTURE_WINDOW_CLOSE (07 R183) -/

theorem captureWindowCloseEffect_closes {d : Dev} {l : Nat} {f : RxFrame} (hrun : d.dev = .run) (hframe : (d.dec l).frame = some f)
    (hacq : (d.dec l).acq = .window) (hclose : f.closeAt ≤ d.tb.n) (hlast : f.closeAt < f.lastSym) :
    captureWindowCloseEffect l d = d.modDec l (fun x => { x with acq := .payload, win := false }) := by
  unfold captureWindowCloseEffect
  rw [hframe]
  exact if_neg (by simp [hrun, hacq, hclose, hlast])

/-! ### The steps -/

section
variable {s : State} {l : Fin 96} {pins : List PinRuns}

theorem secondSyncAccept_idle (h : ¬ s.dev.SecondDue l) : Reaches (exec (.secondSyncAccept l pins) s) s (s.dev.settleLane l) := by
  rw [← secondDue_fresh] at h
  exact run_settles (f := secondSyncAcceptEffect l pins) (secondSyncAcceptEffect_idle h)

variable (hrun : s.dev.dev = .run) (hdue : s.dev.SecondDue l)
include hrun hdue

theorem secondSyncAccept_none (h : s.dev.secondFound l pins = none) :
    Senses (exec (.secondSyncAccept l pins) s) s (s.dev.settleLane l) := by
  rw [← secondDue_fresh] at hdue
  rw [← secondFound_fresh] at h
  exact run_settled (f := secondSyncAcceptEffect l pins) (secondSyncAcceptEffect_none (d := s.dev.fresh) hrun hdue h)

variable {r : Rx} (hfound : s.dev.secondFound l pins = some r)
include hfound

theorem secondSyncAccept_takesUp (h : s.dev.Captures l r ∨ ((s.dev.settleLane l).dec l).acq = .armed) :
    ∃ t, exec (.secondSyncAccept l pins) s = .next t ∧ t.pending = s.pending ∧ AtLane l s.dev t.dev ∧ (t.dev.dec l).acq = .fc ∧
      (t.dev.dec l).rx = r ∧ (t.dev.dec l).frame = none ∧
      (s.dev.Captures l r → t.dev.flag (Src.ff ((s.dev.settleLane l).dec l).grp).off 2 = true) := by
  rw [← secondDue_fresh] at hdue
  rw [← secondFound_fresh] at hfound
  rw [← captures_fresh, ← fresh_dec (s.dev.settleLane l), ← settleLane_fresh] at h
  obtain ⟨⟨hlane, hacq, hrx, hframe⟩, hshown⟩ := secondSyncAcceptEffect_takesUp (d := s.dev.fresh) hrun hdue hfound h
  rw [captures_fresh, settleLane_fresh] at hshown
  exact ⟨_, run_next (secondSyncAcceptEffect l pins) s, rfl, run_atLane ((settleLane_atLane _ _).trans hlane), hacq, hrx, hframe, hshown⟩

variable (hc : ¬ s.dev.Captures l r)
include hc

theorem secondSyncAccept_held (hq : ((s.dev.settleLane l).dec l).acq = .timing ∨ ((s.dev.settleLane l).dec l).acq = .sync ∨
    ((s.dev.settleLane l).dec l).acq = .fc) :
    Senses (exec (.secondSyncAccept l pins) s) s ((s.dev.settleLane l).modDec l (fun x => { x with second := some r })) := by
  rw [← secondDue_fresh] at hdue
  rw [← secondFound_fresh] at hfound
  rw [← captures_fresh] at hc
  rw [← fresh_dec, ← settleLane_fresh] at hq
  exact run_settled_updates (f := secondSyncAcceptEffect l pins) (secondSyncAcceptEffect_held (d := s.dev.fresh) hrun hdue hfound hc hq)

theorem secondSyncAccept_late (hq : ((s.dev.settleLane l).dec l).acq = .window ∨ ((s.dev.settleLane l).dec l).acq = .payload) :
    Senses (exec (.secondSyncAccept l pins) s) s (s.dev.settleLane l) := by
  rw [← secondDue_fresh] at hdue
  rw [← secondFound_fresh] at hfound
  rw [← captures_fresh] at hc
  rw [← fresh_dec, ← settleLane_fresh] at hq
  exact run_settled (f := secondSyncAcceptEffect l pins) (secondSyncAcceptEffect_late (d := s.dev.fresh) hrun hdue hfound hc hq)

end

theorem captureWindowClose_closes {s : State} {l : Fin 96} {f : RxFrame} (hrun : s.dev.dev = .run) (hframe : (s.dev.dec l).frame = some f)
    (hacq : (s.dev.dec l).acq = .window) (hclose : f.closeAt ≤ s.dev.tb.n) (hlast : f.closeAt < f.lastSym) :
    Reaches (exec (.captureWindowClose l) s) s (s.dev.modDec l (fun x => { x with acq := .payload, win := false })) := by
  refine run_reaches (f := captureWindowCloseEffect l) ?_
  rw [captureWindowCloseEffect_closes (d := s.dev.fresh) hrun hframe hacq hclose hlast]
  exact (fresh_reports _).modDec _ _

/-! ### The statement -/

/-- Settles O57: each event of Table FF.6, by what the taps of its lane show. -/
theorem acquisition : Obligations.Acquisition := by
  intro s l hrun
  refine ⟨fun pins => ⟨preambleDetect_idle, preambleDetect_none hrun, fun _ hacq hfound => preambleDetect_some hrun hacq hfound⟩, fun pins hacq => ?_,
    fun pins hacq => ⟨syncWordDecision_waits, syncWordDecision_synced hrun hacq, syncWordDecision_drops hrun hacq⟩,
    fun hacq => ⟨frameControlDecode_waits, frameControlDecode_drops hrun hacq, frameControlDecode_filtered hrun hacq,
      fun nh hcame hsound h => ?_⟩,
    fun pins => ⟨secondSyncAccept_idle, secondSyncAccept_none hrun, fun r hdue => secondSyncAccept_takesUp hrun hdue,
      fun r hdue => secondSyncAccept_held hrun hdue, fun r hdue => secondSyncAccept_late hrun hdue⟩,
    fun f hframe hacq => captureWindowClose_closes hrun hframe hacq⟩
  · exact ⟨fun hsign hlen => timingAcquired_waits hrun hacq (.inl ⟨hsign, hlen⟩),
      fun hsign hlen => timingAcquired_drops hrun hacq (.inl ⟨hsign, hlen⟩),
      fun i hsign hlen => timingAcquired_waits hrun hacq (.inr ⟨i, hsign, hlen⟩),
      fun i hsign hlen hcode => timingAcquired_drops hrun hacq (.inr ⟨i, hsign, hlen, hcode⟩),
      fun i hsign hlen hcode => timingAcquired_timed hrun hacq hsign hlen hcode⟩
  · obtain ⟨t, ht, hp, hothers, hheard, hlane⟩ := frameControlDecode_accepts hrun hacq hcame hsound h
    exact ⟨t, ht, hp, hothers, hheard, hlane.ack, hlane.frame⟩

end Sys2Proof.Machine
end

section
/-! SUPPORT. PB_DECODE_DONE (08 R197) on a lane whose oldest ended frame is not complete, and a lane that has to settle for that frame to have
ended (07 R186). -/

namespace Sys2Proof.Machine

/-! ### A frame that is over leaves reception (07 Table FF.6) -/

/-- A frame that is over stands on its lane. -/
theorem frame_ne_none_of_frameOver {d : Dev} {x : DecLane} (h : d.frameOver x = true) : x.frame ≠ none := by
  intro hnone
  rw [Dev.frameOver, hnone] at h
  cases h

/-- Where the frame of a lane is over, settling changes the lane. -/
theorem settleLane_dec_ne_of_frameOver {d : Dev} {l : Nat} (h : d.frameOver (d.dec l) = true) : (d.settleLane l).dec l ≠ d.dec l := by
  intro hsame
  have hframe : ((d.settleLane l).dec l).frame = none := by
    rw [Dev.settleLane, if_pos h, dec_modDec_same]
  rw [hsame] at hframe
  exact frame_ne_none_of_frameOver h hframe

/-! ### PB_DECODE_DONE before the last symbol has been demodulated -/

section
variable {d : Dev} {l : Nat} {f : RxFrame} {rest : List RxFrame} (hended : ((d.settleLane l).dec l).ended = f :: rest) (hpbs : f.pbs = none)
include hended hpbs

theorem takeEnded_undecoded (p : RxFrame → Bool) : d.takeEnded l p = none := by
  unfold Dev.takeEnded
  dsimp only
  rw [hended]
  dsimp only
  rw [hpbs]

/-- The lane is not even settled: the frame that is over stays in reception. -/
theorem pbDecodeDoneEffect_undecoded (m : MemFaults) : pbDecodeDoneEffect l m d = d := by
  rw [pbDecodeDoneEffect, takeEnded_undecoded hended hpbs]

end

section
variable {s : State} {l : Fin 96} {f : RxFrame} {rest : List RxFrame} (hended : ((s.dev.settleLane l).dec l).ended = f :: rest)
  (hpbs : f.pbs = none)
include hended hpbs

theorem pbDecodeDone_undecoded (m : MemFaults) : Reaches (exec (.pbDecodeDone l m) s) s s.dev := by
  rw [← fresh_dec, ← settleLane_fresh] at hended
  exact run_idle (f := pbDecodeDoneEffect l m) (pbDecodeDoneEffect_undecoded hended hpbs m)

/-- So it does not reach the settled device where settling changes the lane. -/
theorem pbDecodeDone_undecoded_not_settled (m : MemFaults) (hover : s.dev.frameOver (s.dev.dec l) = true) :
    ¬ Reaches (exec (.pbDecodeDone l m) s) s (s.dev.settleLane l) := by
  rintro ⟨t, ht, hsettled, -⟩
  obtain ⟨t', ht', hkept, -⟩ := pbDecodeDone_undecoded hended hpbs m
  obtain rfl : t = t' := Host.Outcome.next.inj (ht.symm.trans ht')
  exact settleLane_dec_ne_of_frameOver hover ((hsettled.dec l).symm.trans (hkept.dec l))

end

/-! ### The counterexample -/

/-- A DATA frame of node 5 whose last payload symbol ended with sample 999,000, none of its symbols demodulated yet. -/
def overFrame : RxFrame :=
  { fc := fcCommon ftData 1 false 0 1 3 1, grp := 0, nh := some 5, cls := .fresh, blind := false, clid := none, lastSym := 999000, alloc := none
    arrival := 100, ents := [], segs := [], rx := { Rx.init with origin := 600000, gi := 1 }, pbs := none }

/-- In RUN, 1,000 samples after that end, decode lane 0 still shows the frame in reception. -/
def overDev : Dev :=
  { Dev.init with
    dev := .run
    tb := { Timebase.init with n := 1000000, running := true }
    decs := [(0, { DecLane.init with acq := .payload, frame := some overFrame })] }

theorem overDev_frameOver : overDev.frameOver (overDev.dec (0 : Fin 96)) = true := by decide

theorem overDev_settled_ended : ((overDev.settleLane (0 : Fin 96)).dec (0 : Fin 96)).ended = [overFrame] := by decide

theorem overFrame_not_poll : fcFt overFrame.fc ≠ ftPoll := by decide

/-! ### The statement -/

/-- Refutes O58: of a frame that is not complete it says that PB_DECODE_DONE leaves the lane settled, but the command is not due then and leaves
the device as it was (`pbDecodeDone_undecoded`). On lane 0 of `overDev` the two differ: the frame has ended on the line, and only a settled
lane counts it among those that have ended. -/
theorem not_reception : ¬ Obligations.Reception := by
  unfold Obligations.Reception
  intro h
  obtain ⟨-, -, hdone, -⟩ := h { dev := overDev, hostMem := [], pending := [] } rfl
  obtain ⟨hundecoded, -⟩ := hdone 0 { cells := [], lane := none, key := false } overFrame [] overDev_settled_ended overFrame_not_poll
  exact pbDecodeDone_undecoded_not_settled overDev_settled_ended rfl _ overDev_frameOver (hundecoded rfl)

end Sys2Proof.Machine
end

section
/-! SUPPORT. Map updates (09 R230-R232, R242, Table TM.5): what announcing an update and writing its SHADOW copies touch, and what the
deadline and the commit leave of the set's keys. -/

namespace Sys2Proof.Machine

/-! ### Keys changed in turn -/

/-- Changes of keys one after another change the keys alone. -/
theorem foldl_modKey_eq {α : Type} (g : α → Nat) (f : Dev → α → MapKey → MapKey) (l : List α) (d : Dev) :
    ∃ ks, l.foldl (fun d x => d.modKey (g x) (f d x)) d = { d with keys := ks } :=
  List.foldlRecOn l _ (motive := fun (e : Dev) => ∃ ks, e = { d with keys := ks }) ⟨d.keys, rfl⟩
    fun _ ⟨_, he⟩ _ _ => he ▸ ⟨_, rfl⟩

/-- What a change keeps of a key is kept of every key. -/
theorem key_modKey_keeps {α : Type} (π : MapKey → α) {f : MapKey → MapKey} (h : ∀ x, π (f x) = π x) (d : Dev) (i j : Nat) :
    π ((d.modKey i f).key j) = π (d.key j) := by
  by_cases e : j = i
  · rw [e, key_modKey_same, h]
  · rw [key_modKey_ne e]

/-- A property of a key that a change brings about, or leaves to a key that has it, stands once the change has come to that key. -/
theorem foldl_modKey_settles {α : Type} (g : α → Nat) (f : Dev → α → MapKey → MapKey) {P : MapKey → Prop} {l : List α} {x : α}
    (hx : x ∈ l) (hf : ∀ d y k, P (f d y k)) (d : Dev) : P ((l.foldl (fun d y => d.modKey (g y) (f d y)) d).key (g x)) := by
  refine foldl_settles (P := fun e => P (Dev.key e (g x))) hx (fun e => ?_) (fun e y he => ?_) d
  · rw [key_modKey_same]; exact hf e x _
  · by_cases h : g x = g y
    · rw [h, key_modKey_same]; exact hf e y _
    · rwa [key_modKey_ne h]

/-! ### An announcement (09 R230, R231) -/

/-- A message of the device's own changes its node's queues and the numbering of messages. -/
theorem sendOwn_eq (d : Dev) (nh code tag : Nat) (cmd : Option Nat) (body : List Byte) :
    ∃ ns, d.sendOwn nh code tag cmd body = { d with nodes := ns, nextId := d.nextId + 1 } := by
  unfold Dev.sendOwn
  dsimp only
  split
  · exact ⟨_, rfl⟩
  · exact ⟨_, rfl⟩

theorem sendMaps_eq (d : Dev) (i ver effBp effSeg serial : Nat) (current : Bool) (es : List Entry) :
    ∃ ns n, d.sendMaps i ver effBp effSeg serial current es = { d with nodes := ns, nextId := n } := by
  refine List.foldlRecOn _ _ (motive := fun (e : Dev) => ∃ ns n, e = { d with nodes := ns, nextId := n }) ⟨d.nodes, d.nextId, rfl⟩ ?_
  rintro _ ⟨ns, n, rfl⟩ x -
  obtain ⟨ns', h⟩ := sendOwn_eq { d with nodes := ns, nextId := n } (i / 2) 0x06 (((serial * 16 + x.2) * 32768 + i) * 2 + b2n current) none
    (leBytes 1 (i % 2 * 8 + ver) ++ leBytes 1 x.1.length ++ leBytes 2 effBp ++ leBytes 1 effSeg ++
      leBytes 1 (((packParts (es.map Entry.padded) [] 0).length - 1) * 16 + x.2) ++ [0, 0] ++ x.1.flatten)
  exact ⟨ns', n + 1, h⟩

theorem sendMaps_mapSet (d : Dev) (i ver effBp effSeg serial : Nat) (current : Bool) (es : List Entry) (j : Nat) :
    (d.sendMaps i ver effBp effSeg serial current es).mapSet j = d.mapSet j := by
  obtain ⟨ns, n, h⟩ := sendMaps_eq d i ver effBp effSeg serial current es
  rw [h]
  rfl

theorem sendMaps_modMapSet_eq (d : Dev) (i : Nat) (g : Node → Node) (f : MapSet → MapSet) (ver effBp effSeg serial : Nat) (current : Bool)
    (es : List Entry) : ∃ ss ns n, ((d.modNode (i / 2) g).modMapSet i f).sendMaps i ver effBp effSeg serial current es =
      { d with sets := ss, nodes := ns, nextId := n } := by
  obtain ⟨ss, ns, hs⟩ : ∃ ss ns, (d.modNode (i / 2) g).modMapSet i f = { d with sets := ss, nodes := ns } := ⟨_, _, rfl⟩
  obtain ⟨ns', n, h⟩ := sendMaps_eq { d with sets := ss, nodes := ns } i ver effBp effSeg serial current es
  rw [hs]
  exact ⟨ss, ns', n, h⟩

/-- `y` is the set `x` with an update announced for the `sends`-th time, of which nothing has gone out. -/
structure MapSet.Announced (x : MapSet) (sends : Nat) (y : MapSet) : Prop where
  ver : y.ver = x.ver
  upd : y.upd = .built
  sends : y.sends = sends
  sent : y.sent = false
  acked : y.acked = []

/-- An announcement changes its set, its node's queues and the numbering of messages, and leaves the set announced. -/
theorem sendUpdate_eq (d : Dev) (i sends : Nat) :
    (∃ ss ns n, d.sendUpdate i sends = { d with sets := ss, nodes := ns, nextId := n }) ∧
      (d.mapSet i).Announced sends ((d.sendUpdate i sends).mapSet i) := by
  have hset : (d.sendUpdate i sends).mapSet i = _ := (sendMaps_mapSet _ i _ _ _ _ _ _ i).trans (mapSet_modMapSet_same _ i _)
  rw [hset]
  exact ⟨sendMaps_modMapSet_eq d i _ _ _ _ _ _ _ _, rfl, rfl, rfl, rfl, rfl⟩

theorem sendUpdate_key (d : Dev) (i sends j : Nat) : (d.sendUpdate i sends).key j = d.key j := by
  obtain ⟨⟨ss, ns, n, h⟩, -⟩ := sendUpdate_eq d i sends
  rw [h]
  rfl

/-! ### A rebuild (09 R230) -/

/-- The device with entries written to the SHADOW copies of a set, ahead of their announcement. -/
def Dev.writeShadows (d : Dev) (i : Nat) (es : List Entry) : Dev :=
  es.foldl (fun x e => x.modKey (i * 16 + e.seg) (fun k =>
    { k with shadow := some { e with ver := ((d.mapSet i).ver + 1) % 8 }, built := true })) d

theorem writeShadows_eq (d : Dev) (i : Nat) (es : List Entry) : ∃ ks, d.writeShadows i es = { d with keys := ks } :=
  foldl_modKey_eq _ _ es d

theorem writeShadows_built (d : Dev) (i : Nat) {es : List Entry} {e : Entry} (he : e ∈ es) :
    ((d.writeShadows i es).key (i * 16 + e.seg)).built = true :=
  foldl_modKey_settles (fun (e : Entry) => i * 16 + e.seg)
    (fun _ e k => { k with shadow := some { e with ver := ((d.mapSet i).ver + 1) % 8 }, built := true }) (P := fun k => k.built = true) he (fun _ _ _ => rfl) d

/-- What a key says beside its SHADOW copy, and whether that has been written, is kept. -/
theorem writeShadows_keeps {α : Type} (π : MapKey → α) (h : ∀ k s, π { k with shadow := s, built := true } = π k) (d : Dev) (i : Nat)
    (es : List Entry) (j : Nat) : π ((d.writeShadows i es).key j) = π (d.key j) :=
  foldl_keeps (fun x => π (x.key j)) (fun _ _ => key_modKey_keeps π (fun k => h k _) _ _ _) es d

/-- The three outcomes of a rebuild: nothing to write, entries held for a SCHEDULED set, entries written and announced. -/
theorem rebuild_cases (d : Dev) (i : Nat) (es : List Entry) :
    (es = [] ∧ d.rebuild i es = d) ∨
    ((d.mapSet i).upd = .scheduled ∧ ∃ h, d.rebuild i es = d.modMapSet i (fun s => { s with heldR := h })) ∨
    ((d.mapSet i).upd ≠ .scheduled ∧ d.rebuild i es = (d.writeShadows i es).sendUpdate i 1) := by
  by_cases he : es = []
  · exact .inl ⟨he, if_pos he⟩
  · by_cases hu : (d.mapSet i).upd = .scheduled
    · exact .inr (.inl ⟨hu, _, (if_neg he).trans (if_pos hu)⟩)
    · exact .inr (.inr ⟨hu, (if_neg he).trans (if_neg hu)⟩)

theorem rebuild_nil (d : Dev) (i : Nat) : d.rebuild i [] = d := if_pos rfl

/-- A rebuild changes keys, sets, its node's queues and the numbering of messages. -/
theorem rebuild_eq (d : Dev) (i : Nat) (es : List Entry) :
    ∃ ks ss ns n, d.rebuild i es = { d with keys := ks, sets := ss, nodes := ns, nextId := n } := by
  obtain ⟨-, h⟩ | ⟨-, held, h⟩ | ⟨-, h⟩ := rebuild_cases d i es
  · exact ⟨_, _, _, _, h⟩
  · exact ⟨_, _, _, _, h⟩
  · obtain ⟨ks, hks⟩ := writeShadows_eq d i es
    obtain ⟨⟨ss, ns, n, hsent⟩, -⟩ := sendUpdate_eq (d.writeShadows i es) i 1
    exact ⟨ks, ss, ns, n, by rw [h, hsent, hks]⟩

/-- Away from a SCHEDULED set the keys of a rebuild are written. -/
theorem rebuild_built {d : Dev} {i : Nat} (hu : (d.mapSet i).upd ≠ .scheduled) {es : List Entry} {e : Entry} (he : e ∈ es) :
    ((d.rebuild i es).key (i * 16 + e.seg)).built = true := by
  obtain ⟨hes, -⟩ | ⟨hs, -⟩ | ⟨-, h⟩ := rebuild_cases d i es
  · rw [hes] at he; cases he
  · exact absurd hs hu
  · rw [h, sendUpdate_key]
    exact writeShadows_built d i he

/-- A rebuild keeps what a key says beside its SHADOW copy, and whether that has been written. -/
theorem rebuild_key_keeps {α : Type} (π : MapKey → α) (hπ : ∀ k s, π { k with shadow := s, built := true } = π k) (d : Dev) (i : Nat)
    (es : List Entry) (j : Nat) : π ((d.rebuild i es).key j) = π (d.key j) := by
  obtain ⟨-, h⟩ | ⟨-, held, h⟩ | ⟨-, h⟩ := rebuild_cases d i es
  · rw [h]
  · rw [h]; rfl
  · rw [h, sendUpdate_key]
    exact writeShadows_keeps π hπ d i es j

theorem rebuild_ver (d : Dev) (i : Nat) (es : List Entry) : ((d.rebuild i es).mapSet i).ver = (d.mapSet i).ver := by
  obtain ⟨-, h⟩ | ⟨-, held, h⟩ | ⟨-, h⟩ := rebuild_cases d i es
  · rw [h]
  · rw [h, mapSet_modMapSet_same]
  · obtain ⟨ks, hks⟩ := writeShadows_eq d i es
    obtain ⟨-, hann⟩ := sendUpdate_eq (d.writeShadows i es) i 1
    have hold : (d.writeShadows i es).mapSet i = d.mapSet i := by
      rw [hks]
      rfl
    rw [h, hann.ver, hold]

/-! ### Copies and sets change, and nothing else -/

/-- `b` is `a` but for its keys and sets, what its slots see of their marks, and reports. -/
def Maps (a b : Dev) : Prop := Reports { a with keys := b.keys, sets := b.sets, encs := b.encs } b

theorem Maps.trans {a b c : Dev} (h : Maps a b) (k : Maps b c) : Maps a c :=
  ((((Reports.set_keys h c.keys).set_sets c.sets).set_encs c.encs)).trans k

theorem Maps.clk {a b : Dev} (h : Maps a b) : b.clk = a.clk := Reports.clk (a := { a with keys := b.keys, sets := b.sets, encs := b.encs }) h

theorem Marks.maps {a b : Dev} (h : Marks a b) : Maps a b := by
  have hs : b.sets = a.sets := h.1.sets
  rw [Maps, hs]
  exact h.1

theorem Reports.maps {a b : Dev} (h : Reports a b) : Maps a b := by
  rw [Maps, h.keys, h.sets, h.encs]
  exact h

theorem modMapSet_maps (d : Dev) (i : Nat) (f : MapSet → MapSet) : Maps d (d.modMapSet i f) := Reports.refl _

/-! ### The deadline of an update (09 R230, Table TM.5) -/

/-- The deadline of a set's update has come, and the update has gone out without being acknowledged. -/
structure Dev.DeadlineDue (d : Dev) (i : Nat) : Prop where
  clocked : d.dev.clocked = true
  upd : (d.mapSet i).upd = .built
  sent : (d.mapSet i).sent = true
  near : bpSince d.msync.bpi (d.mapSet i).effBp ≤ 2 ∨ 2 ^ 22 ≤ bpSince d.msync.bpi (d.mapSet i).effBp

/-- The device with the SHADOW copies of a set freed, and its update gone. -/
def Dev.freeShadows (d : Dev) (i : Nat) : Dev :=
  ((List.range 16).foldl (fun d k => d.modKey (i * 16 + k) (fun x => { x with shadow := none, built := false })) d).modMapSet i
    (fun s => { s with upd := .free })

/-- The keys of a set with an ACTIVE copy. -/
def Dev.setKeys (d : Dev) (nh : Nat) (up : Bool) : List Nat := d.activeKeys (fun n u _ => decide (n = nh ∧ u = up))

section
variable {d : Dev} {nh : Nat} {up : Bool} (h : d.DeadlineDue (setIx nh up))
include h

theorem mapUpdateDeadlineEffect_resends (hs : (d.mapSet (setIx nh up)).sends < d.fld Reg.marUpd 11 8) :
    mapUpdateDeadlineEffect nh up d = d.sendUpdate (setIx nh up) ((d.mapSet (setIx nh up)).sends + 1) := by
  have hnear := h.near
  refine (if_neg ?_).trans (if_pos hs)
  simp only [h.clocked, h.upd, h.sent, Bool.not_true, Bool.false_eq_true, ne_eq, not_true_eq_false, false_or]
  omega

theorem mapUpdateDeadlineEffect_drops (hs : d.fld Reg.marUpd 11 8 ≤ (d.mapSet (setIx nh up)).sends) :
    ∃ seg dirs grp detail, mapUpdateDeadlineEffect nh up d =
      (((d.freeShadows (setIx nh up)).markStale (d.setKeys nh up) 4 nh seg dirs grp).raise .mar 4).event 0x0402 stOk nh detail := by
  have hnear := h.near
  refine ⟨_, _, _, _, (if_neg ?_).trans (if_neg (Nat.not_lt.2 hs))⟩
  simp only [h.clocked, h.upd, h.sent, Bool.not_true, Bool.false_eq_true, ne_eq, not_true_eq_false, false_or]
  omega

end

theorem freeShadows_maps (d : Dev) (i : Nat) : Maps d (d.freeShadows i) := by
  obtain ⟨ks, hks⟩ := foldl_modKey_eq (fun k => i * 16 + k) (fun _ _ x => { x with shadow := none, built := false }) (List.range 16) d
  rw [Dev.freeShadows, hks]
  exact Reports.refl _

theorem freeShadows_shadow (d : Dev) (i : Nat) {k : Nat} (hk : k < 16) : ((d.freeShadows i).key (i * 16 + k)).shadow = none := by
  rw [Dev.freeShadows, modMapSet_key]
  exact foldl_modKey_settles (fun k => i * 16 + k) (fun _ _ x => { x with shadow := none, built := false }) (P := fun x => x.shadow = none)
    (List.mem_range.2 hk) (fun _ _ _ => rfl) d

/-- What a key says beside its SHADOW copy, and whether that has been written, is kept. -/
theorem freeShadows_keeps {α : Type} (π : MapKey → α) (h : ∀ k, π { k with shadow := none, built := false } = π k) (d : Dev) (i j : Nat) :
    π ((d.freeShadows i).key j) = π (d.key j) := by
  rw [Dev.freeShadows, modMapSet_key]
  exact foldl_keeps (fun x => π (x.key j)) (fun _ _ => key_modKey_keeps π h _ _ _) (List.range 16) d

/-- What a key of a map reads is listed with it, or is what an unlisted key reads as. -/
theorem SMap.mem_or_get_eq {β : Type} (dflt : Nat → β) (k : Nat) (m : List (Nat × β)) :
    (k, SMap.get dflt k m) ∈ m ∨ SMap.get dflt k m = dflt k := by
  induction m with
  | nil => exact .inr rfl
  | cons e m ih =>
    obtain ⟨a, v⟩ := e
    simp only [SMap.get]
    split
    · next h => subst h; exact .inl List.mem_cons_self
    · exact ih.imp (List.mem_cons_of_mem _) id

theorem keyOf_node (nh : Nat) (up : Bool) {k : Nat} (hk : k < 16) : (setIx nh up * 16 + k) / 32 = nh := by
  cases up <;> simp only [setIx, b2n, if_true, Bool.false_eq_true, if_false] <;> omega

theorem keyOf_dir (nh : Nat) (up : Bool) {k : Nat} (hk : k < 16) : decide ((setIx nh up * 16 + k) / 16 % 2 = 1) = up := by
  cases up <;> simp only [setIx, b2n, if_true, Bool.false_eq_true, if_false, decide_eq_true_eq, decide_eq_false_iff_not] <;> omega

/-- A key whose copy is ACTIVE is among those of its set. -/
theorem mem_setKeys {d : Dev} {nh : Nat} {up : Bool} {k : Nat} (hk : k < 16)
    (ha : (d.key (setIx nh up * 16 + k)).active.isSome = true) : setIx nh up * 16 + k ∈ d.setKeys nh up := by
  have hlisted := (SMap.mem_or_get_eq (fun _ => MapKey.init) (setIx nh up * 16 + k) d.keys).resolve_right fun e => by
    rw [Dev.key, e] at ha
    cases ha
  refine List.mem_map.2 ⟨_, List.mem_filter.2 ⟨hlisted, ?_⟩, rfl⟩
  have hnode := keyOf_node nh up hk
  have hdir := keyOf_dir nh up hk
  have hactive : (SMap.get (fun _ => MapKey.init) (setIx nh up * 16 + k) d.keys).active.isSome = true := ha
  simp only [hactive, hnode, hdir, and_self, decide_true, Bool.and_self]

/-! ### Marks for one cause (09 R240, R242) -/

/-- A mark keeps the copies of a key. -/
theorem markStale_keeps {α : Type} (π : MapKey → α) (h : ∀ k b, π { k with stale := b } = π k) (d : Dev) (ks : List Nat)
    (cause obj seg dirs grp j : Nat) : π ((d.markStale ks cause obj seg dirs grp).key j) = π (d.key j) := by
  unfold Dev.markStale
  split
  · rfl
  · refine (congrArg π ((event_reports _ _ _ _ _).key j)).trans (foldl_keeps (fun x => π (x.key j)) (fun e i => ?_) ks d)
    exact (congrArg π ((raise_reports _ _ _).key j)).trans (key_modKey_keeps π (fun k => h k _) e i j)

theorem markStale_mapSet (d : Dev) (ks : List Nat) (cause obj seg dirs grp i : Nat) :
    (d.markStale ks cause obj seg dirs grp).mapSet i = d.mapSet i := (markStale_marks d ks cause obj seg dirs grp).1.mapSet i

/-- Every key named is STALE, but for one committed in this cycle. -/
theorem markStale_stale {d : Dev} {ks : List Nat} {j : Nat} (hj : j ∈ ks) (cause obj seg dirs grp : Nat) :
    ((d.markStale ks cause obj seg dirs grp).key j).stale = decide ((d.key j).swapAt ≠ some d.clk) := by
  have hclk : (d.markStale ks cause obj seg dirs grp).clk = d.clk := (markStale_marks d ks cause obj seg dirs grp).1.clk
  rw [← markStale_keeps MapKey.swapAt (fun _ _ => rfl) d ks cause obj seg dirs grp j, ← hclk]
  unfold Dev.markStale
  rw [if_neg (List.ne_nil_of_mem hj)]
  dsimp only
  rw [(event_reports _ _ _ _ _).key j, (event_reports _ _ _ _ _).clk]
  refine foldl_settles (P := fun e => (Dev.key e j).stale = decide ((Dev.key e j).swapAt ≠ some e.clk)) hj (fun e => ?_) (fun e i he => ?_) d
  · rw [(raise_reports _ _ _).key j, (raise_reports _ _ _).clk, key_modKey_same]; rfl
  · rw [(raise_reports _ _ _).key j, (raise_reports _ _ _).clk]
    by_cases h : j = i
    · rw [h, key_modKey_same]; rfl
    · rwa [key_modKey_ne h]

/-! ### The steps of a deadline -/

section
variable {s : State} {nh : Fin 16384} {up : Bool} (h : s.dev.DeadlineDue (setIx nh up))
include h

/-- While sends remain an update is announced once more, to go out again. -/
theorem mapUpdateDeadline_resends (hs : (s.dev.mapSet (setIx nh up)).sends < s.dev.fld Reg.marUpd 11 8) :
    ∃ t, exec (.mapUpdateDeadline nh up) s = .next t ∧ t.pending = s.pending ∧ t.hostMem = s.hostMem ∧
      (s.dev.mapSet (setIx nh up)).Announced ((s.dev.mapSet (setIx nh up)).sends + 1) (t.dev.mapSet (setIx nh up)) ∧
      Reports { s.dev with nodes := t.dev.nodes, sets := t.dev.sets } t.dev := by
  have heff := mapUpdateDeadlineEffect_resends (d := s.dev.fresh) ⟨h.clocked, h.upd, h.sent, h.near⟩ hs
  obtain ⟨⟨ss, ns, n, hsent⟩, hann⟩ := sendUpdate_eq s.dev.fresh (setIx nh up) ((s.dev.mapSet (setIx nh up)).sends + 1)
  obtain ⟨t, ht, hp, hm, hdev⟩ := run_unposted (f := mapUpdateDeadlineEffect nh up) (s := s) (by rw [heff]; exact congrArg Dev.posted hsent)
  rw [heff] at hdev
  refine ⟨t, ht, hp, hm, ?_, ?_⟩
  · rw [hdev]
    exact hann
  · rw [hdev, fresh_mapSet, hsent]
    exact Reports.refl _

/-- After the last send the SHADOW copies go, and the set's keys are STALE but for one committed in this cycle. -/
theorem mapUpdateDeadline_drops (hs : s.dev.fld Reg.marUpd 11 8 ≤ (s.dev.mapSet (setIx nh up)).sends) :
    ∃ t, exec (.mapUpdateDeadline nh up) s = .next t ∧ t.pending = s.pending ∧ (t.dev.mapSet (setIx nh up)).upd = .free ∧
      (∀ k, k < 16 → (t.dev.key (setIx nh up * 16 + k)).shadow = none ∧
        (t.dev.key (setIx nh up * 16 + k)).active = (s.dev.key (setIx nh up * 16 + k)).active ∧
        ((s.dev.key (setIx nh up * 16 + k)).active.isSome = true →
          (t.dev.key (setIx nh up * 16 + k)).stale = decide ((s.dev.key (setIx nh up * 16 + k)).swapAt ≠ some s.dev.clk))) ∧
      Maps s.dev t.dev := by
  obtain ⟨seg, dirs, grp, detail, heff⟩ := mapUpdateDeadlineEffect_drops (d := s.dev.fresh) ⟨h.clocked, h.upd, h.sent, h.near⟩ hs
  obtain ⟨t, ht, hp, hdev⟩ := run_fresh (mapUpdateDeadlineEffect nh up) s
  rw [heff] at hdev
  have hfreed := freeShadows_maps s.dev.fresh (setIx nh up)
  have hmarked := markStale_marks (s.dev.fresh.freeShadows (setIx nh up)) (s.dev.fresh.setKeys nh up) 4 nh seg dirs grp
  have hends : Reports ((s.dev.fresh.freeShadows (setIx nh up)).markStale (s.dev.fresh.setKeys nh up) 4 nh seg dirs grp) t.dev := by
    rw [hdev]
    exact ((raise_reports _ _ _).trans (event_reports _ _ _ _ _)).trans (fresh_reports _)
  refine ⟨t, ht, hp, ?_, fun k hk => ⟨?_, ?_, fun ha => ?_⟩, ?_⟩
  · rw [hends.mapSet, markStale_mapSet, Dev.freeShadows, mapSet_modMapSet_same]
  · rw [hends.key, markStale_keeps MapKey.shadow fun _ _ => rfl]
    exact freeShadows_shadow _ _ hk
  · rw [hends.key, markStale_keeps MapKey.active fun _ _ => rfl]
    exact freeShadows_keeps MapKey.active (fun _ => rfl) _ _ _
  · rw [hends.key, markStale_stale (mem_setKeys (d := s.dev.fresh) hk ha), freeShadows_keeps MapKey.swapAt (fun _ => rfl), hfreed.clk]
    rfl
  · exact ((fresh_reports _).maps.trans hfreed).trans (hmarked.maps.trans hends.maps)

end

/-! ### MAP_COMMIT (09 R231, R232, R242) -/

/-- A key whose copies exchange roles in cycle `clk`. -/
def MapKey.exchanged (clk : Nat) (x : MapKey) : MapKey :=
  { x with active := x.shadow, shadow := if x.shadow.isNone then none else x.active, built := false, stale := false, swapAt := some clk }

/-- The device with the written keys of a set exchanged. -/
def Dev.exchangeKeys (d : Dev) (i : Nat) : Dev := (d.builtKeys i).foldl (fun d k => d.modKey k (MapKey.exchanged d.clk)) d

theorem exchangeKeys_eq (d : Dev) (i : Nat) : ∃ ks, d.exchangeKeys i = { d with keys := ks } :=
  foldl_modKey_eq id (fun e _ => MapKey.exchanged e.clk) (d.builtKeys i) d

/-- Each key of a list without repetitions exchanges its copies once. -/
theorem foldl_exchanged {l : List Nat} (hl : l.Nodup) (d : Dev) (j : Nat) :
    (l.foldl (fun d k => d.modKey k (MapKey.exchanged d.clk)) d).key j = if j ∈ l then (d.key j).exchanged d.clk else d.key j := by
  induction l generalizing d with
  | nil => rfl
  | cons i l ih =>
    obtain ⟨hi, hl⟩ := List.nodup_cons.1 hl
    rw [List.foldl_cons, ih hl]
    by_cases h : j = i
    · subst h
      rw [if_neg hi, if_pos List.mem_cons_self, key_modKey_same]
    · rw [key_modKey_ne h]
      simp only [List.mem_cons, h, false_or]
      rfl

theorem builtKeys_nodup (d : Dev) (i : Nat) : (d.builtKeys i).Nodup :=
  List.Pairwise.filter _ (List.Pairwise.map _ (fun _ _ hne h => hne (Nat.add_left_cancel h)) List.nodup_range)

/-- A written key has exchanged its copies. -/
theorem exchangeKeys_key {d : Dev} {i k : Nat} (hk : k < 16) (hb : (d.key (i * 16 + k)).built = true) :
    (d.exchangeKeys i).key (i * 16 + k) = (d.key (i * 16 + k)).exchanged d.clk :=
  (foldl_exchanged (builtKeys_nodup d i) d _).trans
    (if_pos (List.mem_filter.2 ⟨List.mem_map.2 ⟨k, List.mem_range.2 hk, rfl⟩, hb⟩))

/-- The device of a commit, the rebuild that was held apart. -/
def Dev.committed (d : Dev) (i : Nat) : Dev :=
  ((d.exchangeKeys i).modMapSet i (fun s => { s with ver := (s.ver + 1) % 8, upd := .free, heldR := [] })).lookAgain.count
    34 7 1 none 1

theorem committed_maps (d : Dev) (i : Nat) : Maps d (d.committed i) := by
  obtain ⟨ks, hks⟩ := exchangeKeys_eq d i
  have hkeys : Maps d (d.exchangeKeys i) := by
    rw [hks]
    exact Reports.refl _
  exact ((hkeys.trans (modMapSet_maps _ _ _)).trans (lookAgain_marks _).maps).trans (count_reports _ _ _ _ _ _).maps

theorem lookAgain_key (d : Dev) (i : Nat) : d.lookAgain.key i = d.key i := rfl
theorem lookAgain_mapSet (d : Dev) (i : Nat) : d.lookAgain.mapSet i = d.mapSet i := rfl

theorem committed_mapSet (d : Dev) (i : Nat) :
    ((d.committed i).mapSet i).ver = ((d.mapSet i).ver + 1) % 8 ∧ ((d.committed i).mapSet i).upd = .free := by
  obtain ⟨ks, hks⟩ := exchangeKeys_eq d i
  have hold : (d.exchangeKeys i).mapSet i = d.mapSet i := by
    rw [hks]
    rfl
  rw [Dev.committed, (count_reports _ _ _ _ _ _).mapSet i, lookAgain_mapSet, mapSet_modMapSet_same, hold]
  exact ⟨rfl, rfl⟩

theorem committed_key {d : Dev} {i k : Nat} (hk : k < 16) (hb : (d.key (i * 16 + k)).built = true) :
    (d.committed i).key (i * 16 + k) = (d.key (i * 16 + k)).exchanged d.clk := by
  rw [Dev.committed, (count_reports _ _ _ _ _ _).key, lookAgain_key, modMapSet_key]
  exact exchangeKeys_key hk hb

/-- A due commit, then the rebuild that was held. -/
theorem mapCommitEffect_due {d : Dev} {nh : Nat} {up : Bool} (hc : d.dev.clocked = true) (hd : d.commitDue (d.mapSet (setIx nh up)) = true) :
    mapCommitEffect nh up d = (d.committed (setIx nh up)).rebuild (setIx nh up) (d.mapSet (setIx nh up)).heldR := by
  unfold mapCommitEffect
  rw [if_neg (by simp [hc, hd])]
  unfold Dev.committed Dev.exchangeKeys
  rfl

/-- At the announced boundary the written keys of the set exchange their copies, and its version advances. -/
theorem mapCommit_next {s : State} {nh : Fin 16384} {up : Bool} (hc : s.dev.dev.clocked = true)
    (hd : s.dev.commitDue (s.dev.mapSet (setIx nh up)) = true) :
    ∃ t, exec (.mapCommit nh up) s = .next t ∧ t.pending = s.pending ∧
      (t.dev.mapSet (setIx nh up)).ver = ((s.dev.mapSet (setIx nh up)).ver + 1) % 8 ∧
      ((s.dev.mapSet (setIx nh up)).heldR = [] → (t.dev.mapSet (setIx nh up)).upd = .free ∧ Maps s.dev t.dev) ∧
      ∀ k, k < 16 → (s.dev.key (setIx nh up * 16 + k)).built = true →
        (t.dev.key (setIx nh up * 16 + k)).active = (s.dev.key (setIx nh up * 16 + k)).shadow ∧
        (t.dev.key (setIx nh up * 16 + k)).stale = false ∧ (t.dev.key (setIx nh up * 16 + k)).swapAt = some s.dev.clk := by
  obtain ⟨t, ht, hp, hdev⟩ := run_fresh (mapCommitEffect nh up) s
  rw [mapCommitEffect_due (d := s.dev.fresh) hc hd] at hdev
  obtain ⟨hver, hupd⟩ := committed_mapSet s.dev.fresh (setIx nh up)
  refine ⟨t, ht, hp, ?_, fun hheld => ?_, fun k hk hb => ?_⟩
  · rw [hdev, fresh_mapSet, rebuild_ver, hver]
    rfl
  · rw [fresh_mapSet, hheld, rebuild_nil] at hdev
    rw [hdev]
    exact ⟨hupd, ((fresh_reports _).maps.trans (committed_maps _ _)).trans (fresh_reports _).maps⟩
  · have hkey := committed_key (d := s.dev.fresh) hk hb
    rw [hdev, fresh_key, rebuild_key_keeps MapKey.active fun _ _ => rfl, rebuild_key_keeps MapKey.stale fun _ _ => rfl,
      rebuild_key_keeps MapKey.swapAt fun _ _ => rfl, hkey]
    exact ⟨rfl, rfl, rfl⟩

/-! ### The statement -/

/-- Settles O36: an update announced again, one dropped, and a commit. -/
theorem mapUpdates : Obligations.MapUpdates := by
  intro s nh up hc
  refine ⟨fun hu hs hnear hsends => ?_, fun hu hs hnear hsends => mapUpdateDeadline_drops ⟨hc, hu, hs, hnear⟩ hsends, mapCommit_next hc⟩
  obtain ⟨t, ht, hp, hm, hann, hreports⟩ := mapUpdateDeadline_resends ⟨hc, hu, hs, hnear⟩ hsends
  exact ⟨t, ht, hp, hm, hann.upd, hann.sends, hann.sent, hann.acked, hreports⟩

end Sys2Proof.Machine
end

section
/-! SUPPORT. Sounding sessions that open (09 R221, R241, 21 R477): what SOUND asks of the session that it opens or joins, and what asking
once more leaves of every other session. -/

namespace Sys2Proof.Machine

/-! ### Indices covered -/

theorem or_or_of_or_eq {p g : Nat} (h : p ||| g = p) (q : Nat) : (p ||| q) ||| g = p ||| q := by
  rw [Nat.or_assoc, Nat.or_comm q, ← Nat.or_assoc, h]

theorem or_or_self (p g : Nat) : (p ||| g) ||| g = p ||| g := by
  rw [Nat.or_assoc, Nat.or_self]

/-- The indices that a session does not cover, held beside it, cover all that was asked for. -/
theorem or_uncovered {segs : Nat} (h : segs < 2 ^ 16) (s m : Nat) :
    (s ||| (m ||| (segs &&& (0xFFFF - (segs &&& s))))) ||| segs = s ||| (m ||| (segs &&& (0xFFFF - (segs &&& s)))) := by
  have hlt : segs &&& s < 2 ^ 16 := Nat.lt_of_le_of_lt Nat.and_le_left h
  have hcompl : ∀ i, (0xFFFF - (segs &&& s)).testBit i = (decide (i < 16) && !(segs &&& s).testBit i) := fun i => by
    rw [← Nat.testBit_two_pow_sub_succ hlt i]
    congr 1
    omega
  refine Nat.eq_of_testBit_eq fun i => ?_
  have hhigh : segs.testBit i = true → i < 16 := fun hi => by
    refine Nat.lt_of_not_le fun hge => ?_
    rw [Nat.testBit_lt_two_pow (Nat.lt_of_lt_of_le h (Nat.pow_le_pow_right (by decide) hge))] at hi
    cases hi
  simp only [Nat.testBit_or, Nat.testBit_and, hcompl]
  cases hb : segs.testBit i with
  | false => simp
  | true => cases s.testBit i <;> simp [hhigh hb]

/-- The session covers the indices, or holds those that it does not cover until it ends; without a place it covers them. -/
def Sess.Covers (x : Sess) (segs : Nat) : Prop :=
  (x.segs ||| x.more) ||| segs = x.segs ||| x.more ∧ (x.endBp = none → x.segs ||| segs = x.segs)

/-- `y` is the session `x` with more asked of it. -/
structure Sess.Extends (x y : Sess) : Prop where
  nh : y.nh = x.nh
  up : y.up = x.up
  done : y.done = x.done
  endBp : y.endBp = x.endBp
  cmds : x.cmds ⊆ y.cmds
  segs : ∃ a, y.segs = x.segs ||| a
  more : ∃ a, y.more = x.more ||| a

theorem Sess.Extends.refl (x : Sess) : x.Extends x :=
  ⟨rfl, rfl, rfl, rfl, List.Subset.refl _, ⟨0, (Nat.or_zero _).symm⟩, ⟨0, (Nat.or_zero _).symm⟩⟩

/-- What is covered stays covered. -/
theorem Sess.Extends.covers {x y : Sess} (h : x.Extends y) {segs : Nat} (hc : x.Covers segs) : y.Covers segs := by
  obtain ⟨a, ha⟩ := h.segs
  obtain ⟨b, hb⟩ := h.more
  obtain ⟨hall, hplace⟩ := hc
  refine ⟨?_, fun he => ?_⟩
  · have hparts : y.segs ||| y.more = (x.segs ||| x.more) ||| (a ||| b) := by rw [ha, hb]; ac_rfl
    rw [hparts, or_or_of_or_eq hall]
  · rw [ha, or_or_of_or_eq (hplace (h.endBp ▸ he))]

theorem Reports.set_mnt {a b : Dev} (h : Reports a b) (x : Mnt) : Reports { a with mnt := x } { b with mnt := x } :=
  ⟨congrArg (fun c => { c with mnt := { x with fclass := 0 } }) h.1, h.2⟩

/-! ### A session asked for (09 R241, 21 R477) -/

theorem askSession_eq (d : Dev) (s : Sess) : ∃ m, d.askSession s = { d with mnt := m } := by
  unfold Dev.askSession
  split
  · exact ⟨_, rfl⟩
  · split
    · exact ⟨_, rfl⟩
    · split
      · exact ⟨_, rfl⟩
      · exact ⟨_, rfl⟩

/-- The session that a request opens. -/
def Sess.opened (id nh : Nat) (up : Bool) (segs : Nat) (mark : Option Nat) (cmds : List Nat) : Sess :=
  { id := id, nh := nh, up := up, segs := segs, got := 0, endBp := none, mark := mark, more := 0, moreMark := none, cmds := cmds, frames := 0
    lastFr := 0, done := false, rcvd := [] }

theorem opened_covers (id nh : Nat) (up : Bool) (segs : Nat) (mark : Option Nat) (cmds : List Nat) :
    (Sess.opened id nh up segs mark cmds).Covers segs :=
  ⟨or_or_of_or_eq (Nat.or_self segs) 0, fun _ => Nat.or_self segs⟩

/-- Asking changes sessions, the arbiter's requests and the numbering of sessions. -/
theorem openSession_eq (d : Dev) (nh : Nat) (up : Bool) (segs : Nat) (mark : Option Nat) (cmds : List Nat) :
    ∃ ss m n, d.openSession nh up segs mark cmds = { d with sess := ss, mnt := m, nextId := n } := by
  unfold Dev.openSession
  split
  · split
    · exact ⟨_, _, _, rfl⟩
    · exact ⟨_, _, _, rfl⟩
  · dsimp only
    obtain ⟨m, h⟩ := askSession_eq { d with sess := d.sess ++ [.opened d.nextId nh up segs mark cmds], nextId := d.nextId + 1 }
      (.opened d.nextId nh up segs mark cmds)
    exact ⟨_, m, _, h⟩

/-- Either the open session of the node and direction is asked for more, or a new one stands last. -/
theorem openSession_sess (d : Dev) (nh : Nat) (up : Bool) (segs : Nat) (mark : Option Nat) (cmds : List Nat) :
    (∃ (s : Sess) (f : Sess → Sess), d.openOf nh up = some s ∧
      (d.openSession nh up segs mark cmds).sess = d.sess.map (fun x => if x.id = s.id then f x else x) ∧
      (∀ x : Sess, x.Extends (f x) ∧ (f x).cmds = x.cmds ++ cmds) ∧ (segs < 2 ^ 16 → (f s).Covers segs)) ∨
    ∃ y : Sess, (d.openSession nh up segs mark cmds).sess = d.sess ++ [y] ∧ y.nh = nh ∧ y.up = up ∧ y.done = false ∧ y.cmds = cmds ∧
      y.Covers segs := by
  unfold Dev.openSession
  split
  · next s hs =>
    split
    · next he =>
      exact .inl ⟨s, _, hs, rfl, fun x => ⟨⟨rfl, rfl, rfl, rfl, List.subset_append_left _ _, ⟨segs, rfl⟩, ⟨0, (Nat.or_zero _).symm⟩⟩, rfl⟩,
        fun _ => ⟨or_or_of_or_eq (or_or_self _ _) _, fun _ => or_or_self _ _⟩⟩
    · next he =>
      exact .inl ⟨s, _, hs, rfl, fun x => ⟨⟨rfl, rfl, rfl, rfl, List.subset_append_left _ _, ⟨0, (Nat.or_zero _).symm⟩, ⟨_, rfl⟩⟩, rfl⟩,
        fun hlt => ⟨or_uncovered hlt _ _, fun hn => absurd (by rw [hn]; rfl) he⟩⟩
  · refine .inr ⟨.opened d.nextId nh up segs mark cmds, ?_, rfl, rfl, rfl, rfl, opened_covers _ _ _ _ _ _⟩
    obtain ⟨m, h⟩ := askSession_eq { d with sess := d.sess ++ [.opened d.nextId nh up segs mark cmds], nextId := d.nextId + 1 }
      (.opened d.nextId nh up segs mark cmds)
    exact congrArg Dev.sess h

theorem openOf_spec {d : Dev} {nh : Nat} {up : Bool} {s : Sess} (h : d.openOf nh up = some s) :
    s ∈ d.sess ∧ s.nh = nh ∧ s.up = up ∧ s.done = false := by
  have hprop := List.find?_some h
  simp only [Bool.and_eq_true, decide_eq_true_eq, Bool.not_eq_true'] at hprop
  exact ⟨List.mem_of_find?_eq_some h, hprop.1.1, hprop.1.2, hprop.2⟩

/-- A session of the node and direction that has not ended serves the command `id` and covers the indices. -/
def Dev.Sounds (d : Dev) (nh : Nat) (up : Bool) (segs id : Nat) : Prop :=
  ∃ x ∈ d.sess, x.nh = nh ∧ x.up = up ∧ x.done = false ∧ id ∈ x.cmds ∧ x.Covers segs

/-- Every session stands, with more asked of it or as it was. -/
theorem openSession_extends (d : Dev) (nh : Nat) (up : Bool) (segs : Nat) (mark : Option Nat) (cmds : List Nat) {x : Sess} (hx : x ∈ d.sess) :
    ∃ y ∈ (d.openSession nh up segs mark cmds).sess, x.Extends y := by
  obtain ⟨s, f, -, hsess, hf, -⟩ | ⟨y, hsess, -⟩ := openSession_sess d nh up segs mark cmds
  · refine ⟨if x.id = s.id then f x else x, by rw [hsess]; exact List.mem_map_of_mem hx, ?_⟩
    split
    · exact (hf x).1
    · exact .refl x
  · exact ⟨x, by rw [hsess]; exact List.mem_append_left _ hx, .refl x⟩

theorem openSession_keeps_sounds {d : Dev} {nh' segs' id : Nat} {up' : Bool} (h : d.Sounds nh' up' segs' id) (nh : Nat) (up : Bool) (segs : Nat)
    (mark : Option Nat) (cmds : List Nat) : (d.openSession nh up segs mark cmds).Sounds nh' up' segs' id := by
  obtain ⟨x, hx, hnh, hup, hdone, hid, hcov⟩ := h
  obtain ⟨y, hy, hxy⟩ := openSession_extends d nh up segs mark cmds hx
  exact ⟨y, hy, hxy.nh.trans hnh, hxy.up.trans hup, hxy.done.trans hdone, hxy.cmds hid, hxy.covers hcov⟩

/-- The commands that ask are served by a session that covers what they ask for. -/
theorem openSession_sounds (d : Dev) (nh : Nat) (up : Bool) {segs : Nat} (hlt : segs < 2 ^ 16) (mark : Option Nat) {cmds : List Nat} {id : Nat}
    (hid : id ∈ cmds) : (d.openSession nh up segs mark cmds).Sounds nh up segs id := by
  obtain ⟨s, f, hopen, hsess, hf, hcov⟩ | ⟨y, hsess, hnh, hup, hdone, hcmds, hcov⟩ := openSession_sess d nh up segs mark cmds
  · obtain ⟨hs, hnh, hup, hdone⟩ := openOf_spec hopen
    obtain ⟨hext, hcmds⟩ := hf s
    refine ⟨f s, ?_, hext.nh.trans hnh, hext.up.trans hup, hext.done.trans hdone, ?_, hcov hlt⟩
    · rw [hsess]
      exact List.mem_map.2 ⟨s, hs, if_pos rfl⟩
    · rw [hcmds]
      exact List.mem_append_right _ hid
  · exact ⟨y, by rw [hsess]; exact List.mem_append_right _ List.mem_cons_self, hnh, hup, hdone, hcmds ▸ hid, hcov⟩

/-! ### SOUND (09 R241) -/

/-- The device with a session of each direction asked for. -/
def Dev.soundBoth (d : Dev) (c : CmdDesc) (id : Nat) : Dev :=
  let d := if c.f1 16 16 = 1 then d.openSession c.n2 false (c.f1 15 0) none [id] else d
  if c.f1 17 17 = 1 then d.openSession c.n2 true (c.f1 15 0) none [id] else d

theorem soundBoth_eq (d : Dev) (c : CmdDesc) (id : Nat) : ∃ ss m n, d.soundBoth c id = { d with sess := ss, mnt := m, nextId := n } := by
  have asked : ∀ (e : Dev) (p : Prop) [Decidable p] (up : Bool), (∃ ss m n, e = { d with sess := ss, mnt := m, nextId := n }) →
      ∃ ss m n, (if p then e.openSession c.n2 up (c.f1 15 0) none [id] else e) = { d with sess := ss, mnt := m, nextId := n } := by
    rintro _ p _ up ⟨ss, m, n, rfl⟩
    split
    · obtain ⟨ss', m', n', h⟩ := openSession_eq { d with sess := ss, mnt := m, nextId := n } c.n2 up (c.f1 15 0) none [id]
      exact ⟨ss', m', n', h⟩
    · exact ⟨ss, m, n, rfl⟩
  exact asked _ _ true (asked d _ false ⟨_, _, _, rfl⟩)

theorem bits_lt (v : Nat) {hi lo : Nat} : bits v hi lo < 2 ^ (hi + 1 - lo) := Nat.mod_lt _ (Nat.two_pow_pos _)

/-- Each direction asked for is sounded. -/
theorem soundBoth_sounds (d : Dev) (c : CmdDesc) (id : Nat) {up : Bool} (h : bit c.n1 (if up then 17 else 16) = true) :
    (d.soundBoth c id).Sounds c.n2 up (c.f1 15 0) id := by
  rw [bit_eq_bits, decide_eq_true_eq] at h
  unfold Dev.soundBoth
  cases up with
  | true =>
    rw [if_pos (show c.f1 17 17 = 1 from h)]
    exact openSession_sounds _ _ _ (bits_lt _) _ List.mem_cons_self
  | false =>
    rw [if_pos (show c.f1 16 16 = 1 from h)]
    have hdown := openSession_sounds d c.n2 false (bits_lt c.n1) none (segs := c.f1 15 0) (List.mem_cons_self (a := id) (l := []))
    dsimp only
    split
    · exact openSession_keeps_sounds hdown _ _ _ _ _
    · exact hdown

theorem exec_sound (c : CmdDesc) (s : State) : exec (.sound c) s =
    run (command (nodeSpec 0x27 0x3FFFF) always (fun _ c => decide (c.f1 15 0 ≠ 0 ∧ c.f1 17 16 ≠ 0))
      (fun id c d => if (d.node c.n2).st ≠ .active ∧ (d.node c.n2).st ≠ .dormant then d.finishSt id stNoNode else d.soundBoth c id) c) s := rfl

section
variable {s : State} {c : CmdDesc} (h : Accepted s c (nodeSpec 0x27 0x3FFFF)) (hargs : c.f1 15 0 ≠ 0 ∧ c.f1 17 16 ≠ 0)
include h hargs

theorem sound_no_node (hn : (s.dev.node c.n2).st ≠ .active ∧ (s.dev.node c.n2).st ≠ .dormant) :
    Serves (exec (.sound c) s) s s.dev stNoNode [] := by
  have hr := fetched_reports s c
  rw [exec_sound]
  refine command_serves h rfl (decide_eq_true hargs) (if_pos ?_) hr (fetched_outstanding s c)
  rwa [hr.node]

/-- SOUND of a node in service stays outstanding, with a session in each direction asked for. -/
theorem sound_waits (hn : (s.dev.node c.n2).st = .active ∨ (s.dev.node c.n2).st = .dormant) :
    ∃ t, exec (.sound c) s = .next t ∧ t.pending = s.pending ∧ (t.dev.cmdOf s.dev.nextId).isSome = true ∧
      Reports { s.dev with sess := t.dev.sess, mnt := t.dev.mnt } t.dev ∧
      ∀ up : Bool, bit c.n1 (if up then 17 else 16) = true → t.dev.Sounds c.n2 up (c.f1 15 0) s.dev.nextId := by
  have hr := fetched_reports s c
  have hserved : ¬ (((s.dev.fresh.fetchCmd c).node c.n2).st ≠ .active ∧ ((s.dev.fresh.fetchCmd c).node c.n2).st ≠ .dormant) := by
    rw [hr.node]
    exact fun e => hn.elim e.1 e.2
  obtain ⟨ss, m, n, heq⟩ := soundBoth_eq (s.dev.fresh.fetchCmd c) c s.dev.nextId
  rw [exec_sound]
  obtain ⟨t, ht, hp, hdev⟩ := command_next (eff := fun id c d =>
    if (d.node c.n2).st ≠ .active ∧ (d.node c.n2).st ≠ .dormant then d.finishSt id stNoNode else d.soundBoth c id) h
    (obj := always) (arg := fun _ c => decide (c.f1 15 0 ≠ 0 ∧ c.f1 17 16 ≠ 0)) rfl (decide_eq_true hargs)
  rw [if_neg hserved] at hdev
  refine ⟨t, ht, hp, ?_, ?_, fun up hup => ?_⟩
  · rw [hdev, fresh_cmdOf, heq]
    exact fetched_outstanding s c
  · rw [hdev, heq]
    exact ((hr.set_sess ss).set_mnt m).trans ⟨rfl, fun _ _ => rfl⟩
  · rw [hdev]
    exact soundBoth_sounds _ c _ hup

end

/-! ### The statement -/

/-- Settles O34: a node that is not in service, and one that is sounded in each direction asked for. -/
theorem soundOpensSessions : Obligations.SoundOpensSessions :=
  fun _ _ h hsegs hdirs => ⟨fun ha hd => sound_no_node h ⟨hsegs, hdirs⟩ ⟨ha, hd⟩, sound_waits h ⟨hsegs, hdirs⟩⟩

end Sys2Proof.Machine
end

section
/-! SUPPORT. Sounding sessions that end (09 R223, R224, 12 R318): the commands that wait for a session alone complete, and what it measured is
written to SHADOW. -/

namespace Sys2Proof.Machine

/-! ### Commands completed in turn (16 R393) -/

theorem finish_cmds (d : Dev) (id st : Nat) (q : List Byte) : (d.finish id st q).cmds = d.cmds.filter (fun x => decide (x.id ≠ id)) := by
  unfold Dev.finish
  split
  · next h =>
    refine (List.filter_eq_self.2 fun x hx => ?_).symm
    simpa using List.find?_eq_none.1 h x hx
  · dsimp only
    rw [(mark_quiet _ _).2.1]
    split
    · rw [(complete_quiet _ _ _).2.1, modAcct_cmds]
    · rw [modAcct_cmds]

/-- A command that is not outstanding does not become so as another ends. -/
theorem finish_keeps_ended {d : Dev} {c : Nat} (h : d.cmdOf c = none) (id st : Nat) (q : List Byte) : (d.finish id st q).cmdOf c = none := by
  rw [Dev.cmdOf, finish_cmds, List.find?_eq_none]
  exact fun x hx => List.find?_eq_none.1 h x (List.mem_filter.1 hx).1

/-! ### Sessions settled (09 R223) -/

/-- A command waits for sessions, and all of them have ended. -/
def Dev.AllOver (d : Dev) (c : Nat) : Prop := (∃ y ∈ d.sess, c ∈ y.cmds) ∧ ∀ y ∈ d.sess, c ∈ y.cmds → y.done = true

/-- Settling completes commands, and changes nothing else but the sessions. -/
theorem settleSessions_reports (d : Dev) : Reports { d with sess := d.settleSessions.sess } d.settleSessions := by
  unfold Dev.settleSessions
  exact (foldl_reports _ (fun _ _ => finish_reports _ _ _ _) _ d).set_sess _

/-- A command all of whose sessions have ended is complete. -/
theorem settleSessions_ends {d : Dev} {c : Nat} (h : d.AllOver c) : d.settleSessions.cmdOf c = none := by
  obtain ⟨⟨y, hy, hc⟩, hdone⟩ := h
  have hwaits : (d.sess.any fun s => s.cmds.contains c && !s.done) = false := by
    rw [List.any_eq_false]
    intro x hx
    by_cases hin : c ∈ x.cmds
    · simp [hdone x hx hin]
    · simp [hin]
  have hready : c ∈ ((d.sess.flatMap (fun s => s.cmds)).eraseDups).filter
      (fun c => !(d.sess.any fun s => s.cmds.contains c && !s.done)) :=
    List.mem_filter.2 ⟨List.mem_eraseDups.2 (List.mem_flatMap.2 ⟨y, hy, hc⟩), by rw [hwaits]; rfl⟩
  unfold Dev.settleSessions
  exact foldl_settles (P := fun e => Dev.cmdOf e c = none) hready (fun e => finish_ended e c _ _)
    (fun e i he => finish_keeps_ended he i _ _) d

/-- The session of an identifier has ended, and what waits for it alone waits for sessions that have ended. -/
theorem modSess_allOver {d : Dev} {x : Sess} (hx : x ∈ d.sess) {c : Nat} (hc : c ∈ x.cmds)
    (halone : ∀ y ∈ d.sess, c ∈ y.cmds → y.id = x.id) (got : Nat) :
    (d.modSess x.id (fun s => { s with got := got, done := true })).AllOver c := by
  refine ⟨⟨_, List.mem_map_of_mem hx, ?_⟩, fun z hz hcz => ?_⟩
  · rw [if_pos rfl]
    exact hc
  · obtain ⟨y, hy, rfl⟩ := List.mem_map.1 hz
    split at hcz
    · next e => rw [if_pos e]
    · next e => exact absurd (halone y hy hcz) e

/-- Asking again for no command changes neither what commands wait for nor whether it has ended. -/
theorem openSession_allOver {d : Dev} {c : Nat} (h : d.AllOver c) (nh : Nat) (up : Bool) (segs : Nat) (mark : Option Nat) :
    (d.openSession nh up segs mark []).AllOver c := by
  obtain ⟨⟨y, hy, hc⟩, hdone⟩ := h
  obtain ⟨z, hz, hext⟩ := openSession_extends d nh up segs mark [] hy
  refine ⟨⟨z, hz, hext.cmds hc⟩, fun w hw hcw => ?_⟩
  obtain ⟨s, f, -, hsess, hf, -⟩ | ⟨n, hsess, -, -, -, hcmds, -⟩ := openSession_sess d nh up segs mark []
  · rw [hsess] at hw
    obtain ⟨v, hv, rfl⟩ := List.mem_map.1 hw
    split at hcw
    · next e =>
      obtain ⟨hv', hcmds⟩ := hf v
      rw [hcmds, List.append_nil] at hcw
      rw [if_pos e, hv'.done]
      exact hdone v hv hcw
    · next e =>
      rw [if_neg e]
      exact hdone v hv hcw
  · rw [hsess] at hw
    obtain hw | hw := List.mem_append.1 hw
    · exact hdone w hw hcw
    · rw [List.mem_singleton.1 hw, hcmds] at hcw
      cases hcw

/-! ### The end of a session (09 R223) -/

/-- From `a` to `b` the session `x` has ended: the commands that waited for it alone are complete, in the same device state and with the same
keys. -/
structure SessionEnds (x : Sess) (a b : Dev) : Prop where
  dev : b.dev = a.dev
  key : ∀ i, b.key i = a.key i
  cmds : ∀ c ∈ x.cmds, (∀ y ∈ a.sess, c ∈ y.cmds → y.id = x.id) → b.cmdOf c = none

/-- The device with a session ended, what it leaves unmeasured not yet asked for. -/
def Dev.sessionOver (d : Dev) (x : Sess) (got : Nat) : Dev :=
  ({ d with mnt := { d.mnt with
      reqs := d.mnt.reqs.filter (fun r => decide (r.sess ≠ some x.id))
      runs := d.mnt.runs.filter (fun r => decide (r.req.sess ≠ some x.id)) } }).modSess x.id (fun s => { s with got := got, done := true })

/-- What a session leaves unmeasured is asked for again, unless there is nothing, and the commands are settled. -/
theorem endSession_cases (d : Dev) (x : Sess) (got : Nat) :
    d.endSession x got = (d.sessionOver x got).settleSessions ∨
    ∃ segs mark, d.endSession x got = ((d.sessionOver x got).openSession x.nh x.up segs mark []).settleSessions := by
  unfold Dev.endSession
  dsimp only
  split
  · exact .inl rfl
  · exact .inr ⟨_, _, rfl⟩

theorem settled_ends {d e : Dev} {x : Sess} (hdev : e.dev = d.dev) (hkeys : e.keys = d.keys)
    (hover : ∀ c ∈ x.cmds, (∀ y ∈ d.sess, c ∈ y.cmds → y.id = x.id) → e.AllOver c) : SessionEnds x d e.settleSessions := by
  have hr := settleSessions_reports e
  refine ⟨hr.dev.trans hdev, fun i => (hr.key i).trans ?_, fun c hc halone => settleSessions_ends (hover c hc halone)⟩
  exact congrArg (SMap.get (fun _ => MapKey.init) i) hkeys

theorem endSession_ends {d : Dev} {x : Sess} (hx : x ∈ d.sess) (got : Nat) : SessionEnds x d (d.endSession x got) := by
  have hover : ∀ c ∈ x.cmds, (∀ y ∈ d.sess, c ∈ y.cmds → y.id = x.id) → (d.sessionOver x got).AllOver c := by
    intro c hc halone
    unfold Dev.sessionOver
    exact modSess_allOver hx hc halone got
  obtain h | ⟨segs, mark, h⟩ := endSession_cases d x got
  · rw [h]
    exact settled_ends rfl rfl hover
  · obtain ⟨ss, m, n, heq⟩ := openSession_eq (d.sessionOver x got) x.nh x.up segs mark []
    rw [h]
    refine settled_ends ?_ ?_ fun c hc halone => openSession_allOver (hover c hc halone) _ _ _ _
    · rw [heq]; rfl
    · rw [heq]; rfl

/-! ### Dormancy granted unasked (12 R318) -/

theorem choosePofs_sendOwn_eq (d : Dev) (g nh code tag : Nat) (f : Node → Node) (cmd : Option Nat) (body : List Byte) :
    ∃ ns n k, ((d.choosePofs g).2.modNode nh f).sendOwn nh code tag cmd body = { d with nodes := ns, nextId := n, freeCtr := k } := by
  obtain ⟨ns, k, hk⟩ : ∃ ns k, (d.choosePofs g).2.modNode nh f = { d with nodes := ns, freeCtr := k } := ⟨_, _, rfl⟩
  obtain ⟨ns', h⟩ := sendOwn_eq { d with nodes := ns, freeCtr := k } nh code tag cmd body
  rw [hk]
  exact ⟨ns', _, k, h⟩

theorem grantDormancy_eq (d : Dev) (nh req ppm : Nat) (cmd : Option Nat) :
    ∃ ns n k, d.grantDormancy nh req ppm cmd = { d with nodes := ns, nextId := n, freeCtr := k } :=
  choosePofs_sendOwn_eq d _ nh 0x0A 0 _ cmd _

theorem regrantDue_eq (d : Dev) (nh : Nat) : ∃ ns n k, d.regrantDue nh = { d with nodes := ns, nextId := n, freeCtr := k } := by
  have regranted : ∀ (f : Node → Node) (req ppm : Nat), ∃ ns n k, (d.modNode nh f).grantDormancy nh req ppm none =
      { d with nodes := ns, nextId := n, freeCtr := k } := by
    intro f req ppm
    obtain ⟨ns, hns⟩ : ∃ ns, d.modNode nh f = { d with nodes := ns } := ⟨_, rfl⟩
    obtain ⟨ns', n, k, h⟩ := grantDormancy_eq { d with nodes := ns } nh req ppm none
    rw [hns]
    exact ⟨ns', n, k, h⟩
  unfold Dev.regrantDue
  dsimp only
  split
  · exact ⟨_, _, _, rfl⟩
  · split
    · split
      · exact ⟨_, _, _, rfl⟩
      · exact regranted _ _ _
    · exact ⟨_, _, _, rfl⟩

theorem SessionEnds.regranted {x : Sess} {a b : Dev} (h : SessionEnds x a b) (nh : Nat) : SessionEnds x a (b.regrantDue nh) := by
  obtain ⟨ns, n, k, heq⟩ := regrantDue_eq b nh
  rw [heq]
  exact ⟨h.dev, h.key, h.cmds⟩

/-! ### What a session measured (09 R223-R227) -/

/-- One more entry derived, beside those so far. -/
def deriveStep (nh : Nat) (up : Bool) (sndBp : Nat) (x : List Entry × Dev) (m : Nat × List Nat × List Int) : List Entry × Dev :=
  (x.1 ++ [(x.2.deriveKey nh up m.1 sndBp m.2.1 m.2.2).1], (x.2.deriveKey nh up m.1 sndBp m.2.1 m.2.2).2)

theorem deriveSet_foldl (d : Dev) (nh : Nat) (up : Bool) (sndBp : Nat) (ms : List (Nat × List Nat × List Int)) :
    d.deriveSet nh up sndBp ms =
      (ms.foldl (deriveStep nh up sndBp) ([], d)).2.rebuild (setIx nh up) (ms.foldl (deriveStep nh up sndBp) ([], d)).1 := rfl

theorem deriveKey_eq (d : Dev) (nh : Nat) (up : Bool) (seg sndBp : Nat) (snrs : List Nat) (noise : List Int) :
    (∃ ks, (d.deriveKey nh up seg sndBp snrs noise).2 = { d with keys := ks }) ∧ (d.deriveKey nh up seg sndBp snrs noise).1.seg = seg :=
  ⟨⟨_, rfl⟩, rfl⟩

/-- Entries derived one after another: each names the index that it was derived for, and the keys alone change. -/
theorem foldl_deriveStep (nh : Nat) (up : Bool) (sndBp : Nat) (ms : List (Nat × List Nat × List Int)) (es : List Entry) (d : Dev) :
    (∃ ks, (ms.foldl (deriveStep nh up sndBp) (es, d)).2 = { d with keys := ks }) ∧
      (ms.foldl (deriveStep nh up sndBp) (es, d)).1.map (fun e => e.seg) = es.map (fun e => e.seg) ++ ms.map (fun m => m.1) := by
  induction ms generalizing es d with
  | nil => exact ⟨⟨d.keys, rfl⟩, (List.append_nil _).symm⟩
  | cons m ms ih =>
    obtain ⟨⟨ks, hkey⟩, hseg⟩ := deriveKey_eq d nh up m.1 sndBp m.2.1 m.2.2
    obtain ⟨⟨ks', hks⟩, hsegs⟩ := ih (es ++ [(d.deriveKey nh up m.1 sndBp m.2.1 m.2.2).1]) (d.deriveKey nh up m.1 sndBp m.2.1 m.2.2).2
    rw [List.foldl_cons, deriveStep]
    refine ⟨⟨ks', ?_⟩, ?_⟩
    · rw [hks, hkey]
    · rw [hsegs, List.map_append, List.append_assoc, List.map_singleton, hseg]
      rfl

/-- Deriving is a rebuild of the set with an entry of each index. -/
theorem deriveSet_rebuild (d : Dev) (nh : Nat) (up : Bool) (sndBp : Nat) (ms : List (Nat × List Nat × List Int)) :
    ∃ ks es, d.deriveSet nh up sndBp ms = ({ d with keys := ks }).rebuild (setIx nh up) es ∧ es.map (fun e => e.seg) = ms.map (fun m => m.1) := by
  obtain ⟨⟨ks, hks⟩, hsegs⟩ := foldl_deriveStep nh up sndBp ms [] d
  exact ⟨ks, _, by rw [deriveSet_foldl, hks], hsegs⟩

theorem deriveSet_eq (d : Dev) (nh : Nat) (up : Bool) (sndBp : Nat) (ms : List (Nat × List Nat × List Int)) :
    ∃ ks ss ns n, d.deriveSet nh up sndBp ms = { d with keys := ks, sets := ss, nodes := ns, nextId := n } := by
  obtain ⟨ks, es, h, -⟩ := deriveSet_rebuild d nh up sndBp ms
  obtain ⟨ks', ss, ns, n, hr⟩ := rebuild_eq { d with keys := ks } (setIx nh up) es
  exact ⟨ks', ss, ns, n, h.trans hr⟩

theorem keyIx_eq (nh : Nat) (up : Bool) (seg : Nat) : keyIx nh up seg = setIx nh up * 16 + seg := by
  unfold keyIx setIx
  omega

/-- Unless the set is SCHEDULED, the SHADOW copy of every index measured is written. -/
theorem deriveSet_built {d : Dev} {nh : Nat} {up : Bool} (hu : (d.mapSet (setIx nh up)).upd ≠ .scheduled) (sndBp : Nat)
    {ms : List (Nat × List Nat × List Int)} {k : Nat} (hk : k ∈ ms.map (fun m => m.1)) :
    ((d.deriveSet nh up sndBp ms).key (keyIx nh up k)).built = true := by
  obtain ⟨ks, es, h, hsegs⟩ := deriveSet_rebuild d nh up sndBp ms
  rw [← hsegs] at hk
  obtain ⟨e, he, rfl⟩ := List.mem_map.1 hk
  rw [h, keyIx_eq]
  exact rebuild_built (d := { d with keys := ks }) hu he

/-- A session that ends after entries have been derived. -/
theorem deriveSet_session_ends {d : Dev} {x : Sess} (hx : x ∈ d.sess) (nh : Nat) (up : Bool) (sndBp : Nat)
    (ms : List (Nat × List Nat × List Int)) (got : Nat) :
    SessionEnds x (d.deriveSet nh up sndBp ms) (((d.deriveSet nh up sndBp ms).endSession x got).regrantDue nh) ∧
      (d.deriveSet nh up sndBp ms).dev = d.dev ∧ (d.deriveSet nh up sndBp ms).sess = d.sess := by
  obtain ⟨ks, ss, ns, n, h⟩ := deriveSet_eq d nh up sndBp ms
  refine ⟨(endSession_ends ?_ got).regranted nh, ?_, ?_⟩
  · rw [h]; exact hx
  · rw [h]
  · rw [h]

/-! ### The effects -/

/-- The indices of an uplink session with at least `SND_MIN` symbols received. -/
def Dev.measuredSegs (d : Dev) (x : Sess) : List Nat :=
  (segList x.segs).filter (fun k => decide (d.sndMin ≤ (x.rcvd.filter (fun y => decide (y.seg = k))).length))

/-- An uplink session whose last allocation is over ends with the indices measured. -/
theorem soundSessionEndEffect_ends {d : Dev} {nh : Nat} {x : Sess} (hrun : d.dev = .run) (hopen : d.openOf nh true = some x)
    (hover : d.soundingOver x = true) :
    ∃ ms got, soundSessionEndEffect nh d = ((d.deriveSet nh true (x.endBp.getD 0) ms).endSession x got).regrantDue nh ∧
      ms.map (fun m => m.1) = d.measuredSegs x := by
  unfold soundSessionEndEffect
  rw [hopen]
  dsimp only
  rw [if_neg (by simp [hrun, hover])]
  refine ⟨_, _, rfl, ?_⟩
  rw [List.map_map]
  exact List.map_id _

theorem reportSnrs_segs (body : List Byte) (tgs : Nat) : (reportSnrs body tgs).map (fun m => m.1) = segList (leAt body 2 2) := by
  unfold reportSnrs
  rw [List.map_map]
  exact List.map_fst_zip (Nat.le_of_eq List.length_range.symm)

section
variable {d : Dev} {nh : Nat} {body : List Byte} (hrun : d.dev = .run) (hnode : (d.node nh).st.isAdmitted = true)
  (hup : (d.group (d.node nh).grp).st.up = true)
include hrun hnode hup

theorem soundReportEffect_unusable (hu : d.reportUsable nh body = false) : soundReportEffect nh body d = d.skipMessage := by
  unfold soundReportEffect
  dsimp only
  rw [if_neg (by simp [hrun, hnode, hup]), if_pos (by rw [hu]; rfl)]

/-- A report that completes what a downlink session asks for ends it. -/
theorem soundReportEffect_ends {x : Sess} (hu : d.reportUsable nh body = true) (hopen : d.openOf nh false = some x) (hframes : x.frames ≠ 0)
    (hgot : (x.got ||| (x.segs &&& leAt body 2 2)) &&& x.segs = x.segs) :
    ∃ bp tgs got, soundReportEffect nh body d = ((d.deriveSet nh false bp (reportSnrs body tgs)).endSession x got).regrantDue nh := by
  have hstill : ∀ bp ms, (d.deriveSet nh false bp ms).openOf nh false = some x := fun bp ms => by
    obtain ⟨ks, ss, ns, n, h⟩ := deriveSet_eq d nh false bp ms
    rw [h]
    exact hopen
  unfold soundReportEffect
  dsimp only
  rw [if_neg (by simp [hrun, hnode, hup]), if_neg (by rw [hu]; simp), hstill]
  dsimp only
  rw [if_neg hframes, if_pos hgot]
  exact ⟨_, _, _, rfl⟩

end

/-- From the fifth beacon period on a downlink session ends with what has been reported. -/
theorem soundReportTimeoutEffect_ends {d : Dev} {nh b : Nat} {x : Sess} (hrun : d.dev = .run) (hopen : d.openOf nh false = some x)
    (hb : x.endBp = some b) (h5 : 5 ≤ bpSince b d.msync.bpi) (hlt : bpSince b d.msync.bpi < 2 ^ 22) :
    soundReportTimeoutEffect nh d = (d.endSession x x.got).regrantDue nh := by
  unfold soundReportTimeoutEffect
  rw [hopen]
  dsimp only
  rw [hb]
  exact if_pos ⟨hrun, h5, hlt⟩

/-! ### The steps -/

/-- A step that derives entries and ends a session in RUN. -/
theorem session_ends_next {s : State} {f : Dev → Dev} {x : Sess} {nh sndBp got : Nat} {up : Bool} {ms : List (Nat × List Nat × List Int)}
    (hx : x ∈ s.dev.sess) (hrun : s.dev.dev = .run)
    (heff : f s.dev.fresh = ((s.dev.fresh.deriveSet nh up sndBp ms).endSession x got).regrantDue nh) :
    ∃ t, run f s = .next t ∧ t.pending = s.pending ∧ t.dev.dev = .run ∧
      (∀ c ∈ x.cmds, (∀ y ∈ s.dev.sess, c ∈ y.cmds → y.id = x.id) → t.dev.cmdOf c = none) ∧
      ((s.dev.mapSet (setIx nh up)).upd ≠ .scheduled → ∀ k ∈ ms.map (fun m => m.1), (t.dev.key (keyIx nh up k)).built = true) := by
  obtain ⟨hends, hdev, hsess⟩ := deriveSet_session_ends (d := s.dev.fresh) hx nh up sndBp ms got
  obtain ⟨t, ht, hp, htdev⟩ := run_fresh f s
  rw [heff] at htdev
  refine ⟨t, ht, hp, ?_, fun c hc halone => ?_, fun hu k hk => ?_⟩
  · rw [htdev, fresh_dev, hends.dev, hdev]
    exact hrun
  · rw [htdev, fresh_cmdOf]
    refine hends.cmds c hc ?_
    rwa [hsess]
  · rw [htdev, fresh_key, hends.key]
    exact deriveSet_built (d := s.dev.fresh) hu sndBp hk

theorem soundReportTimeout_next {s : State} {nh : Fin 16384} {b : Nat} {x : Sess} (hrun : s.dev.dev = .run)
    (hopen : s.dev.openOf nh false = some x) (hb : x.endBp = some b) (h5 : 5 ≤ bpSince b s.dev.msync.bpi)
    (hlt : bpSince b s.dev.msync.bpi < 2 ^ 22) :
    ∃ t, exec (.soundReportTimeout nh) s = .next t ∧ t.pending = s.pending ∧ t.dev.dev = .run ∧
      ∀ c ∈ x.cmds, (∀ y ∈ s.dev.sess, c ∈ y.cmds → y.id = x.id) → t.dev.cmdOf c = none := by
  have hends := (endSession_ends (d := s.dev.fresh) (openOf_spec hopen).1 x.got).regranted nh
  obtain ⟨t, ht, hp, hdev⟩ := run_fresh (soundReportTimeoutEffect nh) s
  rw [soundReportTimeoutEffect_ends (d := s.dev.fresh) hrun hopen hb h5 hlt] at hdev
  refine ⟨t, ht, hp, ?_, fun c hc halone => ?_⟩
  · rw [hdev, fresh_dev, hends.dev]
    exact hrun
  · rw [hdev, fresh_cmdOf]
    exact hends.cmds c hc halone

/-! ### The statement -/

/-- Settles O35: the three ends of a session, and a report that cannot be used. -/
theorem soundingEnds : Obligations.SoundingEnds := by
  intro s nh x hrun
  refine ⟨fun hopen hover => ?_, fun body hnode hup => ⟨fun hu => ?_, fun hu hopen hframes hgot => ?_⟩,
    fun b => soundReportTimeout_next hrun⟩
  · obtain ⟨ms, got, heff, hms⟩ := soundSessionEndEffect_ends (d := s.dev.fresh) hrun hopen hover
    obtain ⟨t, ht, hp, hdev, hcmds, hbuilt⟩ := session_ends_next (openOf_spec hopen).1 hrun heff
    refine ⟨t, ht, hp, hdev, hcmds, fun hu k hk hmin => hbuilt hu k ?_⟩
    rw [hms]
    exact List.mem_filter.2 ⟨hk, decide_eq_true hmin⟩
  · refine run_reaches (f := soundReportEffect nh body) ?_
    rw [soundReportEffect_unusable (d := s.dev.fresh) hrun hnode hup hu]
    exact (fresh_reports _).trans (raise_reports _ _ _)
  · obtain ⟨bp, tgs, got, heff⟩ := soundReportEffect_ends (d := s.dev.fresh) hrun hnode hup hu hopen hframes hgot
    obtain ⟨t, ht, hp, hdev, hcmds, hbuilt⟩ := session_ends_next (openOf_spec hopen).1 hrun heff
    rw [reportSnrs_segs] at hbuilt
    exact ⟨t, ht, hp, hdev, hcmds, hbuilt⟩

end Sys2Proof.Machine
end

section
/-! SUPPORT. Nodes (10 R261-R272, 11 R295, 12 R308): which nodes an operation changes, what it leaves of them, and what it leaves of the
rest of the device. -/

namespace Sys2Proof.Machine

/-! ### Nodes alone -/

/-- `b` is `a` but for nodes and what reports touch. -/
def AtNodes (a b : Dev) : Prop := Reports { a with nodes := b.nodes } b

theorem Reports.atNodes {a b : Dev} (h : Reports a b) : AtNodes a b := by
  unfold AtNodes
  rw [h.nodes]
  exact h

theorem AtNodes.refl (a : Dev) : AtNodes a a := (Reports.refl a).atNodes

theorem AtNodes.trans {a b c : Dev} (h : AtNodes a b) (k : AtNodes b c) : AtNodes a c := (Reports.set_nodes h c.nodes).trans k

theorem AtNodes.group {a b : Dev} (h : AtNodes a b) (g : Nat) : b.group g = a.group g := Reports.group h g

theorem AtNodes.msync {a b : Dev} (h : AtNodes a b) : b.msync = a.msync := Reports.msync (a := { a with nodes := b.nodes }) h

theorem modNode_atNodes (d : Dev) (nh : Nat) (f : Node → Node) : AtNodes d (d.modNode nh f) := Reports.refl _

theorem ite_atNodes {d a b : Dev} {p : Prop} [Decidable p] (ha : AtNodes d a) (hb : AtNodes d b) : AtNodes d (if p then a else b) := by
  split <;> assumption

theorem nodeState_atNodes (d : Dev) (nh : Nat) (st : NodeState) (reason : Nat) : AtNodes d (d.nodeState nh st reason) :=
  (modNode_atNodes d nh _).trans (event_reports _ _ _ _ _).atNodes

theorem toUnknown_atNodes (d : Dev) (nh : Nat) : AtNodes d (d.toUnknown nh) :=
  (nodeState_atNodes d nh _ _).trans (modNode_atNodes _ nh _)

theorem sendOwn_atNodes (d : Dev) (nh code tag : Nat) (cmd : Option Nat) (body : List Byte) :
    AtNodes d (d.sendOwn nh code tag cmd body) := by
  obtain ⟨ns, h⟩ := sendOwn_eq d nh code tag cmd body
  rw [h]
  exact ⟨rfl, fun _ _ => rfl⟩

theorem sendRoute_atNodes (d : Dev) (rs : List Nat) (final : Nat) (cmd : Option Nat) : AtNodes d (d.sendRoute rs final cmd) :=
  List.foldlRecOn _ _ (motive := AtNodes d) (AtNodes.refl d) fun _ he _ _ => he.trans (sendOwn_atNodes _ _ _ _ _ _)

theorem zcAdd_atNodes (d : Dev) (nh zbp zc : Nat) : AtNodes d (d.zcAdd nh zbp zc) :=
  ite_atNodes (AtNodes.refl d) (modNode_atNodes d nh _)

/-- A phase found is kept with its node, and told to the node and to the host. -/
theorem identify_cases (d : Dev) (nh : Nat) : Reports d (d.identify nh) ∨ ∃ (c : Nat × Bool) (e : Dev) (body detail : List Byte),
    Reports (d.modNode nh (fun n => { n with phase := c.1, pol := c.2 })) e ∧
      d.identify nh = (e.sendOwn nh 0x04 0 none body).event 0x0303 stOk nh detail := by
  unfold Dev.identify
  dsimp only
  split
  · exact .inl (Reports.refl d)
  · split
    · exact .inl (Reports.refl d)
    · next c _ =>
      split
      · exact .inl (Reports.refl d)
      · split
        · exact .inl (Reports.refl d)
        · exact .inr ⟨(c.1, c.2.1), _, _, _, ite_reports (raise_reports _ _ _) (Reports.refl _), rfl⟩
    · exact .inl (raise_reports d _ _)

theorem identify_atNodes (d : Dev) (nh : Nat) : AtNodes d (d.identify nh) := by
  obtain h | ⟨c, e, body, detail, he, heq⟩ := identify_cases d nh
  · exact h.atNodes
  · rw [heq]
    exact (((modNode_atNodes d nh _).trans he.atNodes).trans (sendOwn_atNodes _ _ _ _ _ _)).trans (event_reports _ _ _ _ _).atNodes

/-! ### The nodes that an operation leaves -/

/-- Of the nodes, `b` differs from `a` in `nh` at most. -/
def OnlyNode (nh : Nat) (a b : Dev) : Prop := ∀ k, k ≠ nh → b.node k = a.node k

section
variable {nh : Nat}

theorem OnlyNode.trans {a b c : Dev} (h : OnlyNode nh a b) (k : OnlyNode nh b c) : OnlyNode nh a c :=
  fun i hi => (k i hi).trans (h i hi)

theorem OnlyNode.of_nodes {a b : Dev} (h : b.nodes = a.nodes) : OnlyNode nh a b := fun k _ => by rw [Dev.node, h, Dev.node]

theorem Reports.onlyNode {a b : Dev} (h : Reports a b) : OnlyNode nh a b := .of_nodes h.nodes

theorem ite_onlyNode {d a b : Dev} {p : Prop} [Decidable p] (ha : OnlyNode nh d a) (hb : OnlyNode nh d b) :
    OnlyNode nh d (if p then a else b) := by split <;> assumption

theorem modNode_onlyNode (d : Dev) (f : Node → Node) : OnlyNode nh d (d.modNode nh f) := fun _ hk => node_modNode_ne hk d f

theorem nodeState_onlyNode (d : Dev) (st : NodeState) (reason : Nat) : OnlyNode nh d (d.nodeState nh st reason) :=
  (modNode_onlyNode d _).trans (event_reports _ _ _ _ _).onlyNode

theorem toUnknown_onlyNode (d : Dev) : OnlyNode nh d (d.toUnknown nh) := (nodeState_onlyNode d _ _).trans (modNode_onlyNode _ _)

end

/-- A node that changes its state keeps what does not depend on it. -/
theorem node_nodeState (d : Dev) (nh : Nat) (st : NodeState) (reason : Nat) :
    ∃ cur, (d.nodeState nh st reason).node nh = { d.node nh with st := st, stBp := d.msync.bpi, cur := cur } := by
  unfold Dev.nodeState
  dsimp only
  rw [(event_reports _ _ _ _ _).node, node_modNode_same]
  exact ⟨_, rfl⟩

/-- A handle that is given back is free. -/
theorem node_toUnknown (d : Dev) (nh : Nat) : (d.toUnknown nh).node nh = Node.init := node_modNode_same _ nh _

/-- A field of a node that an update keeps is kept of every node. -/
theorem node_modNode_keeps {α : Type} (π : Node → α) {f : Node → Node} (h : ∀ x, π (f x) = π x) (d : Dev) (i k : Nat) :
    π ((d.modNode i f).node k) = π (d.node k) := by
  by_cases e : k = i
  · rw [e, node_modNode_same, h]
  · rw [node_modNode_ne e]

/-! ### Messages queued and phases found -/

/-- A node without what waits for it and without its phase. -/
def Node.bare (n : Node) : Node := { n with txq := [], heldq := [], phase := 0, pol := false }

section
variable {a b : Node} (h : a.bare = b.bare)
include h
theorem bare_st : a.st = b.st := by have e := congrArg Node.st h; exact e
theorem bare_eui : a.eui = b.eui := by have e := congrArg Node.eui h; exact e
theorem bare_grp : a.grp = b.grp := by have e := congrArg Node.grp h; exact e
theorem bare_saddr : a.saddr = b.saddr := by have e := congrArg Node.saddr h; exact e
theorem bare_zc : a.zc = b.zc := by have e := congrArg Node.zc h; exact e
end

theorem sendOwn_bare (d : Dev) (nh code tag : Nat) (cmd : Option Nat) (body : List Byte) (k : Nat) :
    ((d.sendOwn nh code tag cmd body).node k).bare = (d.node k).bare := by
  unfold Dev.sendOwn
  dsimp only
  split
  · refine node_modNode_keeps Node.bare (fun _ => ?_) _ nh k
    rfl
  · refine node_modNode_keeps Node.bare (fun _ => ?_) _ nh k
    rfl

theorem sendRoute_bare (d : Dev) (rs : List Nat) (final : Nat) (cmd : Option Nat) (k : Nat) :
    ((d.sendRoute rs final cmd).node k).bare = (d.node k).bare :=
  foldl_keeps (fun d => (d.node k).bare) (fun d _ => sendOwn_bare d _ _ _ _ _ k) _ d

theorem identify_bare (d : Dev) (nh k : Nat) : ((d.identify nh).node k).bare = (d.node k).bare := by
  obtain h | ⟨c, e, body, detail, he, heq⟩ := identify_cases d nh
  · rw [h.node]
  · rw [heq, (event_reports _ _ _ _ _).node, sendOwn_bare, he.node]
    refine node_modNode_keeps Node.bare (fun _ => ?_) d nh k
    rfl

end Sys2Proof.Machine
end

section
/-! SUPPORT. Association (10 R265-R268): what a request leaves on record, a handle refused, and a node admitted. -/

namespace Sys2Proof.Machine

/-! ### Handles listed -/

theorem SMap.del_sublist {β : Type} (k : Nat) (m : List (Nat × β)) : (SMap.del k m).Sublist m := by
  induction m with
  | nil => exact List.Sublist.refl _
  | cons e m ih =>
    unfold SMap.del
    split
    · exact ih.cons e
    · exact ih.cons_cons e

theorem SMap.filter_put_sublist {β : Type} {k : Nat} {v : β} {p : Nat × β → Bool} (hp : p (k, v) = false) (m : List (Nat × β)) :
    ((SMap.put k v m).filter p).Sublist (m.filter p) := by
  have drops : ∀ l, (((k, v) :: l).filter p).Sublist (l.filter p) := fun l =>
    (List.filter_cons_of_neg (l := l) (ne_true_of_eq_false hp)).symm ▸ List.Sublist.refl _
  induction m with
  | nil => exact drops []
  | cons e m ih =>
    unfold SMap.put
    split
    · exact drops (e :: m)
    · split
      · exact (drops m).trans ((List.sublist_cons_self e m).filter p)
      · rw [List.filter_cons, List.filter_cons]
        split
        · exact ih.cons_cons e
        · exact ih

/-- A write adds no entry but its own. -/
theorem SMap.filter_set_sublist {β : Type} [DecidableEq β] (dflt : Nat → β) {k : Nat} {v : β} {p : Nat × β → Bool} (hp : p (k, v) = false)
    (m : List (Nat × β)) : ((SMap.set dflt k v m).filter p).Sublist (m.filter p) := by
  unfold SMap.set
  split
  · exact (SMap.del_sublist k m).filter p
  · exact SMap.filter_put_sublist hp m

/-- `b` has no more admitted nodes than `a`, and of the handles none but `nh` with another EUI-64. -/
structure Enlists (nh : Nat) (a b : Dev) : Prop where
  admitted : ∀ g, (b.admittedOf g).length ≤ (a.admittedOf g).length
  byEui : ∀ eui, ∀ k ∈ b.byEui eui, k = nh ∨ k ∈ a.byEui eui

theorem Enlists.trans {nh : Nat} {a b c : Dev} (h : Enlists nh a b) (k : Enlists nh b c) : Enlists nh a c :=
  ⟨fun g => Nat.le_trans (k.admitted g) (h.admitted g), fun eui i hi => (k.byEui eui i hi).elim .inl (h.byEui eui i)⟩

theorem Enlists.of_nodes {nh : Nat} {a b : Dev} (h : b.nodes = a.nodes) : Enlists nh a b := by
  refine ⟨fun g => Nat.le_of_eq ?_, fun eui k hk => .inr ?_⟩
  · rw [Dev.admittedOf, h, Dev.admittedOf]
  · rwa [Dev.byEui, h] at hk

theorem modNode_enlists {d : Dev} {nh : Nat} {f : Node → Node} (h : (f (d.node nh)).st.isAdmitted = false) :
    Enlists nh d (d.modNode nh f) := by
  have writes : ∀ p : Nat × Node → Bool, p (nh, f (d.node nh)) = false → ((d.modNode nh f).nodes.filter p).Sublist (d.nodes.filter p) :=
    fun p hp => SMap.filter_set_sublist (fun _ => Node.init) hp d.nodes
  refine ⟨fun g => ?_, fun eui k hk => ?_⟩
  · rw [Dev.admittedOf, Dev.admittedOf, List.length_map, List.length_map]
    exact (writes _ (by simp [h])).length_le
  · obtain ⟨e, he, rfl⟩ := List.mem_map.1 hk
    obtain ⟨hmem, hp⟩ := List.mem_filter.1 he
    by_cases hnh : e.1 = nh
    · exact .inl hnh
    · have hother := (writes (fun e => decide (e.1 ≠ nh)) (by simp)).subset (List.mem_filter.2 ⟨hmem, by simpa using hnh⟩)
      exact .inr (List.mem_map.2 ⟨e, List.mem_filter.2 ⟨(List.mem_filter.1 hother).1, hp⟩, rfl⟩)

theorem nodeState_enlists (d : Dev) (nh : Nat) {st : NodeState} (h : st.isAdmitted = false) (reason : Nat) :
    Enlists nh d (d.nodeState nh st reason) := (modNode_enlists h).trans (.of_nodes (event_reports _ _ _ _ _).nodes)

/-! ### A request on record (10 Table GC.9) -/

theorem node_zcAdd_keeps {α : Type} (π : Node → α) (h : ∀ n z, π { n with zc := z } = π n) (d : Dev) (nh zbp zc k : Nat) :
    π ((d.zcAdd nh zbp zc).node k) = π (d.node k) := by
  unfold Dev.zcAdd
  dsimp only
  split
  · rfl
  · exact node_modNode_keeps π (fun _ => h _ _) d nh k

/-- What admission asks of a node. -/
def Node.standing (n : Node) : NodeState × BitVec 64 × Nat × Option Nat := (n.st, n.eui, n.grp, n.askBp)

theorem storeRequest_node (d : Dev) (nh : Nat) (body : List Byte) :
    ((d.storeRequest nh body).node nh).standing = (d.node nh).standing ∧ ((d.storeRequest nh body).node nh).nonce = byteAt body 11 := by
  unfold Dev.storeRequest
  dsimp only
  split
  · rw [node_zcAdd_keeps Node.standing (fun _ _ => rfl), node_zcAdd_keeps Node.nonce (fun _ _ => rfl), node_modNode_same]
    exact ⟨rfl, rfl⟩
  · rw [node_modNode_same]
    exact ⟨rfl, rfl⟩

theorem storeRequest_atNodes (d : Dev) (nh : Nat) (body : List Byte) : AtNodes d (d.storeRequest nh body) :=
  ite_atNodes ((modNode_atNodes d nh _).trans (zcAdd_atNodes _ _ _ _)) (modNode_atNodes d nh _)

theorem storeRequest_enlists {d : Dev} {nh : Nat} (h : (d.node nh).st.isAdmitted = false) (body : List Byte) :
    Enlists nh d (d.storeRequest nh body) := by
  have adds : ∀ (e : Dev) (zbp zc : Nat), (e.node nh).st.isAdmitted = false → Enlists nh e (e.zcAdd nh zbp zc) := by
    intro e zbp zc he
    unfold Dev.zcAdd
    dsimp only
    split
    · exact .of_nodes rfl
    · exact modNode_enlists he
  unfold Dev.storeRequest
  dsimp only
  split
  · refine Enlists.trans (modNode_enlists ?_) (adds _ _ _ ?_)
    · exact h
    · rw [node_modNode_same]
      exact h
  · refine modNode_enlists ?_
    exact h

/-- A free handle taken by a request of a new EUI-64. -/
def Dev.enrol (d : Dev) (g nh : Nat) (eui : BitVec 64) (body : List Byte) : Dev :=
  ((d.modNode nh (fun _ => { Node.init with eui := eui, grp := g })).nodeState nh .associating 0xFF).storeRequest nh body

/-- `n` waits for its admission to group `g`. -/
structure Node.Applies (n : Node) (g : Nat) (eui : BitVec 64) (body : List Byte) : Prop where
  st : n.st = .associating
  eui : n.eui = eui
  grp : n.grp = g
  askBp : n.askBp = none
  nonce : n.nonce = byteAt body 11

theorem enrol_applies (d : Dev) (g nh : Nat) (eui : BitVec 64) (body : List Byte) :
    ((d.enrol g nh eui body).node nh).Applies g eui body := by
  obtain ⟨cur, hnode⟩ := node_nodeState (d.modNode nh (fun _ => { Node.init with eui := eui, grp := g })) nh .associating 0xFF
  obtain ⟨hstanding, hnonce⟩ := storeRequest_node ((d.modNode nh (fun _ => { Node.init with eui := eui, grp := g })).nodeState nh .associating 0xFF)
    nh body
  rw [hnode, node_modNode_same] at hstanding
  simp only [Node.standing, Node.init, Prod.mk.injEq] at hstanding
  obtain ⟨hst, heui, hgrp, hask⟩ := hstanding
  exact ⟨hst, heui, hgrp, hask, hnonce⟩

theorem enrol_atNodes (d : Dev) (g nh : Nat) (eui : BitVec 64) (body : List Byte) : AtNodes d (d.enrol g nh eui body) :=
  ((modNode_atNodes d nh _).trans (nodeState_atNodes _ nh _ _)).trans (storeRequest_atNodes _ nh body)

theorem enrol_enlists (d : Dev) (g nh : Nat) (eui : BitVec 64) (body : List Byte) : Enlists nh d (d.enrol g nh eui body) := by
  refine Enlists.trans (Enlists.trans (modNode_enlists rfl) (nodeState_enlists _ nh rfl _)) (storeRequest_enlists ?_ body)
  obtain ⟨cur, h⟩ := node_nodeState (d.modNode nh (fun _ => { Node.init with eui := eui, grp := g })) nh .associating 0xFF
  rw [h]
  rfl

/-! ### A handle refused (10 R265, Table GC.11) -/

theorem answer_node (d : Dev) (g : Nat) (eui : BitVec 64) (nonce result saddr retry phase k : Nat) :
    (d.answer g eui nonce result saddr retry phase).node k = d.node k := rfl

/-- A refusal frees the handle that waits, and changes no other. -/
theorem refuse_waiting {d : Dev} {g nh : Nat} {eui : BitVec 64} (hst : (d.node nh).st = .associating) (heui : (d.node nh).eui = eui)
    (hg : (d.node nh).grp = g) (nonce result : Nat) (counted : Bool) :
    (d.refuse g nh eui nonce result counted).node nh = Node.init ∧ OnlyNode nh d (d.refuse g nh eui nonce result counted) := by
  have shown : Reports d (if counted then d.raise .gong 3 else d) := ite_reports (raise_reports d _ _) (Reports.refl d)
  unfold Dev.refuse
  dsimp only
  generalize (if counted then d.raise .gong 3 else d) = e at shown ⊢
  rw [if_pos (by rw [shown.node]; exact ⟨hst, heui, hg⟩)]
  exact ⟨node_toUnknown e nh, shown.onlyNode.trans (toUnknown_onlyNode e)⟩

/-! ### Reassemblies and held MSDUs of a node -/

theorem freePools_nodes (d : Dev) (g : Nat) (ps : List Pool) : (d.freePools g ps).nodes = d.nodes := rfl

/-- A node without a reassembly. -/
theorem node_dropReasm (d : Dev) (nh : Nat) : (d.dropReasm nh).node nh = { d.node nh with reasm := none } := by
  unfold Dev.dropReasm
  dsimp only
  split
  · next h => rw [← h]
  · rw [(markGroup_reports _ _).node, node_modNode_same]
    rfl

/-- A node whose held MSDUs are queued again. -/
def Node.unheld (n : Node) : Node :=
  let free := fun (m : Msdu) => { m with heldBp := none }
  { n with txq := n.heldq.map free ++ n.txq, heldq := [], cur := n.cur.map free }

/-- Held MSDUs that are queued again change their node. -/
theorem unhold_eq (d : Dev) (nh : Nat) : ∃ e : Dev, Reports d e ∧ Reports (e.modNode nh Node.unheld) (d.unhold nh) :=
  ⟨_, foldl_reports _ (fun d _ => ite_reports (Reports.refl d) ((consumed_reports d _ _).trans (produced_reports _ _))) _ d,
    markGroup_reports _ _⟩

theorem node_unhold (d : Dev) (nh : Nat) : (d.unhold nh).node nh = (d.node nh).unheld := by
  obtain ⟨e, he, h⟩ := unhold_eq d nh
  rw [h.node, node_modNode_same, he.node]

theorem unhold_onlyNode (d : Dev) (nh : Nat) : OnlyNode nh d (d.unhold nh) := by
  obtain ⟨e, he, h⟩ := unhold_eq d nh
  exact (he.onlyNode.trans (modNode_onlyNode e _)).trans h.onlyNode

end Sys2Proof.Machine
end

section
/-! SUPPORT. ASSOC_REQ, ADMIT_DECIDE and ADMIT_ASK_TIMEOUT (10 R265-R268, Tables GC.9 to GC.12), and what O31 says of them. -/

namespace Sys2Proof.Machine

/-! ### A node admitted (10 R266, R268) -/

/-- The broadcast queue of group `g` holds RESULT 0 for an EUI-64, with its address. -/
def Dev.Grants (d : Dev) (g : Nat) (eui : BitVec 64) (nonce saddr : Nat) : Prop :=
  ∃ m ∈ (d.group g).bq, ∃ ph, m.data = mgmtMsg 0x02 (assocResp eui nonce 0 saddr 0 ph)

theorem AtNodes.grants {a b : Dev} (h : AtNodes a b) {g nonce saddr : Nat} {eui : BitVec 64} (k : a.Grants g eui nonce saddr) :
    b.Grants g eui nonce saddr := by
  unfold Dev.Grants
  rw [h.group]
  exact k

/-- A broadcast message of the device's own is queued last. -/
theorem sendOwnBcast_bq (d : Dev) (g code tag : Nat) (body : List Byte) :
    ∃ m, ((d.sendOwnBcast g code tag body).group g).bq = (d.group g).bq ++ [m] ∧ m.data = mgmtMsg code body :=
  ⟨newMsdu d.nextId (.own code tag none) true 0 g true 0 false false (mgmtMsg code body) [] none,
    congrArg Group.bq (group_modGroup_same d g (fun x => { x with bq := x.bq ++
      [newMsdu d.nextId (.own code tag none) true 0 g true 0 false false (mgmtMsg code body) [] none] })), rfl⟩

theorem answer_grants (d : Dev) (g : Nat) (eui : BitVec 64) (nonce saddr phase : Nat) :
    (d.answer g eui nonce 0 saddr 0 phase).Grants g eui nonce saddr := by
  obtain ⟨m, hbq, hdata⟩ := sendOwnBcast_bq d g 0x02 d.msync.bpi (assocResp eui nonce 0 saddr 0 phase)
  refine ⟨m, ?_, phase, hdata⟩
  rw [Dev.answer, hbq]
  exact List.mem_append_right _ (List.mem_singleton_self m)

/-- A node with its counts and windows reset for its admission, ahead of the change of state. -/
def Dev.readied (d : Dev) (nh : Nat) : Dev :=
  let d := if (d.node nh).st = .dormant then d.unhold nh else d
  let d := (d.emptySets nh).dropReasm nh
  d.modNode nh (fun n => { n with txSeq := 0, txPbsn := 1023, rxValid := false, rxSeq := 0, rxMap := 0, dorm := none,
                                  regrant := false, askBp := none, heardBp := d.msync.bpi })

/-- Who a node is, and the request that it is answered by. -/
def Node.who (n : Node) : BitVec 64 × Nat × Nat × Nat := (n.eui, n.grp, n.saddr, n.nonce)

theorem readied_who (d : Dev) (nh : Nat) : ((d.readied nh).node nh).who = (d.node nh).who := by
  have held : ((if (d.node nh).st = .dormant then d.unhold nh else d).node nh).who = (d.node nh).who := by
    split
    · rw [node_unhold]
      rfl
    · rfl
  unfold Dev.readied
  dsimp only
  rw [node_modNode_same, ← held, Node.who, node_dropReasm]
  rfl

theorem enterAdmitted_eq (d : Dev) (nh : Nat) :
    d.enterAdmitted nh =
      let e := (d.readied nh).nodeState nh .admitted 0xFF
      let n := e.node nh
      let e := e.answer n.grp n.eui n.nonce 0 n.saddr 0 n.phaseByte
      (e.sendRoute (e.relays n.grp 7 n.parent) n.saddr none).identify nh := rfl

/-- A node that is admitted keeps who it is, and is answered RESULT 0. -/
theorem enterAdmitted_admits (d : Dev) (nh : Nat) :
    ((d.enterAdmitted nh).node nh).st = .admitted ∧ ((d.enterAdmitted nh).node nh).eui = (d.node nh).eui ∧
      ((d.enterAdmitted nh).node nh).grp = (d.node nh).grp ∧ ((d.enterAdmitted nh).node nh).saddr = (d.node nh).saddr ∧
      (d.enterAdmitted nh).Grants (d.node nh).grp (d.node nh).eui (d.node nh).nonce (d.node nh).saddr := by
  obtain ⟨cur, hnode⟩ := node_nodeState (d.readied nh) nh .admitted 0xFF
  have hwho := readied_who d nh
  simp only [Node.who, Prod.mk.injEq] at hwho
  obtain ⟨heui, hgrp, hsaddr, hnonce⟩ := hwho
  rw [enterAdmitted_eq]
  dsimp only
  generalize hn : ((d.readied nh).nodeState nh .admitted 0xFF).node nh = n at hnode ⊢
  generalize he : ((d.readied nh).nodeState nh .admitted 0xFF).answer n.grp n.eui n.nonce 0 n.saddr 0 n.phaseByte = e
  have hgrants : e.Grants n.grp n.eui n.nonce n.saddr := he ▸ answer_grants _ _ _ _ _ _
  have henode : e.node nh = n := by rw [← he, answer_node, hn]
  have hbare : (((e.sendRoute (e.relays n.grp 7 n.parent) n.saddr none).identify nh).node nh).bare = n.bare := by
    rw [identify_bare, sendRoute_bare, henode]
  rw [bare_st hbare, bare_eui hbare, bare_grp hbare, bare_saddr hbare, ← heui, ← hgrp, ← hsaddr, ← hnonce]
  subst hnode
  exact ⟨rfl, rfl, rfl, rfl, ((sendRoute_atNodes _ _ _ _).trans (identify_atNodes _ _)).grants hgrants⟩

/-- A node moved from another group, with its address, ahead of its admission. -/
def Dev.addressed (d : Dev) (nh : Nat) : Dev :=
  let n := d.node nh
  let moved := (d.byEui n.eui).filter (fun h => decide (h ≠ nh) && (d.node h).st.isAdmitted)
  let d := moved.foldl (fun d h => d.evict h 4) d
  let a := d.pickSaddr n.grp n.eui
  let d := d.modNode nh (fun n => { n with saddr := a })
  d.modGroup n.grp (fun g => { g with addrMemo := (n.eui, a) :: g.addrMemo.filter (fun e => decide (e.1 ≠ n.eui)) })

theorem admitNode_eq (d : Dev) (nh : Nat) : d.admitNode nh = (d.addressed nh).enterAdmitted nh := rfl

theorem admitNode_st (d : Dev) (nh : Nat) : ((d.admitNode nh).node nh).st = .admitted := by
  rw [admitNode_eq]
  exact (enterAdmitted_admits (d.addressed nh) nh).1

/-- A node whose EUI-64 no other handle holds is given its address alone. -/
theorem node_addressed {d : Dev} {nh : Nat} (h : ∀ k ∈ d.byEui (d.node nh).eui, k = nh) :
    (d.addressed nh).node nh = { d.node nh with saddr := d.pickSaddr (d.node nh).grp (d.node nh).eui } := by
  have hmoved : (d.byEui (d.node nh).eui).filter (fun k => decide (k ≠ nh) && (d.node k).st.isAdmitted) = [] := by
    refine List.filter_eq_nil_iff.2 fun k hk => ?_
    simp [h k hk]
  unfold Dev.addressed
  dsimp only
  rw [hmoved]
  exact node_modNode_same d nh (fun n => { n with saddr := d.pickSaddr (d.node nh).grp (d.node nh).eui })

/-- Admission of a node whose EUI-64 no other handle holds. -/
theorem admitNode_admits {d : Dev} {nh : Nat} (h : ∀ k ∈ d.byEui (d.node nh).eui, k = nh) :
    ((d.admitNode nh).node nh).eui = (d.node nh).eui ∧ ((d.admitNode nh).node nh).grp = (d.node nh).grp ∧
      (d.admitNode nh).Grants (d.node nh).grp (d.node nh).eui (d.node nh).nonce ((d.admitNode nh).node nh).saddr := by
  obtain ⟨-, heui, hgrp, hsaddr, hgrants⟩ := enterAdmitted_admits (d.addressed nh) nh
  rw [admitNode_eq, heui, hgrp, hsaddr]
  rw [node_addressed h] at hgrants ⊢
  exact ⟨rfl, rfl, hgrants⟩

/-! ### A request of a new EUI-64 (10 R265, Table GC.11) -/

/-- The host's policy denies an EUI-64. -/
def Dev.denies (d : Dev) (eui : BitVec 64) : Bool := match d.policyOf eui with | some p => p.deny | none => false

/-- The host's policy allows an EUI-64 in a group. -/
def Dev.allows (d : Dev) (g : Nat) (eui : BitVec 64) : Bool :=
  match d.policyOf eui with | some p => p.allow && decide (p.grp = g ∨ p.grp = 255) | none => false

/-- The request's node lacks its group's profile. -/
def Dev.lacks (d : Dev) (g : Nat) (body : List Byte) : Bool := !bit (byteAt body 9) (d.profile g)

/-- A new EUI-64 takes the first free handle, and is then refused or judged. -/
theorem decideAssoc_new {d : Dev} {g nh : Nat} {eui : BitVec 64} (body : List Byte) (hnew : d.byEui eui = []) (hfree : d.freeHandle = some nh) :
    d.decideAssoc g eui body =
      if d.denies eui ∨ d.lacks g body then (d.enrol g nh eui body).refuse g nh eui (byteAt body 11) (if d.denies eui then 1 else 5) true
      else (d.enrol g nh eui body).admitRules g nh (d.allows g eui) body := by
  have hst := (enrol_applies d g nh eui body).st
  unfold Dev.enrol at hst
  unfold Dev.decideAssoc
  dsimp only
  simp only [hnew, hfree, List.find?_nil, List.any_nil, Option.isNone_none, Bool.not_false, and_self, if_true, Option.isSome_none,
    Bool.false_eq_true, if_false, hst, NodeState.isAdmitted, false_and]
  rfl

/-- A request that is refused leaves its handle free. -/
theorem decideAssoc_refused {d : Dev} {g nh : Nat} {eui : BitVec 64} {body : List Byte} (hnew : d.byEui eui = [])
    (hfree : d.freeHandle = some nh) (h : (d.denies eui || d.lacks g body) = true) : ((d.decideAssoc g eui body).node nh).st = .unknown := by
  have ha := enrol_applies d g nh eui body
  rw [decideAssoc_new body hnew hfree, if_pos (by simpa using h), (refuse_waiting ha.st ha.eui ha.grp _ _ _).1]
  rfl

section
variable {d : Dev} {g nh : Nat} {eui : BitVec 64} {body : List Byte} (hnew : d.byEui eui = []) (hfree : d.freeHandle = some nh)
  (hok : (d.denies eui || d.lacks g body) = false) (hroom : (d.admittedOf g).length < 512)
include hnew hfree hok hroom

/-- A request that is judged: the group's rule decides. -/
theorem decideAssoc_judged {mode : Nat} (hmode : d.fld (Reg.gongGrp g) 17 16 = mode) :
    d.decideAssoc g eui body =
      let e := d.enrol g nh eui body
      if mode = 0 ∨ (mode = 1 ∧ d.allows g eui) then e.admitNode nh
      else if mode = 2 then
        ((e.modNode nh (fun n => { n with askBp := some e.msync.bpi })).event 0x0301 stOk g (body.take 10)).answer g
          (e.node nh).eui (e.node nh).nonce 4 0
          (((e.modNode nh (fun n => { n with askBp := some e.msync.bpi })).event 0x0301 stOk g (body.take 10)).fld Reg.gongAssoc 23 16) 0
      else e.refuse g nh (e.node nh).eui (e.node nh).nonce 1 true := by
  have ha := enrol_applies d g nh eui body
  have hcount : ¬ 512 ≤ ((d.enrol g nh eui body).admittedOf g).length := fun e =>
    absurd ((enrol_enlists d g nh eui body).admitted g) (by omega)
  have hfld : (d.enrol g nh eui body).fld (Reg.gongGrp g) 17 16 = mode :=
    (Reports.fld (enrol_atNodes d g nh eui body) (statusOff_gongGrp g) 17 16).trans hmode
  rw [decideAssoc_new body hnew hfree, if_neg (by simpa using hok)]
  unfold Dev.admitRules
  dsimp only
  rw [ha.st, ha.askBp, hfld, if_neg (by decide), if_neg hcount]
  rfl

theorem decideAssoc_admits
    (hmode : d.fld (Reg.gongGrp g) 17 16 = 0 ∨ (d.fld (Reg.gongGrp g) 17 16 = 1 ∧ d.allows g eui = true)) :
    let e := d.decideAssoc g eui body
    (e.node nh).st = .admitted ∧ (e.node nh).eui = eui ∧ (e.node nh).grp = g ∧ e.Grants g eui (byteAt body 11) (e.node nh).saddr := by
  have ha := enrol_applies d g nh eui body
  have halone : ∀ k ∈ (d.enrol g nh eui body).byEui ((d.enrol g nh eui body).node nh).eui, k = nh := by
    intro k hk
    rw [ha.eui] at hk
    refine ((enrol_enlists d g nh eui body).byEui eui k hk).resolve_right ?_
    simp [hnew]
  obtain ⟨heui, hgrp, hgrants⟩ := admitNode_admits halone
  rw [ha.eui] at heui
  rw [ha.grp] at hgrp
  rw [ha.eui, ha.grp, ha.nonce] at hgrants
  rw [decideAssoc_judged hnew hfree hok hroom rfl]
  dsimp only
  rw [if_pos hmode]
  exact ⟨admitNode_st _ nh, heui, hgrp, hgrants⟩

theorem decideAssoc_asks (hmode : d.fld (Reg.gongGrp g) 17 16 = 2) :
    ((d.decideAssoc g eui body).node nh).st = .associating ∧ ((d.decideAssoc g eui body).node nh).askBp = some d.msync.bpi := by
  rw [decideAssoc_judged hnew hfree hok hroom hmode]
  dsimp only
  rw [if_neg (by simp), if_pos rfl, answer_node, (event_reports _ _ _ _ _).node, node_modNode_same, (enrol_atNodes d g nh eui body).msync]
  exact ⟨(enrol_applies d g nh eui body).st, rfl⟩

end

/-! ### The steps -/

theorem assocReqEffect_decides {d : Dev} {g : Nat} {body : List Byte} (hrun : d.dev = .run) (hup : (d.group g).st.up = true)
    (hlen : 20 ≤ body.length) (hnone : (d.group g).bq.any (respPending d.msync.bpi (BitVec.ofNat 64 (leAt body 0 8))) = false) :
    assocReqEffect g body d = d.decideAssoc g (BitVec.ofNat 64 (leAt body 0 8)) body := by
  unfold assocReqEffect
  dsimp only
  rw [if_neg (by simp [hrun, hup]), if_neg (by omega), hnone]
  rfl

/-- ADMIT_DECIDE on the handle that waits for it, if any. -/
def Dev.decided (d : Dev) (c : CmdDesc) (nh : Nat) : Dev :=
  let n := d.node nh
  if c.f1 0 0 = 0 then d.refuse c.n2 nh n.eui n.nonce 1 true
  else if 512 ≤ (d.admittedOf c.n2).length then d.refuse c.n2 nh n.eui n.nonce 2 true
  else d.admitNode nh

/-- The handle that ADMIT_DECIDE names and that waits for the host. -/
def Dev.askedOf (d : Dev) (c : CmdDesc) : Option Nat :=
  (d.byEui c.a0).find? (fun h => decide ((d.node h).grp = c.n2) && d.askPending h)

theorem Reports.askedOf {a b : Dev} (h : Reports a b) (c : CmdDesc) : b.askedOf c = a.askedOf c := by
  simp only [Dev.askedOf, Dev.byEui, Dev.askPending, h.nodes, h.node]

theorem Reports.admittedOf {a b : Dev} (h : Reports a b) (g : Nat) : b.admittedOf g = a.admittedOf g := by
  rw [Dev.admittedOf, h.nodes, Dev.admittedOf]

theorem askedOf_waits {d : Dev} {c : CmdDesc} {nh : Nat} (h : d.askedOf c = some nh) :
    (d.node nh).st = .associating ∧ (d.node nh).grp = c.n2 := by
  have hp := List.find?_some h
  simp only [Dev.askPending, Bool.and_eq_true, decide_eq_true_eq] at hp
  exact ⟨hp.2.1, hp.1⟩

/-- What ADMIT_DECIDE does once it has been fetched. -/
def decideFetched (id : Nat) (c : CmdDesc) (d : Dev) : Dev :=
  match d.askedOf c with
  | none => d.finishSt id stNotFound
  | some nh => (d.decided c nh).finishSt id stOk

theorem exec_admitDecide (c : CmdDesc) (s : State) : exec (.admitDecide c) s =
    run (command { CmdSpec.plain 0x22 with m0 := 2 ^ 64 - 1, m1 := 1, m2 := 0xFFFF, lim2 := 32 } always always decideFetched c) s := rfl

section
variable {s : State} {c : CmdDesc}
  (h : Accepted s c { CmdSpec.plain 0x22 with m0 := 2 ^ 64 - 1, m1 := 1, m2 := 0xFFFF, lim2 := 32 })
include h

theorem admitDecide_not_found (hasked : s.dev.askedOf c = none) : Serves (exec (.admitDecide c) s) s s.dev stNotFound [] := by
  have hr := fetched_reports s c
  rw [exec_admitDecide]
  refine command_serves h rfl rfl ?_ hr (fetched_outstanding s c)
  unfold decideFetched
  rw [hr.askedOf, hasked]
  rfl

theorem admitDecide_decides {nh : Nat} (hasked : s.dev.askedOf c = some nh) :
    ∃ t, exec (.admitDecide c) s = .next t ∧ t.pending = s.pending ∧ Ended s t ∧
      (c.f1 0 0 = 0 → (t.dev.node nh).st = .unknown) ∧
      (c.f1 0 0 = 1 → (s.dev.admittedOf c.n2).length < 512 → (t.dev.node nh).st = .admitted) := by
  have hr := fetched_reports s c
  obtain ⟨hst, hgrp⟩ := askedOf_waits hasked
  rw [← hr.node] at hst hgrp
  obtain ⟨t, ht, hp, hdev⟩ := command_next (eff := decideFetched) h (obj := always) (arg := always) rfl rfl
  have heff : decideFetched s.dev.nextId c (s.dev.fresh.fetchCmd c) =
      ((s.dev.fresh.fetchCmd c).decided c nh).finishSt s.dev.nextId stOk := by
    unfold decideFetched
    rw [hr.askedOf, hasked]
  rw [heff] at hdev
  have hnode : t.dev.node nh = ((s.dev.fresh.fetchCmd c).decided c nh).node nh := by
    rw [hdev, fresh_node, (finishSt_reports _ _ _).node]
  rw [exec_admitDecide]
  refine ⟨t, ht, hp, ?_, fun h0 => ?_, fun h1 hroom => ?_⟩
  · rw [Ended, hdev]
    exact finishSt_ended _ _ _
  · rw [hnode, Dev.decided, if_pos h0, (refuse_waiting hst rfl hgrp _ _ _).1]
    rfl
  · rw [hnode, Dev.decided, if_neg (by omega), hr.admittedOf, if_neg (by omega)]
    exact admitNode_st _ nh

end

/-- The device has waited long enough for the host's decision. -/
theorem admitAskTimeoutEffect_due {d : Dev} {nh b : Nat} (hrun : d.dev = .run) (hst : (d.node nh).st = .associating)
    (hb : (d.node nh).askBp = some b) (hdue : d.fld Reg.gongAssoc 23 16 ≤ bpSince b d.msync.bpi) :
    admitAskTimeoutEffect nh d = d.refuse (d.node nh).grp nh (d.node nh).eui (d.node nh).nonce 1 true := by
  unfold admitAskTimeoutEffect
  dsimp only
  rw [hb]
  exact if_pos ⟨hrun, hst, hdue⟩

/-- Settles O31: a request of a new EUI-64, the host's decision on one that waits, and the time it has for it. -/
theorem association : Obligations.Association := by
  intro s
  refine ⟨?_, ?_, ?_⟩
  · intro g body nh hrun hup hlen eui hnone hnew hfree deny allow lacks mode
    obtain ⟨t, ht, hp, hdev⟩ := run_fresh (assocReqEffect g body) s
    rw [assocReqEffect_decides (d := s.dev.fresh) hrun hup hlen hnone] at hdev
    refine ⟨t, ht, hp, fun hno => ?_, fun hok hroom hmode => ?_, fun hok hroom hmode => ?_⟩
    · rw [hdev]
      exact decideAssoc_refused (d := s.dev.fresh) hnew hfree hno
    · rw [hdev]
      exact decideAssoc_admits (d := s.dev.fresh) hnew hfree hok hroom hmode
    · rw [hdev]
      exact decideAssoc_asks (d := s.dev.fresh) hnew hfree hok hroom hmode
  · intro c h
    exact ⟨admitDecide_not_found h, fun nh => admitDecide_decides h⟩
  · intro nh b hrun hst hb hdue
    obtain ⟨t, ht, hp, hdev⟩ := run_fresh (admitAskTimeoutEffect nh) s
    rw [admitAskTimeoutEffect_due (d := s.dev.fresh) hrun hst hb hdue] at hdev
    obtain ⟨hinit, honly⟩ := refuse_waiting (d := s.dev.fresh) hst rfl rfl (s.dev.node nh).nonce 1 true
    refine ⟨t, ht, hp, ?_, fun k hk => ?_⟩
    · rw [hdev]
      exact congrArg Node.st hinit
    · rw [hdev]
      exact honly k hk

end Sys2Proof.Machine
end

section
/-! SUPPORT. The life of a node (10 R267-R272, Table GC.13, 12 Table DN.4): frames heard, silence, eviction, the release of a handle, and
zero-crossing reports; and what O32 says of them. -/

namespace Sys2Proof.Machine

/-! ### A frame heard (10 R267, 12 Table DN.4) -/

theorem nodeState_st (d : Dev) (nh : Nat) (st : NodeState) (reason : Nat) : ((d.nodeState nh st reason).node nh).st = st := by
  obtain ⟨cur, h⟩ := node_nodeState d nh st reason
  rw [h]

theorem openSession_nodes (d : Dev) (nh : Nat) (up : Bool) (segs : Nat) (mark : Option Nat) (cmds : List Nat) :
    (d.openSession nh up segs mark cmds).nodes = d.nodes := by
  obtain ⟨ss, m, n, h⟩ := openSession_eq d nh up segs mark cmds
  rw [h]

/-- The state of a node of which a frame is accepted. -/
def NodeState.onFrame : NodeState → NodeState
  | .admitted | .lost => .active
  | st => st

/-- Of the nodes, a frame heard changes its own. -/
theorem heard_node (d : Dev) (nh : Nat) : ((d.heard nh).node nh).st = (d.node nh).st.onFrame ∧ OnlyNode nh d (d.heard nh) := by
  have notes : OnlyNode nh d (d.modNode nh (fun n => { n with heardBp := d.msync.bpi })) := modNode_onlyNode d _
  have hstays : ((d.modNode nh (fun n => { n with heardBp := d.msync.bpi })).node nh).st = (d.node nh).st := by rw [node_modNode_same]
  have hacts := nodeState_st (d.modNode nh (fun n => { n with heardBp := d.msync.bpi })) nh .active 0xFF
  have acts := notes.trans (nodeState_onlyNode (d.modNode nh (fun n => { n with heardBp := d.msync.bpi })) .active 0xFF)
  unfold Dev.heard
  dsimp only
  cases hst : (d.node nh).st with
  | admitted =>
    have same := (openSession_nodes _ nh true 0xFFFF none []).trans (openSession_nodes
      ((d.modNode nh (fun n => { n with heardBp := d.msync.bpi })).nodeState nh .active 0xFF) nh false 0xFFFF none [])
    refine ⟨?_, acts.trans (.of_nodes same)⟩
    rw [Dev.node, same]
    exact hacts
  | lost => exact ⟨hacts, acts⟩
  | unknown | associating | active | dormant | evicted => exact ⟨hstays.trans hst, notes⟩

/-- An admitted node is ACTIVE once a KEEPALIVE is accepted, woken where it is DORMANT. -/
theorem keepaliveEffect_node {d : Dev} {nh : Nat} (hrun : d.dev = .run) (hnode : (d.node nh).st.isAdmitted = true)
    (hup : (d.group (d.node nh).grp).st.up = true) :
    ((keepaliveEffect nh d).node nh).st = .active ∧ ((keepaliveEffect nh d).node nh).heardBp = d.msync.bpi ∧
      OnlyNode nh d (keepaliveEffect nh d) := by
  obtain ⟨hst, honly⟩ := heard_node d nh
  have hears := heard_hears d nh
  unfold keepaliveEffect
  dsimp only
  rw [if_neg (by simp [hrun, hnode, hup])]
  split
  · exact ⟨nodeState_st _ _ _ _, (hears.trans (wake_sameLanes _ nh)).heard nh rfl,
      (honly.trans (unhold_onlyNode _ nh)).trans (nodeState_onlyNode _ _ _)⟩
  · next hd =>
    refine ⟨hst.trans ?_, hears.heard nh rfl, honly⟩
    cases hx : (d.node nh).st with
    | admitted | lost | active => rfl
    | dormant => exact absurd hx hd
    | unknown | associating | evicted => rw [hx] at hnode; cases hnode

/-! ### A node evicted (10 R269) -/

theorem endMsdu_nodes (d : Dev) (m : Msdu) (report : Bool) : (d.endMsdu m stFlushed report).nodes = d.nodes := by
  have seqs : ∀ x : Dev, (if m.sentOnce ∧ !m.bcast then
      x.modGroup m.grp (fun g => { g with seqDone := g.seqDone + 1 }) else x).nodes = x.nodes := fun x => by split <;> rfl
  unfold Dev.endMsdu
  dsimp only
  rw [(markGroup_reports _ _).nodes, (trace_reports _ _ _ _ _ _).nodes, if_neg (by simp [stFlushed, stNoAck])]
  have before := (seqs ((d.freePools m.grp (m.blocks.map (fun b => b.pool))).consumed m.queue (decide (stFlushed = stFlushed)))).trans
    (consumed_reports _ _ _).nodes
  cases m.origin with
  | host ring idx cookie =>
    dsimp only
    split
    · exact (complete_reports _ _ _).nodes.trans before
    · exact (flushItem_reports _ _).nodes.trans before
  | fwd ingress grp seq => exact before
  | own code tag cmd => exact before

theorem ownFlushed_nodes (d : Dev) (m : Msdu) : (d.ownFlushed m).nodes = d.nodes := by
  unfold Dev.ownFlushed
  split
  · unfold Dev.updateUnsent
    split
    · split <;> rfl
    · rfl
  · exact (finishOpt_reports _ _ _).nodes
  · exact (finishOpt_reports _ _ _).nodes
  · rfl

theorem flushMsdu_nodes (d : Dev) (m : Msdu) : (d.flushMsdu m).nodes = d.nodes := (ownFlushed_nodes _ m).trans (endMsdu_nodes d m true)

theorem emptySets_nodes (d : Dev) (nh : Nat) : (d.emptySets nh).nodes = d.nodes := rfl

theorem sendOwnBcast_nodes (d : Dev) (g code tag : Nat) (body : List Byte) : (d.sendOwnBcast g code tag body).nodes = d.nodes := rfl

theorem dropSessions_nodes (d : Dev) (nh : Nat) : (d.dropSessions nh).nodes = d.nodes := by
  unfold Dev.dropSessions
  refine (foldl_keeps Dev.nodes (fun d s => ?_) _ _).trans rfl
  exact foldl_keeps Dev.nodes (fun d c => (finishSt_reports d c _).nodes) _ d

/-- A node whose queued, unacknowledged and held MSDUs are flushed. -/
theorem node_flushNode (d : Dev) (nh : Nat) : (d.flushNode nh).node nh = { d.node nh with txq := [], cur := none, heldq := [] } := by
  have hnodes := foldl_keeps Dev.nodes flushMsdu_nodes ((d.node nh).live ++ (d.node nh).heldq)
    (d.modNode nh (fun n => { n with txq := [], cur := none, heldq := [] }))
  unfold Dev.flushNode
  dsimp only
  rw [Dev.node, hnodes]
  exact node_modNode_same d nh _

/-- What is left of a node that has been evicted. -/
structure Node.Gone (n : Node) : Prop where
  st : n.st = .evicted
  key0 : n.key0 = none
  key1 : n.key1 = none
  saddr : n.saddr = 0
  live : n.live = []
  heldq : n.heldq = []
  reasm : n.reasm = none

/-- A handle whose eviction has been reported, with its address given back. -/
def Dev.unaddressed (d : Dev) (nh reason : Nat) : Dev :=
  let n := d.node nh
  let d := (d.nodeState nh .evicted reason).raise .gong 6
  let d := d.modGroup n.grp (fun x => { x with
    addrRel := (n.saddr, d.msync.bpi) :: x.addrRel.filter (fun e => decide (e.1 ≠ n.saddr)),
    addrMemo := (n.eui, n.saddr) :: x.addrMemo.filter (fun e => decide (e.1 ≠ n.eui)) })
  d.modNode nh (fun n => { n with saddr := 0, key0 := none, key1 := none, dorm := none, askBp := none, regrant := false
                                  evictDue := decide (reason ≠ 5) })

/-- A handle that has been evicted, ahead of the EVICT that tells its group. -/
def Dev.severed (d : Dev) (nh reason : Nat) : Dev :=
  ((((d.unaddressed nh reason).dropReasm nh).flushNode nh).emptySets nh).dropSessions nh

theorem evict_eq (d : Dev) (nh reason : Nat) :
    d.evict nh reason = if reason ≠ 5 then
      (d.severed nh reason).sendOwnBcast (d.node nh).grp 0x08 nh (leBytes 8 (d.node nh).eui.toNat ++ leBytes 1 reason ++ [0, 0, 0])
    else d.severed nh reason := rfl

theorem evict_nodes (d : Dev) (nh reason : Nat) :
    (d.evict nh reason).nodes = (((d.unaddressed nh reason).dropReasm nh).flushNode nh).nodes := by
  have hsevered : (d.severed nh reason).nodes = (((d.unaddressed nh reason).dropReasm nh).flushNode nh).nodes := by
    rw [Dev.severed, dropSessions_nodes, emptySets_nodes]
  rw [evict_eq]
  split
  · rw [sendOwnBcast_nodes, hsevered]
  · exact hsevered

theorem evict_gone (d : Dev) (nh reason : Nat) : ((d.evict nh reason).node nh).Gone := by
  have hst := nodeState_st d nh .evicted reason
  have hleft : ((d.unaddressed nh reason).node nh).st = .evicted ∧ ((d.unaddressed nh reason).node nh).key0 = none ∧
      ((d.unaddressed nh reason).node nh).key1 = none ∧ ((d.unaddressed nh reason).node nh).saddr = 0 := by
    unfold Dev.unaddressed
    dsimp only
    rw [node_modNode_same]
    refine ⟨?_, rfl, rfl, rfl⟩
    exact (congrArg Node.st ((raise_reports _ .gong 6).node nh)).trans hst
  obtain ⟨hst, hkey0, hkey1, hsaddr⟩ := hleft
  rw [Dev.node, evict_nodes]
  have hnode := node_flushNode ((d.unaddressed nh reason).dropReasm nh) nh
  rw [node_dropReasm] at hnode
  rw [Dev.node] at hnode
  rw [hnode]
  exact ⟨hst, hkey0, hkey1, hsaddr, rfl, rfl, rfl⟩

/-! ### Each way to an eviction -/

theorem leaveEffect_evicts {d : Dev} {nh : Nat} (hrun : d.dev = .run) (hnode : (d.node nh).st.isAdmitted = true)
    (hup : (d.group (d.node nh).grp).st.up = true) : leaveEffect nh d = d.evict nh 5 := if_neg (by simp [hrun, hnode, hup])

theorem admitTimeoutEffect_evicts {d : Dev} {nh : Nat} (hrun : d.dev = .run) (hst : (d.node nh).st = .admitted)
    (hdue : d.fld Reg.gongAssoc 15 0 ≤ bpSince (d.node nh).stBp d.msync.bpi) : admitTimeoutEffect nh d = d.evict nh 2 :=
  if_pos ⟨hrun, hst, hdue⟩

theorem lostEvictTimeoutEffect_evicts {d : Dev} {nh : Nat} (hrun : d.dev = .run) (hst : (d.node nh).st = .lost)
    (hen : d.flag Reg.gongCtrl 0 = true) (hdue : d.fld Reg.gongNode 31 16 ≤ bpSince (d.node nh).stBp d.msync.bpi) :
    lostEvictTimeoutEffect nh d = d.evict nh 3 := if_pos ⟨hrun, hst, hen, hdue⟩

theorem run_evicts {f : Dev → Dev} {s : State} {nh reason : Nat} (h : f s.dev.fresh = s.dev.fresh.evict nh reason) :
    ∃ t, run f s = .next t ∧ t.pending = s.pending ∧ (t.dev.node nh).Gone := by
  obtain ⟨t, ht, hp, hdev⟩ := run_fresh f s
  refine ⟨t, ht, hp, ?_⟩
  rw [hdev, fresh_node, h]
  exact evict_gone _ nh reason

/-- What NODE_EVICT does once it has been fetched. -/
def evictFetched (id : Nat) (c : CmdDesc) (d : Dev) : Dev :=
  let n := d.node c.n2
  if n.st = .unknown ∨ n.st = .evicted then d.finishSt id stNoNode
  else if n.st = .associating then (d.refuse n.grp c.n2 n.eui n.nonce 1 false).finishSt id stOk
  else (d.evict c.n2 0).finishSt id stOk

theorem exec_nodeEvict (c : CmdDesc) (s : State) :
    exec (.nodeEvict c) s = run (command (nodeSpec 0x23 0) always always evictFetched c) s := rfl

section
variable {s : State} {c : CmdDesc} (h : Accepted s c (nodeSpec 0x23 0))
include h

theorem nodeEvict_no_node (hst : (s.dev.node c.n2).st = .unknown ∨ (s.dev.node c.n2).st = .evicted) :
    Serves (exec (.nodeEvict c) s) s s.dev stNoNode [] := by
  have hr := fetched_reports s c
  rw [exec_nodeEvict]
  exact command_serves h rfl rfl (if_pos (by rwa [hr.node])) hr (fetched_outstanding s c)

theorem nodeEvict_evicts (hnode : (s.dev.node c.n2).st.isAdmitted = true) :
    ∃ t, exec (.nodeEvict c) s = .next t ∧ t.pending = s.pending ∧ (t.dev.node c.n2).Gone := by
  have hr := fetched_reports s c
  rw [← hr.node] at hnode
  obtain ⟨t, ht, hp, hdev⟩ := command_next (eff := evictFetched) h (obj := always) (arg := always) rfl rfl
  have heff : evictFetched s.dev.nextId c (s.dev.fresh.fetchCmd c) = ((s.dev.fresh.fetchCmd c).evict c.n2 0).finishSt s.dev.nextId stOk := by
    unfold evictFetched
    dsimp only
    rw [if_neg (by rintro (e | e) <;> simp [e, NodeState.isAdmitted] at hnode),
      if_neg (by intro e; simp [e, NodeState.isAdmitted] at hnode)]
  rw [exec_nodeEvict]
  refine ⟨t, ht, hp, ?_⟩
  rw [hdev, heff, fresh_node, (finishSt_reports _ _ _).node]
  exact evict_gone _ c.n2 0

end

/-! ### Silence and release (10 R267, 01 R35) -/

theorem silentTimeoutEffect_due {d : Dev} {nh : Nat} (hrun : d.dev = .run) (hst : (d.node nh).st = .active)
    (hdue : d.fld Reg.gongNode 15 0 ≤ bpSince (d.node nh).heardBp d.msync.bpi) :
    silentTimeoutEffect nh d = d.nodeState nh .lost 0xFF := if_pos ⟨hrun, hst, hdue⟩

theorem evictedReleaseEffect_due {d : Dev} {nh : Nat} (hst : (d.node nh).st = .evicted) (hlive : (d.node nh).live = [])
    (hheld : (d.node nh).heldq = []) (hreasm : (d.node nh).reasm = none) (hdue : (d.node nh).evictDue = false)
    (hrx : (d.group (d.node nh).grp).rxq.any (fun m => decide (m.nh = nh)) = false) : evictedReleaseEffect nh d = d.toUnknown nh := by
  unfold evictedReleaseEffect
  dsimp only
  rw [if_pos (by simp only [hst, hlive, hheld, hreasm, hdue, hrx]; decide)]

/-- A step whose effect changes nodes alone. -/
theorem run_atNodes {f : Dev → Dev} {s : State} (h : AtNodes s.dev.fresh (f s.dev.fresh)) :
    ∃ t, run f s = .next t ∧ t.pending = s.pending ∧ (∀ k, t.dev.node k = (f s.dev.fresh).node k) ∧
      Reports { s.dev with nodes := t.dev.nodes } t.dev := by
  obtain ⟨t, ht, hp, hdev⟩ := run_fresh f s
  refine ⟨t, ht, hp, fun k => by rw [hdev, fresh_node], ?_⟩
  rw [hdev]
  exact (((fresh_reports s.dev).atNodes.trans h).trans (fresh_reports _).atNodes)

/-! ### Zero-crossing reports (10 R261, R270-R272) -/

section
variable {d : Dev} {nh : Nat} {body : List Byte} (hrun : d.dev = .run) (hnode : (d.node nh).st.isAdmitted = true)
  (hup : (d.group (d.node nh).grp).st.up = true)
include hrun hnode hup

theorem zcReportEffect_skips (h : zcWellFormed body = false) : zcReportEffect nh body d = d.skipMessage := by
  unfold zcReportEffect
  rw [if_neg (by simp [hrun, hnode, hup]), h]
  rfl

/-- A report of one valid sample. -/
theorem zcReportEffect_sample {zbp zc : Nat} (h : zcWellFormed body = true) (hrec : zcRecords body = [(zbp, zc, true)]) :
    zcReportEffect nh body d = (d.zcAdd nh zbp zc).identify nh := by
  unfold zcReportEffect
  rw [if_neg (by simp [hrun, hnode, hup]), h, hrec]
  rfl

end

/-- A sample of the last 16 beacon periods is kept as MPT phase. -/
theorem zc_zcAdd {d : Dev} {zbp : Nat} (hage : d.bpAge zbp ≤ 16) (nh zc : Nat) :
    ((d.zcAdd nh zbp zc).node nh).zc = ((d.node nh).zc ++ [({ bp := zbp % 65536, z := unsigned 24 ((zc : Int) + d.offsetAt (d.bpAge zbp)) } :
      ZcSample)]).drop ((d.node nh).zc.length - 7) := by
  unfold Dev.zcAdd
  dsimp only
  rw [if_neg (by omega), node_modNode_same]

/-! ### The statement -/

theorem keepalive_next {s : State} {nh : Fin 16384} (hrun : s.dev.dev = .run) (hnode : (s.dev.node nh).st.isAdmitted = true)
    (hup : (s.dev.group (s.dev.node nh).grp).st.up = true) :
    ∃ t, exec (.keepalive nh) s = .next t ∧ t.pending = s.pending ∧ (t.dev.node nh).st = .active ∧
      (t.dev.node nh).heardBp = s.dev.msync.bpi ∧ ∀ k, k ≠ nh.val → t.dev.node k = s.dev.node k := by
  obtain ⟨hst, hheard, hothers⟩ := keepaliveEffect_node (d := s.dev.fresh) hrun hnode hup
  obtain ⟨t, ht, hp, hdev⟩ := run_fresh (keepaliveEffect nh) s
  refine ⟨t, ht, hp, ?_⟩
  rw [hdev]
  exact ⟨hst, hheard, hothers⟩

theorem silentTimeout_next {s : State} {nh : Fin 16384} (hrun : s.dev.dev = .run) (hst : (s.dev.node nh).st = .active)
    (hdue : s.dev.fld Reg.gongNode 15 0 ≤ bpSince (s.dev.node nh).heardBp s.dev.msync.bpi) :
    ∃ t, exec (.silentTimeout nh) s = .next t ∧ t.pending = s.pending ∧ (t.dev.node nh).st = .lost ∧
      (t.dev.node nh).stBp = s.dev.msync.bpi ∧ (∀ k, k ≠ nh.val → t.dev.node k = s.dev.node k) ∧
      Reports { s.dev with nodes := t.dev.nodes } t.dev := by
  have heff := silentTimeoutEffect_due (d := s.dev.fresh) hrun hst hdue
  obtain ⟨t, ht, hp, hnodes, hrep⟩ := run_atNodes (f := silentTimeoutEffect nh) (s := s) (heff ▸ nodeState_atNodes _ _ _ _)
  rw [heff] at hnodes
  obtain ⟨cur, hnode⟩ := node_nodeState s.dev.fresh nh .lost 0xFF
  refine ⟨t, ht, hp, ?_, ?_, fun k hk => (hnodes k).trans (nodeState_onlyNode _ _ _ k hk), hrep⟩
  · rw [hnodes, hnode]
  · rw [hnodes, hnode]
    rfl

theorem evictedRelease_next {s : State} {nh : Fin 16384} (hst : (s.dev.node nh).st = .evicted) (hlive : (s.dev.node nh).live = [])
    (hheld : (s.dev.node nh).heldq = []) (hreasm : (s.dev.node nh).reasm = none) (hdue : (s.dev.node nh).evictDue = false)
    (hrx : (s.dev.group (s.dev.node nh).grp).rxq.any (fun m => decide (m.nh = nh.val)) = false) :
    ∃ t, exec (.evictedRelease nh) s = .next t ∧ t.pending = s.pending ∧ t.dev.node nh = Node.init ∧
      (∀ k, k ≠ nh.val → t.dev.node k = s.dev.node k) ∧ Reports { s.dev with nodes := t.dev.nodes } t.dev := by
  have heff := evictedReleaseEffect_due (d := s.dev.fresh) hst hlive hheld hreasm hdue hrx
  obtain ⟨t, ht, hp, hnodes, hrep⟩ := run_atNodes (f := evictedReleaseEffect nh) (s := s) (heff ▸ toUnknown_atNodes _ _)
  rw [heff] at hnodes
  exact ⟨t, ht, hp, (hnodes nh).trans (node_toUnknown _ _), fun k hk => (hnodes k).trans (toUnknown_onlyNode _ k hk), hrep⟩

theorem zcReport_sample_next {s : State} {nh : Fin 16384} {body : List Byte} {zbp zc : Nat} (hrun : s.dev.dev = .run)
    (hnode : (s.dev.node nh).st.isAdmitted = true) (hup : (s.dev.group (s.dev.node nh).grp).st.up = true)
    (hwf : zcWellFormed body = true) (hrec : zcRecords body = [(zbp, zc, true)]) (hage : s.dev.bpAge zbp ≤ 16)
    (hlen : (s.dev.node nh).zc.length ≤ 8) :
    ∃ t, exec (.zcReport nh body) s = .next t ∧ t.pending = s.pending ∧ Reports { s.dev with nodes := t.dev.nodes } t.dev ∧
      (t.dev.node nh).zc = ((s.dev.node nh).zc ++
        [({ bp := zbp % 65536, z := unsigned 24 ((zc : Int) + s.dev.offsetAt (s.dev.bpAge zbp)) } : ZcSample)]).drop
          ((s.dev.node nh).zc.length - 7) ∧
      (t.dev.node nh).zc.length ≤ 8 := by
  have heff := zcReportEffect_sample (d := s.dev.fresh) hrun hnode hup hwf hrec
  obtain ⟨t, ht, hp, hnodes, hrep⟩ := run_atNodes (f := zcReportEffect nh body) (s := s)
    (heff ▸ (zcAdd_atNodes _ _ _ _).trans (identify_atNodes _ _))
  have hzc := (bare_zc (identify_bare (s.dev.fresh.zcAdd nh zbp zc) nh nh)).trans (zc_zcAdd (d := s.dev.fresh) hage nh zc)
  rw [← heff, ← hnodes] at hzc
  refine ⟨t, ht, hp, hrep, hzc, ?_⟩
  rw [hzc, List.length_drop, List.length_append, List.length_singleton, fresh_node]
  omega

theorem zcReport_skips {s : State} {nh : Fin 16384} {body : List Byte} (hrun : s.dev.dev = .run)
    (hnode : (s.dev.node nh).st.isAdmitted = true) (hup : (s.dev.group (s.dev.node nh).grp).st.up = true)
    (hwf : zcWellFormed body = false) : Reaches (exec (.zcReport nh body) s) s s.dev := by
  refine run_reaches (f := zcReportEffect nh body) ?_
  rw [zcReportEffect_skips (d := s.dev.fresh) hrun hnode hup hwf]
  exact (fresh_reports _).trans (raise_reports _ _ _)

/-- Settles O32: a frame heard, silence, each way to an eviction, the release of the handle, and reports of zero crossings. -/
theorem nodeLife : Obligations.NodeLife := by
  intro s nh
  refine ⟨keepalive_next, silentTimeout_next, fun i hrun hi => ?_, fun c h hn hst => ?_, evictedRelease_next,
    fun body hrun hnode hup => ⟨zcReport_skips hrun hnode hup, fun zbp zc => zcReport_sample_next hrun hnode hup⟩⟩
  · have hgone : ∃ t, exec i s = .next t ∧ t.pending = s.pending ∧ (t.dev.node nh).Gone := by
      rcases hi with ⟨rfl, hnode, hup⟩ | ⟨rfl, hst, hdue⟩ | ⟨rfl, hst, hen, hdue⟩ | ⟨c, rfl, h, hn, hnode⟩
      · exact run_evicts (leaveEffect_evicts (d := s.dev.fresh) hrun hnode hup)
      · exact run_evicts (admitTimeoutEffect_evicts (d := s.dev.fresh) hrun hst hdue)
      · exact run_evicts (lostEvictTimeoutEffect_evicts (d := s.dev.fresh) hrun hst hen hdue)
      · rw [← hn] at hnode ⊢
        exact nodeEvict_evicts h hnode
    obtain ⟨t, ht, hp, hst, hkey0, hkey1, hsaddr, hlive, hheld, hreasm⟩ := hgone
    exact ⟨t, ht, hp, hst, hkey0, hkey1, hsaddr, hlive, hheld, hreasm⟩
  · rw [← hn] at hst
    exact nodeEvict_no_node h hst

end Sys2Proof.Machine
end

section
/-! SUPPORT. Schedules (10 R249, R256, R257, 21 R475): plans frozen in time or late, beacons, and requests granted; and what O54 says of
them. -/

namespace Sys2Proof.Machine

/-! ### Plans in force (10 R256) -/

/-- A plan put into force for a beacon period without one. -/
theorem setPlan_planOf {d : Dev} {g n : Nat} (h : d.planOf g n = none) (pl : Plan) : (d.setPlan g n pl).planOf g n = some pl := by
  have hnone : ∀ e ∈ (d.group g).frozen, ¬ e.1 = n := by
    simpa [Dev.planOf] using h
  have hkept : ((d.group g).frozen.filter (fun e => decide (bpSince d.msync.bpi e.1 < 2 ^ 22))).find? (fun e => decide (e.1 = n)) = none :=
    List.find?_eq_none.2 fun e he => by simpa using hnone e (List.mem_filter.1 he).1
  unfold Dev.setPlan Dev.planOf
  rw [group_modGroup_same, List.find?_append, hkept]
  simp

theorem unplanned_planOf {d : Dev} {g n : Nat} (h : d.unplanned g n = true) : d.planOf g n = none := by
  unfold Dev.unplanned at h
  simpa using (Bool.and_eq_true_iff.1 h).2

theorem Reports.planOf {a b : Dev} (h : Reports a b) (g n : Nat) : b.planOf g n = a.planOf g n := by
  rw [Dev.planOf, h.group, Dev.planOf]

/-! ### Sessions (09 R241, 21 R477) -/

/-- `b` is `a` but for sessions and what reports touch. -/
def AtSess (a b : Dev) : Prop := Reports { a with sess := b.sess } b

theorem AtSess.refl (a : Dev) : AtSess a a := Reports.refl a

theorem AtSess.trans {a b c : Dev} (h : AtSess a b) (k : AtSess b c) : AtSess a c := (Reports.set_sess h c.sess).trans k

theorem Reports.atSess {a b : Dev} (h : Reports a b) : AtSess a b := by
  unfold AtSess
  rw [h.sess]
  exact h

theorem modSess_atSess (d : Dev) (id : Nat) (f : Sess → Sess) : AtSess d (d.modSess id f) := Reports.refl _

theorem foldl_atSess {α : Type} {f : Dev → α → Dev} (hf : ∀ d x, AtSess d (f d x)) (l : List α) (d : Dev) : AtSess d (l.foldl f d) :=
  List.foldlRecOn l f (motive := AtSess d) (AtSess.refl d) fun e he x _ => he.trans (hf e x)

/-- Marks that come too late are counted. -/
theorem lateSessions_atSess (d : Dev) (g n : Nat) : AtSess d (d.lateSessions g n) := by
  have drops : ∀ (e : Dev) (id : Nat) (f : Sess → Sess), AtSess e ((e.raise .mar 5).modSess id f) := fun e id f =>
    (raise_reports e _ _).atSess.trans (modSess_atSess _ id f)
  unfold Dev.lateSessions
  exact (foldl_atSess (fun e (x : Sess) => drops e x.id _) _ d).trans (foldl_atSess (fun e (x : Sess) => drops e x.id _) _ _)

/-- The device once the Gong has asked again for the sessions that the arbiter had no room for. -/
def Dev.reasked (d : Dev) (g : Nat) : Dev :=
  (d.sess.filter (fun x => decide ((d.node x.nh).grp = g) && !x.done && x.endBp.isNone)).foldl (fun d x => d.askSession x) d

theorem reasked_eq (d : Dev) (g : Nat) : ∃ m, d.reasked g = { d with mnt := m } := by
  refine List.foldlRecOn _ _ (motive := fun (e : Dev) => ∃ m, e = { d with mnt := m }) ⟨d.mnt, rfl⟩ ?_
  rintro _ ⟨m, rfl⟩ x -
  obtain ⟨m', h⟩ := askSession_eq { d with mnt := m } x
  exact ⟨m', h⟩

/-! ### SCHEDULE_FREEZE (10 R256) -/

/-- A plan in force: the sessions that it places and the uplinks that it gives are noted. -/
def Dev.freeze (d : Dev) (g n : Nat) (pl : Plan) : Dev :=
  let placed := d.sessionsFor g n
  let d := d.setPlan g n pl
  let d := placed.foldl (fun d s => d.modSess s.id (fun s => { s with endBp := some n })) d
  let d := (d.nodesOf g).foldl (fun d nh => if d.givesUplink pl nh then
      d.modNode nh (fun x => { x with ulAsk := false, ulBp := some n }) else d) d
  d.lateSessions g n

theorem freeze_reports (d : Dev) (g n : Nat) (pl : Plan) :
    Reports { d.setPlan g n pl with sess := (d.freeze g n pl).sess, nodes := (d.freeze g n pl).nodes } (d.freeze g n pl) := by
  unfold Dev.freeze
  dsimp only
  have places := foldl_atSess (fun (e : Dev) (s : Sess) => modSess_atSess e s.id (fun s => { s with endBp := some n })) (d.sessionsFor g n)
    (d.setPlan g n pl)
  generalize (d.sessionsFor g n).foldl (fun d s => d.modSess s.id (fun s => { s with endBp := some n })) (d.setPlan g n pl) = e at places ⊢
  have gives : AtNodes e ((e.nodesOf g).foldl (fun d nh => if d.givesUplink pl nh then
      d.modNode nh (fun x => { x with ulAsk := false, ulBp := some n }) else d) e) :=
    List.foldlRecOn _ _ (motive := AtNodes e) (AtNodes.refl e) fun x hx nh _ =>
      hx.trans (ite_atNodes (modNode_atNodes x nh _) (AtNodes.refl x))
  generalize (e.nodesOf g).foldl (fun d nh => if d.givesUplink pl nh then
      d.modNode nh (fun x => { x with ulAsk := false, ulBp := some n }) else d) e = e' at gives ⊢
  have late := lateSessions_atSess e' g n
  generalize e'.lateSessions g n = e'' at late ⊢
  have hnodes : e''.nodes = e'.nodes := Reports.nodes (a := { e' with sess := e''.sess }) late
  rw [hnodes]
  exact (((Reports.set_sess places e''.sess).set_nodes e'.nodes).trans (Reports.set_sess gives e''.sess)).trans late

theorem scheduleFreezeEffect_idle {d : Dev} {g : Nat} (pl : Plan)
    (h : d.atBoundary = false ∨ d.unplanned g ((d.msync.bpi + 3) % 2 ^ 23) = false) : scheduleFreezeEffect g pl d = d := by
  unfold scheduleFreezeEffect
  dsimp only
  exact if_pos (.inr (h.imp (fun e => by rw [e]; rfl) (fun e => by rw [e]; rfl)))

theorem scheduleFreezeEffect_due {d : Dev} {g n : Nat} (pl : Plan) (hrun : d.dev = .run) (hat : d.atBoundary = true)
    (hn : (d.msync.bpi + 3) % 2 ^ 23 = n) (hun : d.unplanned g n = true) :
    scheduleFreezeEffect g pl d = if (d.reasked g).planOk g n pl = false then d.reasked g else (d.reasked g).freeze g n pl := by
  unfold scheduleFreezeEffect
  dsimp only
  rw [hn, if_neg (by simp [hrun, hat, hun])]
  simp only [Bool.not_eq_true']
  rfl

section
variable {s : State} {g : Fin 32} {pl : Plan} (hrun : s.dev.dev = .run) (hat : s.dev.atBoundary = true)
  (hun : s.dev.unplanned g ((s.dev.msync.bpi + 3) % 2 ^ 23) = true)
include hrun hat hun

theorem scheduleFreeze_freezes (hok : (s.dev.fresh.reasked g).planOk g ((s.dev.msync.bpi + 3) % 2 ^ 23) pl = true) :
    ∃ t, exec (.scheduleFreeze g pl) s = .next t ∧ t.pending = s.pending ∧ t.dev.dev = .run ∧
      t.dev.planOf g ((s.dev.msync.bpi + 3) % 2 ^ 23) = some pl ∧ t.dev.keys = s.dev.keys ∧ t.dev.ports = s.dev.ports := by
  obtain ⟨t, ht, hp, hdev⟩ := run_fresh (scheduleFreezeEffect g pl) s
  obtain ⟨m, hm⟩ := reasked_eq s.dev.fresh g
  have hnone : (s.dev.fresh.reasked g).planOf g ((s.dev.msync.bpi + 3) % 2 ^ 23) = none := by
    rw [hm]
    exact unplanned_planOf hun
  have hr := freeze_reports (s.dev.fresh.reasked g) g ((s.dev.msync.bpi + 3) % 2 ^ 23) pl
  rw [scheduleFreezeEffect_due (d := s.dev.fresh) (n := (s.dev.msync.bpi + 3) % 2 ^ 23) pl hrun hat rfl hun, if_neg (by simpa using hok)] at hdev
  refine ⟨t, ht, hp, ?_, ?_, ?_, ?_⟩
  · rw [hdev, fresh_dev]
    refine hr.dev.trans ?_
    rw [hm]
    exact hrun
  · rw [hdev]
    exact (hr.planOf g _).trans (setPlan_planOf hnone pl)
  · rw [hdev]
    refine hr.keys.trans ?_
    rw [hm]
    rfl
  · rw [hdev]
    refine hr.ports.trans ?_
    rw [hm]
    rfl

theorem scheduleFreeze_refuses (hok : (s.dev.fresh.reasked g).planOk g ((s.dev.msync.bpi + 3) % 2 ^ 23) pl = false) :
    ∃ t, exec (.scheduleFreeze g pl) s = .next t ∧ t.pending = s.pending ∧ t.dev.planOf g ((s.dev.msync.bpi + 3) % 2 ^ 23) = none ∧
      Reports { s.dev with mnt := t.dev.mnt } t.dev := by
  obtain ⟨t, ht, hp, hdev⟩ := run_fresh (scheduleFreezeEffect g pl) s
  obtain ⟨m, hm⟩ := reasked_eq s.dev.fresh g
  rw [scheduleFreezeEffect_due (d := s.dev.fresh) (n := (s.dev.msync.bpi + 3) % 2 ^ 23) pl hrun hat rfl hun, if_pos hok, hm] at hdev
  refine ⟨t, ht, hp, ?_, ?_⟩
  · rw [hdev]
    exact unplanned_planOf hun
  · rw [hdev]
    exact ⟨rfl, fun _ _ => rfl⟩

end

theorem scheduleFreeze_idle {s : State} {g : Fin 32} (pl : Plan)
    (h : s.dev.atBoundary = false ∨ s.dev.unplanned g ((s.dev.msync.bpi + 3) % 2 ^ 23) = false) :
    Reaches (exec (.scheduleFreeze g pl) s) s s.dev := by
  refine run_reaches (f := scheduleFreezeEffect g pl) ?_
  rw [scheduleFreezeEffect_idle (d := s.dev.fresh) pl h]
  exact fresh_reports _

/-! ### SCHEDULE_LATE (10 R257, 21 R480) -/

/-- The plan of a late beacon period has one allocation, for contention, directly after its beacon region. -/
theorem latePlan_allocs (d : Dev) (g n : Nat) :
    (d.latePlan g n).allocs = [{ start := (d.latePlan g n).brlen, len := d.fld Reg.gongGrid 12 0, addr := addrAll, dir := true, form := 5
                                 cpl := 1, kind := kindContention }] := by
  unfold Dev.latePlan
  dsimp only
  split <;> rfl

/-- A training placed in a late beacon period goes back to its queue, its canceller to IDLE. -/
def Dev.abortTraining (d : Dev) (p : Nat) : Dev :=
  let d := d.requeueMnt 2 p
  if (d.port p).ech = .training then d.toIdle p else d

theorem abortTraining_eq (d : Dev) (p : Nat) : ∃ m ps, d.abortTraining p = { d with mnt := m, ports := ps } := by
  have hreq : ∃ m, d.requeueMnt 2 p = { d with mnt := m } := by
    unfold Dev.requeueMnt
    split
    · exact ⟨_, rfl⟩
    · exact ⟨_, rfl⟩
  obtain ⟨m, hm⟩ := hreq
  unfold Dev.abortTraining
  dsimp only
  rw [hm]
  split
  · exact ⟨m, _, rfl⟩
  · exact ⟨m, d.ports, rfl⟩

theorem abortTrainings_eq (d : Dev) (ps : List Nat) : ∃ m qs, ps.foldl Dev.abortTraining d = { d with mnt := m, ports := qs } := by
  refine List.foldlRecOn _ _ (motive := fun (e : Dev) => ∃ m qs, e = { d with mnt := m, ports := qs }) ⟨d.mnt, d.ports, rfl⟩ ?_
  rintro _ ⟨m, qs, rfl⟩ p -
  obtain ⟨m', qs', h⟩ := abortTraining_eq { d with mnt := m, ports := qs } p
  exact ⟨m', qs', h⟩

theorem scheduleLateEffect_due {d : Dev} {g n : Nat} (hrun : d.dev = .run) (hw : d.wanting g = some n) :
    scheduleLateEffect g d =
      let e := ((d.trainingsFor g n).flatMap (fun r => r.req.ports)).foldl Dev.abortTraining d
      ((((e.setPlan g n (e.latePlan g n)).raise .gong 5).event 0x0207 stOk g (leBytes 2 n))).lateSessions g n := by
  unfold scheduleLateEffect
  rw [if_neg (by simp [hrun]), hw]
  rfl

theorem wanting_unplanned {d : Dev} {g n : Nat} (h : d.wanting g = some n) : d.unplanned g n = true := List.find?_some (p := fun n => d.unplanned g n) h

theorem scheduleLate_next {s : State} {g : Fin 32} {n : Nat} (hrun : s.dev.dev = .run) (hw : s.dev.wanting g = some n) :
    ∃ t pl, exec (.scheduleLate g) s = .next t ∧ t.pending = s.pending ∧ t.dev.dev = .run ∧ t.dev.planOf g n = some pl ∧
      pl.allocs = [{ start := pl.brlen, len := s.dev.fld Reg.gongGrid 12 0, addr := addrAll, dir := true, form := 5, cpl := 1
                     kind := kindContention }] ∧
      t.dev.keys = s.dev.keys ∧ t.dev.nodes = s.dev.nodes := by
  obtain ⟨t, ht, hp, hdev⟩ := run_fresh (scheduleLateEffect g) s
  rw [scheduleLateEffect_due (d := s.dev.fresh) hrun hw] at hdev
  dsimp only at hdev
  obtain ⟨m, ps, he⟩ := abortTrainings_eq s.dev.fresh ((s.dev.fresh.trainingsFor g n).flatMap (fun r => r.req.ports))
  generalize ((s.dev.fresh.trainingsFor g n).flatMap (fun r => r.req.ports)).foldl Dev.abortTraining s.dev.fresh = e at he hdev
  have hnone : e.planOf g n = none := by
    rw [he]
    exact unplanned_planOf (wanting_unplanned hw)
  have hlen : e.fld Reg.gongGrid 12 0 = s.dev.fld Reg.gongGrid 12 0 := by rw [he]; rfl
  have late := (((raise_reports (e.setPlan g n (e.latePlan g n)) .gong 5).trans (event_reports _ 0x0207 stOk g (leBytes 2 n))).atSess.trans
    (lateSessions_atSess _ g n)).trans (fresh_reports _).atSess
  rw [← hdev] at late
  refine ⟨t, e.latePlan g n, ht, hp, ?_, ?_, ?_, ?_, ?_⟩
  · refine (Reports.dev late).trans ?_
    rw [he]
    exact hrun
  · exact (Reports.planOf late g n).trans (setPlan_planOf hnone _)
  · rw [latePlan_allocs, hlen]
  · refine (Reports.keys late).trans ?_
    rw [he]
    rfl
  · refine (Reports.nodes late).trans ?_
    rw [he]
    rfl

/-! ### BEACON_TX (10 R249, 06 R156) -/

theorem placeChange_eq (d : Dev) (g : Nat) : ∃ gs k, d.placeChange g = { d with groups := gs, freeCtr := k } := by
  unfold Dev.placeChange
  split
  · exact ⟨_, _, rfl⟩
  · exact ⟨_, _, rfl⟩

/-- A beacon of this beacon period is due on lane `l`. -/
structure Dev.BeaconDue (d : Dev) (g l : Nat) : Prop where
  run : d.dev = .run
  lane : d.beaconLane g = some l
  beacons : d.beacons g d.msync.bpi = true
  last : (d.group g).lastBcn ≠ some d.msync.bpi
  boundary : d.atBoundary = true
  unit : d.unit / 8192 = d.msync.bpi

/-- The group has beaconed in this beacon period. -/
def Dev.beaconed (d : Dev) (g n : Nat) : Dev := d.modGroup g (fun x => { x with lastBcn := some n })

section
variable {d : Dev} {g l : Nat} (h : d.BeaconDue g l) (x : MemFaults)
include h

/-- A beacon that the check keeps off. -/
theorem beaconTxEffect_kept_off (hg : (d.gateFrame (d.enc l).outs ((d.placeChange g).beacon g).2.2.2).1 = false) :
    beaconTxEffect g x d =
      ((d.gateFrame (d.enc l).outs ((d.placeChange g).beacon g).2.2.2).2.raise .gong 4).beaconed g d.msync.bpi := by
  obtain ⟨hrun, hlane, hbeacons, hlast, hat, hunit⟩ := h
  unfold beaconTxEffect
  dsimp only
  rw [hlane]
  dsimp only
  rw [if_neg (by simp [hrun, hbeacons, hlast, hat, hunit]), hg]
  rfl

/-- A beacon that passes the check starts on its lane. -/
theorem beaconTxEffect_sends (hg : (d.gateFrame (d.enc l).outs ((d.placeChange g).beacon g).2.2.2).1 = true) :
    ∃ (f : TxFrame) (e : Dev), beaconTxEffect g x d = e.startFrame l f ∧ Reports ((d.placeChange g).beaconed g d.msync.bpi) e ∧
      f.fc = ((d.placeChange g).beacon g).1 ∧ f.start = d.tb.n ∧ f.stop = d.tb.n + ((d.placeChange g).beacon g).2.2.2 := by
  obtain ⟨hrun, hlane, hbeacons, hlast, hat, hunit⟩ := h
  obtain ⟨gs, k, hplaced⟩ := placeChange_eq d g
  have htb : ((d.placeChange g).beaconed g d.msync.bpi).tb = d.tb := by rw [hplaced]; rfl
  have hfault : ∀ e : Dev, Reports e (match x.cells with | c :: _ => (e.count 39 7 2 none 1).faultEvent 0x01 c.2 g 0 | [] => e) := by
    intro e
    cases x.cells with
    | nil => exact Reports.refl e
    | cons c _ => exact (count_reports _ _ _ _ _ _).trans (faultEvent_reports _ _ _ _ _)
  have hn := congrArg Timebase.n ((hfault ((d.placeChange g).beaconed g d.msync.bpi)).tb.trans htb)
  unfold beaconTxEffect
  dsimp only
  rw [hlane]
  dsimp only
  rw [if_neg (by simp [hrun, hbeacons, hlast, hat, hunit]), hg]
  exact ⟨_, _, rfl, hfault _, rfl, hn, congrArg (· + ((d.placeChange g).beacon g).2.2.2) hn⟩

end

theorem beaconed_lastBcn (d : Dev) (g n : Nat) : ((d.beaconed g n).group g).lastBcn = some n :=
  congrArg Group.lastBcn (group_modGroup_same d g (fun x => { x with lastBcn := some n }))

/-- What BEACON_TX leaves, sent or kept off. -/
structure Beaconed (g n : Nat) (a b : Dev) : Prop where
  dev : b.dev = a.dev
  last : (b.group g).lastBcn = some n
  nodes : b.nodes = a.nodes

theorem Beaconed.of_atEnc {g n l : Nat} {a b : Dev} (h : AtEnc l (a.beaconed g n) b) : Beaconed g n a b := by
  refine ⟨h.1.dev, ?_, h.1.nodes⟩
  rw [h.1.group]
  exact beaconed_lastBcn a g n

theorem beaconTx_fresh (g : Fin 32) (w : LaneWrites) (x : MemFaults) {s : State} {l : Nat} (hl : s.dev.beaconLane g = some l) :
    ∃ t, exec (.beaconTx g w x) s = .next t ∧ t.pending = s.pending ∧
      t.dev = ((beaconTxEffect g x s.dev.fresh).withWrites s.dev.fresh l w x.lane.isSome).fresh := by
  obtain ⟨t, ht, hp, hdev⟩ := run_fresh (fun d => (beaconTxEffect g x d).withWrites d ((d.beaconLane g).getD 96) w x.lane.isSome) s
  have hlane : (s.dev.fresh.beaconLane g).getD 96 = l := by
    rw [show s.dev.fresh.beaconLane g = some l from hl]
    rfl
  rw [hlane] at hdev
  exact ⟨t, ht, hp, hdev⟩

section
variable {s : State} {g : Fin 32} {l : Nat} (h : s.dev.fresh.BeaconDue g l) (w : LaneWrites) (x : MemFaults)
include h

theorem beaconTx_sent
    (hg : (s.dev.fresh.gateFrame (s.dev.enc l).outs ((s.dev.fresh.placeChange g).beacon g).2.2.2).1 = true) :
    ∃ t, exec (.beaconTx g w x) s = .next t ∧ t.pending = s.pending ∧ Beaconed g s.dev.msync.bpi s.dev t.dev ∧
      ∃ f, (t.dev.enc l).frame = some f ∧ f.fc = ((s.dev.fresh.placeChange g).beacon g).1 ∧ f.start = s.dev.tb.n ∧
        f.stop = s.dev.tb.n + ((s.dev.fresh.placeChange g).beacon g).2.2.2 := by
  obtain ⟨t, ht, hp, hdev⟩ := beaconTx_fresh g w x h.lane
  obtain ⟨f, e, heff, he, hfc, hstart, hstop⟩ := beaconTxEffect_sends h x hg
  obtain ⟨gs, k, hplaced⟩ := placeChange_eq s.dev.fresh g
  rw [heff] at hdev
  have hframe : ((e.startFrame l f).enc l).frame = some f := by rw [(startFrame_onlyPorts e l f).enc, enc_modEnc_same]
  obtain ⟨f', hf', hsheer⟩ := withWrites_frame s.dev.fresh l w x.lane.isSome hframe
  have hends : AtEnc l ((s.dev.fresh.placeChange g).beaconed g s.dev.msync.bpi) t.dev := by
    rw [hdev]
    exact ((((he.atEnc l).trans (modEnc_atEnc e l _)).trans ((startFrame_onlyPorts e l f).atEnc l)).trans
      (withWrites_atEnc _ _ l w x.lane.isSome)).trans ((fresh_reports _).atEnc l)
  obtain ⟨hrun, hlast, hnodes⟩ := Beaconed.of_atEnc hends
  rw [hplaced] at hrun hnodes
  refine ⟨t, ht, hp, ⟨hrun, hlast, hnodes⟩, f', ?_, ?_, ?_, ?_⟩
  · rw [hdev]
    exact hf'
  · exact (congrArg TxFrame.fc hsheer).trans hfc
  · exact (congrArg TxFrame.start hsheer).trans hstart
  · exact (congrArg TxFrame.stop hsheer).trans hstop

theorem beaconTx_kept_off
    (hg : (s.dev.fresh.gateFrame (s.dev.enc l).outs ((s.dev.fresh.placeChange g).beacon g).2.2.2).1 = false) :
    ∃ t, exec (.beaconTx g w x) s = .next t ∧ t.pending = s.pending ∧ Beaconed g s.dev.msync.bpi s.dev t.dev ∧
      (t.dev.enc l).frame = (s.dev.enc l).frame ∧ t.dev.flag Reg.gongStat 4 = true := by
  obtain ⟨t, ht, hp, hdev⟩ := beaconTx_fresh g w x h.lane
  have shown := (gateFrame_reports s.dev.fresh (s.dev.enc l).outs ((s.dev.fresh.placeChange g).beacon g).2.2.2).trans
    (raise_reports _ .gong 4)
  have henc : (((s.dev.fresh.gateFrame (s.dev.enc l).outs ((s.dev.fresh.placeChange g).beacon g).2.2.2).2.raise .gong 4).beaconed g
      s.dev.msync.bpi).enc l = s.dev.enc l := shown.enc l
  have heff : beaconTxEffect g x s.dev.fresh = ((s.dev.fresh.gateFrame (s.dev.enc l).outs
      ((s.dev.fresh.placeChange g).beacon g).2.2.2).2.raise .gong 4).beaconed g s.dev.msync.bpi := beaconTxEffect_kept_off h x hg
  rw [heff, withWrites_same _ s.dev.fresh l w _ (congrArg EncLane.frame henc)] at hdev
  have hends : AtEnc l (s.dev.beaconed g s.dev.msync.bpi) t.dev := by
    rw [hdev]
    exact (((fresh_reports _).trans shown).modGroup g _).atEnc l |>.trans ((fresh_reports _).atEnc l)
  refine ⟨t, ht, hp, .of_atEnc hends, ?_, ?_⟩
  · rw [hdev, fresh_enc]
    exact congrArg EncLane.frame henc
  · rw [hdev]
    exact flag_raise (by omega) _ .gong

end

theorem beaconTx_next {s : State} {g : Fin 32} {l : Nat} (h : s.dev.fresh.BeaconDue g l) (w : LaneWrites) (x : MemFaults) :
    let b := (s.dev.fresh.placeChange g).beacon g
    ∃ t, exec (.beaconTx g w x) s = .next t ∧ t.pending = s.pending ∧ t.dev.dev = .run ∧
      (t.dev.group g).lastBcn = some s.dev.msync.bpi ∧ t.dev.nodes = s.dev.nodes ∧
      ((s.dev.fresh.gateFrame (s.dev.enc l).outs b.2.2.2).1 = true →
        ∃ f, (t.dev.enc l).frame = some f ∧ f.fc = b.1 ∧ f.start = s.dev.tb.n ∧ f.stop = s.dev.tb.n + b.2.2.2) ∧
      ((s.dev.fresh.gateFrame (s.dev.enc l).outs b.2.2.2).1 = false →
        (t.dev.enc l).frame = (s.dev.enc l).frame ∧ t.dev.flag Reg.gongStat 4 = true) := by
  intro b
  cases hg : (s.dev.fresh.gateFrame (s.dev.enc l).outs b.2.2.2).1 with
  | true =>
    obtain ⟨t, ht, hp, hb, hf⟩ := beaconTx_sent h w x hg
    exact ⟨t, ht, hp, hb.dev.trans h.run, hb.last, hb.nodes, fun _ => hf, nofun⟩
  | false =>
    obtain ⟨t, ht, hp, hb, hf⟩ := beaconTx_kept_off h w x hg
    exact ⟨t, ht, hp, hb.dev.trans h.run, hb.last, hb.nodes, nofun, fun _ => hf⟩

/-! ### MAINT_GRANT (21 R475, R478) -/

theorem maintGrant_reaches {s : State} {r : MntReq} (hrun : s.dev.dev = .run)
    (hr : s.dev.mnt.reqs.find? (fun r => s.dev.grantable r) = some r) :
    Reaches (exec .maintGrant s) s { s.dev with mnt := { s.dev.mnt with
      reqs := s.dev.mnt.reqs.filter (fun x => decide (x.stamp ≠ r.stamp))
      runs := s.dev.mnt.runs ++ [{ req := r, grant := s.dev.clk, placed := some ((s.dev.msync.bpi + 4) % 2 ^ 23) }] } } := by
  have hfind : s.dev.fresh.mnt.reqs.find? (fun r => s.dev.fresh.grantable r) = some r := hr
  refine run_reaches (f := maintGrantEffect) ?_
  unfold maintGrantEffect
  rw [if_neg (by simp [hrun]), hfind]
  exact Reports.trans ⟨rfl, fun _ _ => rfl⟩ (foldl_reports _ (fun d _ => raise_reports d _ _) _ _)

/-! ### The statement -/

/-- Settles O54: a plan frozen or refused, a late plan, a beacon sent or kept off, and a grant. -/
theorem schedules : Obligations.Schedules := by
  intro s hrun
  refine ⟨fun g pl => ⟨scheduleFreeze_idle pl, scheduleFreeze_freezes hrun, scheduleFreeze_refuses hrun⟩,
    fun g n => scheduleLate_next hrun, ?_, fun r => maintGrant_reaches hrun⟩
  intro g w x l hlane hbeacons hlast hat hunit
  exact beaconTx_next ⟨hrun, hlane, hbeacons, hlast, hat, hunit⟩ w x

end Sys2Proof.Machine
end

section
/-! SUPPORT. Every command's meaning is the run of an effect (log 1), so what a run keeps every step keeps; and what one happening
counts (20 R461). -/

namespace Sys2Proof.Machine

/-! ### Steps are runs (log 1) -/

/-- Every command runs an effect on the device: no command writes host memory, or ends the step, in another way. -/
theorem exec_eq_run (c : Instr) (s : State) : ∃ f, exec c s = run f s := by
  cases c with
  | registerWrite off size data => exact ⟨fun d => d.barWrite off.toNat size data.toNat, rfl⟩
  | cvuFeed u data => exact ⟨fun d => d.barWrite (Reg.cvuFeed u) 4 data.toNat, rfl⟩
  | beaconTx g w x =>
    exact ⟨fun d => (beaconTxEffect g x d).withWrites d ((d.beaconLane g).getD 96) w x.lane.isSome, rfl⟩
  | frameTxStart l what w x => exact ⟨fun d => (frameTxStartEffect l.val what x d).withWrites d l.val w x.lane.isSome, rfl⟩
  | ackTx l w parity =>
    exact ⟨fun d => (ackTxEffect l.val d).withWrites d ((d.ackLane (d.dec l.val)).getD 96) w parity, rfl⟩
  | _ => exact ⟨_, rfl⟩

theorem step_eq_run (s : State) : ∃ (f : Dev → Dev) (q : List Instr), step s = run f { s with pending := q } := by
  cases hp : s.pending with
  | nil => exact ⟨Dev.cycle, [], (step_empty hp).trans (by rw [← hp])⟩
  | cons c rest =>
    obtain ⟨f, hf⟩ := exec_eq_run c { s with pending := rest }
    refine ⟨f, rest, ?_⟩
    rw [step, hp]
    exact hf

/-- Settles O1: a step takes the front of the queue by definition. -/
theorem stepExecutesFrontCommand : Obligations.StepExecutesFrontCommand := fun _ _ => rfl

/-- Settles O3: at reset the device has written nothing. -/
theorem resetMeetsInvariant : Obligations.ResetMeetsInvariant := ⟨rfl, rfl⟩

/-- Settles O4: a step is a run, and a run keeps what every step keeps. -/
theorem everyStepKeepsMemoryCanonical : Obligations.EveryStepKeepsMemoryCanonical := by
  intro s t hinv ht
  obtain ⟨f, q, hf⟩ := step_eq_run s
  exact run_inv f { s with pending := q } t hinv (hf.symm.trans ht)

/-! ### What a happening counts (20 R461) -/

/-- A counter that nothing has written selects no happening. -/
theorem selects_init (src b : Nat) (slot : Option Nat) : selects Counter.init src b slot = false := by
  have hv : bit Counter.init.sel.toNat 15 = false := by decide
  simp [selects, hv]

/-- Counting adds to the counters of the bank that select the happening, and to no other. -/
theorem counter_count (d : Dev) (bank src b : Nat) (slot : Option Nat) (n i : Nat) :
    (d.count bank src b slot n).counter i =
      if i / 16 = bank ∧ selects (d.counter i) src b slot = true then (d.counter i).add n else d.counter i := by
  have hcells : (d.count bank src b slot n).cnts.cells = d.cnts.cells.map (fun e =>
      if decide (e.1 / 16 = bank) && selects e.2 src b slot then (e.1, e.2.add n) else e) := by
    unfold Dev.count
    dsimp only
    split <;> rfl
  unfold Dev.counter
  rw [hcells]
  induction d.cnts.cells with
  | nil => simp [selects_init]
  | cons e cells ih =>
    obtain ⟨k, x⟩ := e
    by_cases hk : k = i
    · subst hk
      by_cases hit : k / 16 = bank ∧ selects x src b slot = true
      · simp [SMap.get, hit.1, hit.2]
      · rw [List.map_cons, if_neg (by simpa using hit)]
        simp [SMap.get, hit]
    · rw [List.map_cons]
      have hkey : ∀ p : Prop, [Decidable p] → (if p then (k, x.add n) else (k, x)).1 = k := fun p _ => by split <;> rfl
      simp only [SMap.get, hkey, if_neg hk]
      exact ih

theorem counter_raise (d : Dev) (r : Src) (b i : Nat) :
    (d.raise r b).counter i =
      if i / 16 = r.place.1 ∧ selects (d.counter i) r.place.2.1 b r.place.2.2 = true then (d.counter i).add 1 else d.counter i :=
  counter_count (d.setFld r.off b b 1) _ _ _ _ _ i

/-- Settles O6: the bit by the register's own law, the counters by what counting does. -/
theorem happeningSetsBitAndCounts : Obligations.HappeningSetsBitAndCounts :=
  fun d r b i hb => ⟨flag_raise hb d r, raise_reports d r b, counter_raise d r b i⟩

end Sys2Proof.Machine
end

section
/-! SUPPORT. Reporting clears no status bit (20 R461): a bit that stands keeps standing through happenings, events, completions and
messages. -/

namespace Sys2Proof.Machine

/-! ### Bits that stay (20 R461) -/

/-- Every bit that stands in a register of `a` stands in `b`. -/
def KeepsBits (a b : Dev) : Prop := ∀ off i, i < 32 → a.flag off i = true → b.flag off i = true

theorem KeepsBits.refl (a : Dev) : KeepsBits a a := fun _ _ _ h => h
theorem KeepsBits.trans {a b c : Dev} (h : KeepsBits a b) (k : KeepsBits b c) : KeepsBits a c :=
  fun off i hi hb => k off i hi (h off i hi hb)

theorem KeepsBits.of_regs {a b : Dev} (h : b.regs = a.regs) : KeepsBits a b := by
  intro off i _ hb
  rwa [Dev.flag, Dev.reg, h]

theorem ite_keepsBits {d a b : Dev} {p : Prop} [Decidable p] (ha : KeepsBits d a) (hb : KeepsBits d b) :
    KeepsBits d (if p then a else b) := by split <;> assumption

theorem KeepsBits.foldl {α : Type} {f : Dev → α → Dev} (hf : ∀ d x, KeepsBits d (f d x)) (l : List α) (d : Dev) :
    KeepsBits d (l.foldl f d) :=
  List.foldlRecOn l f (motive := fun e => KeepsBits d e) (KeepsBits.refl d) fun _ h x _ => h.trans (hf _ x)

theorem bit_setBits_one {v i k : Nat} (h : bit v i = true) : bit (setBits v k k 1) i = true := by
  rw [bit_eq_bits] at h ⊢
  by_cases hi : i = k
  · rw [hi, bits_setBits_same (Nat.le_refl k)]
    simp
  · rwa [bits_setBits_apart (Nat.le_refl k) (Nat.le_refl i) (by omega)]

theorem bit_mod_word {v i : Nat} (hi : i < 32) : bit (v % 2 ^ 32) i = bit v i := by
  have hdvd : (2 : Nat) ∣ 2 ^ (32 - i) := dvd_pow_self 2 (by omega)
  have hpow : 2 ^ 32 = 2 ^ i * 2 ^ (32 - i) := by rw [← Nat.pow_add]; congr 1; omega
  unfold bit
  rw [hpow, Nat.mod_mul_right_div_self, Nat.mod_mod_of_dvd _ hdvd]

/-- A register written with a word that has every bit of the old one. -/
theorem setReg_keepsBits {d : Dev} {off v : Nat} (h : ∀ i, i < 32 → bit (d.reg off) i = true → bit v i = true) :
    KeepsBits d (d.setReg off v) := by
  intro o i hi hb
  by_cases ho : o = off
  · rw [ho, Dev.flag] at hb ⊢
    rw [reg_setReg_same, bit_mod_word hi]
    exact h i hi hb
  · rwa [Dev.flag, reg_setReg_ne ho]

theorem setFld_one_keepsBits (d : Dev) (off b : Nat) : KeepsBits d (d.setFld off b b 1) :=
  setReg_keepsBits fun _ _ hb => bit_setBits_one hb

theorem count_keepsBits (d : Dev) (bank src b : Nat) (slot : Option Nat) (n : Nat) : KeepsBits d (d.count bank src b slot n) :=
  ite_keepsBits ((KeepsBits.of_regs rfl).trans (setFld_one_keepsBits _ _ _)) (.of_regs rfl)

theorem raise_keepsBits (d : Dev) (r : Src) (b : Nat) : KeepsBits d (d.raise r b) :=
  (setFld_one_keepsBits d r.off b).trans (count_keepsBits _ _ _ _ _ _)

/-! ### Events -/

theorem pushRaw_keepsBits (d : Dev) (q : Nat) (item : List Byte) : KeepsBits d (d.pushRaw q item) := by
  have counts : ∀ e : Dev, e.regs = d.regs → KeepsBits d (e.count 39 7 3 none 1) :=
    fun e h => (KeepsBits.of_regs h).trans (count_keepsBits e _ _ _ _ _)
  unfold Dev.pushRaw
  dsimp only
  refine ite_keepsBits (ite_keepsBits (KeepsBits.trans ?_ (raise_keepsBits _ _ _)) ?_) (.of_regs rfl) <;> exact counts _ rfl

theorem eventRaw_keepsBits (d : Dev) (mpt code st obj : Nat) (detail : List Byte) :
    KeepsBits d (d.eventRaw mpt code st obj detail) :=
  ite_keepsBits ((pushRaw_keepsBits d 0 _).trans (.of_regs rfl)) (KeepsBits.refl d)

theorem sticky_keepsBits (d : Dev) (q : Nat) : KeepsBits d (d.sticky q) := by
  have one : ∀ (p : Prop) [Decidable p] (v k i : Nat), bit v i = true → bit (if p then setBits v k k 1 else v) i = true := by
    intro p _ v k i hb
    split
    · exact bit_setBits_one hb
    · exact hb
  exact (setReg_keepsBits fun i _ hb => one _ _ 16 i (one _ _ 17 i hb)).trans (.of_regs rfl)

theorem markWith_keepsBits {post : Dev → Nat → List Byte → Dev} (hp : ∀ d q b, KeepsBits d (post d q b)) (d : Dev) (q : Nat) :
    KeepsBits d (Dev.markWith post d q) := by
  have disarmed : KeepsBits d ((d.sticky q).modWm q (fun w => { w with armed := false })) :=
    (sticky_keepsBits d q).trans (.of_regs rfl)
  exact ite_keepsBits (sticky_keepsBits d q)
    (ite_keepsBits disarmed (ite_keepsBits (disarmed.trans (hp _ _ _)) (sticky_keepsBits d q)))

theorem notice_keepsBits (d : Dev) (q : Nat) (detail : List Byte) : KeepsBits d (d.notice q detail) :=
  (eventRaw_keepsBits d _ _ _ _ _).trans (markWith_keepsBits (fun _ _ _ => eventRaw_keepsBits _ _ _ _ _ _) _ 0)

theorem mark_keepsBits (d : Dev) (q : Nat) : KeepsBits d (d.mark q) := markWith_keepsBits notice_keepsBits d q

theorem event_keepsBits (d : Dev) (code st obj : Nat) (detail : List Byte) : KeepsBits d (d.event code st obj detail) :=
  ite_keepsBits ((eventRaw_keepsBits d _ _ _ _ _).trans (mark_keepsBits _ 0)) (KeepsBits.refl d)

theorem faultClass_keepsBits (d : Dev) (cls : Nat) : KeepsBits d (d.faultClass cls) :=
  (raise_keepsBits d .mntF cls).trans (.of_regs rfl)

theorem faultEvent_keepsBits (d : Dev) (cls loc grp b5 : Nat) : KeepsBits d (d.faultEvent cls loc grp b5) :=
  (faultClass_keepsBits d cls).trans (event_keepsBits _ _ _ _ _)

/-- A fault shows as its class: the bit of `MNT_FSTAT` (21 R481). -/
theorem faultEvent_flag {cls : Nat} (h : cls < 32) (d : Dev) (loc grp b5 : Nat) :
    (d.faultEvent cls loc grp b5).flag Reg.mntFstat cls = true :=
  event_keepsBits _ _ _ _ _ _ _ h (flag_raise h d .mntF)

/-! ### Operations that write no register -/

@[simp] theorem hostWrite_regs (d : Dev) (f a : Nat) (bs : List Byte) : (d.hostWrite f a bs).regs = d.regs := by
  unfold Dev.hostWrite
  split <;> rfl

@[simp] theorem writeEntry_regs (d : Dev) (k : Nat) (bs : List Byte) : (d.writeEntry k bs).regs = d.regs := by
  unfold Dev.writeEntry
  exact hostWrite_regs d _ _ _

theorem payOwed_regs (d : Dev) (k : Nat) : (d.payOwed k).regs = d.regs := by
  unfold Dev.payOwed
  refine (foldl_keeps Dev.regs ?_ _ _).trans ?_
  · intro e bs
    split <;> simp only [modRing_regs, writeEntry_regs]
  · split <;> rfl

theorem complete_regs (d : Dev) (k : Nat) (bs : List Byte) : (d.complete k bs).regs = d.regs := by
  unfold Dev.complete
  dsimp only
  split
  · rfl
  · rfl
  · exact payOwed_regs _ _

theorem message_regs (d : Dev) (f v : Nat) : (d.message f v).regs = d.regs := by
  unfold Dev.message
  split
  · rfl
  · dsimp only
    split
    · exact hostWrite_regs _ _ _ _
    · rfl

/-! ### Commands that end -/

theorem finish_keepsBits (d : Dev) (id st : Nat) (q : List Byte) : KeepsBits d (d.finish id st q) := by
  unfold Dev.finish
  split
  · exact KeepsBits.refl d
  · refine KeepsBits.trans ?_ (mark_keepsBits _ 12)
    exact ite_keepsBits (.of_regs (complete_regs _ _ _)) (.of_regs rfl)

theorem finishBlock_keepsBits (d : Dev) (id st : Nat) (q b : List Byte) : KeepsBits d (d.finishBlock id st q b) := by
  unfold Dev.finishBlock
  split
  · exact KeepsBits.refl d
  · refine ite_keepsBits (finish_keepsBits d _ _ _) (ite_keepsBits ?_ ?_)
    · exact (KeepsBits.of_regs rfl).trans (finish_keepsBits (d.reportAer 0) _ _ _)
    · exact (KeepsBits.of_regs (hostWrite_regs d _ _ _)).trans (finish_keepsBits _ _ _ _)

end Sys2Proof.Machine
end

section
/-! SUPPORT. Supply and boot (22 R492-R501, 19 R445-R450): what the edges of the supply and of PERST# leave, and where the boot ROM
leads. -/

namespace Sys2Proof.Machine

/-! ### VIN (22 R492-R494) -/

/-- An effect that posts nothing ends in the device that it gives, host memory as it was. -/
theorem run_gives {f : Dev → Dev} {s : State} {e : Dev} (h : f s.dev.fresh = e) (hp : e.posted = []) :
    ∃ t, run f s = .next t ∧ t.pending = s.pending ∧ t.hostMem = s.hostMem ∧ t.dev = e.fresh := by
  subst h
  exact run_unposted hp

/-- A start on what was kept is a level-3 event (22 R494). -/
theorem vinValidEffect_kept {d : Dev} {mv : Nat} (hd : d.dev = .off) (hv : d.pwr.vinOk = false) (hl : d.pwr.lost = false) :
    vinValidEffect mv true d = { d with
      dev := .boot
      pwr := { d.pwr with cause := 3, l3 := (d.pwr.l3 + 1) % 65536, vinOk := true, vin := mv, lost := false, v33 := .up } } := by
  simp [vinValidEffect, hd, hv, hl]

/-- A start without it is a power cycle (22 R494). -/
theorem vinValidEffect_lost {d : Dev} {mv : Nat} {ok : Bool} (hd : d.dev = .off) (hv : d.pwr.vinOk = false)
    (hl : ok = false ∨ d.pwr.lost = true) :
    vinValidEffect mv ok d = { d with
      dev := .boot
      sec := { d.sec with stage := [], stageLen := 0, pendImg := false }
      pwr := { d.pwr with cause := 0, l3 := 0, vinOk := true, vin := mv, lost := false, v33 := .up } } := by
  have hk : (ok && !d.pwr.lost) = false := by
    rcases hl with h | h <;> simp [h]
  simp [vinValidEffect, hd, hv, hk, Dev.loseRetained]

theorem vinValid_next {s : State} (mv : Nat) (ok : Bool) (hd : s.dev.dev = .off) (hv : s.dev.pwr.vinOk = false) :
    ∃ t, exec (.vinValid mv ok) s = .next t ∧ t.pending = s.pending ∧ t.hostMem = s.hostMem ∧
      t.dev.dev = .boot ∧ t.dev.pwr.vinOk = true ∧ t.dev.pwr.vin = mv ∧ t.dev.pwr.v33 = .up ∧
      Reports { s.dev with dev := .boot, pwr := t.dev.pwr, sec := t.dev.sec } t.dev ∧
      (ok = true ∧ s.dev.pwr.lost = false →
        t.dev.pwr.cause = 3 ∧ t.dev.pwr.l3 = (s.dev.pwr.l3 + 1) % 65536 ∧ t.dev.sec = s.dev.sec) ∧
      (ok = false ∨ s.dev.pwr.lost = true →
        t.dev.pwr.cause = 0 ∧ t.dev.pwr.l3 = 0 ∧ t.dev.sec.stage = [] ∧ t.dev.sec.pendImg = false) := by
  by_cases hl : ok = false ∨ s.dev.pwr.lost = true
  · obtain ⟨t, ht, hp, hm, hdev⟩ := run_gives (s := s) (vinValidEffect_lost (mv := mv) (d := s.dev.fresh) hd hv hl) rfl
    refine ⟨t, ht, hp, hm, ?_⟩
    rw [hdev]
    exact ⟨rfl, rfl, rfl, rfl, ⟨rfl, fun _ _ => rfl⟩, fun h => by simp [h] at hl, fun _ => ⟨rfl, rfl, rfl, rfl⟩⟩
  · rw [not_or, Bool.not_eq_false, Bool.not_eq_true] at hl
    obtain ⟨rfl, hlost⟩ := hl
    obtain ⟨t, ht, hp, hm, hdev⟩ := run_gives (s := s) (vinValidEffect_kept (mv := mv) (d := s.dev.fresh) hd hv hlost) rfl
    refine ⟨t, ht, hp, hm, ?_⟩
    rw [hdev]
    exact ⟨rfl, rfl, rfl, rfl, ⟨rfl, fun _ _ => rfl⟩, fun _ => ⟨rfl, rfl, rfl⟩, fun h => by simp [hlost] at h⟩

theorem brownOutEffect_on {d : Dev} (hd : d.dev ≠ .off) :
    brownOutEffect d = { d.resetDie with pwr := { d.resetDie.pwr with vinOk := false, perst := false, v33 := .off } } :=
  if_neg hd

theorem brownOut_next {s : State} (hd : s.dev.dev ≠ .off) :
    ∃ t, exec .brownOut s = .next t ∧ t.pending = s.pending ∧ t.hostMem = s.hostMem ∧ t.dev.dev = .off ∧
      (∀ p, (t.dev.port p).enabled = false) ∧ (∀ k, (t.dev.ring k).st = .disabled) ∧ t.dev.swoHiZ = true ∧
      (∀ off, t.dev.reg off = State.reset.dev.reg off) ∧ t.dev.pwr.v33 = .off ∧ t.dev.pwr.vinOk = false ∧
      t.dev.pwr.l3 = s.dev.pwr.l3 ∧ t.dev.sec.arbCtr = s.dev.sec.arbCtr ∧ t.dev.sec.revoked = s.dev.sec.revoked ∧
      t.dev.sec.kek = none := by
  obtain ⟨t, ht, hp, hm, hdev⟩ := run_gives (brownOutEffect_on (d := s.dev.fresh) hd) rfl
  refine ⟨t, ht, hp, hm, ?_⟩
  rw [hdev]
  exact ⟨rfl, resetDie_muted _, fun _ => rfl, rfl, fun _ => rfl, rfl, rfl, rfl, rfl, rfl, rfl⟩

theorem powerCycleEffect_off {d : Dev} (hd : d.dev = .off) :
    powerCycleEffect d = { d with
      sec := { d.sec with stage := [], stageLen := 0, pendImg := false }
      pwr := { d.pwr with cause := 0, l3 := 0, lost := true } } := by
  simp [powerCycleEffect, hd, Dev.loseRetained]

theorem powerCycle_next {s : State} (hd : s.dev.dev = .off) :
    ∃ t, exec .powerCycle s = .next t ∧ t.pending = s.pending ∧ t.hostMem = s.hostMem ∧ t.dev.pwr.lost = true ∧
      t.dev.pwr.cause = 0 ∧ t.dev.pwr.l3 = 0 ∧ t.dev.sec.stage = [] ∧ t.dev.sec.pendImg = false ∧
      Reports { s.dev with pwr := t.dev.pwr, sec := t.dev.sec } t.dev := by
  obtain ⟨t, ht, hp, hm, hdev⟩ := run_gives (s := s) (powerCycleEffect_off (d := s.dev.fresh) hd) rfl
  refine ⟨t, ht, hp, hm, ?_⟩
  rw [hdev]
  exact ⟨rfl, rfl, rfl, rfl, rfl, rfl, fun _ _ => rfl⟩

/-! ### V33OUT (22 R497) -/

theorem statusOff_pwrStat : statusOff Reg.pwrStat = true := by decide

/-- V33OUT goes off, and `PWR_STAT` shows it. -/
def Dev.tripV33 (d : Dev) (p : Power) : Dev := ({ d with pwr := p }).setFld Reg.pwrStat 4 4 1

theorem run_tripV33 {f : Dev → Dev} {s : State} {p : Power} (heff : f s.dev.fresh = s.dev.fresh.tripV33 p) :
    ∃ t, run f s = .next t ∧ t.pending = s.pending ∧ t.hostMem = s.hostMem ∧ t.dev.flag Reg.pwrStat 4 = true ∧
      Reports { s.dev with pwr := p } t.dev := by
  obtain ⟨t, ht, hp, hm, hdev⟩ := run_gives heff rfl
  refine ⟨t, ht, hp, hm, ?_⟩
  rw [hdev, fresh_flag]
  exact ⟨flag_setFld_same (i := 4) (by decide) { s.dev.fresh with pwr := p } Reg.pwrStat,
    ((fresh_reports s.dev).set_pwr p).trans ((setFld_reports statusOff_pwrStat _ 4 4 1).trans (fresh_reports _))⟩

theorem v33OvercurrentEffect_up {d : Dev} (h : d.pwr.v33 = .up) :
    v33OvercurrentEffect d = d.tripV33 { d.pwr with v33 := .tripped, v33At := d.clk } := if_pos h

theorem v33RetryEffect_due {d : Dev} (h : d.pwr.v33 = .tripped) (hc : d.pwr.v33At + usClk 100000 ≤ d.clk) (overload : Bool) :
    v33RetryEffect overload d =
      if overload then d.tripV33 { d.pwr with v33At := d.clk } else { d with pwr := { d.pwr with v33 := .up } } :=
  if_neg (by simp [h, hc])

theorem v33RetryEffect_early {d : Dev} (hc : d.clk < d.pwr.v33At + usClk 100000) (overload : Bool) :
    v33RetryEffect overload d = d := if_pos (.inr hc)

/-- Settles O13: each edge by its own effect. -/
theorem supplyEdges : Obligations.SupplyEdges := by
  intro s
  refine ⟨fun mv ok => vinValid_next mv ok, brownOut_next, powerCycle_next,
    fun h => run_tripV33 (v33OvercurrentEffect_up (d := s.dev.fresh) h), fun h hc => ⟨run_reaches ?_, ?_⟩,
    fun _ hc o => run_reaches ?_⟩
  · rw [v33RetryEffect_due (d := s.dev.fresh) h hc]
    exact ⟨rfl, fun _ _ => rfl⟩
  · exact run_tripV33 (f := v33RetryEffect true) (v33RetryEffect_due (d := s.dev.fresh) h hc true)
  · rw [v33RetryEffect_early (d := s.dev.fresh) hc]
    exact fresh_reports s.dev

end Sys2Proof.Machine
end

section
/-! SUPPORT. PERST# and the boot (22 R498-R501, 19 R445-R447): what a device reset leaves, which source the boot ROM takes, and what
leaving BOOT starts. -/

namespace Sys2Proof.Machine

/-! ### PERST# falls (22 R499) -/

/-- The link is down and PERST# low. -/
def Dev.perstLow (d : Dev) : Dev :=
  { d with pwr := { d.pwr with perst := false, sysref := false, training := false, width := 0, speed := 0 } }

theorem perstFallEffect_live {d : Dev} (h : d.dev = .config ∨ d.dev = .run ∨ d.dev = .safe) :
    perstFallEffect d = (d.level3 1).perstLow := by
  unfold perstFallEffect
  rcases h with h | h | h <;> rw [h] <;> rfl

theorem perstFall_live {s : State} (h : s.dev.dev = .config ∨ s.dev.dev = .run ∨ s.dev.dev = .safe) :
    ∃ t, exec .perstFall s = .next t ∧ t.pending = s.pending ∧ t.hostMem = s.hostMem ∧ t.dev.dev = .boot ∧
      t.dev.pwr.perst = false ∧ t.dev.pwr.cause = 1 ∧ t.dev.pwr.l3 = (s.dev.pwr.l3 + 1) % 65536 ∧ t.dev.sec.rom = .held ∧
      (∀ p, (t.dev.port p).enabled = false) ∧ (∀ k, (t.dev.ring k).st = .disabled) ∧
      ∀ off, t.dev.reg off = State.reset.dev.reg off := by
  obtain ⟨t, ht, hp, hm, hdev⟩ := run_gives (perstFallEffect_live (d := s.dev.fresh) h) rfl
  refine ⟨t, ht, hp, hm, ?_⟩
  rw [hdev]
  exact ⟨rfl, rfl, rfl, rfl, rfl, resetDie_muted _, fun _ => rfl, fun _ => rfl⟩

theorem perstFallEffect_boot {d : Dev} (h : d.dev = .boot) :
    perstFallEffect d = { d with
      pwr := { d.pwr with perst := false, sysref := false, training := false, width := 0, speed := 0,
                          cause := if d.pwr.cause = 2 then 1 else d.pwr.cause }
      sec := { d.sec with rom := .held } } := by
  unfold perstFallEffect
  dsimp only
  split
  · next hoff => rw [h] at hoff; cases hoff
  · rfl
  · next hne => exact absurd h hne

theorem perstFall_boot {s : State} (h : s.dev.dev = .boot) :
    ∃ t, exec .perstFall s = .next t ∧ t.pending = s.pending ∧ t.hostMem = s.hostMem ∧ t.dev.pwr.perst = false ∧
      Reports { s.dev with pwr := t.dev.pwr, sec := { s.dev.sec with rom := .held } } t.dev := by
  obtain ⟨t, ht, hp, hm, hdev⟩ := run_gives (perstFallEffect_boot (d := s.dev.fresh) h) rfl
  refine ⟨t, ht, hp, hm, ?_⟩
  rw [hdev]
  exact ⟨rfl, rfl, fun _ _ => rfl⟩

/-! ### The boot ROM (19 R445-R447) -/

/-- The boot ROM before its first step: no source has been tried, and the slots are as the flash shows them. -/
def Dev.romBegun (d : Dev) (io : BootIo) : Dev :=
  { d with
    pwr := { d.pwr with sysref := true, thermal := false }
    sec := { d.sec with rom := .failed, src := 15, attempts := 0, lastFail := 0, slotA := some io.slotA, hasB := io.hasB
                        slotB := if io.hasB then some io.slotB else none } }

/-- The boot ROM after the TRNG's test. -/
def Dev.romTested (d : Dev) (io : BootIo) : Dev := if io.trngOk then d.romBegun io else (d.romBegun io).raise .sec 3

/-- The boot ROM after the log's first entries. -/
def Dev.romLogged (d : Dev) (io : BootIo) : Dev :=
  let e := (d.romTested io).settleDebug io
  { e with sec := { e.sec with log := e.romLog } }

theorem runRom_eq (d : Dev) (io : BootIo) :
    d.runRom io = if !io.katOk then { d.romTested io with sec := { (d.romTested io).sec with lastFail := 0x0A } }
      else ((d.romLogged io).bootSources io).foldl Dev.trySource (d.romLogged io) := rfl

theorem romTested_reports (d : Dev) (io : BootIo) : Reports (d.romBegun io) (d.romTested io) :=
  ite_reports (Reports.refl _) (raise_reports _ _ _)

/-- Step 3 settles the nonce, the token and whether debug is open. -/
theorem settleDebug_eq (d : Dev) (io : BootIo) :
    ∃ tk op, Reports { d with sec := { d.sec with nonce := io.nonce, token := tk, dbgOpen := op } } (d.settleDebug io) :=
  ⟨_, _, ite_reports (raise_reports _ _ _) (Reports.refl _)⟩

theorem romLogged_sec (d : Dev) (io : BootIo) : ∃ n tk op log, (d.romLogged io).sec =
    { (d.romBegun io).sec with nonce := n, token := tk, dbgOpen := op, log := log } := by
  obtain ⟨tk, op, hset⟩ := settleDebug_eq (d.romTested io) io
  refine ⟨io.nonce, tk, op, ((d.romTested io).settleDebug io).romLog, ?_⟩
  rw [← (romTested_reports d io).sec]
  unfold Dev.romLogged
  dsimp only
  rw [hset.sec]

theorem romLogged_pwr (d : Dev) (io : BootIo) : (d.romLogged io).pwr = (d.romBegun io).pwr := by
  obtain ⟨tk, op, hset⟩ := settleDebug_eq (d.romTested io) io
  exact hset.pwr.trans (romTested_reports d io).pwr

theorem trySource_pwr (d : Dev) (x : Nat × BootSrc) : (d.trySource x).pwr = d.pwr := by
  have copies : ∀ (p : Prop) [Decidable p] (y : Sec), (if p then { d with sec := y } else d).pwr = d.pwr := by
    intro p _ y
    split <;> rfl
  unfold Dev.trySource
  split
  · rfl
  · dsimp only
    split
    · exact copies _ _
    · exact (count_reports _ _ _ _ _ _).pwr.trans (copies _ _)

/-- The boot ROM sees SYSREF, ends a THERMAL hold, and leaves the rest of the supply. -/
theorem runRom_pwr (d : Dev) (io : BootIo) : (d.runRom io).pwr = (d.romBegun io).pwr := by
  rw [runRom_eq]
  split
  · exact (romTested_reports d io).pwr
  · exact (foldl_keeps Dev.pwr trySource_pwr _ _).trans (romLogged_pwr d io)

theorem startRom_pwr (d : Dev) (io : BootIo) :
    ∃ ok th, (d.startRom io).pwr = { d.pwr with sysref := ok, thermal := th } := by
  unfold Dev.startRom
  split
  · exact ⟨_, _, rfl⟩
  · exact ⟨_, _, runRom_pwr d io⟩

theorem startRom_hot {d : Dev} (io : BootIo) (ht : d.pwr.thermal = true)
    (hx : d.pwr.temps.all (fun x => decide (x ≤ 100)) = false) : (d.startRom io).sec.rom = .cooling io := by
  rw [Dev.startRom, if_pos (by simp [ht, hx])]

theorem startRom_cool {d : Dev} (io : BootIo) (ht : d.pwr.thermal = false) : d.startRom io = d.runRom io :=
  if_neg (by simp [ht])

theorem runRom_selfTestFails {d : Dev} {io : BootIo} (hk : io.katOk = false) :
    (d.runRom io).sec.rom = .failed ∧ (d.runRom io).sec.lastFail = 0x0A := by
  rw [runRom_eq, if_pos (by simp [hk])]
  exact ⟨by dsimp only; rw [(romTested_reports d io).sec]; rfl, rfl⟩

/-- With no pending image and one slot, that slot alone is tried. -/
theorem runRom_oneSlot {d : Dev} {io : BootIo} (hk : io.katOk = true) (hp : d.sec.pendImg = false) (hs : d.pwr.bootsel ≤ 1)
    (hb : io.hasB = false) : d.runRom io = (d.romLogged io).trySource (0, io.slotA) := by
  obtain ⟨n, tk, op, log, hsec⟩ := romLogged_sec d io
  have hpend : (d.romLogged io).sec.pendImg = false := by rw [hsec]; exact hp
  have hsel : (d.romLogged io).pwr.bootsel ≤ 1 := by rw [romLogged_pwr]; exact hs
  rw [runRom_eq, if_neg (by simp [hk])]
  simp [Dev.bootSources, hpend, hsel, hb]

theorem runRom_slotVerifies {d : Dev} {io : BootIo} (hk : io.katOk = true) (hp : d.sec.pendImg = false) (hs : d.pwr.bootsel ≤ 1)
    (hb : io.hasB = false) (hv : d.verify srcSize io.slotA = none) :
    (d.runRom io).sec.rom = .verified 0 ∧ (d.runRom io).sec.src = 0 ∧ (d.runRom io).sec.area = fit areaLen io.slotA.bytes := by
  obtain ⟨n, tk, op, log, hsec⟩ := romLogged_sec d io
  have hrom : (d.romLogged io).sec.rom = .failed := by rw [hsec]; rfl
  have hver : (d.romLogged io).verify srcSize io.slotA = none := by rw [Dev.verify, hsec]; exact hv
  rw [runRom_oneSlot hk hp hs hb]
  simp [Dev.trySource, hrom, hver]

theorem runRom_slotFails {d : Dev} {io : BootIo} {code : Nat} (hk : io.katOk = true) (hp : d.sec.pendImg = false)
    (hs : d.pwr.bootsel ≤ 1) (hb : io.hasB = false) (hv : d.verify srcSize io.slotA = some code) :
    (d.runRom io).sec.rom = .failed ∧ (d.runRom io).sec.src = 15 ∧ (d.runRom io).sec.lastFail = code ∧
      (d.runRom io).sec.attempts = 1 := by
  obtain ⟨n, tk, op, log, hsec⟩ := romLogged_sec d io
  have hrom : (d.romLogged io).sec.rom = .failed := by rw [hsec]; rfl
  have hver : (d.romLogged io).verify srcSize io.slotA = some code := by rw [Dev.verify, hsec]; exact hv
  have htry : (d.romLogged io).trySource (0, io.slotA) = ({ d.romLogged io with
      sec := { (d.romLogged io).sec with attempts := (d.romLogged io).sec.attempts + 1, lastFail := code } }).count 40 7 1 none 1 := by
    simp [Dev.trySource, hrom, hver]
  rw [runRom_oneSlot hk hp hs hb, htry, (count_reports _ _ _ _ _ _).sec]
  dsimp only
  rw [hsec]
  exact ⟨rfl, rfl, rfl, rfl⟩

/-! ### PERST# rises (22 R499) -/

/-- BOOTSEL is latched and the link begins to train. -/
def Dev.perstHigh (d : Dev) (bs : Nat) : Dev := { d with pwr := { d.pwr with perst := true, bootsel := bs, training := true } }

theorem perstRiseEffect_due {d : Dev} {bs : BitVec 2} {io : BootIo} (hd : d.dev = .boot) (hp : d.pwr.perst = false) :
    perstRiseEffect bs io d = (d.perstHigh bs.toNat).derateAll.startRom io := by
  unfold perstRiseEffect
  rw [if_neg (by simp [hd, hp])]
  rfl

theorem derateAll_eq (d : Dev) : ∃ ps, d.derateAll = { d with ports := ps } := by
  refine List.foldlRecOn (List.range 128) Dev.deratePort (motive := fun e => ∃ ps, e = { d with ports := ps }) ⟨d.ports, rfl⟩ ?_
  rintro e ⟨ps, rfl⟩ p _
  exact ⟨_, rfl⟩

theorem derateAll_sec (d : Dev) : d.derateAll.sec = d.sec := by
  obtain ⟨ps, h⟩ := derateAll_eq d
  rw [h]

theorem derateAll_pwr (d : Dev) : d.derateAll.pwr = d.pwr := by
  obtain ⟨ps, h⟩ := derateAll_eq d
  rw [h]

theorem derateAll_dev (d : Dev) : d.derateAll.dev = d.dev := by
  obtain ⟨ps, h⟩ := derateAll_eq d
  rw [h]

theorem perstRise_next {s : State} (bs : BitVec 2) (io : BootIo) (hd : s.dev.dev = .boot) (hp : s.dev.pwr.perst = false) :
    ∃ t, exec (.perstRise bs io) s = .next t ∧ t.pending = s.pending ∧ t.dev.dev = .boot ∧ t.dev.pwr.perst = true ∧
      t.dev.pwr.bootsel = bs.toNat ∧ t.dev.pwr.training = true ∧
      (∀ p, p < 128 → (t.dev.port p).derate = s.dev.derateFor p s.dev.pwr.vin) ∧
      (s.dev.pwr.thermal = true → s.dev.pwr.temps.all (fun x => decide (x ≤ 100)) = false → t.dev.sec.rom = .cooling io) ∧
      (s.dev.pwr.thermal = false → io.katOk = false → t.dev.sec.rom = .failed ∧ t.dev.sec.lastFail = 0x0A) ∧
      (s.dev.pwr.thermal = false → io.katOk = true → s.dev.sec.pendImg = false → bs.toNat ≤ 1 → io.hasB = false →
        (s.dev.verify srcSize io.slotA = none →
          t.dev.sec.rom = .verified 0 ∧ t.dev.sec.src = 0 ∧ t.dev.sec.area = fit areaLen io.slotA.bytes) ∧
        ∀ code, s.dev.verify srcSize io.slotA = some code →
          t.dev.sec.rom = .failed ∧ t.dev.sec.src = 15 ∧ t.dev.sec.lastFail = code ∧ t.dev.sec.attempts = 1) := by
  obtain ⟨t, ht, hpend, hdev⟩ := run_fresh (perstRiseEffect bs io) s
  rw [perstRiseEffect_due (d := s.dev.fresh) hd hp] at hdev
  obtain ⟨e, he⟩ : ∃ e, e = (s.dev.fresh.perstHigh bs.toNat).derateAll := ⟨_, rfl⟩
  have hsec : e.sec = s.dev.sec := by rw [he, derateAll_sec]; rfl
  have hpwr : e.pwr = { s.dev.pwr with perst := true, bootsel := bs.toNat, training := true } := by rw [he, derateAll_pwr]; rfl
  have hstate : e.dev = .boot := by rw [he, derateAll_dev]; exact hd
  have hverify : ∀ x, e.verify srcSize x = s.dev.verify srcSize x := fun x => by rw [Dev.verify, hsec]; rfl
  obtain ⟨ok, th, hstart⟩ := startRom_pwr e io
  rw [hpwr] at hstart
  rw [← he] at hdev
  refine ⟨t, ht, hpend, ?_⟩
  rw [hdev, fresh_dev, fresh_pwr, fresh_sec, (startRom_romKeeps e io).dev, hstart]
  refine ⟨hstate, rfl, rfl, rfl, fun p hlt => ?_, fun hth hx => startRom_hot io (by rw [hpwr]; exact hth) (by rw [hpwr]; exact hx),
    fun hth hk => ?_, fun hth hk hpi hbs hb => ?_⟩
  · rw [fresh_port, (startRom_romKeeps e io).port, he, Dev.derateAll,
      foldl_deratePort_derate (List.range 128) (s.dev.fresh.perstHigh bs.toNat) (.inl (List.mem_range.2 hlt))]
    rfl
  · rw [startRom_cool io (by rw [hpwr]; exact hth)]
    exact runRom_selfTestFails hk
  · rw [startRom_cool io (by rw [hpwr]; exact hth)]
    have hpi' : e.sec.pendImg = false := by rw [hsec]; exact hpi
    have hbs' : e.pwr.bootsel ≤ 1 := by rw [hpwr]; exact hbs
    exact ⟨fun hv => runRom_slotVerifies hk hpi' hbs' hb (by rw [hverify, hv]),
      fun code hv => runRom_slotFails hk hpi' hbs' hb (by rw [hverify, hv])⟩

/-! ### Leaving BOOT (02 R38, 14 R349, 22 R501) -/

/-- What leaving BOOT starts, apart from the event that reports it. -/
def Dev.awake (d : Dev) (st : DevState) : Dev :=
  { d with dev := st, tb := { Timebase.init with freq := d.nomFreq }, meas := { d.meas with clocks := true, start := d.clk },
           swoHiZ := false, swoLvl := d.swoIdle, sec := { d.sec with rom := .done } }

theorem leaveBoot_reports (d : Dev) (st : DevState) : Reports (d.awake st) (d.leaveBoot st) := event_reports _ _ _ _ _

theorem awake_mpt (d : Dev) (st : DevState) : (d.awake st).mpt = 0 := by simp [Dev.mpt, Dev.awake, Timebase.init]

/-- The running image is measured, and `TRIAL` says whether its commit is due. -/
def Dev.imageTaken (d : Dev) : Dev :=
  { d with sec := { d.sec with log := d.sec.log ++ imageLog d.sec.area, trial := d.commitDueImg } }

theorem bootCompleteEffect_verified {d : Dev} {src : Nat} (hd : d.dev = .boot) (hr : d.sec.rom = .verified src) :
    bootCompleteEffect d = d.imageTaken.leaveBoot .config := by
  unfold bootCompleteEffect
  rw [hd, hr]
  rfl

theorem bootComplete_next {s : State} {src : Nat} (hd : s.dev.dev = .boot) (hr : s.dev.sec.rom = .verified src) :
    ∃ t, exec .bootComplete s = .next t ∧ t.pending = s.pending ∧ t.dev.dev = .config ∧ t.dev.mpt = 0 ∧
      t.dev.tb.freq = (if s.dev.flag Reg.mptCtrl 1 then 67553994 else 56294995) ∧
      t.dev.swoHiZ = false ∧ t.dev.swoLvl = s.dev.fld Reg.swoCtrl 15 0 ∧ t.dev.meas.clocks = true ∧ t.dev.sec.rom = .done ∧
      t.dev.sec.trial = s.dev.commitDueImg ∧ t.dev.sec.log = s.dev.sec.log ++ imageLog s.dev.sec.area ∧
      (∀ p, t.dev.port p = s.dev.port p) ∧ ∀ off, statusOff off = false → t.dev.reg off = s.dev.reg off := by
  obtain ⟨t, ht, hp, hdev⟩ := run_fresh bootCompleteEffect s
  rw [bootCompleteEffect_verified (d := s.dev.fresh) hd hr] at hdev
  have hrep : Reports (s.dev.fresh.imageTaken.awake .config) t.dev := by
    rw [hdev]
    exact (leaveBoot_reports _ _).trans (fresh_reports _)
  refine ⟨t, ht, hp, hrep.dev, ?_, ?_, hrep.swoHiZ, hrep.swoLvl, ?_, ?_, ?_, ?_, hrep.port, hrep.2⟩
  · exact hrep.mpt.trans (awake_mpt _ _)
  · rw [hrep.tb]; rfl
  · rw [hrep.meas]; rfl
  all_goals rw [hrep.sec]; rfl

theorem bootFailEffect_failed {d : Dev} (hd : d.dev = .boot) (hr : d.sec.rom = .failed) :
    bootFailEffect d = ({ d with sec := { d.sec with restricted := true } }).leaveBoot .safe := by
  unfold bootFailEffect
  rw [hd, hr]

theorem bootFail_next {s : State} (hd : s.dev.dev = .boot) (hr : s.dev.sec.rom = .failed) :
    ∃ t, exec .bootFail s = .next t ∧ t.pending = s.pending ∧ t.dev.dev = .safe ∧ t.dev.sec.restricted = true ∧
      t.dev.sec.rom = .done ∧ t.dev.mpt = 0 := by
  obtain ⟨t, ht, hp, hdev⟩ := run_fresh bootFailEffect s
  rw [bootFailEffect_failed (d := s.dev.fresh) hd hr] at hdev
  have hrep : Reports (({ s.dev.fresh with sec := { s.dev.fresh.sec with restricted := true } } : Dev).awake .safe) t.dev := by
    rw [hdev]
    exact (leaveBoot_reports _ _).trans (fresh_reports _)
  refine ⟨t, ht, hp, hrep.dev, ?_, ?_, ?_⟩
  · rw [hrep.sec]; rfl
  · rw [hrep.sec]; rfl
  · exact hrep.mpt.trans (awake_mpt _ _)

theorem pcieLinkTrained_reaches {s : State} {w : BitVec 4} {v : BitVec 3} (hd : s.dev.dev ≠ .off) (ht : s.dev.pwr.training = true)
    (hw : w.toNat ∈ [1, 4, 8]) (hv : v.toNat ∈ [3, 4, 5]) :
    Reaches (exec (.pcieLinkTrained w v) s) s
      { s.dev with pwr := { s.dev.pwr with training := false, width := w.toNat, speed := v.toNat } } := by
  have hok : linkOk w.toNat v.toNat = true := by simp only [linkOk, hw, hv, decide_true, Bool.and_self]
  refine run_reaches (f := pcieLinkTrainedEffect w.toNat v.toNat) ?_
  unfold pcieLinkTrainedEffect
  rw [if_pos ⟨hd, ht, hok⟩]
  exact ⟨rfl, fun _ _ => rfl⟩

/-- Settles O14: PERST#, the boot ROM's verdict, and the two ways out of BOOT. -/
theorem bootPath : Obligations.BootPath := fun _ =>
  ⟨perstFall_live, perstFall_boot, perstRise_next, fun _ => bootComplete_next, bootFail_next, fun _ _ => pcieLinkTrained_reaches⟩

end Sys2Proof.Machine
end

section
/-! SUPPORT. Temperature and supply voltage (22 R492, R495, R504, 03 R75, R76): alerts, quadrants that power down and up, and the
`DERATE` of the ports. -/

namespace Sys2Proof.Machine

/-! ### The supply under work that ends -/

theorem endMnt_pwr (d : Dev) (kind p q0 q3 q4 : Nat) : (d.endMnt kind p q0 q3 q4).pwr = d.pwr := by
  obtain ⟨e, he⟩ : ∃ e, e = if kind = 2 then d.endJoined [p] (fun d id => d.finish id stOk (quints q0 0 0 q3 q4)) else d :=
    ⟨_, rfl⟩
  have joined : Steady d e :=
    he ▸ ite_steady (endJoined_steady (fun d id => (finish_reports d id _ _).steady) d [p]) (Steady.refl d)
  unfold Dev.endMnt
  dsimp only
  rw [← he]
  split
  · exact joined.pwr
  · exact (foldl_keeps Dev.pwr (fun d c => (finish_reports d _ _ _).pwr) _ _).trans joined.pwr

theorem leaveService_pwr (d : Dev) (p : Nat) : (d.leaveService p).pwr = d.pwr := by
  unfold Dev.leaveService
  dsimp only
  split
  · exact endMnt_pwr _ _ _ _ _ _
  · unfold Dev.requeueMnt
    split <;> rfl

theorem judgeCal_pwr (d : Dev) (g : Nat) : (d.judgeCal g).pwr = d.pwr := by
  have downs : ((d.modGroup g (fun x => { x with startCmd := none })).groupDown g).pwr = d.pwr := (groupDown_steady _ g).pwr
  have live : ∀ st, (d.groupLive g st).pwr = d.pwr := fun st =>
    (startDone_steady ((d.setGroup g st).modGroup g _) g stOk).pwr.trans (setGroup_steady d g st).pwr
  unfold Dev.judgeCal
  dsimp only
  split
  · split
    · split
      · exact downs
      · exact (finish_reports _ _ _ _).pwr.trans downs
    · split
      · exact live _
      · rfl
  · rfl

theorem portChanged_pwr (d : Dev) (g : Nat) : (d.portChanged g).pwr = d.pwr := by
  unfold Dev.portChanged
  split
  · split
    · exact (groupDown_steady d g).pwr
    · exact (setGroup_steady d g _).pwr
  · exact judgeCal_pwr d g

/-! ### Alerts (22 R504) -/

theorem talertAssertEffect_rises {d : Dev} {n : Nat} {x : Int} (hd : d.dev ≠ .off) (ha : d.pwr.talert = false)
    (hx : d.talertTh ≤ x) :
    talertAssertEffect n x d =
      ({ d with pwr := { d.pwr with talert := true, temps := setAt d.pwr.temps n x } }).setFld Reg.pwrStat 2 2 1 := by
  have hnot : ¬ ((d.setTemp n x).pwr.talert = true ∨ x < (d.setTemp n x).talertTh) := by
    rintro (h | h)
    · rw [show (d.setTemp n x).pwr.talert = d.pwr.talert from rfl, ha] at h
      cases h
    · exact absurd hx (Int.not_le.2 h)
  unfold talertAssertEffect
  rw [if_neg hd]
  dsimp only
  rw [if_neg hnot]
  rfl

theorem talertAssert_next {s : State} (n : Fin 8) (x : Int) (hd : s.dev.dev ≠ .off) (ha : s.dev.pwr.talert = false)
    (hx : s.dev.talertTh ≤ x) :
    ∃ t, exec (.talertAssert n x) s = .next t ∧ t.pending = s.pending ∧ t.hostMem = s.hostMem ∧
      t.dev.flag Reg.pwrStat 2 = true ∧
      Reports { s.dev with pwr := { s.dev.pwr with talert := true, temps := setAt s.dev.pwr.temps n x } } t.dev := by
  obtain ⟨t, ht, hp, hm, hdev⟩ := run_gives (talertAssertEffect_rises (n := n.val) (d := s.dev.fresh) hd ha hx) rfl
  refine ⟨t, ht, hp, hm, ?_⟩
  rw [hdev, fresh_flag]
  exact ⟨flag_setFld_same (i := 2) (by decide) _ Reg.pwrStat,
    ((fresh_reports s.dev).set_pwr _).trans ((setFld_reports statusOff_pwrStat _ 2 2 1).trans (fresh_reports _))⟩

/-- Outside BOOT no boot is held for cooling, so the alert alone is judged. -/
theorem talertReleaseEffect_alert {d : Dev} (xs : List Int) (hd : d.dev ≠ .off) (hb : d.dev ≠ .boot) :
    talertReleaseEffect xs d = { d with pwr := { d.pwr with
      temps := xs
      talert := if xs.all (fun x => decide (x ≤ d.talertTh - 5)) then false else d.pwr.talert } } := by
  have hth : ∀ p : Power, ({ d with pwr := p } : Dev).talertTh = d.talertTh := fun _ => rfl
  have hcool : ∀ p : Power, ¬ (({ d with pwr := p } : Dev).dev = .boot ∧ p.perst = true) := fun _ h => hb h.1
  unfold talertReleaseEffect
  rw [if_neg hd]
  by_cases hall : xs.all (fun x => decide (x ≤ d.talertTh - 5)) = true
  · simp only [hth, if_pos hall]
    split
    · exact if_neg (hcool _)
    · rfl
  · simp only [hth, if_neg hall]
    split
    · exact if_neg (hcool _)
    · rfl

theorem talertRelease_reaches {s : State} (xs : List Int) (hd : s.dev.dev ≠ .off) (hb : s.dev.dev ≠ .boot) :
    Reaches (exec (.talertRelease xs) s) s { s.dev with pwr := { s.dev.pwr with
      temps := xs
      talert := if xs.all (fun x => decide (x ≤ s.dev.talertTh - 5)) then false else s.dev.pwr.talert } } := by
  refine run_reaches (f := talertReleaseEffect xs) ?_
  rw [talertReleaseEffect_alert (d := s.dev.fresh) xs hd hb]
  exact (fresh_reports s.dev).set_pwr _

/-! ### Quadrants (22 R504) -/

theorem bit_setBit (v i : Nat) : bit (setBit v i) i = true := by
  unfold setBit
  split
  · assumption
  · next h =>
    simp only [bit, decide_eq_true_eq] at h ⊢
    rw [Nat.add_div_right _ (Nat.pow_pos (by decide))]
    omega

theorem mem_quadPorts {q p : Nat} : p ∈ quadPorts q ↔ p / 32 = q := by
  simp only [quadPorts, List.mem_map, List.mem_range]
  constructor
  · rintro ⟨i, hi, rfl⟩
    omega
  · intro h
    exact ⟨p % 32, by omega, by omega⟩

/-- The ports of a quadrant leave service, and the states of its groups follow. -/
def Dev.quadOut (d : Dev) (q : Nat) : Dev :=
  let d := (quadPorts q).foldl (fun d p => d.modPort p (fun x => { x with enabled := false, calOk := false })) d
  let d := (quadPorts q).foldl (fun d p => d.leaveService p) d
  (List.range 8).foldl (fun d i => d.portChanged (8 * q + i)) d

theorem quadOut_dev_pwr (d : Dev) (q : Nat) : (d.quadOut q).dev = d.dev ∧ (d.quadOut q).pwr = d.pwr := by
  have mutes : ∀ {α : Type} (π : Dev → α), (∀ d p f, π (Dev.modPort d p f) = π d) → ∀ (ps : List Nat) (d : Dev),
      π (ps.foldl (fun d p => d.modPort p (fun x => { x with enabled := false, calOk := false })) d) = π d :=
    fun π h ps d => foldl_keeps π (fun d p => h d p _) ps d
  have leaves : ∀ (d : Dev) (p : Nat), (d.leaveService p).dev = d.dev := fun d p =>
    ((toIdle_calms d p).trans (toIdle_leaveService_calms d p)).dev
  constructor
  · refine (foldl_keeps Dev.dev (fun d i => (portChanged_calms d (8 * q + i)).dev) _ _).trans ?_
    exact (foldl_keeps Dev.dev leaves _ _).trans (mutes Dev.dev (fun _ _ _ => rfl) _ _)
  · refine (foldl_keeps Dev.pwr (fun d i => portChanged_pwr d (8 * q + i)) _ _).trans ?_
    exact (foldl_keeps Dev.pwr leaveService_pwr _ _).trans (mutes Dev.pwr (fun _ _ _ => rfl) _ _)

theorem quadOut_muted (d : Dev) {q p : Nat} (hp : p / 32 = q) : ((d.quadOut q).port p).enabled = false := by
  have muted : (((quadPorts q).foldl (fun d p => d.modPort p (fun x => { x with enabled := false, calOk := false })) d).port
      p).enabled = false := by
    refine foldl_settles (P := fun e : Dev => (e.port p).enabled = false) (mem_quadPorts.2 hp) (fun e => ?_) (fun e i h => ?_) d
    · rw [port_modPort_same]
    · by_cases hi : p = i
      · rw [← hi, port_modPort_same]
      · rwa [port_modPort_ne hi]
  have calms := ((Calms.refl ((quadPorts q).foldl (fun d p => d.modPort p (fun x => { x with enabled := false, calOk := false })) d)).foldl
    (l := quadPorts q) (fun d p => (toIdle_calms d p).trans (toIdle_leaveService_calms d p))).foldl
    (l := List.range 8) (fun d i => portChanged_calms d (8 * q + i))
  exact (calms.port p).muted muted

/-- The ports of a quadrant that shuts down note whether they were in service. -/
def Dev.quadNoted (d : Dev) (q : Nat) : Dev :=
  (quadPorts q).foldl (fun d p => d.modPort p (fun x => { x with quadWas := d.inService p })) (d.setFld Reg.pwrStat 3 3 1)

theorem quadNoted_dev_pwr (d : Dev) (q : Nat) : (d.quadNoted q).dev = d.dev ∧ (d.quadNoted q).pwr = d.pwr := by
  have notes : ∀ {α : Type} (π : Dev → α), (∀ d p f, π (Dev.modPort d p f) = π d) → π (d.quadNoted q) = π (d.setFld Reg.pwrStat 3 3 1) :=
    fun π h => foldl_keeps π (fun d p => h d p _) (quadPorts q) (d.setFld Reg.pwrStat 3 3 1)
  exact ⟨notes Dev.dev (fun _ _ _ => rfl), notes Dev.pwr (fun _ _ _ => rfl)⟩

/-- The quadrant's power is down, and its streams are absent (05 R130). -/
def Dev.quadDark (d : Dev) (q : Nat) : Dev :=
  let d := { d with pwr := { d.pwr with qdown := setBit d.pwr.qdown q } }
  if bit d.present q then ({ d with present := d.present - 2 ^ q, gaps := (q, d.tb.n, none) :: d.gaps }).raise .car 3 else d

theorem quadDark_dev_pwr (d : Dev) (q : Nat) :
    (d.quadDark q).dev = d.dev ∧ (d.quadDark q).pwr.qdown = setBit d.pwr.qdown q := by
  unfold Dev.quadDark
  dsimp only
  split
  · rw [(raise_reports _ .car 3).dev, (raise_reports _ .car 3).pwr]
    exact ⟨rfl, rfl⟩
  · exact ⟨rfl, rfl⟩

theorem quadrantShutdownEffect_hot {d : Dev} {q : Nat} {x : Int} (hd : d.dev ≠ .off) (hx : d.qshutTh ≤ x)
    (hq : bit d.pwr.qdown q = false) :
    quadrantShutdownEffect q x d = (((d.setTemp q x).quadNoted q).quadDark q).quadOut q := by
  have hnot : ¬ (x < (d.setTemp q x).qshutTh ∨ bit (d.setTemp q x).pwr.qdown q = true) := by
    rintro (h | h)
    · exact absurd hx (Int.not_le.2 h)
    · rw [show (d.setTemp q x).pwr.qdown = d.pwr.qdown from rfl, hq] at h
      cases h
  unfold quadrantShutdownEffect
  rw [if_neg hd]
  extract_lets heated shown noted power down dark
  rw [if_neg hnot]
  have hdark : dark = noted.quadDark q := rfl
  have hnoted : noted = (d.setTemp q x).quadNoted q := rfl
  rw [← hnoted, ← hdark]
  rfl

/-- A quadrant shutdown as a whole: what it leaves and what it sets. -/
theorem quadrantShutdown_effect (d : Dev) (q : Nat) (x : Int) :
    ∃ e, (((d.setTemp q x).quadNoted q).quadDark q).quadOut q = e ∧ e.dev = d.dev ∧ e.pwr.qdown = setBit d.pwr.qdown q ∧
      ∀ p, p / 32 = q → (e.port p).enabled = false := by
  obtain ⟨hnoted, hkept⟩ := quadNoted_dev_pwr (d.setTemp q x) q
  obtain ⟨hdark, hdown⟩ := quadDark_dev_pwr ((d.setTemp q x).quadNoted q) q
  obtain ⟨hout, hpwr⟩ := quadOut_dev_pwr (((d.setTemp q x).quadNoted q).quadDark q) q
  refine ⟨_, rfl, hout.trans (hdark.trans hnoted), ?_, fun p hp => quadOut_muted _ hp⟩
  rw [hpwr, hdown, hkept]
  rfl

theorem quadrantShutdown_next {s : State} (q : Fin 4) (x : Int) (hd : s.dev.dev ≠ .off) (hx : s.dev.qshutTh ≤ x)
    (hq : bit s.dev.pwr.qdown q = false) :
    ∃ t, exec (.quadrantShutdown q x) s = .next t ∧ t.pending = s.pending ∧ t.dev.dev = s.dev.dev ∧
      bit t.dev.pwr.qdown q = true ∧ ∀ p, p / 32 = q.val → (t.dev.port p).enabled = false := by
  obtain ⟨t, ht, hp, hdev⟩ := run_fresh (quadrantShutdownEffect q x) s
  obtain ⟨e, he, hkept, hdown, hmuted⟩ := quadrantShutdown_effect s.dev.fresh q x
  rw [quadrantShutdownEffect_hot (d := s.dev.fresh) hd hx hq, he] at hdev
  refine ⟨t, ht, hp, ?_⟩
  rw [hdev]
  refine ⟨hkept, ?_, hmuted⟩
  rw [fresh_pwr, hdown]
  exact bit_setBit _ _

/-- The ports of a quadrant that were in service ask for their calibration. -/
def Dev.quadBack (d : Dev) (q : Nat) : Dev :=
  (quadPorts q).foldl (fun d p =>
    if (d.port p).quadWas then (d.modPort p (fun x => { x with quadWas := false })).recover p else d) d

theorem quadBack_eq (d : Dev) (q : Nat) :
    ∃ ps m, d.quadBack q = { d with ports := ps, mnt := m } ∧ ∀ p, p / 32 ≠ q → (d.quadBack q).port p = d.port p := by
  have hback : ∃ ps m, d.quadBack q = { d with ports := ps, mnt := m } := by
    refine List.foldlRecOn (quadPorts q) _ (motive := fun e : Dev => ∃ ps m, e = { d with ports := ps, mnt := m }) ⟨d.ports, d.mnt, rfl⟩ ?_
    rintro e ⟨ps, m, rfl⟩ p _
    split
    · obtain ⟨m', hm⟩ := recover_eq (({ d with ports := ps, mnt := m } : Dev).modPort p (fun x => { x with quadWas := false })) p
      rw [hm]
      exact ⟨_, _, rfl⟩
    · exact ⟨_, _, rfl⟩
  obtain ⟨ps, m, h⟩ := hback
  refine ⟨ps, m, h, fun p hp => ?_⟩
  refine List.foldlRecOn (quadPorts q) _ (motive := fun e : Dev => e.port p = d.port p) rfl ?_
  intro e he i hi
  have hne : p ≠ i := fun hpi => hp (hpi ▸ mem_quadPorts.1 hi)
  split
  · obtain ⟨m', hm⟩ := recover_eq (e.modPort i (fun x => { x with quadWas := false })) i
    rw [hm]
    exact (port_modPort_ne hne e (fun x => { x with quadWas := false })).trans he
  · exact he

/-- A quadrant with supply again: its streams are back where the converters' clocks run (05 R130). -/
def Dev.quadUp (d : Dev) (q : Nat) : Dev :=
  let back := d.tb.running && d.dev.clocked
  { d with pwr := { d.pwr with qdown := d.pwr.qdown - 2 ^ q }, present := if back then setBit d.present q else d.present
           gaps := if back then d.endGap q else d.gaps }

theorem quadrantPowerUpEffect_cool {d : Dev} {q : Nat} {x : Int} (hd : d.dev ≠ .off) (hx : x ≤ d.qshutTh - 15)
    (hq : bit d.pwr.qdown q = true) : quadrantPowerUpEffect q x d = ((d.setTemp q x).quadUp q).quadBack q := by
  have hnot : ¬ ((d.setTemp q x).qshutTh - 15 < x ∨ (!bit (d.setTemp q x).pwr.qdown q) = true) := by
    rintro (h | h)
    · exact absurd hx (Int.not_le.2 h)
    · rw [show (d.setTemp q x).pwr.qdown = d.pwr.qdown from rfl, hq] at h
      cases h
  unfold quadrantPowerUpEffect
  rw [if_neg hd]
  dsimp only
  rw [if_neg hnot]
  rfl

/-- A quadrant that powers up changes the supply's record, the streams' presence, its ports and their maintenance. -/
theorem quadUp_quadBack (d : Dev) (q : Nat) (x : Int) :
    ∃ e w a gs ps m, ((d.setTemp q x).quadUp q).quadBack q = e ∧
      e = { d with pwr := w, present := a, gaps := gs, ports := ps, mnt := m } ∧ e.pwr.qdown = d.pwr.qdown - 2 ^ q ∧
      ∀ p, p / 32 ≠ q → e.port p = d.port p := by
  obtain ⟨ps, m, hback, hports⟩ := quadBack_eq ((d.setTemp q x).quadUp q) q
  exact ⟨_, _, _, _, ps, m, rfl, hback, by rw [hback]; rfl, hports⟩

theorem reports_of_supply {d e : Dev} {w a gs ps m}
    (h : e = ({ d.fresh with pwr := w, present := a, gaps := gs, ports := ps, mnt := m } : Dev).fresh) :
    Reports { d with pwr := e.pwr, present := e.present, gaps := e.gaps, ports := e.ports, mnt := e.mnt } e := by
  subst h
  exact (((((fresh_reports d).set_pwr w).set_present a).set_gaps gs).set_ports ps |>.set_mnt m).trans (fresh_reports _)

theorem quadrantPowerUp_next {s : State} (q : Fin 4) (x : Int) (hd : s.dev.dev ≠ .off) (hx : x ≤ s.dev.qshutTh - 15)
    (hq : bit s.dev.pwr.qdown q = true) :
    ∃ t, exec (.quadrantPowerUp q x) s = .next t ∧ t.pending = s.pending ∧ t.hostMem = s.hostMem ∧
      t.dev.pwr.qdown = s.dev.pwr.qdown - 2 ^ q.val ∧
      Reports { s.dev with pwr := t.dev.pwr, present := t.dev.present, gaps := t.dev.gaps, ports := t.dev.ports,
                           mnt := t.dev.mnt } t.dev ∧
      ∀ p, p / 32 ≠ q.val → t.dev.port p = s.dev.port p := by
  have heff := quadrantPowerUpEffect_cool (d := s.dev.fresh) (q := q.val) hd hx hq
  obtain ⟨e, w, a, gs, ps, m, hback, he, hdown, hports⟩ := quadUp_quadBack s.dev.fresh q x
  obtain ⟨t, ht, hp, hm, hdev⟩ := run_gives (heff.trans hback) (by rw [he]; rfl)
  refine ⟨t, ht, hp, hm, by rw [hdev]; exact hdown, ?_, fun p hne => by rw [hdev]; exact hports p hne⟩
  exact reports_of_supply (hdev.trans (congrArg Dev.fresh he))

/-- Settles O19: the four events, each where its threshold is reached. -/
theorem temperatureRules : Obligations.TemperatureRules := fun _ hd =>
  ⟨fun n x => talertAssert_next n x hd, fun xs => talertRelease_reaches xs hd, fun q x => quadrantShutdown_next q x hd,
    fun q x => quadrantPowerUp_next q x hd⟩

end Sys2Proof.Machine
end

section
/-! SUPPORT. Critical faults (21 R481-R483, 01 R32): the class on record, and the entry to SAFE with the commands that SAFE accepts. -/

namespace Sys2Proof.Machine

/-! ### What a report touches (17 R409, R417, R418, 20 R461) -/

/-- `b` is `a` but for what reports are made of: register bits, counters, the LOSSY queues with their rings' LOSS, watermarks. -/
structure Told (a b : Dev) : Prop where
  only : b = { a with regs := b.regs, cnts := b.cnts, ques := b.ques, eseq := b.eseq, rings := b.rings }
  loss : ∀ k, ∃ n, b.ring k = { a.ring k with loss := n }
  settings : ∀ i, (b.counter i).sel = (a.counter i).sel ∧ (b.counter i).pend = (a.counter i).pend
  tagger : b.fld Reg.cntStat 12 8 = a.fld Reg.cntStat 12 8

namespace Told

theorem refl (a : Dev) : Told a a := ⟨rfl, fun k => ⟨(a.ring k).loss, rfl⟩, fun _ => ⟨rfl, rfl⟩, rfl⟩

theorem of_ques (d : Dev) (q : Ques) (e : BitVec 32) : Told d { d with ques := q, eseq := e } :=
  ⟨rfl, fun k => ⟨(d.ring k).loss, rfl⟩, fun _ => ⟨rfl, rfl⟩, rfl⟩

theorem of_setFld (d : Dev) {off hi lo : Nat} (v : Nat) (h : ∀ v, (d.setFld off hi lo v).fld Reg.cntStat 12 8 = d.fld Reg.cntStat 12 8) :
    Told d (d.setFld off hi lo v) := ⟨rfl, fun k => ⟨(d.ring k).loss, rfl⟩, fun _ => ⟨rfl, rfl⟩, h v⟩

theorem trans {a b c : Dev} (h : Told a b) (k : Told b c) : Told a c := by
  refine ⟨k.only.trans ?_, fun i => ?_, fun i => ⟨(k.settings i).1.trans (h.settings i).1, (k.settings i).2.trans (h.settings i).2⟩,
    k.tagger.trans h.tagger⟩
  · rw [h.only]
  · obtain ⟨n, hn⟩ := h.loss i
    obtain ⟨m, hm⟩ := k.loss i
    exact ⟨m, by rw [hm, hn]⟩

theorem ite {c : Prop} [Decidable c] {d a b : Dev} (ha : Told d a) (hb : Told d b) : Told d (if c then a else b) := by
  split <;> assumption

variable {a b : Dev} (h : Told a b)
include h

theorem dev : b.dev = a.dev := (congrArg Dev.dev h.only :)
theorem ports : b.ports = a.ports := (congrArg Dev.ports h.only :)
theorem fns : b.fns = a.fns := (congrArg Dev.fns h.only :)
theorem vfEn : b.vfEn = a.vfEn := (congrArg Dev.vfEn h.only :)
theorem cmds : b.cmds = a.cmds := (congrArg Dev.cmds h.only :)
theorem mnt : b.mnt = a.mnt := (congrArg Dev.mnt h.only :)
theorem sec : b.sec = a.sec := (congrArg Dev.sec h.only :)
theorem posted : b.posted = a.posted := (congrArg Dev.posted h.only :)
theorem st (k : Nat) : (b.ring k).st = (a.ring k).st := by
  obtain ⟨n, hn⟩ := h.loss k
  rw [hn]

end Told

theorem count_told (d : Dev) (bank src b : Nat) (slot : Option Nat) (n : Nat) : Told d (d.count bank src b slot n) := by
  have hset : ∀ i, ((d.count bank src b slot n).counter i).sel = (d.counter i).sel ∧
      ((d.count bank src b slot n).counter i).pend = (d.counter i).pend := by
    intro i
    rw [counter_count]
    split <;> exact ⟨rfl, rfl⟩
  have hfld : ∀ e : Dev, (e.setFld Reg.cntStat 0 0 1).fld Reg.cntStat 12 8 = e.fld Reg.cntStat 12 8 := fun e =>
    fld_setFld_apart (by decide) (by decide) (by decide) (by decide) e Reg.cntStat 1
  refine ⟨?_, fun k => ⟨(d.ring k).loss, ?_⟩, hset, ?_⟩
  · unfold Dev.count
    dsimp only
    split <;> rfl
  · unfold Dev.count
    dsimp only
    split <;> rfl
  · unfold Dev.count
    dsimp only
    split
    · exact hfld _
    · rfl

theorem raise_told (d : Dev) (r : Src) (b : Nat) : Told d (d.raise r b) :=
  (Told.of_setFld d 1 fun v => fld_setFld_other (src_ne_cnt r).symm d b b v 12 8).trans (count_told _ _ _ _ _ _)

theorem pushRaw_told (d : Dev) (q : Nat) (item : List Byte) : Told d (d.pushRaw q item) := by
  unfold Dev.pushRaw
  extract_lets lq pushed lost counted
  have hpushed : Told d pushed := .of_ques d _ _
  have hlost : Told pushed lost := by
    refine ⟨rfl, fun k => ?_, fun _ => ⟨rfl, rfl⟩, rfl⟩
    by_cases hk : k = lossyRing q
    · exact ⟨_, by rw [hk, ring_modRing_same]⟩
    · exact ⟨(pushed.ring k).loss, by rw [ring_modRing_ne hk]⟩
  have hcounted := (hpushed.trans hlost).trans (count_told lost 39 7 3 none 1)
  exact Told.ite (Told.ite (hcounted.trans (raise_told _ _ _)) hcounted) (.of_ques d _ _)

theorem eventRaw_told (d : Dev) (mpt code st obj : Nat) (detail : List Byte) : Told d (d.eventRaw mpt code st obj detail) :=
  Told.ite ((pushRaw_told d 0 _).trans (.of_ques _ _ _)) (Told.refl d)

theorem markWith_told {post : Dev → Nat → List Byte → Dev} (hp : ∀ d q b, Told d (post d q b)) (d : Dev) (q : Nat) :
    Told d (Dev.markWith post d q) := by
  have hne : Reg.cntStat ≠ Reg.queWmStat (q % 128) := by
    unfold Reg.cntStat Reg.queWmStat
    omega
  have hsticky : Told d (d.sticky q) :=
    ⟨rfl, fun k => ⟨(d.ring k).loss, rfl⟩, fun _ => ⟨rfl, rfl⟩, congrArg (fun r => bits r 12 8) (reg_setReg_ne hne d _)⟩
  have hoff : Told d ((d.sticky q).modWm q (fun w => { w with armed := false })) := hsticky.trans (.of_ques _ _ _)
  exact Told.ite hsticky (Told.ite hoff (Told.ite (hoff.trans (hp _ _ _)) hsticky))

theorem notice_told (d : Dev) (q : Nat) (detail : List Byte) : Told d (d.notice q detail) :=
  (eventRaw_told d _ _ _ _ _).trans (markWith_told (fun _ _ _ => eventRaw_told _ _ _ _ _ _) _ 0)

theorem mark_told (d : Dev) (q : Nat) : Told d (d.mark q) := markWith_told notice_told d q

theorem push_told (d : Dev) (q : Nat) (item : List Byte) : Told d (d.push q item) := (pushRaw_told d q item).trans (mark_told _ q)

theorem eventAt_told (d : Dev) (mpt code st obj : Nat) (detail : List Byte) : Told d (d.eventAt mpt code st obj detail) :=
  Told.ite ((eventRaw_told d _ _ _ _ _).trans (mark_told _ 0)) (Told.refl d)

theorem event_told (d : Dev) (code st obj : Nat) (detail : List Byte) : Told d (d.event code st obj detail) :=
  eventAt_told d _ _ _ _ _

theorem faultEvent_posted (d : Dev) (cls loc grp b5 : Nat) : (d.faultEvent cls loc grp b5).posted = d.posted :=
  (event_told (d.faultClass cls) _ _ _ _).posted.trans (raise_told d .mntF cls).posted

/-- A fault's class is the last one on record (21 R482). -/
theorem faultEvent_fclass (d : Dev) (cls loc grp b5 : Nat) : (d.faultEvent cls loc grp b5).mnt.fclass = cls :=
  congrArg Mnt.fclass (event_told (d.faultClass cls) _ _ _ _).mnt

/-! ### Entry to SAFE (01 R32) -/

theorem setDev_dev (d : Dev) (st : DevState) (cause : Nat) : (d.setDev st cause).dev = st := (setDev_quiet d st cause).1.dev

/-- Commands that a fold completes are no longer outstanding. -/
theorem mem_foldl_finishSt {st : Nat} {x : Cmd} (l : List Cmd) :
    ∀ d : Dev, x ∈ (l.foldl (fun d c => d.finishSt c.id st) d).cmds → x ∈ d.cmds ∧ x ∉ l := by
  induction l with
  | nil => exact fun d h => ⟨h, List.not_mem_nil⟩
  | cons c l ih =>
    intro d h
    obtain ⟨hx, hl⟩ := ih (d.finishSt c.id st) h
    rw [Dev.finishSt, finish_cmds, List.mem_filter, decide_eq_true_eq] at hx
    exact ⟨hx.1, fun hm => (List.mem_cons.1 hm).elim (fun e => hx.2 (congrArg Cmd.id e)) hl⟩

theorem foldl_finishSt_reports (st : Nat) (l : List Cmd) (d : Dev) : Reports d (l.foldl (fun d c => d.finishSt c.id st) d) :=
  foldl_reports (fun d (c : Cmd) => d.finishSt c.id st) (fun d c => finish_reports d c.id st []) l d

/-- The commands that a device does not accept in its state complete with ST_FLUSHED. -/
def Dev.flushCmds (d : Dev) : Dev :=
  (d.cmds.filter (fun c => !d.accepts c.desc.opc.toNat)).foldl (fun d c => d.finishSt c.id stFlushed) d

theorem flushCmds_accepts (d : Dev) :
    d.flushCmds.dev = d.dev ∧ ∀ x ∈ d.flushCmds.cmds, d.flushCmds.accepts x.desc.opc.toNat = true := by
  have hr : Reports d d.flushCmds := foldl_finishSt_reports stFlushed _ d
  refine ⟨hr.dev, fun x hx => ?_⟩
  obtain ⟨hin, hout⟩ := mem_foldl_finishSt _ d hx
  have hacc : d.flushCmds.accepts x.desc.opc.toNat = d.accepts x.desc.opc.toNat := by
    unfold Dev.accepts
    rw [hr.dev, hr.sec]
  rw [hacc]
  by_contra hno
  exact hout (List.mem_filter.2 ⟨hin, by simpa using hno⟩)

theorem enterSafe_accepts (d : Dev) (cause : Nat) :
    (d.enterSafe cause).dev = .safe ∧ ∀ x ∈ (d.enterSafe cause).cmds, (d.enterSafe cause).accepts x.desc.opc.toNat = true := by
  unfold Dev.enterSafe
  extract_lets ended flushed buffered dropped safe gs masked gone
  have hsafe : safe.dev = .safe := setDev_dev dropped .safe cause
  clear_value safe
  obtain ⟨hdev, hacc⟩ := flushCmds_accepts masked
  exact ⟨hdev.trans hsafe, hacc⟩

/-! ### Critical faults (21 R483) -/

/-- A critical fault of a live device, after a change of its supply's record alone: in SAFE it is recorded, else it leads to SAFE. -/
theorem critical_fault (d : Dev) (w : Power) (cls loc grp b5 cause : Nat) (hl : d.dev.live = true) (hc : cls < 32)
    {e : Dev} (he : e = (({ d with pwr := w } : Dev).faultEvent cls loc grp b5).critical cause) :
    e.dev = .safe ∧ (d.dev ≠ .safe → ∀ x ∈ e.cmds, e.accepts x.desc.opc.toNat = true) ∧
      (d.dev = .safe → e.flag Reg.mntFstat cls = true ∧ e.mnt.fclass = cls ∧ Reports { d with pwr := w } e) := by
  have hr := faultEvent_reports ({ d with pwr := w } : Dev) cls loc grp b5
  have hdev : (({ d with pwr := w } : Dev).faultEvent cls loc grp b5).dev = d.dev := hr.dev
  subst he
  by_cases hs : d.dev = .safe
  · have hcrit : (({ d with pwr := w } : Dev).faultEvent cls loc grp b5).critical cause =
        ({ d with pwr := w } : Dev).faultEvent cls loc grp b5 := by
      unfold Dev.critical
      rw [hdev, hs]
    rw [hcrit]
    exact ⟨hdev.trans hs, fun h => absurd hs h, fun _ => ⟨faultEvent_flag hc _ _ _ _, faultEvent_fclass _ _ _ _ _, hr⟩⟩
  · have hcrit : (({ d with pwr := w } : Dev).faultEvent cls loc grp b5).critical cause =
        (({ d with pwr := w } : Dev).faultEvent cls loc grp b5).enterSafe cause := by
      unfold Dev.critical
      rw [hdev]
      cases hd : d.dev with
      | config => rfl
      | run => rfl
      | safe => exact absurd hd hs
      | off => rw [hd] at hl; cases hl
      | boot => rw [hd] at hl; cases hl
    rw [hcrit]
    obtain ⟨hsafe, hacc⟩ := enterSafe_accepts (({ d with pwr := w } : Dev).faultEvent cls loc grp b5) cause
    exact ⟨hsafe, fun _ => hacc, fun h => absurd h hs⟩

theorem criticalFault_next {s : State} {f : Dev → Dev} {w : Power} {cls loc grp b5 cause : Nat} (hl : s.dev.dev.live = true)
    (hc : cls < 32)
    (hf : f s.dev.fresh = (({ s.dev.fresh with pwr := w } : Dev).faultEvent cls loc grp b5).critical cause) :
    ∃ t, run f s = .next t ∧ t.pending = s.pending ∧ t.dev.dev = .safe ∧
      (s.dev.dev ≠ .safe → ∀ x ∈ t.dev.cmds, t.dev.accepts x.desc.opc.toNat = true) ∧
      (s.dev.dev = .safe → t.dev.flag Reg.mntFstat cls = true ∧ t.dev.mnt.fclass = cls ∧
        Reports { s.dev with pwr := t.dev.pwr } t.dev) := by
  obtain ⟨t, ht, hp, hdev⟩ := run_fresh f s
  obtain ⟨hsafe, hacc, hrec⟩ := critical_fault s.dev.fresh w cls loc grp b5 cause hl hc hf
  refine ⟨t, ht, hp, ?_⟩
  rw [hdev]
  refine ⟨hsafe, hacc, fun hs => ?_⟩
  obtain ⟨hflag, hcls, hr⟩ := hrec hs
  refine ⟨hflag, hcls, ?_⟩
  rw [fresh_pwr, hr.pwr]
  exact ((fresh_reports s.dev).set_pwr w).trans (hr.trans (fresh_reports _))

/-- Settles O15: each of the four faults is a critical fault of its class. -/
theorem criticalFaultsLeadToSafe : Obligations.CriticalFaultsLeadToSafe := by
  intro s c cls hl h
  have hlive : s.dev.fresh.dev.live = true := hl
  rcases h with ⟨⟨core, ms, rfl, hms⟩, rfl⟩ | ⟨⟨core, rfl⟩, rfl⟩ | ⟨⟨a, g, rfl⟩, rfl⟩ | ⟨⟨n, x, rfl, hx, hth⟩, rfl⟩
  · exact criticalFault_next hl (by decide) (if_pos ⟨hlive, hms⟩)
  · exact criticalFault_next hl (by decide) (if_pos hlive)
  · exact criticalFault_next hl (by decide) (if_pos hlive)
  · refine criticalFault_next (f := thermalShutdownEffect n x) (loc := 0) (grp := 0xFF) (b5 := unsigned 8 x) (cause := 2)
      (w := { (s.dev.fresh.setTemp n x).pwr with thermal := true }) hl (by decide) ?_
    have hoff : s.dev.fresh.dev ≠ .off := fun h => by rw [h] at hlive; cases hlive
    have hreach : ¬ ((!(s.dev.fresh.setTemp n x).dev.live) = true ∨ x < shutdownLimit n ∨
        (shutdownLimit n ≤ s.dev.fresh.pwr.temps.getD n 0 ∧ (s.dev.fresh.setTemp n x).pwr.thermal = true)) := by
      rintro (h | h | ⟨-, h⟩)
      · rw [show (s.dev.fresh.setTemp n x).dev = s.dev.fresh.dev from rfl, hlive] at h
        cases h
      · exact absurd hx (Int.not_le.2 h)
      · exact absurd (hth.symm.trans h) (by decide)
    unfold thermalShutdownEffect
    rw [if_neg hoff]
    dsimp only
    rw [if_neg hreach]
    rfl

end Sys2Proof.Machine
end

section
/-! SUPPORT. Derating (22 R492, R495, 03 R75, R76): the windows, the `DERATE` of the ports, and the mute of an over-voltage. -/

namespace Sys2Proof.Machine

/-! ### Ports changed in turn -/

/-- A fold that changes each port of a list once changes each of them by its own function. -/
theorem port_foldl_modPort (f : Nat → Port → Port) {ps : List Nat} (hps : ps.Nodup) (d : Dev) (p : Nat) :
    (ps.foldl (fun d q => d.modPort q (f q)) d).port p = if p ∈ ps then f p (d.port p) else d.port p := by
  induction ps generalizing d with
  | nil => rfl
  | cons q ps ih =>
    obtain ⟨hq, hps⟩ := List.nodup_cons.1 hps
    rw [List.foldl_cons, ih hps]
    by_cases hp : p = q
    · rw [hp, if_neg hq, if_pos List.mem_cons_self, port_modPort_same]
    · rw [port_modPort_ne hp]
      simp only [List.mem_cons, hp, false_or]

/-- The functions may read of the device what a change of ports leaves. -/
theorem port_foldl_modPort_of {F : Dev → Nat → Port → Port} (hF : ∀ d i f, F (d.modPort i f) = F d) {ps : List Nat}
    (hps : ps.Nodup) (d : Dev) (p : Nat) :
    (ps.foldl (fun d q => d.modPort q (F d q)) d).port p = if p ∈ ps then F d p (d.port p) else d.port p := by
  have hfix : ∀ (ps : List Nat) (e : Dev), F e = F d →
      ps.foldl (fun d q => d.modPort q (F d q)) e = ps.foldl (fun d' q => d'.modPort q (F d q)) e := by
    intro ps
    induction ps with
    | nil => exact fun _ _ => rfl
    | cons q ps ih =>
      intro e he
      rw [List.foldl_cons, List.foldl_cons, he]
      exact ih _ ((hF e q _).trans he)
  rw [hfix ps d rfl]
  exact port_foldl_modPort (F d) hps d p

/-- Ports given values, one after the other. -/
def Dev.derates (d : Dev) (vs : List (Nat × Nat)) : Dev :=
  vs.foldl (fun d v => d.modPort v.1 (fun x => { x with derate := v.2 })) d

theorem derates_onlyPorts (d : Dev) (vs : List (Nat × Nat)) : OnlyPorts d (d.derates vs) :=
  OnlyPorts.foldl (f := fun d (v : Nat × Nat) => d.modPort v.1 (fun x => { x with derate := v.2 })) (fun _ _ => rfl) vs d

/-- A list of ports, each with a value of its own. -/
theorem port_derates_map (g : Nat → Nat) {ps : List Nat} (hps : ps.Nodup) (d : Dev) (p : Nat) :
    (d.derates (ps.map (fun q => (q, g q)))).port p =
      if p ∈ ps then { d.port p with derate := g p } else d.port p := by
  rw [Dev.derates, List.foldl_map]
  exact port_foldl_modPort (fun q x => { x with derate := g q }) hps d p

/-- New values of `DERATE` change the ports; the sticky bits and the events are reports (03 R76). -/
theorem setDerate_reports (d : Dev) (vs : List (Nat × Nat)) : Reports (d.derates vs) (d.setDerate vs) := by
  have raised : ∀ (vs : List (Nat × Nat)) {a b : Dev}, Reports a b → Reports (a.derates vs)
      (vs.foldl (fun d v => (d.modPort v.1 (fun x => { x with derate := v.2 })).raise (.port (portGroup v.1) (v.1 % 4)) 27) b) := by
    intro vs
    induction vs with
    | nil => exact id
    | cons v vs ih => exact fun h => ih ((h.modPort _ _).trans (raise_reports _ _ _))
  refine (raised vs (Reports.refl d)).trans (foldl_reports _ (fun d g => ?_) (List.range 32) _)
  exact ite_reports (event_reports _ _ _ _ _) (Reports.refl _)

/-- What reports follow a change of ports leaves, said from before that change. -/
theorem OnlyPorts.reports {a b c : Dev} (h : OnlyPorts a b) (k : Reports b c) : Reports { a with ports := c.ports } c := by
  unfold OnlyPorts at h
  rw [k.ports, ← h]
  exact k

/-! ### A measurement of VIN (03 R75, R76) -/

/-- A measurement enters every port's window. -/
def Dev.derateWindows (d : Dev) (mv : Nat) : Dev :=
  (List.range 128).foldl (fun d p =>
    d.modPort p (fun x => { x with dqWin := (d.derateFor p (mv - 100) :: x.dqWin).take 11 })) d

theorem derateFor_modPort (d : Dev) (i : Nat) (f : Port → Port) (p mv : Nat) :
    (d.modPort i f).derateFor p mv = d.derateFor p mv :=
  congrArg (fun c => derateFrom c 63 0) (show (d.modPort i f).ceiling p mv = d.ceiling p mv from rfl)

theorem derateWindows_onlyPorts (d : Dev) (mv : Nat) : OnlyPorts d (d.derateWindows mv) :=
  foldl_modPort_onlyPorts (fun d p x => { x with dqWin := (d.derateFor p (mv - 100) :: x.dqWin).take 11 }) _ d

theorem port_derateWindows (d : Dev) (mv : Nat) {p : Nat} (hp : p < 128) :
    (d.derateWindows mv).port p = { d.port p with dqWin := (d.derateFor p (mv - 100) :: (d.port p).dqWin).take 11 } := by
  have hfix := port_foldl_modPort_of (F := fun d p x => { x with dqWin := (d.derateFor p (mv - 100) :: x.dqWin).take 11 })
    (fun d i f => by simp only [derateFor_modPort]) (List.nodup_range (n := 128)) d p
  rwa [if_pos (List.mem_range.2 hp)] at hfix

/-- The ports whose `DERATE` a measurement raises. -/
def Dev.raisedAt (d : Dev) (mv : Nat) : List Nat := (List.range 128).filter (fun p => decide ((d.port p).derate < d.derateFor p mv))

theorem derateMeasure_eq (d : Dev) (mv : Nat) :
    d.derateMeasure mv = (d.derateWindows mv).setDerate ((d.raisedAt mv).map (fun p => (p, d.derateFor p mv))) := rfl

/-- What one measurement does to the ports, and that it does nothing else. -/
theorem derateMeasure_spec (d : Dev) (mv : Nat) :
    Reports { d with ports := (d.derateMeasure mv).ports } (d.derateMeasure mv) ∧
      (∀ p, ((d.derateMeasure mv).port p).enabled = (d.port p).enabled) ∧
      ∀ p, p < 128 → ((d.derateMeasure mv).port p).derate = max (d.port p).derate (d.derateFor p mv) ∧
        ((d.derateMeasure mv).port p).dqWin = (d.derateFor p (mv - 100) :: (d.port p).dqWin).take 11 := by
  have hr := setDerate_reports (d.derateWindows mv) ((d.raisedAt mv).map (fun p => (p, d.derateFor p mv)))
  have hnodup : (d.raisedAt mv).Nodup := List.nodup_range.filter _
  have honly := (derateWindows_onlyPorts d mv).trans (derates_onlyPorts _ ((d.raisedAt mv).map (fun p => (p, d.derateFor p mv))))
  rw [← derateMeasure_eq] at hr
  refine ⟨?_, fun p => ?_, fun p hp => ?_⟩
  · exact honly.reports hr
  · have henabled : ((d.derateWindows mv).port p).enabled = (d.port p).enabled :=
      foldl_keeps (fun e => (e.port p).enabled) (fun e q => port_modPort_keeps Port.enabled (fun _ => by rfl) e q p) _ d
    rw [hr.port, ← henabled]
    exact foldl_keeps (fun e => (e.port p).enabled)
      (fun e (v : Nat × Nat) => port_modPort_keeps Port.enabled (fun _ => by rfl) e v.1 p) _ (d.derateWindows mv)
  · rw [hr.port, port_derates_map _ hnodup, port_derateWindows d mv hp]
    have hmem : p ∈ d.raisedAt mv ↔ (d.port p).derate < d.derateFor p mv := by
      simp only [Dev.raisedAt, List.mem_filter, List.mem_range, hp, true_and, decide_eq_true_eq]
    split
    · next h => exact ⟨(max_eq_right (hmem.1 h).le).symm, rfl⟩
    · next h => exact ⟨(max_eq_left (not_lt.1 (mt hmem.2 h))).symm, rfl⟩

/-! ### The supply's record (22 R492, R495) -/

/-- Every driver is muted by an over-voltage. -/
def Dev.ovMuted (d : Dev) : Dev := d.ports.foldl (fun d e => d.modPort e.1 (fun x => { x with enabled := false })) d

theorem ovMuted_onlyPorts (d : Dev) : OnlyPorts d d.ovMuted :=
  OnlyPorts.foldl (f := fun d (e : Nat × Port) => d.modPort e.1 (fun x => { x with enabled := false })) (fun _ _ => rfl) d.ports d

theorem ovMuted_muted (d : Dev) (p : Nat) : (d.ovMuted.port p).enabled = false := by
  have keeps : ∀ (e : Dev) (x : Nat × Port), (e.port p).enabled = false →
      ((e.modPort x.1 (fun x => { x with enabled := false })).port p).enabled = false := by
    intro e x he
    by_cases hp : p = x.1
    · rw [hp, port_modPort_same]
    · rwa [port_modPort_ne hp]
  rcases SMap.mem_or_get_eq (fun _ => Port.init) p d.ports with h | h
  · refine foldl_settles (P := fun e : Dev => (e.port p).enabled = false) h (fun e => ?_) keeps d
    rw [port_modPort_same]
  · refine List.foldlRecOn d.ports _ (motive := fun e : Dev => (e.port p).enabled = false) ?_ fun e he x _ => keeps e x he
    rw [Dev.port, h]
    rfl

theorem ovMuted_derating (d : Dev) (p : Nat) :
    (d.ovMuted.port p).derate = (d.port p).derate ∧ (d.ovMuted.port p).dqWin = (d.port p).dqWin :=
  ⟨foldl_keeps (fun e => (e.port p).derate) (fun e (x : Nat × Port) => port_modPort_keeps Port.derate (fun _ => by rfl) e x.1 p) d.ports d,
    foldl_keeps (fun e => (e.port p).dqWin) (fun e (x : Nat × Port) => port_modPort_keeps Port.dqWin (fun _ => by rfl) e x.1 p) d.ports d⟩

/-- What a measurement sets of the supply: VIN, its bits, and the mute from 18.5 V on until VIN is below 18.2 V. -/
def Dev.vinNoted (d : Dev) (mv : Nat) : Dev :=
  let d := { d with pwr := { d.pwr with vin := mv } }
  let d := if mv < 4500 then d.setFld Reg.pwrStat 5 5 1 else d
  if 18500 ≤ mv then
    let d := d.setFld Reg.pwrStat 6 6 1
    let d := { d with pwr := { d.pwr with ovMute := true } }
    d.ovMuted
  else if mv < 18200 then { d with pwr := { d.pwr with ovMute := false } }
  else d

theorem vinMeasurementEffect_on {d : Dev} (hd : d.dev ≠ .off) (mv : Nat) :
    vinMeasurementEffect mv d = (d.vinNoted mv).derateMeasure mv := if_neg hd

/-- `b` is `a` with VIN at `mv` and the mute of an over-voltage at `v`, but for the ports, whose derating stands. -/
structure VinNoted (mv : Nat) (v : Bool) (a b : Dev) : Prop where
  reports : Reports { a with pwr := { a.pwr with vin := mv, ovMute := v }, ports := b.ports } b
  derate : ∀ p, (b.port p).derate = (a.port p).derate
  dqWin : ∀ p, (b.port p).dqWin = (a.port p).dqWin

theorem vinNoted_spec (d : Dev) (mv : Nat) :
    VinNoted mv (if 18500 ≤ mv then true else if mv < 18200 then false else d.pwr.ovMute) d (d.vinNoted mv) ∧
      (18500 ≤ mv → ∀ p, ((d.vinNoted mv).port p).enabled = false) := by
  have hlow : ∀ e : Dev, Reports e (if mv < 4500 then e.setFld Reg.pwrStat 5 5 1 else e) := fun e =>
    ite_reports (setFld_reports statusOff_pwrStat e 5 5 1) (Reports.refl e)
  obtain ⟨e, he⟩ : ∃ e : Dev, e = if mv < 4500 then ({ d with pwr := { d.pwr with vin := mv } } : Dev).setFld Reg.pwrStat 5 5 1
    else { d with pwr := { d.pwr with vin := mv } } := ⟨_, rfl⟩
  have hr : Reports { d with pwr := { d.pwr with vin := mv } } e := he ▸ hlow _
  have hpwr : e.pwr = { d.pwr with vin := mv } := hr.pwr
  have hport : ∀ p, e.port p = d.port p := hr.port
  have heq : d.vinNoted mv = if 18500 ≤ mv then
      ({ e.setFld Reg.pwrStat 6 6 1 with pwr := { e.pwr with ovMute := true } } : Dev).ovMuted
    else if mv < 18200 then { e with pwr := { e.pwr with ovMute := false } } else e := by
    subst he
    rfl
  rw [heq]
  split
  · obtain ⟨m, hm⟩ : ∃ m : Dev, m = { e.setFld Reg.pwrStat 6 6 1 with pwr := { e.pwr with ovMute := true } } := ⟨_, rfl⟩
    have hmr : Reports { d with pwr := { d.pwr with vin := mv, ovMute := true } } m := by
      rw [hm, hpwr]
      exact (hr.set_pwr _).trans ((setFld_reports statusOff_pwrStat e 6 6 1).set_pwr _)
    rw [← hm]
    refine ⟨⟨?_, fun p => ?_, fun p => ?_⟩, fun _ => ovMuted_muted m⟩
    · conv => rhs; rw [ovMuted_onlyPorts m]
      exact hmr.set_ports _
    · rw [(ovMuted_derating m p).1, hmr.port]
      rfl
    · rw [(ovMuted_derating m p).2, hmr.port]
      rfl
  · refine ⟨?_, fun h => absurd h ‹_›⟩
    split
    · refine ⟨?_, fun p => congrArg Port.derate (hport p), fun p => congrArg Port.dqWin (hport p)⟩
      rw [hpwr]
      exact (hr.set_pwr { d.pwr with vin := mv, ovMute := false }).set_ports e.ports
    · refine ⟨?_, fun p => congrArg Port.derate (hport p), fun p => congrArg Port.dqWin (hport p)⟩
      exact hr.set_ports e.ports

theorem vinMeasurement_next {s : State} (hd : s.dev.dev ≠ .off) (mv : Nat) :
    ∃ t, exec (.vinMeasurement mv) s = .next t ∧ t.pending = s.pending ∧
      Reports { s.dev with pwr := t.dev.pwr, ports := t.dev.ports } t.dev ∧ t.dev.pwr.vin = mv ∧
      (∀ p, p < 128 → (t.dev.port p).derate = max (s.dev.port p).derate (s.dev.derateFor p mv) ∧
        (t.dev.port p).dqWin = (s.dev.derateFor p (mv - 100) :: (s.dev.port p).dqWin).take 11) ∧
      (18500 ≤ mv → t.dev.pwr.ovMute = true ∧ ∀ p, (t.dev.port p).enabled = false) ∧
      (mv < 18200 → t.dev.pwr.ovMute = false) ∧
      (18200 ≤ mv → mv < 18500 → t.dev.pwr.ovMute = s.dev.pwr.ovMute) := by
  obtain ⟨t, ht, hp, hdev⟩ := run_fresh (vinMeasurementEffect mv) s
  rw [vinMeasurementEffect_on (d := s.dev.fresh) hd] at hdev
  obtain ⟨hnoted, hmuted⟩ := vinNoted_spec s.dev.fresh mv
  obtain ⟨hr, hen, hder⟩ := derateMeasure_spec (s.dev.fresh.vinNoted mv) mv
  obtain ⟨e, he⟩ : ∃ e, e = (s.dev.fresh.vinNoted mv).derateMeasure mv := ⟨_, rfl⟩
  rw [← he] at hdev hr hen hder
  have hcfg : SameCfg s.dev (s.dev.fresh.vinNoted mv) := hnoted.reports.2
  have hpwr := hr.pwr.trans hnoted.reports.pwr
  refine ⟨t, ht, hp, ?_⟩
  rw [hdev]
  refine ⟨?_, congrArg Power.vin hpwr, fun p hlt => ?_, fun h => ?_, fun h => ?_, fun h1 h2 => ?_⟩
  · have hall := ((hnoted.reports.set_ports e.ports).trans hr).trans (fresh_reports e)
    rw [fresh_pwr, hpwr]
    exact (((fresh_reports s.dev).set_pwr _).set_ports e.ports).trans hall
  · obtain ⟨h1, h2⟩ := hder p hlt
    rw [hnoted.derate, hcfg.derateFor hlt] at h1
    rw [hnoted.dqWin, hcfg.derateFor hlt] at h2
    exact ⟨h1, h2⟩
  · exact ⟨(congrArg Power.ovMute hpwr).trans (if_pos h), fun p => (hen p).trans (hmuted h p)⟩
  · exact (congrArg Power.ovMute hpwr).trans ((if_neg (by omega)).trans (if_pos h))
  · exact (congrArg Power.ovMute hpwr).trans ((if_neg (by omega)).trans (if_neg (by omega)))

/-! ### A decrease (03 R76) -/

theorem derateDecrease_reaches {s : State} (hd : s.dev.dev ≠ .off) (p : Fin 128) (hdue : s.dev.derateDue p = true) :
    Reaches (exec (.derateDecrease p) s) s
      (((groupPorts (portGroup p)).filter s.dev.derateDue).foldl (fun d q =>
        d.modPort q (fun x => { x with derate := (s.dev.port q).dq })) s.dev) := by
  have hnot : ¬ (s.dev.fresh.dev = .off ∨ (!s.dev.fresh.derateDue p) = true) := by
    rintro (h | h)
    · exact hd h
    · rw [show s.dev.fresh.derateDue p = s.dev.derateDue p from rfl, hdue] at h
      cases h
  have derated : ∀ (vs : List (Nat × Nat)) {a b : Dev}, Reports a b → Reports (a.derates vs) (b.derates vs) := by
    intro vs
    induction vs with
    | nil => exact id
    | cons v vs ih => exact fun h => ih (h.modPort _ _)
  refine run_reaches (f := derateDecreaseEffect p) ?_
  unfold derateDecreaseEffect
  rw [if_neg hnot]
  have hr := (derated (((groupPorts (portGroup p)).filter s.dev.derateDue).map (fun q => (q, (s.dev.port q).dq)))
    (fresh_reports s.dev)).trans (setDerate_reports s.dev.fresh _)
  rw [Dev.derates, List.foldl_map] at hr
  exact hr

/-- Settles O20: one measurement of VIN, and one decrease. -/
theorem deratingFollowsVin : Obligations.DeratingFollowsVin := fun _ hd =>
  ⟨vinMeasurement_next hd, derateDecrease_reaches hd⟩

end Sys2Proof.Machine
end

section
/-! SUPPORT. Function resets (21 R485, 15 R366, R368): what an FLR leaves of the device, and of other functions. -/

namespace Sys2Proof.Machine

/-! ### What the work on a function's rings keeps -/

/-- `b` is `a` as far as an FLR must keep it: the state, the ports, VF Enable, and the state of every ring. -/
structure FlrCalm (a b : Dev) : Prop where
  dev : b.dev = a.dev
  ports : b.ports = a.ports
  vfEn : b.vfEn = a.vfEn
  st : ∀ k, (b.ring k).st = (a.ring k).st

theorem FlrCalm.refl (a : Dev) : FlrCalm a a := ⟨rfl, rfl, rfl, fun _ => rfl⟩

theorem FlrCalm.trans {a b c : Dev} (h : FlrCalm a b) (k : FlrCalm b c) : FlrCalm a c :=
  ⟨k.dev.trans h.dev, k.ports.trans h.ports, k.vfEn.trans h.vfEn, fun i => (k.st i).trans (h.st i)⟩

/-- The parts of the device that an FLR of another function keeps. -/
def Dev.flrView (d : Dev) : DevState × List (Nat × Port) × Bool × List (Nat × Ring) × List (Nat × Fn) :=
  (d.dev, d.ports, d.vfEn, d.rings, d.fns)

theorem ring_of_rings {a b : Dev} (h : b.rings = a.rings) (k : Nat) : b.ring k = a.ring k := by
  unfold Dev.ring
  rw [h]

theorem ite_flrCalm {p : Prop} [Decidable p] {d a b : Dev} (ha : FlrCalm d a) (hb : FlrCalm d b) :
    FlrCalm d (if p then a else b) := by split <;> assumption

theorem FlrCalm.foldl {α : Type} {f : Dev → α → Dev} (hf : ∀ d x, FlrCalm d (f d x)) (l : List α) (d : Dev) :
    FlrCalm d (l.foldl f d) :=
  List.foldlRecOn l f (motive := FlrCalm d) (FlrCalm.refl d) fun e he x _ => he.trans (hf e x)

theorem modRing_flrCalm (d : Dev) (i : Nat) {f : Ring → Ring} (hf : ∀ r, (f r).st = r.st) : FlrCalm d (d.modRing i f) := by
  refine ⟨rfl, rfl, rfl, fun k => ?_⟩
  by_cases h : k = i
  · rw [h, ring_modRing_same, hf]
  · rw [ring_modRing_ne h]

/-- `b` is `a` as far as an FLR of another function must keep it: the functions too. -/
structure FlrTame (a b : Dev) : Prop extends FlrCalm a b where
  fns : b.fns = a.fns

theorem FlrTame.refl (a : Dev) : FlrTame a a := ⟨FlrCalm.refl a, rfl⟩

theorem FlrTame.trans {a b c : Dev} (h : FlrTame a b) (k : FlrTame b c) : FlrTame a c :=
  ⟨h.toFlrCalm.trans k.toFlrCalm, k.fns.trans h.fns⟩

theorem FlrTame.of_view {a b : Dev} (h : b.flrView = a.flrView) : FlrTame a b := by
  simp only [Dev.flrView, Prod.mk.injEq] at h
  obtain ⟨hdev, hports, hvf, hrings, hfns⟩ := h
  exact ⟨⟨hdev, hports, hvf, fun k => congrArg Ring.st (ring_of_rings hrings k)⟩, hfns⟩

/-- What follows a change of other parts. -/
theorem FlrTame.upon {a b c : Dev} (k : FlrTame b c) (h : b.flrView = a.flrView) : FlrTame a c := (FlrTame.of_view h).trans k

theorem FlrCalm.upon {a b c : Dev} (k : FlrCalm b c) (h : b.flrView = a.flrView) : FlrCalm a c :=
  (FlrTame.of_view h).toFlrCalm.trans k

theorem ite_flrTame {p : Prop} [Decidable p] {d a b : Dev} (ha : FlrTame d a) (hb : FlrTame d b) :
    FlrTame d (if p then a else b) := by split <;> assumption

theorem FlrTame.foldl {α : Type} {f : Dev → α → Dev} (hf : ∀ d x, FlrTame d (f d x)) (l : List α) (d : Dev) :
    FlrTame d (l.foldl f d) :=
  List.foldlRecOn l f (motive := FlrTame d) (FlrTame.refl d) fun e he x _ => he.trans (hf e x)

theorem modRing_flrTame (d : Dev) (i : Nat) {f : Ring → Ring} (hf : ∀ r, (f r).st = r.st) : FlrTame d (d.modRing i f) :=
  ⟨modRing_flrCalm d i hf, rfl⟩

/-! ### Reports (17 R417, R418) -/

/-- A report is none of an FLR's work. -/
theorem Told.flrTame {a b : Dev} (h : Told a b) : FlrTame a b := ⟨⟨h.dev, h.ports, h.vfEn, h.st⟩, h.fns⟩

theorem trace_flrTame (d : Dev) (clid : Option Nat) (stage st mpt : Nat) (i : TraceInfo) :
    FlrTame d (d.trace clid stage st mpt i) := by
  unfold Dev.trace
  split
  · exact FlrTame.refl d
  · exact ite_flrTame (push_told d 10 _).flrTame (FlrTame.refl d)

theorem markGroup_flrTame (d : Dev) (g : Nat) : FlrTame d (d.markGroup g) :=
  ((((mark_told d _).trans (mark_told _ _)).trans (mark_told _ _)).trans (mark_told _ _)).flrTame

theorem consumed_flrTame (d : Dev) (q : Option Nat) (flushed : Bool) : FlrTame d (d.consumed q flushed) := by
  unfold Dev.consumed
  split
  · exact FlrTame.refl d
  · exact ite_flrTame ((count_told _ _ _ _ _ _).flrTame.upon rfl) (.of_view rfl)

/-! ### Items that an FLR flushes (21 R485) -/

theorem flushItem_flrTame (d : Dev) (k : Nat) : FlrTame d (d.flushItem k) := by
  unfold Dev.flushItem
  extract_lets freed noted
  have hfreed : FlrTame d freed := modRing_flrTame d _ fun _ => rfl
  have hnoted : FlrTame freed noted := modRing_flrTame freed _ fun _ => rfl
  exact (hfreed.trans hnoted).trans (count_told _ _ _ _ _ _).flrTame

/-- An MSDU ends without a completion. -/
theorem endMsdu_flrTame (d : Dev) (m : Msdu) (st : Nat) : FlrTame d (d.endMsdu m st false) := by
  unfold Dev.endMsdu
  extract_lets freed taken counted missed ended traced
  have hfreed : FlrTame d freed := .of_view rfl
  have hcounted : FlrTame taken counted := ite_flrTame (.of_view rfl) (FlrTame.refl _)
  have hmissed : FlrTame counted missed := ite_flrTame (.of_view rfl) (FlrTame.refl _)
  have hended : FlrTame missed ended := by
    simp only [ended]
    split
    · exact flushItem_flrTame _ _
    · exact ite_flrTame ((raise_told _ _ _).trans (event_told _ _ _ _ _)).flrTame (FlrTame.refl _)
    · exact FlrTame.refl _
  exact (((((hfreed.trans (consumed_flrTame _ _ _)).trans hcounted).trans hmissed).trans hended).trans
    (trace_flrTame _ _ _ _ _ _)).trans (markGroup_flrTame _ _)

theorem flushWhere_flrTame (d : Dev) (hit : Msdu → Bool) : FlrTame d (d.flushWhere hit false) :=
  (FlrTame.foldl (fun d m => endMsdu_flrTame d m stFlushed) _ _).upon rfl

theorem flushBuffers_flrTame (d : Dev) (g : Nat) : FlrTame d (d.flushBuffers g false) := by
  unfold Dev.flushBuffers
  extract_lets k bs emptied
  have hemptied : FlrTame d emptied := ite_flrTame (FlrTame.refl d) (.of_view rfl)
  exact hemptied.trans (FlrTame.foldl (fun d _ => flushItem_flrTame d k) bs emptied)

theorem dropChain_flrTame (d : Dev) (k : Nat) : FlrTame d (d.dropChain k) := by
  unfold Dev.dropChain
  extract_lets ps dropped
  have hdrop : FlrTame d dropped := .of_view rfl
  have hfree : FlrTame dropped (dropped.freePools (ringGroup k) ps) := .of_view rfl
  exact ite_flrTame hdrop ((hdrop.trans hfree).trans (modRing_flrTame _ k fun _ => rfl))

/-! ### Commands that end (16 R393) -/

theorem hostWrite_flrCalm (d : Dev) (f a : Nat) (bs : List Byte) : FlrCalm d (d.hostWrite f a bs) :=
  ite_flrCalm ⟨rfl, rfl, rfl, fun _ => rfl⟩ ⟨rfl, rfl, rfl, fun _ => rfl⟩

theorem writeEntry_flrCalm (d : Dev) (k : Nat) (bs : List Byte) : FlrCalm d (d.writeEntry k bs) := by
  unfold Dev.writeEntry
  extract_lets r size written
  have hwritten : FlrCalm d written := hostWrite_flrCalm d _ _ _
  refine hwritten.trans (modRing_flrCalm written k fun r => ?_)
  dsimp only
  split
  · rfl
  · split <;> rfl

theorem payOwed_flrCalm (d : Dev) (k : Nat) : FlrCalm d (d.payOwed k) := by
  unfold Dev.payOwed
  dsimp only
  refine (ite_flrCalm (FlrCalm.refl d) (modRing_flrCalm d k fun _ => by rfl)).trans (FlrCalm.foldl (fun e bs => ?_) _ _)
  have hwrite := (writeEntry_flrCalm e k (withPhase (e.ring k) bs)).trans
    (modRing_flrCalm _ k (f := fun r => { r with rsvd := r.rsvd - 1 }) fun _ => by rfl)
  exact ite_flrCalm hwrite (hwrite.trans (modRing_flrCalm _ _ fun _ => by rfl))

theorem complete_flrCalm (d : Dev) (k : Nat) (bs : List Byte) : FlrCalm d (d.complete k bs) := by
  have howed := modRing_flrCalm d (k + 1) (f := fun r => { r with owed := r.owed ++ [bs] }) fun _ => rfl
  unfold Dev.complete
  dsimp only
  split
  · exact FlrCalm.refl d
  · exact howed
  · exact howed.trans (payOwed_flrCalm _ _)

theorem finish_flrCalm (d : Dev) (id st : Nat) (q : List Byte) : FlrCalm d (d.finish id st q) := by
  unfold Dev.finish
  split
  · exact FlrCalm.refl d
  · refine FlrCalm.trans ?_ (mark_told _ 12).flrTame.toFlrCalm
    exact ite_flrCalm ((complete_flrCalm _ _ _).upon rfl) ⟨rfl, rfl, rfl, fun _ => rfl⟩

theorem finishBlock_flrCalm (d : Dev) (id st : Nat) (q block : List Byte) : FlrCalm d (d.finishBlock id st q block) := by
  have haer : FlrCalm d (d.reportAer 0) := ⟨rfl, rfl, rfl, fun _ => rfl⟩
  unfold Dev.finishBlock
  split
  · exact FlrCalm.refl d
  · exact ite_flrCalm (finish_flrCalm d _ _ _) (ite_flrCalm (haer.trans (finish_flrCalm _ _ _ _))
      ((hostWrite_flrCalm d _ _ _).trans (finish_flrCalm _ _ _ _)))

theorem endSwo_flrCalm (d : Dev) (o : SwoOp) (st : Nat) : FlrCalm d (d.endSwo o st) := by
  unfold Dev.endSwo
  extract_lets left report counted block
  have hcounted : FlrCalm d counted := ⟨rfl, rfl, rfl, fun _ => rfl⟩
  exact (hcounted.trans (finishBlock_flrCalm counted _ _ _ _)).trans (mark_told _ 11).flrTame.toFlrCalm

/-- A completion is the work of the function that holds its ring. -/
theorem hostWrite_fn {f i : Nat} (hf : f ≠ i) (d : Dev) (a : Nat) (bs : List Byte) : (d.hostWrite i a bs).fn f = d.fn f := by
  unfold Dev.hostWrite
  split
  · rfl
  · exact fn_modFn_ne hf d _

theorem writeEntry_fn {f k : Nat} (hf : f ≠ ringFn k) (d : Dev) (bs : List Byte) : (d.writeEntry k bs).fn f = d.fn f := by
  unfold Dev.writeEntry
  extract_lets r size written
  exact hostWrite_fn hf d _ _

theorem payOwed_fn {f k : Nat} (hf : f ≠ ringFn k) (d : Dev) : (d.payOwed k).fn f = d.fn f := by
  unfold Dev.payOwed
  dsimp only
  refine (foldl_keeps (fun e : Dev => e.fn f) (fun e bs => ?_) _ _).trans ?_
  · split <;> simp only [modRing_fn, writeEntry_fn hf]
  · split
    · rfl
    · rfl

theorem complete_fn {f k : Nat} (hf : f ≠ ringFn (k + 1)) (d : Dev) (bs : List Byte) : (d.complete k bs).fn f = d.fn f := by
  unfold Dev.complete
  dsimp only
  split
  · rfl
  · rfl
  · exact payOwed_fn hf _

theorem finish_fn {f : Nat} (hf : f ≠ 0) (d : Dev) (id st : Nat) (q : List Byte) : (d.finish id st q).fn f = d.fn f := by
  have hmark : ∀ e : Dev, (e.mark 12).fn f = e.fn f := fun e => by
    unfold Dev.fn
    rw [(mark_told e 12).fns]
  unfold Dev.finish
  split
  · rfl
  · dsimp only
    rw [hmark]
    split
    · exact complete_fn hf _ _
    · rfl

/-! ### Rings that an FLR disables (15 R387) -/

/-- `b` is `a` but for rings that have become DISABLED, and what an FLR does besides. -/
structure FlrDown (a b : Dev) : Prop where
  dev : b.dev = a.dev
  ports : b.ports = a.ports
  vfEn : b.vfEn = a.vfEn
  down : ∀ k, (a.ring k).st = .disabled → (b.ring k).st = .disabled

theorem FlrCalm.flrDown {a b : Dev} (h : FlrCalm a b) : FlrDown a b := ⟨h.dev, h.ports, h.vfEn, fun k hk => (h.st k).trans hk⟩

theorem FlrDown.refl (a : Dev) : FlrDown a a := (FlrCalm.refl a).flrDown

theorem FlrDown.trans {a b c : Dev} (h : FlrDown a b) (k : FlrDown b c) : FlrDown a c :=
  ⟨k.dev.trans h.dev, k.ports.trans h.ports, k.vfEn.trans h.vfEn, fun i hi => k.down i (h.down i hi)⟩

theorem FlrDown.foldl {α : Type} {f : Dev → α → Dev} (hf : ∀ d x, FlrDown d (f d x)) (l : List α) (d : Dev) :
    FlrDown d (l.foldl f d) :=
  List.foldlRecOn l f (motive := FlrDown d) (FlrDown.refl d) fun e he x _ => he.trans (hf e x)

theorem killRing_spec (d : Dev) (k : Nat) :
    FlrDown d (d.killRing k) ∧ (d.killRing k).fns = d.fns ∧ ((d.killRing k).ring k).st = .disabled := by
  unfold Dev.killRing
  extract_lets n flushed
  have hflushed : FlrTame d flushed :=
    ite_flrTame (FlrTame.refl d) (FlrTame.foldl (fun e _ => flushItem_flrTame e (k - 1)) (List.range n) d)
  have hdrop := hflushed.trans (dropChain_flrTame flushed k)
  refine ⟨⟨hdrop.dev, hdrop.ports, hdrop.vfEn, fun i hi => ?_⟩, hdrop.fns, ?_⟩
  · by_cases h : i = k
    · rw [h, ring_modRing_same]
    · rw [ring_modRing_ne h, hdrop.st]
      exact hi
  · rw [ring_modRing_same]

/-- Every listed ring that a predicate holds for is disabled, and one that is not listed has never been enabled. -/
theorem killRings_spec (d : Dev) (p : Nat → Bool) {l : List Nat} (hl : l = (d.rings.filter (fun e => p e.1)).map (fun e => e.1)) :
    FlrDown d (l.foldl (fun d k => d.killRing k) d) ∧ (l.foldl (fun d k => d.killRing k) d).fns = d.fns ∧
      ∀ k, p k = true → ((l.foldl (fun d k => d.killRing k) d).ring k).st = .disabled := by
  have hdown := FlrDown.foldl (f := fun d k => Dev.killRing d k) (fun d k => (killRing_spec d k).1) l d
  refine ⟨hdown, foldl_keeps Dev.fns (fun d k => (killRing_spec d k).2.1) l d, fun k hk => ?_⟩
  rcases SMap.mem_or_get_eq (fun _ => Ring.init) k d.rings with h | h
  · have hmem : k ∈ l := by
      rw [hl, List.mem_map]
      exact ⟨_, List.mem_filter.2 ⟨h, hk⟩, rfl⟩
    exact foldl_settles (P := fun d : Dev => (d.ring k).st = .disabled) hmem (fun d => (killRing_spec d k).2.2)
      (fun d j hd => (killRing_spec d j).1.down k hd) d
  · refine hdown.down k ?_
    rw [Dev.ring, h]
    rfl

/-! ### An FLR (15 R366, R368) -/

theorem flrData_spec (d : Dev) {f : Nat} (hf : f ≠ 0) :
    FlrDown d (d.flrData (fun k => decide (ringFn k = f))) ∧ (d.flrData (fun k => decide (ringFn k = f))).fns = d.fns ∧
      ∀ k, ringFn k = f → ((d.flrData (fun k => decide (ringFn k = f))).ring k).st = .disabled := by
  unfold Dev.flrData
  extract_lets flushed emptied
  have hflushed : FlrTame d flushed := flushWhere_flrTame d _
  have hemptied : FlrTame flushed emptied :=
    FlrTame.foldl (fun d g => ite_flrTame (flushBuffers_flrTame d g) (FlrTame.refl d)) _ _
  have hall := hflushed.trans hemptied
  obtain ⟨hdown, hfns, hst⟩ := killRings_spec emptied (fun k => decide (ringFn k ≠ 0) && decide (ringFn k = f)) rfl
  refine ⟨hall.toFlrCalm.flrDown.trans hdown, hfns.trans hall.fns, fun k hk => hst k ?_⟩
  simp [hk, hf]

theorem flrPf0_spec (d : Dev) : FlrDown d d.flrPf0 ∧ ∀ k, ringFn k = 0 → (d.flrPf0.ring k).st = .disabled := by
  unfold Dev.flrPf0
  extract_lets n cs flushed ended killed
  have hflushed : FlrCalm d flushed :=
    (FlrCalm.foldl (fun e _ => (flushItem_flrTame e 0).toFlrCalm) (List.range n) _).upon rfl
  have hended : FlrCalm flushed ended := FlrCalm.foldl (fun d o => endSwo_flrCalm d o stFlushed) _ _
  obtain ⟨hdown, -, hst⟩ := killRings_spec ended (fun k => decide (ringFn k = 0)) rfl
  have hregs : FlrCalm killed killed.flrRegs := ⟨rfl, rfl, rfl, fun _ => rfl⟩
  exact ⟨((hflushed.trans hended).flrDown.trans hdown).trans hregs.flrDown,
    fun k hk => (hregs.st k).trans (hst k (decide_eq_true hk))⟩

theorem flrRings_spec (d : Dev) (f : Nat) : FlrDown d (d.flrRings f) ∧ ∀ k, ringFn k = f → ((d.flrRings f).ring k).st = .disabled := by
  unfold Dev.flrRings
  split
  · next h => exact h ▸ flrPf0_spec d
  · next h => exact ⟨(flrData_spec d h).1, (flrData_spec d h).2.2⟩

/-- The configuration space of a function stands at its reset values. -/
def Dev.FnReset (d : Dev) (f : Nat) : Prop := d.fn f = { Fn.init with sent := (d.fn f).sent, aer := (d.fn f).aer }

theorem flrSpace_flrCalm (d : Dev) (f : Nat) : FlrCalm d (d.flrSpace f) := ⟨rfl, rfl, rfl, fun _ => rfl⟩

theorem flrSpace_fnReset (d : Dev) (f : Nat) : (d.flrSpace f).FnReset f := by
  unfold Dev.FnReset Dev.flrSpace
  rw [fn_modFn_same]

theorem flrOne_spec (d : Dev) (f : Nat) :
    FlrDown d (d.flrOne f) ∧ (d.flrOne f).FnReset f ∧ ∀ k, ringFn k = f → ((d.flrOne f).ring k).st = .disabled := by
  obtain ⟨hdown, hst⟩ := flrRings_spec d f
  have hspace := flrSpace_flrCalm (d.flrRings f) f
  unfold Dev.flrOne
  exact ⟨hdown.trans hspace.flrDown, flrSpace_fnReset _ f, fun k hk => (hspace.st k).trans (hst k hk)⟩

/-- An FLR of a VF leaves the functions below the VFs alone. -/
theorem flrOne_fn (d : Dev) {f i : Nat} (hf : f ≠ 0) (hi : i ≠ f) : (d.flrOne f).fn i = d.fn i := by
  have hfns : (d.flrRings f).fns = d.fns := by
    unfold Dev.flrRings
    rw [if_neg hf]
    exact (flrData_spec d hf).2.1
  unfold Dev.flrOne Dev.flrSpace
  rw [fn_modFn_ne hi, Dev.fn, hfns]
  rfl

/-- The FLR of every VF (15 R366). -/
def Dev.flrVfs (d : Dev) : Dev := iter 32 (fun n d => d.flrOne (2 + n)) d

theorem flrVfs_spec (d : Dev) : FlrDown d d.flrVfs ∧ ∀ f, f < 2 → d.flrVfs.fn f = d.fn f := by
  unfold Dev.flrVfs iter
  exact ⟨FlrDown.foldl (fun d n => (flrOne_spec d (2 + n)).1) _ d,
    fun f hf => foldl_keeps (fun d : Dev => d.fn f) (fun d n => flrOne_fn d (by omega) (by omega)) _ d⟩

/-- VF Enable and NumVFs at their reset values. -/
def Dev.noVfs (d : Dev) : Dev := { d with vfEn := false, numVfs := 0 }

theorem noVfs_spec (d : Dev) : d.noVfs.dev = d.dev ∧ d.noVfs.ports = d.ports ∧ d.noVfs.vfEn = false ∧
    (∀ k, d.noVfs.ring k = d.ring k) ∧ ∀ f, d.FnReset f → d.noVfs.FnReset f := ⟨rfl, rfl, rfl, fun _ => rfl, fun _ h => h⟩

theorem flr_eq (d : Dev) (f : Nat) :
    d.flr f = if f = 1 ∧ (d.flrOne f).vfEn = true then (d.flrOne f).flrVfs.noVfs else d.flrOne f := rfl

theorem flr_spec (d : Dev) (f : Nat) :
    (d.flr f).dev = d.dev ∧ (d.flr f).ports = d.ports ∧ (d.flr f).FnReset f ∧
      (∀ k, ringFn k = f → ((d.flr f).ring k).st = .disabled) ∧ (f = 1 → (d.flr f).vfEn = false) := by
  obtain ⟨hdown, hfn, hst⟩ := flrOne_spec d f
  by_cases h : f = 1 ∧ (d.flrOne f).vfEn = true
  · obtain ⟨hvfs, hkept⟩ := flrVfs_spec (d.flrOne f)
    have hreset : (d.flrOne f).flrVfs.FnReset f := by
      unfold Dev.FnReset at hfn ⊢
      rw [hkept f (by omega)]
      exact hfn
    rw [flr_eq, if_pos h]
    obtain ⟨hdev, hports, hvf, hring, hspace⟩ := noVfs_spec (d.flrOne f).flrVfs
    exact ⟨hdev.trans (hvfs.dev.trans hdown.dev), hports.trans (hvfs.ports.trans hdown.ports), hspace f hreset,
      fun k hk => (congrArg Ring.st (hring k)).trans (hvfs.down k (hst k hk)), fun _ => hvf⟩
  · rw [flr_eq, if_neg h]
    refine ⟨hdown.dev, hdown.ports, hfn, hst, fun hf => ?_⟩
    rw [not_and, Bool.not_eq_true] at h
    exact h hf

theorem flr_next {s : State} (f : Fin 34) (hd : s.dev.dev ≠ .off) (hv : 2 ≤ f.val → s.dev.vfEn = true ∧ f.val - 2 < s.dev.numVfs) :
    ∃ t, exec (.flr f) s = .next t ∧ t.pending = s.pending ∧ t.dev.dev = s.dev.dev ∧
      t.dev.fn f = { Fn.init with sent := (t.dev.fn f).sent, aer := (t.dev.fn f).aer } ∧
      (∀ k, ringFn k = f.val → (t.dev.ring k).st = .disabled) ∧ (f.val = 1 → t.dev.vfEn = false) ∧
      ∀ p, t.dev.port p = s.dev.port p := by
  have hex : ¬ (s.dev.fresh.dev = .off ∨ (2 ≤ f.val ∧ (!(s.dev.fresh.vfEn && decide (f.val - 2 < s.dev.fresh.numVfs))) = true)) := by
    rintro (h | ⟨h2, h⟩)
    · exact hd h
    · obtain ⟨hen, hlt⟩ := hv h2
      rw [show s.dev.fresh.vfEn = true from hen, show s.dev.fresh.numVfs = s.dev.numVfs from rfl, decide_eq_true hlt] at h
      cases h
  obtain ⟨t, ht, hp, hdev⟩ := run_fresh (flrEffect f) s
  rw [flrEffect, if_neg hex] at hdev
  obtain ⟨hkept, hports, hfn, hst, hvf⟩ := flr_spec s.dev.fresh f
  refine ⟨t, ht, hp, ?_⟩
  rw [hdev]
  exact ⟨hkept, hfn, hst, hvf, fun p => congrArg (SMap.get (fun _ => Port.init) p) hports⟩

theorem fnReset_next {s : State} {c : CmdDesc} {f : Nat} (h : Accepted s c { CmdSpec.plain 0x04 with m2 := 0xFFFF })
    (hf : fnNamed c.n2 = some f) :
    ∃ t, exec (.fnReset c) s = .next t ∧ t.pending = s.pending ∧ Ended s t ∧ t.dev.dev = s.dev.dev ∧
      t.dev.fn f = { Fn.init with sent := (t.dev.fn f).sent, aer := (t.dev.fn f).aer } ∧
      (∀ k, ringFn k = f → (t.dev.ring k).st = .disabled) ∧ (f = 1 → t.dev.vfEn = false) := by
  have hne : f ≠ 0 := by
    unfold fnNamed at hf
    split at hf
    · cases hf; decide
    · split at hf
      · have := Option.some.inj hf
        omega
      · cases hf
  obtain ⟨t, ht, hp, hdev⟩ := command_next h (obj := always) (arg := fun _ c => (fnNamed c.n2).isSome) rfl (by rw [hf]; rfl)
    (eff := fun id c d => (d.flr ((fnNamed c.n2).getD 1)).finishSt id stOk)
  rw [hf, Option.getD_some] at hdev
  obtain ⟨hkept, -, hfn, hst, hvf⟩ := flr_spec (s.dev.fresh.fetchCmd c) f
  have hcalm := finish_flrCalm ((s.dev.fresh.fetchCmd c).flr f) s.dev.nextId stOk []
  have hsame := finish_fn hne ((s.dev.fresh.fetchCmd c).flr f) s.dev.nextId stOk []
  refine ⟨t, ht, hp, ?_⟩
  rw [Ended, hdev]
  refine ⟨finishSt_ended _ _ _, hcalm.dev.trans (hkept.trans (fetched_reports s c).dev), ?_,
    fun k hk => (hcalm.st k).trans (hst k hk), fun hf1 => hcalm.vfEn.trans (hvf hf1)⟩
  unfold Dev.FnReset at hfn
  rw [← hsame] at hfn
  exact hfn

/-- Settles O17: an FLR of a function, and FN_RESET. -/
theorem functionResets : Obligations.FunctionResets := fun _ => ⟨flr_next, fun _ _ => fnReset_next⟩

end Sys2Proof.Machine
end

section
/-! SUPPORT. Commits of an image and the random number generator (19 R448, R450), and maintenance requests by command (21 R477, R478). -/

namespace Sys2Proof.Machine

/-! ### A fault on record (21 R481, R482) -/

/-- A bit of `SEC_STAT` and a fault of its class: both bits show, the class is the last on record, and nothing is written to the host. -/
theorem secFault_spec (d : Dev) {b cls : Nat} (hb : b < 32) (hc : cls < 32) (loc grp b5 : Nat) :
    Reports d ((d.raise .sec b).faultEvent cls loc grp b5) ∧ ((d.raise .sec b).faultEvent cls loc grp b5).posted = d.posted ∧
      ((d.raise .sec b).faultEvent cls loc grp b5).flag Reg.secStat b = true ∧
      ((d.raise .sec b).faultEvent cls loc grp b5).flag Reg.mntFstat cls = true ∧
      ((d.raise .sec b).faultEvent cls loc grp b5).mnt.fclass = cls :=
  ⟨(raise_reports d .sec b).trans (faultEvent_reports _ _ _ _ _), (faultEvent_posted _ _ _ _ _).trans (raise_told d .sec b).posted,
    faultEvent_keepsBits _ _ _ _ _ _ _ hb (flag_raise hb d .sec), faultEvent_flag hc _ _ _ _, faultEvent_fclass _ _ _ _ _⟩

/-! ### A commit that ends (19 R448) -/

/-- The slot that a commit writes has been chosen: nothing but the free choices has changed. -/
theorem commitSlot_spec (d : Dev) :
    Reports d d.commitSlot.2 ∧ d.commitSlot.2.posted = d.posted ∧ (d.sec.hasB = false → d.commitSlot.1 = false) := by
  unfold Dev.commitSlot
  dsimp only
  split
  · exact ⟨Reports.refl d, rfl, fun _ => rfl⟩
  · next h =>
    have hb : d.sec.hasB = false → False := fun hb => h (by rw [hb]; rfl)
    split
    · exact ⟨Reports.refl d, rfl, fun hb' => (hb hb').elim⟩
    · exact ⟨Reports.refl d, rfl, fun hb' => (hb hb').elim⟩
    · exact ⟨free_reports d, rfl, fun hb' => (hb hb').elim⟩
    · exact ⟨Reports.refl d, rfl, fun hb' => (hb hb').elim⟩

/-- The commit is over, and the slot of a staged image holds what was written. -/
def Dev.commitWritten (d : Dev) (readBack : List Byte) : Dev :=
  let d := { d with sec := { d.sec with commit := false } }
  let t := if decide (d.sec.src = 2) = true then d.commitSlot else (false, d)
  if decide (d.sec.src = 2) = true then t.2.setSlot t.1 { bytes := readBack, readFail := none } else t.2

/-- An image is committed: its SVN and its revocations hold, and it is no longer on trial. -/
def Dev.imageCommitted (d : Dev) : Dev :=
  ({ d with sec := { d.sec with
    arbCtr := if d.sec.arbCtr.toNat < imgSvn d.sec.area then BitVec.ofNat 64 (imgSvn d.sec.area) else d.sec.arbCtr
    revoked := d.sec.revoked ||| imgRevoke d.sec.area
    trial := false } }).count 40 7 2 none 1

/-- The security record of a commit that has ended differs in its slots. -/
def Sec.SlotsOf (a b : Sec) : Prop := b = { a with commit := false, slotA := b.slotA, slotB := b.slotB }

theorem setSlot_spec (d : Dev) (b : Bool) (x : BootSrc) :
    (∃ u v, d.setSlot b x = { d with sec := { d.sec with slotA := u, slotB := v } }) ∧
      (b = false → (d.setSlot b x).sec.slotA = some x) := by
  cases b
  · exact ⟨⟨_, _, rfl⟩, fun _ => rfl⟩
  · exact ⟨⟨_, _, rfl⟩, fun h => by cases h⟩

theorem commitWritten_spec (d : Dev) (readBack : List Byte) :
    Reports { d with sec := (d.commitWritten readBack).sec } (d.commitWritten readBack) ∧
      (d.commitWritten readBack).posted = d.posted ∧ d.sec.SlotsOf (d.commitWritten readBack).sec ∧
      (d.sec.src = 2 → d.sec.hasB = false → (d.commitWritten readBack).sec.slotA = some { bytes := readBack, readFail := none }) := by
  have hr : Reports { d with sec := { d.sec with commit := false } } ({ d with sec := { d.sec with commit := false } } : Dev) := Reports.refl _
  obtain ⟨hslot, hposted, hone⟩ := commitSlot_spec ({ d with sec := { d.sec with commit := false } } : Dev)
  by_cases hsrc : d.sec.src = 2
  · have heq : d.commitWritten readBack = (({ d with sec := { d.sec with commit := false } } : Dev).commitSlot.2).setSlot
        ({ d with sec := { d.sec with commit := false } } : Dev).commitSlot.1 { bytes := readBack, readFail := none } := by
      unfold Dev.commitWritten
      dsimp only
      rw [if_pos (decide_eq_true hsrc), if_pos (decide_eq_true hsrc)]
    rw [heq]
    generalize ({ d with sec := { d.sec with commit := false } } : Dev).commitSlot = t at hslot hposted hone
    obtain ⟨⟨u, v, hset⟩, hA⟩ := setSlot_spec t.2 t.1 { bytes := readBack, readFail := none }
    have hsec : t.2.sec = { d.sec with commit := false } := hslot.sec
    refine ⟨?_, ?_, ?_, fun _ hb => hA (hone hb)⟩
    · rw [hset]
      exact hslot.set_sec _
    · rw [hset]
      exact hposted
    · rw [hset, hsec]
      rfl
  · have heq : d.commitWritten readBack = ({ d with sec := { d.sec with commit := false } } : Dev) := by
      unfold Dev.commitWritten
      dsimp only
      rw [if_neg (by simpa using hsrc), if_neg (by simpa using hsrc)]
    rw [heq]
    exact ⟨Reports.refl _, rfl, rfl, fun h => absurd h hsrc⟩

theorem imageCommitDoneEffect_due {d : Dev} (hc : d.dev.clocked = true) (hd : d.sec.commit = true) (readBack : List Byte) :
    imageCommitDoneEffect readBack d =
      if (decide (d.sec.src = 2) && !(d.commitWritten readBack).writtenWell readBack) = true then
        ((d.commitWritten readBack).raise .sec 1).faultEvent 0x08 0 0xFF 0
      else (d.commitWritten readBack).imageCommitted := by
  have hnot : ¬ (!(d.dev.clocked && d.sec.commit)) = true := by rw [hc, hd]; decide
  exact if_neg hnot

theorem imageCommitDone_next {s : State} (hc : s.dev.dev.clocked = true) (hd : s.dev.sec.commit = true) (readBack : List Byte) :
    ∃ t, exec (.imageCommitDone readBack) s = .next t ∧ t.pending = s.pending ∧ t.hostMem = s.hostMem ∧ t.dev.sec.commit = false ∧
      Reports { s.dev with sec := t.dev.sec } t.dev ∧
      (s.dev.sec.src = 2 → s.dev.sec.hasB = false → t.dev.sec.slotA = some { bytes := readBack, readFail := none }) ∧
      (s.dev.sec.src = 2 → s.dev.writtenWell readBack = false → t.dev.sec.arbCtr = s.dev.sec.arbCtr ∧
        t.dev.sec.trial = s.dev.sec.trial ∧ t.dev.sec.revoked = s.dev.sec.revoked ∧
        t.dev.flag Reg.secStat 1 = true ∧ t.dev.flag Reg.mntFstat 8 = true ∧ t.dev.mnt.fclass = 8) ∧
      (s.dev.sec.src ≠ 2 ∨ s.dev.writtenWell readBack = true → t.dev.sec.trial = false ∧
        t.dev.sec.revoked = s.dev.sec.revoked ||| imgRevoke s.dev.sec.area ∧
        t.dev.sec.arbCtr = if s.dev.sec.arbCtr.toNat < imgSvn s.dev.sec.area then BitVec.ofNat 64 (imgSvn s.dev.sec.area)
          else s.dev.sec.arbCtr) := by
  have heff := imageCommitDoneEffect_due (d := s.dev.fresh) hc hd readBack
  obtain ⟨hr, hposted, hsec, hslot⟩ := commitWritten_spec s.dev.fresh readBack
  generalize s.dev.fresh.commitWritten readBack = w at heff hr hposted hsec hslot
  have hwell : w.writtenWell readBack = s.dev.writtenWell readBack := by
    unfold Dev.writtenWell
    rw [hsec]
    rfl
  have hbase : Reports { s.dev with sec := w.sec } w := ((fresh_reports s.dev).set_sec w.sec).trans hr
  rw [hwell] at heff
  by_cases hbad : s.dev.sec.src = 2 ∧ s.dev.writtenWell readBack = false
  · obtain ⟨hsrc, hfail⟩ := hbad
    rw [if_pos (by rw [decide_eq_true (show s.dev.fresh.sec.src = 2 from hsrc), hfail]; rfl)] at heff
    obtain ⟨hrf, hpf, hflag, hclass, hlast⟩ := secFault_spec w (b := 1) (cls := 8) (by decide) (by decide) 0 0xFF 0
    obtain ⟨t, ht, hp, hm, hdev⟩ := run_gives heff (hpf.trans hposted)
    have hts : t.dev.sec = w.sec := by rw [hdev]; exact hrf.sec
    refine ⟨t, ht, hp, hm, ?_, ?_, fun h1 h2 => ?_, fun _ _ => ?_, fun h => ?_⟩
    · rw [hts, hsec]
    · rw [hts, hdev]
      exact (hbase.trans hrf).trans (fresh_reports _)
    · rw [hts]
      exact hslot h1 h2
    · rw [hts, hdev, fresh_flag, fresh_flag]
      exact ⟨by rw [hsec]; rfl, by rw [hsec]; rfl, by rw [hsec]; rfl, hflag, hclass, hlast⟩
    · rcases h with h | h
      · exact absurd hsrc h
      · rw [hfail] at h
        cases h
  · rw [if_neg (by
      rw [Bool.and_eq_true, decide_eq_true_eq, Bool.not_eq_true']
      exact hbad)] at heff
    obtain ⟨t, ht, hp, hm, hdev⟩ := run_gives heff ((count_told _ _ _ _ _ _).posted.trans hposted)
    have hts : t.dev.sec = w.imageCommitted.sec := by rw [hdev]; rfl
    have hcs : w.imageCommitted.sec = { w.sec with
        arbCtr := if w.sec.arbCtr.toNat < imgSvn w.sec.area then BitVec.ofNat 64 (imgSvn w.sec.area) else w.sec.arbCtr
        revoked := w.sec.revoked ||| imgRevoke w.sec.area
        trial := false } := (count_told _ _ _ _ _ _).sec
    refine ⟨t, ht, hp, hm, ?_, ?_, fun h1 h2 => ?_, fun h1 h2 => absurd ⟨h1, h2⟩ hbad, fun _ => ?_⟩
    · rw [hts, hcs, hsec]
    · rw [hts, hdev, hcs]
      exact ((hbase.set_sec _).trans (count_reports _ _ _ _ _ _)).trans (fresh_reports _)
    · rw [hts, hcs]
      exact hslot h1 h2
    · rw [hts, hcs, hsec]
      exact ⟨rfl, rfl, rfl⟩

/-! ### A failure of the random number generator (19 R450) -/

theorem trngHealthFail_next {s : State} (hl : s.dev.dev.live = true) :
    ∃ t, exec .trngHealthFail s = .next t ∧ t.pending = s.pending ∧ t.hostMem = s.hostMem ∧
      Reports { s.dev with sec := { s.dev.sec with trngFail := true } } t.dev ∧
      t.dev.flag Reg.secStat 3 = true ∧ t.dev.flag Reg.mntFstat 7 = true ∧ t.dev.mnt.fclass = 7 := by
  have hnot : ¬ (!s.dev.fresh.dev.live) = true := by rw [show s.dev.fresh.dev.live = true from hl]; decide
  have heff : trngHealthFailEffect s.dev.fresh =
      (({ s.dev.fresh with sec := { s.dev.fresh.sec with trngFail := true } } : Dev).raise .sec 3).faultEvent 0x07 0 0xFF 0 :=
    if_neg hnot
  obtain ⟨hr, hposted, hflag, hclass, hlast⟩ := secFault_spec
    ({ s.dev.fresh with sec := { s.dev.fresh.sec with trngFail := true } } : Dev) (b := 3) (cls := 7) (by decide) (by decide) 0 0xFF 0
  obtain ⟨t, ht, hp, hm, hdev⟩ := run_gives heff hposted
  refine ⟨t, ht, hp, hm, ?_⟩
  rw [hdev, fresh_flag, fresh_flag]
  exact ⟨((fresh_reports s.dev).set_sec _).trans (hr.trans (fresh_reports _)), hflag, hclass, hlast⟩

/-- Settles O18: a commit that ends, and a failure of the generator. -/
theorem commitAndTrng : Obligations.CommitAndTrng := fun _ => ⟨imageCommitDone_next, trngHealthFail_next⟩

/-! ### Maintenance requests by command (21 R477, R478, 04 Table FD.7) -/

/-- The class on record is a report, so the rest of a maintenance record may be set beside it. -/
theorem Reports.set_mnt_class {a b : Dev} (h : Reports a b) (x : Mnt) (n : Nat) :
    Reports { a with mnt := x } { b with mnt := { x with fclass := n } } :=
  ⟨congrArg (fun c => { c with mnt := { x with fclass := 0 } }) h.1, h.2⟩

/-- Devices that differ by reports have one maintenance record but for the class. -/
theorem Reports.mnt_eq {a b : Dev} (h : Reports a b) : b.mnt = { a.mnt with fclass := b.mnt.fclass } := by
  dsimp only
  rw [← h.mnt_reqs, ← h.mnt_runs, ← h.mnt_merges, ← h.mnt_stamp, ← h.mnt_revisit, ← h.mnt_refOff]

section
variable {a b : Dev} (h : Reports a b)
include h

theorem Reports.reqsAt (p : Nat) : b.reqsAt p = a.reqsAt p := by rw [Dev.reqsAt, h.mnt_reqs]; rfl
theorem Reports.runOf (kind p : Nat) : b.runOf kind p = a.runOf kind p := by rw [Dev.runOf, h.mnt_runs]; rfl
theorem Reports.runKind (p : Nat) : b.runKind p = a.runKind p := by unfold Dev.runKind Dev.runsAt; rw [h.mnt_runs]
theorem Reports.waits (kind p : Nat) : b.waits kind p = a.waits kind p := by rw [Dev.waits, h.reqsAt]; rfl

theorem Reports.enqueueMnt (kind : Nat) (ports : List Nat) (cmd sess : Option Nat) :
    Reports (a.enqueueMnt kind ports cmd sess) (b.enqueueMnt kind ports cmd sess) := by
  have hkinds : b.runKind = a.runKind := funext h.runKind
  have heq : b.enqueueMnt kind ports cmd sess =
      { b with mnt := { (a.enqueueMnt kind ports cmd sess).mnt with fclass := b.mnt.fclass } } := by
    unfold Dev.enqueueMnt
    rw [hkinds, h.clk, h.mnt_eq]
  rw [heq]
  exact h.set_mnt_class _ _

/-- A request merged with another one waits for it. -/
theorem Reports.addMerge (m : MntMerge) :
    Reports { a with mnt := { a.mnt with merges := a.mnt.merges ++ [m] } } { b with mnt := { b.mnt with merges := b.mnt.merges ++ [m] } } := by
  rw [h.mnt_eq]
  exact h.set_mnt_class { a.mnt with merges := a.mnt.merges ++ [m] } _

theorem Reports.joinStart (p id : Nat) : Reports (a.joinStart p id) (b.joinStart p id) := by
  have heq : b.joinStart p id = { b with mnt := { b.mnt with merges := b.mnt.merges ++
      [{ kind := 2, port := p, cmd := id, accept := a.clk, found := 0, start := true }] } } := by
    rw [← h.clk]
    rfl
  rw [heq]
  exact h.addMerge _

end

section
variable {s : State} {c : CmdDesc} {sp : CmdSpec} (h : Accepted s c sp) {obj arg : Dev → CmdDesc → Bool}
  (ho : obj s.dev.fresh c = true) (ha : arg s.dev.fresh c = true) {eff : Nat → CmdDesc → Dev → Dev} {e f : Dev}
include h ho ha

/-- An accepted command whose effect leaves it outstanding waits. -/
theorem command_waits (heff : eff s.dev.nextId c (s.dev.fresh.fetchCmd c) = f) (hr : Reports e f)
    (hc : f.cmds = (s.dev.fresh.fetchCmd c).cmds) : Waits (run (command sp obj arg eff c) s) s e := by
  obtain ⟨t, ht, hp, hdev⟩ := command_next h ho ha (eff := eff)
  rw [heff] at hdev
  refine ⟨t, ht, hp, ?_, ?_⟩
  · rw [hdev]
    exact hr.trans (fresh_reports f)
  · rw [hdev, Dev.cmdOf, fresh_cmds, hc]
    exact fetched_outstanding s c

end

/-- A request by command: it waits in the queue, is merged, or finds no room. -/
theorem askMnt_serves {s : State} {c : CmdDesc} {kind : Nat} {i : Instr} {sp : CmdSpec} {eff : Nat → CmdDesc → Dev → Dev}
    (h : Accepted s c sp) (hup : (s.dev.group (portGroup c.n2)).st ≠ .down)
    (hi : exec i s = run (command sp portGroupUp always eff c) s)
    (heff : eff s.dev.nextId c (s.dev.fresh.fetchCmd c) = (s.dev.fresh.fetchCmd c).askMnt kind c.n2 (some s.dev.nextId)) :
    (((s.dev.runOf kind c.n2).isSome || s.dev.waits kind c.n2) = false → (s.dev.reqsAt c.n2).length < 4 →
        Waits (exec i s) s (s.dev.enqueueMnt kind [c.n2] (some s.dev.nextId) none)) ∧
      (((s.dev.runOf kind c.n2).isSome || s.dev.waits kind c.n2) = true →
        Waits (exec i s) s { s.dev with mnt := { s.dev.mnt with merges := s.dev.mnt.merges ++
          [{ kind := kind, port := c.n2, cmd := s.dev.nextId, accept := s.dev.clk,
             found := if (s.dev.runOf kind c.n2).isSome then 0 else s.dev.runKind c.n2, start := false }] } }) ∧
      (((s.dev.runOf kind c.n2).isSome || s.dev.waits kind c.n2) = false → 4 ≤ (s.dev.reqsAt c.n2).length →
        Serves (exec i s) s s.dev stNoRoom []) := by
  have ho : portGroupUp s.dev.fresh c = true := decide_eq_true hup
  have hf := fetched_reports s c
  have hout := fetched_outstanding s c
  rw [hi]
  obtain ⟨d, hd⟩ : ∃ d, d = s.dev.fresh.fetchCmd c := ⟨_, rfl⟩
  rw [← hd] at heff hf hout
  have hask : d.askMnt kind c.n2 (some s.dev.nextId) =
      if ((s.dev.runOf kind c.n2).isSome || s.dev.waits kind c.n2) = true then
        { d with mnt := { d.mnt with merges := d.mnt.merges ++
          [{ kind := kind, port := c.n2, cmd := s.dev.nextId, accept := s.dev.clk,
             found := if (s.dev.runOf kind c.n2).isSome then 0 else s.dev.runKind c.n2, start := false }] } }
      else if (s.dev.reqsAt c.n2).length < 4 then d.enqueueMnt kind [c.n2] (some s.dev.nextId) none
      else d.finishSt s.dev.nextId stNoRoom := by
    rw [← hf.runOf, ← hf.waits, ← hf.reqsAt, ← hf.runKind, ← hf.clk]
    rfl
  rw [hask] at heff
  subst hd
  refine ⟨fun hfree hroom => ?_, fun hbusy => ?_, fun hfree hfull => ?_⟩
  · rw [if_neg (by rw [hfree]; decide), if_pos hroom] at heff
    exact command_waits h ho rfl heff (hf.enqueueMnt _ _ _ _) rfl
  · rw [if_pos hbusy] at heff
    exact command_waits h ho rfl heff (hf.addMerge _) rfl
  · rw [if_neg (by rw [hfree]; decide), if_neg (not_lt.2 hfull)] at heff
    exact command_serves h ho rfl heff hf hout

/-- Settles O23: both commands ask for maintenance, but for an ECH_TRAIN that joins a start's training. -/
theorem maintenanceCommands : Obligations.MaintenanceCommands := by
  intro s c i kind opc hcase h hup
  have hf := fetched_reports s c
  rcases hcase with ⟨rfl, rfl, rfl⟩ | ⟨rfl, rfl, rfl⟩
  · exact ⟨fun hk => absurd hk (by decide), fun _ => askMnt_serves (eff := fun id c d => d.askMnt 1 c.n2 (some id)) h hup rfl rfl⟩
  · obtain ⟨eff, heff⟩ : ∃ eff : Nat → CmdDesc → Dev → Dev, eff = fun id c d =>
        if (d.port c.n2).ech = .training ∧ (d.runOf 2 c.n2).isNone then d.joinStart c.n2 id else d.askMnt 2 c.n2 (some id) := ⟨_, rfl⟩
    have hexec : exec (.echTrain c) s = run (command { CmdSpec.plain 0x14 with m2 := 0xFFFF, lim2 := 128 } portGroupUp always eff c) s := by
      rw [heff]
      rfl
    refine ⟨fun _ htr hnone => ?_, fun hjoin => askMnt_serves h hup hexec ?_⟩
    · have hjoined : eff s.dev.nextId c (s.dev.fresh.fetchCmd c) = (s.dev.fresh.fetchCmd c).joinStart c.n2 s.dev.nextId := by
        rw [heff]
        refine if_pos ⟨?_, ?_⟩
        · rw [hf.port]
          exact htr
        · rw [hf.runOf, hnone]
          rfl
      rw [hexec]
      exact command_waits h (decide_eq_true hup) rfl hjoined (hf.joinStart _ _) rfl
    · rw [heff]
      refine if_neg ?_
      rintro ⟨htr, hnone⟩
      rw [hf.port] at htr
      have hsome := hjoin rfl htr
      rw [hf.runOf, Option.isNone_iff_eq_none] at hnone
      rw [hnone] at hsome
      cases hsome

end Sys2Proof.Machine
end

section
/-! SUPPORT. Switching outputs and timed actions at nodes (14 R350-R359, 16 R402): submission, cancellation, the edges and their readback. -/

namespace Sys2Proof.Machine

/-! ### What the queue's rules read (14 R352, R353) -/

section
variable {a b : Dev} (h : Reports a b)
include h

theorem Reports.toGo (t : Nat) : b.toGo t = a.toGo t := by unfold Dev.toGo; rw [h.tb]
theorem Reports.runs (n : Nat) : b.runs n = a.runs n := by unfold Dev.runs; rw [h.tb]
theorem Reports.mptAtNs (t : Int) : b.mptAtNs t = a.mptAtNs t := by unfold Dev.mptAtNs; rw [h.tb, h.clk]
theorem Reports.edgeCycle (t : Nat) : b.edgeCycle t = a.edgeCycle t := by unfold Dev.edgeCycle; rw [h.toGo, h.tb, h.clk]
theorem Reports.swoIdle : b.swoIdle = a.swoIdle := h.fld (by decide) 15 0
theorem Reports.swoLevel (o : SwoOp) : b.swoLevel o = a.swoLevel o := by unfold Dev.swoLevel; rw [h.swoIdle]
theorem Reports.swoOpen (o : SwoOp) : b.swoOpen o = a.swoOpen o := by unfold Dev.swoOpen; rw [h.runs, h.toGo]
theorem Reports.swoAt (id : Nat) : b.swoAt id = a.swoAt id := by unfold Dev.swoAt; rw [h.swo]

theorem Reports.edgesOf (o : SwoOp) : b.edgesOf o = a.edgesOf o := by unfold Dev.edgesOf; rw [h.tb, h.toGo, h.clk]

theorem Reports.swoConflict (o : SwoOp) : b.swoConflict o = a.swoConflict o := by
  have hedges : b.edgesOf = a.edgesOf := funext h.edgesOf
  unfold Dev.swoConflict
  rw [h.swo, hedges, h.runs, h.fld (off := Reg.swoTime) (by decide) 7 0]

theorem Reports.swoRefusal (o : SwoOp) : b.swoRefusal o = a.swoRefusal o := by
  unfold Dev.swoRefusal
  rw [h.toGo, h.runs, h.mpt, h.swoConflict, h.swo, h.fld (off := Reg.swoTime) (by decide) 25 16,
    h.fld (off := Reg.swoTime) (by decide) 7 0]

theorem Reports.modSwo (id : Nat) (f : SwoOp → SwoOp) : Reports (a.modSwo id f) (b.modSwo id f) := by
  unfold Dev.modSwo
  rw [h.swo]
  exact h.set_swo _

theorem Reports.drive (out : Nat) (v : Bool) : Reports (a.drive out v) (b.drive out v) := by
  unfold Dev.drive
  rw [h.swoLvl]
  exact h.set_swoLvl _

end

/-! ### SWO_SUBMIT (14 R353) -/

section
variable {s : State} {c : CmdDesc}

theorem swoSubmit_serves {st : Nat} (h : Accepted s c { CmdSpec.plain 0x48 with needR := true, m0 := 2 ^ 48 - 1, m1 := 2 ^ 32 - 1, m2 := 0xFFFF, m3 := 0x3F })
    (ha : bits c.n3 5 4 ≠ 3) (hst : s.dev.swoRefusal (swoOf s.dev.nextId c) = some st) :
    Serves (exec (.swoSubmit c) s) s s.dev st [] := by
  have hf := fetched_reports s c
  have hq : Quiet (s.dev.fresh.fetchCmd c) (if st = stLate then ((s.dev.fresh.fetchCmd c).count 37 7 1 none 1).raise .swo 16
      else (s.dev.fresh.fetchCmd c).count 37 7 1 none 1) :=
    ite_quiet ((count_quiet _ _ _ _ _ _).trans (raise_quiet _ _ _)) (count_quiet _ _ _ _ _ _)
  refine command_serves h rfl (decide_eq_true ha) ?_ (hf.trans hq.1) ?_
  · dsimp only
    rw [hf.swoRefusal, hst]
    rfl
  · rw [hq.cmdOf]
    exact fetched_outstanding s c

/-- An operation enters the queue in the order of targets. -/
def Dev.swoEnter (d : Dev) (o : SwoOp) : List SwoOp :=
  d.swo.filter (fun x => decide (d.toGo x.t ≤ d.toGo o.t)) ++ [o] ++ d.swo.filter (fun x => !decide (d.toGo x.t ≤ d.toGo o.t))

theorem Reports.swoEnter {a b : Dev} (h : Reports a b) (o : SwoOp) : b.swoEnter o = a.swoEnter o := by
  have hgo : b.toGo = a.toGo := funext h.toGo
  unfold Dev.swoEnter
  rw [h.swo, hgo]

theorem swoSubmit_waits (h : Accepted s c { CmdSpec.plain 0x48 with needR := true, m0 := 2 ^ 48 - 1, m1 := 2 ^ 32 - 1, m2 := 0xFFFF, m3 := 0x3F })
    (ha : bits c.n3 5 4 ≠ 3) (hst : s.dev.swoRefusal (swoOf s.dev.nextId c) = none) :
    Waits (exec (.swoSubmit c) s) s { s.dev with swo := s.dev.swoEnter (swoOf s.dev.nextId c) } := by
  have hf := fetched_reports s c
  have hnone : (s.dev.fresh.fetchCmd c).swoRefusal (swoOf s.dev.nextId c) = none := (hf.swoRefusal _).trans hst
  obtain ⟨e, he⟩ : ∃ e : Dev, e = { s.dev.fresh.fetchCmd c with swo := (s.dev.fresh.fetchCmd c).swoEnter (swoOf s.dev.nextId c) } := ⟨_, rfl⟩
  have hq : Quiet e ((e.modAcct 11 (fun a => { a with produced := a.produced + 1 })).mark 11) :=
    (modAcct_quiet e 11 _).trans (mark_quiet _ 11)
  have hcmds : e.cmds = (s.dev.fresh.fetchCmd c).cmds := by rw [he]
  have hr : Reports { s.dev with swo := s.dev.swoEnter (swoOf s.dev.nextId c) } e := by
    rw [he, hf.swoEnter]
    exact hf.set_swo _
  refine command_waits (f := (e.modAcct 11 (fun a => { a with produced := a.produced + 1 })).mark 11) h rfl (decide_eq_true ha) ?_
    (hr.trans hq.1) (hq.2.1.trans hcmds)
  dsimp only
  rw [hnone, he]
  rfl

/-! ### SWO_CANCEL (14 R355) -/

/-- A command with a result block that has been finished is not outstanding, and none becomes so. -/
theorem finishBlock_cmds (d : Dev) (id st : Nat) (q block : List Byte) :
    (d.finishBlock id st q block).cmdOf id = none ∧ ∀ i, d.cmdOf i = none → (d.finishBlock id st q block).cmdOf i = none := by
  have hwrite : ∀ (a : Nat) (i : Nat), d.cmdOf i = none → (d.hostWrite 0 a block).cmdOf i = none := fun a i h => by
    rw [(hostWrite_quiet d 0 a block).cmdOf, h]
  unfold Dev.finishBlock
  split
  · next h => exact ⟨h, fun _ h => h⟩
  · split
    · exact ⟨finish_ended _ _ _ _, fun i h => finish_keeps_ended h _ _ _⟩
    · split
      · exact ⟨finish_ended _ _ _ _, fun i h => finish_keeps_ended (d := d.reportAer 0) h _ _ _⟩
      · exact ⟨finish_ended _ _ _ _, fun i h => finish_keeps_ended (hwrite _ i h) _ _ _⟩

/-- An operation that ends leaves the queue; its command has completed. -/
theorem endSwo_spec (d : Dev) (o : SwoOp) (st : Nat) :
    Reports { d with swo := d.swo.filter (fun x => decide (x.id ≠ o.id)) } (d.endSwo o st) ∧ (d.endSwo o st).cmdOf o.cmd = none ∧
      ∀ id, d.cmdOf id = none → (d.endSwo o st).cmdOf id = none := by
  unfold Dev.endSwo
  extract_lets left report counted block
  have hq : Quiet left counted := modAcct_quiet left 11 _
  have hr : Reports { d with swo := d.swo.filter (fun x => decide (x.id ≠ o.id)) } counted := hq.1
  obtain ⟨hend, hkeep⟩ := finishBlock_cmds counted o.cmd st (quints o.tag 0 0 o.flags 0) block
  refine ⟨(hr.trans (finishBlock_reports _ _ _ _ _)).trans (mark_reports _ 11), ?_, fun id h => ?_⟩
  · rw [(mark_quiet _ 11).cmdOf]
    exact hend
  · rw [(mark_quiet _ 11).cmdOf]
    exact hkeep id (by rw [hq.cmdOf]; exact h)

theorem foldl_endSwo_spec (st : Nat) (ops : List SwoOp) (d : Dev) :
    Reports { d with swo := d.swo.filter (fun o => !ops.any (fun x => decide (x.id = o.id))) } (ops.foldl (fun d o => d.endSwo o st) d) ∧
      (∀ o ∈ ops, (ops.foldl (fun d o => d.endSwo o st) d).cmdOf o.cmd = none) ∧
      ∀ id, d.cmdOf id = none → (ops.foldl (fun d o => d.endSwo o st) d).cmdOf id = none := by
  induction ops generalizing d with
  | nil =>
    have hall : d.swo.filter (fun o => !([] : List SwoOp).any (fun x => decide (x.id = o.id))) = d.swo :=
      List.filter_eq_self.2 fun _ _ => rfl
    refine ⟨?_, fun o ho => absurd ho List.not_mem_nil, fun _ h => h⟩
    rw [hall]
    exact Reports.refl d
  | cons o ops ih =>
    obtain ⟨hr, hend, hkeep⟩ := endSwo_spec d o st
    obtain ⟨hrs, hends, hkeeps⟩ := ih (d.endSwo o st)
    rw [List.foldl_cons]
    refine ⟨?_, ?_, fun id h => hkeeps id (hkeep id h)⟩
    · rw [hr.swo] at hrs
      have h := (hr.set_swo ((d.swo.filter (fun x => decide (x.id ≠ o.id))).filter
        (fun y => !ops.any (fun x => decide (x.id = y.id))))).trans hrs
      rw [List.filter_filter] at h
      have hfun : (fun y : SwoOp => !ops.any (fun x => decide (x.id = y.id)) && decide (y.id ≠ o.id)) =
          fun y => !(o :: ops).any (fun x => decide (x.id = y.id)) := by
        funext y
        rw [List.any_cons, Bool.not_or, Bool.and_comm]
        congr 1
        rw [← decide_not]
        exact decide_eq_decide.2 (not_congr eq_comm)
      rw [← hfun]
      exact h
    · intro x hx
      rcases List.mem_cons.1 hx with rfl | hx
      · exact hkeeps _ hend
      · exact hends x hx

theorem swoCancel_none (h : Accepted s c { CmdSpec.plain 0x49 with m2 := 0xFFFF })
    (hops : s.dev.swo.filter (fun o => decide (o.tag = c.n2) && s.dev.swoOpen o) = []) :
    Serves (exec (.swoCancel c) s) s s.dev stNotFound [] := by
  have hf := fetched_reports s c
  have hopen : (s.dev.fresh.fetchCmd c).swoOpen = s.dev.swoOpen := funext hf.swoOpen
  refine command_serves h rfl rfl ?_ hf (fetched_outstanding s c)
  dsimp only
  rw [hf.swo, hopen, hops]
  rfl

theorem swoCancel_ends (h : Accepted s c { CmdSpec.plain 0x49 with m2 := 0xFFFF }) {ops : List SwoOp}
    (he : s.dev.swo.filter (fun o => decide (o.tag = c.n2) && s.dev.swoOpen o) = ops) (hops : ops ≠ []) :
    ∃ t, exec (.swoCancel c) s = .next t ∧ t.pending = s.pending ∧ Ended s t ∧ (∀ o ∈ ops, t.dev.cmdOf o.cmd = none) ∧
      Reports { s.dev with swo := s.dev.swo.filter (fun o => !ops.any (fun x => decide (x.id = o.id))) } t.dev := by
  have hf := fetched_reports s c
  have hopen : (s.dev.fresh.fetchCmd c).swoOpen = s.dev.swoOpen := funext hf.swoOpen
  obtain ⟨eff, heff⟩ : ∃ eff : Nat → CmdDesc → Dev → Dev, eff = fun id c d =>
      let ops := d.swo.filter (fun o => decide (o.tag = c.n2) && d.swoOpen o)
      if ops = [] then d.finishSt id stNotFound else (ops.foldl (fun d o => d.endSwo o stCancelled) d).finishSt id stOk := ⟨_, rfl⟩
  obtain ⟨t, ht, hp, hdev⟩ := command_next h (obj := always) (arg := always) rfl rfl (eff := eff)
  obtain ⟨hr, hends, -⟩ := foldl_endSwo_spec stCancelled ops (s.dev.fresh.fetchCmd c)
  have hgo : eff s.dev.nextId c (s.dev.fresh.fetchCmd c) =
      (ops.foldl (fun d o => d.endSwo o stCancelled) (s.dev.fresh.fetchCmd c)).finishSt s.dev.nextId stOk := by
    rw [heff]
    dsimp only
    rw [hf.swo, hopen, he, if_neg hops]
  rw [hgo] at hdev
  generalize ops.foldl (fun d o => d.endSwo o stCancelled) (s.dev.fresh.fetchCmd c) = e at hr hends hdev
  refine ⟨t, (by rw [heff] at ht; exact ht), hp, ?_, fun o ho => ?_, ?_⟩
  · rw [Ended, hdev]
    exact finishSt_ended _ _ _
  · rw [hdev]
    exact finish_keeps_ended (hends o ho) _ _ _
  · rw [hdev]
    rw [hf.swo] at hr
    exact ((hf.set_swo _).trans hr).trans ((finishSt_reports _ _ _).trans (fresh_reports _))

/-! ### PHASE_SEND (14 R359) -/

theorem phaseSend_noNode (h : Accepted s c { CmdSpec.plain 0x4A with m0 := 2 ^ 48 - 1, m1 := 0x3FFFFFF, m2 := 0x3FFF, m3 := 0xFFFF, lim2 := 16384 })
    (hn : (s.dev.node c.n2).st.reachable = false) :
    Serves (exec (.phaseSend c) s) s s.dev stNoNode (leBytes 2 (c.f1 15 0)) := by
  have hf := fetched_reports s c
  refine command_serves h rfl rfl ?_ hf (fetched_outstanding s c)
  dsimp only
  rw [hf.node, hn]
  rfl

/-- The queue that a node's own messages join: held while it is DORMANT (12 R308). -/
def Dev.ownQueue (d : Dev) (nh : Nat) : List Msdu := if (d.node nh).st = .dormant then (d.node nh).heldq else (d.node nh).txq

theorem sendOwn_spec (d : Dev) (nh code tag : Nat) (cmd : Option Nat) (body : List Byte) :
    ∃ m, (if (d.node nh).st = .dormant then ((d.sendOwn nh code tag cmd body).node nh).heldq
        else ((d.sendOwn nh code tag cmd body).node nh).txq) = d.ownQueue nh ++ [m] ∧
      m.origin = .own code tag cmd ∧ m.data = mgmtMsg code body ∧
      Reports { d with nodes := (d.sendOwn nh code tag cmd body).nodes } (d.sendOwn nh code tag cmd body) ∧
      (d.sendOwn nh code tag cmd body).cmds = d.cmds := by
  unfold Dev.sendOwn Dev.ownQueue
  extract_lets m e
  have he : e.node nh = d.node nh := rfl
  have hr : Reports d e := ⟨rfl, fun _ _ => rfl⟩
  by_cases hd : (d.node nh).st = .dormant
  · rw [if_pos hd, if_pos hd, he, if_pos hd, node_modNode_same]
    exact ⟨_, rfl, rfl, rfl, hr.set_nodes _, rfl⟩
  · rw [if_neg hd, if_neg hd, he, if_neg hd, node_modNode_same]
    exact ⟨_, rfl, rfl, rfl, hr.set_nodes _, rfl⟩

theorem phaseSend_queues (h : Accepted s c { CmdSpec.plain 0x4A with m0 := 2 ^ 48 - 1, m1 := 0x3FFFFFF, m2 := 0x3FFF, m3 := 0xFFFF, lim2 := 16384 })
    (hn : (s.dev.node c.n2).st.reachable = true) :
    ∃ t m, exec (.phaseSend c) s = .next t ∧ t.pending = s.pending ∧ (t.dev.cmdOf s.dev.nextId).isSome = true ∧
      (if (s.dev.node c.n2).st = .dormant then (t.dev.node c.n2).heldq else (t.dev.node c.n2).txq) = s.dev.ownQueue c.n2 ++ [m] ∧
      m.origin = .own 0x0C c.mpt (some s.dev.nextId) ∧
      m.data = mgmtMsg 0x0C (s.dev.phaseBody c.mpt (c.f1 15 0) (c.f1 23 16) (c.f1 25 24) (if c.f1 25 24 = 2 then c.n3 else 0)) ∧
      Reports { s.dev with nodes := t.dev.nodes } t.dev := by
  have hf := fetched_reports s c
  obtain ⟨eff, heff⟩ : ∃ eff : Nat → CmdDesc → Dev → Dev, eff = fun id c d =>
      if !(d.node c.n2).st.reachable then d.finish id stNoNode (leBytes 2 (c.f1 15 0))
      else
        let pw := if c.f1 25 24 = 2 then c.n3 else 0
        d.sendOwn c.n2 0x0C c.mpt (some id) (d.phaseBody c.mpt (c.f1 15 0) (c.f1 23 16) (c.f1 25 24) pw) := ⟨_, rfl⟩
  obtain ⟨t, ht, hp, hdev⟩ := command_next h (obj := always) (arg := always) rfl rfl (eff := eff)
  obtain ⟨body, hbody⟩ : ∃ body, body = s.dev.phaseBody c.mpt (c.f1 15 0) (c.f1 23 16) (c.f1 25 24) (if c.f1 25 24 = 2 then c.n3 else 0) := ⟨_, rfl⟩
  have hphase : (s.dev.fresh.fetchCmd c).phaseBody c.mpt (c.f1 15 0) (c.f1 23 16) (c.f1 25 24) (if c.f1 25 24 = 2 then c.n3 else 0) = body := by
    rw [hbody, Dev.phaseBody, hf.msync, Dev.phaseBody]
  have hgo : eff s.dev.nextId c (s.dev.fresh.fetchCmd c) = (s.dev.fresh.fetchCmd c).sendOwn c.n2 0x0C c.mpt (some s.dev.nextId) body := by
    rw [heff]
    dsimp only
    rw [hphase, hf.node, hn]
    rfl
  rw [hgo] at hdev
  obtain ⟨m, hq, horigin, hdata, hr, hcmds⟩ := sendOwn_spec (s.dev.fresh.fetchCmd c) c.n2 0x0C c.mpt (some s.dev.nextId) body
  generalize (s.dev.fresh.fetchCmd c).sendOwn c.n2 0x0C c.mpt (some s.dev.nextId) body = e at hdev hq hr hcmds
  rw [Dev.ownQueue, hf.node] at hq
  rw [← hbody]
  refine ⟨t, m, (by rw [heff] at ht; exact ht), hp, ?_, ?_, horigin, hdata, ?_⟩
  · rw [hdev, Dev.cmdOf, fresh_cmds, hcmds]
    exact fetched_outstanding s c
  · rw [hdev]
    exact hq
  · rw [hdev]
    exact ((hf.set_nodes _).trans hr).trans (fresh_reports e)

end

/-- Settles O46: the two outcomes of each of the three commands. -/
theorem switchingCommands : Obligations.SwitchingCommands := by
  intro s c
  refine ⟨fun h ha => ⟨fun st hst => swoSubmit_serves h ha hst, fun hst => swoSubmit_waits h ha hst⟩,
    fun h => ⟨swoCancel_none h, swoCancel_ends h rfl⟩, fun h => ⟨phaseSend_noNode h, ?_⟩⟩
  rintro q rfl hn
  exact phaseSend_queues h hn

end Sys2Proof.Machine
end

section
/-! SUPPORT. The edges of a switching operation (14 R350, R352, R354, R357): its commit, its edges, and their readback. -/

namespace Sys2Proof.Machine

/-! ### The operation with a number -/

theorem swoAt_id {d : Dev} {id : Nat} {o : SwoOp} (h : d.swoAt id = some o) : o.id = id := by
  simpa using List.find?_some h

/-- An operation that ends is no longer queued. -/
theorem endSwo_swoAt (d : Dev) {o : SwoOp} {id : Nat} (h : o.id = id) (st : Nat) : (d.endSwo o st).swoAt id = none := by
  rw [Dev.swoAt, (endSwo_spec d o st).1.swo, List.find?_eq_none]
  intro x hx
  have hne := (List.mem_filter.1 hx).2
  rw [decide_eq_true_eq, h] at hne
  simpa using hne

theorem endSwo_keepsBits (d : Dev) (o : SwoOp) (st : Nat) : KeepsBits d (d.endSwo o st) := by
  unfold Dev.endSwo
  extract_lets left report counted block
  have hcounted : KeepsBits d counted := .of_regs rfl
  exact (hcounted.trans (finishBlock_keepsBits _ _ _ _ _)).trans (mark_keepsBits _ 11)

/-! ### Commit (14 R354, R357) -/

section
variable {s : State} {id : Nat} {o : SwoOp} (hrun : s.dev.dev = .run) (ho : s.dev.swoAt id = some o)
include hrun ho

theorem swoCommitEffect_due (hc : o.committed = false) (hgo : s.dev.toGo o.t ≤ s.dev.runs (usClk 5)) :
    swoCommitEffect id s.dev.fresh =
      if (s.dev.tb.holdover && s.dev.flag Reg.swoCfg (16 + o.out)) = true then
        (s.dev.fresh.modSwo id (fun _ => { o with committed := true, hold := s.dev.tb.holdover })).endSwo
          { o with committed := true, hold := s.dev.tb.holdover } stHoldover
      else s.dev.fresh.modSwo id (fun _ => { o with committed := true, hold := s.dev.tb.holdover }) := by
  have hat : s.dev.fresh.swoAt id = some o := ho
  have hnot : ¬ (s.dev.fresh.dev ≠ .run ∨ o.committed = true ∨ s.dev.fresh.runs (usClk 5) < s.dev.fresh.toGo o.t) := by
    rintro (h | h | h)
    · exact h hrun
    · rw [hc] at h
      cases h
    · exact absurd hgo (not_le.2 h)
  unfold swoCommitEffect
  rw [hat]
  dsimp only
  rw [if_neg hnot]
  rfl

theorem swoCommit_reaches (hc : o.committed = false) (hgo : s.dev.toGo o.t ≤ s.dev.runs (usClk 5))
    (hh : (s.dev.tb.holdover && s.dev.flag Reg.swoCfg (16 + o.out)) = false) :
    Reaches (exec (.swoCommit id) s) s (s.dev.modSwo id (fun _ => { o with committed := true, hold := s.dev.tb.holdover })) := by
  refine run_reaches (f := swoCommitEffect id) ?_
  rw [swoCommitEffect_due hrun ho hc hgo, if_neg (by rw [hh]; decide)]
  exact (fresh_reports s.dev).modSwo id _

theorem swoCommit_holdover (hc : o.committed = false) (hgo : s.dev.toGo o.t ≤ s.dev.runs (usClk 5))
    (hh : (s.dev.tb.holdover && s.dev.flag Reg.swoCfg (16 + o.out)) = true) :
    ∃ t, exec (.swoCommit id) s = .next t ∧ t.pending = s.pending ∧ t.dev.swoAt id = none ∧ t.dev.cmdOf o.cmd = none ∧
      t.dev.swoLvl = s.dev.swoLvl := by
  obtain ⟨t, ht, hp, hdev⟩ := run_fresh (swoCommitEffect id) s
  rw [swoCommitEffect_due hrun ho hc hgo, if_pos hh] at hdev
  obtain ⟨hr, hend, -⟩ := endSwo_spec (s.dev.fresh.modSwo id (fun _ => { o with committed := true, hold := s.dev.tb.holdover }))
    { o with committed := true, hold := s.dev.tb.holdover } stHoldover
  have hgone := endSwo_swoAt (s.dev.fresh.modSwo id (fun _ => { o with committed := true, hold := s.dev.tb.holdover }))
    (o := { o with committed := true, hold := s.dev.tb.holdover }) (show o.id = id from swoAt_id ho) stHoldover
  refine ⟨t, ht, hp, ?_⟩
  rw [hdev]
  exact ⟨hgone, hend, hr.swoLvl⟩

/-! ### Edges (14 R350, R352) -/

theorem swoEdge_reaches (hc : o.committed = true) (h1 : o.mpt1 = none) (hgo : 2 * s.dev.toGo o.t ≤ s.dev.runs 1) :
    Reaches (exec (.swoEdge id) s) s ((s.dev.drive o.out (s.dev.swoLevel o)).modSwo id (fun x => { x with
      mpt1 := some (s.dev.mptAtNs (2 * s.dev.edgeCycle o.t : Nat)), at1 := s.dev.edgeCycle o.t, checked := false })) := by
  have hat : s.dev.fresh.swoAt id = some o := ho
  have hnot : ¬ (s.dev.fresh.dev ≠ .run ∨ (!o.committed) = true ∨ o.mpt1.isSome = true ∨
      s.dev.fresh.runs 1 < 2 * s.dev.fresh.toGo o.t) := by
    rintro (h | h | h | h)
    · exact h hrun
    · rw [hc] at h
      cases h
    · rw [h1] at h
      cases h
    · exact absurd hgo (not_le.2 h)
  refine run_reaches (f := swoEdgeEffect id) ?_
  unfold swoEdgeEffect
  rw [hat]
  dsimp only
  have hf := fresh_reports s.dev
  rw [if_neg hnot, hf.swoLevel, hf.edgeCycle, hf.mptAtNs]
  exact (hf.drive _ _).modSwo id _

theorem swoPulseEnd_reaches (ha : o.act = 2) (h1 : o.mpt1.isSome = true) (h2 : o.mpt2 = none) (hgo : o.at1 + o.pw ≤ 2 * s.dev.clk + 1) :
    Reaches (exec (.swoPulseEnd id) s) s ((s.dev.drive o.out (bit s.dev.swoIdle o.out)).modSwo id (fun x => { x with
      mpt2 := some (s.dev.mptAtNs (2 * (o.at1 + o.pw) : Nat)), at1 := o.at1 + o.pw, checked := false })) := by
  have hat : s.dev.fresh.swoAt id = some o := ho
  have hnot : ¬ (s.dev.fresh.dev ≠ .run ∨ o.act ≠ 2 ∨ o.mpt1.isNone = true ∨ o.mpt2.isSome = true ∨
      2 * s.dev.fresh.clk + 1 < o.at1 + o.pw) := by
    rintro (h | h | h | h | h)
    · exact h hrun
    · exact h ha
    · rw [Option.isNone_iff_eq_none.1 h] at h1
      cases h1
    · rw [h2] at h
      cases h
    · exact absurd hgo (not_le.2 h)
  refine run_reaches (f := swoPulseEndEffect id) ?_
  unfold swoPulseEndEffect
  rw [hat]
  dsimp only
  have hf := fresh_reports s.dev
  rw [if_neg hnot, hf.swoIdle, hf.mptAtNs]
  exact (hf.drive _ _).modSwo id _

/-! ### Readback (14 R350) -/

/-- A readback that is due notes the pin; after the last edge the operation ends. -/
theorem swoReadbackEffect_due (pin : Bool) (h1 : o.mpt1.isSome = true) (hk : o.checked = false) (hgo : o.at1 + 2 * usClk 1 ≤ 2 * s.dev.clk) :
    ∃ e, Reports s.dev e ∧ ((pin != bit s.dev.swoLvl o.out) = true → e.flag Reg.swoStat 17 = true) ∧
      swoReadbackEffect id pin s.dev.fresh =
        if o.act = 2 ∧ o.mpt2.isNone = true then
          e.modSwo id (fun _ => { o with checked := true, pinFault := o.pinFault || (pin != bit s.dev.swoLvl o.out) })
        else (e.modSwo id (fun _ => { o with checked := true, pinFault := o.pinFault || (pin != bit s.dev.swoLvl o.out) })).endSwo
          { o with checked := true, pinFault := o.pinFault || (pin != bit s.dev.swoLvl o.out) }
          (if (o.pinFault || (pin != bit s.dev.swoLvl o.out)) = true then stPinFault else stOk) := by
  have hat : s.dev.fresh.swoAt id = some o := ho
  have hnot : ¬ (s.dev.fresh.dev ≠ .run ∨ o.mpt1.isNone = true ∨ o.checked = true ∨ 2 * s.dev.fresh.clk < o.at1 + 2 * usClk 1) := by
    rintro (h | h | h | h)
    · exact h hrun
    · rw [Option.isNone_iff_eq_none.1 h] at h1
      cases h1
    · rw [hk] at h
      cases h
    · exact absurd hgo (not_le.2 h)
  refine ⟨if (pin != bit s.dev.swoLvl o.out) = true then s.dev.fresh.raise .swo 17 else s.dev.fresh, ?_, fun hbad => ?_, ?_⟩
  · exact ite_reports ((fresh_reports s.dev).trans (raise_reports _ _ _)) (fresh_reports s.dev)
  · rw [if_pos hbad]
    exact flag_raise (by decide) s.dev.fresh .swo
  · unfold swoReadbackEffect
    rw [hat]
    dsimp only
    rw [if_neg hnot]
    rfl

theorem swoReadback_next (pin : Bool) (h1 : o.mpt1.isSome = true) (hk : o.checked = false) (hgo : o.at1 + 2 * usClk 1 ≤ 2 * s.dev.clk) :
    (o.act = 2 → o.mpt2 = none → Reaches (exec (.swoReadback id pin) s) s
      (s.dev.modSwo id (fun _ => { o with checked := true, pinFault := o.pinFault || (pin != bit s.dev.swoLvl o.out) }))) ∧
    (o.act ≠ 2 ∨ o.mpt2.isSome = true →
      ∃ t, exec (.swoReadback id pin) s = .next t ∧ t.pending = s.pending ∧ t.dev.swoAt id = none ∧ t.dev.cmdOf o.cmd = none ∧
        t.dev.swoLvl = s.dev.swoLvl ∧ ((pin != bit s.dev.swoLvl o.out) = true → t.dev.flag Reg.swoStat 17 = true)) := by
  obtain ⟨e, hr, hflag, heff⟩ := swoReadbackEffect_due hrun ho pin h1 hk hgo
  obtain ⟨x, hx⟩ : ∃ x : SwoOp, x = { o with checked := true, pinFault := o.pinFault || (pin != bit s.dev.swoLvl o.out) } := ⟨_, rfl⟩
  have hid : x.id = id := by rw [hx]; exact (show o.id = id from swoAt_id ho)
  have hcmd : x.cmd = o.cmd := by rw [hx]
  rw [← hx] at heff ⊢
  refine ⟨fun ha h2 => ?_, fun hlast => ?_⟩
  · refine run_reaches (f := swoReadbackEffect id pin) ?_
    rw [heff, if_pos ⟨ha, Option.isNone_iff_eq_none.2 h2⟩]
    exact hr.modSwo id _
  · have hend : ¬ (o.act = 2 ∧ o.mpt2.isNone = true) := by
      rintro ⟨ha, h2⟩
      rcases hlast with h | h
      · exact h ha
      · rw [Option.isNone_iff_eq_none.1 h2] at h
        cases h
    rw [if_neg hend] at heff
    generalize (if (o.pinFault || (pin != bit s.dev.swoLvl o.out)) = true then stPinFault else stOk) = st at heff
    obtain ⟨hrs, hdone, -⟩ := endSwo_spec (e.modSwo id (fun _ => x)) x st
    obtain ⟨t, ht, hp, hdev⟩ := run_fresh (swoReadbackEffect id pin) s
    rw [heff] at hdev
    refine ⟨t, ht, hp, ?_⟩
    rw [hdev, fresh_flag, ← hcmd]
    exact ⟨endSwo_swoAt _ hid st, hdone, hrs.swoLvl.trans hr.swoLvl,
      fun hbad => endSwo_keepsBits (e.modSwo id (fun _ => x)) x st Reg.swoStat 17 (by decide) (hflag hbad)⟩

end

/-- Settles O47: an operation's commit, its edges, and the readback of each. -/
theorem switchingEdges : Obligations.SwitchingEdges := fun _ _ _ hrun ho =>
  ⟨fun hc hgo => ⟨swoCommit_reaches hrun ho hc hgo, swoCommit_holdover hrun ho hc hgo⟩, swoEdge_reaches hrun ho,
    swoPulseEnd_reaches hrun ho, swoReadback_next hrun ho⟩

end Sys2Proof.Machine
end

section
/-! SUPPORT. The checks of Table CE.2 in their order (16 R392-R396), and the entry that a completion takes on CMDC (15 R381, R382). -/

namespace Sys2Proof.Machine

/-! ### A command that is not this row's (16 R392) -/

theorem command_skips {sp : CmdSpec} {obj arg : Dev → CmdDesc → Bool} {eff : Nat → CmdDesc → Dev → Dev} {c : CmdDesc} {d : Dev}
    (h : d.cmdReady = false ∨ (c.dt = 4 ∧ (cmdStates c.opc.toNat).isSome = true ∧ c.opc.toNat ≠ sp.opc)) :
    command sp obj arg eff c d = d := by
  unfold command
  rcases h with h | h
  · exact if_pos (by rw [h]; rfl)
  · rw [if_pos h]
    exact ite_self _

/-! ### The first check that fails (16 Table CE.2) -/

/-- A row's command is on the ring: the ring yields it, and no other row's code stands in it. -/
def OnRing (s : State) (c : CmdDesc) (sp : CmdSpec) : Prop :=
  s.dev.cmdReady = true ∧ ¬ (c.dt = 4 ∧ (cmdStates c.opc.toNat).isSome = true ∧ c.opc.toNat ≠ sp.opc)

section
variable {s : State} {c : CmdDesc} {sp : CmdSpec} {obj arg : Dev → CmdDesc → Bool} {eff : Nat → CmdDesc → Dev → Dev} {st : Nat}

/-- Before it completes, a failed command has been fetched, and a failed read of its block has been reported. -/
theorem command_refused (h : OnRing s c sp) (hj : judge sp (obj s.dev.fresh c) (arg s.dev.fresh c) s.dev.fresh c = some st) :
    command sp obj arg eff c s.dev.fresh = (if blockReadFails sp (obj s.dev.fresh c) s.dev.fresh c = true then
      (s.dev.fresh.fetchCmd c).reportAer 0 else s.dev.fresh.fetchCmd c).finishSt s.dev.nextId st := by
  obtain ⟨hready, hrow⟩ := h
  have hr : ¬ (!s.dev.fresh.cmdReady) = true := by rw [show s.dev.fresh.cmdReady = true from hready]; decide
  unfold command
  rw [if_neg hr, if_neg hrow]
  dsimp only
  rw [hj]
  rfl

theorem refused_serves (h : OnRing s c sp) (hj : judge sp (obj s.dev.fresh c) (arg s.dev.fresh c) s.dev.fresh c = some st) :
    Serves (run (command sp obj arg eff c) s) s s.dev st [] := by
  have hf := fetched_reports s c
  have hq : Quiet (s.dev.fresh.fetchCmd c) (if blockReadFails sp (obj s.dev.fresh c) s.dev.fresh c = true then
      (s.dev.fresh.fetchCmd c).reportAer 0 else s.dev.fresh.fetchCmd c) := ite_quiet (modFn_quiet _ 0 _) (Quiet.refl _)
  rw [run_next, command_refused h hj]
  refine ⟨_, _, rfl, rfl, hf.trans hq.1, ?_, rfl, rfl⟩
  rw [hq.cmdOf]
  exact fetched_outstanding s c

end

/-! ### The checks in their order -/

section
variable {sp : CmdSpec} {obj arg : Bool} {d : Dev} {c : CmdDesc}

theorem judge_desc (h : c.dt ≠ 4) : judge sp obj arg d c = some stDesc := if_pos h

theorem judge_unsupported (h : c.dt = 4) (ho : cmdStates c.opc.toNat = none) : judge sp obj arg d c = some stUnsupported :=
  (if_neg (not_not.2 h)).trans (if_pos ho)

theorem judge_badState (h : c.dt = 4) (ho : cmdStates c.opc.toNat ≠ none) (ha : (d.accepts c.opc.toNat && obj) = false) :
    judge sp obj arg d c = some stBadState :=
  (if_neg (not_not.2 h)).trans ((if_neg ho).trans (if_pos (by rw [ha]; rfl)))

theorem judge_invalid (h : c.dt = 4) (ho : cmdStates c.opc.toNat ≠ none) (ha : (d.accepts c.opc.toNat && obj) = true)
    (hargs : (raddrOk sp.needR c && blockOk (sp.len c) c && argsOk sp c) = false) : judge sp obj arg d c = some stInvalid := by
  unfold judge
  rw [if_neg (not_not.2 h), if_neg ho, if_neg (by rw [ha]; decide)]
  by_cases hr : raddrOk sp.needR c = true
  · by_cases hb : blockOk (sp.len c) c = true
    · rw [hr, hb, Bool.true_and, Bool.true_and] at hargs
      rw [if_neg (by rw [hr]; decide), if_neg (by rw [hb]; decide), if_pos (by rw [hargs]; rfl)]
    · rw [if_neg (by rw [hr]; decide), if_pos (by rw [Bool.not_eq_true] at hb; rw [hb]; rfl)]
  · rw [if_pos (by rw [Bool.not_eq_true] at hr; rw [hr]; rfl)]

end

/-! ### The entry of a completion (15 R381, R382) -/

/-- What a completion's entry is made of on a ring: where it lies, and its phase. -/
def Ring.place (r : Ring) : BitVec 64 × Nat × BitVec 32 := (r.base, r.lg, r.devIdx)

theorem withPhase_place {r r' : Ring} (h : r'.place = r.place) (bs : List Byte) : withPhase r' bs = withPhase r bs := by
  simp only [Ring.place, Prod.mk.injEq] at h
  obtain ⟨-, hlg, hidx⟩ := h
  unfold withPhase phaseBit Ring.size
  rw [hlg, hidx]

/-- The write of an entry to CMDC. -/
def cmdcWrite (r : Ring) (bs : List Byte) : Nat × List Byte :=
  ((r.base.toNat + r.devIdx.toNat % r.size * 16) % 2 ^ 64, fit 16 (withPhase r bs))

theorem cmdcWrite_place {r r' : Ring} (h : r'.place = r.place) (bs : List Byte) : cmdcWrite r' bs = cmdcWrite r bs := by
  have hphase := withPhase_place h bs
  simp only [Ring.place, Prod.mk.injEq] at h
  obtain ⟨hbase, hlg, hidx⟩ := h
  unfold cmdcWrite Ring.size
  rw [hphase, hbase, hlg, hidx]

/-- One completion owed to a CMDC that has room is written at once. -/
theorem payOwed_posted {d : Dev} {bs : List Byte} (ho : (d.ring 1).owed = [bs]) (hroom : (d.ring 1).unread < (d.ring 1).size)
    (hb : (d.fn 0).bme = true) : (d.payOwed 1).posted = d.posted ++ [cmdcWrite (d.ring 1) bs] := by
  have hwrite : ∀ e : Dev, (e.fn 0).bme = true → (e.writeEntry 1 (withPhase (e.ring 1) bs)).posted = e.posted ++ [cmdcWrite (e.ring 1) bs] := by
    intro e he
    unfold Dev.writeEntry
    rw [modRing_posted, Dev.hostWrite, if_pos (show (e.fn (ringFn 1)).bme = true from he)]
    rfl
  have htake : (d.ring 1).owed.take ((d.ring 1).size - (d.ring 1).unread) = [bs] := by
    rw [ho]
    exact List.take_of_length_le (by simp only [List.length_singleton]; omega)
  unfold Dev.payOwed
  dsimp only
  rw [htake, if_neg (List.cons_ne_nil _ _), List.foldl_cons, List.foldl_nil]
  have hpaid : (((d.modRing 1 (fun r => { r with owed := r.owed.drop ((d.ring 1).size - (d.ring 1).unread) })).ring 1)).place = (d.ring 1).place := by
    rw [ring_modRing_same]
    rfl
  have hall := hwrite (d.modRing 1 (fun r => { r with owed := r.owed.drop ((d.ring 1).size - (d.ring 1).unread) })) hb
  rw [cmdcWrite_place hpaid] at hall
  split <;> simpa only [modRing_posted] using hall

theorem complete_posted {d : Dev} {bs : List Byte} (hst : (d.ring 1).st = .enabled) (ho : (d.ring 1).owed = [])
    (hroom : (d.ring 1).unread < (d.ring 1).size) (hb : (d.fn 0).bme = true) :
    (d.complete 0 bs).posted = d.posted ++ [cmdcWrite (d.ring 1) bs] := by
  have howed : (d.modRing 1 (fun r => { r with owed := r.owed ++ [bs] })).ring 1 = { d.ring 1 with owed := (d.ring 1).owed ++ [bs] } := ring_modRing_same d 1 _
  unfold Dev.complete
  dsimp only
  rw [hst]
  dsimp only
  have hpaid := payOwed_posted (d := d.modRing 1 (fun r => { r with owed := r.owed ++ [bs] })) (bs := bs) (by rw [howed, ho]; rfl)
    (by rw [howed]; exact hroom) hb
  rw [cmdcWrite_place (r := d.ring 1) (by rw [howed]; rfl)] at hpaid
  exact hpaid

/-! ### A fetched command's completion -/

/-- CMDC after a fetch: the entry is reserved, its place is as it was. -/
theorem fetchCmd_ring1 (d : Dev) (c : CmdDesc) :
    ∃ n, (d.fetchCmd c).ring 1 = { d.ring 1 with rsvd := (d.ring 1).rsvd + 1, loss := n } := by
  unfold Dev.fetchCmd
  extract_lets idx taken reserved outstanding
  have htaken : taken.ring 1 = d.ring 1 := ring_modRing_ne (by decide) d _
  have hreserved : reserved.ring 1 = { taken.ring 1 with rsvd := (taken.ring 1).rsvd + 1 } := ring_modRing_same taken 1 _
  rw [htaken] at hreserved
  have hout : outstanding.ring 1 = reserved.ring 1 := rfl
  clear_value outstanding
  obtain ⟨n, hn⟩ := (mark_told (outstanding.modAcct 12 (fun a => { a with produced := a.produced + 1 })) 12).loss 1
  exact ⟨n, by rw [hn, modAcct_ring, hout, hreserved]⟩

/-- A fetch of a command where none is outstanding makes it the one that is; functions and posted writes stand. -/
theorem fetchCmd_only (d : Dev) (c : CmdDesc) (hc : d.cmds = []) :
    (d.fetchCmd c).cmds = [{ id := d.nextId, idx := (d.ring 0).devIdx, desc := c, start := d.clk, report := true }] ∧
      (d.fetchCmd c).fns = d.fns ∧ (d.fetchCmd c).posted = d.posted := by
  unfold Dev.fetchCmd
  extract_lets idx taken reserved outstanding
  have hcmds : outstanding.cmds = d.cmds ++ [{ id := d.nextId, idx := (d.ring 0).devIdx, desc := c, start := d.clk, report := true }] := rfl
  have hfns : outstanding.fns = d.fns := rfl
  have hposted : outstanding.posted = d.posted := rfl
  rw [hc, List.nil_append] at hcmds
  clear_value outstanding
  have ht := mark_told (outstanding.modAcct 12 (fun a => { a with produced := a.produced + 1 })) 12
  exact ⟨ht.cmds.trans hcmds, ht.fns.trans hfns, ht.posted.trans hposted⟩

/-- The completion of the only command outstanding is the one write of a step. -/
theorem finish_posted {d : Dev} {x : Cmd} (hc : d.cmds = [x]) (hx : x.report = true) (hst : (d.ring 1).st = .enabled)
    (ho : (d.ring 1).owed = []) (hroom : (d.ring 1).unread < (d.ring 1).size) (hb : (d.fn 0).bme = true) (st : Nat) (q : List Byte) :
    (d.finish x.id st q).posted = d.posted ++ [cmdcWrite (d.ring 1) (completionBytes x.desc.cookie.toNat x.idx.toNat st 3 q)] := by
  have hat : d.cmdOf x.id = some x := by
    rw [Dev.cmdOf, hc]
    simp
  unfold Dev.finish
  rw [hat]
  dsimp only
  rw [if_pos hx, (mark_told _ 12).posted]
  exact complete_posted hst ho hroom hb

section
variable {s : State} {c : CmdDesc} {sp : CmdSpec} {obj arg : Dev → CmdDesc → Bool} {eff : Nat → CmdDesc → Dev → Dev}

theorem cmdReady_room {d : Dev} (h : d.cmdReady = true) : (d.ring 1).unread + (d.ring 1).rsvd < (d.ring 1).size := by
  simp only [Dev.cmdReady, Bool.and_eq_true, decide_eq_true_eq] at h
  obtain ⟨⟨⟨-, hfree⟩, -⟩, -⟩ := h
  unfold Ring.freeEntries at hfree
  omega

/-- A descriptor of another type completes with ST_DESC, in CMDC's entry at its device index. -/
theorem descRefused_writes (h : OnRing s c sp) (hd : c.dt ≠ 4) (hc : s.dev.cmds = []) (hst : (s.dev.ring 1).st = .enabled)
    (ho : (s.dev.ring 1).owed = []) (hb : (s.dev.fn 0).bme = true) :
    ∃ t, run (command sp obj arg eff c) s = .next t ∧ t.hostMem = Memory.commit s.hostMem
      [cmdcWrite (s.dev.ring 1) (completionBytes c.cookie.toNat (s.dev.ring 0).devIdx.toNat stDesc 3 [])] := by
  have hnoread : ¬ blockReadFails sp (obj s.dev.fresh c) s.dev.fresh c = true := by
    unfold blockReadFails
    rw [decide_eq_false hd]
    simp
  obtain ⟨hcmds, hfns, hposted⟩ := fetchCmd_only s.dev.fresh c hc
  obtain ⟨n, hring⟩ := fetchCmd_ring1 s.dev.fresh c
  have hroom := cmdReady_room h.1
  have hwrite := finish_posted (d := s.dev.fresh.fetchCmd c) hcmds rfl (by rw [hring]; exact hst) (by rw [hring]; exact ho)
    (by rw [hring]; exact Nat.lt_of_le_of_lt (Nat.le_add_right _ _) hroom) (by rw [Dev.fn, hfns]; exact hb) stDesc []
  rw [cmdcWrite_place (r := s.dev.ring 1) (by rw [hring]; rfl), hposted] at hwrite
  rw [run_next, command_refused h (judge_desc hd), if_neg hnoread]
  exact ⟨_, rfl, congrArg (Memory.commit s.hostMem) hwrite⟩

end

/-! ### A row's checks -/

/-- A row of the table: its instruction is the command of its description, and asks nothing of an object's state. -/
def IsRow (s : State) (c : CmdDesc) (x : Instr × CmdSpec) : Prop :=
  (cmdStates x.2.opc).isSome = true ∧
    ∃ (arg : Dev → CmdDesc → Bool) (eff : Nat → CmdDesc → Dev → Dev), exec x.1 s = run (command x.2 always arg eff c) s

theorem row_checks {s : State} {c : CmdDesc} {x : Instr × CmdSpec} (h : IsRow s c x) :
    (s.dev.cmdReady = false ∨ (c.dt = 4 ∧ (cmdStates c.opc.toNat).isSome = true ∧ c.opc.toNat ≠ x.2.opc) →
        ∃ t, exec x.1 s = .next t ∧ t.dev = s.dev.fresh ∧ t.hostMem = s.hostMem ∧ t.pending = s.pending) ∧
      (s.dev.cmdReady = true →
        (c.dt ≠ 4 → Serves (exec x.1 s) s s.dev stDesc []) ∧
        (c.dt = 4 → cmdStates c.opc.toNat = none → Serves (exec x.1 s) s s.dev stUnsupported []) ∧
        (c.dt = 4 → c.opc.toNat = x.2.opc → s.dev.accepts x.2.opc = false → Serves (exec x.1 s) s s.dev stBadState []) ∧
        (c.dt = 4 → c.opc.toNat = x.2.opc → s.dev.accepts x.2.opc = true →
          (raddrOk x.2.needR c && blockOk (x.2.len c) c && argsOk x.2 c) = false → Serves (exec x.1 s) s s.dev stInvalid []) ∧
        (c.dt ≠ 4 → s.dev.cmds = [] → (s.dev.ring 1).st = .enabled → (s.dev.ring 1).owed = [] → (s.dev.fn 0).bme = true →
          ∃ t, exec x.1 s = .next t ∧ t.hostMem = Memory.commit s.hostMem
            [(((s.dev.ring 1).base.toNat + (s.dev.ring 1).devIdx.toNat % (s.dev.ring 1).size * 16) % 2 ^ 64,
              fit 16 (withPhase (s.dev.ring 1) (completionBytes c.cookie.toNat (s.dev.ring 0).devIdx.toNat stDesc 3 [])))])) := by
  obtain ⟨hlisted, arg, eff, hexec⟩ := h
  have hstates : ∀ o, o = x.2.opc → cmdStates o ≠ none := fun o ho hn => by
    rw [← ho, hn] at hlisted
    cases hlisted
  rw [hexec]
  refine ⟨fun hskip => ?_, fun hready => ⟨fun hd => ?_, fun hd ho => ?_, fun hd ho ha => ?_, fun hd ho ha hargs => ?_, fun hd => ?_⟩⟩
  · obtain ⟨t, ht, hp, hm, hdev⟩ := run_gives (command_skips (d := s.dev.fresh) hskip) rfl
    exact ⟨t, ht, hdev, hm, hp⟩
  · exact refused_serves ⟨hready, fun h => hd h.1⟩ (judge_desc hd)
  · exact refused_serves ⟨hready, fun h => by rw [ho] at h; exact absurd h.2.1 (by decide)⟩ (judge_unsupported hd ho)
  · exact refused_serves ⟨hready, fun h => h.2.2 ho⟩
      (judge_badState hd (hstates _ ho) (by rw [ho, show s.dev.fresh.accepts x.2.opc = false from ha]; rfl))
  · exact refused_serves ⟨hready, fun h => h.2.2 ho⟩
      (judge_invalid hd (hstates _ ho) (by rw [ho, show s.dev.fresh.accepts x.2.opc = true from ha]; rfl) hargs)
  · exact descRefused_writes ⟨hready, fun h => hd h.1⟩ hd

/-- Settles O60: every row's checks are those of the table. -/
theorem commandChecks : Obligations.CommandChecks := by
  intro s c readFail io rows x hx
  refine row_checks (?_ : IsRow s c x)
  revert x
  simp only [rows, List.forall_mem_cons]
  refine ⟨?_, ?_, ?_, ?_, ?_, ?_, ?_, ?_, ?_, ?_, ?_, ?_, ?_, ?_, ?_, ?_, ?_, ?_, ?_, fun _ h => absurd h List.not_mem_nil⟩ <;>
    exact ⟨rfl, _, _, rfl⟩

end Sys2Proof.Machine
end

section
/-! SUPPORT. Counters, sweeps and captures (20 R461-R468, 16 R403): what waits for a sweep, its start, the tagger's settings, and the records of a
capture. -/

namespace Sys2Proof.Machine

/-! ### The counters' record under reports -/

section
variable {a b : Dev} (h : Reports a b)
include h

/-- Devices that differ by reports have one record of counters but for the counters themselves. -/
theorem Reports.cnts_eq : b.cnts = { a.cnts with cells := b.cnts.cells } := by
  have hcore : ({ b.cnts with cells := [] } : Counts) = { a.cnts with cells := [] } := congrArg Core.cnts h.1
  exact congrArg (fun x : Counts => { x with cells := b.cnts.cells }) hcore

theorem Reports.set_cnts (x y : Counts) (hxy : y = { x with cells := y.cells }) : Reports { a with cnts := x } { b with cnts := y } := by
  refine ⟨?_, h.2⟩
  rw [hxy]
  exact congrArg (fun c => { c with cnts := { x with cells := [] } }) h.1

/-- The counters' record may change in any way on both sides. -/
theorem Reports.with_cnts (x : Counts) : Reports { a with cnts := x } { b with cnts := x } := h.set_cnts x x rfl

end

/-! ### CNT_SET (20 R465, R467) -/

/-- An accepted command with its block passes the row's own check. -/
theorem cntWords_ok {c : CmdDesc} {w : Nat} (hb : c.ablk = true) (hw : cntWords c.bytes = [w]) (hok : cntEntryOk w = true) :
    (c.ablk && (cntWords c.bytes).all cntEntryOk) = true := by
  rw [hb, hw, List.all_cons, hok]
  rfl

theorem fetchCmd_settings (d : Dev) (c : CmdDesc) (i : Nat) :
    ((d.fetchCmd c).counter i).sel = (d.counter i).sel ∧ ((d.fetchCmd c).counter i).pend = (d.counter i).pend := by
  unfold Dev.fetchCmd
  extract_lets idx taken reserved outstanding
  have hcnts : outstanding.cnts = d.cnts := rfl
  have hout : outstanding.counter i = d.counter i := congrArg (fun x : Counts => SMap.get (fun _ => Counter.init) i x.cells) hcnts
  clear_value outstanding
  have ht := (mark_told (outstanding.modAcct 12 (fun a => { a with produced := a.produced + 1 })) 12).settings i
  rw [modAcct_counter, hout] at ht
  exact ht

theorem cntSet_next {s : State} {c : CmdDesc} {w : Nat}
    (h : Accepted s c { CmdSpec.plain 0x51 with len := fun _ n => decide (n % 4 = 0 ∧ n ≤ 2688) })
    (hb : c.ablk = true) (hw : cntWords c.bytes = [w]) (hok : cntEntryOk w = true) :
    ∃ t, exec (.cntSet c) s = .next t ∧ t.pending = s.pending ∧ (t.dev.cmdOf s.dev.nextId).isSome = true ∧
      Reports { s.dev with cnts := t.dev.cnts } t.dev ∧ t.dev.cnts.sets = s.dev.cnts.sets ++ [s.dev.nextId] ∧
      (bit w 1 = true → (t.dev.counter (bits w 15 6)).pend = some (BitVec.ofNat 16 (bits w 31 16))) ∧
      (bit w 2 = true → (t.dev.counter (bits w 15 6)).clr = true) ∧
      ∀ i, (t.dev.counter i).sel = (s.dev.counter i).sel ∧ (i ≠ bits w 15 6 → (t.dev.counter i).pend = (s.dev.counter i).pend) := by
  have hf := fetched_reports s c
  have hset := fetchCmd_settings s.dev.fresh c
  obtain ⟨t, ht, hp, hdev⟩ := command_next h (obj := always) (arg := fun _ c => c.ablk && (cntWords c.bytes).all cntEntryOk) rfl
    (cntWords_ok hb hw hok) (eff := fun id c d =>
      let d := (cntWords c.bytes).foldl (fun d w => d.cntPend (cntEntry w)) d
      { d with cnts := { d.cnts with sets := d.cnts.sets ++ [id] } })
  rw [hw] at hdev
  have hout := fetched_outstanding s c
  generalize s.dev.fresh.fetchCmd c = d at hdev hf hset hout
  have hpend : ∀ i, t.dev.counter i = (d.cntPend (cntEntry w)).counter i := fun i => by rw [hdev]; rfl
  have hat : t.dev.counter (bits w 15 6) = { d.counter (bits w 15 6) with
      pend := if bit w 1 = true then some (BitVec.ofNat 16 (bits w 31 16)) else (d.counter (bits w 15 6)).pend
      clr := (d.counter (bits w 15 6)).clr || bit w 2 } := (hpend _).trans (counter_modCounter_same d _ _)
  have hne : ∀ i, i ≠ bits w 15 6 → t.dev.counter i = d.counter i := fun i hi => (hpend i).trans (counter_modCounter_ne hi d _)
  refine ⟨t, ht, hp, ?_, ?_, ?_, fun h1 => ?_, fun h2 => ?_, fun i => ⟨?_, fun hi => ?_⟩⟩
  · rw [hdev]
    exact hout
  · rw [hdev]
    exact hf.with_cnts _
  · rw [hdev, ← hf.cnts_sets]
    rfl
  · rw [hat, if_pos h1]
  · rw [hat, h2, Bool.or_true]
  · by_cases hi : i = bits w 15 6
    · rw [hi, hat]
      exact (hset _).1
    · rw [hne i hi]
      exact (hset i).1
  · rw [hne i hi]
    exact (hset i).2

/-! ### Sweeps (20 R463-R466) -/

/-- A change of every counter of a map that leaves an unlisted one as it is. -/
theorem SMap.get_map_of_fix {β : Type} (dflt : Nat → β) (f : β → β) (i : Nat) (hfix : f (dflt i) = dflt i) (m : List (Nat × β)) :
    SMap.get dflt i (m.map (fun e => (e.1, f e.2))) = f (SMap.get dflt i m) := by
  induction m with
  | nil => exact hfix.symm
  | cons e m ih =>
    rw [List.map_cons, SMap.get, SMap.get]
    split
    · rfl
    · exact ih

theorem startSweep_counter (d : Dev) (i : Nat) : d.startSweep.counter i = (d.counter i).bound :=
  SMap.get_map_of_fix _ Counter.bound i rfl d.cnts.cells

theorem sweepDue_of {d : Dev} (hc : d.dev.clocked = true) (hi : d.cnts.ix = none)
    (hdue : if d.flag Reg.cntCtrl 0 = true then d.cnts.swept + usClk d.cnts.us ≤ d.clk else d.cnts.snaps ≠ []) :
    d.sweepDue = true := by
  unfold Dev.sweepDue
  rw [hc, hi]
  split at hdue
  · next h =>
    rw [if_pos h]
    exact decide_eq_true hdue
  · next h =>
    rw [if_neg h]
    simpa using hdue

theorem counterSweep_begins {s : State} (hc : s.dev.dev.clocked = true) (hi : s.dev.cnts.ix = none)
    (hdue : if s.dev.flag Reg.cntCtrl 0 = true then s.dev.cnts.swept + usClk s.dev.cnts.us ≤ s.dev.clk else s.dev.cnts.snaps ≠ []) :
    ∃ t, exec .counterSweep s = .next t ∧ t.pending = s.pending ∧ t.hostMem = s.hostMem ∧
      Reports { s.dev with cnts := t.dev.cnts } t.dev ∧
      t.dev.cnts = { s.dev.cnts with
        cells := t.dev.cnts.cells, ix := some 0, mpt := s.dev.mpt, swept := s.dev.clk, us := s.dev.fld Reg.cntSweep 19 0
        dueSets := s.dev.cnts.dueSets ++ s.dev.cnts.sets, dueSnaps := s.dev.cnts.dueSnaps ++ s.dev.cnts.snaps, sets := [], snaps := [] } ∧
      ∀ i, t.dev.counter i = (s.dev.counter i).bound := by
  have heff : counterSweepEffect s.dev.fresh = s.dev.fresh.startSweep := if_pos (sweepDue_of (d := s.dev.fresh) hc hi hdue)
  obtain ⟨t, ht, hp, hm, hdev⟩ := run_gives heff rfl
  refine ⟨t, ht, hp, hm, ?_, ?_, fun i => ?_⟩
  · rw [hdev]
    exact (fresh_reports s.dev).with_cnts _
  · rw [hdev]
    rfl
  · rw [hdev]
    exact startSweep_counter s.dev.fresh i

theorem counterSweep_runs {s : State} (hi : s.dev.cnts.ix ≠ none) : Reaches (exec .counterSweep s) s s.dev := by
  have hnot : ¬ s.dev.fresh.sweepDue = true := by
    intro h
    simp only [Dev.sweepDue, Bool.and_eq_true] at h
    exact hi (Option.isNone_iff_eq_none.1 h.1.2)
  refine run_reaches (f := counterSweepEffect) ?_
  unfold counterSweepEffect
  rw [if_neg hnot]
  exact fresh_reports s.dev

/-! ### CNT_SNAP (20 R466) -/

section
variable {s : State} {c : CmdDesc} (h : Accepted s c { CmdSpec.plain 0x52 with needR := true })
include h

theorem cntSnap_waits (hs : s.dev.flag Reg.cntCtrl 0 = true ∨ s.dev.cnts.ix ≠ none) :
    Waits (exec (.cntSnap c) s) s { s.dev with cnts := { s.dev.cnts with snaps := s.dev.cnts.snaps ++ [s.dev.nextId] } } := by
  have hf := fetched_reports s c
  obtain ⟨d, hd⟩ : ∃ d, d = s.dev.fresh.fetchCmd c := ⟨_, rfl⟩
  rw [← hd] at hf
  have hnot : ¬ (!d.flag Reg.cntCtrl 0 && ({ d with cnts := { d.cnts with snaps := d.cnts.snaps ++ [s.dev.nextId] } } : Dev).sweepDue) = true := by
    rw [hf.flag (by decide)]
    intro hx
    rw [Bool.and_eq_true, Bool.not_eq_true'] at hx
    rcases hs with hs | hs
    · rw [hs] at hx
      cases hx.1
    · have hnone := hx.2
      simp only [Dev.sweepDue, Bool.and_eq_true] at hnone
      rw [hf.cnts_eq] at hnone
      exact hs (Option.isNone_iff_eq_none.1 hnone.1.2)
  refine command_waits (f := { d with cnts := { d.cnts with snaps := d.cnts.snaps ++ [s.dev.nextId] } }) h rfl rfl
    (by rw [hd] at hnot ⊢; exact if_neg hnot) (hf.set_cnts _ _ ?_) (by rw [hd])
  rw [hf.cnts_eq]

theorem cntSnap_begins (hs : s.dev.flag Reg.cntCtrl 0 = false) (hi : s.dev.cnts.ix = none) :
    ∃ t, exec (.cntSnap c) s = .next t ∧ t.pending = s.pending ∧ (t.dev.cmdOf s.dev.nextId).isSome = true ∧
      Reports { s.dev with cnts := t.dev.cnts } t.dev ∧ t.dev.cnts.ix = some 0 ∧ t.dev.cnts.snaps = [] ∧
      t.dev.cnts.dueSnaps = s.dev.cnts.dueSnaps ++ s.dev.cnts.snaps ++ [s.dev.nextId] := by
  have hf := fetched_reports s c
  have hout := fetched_outstanding s c
  have hlive : s.dev.dev.clocked = true := by
    have hr := h.1
    simp only [Dev.cmdReady, Bool.and_eq_true] at hr
    obtain ⟨⟨⟨⟨⟨hl, -⟩, -⟩, -⟩, -⟩, -⟩ := hr
    exact hl
  obtain ⟨d, hd⟩ : ∃ d, d = s.dev.fresh.fetchCmd c := ⟨_, rfl⟩
  rw [← hd] at hf hout
  have hoff : d.flag Reg.cntCtrl 0 = false := (hf.flag (by decide) 0).trans hs
  have hdue : ({ d with cnts := { d.cnts with snaps := d.cnts.snaps ++ [s.dev.nextId] } } : Dev).sweepDue = true := by
    refine sweepDue_of ?_ ?_ ?_
    · exact (congrArg DevState.clocked hf.dev).trans hlive
    · exact (congrArg Counts.ix hf.cnts_eq).trans hi
    · rw [if_neg (by rw [show ({ d with cnts := { d.cnts with snaps := d.cnts.snaps ++ [s.dev.nextId] } } : Dev).flag Reg.cntCtrl 0 =
        d.flag Reg.cntCtrl 0 from rfl, hoff]; decide)]
      exact List.append_ne_nil_of_right_ne_nil _ (List.cons_ne_nil _ _)
  obtain ⟨t, ht, hp, hdev⟩ := command_next h (obj := always) (arg := always) rfl rfl (eff := fun id _ d =>
    let d := { d with cnts := { d.cnts with snaps := d.cnts.snaps ++ [id] } }
    if !d.flag Reg.cntCtrl 0 && d.sweepDue then d.startSweep else d)
  rw [← hd] at hdev
  have hstart : t.dev = ({ d with cnts := { d.cnts with snaps := d.cnts.snaps ++ [s.dev.nextId] } } : Dev).startSweep.fresh := by
    rw [hdev]
    exact congrArg Dev.fresh (if_pos (by rw [Bool.and_eq_true, Bool.not_eq_true']; exact ⟨hoff, hdue⟩))
  refine ⟨t, ht, hp, ?_, ?_, ?_, ?_, ?_⟩
  · rw [hstart]
    exact hout
  · rw [hstart]
    exact hf.with_cnts _
  · rw [hstart]
    rfl
  · rw [hstart]
    rfl
  · rw [hstart, List.append_assoc, ← (congrArg Counts.dueSnaps hf.cnts_eq :), ← hf.cnts_snaps]
    rfl

end

/-- Settles O42: CNT_SET, a sweep that starts or runs, and CNT_SNAP. -/
theorem counterSweeps : Obligations.CounterSweeps := fun _ =>
  ⟨fun _ _ h hb hw hok => cntSet_next h hb hw hok, counterSweep_begins, counterSweep_runs,
    fun _ h => ⟨cntSnap_waits h, cntSnap_begins h⟩⟩

end Sys2Proof.Machine
end

section
/-! SUPPORT. The tagger's settings and captures (20 R468, 16 R403). -/

namespace Sys2Proof.Machine

/-! ### TRACE_CFG (20 R468) -/

/-- A command that ends leaves the tagger's group. -/
theorem finish_tagger (d : Dev) (id st : Nat) (q : List Byte) :
    (d.finish id st q).fld Reg.cntStat 12 8 = d.fld Reg.cntStat 12 8 := by
  have hregs : ∀ {a b : Dev}, b.regs = a.regs → b.fld Reg.cntStat 12 8 = a.fld Reg.cntStat 12 8 := fun h => by
    unfold Dev.fld Dev.reg
    rw [h]
  unfold Dev.finish
  split
  · rfl
  · dsimp only
    rw [(mark_told _ 12).tagger]
    split
    · exact hregs (complete_regs _ _ _)
    · rfl

section
variable {s : State} {c : CmdDesc}

/-- The tagger's configuration. -/
def Dev.traceRegs (d : Dev) (b : List Byte) : Dev :=
  (((d.setFld Reg.cntClv 31 16 (leAt b 0 2)).setFld Reg.cntClv 15 5 (leAt b 8 2)).setFld Reg.cntClv 4 4 (byteAt b 2)).setFld Reg.cntClvSeed 30 0
    (leAt b 4 4)

/-- The tagger's register takes a seed. -/
def Dev.seeded (d : Dev) (n : Nat) : Dev := { d with cnts := { d.cnts with lfsr := n } }

/-- What TRACE_CFG writes. -/
def Dev.traceSet (d : Dev) (b : List Byte) : Dev :=
  ((d.traceRegs b).setFld Reg.cntStat 12 8 (byteAt b 3)).seeded (leAt b 4 4)

theorem seeded_fld (d : Dev) (n off hi lo : Nat) : (d.seeded n).fld off hi lo = d.fld off hi lo := rfl

theorem Reports.seeded {a d : Dev} (h : Reports a d) (n : Nat) : Reports (a.seeded n) (d.seeded n) := by
  refine h.set_cnts { a.cnts with lfsr := n } { d.cnts with lfsr := n } ?_
  rw [h.cnts_eq]

theorem Reports.traceRegs {a d : Dev} (h : Reports a d) (b : List Byte) : Reports (a.traceRegs b) (d.traceRegs b) :=
  (((h.setFld (off := Reg.cntClv) (by decide) 31 16 _).setFld (off := Reg.cntClv) (by decide) 15 5 _).setFld
    (off := Reg.cntClv) (by decide) 4 4 _).setFld (off := Reg.cntClvSeed) (by decide) 30 0 _

theorem Reports.traceSet {a d : Dev} (h : Reports a d) (b : List Byte) : Reports ((a.traceRegs b).seeded (leAt b 4 4)) (d.traceSet b) :=
  ((h.traceRegs b).trans (setFld_reports statusOff_cnt _ 12 8 (byteAt b 3))).seeded (leAt b 4 4)

theorem traceSet_group (d : Dev) {b : List Byte} (h : byteAt b 3 < 32) : (d.traceSet b).fld Reg.cntStat 12 8 = byteAt b 3 := by
  rw [Dev.traceSet, seeded_fld, fld_setFld_same (by decide) (by decide)]
  exact Nat.mod_eq_of_lt h

theorem seeded_cmds (d : Dev) (n : Nat) : (d.seeded n).cmds = d.cmds := rfl

theorem traceSet_cmds (d : Dev) (b : List Byte) : (d.traceSet b).cmds = d.cmds := by
  rw [Dev.traceSet, Dev.traceRegs, seeded_cmds, setFld_cmds, setFld_cmds, setFld_cmds, setFld_cmds, setFld_cmds]

theorem exec_traceCfg (s : State) (c : CmdDesc) :
    exec (.traceCfg c) s = run (command { CmdSpec.plain 0x53 with len := fun _ n => decide (n = 16) } always
      (fun _ c => c.ablk && decide (byteAt c.bytes 2 < 2 ∧ byteAt c.bytes 3 < 32 ∧ leAt c.bytes 4 4 ≠ 0 ∧
        leAt c.bytes 4 4 < 2 ^ 31 ∧ leAt c.bytes 8 2 < 2 ^ 11 ∧ leAt c.bytes 10 6 = 0))
      (fun id c d => (d.traceSet c.bytes).finishSt id stOk) c) s := rfl

theorem traceCfg_next (h : Accepted s c { CmdSpec.plain 0x53 with len := fun _ n => decide (n = 16) }) (hb : c.ablk = true)
    (h2 : byteAt c.bytes 2 < 2) (h3 : byteAt c.bytes 3 < 32) (h4 : leAt c.bytes 4 4 ≠ 0) (h5 : leAt c.bytes 4 4 < 2 ^ 31)
    (h6 : leAt c.bytes 8 2 < 2 ^ 11) (h7 : leAt c.bytes 10 6 = 0) :
    Serves (exec (.traceCfg c) s) s
      { ((((s.dev.setFld Reg.cntClv 31 16 (leAt c.bytes 0 2)).setFld Reg.cntClv 15 5 (leAt c.bytes 8 2)).setFld Reg.cntClv 4 4
          (byteAt c.bytes 2)).setFld Reg.cntClvSeed 30 0 (leAt c.bytes 4 4)) with
        cnts := { s.dev.cnts with lfsr := leAt c.bytes 4 4 } } stOk [] ∧
    ∃ t, exec (.traceCfg c) s = .next t ∧ t.dev.fld Reg.cntStat 12 8 = byteAt c.bytes 3 := by
  have ha : (c.ablk && decide (byteAt c.bytes 2 < 2 ∧ byteAt c.bytes 3 < 32 ∧ leAt c.bytes 4 4 ≠ 0 ∧
      leAt c.bytes 4 4 < 2 ^ 31 ∧ leAt c.bytes 8 2 < 2 ^ 11 ∧ leAt c.bytes 10 6 = 0)) = true := by
    rw [hb, decide_eq_true ⟨h2, h3, h4, h5, h6, h7⟩]
    rfl
  rw [exec_traceCfg]
  refine ⟨command_serves h rfl ha rfl ((fetched_reports s c).traceSet c.bytes) ?_, ?_⟩
  · rw [Dev.cmdOf, traceSet_cmds]
    exact fetched_outstanding s c
  · obtain ⟨t, ht, -, hdev⟩ := command_next h (obj := always) (arg := fun _ c => c.ablk && decide (byteAt c.bytes 2 < 2 ∧
        byteAt c.bytes 3 < 32 ∧ leAt c.bytes 4 4 ≠ 0 ∧ leAt c.bytes 4 4 < 2 ^ 31 ∧ leAt c.bytes 8 2 < 2 ^ 11 ∧ leAt c.bytes 10 6 = 0))
      rfl ha (eff := fun id c d => (d.traceSet c.bytes).finishSt id stOk)
    refine ⟨t, ht, ?_⟩
    rw [hdev]
    exact (finish_tagger ((s.dev.fresh.fetchCmd c).traceSet c.bytes) s.dev.nextId stOk []).trans (traceSet_group _ h3)

/-! ### CAPTURE (16 R403) -/

/-- Whether a capture may begin. -/
def Dev.captReady (d : Dev) : Bool :=
  d.capts.all (fun c => c.flushed.isSome) && d.flag Reg.carCtrl 0 && decide ((d.ring 13).st = .enabled)

/-- The first beacon period that a capture could begin in: that of its start, or the fourth from now. -/
def Dev.captFirst (d : Dev) (start : Nat) : Nat :=
  if mptBefore d.mpt start ∧ bpSince ((d.msync.bpi + 4) % 2 ^ 23) (d.bpOf start) < 2 ^ 22 then d.bpOf start
  else (d.msync.bpi + 4) % 2 ^ 23

theorem captFirst_ahead (d : Dev) (start : Nat) : 4 ≤ bpSince d.msync.bpi (d.captFirst start) := by
  have hlt : d.bpOf start < 2 ^ 23 := by
    have h : unsigned 48 ((start : Int) - d.msync.ofs) < 2 ^ 48 := unsigned_lt _ _
    unfold Dev.bpOf
    omega
  unfold Dev.captFirst
  split
  · next h =>
    have hs := h.2
    unfold bpSince at hs ⊢
    omega
  · unfold bpSince
    omega

theorem capture_notReady (h : Accepted s c { CmdSpec.plain 0x54 with len := fun _ n => decide (n = 16), m1 := 2 ^ 32 - 1 })
    (hr : s.dev.captReady = false) : Serves (exec (.capture c) s) s s.dev stBadState [] := by
  obtain ⟨hready, hdt, hopc, -⟩ := h
  have hne : cmdStates c.opc.toNat ≠ none := by
    rw [hopc]
    decide
  refine refused_serves ⟨hready, fun h => h.2.2 hopc⟩ (judge_badState hdt hne ?_)
  rw [show (s.dev.fresh.capts.all (fun c => c.flushed.isSome) && s.dev.fresh.flag Reg.carCtrl 0 &&
    decide ((s.dev.fresh.ring 13).st = .enabled)) = false from hr, Bool.and_false]

theorem capture_waits (h : Accepted s c { CmdSpec.plain 0x54 with len := fun _ n => decide (n = 16), m1 := 2 ^ 32 - 1 })
    (hb : c.ablk = true) (h1 : 1 ≤ c.n1) (h2 : c.n1 ≤ 8388608) (h3 : (captTaps c.bytes).all (fun t => decide (t < 1024)) = true)
    (h4 : (captTaps c.bytes).any (fun t => bit t 9) = true) (h5 : leAt c.bytes 10 6 = 0) (hr : s.dev.captReady = true) :
    ∃ x : Capt, Waits (exec (.capture c) s) s { s.dev with capts := s.dev.capts ++ [x] } ∧
      x.cmd = s.dev.nextId ∧ x.start = c.mpt ∧ x.len = c.n1 ∧ x.taps = captTaps c.bytes ∧ x.lane = none ∧ x.written = 0 ∧
      x.flushed = none ∧ 4 ≤ bpSince s.dev.msync.bpi x.firstBp := by
  have hf := fetched_reports s c
  obtain ⟨x, hx⟩ : ∃ x : Capt, x =
      { cmd := s.dev.nextId, start := c.mpt, firstBp := s.dev.captFirst c.mpt, len := c.n1, taps := captTaps c.bytes, lane := none,
        n0 := 0, mpt0 := 0, written := 0, flushed := none } := ⟨_, rfl⟩
  have ha : (c.ablk && decide (1 ≤ c.n1 ∧ c.n1 ≤ 8388608) && (captTaps c.bytes).all (fun t => decide (t < 1024)) &&
      (captTaps c.bytes).any (fun t => bit t 9) && decide (leAt c.bytes 10 6 = 0)) = true := by
    rw [hb, decide_eq_true ⟨h1, h2⟩, h3, h4, decide_eq_true h5]
    rfl
  have hfirst : (s.dev.fresh.fetchCmd c).captFirst c.mpt = s.dev.captFirst c.mpt := by
    unfold Dev.captFirst Dev.bpOf
    rw [hf.mpt, hf.msync]
  refine ⟨x, command_waits (f := { s.dev.fresh.fetchCmd c with capts := (s.dev.fresh.fetchCmd c).capts ++ [x] }) h hr ha ?_ ?_ rfl, ?_⟩
  · rw [hx, ← hfirst]
    rfl
  · rw [hf.capts]
    exact hf.set_capts _
  · rw [hx]
    exact ⟨rfl, rfl, rfl, rfl, rfl, rfl, rfl, captFirst_ahead s.dev c.mpt⟩

end

/-! ### CAPTURE_NO_LANE (16 R403) -/

theorem captureNoLane_next {s : State} {c : Capt} (hc : s.dev.capts.find? (fun c => c.flushed.isNone) = some c) (hl : c.lane = none)
    (h1 : 16 ≤ bpSince c.firstBp s.dev.msync.bpi) (h2 : bpSince c.firstBp s.dev.msync.bpi < 2 ^ 22) :
    ∃ t, exec .captureNoLane s = .next t ∧ t.pending = s.pending ∧ t.dev.cmdOf c.cmd = none ∧
      Reports { s.dev with capts := s.dev.capts.filter (fun x => x.flushed.isSome) } t.dev := by
  have hnot : ¬ (c.lane.isSome = true ∨ bpSince c.firstBp s.dev.fresh.msync.bpi < 16 ∨ 2 ^ 22 ≤ bpSince c.firstBp s.dev.fresh.msync.bpi) := by
    rw [hl]
    rintro (h | h | h)
    · cases h
    · exact absurd h1 (not_le.2 h)
    · exact absurd h2 (not_lt.2 h)
  have heff : captureNoLaneEffect s.dev.fresh =
      ({ s.dev.fresh with capts := s.dev.fresh.capts.filter (fun x => x.flushed.isSome) } : Dev).finishSt c.cmd stNoRoom := by
    unfold captureNoLaneEffect
    rw [show s.dev.fresh.capts.find? (fun c => c.flushed.isNone) = some c from hc]
    exact if_neg hnot
  obtain ⟨t, ht, hp, hdev⟩ := run_fresh captureNoLaneEffect s
  rw [heff] at hdev
  refine ⟨t, ht, hp, ?_⟩
  rw [hdev]
  exact ⟨finishSt_ended _ _ _, ((fresh_reports s.dev).set_capts _).trans ((finishSt_reports _ _ _).trans (fresh_reports _))⟩

/-! ### CAPTURE_RECORD_WRITE (16 R403) -/

theorem tapWords_valid (d : Dev) (c : Capt) (first : Nat) (ts : List Nat) (pins : List PinRuns) :
    ((d.tapWords c first ts pins).filter (fun x => x.1)).length = (ts.filter (fun t => bit t 9)).length := by
  induction ts generalizing pins with
  | nil => rfl
  | cons t ts ih =>
    unfold Dev.tapWords
    split
    · next h =>
      rw [List.filter_cons_of_pos rfl, List.filter_cons_of_pos (p := fun t => bit t 9) h, List.length_cons, List.length_cons, ih]
    · next h =>
      rw [List.filter_cons_of_neg Bool.false_ne_true, List.filter_cons_of_neg (p := fun t => bit t 9) h, ih]

/-- A record holds the words of every stream for every sample. -/
theorem recordWords_length (d : Dev) (c : Capt) (first : Nat) (pins : List PinRuns) :
    (d.recordWords c first pins).length = c.nextNs * c.streams := by
  unfold Dev.recordWords
  dsimp only
  rw [List.length_flatMap]
  simp only [List.length_map, List.map_const', List.length_range, List.sum_replicate, smul_eq_mul, tapWords_valid]
  rfl

theorem writeEntry_devIdx (d : Dev) (k : Nat) (bs : List Byte) : ((d.writeEntry k bs).ring k).devIdx = (d.ring k).devIdx + 1 := by
  unfold Dev.writeEntry
  extract_lets r size written
  have hring : written.ring k = d.ring k := by
    simp only [written]
    unfold Dev.hostWrite
    split <;> rfl
  rw [ring_modRing_same, hring]
  dsimp only
  split
  · rfl
  · split <;> rfl

theorem writeEntry_posted {d : Dev} {k : Nat} (hb : (d.fn (ringFn k)).bme = true) (bs : List Byte) :
    (d.writeEntry k bs).posted = d.posted ++
      [(((d.ring k).base.toNat + (d.ring k).devIdx.toNat % (d.ring k).size * d.entrySize k) % 2 ^ 64, fit (d.entrySize k) bs)] := by
  unfold Dev.writeEntry
  rw [modRing_posted, Dev.hostWrite, if_pos hb]
  rfl

section
variable {s : State} {c : Capt} {rest : List Capt} {sidx : Nat} {pins : List PinRuns} {lost : Bool}

/-- The MPT of a record's first sample is read; where that is free, the choice is one more taken. -/
theorem mptOf_same (d : Dev) (n : Nat) : ∃ i, (d.mptOf n).2 = { d with freeCtr := i } := by
  unfold Dev.mptOf
  dsimp only
  split
  · exact ⟨d.freeCtr, rfl⟩
  · exact ⟨_, rfl⟩

theorem captureRecordWriteEffect_staged (last : Bool) (hlive : s.dev.dev.live = true) (hc : s.dev.capts = c :: rest) (hst : s.dev.staged c = true)
    (hen : (s.dev.ring 13).st = .enabled) (hroom : 0 < (s.dev.ring 13).freeEntries) (hs : sidx = c.n0 + c.written * c.perRecord)
    (hfl : c.flushed = none) (hlast : decide (c.len ≤ c.written * c.perRecord + c.nextNs) = last) :
    ∃ mpt i, captureRecordWriteEffect sidx pins lost s.dev.fresh =
      let e := ({ s.dev.fresh with freeCtr := i } : Dev).writeEntry 13 (c.record mpt last (s.dev.recordAbsent c sidx || lost)
        (s.dev.fresh.recordWords c sidx pins))
      if last = true then ({ e with capts := rest } : Dev).finish c.cmd stOk (wideQ c.mpt0 (c.lane.getD 0) 0)
      else { e with capts := { c with written := c.written + 1 } :: rest } := by
  obtain ⟨i, hi⟩ := mptOf_same s.dev.fresh sidx
  refine ⟨(s.dev.fresh.mptOf sidx).1, i, ?_⟩
  have hnot : ¬ ((!s.dev.fresh.dev.live) = true ∨ (!s.dev.fresh.staged c) = true ∨ (s.dev.fresh.ring 13).st ≠ .enabled ∨
      (s.dev.fresh.ring 13).freeEntries = 0 ∨ sidx ≠ c.n0 + c.written * c.perRecord) := by
    rintro (h | h | h | h | h)
    · rw [show s.dev.fresh.dev.live = true from hlive] at h
      cases h
    · rw [show s.dev.fresh.staged c = true from hst] at h
      cases h
    · exact h hen
    · exact absurd h (Nat.pos_iff_ne_zero.1 hroom)
    · exact h hs
  unfold captureRecordWriteEffect
  rw [show s.dev.fresh.capts = c :: rest from hc]
  dsimp only
  rw [if_neg hnot, hfl, hlast, ← hs, ← hi]
  cases last <;> rfl

theorem captureRecord_more (hlive : s.dev.dev.live = true) (hc : s.dev.capts = c :: rest) (hst : s.dev.staged c = true)
    (hen : (s.dev.ring 13).st = .enabled) (hroom : 0 < (s.dev.ring 13).freeEntries) (hs : sidx = c.n0 + c.written * c.perRecord)
    (hfl : c.flushed = none) (hmore : c.written * c.perRecord + c.nextNs < c.len) :
    ∃ t mpt, run (captureRecordWriteEffect sidx pins lost) s = .next t ∧ t.pending = s.pending ∧
      Reports { s.dev with capts := { c with written := c.written + 1 } :: rest } t.dev ∧
      (t.dev.ring 13).devIdx = (s.dev.ring 13).devIdx + 1 ∧
      ∃ ws : List (BitVec 20), ws.length = c.nextNs * c.streams ∧
        ((s.dev.fn 0).bme = true → t.hostMem = Memory.commit s.hostMem
          [(((s.dev.ring 13).base.toNat + (s.dev.ring 13).devIdx.toNat % (s.dev.ring 13).size * s.dev.entrySize 13) % 2 ^ 64,
            fit (s.dev.entrySize 13) (c.record mpt false (s.dev.recordAbsent c sidx || lost) ws))]) := by
  obtain ⟨mpt, i, heff⟩ := captureRecordWriteEffect_staged (pins := pins) (lost := lost) false hlive hc hst hen hroom hs hfl
    (decide_eq_false (not_le.2 hmore))
  obtain ⟨r, hr⟩ : ∃ r, r = c.record mpt false (s.dev.recordAbsent c sidx || lost) (s.dev.fresh.recordWords c sidx pins) := ⟨_, rfl⟩
  obtain ⟨d, hd⟩ : ∃ d : Dev, d = { s.dev.fresh with freeCtr := i } := ⟨_, rfl⟩
  have hrep : Reports s.dev d := by rw [hd]; exact ⟨rfl, fun _ _ => rfl⟩
  have hring : d.ring 13 = s.dev.ring 13 := by rw [hd]; rfl
  have hposted : d.posted = [] := by rw [hd]; rfl
  have hfn : d.fn 0 = s.dev.fn 0 := by rw [hd]; rfl
  have hsize : d.entrySize 13 = s.dev.entrySize 13 := by rw [hd]; rfl
  rw [← hr, ← hd] at heff
  dsimp only at heff
  rw [if_neg (by decide)] at heff
  refine ⟨_, mpt, run_next _ s, rfl, ?_, ?_, s.dev.fresh.recordWords c sidx pins, recordWords_length _ _ _ _, fun hb => ?_⟩
  · rw [heff]
    exact ((hrep.trans (writeEntry_reports d 13 r)).set_capts _).trans (fresh_reports _)
  · rw [heff, ← hring]
    exact writeEntry_devIdx d 13 r
  · have hw := writeEntry_posted (d := d) (k := 13) (by rw [show ringFn 13 = 0 from rfl, hfn]; exact hb) r
    rw [hposted, hring, hsize, List.nil_append] at hw
    rw [heff, ← hr]
    exact congrArg (Memory.commit s.hostMem) hw

theorem captureRecord_last (hlive : s.dev.dev.live = true) (hc : s.dev.capts = c :: rest) (hst : s.dev.staged c = true)
    (hen : (s.dev.ring 13).st = .enabled) (hroom : 0 < (s.dev.ring 13).freeEntries) (hs : sidx = c.n0 + c.written * c.perRecord)
    (hfl : c.flushed = none) (hend : c.len ≤ c.written * c.perRecord + c.nextNs) :
    ∃ t, run (captureRecordWriteEffect sidx pins lost) s = .next t ∧ t.pending = s.pending ∧ t.dev.cmdOf c.cmd = none ∧
      Reports { s.dev with capts := rest } t.dev := by
  obtain ⟨mpt, i, heff⟩ := captureRecordWriteEffect_staged (pins := pins) (lost := lost) true hlive hc hst hen hroom hs hfl
    (decide_eq_true hend)
  obtain ⟨r, hr⟩ : ∃ r, r = c.record mpt true (s.dev.recordAbsent c sidx || lost) (s.dev.fresh.recordWords c sidx pins) := ⟨_, rfl⟩
  obtain ⟨d, hd⟩ : ∃ d : Dev, d = { s.dev.fresh with freeCtr := i } := ⟨_, rfl⟩
  have hrep : Reports s.dev d := by rw [hd]; exact ⟨rfl, fun _ _ => rfl⟩
  rw [← hr, ← hd] at heff
  dsimp only at heff
  rw [if_pos rfl] at heff
  obtain ⟨t, ht, hp, hdev⟩ := run_fresh (captureRecordWriteEffect sidx pins lost) s
  rw [heff] at hdev
  refine ⟨t, ht, hp, ?_⟩
  rw [hdev]
  exact ⟨finish_ended _ _ _ _, ((hrep.trans (writeEntry_reports d 13 r)).set_capts _).trans ((finish_reports _ _ _ _).trans (fresh_reports _))⟩

end

/-- Settles O43: TRACE_CFG, CAPTURE, a capture without a lane, and the write of its records. -/
theorem traceAndCapture : Obligations.TraceAndCapture := fun _ =>
  ⟨fun _ h hb h2 h3 h4 h5 h6 h7 => traceCfg_next h hb h2 h3 h4 h5 h6 h7,
    fun _ h hb h1 h2 h3 h4 h5 => ⟨capture_notReady h, capture_waits h hb h1 h2 h3 h4 h5⟩, fun _ => captureNoLane_next,
    fun _ _ _ _ _ hlive hc hst hen hroom hs hfl =>
      ⟨captureRecord_more hlive hc hst hen hroom hs hfl, captureRecord_last hlive hc hst hen hroom hs hfl⟩⟩

end Sys2Proof.Machine
end

section
/-! SUPPORT. The reads with an effect, and the LOSSY queues' two paths (02 R63, 17 R411, R412, R426). -/

namespace Sys2Proof.Machine

/-! ### What recording an occupancy leaves of a queue (17 R417, R418) -/

/-- Queue `k` lost nothing to a reader, and a reader that stood before an item's first half-word still does. -/
def Unread (k : Nat) (a b : Dev) : Prop :=
  (b.lossy k).consumed = (a.lossy k).consumed ∧ ((a.lossy k).hw = 0 → (b.lossy k).hw = 0)

theorem Unread.of_lossy {k : Nat} {a b : Dev} (h : b.lossy k = a.lossy k) : Unread k a b := by
  unfold Unread
  rw [h]
  exact ⟨rfl, id⟩

theorem Unread.trans {k : Nat} {a b c : Dev} (h : Unread k a b) (h' : Unread k b c) : Unread k a c :=
  ⟨h'.1.trans h.1, fun hw => h'.2 (h.2 hw)⟩

theorem pushRaw_unread (k : Nat) (d : Dev) (q : Nat) (item : List Byte) : Unread k d (d.pushRaw q item) := by
  by_cases hk : k = q
  · subst hk
    unfold Dev.pushRaw
    dsimp only
    split
    · refine Unread.trans (b := d.modLossy k fun x => { x with
        items := x.items.drop 1 ++ [item], hw := 0, produced := x.produced + 1, overwritten := x.overwritten + 1 }) ?_ (.of_lossy ?_)
      · unfold Unread
        rw [lossy_modLossy_same]
        exact ⟨rfl, fun _ => rfl⟩
      · split
        · rw [lossy_raise, lossy_count, lossy_modRing]
        · rw [lossy_count, lossy_modRing]
    · unfold Unread
      rw [lossy_modLossy_same]
      exact ⟨rfl, id⟩
  · exact .of_lossy (lossy_pushRaw_ne hk d item)

theorem eventRaw_unread (k : Nat) (d : Dev) (mpt code st obj : Nat) (detail : List Byte) :
    Unread k d (d.eventRaw mpt code st obj detail) := by
  unfold Dev.eventRaw
  split
  · exact (pushRaw_unread k d 0 _).trans (.of_lossy rfl)
  · exact .of_lossy rfl

theorem markWith_unread {post : Dev → Nat → List Byte → Dev} {k : Nat} (hp : ∀ d q b, Unread k d (post d q b)) (d : Dev) (q : Nat) :
    Unread k d (Dev.markWith post d q) := by
  have hsticky : Unread k d (d.sticky q) := .of_lossy (lossy_sticky d q k)
  have hoff : Unread k d ((d.sticky q).modWm q fun w => { w with armed := false }) := hsticky.trans (.of_lossy (lossy_modWm _ _ _ _))
  unfold Dev.markWith
  dsimp only
  split
  · exact hsticky
  · split
    · exact hoff
    · split
      · exact hoff.trans (hp _ _ _)
      · exact hsticky

theorem mark_unread (k : Nat) (d : Dev) (q : Nat) : Unread k d (d.mark q) :=
  markWith_unread (fun d _ _ => (eventRaw_unread k d _ _ _ _ _).trans (markWith_unread (fun d _ _ => eventRaw_unread k d _ _ _ _ _) _ 0)) d q

/-- Only the event queue's own armed watermark puts an item into the queue whose occupancy is recorded. -/
theorem lossy_mark {q : Nat} {d : Dev} (h : q ≠ 0 ∨ (d.wmark 0).armed = false) : (d.mark q).lossy q = d.lossy q := by
  by_cases hq : q = 0
  · have ha : (d.wmark q).armed = false := by
      rw [hq]
      exact h.resolve_left (fun hn => hn hq)
    rw [Dev.mark, markWith_disarmed ha, lossy_sticky]
  · exact lossy_mark_ne hq d q

/-! ### The oldest item leaves its queue -/

/-- The oldest item leaves queue `q` for `rest`. -/
def Dev.consumeItem (d : Dev) (q : Nat) (rest : List (List Byte)) : Dev :=
  d.modLossy q (fun x => { x with items := rest, hw := 0, consumed := x.consumed + 1 })

theorem lossy_consumeItem (d : Dev) (q : Nat) (rest : List (List Byte)) :
    (d.consumeItem q rest).lossy q = { d.lossy q with items := rest, hw := 0, consumed := (d.lossy q).consumed + 1 } :=
  lossy_modLossy_same d q _

theorem consumeItem_reports (d : Dev) (q : Nat) (rest : List (List Byte)) : Reports d (d.consumeItem q rest) := ⟨rfl, fun _ _ => rfl⟩

/-- An item that left its queue stays consumed while the occupancy is recorded. -/
theorem consumed_mark {a d : Dev} {q : Nat} {rest : List (List Byte)} (hl : d.lossy q = (a.consumeItem q rest).lossy q)
    (hw : d.wmark 0 = a.wmark 0) :
    ((d.mark q).lossy q).hw = 0 ∧ ((d.mark q).lossy q).consumed = (a.lossy q).consumed + 1 ∧
      (q ≠ 0 ∨ (a.wmark 0).armed = false → ((d.mark q).lossy q).items = rest) := by
  rw [lossy_consumeItem] at hl
  obtain ⟨hc, hz⟩ := mark_unread q d q
  refine ⟨hz (by rw [hl]), by rw [hc, hl], fun h => ?_⟩
  rw [← hw] at h
  rw [lossy_mark h, hl]

/-! ### The reads -/

section
variable {s : State} {q : Nat}

theorem mptNowLoRead_next (hd : s.dev.dev ≠ .off) :
    ∃ t, exec .mptNowLoRead s = .next t ∧ t.pending = s.pending ∧ t.hostMem = s.hostMem ∧
      t.dev.busOut.toNat = s.dev.mpt % 2 ^ 32 ∧ t.dev.tb.nowHi.toNat = s.dev.mpt / 2 ^ 32 ∧
      Reports { s.dev with busOut := t.dev.busOut, tb := t.dev.tb } t.dev ∧
      t.dev.tb = { s.dev.tb with nowHi := t.dev.tb.nowHi } := by
  have hf : mptNowLoEffect s.dev.fresh = (({ s.dev.fresh with
      tb := { s.dev.tb with nowHi := BitVec.ofNat 16 (s.dev.mpt / 2 ^ 32) } } : Dev).toBus (s.dev.mpt % 2 ^ 32)) := if_neg hd
  obtain ⟨t, ht, hp, hm, htd⟩ := run_gives hf rfl
  refine ⟨t, ht, hp, hm, ?_⟩
  rw [htd]
  have hlt : s.dev.mpt < 2 ^ 48 := Nat.div_lt_of_lt_mul s.dev.tb.acc.isLt
  refine ⟨?_, ?_, ⟨rfl, fun _ _ => rfl⟩, rfl⟩
  · change (BitVec.ofNat 64 (s.dev.mpt % 2 ^ 32)).toNat = _
    rw [BitVec.toNat_ofNat]
    exact Nat.mod_eq_of_lt (by omega)
  · change (BitVec.ofNat 16 (s.dev.mpt / 2 ^ 32)).toNat = _
    rw [BitVec.toNat_ofNat]
    exact Nat.mod_eq_of_lt (by omega)

/-- What a read of a LOSSY queue's half-word gives, where there is one. -/
theorem queueDirectReadEffect_item {d : Dev} {item : List Byte} {rest : List (List Byte)} (hd : d.dev ≠ .off) (hq : q ≤ 10)
    (hi : (d.lossy q).items = item :: rest) :
    queueDirectReadEffect q d =
      if item.length ≤ 2 * ((d.lossy q).hw + 1) then ((d.toBus (halfWord item (d.lossy q).hw)).consumeItem q rest).mark q
      else (d.toBus (halfWord item (d.lossy q).hw)).modLossy q (fun x => { x with hw := x.hw + 1 }) := by
  have ha : d.answers = true := decide_eq_true hd
  have hn : ¬ 10 < q := Nat.not_lt.mpr hq
  unfold queueDirectReadEffect Dev.consumeItem
  rw [ha, if_neg (by decide), if_neg hn]
  generalize d.toBus 0x80000000 = none
  rw [hi]

/-- What taking the next half-word leaves of a device whose queue stands at `x`. -/
def DirectRead (a t : Dev) (q : Nat) (item : List Byte) (rest : List (List Byte)) (x : LossyQ) (armed : Bool) : Prop :=
  Reports a t ∧
    (item.length ≤ 2 * (x.hw + 1) →
      (t.lossy q).hw = 0 ∧ (t.lossy q).consumed = x.consumed + 1 ∧ (q ≠ 0 ∨ armed = false → (t.lossy q).items = rest)) ∧
    (2 * (x.hw + 1) < item.length → (t.lossy q).items = item :: rest ∧ (t.lossy q).hw = x.hw + 1)

theorem directRead_last {b : Dev} {item : List Byte} {rest : List (List Byte)} (h : item.length ≤ 2 * ((b.lossy q).hw + 1)) :
    DirectRead b ((b.consumeItem q rest).mark q).fresh q item rest (b.lossy q) (b.wmark 0).armed :=
  ⟨((consumeItem_reports b q rest).trans (mark_quiet _ q).1).trans (fresh_reports _), fun _ => consumed_mark rfl rfl,
    fun h' => absurd h (Nat.not_le.mpr h')⟩

theorem directRead_more {b : Dev} {item : List Byte} {rest : List (List Byte)} (hi : (b.lossy q).items = item :: rest)
    (h : ¬ item.length ≤ 2 * ((b.lossy q).hw + 1)) :
    DirectRead b (b.modLossy q (fun x => { x with hw := x.hw + 1 })).fresh q item rest (b.lossy q) (b.wmark 0).armed := by
  refine ⟨⟨rfl, fun _ _ => rfl⟩, fun h' => absurd h' h, fun _ => ?_⟩
  rw [fresh_lossy, lossy_modLossy_same]
  exact ⟨hi, rfl⟩

theorem fresh_toBus_reports (d : Dev) (v : Nat) : Reports (d.toBus v) (d.fresh.toBus v) := ⟨rfl, fun _ _ => rfl⟩

theorem directRead_item {b : Dev} {item : List Byte} {rest : List (List Byte)} (hi : (b.lossy q).items = item :: rest) :
    DirectRead b (if item.length ≤ 2 * ((b.lossy q).hw + 1) then (b.consumeItem q rest).mark q
      else b.modLossy q (fun x => { x with hw := x.hw + 1 })).fresh q item rest (b.lossy q) (b.wmark 0).armed := by
  split
  · next h => exact directRead_last h
  · next h => exact directRead_more hi h

theorem queueDirectRead_item {item : List Byte} {rest : List (List Byte)} (hd : s.dev.dev ≠ .off) (hq : q ≤ 10)
    (hi : (s.dev.lossy q).items = item :: rest) :
    ∃ t, exec (.queueDirectRead q) s = .next t ∧ t.pending = s.pending ∧
      DirectRead (s.dev.toBus (halfWord item (s.dev.lossy q).hw)) t.dev q item rest (s.dev.lossy q) (s.dev.wmark 0).armed := by
  have heff := queueDirectReadEffect_item (d := s.dev.fresh) (q := q) hd hq hi
  obtain ⟨t, ht, hp, htd⟩ := run_fresh (queueDirectReadEffect q) s
  have hread := directRead_item (b := s.dev.fresh.toBus (halfWord item (s.dev.lossy q).hw)) (q := q) (item := item) (rest := rest)
    (by rw [toBus_lossy, fresh_lossy]; exact hi)
  rw [toBus_lossy, toBus_wmark, fresh_lossy] at hread
  rw [heff, fresh_lossy] at htd
  refine ⟨t, ht, hp, ?_⟩
  rw [htd]
  exact ⟨(fresh_toBus_reports s.dev _).trans hread.1, hread.2⟩

theorem queueDirectRead_none (hd : s.dev.dev ≠ .off) (h : 10 < q ∨ (s.dev.lossy q).items = []) :
    ∃ t, exec (.queueDirectRead q) s = .next t ∧ t.dev = (s.dev.toBus 0x80000000).fresh ∧ t.hostMem = s.hostMem ∧ t.pending = s.pending := by
  have hf : queueDirectReadEffect q s.dev.fresh = s.dev.fresh.toBus 0x80000000 := by
    have ha : s.dev.fresh.answers = true := decide_eq_true hd
    unfold queueDirectReadEffect
    rw [ha, if_neg (by decide)]
    split
    · rfl
    · next hq =>
      rw [fresh_lossy, h.resolve_left hq]
  obtain ⟨t, ht, hp, hm, htd⟩ := run_gives hf rfl
  exact ⟨t, ht, htd, hm, hp⟩

theorem modWm_peak (d : Dev) (q n : Nat) : (((d.modWm q fun w => { w with peak := n }).fresh).wmark q).peak = n :=
  congrArg Wm.peak (wmark_modWm_same d q fun w => { w with peak := n })

theorem queueOccRead_next (hd : s.dev.dev ≠ .off) (hq : queueListed q = true) :
    ∃ t, exec (.queueOccRead q) s = .next t ∧ t.pending = s.pending ∧ t.hostMem = s.hostMem ∧
      (t.dev.wmark q).peak = s.dev.occ q ∧
      Reports (s.dev.toBus (min 0xFFFF (max (s.dev.wmark q).peak (s.dev.occ q)) * 2 ^ 16 + min 0xFFFF (s.dev.occ q))) t.dev := by
  have hf : queueOccReadEffect q s.dev.fresh =
      (s.dev.fresh.toBus (min 0xFFFF (max (s.dev.wmark q).peak (s.dev.occ q)) * 2 ^ 16 + min 0xFFFF (s.dev.occ q))).modWm q
        (fun w => { w with peak := s.dev.occ q }) := by
    have ha : s.dev.fresh.answers = true := decide_eq_true hd
    unfold queueOccReadEffect
    rw [ha, hq]
    rfl
  obtain ⟨t, ht, hp, hm, htd⟩ := run_gives hf rfl
  refine ⟨t, ht, hp, hm, ?_, ?_⟩
  · rw [htd]
    exact modWm_peak _ q _
  · rw [htd]
    exact (fresh_toBus_reports s.dev _).trans ⟨rfl, fun _ _ => rfl⟩

end

/-! ### The drain (17 R411) -/

/-- A run commits what its effect posted. -/
theorem run_commits (f : Dev → Dev) (s : State) :
    ∃ t, run f s = .next t ∧ t.pending = s.pending ∧ t.hostMem = Memory.commit s.hostMem (f s.dev.fresh).posted ∧
      t.dev = (f s.dev.fresh).fresh := ⟨_, run_next f s, rfl, rfl, rfl⟩

theorem lossy_hostWrite (d : Dev) (f a : Nat) (bs : List Byte) (k : Nat) : (d.hostWrite f a bs).lossy k = d.lossy k := by
  unfold Dev.hostWrite
  split <;> rfl

theorem wmark_hostWrite (d : Dev) (f a : Nat) (bs : List Byte) (k : Nat) : (d.hostWrite f a bs).wmark k = d.wmark k := by
  unfold Dev.hostWrite
  split <;> rfl

theorem lossy_writeEntry (d : Dev) (r : Nat) (bs : List Byte) (k : Nat) : (d.writeEntry r bs).lossy k = d.lossy k := by
  unfold Dev.writeEntry
  rw [modRing_lossy, lossy_hostWrite]

theorem wmark_writeEntry (d : Dev) (r : Nat) (bs : List Byte) (k : Nat) : (d.writeEntry r bs).wmark k = d.wmark k := by
  unfold Dev.writeEntry
  rw [modRing_wmark, wmark_hostWrite]

theorem lossyQueueDrain_next {s : State} {q : Fin 11} {item : List Byte} {rest : List (List Byte)}
    (hs : s.dev.ringServed 0 (lossyRing q) = true) (hst : (s.dev.ring (lossyRing q)).st = .enabled)
    (hfree : 0 < (s.dev.ring (lossyRing q)).freeEntries) (hi : (s.dev.lossy q).items = item :: rest) :
    let r := s.dev.ring (lossyRing q)
    ∃ t, exec (.lossyQueueDrain q) s = .next t ∧ t.pending = s.pending ∧ Reports s.dev t.dev ∧
      (t.dev.ring (lossyRing q)).devIdx = r.devIdx + 1 ∧
      (t.dev.lossy q).hw = 0 ∧ (t.dev.lossy q).consumed = (s.dev.lossy q).consumed + 1 ∧
      (q.val ≠ 0 ∨ (s.dev.wmark 0).armed = false → (t.dev.lossy q).items = rest) ∧
      ((s.dev.fn 0).bme = true → t.hostMem = Memory.commit s.hostMem
        [((r.base.toNat + r.devIdx.toNat % r.size * s.dev.entrySize (lossyRing q)) % 2 ^ 64,
          fit (s.dev.entrySize (lossyRing q)) item)]) := by
  intro r
  have hf : lossyQueueDrainEffect q s.dev.fresh =
      ((s.dev.fresh.consumeItem q rest).writeEntry (lossyRing q) item).mark q := by
    have hs' : s.dev.fresh.ringServed 0 (lossyRing q) = true := hs
    have hst' : (s.dev.fresh.ring (lossyRing q)).st = .enabled := hst
    have hfree' : (s.dev.fresh.ring (lossyRing q)).freeEntries ≠ 0 := Nat.pos_iff_ne_zero.mp hfree
    unfold lossyQueueDrainEffect
    dsimp only
    rw [hs', hst', if_neg (by rintro (h | h | h); exacts [absurd h (by decide), h rfl, hfree' h]), fresh_lossy, hi]
    rfl
  have hcr : Reports s.dev (s.dev.fresh.consumeItem q rest) := (fresh_reports s.dev).trans (consumeItem_reports _ _ _)
  have hring : (s.dev.fresh.consumeItem q rest).ring (lossyRing q) = r := rfl
  have hsize : (s.dev.fresh.consumeItem q rest).entrySize (lossyRing q) = s.dev.entrySize (lossyRing q) := rfl
  have hfn : (s.dev.fresh.consumeItem q rest).fn 0 = s.dev.fn 0 := rfl
  have hclear : (s.dev.fresh.consumeItem q rest).posted = [] := rfl
  have hlossy : (s.dev.fresh.consumeItem q rest).lossy q = (s.dev.consumeItem q rest).lossy q := by
    rw [lossy_consumeItem, lossy_consumeItem, fresh_lossy]
  have hwm : (s.dev.fresh.consumeItem q rest).wmark 0 = s.dev.wmark 0 := rfl
  generalize s.dev.fresh.consumeItem q rest = c at hf hcr hring hsize hfn hclear hlossy hwm
  rw [← lossy_writeEntry c (lossyRing q) item] at hlossy
  rw [← wmark_writeEntry c (lossyRing q) item] at hwm
  have hq0 : ringFn (lossyRing q) = 0 := by
    unfold ringFn lossyRing
    omega
  have htold := mark_told (c.writeEntry (lossyRing q) item) q
  have hposted : (s.dev.fn 0).bme = true → (lossyQueueDrainEffect q s.dev.fresh).posted =
      [((r.base.toNat + r.devIdx.toNat % r.size * s.dev.entrySize (lossyRing q)) % 2 ^ 64,
        fit (s.dev.entrySize (lossyRing q)) item)] := by
    intro hb
    have hb' : (c.fn (ringFn (lossyRing q))).bme = true := by
      rw [hq0, hfn]
      exact hb
    rw [hf, htold.posted, writeEntry_posted hb', hring, hsize, hclear]
    rfl
  obtain ⟨t, ht, hp, hmem, htd⟩ := run_commits (lossyQueueDrainEffect q) s
  refine ⟨t, ht, hp, ?_⟩
  have hdev : t.dev = ((c.writeEntry (lossyRing q) item).mark q).fresh := by rw [htd, hf]
  refine ⟨?_, ?_, ?_⟩
  · rw [hdev]
    exact ((hcr.trans (writeEntry_reports c (lossyRing q) item)).trans (mark_quiet _ q).1).trans (fresh_reports _)
  · obtain ⟨n, hn⟩ := htold.loss (lossyRing q)
    rw [hdev]
    change (((c.writeEntry (lossyRing q) item).mark q).ring (lossyRing q)).devIdx = _
    rw [hn]
    exact (writeEntry_devIdx c (lossyRing q) item).trans (by rw [hring])
  · obtain ⟨hw, hcons, hitems⟩ := consumed_mark hlossy hwm
    rw [hdev, fresh_lossy]
    refine ⟨hw, hcons, hitems, fun hb => ?_⟩
    rw [hmem, hposted hb]

/-- Settles O10, by the state that each read and the drain leave; a watermark that is judged on the way can only push a notice into
queue 0, which consumes nothing. -/
theorem readsWithEffects : Obligations.ReadsWithEffects := fun _ _ hd =>
  ⟨mptNowLoRead_next hd, fun _ _ hq hi => queueDirectRead_item hd hq hi, queueDirectRead_none hd, queueOccRead_next hd,
    fun _ _ _ hs hst hfree hi => lossyQueueDrain_next hs hst hfree hi⟩

end Sys2Proof.Machine
end

section
/-! SUPPORT. Check-value units (18 R434-R436): their registers, the running value, and what starts, feeds and ends a scan. -/

namespace Sys2Proof.Machine

/-! ### The registers of a unit -/

theorem regAt_cvuCfg (u : Fin 4) : ∃ r ix, regAt (Reg.cvuCfg u) = some (r, ix) ∧ r.run = true ∧
    r.fields = [⟨31, 31, .wo⟩, ⟨30, 30, .wo⟩, ⟨10, 8, .rw⟩, ⟨4, 4, .rw⟩, ⟨1, 1, .rw⟩, ⟨0, 0, .rw⟩] := by
  fin_cases u <;> exact ⟨_, _, rfl, rfl, rfl⟩

theorem regAt_cvuFeed (u : Fin 4) : ∃ r ix, regAt (Reg.cvuFeed u) = some (r, ix) ∧ r.run = true := by
  fin_cases u <;> exact ⟨_, _, rfl, rfl⟩

theorem frozenSet_cvuCfg (d : Dev) (u : Fin 4) : d.frozenSet (Reg.cvuCfg u) = false := by
  fin_cases u <;> rfl

theorem wordOk_cvuCfg (d : Dev) (u : Fin 4) (v : Nat) : d.wordOk (Reg.cvuCfg u) v = decide (bits v 10 8 ≤ 4) := by
  fin_cases u <;> rfl

theorem afterWrite_cvuCfg (d : Dev) (lk : Bool) (u : Fin 4) (old new v : Nat) :
    d.afterWrite lk (Reg.cvuCfg u) old new v = if bit v 31 then d.cvuStart u else d := by
  fin_cases u <;> rfl

theorem cvuUnit_cfg (u : Fin 4) : (Reg.cvuCfg u - 0xB0100) / 0x40 = u := by
  unfold Reg.cvuCfg
  omega

theorem cvuUnit_feed (u : Fin 4) : (Reg.cvuFeed u - 0xB0100) / 0x40 = u := by
  unfold Reg.cvuFeed
  omega

/-- An aligned 32-bit access reaches a register that RUN takes, in CONFIG and in RUN. -/
theorem barWrite_taken {d : Dev} {off : Nat} {r : RegSpec} {ix : List Nat} (hd : d.dev = .config ∨ d.dev = .run)
    (ha : off % 4 = 0) (hr : regAt off = some (r, ix)) (hrun : r.run = true) (v : Nat) :
    d.barWrite off 4 v = d.writeReg off (v % 2 ^ 32) := by
  rcases hd with hd | hd
  · exact barWrite_in_config hd ha v
  · have hoff : off - off % 4 = off := by omega
    simp [Dev.barWrite, Dev.writeAccess, Dev.takesWrite, hd, ha, hr, hrun]

section
variable {d : Dev} {u : Fin 4} (hd : d.dev = .config ∨ d.dev = .run)
include hd

theorem barWrite_busy {off : Nat} {r : RegSpec} {ix : List Nat} (hb : (d.cvu u).busy = true) (hr : regAt off = some (r, ix))
    (hrun : r.run = true) (ha : off % 4 = 0) (hlo : 0xB0100 ≤ off) (hhi : off < 0xB0200) (hu : (off - 0xB0100) / 0x40 = u) (v : BitVec 32) :
    d.barWrite off 4 v.toNat = d.cvuBusyWrite u off v.toNat := by
  rw [barWrite_taken hd ha hr hrun, Nat.mod_eq_of_lt v.isLt]
  have hi : off ≠ Reg.ident := by
    unfold Reg.ident
    omega
  unfold Dev.writeReg
  rw [if_neg hi, if_pos ⟨hlo, hhi, by rw [hr]; rfl, by rw [hu]; exact hb⟩, hu]

theorem barWrite_halt (hb : (d.cvu u).busy = true) {v : BitVec 32} (hv : bit v.toNat 30 = true) :
    d.barWrite (Reg.cvuCfg u) 4 v.toNat = d.cvuStop u false := by
  obtain ⟨r, ix, hr, hrun, -⟩ := regAt_cvuCfg u
  have hu := u.isLt
  rw [barWrite_busy hd hb hr hrun (by unfold Reg.cvuCfg; omega) (by unfold Reg.cvuCfg; omega) (by unfold Reg.cvuCfg; omega)
    (cvuUnit_cfg u), Dev.cvuBusyWrite, if_pos ⟨rfl, hv⟩]

theorem barWrite_feed (hb : (d.cvu u).busy = true) (hf : d.cvuFed u = true) (v : BitVec 32) :
    d.barWrite (Reg.cvuFeed u) 4 v.toNat = d.cvuTake u (leBytes 4 v.toNat) := by
  obtain ⟨r, ix, hr, hrun⟩ := regAt_cvuFeed u
  have hu := u.isLt
  have hne : Reg.cvuFeed u ≠ Reg.cvuCfg u := by
    unfold Reg.cvuFeed Reg.cvuCfg
    omega
  rw [barWrite_busy hd hb hr hrun (by unfold Reg.cvuFeed; omega) (by unfold Reg.cvuFeed; omega) (by unfold Reg.cvuFeed; omega)
    (cvuUnit_feed u), Dev.cvuBusyWrite, if_neg (fun h => hne h.1), if_pos ⟨rfl, hf⟩]

/-- `GO` with a legal `POLY` on an idle unit writes the word and starts the scan. -/
theorem barWrite_go (hb : (d.cvu u).busy = false) {v : BitVec 32} (hgo : bit v.toNat 31 = true) (hp : bits v.toNat 10 8 ≤ 4) :
    ∃ w, d.barWrite (Reg.cvuCfg u) 4 v.toNat = (d.setReg (Reg.cvuCfg u) w).cvuStart u ∧
      bits w 10 8 = bits v.toNat 10 8 ∧ bit w 1 = bit v.toNat 1 := by
  obtain ⟨r, ix, hr, hrun, hfs⟩ := regAt_cvuCfg u
  have hu := u.isLt
  have ha : Reg.cvuCfg u % 4 = 0 := by
    unfold Reg.cvuCfg
    omega
  have hi : Reg.cvuCfg u ≠ Reg.ident := by
    unfold Reg.cvuCfg Reg.ident
    omega
  have hwm : ¬ (0xA1000 ≤ Reg.cvuCfg u ∧ Reg.cvuCfg u < 0xA2000) := by
    unfold Reg.cvuCfg
    omega
  have hw : d.written (Reg.cvuCfg u) r v.toNat =
      setBits (setBits (setBits (setBits (d.reg (Reg.cvuCfg u)) 10 8 (bits v.toNat 10 8)) 4 4 (bits v.toNat 4 4)) 1 1
        (bits v.toNat 1 1)) 0 0 (bits v.toNat 0 0) := by
    simp [Dev.written, hfs, writeWord, writeField, frozenSet_cvuCfg, setBits_bits_self]
  have hpoly : bits (d.written (Reg.cvuCfg u) r v.toNat) 10 8 = bits v.toNat 10 8 := by
    rw [hw, bits_setBits_apart (by omega) (by omega) (by omega), bits_setBits_apart (by omega) (by omega) (by omega),
      bits_setBits_apart (by omega) (by omega) (by omega), bits_setBits_same (by omega)]
    simp [bits]
  have hseed : bits (d.written (Reg.cvuCfg u) r v.toNat) 1 1 = bits v.toNat 1 1 := by
    rw [hw, bits_setBits_apart (by omega) (by omega) (by omega), bits_setBits_same (by omega)]
    simp [bits]
  refine ⟨d.written (Reg.cvuCfg u) r v.toNat, ?_, hpoly, ?_⟩
  · rw [barWrite_taken hd ha hr hrun, Nat.mod_eq_of_lt v.isLt]
    unfold Dev.writeReg
    rw [if_neg hi, if_neg (fun h => by rw [cvuUnit_cfg, hb] at h; exact absurd h.2.2.2 (by decide)), hr]
    dsimp only
    change (if (_ || _ || d.wordOk (Reg.cvuCfg u) (d.written (Reg.cvuCfg u) r v.toNat)) = true then
      (d.setReg (Reg.cvuCfg u) (d.written (Reg.cvuCfg u) r v.toNat)).afterWrite _ _ _ _ _ else _) = _
    rw [wordOk_cvuCfg, hpoly, decide_eq_true hp, Bool.or_true, if_pos rfl, afterWrite_cvuCfg, if_pos hgo]
  · rw [bit_eq_bits, hseed, ← bit_eq_bits]

end

/-! ### The running value -/

theorem cvuRegs_apart {u v : Nat} : Reg.cvuRunLo u ≠ Reg.cvuRunHi v ∧ Reg.cvuRunLo u ≠ Reg.cvuCfg v ∧ Reg.cvuRunHi u ≠ Reg.cvuCfg v ∧
    Reg.cvuLen u ≠ Reg.cvuCfg v ∧ Reg.cvuLen u ≠ Reg.cvuRunLo v ∧ Reg.cvuLen u ≠ Reg.cvuRunHi v := by
  unfold Reg.cvuRunLo Reg.cvuRunHi Reg.cvuCfg Reg.cvuLen
  omega

theorem cvuRun_setCvuRun (d : Dev) (u v : Nat) : (d.setCvuRun u v).cvuRun u = v % 2 ^ 64 := by
  obtain ⟨hne, -⟩ := @cvuRegs_apart u u
  unfold Dev.cvuRun Dev.setCvuRun
  rw [reg_setReg_same, reg_setReg_ne hne, reg_setReg_same]
  omega

theorem cvuRun_setReg_cfg (d : Dev) (u v w : Nat) : (d.setReg (Reg.cvuCfg v) w).cvuRun u = d.cvuRun u := by
  obtain ⟨-, hlo, hhi, -⟩ := @cvuRegs_apart u v
  unfold Dev.cvuRun
  rw [reg_setReg_ne hlo, reg_setReg_ne hhi]

theorem reg_setCvuRun_cfg (d : Dev) (u v w : Nat) : (d.setCvuRun u w).reg (Reg.cvuCfg v) = d.reg (Reg.cvuCfg v) := by
  obtain ⟨-, hlo, hhi, -⟩ := @cvuRegs_apart u v
  unfold Dev.setCvuRun
  rw [reg_setReg_ne hhi.symm, reg_setReg_ne hlo.symm]

theorem cvuRun_modCvu (d : Dev) (u k : Nat) (f : Cvu → Cvu) : (d.modCvu k f).cvuRun u = d.cvuRun u := rfl

theorem setCvuRun_cvu (d : Dev) (u v k : Nat) : (d.setCvuRun u v).cvu k = d.cvu k := rfl

theorem crcAlg_init_lt (p : Nat) : (crcAlg p).init < 2 ^ 64 := by
  unfold crcAlg
  split <;> decide

/-! ### A scan starts, takes bytes and ends (18 R434) -/

/-- What a start leaves, the algorithm's initial value or the one held in `CVU_RUN`. -/
theorem cvuStart_spec (d : Dev) (u : Nat) :
    ((d.cvuStart u).cvu u).busy = true ∧ ((d.cvuStart u).cvu u).halted = false ∧ ((d.cvuStart u).cvu u).rdErr = false ∧
      ((d.cvuStart u).cvu u).done = 0 ∧ ((d.cvuStart u).cvu u).left = d.reg (Reg.cvuLen u) ∧
      ((d.cvuStart u).cvu u).res = (d.cvu u).res ∧
      (d.cvuStart u).cvuRun u = (if d.flag (Reg.cvuCfg u) 1 then d.cvuRun u else (d.cvuAlg u).init) ∧
      ∀ v, v ≠ u → (d.cvuStart u).cvu v = d.cvu v := by
  obtain ⟨-, -, -, -, hlo, hhi⟩ := @cvuRegs_apart u u
  have hlen : (d.setCvuRun u (d.cvuAlg u).init).reg (Reg.cvuLen u) = d.reg (Reg.cvuLen u) := by
    unfold Dev.setCvuRun
    rw [reg_setReg_ne hhi, reg_setReg_ne hlo]
  have hrun : (d.setCvuRun u (d.cvuAlg u).init).cvuRun u = (d.cvuAlg u).init := by
    rw [cvuRun_setCvuRun]
    exact Nat.mod_eq_of_lt (crcAlg_init_lt _)
  unfold Dev.cvuStart
  dsimp only
  rw [cvuRun_modCvu, cvu_modCvu_same]
  split
  · exact ⟨rfl, rfl, rfl, rfl, rfl, rfl, rfl, fun v hv => cvu_modCvu_ne hv d _⟩
  · exact ⟨rfl, rfl, rfl, rfl, hlen, rfl, hrun, fun v hv => (cvu_modCvu_ne hv _ _).trans (setCvuRun_cvu _ _ _ _)⟩

/-- What the bytes that a scan still required leave. -/
theorem cvuTake_spec (d : Dev) (u : Nat) (bytes : List Byte) :
    let bs := bytes.take (d.cvu u).left
    let e := d.cvuTake u bytes
    let run := (d.cvuAlg u).across (d.cvuRun u) bs
    (e.cvu u).done = (d.cvu u).done + bs.length ∧ (e.cvu u).left = (d.cvu u).left - bs.length ∧
      (e.cvu u).busy = ((d.cvu u).busy && decide ((d.cvu u).left ≠ bs.length)) ∧ e.cvuRun u = run % 2 ^ 64 ∧
      ((d.cvu u).left = bs.length → d.flag (Reg.cvuCfg u) 4 = true → (e.cvu u).res = BitVec.ofNat 64 ((d.cvuAlg u).finish run)) ∧
      ∀ v, v ≠ u → e.cvu v = d.cvu v := by
  intro bs e run
  have hle : bs.length ≤ (d.cvu u).left := List.length_take_le _ _
  obtain ⟨m, hm⟩ : ∃ m, m = (d.setCvuRun u run).modCvu u
      (fun x => { x with done := x.done + bs.length, left := x.left - bs.length }) := ⟨_, rfl⟩
  have hcvu : m.cvu u = { d.cvu u with done := (d.cvu u).done + bs.length, left := (d.cvu u).left - bs.length } := by
    rw [hm, cvu_modCvu_same, setCvuRun_cvu]
  have hother : ∀ v, v ≠ u → m.cvu v = d.cvu v := fun v hv => by rw [hm, cvu_modCvu_ne hv, setCvuRun_cvu]
  have hrun : m.cvuRun u = run % 2 ^ 64 := by rw [hm, cvuRun_modCvu, cvuRun_setCvuRun]
  have hfinal : m.flag (Reg.cvuCfg u) 4 = d.flag (Reg.cvuCfg u) 4 := by
    rw [hm]
    exact congrArg (bit · 4) (reg_setCvuRun_cfg d u u run)
  have he : e = if (m.cvu u).left = 0 then
      m.modCvu u (fun x => { x with
        busy := false, res := if m.flag (Reg.cvuCfg u) 4 then BitVec.ofNat 64 ((d.cvuAlg u).finish run) else x.res })
      else m := by
    rw [hm]
    rfl
  rw [he]
  have hleft : (m.cvu u).left = (d.cvu u).left - bs.length := by rw [hcvu]
  rw [hleft]
  split
  · next hz =>
    have heq : (d.cvu u).left = bs.length := by omega
    rw [cvu_modCvu_same, cvuRun_modCvu, hcvu, hfinal, heq]
    exact ⟨rfl, rfl, by simp, hrun, fun _ hf => if_pos hf, fun v hv => (cvu_modCvu_ne hv _ _).trans (hother v hv)⟩
  · next hz =>
    have hne : (d.cvu u).left ≠ bs.length := by omega
    rw [hcvu]
    exact ⟨rfl, rfl, by simp [hne], hrun, fun h => absurd h hne, hother⟩

/-! ### The commands of a unit -/

section
variable {s : State} {u : Fin 4} {data : BitVec 32} (hd : s.dev.dev = .config ∨ s.dev.dev = .run)
include hd

theorem cvuGo_next (hb : (s.dev.cvu u).busy = false) (hgo : bit data.toNat 31 = true) (hp : bits data.toNat 10 8 ≤ 4) :
    ∃ t, exec (.cvuGo u data false) s = .next t ∧ t.pending = s.pending ∧ (t.dev.cvu u).busy = true ∧
      (t.dev.cvu u).halted = false ∧ (t.dev.cvu u).rdErr = false ∧ (t.dev.cvu u).done = 0 ∧
      (t.dev.cvu u).left = s.dev.reg (Reg.cvuLen u) ∧ (t.dev.cvu u).res = (s.dev.cvu u).res ∧
      (bit data.toNat 1 = false → t.dev.cvuRun u = (crcAlg (bits data.toNat 10 8)).init) ∧
      (bit data.toNat 1 = true → t.dev.cvuRun u = s.dev.cvuRun u) ∧
      ∀ v, v ≠ u.val → t.dev.cvu v = s.dev.cvu v := by
  obtain ⟨w, hw, hpoly, hseed⟩ := barWrite_go (d := s.dev.fresh) hd hb hgo hp
  have hf : cvuGoEffect u data.toNat false s.dev.fresh = (s.dev.fresh.setReg (Reg.cvuCfg u) w).cvuStart u := by
    unfold cvuGoEffect
    dsimp only
    rw [hgo, hw, Bool.false_and, Bool.false_and, Bool.false_and, Bool.false_and]
    rfl
  obtain ⟨t, ht, hpend, hdev⟩ := run_fresh (cvuGoEffect u data.toNat false) s
  obtain ⟨hbusy, hhalt, herr, hdone, hleft, hres, hrun, hother⟩ := cvuStart_spec (s.dev.fresh.setReg (Reg.cvuCfg u) w) u
  have hcfg : (s.dev.fresh.setReg (Reg.cvuCfg u) w).reg (Reg.cvuCfg u) = w % 2 ^ 32 := reg_setReg_same _ _ _
  have hflag : (s.dev.fresh.setReg (Reg.cvuCfg u) w).flag (Reg.cvuCfg u) 1 = bit data.toNat 1 := by
    have h := bits_mod_word (v := w) (hi := 1) (lo := 1) (by omega) (by omega)
    rw [Dev.flag, hcfg, ← hseed, bit_eq_bits, h, ← bit_eq_bits]
  have halg : (s.dev.fresh.setReg (Reg.cvuCfg u) w).cvuAlg u = crcAlg (bits data.toNat 10 8) := by
    rw [Dev.cvuAlg, Dev.fld, hcfg, bits_mod_word (by omega) (by omega), hpoly]
  rw [hflag, halg, cvuRun_setReg_cfg] at hrun
  refine ⟨t, ht, hpend, ?_⟩
  rw [hdev, hf]
  refine ⟨hbusy, hhalt, herr, hdone, ?_, hres, fun h => ?_, fun h => ?_, hother⟩
  · obtain ⟨-, -, -, hlen, -⟩ := @cvuRegs_apart u u
    exact hleft.trans (reg_setReg_ne hlen _ _)
  · exact hrun.trans (by rw [h]; rfl)
  · exact hrun.trans (by rw [h]; rfl)

theorem cvuHalt_next (hb : (s.dev.cvu u).busy = true) (hv : bit data.toNat 30 = true) :
    ∃ t, exec (.cvuHalt u data) s = .next t ∧ t.pending = s.pending ∧
      t.dev = { (s.dev.modCvu u (fun x => { x with busy := false, halted := true, rdErr := false })) with posted := [] } := by
  have hf : cvuHaltEffect u data.toNat s.dev.fresh = s.dev.fresh.cvuStop u false := by
    rw [cvuHaltEffect, if_pos hv]
    exact barWrite_halt (d := s.dev.fresh) hd hb hv
  obtain ⟨t, ht, hp, -, hdev⟩ := run_gives hf rfl
  exact ⟨t, ht, hp, hdev⟩

theorem cvuFeed_next (hb : (s.dev.cvu u).busy = true) (hsrc : s.dev.flag (Reg.cvuCfg u) 0 = true) (hl : 0 < (s.dev.cvu u).left) :
    ∃ t, exec (.cvuFeed u data) s = .next t ∧ t.pending = s.pending ∧
      (t.dev.cvu u).done = (s.dev.cvu u).done + min 4 (s.dev.cvu u).left ∧
      (t.dev.cvu u).left = (s.dev.cvu u).left - 4 ∧
      (t.dev.cvu u).busy = decide (4 < (s.dev.cvu u).left) ∧
      t.dev.cvuRun u = ((crcAlg (s.dev.fld (Reg.cvuCfg u) 10 8)).across (s.dev.cvuRun u)
        ((leBytes 4 data.toNat).take (s.dev.cvu u).left)) % 2 ^ 64 ∧
      ∀ v, v ≠ u.val → t.dev.cvu v = s.dev.cvu v := by
  have hf : s.dev.fresh.barWrite (Reg.cvuFeed u) 4 data.toNat = s.dev.fresh.cvuTake u (leBytes 4 data.toNat) :=
    barWrite_feed (d := s.dev.fresh) hd hb hsrc data
  obtain ⟨t, ht, hp, hdev⟩ := run_fresh (fun d => d.barWrite (Reg.cvuFeed u) 4 data.toNat) s
  have hspec := cvuTake_spec s.dev.fresh u (leBytes 4 data.toNat)
  dsimp only at hspec
  rw [← hf] at hspec
  generalize s.dev.fresh.barWrite (Reg.cvuFeed u) 4 data.toNat = e at hdev hspec
  obtain ⟨hdone, hleft, hbusy, hrun, -, hother⟩ := hspec
  have hlen : ((leBytes 4 data.toNat).take (s.dev.cvu u).left).length = min 4 (s.dev.cvu u).left := by
    rw [List.length_take, Nat.min_comm]
    rfl
  refine ⟨t, ht, hp, ?_⟩
  rw [hdev]
  refine ⟨hdone.trans (congrArg _ hlen), hleft.trans ?_, hbusy.trans ?_, hrun, hother⟩
  · change (s.dev.cvu u).left - ((leBytes 4 data.toNat).take (s.dev.cvu u).left).length = _
    rw [hlen]
    omega
  · change ((s.dev.cvu u).busy && decide ((s.dev.cvu u).left ≠ ((leBytes 4 data.toNat).take (s.dev.cvu u).left).length)) = _
    rw [hlen, hb, Bool.true_and]
    exact decide_eq_decide.mpr (by omega)

end

theorem cvuScanDone_next {s : State} {u : Fin 4} {bytes : List Byte} (hb : (s.dev.cvu u).busy = true)
    (hsrc : s.dev.flag (Reg.cvuCfg u) 0 = false) (hbme : (s.dev.fn 0).bme = true) (hl : bytes.length = (s.dev.cvu u).left) :
    ∃ t, exec (.cvuScanDone u bytes false) s = .next t ∧ t.pending = s.pending ∧
      (t.dev.cvu u).busy = false ∧ (t.dev.cvu u).left = 0 ∧ (t.dev.cvu u).done = (s.dev.cvu u).done + bytes.length ∧
      (s.dev.flag (Reg.cvuCfg u) 4 = true →
        (t.dev.cvu u).res = BitVec.ofNat 64 ((crcAlg (s.dev.fld (Reg.cvuCfg u) 10 8)).finish
          ((crcAlg (s.dev.fld (Reg.cvuCfg u) 10 8)).across (s.dev.cvuRun u) bytes))) ∧
      ∀ v, v ≠ u.val → t.dev.cvu v = s.dev.cvu v := by
  have hf : cvuScanDoneEffect u bytes false s.dev.fresh = s.dev.fresh.cvuTake u bytes := by
    have hon : ((s.dev.fresh.cvu u).busy && !s.dev.fresh.cvuFed u && (s.dev.fresh.fn 0).bme) = true := by
      change ((s.dev.cvu u).busy && !s.dev.flag (Reg.cvuCfg u) 0 && (s.dev.fn 0).bme) = true
      rw [hb, hsrc, hbme]
      rfl
    rw [cvuScanDoneEffect, if_pos hon]
    rfl
  obtain ⟨t, ht, hp, hdev⟩ := run_fresh (cvuScanDoneEffect u bytes false) s
  have htake : bytes.take (s.dev.fresh.cvu u).left = bytes := List.take_of_length_le (Nat.le_of_eq hl)
  have hspec := cvuTake_spec s.dev.fresh u bytes
  dsimp only at hspec
  rw [htake, hl, ← hf] at hspec
  generalize cvuScanDoneEffect u bytes false s.dev.fresh = e at hdev hspec
  obtain ⟨hdone, hleft, hbusy, -, hres, hother⟩ := hspec
  refine ⟨t, ht, hp, ?_⟩
  rw [hdev, hl]
  exact ⟨hbusy.trans (by simp), hleft.trans (Nat.sub_self _), hdone, hres rfl, hother⟩

/-- Settles O12, by what each access makes of the unit: the start, the halt, or the bytes taken into the running value. -/
theorem checkValueScan : Obligations.CheckValueScan := fun _ _ _ hd =>
  ⟨cvuGo_next hd, cvuHalt_next hd, cvuFeed_next hd, fun _ => cvuScanDone_next⟩

end Sys2Proof.Machine
end

section
/-! SUPPORT. Scrubbing (18 R429-R432, Tables IN.2, IN.3): what a scrub of a cell, of a line and of a copy leaves. -/

namespace Sys2Proof.Machine

/-! ### Cells -/

section
variable {s : State} {cell : Nat} {res : ScrubResult} {use : Option CellUse} (hclk : s.dev.dev.clocked = true) (hcell : cell < 98304)
include hclk hcell

theorem scrub_due : ¬ ((!s.dev.fresh.dev.clocked) = true ∨ 98304 ≤ cell) := by
  rw [show s.dev.fresh.dev.clocked = true from hclk]
  exact fun h => h.elim (by decide) (Nat.not_le.mpr hcell)

/-- A scrub that finds nothing beyond correction, or only a free cell, is a report at most. -/
theorem frameStoreScrub_report (h : res ≠ .uncorrectable ∨ use = none) : Reaches (exec (.frameStoreScrub cell res use) s) s s.dev := by
  have hdue := scrub_due hclk hcell
  refine run_reaches (f := frameStoreScrubEffect cell res use) ?_
  cases res with
  | clean =>
    rw [show frameStoreScrubEffect cell .clean use s.dev.fresh = s.dev.fresh from if_neg hdue]
    exact fresh_reports _
  | corrected =>
    rw [show frameStoreScrubEffect cell .corrected use s.dev.fresh = s.dev.fresh.count 39 7 1 none 1 from if_neg hdue]
    exact (fresh_reports _).trans (count_reports _ _ _ _ _ _)
  | uncorrectable =>
    rw [h.resolve_left (fun hn => hn rfl),
      show frameStoreScrubEffect cell .uncorrectable none s.dev.fresh = s.dev.fresh from if_neg hdue]
    exact fresh_reports _

theorem frameStoreScrub_marks {u : CellUse} :
    Reaches (exec (.frameStoreScrub cell .uncorrectable (some u)) s) s (s.dev.markCell u cell) := by
  refine run_reaches (f := frameStoreScrubEffect cell .uncorrectable (some u)) ?_
  rw [show frameStoreScrubEffect cell .uncorrectable (some u) s.dev.fresh = s.dev.fresh.markCell u cell from if_neg (scrub_due hclk hcell)]
  cases u <;> exact ⟨rfl, fun _ _ => rfl⟩

end

/-! ### Places of the Marimba -/

/-- The maintenance record may be that of the device that a report leaves. -/
theorem Reports.with_mnt {a b : Dev} (h : Reports a b) : Reports { a with mnt := b.mnt } b :=
  ⟨congrArg (fun c => { c with mnt := { b.mnt with fclass := 0 } }) h.1, h.2⟩

/-- A place is noted among those that the scrubber comes back to. -/
def Dev.noteRevisit (d : Dev) (code : Nat) : Dev :=
  if d.mnt.revisit.contains code then d else { d with mnt := { d.mnt with revisit := code :: d.mnt.revisit } }

theorem noteRevisit_mem (d : Dev) (code : Nat) : code ∈ (d.noteRevisit code).mnt.revisit := by
  unfold Dev.noteRevisit
  split
  · next h => exact List.contains_iff_mem.mp h
  · exact List.mem_cons_self

theorem noteRevisit_only (d : Dev) (code : Nat) : d.noteRevisit code = { d with mnt := (d.noteRevisit code).mnt } := by
  unfold Dev.noteRevisit
  split <;> rfl

/-- The scrubber has come to a place. -/
def Dev.leaveRevisit (d : Dev) (code : Nat) : Dev :=
  { d with mnt := { d.mnt with revisit := d.mnt.revisit.filter (fun c => decide (c ≠ code)) } }

section
variable {s : State} {w : MarPlace} {res : ScrubResult} (hclk : s.dev.dev.clocked = true) (hon : s.dev.flag Reg.marCtrl 2 = true)
include hclk hon

theorem marimbaScrubEffect_on (commits : Bool) :
    marimbaScrubEffect w res commits s.dev.fresh =
      if commits then (s.dev.fresh.raise .mnt 3).noteRevisit (marCode w)
      else
        match res, w with
        | .clean, _ => s.dev.fresh.leaveRevisit (marCode w)
        | .corrected, .line _ => (s.dev.fresh.leaveRevisit (marCode w)).count 34 7 2 none 1
        | .corrected, .copy .. => (s.dev.fresh.leaveRevisit (marCode w)).count 34 7 3 none 1
        | .uncorrectable, .line _ =>
          let f := (s.dev.fresh.leaveRevisit (marCode w)).free
          f.2.faultEvent 0x03 (f.1.toNat % 2 ^ 32) 0xFF 0
        | .uncorrectable, .copy nh up seg shadow =>
          if seg < 16 then (s.dev.fresh.leaveRevisit (marCode w)).loseCopy nh up seg shadow
          else s.dev.fresh.leaveRevisit (marCode w) := by
  have hclk' : s.dev.fresh.dev.clocked = true := hclk
  have hon' : s.dev.fresh.flag Reg.marCtrl 2 = true := hon
  unfold marimbaScrubEffect
  rw [hclk', hon', if_neg (by decide)]
  rfl

/-- A scrub that meets a commit yields. -/
theorem marimbaScrub_yields :
    ∃ t, exec (.marimbaScrub w res true) s = .next t ∧ t.pending = s.pending ∧ t.dev.flag Reg.mntStat 3 = true ∧
      marCode w ∈ t.dev.mnt.revisit ∧ Reports { s.dev with mnt := t.dev.mnt } t.dev := by
  obtain ⟨t, ht, hp, hdev⟩ := run_fresh (marimbaScrubEffect w res true) s
  rw [marimbaScrubEffect_on hclk hon, if_pos rfl] at hdev
  have hseen : (s.dev.fresh.raise .mnt 3).flag Reg.mntStat 3 = true := flag_raise (by decide) _ .mnt
  have hr : Reports s.dev (s.dev.fresh.raise .mnt 3) := (fresh_reports _).trans (raise_reports _ _ _)
  generalize s.dev.fresh.raise .mnt 3 = d at hdev hseen hr
  refine ⟨t, ht, hp, ?_⟩
  rw [hdev]
  refine ⟨?_, noteRevisit_mem d _, ?_⟩
  · rw [noteRevisit_only]
    exact hseen
  · rw [noteRevisit_only]
    exact ⟨congrArg (fun c => { c with mnt := { (d.noteRevisit (marCode w)).mnt with fclass := 0 } }) hr.1, hr.2⟩

theorem marimbaScrub_report (h : res ≠ .uncorrectable ∨ ∃ n, w = .line n) :
    Reaches (exec (.marimbaScrub w res false) s) s (s.dev.leaveRevisit (marCode w)) := by
  refine run_reaches (f := marimbaScrubEffect w res false) ?_
  rw [marimbaScrubEffect_on hclk hon, if_neg (by decide)]
  have hr : Reports (s.dev.leaveRevisit (marCode w)) (s.dev.fresh.leaveRevisit (marCode w)) := ⟨rfl, fun _ _ => rfl⟩
  generalize s.dev.fresh.leaveRevisit (marCode w) = d at hr ⊢
  cases res with
  | clean => exact hr
  | corrected => cases w <;> exact hr.trans (count_reports _ _ _ _ _ _)
  | uncorrectable =>
    obtain ⟨n, rfl⟩ := h.resolve_left (fun hn => hn rfl)
    exact (hr.trans (free_reports d)).trans (faultEvent_reports _ _ _ _ _)

end

/-! ### A copy is lost -/

/-- What the loss of a copy leaves: the copy is gone, every other key stays, and beyond the keys only sessions and maintenance moved. -/
structure CopyLost (a e : Dev) (i : Nat) (shadow : Bool) : Prop where
  shadowGone : shadow = true → (e.key i).shadow = none
  activeGone : shadow = false → (e.key i).active = none
  others : ∀ j, j ≠ i → e.key j = a.key j
  only : Reports { a with keys := e.keys, sess := e.sess, mnt := e.mnt } e

theorem CopyLost.openSession {a e : Dev} {i : Nat} {shadow : Bool} (h : CopyLost a e i shadow) (nh : Nat) (up : Bool) (segs : Nat)
    (mark : Option Nat) (cmds : List Nat) : CopyLost a (e.openSession nh up segs mark cmds) i shadow := by
  obtain ⟨ss, m, n, he⟩ := openSession_eq e nh up segs mark cmds
  rw [he]
  exact ⟨h.shadowGone, h.activeGone, h.others, ⟨congrArg (fun c => { c with sess := ss, mnt := { m with fclass := 0 } }) h.only.1, h.only.2⟩⟩

theorem CopyLost.of_modKey {a d : Dev} {i : Nat} {shadow : Bool} {f : MapKey → MapKey} (hr : Reports { a with mnt := d.mnt } d)
    (hs : shadow = true → ∀ k, (f k).shadow = none) (ha : shadow = false → ∀ k, (f k).active = none) : CopyLost a (d.modKey i f) i shadow := by
  refine ⟨fun h => ?_, fun h => ?_, fun j hj => ?_, ?_⟩
  · rw [key_modKey_same, hs h]
  · rw [key_modKey_same, ha h]
  · rw [key_modKey_ne hj]
    exact hr.key j
  · exact (hr.set_keys (d.modKey i f).keys).set_sess d.sess

/-- A copy that is not there is lost already. -/
theorem CopyLost.of_none {a d : Dev} {i : Nat} {shadow : Bool} (hr : Reports { a with mnt := d.mnt } d)
    (hn : (if shadow then (d.key i).shadow else (d.key i).active).isNone = true) : CopyLost a d i shadow := by
  have hgone := Option.isNone_iff_eq_none.mp hn
  refine ⟨fun h => ?_, fun h => ?_, fun j _ => hr.key j, (hr.set_keys d.keys).set_sess d.sess⟩
  · rwa [if_pos h] at hgone
  · rwa [if_neg (by rw [h]; decide)] at hgone

theorem loseCopy_spec {a d : Dev} (hr : Reports { a with mnt := d.mnt } d) (nh : Nat) (up : Bool) (seg : Nat) (shadow : Bool) :
    CopyLost a (d.loseCopy nh up seg shadow) (keyIx nh up seg) shadow := by
  unfold Dev.loseCopy
  extract_lets i k sched told lost
  by_cases hn : (if shadow then k.shadow else k.active).isNone = true
  · rw [if_pos hn]
    exact CopyLost.of_none hr hn
  · rw [if_neg hn]
    have ht : Reports { a with mnt := told.mnt } told := (hr.trans (faultEvent_reports d 0x02 nh (d.node nh).grp (seg + 16 * b2n up))).with_mnt
    clear_value told
    have hlost : CopyLost a lost i shadow := by
      cases shadow with
      | true => exact CopyLost.of_modKey (f := fun k => { k with shadow := none }) ht (fun _ _ => rfl) Bool.noConfusion
      | false =>
        exact CopyLost.of_modKey (f := fun k => { k with active := none, stale := false, built := k.built && !sched }) ht Bool.noConfusion
          (fun _ _ => rfl)
    split
    · exact hlost
    · exact hlost.openSession _ _ _ _ _

theorem marimbaScrub_loses {s : State} {nh seg : Nat} {up shadow : Bool} (hclk : s.dev.dev.clocked = true)
    (hon : s.dev.flag Reg.marCtrl 2 = true) (hseg : seg < 16) :
    ∃ t, exec (.marimbaScrub (.copy nh up seg shadow) .uncorrectable false) s = .next t ∧ t.pending = s.pending ∧
      (shadow = true → (t.dev.key (keyIx nh up seg)).shadow = none) ∧
      (shadow = false → (t.dev.key (keyIx nh up seg)).active = none) ∧
      (∀ i, i ≠ keyIx nh up seg → t.dev.key i = s.dev.key i) ∧
      Reports { s.dev with keys := t.dev.keys, sess := t.dev.sess, mnt := t.dev.mnt } t.dev := by
  obtain ⟨t, ht, hp, hdev⟩ := run_fresh (marimbaScrubEffect (.copy nh up seg shadow) .uncorrectable false) s
  rw [marimbaScrubEffect_on hclk hon, if_neg (by decide)] at hdev
  dsimp only at hdev
  rw [if_pos hseg] at hdev
  obtain ⟨d, hd⟩ : ∃ d, d = s.dev.fresh.leaveRevisit (marCode (.copy nh up seg shadow)) := ⟨_, rfl⟩
  have hr : Reports { s.dev with mnt := d.mnt } d := hd ▸ ⟨rfl, fun _ _ => rfl⟩
  rw [← hd] at hdev
  have hlost := loseCopy_spec hr nh up seg shadow
  generalize d.loseCopy nh up seg shadow = e at hdev hlost
  refine ⟨t, ht, hp, ?_⟩
  rw [hdev]
  exact ⟨hlost.shadowGone, hlost.activeGone, hlost.others, hlost.only.trans (fresh_reports e)⟩

/-- Settles O52, by what each outcome of a scrub does: a count, a mark on the cell, a place to come back to, or a copy that goes. -/
theorem scrubbing : Obligations.Scrubbing := by
  intro s hclk
  refine ⟨fun cell res use hcell => ⟨frameStoreScrub_report hclk hcell, ?_⟩, fun w res hon => ⟨marimbaScrub_yields hclk hon,
    marimbaScrub_report hclk hon, ?_⟩⟩
  · rintro u rfl rfl
    exact frameStoreScrub_marks hclk hcell
  · rintro nh up seg shadow rfl rfl hseg
    exact marimbaScrub_loses hclk hon hseg

end Sys2Proof.Machine
end

section
/-! SUPPORT. Link keys (19 R453, R454, R456): the key-encryption key, the slots of a node, and the resets that leave neither. -/

namespace Sys2Proof.Machine

/-! ### Accepted commands whose object or further range fails (16 Table CE.2) -/

section
variable {s : State} {c : CmdDesc} {sp : CmdSpec} {obj arg : Dev → CmdDesc → Bool} {eff : Nat → CmdDesc → Dev → Dev}
  (h : Accepted s c sp)
include h

theorem accepted_known : cmdStates c.opc.toNat ≠ none := by
  obtain ⟨-, -, hopc, hacc, -⟩ := h
  intro hn
  rw [hopc] at hn
  rw [Dev.accepts, hn] at hacc
  exact Bool.false_ne_true hacc

theorem accepted_onRing : OnRing s c sp := ⟨h.1, fun hn => hn.2.2 h.2.2.1⟩

theorem object_fails_serves (ho : obj s.dev.fresh c = false) : Serves (run (command sp obj arg eff c) s) s s.dev stBadState [] :=
  refused_serves (accepted_onRing h) (judge_badState h.2.1 (accepted_known h) (by rw [ho, Bool.and_false]))

theorem range_fails_serves (ho : obj s.dev.fresh c = true) (ha : arg s.dev.fresh c = false) :
    Serves (run (command sp obj arg eff c) s) s s.dev stInvalid [] := by
  have hknown := accepted_known h
  have hring := accepted_onRing h
  obtain ⟨-, hdt, hopc, hacc, hraddr, hblock, hargs⟩ := h
  refine refused_serves hring ?_
  have hacc' : s.dev.fresh.accepts c.opc.toNat = true := by rw [hopc]; exact hacc
  unfold judge
  rw [hdt, if_neg (by decide), if_neg hknown, ho, hacc', hraddr, hblock, ha, Bool.and_false]
  rfl

end

/-! ### A device reset leaves no key (19 R453, R456) -/

/-- No key-encryption key is held and no link key. -/
def Keyless (d : Dev) : Prop := d.sec.kek = none ∧ ∀ h, (d.node h).key0 = none ∧ (d.node h).key1 = none

theorem level3_keyless (d : Dev) (cause : Nat) : Keyless (d.level3 cause) := ⟨rfl, fun _ => ⟨rfl, rfl⟩⟩

theorem Keyless.of_same {a b : Dev} (h : Keyless a) (hk : b.sec.kek = a.sec.kek) (hn : b.nodes = a.nodes) : Keyless b := by
  refine ⟨hk.trans h.1, fun i => ?_⟩
  have hnode : b.node i = a.node i := congrArg (SMap.get (fun _ => Node.init) i) hn
  rw [hnode]
  exact h.2 i

theorem Keyless.reports {a b : Dev} (h : Keyless a) (hr : Reports a b) : Keyless b := h.of_same (congrArg Sec.kek hr.sec) hr.nodes

theorem Keyless.set_sec {d : Dev} (h : Keyless d) (x : Sec) (hx : x.kek = d.sec.kek) : Keyless { d with sec := x } := ⟨hx.trans h.1, h.2⟩

theorem Keyless.ite {p : Prop} [Decidable p] {a b : Dev} (ha : Keyless a) (hb : Keyless b) : Keyless (if p then a else b) := by
  split <;> assumption

theorem trySource_keyless {d : Dev} (h : Keyless d) (x : Nat × BootSrc) : Keyless (d.trySource x) := by
  unfold Dev.trySource
  split
  · exact h
  · extract_lets size copied taken
    have htaken : Keyless taken := .ite (h.set_sec copied rfl) h
    clear_value taken
    split
    · exact htaken.set_sec _ rfl
    · next code _ =>
      exact (htaken.set_sec { taken.sec with attempts := taken.sec.attempts + 1, lastFail := code } rfl).reports (count_reports _ _ _ _ _ _)

theorem runRom_keyless {d : Dev} (h : Keyless d) (io : BootIo) : Keyless (d.runRom io) := by
  have hbegun : Keyless (d.romBegun io) := h.of_same rfl rfl
  have htested := hbegun.reports (romTested_reports d io)
  rw [runRom_eq]
  generalize hl : d.romLogged io = l
  have hlogged : Keyless l := by
    obtain ⟨tk, op, hset⟩ := settleDebug_eq (d.romTested io) io
    have hsettled := (htested.set_sec { (d.romTested io).sec with nonce := io.nonce, token := tk, dbgOpen := op } rfl).reports hset
    rw [← hl]
    exact hsettled.set_sec _ rfl
  split
  · exact htested.of_same rfl rfl
  · exact List.foldlRecOn _ Dev.trySource hlogged fun e he x _ => trySource_keyless he x

theorem startRom_keyless {d : Dev} (h : Keyless d) (io : BootIo) : Keyless (d.startRom io) := by
  unfold Dev.startRom
  split
  · exact h.of_same rfl rfl
  · exact runRom_keyless h io

theorem releaseReset_keyless {d : Dev} (h : Keyless d) (io : BootIo) : Keyless (d.releaseReset io) := by
  obtain ⟨ps, hps⟩ := derateAll_eq d
  rw [releaseReset_eq, hps]
  have hports : Keyless { d with ports := ps } := h
  exact startRom_keyless hports io

theorem commandedReset_keyless (d : Dev) (io : BootIo) : Keyless (d.commandedReset io) := by
  have htrain : Keyless { d.level3 2 with pwr := { (d.level3 2).pwr with training := (d.level3 2).pwr.perst } } :=
    (level3_keyless d 2).of_same rfl rfl
  unfold Dev.commandedReset
  extract_lets reset supply train
  change Keyless train at htrain
  split
  · exact releaseReset_keyless htrain io
  · exact htrain

theorem perstFall_keyless {s : State} (h : s.dev.dev = .config ∨ s.dev.dev = .run ∨ s.dev.dev = .safe) :
    ∃ t, exec .perstFall s = .next t ∧ t.pending = s.pending ∧ Keyless t.dev := by
  obtain ⟨t, ht, hp, -, hdev⟩ := run_gives (perstFallEffect_live (d := s.dev.fresh) h) rfl
  refine ⟨t, ht, hp, ?_⟩
  rw [hdev]
  exact (level3_keyless s.dev.fresh 1).of_same rfl rfl

theorem devReset_keyless {s : State} {c : CmdDesc} (io : BootIo) (h : Accepted s c { CmdSpec.plain 0x03 with m2 := 0xFFFF }) (hl : c.n2 = 3) :
    ∃ t, exec (.devReset c io) s = .next t ∧ t.pending = s.pending ∧ Keyless t.dev := by
  obtain ⟨t, d, ht, hp, hdev, -⟩ := devReset_next io h hl
  refine ⟨t, ht, hp, ?_⟩
  rw [hdev]
  exact (commandedReset_keyless d io).of_same rfl rfl

/-! ### `SEC_STAT` -/

/-- Bit 0 of `SEC_STAT` is a live field: it is not stored. -/
theorem readReg_secStat_kek (d : Dev) : bit (d.readReg Reg.secStat).toNat 0 = d.sec.kek.isSome := by
  have hreg : ∃ r ix, regAt Reg.secStat = some (r, ix) ∧ bit (storedMask r) 0 = false := ⟨_, _, rfl, by decide⟩
  obtain ⟨r, ix, hr, hmask⟩ := hreg
  have hlive : d.live Reg.secStat = b2n d.sec.kek.isSome := rfl
  have hbit : ∀ (w : BitVec 32) (k : Nat), bit w.toNat k = w.getLsbD k := fun w k => by
    rw [BitVec.getLsbD, Nat.testBit_eq_decide_div_mod_eq]
    rfl
  have hmask' : (BitVec.ofNat 32 (storedMask r)).getLsbD 0 = false := by
    rw [BitVec.getLsbD_ofNat, Nat.testBit_eq_decide_div_mod_eq]
    exact (Bool.and_eq_false_iff.mpr (.inr hmask))
  unfold Dev.readReg
  rw [hr, hbit]
  dsimp only
  rw [BitVec.getLsbD_or, BitVec.getLsbD_and, hmask', Bool.and_false, Bool.false_or, hlive]
  cases d.sec.kek.isSome <;> rfl

/-! ### KEK_SET -/

section
variable {s : State} {c : CmdDesc}

theorem kekSet_outside_config (hd : s.dev.dev ≠ .config) (hready : s.dev.cmdReady = true) (hdt : c.dt = 4) (hopc : c.opc = 0x30) :
    Serves (exec (.kekSet c) s) s s.dev stBadState [] := by
  have hnat : c.opc.toNat = 0x30 := by rw [hopc]; rfl
  have hacc : s.dev.fresh.accepts c.opc.toNat = false := by
    rw [hnat]
    change s.dev.accepts 0x30 = false
    unfold Dev.accepts
    cases hx : s.dev.dev <;> first | rfl | exact absurd hx hd
  exact refused_serves (sp := { CmdSpec.plain 0x30 with len := fun _ n => decide (n = 32) }) ⟨hready, fun h => h.2.2 hnat⟩
    (judge_badState hdt (by rw [hnat]; decide) (by rw [hacc, Bool.false_and]))

/-- The key-encryption key is taken. -/
def Dev.holdKek (d : Dev) (k : List Byte) : Dev := { d with sec := { d.sec with kek := some k } }

theorem kekSet_first (h : Accepted s c { CmdSpec.plain 0x30 with len := fun _ n => decide (n = 32) }) (hk : s.dev.sec.kek = none) :
    Serves (exec (.kekSet c) s) s { s.dev with sec := { s.dev.sec with kek := some c.bytes } } stOk [] := by
  have hf := fetched_reports s c
  have hheld : Reports (s.dev.holdKek c.bytes) ((s.dev.fresh.fetchCmd c).holdKek c.bytes) := by
    unfold Dev.holdKek
    rw [hf.sec]
    exact hf.set_sec _
  exact command_serves (obj := fun d _ => d.sec.kek.isNone) (arg := always) h (Option.isNone_iff_eq_none.mpr hk) rfl
    (eff := fun id c d => (d.holdKek c.bytes).finishSt id stOk) rfl hheld (fetched_outstanding s c)

theorem kekSet_again (h : Accepted s c { CmdSpec.plain 0x30 with len := fun _ n => decide (n = 32) }) (hk : s.dev.sec.kek ≠ none) :
    Serves (exec (.kekSet c) s) s s.dev stBadState [] :=
  object_fails_serves h (obj := fun d _ => d.sec.kek.isNone) (by
    rw [Bool.eq_false_iff]
    exact fun hn => hk (Option.isNone_iff_eq_none.mp hn))

/-! ### KEY_LOAD and KEY_INVAL -/

/-- The row of KEY_LOAD. -/
def keyLoadSpec : CmdSpec := { nodeSpec 0x31 0xF with len := fun c n => decide (n = if c.f1 1 1 = 1 then 40 else 32) }

/-- The key that a KEY_LOAD carries, in the words of the statement. -/
theorem loadedKey_eq (d : Dev) (c : CmdDesc) :
    d.loadedKey c = if c.f1 1 1 = 1 then d.sec.kek.bind (fun k => unwrapKey k c.bytes) else some c.bytes := by
  have hlt : c.f1 1 1 < 2 := bits_lt _
  have hcases : c.f1 1 1 = 0 ∨ c.f1 1 1 = 1 := by omega
  unfold Dev.loadedKey
  rcases hcases with h | h
  · rw [if_pos h, if_neg (by omega)]
  · rw [if_neg (by omega), if_pos h]
    cases d.sec.kek <;> rfl

/-- KEY_LOAD's own range: a wrapped key or clear keys allowed, and a node that has been admitted and not evicted. -/
def Dev.keyRange (d : Dev) (c : CmdDesc) : Bool :=
  (decide (c.f1 1 1 = 1) || d.flag Reg.secCtrl 0) && decide ((d.node c.n2).st ≠ .unknown ∧ (d.node c.n2).st ≠ .evicted)

theorem keyRange_iff (d : Dev) (c : CmdDesc) : d.keyRange c = true ↔
    ¬ ((c.f1 1 1 = 0 ∧ d.flag Reg.secCtrl 0 = false) ∨ (d.node c.n2).st = .unknown ∨ (d.node c.n2).st = .evicted) := by
  have hlt : c.f1 1 1 < 2 := bits_lt _
  have hone : c.f1 1 1 = 1 ↔ ¬ c.f1 1 1 = 0 := by omega
  unfold Dev.keyRange
  rw [Bool.and_eq_true, Bool.or_eq_true, decide_eq_true_iff, decide_eq_true_iff, hone, ← Bool.not_eq_true]
  tauto

/-- What KEY_LOAD does with the key it carries. -/
def Dev.loadKey (d : Dev) (id : Nat) (c : CmdDesc) : Dev :=
  match d.loadedKey c with
  | none => d.finishSt id stAuth
  | some k => (d.modNode c.n2 (fun n => n.takeKey (c.f1 0 0) k (decide (c.f1 2 2 = 1)) (decide (c.f1 3 3 = 1)))).finishSt id stOk

theorem exec_keyLoad (s : State) (c : CmdDesc) :
    exec (.keyLoad c) s = run (command keyLoadSpec always Dev.keyRange (fun id c d => d.loadKey id c) c) s := rfl

theorem keyLoad_out_of_range (h : Accepted s c keyLoadSpec) (hr : s.dev.keyRange c = false) :
    Serves (exec (.keyLoad c) s) s s.dev stInvalid [] := by
  rw [exec_keyLoad]
  exact range_fails_serves h rfl hr

theorem fetched_loadedKey (s : State) (c : CmdDesc) : (s.dev.fresh.fetchCmd c).loadedKey c = s.dev.loadedKey c := by
  rw [Dev.loadedKey, (fetched_reports s c).sec]
  rfl

theorem keyLoad_noKey (h : Accepted s c keyLoadSpec) (hr : s.dev.keyRange c = true) (hk : s.dev.loadedKey c = none) :
    Serves (exec (.keyLoad c) s) s s.dev stAuth [] := by
  rw [exec_keyLoad]
  refine command_serves (d := s.dev.fresh.fetchCmd c) h rfl hr ?_ (fetched_reports s c) (fetched_outstanding s c)
  rw [Dev.loadKey, fetched_loadedKey, hk]
  rfl

theorem keyLoad_takes {k : List Byte} (h : Accepted s c keyLoadSpec) (hr : s.dev.keyRange c = true) (hk : s.dev.loadedKey c = some k) :
    Serves (exec (.keyLoad c) s) s
      (s.dev.modNode c.n2 (fun n => n.takeKey (c.f1 0 0) k (decide (c.f1 2 2 = 1)) (decide (c.f1 3 3 = 1)))) stOk [] := by
  rw [exec_keyLoad]
  refine command_serves (d := (s.dev.fresh.fetchCmd c).modNode c.n2
    (fun n => n.takeKey (c.f1 0 0) k (decide (c.f1 2 2 = 1)) (decide (c.f1 3 3 = 1)))) h rfl hr ?_ ((fetched_reports s c).modNode _ _)
    (fetched_outstanding s c)
  rw [Dev.loadKey, fetched_loadedKey, hk]
  rfl

theorem keyInval_empties (h : Accepted s c (nodeSpec 0x32 1)) :
    Serves (exec (.keyInval c) s) s
      (s.dev.modNode c.n2 (fun n => if c.f1 0 0 = 0 then { n with key0 := none } else { n with key1 := none })) stOk [] :=
  command_serves (d := (s.dev.fresh.fetchCmd c).modNode c.n2 (fun n => n.noKey (c.f1 0 0))) h (obj := always) rfl (arg := always) rfl
    (eff := fun id c d => (d.modNode c.n2 (fun n => n.noKey (c.f1 0 0))).finishSt id stOk) rfl ((fetched_reports s c).modNode _ _)
    (fetched_outstanding s c)

end

/-- Settles O39, by what each command does with the key it carries; a device reset rebuilds the die without any key. -/
theorem linkKeys : Obligations.LinkKeys := by
  intro s c
  refine ⟨readReg_secStat_kek s.dev, perstFall_keyless, fun io => devReset_keyless io, kekSet_outside_config,
    fun h => ⟨kekSet_first h, kekSet_again h⟩, ?_, keyInval_empties⟩
  intro h key bad
  refine ⟨fun hb => ?_, fun hb hk => ?_, fun k hb hk => ?_⟩
  · exact keyLoad_out_of_range h (Bool.eq_false_iff.mpr fun hr => (keyRange_iff s.dev c).mp hr hb)
  · exact keyLoad_noKey h ((keyRange_iff s.dev c).mpr hb) ((loadedKey_eq s.dev c).trans hk)
  · exact keyLoad_takes h ((keyRange_iff s.dev c).mpr hb) ((loadedKey_eq s.dev c).trans hk)

end Sys2Proof.Machine
end

section
/-! SUPPORT. Staging of firmware and JTAG accesses (16 R404, 19 R443, R444, R457, R458). -/

namespace Sys2Proof.Machine

/-! ### FW_STAGE (16 R404) -/

/-- The staging area after a chunk; a first chunk discards what it held. -/
def Sec.staged (x : Sec) (c : CmdDesc) : Sec :=
  let base : Sec := if bit c.n2 0 then { x with stage := [], stageLen := 0, pendImg := false } else x
  { base with stage := stageWrite base.stage c.n1 c.bytes, stageLen := max base.stageLen (c.n1 + c.n3) }

/-- The device with a chunk staged. -/
def Dev.stageChunk (d : Dev) (c : CmdDesc) : Dev := { d with sec := d.sec.staged c }

/-- The device with the verdict on the staged image. -/
def Dev.judgedImage (d : Dev) (ok : Bool) : Dev := { d with sec := { d.sec with pendImg := ok } }

/-- What FW_STAGE does once the chunk is staged. -/
def Dev.closeStage (d : Dev) (readFail : Option Nat) (id : Nat) (c : CmdDesc) : Dev :=
  if !bit c.n2 1 then d.finishSt id stOk
  else
    match d.verify d.sec.stageLen (d.stagedSrc readFail) with
    | none => (d.judgedImage true).finishSt id stOk
    | some code => ((d.judgedImage false).count 40 7 1 none 1).finishSt id (if code = 0x01 ∨ code = 0x09 then stInvalid else stAuth)

/-- The row of FW_STAGE. -/
def fwStageSpec : CmdSpec :=
  { CmdSpec.plain 0x60 with len := fun _ n => decide (1 ≤ n ∧ n ≤ 65536), m1 := 2 ^ 32 - 1, m2 := 3, lim2 := 4 }

theorem stageChunk_eq (d : Dev) (c : CmdDesc) (e : Dev)
    (he : e = if bit c.n2 0 then { d with sec := { d.sec with stage := [], stageLen := 0, pendImg := false } } else d) :
    ({ e with sec := { e.sec with stage := stageWrite e.sec.stage c.n1 c.bytes, stageLen := max e.sec.stageLen (c.n1 + c.n3) } } : Dev) =
      d.stageChunk c := by
  unfold Dev.stageChunk Sec.staged
  by_cases hb : bit c.n2 0 = true
  · rw [if_pos hb] at he
    rw [if_pos hb, he]
  · rw [if_neg hb] at he
    rw [if_neg hb, he]

theorem exec_fwStage (c : CmdDesc) (readFail : Option Nat) (s : State) :
    exec (.fwStage c readFail) s = run (command fwStageSpec always (fun _ c => decide (c.n1 + c.n3 ≤ stageSize))
      (fun id c d => (d.stageChunk c).closeStage readFail id c) c) s := by
  have heff : (fun (id : Nat) (c : CmdDesc) (d : Dev) => (d.stageChunk c).closeStage readFail id c) = fun id c d =>
      let e := if bit c.n2 0 then { d with sec := { d.sec with stage := [], stageLen := 0, pendImg := false } } else d
      (({ e with sec := { e.sec with stage := stageWrite e.sec.stage c.n1 c.bytes
                                     stageLen := max e.sec.stageLen (c.n1 + c.n3) } } : Dev)).closeStage readFail id c := by
    funext id c d
    exact congrArg (fun x : Dev => x.closeStage readFail id c) (stageChunk_eq d c _ rfl).symm
  rw [heff]
  rfl

section
variable {s : State} {c : CmdDesc} {readFail : Option Nat} (h : Accepted s c fwStageSpec) (hr : c.n1 + c.n3 ≤ stageSize)

theorem stageChunk_reports {a d : Dev} (h : Reports a d) (c : CmdDesc) : Reports (a.stageChunk c) (d.stageChunk c) := by
  unfold Dev.stageChunk
  rw [h.sec]
  exact h.set_sec _

theorem judgedImage_reports {a d : Dev} (h : Reports a d) (ok : Bool) : Reports (a.judgedImage ok) (d.judgedImage ok) := by
  unfold Dev.judgedImage
  rw [h.sec]
  exact h.set_sec _

/-- The verdict on what is staged rests on the security state alone. -/
theorem verify_of_reports {a d : Dev} (h : Reports a d) (readFail : Option Nat) :
    d.verify d.sec.stageLen (d.stagedSrc readFail) = a.verify a.sec.stageLen (a.stagedSrc readFail) := by
  unfold Dev.verify Dev.stagedSrc
  rw [h.sec]

include h hr

/-- A command of the row ends as its closing step says, on a device that has been reported on only. -/
theorem fwStage_serves {e : Dev} {st : Nat}
    (hclose : ∀ d, Reports (s.dev.stageChunk c) d → (d.cmdOf s.dev.nextId).isSome = true →
      ∃ f, d.closeStage readFail s.dev.nextId c = f.finish s.dev.nextId st [] ∧ Reports e f ∧ (f.cmdOf s.dev.nextId).isSome = true) :
    Serves (exec (.fwStage c readFail) s) s e st [] := by
  obtain ⟨f, hf, he, hout⟩ := hclose ((s.dev.fresh.fetchCmd c).stageChunk c) (stageChunk_reports (fetched_reports s c) c) (fetched_outstanding s c)
  rw [exec_fwStage]
  exact command_serves (obj := always) (arg := fun _ c => decide (c.n1 + c.n3 ≤ stageSize)) h rfl (decide_eq_true hr)
    (eff := fun id c d => (d.stageChunk c).closeStage readFail id c) hf he hout

theorem fwStage_more (hb : bit c.n2 1 = false) : Serves (exec (.fwStage c readFail) s) s (s.dev.stageChunk c) stOk [] := by
  refine fwStage_serves h hr fun d hd hout => ⟨d, ?_, hd, hout⟩
  unfold Dev.closeStage
  rw [hb]
  rfl

theorem fwStage_passes (hb : bit c.n2 1 = true)
    (hv : (s.dev.stageChunk c).verify (s.dev.stageChunk c).sec.stageLen ((s.dev.stageChunk c).stagedSrc readFail) = none) :
    Serves (exec (.fwStage c readFail) s) s ((s.dev.stageChunk c).judgedImage true) stOk [] := by
  refine fwStage_serves h hr fun d hd hout => ⟨d.judgedImage true, ?_, judgedImage_reports hd true, hout⟩
  unfold Dev.closeStage
  rw [hb, verify_of_reports hd, hv]
  rfl

theorem fwStage_fails {code : Nat} (hb : bit c.n2 1 = true)
    (hv : (s.dev.stageChunk c).verify (s.dev.stageChunk c).sec.stageLen ((s.dev.stageChunk c).stagedSrc readFail) = some code) :
    Serves (exec (.fwStage c readFail) s) s ((s.dev.stageChunk c).judgedImage false)
      (if code = 0x01 ∨ code = 0x09 then stInvalid else stAuth) [] := by
  refine fwStage_serves h hr fun d hd hout => ⟨(d.judgedImage false).count 40 7 1 none 1, ?_,
    (judgedImage_reports hd false).trans (count_reports _ _ _ _ _ _), ?_⟩
  · unfold Dev.closeStage
    rw [hb, verify_of_reports hd, hv]
    rfl
  · rw [(count_quiet _ _ _ _ _ _).cmdOf]
    exact hout

end

/-! ### JTAG (19 R457, R458) -/

section
variable {s : State}

theorem jtag_reaches {acc : JtagAccess} {e : Dev} {x : Jtag} (h : jtagTapAccessEffect acc s.dev.fresh = { e with jtag := x })
    (he : Reports s.dev e) : Reaches (exec (.jtagTapAccess acc) s) s { s.dev with jtag := x } := by
  refine run_reaches (f := jtagTapAccessEffect acc) ?_
  rw [h]
  exact he.set_jtag x

variable (hd : s.dev.dev ≠ .off)
include hd

theorem jtag_boundary (cells : List Bool) :
    Reaches (exec (.jtagTapAccess (.boundary cells)) s) s { s.dev with jtag := { s.dev.jtag with cells := cells } } :=
  jtag_reaches (if_neg hd) (fresh_reports s.dev)

theorem jtag_idcode : Reaches (exec (.jtagTapAccess .idcode) s) s { s.dev with jtag := { s.dev.jtag with tdo := 0x19128A5B } } :=
  jtag_reaches (if_neg hd) (fresh_reports s.dev)

theorem jtag_nonce : Reaches (exec (.jtagTapAccess .nonce) s) s { s.dev with jtag := { s.dev.jtag with tdo := s.dev.sec.nonce } } :=
  jtag_reaches (if_neg hd) (fresh_reports s.dev)

theorem jtag_token (bytes : List Byte) :
    Reaches (exec (.jtagTapAccess (.token bytes)) s) s { s.dev with sec := { s.dev.sec with token := bytes } } := by
  refine run_reaches (f := jtagTapAccessEffect (.token bytes)) ?_
  rw [show jtagTapAccessEffect (.token bytes) s.dev.fresh = { s.dev.fresh with sec := { s.dev.sec with token := bytes } } from if_neg hd]
  exact (fresh_reports s.dev).set_sec _

variable {space addr : Nat}

theorem jtag_closed {wr : Option (BitVec 32)} (h : s.dev.sec.dbgOpen = false ∨ 4 < space) :
    Reaches (exec (.jtagTapAccess (.debug space addr wr)) s) s s.dev := by
  have hshut : (!(s.dev.fresh.sec.dbgOpen && decide (space ≤ 4))) = true := by
    rcases h with h | h
    · rw [show s.dev.fresh.sec.dbgOpen = false from h]
      rfl
    · rw [decide_eq_false (by omega), Bool.and_false]
      rfl
  refine run_reaches (f := jtagTapAccessEffect (.debug space addr wr)) ?_
  rw [show jtagTapAccessEffect (.debug space addr wr) s.dev.fresh = s.dev.fresh from (if_neg hd).trans (if_pos hshut)]
  exact fresh_reports s.dev

variable (ho : s.dev.sec.dbgOpen = true) (hs : space ≤ 4)
include ho hs

omit hd in
theorem debug_open : ¬ (!(s.dev.fresh.sec.dbgOpen && decide (space ≤ 4))) = true := by
  rw [show s.dev.fresh.sec.dbgOpen = true from ho, decide_eq_true hs]
  decide

theorem jtag_write (w : BitVec 32) :
    Reaches (exec (.jtagTapAccess (.debug space addr (some w))) s) s
      { s.dev with jtag := { s.dev.jtag with dbg := SMap.put (space * 2 ^ 32 + addr % 2 ^ 32) w s.dev.jtag.dbg } } :=
  jtag_reaches ((if_neg hd).trans (if_neg (debug_open ho hs))) (fresh_reports s.dev)

/-- A debug word that has been written is read; what one that has not reads is free. -/
theorem jtag_read :
    ∃ w : BitVec 32, Reaches (exec (.jtagTapAccess (.debug space addr none)) s) s
        { s.dev with jtag := { s.dev.jtag with tdo := BitVec.ofNat 256 w.toNat } } ∧
      ∀ v, s.dev.jtag.dbg.find? (fun e => decide (e.1 = space * 2 ^ 32 + addr % 2 ^ 32)) =
        some (space * 2 ^ 32 + addr % 2 ^ 32, v) → w = v := by
  have heff : jtagTapAccessEffect (.debug space addr none) s.dev.fresh =
      match s.dev.fresh.jtag.dbg.find? (fun e => decide (e.1 = space * 2 ^ 32 + addr % 2 ^ 32)) with
      | some e => { s.dev.fresh with jtag := { s.dev.fresh.jtag with tdo := BitVec.ofNat 256 e.2.toNat } }
      | none => { s.dev.fresh.free.2 with
          jtag := { s.dev.fresh.free.2.jtag with tdo := BitVec.ofNat 256 (s.dev.fresh.free.1.toNat % 2 ^ 32) } } :=
    (if_neg hd).trans (if_neg (debug_open ho hs))
  have hdbg : s.dev.fresh.jtag.dbg = s.dev.jtag.dbg := rfl
  rw [hdbg] at heff
  cases hfound : s.dev.jtag.dbg.find? (fun e => decide (e.1 = space * 2 ^ 32 + addr % 2 ^ 32)) with
  | some e =>
    rw [hfound] at heff
    refine ⟨e.2, jtag_reaches heff (fresh_reports s.dev), fun v hv => ?_⟩
    rw [Option.some.inj hv]
  | none =>
    rw [hfound] at heff
    refine ⟨BitVec.ofNat 32 s.dev.fresh.free.1.toNat, jtag_reaches (e := s.dev.fresh.free.2) ?_
      ((fresh_reports s.dev).trans (free_reports _)), fun v hv => absurd hv (by simp)⟩
    rw [BitVec.toNat_ofNat]
    exact heff

end

/-- Settles O40, by the effect of a chunk and its closing, and of each kind of access to the test port. -/
theorem stagingAndDebug : Obligations.StagingAndDebug := by
  intro s
  refine ⟨fun c readFail h hr => ?_, fun hd => ⟨jtag_boundary hd, jtag_idcode hd, jtag_nonce hd, jtag_token hd, fun space addr wr =>
    ⟨jtag_closed hd, ?_, ?_⟩⟩⟩
  · exact ⟨fwStage_more h hr, fwStage_passes h hr, fun _ => fwStage_fails h hr⟩
  · rintro w ho hs rfl
    exact jtag_write hd ho hs w
  · rintro ho hs rfl
    exact jtag_read hd ho hs

end Sys2Proof.Machine
end

section
/-! SUPPORT. Measurement sets (13 R333-R342, 16 R401): configuration, start, records and the stop. -/

namespace Sys2Proof.Machine

/-! ### Completions and the LOSSY queues -/

theorem lossy_payOwed (d : Dev) (r k : Nat) : (d.payOwed r).lossy k = d.lossy k := by
  unfold Dev.payOwed
  dsimp only
  refine (foldl_keeps (fun e : Dev => e.lossy k) (fun e bs => ?_) _ _).trans ?_
  · split <;> simp only [modRing_lossy, lossy_writeEntry]
  · split
    · rfl
    · exact modRing_lossy _ _ _ _

theorem lossy_complete (d : Dev) (r : Nat) (bs : List Byte) (k : Nat) : (d.complete r bs).lossy k = d.lossy k := by
  unfold Dev.complete
  dsimp only
  split
  · rfl
  · exact modRing_lossy _ _ _ _
  · rw [lossy_payOwed, modRing_lossy]

/-- A completion puts nothing into a LOSSY queue but the event queue. -/
theorem lossy_finish_ne {k : Nat} (hk : k ≠ 0) (d : Dev) (id st : Nat) (q : List Byte) : (d.finish id st q).lossy k = d.lossy k := by
  unfold Dev.finish
  split
  · rfl
  · dsimp only
    rw [lossy_mark_ne hk]
    split
    · rw [lossy_complete, modAcct_lossy]
      rfl
    · rw [modAcct_lossy]
      rfl

/-! ### Repeated changes under reports -/

/-- A repeated change that respects reports respects them as a whole. -/
theorem iter_of_reports {f : Nat → Dev → Dev} (hf : ∀ i {a b : Dev}, Reports a b → Reports (f i a) (f i b)) (n : Nat) {a b : Dev} (h : Reports a b) :
    Reports (iter n f a) (iter n f b) := by
  unfold iter
  induction List.range n generalizing a b with
  | nil => exact h
  | cons i l ih => exact ih (hf i h)

theorem iter_same {β : Type} (π : Dev → β) {f : Nat → Dev → Dev} (hf : ∀ i d, π (f i d) = π d) (n : Nat) (d : Dev) : π (iter n f d) = π d :=
  foldl_keeps π (fun d i => hf i d) _ d

/-! ### What a set's commands read -/

theorem statusOff_setCfg {k : Nat} (hk : k < 8) : statusOff (Reg.measSetCfg k) = false :=
  (by decide : ∀ k : Fin 8, statusOff (Reg.measSetCfg k) = false) ⟨k, hk⟩

theorem statusOff_setCh {k i : Nat} (hk : k < 8) (hi : i ∈ List.range 104) : statusOff (Reg.measSetCh k (i / 32)) = false :=
  (by decide : ∀ (k : Fin 8) (j : Fin 4), statusOff (Reg.measSetCh k j) = false) ⟨k, hk⟩ ⟨i / 32, by rw [List.mem_range] at hi; omega⟩

theorem any_congr_mem {α : Type} {l : List α} {p q : α → Bool} (h : ∀ x ∈ l, p x = q x) : l.any p = l.any q := by
  rw [Bool.eq_iff_iff, List.any_eq_true, List.any_eq_true]
  exact exists_congr fun x => and_congr_right fun hx => by rw [h x hx]

section
variable {a b : Dev} (h : Reports a b) {k : Nat}
include h

theorem Reports.setInputs (hk : k < 8) : b.setInputs k = a.setInputs k := by
  refine List.filter_congr fun i hi => ?_
  rw [h.reg (statusOff_setCh hk hi)]

theorem Reports.maskShared (mask : List Byte) : b.maskShared k mask = a.maskShared k mask := by
  unfold Dev.maskShared
  refine any_congr_mem fun i hi => congrArg _ (any_congr_mem fun j hj => ?_)
  rw [h.reg (statusOff_setCh (List.mem_range.mp hj) hi)]

theorem Reports.outputsBy (hk : k < 8) : b.outputsBy k = a.outputsBy k := by
  unfold Dev.outputsBy
  rw [h.clk, h.mset, h.fld (statusOff_setCfg hk)]

theorem Reports.outputsLeft (hk : k < 8) : b.outputsLeft k = a.outputsLeft k := by
  unfold Dev.outputsLeft
  rw [h.mset, h.outputsBy hk]

end

/-! ### MEAS_CFG (13 R333-R336) -/

/-- A set's configuration as MEAS_CFG writes it. -/
def Dev.writeSetCfg (d : Dev) (k : Nat) (c : CmdDesc) : Dev :=
  ((d.setFld (Reg.measSetCfg k) 18 16 (c.f1 10 8)).setFld (Reg.measSetCfg k) 11 8 (c.f1 19 16)).setFld (Reg.measSetCfg k) 27 24 (c.f1 27 24)

/-- A set's inputs as MEAS_CFG writes them. -/
def Dev.writeSetCh (d : Dev) (k : Nat) (c : CmdDesc) : Dev := iter 4 (fun j d => d.setReg (Reg.measSetCh k j) (leAt c.bytes (4 * j) 4)) d

/-- A set's coefficients as MEAS_CFG writes them. -/
def Dev.writeSetFir (d : Dev) (k : Nat) (c : CmdDesc) : Dev :=
  iter 32 (fun t d => d.setReg (Reg.measFir k t) (leAt c.bytes (16 + 4 * t) 4)) d

/-- A set's registers as MEAS_CFG writes them. -/
def Dev.writeSet (d : Dev) (k : Nat) (c : CmdDesc) : Dev :=
  if c.n3 = 144 then ((d.writeSetCfg k c).writeSetCh k c).writeSetFir k c else (d.writeSetCfg k c).writeSetCh k c

theorem Reports.writeSet {a b : Dev} (h : Reports a b) {k : Nat} (hk : k < 8) (c : CmdDesc) : Reports (a.writeSet k c) (b.writeSet k c) := by
  have hcfg : Reports (a.writeSetCfg k c) (b.writeSetCfg k c) :=
    ((h.setFld (statusOff_setCfg hk) 18 16 (c.f1 10 8)).setFld (statusOff_setCfg hk) 11 8 (c.f1 19 16)).setFld
      (statusOff_setCfg hk) 27 24 (c.f1 27 24)
  have hch : Reports ((a.writeSetCfg k c).writeSetCh k c) ((b.writeSetCfg k c).writeSetCh k c) := by
    unfold Dev.writeSetCh
    exact iter_of_reports (f := fun j d => d.setReg (Reg.measSetCh k j) (leAt c.bytes (4 * j) 4)) (fun _ _ _ h => h.setReg _ _) 4 hcfg
  unfold Dev.writeSet
  split
  · unfold Dev.writeSetFir
    exact iter_of_reports (f := fun t d => d.setReg (Reg.measFir k t) (leAt c.bytes (16 + 4 * t) 4)) (fun _ _ _ h => h.setReg _ _) 32 hch
  · exact hch

theorem writeSetCfg_cmds (d : Dev) (k : Nat) (c : CmdDesc) : (d.writeSetCfg k c).cmds = d.cmds := by
  rw [Dev.writeSetCfg, setFld_cmds, setFld_cmds, setFld_cmds]

theorem writeSetCh_cmds (d : Dev) (k : Nat) (c : CmdDesc) : (d.writeSetCh k c).cmds = d.cmds := by
  unfold Dev.writeSetCh
  exact iter_same Dev.cmds (f := fun j d => d.setReg (Reg.measSetCh k j) (leAt c.bytes (4 * j) 4)) (fun _ _ => setReg_cmds _ _ _) 4 d

theorem writeSetFir_cmds (d : Dev) (k : Nat) (c : CmdDesc) : (d.writeSetFir k c).cmds = d.cmds := by
  unfold Dev.writeSetFir
  exact iter_same Dev.cmds (f := fun t d => d.setReg (Reg.measFir k t) (leAt c.bytes (16 + 4 * t) 4)) (fun _ _ => setReg_cmds _ _ _) 32 d

theorem writeSet_cmds (d : Dev) (k : Nat) (c : CmdDesc) : (d.writeSet k c).cmds = d.cmds := by
  unfold Dev.writeSet
  split
  · rw [writeSetFir_cmds, writeSetCh_cmds, writeSetCfg_cmds]
  · rw [writeSetCh_cmds, writeSetCfg_cmds]

section
variable {s : State} {c : CmdDesc}

/-- The row of MEAS_CFG. -/
def measCfgSpec : CmdSpec := { CmdSpec.plain 0x40 with len := fun _ n => decide (n = 16 ∨ n = 144), m1 := 0x0F0F0707 }

/-- What MEAS_CFG does with an accepted command. -/
def Dev.configureSet (d : Dev) (id k : Nat) (c : CmdDesc) : Dev :=
  if (d.mset k).st ≠ .stopped then d.finishSt id stNotStopped
  else if d.maskShared k (c.bytes.take 16) then d.finishSt id stInvalid
  else (d.writeSet k c).finishSt id stOk

theorem exec_measCfg (s : State) (c : CmdDesc) :
    exec (.measCfg c) s = run (command measCfgSpec always (fun d c => decide ((d.mset (c.f1 2 0)).st ≠ .stopped) || measCfgOk c)
      (fun id c d => d.configureSet id (c.f1 2 0) c) c) s := rfl

theorem f1_set_lt (c : CmdDesc) : c.f1 2 0 < 8 := bits_lt _

variable (h : Accepted s c measCfgSpec)
include h

theorem measCfg_notStopped (hst : (s.dev.mset (c.f1 2 0)).st ≠ .stopped) : Serves (exec (.measCfg c) s) s s.dev stNotStopped [] := by
  have hf := fetched_reports s c
  rw [exec_measCfg]
  refine command_serves (d := s.dev.fresh.fetchCmd c) h rfl (Bool.or_eq_true_iff.mpr (.inl (decide_eq_true hst))) ?_ hf (fetched_outstanding s c)
  exact if_pos (by rw [hf.mset]; exact hst)

variable (hst : (s.dev.mset (c.f1 2 0)).st = .stopped) (hok : measCfgOk c = true)
include hst hok

theorem measCfg_shared (hm : s.dev.maskShared (c.f1 2 0) (c.bytes.take 16) = true) :
    Serves (exec (.measCfg c) s) s s.dev stInvalid [] := by
  have hf := fetched_reports s c
  rw [exec_measCfg]
  refine command_serves (d := s.dev.fresh.fetchCmd c) h rfl (Bool.or_eq_true_iff.mpr (.inr hok)) ?_ hf (fetched_outstanding s c)
  exact (if_neg (not_not.mpr (by rw [hf.mset]; exact hst))).trans (if_pos (by rw [hf.maskShared]; exact hm))

theorem measCfg_writes (hm : s.dev.maskShared (c.f1 2 0) (c.bytes.take 16) = false) :
    Serves (exec (.measCfg c) s) s (s.dev.writeSet (c.f1 2 0) c) stOk [] := by
  have hf := fetched_reports s c
  rw [exec_measCfg]
  refine command_serves (d := (s.dev.fresh.fetchCmd c).writeSet (c.f1 2 0) c) h rfl (Bool.or_eq_true_iff.mpr (.inr hok)) ?_
    (hf.writeSet (f1_set_lt c) c) ?_
  · exact (if_neg (not_not.mpr (by rw [hf.mset]; exact hst))).trans (if_neg (by rw [hf.maskShared, hm]; decide))
  · rw [Dev.cmdOf, writeSet_cmds]
    exact fetched_outstanding s c

end

/-! ### MEAS_START (13 R337, 16 R401) -/

section
variable {s : State} {c : CmdDesc}

/-- The row of MEAS_START. -/
def measStartSpec : CmdSpec := { CmdSpec.plain 0x41 with m0 := 2 ^ 64 - 1, m1 := 7, m2 := 1 }

/-- The target that a start names: the cycle's end after next, or its own. -/
def Dev.startTarget (d : Dev) (c : CmdDesc) : Nat := if c.n2 = 0 then (d.mpt / 2 ^ 24 + 1) * 2 ^ 24 % 2 ^ 48 else c.mpt

/-- A set waits for its target. -/
def Dev.armSet (d : Dev) (k target id : Nat) : Dev := d.modMset k (fun m => { m with st := .armed, target := target, cmd := some id })

/-- What MEAS_START does with an accepted command. -/
def Dev.beginSet (d : Dev) (id k : Nat) (c : CmdDesc) : Dev :=
  if d.setInputs k = [] then d.finishSt id stInvalid
  else if c.n2 = 1 ∧ !mptBefore d.mpt (d.startTarget c) then d.finishSt id stLate
  else d.armSet k (d.startTarget c) id

theorem exec_measStart (s : State) (c : CmdDesc) :
    exec (.measStart c) s = run (command measStartSpec (fun d c => decide ((d.mset (c.f1 2 0)).st = .stopped))
      (fun _ c => decide (c.n2 = 0 ∨ c.a0.toNat < 2 ^ 48)) (fun id c d => d.beginSet id (c.f1 2 0) c) c) s := rfl

theorem Reports.startTarget {a b : Dev} (h : Reports a b) (c : CmdDesc) : b.startTarget c = a.startTarget c := by
  unfold Dev.startTarget
  rw [h.mpt]

variable (h : Accepted s c measStartSpec)
include h

theorem measStart_notStopped (hst : (s.dev.mset (c.f1 2 0)).st ≠ .stopped) : Serves (exec (.measStart c) s) s s.dev stBadState [] := by
  rw [exec_measStart]
  exact object_fails_serves h (decide_eq_false hst)

variable (hr : c.n2 = 0 ∨ c.a0.toNat < 2 ^ 48) (hst : (s.dev.mset (c.f1 2 0)).st = .stopped) (hin : s.dev.setInputs (c.f1 2 0) ≠ [])
include hr hst hin

theorem measStart_late (hn : c.n2 = 1) (hl : mptBefore s.dev.mpt c.mpt = false) : Serves (exec (.measStart c) s) s s.dev stLate [] := by
  have hf := fetched_reports s c
  have htarget : s.dev.startTarget c = c.mpt := if_neg (by omega)
  rw [exec_measStart]
  refine command_serves (d := s.dev.fresh.fetchCmd c) h (decide_eq_true hst) (decide_eq_true hr) ?_ hf (fetched_outstanding s c)
  refine (if_neg ?_).trans (if_pos ⟨hn, ?_⟩)
  · rw [hf.setInputs (f1_set_lt c)]
    exact hin
  · rw [hf.startTarget, htarget, hf.mpt, hl]
    rfl

theorem measStart_arms (hn : c.n2 = 0 ∨ mptBefore s.dev.mpt c.mpt = true) :
    Waits (exec (.measStart c) s) s (s.dev.armSet (c.f1 2 0) (s.dev.startTarget c) s.dev.nextId) := by
  have hf := fetched_reports s c
  rw [exec_measStart]
  refine command_waits (f := (s.dev.fresh.fetchCmd c).armSet (c.f1 2 0) (s.dev.startTarget c) s.dev.nextId) h (decide_eq_true hst)
    (decide_eq_true hr) ?_ (hf.modMset _ _) rfl
  rw [← hf.startTarget]
  refine (if_neg ?_).trans (if_neg ?_)
  · rw [hf.setInputs (f1_set_lt c)]
    exact hin
  · rintro ⟨h1, hlate⟩
    have hahead : mptBefore s.dev.mpt c.mpt = true := hn.resolve_left (by omega)
    have htarget : s.dev.startTarget c = c.mpt := if_neg (by omega)
    rw [hf.startTarget, htarget, hf.mpt, hahead] at hlate
    exact absurd hlate (by decide)

end

/-! ### Only the measurements differ -/

/-- `b` is `a` but for reports and the measurements. -/
def OnlyMeas (a b : Dev) : Prop := Reports { a with meas := b.meas } b

theorem OnlyMeas.of_reports {a b : Dev} (h : Reports a b) : OnlyMeas a b := by
  unfold OnlyMeas
  rw [h.meas]
  exact h

theorem OnlyMeas.modMset (d : Dev) (k : Nat) (f : MSet → MSet) : OnlyMeas d (d.modMset k f) := Reports.refl _

theorem OnlyMeas.trans {a b c : Dev} (h : OnlyMeas a b) (h' : OnlyMeas b c) : OnlyMeas a c :=
  (Reports.set_meas h c.meas).trans h'

/-! ### How a set stops (13 Table ME.3, ME.7) -/

/-- A set is stopped. -/
def Dev.haltedSet (d : Dev) (k : Nat) : Dev := d.modMset k (fun m => { m with st := .stopped, ends := none, stops := [], cmd := none })

theorem stopSet_of_stopped {d : Dev} {k : Nat} (h : (d.mset k).st = .stopped) : d.stopSet k = d := if_pos h

theorem stopSet_of_running {d : Dev} {k : Nat} (h : (d.mset k).st ≠ .stopped) :
    d.stopSet k = (d.haltedSet k).finishOpt (d.mset k).cmd stFlushed := if_neg h

theorem stopDone_eq (d : Dev) (k id : Nat) : ∃ q e, d.stopDone k id = e.finish id stOk q ∧ Reports d e ∧ e.cmds = d.cmds ∧
    (∀ i, e.lossy i = d.lossy i) ∧
    (0 < (d.mset k).rseq → q = quints (((d.mset k).rseq - 1) % 65536) (((d.mset k).rseq - 1) / 65536 % 65536) 0 0 0) := by
  unfold Dev.stopDone
  dsimp only
  by_cases hz : (d.mset k).rseq = 0
  · rw [if_pos hz]
    exact ⟨_, _, rfl, free_reports d, rfl, fun _ => rfl, fun h => absurd h (by omega)⟩
  · rw [if_neg hz]
    exact ⟨_, _, rfl, Reports.refl d, rfl, fun _ => rfl, fun _ => rfl⟩

theorem stopDone_reports (d : Dev) (k id : Nat) : Reports d (d.stopDone k id) := by
  obtain ⟨q, e, he, hr, -⟩ := stopDone_eq d k id
  rw [he]
  exact hr.trans (finish_reports _ _ _ _)

theorem stopDone_ended (d : Dev) (k id : Nat) : (d.stopDone k id).cmdOf id = none := by
  obtain ⟨q, e, he, -⟩ := stopDone_eq d k id
  rw [he]
  exact finish_ended _ _ _ _

theorem stopDone_keeps_ended {d : Dev} {i : Nat} (h : d.cmdOf i = none) (k id : Nat) : (d.stopDone k id).cmdOf i = none := by
  obtain ⟨q, e, he, -, hcmds, -⟩ := stopDone_eq d k id
  rw [he]
  refine finish_keeps_ended ?_ _ _ _
  rw [Dev.cmdOf, hcmds]
  exact h

theorem lossy_stopDone_ne {i : Nat} (hi : i ≠ 0) (d : Dev) (k id : Nat) : (d.stopDone k id).lossy i = d.lossy i := by
  obtain ⟨q, e, he, -, -, hl, -⟩ := stopDone_eq d k id
  rw [he, lossy_finish_ne hi, hl]

/-- What the last record before a stop leaves of its set. -/
theorem endSet_spec {d : Dev} {k i : Nat} (hi : i ≠ 0) :
    OnlyMeas d (d.endSet k) ∧ ((d.endSet k).mset k).rseq = (d.mset k).rseq ∧ (d.endSet k).lossy i = d.lossy i ∧
      ((d.mset k).ends = some (d.mset k).rseq → (d.mset k).st ≠ .stopped →
        ((d.endSet k).mset k).st = .stopped ∧ ∀ id ∈ (d.mset k).stops, (d.endSet k).cmdOf id = none) := by
  unfold Dev.endSet
  dsimp only
  by_cases he : (d.mset k).ends = some (d.mset k).rseq
  · rw [if_pos he]
    have hfold := foldl_reports (fun (d : Dev) (id : Nat) => d.stopDone k id) (fun d id => stopDone_reports d k id) (d.mset k).stops (d.stopSet k)
    have hlossy := foldl_keeps (fun e : Dev => e.lossy i) (f := fun d id => d.stopDone k id) (fun d id => lossy_stopDone_ne hi d k id)
      (d.mset k).stops (d.stopSet k)
    have hended : ∀ id ∈ (d.mset k).stops, ((d.mset k).stops.foldl (fun d id => d.stopDone k id) (d.stopSet k)).cmdOf id = none := fun id hid =>
      foldl_settles (P := fun e : Dev => e.cmdOf id = none) (f := fun d id => d.stopDone k id) hid (fun d => stopDone_ended d k id)
        (fun d y h => stopDone_keeps_ended h k y) (d.stopSet k)
    generalize (d.mset k).stops.foldl (fun d id => d.stopDone k id) (d.stopSet k) = e at hfold hlossy hended
    by_cases hs : (d.mset k).st = .stopped
    · rw [stopSet_of_stopped hs] at hfold hlossy
      exact ⟨.of_reports hfold, by rw [hfold.mset], hlossy, fun _ h => absurd hs h⟩
    · rw [stopSet_of_running hs] at hfold hlossy
      have hr := (finishOpt_reports (d.haltedSet k) (d.mset k).cmd stFlushed).trans hfold
      have hset : e.mset k = { d.mset k with st := .stopped, ends := none, stops := [], cmd := none } :=
        (hr.mset k).trans (mset_modMset_same d k _)
      refine ⟨(OnlyMeas.modMset d k _).trans (.of_reports hr), by rw [hset], hlossy.trans ?_, fun _ _ => ⟨by rw [hset], hended⟩⟩
      unfold Dev.finishOpt
      split
      · exact modMset_lossy _ _ _ _
      · exact (lossy_finish_ne hi _ _ _ _).trans (modMset_lossy _ _ _ _)
  · rw [if_neg he]
    exact ⟨.of_reports (Reports.refl d), rfl, rfl, fun h => absurd h he⟩

/-! ### SET_SYNC_POINT (13 R338) -/

/-- A set runs from a modulator edge. -/
def Dev.runSet (d : Dev) (k edge : Nat) : Dev :=
  d.modMset k (fun m => { m with st := .running, sync := edge, rseq := 0, cmd := none, chains := (d.setInputs k).map (fun i => (i, Chain.init)) })

/-- The completion of the MEAS_START that a set waited for. -/
def Dev.endStart (d : Dev) (cmd : Option Nat) (q : List Byte) : Dev :=
  match cmd with | none => d | some id => d.finish id stOk q

theorem endStart_reports (d : Dev) (cmd : Option Nat) (q : List Byte) : Reports d (d.endStart cmd q) := by
  cases cmd with
  | none => exact Reports.refl d
  | some id => exact finish_reports d id stOk q

theorem setSyncPointEffect_due {d : Dev} {k : Nat} (hd : d.dev = .run) (hst : (d.mset k).st = .armed)
    (hc : mptBefore d.mpt (d.mset k).target = false) (he : d.syncEdge (d.mset k).target ≤ 4 * d.clk) :
    setSyncPointEffect k d = (d.runSet k (d.syncEdge (d.mset k).target)).endStart (d.mset k).cmd
      (wideQ ((d.runSet k (d.syncEdge (d.mset k).target)).mptAtNs (d.syncEdge (d.mset k).target)) SetState.running.code 0) := by
  unfold setSyncPointEffect
  dsimp only
  rw [if_neg (by rintro (h | h | h | h); exacts [h hd, h hst, by rw [hc] at h; exact Bool.false_ne_true h, by omega])]
  rfl

theorem setSyncPoint_next {s : State} {k : Fin 8} (hd : s.dev.dev = .run) (hst : (s.dev.mset k).st = .armed)
    (hc : mptBefore s.dev.mpt (s.dev.mset k).target = false) (he : s.dev.syncEdge (s.dev.mset k).target ≤ 4 * s.dev.clk) :
    ∃ t, exec (.setSyncPoint k) s = .next t ∧ t.pending = s.pending ∧ Reports { s.dev with meas := t.dev.meas } t.dev ∧
      (∀ id, (s.dev.mset k).cmd = some id → t.dev.cmdOf id = none) ∧
      t.dev.mset k = { s.dev.mset k with
        st := .running, sync := s.dev.syncEdge (s.dev.mset k).target, rseq := 0, cmd := none
        chains := (s.dev.setInputs k).map (fun i => (i, Chain.init)) } := by
  obtain ⟨t, ht, hp, hdev⟩ := run_fresh (setSyncPointEffect k) s
  rw [setSyncPointEffect_due (d := s.dev.fresh) hd hst hc he] at hdev
  generalize hq : wideQ _ SetState.running.code 0 = q at hdev
  have hrun : OnlyMeas s.dev (s.dev.fresh.runSet k (s.dev.syncEdge (s.dev.mset k).target)) :=
    (OnlyMeas.of_reports (fresh_reports s.dev)).trans (.modMset _ _ _)
  have hset : (s.dev.fresh.runSet k (s.dev.syncEdge (s.dev.mset k).target)).mset k = { s.dev.mset k with
      st := .running, sync := s.dev.syncEdge (s.dev.mset k).target, rseq := 0, cmd := none
      chains := (s.dev.setInputs k).map (fun i => (i, Chain.init)) } := mset_modMset_same _ _ _
  change t.dev = ((s.dev.fresh.runSet k (s.dev.syncEdge (s.dev.mset k).target)).endStart (s.dev.mset k).cmd q).fresh at hdev
  generalize s.dev.fresh.runSet k (s.dev.syncEdge (s.dev.mset k).target) = e at hdev hrun hset
  have hend := endStart_reports e (s.dev.mset k).cmd q
  refine ⟨t, ht, hp, ?_, fun id hid => ?_, ?_⟩
  · rw [hdev]
    exact (hrun.trans (.of_reports hend)).trans (.of_reports (fresh_reports _))
  · rw [hdev, hid]
    exact finish_ended e id stOk q
  · rw [hdev]
    exact (hend.mset k).trans hset

/-! ### MEAS_OUTPUT (13 R339-R342) -/

/-- A device takes one output's chains into a set. -/
def Dev.takeOutput (d : Dev) (k : Nat) (outs : List (Nat × ChainOut)) : Dev :=
  d.modMset k (fun s => { s with rseq := s.rseq + 1, chains := outs.map (fun o => (o.1, o.2.chain)) })

/-- Overflows of an output's samples are reported. -/
def Dev.tellOverflows (d : Dev) (outs : List (Nat × ChainOut)) : Dev :=
  outs.foldl (fun d o => if o.2.ovr then d.raise .meas 1 else d) d

theorem tellOverflows_quiet (d : Dev) (outs : List (Nat × ChainOut)) : Quiet d (d.tellOverflows outs) :=
  foldl_quiet _ (fun d _ => ite_quiet (raise_quiet d _ _) (Quiet.refl d)) outs d

theorem lossy_tellOverflows (d : Dev) (outs : List (Nat × ChainOut)) (i : Nat) : (d.tellOverflows outs).lossy i = d.lossy i := by
  refine foldl_keeps (fun e : Dev => e.lossy i) (fun d o => ?_) _ _
  split
  · exact lossy_raise _ _ _ _
  · rfl

theorem record_number (a b c r : Nat) (l : List Byte) :
    ((leBytes 6 a ++ leBytes 1 b ++ leBytes 1 c ++ leBytes 4 r ++ l).drop 8).take 4 = leBytes 4 r := by
  have hlen : (leBytes 6 a ++ leBytes 1 b ++ leBytes 1 c).length = 8 := by
    rw [List.length_append, List.length_append, leBytes_length, leBytes_length, leBytes_length]
  rw [List.append_assoc, ← hlen, List.drop_left]
  exact List.take_left' (leBytes_length 4 r)

theorem measOutputEffect_due {d : Dev} {k : Nat} {bs : List (List Bool)} (h : d.outputDue k bs = true) :
    ∃ outs r, (r.drop 8).take 4 = leBytes 4 (d.mset k).rseq ∧
      measOutputEffect k bs d = ((((d.takeOutput k outs).tellOverflows outs).push (1 + k) r).endSet k) := by
  unfold measOutputEffect
  rw [h, if_neg (by decide)]
  dsimp only
  refine ⟨_, _, ?_, rfl⟩
  rw [List.append_assoc, List.append_assoc]
  exact record_number _ _ _ _ _

theorem outputDue_running {d : Dev} {k : Nat} {bs : List (List Bool)} (h : d.outputDue k bs = true) : (d.mset k).st = .running := by
  unfold Dev.outputDue at h
  simp only [Bool.and_eq_true, decide_eq_true_iff] at h
  exact h.1.1.2.1

theorem lossy_push {d : Dev} {q : Nat} (hq : q ≠ 0) (item : List Byte) :
    ((d.push q item).lossy q).items =
      (if lossyDepth q ≤ (d.lossy q).items.length then (d.lossy q).items.drop 1 else (d.lossy q).items) ++ [item] := by
  rw [Dev.push, lossy_mark_ne hq, lossy_pushRaw]

theorem measOutput_next {s : State} {k : Fin 8} {bs : List (List Bool)} (hdue : s.dev.outputDue k bs = true) :
    ∃ t r, exec (.measOutput k bs) s = .next t ∧ t.pending = s.pending ∧ Reports { s.dev with meas := t.dev.meas } t.dev ∧
      (t.dev.mset k).rseq = (s.dev.mset k).rseq + 1 ∧ (r.drop 8).take 4 = leBytes 4 (s.dev.mset k).rseq ∧
      (t.dev.lossy (1 + k)).items =
        (if 64 ≤ (s.dev.lossy (1 + k)).items.length then (s.dev.lossy (1 + k)).items.drop 1 else (s.dev.lossy (1 + k)).items) ++ [r] ∧
      ((s.dev.mset k).ends = some ((s.dev.mset k).rseq + 1) →
        (t.dev.mset k).st = .stopped ∧ ∀ id ∈ (s.dev.mset k).stops, t.dev.cmdOf id = none) := by
  obtain ⟨outs, r, hr, heff⟩ := measOutputEffect_due (d := s.dev.fresh) hdue
  obtain ⟨t, ht, hp, hdev⟩ := run_fresh (measOutputEffect k bs) s
  have hq : 1 + k.val ≠ 0 := by omega
  have hdepth : lossyDepth (1 + k) = 64 := by
    have hk := k.isLt
    unfold lossyDepth
    rw [if_neg hq, if_pos (by omega)]
  have htaken : OnlyMeas s.dev (s.dev.fresh.takeOutput k outs) := (OnlyMeas.of_reports (fresh_reports s.dev)).trans (.modMset _ _ _)
  have hset : (s.dev.fresh.takeOutput k outs).mset k =
      { s.dev.mset k with rseq := (s.dev.mset k).rseq + 1, chains := outs.map (fun o => (o.1, o.2.chain)) } := mset_modMset_same _ _ _
  have hlossy : (s.dev.fresh.takeOutput k outs).lossy (1 + k) = s.dev.lossy (1 + k) := rfl
  rw [heff] at hdev
  generalize s.dev.fresh.takeOutput k outs = e at hdev htaken hset hlossy
  have hpushed := (tellOverflows_quiet e outs).1.trans (push_reports (e.tellOverflows outs) (1 + k) r)
  have hitems := lossy_push (d := e.tellOverflows outs) hq r
  rw [lossy_tellOverflows, hlossy, hdepth] at hitems
  rw [← hpushed.mset k] at hset
  generalize (e.tellOverflows outs).push (1 + k) r = p at hdev hpushed hitems hset
  obtain ⟨honly, hseq, hkeep, hstop⟩ := endSet_spec (d := p) (k := k) hq
  rw [hset] at hseq hstop
  refine ⟨t, r, ht, hp, ?_, ?_, hr, ?_, fun hends => ?_⟩
  · rw [hdev]
    exact ((htaken.trans (.of_reports hpushed)).trans honly).trans (.of_reports (fresh_reports _))
  · rw [hdev]
    exact hseq
  · rw [hdev, fresh_lossy, hkeep]
    exact hitems
  · rw [hdev]
    exact hstop hends (by rw [outputDue_running hdue]; decide)

/-! ### MEAS_STOP (13 Table ME.3, ME.7) -/

section
variable {s : State} {c : CmdDesc} (h : Accepted s c { CmdSpec.plain 0x42 with m1 := 7 })

theorem exec_measStop (s : State) (c : CmdDesc) : exec (.measStop c) s =
    run (command { CmdSpec.plain 0x42 with m1 := 7 } always always (fun id c d => d.haltSet (c.f1 2 0) (some id)) c) s := rfl

theorem haltSet_waits {d : Dev} {k id : Nat} (h : d.outputsLeft k = true) :
    d.haltSet k (some id) = d.modMset k (fun m => { m with ends := some (m.ends.getD (d.outputsBy k)), stops := m.stops ++ [id] }) := if_pos h

theorem haltSet_stops {d : Dev} {k id : Nat} (h : d.outputsLeft k = false) : d.haltSet k (some id) = (d.stopSet k).stopDone k id :=
  if_neg (by rw [h]; decide)

include h

theorem measStop_waits (hl : s.dev.outputsLeft (c.f1 2 0) = true) :
    Waits (exec (.measStop c) s) s (s.dev.modMset (c.f1 2 0) (fun m => { m with
      ends := some (m.ends.getD (s.dev.outputsBy (c.f1 2 0))), stops := m.stops ++ [s.dev.nextId] })) := by
  have hf := fetched_reports s c
  rw [exec_measStop]
  refine command_waits h rfl rfl (eff := fun id c d => d.haltSet (c.f1 2 0) (some id)) (haltSet_waits (by rw [hf.outputsLeft (f1_set_lt c), hl])) ?_ rfl
  rw [hf.outputsBy (f1_set_lt c)]
  exact hf.modMset _ _

variable (hl : s.dev.outputsLeft (c.f1 2 0) = false)
include hl

theorem measStop_armed (hst : (s.dev.mset (c.f1 2 0)).st ≠ .stopped) {id : Nat} (hid : (s.dev.mset (c.f1 2 0)).cmd = some id) :
    ∃ t, exec (.measStop c) s = .next t ∧ t.pending = s.pending ∧ Ended s t ∧ t.dev.cmdOf id = none ∧
      Reports (s.dev.haltedSet (c.f1 2 0)) t.dev := by
  have hf := fetched_reports s c
  obtain ⟨t, ht, hp, hdev⟩ := command_next h (obj := always) (arg := always) rfl rfl (eff := fun id c d => d.haltSet (c.f1 2 0) (some id))
  rw [haltSet_stops (by rw [hf.outputsLeft (f1_set_lt c), hl]), stopSet_of_running (by rw [hf.mset]; exact hst), hf.mset, hid] at hdev
  have hhalt : Reports (s.dev.haltedSet (c.f1 2 0)) ((s.dev.fresh.fetchCmd c).haltedSet (c.f1 2 0)) := hf.modMset _ _
  have hstart := hhalt.trans (finishOpt_reports _ (some id) stFlushed)
  have hgone : (((s.dev.fresh.fetchCmd c).haltedSet (c.f1 2 0)).finishOpt (some id) stFlushed).cmdOf id = none := finish_ended _ id stFlushed []
  generalize ((s.dev.fresh.fetchCmd c).haltedSet (c.f1 2 0)).finishOpt (some id) stFlushed = e at hdev hstart hgone
  have hr := stopDone_reports e (c.f1 2 0) s.dev.nextId
  have hended := stopDone_ended e (c.f1 2 0) s.dev.nextId
  have hkept := stopDone_keeps_ended hgone (c.f1 2 0) s.dev.nextId
  generalize e.stopDone (c.f1 2 0) s.dev.nextId = f at hdev hr hended hkept
  refine ⟨t, ht, hp, ?_⟩
  rw [Ended, hdev]
  exact ⟨hended, hkept, (hstart.trans hr).trans (fresh_reports f)⟩

theorem measStop_idle (hst : (s.dev.mset (c.f1 2 0)).st = .stopped ∨ (s.dev.mset (c.f1 2 0)).cmd = none) :
    ∃ q, Serves (exec (.measStop c) s) s (if (s.dev.mset (c.f1 2 0)).st = .stopped then s.dev else s.dev.haltedSet (c.f1 2 0)) stOk q ∧
      (0 < (s.dev.mset (c.f1 2 0)).rseq →
        q = quints (((s.dev.mset (c.f1 2 0)).rseq - 1) % 65536) (((s.dev.mset (c.f1 2 0)).rseq - 1) / 65536 % 65536) 0 0 0) := by
  have hf := fetched_reports s c
  have hstopped : ∃ e : Dev, (s.dev.fresh.fetchCmd c).stopSet (c.f1 2 0) = e ∧ e.cmds = (s.dev.fresh.fetchCmd c).cmds ∧
      Reports (if (s.dev.mset (c.f1 2 0)).st = .stopped then s.dev else s.dev.haltedSet (c.f1 2 0)) e ∧
      (e.mset (c.f1 2 0)).rseq = (s.dev.mset (c.f1 2 0)).rseq := by
    by_cases hs : (s.dev.mset (c.f1 2 0)).st = .stopped
    · rw [if_pos hs]
      exact ⟨_, stopSet_of_stopped (by rw [hf.mset]; exact hs), rfl, hf, by rw [hf.mset]⟩
    · rw [if_neg hs, stopSet_of_running (by rw [hf.mset]; exact hs), hf.mset, hst.resolve_left hs]
      exact ⟨_, rfl, rfl, hf.modMset _ _, by rw [Dev.finishOpt, Dev.haltedSet, mset_modMset_same, hf.mset]⟩
  obtain ⟨e, he, hcmds, hr, hseq⟩ := hstopped
  obtain ⟨q, f, hfin, hfr, hfc, -, hq⟩ := stopDone_eq e (c.f1 2 0) s.dev.nextId
  rw [hseq] at hq
  refine ⟨q, ?_, hq⟩
  rw [exec_measStop]
  refine command_serves h rfl rfl (eff := fun id c d => d.haltSet (c.f1 2 0) (some id)) ?_ (hr.trans hfr) ?_
  · exact (haltSet_stops (by rw [hf.outputsLeft (f1_set_lt c), hl])).trans (by rw [he, hfin])
  · rw [Dev.cmdOf, hfc, hcmds]
    exact fetched_outstanding s c

end

/-- Settles O44, by what each command and each instant does to the set it names. -/
theorem measurementSets : Obligations.MeasurementSets := by
  intro s
  refine ⟨?_, ?_, fun k => setSyncPoint_next, fun k bs => measOutput_next, ?_⟩
  · intro c h k
    exact ⟨measCfg_notStopped h, measCfg_shared h, measCfg_writes h⟩
  · intro c h hr k
    exact ⟨measStart_notStopped h, measStart_late h hr, measStart_arms h hr⟩
  · intro c h k halted
    exact ⟨measStop_waits h, fun hl hst id => measStop_armed h hl hst, measStop_idle h⟩

end Sys2Proof.Machine
end

section
/-! SUPPORT. The derived cycle and modulator faults (13 R329, R330, R343-R345). -/

namespace Sys2Proof.Machine

/-! ### Free roundings -/

/-- `b` is `a` with more of the model's free choices taken. -/
def FreeOnly (a b : Dev) : Prop := ∃ n, b = { a with freeCtr := n }

theorem FreeOnly.refl (a : Dev) : FreeOnly a a := ⟨a.freeCtr, rfl⟩

theorem FreeOnly.trans {a b c : Dev} (h : FreeOnly a b) (h' : FreeOnly b c) : FreeOnly a c := by
  obtain ⟨n, rfl⟩ := h
  obtain ⟨m, rfl⟩ := h'
  exact ⟨m, rfl⟩

theorem sqrtFree_freeOnly (d : Dev) (num den : Nat) : FreeOnly d (d.sqrtFree num den).2 := by
  unfold Dev.sqrtFree
  dsimp only
  split
  · exact .refl d
  · exact ⟨_, rfl⟩

theorem divFree_freeOnly (d : Dev) (num : Int) (den : Nat) : FreeOnly d (d.divFree num den).2 := by
  unfold Dev.divFree
  split
  · exact .refl d
  · exact ⟨_, rfl⟩

theorem rmsOf_freeOnly {d : Dev} {xs : List Int} {r : Nat × Dev} (h : d.rmsOf xs = r) : FreeOnly d r.2 := by
  rw [← h, Dev.rmsOf]
  exact sqrtFree_freeOnly d _ _

theorem powerOf_freeOnly {d : Dev} {xs vs : List Int} {r : Int × Dev} (h : d.powerOf xs vs = r) : FreeOnly d r.2 := by
  rw [← h, Dev.powerOf]
  exact divFree_freeOnly d _ _

theorem each_freeOnly {α β : Type} {f : Dev → α → β × Dev} (hf : ∀ d x r, f d x = r → FreeOnly d r.2) (d : Dev) (l : List α) :
    FreeOnly d (d.each f l).2 := by
  unfold Dev.each
  exact List.foldlRecOn l _ (motive := fun a : List β × Dev => FreeOnly d a.2) (FreeOnly.refl d) fun a ha x _ => ha.trans (hf a.2 x _ rfl)

/-! ### The end of a cycle (13 R343-R345) -/

/-- The derived state after a cycle whose record covered `n` outputs. -/
def Dev.endCycle (d : Dev) (der : List (Nat × Chain)) (theta : List (Nat × Nat)) (n : Nat) : Dev :=
  { d with meas := { d.meas with
      der := der, theta := theta, cyc := (d.meas.cyc + 1) % 2 ^ 24, cycHold := d.tb.holdover, stamps := d.meas.stamps.drop n } }

/-- Overflows of the cycle's samples are reported. -/
def Dev.tellDerived (d : Dev) (l : List ChainOut) : Dev := l.foldl (fun d c => if c.ovr then d.raise .meas 1 else d) d

/-- The cycle's record enters the derived queue while `DER_EN` is 1. -/
def Dev.pushDerived (d : Dev) (bytes : List Byte) : Dev := if d.flag Reg.measCtrl 0 then d.push 9 bytes else d

theorem derivedCycleEndEffect_due {d : Dev} {bs : List (List Bool)} (h : d.derivedDue bs = true) :
    ∃ e der theta outs bytes, FreeOnly d e ∧ theta.map (fun x : Nat × Nat => x.1) = List.range 8 ∧
      derivedCycleEndEffect bs d = ((e.endCycle der theta d.meas.cycleStamps.length).tellDerived outs).pushDerived bytes := by
  unfold derivedCycleEndEffect
  rw [h, if_neg (by decide)]
  extract_lets ts mine phases n outs xs theta rms volt pow settle fault flags fmask bytes left
  have hrms : FreeOnly d rms.2 := each_freeOnly (fun _ _ _ h => rmsOf_freeOnly h) d _
  have hpow : FreeOnly d left := hrms.trans (each_freeOnly (fun _ _ _ h => powerOf_freeOnly h) rms.2 _)
  have htheta : theta.map (fun x : Nat × Nat => x.1) = List.range 8 := by
    rw [List.map_map]
    exact List.map_id _
  clear_value left bytes fmask flags pow rms theta outs
  exact ⟨left, _, theta, _, bytes, hpow, htheta, rfl⟩

theorem tellDerived_quiet (d : Dev) (l : List ChainOut) : Quiet d (d.tellDerived l) :=
  foldl_quiet _ (fun d _ => ite_quiet (raise_quiet d _ _) (Quiet.refl d)) l d

theorem lossy_tellDerived (d : Dev) (l : List ChainOut) (i : Nat) : (d.tellDerived l).lossy i = d.lossy i := by
  refine foldl_keeps (fun e : Dev => e.lossy i) (fun d o => ?_) _ _
  split
  · exact lossy_raise _ _ _ _
  · rfl

theorem pushRaw_produced (d : Dev) (q : Nat) (item : List Byte) : ((d.pushRaw q item).lossy q).produced = (d.lossy q).produced + 1 := by
  unfold Dev.pushRaw
  dsimp only
  split
  · split
    · rw [lossy_raise, lossy_count, lossy_modRing, lossy_modLossy_same]
    · rw [lossy_count, lossy_modRing, lossy_modLossy_same]
  · rw [lossy_modLossy_same]

theorem push_produced {q : Nat} (hq : q ≠ 0) (d : Dev) (item : List Byte) : ((d.push q item).lossy q).produced = (d.lossy q).produced + 1 := by
  rw [Dev.push, lossy_mark_ne hq, pushRaw_produced]

theorem pushDerived_spec (d : Dev) (bytes : List Byte) :
    Reports d (d.pushDerived bytes) ∧
      (d.flag Reg.measCtrl 0 = true → ((d.pushDerived bytes).lossy 9).produced = (d.lossy 9).produced + 1) ∧
      (d.flag Reg.measCtrl 0 = false → (d.pushDerived bytes).lossy 9 = d.lossy 9) := by
  unfold Dev.pushDerived
  cases hf : d.flag Reg.measCtrl 0 with
  | true => exact ⟨push_reports d 9 bytes, fun _ => push_produced (by decide) d bytes, fun h => absurd h (by decide)⟩
  | false => exact ⟨Reports.refl d, fun h => absurd h (by decide), fun _ => rfl⟩

theorem derivedCycleEnd_next {s : State} {bs : List (List Bool)} (h : s.dev.derivedDue bs = true) :
    ∃ t, exec (.derivedCycleEnd bs) s = .next t ∧ t.pending = s.pending ∧ Reports { s.dev with meas := t.dev.meas } t.dev ∧
      t.dev.meas.cyc = (s.dev.meas.cyc + 1) % 2 ^ 24 ∧ t.dev.meas.theta.map (fun e => e.1) = List.range 8 ∧
      t.dev.meas.fault = s.dev.meas.fault ∧ t.dev.meas.sets = s.dev.meas.sets ∧
      t.dev.meas.stamps = s.dev.meas.stamps.drop s.dev.meas.cycleStamps.length ∧
      (s.dev.flag Reg.measCtrl 0 = true → (t.dev.lossy 9).produced = (s.dev.lossy 9).produced + 1) ∧
      (s.dev.flag Reg.measCtrl 0 = false → t.dev.lossy 9 = s.dev.lossy 9) := by
  obtain ⟨e, der, theta, outs, bytes, ⟨n, he⟩, htheta, heff⟩ := derivedCycleEndEffect_due (d := s.dev.fresh) h
  obtain ⟨t, ht, hp, hdev⟩ := run_fresh (derivedCycleEndEffect bs) s
  rw [heff] at hdev
  obtain ⟨c, hc⟩ : ∃ c, c = e.endCycle der theta s.dev.meas.cycleStamps.length := ⟨_, rfl⟩
  change t.dev = (((e.endCycle der theta s.dev.meas.cycleStamps.length).tellDerived outs).pushDerived bytes).fresh at hdev
  have honly : OnlyMeas s.dev c := by
    rw [hc, he]
    exact ⟨rfl, fun _ _ => rfl⟩
  have hmeas : c.meas = { s.dev.meas with
      der := der, theta := theta, cyc := (s.dev.meas.cyc + 1) % 2 ^ 24, cycHold := s.dev.tb.holdover
      stamps := s.dev.meas.stamps.drop s.dev.meas.cycleStamps.length } := by
    rw [hc, he]
    rfl
  have hlossy : c.lossy 9 = s.dev.lossy 9 := by
    rw [hc, he]
    rfl
  rw [← hc] at hdev
  have htold := (tellDerived_quiet c outs).1
  have hflag : (c.tellDerived outs).flag Reg.measCtrl 0 = s.dev.flag Reg.measCtrl 0 := (honly.trans (.of_reports htold)).flag (by decide) 0
  obtain ⟨hpushed, hon, hoff⟩ := pushDerived_spec (c.tellDerived outs) bytes
  rw [hflag, lossy_tellDerived, hlossy] at hon hoff
  have hall := htold.trans hpushed
  generalize (c.tellDerived outs).pushDerived bytes = f at hdev hall hon hoff
  refine ⟨t, ht, hp, ?_⟩
  rw [hdev]
  change Reports { s.dev with meas := f.meas } f.fresh ∧ _
  have hfm : f.meas = c.meas := hall.meas
  refine ⟨(honly.trans (.of_reports hall)).trans (fresh_reports f), ?_, ?_, ?_, ?_, ?_, hon, hoff⟩ <;> rw [fresh_meas, hfm, hmeas]
  exact htheta

/-! ### Modulator faults (13 R329, R330) -/

section
variable {s : State} {i : Fin 104} {v : Bool} (hc : s.dev.dev.clocked = true)
include hc

omit hc in
theorem modulatorFault_idle {clocks : Nat} (h : s.dev.inFault i = true ∨ clocks < s.dev.fld Reg.measFault 11 0) :
    Reaches (exec (.modulatorFault i v clocks) s) s s.dev := by
  refine run_reaches (f := modulatorFaultEffect i v clocks) ?_
  unfold modulatorFaultEffect
  split
  · exact fresh_reports _
  · next hn =>
    have hin : s.dev.fresh.inFault i = true := h.resolve_right fun hlt => hn (.inr hlt)
    rw [Dev.modFault, if_pos hin]
    exact fresh_reports _

theorem modulatorFault_holds {clocks : Nat} (hin : s.dev.inFault i = false) (hlong : s.dev.fld Reg.measFault 11 0 ≤ clocks) :
    ∃ t, exec (.modulatorFault i v clocks) s = .next t ∧ t.pending = s.pending ∧ t.dev.flag Reg.measStat 2 = true ∧
      Reports { s.dev with meas := { s.dev.meas with fault := SMap.put i.val v s.dev.meas.fault } } t.dev := by
  have hc' : s.dev.fresh.dev.clocked = true := hc
  have hin' : s.dev.fresh.inFault i = false := hin
  have hlong' : ¬ clocks < s.dev.fresh.fld Reg.measFault 11 0 := Nat.not_lt.mpr hlong
  obtain ⟨t, ht, hp, hdev⟩ := run_fresh (modulatorFaultEffect i v clocks) s
  obtain ⟨e, he⟩ : ∃ e : Dev, e = { s.dev.fresh with meas := { s.dev.fresh.meas with fault := SMap.put i.val v s.dev.fresh.meas.fault } } := ⟨_, rfl⟩
  have heff : modulatorFaultEffect i v clocks s.dev.fresh = (e.raise .meas 2).event 0x0501 stOk i [BitVec.ofNat 8 (b2n v)] := by
    unfold modulatorFaultEffect
    rw [hc', if_neg (fun h => h.elim (by decide) hlong'), Dev.modFault, hin', if_neg (by decide), he]
  have her : Reports { s.dev with meas := { s.dev.meas with fault := SMap.put i.val v s.dev.meas.fault } } e := by
    rw [he]
    exact ⟨rfl, fun _ _ => rfl⟩
  have hbit : (e.raise .meas 2).flag Reg.measStat 2 = true := flag_raise (by decide) e .meas
  refine ⟨t, ht, hp, ?_⟩
  rw [hdev, heff]
  exact ⟨event_keepsBits _ _ _ _ _ _ _ (by decide) hbit,
    ((her.trans (raise_reports _ _ _)).trans (event_reports _ _ _ _ _)).trans (fresh_reports _)⟩

theorem modulatorFaultClear_ends (hm : s.dev.mclkOn i = true) (hf : (i.val, !v) ∈ s.dev.meas.fault) :
    Reaches (exec (.modulatorFaultClear i v) s) s { s.dev with meas := { s.dev.meas with fault := SMap.del i.val s.dev.meas.fault } } := by
  have hany : (s.dev.fresh.dev.clocked && s.dev.fresh.mclkOn i &&
      s.dev.fresh.meas.fault.any (fun e => decide (e = (i.val, !v)))) = true := by
    rw [show s.dev.fresh.dev.clocked = true from hc, show s.dev.fresh.mclkOn i = true from hm, Bool.true_and, Bool.true_and, List.any_eq_true]
    exact ⟨_, hf, decide_eq_true rfl⟩
  refine run_reaches (f := modulatorFaultClearEffect i v) ?_
  rw [modulatorFaultClearEffect, if_pos hany]
  exact ⟨rfl, fun _ _ => rfl⟩

omit hc in
theorem modulatorFaultClear_idle (h : s.dev.mclkOn i = false ∨ (i.val, !v) ∉ s.dev.meas.fault) :
    Reaches (exec (.modulatorFaultClear i v) s) s s.dev := by
  refine run_reaches (f := modulatorFaultClearEffect i v) ?_
  unfold modulatorFaultClearEffect
  split
  · next hon =>
    rw [Bool.and_eq_true, Bool.and_eq_true, List.any_eq_true] at hon
    obtain ⟨⟨-, hm⟩, e, he, hv⟩ := hon
    have hm' : s.dev.mclkOn i = true := hm
    rw [of_decide_eq_true hv] at he
    rw [hm'] at h
    exact absurd he (h.resolve_left (by decide))
  · exact fresh_reports _

end

/-- Settles O45, by the state that a cycle's end leaves, and by what a stuck bit and its change do to the input. -/
theorem derivedAndModulators : Obligations.DerivedAndModulators := fun _ =>
  ⟨fun _ => derivedCycleEnd_next, fun _ _ _ hc => ⟨modulatorFault_idle, modulatorFault_holds hc⟩,
    fun _ _ hc => ⟨modulatorFaultClear_ends hc, modulatorFaultClear_idle⟩⟩

end Sys2Proof.Machine
end

section
/-! SUPPORT. Functions, VF Enable, bus mastering and MSI-X messages (15 R366, R368, R386, R389, Table HR.10). -/

namespace Sys2Proof.Machine

/-! ### Anchors and Bus Master Enable -/

section
variable {s : State} {f : Fin 34}

theorem fnEnable_next (hx : s.dev.fnExists f = true) (dbp stp : BitVec 64) (hen : (s.dev.fn f).en = false) :
    let page := fun (x : BitVec 64) => BitVec.ofNat 64 (x.toNat / 4096 * 4096)
    ∃ t, exec (.fnEnable f dbp stp) s = .next t ∧ t.pending = s.pending ∧ t.hostMem = s.hostMem ∧
      t.dev = (s.dev.modFn f (fun x => { x with
        dbp := page dbp, stp := page stp, en := true, active := true, dbpOn := page dbp, stpOn := page stp })).fresh := by
  have hskip : ¬ ((!s.dev.fresh.fnExists f) = true ∨ (s.dev.fresh.fn f).en = true) := by
    rw [show s.dev.fresh.fnExists f = true from hx, fresh_fn, hen]
    decide
  obtain ⟨t, ht, hp, hm, hdev⟩ := run_gives (f := fnEnableEffect f dbp stp) (s := s) (if_neg hskip) rfl
  exact ⟨t, ht, hp, hm, hdev⟩

theorem fnDisable_next (hx : s.dev.fnExists f = true) (hen : (s.dev.fn f).en = true) :
    ∃ t, exec (.fnDisable f) s = .next t ∧ t.pending = s.pending ∧ t.dev.dev = s.dev.dev ∧ (t.dev.fn f).en = false ∧
      (t.dev.fn f).active = false ∧ ∀ k, ringFn k = f.val → (t.dev.ring k).st = .disabled := by
  have hskip : ¬ ((!s.dev.fresh.fnExists f) = true ∨ (!(s.dev.fresh.fn f).en) = true) := by
    rw [show s.dev.fresh.fnExists f = true from hx, fresh_fn, hen]
    decide
  obtain ⟨t, ht, hp, hdev⟩ := run_fresh (fnDisableEffect f) s
  obtain ⟨hdown, hst⟩ := flrRings_spec s.dev.fresh f
  rw [fnDisableEffect, if_neg hskip] at hdev
  obtain ⟨e, he⟩ : ∃ e, e = s.dev.fresh.flrRings f := ⟨_, rfl⟩
  rw [← he] at hdev hdown hst
  refine ⟨t, ht, hp, ?_⟩
  rw [hdev, fresh_fn, fn_modFn_same]
  exact ⟨hdown.dev, rfl, rfl, hst⟩

theorem busMasterOff_next (hx : s.dev.fnExists f = true) (hb : (s.dev.fn f).bme = true) :
    ∃ t, exec (.busMasterEnableChange f false) s = .next t ∧ t.pending = s.pending ∧ t.hostMem = s.hostMem ∧
      t.dev = (s.dev.modFn f (fun x => { x with bme := false })).fresh := by
  have hskip : ¬ ((!s.dev.fresh.fnExists f) = true ∨ (s.dev.fresh.fn f).bme = false) := by
    rw [show s.dev.fresh.fnExists f = true from hx, fresh_fn, hb]
    decide
  obtain ⟨t, ht, hp, hm, hdev⟩ := run_gives (f := busMasterEnableChangeEffect f false) (s := s)
    ((if_neg hskip).trans (if_neg Bool.false_ne_true)) rfl
  exact ⟨t, ht, hp, hm, hdev⟩

/-- Posting a list of writes puts them behind those posted before. -/
theorem foldl_post_posted (l : List (Nat × List Byte)) (d : Dev) :
    (l.foldl (fun d w => d.post w.1 w.2) d).posted = d.posted ++ l := by
  induction l generalizing d with
  | nil => exact (List.append_nil _).symm
  | cons w l ih => rw [List.foldl_cons, ih, Dev.post, List.append_assoc, List.singleton_append]

theorem busMasterOn_next (hx : s.dev.fnExists f = true) (hb : (s.dev.fn f).bme = false) :
    ∃ t, exec (.busMasterEnableChange f true) s = .next t ∧ t.pending = s.pending ∧ Reports s.dev t.dev ∧
      (t.dev.fn f).bme = true ∧ (t.dev.fn f).held = [] ∧ t.hostMem = Memory.commit s.hostMem (s.dev.fn f).held := by
  have hskip : ¬ ((!s.dev.fresh.fnExists f) = true ∨ (s.dev.fresh.fn f).bme = true) := by
    rw [show s.dev.fresh.fnExists f = true from hx, fresh_fn, hb]
    decide
  obtain ⟨t, ht, hp, hmem, hdev⟩ := run_commits (busMasterEnableChangeEffect f true) s
  rw [busMasterEnableChangeEffect, if_neg hskip, if_pos rfl] at hmem hdev
  obtain ⟨e, he⟩ : ∃ e, e = s.dev.fresh.modFn f (fun x => { x with bme := true, held := [] }) := ⟨_, rfl⟩
  have hfn : e.fn f = { s.dev.fn f with bme := true, held := [] } := by rw [he, fn_modFn_same, fresh_fn]
  have hrep : Reports s.dev e := by
    rw [he]
    exact (fresh_reports _).trans (modFn_quiet _ _ _).1
  have hpost : e.posted = [] := by
    rw [he]
    rfl
  dsimp only at hmem hdev
  rw [← he, fresh_fn] at hmem hdev
  have hkept : t.dev.fn f = e.fn f := by
    rw [hdev, fresh_fn]
    exact foldl_keeps (fun d : Dev => d.fn f) (f := fun d (w : Nat × List Byte) => d.post w.1 w.2) (fun _ _ => rfl) _ _
  refine ⟨t, ht, hp, ?_, by rw [hkept, hfn], by rw [hkept, hfn], ?_⟩
  · rw [hdev]
    exact (hrep.trans (foldl_quiet _ (fun d (w : Nat × List Byte) => post_quiet d w.1 w.2) _ _).1).trans (fresh_reports _)
  · rw [hmem, foldl_post_posted, hpost, List.nil_append]

end

/-! ### Messages (15 R386) -/

/-- A message of an unmasked entry of a function other than PF0 is counted; nothing else changes. -/
theorem message_unmasked {d : Dev} {f v : Nat} (hf : f ≠ 0) (hv : v ∈ (d.fn f).unmasked) :
    d.message f v = d.modFn f (fun x => { x with sent := SMap.set (fun _ => 0) v (SMap.get (fun _ => 0) v x.sent + 1) x.sent }) := by
  have hm : d.vecMasked f v = false := by
    rw [Dev.vecMasked, if_neg hf, List.contains_iff_mem.2 hv]
    rfl
  unfold Dev.message
  rw [hm, if_neg Bool.false_ne_true, if_neg hf]

/-- The pending message of an unmasked entry is sent once, and pending no more. -/
theorem unmask_sent {d : Dev} {f v : Nat} (hf : f ≠ 0) (hv : v ∈ (d.fn f).unmasked) :
    v ∈ ((d.unmask f v).fn f).unmasked ∧ v ∉ ((d.unmask f v).fn f).pend ∧
      SMap.get (fun _ => 0) v ((d.unmask f v).fn f).sent =
        SMap.get (fun _ => 0) v (d.fn f).sent + b2n ((d.fn f).pend.contains v) := by
  unfold Dev.unmask
  by_cases hp : v ∈ (d.fn f).pend
  · rw [List.contains_iff_mem.2 hp, if_pos rfl, message_unmasked hf (by rw [fn_modFn_same]; exact hv), fn_modFn_same, fn_modFn_same]
    dsimp only
    rw [SMap.get_set_same]
    exact ⟨hv, fun h => of_decide_eq_true (List.mem_filter.1 h).2 rfl, rfl⟩
  · have hc : (d.fn f).pend.contains v = false := by simpa using hp
    rw [hc, if_neg Bool.false_ne_true]
    exact ⟨hv, hp, rfl⟩

/-- A host write changes no pending bit. -/
theorem hostWrite_pend (d : Dev) (g a : Nat) (bs : List Byte) (f : Nat) : ((d.hostWrite g a bs).fn f).pend = (d.fn f).pend := by
  unfold Dev.hostWrite
  split
  · rfl
  · by_cases h : f = g
    · rw [h, fn_modFn_same]
    · rw [fn_modFn_ne h]

/-- A message of an unmasked entry of PF0 leaves the pending bits. -/
theorem message_pf0_pend {d : Dev} {v : Nat} (hm : d.vecMasked 0 v = false) : ((d.message 0 v).fn 0).pend = (d.fn 0).pend := by
  unfold Dev.message
  rw [hm, if_neg Bool.false_ne_true, if_pos rfl, hostWrite_pend, fn_modFn_same]

theorem unmask_pf0_pend {d : Dev} {v : Nat} (hm : d.vecMasked 0 v = false) : v ∉ ((d.unmask 0 v).fn 0).pend := by
  unfold Dev.unmask
  by_cases hp : v ∈ (d.fn 0).pend
  · rw [List.contains_iff_mem.2 hp, if_pos rfl, message_pf0_pend (d := d.modFn 0 _) hm, fn_modFn_same]
    exact fun h => of_decide_eq_true (List.mem_filter.1 h).2 rfl
  · rw [show (d.fn 0).pend.contains v = false by simpa using hp, if_neg Bool.false_ne_true]
    exact hp

theorem unmask_core (d : Dev) (f v : Nat) : (d.unmask f v).core = d.core := by
  unfold Dev.unmask
  split
  · exact (message_reports (d.modFn f _) f v).1
  · rfl

theorem unmask_regs (d : Dev) (f v : Nat) : (d.unmask f v).regs = d.regs := by
  unfold Dev.unmask
  split
  · exact message_regs (d.modFn f _) f v
  · rfl

/-- A bit that has been cleared reads 0. -/
theorem flag_setFld_clear {i : Nat} (h : i < 32) (d : Dev) (off : Nat) : (d.setFld off i i 0).flag off i = false := by
  have hfld := fld_setFld_same (Nat.le_refl i) h d off 0
  unfold Dev.fld at hfld
  rw [Dev.flag, bit_eq_bits, hfld]
  simp

theorem flag_of_regs {a b : Dev} (h : a.regs = b.regs) (off i : Nat) : a.flag off i = b.flag off i := by
  unfold Dev.flag Dev.reg
  rw [h]

section
variable {s : State} {f : Fin 34} {v : Fin 128}

theorem msixUnmask_pf0 {d : Dev} {v : Nat} (hx : d.fnExists 0 = true) (hv : v < fnVectors 0) :
    let e := msixUnmaskEffect 0 v d
    e.core = d.core ∧ e.flag (Reg.msixTable v 3) 0 = false ∧ (d.flag (Reg.msixTable v 3) 0 = true → v ∉ (e.fn 0).pend) := by
  have hskip : ¬ ((!d.fnExists 0) = true ∨ fnVectors 0 ≤ v) := by
    rw [hx]
    rintro (h | h)
    · cases h
    · omega
  intro e
  have he : e = if d.flag (Reg.msixTable v 3) 0 then (d.setFld (Reg.msixTable v 3) 0 0 0).unmask 0 v else d :=
    (if_neg hskip).trans (if_pos rfl)
  by_cases hm : d.flag (Reg.msixTable v 3) 0 = true
  · have hclear := flag_setFld_clear (i := 0) (by decide) d (Reg.msixTable v 3)
    rw [hm, if_pos rfl] at he
    rw [he]
    exact ⟨unmask_core (d.setFld _ 0 0 0) 0 v, (flag_of_regs (unmask_regs _ 0 v) _ _).trans hclear, fun _ => unmask_pf0_pend hclear⟩
  · rw [if_neg hm] at he
    rw [he]
    exact ⟨rfl, Bool.not_eq_true _ ▸ hm, fun h => absurd h hm⟩

theorem msixUnmask_other {d : Dev} {f v : Nat} (hf : f ≠ 0) (hx : d.fnExists f = true) (hv : v < fnVectors f) :
    let e := msixUnmaskEffect f v d
    e.core = d.core ∧ v ∈ (e.fn f).unmasked ∧ v ∉ (e.fn f).pend ∧
      SMap.get (fun _ => 0) v (e.fn f).sent = SMap.get (fun _ => 0) v (d.fn f).sent + b2n ((d.fn f).pend.contains v) := by
  have hskip : ¬ ((!d.fnExists f) = true ∨ fnVectors f ≤ v) := by
    rw [hx]
    rintro (h | h)
    · cases h
    · omega
  intro e
  have he : e = (d.modFn f (fun x => if x.unmasked.contains v then x else { x with unmasked := v :: x.unmasked })).unmask f v :=
    (if_neg hskip).trans (if_neg hf)
  obtain ⟨x, hx⟩ : ∃ x, x = if (d.fn f).unmasked.contains v then d.fn f else { d.fn f with unmasked := v :: (d.fn f).unmasked } :=
    ⟨_, rfl⟩
  have hopen : v ∈ x.unmasked ∧ x.pend = (d.fn f).pend ∧ x.sent = (d.fn f).sent := by
    rw [hx]
    split
    · next h => exact ⟨List.contains_iff_mem.1 h, rfl, rfl⟩
    · exact ⟨List.mem_cons_self, rfl, rfl⟩
  obtain ⟨hmem, hpend, hsent⟩ := hopen
  have hspec := unmask_sent (d := d.modFn f (fun x => if x.unmasked.contains v then x else { x with unmasked := v :: x.unmasked }))
    hf (v := v) (by rw [fn_modFn_same, ← hx]; exact hmem)
  rw [← he, fn_modFn_same, ← hx, hpend, hsent] at hspec
  exact ⟨he ▸ unmask_core _ f v, hspec⟩

theorem msixUnmask_next (hx : s.dev.fnExists f = true) (hv : v.val < fnVectors f) :
    ∃ t, exec (.msixUnmask f v) s = .next t ∧ t.pending = s.pending ∧ t.dev.core = s.dev.core ∧
      (f.val ≠ 0 → v.val ∈ (t.dev.fn f).unmasked ∧ v.val ∉ (t.dev.fn f).pend ∧
        SMap.get (fun _ => 0) v.val (t.dev.fn f).sent =
          SMap.get (fun _ => 0) v.val (s.dev.fn f).sent + b2n ((s.dev.fn f).pend.contains v.val)) ∧
      (f.val = 0 → t.dev.flag (Reg.msixTable v 3) 0 = false ∧
        (s.dev.flag (Reg.msixTable v 3) 0 = true → v.val ∉ (t.dev.fn f).pend)) := by
  obtain ⟨t, ht, hp, hdev⟩ := run_fresh (msixUnmaskEffect f v) s
  refine ⟨t, ht, hp, ?_⟩
  rw [hdev]
  by_cases hf : f.val = 0
  · rw [hf] at hx hv ⊢
    obtain ⟨hcore, hflag, hpend⟩ := msixUnmask_pf0 (d := s.dev.fresh) hx hv
    exact ⟨hcore, fun h => absurd rfl h, fun _ => ⟨hflag, hpend⟩⟩
  · obtain ⟨hcore, hsent⟩ := msixUnmask_other (d := s.dev.fresh) hf hx hv
    exact ⟨hcore, fun _ => hsent, fun h => absurd h hf⟩

end

/-! ### Moderation (15 R375, R386) -/

theorem message_rings (d : Dev) (f v : Nat) : (d.message f v).rings = d.rings := by
  unfold Dev.message Dev.hostWrite
  dsimp only
  split
  · rfl
  · split
    · split <;> rfl
    · rfl

/-- What a status slot shows does not depend on the entries not yet signalled. -/
theorem statusBytes_unsig (d : Dev) (k n : Nat) : (d.modRing k (fun r => { r with unsig := n })).statusBytes k = d.statusBytes k := by
  unfold Dev.statusBytes Dev.resid
  rw [ring_modRing_same]
  rfl

/-- What MSIX_MODERATION_EXPIRY brings about for a ring: the entries count as signalled, and the message is sent or due. -/
structure Signalled (a b : Dev) (f k : Nat) : Prop where
  reports : Reports a b
  unsig : (b.ring k).unsig = 0
  due : a.statusBytes k ≠ (a.ring k).shown → (b.ring k).msgDue = true
  sent : a.statusBytes k = (a.ring k).shown → f ≠ 0 → (a.ring k).vec ∈ (a.fn f).unmasked →
    SMap.get (fun _ => 0) (a.ring k).vec (b.fn f).sent = SMap.get (fun _ => 0) (a.ring k).vec (a.fn f).sent + 1

theorem signalled_of_shown {d : Dev} {f k : Nat} (h : d.statusBytes k = (d.ring k).shown) :
    Signalled d ((d.modRing k (fun r => { r with unsig := 0 })).message f (d.ring k).vec) f k where
  reports := (modRing_quiet d k _).1.trans (message_reports _ _ _)
  unsig := by rw [ring_of_rings (message_rings _ _ _), ring_modRing_same]
  due := fun hne => absurd h hne
  sent := fun _ hf hv => by
    rw [message_unmasked (d := d.modRing k _) hf hv, fn_modFn_same]
    dsimp only
    rw [SMap.get_set_same]
    rfl

theorem signalled_of_not_shown {d : Dev} {f k : Nat} (h : d.statusBytes k ≠ (d.ring k).shown) :
    Signalled d ((d.modRing k (fun r => { r with unsig := 0 })).modRing k (fun r => { r with msgDue := true })) f k where
  reports := ((modRing_quiet d k _).trans (modRing_quiet _ k _)).1
  unsig := by rw [ring_modRing_same, ring_modRing_same]
  due := fun _ => by rw [ring_modRing_same]
  sent := fun he => absurd he h

theorem msixModerationExpiry_next {s : State} {f : Fin 34} {slot : Fin 128} (hst : (s.dev.ring (ringKey f slot)).st ≠ .disabled)
    (hvec : (s.dev.ring (ringKey f slot)).vec ≠ 255) (huns : (s.dev.ring (ringKey f slot)).unsig ≠ 0)
    (hdue : (s.dev.ring (ringKey f slot)).unsigAt + usClk (s.dev.ring (ringKey f slot)).modUs ≤ s.dev.clk) :
    ∃ t, exec (.msixModerationExpiry f slot) s = .next t ∧ t.pending = s.pending ∧ Signalled s.dev t.dev f (ringKey f slot) := by
  obtain ⟨k, hk⟩ : ∃ k, k = ringKey f slot := ⟨_, rfl⟩
  rw [← hk] at hst hvec huns hdue ⊢
  have hskip : ¬ ((s.dev.fresh.ring k).st = .disabled ∨ (s.dev.fresh.ring k).vec = 255 ∨ (s.dev.fresh.ring k).unsig = 0 ∨
      s.dev.fresh.clk < (s.dev.fresh.ring k).unsigAt + usClk (s.dev.fresh.ring k).modUs) := by
    rintro (h | h | h | h)
    · exact hst h
    · exact hvec h
    · exact huns h
    · exact Nat.not_lt.2 hdue h
  have heff : Signalled s.dev.fresh (msixModerationExpiryEffect f slot s.dev.fresh) f k := by
    rw [msixModerationExpiryEffect, ← hk]
    dsimp only
    rw [if_neg hskip, statusBytes_unsig]
    split
    · next h => exact signalled_of_shown h
    · next h => exact signalled_of_not_shown h
  obtain ⟨t, ht, hp, hdev⟩ := run_fresh (msixModerationExpiryEffect f slot) s
  refine ⟨t, ht, hp, ?_⟩
  rw [hdev]
  exact ⟨((fresh_reports _).trans heff.reports).trans (fresh_reports _), heff.unsig, heff.due, heff.sent⟩

/-! ### VF Enable (15 R366, R368) -/

/-- The rings of PF1 and the VFs that a predicate holds for are disabled. -/
theorem flrData_disables (d : Dev) (p : Nat → Bool) :
    FlrDown d (d.flrData p) ∧ ∀ k, ringFn k ≠ 0 → p k = true → ((d.flrData p).ring k).st = .disabled := by
  unfold Dev.flrData
  extract_lets flushed emptied
  have hflushed : FlrTame d flushed := flushWhere_flrTame d _
  have hemptied : FlrTame flushed emptied :=
    FlrTame.foldl (fun d g => ite_flrTame (flushBuffers_flrTame d g) (FlrTame.refl d)) _ _
  have hall := hflushed.trans hemptied
  obtain ⟨hdown, -, hst⟩ := killRings_spec emptied (fun k => decide (ringFn k ≠ 0) && p k) rfl
  exact ⟨hall.toFlrCalm.flrDown.trans hdown, fun k hk hp => hst k (by rw [decide_eq_true hk, hp]; rfl)⟩

theorem vfEnable_next {s : State} (hd : s.dev.dev ≠ .off) (n : Nat) (hv : s.dev.vfEn = false) :
    ∃ t, exec (.vfEnableChange true n) s = .next t ∧ t.pending = s.pending ∧ t.dev.dev = s.dev.dev ∧ t.dev.vfEn = true ∧
      t.dev.numVfs = min n 32 ∧ ∀ k, ringFn k = 1 → ringSlot k / 4 < min n 32 → (t.dev.ring k).st = .disabled := by
  have hskip : ¬ (s.dev.fresh.dev = .off ∨ true = s.dev.fresh.vfEn) := by
    rintro (h | h)
    · exact hd h
    · exact Bool.noConfusion (h.trans hv)
  obtain ⟨hdown, hst⟩ := flrData_disables s.dev.fresh (fun k => decide (ringFn k = 1 ∧ ringSlot k / 4 < min n 32))
  obtain ⟨t, ht, hp, hdev⟩ := run_fresh (vfEnableChangeEffect true n) s
  rw [vfEnableChangeEffect, if_neg hskip, if_pos rfl] at hdev
  dsimp only at hdev
  obtain ⟨e, he⟩ : ∃ e, e = s.dev.fresh.flrData (fun k => decide (ringFn k = 1 ∧ ringSlot k / 4 < min n 32)) := ⟨_, rfl⟩
  rw [← he] at hdev hdown hst
  refine ⟨t, ht, hp, ?_⟩
  rw [hdev]
  exact ⟨hdown.dev, rfl, rfl, fun k hk hs => hst k (by omega) (decide_eq_true ⟨hk, hs⟩)⟩

/-- What an FLR of function `f` leaves of it. -/
def Dev.ResetDown (f : Nat) (d : Dev) : Prop := d.FnReset f ∧ ∀ k, ringFn k = f → (d.ring k).st = .disabled

/-- Every VF has been reset. -/
theorem flrVfs_resets (d : Dev) {i : Nat} (hi : i < 32) : d.flrVfs.ResetDown (2 + i) := by
  unfold Dev.flrVfs iter
  refine foldl_settles (P := Dev.ResetDown (2 + i)) (f := fun d n => d.flrOne (2 + n)) (List.mem_range.2 hi) (fun d => (flrOne_spec d (2 + i)).2) (fun d j h => ?_) d
  by_cases hj : j = i
  · exact hj ▸ (flrOne_spec d (2 + j)).2
  · refine ⟨?_, fun k hk => (flrOne_spec d (2 + j)).1.down k (h.2 k hk)⟩
    have hreset := h.1
    unfold Dev.FnReset at hreset ⊢
    rwa [flrOne_fn d (by omega) (by omega)]

theorem vfEnableChangeEffect_off {d : Dev} (hd : d.dev ≠ .off) (n : Nat) (hv : d.vfEn = true) :
    vfEnableChangeEffect false n d = d.flrVfs.noVfs := by
  have hskip : ¬ (d.dev = .off ∨ false = d.vfEn) := by
    rintro (h | h)
    · exact hd h
    · exact Bool.noConfusion (h.trans hv)
  unfold vfEnableChangeEffect
  rw [if_neg hskip, if_neg Bool.false_ne_true]
  rfl

theorem vfDisable_next {s : State} (hd : s.dev.dev ≠ .off) (n : Nat) (hv : s.dev.vfEn = true) :
    ∃ t, exec (.vfEnableChange false n) s = .next t ∧ t.pending = s.pending ∧ t.dev.dev = s.dev.dev ∧ t.dev.vfEn = false ∧
      t.dev.numVfs = 0 ∧ ∀ i, i < 32 → (t.dev.fn (2 + i)).active = false ∧ (t.dev.fn (2 + i)).bme = false ∧
        ∀ k, ringFn k = 2 + i → (t.dev.ring k).st = .disabled := by
  obtain ⟨t, ht, hp, hdev⟩ := run_fresh (vfEnableChangeEffect false n) s
  have hkept := (flrVfs_spec s.dev.fresh).1.dev
  have hdown : ∀ i, i < 32 → s.dev.fresh.flrVfs.ResetDown (2 + i) := fun i hi => flrVfs_resets s.dev.fresh hi
  rw [vfEnableChangeEffect_off (d := s.dev.fresh) hd n hv] at hdev
  obtain ⟨e, he⟩ : ∃ e, e = s.dev.fresh.flrVfs := ⟨_, rfl⟩
  rw [← he] at hdev hkept hdown
  refine ⟨t, ht, hp, ?_⟩
  rw [hdev]
  refine ⟨hkept, rfl, rfl, fun i hi => ?_⟩
  obtain ⟨hreset, hst⟩ := hdown i hi
  exact ⟨(congrArg Fn.active hreset :), (congrArg Fn.bme hreset :), hst⟩

/-- Settles O48: function anchors, VF Enable, bus mastering and MSI-X messages. -/
theorem functionsAndMessages : Obligations.FunctionsAndMessages := by
  intro s f
  refine ⟨fun hx => ⟨fnEnable_next hx, fnDisable_next hx, busMasterOff_next hx, busMasterOn_next hx, fun v hv => msixUnmask_next hx hv⟩,
    fun slot => ?_, fun hd => ⟨vfEnable_next hd, vfDisable_next hd⟩⟩
  intro k hst hvec huns hdue
  obtain ⟨t, ht, hp, hsig⟩ := msixModerationExpiry_next hst hvec huns hdue
  exact ⟨t, ht, hp, hsig.reports, hsig.unsig, hsig.due, hsig.sent⟩

end Sys2Proof.Machine
end

section
/-! SUPPORT. How a ring stands (15 R370, R373, R387): its state, its error, the host index taken and the last `EN` seen. No completion, and
no end of an MSDU or of a command, changes how any ring stands. -/

namespace Sys2Proof.Machine

/-- How a ring stands: its state, `ERR`, the host index taken and the `EN` last seen. -/
def Ring.stand (r : Ring) : RingState × BitVec 8 × BitVec 32 × Bool := (r.st, r.err, r.hostIdx, r.lastEn)

/-- Every ring of `b` stands as in `a`. -/
def Stands (a b : Dev) : Prop := ∀ k, (b.ring k).stand = (a.ring k).stand

theorem Stands.refl (a : Dev) : Stands a a := fun _ => rfl
theorem Stands.trans {a b c : Dev} (h : Stands a b) (k : Stands b c) : Stands a c := fun i => (k i).trans (h i)

theorem Stands.of_rings {a b : Dev} (h : b.rings = a.rings) : Stands a b := fun k => congrArg Ring.stand (ring_of_rings h k)

/-- What follows a change of other parts. -/
theorem Stands.upon {a b c : Dev} (k : Stands b c) (h : b.rings = a.rings) : Stands a c := (Stands.of_rings h).trans k

theorem ite_stands {p : Prop} [Decidable p] {d a b : Dev} (ha : Stands d a) (hb : Stands d b) : Stands d (if p then a else b) := by
  split <;> assumption

theorem Stands.foldl {α : Type} {f : Dev → α → Dev} (hf : ∀ d x, Stands d (f d x)) (l : List α) (d : Dev) : Stands d (l.foldl f d) :=
  List.foldlRecOn l f (motive := Stands d) (Stands.refl d) fun e he x _ => he.trans (hf e x)

theorem modRing_stands (d : Dev) (i : Nat) {f : Ring → Ring} (hf : ∀ r, (f r).stand = r.stand) : Stands d (d.modRing i f) := by
  intro k
  by_cases h : k = i
  · rw [h, ring_modRing_same, hf]
  · rw [ring_modRing_ne h]

theorem Told.stands {a b : Dev} (h : Told a b) : Stands a b := by
  intro k
  obtain ⟨n, hn⟩ := h.loss k
  rw [hn]
  rfl

/-! ### Completions (15 R381, R387) -/

theorem hostWrite_stands (d : Dev) (f a : Nat) (bs : List Byte) : Stands d (d.hostWrite f a bs) :=
  ite_stands (.of_rings rfl) (.of_rings rfl)

theorem writeEntry_stands (d : Dev) (k : Nat) (bs : List Byte) : Stands d (d.writeEntry k bs) := by
  unfold Dev.writeEntry
  extract_lets r size written
  have hwritten : Stands d written := hostWrite_stands d _ _ _
  refine hwritten.trans (modRing_stands written k fun r => ?_)
  dsimp only
  split
  · rfl
  · split <;> rfl

/-- The writing of one completion owed. -/
def Dev.payOne (d : Dev) (k : Nat) (bs : List Byte) : Dev :=
  let d := (d.writeEntry k (withPhase (d.ring k) bs)).modRing k (fun r => { r with rsvd := r.rsvd - 1 })
  if byteAt bs 6 = 0x30 then d else d.modRing (k - 1) (fun r => { r with completed := r.completed + 1 })

/-- The entries that leave what is owed to a completion ring. -/
def Dev.takeOwed (d : Dev) (k n : Nat) : Dev :=
  if (d.ring k).owed.take n = [] then d else d.modRing k (fun r => { r with owed := (d.ring k).owed.drop n })

theorem payOwed_eq (d : Dev) (k : Nat) :
    d.payOwed k = ((d.ring k).owed.take ((d.ring k).size - (d.ring k).unread)).foldl (fun e bs => e.payOne k bs)
      (d.takeOwed k ((d.ring k).size - (d.ring k).unread)) := rfl

theorem payOne_stands (d : Dev) (k : Nat) (bs : List Byte) : Stands d (d.payOne k bs) := by
  have hwrite := (writeEntry_stands d k (withPhase (d.ring k) bs)).trans
    (modRing_stands _ k (f := fun r => { r with rsvd := r.rsvd - 1 }) fun _ => by rfl)
  unfold Dev.payOne
  exact ite_stands hwrite (hwrite.trans (modRing_stands _ _ fun _ => by rfl))

theorem takeOwed_stands (d : Dev) (k n : Nat) : Stands d (d.takeOwed k n) :=
  ite_stands (Stands.refl d) (modRing_stands d k fun _ => by rfl)

theorem payOwed_stands (d : Dev) (k : Nat) : Stands d (d.payOwed k) := by
  rw [payOwed_eq]
  exact (takeOwed_stands d k _).trans (Stands.foldl (fun e bs => payOne_stands e k bs) _ _)

theorem complete_stands (d : Dev) (k : Nat) (bs : List Byte) : Stands d (d.complete k bs) := by
  have howed := modRing_stands d (k + 1) (f := fun r => { r with owed := r.owed ++ [bs] }) fun _ => rfl
  unfold Dev.complete
  dsimp only
  split
  · exact Stands.refl d
  · exact howed
  · exact howed.trans (payOwed_stands _ _)

theorem finish_stands (d : Dev) (id st : Nat) (q : List Byte) : Stands d (d.finish id st q) := by
  unfold Dev.finish
  split
  · exact Stands.refl d
  · next c _ =>
    extract_lets left ended
    have hended : Stands left ended := ite_stands (Stands.upon (complete_stands _ _ _) rfl) (.of_rings rfl)
    exact (hended.upon rfl).trans (mark_told ended 12).stands

theorem finishOpt_stands (d : Dev) (id : Option Nat) (st : Nat) : Stands d (d.finishOpt id st) := by
  cases id with
  | none => exact Stands.refl d
  | some i => exact finish_stands d i st []

/-! ### MSDUs that end -/

theorem markGroup_told (d : Dev) (g : Nat) : Told d (d.markGroup g) :=
  ((mark_told d _).trans (mark_told _ _)).trans ((mark_told _ _).trans (mark_told _ _))

theorem trace_told (d : Dev) (clid : Option Nat) (stage st mpt : Nat) (i : TraceInfo) : Told d (d.trace clid stage st mpt i) := by
  unfold Dev.trace
  split
  · exact Told.refl d
  · exact Told.ite (push_told d 10 _) (Told.refl d)

theorem consumed_stands (d : Dev) (q : Option Nat) (flushed : Bool) : Stands d (d.consumed q flushed) := by
  cases q with
  | none => exact Stands.refl d
  | some q => exact ite_stands ((count_told _ _ _ _ _ _).stands.upon rfl) (.of_rings rfl)

theorem produced_rings (d : Dev) (q : Option Nat) : (d.produced q).rings = d.rings := by
  cases q <;> rfl

theorem flushItem_stands (d : Dev) (k : Nat) : Stands d (d.flushItem k) := by
  unfold Dev.flushItem
  extract_lets freed noted
  have hfreed : Stands d freed := modRing_stands d _ fun _ => rfl
  have hnoted : Stands freed noted := modRing_stands freed _ fun _ => rfl
  exact (hfreed.trans hnoted).trans (count_told _ _ _ _ _ _).stands

theorem endMsdu_stands (d : Dev) (m : Msdu) (st : Nat) (report : Bool) : Stands d (d.endMsdu m st report) := by
  unfold Dev.endMsdu
  extract_lets freed taken counted missed ended traced
  have hfreed : Stands d freed := .of_rings rfl
  have hcounted : Stands taken counted := ite_stands (.of_rings rfl) (Stands.refl _)
  have hmissed : Stands counted missed := ite_stands (.of_rings rfl) (Stands.refl _)
  have hended : Stands missed ended := by
    simp only [ended]
    split
    · exact ite_stands (complete_stands _ _ _) (flushItem_stands _ _)
    · exact ite_stands ((raise_told _ _ _).trans (event_told _ _ _ _ _)).stands (Stands.refl _)
    · exact Stands.refl _
  exact (((hfreed.trans (consumed_stands _ _ _)).trans hcounted).trans (hmissed.trans hended)).trans
    ((trace_told _ _ _ _ _ _).trans (markGroup_told _ _)).stands

theorem hold_stands (d : Dev) (m : Msdu) : Stands d (d.hold m) := by
  unfold Dev.hold
  exact ((consumed_stands d m.queue false).trans (.of_rings (produced_rings _ _))).trans ((markGroup_told _ _).stands.upon rfl)

theorem holdQueued_stands (d : Dev) (nh : Nat) : Stands d (d.holdQueued nh) := by
  unfold Dev.holdQueued
  exact (Stands.foldl (fun e m => ite_stands ((raise_told e _ _).stands.trans (endMsdu_stands _ _ _ _)) (hold_stands e m)) _ _).upon rfl

theorem unhold_stands (d : Dev) (nh : Nat) : Stands d (d.unhold nh) := by
  unfold Dev.unhold
  refine Stands.trans (Stands.foldl (fun e m => ?_) _ d) ((markGroup_told _ _).stands.upon rfl)
  exact ite_stands (Stands.refl e) ((consumed_stands e _ _).trans (.of_rings (produced_rings _ _)))

theorem nodeState_stands (d : Dev) (nh : Nat) (st : NodeState) (reason : Nat) : Stands d (d.nodeState nh st reason) :=
  (event_told _ _ _ _ _).stands.upon rfl

theorem noteClip_stands (d : Dev) (nh : Nat) : Stands d (d.noteClip nh) := by
  unfold Dev.noteClip
  dsimp only
  split
  · exact ite_stands (raise_told _ _ _).stands (Stands.refl d)
  · exact Stands.refl d

theorem updateUnsent_rings (d : Dev) (m : Msdu) : (d.updateUnsent m).rings = d.rings := by
  unfold Dev.updateUnsent
  split
  · split <;> rfl
  · rfl

theorem sendOwn_rings (d : Dev) (nh code tag : Nat) (cmd : Option Nat) (body : List Byte) : (d.sendOwn nh code tag cmd body).rings = d.rings := by
  unfold Dev.sendOwn
  dsimp only
  split <;> rfl

theorem ownDone_stands (d : Dev) (m : Msdu) (st : Nat) : Stands d (d.ownDone m st) := by
  unfold Dev.ownDone
  dsimp only
  split
  · exact ite_stands (.of_rings rfl) (ite_stands (.of_rings (sendOwn_rings _ _ _ _ _ _)) (.of_rings (updateUnsent_rings d m)))
  · exact .of_rings rfl
  · refine ite_stands (ite_stands ?_ ((finishOpt_stands _ _ _).upon rfl)) (finishOpt_stands _ _ _)
    exact ((nodeState_stands d _ _ _).trans (holdQueued_stands _ _)).trans ((noteClip_stands _ _).trans (finishOpt_stands _ _ _))
  · refine ite_stands (Stands.trans (ite_stands ?_ (Stands.refl d)) (finishOpt_stands _ _ _)) (finishOpt_stands _ _ _)
    exact (unhold_stands d _).trans (nodeState_stands _ _ _ _)
  · split
    · exact Stands.refl d
    · exact ite_stands (finish_stands _ _ _ _) (ite_stands (finish_stands _ _ _ _) (finish_stands _ _ _ _))
  · split
    · exact Stands.refl d
    · split
      · exact Stands.refl d
      · exact ite_stands ((finish_stands _ _ _ _).upon rfl) (ite_stands ((finish_stands _ _ _ _).upon rfl) (.of_rings rfl))
  · exact finishOpt_stands _ _ _
  · exact Stands.refl d

/-! ### Items lost (15 R387, 17 R421) -/

theorem loseMsdu_stands (d : Dev) (m : Msdu) : Stands d (d.loseMsdu m) := by
  unfold Dev.loseMsdu
  extract_lets freed counted noted
  have hcounted : Stands freed counted := ite_stands (.of_rings rfl) (Stands.refl _)
  have hnoted : noted.rings = counted.rings := by
    simp only [noted]
    split <;> rfl
  exact ((hcounted.upon rfl).trans (.of_rings hnoted)).trans (ite_stands (ownDone_stands _ _ _) (Stands.refl _))

theorem loseWhere_stands (d : Dev) (hit : Msdu → Bool) : Stands d (d.loseWhere hit) :=
  (Stands.foldl loseMsdu_stands _ _).upon rfl

theorem dropChain_stands (d : Dev) (k : Nat) : Stands d (d.dropChain k) := by
  unfold Dev.dropChain
  extract_lets ps dropped
  have hdrop : Stands d dropped := .of_rings rfl
  have hfree : Stands dropped (dropped.freePools (ringGroup k) ps) := .of_rings rfl
  exact ite_stands hdrop ((hdrop.trans hfree).trans (modRing_stands _ k fun _ => rfl))

theorem loseItems_stands (d : Dev) (k : Nat) : Stands d (d.loseItems k) :=
  ite_stands (.of_rings rfl) (ite_stands ((dropChain_stands d k).trans (loseWhere_stands _ _)) (.of_rings rfl))

theorem errorCompletion_stands (d : Dev) (k n : Nat) : Stands d (d.errorCompletion k n) := by
  unfold Dev.errorCompletion
  extract_lets idx ct bs counted owing
  have hcounted : Stands d counted := modRing_stands d k fun _ => rfl
  have howing : Stands counted owing := modRing_stands counted (k + 1) fun _ => rfl
  split
  · exact hcounted
  · exact hcounted.trans (ite_stands howing (howing.trans (payOwed_stands owing (k + 1))))

/-- A ring enters FAULT with ST_QUEUE_FAULT; how other rings stand does not change. -/
theorem ringFault_stands (d : Dev) (k : Nat) :
    ((d.ringFault k).ring k).st = .fault ∧ ((d.ringFault k).ring k).err = BitVec.ofNat 8 stQueueFault ∧
      ∀ i, i ≠ k → ((d.ringFault k).ring i).stand = (d.ring i).stand := by
  unfold Dev.ringFault
  extract_lets sub n lost faulted told
  have hlost : Stands d lost := ite_stands (loseItems_stands d k) (Stands.refl d)
  have htold : Stands faulted told := ite_stands (errorCompletion_stands _ _ _) (Stands.refl _)
  have hend := htold.trans ((count_told told 39 7 5 none n).trans (event_told _ 0x0601 stQueueFault k (leBytes 4 n))).stands
  have hk : (faulted.ring k).st = .fault ∧ (faulted.ring k).err = BitVec.ofNat 8 stQueueFault := by
    simp only [faulted, ring_modRing_same, and_self]
  refine ⟨(congrArg Prod.fst (hend k)).trans hk.1, (congrArg (fun x => x.2.1) (hend k)).trans hk.2, fun i hi => ?_⟩
  exact (hend i).trans ((congrArg Ring.stand (ring_modRing_ne hi lost _)).trans (hlost i))

end Sys2Proof.Machine
end

section
/-! SUPPORT. The slots of a doorbell page (15 R372, R373, R387): the passes over `EN`, the host indices, and a page of which one slot asks
for something. -/

namespace Sys2Proof.Machine

/-! ### Completions owed, on the other rings and on their own -/

theorem modRing_keeps {β : Type} (π : Ring → β) (d : Dev) (j : Nat) {f : Ring → Ring} (hf : ∀ r, π (f r) = π r) (i : Nat) :
    π ((d.modRing j f).ring i) = π (d.ring i) := by
  by_cases h : i = j
  · rw [h, ring_modRing_same, hf]
  · rw [ring_modRing_ne h]

theorem hostWrite_rings (d : Dev) (f a : Nat) (bs : List Byte) : (d.hostWrite f a bs).rings = d.rings := by
  unfold Dev.hostWrite
  split <;> rfl

theorem writeEntry_ring_ne {i k : Nat} (hi : i ≠ k) (d : Dev) (bs : List Byte) : (d.writeEntry k bs).ring i = d.ring i := by
  unfold Dev.writeEntry
  exact (ring_modRing_ne hi _ _).trans (ring_of_rings (hostWrite_rings d _ _ _) i)

/-- Ring `i` of `b` is that of `a` but for the completions counted. -/
def CompletedOnly (i : Nat) (a b : Dev) : Prop := ∃ n, b.ring i = { a.ring i with completed := n }

theorem CompletedOnly.refl (i : Nat) (a : Dev) : CompletedOnly i a a := ⟨_, rfl⟩

theorem CompletedOnly.of_ring {i : Nat} {a b : Dev} (h : b.ring i = a.ring i) : CompletedOnly i a b := ⟨_, h⟩

theorem CompletedOnly.trans {i : Nat} {a b c : Dev} (h : CompletedOnly i a b) (k : CompletedOnly i b c) : CompletedOnly i a c := by
  obtain ⟨n, hn⟩ := h
  obtain ⟨m, hm⟩ := k
  exact ⟨m, by rw [hm, hn]⟩

theorem modCompleted_only (d : Dev) (i j : Nat) : CompletedOnly i d (d.modRing j (fun r => { r with completed := r.completed + 1 })) := by
  by_cases h : i = j
  · exact ⟨(d.ring i).completed + 1, by rw [← h, ring_modRing_same]⟩
  · exact .of_ring (ring_modRing_ne h _ _)

theorem payOne_only {i k : Nat} (hi : i ≠ k) (d : Dev) (bs : List Byte) : CompletedOnly i d (d.payOne k bs) := by
  have hwrite : CompletedOnly i d ((d.writeEntry k (withPhase (d.ring k) bs)).modRing k (fun r => { r with rsvd := r.rsvd - 1 })) :=
    .of_ring ((ring_modRing_ne hi _ _).trans (writeEntry_ring_ne hi d _))
  unfold Dev.payOne
  dsimp only
  split
  · exact hwrite
  · exact hwrite.trans (modCompleted_only _ i (k - 1))

theorem takeOwed_only {i k : Nat} (hi : i ≠ k) (d : Dev) (n : Nat) : CompletedOnly i d (d.takeOwed k n) := by
  unfold Dev.takeOwed
  split
  · exact CompletedOnly.refl i d
  · exact .of_ring (ring_modRing_ne hi _ _)

/-- Completions written on one ring change no other, but that items complete. -/
theorem payOwed_only {i k : Nat} (hi : i ≠ k) (d : Dev) : CompletedOnly i d (d.payOwed k) := by
  rw [payOwed_eq]
  exact List.foldlRecOn _ (fun e bs => Dev.payOne e k bs) (motive := CompletedOnly i d) (takeOwed_only hi d _)
    fun e he bs _ => he.trans (payOne_only hi e bs)

theorem payOwed_nothing {d : Dev} {k : Nat} (h : (d.ring k).owed = []) : d.payOwed k = d := by
  rw [payOwed_eq, Dev.takeOwed, h, List.take_nil, if_pos rfl, List.foldl_nil]

/-- The fields of a ring that tell how full it is. -/
def Ring.fill (r : Ring) : BitVec 32 × BitVec 32 × Nat := (r.devIdx, r.hostIdx, r.lg)

theorem unread_of_fill {a b : Ring} (h : a.fill = b.fill) : a.unread = b.unread ∧ a.size = b.size := by
  simp only [Ring.fill, Prod.mk.injEq] at h
  obtain ⟨hdev, hhost, hlg⟩ := h
  rw [Ring.unread, Ring.unread, Ring.size, Ring.size, hdev, hhost, hlg]
  exact ⟨rfl, rfl⟩

theorem writeEntry_fill (d : Dev) (k : Nat) (bs : List Byte) :
    ((d.writeEntry k bs).ring k).fill = ((d.ring k).devIdx + 1, (d.ring k).hostIdx, (d.ring k).lg) := by
  unfold Dev.writeEntry
  dsimp only
  rw [ring_modRing_same, ring_of_rings (hostWrite_rings d _ _ _) k]
  split
  · rfl
  · split <;> rfl

theorem payOne_fill (d : Dev) (k : Nat) (bs : List Byte) :
    ((d.payOne k bs).ring k).fill = ((d.ring k).devIdx + 1, (d.ring k).hostIdx, (d.ring k).lg) := by
  have hwrite := (modRing_keeps Ring.fill (d.writeEntry k (withPhase (d.ring k) bs)) k
    (f := fun r => { r with rsvd := r.rsvd - 1 }) (fun _ => rfl) k).trans (writeEntry_fill d k _)
  unfold Dev.payOne
  extract_lets written
  split
  · exact hwrite
  · exact (modRing_keeps Ring.fill written (k - 1) (f := fun r => { r with completed := r.completed + 1 }) (fun _ => rfl) k).trans hwrite

theorem toNat_next_sub_le (a b : BitVec 32) : (a + 1 - b).toNat ≤ (a - b).toNat + 1 := by bv_omega

theorem payOne_unread (d : Dev) (k : Nat) (bs : List Byte) :
    ((d.payOne k bs).ring k).unread ≤ (d.ring k).unread + 1 ∧ ((d.payOne k bs).ring k).size = (d.ring k).size := by
  obtain ⟨hun, hsize⟩ := unread_of_fill (b := { d.ring k with devIdx := (d.ring k).devIdx + 1 }) (payOne_fill d k bs)
  rw [hun, hsize]
  exact ⟨toNat_next_sub_le _ _, rfl⟩

theorem payAll_unread (l : List (List Byte)) (d : Dev) (k : Nat) :
    ((l.foldl (fun e bs => e.payOne k bs) d).ring k).unread ≤ (d.ring k).unread + l.length ∧
      ((l.foldl (fun e bs => e.payOne k bs) d).ring k).size = (d.ring k).size := by
  induction l generalizing d with
  | nil => exact ⟨Nat.le_refl _, rfl⟩
  | cons bs l ih =>
    obtain ⟨hun, hsize⟩ := ih (d.payOne k bs)
    obtain ⟨hone, hsame⟩ := payOne_unread d k bs
    rw [List.foldl_cons, List.length_cons]
    exact ⟨by omega, hsize.trans hsame⟩

/-- Completions owed are written as far as the ring has room. -/
theorem payOwed_unread {d : Dev} {k : Nat} (h : (d.ring k).unread ≤ (d.ring k).size) :
    ((d.payOwed k).ring k).unread ≤ ((d.payOwed k).ring k).size := by
  have htake : ((d.takeOwed k ((d.ring k).size - (d.ring k).unread)).ring k).fill = (d.ring k).fill := by
    unfold Dev.takeOwed
    split
    · rfl
    · rw [ring_modRing_same]
      rfl
  obtain ⟨hun, hsize⟩ := unread_of_fill htake
  obtain ⟨hall, hsame⟩ := payAll_unread ((d.ring k).owed.take ((d.ring k).size - (d.ring k).unread))
    (d.takeOwed k ((d.ring k).size - (d.ring k).unread)) k
  have hlen := List.length_take_le ((d.ring k).size - (d.ring k).unread) (d.ring k).owed
  rw [payOwed_eq, hsame, hsize]
  omega

/-! ### A change of `EN` (15 R373, R374) -/

theorem takeSlot_else {i k : Nat} (hi : i ≠ k) (d : Dev) (x : DbSlot) : CompletedOnly i d (d.takeSlot k x) := by
  unfold Dev.takeSlot
  extract_lets left taken
  have htaken : CompletedOnly i d taken := .of_ring (ring_modRing_ne hi d _)
  split
  · exact htaken.trans (payOwed_only hi taken)
  · exact htaken

theorem enableRing_else {i f slot : Nat} (hi : i ≠ ringKey f slot) (d : Dev) (x : DbSlot) : CompletedOnly i d (d.enableRing f slot x) := by
  unfold Dev.enableRing
  extract_lets k
  split
  · exact takeSlot_else hi d x
  · exact .of_ring (ring_modRing_ne hi d _)

theorem CompletedOnly.stand {i : Nat} {a b : Dev} (h : CompletedOnly i a b) : (b.ring i).stand = (a.ring i).stand := by
  obtain ⟨n, hn⟩ := h
  rw [hn]
  rfl

theorem disableRing_else {i k : Nat} (hi : i ≠ k) (d : Dev) : ((d.disableRing k).ring i).stand = (d.ring i).stand := by
  unfold Dev.disableRing
  split
  · exact (congrArg Ring.stand (ring_modRing_ne hi _ _)).trans (dropChain_stands d k i)
  · exact congrArg Ring.stand (ring_modRing_ne hi _ _)
  · split
    · exact congrArg Ring.stand (ring_modRing_ne hi _ _)
    · exact congrArg Ring.stand (ring_modRing_ne hi _ _)

/-- A ring whose `EN` a poll has taken up as `on`. -/
def Dev.switched (d : Dev) (f slot : Nat) (on : Bool) (x : DbSlot) : Dev :=
  (if on then d.enableRing f slot x else d.disableRing (ringKey f slot)).modRing (ringKey f slot) (fun r => { r with lastEn := on })

theorem switched_lastEn (d : Dev) (f slot : Nat) (on : Bool) (x : DbSlot) :
    ((d.switched f slot on x).ring (ringKey f slot)).lastEn = on := by
  unfold Dev.switched
  rw [ring_modRing_same]

theorem switched_else {i f slot : Nat} (hi : i ≠ ringKey f slot) (d : Dev) (on : Bool) (x : DbSlot) :
    ((d.switched f slot on x).ring i).stand = (d.ring i).stand := by
  unfold Dev.switched
  rw [ring_modRing_ne hi]
  split
  · exact (enableRing_else hi d x).stand
  · exact disableRing_else hi d

/-- One slot in a pass over `EN`. -/
def Dev.enStep (d : Dev) (f : Nat) (on : Bool) (hit : RingClass → Bool) (e : Nat × DbSlot) : Dev :=
  if e.2.en = on ∧ (d.ring (ringKey f e.1)).lastEn ≠ on ∧ hit (ringClass (ringKey f e.1)) then d.switched f e.1 on e.2 else d

theorem enPass_eq (d : Dev) (f : Nat) (on : Bool) (hit : RingClass → Bool) (l : List (Nat × DbSlot)) :
    d.enPass f on hit l = l.foldl (fun d e => d.enStep f on hit e) d := rfl

/-- The slots show `EN` as it was last seen. -/
def Settled (d : Dev) (f : Nat) (l : List (Nat × DbSlot)) : Prop := ∀ e ∈ l, e.2.en = (d.ring (ringKey f e.1)).lastEn

theorem enStep_settled {d : Dev} {f : Nat} {e : Nat × DbSlot} (h : e.2.en = (d.ring (ringKey f e.1)).lastEn) (on : Bool)
    (hit : RingClass → Bool) : d.enStep f on hit e = d := by
  refine if_neg ?_
  rintro ⟨hon, hne, -⟩
  exact hne (h.symm.trans hon)

theorem enPass_settled {d : Dev} {f : Nat} {l : List (Nat × DbSlot)} (h : Settled d f l) (on : Bool) (hit : RingClass → Bool) :
    d.enPass f on hit l = d := by
  rw [enPass_eq]
  exact List.foldlRecOn l _ (motive := fun e => e = d) rfl fun e he x hx => by rw [he, enStep_settled (h x hx)]

/-- The four passes over `EN` of a poll. -/
def Dev.enPasses (d : Dev) (f : Nat) (l : List (Nat × DbSlot)) : Dev :=
  (((d.enPass f true (fun c => decide (c ≠ .submission)) l).enPass f true (fun c => decide (c = .submission)) l).enPass f false
    (fun c => decide (c = .submission)) l).enPass f false (fun c => decide (c ≠ .submission)) l

/-- The host indices of a poll. -/
def Dev.takeIdxs (d : Dev) (f : Nat) (l : List (Nat × DbSlot)) : Dev := l.foldl (fun d e => d.takeIdx (ringKey f e.1) e.2) d

theorem pollSlots_eq (d : Dev) (f : Nat) (l : List (Nat × DbSlot)) : d.pollSlots f l = (d.enPasses f l).takeIdxs f l := rfl

theorem enPasses_settled {d : Dev} {f : Nat} {l : List (Nat × DbSlot)} (h : Settled d f l) : d.enPasses f l = d := by
  unfold Dev.enPasses
  rw [enPass_settled h, enPass_settled h, enPass_settled h, enPass_settled h]

/-! ### A page of which one slot asks for something -/

/-- The handled slots of a page: `x` in slot `sl`, and others that ask nothing of their rings. -/
structure Asking (d : Dev) (f sl : Nat) (x : DbSlot) (pre post : List (Nat × DbSlot)) : Prop where
  before : ∀ e ∈ pre, e.1 ≠ sl ∧ Unmoved d (ringKey f e.1) e.2
  after : ∀ e ∈ post, e.1 ≠ sl ∧ Unmoved d (ringKey f e.1) e.2

theorem ringKey_ne {f i j : Nat} (h : i ≠ j) : ringKey f i ≠ ringKey f j := fun he => h (Nat.add_left_cancel he)

section
variable {d : Dev} {f sl : Nat} {x : DbSlot} {pre post : List (Nat × DbSlot)} (h : Asking d f sl x pre post)
include h

theorem Asking.settled (hen : x.en = (d.ring (ringKey f sl)).lastEn) : Settled d f (pre ++ (sl, x) :: post) := by
  intro e he
  rcases List.mem_append.1 he with hp | hp
  · exact (h.before e hp).2.1
  · rcases List.mem_cons.1 hp with rfl | hp
    · exact hen
    · exact (h.after e hp).2.1

theorem Asking.switched_settled {on : Bool} (hen : x.en = on) : Settled (d.switched f sl on x) f (pre ++ (sl, x) :: post) := by
  have other : ∀ e : Nat × DbSlot, e.1 ≠ sl ∧ Unmoved d (ringKey f e.1) e.2 →
      e.2.en = ((d.switched f sl on x).ring (ringKey f e.1)).lastEn := fun e he =>
    he.2.1.trans (congrArg (fun y => y.2.2.2) (switched_else (ringKey_ne he.1) d on x)).symm
  intro e he
  rcases List.mem_append.1 he with hp | hp
  · exact other e (h.before e hp)
  · rcases List.mem_cons.1 hp with rfl | hp
    · exact hen.trans (switched_lastEn d f sl on x).symm
    · exact other e (h.after e hp)

/-- A pass acts on the slot that asks, or not at all. -/
theorem Asking.enPass_acts {on : Bool} {hit : RingClass → Bool} (hen : x.en = on) (hne : (d.ring (ringKey f sl)).lastEn ≠ on)
    (hhit : hit (ringClass (ringKey f sl)) = true) : d.enPass f on hit (pre ++ (sl, x) :: post) = d.switched f sl on x := by
  have hafter : Settled (d.switched f sl on x) f post := fun e he =>
    h.switched_settled hen e (List.mem_append_right _ (List.mem_cons_of_mem _ he))
  have hbefore : Settled d f pre := fun e he => (h.before e he).2.1
  have hstep : d.enStep f on hit (sl, x) = d.switched f sl on x := if_pos ⟨hen, hne, hhit⟩
  rw [enPass_eq, List.foldl_append, List.foldl_cons, ← enPass_eq d f on hit pre, enPass_settled hbefore, hstep]
  exact enPass_settled hafter on hit

theorem Asking.enPass_skips {on : Bool} {hit : RingClass → Bool}
    (hno : x.en = on → hit (ringClass (ringKey f sl)) = false) : d.enPass f on hit (pre ++ (sl, x) :: post) = d := by
  have hafter : Settled d f post := fun e he => (h.after e he).2.1
  have hbefore : Settled d f pre := fun e he => (h.before e he).2.1
  have hstep : d.enStep f on hit (sl, x) = d := if_neg fun ⟨hen, _, hhit⟩ => Bool.noConfusion ((hno hen).symm.trans hhit)
  rw [enPass_eq, List.foldl_append, List.foldl_cons, ← enPass_eq d f on hit pre, enPass_settled hbefore, hstep]
  exact enPass_settled hafter on hit

theorem Asking.enPasses_on (hen : x.en = true) (hne : (d.ring (ringKey f sl)).lastEn = false) :
    d.enPasses f (pre ++ (sl, x) :: post) = d.switched f sl true x := by
  have hlast : (d.ring (ringKey f sl)).lastEn ≠ true := by rw [hne]; exact Bool.false_ne_true
  have hset := h.switched_settled hen
  unfold Dev.enPasses
  by_cases hc : ringClass (ringKey f sl) = .submission
  · rw [h.enPass_skips (hit := fun c => decide (c ≠ .submission)) (fun _ => by simp [hc]), h.enPass_acts hen hlast (by simp [hc]),
      enPass_settled hset, enPass_settled hset]
  · rw [h.enPass_acts hen hlast (by simp [hc]), enPass_settled hset, enPass_settled hset, enPass_settled hset]

theorem Asking.enPasses_off (hen : x.en = false) (hne : (d.ring (ringKey f sl)).lastEn = true) :
    d.enPasses f (pre ++ (sl, x) :: post) = d.switched f sl false x := by
  have hlast : (d.ring (ringKey f sl)).lastEn ≠ false := by rw [hne]; exact Bool.false_ne_true.symm
  have hset := h.switched_settled hen
  have hon : ∀ hit : RingClass → Bool, d.enPass f true hit (pre ++ (sl, x) :: post) = d := fun hit =>
    h.enPass_skips fun ht => Bool.noConfusion (hen.symm.trans ht)
  unfold Dev.enPasses
  rw [hon, hon]
  by_cases hc : ringClass (ringKey f sl) = .submission
  · rw [h.enPass_acts hen hlast (by simp [hc]), enPass_settled hset]
  · rw [h.enPass_skips (hit := fun c => decide (c = .submission)) (fun _ => by simp [hc]), h.enPass_acts hen hlast (by simp [hc])]

end

end Sys2Proof.Machine
end

section
/-! SUPPORT. DOORBELL_POLL (15 R372, R373, R387): host indices, and what a poll leaves of the one ring that it asks something of. -/

namespace Sys2Proof.Machine

/-! ### A host index -/

section
variable {d : Dev} {k : Nat} {x : DbSlot}

/-- The entries that a ring would hold, or have unread, with the host index read. -/
def Dev.reach (d : Dev) (k : Nat) (x : DbSlot) : Nat :=
  (if ringClass k = .submission then x.idx - (d.ring k).devIdx else (d.ring k).devIdx - x.idx).toNat

theorem takeIdx_idle_ring (h : (d.ring k).takes = false) : d.takeIdx k x = d := by
  unfold Dev.takeIdx
  dsimp only
  rw [h]
  exact if_pos rfl

theorem reach_eq : (if decide (ringClass k = .submission) then x.idx - (d.ring k).devIdx else (d.ring k).devIdx - x.idx).toNat = d.reach k x := by
  unfold Dev.reach
  congr 1
  by_cases h : ringClass k = .submission
  · rw [decide_eq_true h, if_pos rfl, if_pos h]
  · rw [decide_eq_false h, if_neg Bool.false_ne_true, if_neg h]

/-- An index that moved backwards is a ring fault. -/
theorem takeIdx_back (ht : (d.ring k).takes = true) (hb : 2 ^ 31 ≤ (x.idx - (d.ring k).hostIdx).toNat) :
    d.takeIdx k x = d.ringFault k := by
  unfold Dev.takeIdx
  dsimp only
  rw [ht, if_neg (by decide)]
  exact if_pos (.inl (decide_eq_true hb))

/-- The host index takes effect, and what is owed to a completion ring may be written. -/
def Dev.takeForward (d : Dev) (k : Nat) (x : DbSlot) : Dev :=
  if ringClass k = .completion ∧ (d.ring k).owed ≠ [] then (d.modRing k (fun r => { r with hostIdx := x.idx })).payOwed k
  else d.modRing k (fun r => { r with hostIdx := x.idx })

/-- An index that moved forward within the ring takes effect, where no read of entries fails. -/
theorem takeIdx_forward (ht : (d.ring k).takes = true) (hb : (x.idx - (d.ring k).hostIdx).toNat < 2 ^ 31)
    (hfar : d.reach k x ≤ (d.ring k).size) (hrd : ringClass k = .submission → x.rdErr = true → x.idx = (d.ring k).devIdx) :
    d.takeIdx k x = d.takeForward k x := by
  have hnf : ¬ (decide (2 ^ 31 ≤ (x.idx - (d.ring k).hostIdx).toNat) = true ∨ decide ((d.ring k).size <
      (if decide (ringClass k = .submission) then x.idx - (d.ring k).devIdx else (d.ring k).devIdx - x.idx).toNat) = true) := by
    rw [reach_eq]
    rintro (h | h)
    · exact Nat.not_lt.2 (of_decide_eq_true h) hb
    · exact Nat.not_lt.2 hfar (of_decide_eq_true h)
  have hno : ¬ ((decide (ringClass k = .submission) && x.rdErr &&
      decide (0 < ((d.modRing k (fun r => { r with hostIdx := x.idx })).ring k).waiting)) = true) := by
    rw [ring_modRing_same, Bool.and_eq_true, Bool.and_eq_true]
    rintro ⟨⟨hs, hr⟩, hw⟩
    have hw := of_decide_eq_true hw
    rw [Ring.waiting, hrd (of_decide_eq_true hs) hr, BitVec.sub_self] at hw
    exact Nat.lt_irrefl 0 hw
  unfold Dev.takeIdx
  dsimp only
  rw [ht, if_neg (by decide), if_neg hnf, if_neg hno]
  rfl

theorem takeForward_stand : ((d.takeForward k x).ring k).stand = { d.ring k with hostIdx := x.idx }.stand := by
  have hmod : ((d.modRing k (fun r => { r with hostIdx := x.idx })).ring k).stand = { d.ring k with hostIdx := x.idx }.stand := by
    rw [ring_modRing_same]
  unfold Dev.takeForward
  split
  · exact (payOwed_stands _ k k).trans hmod
  · exact hmod

theorem takeForward_of_nothing_owed (h : (d.ring k).owed = []) : d.takeForward k x = d.modRing k (fun r => { r with hostIdx := x.idx }) :=
  if_neg fun hn => hn.2 h

/-- The index of one ring changes nothing in how other rings stand. -/
theorem takeIdx_else {i : Nat} (hi : i ≠ k) : ((d.takeIdx k x).ring i).stand = (d.ring i).stand := by
  have hfault : ∀ e : Dev, (e.ring i).stand = (d.ring i).stand → ((e.ringFault k).ring i).stand = (d.ring i).stand :=
    fun e he => ((ringFault_stands e k).2.2 i hi).trans he
  have hmod : ((d.modRing k (fun r => { r with hostIdx := x.idx })).ring i).stand = (d.ring i).stand := by
    rw [ring_modRing_ne hi]
  unfold Dev.takeIdx
  extract_lets r back sub far taken
  split
  · rfl
  · split
    · exact hfault d rfl
    · split
      · exact hfault (taken.reportAer (ringFn k)) hmod
      · split
        · exact (payOwed_stands taken k i).trans hmod
        · exact hmod

/-- A slot that asks nothing leaves every ring as it is. -/
theorem takeIdx_unmoved (h : Unmoved d k x) (i : Nat) : (d.takeIdx k x).ring i = d.ring i := by
  obtain ⟨-, htk | ⟨hidx, hrd, howed, hfull⟩⟩ := h
  · rw [takeIdx_idle_ring htk]
  · by_cases ht : (d.ring k).takes = true
    · have hb : (x.idx - (d.ring k).hostIdx).toNat < 2 ^ 31 := by
        rw [hidx, BitVec.sub_self]
        decide
      have hfar : d.reach k x ≤ (d.ring k).size := by
        refine le_of_eq_of_le ?_ hfull
        unfold Dev.reach Ring.waiting Ring.unread
        rw [hidx]
        split <;> rfl
      rw [takeIdx_forward ht hb hfar (fun _ hr => Bool.noConfusion (hrd.symm.trans hr)), takeForward_of_nothing_owed howed, hidx]
      by_cases hi : i = k
      · rw [hi, ring_modRing_same]
      · rw [ring_modRing_ne hi]
    · rw [takeIdx_idle_ring (Bool.not_eq_true _ ▸ ht)]

end

/-! ### The host indices of a page -/

theorem Unmoved.of_completedOnly {a b : Dev} {k : Nat} {x : DbSlot} (h : Unmoved a k x) (hc : CompletedOnly k a b) : Unmoved b k x := by
  obtain ⟨n, hn⟩ := hc
  unfold Unmoved at h ⊢
  rw [hn]
  exact h

theorem takeIdxs_unmoved {d : Dev} {f : Nat} {l : List (Nat × DbSlot)} (h : ∀ e ∈ l, Unmoved d (ringKey f e.1) e.2) (i : Nat) :
    (d.takeIdxs f l).ring i = d.ring i := by
  have hall : ∀ i, (d.takeIdxs f l).ring i = d.ring i :=
    List.foldlRecOn l (fun d e => Dev.takeIdx d (ringKey f e.1) e.2) (motive := fun e => ∀ i, e.ring i = d.ring i) (fun _ => rfl)
      fun e he x hx i => (takeIdx_unmoved ((h x hx).of_completedOnly (.of_ring (he _))) i).trans (he i)
  exact hall i

theorem takeIdxs_else {f : Nat} {l : List (Nat × DbSlot)} {i : Nat} (h : ∀ e ∈ l, ringKey f e.1 ≠ i) (d : Dev) :
    ((d.takeIdxs f l).ring i).stand = (d.ring i).stand :=
  List.foldlRecOn l (fun d e => Dev.takeIdx d (ringKey f e.1) e.2) (motive := fun e => (e.ring i).stand = (d.ring i).stand) rfl
    fun _ he x hx => (takeIdx_else (h x hx).symm).trans he

theorem takeIdxs_split (d : Dev) (f sl : Nat) (x : DbSlot) (pre post : List (Nat × DbSlot)) :
    d.takeIdxs f (pre ++ (sl, x) :: post) = ((d.takeIdxs f pre).takeIdx (ringKey f sl) x).takeIdxs f post := by
  unfold Dev.takeIdxs
  rw [List.foldl_append, List.foldl_cons]

theorem takes_of_stand {a b : Ring} (h : a.stand = b.stand) : a.takes = b.takes := by
  have hst : a.st = b.st := congrArg Prod.fst h
  unfold Ring.takes
  rw [hst]

theorem hostIdx_of_stand {a b : Ring} (h : a.stand = b.stand) : a.hostIdx = b.hostIdx := congrArg (fun y => y.2.2.1) h

section
variable {d e : Dev} {f sl : Nat} {x : DbSlot} {pre post : List (Nat × DbSlot)} (h : Asking d f sl x pre post)
include h

theorem Asking.pre_ne : ∀ e ∈ pre, ringKey f e.1 ≠ ringKey f sl := fun e he => ringKey_ne (h.before e he).1
theorem Asking.post_ne : ∀ e ∈ post, ringKey f e.1 ≠ ringKey f sl := fun e he => ringKey_ne (h.after e he).1

/-- A ring that takes no entries stands as before the indices. -/
theorem Asking.untaken (ht : (e.ring (ringKey f sl)).takes = false) :
    ((e.takeIdxs f (pre ++ (sl, x) :: post)).ring (ringKey f sl)).stand = (e.ring (ringKey f sl)).stand := by
  have hpre := takeIdxs_else h.pre_ne e
  rw [takeIdxs_split, takeIdxs_else h.post_ne, takeIdx_idle_ring ((takes_of_stand hpre).trans ht), hpre]

theorem Asking.back (ht : (e.ring (ringKey f sl)).takes = true) (hb : 2 ^ 31 ≤ (x.idx - (e.ring (ringKey f sl)).hostIdx).toNat) :
    ((e.takeIdxs f (pre ++ (sl, x) :: post)).ring (ringKey f sl)).st = .fault ∧
      ((e.takeIdxs f (pre ++ (sl, x) :: post)).ring (ringKey f sl)).err = BitVec.ofNat 8 stQueueFault := by
  have hpre := takeIdxs_else h.pre_ne e
  have hstand := takeIdxs_else h.post_ne ((e.takeIdxs f pre).ringFault (ringKey f sl))
  obtain ⟨hst, herr, -⟩ := ringFault_stands (e.takeIdxs f pre) (ringKey f sl)
  rw [takeIdxs_split, takeIdx_back ((takes_of_stand hpre).trans ht) (by rw [hostIdx_of_stand hpre]; exact hb)]
  exact ⟨(congrArg Prod.fst hstand).trans hst, (congrArg (fun y => y.2.1) hstand).trans herr⟩

/-- The index of the one ring that moved takes effect; nothing owed, it is all that changes of the ring. -/
theorem Asking.forward (hother : ∀ i, i ≠ ringKey f sl → CompletedOnly i d e) (ht : (e.ring (ringKey f sl)).takes = true)
    (hb : (x.idx - (e.ring (ringKey f sl)).hostIdx).toNat < 2 ^ 31) (hfar : e.reach (ringKey f sl) x ≤ (e.ring (ringKey f sl)).size)
    (hrd : ringClass (ringKey f sl) = .submission → x.rdErr = true → x.idx = (e.ring (ringKey f sl)).devIdx) :
    let r := (e.takeIdxs f (pre ++ (sl, x) :: post)).ring (ringKey f sl)
    r.stand = { e.ring (ringKey f sl) with hostIdx := x.idx }.stand ∧
      ((e.ring (ringKey f sl)).owed = [] → r = { e.ring (ringKey f sl) with hostIdx := x.idx }) := by
  intro r
  have hr : r = (e.takeIdxs f (pre ++ (sl, x) :: post)).ring (ringKey f sl) := rfl
  have hpre : ∀ i, (e.takeIdxs f pre).ring i = e.ring i :=
    takeIdxs_unmoved fun y hy => (h.before y hy).2.of_completedOnly (hother _ (h.pre_ne y hy))
  rw [takeIdxs_split, takeIdx_forward (by rw [hpre]; exact ht) (by rw [hpre]; exact hb) (by rw [Dev.reach, hpre]; exact hfar)
    (by rw [hpre]; exact hrd)] at hr
  refine ⟨?_, fun howed => ?_⟩
  · rw [hr, takeIdxs_else h.post_ne, takeForward_stand, hpre]
  · have hpost : ∀ y ∈ post, Unmoved ((e.takeIdxs f pre).takeForward (ringKey f sl) x) (ringKey f y.1) y.2 := fun y hy => by
      refine (h.after y hy).2.of_completedOnly ((hother _ (h.post_ne y hy)).trans (.of_ring ?_))
      rw [takeForward_of_nothing_owed (by rw [hpre]; exact howed), ring_modRing_ne (h.post_ne y hy), hpre]
    rw [hr, takeIdxs_unmoved hpost, takeForward_of_nothing_owed (by rw [hpre]; exact howed), ring_modRing_same, hpre]

/-! ### What the poll leaves of the ring -/

theorem Asking.poll_refused (hen : x.en = true) (hne : (d.ring (ringKey f sl)).lastEn = false) (hok : d.enableOk f sl x = false)
    (ht : (d.ring (ringKey f sl)).takes = false) :
    ((d.pollSlots f (pre ++ (sl, x) :: post)).ring (ringKey f sl)).st = (d.ring (ringKey f sl)).st ∧
      ((d.pollSlots f (pre ++ (sl, x) :: post)).ring (ringKey f sl)).err = BitVec.ofNat 8 stInvalid := by
  have hring : (d.switched f sl true x).ring (ringKey f sl) =
      { d.ring (ringKey f sl) with err := BitVec.ofNat 8 stInvalid, lastEn := true } := by
    unfold Dev.switched Dev.enableRing
    rw [if_pos rfl, hok, ring_modRing_same, if_neg Bool.false_ne_true, ring_modRing_same]
  have hstand := h.untaken (e := d.switched f sl true x) (by rw [hring]; exact ht)
  rw [pollSlots_eq, h.enPasses_on hen hne]
  rw [hring] at hstand
  exact ⟨congrArg Prod.fst hstand, congrArg (fun y => y.2.1) hstand⟩

theorem Asking.poll_off (hen : x.en = false) (hne : (d.ring (ringKey f sl)).lastEn = true) (hc : ringClass (ringKey f sl) ≠ .completion) :
    ((d.pollSlots f (pre ++ (sl, x) :: post)).ring (ringKey f sl)).st = .disabled ∧
      ((d.pollSlots f (pre ++ (sl, x) :: post)).ring (ringKey f sl)).lastEn = false := by
  have hst : ((d.switched f sl false x).ring (ringKey f sl)).st = .disabled := by
    unfold Dev.switched Dev.disableRing
    rw [if_neg Bool.false_ne_true, ring_modRing_same]
    split
    · rw [ring_modRing_same]
    · rw [ring_modRing_same]
    · next h => exact absurd h hc
  have hstand := h.untaken (e := d.switched f sl false x) (by rw [Ring.takes, hst])
  rw [pollSlots_eq, h.enPasses_off hen hne]
  exact ⟨(congrArg Prod.fst hstand).trans hst, (congrArg (fun y => y.2.2.2) hstand).trans (switched_lastEn d f sl false x)⟩

theorem Asking.poll_index (hen : x.en = (d.ring (ringKey f sl)).lastEn) :
    d.pollSlots f (pre ++ (sl, x) :: post) = d.takeIdxs f (pre ++ (sl, x) :: post) := by
  rw [pollSlots_eq, enPasses_settled (h.settled hen)]

end

/-- A ring as it is taken up. -/
def Dev.takenRing (d : Dev) (k : Nat) (s : DbSlot) : Ring :=
  { d.ring k with
    st := .enabled, base := BitVec.ofNat 64 (s.base.toNat / 64 * 64), lg := s.lg.toNat, vec := s.vec.toNat
    esz := s.esz.toNat, modCnt := s.modCnt.toNat, modUs := s.modUs.toNat, hostIdx := s.idx, devIdx := s.idx, err := 0
    unsig := 0, msgDue := false, consumed := (d.ring k).resident, completed := 0, flushed := 0, faulted := 0 }

/-- A ring that is taken up stands ENABLED at the slot's index, written no further than it has room; nothing owed, its device index is the slot's. -/
theorem takeSlot_ring (d : Dev) (k : Nat) (x : DbSlot) :
    let r := (d.takeSlot k x).ring k
    r.st = .enabled ∧ r.hostIdx = x.idx ∧ r.unread ≤ r.size ∧ (ringClass k = .submission → r.devIdx = x.idx) ∧
      ((d.ring k).owed = [] → r.owed = [] ∧ r.devIdx = x.idx) := by
  obtain ⟨e, he⟩ : ∃ e : Dev, e.ring k = d.takenRing k x ∧ d.takeSlot k x = if ringClass k = .completion then e.payOwed k else e :=
    ⟨_, ring_modRing_same d k _, rfl⟩
  obtain ⟨hring, htake⟩ := he
  have hroom : (e.ring k).unread ≤ (e.ring k).size := by
    rw [hring]
    exact (congrArg BitVec.toNat (BitVec.sub_self x.idx)).trans_le (Nat.zero_le _)
  intro r
  by_cases hc : ringClass k = .completion
  · have hr : r = (e.payOwed k).ring k := congrArg (fun d : Dev => d.ring k) (htake.trans (if_pos hc))
    have hstand := payOwed_stands e k k
    rw [hring] at hstand
    rw [hr]
    refine ⟨congrArg Prod.fst hstand, congrArg (fun y => y.2.2.1) hstand, payOwed_unread hroom, fun hs => RingClass.noConfusion (hs.symm.trans hc), ?_⟩
    intro howed
    rw [payOwed_nothing (by rw [hring]; exact howed), hring]
    exact ⟨howed, rfl⟩
  · have hr : r = e.ring k := congrArg (fun d : Dev => d.ring k) (htake.trans (if_neg hc))
    rw [hr]
    refine ⟨?_, ?_, hroom, ?_, ?_⟩
    · rw [hring]; rfl
    · rw [hring]; rfl
    · intro _; rw [hring]; rfl
    · intro howed; rw [hring]; exact ⟨howed, rfl⟩

theorem Asking.poll_enabled {d : Dev} {f sl : Nat} {x : DbSlot} {pre post : List (Nat × DbSlot)} (h : Asking d f sl x pre post)
    (hen : x.en = true) (hne : (d.ring (ringKey f sl)).lastEn = false) (hok : d.enableOk f sl x = true) :
    let r := (d.pollSlots f (pre ++ (sl, x) :: post)).ring (ringKey f sl)
    r.st = .enabled ∧ r.hostIdx = x.idx ∧ r.lastEn = true ∧ ((d.ring (ringKey f sl)).owed = [] → r.devIdx = x.idx) := by
  obtain ⟨hst, hidx, hroom, hsub, howed⟩ := takeSlot_ring d (ringKey f sl) x
  have hother : ∀ i, i ≠ ringKey f sl → CompletedOnly i d (d.switched f sl true x) := fun i hi => by
    refine (enableRing_else hi d x).trans (.of_ring ?_)
    rw [Dev.switched, if_pos rfl, ring_modRing_ne hi]
  have hring : (d.switched f sl true x).ring (ringKey f sl) =
      { (d.takeSlot (ringKey f sl) x).ring (ringKey f sl) with lastEn := true } := by
    unfold Dev.switched Dev.enableRing
    rw [if_pos rfl, hok, ring_modRing_same, if_pos rfl]
  obtain ⟨hstand, hkept⟩ := h.forward (e := d.switched f sl true x) hother (by rw [hring, Ring.takes]; dsimp only; rw [hst])
    (by rw [hring]; dsimp only; rw [hidx, BitVec.sub_self]; decide)
    (by
      unfold Dev.reach
      rw [hring]
      split
      · next hs =>
        dsimp only
        rw [hsub hs, BitVec.sub_self]
        exact Nat.zero_le _
      · rw [← hidx]
        exact hroom)
    (fun hs _ => by rw [hring]; exact (hsub hs).symm)
  rw [hring] at hstand hkept
  intro r
  have hr : r = ((d.switched f sl true x).takeIdxs f (pre ++ (sl, x) :: post)).ring (ringKey f sl) := by
    simp only [r, pollSlots_eq, h.enPasses_on hen hne]
  rw [hr]
  refine ⟨(congrArg Prod.fst hstand).trans hst, congrArg (fun y => y.2.2.1) hstand, congrArg (fun y => y.2.2.2) hstand, fun ho => ?_⟩
  rw [hkept (howed ho).1]
  exact (howed ho).2

end Sys2Proof.Machine
end

section
/-! SUPPORT. The rest of the rings' service (15 R372-R375, R387, R388; 17 R420): the slots of a poll, pages that fail, status pages, and faults
of pointers. -/

namespace Sys2Proof.Machine

/-! ### The slots that a poll handles -/

/-- The slots of a page that a poll handles. -/
def Dev.handled (d : Dev) (f : Nat) (l : List DbSlot) : List (Nat × DbSlot) :=
  ((List.range (fnSlots f)).zip l).filter (fun x => d.ringServed f x.1)

theorem doorbellPollEffect_page {d : Dev} {f : Nat} (ha : (d.fn f).active = true) (hs : d.served f = true) (hb : (d.fn f).bme = true)
    (l : List DbSlot) : doorbellPollEffect f (some l) d = d.pollSlots f (d.handled f l) := by
  have hskip : ¬ (!((d.fn f).active && d.served f && (d.fn f).bme)) = true := by
    rw [ha, hs, hb]
    decide
  exact if_neg hskip

theorem zip_range_getElem {n : Nat} {l : List DbSlot} {i : Nat} (h : i < ((List.range n).zip l).length) :
    ∃ hl : i < l.length, ((List.range n).zip l)[i] = (i, l[i]) := by
  have hl : i < l.length := by
    rw [List.length_zip] at h
    omega
  exact ⟨hl, by rw [List.getElem_zip, List.getElem_range]⟩

/-- The slots come in their order. -/
theorem handled_pairwise (d : Dev) (f : Nat) (l : List DbSlot) : (d.handled f l).Pairwise (fun a b => a.1 < b.1) := by
  refine List.Pairwise.filter _ (List.pairwise_iff_getElem.2 fun i j hi hj hij => ?_)
  obtain ⟨_, hi'⟩ := zip_range_getElem hi
  obtain ⟨_, hj'⟩ := zip_range_getElem hj
  rw [hi', hj']
  exact hij

/-- A handled slot stands in the page, and the device state serves its ring. -/
theorem mem_handled {d : Dev} {f : Nat} {l : List DbSlot} {e : Nat × DbSlot} :
    e ∈ d.handled f l ↔ e.1 < fnSlots f ∧ l[e.1]? = some e.2 ∧ d.ringServed f e.1 = true := by
  unfold Dev.handled
  rw [List.mem_filter]
  constructor
  · rintro ⟨hm, hs⟩
    obtain ⟨i, hi, he⟩ := List.mem_iff_getElem.1 hm
    obtain ⟨hl, hz⟩ := zip_range_getElem hi
    rw [List.length_zip, List.length_range] at hi
    have heq := hz.symm.trans he
    rw [← heq]
    rw [← heq] at hs
    exact ⟨by omega, List.getElem?_eq_getElem hl, hs⟩
  · rintro ⟨hlt, hget, hs⟩
    obtain ⟨hl, hx⟩ := List.getElem?_eq_some_iff.1 hget
    have hi : e.1 < ((List.range (fnSlots f)).zip l).length := by
      rw [List.length_zip, List.length_range]
      omega
    obtain ⟨_, hz⟩ := zip_range_getElem hi
    refine ⟨List.mem_iff_getElem.2 ⟨e.1, hi, ?_⟩, hs⟩
    rw [hz, hx]

section
variable {d : Dev} {f sl : Nat} {x : DbSlot} {l : List DbSlot} (hx : l[sl]? = some x) (hsl : sl < fnSlots f)
  (hother : ∀ j y, j ≠ sl → l[j]? = some y → Unmoved d (ringKey f j) y)
include hx hsl hother

theorem handled_asking (hs : d.ringServed f sl = true) :
    ∃ pre post, d.handled f l = pre ++ (sl, x) :: post ∧ Asking d f sl x pre post := by
  obtain ⟨pre, post, heq⟩ := List.append_of_mem (mem_handled.2 ⟨hsl, hx, hs⟩ : (sl, x) ∈ d.handled f l)
  have hord := handled_pairwise d f l
  rw [heq, List.pairwise_append, List.pairwise_cons] at hord
  obtain ⟨-, ⟨hpost, -⟩, hpre⟩ := hord
  have hmem : ∀ e, e ∈ pre ∨ e ∈ post → e.1 ≠ sl → e.1 ≠ sl ∧ Unmoved d (ringKey f e.1) e.2 := fun e he hne => by
    refine ⟨hne, hother e.1 e.2 hne (mem_handled.1 (heq ▸ ?_ : e ∈ d.handled f l)).2.1⟩
    rcases he with he | he
    · exact List.mem_append_left _ he
    · exact List.mem_append_right _ (List.mem_cons_of_mem _ he)
  exact ⟨pre, post, heq, fun e he => hmem e (.inl he) (Nat.ne_of_lt (hpre e he _ List.mem_cons_self)),
    fun e he => hmem e (.inr he) (Nat.ne_of_gt (hpost e he))⟩

omit hx hsl in
theorem handled_unmoved (hs : d.ringServed f sl = false) : ∀ e ∈ d.handled f l, Unmoved d (ringKey f e.1) e.2 := by
  intro e he
  obtain ⟨-, hget, hserved⟩ := mem_handled.1 he
  exact hother e.1 e.2 (fun h => Bool.noConfusion (hs.symm.trans (h ▸ hserved))) hget

end

/-! ### A doorbell page (15 R372, R373, R387) -/

section
variable {s : State} {f : Fin 34} (ha : (s.dev.fn f).active = true) (hserved : s.dev.served f = true) (hb : (s.dev.fn f).bme = true)
include ha hserved hb

theorem doorbellPoll_page (l : List DbSlot) :
    ∃ t, exec (.doorbellPoll f (some l)) s = .next t ∧ t.pending = s.pending ∧
      ∀ i, t.dev.ring i = (s.dev.fresh.pollSlots f (s.dev.fresh.handled f l)).ring i := by
  obtain ⟨t, ht, hp, hdev⟩ := run_fresh (doorbellPollEffect f (some l)) s
  rw [doorbellPollEffect_page (d := s.dev.fresh) ha hserved hb] at hdev
  exact ⟨t, ht, hp, fun i => by rw [hdev, fresh_ring]⟩

section
variable {l : List DbSlot} {sl : Nat} {x : DbSlot} (hx : l[sl]? = some x) (hsl : sl < fnSlots f)
  (hother : ∀ j y, j ≠ sl → l[j]? = some y → Unmoved s.dev (ringKey f j) y)
include hother

theorem doorbellPoll_unserved (hs : s.dev.ringServed f sl = false) :
    ∃ t, exec (.doorbellPoll f (some l)) s = .next t ∧ t.pending = s.pending ∧ t.dev.ring (ringKey f sl) = s.dev.ring (ringKey f sl) := by
  have hall := handled_unmoved (d := s.dev.fresh) hother hs
  obtain ⟨t, ht, hp, hring⟩ := doorbellPoll_page ha hserved hb l
  refine ⟨t, ht, hp, ?_⟩
  rw [hring, pollSlots_eq, enPasses_settled fun e he => (hall e he).1]
  exact takeIdxs_unmoved hall _

include hx hsl

/-- A poll of a page of which one slot asks for something. -/
theorem doorbellPoll_asking (hs : s.dev.ringServed f sl = true) :
    ∃ t pre post, exec (.doorbellPoll f (some l)) s = .next t ∧ t.pending = s.pending ∧ Asking s.dev.fresh f sl x pre post ∧
      ∀ i, t.dev.ring i = (s.dev.fresh.pollSlots f (pre ++ (sl, x) :: post)).ring i := by
  obtain ⟨pre, post, hlist, hask⟩ := handled_asking (d := s.dev.fresh) hx hsl hother hs
  obtain ⟨t, ht, hp, hring⟩ := doorbellPoll_page ha hserved hb l
  rw [hlist] at hring
  exact ⟨t, pre, post, ht, hp, hask, hring⟩

theorem doorbellPoll_enables (hs : s.dev.ringServed f sl = true) (hen : x.en = true) (hl : (s.dev.ring (ringKey f sl)).lastEn = false)
    (hok : s.dev.enableOk f sl x = true) :
    let k := ringKey f sl
    ∃ t, exec (.doorbellPoll f (some l)) s = .next t ∧ t.pending = s.pending ∧ (t.dev.ring k).st = .enabled ∧
      (t.dev.ring k).hostIdx = x.idx ∧ (t.dev.ring k).lastEn = true ∧ ((s.dev.ring k).owed = [] → (t.dev.ring k).devIdx = x.idx) := by
  obtain ⟨t, pre, post, ht, hp, hask, hring⟩ := doorbellPoll_asking ha hserved hb hx hsl hother hs
  exact ⟨t, ht, hp, by rw [hring]; exact hask.poll_enabled hen hl hok⟩

theorem doorbellPoll_refuses (hs : s.dev.ringServed f sl = true) (hen : x.en = true) (hl : (s.dev.ring (ringKey f sl)).lastEn = false)
    (hok : s.dev.enableOk f sl x = false) (htk : (s.dev.ring (ringKey f sl)).takes = false) :
    ∃ t, exec (.doorbellPoll f (some l)) s = .next t ∧ t.pending = s.pending ∧
      (t.dev.ring (ringKey f sl)).st = (s.dev.ring (ringKey f sl)).st ∧ (t.dev.ring (ringKey f sl)).err = BitVec.ofNat 8 stInvalid := by
  obtain ⟨t, pre, post, ht, hp, hask, hring⟩ := doorbellPoll_asking ha hserved hb hx hsl hother hs
  exact ⟨t, ht, hp, by rw [hring]; exact hask.poll_refused hen hl hok htk⟩

theorem doorbellPoll_forward (hs : s.dev.ringServed f sl = true) (hen : x.en = (s.dev.ring (ringKey f sl)).lastEn)
    (htk : (s.dev.ring (ringKey f sl)).takes = true) (hf : (x.idx - (s.dev.ring (ringKey f sl)).hostIdx).toNat < 2 ^ 31)
    (hrd : x.rdErr = false) (hreach : s.dev.reach (ringKey f sl) x ≤ (s.dev.ring (ringKey f sl)).size) :
    ∃ t, exec (.doorbellPoll f (some l)) s = .next t ∧ t.pending = s.pending ∧
      (t.dev.ring (ringKey f sl)).st = (s.dev.ring (ringKey f sl)).st ∧ (t.dev.ring (ringKey f sl)).hostIdx = x.idx := by
  obtain ⟨t, pre, post, ht, hp, hask, hring⟩ := doorbellPoll_asking ha hserved hb hx hsl hother hs
  have hstand := (hask.forward (e := s.dev.fresh) (fun i _ => CompletedOnly.refl i _) htk hf hreach
    (fun _ hr => Bool.noConfusion (hrd.symm.trans hr))).1
  rw [← hask.poll_index hen, ← hring] at hstand
  exact ⟨t, ht, hp, congrArg Prod.fst hstand, congrArg (fun y => y.2.2.1) hstand⟩

theorem doorbellPoll_back (hs : s.dev.ringServed f sl = true) (hen : x.en = (s.dev.ring (ringKey f sl)).lastEn)
    (htk : (s.dev.ring (ringKey f sl)).takes = true) (hback : 2 ^ 31 ≤ (x.idx - (s.dev.ring (ringKey f sl)).hostIdx).toNat) :
    ∃ t, exec (.doorbellPoll f (some l)) s = .next t ∧ t.pending = s.pending ∧ (t.dev.ring (ringKey f sl)).st = .fault ∧
      (t.dev.ring (ringKey f sl)).err = BitVec.ofNat 8 stQueueFault := by
  obtain ⟨t, pre, post, ht, hp, hask, hring⟩ := doorbellPoll_asking ha hserved hb hx hsl hother hs
  exact ⟨t, ht, hp, by rw [hring, hask.poll_index hen]; exact hask.back (e := s.dev.fresh) htk hback⟩

theorem doorbellPoll_disables (hs : s.dev.ringServed f sl = true) (hen : x.en = false) (hl : (s.dev.ring (ringKey f sl)).lastEn = true)
    (hc : ringClass (ringKey f sl) ≠ .completion) :
    ∃ t, exec (.doorbellPoll f (some l)) s = .next t ∧ t.pending = s.pending ∧ (t.dev.ring (ringKey f sl)).st = .disabled ∧
      (t.dev.ring (ringKey f sl)).lastEn = false := by
  obtain ⟨t, pre, post, ht, hp, hask, hring⟩ := doorbellPoll_asking ha hserved hb hx hsl hother hs
  exact ⟨t, ht, hp, by rw [hring]; exact hask.poll_off hen hl hc⟩

end

end

/-! ### Pages that fail (15 R388) -/

theorem count_fns (d : Dev) (bank src b : Nat) (slot : Option Nat) (n : Nat) :
    (d.count bank src b slot n).fns = d.fns ∧ (d.count bank src b slot n).rings = d.rings := by
  unfold Dev.count
  dsimp only
  split <;> exact ⟨rfl, rfl⟩

/-- What a page access that fails leaves: the rings as they are, the fault on record in the function and in `HIF_STAT`. -/
theorem pageFault_spec (d : Dev) (f : Nat) :
    Reports d (d.pageFault f) ∧ (d.pageFault f).rings = d.rings ∧
      (d.pageFault f).fn f = { d.fn f with pageFault := true, lastErr := BitVec.ofNat 8 stPageFault } ∧
      (d.pageFault f).flag Reg.hifStat 0 = true := by
  unfold Dev.pageFault
  obtain ⟨e, he⟩ : ∃ e, e = d.modFn f (fun x => { x with pageFault := true, lastErr := BitVec.ofNat 8 stPageFault }) := ⟨_, rfl⟩
  have hrep : Reports d e := he ▸ modFn_reports d f _
  have hrings : e.rings = d.rings := he ▸ rfl
  have hfn : e.fn f = { d.fn f with pageFault := true, lastErr := BitVec.ofNat 8 stPageFault } := by rw [he, fn_modFn_same]
  have hraise : (e.raise .hif 0).fns = e.fns ∧ (e.raise .hif 0).rings = e.rings := count_fns (e.setFld _ 0 0 1) _ _ _ _ _
  rw [← he]
  refine ⟨hrep.trans (raise_reports e _ _), hraise.2.trans hrings, ?_, flag_raise (by decide) e .hif⟩
  rw [Dev.fn, hraise.1]
  exact hfn

theorem doorbellPoll_failed {s : State} {f : Fin 34} (ha : (s.dev.fn f).active = true) (hserved : s.dev.served f = true)
    (hb : (s.dev.fn f).bme = true) :
    ∃ t, exec (.doorbellPoll f none) s = .next t ∧ t.pending = s.pending ∧ Reports s.dev t.dev ∧ t.dev.rings = s.dev.rings ∧
      t.dev.fn f = { s.dev.fn f with
        pageFault := true, lastErr := BitVec.ofNat 8 stPageFault, aer := (s.dev.fn f).aer + 1 } ∧
      t.dev.flag Reg.hifStat 0 = true := by
  have hskip : ¬ (!((s.dev.fresh.fn f).active && s.dev.fresh.served f && (s.dev.fresh.fn f).bme)) = true := by
    rw [fresh_fn, ha, hb, show s.dev.fresh.served f = true from hserved]
    decide
  obtain ⟨e, he⟩ : ∃ e, e = s.dev.fresh.reportAer f := ⟨_, rfl⟩
  have hrep : Reports s.dev e := by
    rw [he]
    exact (fresh_reports s.dev).trans (modFn_reports _ _ _)
  have hrings : e.rings = s.dev.rings := he ▸ rfl
  have hfn : e.fn f = { s.dev.fn f with aer := (s.dev.fn f).aer + 1 } := by
    rw [he]
    exact fn_modFn_same s.dev.fresh f _
  obtain ⟨t, ht, hp, hdev⟩ := run_fresh (doorbellPollEffect f none) s
  rw [show doorbellPollEffect f none s.dev.fresh = e.pageFault f from he ▸ if_neg hskip] at hdev
  obtain ⟨hr, hkept, hf, hflag⟩ := pageFault_spec e f
  rw [hfn] at hf
  refine ⟨t, ht, hp, ?_⟩
  rw [hdev]
  exact ⟨(hrep.trans hr).trans (fresh_reports _), hkept.trans hrings, hf, hflag⟩

/-! ### Status pages (15 R375) -/

theorem statusBytes_of_ring {a b : Dev} (h : ∀ k, b.ring k = a.ring k) (k : Nat) : b.statusBytes k = a.statusBytes k := by
  unfold Dev.statusBytes Dev.resid
  rw [h]

theorem message_ring (d : Dev) (f v k : Nat) : (d.message f v).ring k = d.ring k := ring_of_rings (message_rings d f v) k

/-- A status slot shows what it was written with, and no message waits for it. -/
theorem writeStatus_shown (d : Dev) (k : Nat) :
    ((d.writeStatus k).ring k).shown = d.statusBytes k ∧ ((d.writeStatus k).ring k).msgDue = false := by
  unfold Dev.writeStatus
  dsimp only
  split
  · rw [message_ring, ring_modRing_same]
    exact ⟨rfl, rfl⟩
  · rw [ring_modRing_same]
    exact ⟨rfl, rfl⟩

theorem writeStatus_posted {d : Dev} {k : Nat} (hb : (d.fn (ringFn k)).bme = true) (hm : (d.ring k).msgDue = false) :
    (d.writeStatus k).posted = d.posted ++ [(((d.fn (ringFn k)).stpOn.toNat + 32 * ringSlot k) % 2 ^ 64,
      d.statusBytes k ++ leBytes 6 d.mpt ++ List.replicate 10 0)] := by
  unfold Dev.writeStatus Dev.hostWrite
  dsimp only
  rw [if_pos hb, show ((d.post _ _).ring k).msgDue = false from hm, if_neg Bool.false_ne_true]
  rfl

section
variable {s : State} {f : Fin 34} {slot : Fin 128}

theorem ringFn_ringKey {f i : Nat} (h : i < 128) : ringFn (ringKey f i) = f := by
  unfold ringFn ringKey
  omega

theorem ringSlot_ringKey {f i : Nat} (h : i < 128) : ringSlot (ringKey f i) = i := by
  unfold ringSlot ringKey
  omega

theorem statusPageWriteEffect_due {d : Dev} {f slot : Nat} (ha : (d.fn f).active = true) (hs : slot < fnSlots f)
    (hdue : d.statusBytes (ringKey f slot) ≠ (d.ring (ringKey f slot)).shown ∨ (d.ring (ringKey f slot)).msgDue = true) (ok : Bool) :
    statusPageWriteEffect f slot ok d = if ok then d.writeStatus (ringKey f slot) else d.pageFault f := by
  refine if_neg ?_
  rintro (h | h | ⟨hsame, hno⟩)
  · rw [ha] at h
    cases h
  · omega
  · rcases hdue with hd | hd
    · exact hd hsame
    · rw [hd] at hno
      cases hno

theorem statusPageWrite_next (ha : (s.dev.fn f).active = true) (hs : slot.val < fnSlots f)
    (hdue : s.dev.statusBytes (ringKey f slot) ≠ (s.dev.ring (ringKey f slot)).shown ∨ (s.dev.ring (ringKey f slot)).msgDue = true) :
    let k := ringKey f slot
    ∃ t, exec (.statusPageWrite f slot true) s = .next t ∧ t.pending = s.pending ∧ Reports s.dev t.dev ∧
      (t.dev.ring k).shown = s.dev.statusBytes k ∧ (t.dev.ring k).msgDue = false ∧
      ((s.dev.fn f).bme = true → (s.dev.ring k).msgDue = false → t.hostMem = Memory.commit s.hostMem
        [(((s.dev.fn f).stpOn.toNat + 32 * slot.val) % 2 ^ 64,
          s.dev.statusBytes k ++ leBytes 6 s.dev.mpt ++ List.replicate 10 0)]) := by
  obtain ⟨k, hk⟩ : ∃ k, k = ringKey f slot := ⟨_, rfl⟩
  have hfn : ringFn k = f := hk ▸ ringFn_ringKey slot.isLt
  have hslot : ringSlot k = slot := hk ▸ ringSlot_ringKey slot.isLt
  have heff : statusPageWriteEffect f slot true s.dev.fresh = s.dev.fresh.writeStatus k := by
    rw [hk]
    exact statusPageWriteEffect_due (d := s.dev.fresh) ha hs hdue true
  obtain ⟨t, ht, hp, hmem, hdev⟩ := run_commits (statusPageWriteEffect f slot true) s
  rw [heff] at hmem hdev
  obtain ⟨hshown, hmsg⟩ := writeStatus_shown s.dev.fresh k
  rw [← hk]
  refine ⟨t, ht, hp, ?_, ?_, ?_, fun hb hno => ?_⟩
  · rw [hdev]
    exact ((fresh_reports s.dev).trans (writeStatus_reports _ k)).trans (fresh_reports _)
  · rw [hdev, fresh_ring]
    exact hshown
  · rw [hdev, fresh_ring]
    exact hmsg
  · rw [hmem, writeStatus_posted (d := s.dev.fresh) (by rw [hfn]; exact hb) hno, hfn, hslot]
    rfl

theorem statusPageWrite_failed (ha : (s.dev.fn f).active = true) (hs : slot.val < fnSlots f)
    (hdue : s.dev.statusBytes (ringKey f slot) ≠ (s.dev.ring (ringKey f slot)).shown ∨ (s.dev.ring (ringKey f slot)).msgDue = true) :
    ∃ t, exec (.statusPageWrite f slot false) s = .next t ∧ t.pending = s.pending ∧ Reports s.dev t.dev ∧
      t.dev.rings = s.dev.rings ∧ t.dev.statusBytes (ringKey f slot) = s.dev.statusBytes (ringKey f slot) ∧
      t.dev.fn f = { s.dev.fn f with pageFault := true, lastErr := BitVec.ofNat 8 stPageFault } ∧
      t.dev.flag Reg.hifStat 0 = true := by
  have heff : statusPageWriteEffect f slot false s.dev.fresh = s.dev.fresh.pageFault f :=
    statusPageWriteEffect_due (d := s.dev.fresh) ha hs hdue false
  obtain ⟨t, ht, hp, hdev⟩ := run_fresh (statusPageWriteEffect f slot false) s
  rw [heff] at hdev
  obtain ⟨hr, hrings, hf, hflag⟩ := pageFault_spec s.dev.fresh f
  have hkept : t.dev.rings = s.dev.rings := by
    rw [hdev]
    exact hrings
  refine ⟨t, ht, hp, ?_, hkept, statusBytes_of_ring (ring_of_rings hkept) _, ?_⟩
  · rw [hdev]
    exact ((fresh_reports s.dev).trans hr).trans (fresh_reports _)
  · rw [hdev]
    exact ⟨hf, hflag⟩

/-! ### The end of STOPPING, and faults of pointers (15 R387, 17 R420) -/

theorem ringStoppingEnd_next (hc : ringClass (ringKey f slot) = .completion) (hu : s.dev.unpaired (ringKey f slot) = true)
    (hst : (s.dev.ring (ringKey f slot)).st = .stopping) :
    ∃ t, exec (.ringStoppingEnd f slot) s = .next t ∧ t.pending = s.pending ∧ t.hostMem = s.hostMem ∧
      t.dev = (s.dev.modRing (ringKey f slot) (fun r => { r with st := .disabled })).fresh := by
  obtain ⟨t, ht, hp, hm, hdev⟩ := run_gives (f := ringStoppingEndEffect f slot) (s := s) (if_pos ⟨hc, hu, .inl hst⟩) rfl
  exact ⟨t, ht, hp, hm, hdev⟩

theorem queuePointerFault_ring (hlive : s.dev.dev.live = true) (hs : s.dev.slotServed f slot = true)
    (htk : (s.dev.ring (ringKey f slot)).takes = true) :
    ∃ t, exec (.queuePointerFault (.ring f slot)) s = .next t ∧ t.pending = s.pending ∧ (t.dev.ring (ringKey f slot)).st = .fault ∧
      (t.dev.ring (ringKey f slot)).err = BitVec.ofNat 8 stQueueFault := by
  have hno : ¬ ((!s.dev.fresh.slotServed f slot) = true ∨ (s.dev.fresh.ring (ringKey f slot)).st = .disabled ∨
      (s.dev.fresh.ring (ringKey f slot)).st = .fault) := by
    rw [fresh_ring, show s.dev.fresh.slotServed f slot = true from hs]
    rintro (h | h | h)
    · cases h
    · rw [Ring.takes, h] at htk
      cases htk
    · rw [Ring.takes, h] at htk
      cases htk
  have hlv : ¬ (!s.dev.fresh.dev.live) = true := by
    rw [fresh_dev, hlive]
    decide
  obtain ⟨t, ht, hp, hdev⟩ := run_fresh (queuePointerFaultEffect (.ring f slot)) s
  rw [show queuePointerFaultEffect (.ring f slot) s.dev.fresh = (s.dev.fresh.raise .que 2).ringFault (ringKey f slot) from
    (if_neg hlv).trans (if_neg hno)] at hdev
  obtain ⟨e, he⟩ : ∃ e, e = s.dev.fresh.raise .que 2 := ⟨_, rfl⟩
  obtain ⟨hst, herr, -⟩ := ringFault_stands e (ringKey f slot)
  refine ⟨t, ht, hp, ?_⟩
  rw [hdev, ← he, fresh_ring]
  exact ⟨hst, herr⟩

end

/-- What tells of a queue whose items are lost. -/
def Dev.tellLost (d : Dev) (q n : Nat) : Dev := ((d.count 39 7 5 none n).event 0x0601 stQueueFault (0x8000 + q) (leBytes 4 n)).mark q

theorem tellLost_reports (d : Dev) (q n : Nat) : Reports d (d.tellLost q n) :=
  ((count_reports d _ _ _ _ _).trans (event_reports _ _ _ _ _)).trans (mark_reports _ q)

theorem lossy_event_ne {q : Nat} (hq : q ≠ 0) (d : Dev) (code st obj : Nat) (detail : List Byte) :
    (d.event code st obj detail).lossy q = d.lossy q := by
  unfold Dev.event Dev.eventAt
  split
  · rw [lossy_mark_ne hq, lossy_eventRaw_ne hq]
  · rfl

theorem lossy_tellLost {q : Nat} (hq : q ≠ 0) (d : Dev) (n : Nat) : (d.tellLost q n).lossy q = d.lossy q := by
  unfold Dev.tellLost
  rw [lossy_mark_ne hq, lossy_event_ne hq, lossy_count]

theorem queuePointerFaultEffect_queue {d : Dev} {q : Nat} (hlive : d.dev.live = true) (hq : queueListed q = true) :
    queuePointerFaultEffect (.queue q) d = ((d.raise .que 2).emptyQueue q).tellLost q (d.resident q) := by
  have hlv : ¬ (!d.dev.live) = true := by rw [hlive]; decide
  have hl : ¬ (!queueListed q) = true := by rw [hq]; decide
  exact (if_neg hlv).trans (if_neg hl)

theorem queuePointerFault_lossy {s : State} {q : Nat} (hlive : s.dev.dev.live = true) (h1 : 1 ≤ q) (h10 : q ≤ 10) :
    ∃ t, exec (.queuePointerFault (.queue q)) s = .next t ∧ t.pending = s.pending ∧ Reports s.dev t.dev ∧
      (t.dev.lossy q).items = [] ∧ (t.dev.lossy q).faulted = (s.dev.lossy q).faulted + (s.dev.lossy q).items.length := by
  obtain ⟨e, he⟩ : ∃ e, e = s.dev.fresh.raise .que 2 := ⟨_, rfl⟩
  have hrep : Reports s.dev e := by
    rw [he]
    exact (fresh_reports s.dev).trans (raise_reports _ _ _)
  have hlossy : e.lossy q = s.dev.lossy q := by rw [he, lossy_raise, fresh_lossy]
  have heff := queuePointerFaultEffect_queue (d := s.dev.fresh) (q := q) hlive (decide_eq_true (.inl (by omega)))
  rw [← he, show e.emptyQueue q = e.modLossy q (fun x => { x with items := [], hw := 0, faulted := x.faulted + x.items.length }) from
    if_pos h10] at heff
  obtain ⟨t, ht, hp, hdev⟩ := run_fresh (queuePointerFaultEffect (.queue q)) s
  rw [heff] at hdev
  refine ⟨t, ht, hp, ?_⟩
  rw [hdev, fresh_lossy, lossy_tellLost (by omega), lossy_modLossy_same, hlossy]
  exact ⟨((hrep.trans (modLossy_quiet e q _).1).trans (tellLost_reports _ _ _)).trans (fresh_reports _), rfl, rfl⟩

theorem errorCompletion_reports (d : Dev) (k n : Nat) : Reports d (d.errorCompletion k n) := by
  unfold Dev.errorCompletion
  extract_lets idx ct bs counted owing
  have hcounted : Reports d counted := modRing_reports d k _
  have howing : Reports counted owing := modRing_reports counted (k + 1) _
  split
  · exact hcounted
  · exact hcounted.trans (ite_reports howing (howing.trans (payOwed_reports owing (k + 1))))

theorem loseSwo_reports (d : Dev) : Reports { d with swo := [] } d.loseSwo := by
  unfold Dev.loseSwo
  extract_lets n ids lost left faulted commands
  have hcommands : Reports { d with swo := [] } commands := ⟨rfl, fun _ _ => rfl⟩
  exact ite_reports hcommands (hcommands.trans (errorCompletion_reports _ _ _))

theorem queuePointerFault_swo {s : State} (hlive : s.dev.dev.live = true) :
    ∃ t, exec (.queuePointerFault (.queue 11)) s = .next t ∧ t.pending = s.pending ∧ Reports { s.dev with swo := [] } t.dev := by
  have heff := queuePointerFaultEffect_queue (d := s.dev.fresh) (q := 11) hlive (by decide)
  obtain ⟨t, ht, hp, hdev⟩ := run_fresh (queuePointerFaultEffect (.queue 11)) s
  rw [heff, show (s.dev.fresh.raise .que 2).emptyQueue 11 = (s.dev.fresh.raise .que 2).loseSwo from rfl] at hdev
  refine ⟨t, ht, hp, ?_⟩
  rw [hdev]
  exact ((((fresh_reports s.dev).trans (raise_reports _ _ _)).set_swo _).trans (loseSwo_reports _)).trans
    ((tellLost_reports _ _ _).trans (fresh_reports _))

/-- Settles O49: doorbell polls, status pages and ring faults. -/
theorem ringService : Obligations.RingService := by
  intro s f
  refine ⟨fun ha hserved hb => ⟨doorbellPoll_failed ha hserved hb, fun l sl x hx hsl hother => ?_⟩, fun slot => ?_,
    fun q hlive h1 h10 => queuePointerFault_lossy hlive h1 h10, queuePointerFault_swo⟩
  · exact ⟨doorbellPoll_unserved ha hserved hb hother, doorbellPoll_enables ha hserved hb hx hsl hother,
      doorbellPoll_refuses ha hserved hb hx hsl hother, doorbellPoll_forward ha hserved hb hx hsl hother,
      doorbellPoll_back ha hserved hb hx hsl hother, doorbellPoll_disables ha hserved hb hx hsl hother⟩
  · exact ⟨ringStoppingEnd_next, fun ha hs hdue => ⟨statusPageWrite_next ha hs hdue, statusPageWrite_failed ha hs hdue⟩,
      queuePointerFault_ring⟩

end Sys2Proof.Machine
end

section
/-! SUPPORT. What the end of an MSDU leaves of the nodes (11 R288, R300; 12 R308, R317): an unacknowledged MSDU that is gone stays gone, and
where the end is no success, what is held for a node gets messages of the device's own behind it and nothing else. -/

namespace Sys2Proof.Machine

/-! ### Unacknowledged MSDUs that are gone -/

/-- A node of `a` without an unacknowledged MSDU has none in `b`; the decode lanes are those of `a`. -/
structure StaysIdle (a b : Dev) : Prop where
  decs : b.decs = a.decs
  idle : ∀ h, (a.node h).cur = none → (b.node h).cur = none

theorem StaysIdle.refl (a : Dev) : StaysIdle a a := ⟨rfl, fun _ h => h⟩
theorem StaysIdle.trans {a b c : Dev} (h : StaysIdle a b) (k : StaysIdle b c) : StaysIdle a c :=
  ⟨k.decs.trans h.decs, fun i hi => k.idle i (h.idle i hi)⟩

theorem Reports.staysIdle {a b : Dev} (h : Reports a b) : StaysIdle a b := ⟨h.decs, fun i hi => by rw [h.node, hi]⟩

theorem StaysIdle.of_same {a b : Dev} (hn : b.nodes = a.nodes) (hd : b.decs = a.decs) : StaysIdle a b :=
  ⟨hd, fun i hi => (congrArg (fun l => (SMap.get (fun _ => Node.init) i l).cur) hn).trans hi⟩

/-- What follows a change of other parts. -/
theorem StaysIdle.upon {a b c : Dev} (k : StaysIdle b c) (hn : b.nodes = a.nodes) (hd : b.decs = a.decs) : StaysIdle a c :=
  (StaysIdle.of_same hn hd).trans k

theorem ite_staysIdle {p : Prop} [Decidable p] {d a b : Dev} (ha : StaysIdle d a) (hb : StaysIdle d b) :
    StaysIdle d (if p then a else b) := by split <;> assumption

theorem StaysIdle.foldl {α : Type} {f : Dev → α → Dev} (hf : ∀ d x, StaysIdle d (f d x)) (l : List α) (d : Dev) :
    StaysIdle d (l.foldl f d) :=
  List.foldlRecOn l f (motive := StaysIdle d) (StaysIdle.refl d) fun _ he x _ => he.trans (hf _ x)

theorem modNode_staysIdle (d : Dev) (i : Nat) {f : Node → Node} (hf : ∀ n, n.cur = none → (f n).cur = none) :
    StaysIdle d (d.modNode i f) := by
  refine ⟨rfl, fun h hn => ?_⟩
  by_cases hi : h = i
  · rw [hi, node_modNode_same]
    exact hf _ (hi ▸ hn)
  · rw [node_modNode_ne hi]
    exact hn

/-! ### The end of an MSDU, its origin apart -/

/-- `b` is `a` in its state, its decode lanes and its nodes, but for what the nodes count. -/
structure CountedOnly (a b : Dev) : Prop where
  dev : b.dev = a.dev
  decs : b.decs = a.decs
  node : ∀ h, ∃ c, b.node h = { a.node h with counts := c }

theorem CountedOnly.refl (a : Dev) : CountedOnly a a := ⟨rfl, rfl, fun _ => ⟨_, rfl⟩⟩

theorem CountedOnly.trans {a b c : Dev} (h : CountedOnly a b) (k : CountedOnly b c) : CountedOnly a c := by
  refine ⟨k.dev.trans h.dev, k.decs.trans h.decs, fun i => ?_⟩
  obtain ⟨x, hx⟩ := h.node i
  obtain ⟨y, hy⟩ := k.node i
  exact ⟨y, by rw [hy, hx]⟩

theorem CountedOnly.of_same {a b : Dev} (hd : b.dev = a.dev) (hl : b.decs = a.decs) (hn : b.nodes = a.nodes) : CountedOnly a b :=
  ⟨hd, hl, fun h => ⟨(a.node h).counts, congrArg (SMap.get (fun _ => Node.init) h) hn⟩⟩

theorem Reports.countedOnly {a b : Dev} (h : Reports a b) : CountedOnly a b := .of_same h.dev h.decs h.nodes

theorem ite_countedOnly {p : Prop} [Decidable p] {d a b : Dev} (ha : CountedOnly d a) (hb : CountedOnly d b) :
    CountedOnly d (if p then a else b) := by split <;> assumption

theorem CountedOnly.staysIdle {a b : Dev} (h : CountedOnly a b) : StaysIdle a b := by
  refine ⟨h.decs, fun i hi => ?_⟩
  obtain ⟨c, hc⟩ := h.node i
  rw [hc]
  exact hi

theorem nodeCount_countedOnly (d : Dev) (nh i n : Nat) : CountedOnly d (d.nodeCount nh i n) := by
  refine ⟨rfl, rfl, fun h => ?_⟩
  unfold Dev.nodeCount
  by_cases hi : h = nh
  · exact ⟨_, by rw [hi, node_modNode_same]⟩
  · exact ⟨_, node_modNode_ne hi d _⟩

theorem endMsdu_countedOnly (d : Dev) (m : Msdu) (st : Nat) (report : Bool) : CountedOnly d (d.endMsdu m st report) := by
  unfold Dev.endMsdu
  extract_lets freed taken counted missed ended traced
  have hfreed : CountedOnly d freed := .of_same rfl rfl rfl
  have hcounted : CountedOnly taken counted := ite_countedOnly (.of_same rfl rfl rfl) (CountedOnly.refl _)
  have hmissed : CountedOnly counted missed := ite_countedOnly (nodeCount_countedOnly _ _ _ _) (CountedOnly.refl _)
  have hended : CountedOnly missed ended := by
    simp only [ended]
    split
    · exact (ite_reports (complete_reports _ _ _) (flushItem_reports _ _)).countedOnly
    · exact (ite_reports ((raise_reports _ _ _).trans (event_reports _ _ _ _ _)) (Reports.refl _)).countedOnly
    · exact CountedOnly.refl _
  exact (((hfreed.trans (consumed_reports _ _ _).countedOnly).trans hcounted).trans (hmissed.trans hended)).trans
    ((trace_reports _ _ _ _ _ _).trans (markGroup_reports _ _)).countedOnly

/-! ### What the procedures of the device's own go on with -/

theorem hold_staysIdle (d : Dev) (m : Msdu) : StaysIdle d (d.hold m) := by
  unfold Dev.hold
  extract_lets m' moved
  have hmoved : StaysIdle d moved := ((consumed_reports d m.queue false).trans (produced_reports _ _)).staysIdle
  exact hmoved.trans ((modNode_staysIdle moved m.nh fun _ hn => by exact hn).trans (markGroup_reports _ _).staysIdle)

theorem holdQueued_staysIdle (d : Dev) (nh : Nat) : StaysIdle d (d.holdQueued nh) := by
  unfold Dev.holdQueued
  extract_lets q emptied
  have hemptied : StaysIdle d emptied := modNode_staysIdle d nh fun _ hn => by exact hn
  exact hemptied.trans (StaysIdle.foldl (fun e m => ite_staysIdle
    ((raise_reports e _ _).staysIdle.trans (endMsdu_countedOnly _ _ _ _).staysIdle) (hold_staysIdle e m)) _ _)

theorem unhold_staysIdle (d : Dev) (nh : Nat) : StaysIdle d (d.unhold nh) := by
  unfold Dev.unhold
  refine StaysIdle.trans (StaysIdle.foldl (fun e m => ?_) _ d)
    ((modNode_staysIdle _ nh fun n hn => ?_).trans (markGroup_reports _ _).staysIdle)
  · exact ite_staysIdle (StaysIdle.refl e) ((consumed_reports e _ _).trans (produced_reports _ _)).staysIdle
  · exact congrArg (Option.map _) hn

theorem nodeState_staysIdle (d : Dev) (nh : Nat) (st : NodeState) (reason : Nat) : StaysIdle d (d.nodeState nh st reason) :=
  (modNode_staysIdle d nh fun _ hn => congrArg (Option.map _) hn).trans (event_reports _ _ _ _ _).staysIdle

theorem updateUnsent_nodes (d : Dev) (m : Msdu) : (d.updateUnsent m).nodes = d.nodes ∧ (d.updateUnsent m).dev = d.dev ∧
    (d.updateUnsent m).decs = d.decs := by
  unfold Dev.updateUnsent
  split
  · split <;> exact ⟨rfl, rfl, rfl⟩
  · exact ⟨rfl, rfl, rfl⟩

theorem sendOwn_staysIdle (d : Dev) (nh code tag : Nat) (cmd : Option Nat) (body : List Byte) : StaysIdle d (d.sendOwn nh code tag cmd body) := by
  unfold Dev.sendOwn
  extract_lets m e
  have he : StaysIdle d e := .of_same rfl rfl
  exact he.trans (ite_staysIdle (modNode_staysIdle e nh fun _ hn => by exact hn) (modNode_staysIdle e nh fun _ hn => by exact hn))

/-- A node changed on the way, before a command ends. -/
theorem moved_finish_staysIdle {d e : Dev} (he : e.nodes = d.nodes) (hd : e.decs = d.decs) (i : Nat) {f : Node → Node} (hf : ∀ n, n.cur = none → (f n).cur = none)
    (id st : Nat) (q : List Byte) : StaysIdle d ((e.modNode i f).finish id st q) :=
  ((modNode_staysIdle e i hf).upon he hd).trans (finish_reports _ _ _ _).staysIdle

theorem ownDone_staysIdle (d : Dev) (m : Msdu) (st : Nat) : StaysIdle d (d.ownDone m st) := by
  have opt : ∀ (x : Dev) (cmd : Option Nat) (st : Nat), StaysIdle x (x.finishOpt cmd st) := fun x cmd st =>
    (finishOpt_reports x cmd st).staysIdle
  have fin : ∀ (x : Dev) (id st : Nat) (q : List Byte), StaysIdle x (x.finish id st q) := fun x id st q =>
    (finish_reports x id st q).staysIdle
  unfold Dev.ownDone
  dsimp only
  split
  · obtain ⟨hn, -, hd⟩ := updateUnsent_nodes d m
    exact ite_staysIdle (.of_same rfl rfl) (ite_staysIdle (sendOwn_staysIdle _ _ _ _ _ _) (.of_same hn hd))
  · exact modNode_staysIdle d _ fun _ hn => by exact hn
  · refine ite_staysIdle (ite_staysIdle ?_ (StaysIdle.trans (modNode_staysIdle d _ fun n hn => ?_) (opt _ _ _))) (opt _ _ _)
    · exact ((nodeState_staysIdle d _ _ _).trans (holdQueued_staysIdle _ _)).trans ((noteClip_reports _ _).staysIdle.trans (opt _ _ _))
    · split <;> exact hn
  · refine ite_staysIdle (StaysIdle.trans (ite_staysIdle ?_ (StaysIdle.refl d)) (opt _ _ _)) (opt _ _ _)
    exact (unhold_staysIdle d _).trans (nodeState_staysIdle _ _ _ _)
  · split
    · exact StaysIdle.refl d
    · exact ite_staysIdle (fin _ _ _ _) (ite_staysIdle (fin _ _ _ _) (fin _ _ _ _))
  · split
    · exact StaysIdle.refl d
    · split
      · exact StaysIdle.refl d
      · next id _ _ _ _ =>
        obtain ⟨e, he⟩ : ∃ e : Dev, e = { d with routes := d.routes.filter (fun x => decide (x.cmd ≠ id)) } := ⟨_, rfl⟩
        have hn : e.nodes = d.nodes := he ▸ rfl
        rw [← he]
        have hd : e.decs = d.decs := he ▸ rfl
        refine ite_staysIdle ((fin e id _ _).upon hn hd) (ite_staysIdle ?_ (.of_same rfl rfl))
        exact moved_finish_staysIdle hn hd _ (fun _ hn => by exact hn) _ _ _
  · exact opt _ _ _
  · exact StaysIdle.refl d

/-- The end of an MSDU gives no node an unacknowledged MSDU. -/
theorem finishMsdu_staysIdle (d : Dev) (m : Msdu) (st : Nat) : StaysIdle d (d.finishMsdu m st) :=
  (endMsdu_countedOnly d m st true).staysIdle.trans (ownDone_staysIdle _ _ _)

/-! ### Ends that are no success -/

/-- `b` is `a` in its state; a node without a grant has none, and behind what is held for a node come messages of the device's own. -/
structure OwnBehind (a b : Dev) : Prop where
  dev : b.dev = a.dev
  dorm : ∀ h, (a.node h).dorm = none → (b.node h).dorm = none
  held : ∀ h, ∃ own, (b.node h).heldq = (a.node h).heldq ++ own ∧ ∀ m ∈ own, m.isHost = false

theorem OwnBehind.refl (a : Dev) : OwnBehind a a := ⟨rfl, fun _ h => h, fun _ => ⟨[], (List.append_nil _).symm, fun _ hm => nomatch hm⟩⟩

theorem OwnBehind.trans {a b c : Dev} (h : OwnBehind a b) (k : OwnBehind b c) : OwnBehind a c := by
  refine ⟨k.dev.trans h.dev, fun i hi => k.dorm i (h.dorm i hi), fun i => ?_⟩
  obtain ⟨x, hx, hxo⟩ := h.held i
  obtain ⟨y, hy, hyo⟩ := k.held i
  exact ⟨x ++ y, by rw [hy, hx, List.append_assoc], fun m hm => (List.mem_append.1 hm).elim (hxo m) (hyo m)⟩

theorem CountedOnly.ownBehind {a b : Dev} (h : CountedOnly a b) : OwnBehind a b := by
  refine ⟨h.dev, fun i hi => ?_, fun i => ⟨[], ?_, fun _ hm => nomatch hm⟩⟩
  · obtain ⟨c, hc⟩ := h.node i
    rw [hc]
    exact hi
  · obtain ⟨c, hc⟩ := h.node i
    rw [hc, List.append_nil]

theorem OwnBehind.of_same {a b : Dev} (hd : b.dev = a.dev) (hn : b.nodes = a.nodes) : OwnBehind a b :=
  ⟨hd, fun h hh => (congrArg (fun l => (SMap.get (fun _ => Node.init) h l).dorm) hn).trans hh, fun h =>
    ⟨[], (congrArg (fun l => (SMap.get (fun _ => Node.init) h l).heldq) hn).trans (List.append_nil _).symm, fun _ hm => nomatch hm⟩⟩

theorem Reports.ownBehind {a b : Dev} (h : Reports a b) : OwnBehind a b := h.countedOnly.ownBehind

theorem ite_ownBehind {p : Prop} [Decidable p] {d a b : Dev} (ha : OwnBehind d a) (hb : OwnBehind d b) :
    OwnBehind d (if p then a else b) := by split <;> assumption

theorem OwnBehind.foldl {α : Type} {f : Dev → α → Dev} (hf : ∀ d x, OwnBehind d (f d x)) (l : List α) (d : Dev) :
    OwnBehind d (l.foldl f d) :=
  List.foldlRecOn l f (motive := OwnBehind d) (OwnBehind.refl d) fun _ he x _ => he.trans (hf _ x)

theorem modNode_ownBehind (d : Dev) (i : Nat) {f : Node → Node} (hd : ∀ n, n.dorm = none → (f n).dorm = none)
    (hq : ∀ n, ∃ own, (f n).heldq = n.heldq ++ own ∧ ∀ m ∈ own, m.isHost = false) : OwnBehind d (d.modNode i f) := by
  refine ⟨rfl, fun h hn => ?_, fun h => ?_⟩
  · by_cases hi : h = i
    · rw [hi, node_modNode_same]
      exact hd _ (hi ▸ hn)
    · rw [node_modNode_ne hi]
      exact hn
  · by_cases hi : h = i
    · rw [hi, node_modNode_same]
      exact hq _
    · rw [node_modNode_ne hi]
      exact ⟨[], (List.append_nil _).symm, fun _ hm => nomatch hm⟩

/-- A change of a node that leaves its grant and what is held for it. -/
theorem modNode_ownBehind_same (d : Dev) (i : Nat) {f : Node → Node} (hd : ∀ n, n.dorm = none → (f n).dorm = none)
    (hq : ∀ n, (f n).heldq = n.heldq) : OwnBehind d (d.modNode i f) :=
  modNode_ownBehind d i hd fun n => ⟨[], (hq n).trans (List.append_nil _).symm, fun _ hm => nomatch hm⟩

theorem sendOwn_ownBehind (d : Dev) (nh code tag : Nat) (cmd : Option Nat) (body : List Byte) : OwnBehind d (d.sendOwn nh code tag cmd body) := by
  unfold Dev.sendOwn
  extract_lets m e
  have he : OwnBehind d e := .of_same rfl rfl
  refine ite_ownBehind (he.trans (modNode_ownBehind e nh (fun _ hn => by exact hn) fun n => ⟨_, rfl, fun x hx => ?_⟩))
    (he.trans (modNode_ownBehind_same e nh (fun _ hn => by exact hn) fun _ => by rfl))
  rw [List.mem_singleton.1 hx]
  rfl

theorem finish_ownBehind {d e : Dev} (hd : e.dev = d.dev) (hn : e.nodes = d.nodes) (id st : Nat) (q : List Byte) :
    OwnBehind d (e.finish id st q) := (OwnBehind.of_same hd hn).trans (finish_reports _ _ _ _).ownBehind

theorem ownDone_ownBehind {st : Nat} (hst : st ≠ stOk) (d : Dev) (m : Msdu) : OwnBehind d (d.ownDone m st) := by
  have opt : ∀ (x : Dev) (cmd : Option Nat) (st : Nat), OwnBehind x (x.finishOpt cmd st) := fun x cmd st =>
    (finishOpt_reports x cmd st).ownBehind
  unfold Dev.ownDone
  dsimp only
  split
  · rw [if_neg fun h => hst h.2]
    exact ite_ownBehind (sendOwn_ownBehind _ _ _ _ _ _) (.of_same (updateUnsent_nodes d m).2.1 (updateUnsent_nodes d m).1)
  · exact modNode_ownBehind_same d _ (fun _ hn => by exact hn) fun _ => by rfl
  · rw [if_neg (c := st = stOk ∧ (d.node m.nh).st = .active) fun h => hst h.1]
    refine ite_ownBehind (OwnBehind.trans (modNode_ownBehind_same d _ (fun n hn => ?_) fun n => ?_) (opt _ _ _)) (opt _ _ _)
    · split
      · exact hn
      · rfl
    · split <;> rfl
  · rw [if_neg hst]
    exact opt _ _ _
  · split
    · exact OwnBehind.refl d
    · rw [if_pos hst]
      exact (finish_reports _ _ _ _).ownBehind
  · split
    · exact OwnBehind.refl d
    · split
      · exact OwnBehind.refl d
      · rw [if_pos hst]
        exact finish_ownBehind (by rfl) (by rfl) _ _ _
  · exact opt _ _ _
  · exact OwnBehind.refl d

theorem finishMsdu_ownBehind {st : Nat} (hst : st ≠ stOk) (d : Dev) (m : Msdu) : OwnBehind d (d.finishMsdu m st) :=
  (endMsdu_countedOnly d m st true).ownBehind.trans (ownDone_ownBehind hst _ _)

end Sys2Proof.Machine
end

section
/-! SUPPORT. Routes (11 R295, R296), dormancy (12 R305-R307, R318), missed polls and the life of held MSDUs (12 R319-R323). -/

namespace Sys2Proof.Machine

/-! ### Messages of the device's own that join a queue -/

/-- `b` is `a` but for messages queued or held for nodes. -/
structure QueuedFor (a b : Dev) : Prop where
  reports : Reports { a with nodes := b.nodes } b
  cmds : b.cmds = a.cmds
  route : ∀ h, (b.node h).parent = (a.node h).parent ∧ (b.node h).depth = (a.node h).depth
  dormancy : ∀ h, (b.node h).st = (a.node h).st ∧ (b.node h).dorm = (a.node h).dorm

theorem QueuedFor.refl (a : Dev) : QueuedFor a a := ⟨⟨rfl, fun _ _ => rfl⟩, rfl, fun _ => ⟨rfl, rfl⟩, fun _ => ⟨rfl, rfl⟩⟩

theorem QueuedFor.trans {a b c : Dev} (h : QueuedFor a b) (k : QueuedFor b c) : QueuedFor a c where
  reports := (h.reports.set_nodes c.nodes).trans k.reports
  cmds := k.cmds.trans h.cmds
  route := fun i => ⟨(k.route i).1.trans (h.route i).1, (k.route i).2.trans (h.route i).2⟩
  dormancy := fun i => ⟨(k.dormancy i).1.trans (h.dormancy i).1, (k.dormancy i).2.trans (h.dormancy i).2⟩

theorem modNode_queuedFor (d : Dev) (nh : Nat) {f : Node → Node}
    (hf : ∀ n, (f n).parent = n.parent ∧ (f n).depth = n.depth ∧ (f n).st = n.st ∧ (f n).dorm = n.dorm) : QueuedFor d (d.modNode nh f) where
  reports := ⟨rfl, fun _ _ => rfl⟩
  cmds := rfl
  route := fun h => by
    by_cases hi : h = nh
    · rw [hi, node_modNode_same]
      exact ⟨(hf _).1, (hf _).2.1⟩
    · rw [node_modNode_ne hi]
      exact ⟨rfl, rfl⟩
  dormancy := fun h => by
    by_cases hi : h = nh
    · rw [hi, node_modNode_same]
      exact (hf _).2.2
    · rw [node_modNode_ne hi]
      exact ⟨rfl, rfl⟩

theorem sendOwn_queuedFor (d : Dev) (nh code tag : Nat) (cmd : Option Nat) (body : List Byte) : QueuedFor d (d.sendOwn nh code tag cmd body) := by
  unfold Dev.sendOwn
  extract_lets m e
  have he : QueuedFor d e := ⟨⟨rfl, fun _ _ => rfl⟩, rfl, fun _ => ⟨rfl, rfl⟩, fun _ => ⟨rfl, rfl⟩⟩
  split
  · exact he.trans (modNode_queuedFor e nh fun _ => ⟨by rfl, by rfl, by rfl, by rfl⟩)
  · exact he.trans (modNode_queuedFor e nh fun _ => ⟨by rfl, by rfl, by rfl, by rfl⟩)

theorem sendRoute_queuedFor (d : Dev) (rs : List Nat) (final : Nat) (cmd : Option Nat) : QueuedFor d (d.sendRoute rs final cmd) :=
  List.foldlRecOn _ _ (motive := QueuedFor d) (QueuedFor.refl d) fun e he _ _ => he.trans (sendOwn_queuedFor e _ _ _ _ _)

/-! ### NODE_ROUTE (11 R295, R296) -/

/-- A chain of relays is the nodes' own. -/
theorem relays_of_nodes {a b : Dev} (h : b.nodes = a.nodes) (g n p : Nat) : b.relays g n p = a.relays g n p := by
  have haddr : b.bySaddr g = a.bySaddr g := by
    funext x
    unfold Dev.bySaddr
    rw [h]
  induction n generalizing p with
  | zero => rfl
  | succ n ih =>
    unfold Dev.relays
    rw [haddr]
    split
    · rfl
    · split
      · rfl
      · rw [ih, Dev.node, h]
        rfl

section
variable {s : State} {c : CmdDesc} (h : Accepted s c (nodeSpec 0x25 0x3FF))
include h

theorem nodeRoute_noNode (hst : (s.dev.node c.n2).st.isAdmitted = false) : Serves (exec (.nodeRoute c) s) s s.dev stNoNode [] := by
  have hf := fetched_reports s c
  show Serves (run (nodeRouteEffect c) s) s s.dev stNoNode []
  unfold nodeRouteEffect
  refine command_serves h rfl ?_ (d := s.dev.fresh.fetchCmd c) ?_ hf (fetched_outstanding s c)
  · rw [fresh_node, hst]
    rfl
  · dsimp only
    rw [hf.node, hst]
    exact if_pos rfl

theorem nodeRoute_neighbour (hst : (s.dev.node c.n2).st.isAdmitted = true) (hp : c.f1 9 0 = 0) :
    Serves (exec (.nodeRoute c) s) s (s.dev.modNode c.n2 (fun n => { n with parent := 0, depth := 0 })) stOk [] := by
  have hf := fetched_reports s c
  show Serves (run (nodeRouteEffect c) s) s _ stOk []
  unfold nodeRouteEffect
  refine command_serves h rfl ?_ (d := (s.dev.fresh.fetchCmd c).modNode c.n2 (fun n => { n with parent := 0, depth := 0 })) ?_
    (hf.modNode _ _) (fetched_outstanding s c)
  · rw [fresh_node, hst, hp]
    rfl
  · dsimp only
    rw [hf.node, hst, hp]
    exact (if_neg (by decide)).trans (if_pos rfl)

theorem nodeRoute_waits (hst : (s.dev.node c.n2).st.isAdmitted = true) (hp : s.dev.parentOk c.n2 (c.f1 9 0) = true)
    (hrs : s.dev.relays (s.dev.node c.n2).grp 7 (c.f1 9 0) ≠ []) :
    ∃ t, exec (.nodeRoute c) s = .next t ∧ t.pending = s.pending ∧ (t.dev.cmdOf s.dev.nextId).isSome = true ∧
      t.dev.routes = { cmd := s.dev.nextId, nh := c.n2, parent := c.f1 9 0
                       left := (s.dev.relays (s.dev.node c.n2).grp 7 (c.f1 9 0)).length } :: s.dev.routes ∧
      Reports { s.dev with nodes := t.dev.nodes, routes := t.dev.routes } t.dev ∧
      (t.dev.node c.n2).parent = (s.dev.node c.n2).parent ∧ (t.dev.node c.n2).depth = (s.dev.node c.n2).depth := by
  have hf := fetched_reports s c
  obtain ⟨rs, hr⟩ : ∃ rs, rs = s.dev.relays (s.dev.node c.n2).grp 7 (c.f1 9 0) := ⟨_, rfl⟩
  rw [← hr] at hrs ⊢
  show ∃ t, run (nodeRouteEffect c) s = .next t ∧ _
  unfold nodeRouteEffect
  obtain ⟨t, ht, hpend, hdev⟩ := command_next h (obj := always)
    (arg := fun d c => !(d.node c.n2).st.isAdmitted || d.parentOk c.n2 (c.f1 9 0)) rfl
    (by rw [fresh_node, hst, show s.dev.fresh.parentOk c.n2 (c.f1 9 0) = true from hp]; rfl)
    (eff := fun id c d =>
      let n := d.node c.n2
      let rs := d.relays n.grp 7 (c.f1 9 0)
      if !n.st.isAdmitted then d.finishSt id stNoNode
      else if rs = [] then (d.modNode c.n2 (fun n => { n with parent := 0, depth := 0 })).finishSt id stOk
      else
        let d := { d with routes := ({ cmd := id, nh := c.n2, parent := c.f1 9 0, left := rs.length } : Route) :: d.routes }
        d.sendRoute rs n.saddr (some id))
  refine ⟨t, ht, hpend, ?_⟩
  obtain ⟨e, he⟩ : ∃ e : Dev, e = { s.dev.fresh.fetchCmd c with routes := ({
      cmd := s.dev.nextId, nh := c.n2, parent := c.f1 9 0, left := rs.length } : Route) :: (s.dev.fresh.fetchCmd c).routes } := ⟨_, rfl⟩
  dsimp only at hdev
  rw [relays_of_nodes hf.nodes, hf.node, ← hr, hst, if_neg (by decide), if_neg hrs, ← he] at hdev
  obtain ⟨hrep, hcmds, hroute, -⟩ := sendRoute_queuedFor e rs (s.dev.node c.n2).saddr (some s.dev.nextId)
  have hcmdsE : e.cmds = (s.dev.fresh.fetchCmd c).cmds := he ▸ rfl
  have hroutesE : e.routes = { cmd := s.dev.nextId, nh := c.n2, parent := c.f1 9 0, left := rs.length } :: s.dev.routes := by
    rw [he, ← hf.routes]
  have hrepE : Reports { s.dev with routes := e.routes } e := by
    rw [he]
    exact hf.set_routes _
  have hnodeE : e.node c.n2 = s.dev.node c.n2 := hrepE.node c.n2
  obtain ⟨x, hx⟩ : ∃ x, x = e.sendRoute rs (s.dev.node c.n2).saddr (some s.dev.nextId) := ⟨_, rfl⟩
  rw [← hx] at hdev hrep hcmds hroute
  have hroutes : x.routes = e.routes := hrep.routes
  rw [hdev]
  refine ⟨?_, hroutes.trans hroutesE, ?_, ?_⟩
  · rw [Dev.cmdOf, fresh_cmds, hcmds, hcmdsE]
    exact fetched_outstanding s c
  · rw [show x.fresh.routes = e.routes from hroutes]
    exact ((hrepE.set_nodes _).trans hrep).trans (fresh_reports x)
  · rw [← hnodeE]
    exact hroute c.n2

end

/-- Settles O33: NODE_ROUTE at once, or after the relays are told. -/
theorem routes : Obligations.Routes := fun _ _ h => ⟨nodeRoute_noNode h, nodeRoute_neighbour h, nodeRoute_waits h⟩

/-! ### Dormancy granted or refused (12 R305-R307) -/

/-- A configuration register of group 0 is one of every group. -/
theorem statusOff_groupCfg {o : Nat} (h1 : 0x20 ≤ o) (ho : o < 0x10000) (hs : statusOff (0x100000 + o) = false) (g : Nat) :
    statusOff (0x100000 + o + g * 0x10000) = false := by
  by_cases hg : g < 32
  · have h0 := statusOff_group (g := 0) (by omega) ho
    rw [Nat.zero_mul, Nat.add_zero, hs] at h0
    rw [statusOff_group hg ho, ← h0]
  · exact statusOff_past_groups (by omega) (by omega) (by omega) (by omega)

theorem statusOff_dnCtrl (g : Nat) : statusOff (Reg.dnCtrl g) = false := statusOff_groupCfg (o := 0x1300) (by decide) (by decide) (by decide) g
theorem statusOff_dnPoll (g : Nat) : statusOff (Reg.dnPoll g) = false := statusOff_groupCfg (o := 0x1308) (by decide) (by decide) (by decide) g
theorem statusOff_dnLife (g : Nat) : statusOff (Reg.dnLife g) = false := statusOff_groupCfg (o := 0x1310) (by decide) (by decide) (by decide) g

/-- The interval granted for one asked for: within the group's limits. -/
def Dev.grantP (d : Dev) (nh req : Nat) : Nat :=
  min (max req (d.fld (Reg.dnPoll (d.node nh).grp) 15 0)) (d.fld (Reg.dnPoll (d.node nh).grp) 31 16)

theorem Reports.grantP {a b : Dev} (h : Reports a b) (nh req : Nat) : b.grantP nh req = a.grantP nh req := by
  unfold Dev.grantP
  rw [h.node, h.fld (statusOff_dnPoll _), h.fld (statusOff_dnPoll _)]

theorem Reports.dormRefused {a b : Dev} (h : Reports a b) (nh : Nat) : b.dormRefused nh = a.dormRefused nh := by
  unfold Dev.dormRefused
  dsimp only
  rw [h.node, h.flag (statusOff_dnCtrl _)]

/-- What a grant leaves: the node's state as it was, its interval, no poll missed, DORM_GRANT queued. -/
structure Granted (a b : Dev) (nh p : Nat) : Prop where
  reports : Reports { a with nodes := b.nodes } b
  cmds : b.cmds = a.cmds
  st : (b.node nh).st = (a.node nh).st
  dorm : ∃ x, (b.node nh).dorm = some x ∧ x.k = 0 ∧ x.p = p

theorem grantDormancy_granted (d : Dev) (nh req ppm : Nat) (cmd : Option Nat) :
    Granted d (d.grantDormancy nh req ppm cmd) nh (d.grantP nh req) := by
  unfold Dev.grantDormancy
  extract_lets g p slope c placed
  have hplaced : Reports { d with nodes := placed.nodes } placed := ⟨rfl, fun _ _ => rfl⟩
  have hcmds : placed.cmds = d.cmds := rfl
  have hnode : (placed.node nh).st = (d.node nh).st ∧ ∃ x, (placed.node nh).dorm = some x ∧ x.k = 0 ∧ x.p = p := by
    simp only [placed, node_modNode_same]
    exact ⟨rfl, _, rfl, rfl, rfl⟩
  clear_value placed
  obtain ⟨hr, hc, -, hdorm⟩ := sendOwn_queuedFor placed nh 0x0A 0 cmd (grantBody p 0 c.1 0)
  refine ⟨(hplaced.set_nodes _).trans hr, hc.trans hcmds, (hdorm nh).1.trans hnode.1, ?_⟩
  rw [(hdorm nh).2]
  exact hnode.2

section
variable {s : State} {nh : Fin 16384} {body : List Byte} (hrun : s.dev.dev = .run)
  (hup : (s.dev.group (s.dev.node nh).grp).st.up = true) (hlen : 4 ≤ body.length)
include hrun hup hlen

theorem dormReqEffect_due (hst : (s.dev.node nh).st = .active ∨ (s.dev.node nh).st = .dormant) :
    dormReqEffect nh body s.dev.fresh =
      if (s.dev.node nh).st = .dormant ∨ s.dev.dormRefused nh = true then s.dev.fresh.sendOwn nh 0x0A 1 none (grantBody 0 0 0 1)
      else s.dev.fresh.grantDormancy nh (leAt body 0 2) (byteAt body 2) none := by
  have hdue : ¬ (s.dev.fresh.dev ≠ .run ∨ (!(s.dev.fresh.group (s.dev.fresh.node nh).grp).st.up) = true ∨
      ((s.dev.fresh.node nh).st ≠ .active ∧ (s.dev.fresh.node nh).st ≠ .dormant)) := by
    rw [fresh_node, fresh_group, hup]
    rintro (h | h | ⟨h1, h2⟩)
    · exact h hrun
    · cases h
    · exact hst.elim h1 h2
  exact (if_neg hdue).trans (if_neg (Nat.not_lt.2 hlen))

theorem dormReq_grants (hst : (s.dev.node nh).st = .active) (hno : s.dev.dormRefused nh = false) :
    ∃ t x, exec (.dormReq nh body) s = .next t ∧ t.pending = s.pending ∧ (t.dev.node nh).st = .active ∧
      (t.dev.node nh).dorm = some x ∧ x.k = 0 ∧ x.p = s.dev.grantP nh (leAt body 0 2) ∧
      Reports { s.dev with nodes := t.dev.nodes } t.dev := by
  have hgrant : ¬ ((s.dev.node nh).st = .dormant ∨ s.dev.dormRefused nh = true) := by
    rw [hst, hno]
    rintro (h | h) <;> cases h
  obtain ⟨t, ht, hp, hdev⟩ := run_fresh (dormReqEffect nh body) s
  rw [dormReqEffect_due hrun hup hlen (.inl hst), if_neg hgrant] at hdev
  obtain ⟨hrep, -, hkept, x, hx, hk, hxp⟩ := grantDormancy_granted s.dev.fresh nh (leAt body 0 2) (byteAt body 2) none
  generalize s.dev.fresh.grantDormancy nh (leAt body 0 2) (byteAt body 2) none = e at hdev hrep hkept hx
  refine ⟨t, x, ht, hp, ?_⟩
  rw [hdev]
  exact ⟨hkept.trans hst, hx, hk, hxp, (((fresh_reports s.dev).set_nodes _).trans hrep).trans (fresh_reports e)⟩

theorem dormReq_refuses (hst : (s.dev.node nh).st = .dormant ∨ ((s.dev.node nh).st = .active ∧ s.dev.dormRefused nh = true)) :
    ∃ t, exec (.dormReq nh body) s = .next t ∧ t.pending = s.pending ∧ (t.dev.node nh).st = (s.dev.node nh).st ∧
      (t.dev.node nh).dorm = (s.dev.node nh).dorm ∧ Reports { s.dev with nodes := t.dev.nodes } t.dev := by
  obtain ⟨t, ht, hp, hdev⟩ := run_fresh (dormReqEffect nh body) s
  rw [dormReqEffect_due hrun hup hlen (hst.elim .inr fun h => .inl h.1), if_pos (hst.imp_right fun h => h.2)] at hdev
  obtain ⟨hrep, -, -, hdorm⟩ := sendOwn_queuedFor s.dev.fresh nh 0x0A 1 none (grantBody 0 0 0 1)
  generalize s.dev.fresh.sendOwn nh 0x0A 1 none (grantBody 0 0 0 1) = e at hdev hrep hdorm
  refine ⟨t, ht, hp, ?_⟩
  rw [hdev]
  exact ⟨(hdorm nh).1, (hdorm nh).2, (((fresh_reports s.dev).set_nodes _).trans hrep).trans (fresh_reports e)⟩

end

/-- What NODE_DORMANT does once it is accepted. -/
def Dev.nodeDormant (d : Dev) (id : Nat) (c : CmdDesc) : Dev :=
  if c.f1 24 24 = 1 then
    if (d.node c.n2).st = .dormant then d.sendDormEnd c.n2 0 (some id) else d.finishSt id stNoNode
  else if (d.node c.n2).st = .active then d.grantDormancy c.n2 (c.f1 15 0) (c.f1 23 16) (some id)
  else d.finishSt id stNoNode

/-- What NODE_DORMANT asks of its arguments. -/
def Dev.nodeDormantArg (d : Dev) (c : CmdDesc) : Bool :=
  decide (c.f1 24 24 = 1) || (decide (c.f1 15 0 ≠ 0) &&
    !((d.node c.n2).st = .dormant || ((d.node c.n2).st = .active && d.dormRefused c.n2)))

theorem nodeDormantEffect_eq :
    nodeDormantEffect = command (nodeSpec 0x26 0x1FFFFFF) always Dev.nodeDormantArg (fun id c d => d.nodeDormant id c) := rfl

/-- DORM_END heads what is held for its node. -/
theorem sendDormEnd_heads (d : Dev) (nh reason : Nat) (cmd : Option Nat) :
    ∃ m, ((d.sendDormEnd nh reason cmd).node nh).heldq = m :: (d.node nh).heldq ∧ m.origin = .own 0x0B reason cmd := by
  unfold Dev.sendDormEnd
  extract_lets m
  refine ⟨{ m with heldBp := some d.msync.bpi }, ?_, rfl⟩
  show ((d.modNode nh (fun n => { n with heldq := { m with heldBp := some d.msync.bpi } :: n.heldq })).node nh).heldq = _
  rw [node_modNode_same]

section
variable {s : State} {c : CmdDesc} (h : Accepted s c (nodeSpec 0x26 0x1FFFFFF))
include h

theorem nodeDormant_next (ha : s.dev.fresh.nodeDormantArg c = true) :
    ∃ t, exec (.nodeDormant c) s = .next t ∧ t.pending = s.pending ∧
      t.dev = ((s.dev.fresh.fetchCmd c).nodeDormant s.dev.nextId c).fresh :=
  command_next h (obj := always) rfl ha (eff := fun id c d => d.nodeDormant id c)

theorem nodeDormant_grants (hg : c.f1 24 24 = 0) (hp : c.f1 15 0 ≠ 0) (hst : (s.dev.node c.n2).st = .active)
    (hno : s.dev.dormRefused c.n2 = false) :
    ∃ t x, exec (.nodeDormant c) s = .next t ∧ t.pending = s.pending ∧ (t.dev.cmdOf s.dev.nextId).isSome = true ∧
      (t.dev.node c.n2).st = .active ∧ (t.dev.node c.n2).dorm = some x ∧ x.k = 0 ∧ x.p = s.dev.grantP c.n2 (c.f1 15 0) ∧
      Reports { s.dev with nodes := t.dev.nodes } t.dev := by
  have hf := fetched_reports s c
  have harg : s.dev.fresh.nodeDormantArg c = true := by
    unfold Dev.nodeDormantArg
    rw [fresh_node, hst, show s.dev.fresh.dormRefused c.n2 = false from hno, decide_eq_true hp]
    simp
  obtain ⟨t, ht, hpend, hdev⟩ := nodeDormant_next h harg
  rw [Dev.nodeDormant, if_neg (by rw [hg]; decide), hf.node, if_pos hst] at hdev
  obtain ⟨hrep, hcmds, hkept, x, hx, hk, hxp⟩ :=
    grantDormancy_granted (s.dev.fresh.fetchCmd c) c.n2 (c.f1 15 0) (c.f1 23 16) (some s.dev.nextId)
  generalize (s.dev.fresh.fetchCmd c).grantDormancy c.n2 (c.f1 15 0) (c.f1 23 16) (some s.dev.nextId) = e at hdev hrep hcmds hkept hx
  rw [hf.grantP] at hxp
  rw [hf.node, hst] at hkept
  refine ⟨t, x, ht, hpend, ?_⟩
  rw [hdev]
  refine ⟨?_, hkept, hx, hk, hxp, ((hf.set_nodes _).trans hrep).trans (fresh_reports e)⟩
  rw [Dev.cmdOf, fresh_cmds, hcmds]
  exact fetched_outstanding s c

theorem nodeDormant_ends (hg : c.f1 24 24 = 1) (hst : (s.dev.node c.n2).st = .dormant) :
    ∃ t m rest, exec (.nodeDormant c) s = .next t ∧ t.pending = s.pending ∧ (t.dev.cmdOf s.dev.nextId).isSome = true ∧
      (t.dev.node c.n2).heldq = m :: rest ∧ m.origin = .own 0x0B 0 (some s.dev.nextId) ∧
      rest = (s.dev.node c.n2).heldq ∧ Reports { s.dev with nodes := t.dev.nodes } t.dev := by
  have hf := fetched_reports s c
  obtain ⟨t, ht, hpend, hdev⟩ := nodeDormant_next h (by rw [Dev.nodeDormantArg, decide_eq_true hg, Bool.true_or])
  rw [Dev.nodeDormant, if_pos hg, hf.node, if_pos hst] at hdev
  obtain ⟨e, he⟩ : ∃ e, e = s.dev.fresh.fetchCmd c := ⟨_, rfl⟩
  have hout : (e.cmdOf s.dev.nextId).isSome = true := he ▸ fetched_outstanding s c
  rw [← he] at hdev hf
  obtain ⟨m, hheld, ho⟩ := sendDormEnd_heads e c.n2 0 (some s.dev.nextId)
  have hrep : Reports { e with nodes := (e.sendDormEnd c.n2 0 (some s.dev.nextId)).nodes } (e.sendDormEnd c.n2 0 (some s.dev.nextId)) :=
    ⟨rfl, fun _ _ => rfl⟩
  have hcmds : (e.sendDormEnd c.n2 0 (some s.dev.nextId)).cmds = e.cmds := rfl
  generalize e.sendDormEnd c.n2 0 (some s.dev.nextId) = x at hdev hheld hrep hcmds
  rw [hf.node] at hheld
  refine ⟨t, m, (s.dev.node c.n2).heldq, ht, hpend, ?_⟩
  rw [hdev]
  refine ⟨?_, hheld, ho, rfl, ((hf.set_nodes _).trans hrep).trans (fresh_reports x)⟩
  rw [Dev.cmdOf, fresh_cmds, hcmds]
  exact hout

theorem nodeDormant_noNode (hg : c.f1 24 24 = 1) (hst : (s.dev.node c.n2).st ≠ .dormant) :
    Serves (exec (.nodeDormant c) s) s s.dev stNoNode [] := by
  have hf := fetched_reports s c
  refine command_serves h (obj := always) (arg := Dev.nodeDormantArg) (eff := fun id c d => d.nodeDormant id c) rfl
    (by rw [Dev.nodeDormantArg, decide_eq_true hg, Bool.true_or]) (d := s.dev.fresh.fetchCmd c) ?_ hf (fetched_outstanding s c)
  rw [Dev.nodeDormant, if_pos hg, hf.node, if_neg hst]
  rfl

end

/-- Settles O37: dormancy granted, refused and ended. -/
theorem dormancy : Obligations.Dormancy := fun _ =>
  ⟨fun _ _ hrun hup hlen => ⟨dormReq_grants hrun hup hlen, dormReq_refuses hrun hup hlen⟩,
    fun _ h => ⟨nodeDormant_grants h, nodeDormant_ends h, nodeDormant_noNode h⟩⟩

/-! ### Missed polls (12 R319-R321) -/

theorem nodeState_node (d : Dev) (nh : Nat) (st : NodeState) (reason : Nat) :
    ((d.nodeState nh st reason).node nh).st = st ∧ ((d.nodeState nh st reason).node nh).dorm = (d.node nh).dorm ∧
      ((d.nodeState nh st reason).node nh).heldq = (d.node nh).heldq := by
  unfold Dev.nodeState
  dsimp only
  rw [(event_reports _ _ _ _ _).node, node_modNode_same]
  exact ⟨rfl, rfl, rfl⟩

/-- What the limit of missed polls does of a node. -/
def Dev.lostNode (d : Dev) (nh : Nat) : Dev :=
  let d' := (d.node nh).heldq.foldl (fun d m => d.finishMsdu m stHeldExpired)
    (d.modNode nh (fun n => { n with heldq := [], cur := none, dorm := none }))
  ((d.node nh).cur.elim d' (fun m => d'.finishMsdu m stNoAck)).nodeState nh .lost 0xFF

theorem lostNode_spec (d : Dev) (nh : Nat) :
    ((d.lostNode nh).node nh).st = .lost ∧ ((d.lostNode nh).node nh).dorm = none ∧
      ∀ m ∈ ((d.lostNode nh).node nh).heldq, m.isHost = false := by
  unfold Dev.lostNode
  obtain ⟨e, he⟩ : ∃ e, e = d.modNode nh (fun n => { n with heldq := [], cur := none, dorm := none }) := ⟨_, rfl⟩
  have hemptied : (e.node nh).heldq = [] ∧ (e.node nh).dorm = none := by
    rw [he, node_modNode_same]
    exact ⟨rfl, rfl⟩
  rw [← he]
  have hheld : OwnBehind e ((d.node nh).heldq.foldl (fun d m => d.finishMsdu m stHeldExpired) e) :=
    OwnBehind.foldl (fun x m => finishMsdu_ownBehind (by decide) x m) _ e
  generalize (d.node nh).heldq.foldl (fun d m => d.finishMsdu m stHeldExpired) e = x at hheld
  have hall : OwnBehind e ((d.node nh).cur.elim x (fun m => x.finishMsdu m stNoAck)) := by
    cases (d.node nh).cur with
    | none => exact hheld
    | some m => exact hheld.trans (finishMsdu_ownBehind (by decide) x m)
  dsimp only
  generalize (d.node nh).cur.elim x (fun m => x.finishMsdu m stNoAck) = y at hall
  obtain ⟨hst, hdorm, hq⟩ := nodeState_node y nh .lost 0xFF
  obtain ⟨own, hown, hnone⟩ := hall.held nh
  refine ⟨hst, hdorm.trans (hall.dorm nh hemptied.2), fun m hm => hnone m ?_⟩
  rw [hq, hown, hemptied.1] at hm
  exact hm

section
variable {s : State} {nh : Fin 16384}

theorem Reports.ladder {a b : Dev} (h : Reports a b) (g : Nat) (x : Dorm) : b.ladder g x = a.ladder g x := by
  unfold Dev.ladder
  rw [h.fld (statusOff_dnCtrl _)]

/-- What a missed poll does below the limit. -/
def Dev.climb (d : Dev) (nh : Nat) (x : Dorm) : Dev :=
  (d.modNode nh (fun n => { n.lifeWindow with dorm := some { x with
    k := x.k + 1, next := (x.next + d.ladder (d.node nh).grp { x with k := x.k + 1 }) % 2 ^ 23 } })).noteClip nh

theorem pollMissEffect_due {d : Dev} {nh : Nat} {x : Dorm} (hrun : d.dev = .run) (hst : (d.node nh).st = .dormant)
    (hx : (d.node nh).dorm = some x) (hmiss : d.pollMissed (d.node nh) x = true) (hup : (d.group (d.node nh).grp).st.up = true) :
    pollMissEffect nh d =
      if (d.raise (.dn (d.node nh).grp) 29).fld (Reg.dnCtrl (d.node nh).grp) 23 20 ≤ x.k + 1 then
        (d.raise (.dn (d.node nh).grp) 29).lostNode nh
      else (d.raise (.dn (d.node nh).grp) 29).climb nh x := by
  have hdue : ¬ (d.dev ≠ .run ∨ (d.node nh).st ≠ .dormant ∨ (!d.pollMissed (d.node nh) x) = true) := by
    rw [hmiss]
    rintro (h | h | h)
    · exact h hrun
    · exact h hst
    · cases h
  have hgrp : ¬ (!(d.group (d.node nh).grp).st.up) = true := by
    rw [hup]
    decide
  unfold pollMissEffect Dev.lostNode Dev.climb
  rw [(raise_reports d _ _).node]
  dsimp only
  rw [hx]
  dsimp only
  rw [if_neg hdue, if_neg hgrp]
  cases (d.node nh).cur with
  | none => rfl
  | some m => rfl

theorem climb_spec (d : Dev) (nh : Nat) (x : Dorm) :
    ((d.climb nh x).node nh).st = (d.node nh).st ∧ ((d.climb nh x).node nh).dorm = some { x with
      k := x.k + 1, next := (x.next + d.ladder (d.node nh).grp { x with k := x.k + 1 }) % 2 ^ 23 } ∧
      Reports { d with nodes := (d.climb nh x).nodes } (d.climb nh x) := by
  unfold Dev.climb
  obtain ⟨e, he⟩ : ∃ e, e = d.modNode nh (fun n => { n.lifeWindow with dorm := some { x with
      k := x.k + 1, next := (x.next + d.ladder (d.node nh).grp { x with k := x.k + 1 }) % 2 ^ 23 } }) := ⟨_, rfl⟩
  have hrep : Reports { d with nodes := e.nodes } e := by
    rw [he]
    exact ⟨rfl, fun _ _ => rfl⟩
  have hclip := noteClip_reports e nh
  rw [← he, hclip.node, he, node_modNode_same, ← he]
  exact ⟨rfl, rfl, hclip.nodes ▸ (hrep.trans hclip)⟩

theorem pollMiss_next (x : Dorm) (hrun : s.dev.dev = .run) (hst : (s.dev.node nh).st = .dormant) (hx : (s.dev.node nh).dorm = some x)
    (hmiss : s.dev.pollMissed (s.dev.node nh) x = true) (hup : (s.dev.group (s.dev.node nh).grp).st.up = true) :
    ∃ t, exec (.pollMiss nh) s = .next t ∧ t.pending = s.pending ∧
      (s.dev.fld (Reg.dnCtrl (s.dev.node nh).grp) 23 20 ≤ x.k + 1 →
        (t.dev.node nh).st = .lost ∧ (t.dev.node nh).dorm = none ∧ ∀ m ∈ (t.dev.node nh).heldq, m.isHost = false) ∧
      (x.k + 1 < s.dev.fld (Reg.dnCtrl (s.dev.node nh).grp) 23 20 →
        (t.dev.node nh).st = .dormant ∧ (t.dev.node nh).dorm = some { x with
          k := x.k + 1, next := (x.next + s.dev.ladder (s.dev.node nh).grp { x with k := x.k + 1 }) % 2 ^ 23 } ∧
        Reports { s.dev with nodes := t.dev.nodes } t.dev) := by
  obtain ⟨t, ht, hp, hdev⟩ := run_fresh (pollMissEffect nh) s
  rw [pollMissEffect_due (d := s.dev.fresh) hrun hst hx hmiss hup] at hdev
  obtain ⟨e, he⟩ : ∃ e, e = s.dev.fresh.raise (.dn (s.dev.fresh.node nh).grp) 29 := ⟨_, rfl⟩
  have hrep : Reports s.dev e := he ▸ (fresh_reports _).trans (raise_reports _ _ _)
  rw [← he, fresh_node, hrep.fld (statusOff_dnCtrl _)] at hdev
  refine ⟨t, ht, hp, fun hlim => ?_, fun hlim => ?_⟩
  · rw [if_pos hlim] at hdev
    rw [hdev]
    exact lostNode_spec e nh
  · rw [if_neg (Nat.not_le.2 hlim)] at hdev
    obtain ⟨hs, hd, hr⟩ := climb_spec e nh x
    generalize e.climb nh x = y at hdev hs hd hr
    rw [hrep.node, hst] at hs
    rw [hrep.node, hrep.ladder] at hd
    rw [hdev]
    exact ⟨hs, hd, ((hrep.set_nodes _).trans hr).trans (fresh_reports y)⟩

/-! ### The life of held MSDUs (12 R323) -/

theorem Reports.heldLong {a b : Dev} (h : Reports a b) (m : Msdu) : b.heldLong m = a.heldLong m := by
  unfold Dev.heldLong
  rw [h.fld (statusOff_dnLife _), h.msync]

/-- No host MSDU held for a node has been held for too long, as `d` judges it. -/
def NoneHeldLong (d e : Dev) (nh : Nat) : Prop := ∀ m ∈ (e.node nh).heldq, m.isHost = true → d.heldLong m = false

theorem OwnBehind.noneHeldLong {d a b : Dev} {nh : Nat} (h : OwnBehind a b) (ha : NoneHeldLong d a nh) : NoneHeldLong d b nh := by
  obtain ⟨own, hown, hnone⟩ := h.held nh
  intro m hm hhost
  rw [hown, List.mem_append] at hm
  rcases hm with hm | hm
  · exact ha m hm hhost
  · exact Bool.noConfusion ((hnone m hm).symm.trans hhost)

/-- What HELD_LIFE_EXPIRY leaves of a node's unacknowledged MSDU. -/
def Dev.expireCur (d : Dev) (nh : Nat) (cur : Option Msdu) : Dev :=
  match cur with
  | none => d
  | some m =>
    if !d.heldLong m || m.ending.isSome then d
    else if m.spanEnd.isSome then
      (d.raise (.dn m.grp) 30).modNode nh (fun n => { n with cur := some { m with ending := some stHeldExpired } })
    else ((d.raise (.dn m.grp) 30).modNode nh (fun n => { n with cur := none })).finishMsdu m stHeldExpired

theorem expireCur_ownBehind (d : Dev) (nh : Nat) (cur : Option Msdu) : OwnBehind d (d.expireCur nh cur) := by
  cases cur with
  | none => exact OwnBehind.refl d
  | some m =>
    have hraise : OwnBehind d (d.raise (.dn m.grp) 30) := (raise_reports _ _ _).ownBehind
    refine ite_ownBehind (OwnBehind.refl d) (ite_ownBehind ?_ ?_)
    · exact hraise.trans (modNode_ownBehind_same _ nh (fun _ hn => by exact hn) fun _ => by rfl)
    · exact (hraise.trans (modNode_ownBehind_same _ nh (fun _ hn => by exact hn) fun _ => by rfl)).trans
        (finishMsdu_ownBehind (by decide) _ m)

theorem heldLifeExpiryEffect_due {d : Dev} (hc : d.dev.clocked = true) (nh : Nat) :
    heldLifeExpiryEffect nh d =
      (((d.node nh).heldq.filter d.heldLong).foldl (fun d m => (d.raise (.dn m.grp) 30).finishMsdu m stHeldExpired)
        (d.modNode nh (fun n => { n with heldq := n.heldq.filter (fun m => !d.heldLong m) }))).expireCur nh (d.node nh).cur := by
  have hskip : ¬ (!d.dev.clocked) = true := by
    rw [hc]
    decide
  exact if_neg hskip

theorem heldLifeExpiry_next (hc : s.dev.dev.clocked = true) :
    ∃ t, exec (.heldLifeExpiry nh) s = .next t ∧ t.pending = s.pending ∧ t.dev.dev = s.dev.dev ∧
      ∀ m ∈ (t.dev.node nh).heldq, m.isHost = true → s.dev.heldLong m = false := by
  obtain ⟨t, ht, hp, hdev⟩ := run_fresh (heldLifeExpiryEffect nh) s
  rw [heldLifeExpiryEffect_due (d := s.dev.fresh) hc] at hdev
  obtain ⟨e, he⟩ : ∃ e, e = s.dev.fresh.modNode nh (fun n => { n with heldq := n.heldq.filter (fun m => !s.dev.fresh.heldLong m) }) :=
    ⟨_, rfl⟩
  have hkeep : NoneHeldLong s.dev e nh := by
    intro m hm _
    rw [he, node_modNode_same] at hm
    have hshort := (List.mem_filter.1 hm).2
    rw [(fresh_reports s.dev).heldLong] at hshort
    exact Bool.not_eq_true' _ ▸ hshort
  have hst : e.dev = s.dev.dev := he ▸ rfl
  rw [← he] at hdev
  have hall : OwnBehind e ((((s.dev.fresh.node nh).heldq.filter s.dev.fresh.heldLong).foldl
      (fun d m => (d.raise (.dn m.grp) 30).finishMsdu m stHeldExpired) e).expireCur nh (s.dev.fresh.node nh).cur) :=
    (OwnBehind.foldl (fun x m => (raise_reports x _ _).ownBehind.trans (finishMsdu_ownBehind (by decide) _ m)) _ e).trans
      (expireCur_ownBehind _ nh _)
  refine ⟨t, ht, hp, ?_⟩
  rw [hdev]
  exact ⟨hall.dev.trans hst, hall.noneHeldLong hkeep⟩

end

/-- Settles O38: missed polls, and the life of held MSDUs. -/
theorem missedPollsAndHeldLife : Obligations.MissedPollsAndHeldLife := fun _ _ => ⟨pollMiss_next, heldLifeExpiry_next⟩

end Sys2Proof.Machine
end

section
/-! SUPPORT. Acknowledgements sent (11 R282-R284), received and missed (11 R285-R288). -/

namespace Sys2Proof.Machine

/-! ### ACK_TX (11 R282-R284) -/

/-- A decode lane owes no acknowledgement any more. -/
def Dev.ackGone (d : Dev) (l : Nat) : Dev := d.modDec l (fun x => { x with ack := none })

/-- Whether the frame of an encode lane still leaves. -/
def Dev.laneSends (d : Dev) (e : Nat) : Bool := (d.enc e).frame.elim false (fun f => decide (d.tb.n < f.stop))

/-- An acknowledgement leaves on encode lane `e`. -/
def Dev.sendAck (d : Dev) (l e : Nat) (a : AckOwed) : Dev :=
  let len := d.ackLen a.grp a.gi
  let pending := d.pendingFor e a (d.tb.n + len)
  let fc := fcAck a.gi (d.node a.nh).saddr 0 pending a.bitmap a.aseq
  let s := wholeFrame (d.profile a.grp) (d.maskOf a.grp) (d.fld (Reg.ffCtrl a.grp) 21 16) fc false ([], [])
  let d := d.modNode a.nh (fun n => { n with pendDl := pending })
  let d := d.startFrame e { fc := fc, grp := a.grp, nh := a.nh, msdu := 0, form := 0, rate := 0, symbols := s.1, stream1 := []
                            tw := d.twCode a.grp, fcs := fcSymbols (d.profile a.grp) (d.maskOf a.grp), mimo := d.mimoBound e
                            late := [], badS := [], start := d.tb.n, stop := d.tb.n + len }
  d.trace a.clid 0x05 stOk d.mpt
    { TraceInfo.of a.nh a.grp with lane := l, seq := a.aseq, bitmap := a.bitmap, level := a.level }

/-- What an acknowledgement that leaves changes: its encode lane, and the `PENDING` last told to the node. -/
structure AckSent (d b : Dev) (e : Nat) (a : AckOwed) (f : TxFrame) (pending : Bool) : Prop where
  lane : AtEnc e (d.modNode a.nh (fun n => { n with pendDl := pending })) b
  frame : (b.enc e).frame = some f
  start : f.start = d.tb.n
  stop : f.stop = d.tb.n + d.ackLen a.grp a.gi
  fc : f.fc = fcAck a.gi (d.node a.nh).saddr 0 pending a.bitmap a.aseq

theorem sendAck_sent (d : Dev) (l e : Nat) (a : AckOwed) :
    ∃ f, AckSent d (d.sendAck l e a) e a f (d.pendingFor e a (d.tb.n + d.ackLen a.grp a.gi)) := by
  unfold Dev.sendAck
  extract_lets len pending fc s told sent
  have htold : told = d.modNode a.nh (fun n => { n with pendDl := pending }) := rfl
  obtain ⟨f, hsent, hstart, hstop, hfc⟩ : ∃ f : TxFrame, sent = told.startFrame e f ∧ f.start = d.tb.n ∧
      f.stop = d.tb.n + d.ackLen a.grp a.gi ∧ f.fc = fc := ⟨_, rfl, rfl, rfl, rfl⟩
  have htrace := trace_reports sent a.clid 0x05 stOk sent.mpt
    { TraceInfo.of a.nh a.grp with lane := l, seq := a.aseq, bitmap := a.bitmap, level := a.level }
  have hlane : AtEnc e told sent := by
    rw [hsent]
    exact (modEnc_atEnc told e _).trans ((startFrame_onlyPorts told e f).atEnc e)
  have hframe : (sent.enc e).frame = some f := by
    rw [hsent, (startFrame_onlyPorts told e f).enc, enc_modEnc_same]
  refine ⟨f, htold ▸ (hlane.trans (htrace.atEnc e)), ?_, hstart, hstop, hfc⟩
  rw [htrace.enc]
  exact hframe

section
variable {d : Dev} {l : Nat} {a : AckOwed} (hrun : d.dev = .run) (hack : (d.dec l).ack = some a)
  (hlate : a.due ≤ d.tb.n + usSamples 1) (hearly : d.tb.n ≤ a.due + usSamples 1)
include hrun hack hlate hearly

theorem ackTxEffect_noLane (hlane : d.ackLane (d.dec l) = none) : ackTxEffect l d = d.ackGone l := by
  have hdue : ¬ (d.dev ≠ .run ∨ d.tb.n + usSamples 1 < a.due ∨ a.due + usSamples 1 < d.tb.n) := by
    rintro (h | h | h)
    · exact h hrun
    · omega
    · omega
  unfold ackTxEffect
  dsimp only
  rw [hack]
  dsimp only
  rw [if_neg hdue, show (d.modDec l (fun x => { x with ack := none })).ackLane (d.dec l) = none from hlane]
  rfl

variable {e : Nat} (hlane : d.ackLane (d.dec l) = some e)
include hlane

theorem ackTxEffect_lane :
    let g := d.ackGone l
    ackTxEffect l d =
      if g.laneSends e then g
      else if (g.gateFrame (g.enc e).outs (g.ackLen a.grp a.gi)).1 then g.sendAck l e a
      else (g.gateFrame (g.enc e).outs (g.ackLen a.grp a.gi)).2 := by
  have hdue : ¬ (d.dev ≠ .run ∨ d.tb.n + usSamples 1 < a.due ∨ a.due + usSamples 1 < d.tb.n) := by
    rintro (h | h | h)
    · exact h hrun
    · omega
    · omega
  have hgone : d.modDec l (fun x => { x with ack := none }) = d.ackGone l := rfl
  have hlane' : (d.ackGone l).ackLane (d.dec l) = some e := hlane
  intro g
  unfold ackTxEffect
  dsimp only
  rw [hack]
  dsimp only
  rw [if_neg hdue, hgone, hlane']
  dsimp only
  rw [show d.ackGone l = g from rfl]
  clear_value g
  unfold Dev.laneSends
  by_cases hg : (g.gateFrame (g.enc e).outs (g.ackLen a.grp a.gi)).1 = true
  · rw [hg, gateFrame_pass hg]
    cases (g.enc e).frame with
    | none => rfl
    | some f => rfl
  · rw [Bool.not_eq_true] at hg
    rw [hg]
    cases (g.enc e).frame with
    | none => rfl
    | some f => rfl

end

theorem ackTx_fresh (l : Fin 96) (w : LaneWrites) (parity : Bool) (s : State) :
    ∃ t, exec (.ackTx l w parity) s = .next t ∧ t.pending = s.pending ∧
      t.dev = ((ackTxEffect l s.dev.fresh).withWrites s.dev.fresh ((s.dev.ackLane (s.dev.dec l)).getD 96) w parity).fresh :=
  run_fresh (fun d => (ackTxEffect l.val d).withWrites d ((d.ackLane (d.dec l.val)).getD 96) w parity) s

section
variable {s : State} {l : Fin 96} {a : AckOwed} (w : LaneWrites) (parity : Bool)

/-- An acknowledgement that is not sent is owed no more. -/
theorem ackTx_unsent (heff : Reports (s.dev.ackGone l) (ackTxEffect l s.dev.fresh)) :
    Reaches (exec (.ackTx l w parity) s) s (s.dev.ackGone l) := by
  obtain ⟨t, ht, hp, hdev⟩ := ackTx_fresh l w parity s
  have hsame : ∀ e, ((ackTxEffect l s.dev.fresh).enc e).frame = (s.dev.fresh.enc e).frame := fun e => congrArg EncLane.frame (heff.enc e)
  rw [withWrites_same _ _ _ _ _ (hsame _)] at hdev
  exact ⟨t, ht, hdev ▸ (heff.trans (fresh_reports _)), hp⟩

variable (hrun : s.dev.dev = .run) (hack : (s.dev.dec l).ack = some a) (hlate : a.due ≤ s.dev.tb.n + usSamples 1)
  (hearly : s.dev.tb.n ≤ a.due + usSamples 1)
include hrun hack hlate hearly

theorem ackTx_noLane (hlane : s.dev.ackLane (s.dev.dec l) = none) : Reaches (exec (.ackTx l w parity) s) s (s.dev.ackGone l) := by
  refine ackTx_unsent w parity ?_
  rw [ackTxEffect_noLane (d := s.dev.fresh) hrun hack hlate hearly hlane]
  exact ⟨rfl, fun _ _ => rfl⟩

variable {e : Nat} (hlane : s.dev.ackLane (s.dev.dec l) = some e)
include hlane

theorem ackTx_busy {f : TxFrame} (hf : (s.dev.enc e).frame = some f) (hstop : s.dev.tb.n < f.stop) :
    Reaches (exec (.ackTx l w parity) s) s (s.dev.ackGone l) := by
  have hbusy : (s.dev.fresh.ackGone l).laneSends e = true := by
    rw [Dev.laneSends, show ((s.dev.fresh.ackGone l).enc e).frame = some f from hf]
    exact decide_eq_true hstop
  refine ackTx_unsent w parity ?_
  rw [ackTxEffect_lane (d := s.dev.fresh) hrun hack hlate hearly hlane, hbusy, if_pos rfl]
  exact ⟨rfl, fun _ _ => rfl⟩

variable (hidle : ∀ f, (s.dev.enc e).frame = some f → f.stop ≤ s.dev.tb.n)
include hidle

omit hrun hack hlate hearly hlane in
theorem ackTx_idle : (s.dev.fresh.ackGone l).laneSends e = false := by
  rw [Dev.laneSends, show ((s.dev.fresh.ackGone l).enc e).frame = (s.dev.enc e).frame from rfl]
  cases hf : (s.dev.enc e).frame with
  | none => rfl
  | some f => exact decide_eq_false (Nat.not_lt.2 (hidle f hf))

theorem ackTx_kept_off (hg : (s.dev.fresh.gateFrame (s.dev.enc e).outs (s.dev.ackLen a.grp a.gi)).1 = false) :
    Reaches (exec (.ackTx l w parity) s) s (s.dev.ackGone l) := by
  have hgate : ((s.dev.fresh.ackGone l).gateFrame ((s.dev.fresh.ackGone l).enc e).outs ((s.dev.fresh.ackGone l).ackLen a.grp a.gi)).1 = false := hg
  refine ackTx_unsent w parity ?_
  rw [ackTxEffect_lane (d := s.dev.fresh) hrun hack hlate hearly hlane, ackTx_idle hidle,
    if_neg Bool.false_ne_true, hgate, if_neg Bool.false_ne_true]
  exact Reports.trans ⟨rfl, fun _ _ => rfl⟩ (gateFrame_reports _ _ _)

theorem ackTx_sent (hg : (s.dev.fresh.gateFrame (s.dev.enc e).outs (s.dev.ackLen a.grp a.gi)).1 = true) :
    ∃ t f pending, exec (.ackTx l w parity) s = .next t ∧ t.pending = s.pending ∧ (t.dev.dec l).ack = none ∧
      (t.dev.enc e).frame = some f ∧ f.start = s.dev.tb.n ∧ f.stop = s.dev.tb.n + s.dev.ackLen a.grp a.gi ∧
      f.fc = fcAck a.gi (s.dev.node a.nh).saddr 0 pending a.bitmap a.aseq ∧ (t.dev.node a.nh).pendDl = pending ∧
      ∀ h, h ≠ a.nh → t.dev.node h = s.dev.node h := by
  obtain ⟨t, ht, hp, hdev⟩ := ackTx_fresh l w parity s
  have hgate : ((s.dev.fresh.ackGone l).gateFrame ((s.dev.fresh.ackGone l).enc e).outs ((s.dev.fresh.ackGone l).ackLen a.grp a.gi)).1 = true := hg
  rw [ackTxEffect_lane (d := s.dev.fresh) hrun hack hlate hearly hlane, ackTx_idle hidle,
    if_neg Bool.false_ne_true, hgate, if_pos rfl, hlane, Option.getD_some] at hdev
  obtain ⟨g, hgdef⟩ : ∃ g, g = s.dev.fresh.ackGone l := ⟨_, rfl⟩
  have hnone : (g.dec l).ack = none := by
    rw [hgdef, Dev.ackGone, dec_modDec_same]
  have hnode : ∀ h, g.node h = s.dev.node h := fun h => hgdef ▸ rfl
  have hn : g.tb.n = s.dev.tb.n := hgdef ▸ rfl
  have hlen : g.ackLen a.grp a.gi = s.dev.ackLen a.grp a.gi := hgdef ▸ rfl
  rw [← hgdef] at hdev
  obtain ⟨f, hsent⟩ := sendAck_sent g l e a
  generalize g.pendingFor e a (g.tb.n + g.ackLen a.grp a.gi) = pending at hsent
  generalize g.sendAck l e a = b at hsent hdev
  obtain ⟨hat, hframe, hstart, hstop, hfc⟩ := hsent
  obtain ⟨y, hy, hsheer⟩ := withWrites_frame s.dev.fresh e w parity hframe
  have hall : AtEnc e (g.modNode a.nh (fun n => { n with pendDl := pending })) t.dev := by
    rw [hdev]
    exact (hat.trans (withWrites_atEnc _ _ e w parity)).trans ((fresh_reports _).atEnc e)
  have hnodes : ∀ h, t.dev.node h = (g.modNode a.nh (fun n => { n with pendDl := pending })).node h := fun h => hall.1.node h
  refine ⟨t, y, pending, ht, hp, ?_, ?_, ?_, ?_, ?_, ?_, fun h hne => ?_⟩
  · rw [hall.1.dec]
    exact hnone
  · rw [hdev]
    exact hy
  · exact ((congrArg TxFrame.start hsheer).trans hstart).trans hn
  · rw [← hn, ← hlen]
    exact (congrArg TxFrame.stop hsheer).trans hstop
  · rw [← hnode]
    exact (congrArg TxFrame.fc hsheer).trans hfc
  · rw [hnodes, node_modNode_same]
  · rw [hnodes, node_modNode_ne hne, hnode]

end

/-! ### ACK_RECEIVED (11 R287, R288) -/

theorem statusOff_lrCtrl (g : Nat) : statusOff (Reg.lrCtrl g) = false := statusOff_groupCfg (o := 0x1200) (by decide) (by decide) (by decide) g

theorem Reports.txTries {a b : Dev} (h : Reports a b) (g : Nat) : b.txTries g = a.txTries g := h.fld (statusOff_lrCtrl g) 20 16

/-- The blocks of an MSDU that a bitmap does not report. -/
def Msdu.leftOf (m : Msdu) (bitmap : Nat) : List Block := m.blocks.filter (fun b => !(ackedOf m.sent bitmap).contains b.idx)

/-- A transmission judged: the MSDU without its reported blocks is over, waits for its span to end, has no try left, or is sent again. -/
def Dev.judgeAcked (d : Dev) (m : Msdu) (left : List Block) : Dev :=
  let m' := { m with blocks := left, sent := [] }
  let out := d.modNode m.nh (fun n => { n with cur := none })
  if m'.blocks.isEmpty then out.finishMsdu { m' with spanEnd := none } stOk
  else if m.ending.isSome then d.modNode m.nh (fun n => { n with cur := some m' })
  else if d.txTries m.grp ≤ m.tries then out.finishMsdu { m' with spanEnd := none } stNoAck
  else d.modNode m.nh (fun n => { n with cur := some { m' with spanEnd := none } })

/-- What an acknowledgement leaves but for the MSDU judged: the nodes and the settings as they are. -/
theorem acknowledge_eq (d : Dev) (m : Msdu) (bitmap : Nat) :
    ∃ e : Dev, e.nodes = d.nodes ∧ e.decs = d.decs ∧ e.txTries m.grp = d.txTries m.grp ∧
      d.acknowledge m bitmap = (e.judgeAcked m (m.leftOf bitmap)).markGroup m.grp := by
  unfold Dev.acknowledge
  extract_lets good freed info traced m' out judged
  have htraced : Reports freed traced := trace_reports _ _ _ _ _ _
  have hn : traced.nodes = d.nodes := htraced.nodes
  have ht : traced.txTries m.grp = d.txTries m.grp := htraced.txTries m.grp
  have hj : judged = traced.judgeAcked m (m.leftOf bitmap) := by
    simp only [judged, out, m']
    clear_value traced
    rfl
  exact ⟨traced, hn, htraced.decs, ht, congrArg (fun x : Dev => x.markGroup m.grp) hj⟩

section
variable {d : Dev} {m : Msdu} {left : List Block}

/-- A node whose unacknowledged MSDU leaves has none once that has ended. -/
theorem finished_idle (d : Dev) (nh : Nat) (m : Msdu) (st : Nat) :
    (((d.modNode nh (fun n => { n with cur := none })).finishMsdu m st).node nh).cur = none :=
  (finishMsdu_staysIdle _ m st).idle nh (by rw [node_modNode_same])

theorem judgeAcked_over (d : Dev) (m : Msdu) : ((d.judgeAcked m []).node m.nh).cur = none := by
  unfold Dev.judgeAcked
  dsimp only
  rw [if_pos (by rfl)]
  exact finished_idle d m.nh _ stOk

theorem judgeAcked_left (hleft : left ≠ []) (hend : m.ending = none) :
    d.judgeAcked m left =
      if d.txTries m.grp ≤ m.tries then (d.modNode m.nh (fun n => { n with cur := none })).finishMsdu
        { m with blocks := left, sent := [], spanEnd := none } stNoAck
      else d.modNode m.nh (fun n => { n with cur := some { m with blocks := left, sent := [], spanEnd := none } }) := by
  have hsome : ¬ left.isEmpty = true := fun h => hleft (List.isEmpty_iff.1 h)
  have hnone : ¬ m.ending.isSome = true := by
    rw [hend]
    decide
  exact (if_neg hsome).trans (if_neg hnone)

end

/-- A decode lane's accepted acknowledgement is judged. -/
def Dev.ackTaken (d : Dev) (l : Nat) : Dev := d.modDec l (fun x => { x with ackIn := none })

section
variable {d : Dev} {l : Nat} {f : RxFrame} {hop : Nat} (hrun : d.dev = .run) (hack : (d.dec l).ackIn = some f) (hhop : f.nh = some hop)
include hrun hack hhop

theorem ackReceivedEffect_odd (hw : d.awaiting hop (fcAseq f.fc) = none) :
    ackReceivedEffect l d = (d.ackTaken l).modGroup f.grp (fun x => { x with acksOdd := x.acksOdd + 1 }) := by
  have hw' : (d.ackTaken l).awaiting hop (fcAseq f.fc) = none := hw
  unfold ackReceivedEffect
  rw [hack]
  dsimp only
  rw [if_neg (not_not.2 hrun), hhop]
  dsimp only
  rw [show d.modDec l (fun x => { x with ackIn := none }) = d.ackTaken l from rfl, hw']

theorem ackReceivedEffect_answers {m : Msdu} (hw : d.awaiting hop (fcAseq f.fc) = some m) :
    ackReceivedEffect l d = ((d.ackTaken l).modNode hop (fun n => { n with
      pendUl := fcPending f.fc, ulAsk := n.ulAsk || fcPending f.fc })).acknowledge m (fcBitmap f.fc) := by
  have hw' : (d.ackTaken l).awaiting hop (fcAseq f.fc) = some m := hw
  unfold ackReceivedEffect
  rw [hack]
  dsimp only
  rw [if_neg (not_not.2 hrun), hhop]
  dsimp only
  rw [show d.modDec l (fun x => { x with ackIn := none }) = d.ackTaken l from rfl, hw']

end

/-- The judging of a transmission changes no decode lane. -/
theorem judgeAcked_decs (d : Dev) (m : Msdu) (left : List Block) : (d.judgeAcked m left).decs = d.decs := by
  have ended : ∀ (x : Msdu) (st : Nat), ((d.modNode m.nh (fun n => { n with cur := none })).finishMsdu x st).decs = d.decs :=
    fun x st => (finishMsdu_staysIdle _ x st).decs
  unfold Dev.judgeAcked
  dsimp only
  split
  · exact ended _ _
  · split
    · rfl
    · split
      · exact ended _ _
      · rfl

section
variable {s : State} {l : Fin 96} {f : RxFrame} {hop : Nat} (hrun : s.dev.dev = .run) (hack : (s.dev.dec l).ackIn = some f)
  (hhop : f.nh = some hop)
include hrun hack hhop

theorem ackReceived_odd (hw : s.dev.awaiting hop (fcAseq f.fc) = none) :
    ∃ t, exec (.ackReceived l) s = .next t ∧ t.pending = s.pending ∧ (t.dev.dec l).ackIn = none ∧ t.dev.nodes = s.dev.nodes := by
  obtain ⟨t, ht, hp, hdev⟩ := run_fresh (ackReceivedEffect l) s
  rw [ackReceivedEffect_odd (d := s.dev.fresh) hrun hack hhop hw] at hdev
  refine ⟨t, ht, hp, ?_, ?_⟩
  · rw [hdev]
    exact congrArg DecLane.ackIn (dec_modDec_same s.dev.fresh l (fun x => { x with ackIn := none }))
  · rw [hdev]
    rfl

theorem ackReceived_answers {m : Msdu} (hw : s.dev.awaiting hop (fcAseq f.fc) = some m) :
    let left := m.leftOf (fcBitmap f.fc)
    ∃ t, exec (.ackReceived l) s = .next t ∧ t.pending = s.pending ∧ (t.dev.dec l).ackIn = none ∧
      (left = [] → (t.dev.node m.nh).cur = none) ∧
      (left ≠ [] → m.ending = none → m.tries < s.dev.txTries m.grp →
        (t.dev.node m.nh).cur = some { m with blocks := left, sent := [], spanEnd := none } ∧
        ∀ h, h ≠ m.nh → h ≠ hop → t.dev.node h = s.dev.node h) ∧
      (left ≠ [] → m.ending = none → s.dev.txTries m.grp ≤ m.tries → (t.dev.node m.nh).cur = none) := by
  intro left
  obtain ⟨t, ht, hp, hdev⟩ := run_fresh (ackReceivedEffect l) s
  rw [ackReceivedEffect_answers (d := s.dev.fresh) hrun hack hhop hw] at hdev
  obtain ⟨told, htold⟩ : ∃ x, x = (s.dev.fresh.ackTaken l).modNode hop (fun n => { n with
      pendUl := fcPending f.fc, ulAsk := n.ulAsk || fcPending f.fc }) := ⟨_, rfl⟩
  have hlane : (told.dec l).ackIn = none := by
    rw [htold]
    exact congrArg DecLane.ackIn (dec_modDec_same s.dev.fresh l (fun x => { x with ackIn := none }))
  have hnode : ∀ h, h ≠ hop → told.node h = s.dev.node h := fun h hne => by
    rw [htold, node_modNode_ne hne]
    rfl
  have htries : told.txTries m.grp = s.dev.txTries m.grp := htold ▸ rfl
  rw [← htold] at hdev
  obtain ⟨e, hn, hd, htr, heq⟩ := acknowledge_eq told m (fcBitmap f.fc)
  rw [htries] at htr
  have htail : Reports (e.judgeAcked m left) t.dev := by
    rw [hdev, heq]
    exact (markGroup_reports _ _).trans (fresh_reports _)
  refine ⟨t, ht, hp, ?_, fun hl => ?_, fun hl he hlt => ?_, fun hl he hle => ?_⟩
  · rw [Dev.dec, htail.decs, judgeAcked_decs, hd]
    exact hlane
  · rw [htail.node, hl]
    exact judgeAcked_over e m
  · rw [judgeAcked_left hl he, if_neg (by rw [htr]; omega)] at htail
    refine ⟨by rw [htail.node, node_modNode_same], fun h h1 h2 => ?_⟩
    rw [htail.node, node_modNode_ne h1, Dev.node, hn]
    exact hnode h h2
  · rw [judgeAcked_left hl he, if_pos (by rw [htr]; exact hle)] at htail
    rw [htail.node]
    exact finished_idle e m.nh _ stNoAck

end

/-! ### ACK_TIMEOUT and MSDU_LIFE_EXPIRY (11 R285, Table LR.8) -/

section
variable {d : Dev} {nh : Nat} {m : Msdu} (hc : d.dev.clocked = true) (hcur : (d.node nh).cur = some m)
include hcur

theorem ackTimeoutEffect_early {e : Nat} (he : m.spanEnd = some e) (hn : d.tb.n < e) : ackTimeoutEffect nh d = d := by
  unfold ackTimeoutEffect
  rw [hcur]
  dsimp only
  rw [he]
  exact if_pos (.inr hn)

include hc

/-- The end of an ACK span is judged: the MSDU ends as it was to end, has no try left, or is sent again. -/
theorem ackTimeoutEffect_due {e : Nat} (he : m.spanEnd = some e) (hn : e ≤ d.tb.n) :
    ∃ x : Dev, Reports d x ∧
      (∀ st, m.ending = some st → ackTimeoutEffect nh d =
        (x.modNode nh (fun n => { n with cur := none })).finishMsdu { m with sent := [], spanEnd := none } st) ∧
      (m.ending = none → ackTimeoutEffect nh d =
        if x.txTries m.grp ≤ m.tries then
          (x.modNode nh (fun n => { n with cur := none })).finishMsdu { m with sent := [], spanEnd := none } stNoAck
        else x.modNode nh (fun n => { n with cur := some { m with sent := [], spanEnd := none } })) := by
  have hdue : ¬ ((!d.dev.clocked) = true ∨ d.tb.n < e) := by
    rw [hc]
    rintro (h | h)
    · cases h
    · omega
  obtain ⟨x, hx⟩ : ∃ x, x = if m.sent = [] then d
      else d.trace m.clid 0x13 stNoAck d.mpt { TraceInfo.of m.nh m.grp with seq := m.seq, try_ := m.tries } := ⟨_, rfl⟩
  have hr : Reports d x := hx ▸ ite_reports (Reports.refl d) (trace_reports _ _ _ _ _ _)
  refine ⟨x, hr, fun st hst => ?_, fun hst => ?_⟩
  · unfold ackTimeoutEffect
    rw [hcur]
    dsimp only
    rw [he]
    dsimp only
    rw [if_neg hdue, ← hx, hst]
  · unfold ackTimeoutEffect
    rw [hcur]
    dsimp only
    rw [he]
    dsimp only
    rw [if_neg hdue, ← hx, hst]

theorem msduLifeExpiryEffect_due (hend : m.ending = none) (hlife : d.fld (Reg.lrCtrl m.grp) 15 8 ≤ d.lived m) :
    msduLifeExpiryEffect nh d =
      if m.spanEnd.isSome then d.modNode nh (fun n => { n with cur := some { m with ending := some stNoAck } })
      else (d.modNode nh (fun n => { n with cur := none })).finishMsdu m stNoAck := by
  have hdue : ¬ ((!d.dev.clocked) = true ∨ m.ending.isSome = true ∨ d.lived m < d.fld (Reg.lrCtrl m.grp) 15 8) := by
    rw [hc, hend]
    rintro (h | h | h)
    · cases h
    · cases h
    · omega
  unfold msduLifeExpiryEffect
  rw [hcur]
  exact if_neg hdue

end

section
variable {s : State} {nh : Fin 16384} {m : Msdu} (hcur : (s.dev.node nh).cur = some m)
include hcur

theorem ackTimeout_early {e : Nat} (he : m.spanEnd = some e) (hn : s.dev.tb.n < e) : Reaches (exec (.ackTimeout nh) s) s s.dev := by
  have hr : Reports s.dev (ackTimeoutEffect nh s.dev.fresh) := by
    rw [ackTimeoutEffect_early (d := s.dev.fresh) hcur he hn]
    exact fresh_reports s.dev
  exact run_reaches hr

variable (hc : s.dev.dev.clocked = true)
include hc

theorem ackTimeout_due {e : Nat} (he : m.spanEnd = some e) (hn : e ≤ s.dev.tb.n) :
    ∃ t, exec (.ackTimeout nh) s = .next t ∧ t.pending = s.pending ∧
      (m.ending = none → m.tries < s.dev.txTries m.grp →
        (t.dev.node nh).cur = some { m with sent := [], spanEnd := none } ∧ Reports { s.dev with nodes := t.dev.nodes } t.dev) ∧
      (m.ending ≠ none ∨ s.dev.txTries m.grp ≤ m.tries → (t.dev.node nh).cur = none) := by
  obtain ⟨t, ht, hp, hdev⟩ := run_fresh (ackTimeoutEffect nh) s
  obtain ⟨x, hx, hending, hnone⟩ := ackTimeoutEffect_due (d := s.dev.fresh) hc hcur he hn
  have hr : Reports s.dev x := (fresh_reports _).trans hx
  refine ⟨t, ht, hp, fun hend hlt => ?_, fun h => ?_⟩
  · rw [hnone hend, hr.txTries, if_neg (by omega)] at hdev
    obtain ⟨y, hy⟩ : ∃ y, y = x.modNode nh (fun n => { n with cur := some { m with sent := [], spanEnd := none } }) := ⟨_, rfl⟩
    have hry : Reports { s.dev with nodes := y.nodes } y := by
      rw [hy]
      exact hr.set_nodes _
    have hcury : (y.node nh).cur = some { m with sent := [], spanEnd := none } := by rw [hy, node_modNode_same]
    rw [← hy] at hdev
    rw [hdev]
    exact ⟨hcury, hry.trans (fresh_reports y)⟩
  · rw [hdev, fresh_node]
    cases hend : m.ending with
    | some st =>
      rw [hending st hend]
      exact finished_idle x nh _ st
    | none =>
      rw [hnone hend, hr.txTries, if_pos (h.resolve_left (fun hne => hne hend))]
      exact finished_idle x nh _ stNoAck

theorem msduLifeExpiry_flying (hend : m.ending = none) (hlife : s.dev.fld (Reg.lrCtrl m.grp) 15 8 ≤ s.dev.lived m)
    (hfly : m.spanEnd ≠ none) :
    Reaches (exec (.msduLifeExpiry nh) s) s (s.dev.modNode nh (fun n => { n with cur := some { m with ending := some stNoAck } })) := by
  refine run_reaches (f := msduLifeExpiryEffect nh) ?_
  rw [msduLifeExpiryEffect_due (d := s.dev.fresh) hc hcur hend hlife, if_pos (Option.isSome_iff_ne_none.2 hfly)]
  exact (fresh_reports s.dev).modNode _ _

theorem msduLifeExpiry_ends (hend : m.ending = none) (hlife : s.dev.fld (Reg.lrCtrl m.grp) 15 8 ≤ s.dev.lived m)
    (hspan : m.spanEnd = none) :
    ∃ t, exec (.msduLifeExpiry nh) s = .next t ∧ t.pending = s.pending ∧ (t.dev.node nh).cur = none := by
  obtain ⟨t, ht, hp, hdev⟩ := run_fresh (msduLifeExpiryEffect nh) s
  rw [msduLifeExpiryEffect_due (d := s.dev.fresh) hc hcur hend hlife, hspan, if_neg (by decide)] at hdev
  refine ⟨t, ht, hp, ?_⟩
  rw [hdev, fresh_node]
  exact finished_idle s.dev.fresh nh m stNoAck

end

/-- Settles O56: acknowledgements sent, received and missed. -/
theorem acknowledgements : Obligations.Acknowledgements := by
  intro s
  refine ⟨fun l a w parity hrun hack hlate hearly => ?_, fun l f hrun hack => ⟨fun hop hhop hw => ackReceived_odd hrun hack hhop hw,
    fun hop m hhop hw => ackReceived_answers hrun hack hhop hw⟩, fun nh m hc hcur => ⟨fun e he hn => ackTimeout_early hcur he hn,
    fun e he hn => ackTimeout_due hcur hc he hn, fun hend hlife => ⟨msduLifeExpiry_flying hcur hc hend hlife,
    msduLifeExpiry_ends hcur hc hend hlife⟩⟩⟩
  exact ⟨ackTx_noLane w parity hrun hack hlate hearly,
    fun e f hlane hf hstop => ackTx_busy w parity hrun hack hlate hearly hlane hf hstop,
    fun e hlane hidle => ⟨ackTx_kept_off w parity hrun hack hlate hearly hlane hidle,
      ackTx_sent w parity hrun hack hlate hearly hlane hidle⟩⟩

end Sys2Proof.Machine
end
